-- ==== Sys2Proof/Word.lean ====
section
/-! DEFINITION. The word types of the model. -/

namespace Sys2Proof

/-- A 64-bit unit of the Control Address Space, of a channel message or of a general register (R1). -/
abbrev Word := BitVec 64

/-- A byte of a memory, a frame or a packet. -/
abbrev Byte := BitVec 8

end Sys2Proof
end

