-- ==== Sys2Proof/Syntax.lean ====
section
/-! DEFINITION. The commands of the block: one constructor for every row of spec/opcode_table.json. A command is what the outside or
the part's own sequencers bring about in one indivisible step (spec/95_what_each_step_holds.md): a Fecia instruction that a thread
issues, the service of an engine request, a register write, a command word, a frame or a TLP that arrives, a timer that runs out.
The operands say which object the step concerns and what the outside supplies; `mbz` holds the fields of an instruction word that must
be 0 (R76), `k` a position where the docstring does not say otherwise. -/

namespace Sys2Proof

/-- A Mill (R65). -/
abbrev MillNo := Fin 16

/-- A thread of a Mill (R65). -/
abbrev ThreadNo := Fin 256

/-- A general register (R66). -/
abbrev RegNo := Fin 32

/-- A channel number (R112). -/
abbrev ChanNo := Fin 1024

/-- An Ethernet port (R245). -/
abbrev PortNo := Fin 16

/-- A port group (R245). -/
abbrev GroupNo := Fin 4

/-- What begins a transmission on the wire (R252, R259): an express frame; the first or a further fragment of a preemptable frame, with the
frame's number and the fragment's count; a verify or a respond mPacket. -/
inductive Smd where
  | express
  | start (no : Fin 4)
  | cont (no count : Fin 4)
  | verify
  | respond
  deriving DecidableEq, Repr

/-- An endpoint, or the Table Engine of a side: 0 is A, 1 is B. -/
abbrev EpNo := Fin 2

/-- The spaces of an endpoint that an inbound request may name (R324-R327, R331): the configuration space of a function, the BARs of Table 12-5,
the expansion ROM. -/
inductive HostSpace where
  | config (f : Fin 2)
  | f0bar0
  | f1bar0
  | f1bar2
  | bar4
  | rom
  deriving DecidableEq, Repr

/-- A slice (R345). -/
abbrev SliceNo := Fin 8192

/-- A queue pair, or a shaped queue of the Traffic Manager. -/
abbrev QpNo := Fin 65536

/-- A QDR channel (R394). -/
abbrev QdrNo := Fin 8

/-- An entry of the Scheduled Action Table (R51). -/
abbrev SatNo := Fin 1024

/-- An execution context of command words (R406): 0 and 1 the mailboxes, 2 to 9 and 10 to 17 the command queues of HA and HB, 18 the
ports, 19 the I2C target, 20 the debug port. -/
abbrev CtxNo := Fin 21

/-- A pin that holds the whole device in reset (R460, R491). -/
inductive ResetPin where
  | rstN
  | pwrOk
  | testMode
  deriving DecidableEq, Repr

/-- CP_RESET_CAUSE.CAUSE of a cold reset by a pin (Table 18-1). -/
def ResetPin.cause : ResetPin → Nat
  | .rstN => 2
  | .pwrOk => 3
  | .testMode => 6

/-- A PLL that loses lock: of the Fantail, of the lanes of a port group, of an endpoint's link, or of an island (R470). -/
inductive Pll where
  | fantail
  | lane (g : GroupNo)
  | link (e : EpNo)
  | island (n : Fin 25)
  deriving DecidableEq, Repr

/-- A command. Within this list the commands with operands come first, in the table's order; then the register writes that have a row
of their own; then the commands without an operand. -/
inductive Instr where
  /-- ADD (R81): Register ALU instruction that writes ra + rb to rd. -/
  | add (m : MillNo) (t : ThreadNo) (rd ra rb : RegNo)
  /-- SUB (R81): Register ALU instruction that writes ra − rb to rd. -/
  | sub (m : MillNo) (t : ThreadNo) (rd ra rb : RegNo)
  /-- AND (R81): Register ALU instruction that writes the bitwise AND of ra and rb to rd. -/
  | and (m : MillNo) (t : ThreadNo) (rd ra rb : RegNo)
  /-- OR (R81): Register ALU instruction that writes the bitwise OR of ra and rb to rd. -/
  | or (m : MillNo) (t : ThreadNo) (rd ra rb : RegNo)
  /-- XOR (R81): Register ALU instruction that writes the bitwise XOR of ra and rb to rd. -/
  | xor (m : MillNo) (t : ThreadNo) (rd ra rb : RegNo)
  /-- ANDN (R81): Register ALU instruction that writes ra AND NOT rb to rd. -/
  | andn (m : MillNo) (t : ThreadNo) (rd ra rb : RegNo)
  /-- SLL (R81): Register ALU instruction that shifts ra left by rb[5:0]. -/
  | sll (m : MillNo) (t : ThreadNo) (rd ra rb : RegNo)
  /-- SRL (R81): Register ALU instruction that shifts ra right by rb[5:0], filling with zeros. -/
  | srl (m : MillNo) (t : ThreadNo) (rd ra rb : RegNo)
  /-- SRA (R81): Register ALU instruction that shifts ra right by rb[5:0], filling with the sign bit. -/
  | sra (m : MillNo) (t : ThreadNo) (rd ra rb : RegNo)
  /-- ROL (R81): Register ALU instruction that rotates ra left by rb[5:0]. -/
  | rol (m : MillNo) (t : ThreadNo) (rd ra rb : RegNo)
  /-- MIN (R81): Register ALU instruction that writes the signed minimum of ra and rb. -/
  | min (m : MillNo) (t : ThreadNo) (rd ra rb : RegNo)
  /-- MAX (R81): Register ALU instruction that writes the signed maximum of ra and rb. -/
  | max (m : MillNo) (t : ThreadNo) (rd ra rb : RegNo)
  /-- MINU (R81): Register ALU instruction that writes the unsigned minimum of ra and rb. -/
  | minu (m : MillNo) (t : ThreadNo) (rd ra rb : RegNo)
  /-- MAXU (R81): Register ALU instruction that writes the unsigned maximum of ra and rb. -/
  | maxu (m : MillNo) (t : ThreadNo) (rd ra rb : RegNo)
  /-- SLT (R81): Register ALU instruction that writes 1 if ra < rb as signed values, else 0. -/
  | slt (m : MillNo) (t : ThreadNo) (rd ra rb : RegNo)
  /-- SLTU (R81): Register ALU instruction that writes 1 if ra < rb as unsigned values, else 0. -/
  | sltu (m : MillNo) (t : ThreadNo) (rd ra rb : RegNo)
  /-- SEQ (R81): Register ALU instruction that writes 1 if ra equals rb, else 0. -/
  | seq (m : MillNo) (t : ThreadNo) (rd ra rb : RegNo)
  /-- MUL (R81): Register ALU instruction that writes the low 64 bits of ra × rb, with latency 3. -/
  | mul (m : MillNo) (t : ThreadNo) (rd ra rb : RegNo)
  /-- MULHU (R81): Register ALU instruction that writes the high 64 bits of the unsigned product ra × rb. -/
  | mulhu (m : MillNo) (t : ThreadNo) (rd ra rb : RegNo)
  /-- CSUM (R82): Writes the 16-bit ones'-complement sum of ra[15:0] and the four halfwords of rb. -/
  | csum (m : MillNo) (t : ThreadNo) (rd ra rb : RegNo)
  /-- CRC (R82): Advances a CRC32C register held in ra by the 8 bytes of rb, with no inversion. -/
  | crc (m : MillNo) (t : ThreadNo) (rd ra rb : RegNo)
  /-- BSWAP16 (R81): Exchanges the two bytes of ra[15:0] and clears the upper bits. -/
  | bswap16 (m : MillNo) (t : ThreadNo) (rd ra rb : RegNo)
  /-- BSWAP32 (R81): Reverses the byte order of ra[31:0] and clears the upper bits. -/
  | bswap32 (m : MillNo) (t : ThreadNo) (rd ra rb : RegNo)
  /-- BSWAP64 (R81): Reverses the byte order of ra. -/
  | bswap64 (m : MillNo) (t : ThreadNo) (rd ra rb : RegNo)
  /-- CLZ (R81): Counts the leading zero bits of ra, giving 64 for a value of 0. -/
  | clz (m : MillNo) (t : ThreadNo) (rd ra rb : RegNo)
  /-- CTZ (R81): Counts the trailing zero bits of ra, giving 64 for a value of 0. -/
  | ctz (m : MillNo) (t : ThreadNo) (rd ra rb : RegNo)
  /-- POPC (R81): Counts the one bits of ra. -/
  | popc (m : MillNo) (t : ThreadNo) (rd ra rb : RegNo)
  /-- ADDI (R83): Adds the sign-extended imm16 to ra. -/
  | addi (m : MillNo) (t : ThreadNo) (rd ra : RegNo) (imm : BitVec 16)
  /-- ANDI (R83): ANDs ra with the zero-extended imm16. -/
  | andi (m : MillNo) (t : ThreadNo) (rd ra : RegNo) (imm : BitVec 16)
  /-- ORI (R83): ORs ra with the zero-extended imm16. -/
  | ori (m : MillNo) (t : ThreadNo) (rd ra : RegNo) (imm : BitVec 16)
  /-- XORI (R83): XORs ra with the zero-extended imm16. -/
  | xori (m : MillNo) (t : ThreadNo) (rd ra : RegNo) (imm : BitVec 16)
  /-- SLLI (R83): Shifts ra left by an immediate amount. -/
  | slli (m : MillNo) (t : ThreadNo) (rd ra : RegNo) (amount : BitVec 6) (mbz : BitVec 8)
  /-- SRLI (R83): Shifts ra right by an immediate amount, filling with zeros. -/
  | srli (m : MillNo) (t : ThreadNo) (rd ra : RegNo) (amount : BitVec 6) (mbz : BitVec 8)
  /-- SRAI (R83): Shifts ra right by an immediate amount, filling with the sign bit. -/
  | srai (m : MillNo) (t : ThreadNo) (rd ra : RegNo) (amount : BitVec 6) (mbz : BitVec 8)
  /-- ROLI (R83): Rotates ra left by an immediate amount. -/
  | roli (m : MillNo) (t : ThreadNo) (rd ra : RegNo) (amount : BitVec 6) (mbz : BitVec 8)
  /-- MOVZ (R83): Writes imm16 shifted to a halfword position, with all other bits of rd set to zero. -/
  | movz (m : MillNo) (t : ThreadNo) (rd : RegNo) (h : Fin 4) (imm : BitVec 16) (mbz : BitVec 2)
  /-- MOVK (R83): Replaces one halfword of rd with imm16 and keeps the other bits. -/
  | movk (m : MillNo) (t : ThreadNo) (rd : RegNo) (h : Fin 4) (imm : BitVec 16) (mbz : BitVec 2)
  /-- SEQI (R83): Writes 1 if ra equals the sign-extended imm16, else 0. -/
  | seqi (m : MillNo) (t : ThreadNo) (rd ra : RegNo) (imm : BitVec 16)
  /-- SLTIU (R83): Writes 1 if ra is below the zero-extended imm16 as unsigned values, else 0. -/
  | sltiu (m : MillNo) (t : ThreadNo) (rd ra : RegNo) (imm : BitVec 16)
  /-- BEXT (R83): Extracts a bit field of ra, zero-extended. -/
  | bext (m : MillNo) (t : ThreadNo) (rd ra : RegNo) (lsb width1 : BitVec 6) (mbz : BitVec 4)
  /-- BINS (R83): Inserts the low bits of ra into a bit field of rd. -/
  | bins (m : MillNo) (t : ThreadNo) (rd ra : RegNo) (lsb width1 : BitVec 6) (mbz : BitVec 4)
  /-- LD (R84): Loads 1 to 8 bytes from a data space into rd, after the access checks of R70. -/
  | ld (m : MillNo) (t : ThreadNo) (rd ra : RegNo) (sp : Fin 8) (sz : Fin 4) (x : Bool) (off : BitVec 10)
  /-- PACKET_DATA_LOAD_RETURN (R84): A packet data load completes from the bobbin, or ends the thread with ABSENT across a fenced boundary.
  `k` counts the outstanding loads of the thread from the oldest. -/
  | packetDataLoadReturn (m : MillNo) (t : ThreadNo) (k : Fin 4)
  /-- ST (R84): Stores the low bytes of rs to the head window, scratch or Millpond, after the access checks of R70. -/
  | st (m : MillNo) (t : ThreadNo) (rs ra : RegNo) (sp : Fin 8) (sz : Fin 4) (x : Bool) (off : BitVec 10)
  /-- AADD (R85): Atomically adds rb to a Millpond word and returns the old value. -/
  | aadd (m : MillNo) (t : ThreadNo) (rd ra rb : RegNo)
  /-- ASWP (R85): Atomically swaps rb into a Millpond word and returns the old value. -/
  | aswp (m : MillNo) (t : ThreadNo) (rd ra rb : RegNo)
  /-- ACAS (R85): Atomically compares a Millpond word with rd and, when they are equal, stores rb. -/
  | acas (m : MillNo) (t : ThreadNo) (rd ra rb : RegNo)
  /-- AMAXU (R85): Atomically stores the unsigned maximum of a Millpond word and rb. -/
  | amaxu (m : MillNo) (t : ThreadNo) (rd ra rb : RegNo)
  /-- BEQ (R86): Branches if ra equals rb. -/
  | beq (m : MillNo) (t : ThreadNo) (ra rb : RegNo) (target : BitVec 16)
  /-- BNE (R86): Branches if ra differs from rb. -/
  | bne (m : MillNo) (t : ThreadNo) (ra rb : RegNo) (target : BitVec 16)
  /-- BLT (R86): Branches if ra < rb as signed values. -/
  | blt (m : MillNo) (t : ThreadNo) (ra rb : RegNo) (target : BitVec 16)
  /-- BGE (R86): Branches if ra ≥ rb as signed values. -/
  | bge (m : MillNo) (t : ThreadNo) (ra rb : RegNo) (target : BitVec 16)
  /-- BLTU (R86): Branches if ra < rb as unsigned values. -/
  | bltu (m : MillNo) (t : ThreadNo) (ra rb : RegNo) (target : BitVec 16)
  /-- BGEU (R86): Branches if ra ≥ rb as unsigned values. -/
  | bgeu (m : MillNo) (t : ThreadNo) (ra rb : RegNo) (target : BitVec 16)
  /-- JMP (R86): Jumps to target16. -/
  | jmp (m : MillNo) (t : ThreadNo) (target : BitVec 16) (mbz : BitVec 10)
  /-- CALL (R86): Pushes the return address and jumps, or raises EXC_STACK when 8 entries are held. -/
  | call (m : MillNo) (t : ThreadNo) (target : BitVec 16) (mbz : BitVec 10)
  /-- RET (R86): Pops the return stack into pc, or raises EXC_STACK when the stack is empty. -/
  | ret (m : MillNo) (t : ThreadNo) (mbz : BitVec 26)
  /-- JR (R86): Jumps to ra[15:0]. -/
  | jr (m : MillNo) (t : ThreadNo) (ra : RegNo) (mbz : BitVec 21)
  /-- MFS (R87): Reads a special register into rd. -/
  | mfs (m : MillNo) (t : ThreadNo) (rd n : RegNo) (mbz : BitVec 16)
  /-- MTS (R87): Writes a writable special register, PRIO or CS. -/
  | mts (m : MillNo) (t : ThreadNo) (n ra : RegNo) (mbz : BitVec 16)
  /-- TIME (R88): Reads DT and frac from the time replica of the Mill's island. -/
  | time (m : MillNo) (t : ThreadNo) (rd rb : RegNo) (mbz : BitVec 16)
  /-- MTO (R89): Writes ra into an outbox word. -/
  | mto (m : MillNo) (t : ThreadNo) (n : Fin 8) (ra : RegNo) (mbz : BitVec 18)
  /-- MFI (R89): Reads an inbox word into rd. -/
  | mfi (m : MillNo) (t : ThreadNo) (rd : RegNo) (n : Fin 8) (mbz : BitVec 18)
  /-- SEND (R116): Publishes the outbox as one message on a channel, blocking until a credit is free. -/
  | send (m : MillNo) (t : ThreadNo) (ra : RegNo) (chan : BitVec 10) (n1 : Fin 8) (mbz : BitVec 7)
  /-- SENDT (R115): Publishes a message if a credit is free, and otherwise completes at once with NO_CREDIT. -/
  | sendt (m : MillNo) (t : ThreadNo) (ra : RegNo) (chan : BitVec 10) (n1 : Fin 8) (mbz : BitVec 7)
  /-- RECV (R117): Takes the oldest message of a channel into the inbox, blocking while the channel is empty. -/
  | recv (m : MillNo) (t : ThreadNo) (ra : RegNo) (chan : BitVec 10) (mbz : BitVec 10)
  /-- RECVT (R117): Takes a message if one is queued, and otherwise completes at once with NO_MESSAGE. -/
  | recvt (m : MillNo) (t : ThreadNo) (ra : RegNo) (chan : BitVec 10) (mbz : BitVec 10)
  /-- FORK (R103): Takes a FREE thread and starts a helper, or fails with FORK_LIMIT or EMPTY. -/
  | fork (m : MillNo) (t : ThreadNo) (rd : RegNo) (target : BitVec 16) (mbz : BitVec 4)
  /-- FORKW (R103): Forks a helper, waiting in BLOCKED_FORKW when the pool has no FREE thread. -/
  | forkw (m : MillNo) (t : ThreadNo) (rd : RegNo) (target : BitVec 16) (mbz : BitVec 4)
  /-- JOIN (R107): Collects the exit status of a helper, or blocks until the helper ends. -/
  | join (m : MillNo) (t : ThreadNo) (rd ra : RegNo) (mbz : BitVec 16)
  /-- EXIT (R106): Ends the thread with exit status ra[15:0]. -/
  | exit (m : MillNo) (t : ThreadNo) (ra : RegNo) (mbz : BitVec 21)
  /-- VERD (R154): Gives verdict words A and B, ends the root thread and delivers the verdict to the order stage. -/
  | verd (m : MillNo) (t : ThreadNo) (ra rb : RegNo) (mbz : BitVec 16)
  /-- MALF (R157): Declares the packet malformed and ends the root thread, so the malformed action of the Mill applies. -/
  | malf (m : MillNo) (t : ThreadNo) (mbz : BitVec 26)
  /-- BRK (R91): Halts the thread when debug is enabled, and otherwise raises EXC_BREAK. -/
  | brk (m : MillNo) (t : ThreadNo) (imm : BitVec 16) (mbz : BitVec 10)
  /-- THREAD_START (R67): A root, helper or resident thread issues its first instruction once its head window copy and scratch clear are
  complete. -/
  | threadStart (m : MillNo) (t : ThreadNo)
  /-- RECV_DELIVER (R117): A message becomes available, and the longest-waiting receiver of highest priority that is blocked on the channel
  receives it. -/
  | recvDeliver (m : MillNo) (ch : ChanNo) (t : ThreadNo)
  /-- SEND_CREDIT_GRANT (R115): A credit becomes free, and a thread blocked in send publishes its message. -/
  | sendCreditGrant (m : MillNo) (ch : ChanNo)
  /-- FORKW_GRANT (R101): A thread becomes FREE and goes to the highest-priority, longest-waiting forkw. -/
  | forkwGrant (m : MillNo)
  /-- JOIN_WAKE (R107): A joined helper has ended, and the blocked joiner becomes ready 3 cycles later with the exit status. -/
  | joinWake (m : MillNo) (t : ThreadNo)
  /-- WAIT_TIMEOUT (R110): A wait in recv, send, forkw or join reaches WAIT_LIMIT and ends with TIMEOUT. -/
  | waitTimeout (m : MillNo) (t : ThreadNo)
  /-- REMOTE_MESSAGE_ARRIVAL (R113): A cross-Mill message arrives at a LOCAL channel with EXTERNAL = 1, or is discarded under R114. -/
  | remoteMessageArrival (src dst : MillNo)
  /-- REMOTE_CREDIT_RETURN (R115): A credit of a target channel returns across the boundaries to the sending Mill. -/
  | remoteCreditReturn (src dst : MillNo)
  /-- ENGINE_REPLY (R121): An engine reply arrives in channel 768 of the requesting thread, or is discarded when the thread is ENDING. -/
  | engineReply (m : MillNo) (t : ThreadNo) (ch : ChanNo)
  /-- STALL_LIMIT_EXPIRY (R125): The stall condition has held for STALL_LIMIT, and the detector applies ABORT_YOUNGEST or HALT_MILL. -/
  | stallLimitExpiry (m : MillNo)
  /-- STEP_COMPLETE (R129): The stepped instruction completes, and the thread returns to HALTED. -/
  | stepComplete (m : MillNo) (t : ThreadNo)
  /-- FRAME_RECEIVE (R250): A whole frame arrives at a port, is stamped and classified, and is dropped or waits in the receive buffer for a
  bobbin. `bytes` is the frame as it arrives, its FCS last; `pcs` says that the PCS marked it in error, `pre` that it came as
  preemptable; `fecOk` and `fecBad` are the RS-FEC codewords corrected and uncorrectable in it. -/
  | frameReceive (p : PortNo) (smd : Smd) (bytes : List Byte) (pcs : Bool) (fecOk fecBad : Nat)
  /-- POOL_ALLOCATION (R229): A request for a bobbin of n bytes is granted from the smallest pool that fits, with fallback, or ends EMPTY.
  The request is that of the oldest frame in the receive buffer of port group `g`; those of transmit jobs, headers and ALLOC are made
  within the rows that need them. -/
  | poolAllocation (g : GroupNo)
  /-- DISPATCH_THREAD_TAKE (R138): The Mill takes a thread for the oldest queued packet once its FREE count exceeds the reserve, and begins
  the head window copy. -/
  | dispatchThreadTake (m : MillNo)
  /-- TENTATIVE_COMPLETE (R149): A tentative request's result completes in its engine and waits to be adopted. `pk` is the key of the packet
  in `DispSt.pkts`. -/
  | tentativeComplete (pk : Nat) (ch : ChanNo)
  /-- HOLD_EXPIRY (R150): HOLD_NS elapses after a tentative request was issued, and its result is discarded. -/
  | holdExpiry (pk : Nat) (ch : ChanNo)
  /-- ORDER_STAGE_RELEASE (R37): The order stage passes a held verdict once every earlier packet of its source and steering entry in the
  Mill has given its verdict. -/
  | orderStageRelease (m : MillNo)
  /-- CL_LOOKUP (R165): A LOOKUP request on channel 512 + b returns the winning rule of bank b under the packet's version, or the miss
  action. -/
  | clLookup (b : Fin 8)
  /-- VERSION_RETIRE (R179): The oldest live version meets the retirement conditions, and the bank begins its cleaning pass. -/
  | versionRetire (b : Fin 8)
  /-- RETIREMENT_PASS_END (R179): The retirement pass over the 8,192 entries ends, and CLEANING clears. -/
  | retirementPassEnd (b : Fin 8)
  /-- TE_LOOKUP (R199): A LOOKUP in exact-match table t searches the flow cache, bucket A, bucket B and the overflow store. `e` is the
  engine: 0 A, 1 B. -/
  | teLookup (e : EpNo) (t : Fin 16)
  /-- TE_LOOKUP_LEARN (R205): A lookup that, on a miss in a learning table, inserts the key with the data carried. -/
  | teLookupLearn (e : EpNo) (t : Fin 16)
  /-- INSERT (R206): A WRITE op that inserts a key, ending with EXISTS if the key is present. `oper` says that the operator issues it
  through TE_x_OP_CTRL; else the oldest WRITE request of channel 576 is it. -/
  | insert (e : EpNo) (oper : Bool)
  /-- UPSERT (R204): A WRITE op that inserts a key or replaces its DATA and STATIC. `oper` says that the operator issues it through
  TE_x_OP_CTRL; else the oldest WRITE request of channel 576 is it. -/
  | upsert (e : EpNo) (oper : Bool)
  /-- UPDATE (R204): A WRITE op that replaces DATA, ending with NOT_FOUND if the key is absent. `oper` says that the operator issues it
  through TE_x_OP_CTRL; else the oldest WRITE request of channel 576 is it. -/
  | update (e : EpNo) (oper : Bool)
  /-- DELETE (R207): A WRITE op that removes a key, ending with NOT_FOUND if the key is absent. `oper` says that the operator issues it
  through TE_x_OP_CTRL; else the oldest WRITE request of channel 576 is it. -/
  | delete (e : EpNo) (oper : Bool)
  /-- LPM_ADD (R213): A WRITE op that adds or replaces a prefix, ending with LPM_FULL when no unit is free. `oper` says that the operator
  issues it through TE_x_OP_CTRL; else the oldest WRITE request of channel 576 is it. -/
  | lpmAdd (e : EpNo) (oper : Bool)
  /-- LPM_DEL (R213): A WRITE op that removes a prefix, ending with NOT_FOUND if the prefix is absent. `oper` says that the operator issues
  it through TE_x_OP_CTRL; else the oldest WRITE request of channel 576 is it. -/
  | lpmDel (e : EpNo) (oper : Bool)
  /-- OVF_CLEAR (R204): An operator-only WRITE op that empties a table's overflow entries. `oper` says that the operator issues it through
  TE_x_OP_CTRL; else the oldest WRITE request of channel 576 is it. -/
  | ovfClear (e : EpNo) (oper : Bool)
  /-- LPM_LOOKUP (R213): An LPM lookup returns the data of the longest matching prefix, or DEFAULT on a miss. -/
  | lpmLookup (e : EpNo) (l : Fin 8)
  /-- COUNT (R214): A COUNT request adds bytes and packets to a counter store entry through the counter cache. -/
  | count (e : EpNo)
  /-- CNT_FLUSH_DONE (R214): The last write-back of a flush completes, and FLUSH_BUSY clears. -/
  | cntFlushDone (e : EpNo)
  /-- SWEEP_VISIT (R210): The table's sweeper visits an entry and clears HIT, sets STALE or removes the entry. -/
  | sweepVisit (e : EpNo) (t : Fin 16)
  /-- EMT_WRITE (R219): A PUT of TE_x_EMT(t) that changes the fields permitted while enabled, or that enables, disables or invalidates the
  flow cache. A write that enables the table keeps its words until the scan ends. -/
  | emtWrite (e : EpNo) (t : Fin 16) (words : List Word)
  /-- TABLE_SCAN_END (R218): The enable scan of a table ends, with the table enabled or left disabled with BAD_IMAGE or POISONED. -/
  | tableScanEnd (e : EpNo) (t : Fin 16)
  /-- TM_SELECT (R283): The TM selects the next entry for a port or endpoint by the three scheduling levels and the gate guard. `d` is a
  port, or 16 plus an endpoint; `express` names the MAC of a port that asks. -/
  | tmSelect (d : Fin 18) (express : Bool)
  /-- LINKDOWN_EXPIRY (R288): LINK has stayed down for LINKDOWN_US, and the port enters the link-down drop state. -/
  | linkdownExpiry (p : PortNo)
  /-- TX_FRAME_START (R257): A port starts transmitting a frame once 2,048 bytes of it, or all of it, are in the transmit buffer. -/
  | txFrameStart (p : PortNo) (express : Bool)
  /-- TX_FRAME_END (R38): The last transmission of a packet leaves the port group's transmit buffer, and its bobbin is released. -/
  | txFrameEnd (p : PortNo) (express : Bool)
  /-- LINK_UP (R249): The PCS and RS-FEC report lock on every lane of a port, and LINK is set. -/
  | linkUp (p : PortNo)
  /-- LINK_DOWN (R249): A port's LINK falls, and the frame in transmission is lost. -/
  | linkDown (p : PortNo)
  /-- PAUSE_FRAME_RECEIVE (R269): A received PAUSE or PFC frame stops transmission of the named priorities for its time. -/
  | pauseFrameReceive (p : PortNo) (bytes : List Byte)
  /-- PAUSE_TIMER_EXPIRY (R269): The pause time received from the partner runs out, and transmission resumes. -/
  | pauseTimerExpiry (p : PortNo)
  /-- WEIR_REFRESH (R267): QUANTA ÷ 2 quanta pass in XOFF, and the pause frame is sent again. -/
  | weirRefresh (p : PortNo)
  /-- PEER_DELAY_RESULT (R268): A new peer-delay measurement arrives, and the Weir recomputes its automatic watermarks. -/
  | peerDelayResult (p : PortNo) (delay : BitVec 32)
  /-- VERIFY_TIMER (R259): VERIFY_MS passes, and a verify mPacket is sent, or after three verifies the status becomes FAILED. -/
  | verifyTimer (p : PortNo)
  /-- RESPOND_MPACKET_RECEIVE (R259): A respond mPacket moves VERIFY_STATUS to SUCCEEDED. -/
  | respondMpacketReceive (p : PortNo)
  /-- VERIFY_MPACKET_RECEIVE (R259): A received verify mPacket is answered with a respond mPacket. -/
  | verifyMpacketReceive (p : PortNo)
  /-- CIPHER_JOB (R308): A cipher job on channel 640 or 641 seals or opens its source into DST under a context, and its reply follows when a
  lane has finished. `xts` names channel 641. -/
  | cipherJob (xts : Bool)
  /-- REMOVE_TAKES_EFFECT (R302): The jobs accepted for a removed context have completed, and the context is written invalid. -/
  | removeTakesEffect (ctx : BitVec 20)
  /-- ST_RECEIVE (R312): A receive request on channel 672 follows a connection's stream, checks digests and places data. -/
  | stReceive
  /-- ST_TRANSMIT (R316): A transmit request on channel 673 copies whole PDUs to DST, filling in digests and applying XTS. -/
  | stTransmit
  /-- MBOX_GO (R328): The host writes MBOX_CTRL with GO = 1, and the packet in the mailbox buffer is submitted. `bytes` is what the host
  writes to the mailbox buffer before that, from offset 0, `poison` whether that write is poisoned, `bad` whether the write of MBOX_CTRL is. -/
  | mboxGo (e : EpNo) (bytes : List Byte) (len : BitVec 21) (poison bad pasid : Bool)
  /-- CMDQ_DOORBELL (R329): The host writes TAIL to a command queue doorbell, and the entries become available. `n` is the length of the
  write in bytes. -/
  | cmdqDoorbell (e : EpNo) (k : Fin 8) (n : Nat) (poison pasid : Bool) (value : Nat)
  /-- TX_TAIL (R359): A doorbell of kind TX_TAIL sets the tail of a transmit ring. `whole` says that the write is 8 bytes, aligned. -/
  | txTail (e : EpNo) (sl : SliceNo) (whole poison pasid : Bool) (value index : BitVec 16) (rsv : BitVec 29)
  /-- RX_TAIL (R359): A doorbell of kind RX_TAIL sets the tail of a receive buffer ring. `whole` says that the write is 8 bytes, aligned. -/
  | rxTail (e : EpNo) (sl : SliceNo) (whole poison pasid : Bool) (value index : BitVec 16) (rsv : BitVec 29)
  /-- CQ_HEAD (R359): A doorbell of kind CQ_HEAD sets the head of a completion ring. `whole` says that the write is 8 bytes, aligned. -/
  | cqHead (e : EpNo) (sl : SliceNo) (whole poison pasid : Bool) (value index : BitVec 16) (rsv : BitVec 29)
  /-- CQ_ARM (R367): A doorbell of kind CQ_ARM sets CQ_HEAD and arms the interrupt. `whole` says that the write is 8 bytes, aligned. -/
  | cqArm (e : EpNo) (sl : SliceNo) (whole poison pasid : Bool) (value index : BitVec 16) (rsv : BitVec 29)
  /-- ST_TAIL (R359): A doorbell of kind ST_TAIL sets TAIL of an ST connection. -/
  | stTail (e : EpNo) (sl : SliceNo) (whole poison pasid : Bool) (value index : BitVec 16) (rsv : BitVec 29)
  /-- DESCRIPTOR_FETCH (R376): The queue logic issues a fetch read of descriptors or buffers for a ring under LOW and HIGH pacing. -/
  | descriptorFetch (n : QpNo) (rx : Bool)
  /-- TRANSMIT_JOB (R368): A mover starts a transmit job of up to 16 complete sends of one queue pair. -/
  | transmitJob (n : QpNo)
  /-- HOST_TX_COUNT_POINT (R368): The last completion of a packet's payload is accepted, and the packet is stamped and handed to Dispatch. -/
  | hostTxCountPoint (n : QpNo)
  /-- RECEIVE_JOB (R371): A receive job writes a departing packet into host buffers, releases the bobbin, writes the completion and fires. -/
  | receiveJob (n : QpNo)
  /-- INTERRUPT_HOLDOFF_EXPIRY (R367): COAL_US after the previous firing passes, and a waiting firing is issued. -/
  | interruptHoldoffExpiry (n : QpNo)
  /-- PCIE_COMPLETION (R323): A completion TLP arrives and is matched to its request, discarded as late, or treated as Unexpected. -/
  | pcieCompletion (e : EpNo) (f : Fin 2) (tag : Nat) (ok : Bool) (bytes : List Byte) (poison : Bool)
  /-- COMPLETION_TIMEOUT (R322): A request's completion timeout expires, and the job ends with TIMEOUT. -/
  | completionTimeout (e : EpNo) (tag : Nat)
  /-- TAG_QUARANTINE_EXPIRY (R342): A quarantined tag's completion timeout passes, and the tag is freed. -/
  | tagQuarantineExpiry (e : EpNo) (tag : Nat)
  /-- PEER_REQUEST (R343): An inbound request to BAR4 is translated by a peer window of the active bank, or is handled as a miss.
  The row also carries the host's other memory and configuration requests, which the table gives no row (entry 210): `t` is the space. -/
  | peerRequest (e : EpNo) (t : HostSpace) (write : Bool) (off len : Nat) (bytes : List Byte) (poison pasid : Bool)
  /-- PCIE_LINK_UP (R321): An endpoint's link trains to L0, and the change is journaled. -/
  | pcieLinkUp (e : EpNo) (rate width : Fin 8)
  /-- SURPRISE_LINK_DOWN (R321): A link leaves L0 without PERST, hot reset or Link Disable, and the endpoint enters Sluice. -/
  | surpriseLinkDown (e : EpNo)
  /-- HOT_RESET (R321): A hot reset arrives and is handled as a function-level reset of both functions. -/
  | hotReset (e : EpNo)
  /-- FUNCTION_LEVEL_RESET (R342): A function-level reset clears Bus Master Enable, quarantines the outstanding tags and resets
  configuration space. -/
  | functionLevelReset (e : EpNo) (f : Fin 2)
  /-- BUS_MASTER_DISABLE (R341): Bus Master Enable goes from 1 to 0, and the affected jobs end with MASTER_OFF. -/
  | busMasterDisable (e : EpNo) (f : Fin 2)
  /-- BUS_MASTER_ENABLE (R341): Bus Master Enable returns to 1, and issue and pending messages resume. -/
  | busMasterEnable (e : EpNo) (f : Fin 2)
  /-- POWER_STATE_CHANGE (R325): A function moves between D0 and D3hot. -/
  | powerStateChange (e : EpNo) (f : Fin 2) (d3 : Bool)
  /-- MALFORMED_TLP (R338): A Malformed TLP is received and logged, and the endpoint enters Sluice. -/
  | malformedTlp (e : EpNo) (f : Fin 2)
  /-- FUNDAMENTAL_RESET (R460): PERST_A_N or PERST_B_N goes low, and the endpoint's link and configuration are reset. -/
  | fundamentalReset (e : EpNo)
  /-- COMMAND_PACKET (R405): A command packet is taken whole, checked for framing, station and authentication, and its words are queued to
  run. `k` is the context: 0 and 1 the mailboxes, 2 to 9 and 10 to 17 the command queues of HA and HB, 18 the ports, 19 I2C, 20 the
  debug port. -/
  | commandPacket (k : CtxNo)
  /-- COMMAND_FRAME (R408): A frame with the command EtherType is diverted at Arrival to the command processor, or dropped. -/
  | commandFrame (p : PortNo) (bytes : List Byte)
  /-- PUT (R31): Command word that writes data to a Control Address Space range, and that carries the writes of every register without a row
  of its own. The next word of context `k` runs if it is this one. -/
  | put (k : CtxNo) (addr : BitVec 40) (words : List Word)
  /-- GET (R31): Command word that reads a Control Address Space range into the result. The next word of context `k` runs if it is this one. -/
  | get (k : CtxNo) (addr : BitVec 40) (len : BitVec 32)
  /-- FILL (R31): Command word that writes one value to every 8-byte unit of a range. The next word of context `k` runs if it is this one. -/
  | fill (k : CtxNo) (addr len : BitVec 40) (v : Word)
  /-- LOAD_IMAGE_BEGIN (R421): LOAD_IMAGE phase BEGIN opens a session, checks the header and writes its bytes. The next word of context `k`
  runs if it is this one. -/
  | loadImageBegin (k : CtxNo) (session : Fin 8) (target : BitVec 8) (index : BitVec 16) (total : Word) (bytes : List Byte)
  /-- LOAD_IMAGE_DATA (R421): LOAD_IMAGE phase DATA writes the next bytes of an open session. The next word of context `k` runs if it is
  this one. -/
  | loadImageData (k : CtxNo) (session : Fin 8) (offset : Word) (bytes : List Byte)
  /-- LOAD_IMAGE_END (R421): LOAD_IMAGE phase END makes the target's final check and closes the session. The next word of context `k` runs
  if it is this one. -/
  | loadImageEnd (k : CtxNo) (session : Fin 8)
  /-- LOAD_IMAGE_ABORT (R421): LOAD_IMAGE phase ABORT closes a session and leaves the target as on a failure. The next word of context `k`
  runs if it is this one. -/
  | loadImageAbort (k : CtxNo) (session : Fin 8)
  /-- SESSION_TIMEOUT (R421): A session that has received no word for 60 s is aborted. -/
  | sessionTimeout (session : Fin 8)
  /-- STAGE (R419): Command word that adds WRITE or RULE_VERSION items to a stage group. The next word of context `k` runs if it is this
  one. -/
  | stage (k : CtxNo) (group : BitVec 8) (reset : Bool) (items : List (BitVec 40 × BitVec 24 × Word))
  /-- COMMIT_AT (R418): Command word that takes a Scheduled Action Table entry and makes it PENDING. The next word of context `k` runs if it
  is this one. -/
  | commitAt (k : CtxNo) (dt : Word) (frac : BitVec 16) (kind : BitVec 8) (arg0 arg1 : Word)
  /-- WAIT_UNTIL (R418): Command word that holds its context until AO device time reaches T. The next word of context `k` runs if it is this
  one. -/
  | waitUntil (k : CtxNo) (dt : Word) (frac : BitVec 16)
  /-- WAIT_UNTIL_DONE (R418): AO device time reaches the T of a waiting WAIT_UNTIL, and the word completes. -/
  | waitUntilDone (k : CtxNo)
  /-- RESIZE_SLICE (R352): Command word that takes a resize record and schedules a SLICE_RESIZE entry. The next word of context `k` runs if
  it is this one. -/
  | resizeSlice (k : CtxNo) (slice : SliceNo) (mask : BitVec 4) (quotas rate dt : Word) (frac : BitVec 16)
  /-- BIND (R348): Command word that binds a slice to a PASID and a home endpoint. The next word of context `k` runs if it is this one. -/
  | bind (k : CtxNo) (slice : SliceNo) (e : EpNo) (pasid : BitVec 20)
  /-- UNBIND (R349): Command word that removes a slice's binding. The next word of context `k` runs if it is this one. -/
  | unbind (k : CtxNo) (slice : SliceNo)
  /-- SLUICE_RELEASE (R340): Command word that releases an endpoint from Sluice. The next word of context `k` runs if it is this one. -/
  | sluiceRelease (k : CtxNo) (e : EpNo)
  /-- MODE (R449): Command word that requests a transition to a target mode. The next word of context `k` runs if it is this one. -/
  | mode (k : CtxNo) (target : Fin 16)
  /-- KEY_ROLL (R417): Command word that unwraps a blob into a key slot, or removes a slot's key, writing both flash copies. The next word
  of context `k` runs if it is this one. -/
  | keyRoll (k : CtxNo) (slot : Fin 32) (remove : Bool) (blob : List Byte)
  /-- KEY_ROLL_DONE (R417): The flash writes of a key roll complete, and the new key becomes ACTIVE or the roll ends with FLASH_FAIL. `ok`
  says that the flash took the writes. -/
  | keyRollDone (k : CtxNo) (ok : Bool)
  /-- JOURNAL_READ (R425): Command word that returns journal entries from FROM_SEQ, taken from the ring and the flash. The next word of
  context `k` runs if it is this one. -/
  | journalRead (k : CtxNo) (fromSeq : Word) (count : BitVec 13)
  /-- DEBUG (R418): Command word that applies a debug operation to a thread and optionally returns its thread state window. The next word of
  context `k` runs if it is this one. -/
  | debug (k : CtxNo) (m : MillNo) (op : Fin 16) (t : ThreadNo) (read : Bool)
  /-- I2C_BLOCK_WRITE (R410): SMBus command 0x10 appends up to 32 bytes to the packet buffer. -/
  | i2cBlockWrite (bytes : List Byte)
  /-- I2C_SUBMIT (R410): SMBus command 0x11 submits the buffered packet. -/
  | i2cSubmit (v : BitVec 8)
  /-- SAMPLE_PRELOAD (R495): TAP instruction that samples and preloads the boundary scan register. `pins` is what the chain samples, `value`
  what is shifted in. -/
  | samplePreload (pins : List Byte) (value : Nat)
  /-- CMD_DATA (R496): Update-DR of CMD_DATA appends 8 packet bytes, and with LAST also submits the packet. -/
  | cmdData (v : Word) (valid last : Bool)
  /-- SAT_ARM (R56): At T − FT_ARM_LEAD a keyed entry arms and delivers its new state to every target, or ends FAILED with ABSENT. -/
  | satArm (n : SatNo)
  /-- SAT_KEYED_DONE (R56): AO time reaches T and every target has reported holding the new state, so the keyed entry ends DONE. -/
  | satKeyedDone (n : SatNo)
  /-- STAGE_WRITE_APPLY (R420): At T the Control Plane writes a committed group's non-keyed WRITE items in item order. -/
  | stageWriteApply (n : SatNo)
  /-- SAT_PUT64 (R58): A plain PUT64 entry writes its value once device time reaches T. -/
  | satPut64 (n : SatNo)
  /-- SAT_MODE (R58): A plain MODE entry requests a mode transition at T. -/
  | satMode (n : SatNo)
  /-- SAT_GPIO (R499): A plain GPIO entry sets a GPIO output level at T. -/
  | satGpio (n : SatNo)
  /-- SAT_SIGNAL (R58): A plain SIGNAL entry journals a mark and may fire an interrupt message entry of slice 0. -/
  | satSignal (n : SatNo)
  /-- TIME_SYNC_WORD (R47): A synchronisation word reaches an island's time replica every 256 ns, and the replica checks its error. `dt` and
  `frac` are the word's send time, which device time has reached; `err` is the replica's error in 2^-16 ns. -/
  | timeSyncWord (isl : Fin 25) (dt : Word) (frac : BitVec 16) (err : BitVec 32)
  /-- CHANNEL_TRAINED (R396): A QDR channel finishes training and zeroing and enters READY. `port`, `pin` and `ps` are the pin of least
  margin and its margin. -/
  | channelTrained (ch : QdrNo) (port : Fin 2) (pin : Fin 128) (ps : BitVec 8)
  /-- QDR_RETRAIN (R397): RETRAIN_MS elapses, and a channel retrains a port on its training region. -/
  | qdrRetrain (ch : QdrNo) (port : Fin 2) (pin : Fin 128) (ps : BitVec 8)
  /-- PORT_TRAINING_END (R397): A port taken out of service finishes training alone, and returns to service or becomes DISABLED. `fails` is
  the number of attempts that failed. -/
  | portTrainingEnd (ch : QdrNo) (port : Fin 2) (fails : Fin 4) (pin : Fin 128) (ps : BitVec 8)
  /-- QDR_SCRUB (R398): The QDR scrubber reads the next channel word and writes it back if needed. `upset` is what faults have changed in
  the word since it was last written. -/
  | qdrScrub (ch : QdrNo) (upset : BitVec 32)
  /-- SRAM_SCRUB (R400): The SRAM scrubber reads the next word of the powered arrays. -/
  | sramScrub (upset : BitVec 32)
  /-- JOURNAL_MIRROR (R424): A journal entry is mirrored to the JOURNAL partition of the flash within the budget. `ok` says that the flash
  took the write. -/
  | journalMirror (ok : Bool)
  /-- WAKE_GPIO (R454): An edge on WAKE_GPIO while WAKE_EN = 1 wakes the adapter from Standby. The pin comes to `level`. -/
  | wakeGpio (level : Bool)
  /-- SELF_TEST_END (R451): Self-test ends, and the adapter enters Provision or Recovery. The masks name the islands, channel edges and
  engine edges that failed. -/
  | selfTestEnd (isl : BitVec 25) (qdr : BitVec 8) (eng : BitVec 2)
  /-- COLD_RESET (R460): RST_N or PWR_OK low, or TEST_MODE high, for 100 ns or longer resets the whole device. -/
  | coldReset (pin : ResetPin)
  /-- FENCED_REACHED (R464): Fencing reaches Fenced, owed ABSENT replies are delivered and the island's clock stops. -/
  | fencedReached (t : Fin 64)
  /-- BOUNDARY_OPEN (R464): Opening ends in Open once clock, arrays, replica and keyed state are ready. -/
  | boundaryOpen (t : Fin 64)
  /-- AUTO_REOPEN (R476): 10 ms after a fatal-island fault with AUTO_REOPEN = 1, the Control Plane resets the target. -/
  | autoReopen (t : Fin 64)
  /-- POWER_GOOD_TIMEOUT (R467): A rail has not reached power good 1 ms after the switch closed, so CP_POWER_FAIL is raised and the switch
  opens. -/
  | powerGoodTimeout (d : Fin 64)
  /-- AVS_STEP (R470): An island's timing monitors move its VDD_CORE segment by one step, lowering a Mill clock at the limit. -/
  | avsStep (n : Fin 25) (up : Bool)
  /-- THERMAL_THRESHOLD (R471): The hottest die sensor crosses THROTTLE_C or TRIP_C, and the Mills throttle or the adapter trips to
  Recovery. `temp` is the reading of the hottest sensor, in 1/16 °C. -/
  | thermalThreshold (temp : Int)
  /-- PLL_LOCK_LOSS (R470): A PLL loses lock, and the fault of its unit is raised. -/
  | pllLockLoss (pll : Pll)
  /-- LINK_DISABLE (R321): The host takes the endpoint's link out of L0 by Link Disable, so UP clears and is journaled without any Sluice. -/
  | linkDisable (e : EpNo)
  /-- PERST_DEASSERT (R321): PERST_x_N rises, and the endpoint leaves fundamental reset and begins training. -/
  | perstDeassert (e : EpNo)
  /-- MSIX_UNMASK (R330): The host clears the mask of an MSI-X vector, and a message pending on it is sent. -/
  | msixUnmask (e : EpNo) (v : Fin 16) (addr : Word) (data : BitVec 32) (poison pasid : Bool)
  /-- PATH_UNCORRECTABLE_ERROR (R338): An uncorrectable internal error on an endpoint's path raises HE_PATH_UE and sluices the endpoint with
  CAUSE INTERNAL. -/
  | pathUncorrectableError (e : EpNo)
  /-- IMAGE_FLASH_WRITE_DONE (R407): The flash write of a LOAD_IMAGE word finishes, and the word completes and its context continues. -/
  | imageFlashWriteDone (k : CtxNo) (ok : Bool)
  /-- JOURNAL_FLASH_READ_DONE (R425): The flash read of a JOURNAL_READ word finishes, and the word returns its entries and its context
  continues. -/
  | journalFlashReadDone (k : CtxNo)
  /-- MILL_CLOCK_CHANGE_DONE (R469): The new Mill clock is in force, so the cores issue again, dispatch to the Mill resumes and the stall
  and wait measurements restart. -/
  | millClockChangeDone (m : MillNo)
  /-- HALT (R129): Debug operation that halts one thread at an instruction boundary. An authenticated write of MA_Mnn_DBG_CMD. -/
  | halt (m : MillNo) (t : ThreadNo)
  /-- RESUME (R129): Debug operation that returns a HALTED thread to ACTIVE. An authenticated write of MA_Mnn_DBG_CMD. -/
  | resume (m : MillNo) (t : ThreadNo)
  /-- STEP (R129): Debug operation that makes a HALTED thread issue exactly one instruction. An authenticated write of MA_Mnn_DBG_CMD. -/
  | step (m : MillNo) (t : ThreadNo)
  /-- KILL (R129): Debug operation that ends a thread with status KILLED. An authenticated write of MA_Mnn_DBG_CMD. -/
  | kill (m : MillNo) (t : ThreadNo)
  /-- HALT_ALL (R129): Debug operation that halts every live thread of the Mill. An authenticated write of MA_Mnn_DBG_CMD. -/
  | haltAll (m : MillNo)
  /-- RESUME_ALL (R129): Debug operation that resumes every HALTED thread of the Mill. An authenticated write of MA_Mnn_DBG_CMD. -/
  | resumeAll (m : MillNo)
  /-- DBG_CTRL_WRITE (R127): A write of MA_Mnn_DBG_CTRL; clearing ENABLE resumes every thread halted by the debugger or by brk. -/
  | dbgCtrlWrite (m : MillNo) (v : Word)
  /-- RESIDENT_START (R111): A write of MA_Mnn_RESIDENT(k).START takes a thread and starts a resident thread. -/
  | residentStart (m : MillNo) (k : Fin 16) (entry : BitVec 16) (prio : Fin 4)
  /-- CHAN_WRITE (R114): A write of a channel configuration, refused with CHAN_BUSY while a message is queued or a thread is blocked. -/
  | chanWrite (m : MillNo) (ch : Fin 512) (v : Word)
  /-- SCHEME_WRITE (R170): A write of CL_BANK_CFG.SCHEME that switches the update scheme, or ends with BANK_BUSY. -/
  | schemeWrite (b : Fin 8) (v : Word)
  /-- RULE_WRITE (R175): A PUT or FILL of a rule entry, governed by the scheme E or scheme V write limits and the poison rule. Words `k` and
  up of rule entry `n`. -/
  | ruleWrite (n : Fin 65536) (k : Fin 16) (words : List Word)
  /-- CNT_FLUSH (R214): Writing TE_x_CNT_CTRL.FLUSH starts the write-back of every dirty counter cache line. -/
  | cntFlush (e : EpNo)
  /-- POOL_WRITE (R224): A PUT of BP_POOL(p) that carves, enables or disables a pool, or ends with POOL_BUSY or BAD_ARGUMENT. -/
  | poolWrite (p : Fin 8) (words : List Word)
  /-- TM_FLUSH (R294): A write of TM_FLUSH drops every entry of a disabled queue. -/
  | tmFlush (q : BitVec 17)
  /-- QUEUE_WRITE (R294): A PUT of a queue context, refused with QUEUE_BUSY where the change needs a disabled, empty queue. -/
  | queueWrite (n : QpNo) (k : Fin 4) (words : List Word)
  /-- POLICER_WRITE (R282): A PUT of a policer that checks the rates and bursts and sets the buckets on enable. -/
  | policerWrite (pol : Fin 16384) (words : List Word)
  /-- GCL_WRITE (R287): A write of a gate control list, refused with LIST_ACTIVE for a list in use. Entries from `k` up, or the header of
  the list. -/
  | gclWrite (p : PortNo) (l : Fin 2) (k : Option (Fin 256)) (words : List Word)
  /-- PORT_ENABLE (R249): Writing ENABLE = 1 starts the port's SerDes, auto-negotiation and link training. The other fields of the register
  are those of `v`. -/
  | portEnable (p : PortNo) (v : Word)
  /-- PORT_DISABLE (R249): Writing ENABLE = 0 stops reception and transmission and idles the transmitters. -/
  | portDisable (p : PortNo) (v : Word)
  /-- GROUP_MODE_WRITE (R246): A write of PX_Pg_MODE that changes the group layout and retrains its lanes. -/
  | groupModeWrite (g : GroupNo) (v : Word)
  /-- TS_TAIL_WRITE (R272): A PUT of PX_Pg_TS_TAIL frees timestamp ring entries. -/
  | tsTailWrite (g : GroupNo) (v : Word)
  /-- INSTALL (R302): CE_CTX_CMD INSTALL unwraps the key blob and writes a new context. A write of CE_CTX_CMD. -/
  | install (ctx : BitVec 20) (ktk : Fin 4)
  /-- REMOVE (R302): CE_CTX_CMD REMOVE requests removal of a context. -/
  | remove (ctx : BitVec 20)
  /-- READ_STATE (R319): CE_CTX_CMD READ_STATE loads a context's SEQ into CE_CTX_STATE. -/
  | readState (ctx : BitVec 20)
  /-- CONN_WRITE (R311): A PUT of ST_CONN(n): a change of EXP_SEQ alone resynchronises a valid connection, other changes to it end with
  CONN_BUSY, and a PUT of TAIL acts as the doorbell. -/
  | connWrite (n : Fin 32768) (k : Fin 4) (words : List Word)
  /-- QP_ENABLE (R355): Writing ENABLE = 1 of a queue pair checks it and places it in RUN. A write of word 0 of DE_QP(n), the other fields
  as in `v`. -/
  | qpEnable (n : QpNo) (v : Word)
  /-- QP_DISABLE (R356): Clearing ENABLE moves a queue pair to DRAINING and then DISABLED, and drops its TM entries. -/
  | qpDisable (n : QpNo) (v : Word)
  /-- RESTART (R380): Writing RESTART = 1 returns a HALTED queue pair to RUN. -/
  | restart (n : QpNo) (v : Word)
  /-- QUOTA_WRITE (R351): A PUT of a slice's quota words, accepted only while the slice is unbound. -/
  | quotaWrite (sl : SliceNo) (w1 w2 : Word)
  /-- PEER_SWITCH (R344): Writing HE_x_PEER_CTRL.SWITCH makes the inactive peer bank active at the next TLP boundary. -/
  | peerSwitch (e : EpNo)
  /-- PEER_WINDOW_WRITE (R344): A PUT of a peer window, refused with PEER_BANK_ACTIVE in the active bank. -/
  | peerWindowWrite (e : EpNo) (b : Fin 2) (win : Fin 64) (words : List Word)
  /-- EP_CTRL_WRITE (R321): A write of HE_x_CTRL that enables or disables the link or changes its limits. -/
  | epCtrlWrite (e : EpNo) (v : Word)
  /-- TOPOLOGY_WRITE (R334): A write of HE_TOPOLOGY.MODE, accepted only in Provision with every queue disabled. -/
  | topologyWrite (v : Word)
  /-- SAT_PENDING (R53): A write of word 1 with STATE = 1 validates a Scheduled Action Table entry and makes it PENDING. The other fields of
  word 1 are those of `v`. -/
  | satPending (n : SatNo) (v : Word)
  /-- SAT_CANCEL (R54): A write of STATE = 5 to a PENDING entry cancels it. -/
  | satCancel (n : SatNo) (v : Word)
  /-- SAT_FREE (R54): A write of STATE = 0 makes a finished entry FREE. -/
  | satFree (n : SatNo) (v : Word)
  /-- SAT_WORD_WRITE (R54): A PUT of word 0, 2 or 3 of an entry, refused with ENTRY_BUSY while the entry is live. `k` is 0, 1 or 2 for word
  0, 2 or 3. -/
  | satWordWrite (n : SatNo) (k : Fin 3) (v : Word)
  /-- QDR_CFG_WRITE (R403): A write of RD_LAT, WR_LAT or ODT_EN, accepted outside READY and restarting training while TRAINING. -/
  | qdrCfgWrite (ch : QdrNo) (v : Word)
  /-- BW_TAIL_WRITE (R439): A critical PUT of CP_BW_TAIL frees bandwidth records. -/
  | bwTailWrite (v : Word)
  /-- BILL_TAIL_WRITE (R439): A critical PUT of CP_BILL_TAIL frees billing records. -/
  | billTailWrite (v : Word)
  /-- SMP_MODE_SET (R431): A write of CP_SMP_MODE with SET = 1 gives a dedicated counter the LEVEL or EDGE mode. -/
  | smpModeSet (addr : BitVec 40) (edge : Bool)
  /-- SMP_MODE_LOAD (R431): A write of CP_SMP_MODE with SET = 0 loads EDGE with a counter's current mode. -/
  | smpModeLoad (addr : BitVec 40)
  /-- STEER_WRITE (R137): A PUT of MA_STEER or MA_PROFILE applies to later dispatches and advances MA_STEER_GEN. Steering entries from `n`
  up, or a profile. -/
  | steerWrite (n : Sum (Fin 4096) (Fin 64)) (words : List Word)
  /-- RECIPE_WRITE (R151): A PUT of a Prelook recipe empties every signature slot that names it. -/
  | recipeWrite (r : Fin 64) (words : List Word)
  /-- INVALIDATE (R151): Writing MA_PL_CTRL.INVALIDATE empties the signature cache. -/
  | invalidate (v : Word)
  /-- DRAIN_CFG_WRITE (R453): A write of CP_DRAIN_CFG.SOURCES, refused with MODE_REFUSED in Drain. -/
  | drainCfgWrite (v : Word)
  /-- RAISE_SVN (R427): A keyed write of RAISE_SVN blows SVN fuses up to the value written. -/
  | raiseSvn (v : BitVec 8)
  /-- DUMP_GO (R457): Writing CP_DUMP_CTRL.GO starts a state dump to host memory. -/
  | dumpGo (e : EpNo)
  /-- WDOG_WRITE (R461): A write of CP_WDOG restarts the watchdog count. -/
  | wdogWrite (v : Word)
  /-- ISLAND_FENCE (R462): CP_ISLAND_CTRL OP FENCE fences a target and holds it. -/
  | islandFence (t : Fin 64)
  /-- ISLAND_RESET (R462): CP_ISLAND_CTRL OP RESET resets a target island, channel edge or engine edge under Table 18-2. -/
  | islandReset (t : Fin 64)
  /-- DOMAIN_POWER_ON (R467): CP_PWR_REQ with ON = 1 switches a domain on in the serialised steps of Table 18-5. -/
  | domainPowerOn (d : Fin 64)
  /-- DOMAIN_POWER_OFF (R466): CP_PWR_REQ with ON = 0 fences a domain and switches it off. -/
  | domainPowerOff (d : Fin 64)
  /-- MILL_CLOCK_WRITE (R469): A write of CP_CLK_MILL(m).MHZ_SET changes the Mill clock without a fence. -/
  | millClockWrite (m : MillNo) (mhz : BitVec 12)
  /-- FAULT_TAIL_WRITE (R474): A write of CP_FAULT_TAIL frees fault records. -/
  | faultTailWrite (v : Word)
  /-- XSTALL_POLL (R126): The Control Plane polls every Mill's stall status and resolves any deadlock across Mills. -/
  | xstallPoll
  /-- DISPATCH (R138): The dispatcher serves an eligible packet: it reads the steering entry, sets the version stamps and places the packet
  in its Mill's dispatch queue. -/
  | dispatch
  /-- SCAN (R185): A SCAN request on channel 528 scans a byte range against the pricking active at the packet's stamp. -/
  | scan
  /-- ALLOC (R231): An ALLOC request on channel 608 grants a bobbin bound to the requester, subject to quota and ALLOC_LIMIT. -/
  | alloc
  /-- SHARE (R235): A SHARE request on channel 609 raises a bobbin's reference count and may make the bobbin system-owned. -/
  | share
  /-- RELEASE (R234): A RELEASE request on channel 610 lowers REF, freeing the bobbin when REF reaches 0. -/
  | release
  /-- BP_WRITE (R240): A WRITE request on channel 611 stores up to 56 bytes into a bound ALLOC bobbin. -/
  | bpWrite
  /-- TM_ENQUEUE (R279): The TM judges an enqueue request of a verdict, default or malformed action against the admission checks and admits
  it or drops it. -/
  | tmEnqueue
  /-- COPY (R292): A COPY request on channel 624 enqueues one more departure of a header bobbin and, optionally, the packet data. -/
  | copy
  /-- QDEPTH (R293): A QDEPTH request on channel 625 returns a queue's occupancy. -/
  | qdepth
  /-- CTX_FLUSH (R303): CE_CTX_CMD FLUSH writes the exact state of every cached context. -/
  | ctxFlush
  /-- DMA_MODE_SWITCH (R375): The jobs in flight have ended after a mode change, and the DMA Engine switches between Sequential and
  Overlapped mode. -/
  | dmaModeSwitch
  /-- I2C_BLOCK_READ (R410): SMBus command 0x12 returns the next result bytes. -/
  | i2cBlockRead
  /-- I2C_STATUS_READ (R410): SMBus command 0x13 returns BUSY and DONE. -/
  | i2cStatusRead
  /-- STATE_WORD_READ (R441): SMBus block read 0x20 returns the 32-byte state word without authentication. -/
  | stateWordRead
  /-- EXTEST (R495): TAP instruction that drives the boundary scan register onto the pins. -/
  | extest
  /-- IDCODE (R495): TAP instruction that selects the 32-bit IDCODE register. -/
  | idcode
  /-- HIGHZ (R495): TAP instruction that places the outputs in high impedance with the bypass register selected. -/
  | highz
  /-- CLAMP (R495): TAP instruction that holds the outputs from the boundary scan register with the bypass register selected. -/
  | clamp
  /-- EXTEST_PULSE (R495): IEEE 1149.6 TAP instruction for AC-coupled lanes. -/
  | extestPulse
  /-- EXTEST_TRAIN (R495): IEEE 1149.6 TAP instruction for AC-coupled lanes using a pulse train. -/
  | extestTrain
  /-- BYPASS (R495): TAP instruction that selects the 1-bit bypass register. -/
  | bypass
  /-- CMD_STATUS (R495): TAP instruction that selects the 8-bit status register of the debug port. -/
  | cmdStatus
  /-- CMD_DATA_CAPTURE (R496): Capture-DR of CMD_DATA loads the next 8 result bytes. -/
  | cmdDataCapture
  /-- TIME_STEP (R46): Writing FT_STEP_CTRL.GO applies a forward or backward step to device time, within the limits of the mode. -/
  | timeStep
  /-- PPS_IN_EDGE (R49): A rising edge of PPS_IN is stamped and disciplines device time. -/
  | ppsInEdge
  /-- PPS_OUT_EDGE (R62): Device time reaches a whole second plus OFFSET_NS, and PPS_OUT rises for WIDTH_US. -/
  | ppsOutEdge
  /-- SOURCE_LOSS_TIMEOUT (R42): The selected source has been absent for 10 s, so the state becomes HOLDOVER and FT_SOURCE_LOST is raised. -/
  | sourceLossTimeout
  /-- SERVO_LOCK (R44): The servo has held the offset within 100 ns for 10 s, and the state becomes LOCKED. -/
  | servoLock
  /-- COUNT_REPORT (R433): A unit reports a stamped count to the Sampler, which adds it to its window or to the next one as LATE. -/
  | countReport
  /-- BW_WINDOW_CLOSE (R435): AO time reaches a bandwidth window's end plus 100 µs, and a record is written for each counted port. -/
  | bwWindowClose
  /-- BILL_MINUTE_CLOSE (R437): A billing minute's closure time arrives, and 8,192 signed records are written, or the minute is merged. -/
  | billMinuteClose
  /-- TELEMETRY_STATE_PERIOD (R440): PERIOD_MS elapses, and a state word item enters the telemetry stream. -/
  | telemetryStatePeriod
  /-- DRAINED (R453): No packet of a selected source remains in flight, and DRAINED is set. -/
  | drained
  /-- DRAIN_TIMEOUT (R453): TIMEOUT_MS passes in Drain, so DRAINED and FORCED are set and DRAIN_FORCED is journaled. -/
  | drainTimeout
  /-- STANDBY_POWER_DOWN (R454): One millisecond after the Standby MODE word completes, every domain but AO and the keepalive group powers
  down. -/
  | standbyPowerDown
  /-- STANDBY_WORK_TIMEOUT (R454): Admitted work has not ended within 100 ms of a Standby request, so the word is refused and admission
  resumes. -/
  | standbyWorkTimeout
  /-- KEEPALIVE (R454): KEEPALIVE_MS passes in Standby, and a state word telemetry frame is sent. -/
  | keepalive
  /-- FIRMWARE_START (R427): The boot ROM finishes verifying a firmware copy and starts it, or stays in Boot with CP_BOOT_FAIL. -/
  | firmwareStart
  /-- ACTIVATE (R455): Writing CP_FW_CTRL.ACTIVATE restarts the Control Plane on the preferred copy. -/
  | activate
  /-- FW_RESTART_END (R455): The firmware restart ends, so FW_BUSY clears and the deferred actions run. -/
  | fwRestartEnd
  /-- REVOKE_KEY0 (R427): A keyed write of REVOKE_KEY0 revokes fused key 0. -/
  | revokeKey0
  /-- SUPPLIES_REMOVED (R449): The supplies are removed, and the adapter enters Off. -/
  | suppliesRemoved
  /-- SUPPLIES_IN_RANGE (R449): The supplies come into range with RST_N or PWR_OK low, and the adapter enters Held. -/
  | suppliesInRange
  /-- RESET_RELEASE (R449): RST_N and PWR_OK both go high with TEST_MODE low, and the adapter enters Boot. -/
  | resetRelease
  /-- SUPPLY_RANGE_EXIT (R486): A supply leaves its range while PWR_OK is high, and CP_SUPPLY_FAULT is raised. -/
  | supplyRangeExit
  /-- WARM_RESET (R461): Writing CP_RESET_CTRL.WARM performs a warm reset of every island outside AO, HA and HB. -/
  | warmReset
  /-- WATCHDOG_EXPIRY (R461): The firmware has not written CP_WDOG for TIMEOUT_MS, so CP_WATCHDOG is raised and a warm reset follows. -/
  | watchdogExpiry
  /-- TAP_RESET (R489): TRST_N goes low, or five TCK cycles pass with TMS high, and the TAP returns to its reset state. -/
  | tapReset
  deriving DecidableEq, Repr

end Sys2Proof
end

