-- ==== Sys2Proof/WellFormed.lean ====
section
/-! DEFINITION. Which commands can occur: the limits on operands that their types do not set. Every operand not named here ranges over
its whole type. -/

namespace Sys2Proof

/-- Whether command `i` can be given to the block. -/
def Instr.wf : Instr → Bool
  | .frameReceive _ _ bs _ _ _ => !bs.isEmpty
  | .commandFrame _ bs => !bs.isEmpty
  | .pauseFrameReceive _ bs => !bs.isEmpty
  | .i2cBlockWrite bs => !bs.isEmpty && decide (bs.length ≤ 32)
  | .mboxGo _ bs _ _ _ _ => decide (bs.length ≤ 2 ^ 20) && bs.length % 4 == 0
  | .cmdqDoorbell _ _ n _ _ v => decide (0 < n) && decide (v < 2 ^ (8 * n))
  | .pcieCompletion _ _ tag _ bs _ => decide (tag < 16384) && decide (bs.length ≤ 4096)
  | .completionTimeout _ tag => decide (tag < 16384)
  | .tagQuarantineExpiry _ tag => decide (tag < 16384)
  | .peerRequest _ _ write _ len bs _ _ =>
    if write then !bs.isEmpty && decide (bs.length ≤ 4096) else decide (0 < len) && decide (len ≤ 4096)
  | .put _ _ ws => !ws.isEmpty
  | .loadImageBegin _ _ _ _ _ bs => bs.length % 8 == 0
  | .loadImageData _ _ _ bs => bs.length % 8 == 0
  | .stage _ _ _ items => decide (items.length < 8192)
  | .keyRoll _ _ gone blob => if gone then blob.isEmpty else decide (blob.length = 48)
  | .ruleWrite _ k ws => !ws.isEmpty && decide (k.val + ws.length ≤ 16)
  | .emtWrite _ _ ws => !ws.isEmpty && decide (ws.length ≤ 4)
  | .poolWrite _ ws => !ws.isEmpty && decide (ws.length ≤ 4)
  | .queueWrite _ k ws => !ws.isEmpty && decide (k.val + ws.length ≤ 4)
  | .policerWrite _ ws => !ws.isEmpty && decide (ws.length ≤ 4)
  | .connWrite _ k ws => !ws.isEmpty && decide (k.val + ws.length ≤ 4)
  | .gclWrite _ _ k ws =>
    !ws.isEmpty && (match k with
      | none => decide (ws.length ≤ 4)
      | some k => decide (k.val + ws.length ≤ 256))
  | .peerWindowWrite _ _ _ ws => !ws.isEmpty && decide (ws.length ≤ 4)
  | .steerWrite n ws =>
    !ws.isEmpty && (match n with
      | .inl n => decide (n.val + ws.length ≤ 4096)
      | .inr _ => decide (ws.length ≤ 4))
  | .recipeWrite _ ws => !ws.isEmpty && decide (ws.length ≤ 8)
  | _ => true

end Sys2Proof
end

