-- ==== Sys2Proof/Decode.lean ====
section
/-! DEFINITION. The block has no instruction words of its own: spec/opcode_table.json gives no row any bits, so no word spells a
command. -/

namespace Sys2Proof

/-- The command that a word of `nbits` bits spells by the opcode table's bits: none, since no row gives bits. -/
def decodeTableWord (_nbits _w : Nat) : Option Instr := none

end Sys2Proof
end

