-- ==== Sys2Proof/Config.lean ====
section
/-! DEFINITION. What an implementation fixes and the manual leaves open, as constants without a body: no proof can see
a value of them. -/

namespace Sys2Proof.Config

/-- The stream of free values: the value the model leaves open at its n-th use (entry 2). -/
opaque freeWord : Nat → BitVec 64

/-- The 256-bit device-unique key of the fuses (R416): 32 bytes nothing can read. -/
opaque udk : Nat → BitVec 8

/-- The fused hashes of firmware keys 0 and 1 (R426): 48 bytes each. -/
opaque keyHash : Nat → Nat → BitVec 8

/-- A byte pattern of a pricking (spec/06_classifier.md, The pattern engine): identifier, tag, bytes, whether ASCII letters match in either
case, and the packet offsets at which a match may start. -/
structure Pattern where
  id     : Nat
  tag    : Nat
  bytes  : List (BitVec 8)
  fold   : Bool
  window : Option (Nat × Nat)
  deriving DecidableEq, Repr

/-- The patterns that the body of a pricking image holds; the manual does not give its format (entry 24). -/
opaque pricking : List (BitVec 8) → List Pattern

/-- The revision of the adapter, HE_x_ID.REV, and the serial number of the Device Serial Number capability (R324). -/
opaque revision : BitVec 16
opaque serial : BitVec 64

/-- The dwords of configuration space that the manual does not describe, by function and offset: subsystem identity, what a described capability
holds beyond the fields named, the bodies of the others (entry 208). -/
opaque cfgDword : Nat → Nat → BitVec 32

/-- The identity by which the ordinary clock names port `p` in PTP messages (R43): clockIdentity and port number. -/
opaque clockPort : Nat → BitVec 80

end Sys2Proof.Config
end

