-- ==== Sys2Proof/Machine/Map.lean ====
section
/-! DEFINITION. Sparse arrays in one canonical form: a list of (index, value) pairs, indices strictly rising, and no
entry equal to what an unlisted index reads as. A byte memory is the case with `Host.Cell` entries. The word and
byte-order helpers of the whole model stand here too (R1, R4). -/

namespace Sys2Proof.Machine

/-- A sparse array of values of one type. -/
abbrev SMap (α : Type) := List (Nat × α)

/-- A byte memory. -/
abbrev Mem := List Host.Cell

/-- What index `k` holds: its entry, or `d` where the index is unlisted. -/
def mget {α : Type} (d : α) : SMap α → Nat → α
  | [], _ => d
  | (i, v) :: m, k => if k = i then v else mget d m k

/-- Drops every entry of index `k`. -/
def mdel {α : Type} : SMap α → Nat → SMap α
  | [], _ => []
  | (i, w) :: m, k => if k = i then mdel m k else (i, w) :: mdel m k

/-- Puts an entry at its place. -/
def mput {α : Type} : SMap α → Nat → α → SMap α
  | [], k, v => [(k, v)]
  | (i, w) :: m, k, v =>
    if k < i then (k, v) :: (i, w) :: m
    else if k = i then (k, v) :: m
    else (i, w) :: mput m k v

/-- Sets index `k` to `v`, keeping the canonical form: writing the default removes the entry. -/
def mset {α : Type} [DecidableEq α] (d : α) (m : SMap α) (k : Nat) (v : α) : SMap α := if v = d then mdel m k else mput m k v

/-- Changes index `k` by `f`. -/
def mupd {α : Type} [DecidableEq α] (d : α) (m : SMap α) (k : Nat) (f : α → α) : SMap α :=
  mset d m k (f (mget d m k))

/-- Every listed index is above `lo`, the indices rise strictly, and no entry equals its default. -/
def mwfFrom {α : Type} [DecidableEq α] (d : Nat → α) : Nat → SMap α → Bool
  | _, [] => true
  | lo, (i, v) :: m => decide (lo ≤ i) && decide (v ≠ d i) && mwfFrom d (i + 1) m

/-- The canonical form of a sparse array whose unlisted index `k` reads as `d k`. -/
def mwf {α : Type} [DecidableEq α] (d : Nat → α) (m : SMap α) : Bool := mwfFrom d 0 m

/-- Empties every index of `[lo, hi)`. -/
def mclear {α : Type} (m : SMap α) (lo hi : Nat) : SMap α :=
  m.filter fun p => decide (p.1 < lo) || decide (hi ≤ p.1)

/-! ### Byte memories -/

/-- One byte of a memory; an unlisted byte reads as 0. -/
def rdByte (m : Mem) (a : Nat) : Byte := mget 0 m a

/-- `n` bytes from address `a` up. -/
def rdBytes (m : Mem) (a : Nat) : Nat → List Byte
  | 0 => []
  | n + 1 => rdByte m a :: rdBytes m (a + 1) n

/-- Writes bytes from address `a` up. -/
def wrBytes (m : Mem) (a : Nat) : List Byte → Mem
  | [] => m
  | b :: bs => wrBytes (mset 0 m a b) (a + 1) bs

/-- The canonical form of a byte memory whose unlisted bytes read as 0. -/
def Mem.wf (m : Mem) : Bool := mwf (fun _ => (0 : Byte)) m

/-! ### Words, fields and byte order -/

/-- The value of little-endian bytes (R4). -/
def leNat : List Byte → Nat
  | [] => 0
  | b :: bs => b.toNat + 256 * leNat bs

/-- The value of bytes in network order (R4). -/
def beNat (bs : List Byte) : Nat := bs.foldl (fun n b => 256 * n + b.toNat) 0

/-- `n` little-endian bytes of a value. -/
def leBytes : Nat → Nat → List Byte
  | 0, _ => []
  | n + 1, v => BitVec.ofNat 8 v :: leBytes n (v / 256)

/-- `n` bytes of a value in network order. -/
def beBytes (n v : Nat) : List Byte := (leBytes n v).reverse

/-- The little-endian 64-bit word of the first eight bytes. -/
def leWord (bs : List Byte) : Word := BitVec.ofNat 64 (leNat (bs.take 8))

/-- Bytes cut into little-endian 64-bit words; `fuel` bounds the number of words. -/
def wordsOf : Nat → List Byte → List Word
  | 0, _ => []
  | _ + 1, [] => []
  | n + 1, bs => leWord bs :: wordsOf n (bs.drop 8)

/-- Every 64-bit word of a byte string. -/
def toWords (bs : List Byte) : List Word := wordsOf bs.length bs

/-- The bytes of 64-bit words, little-endian. -/
def ofWords (ws : List Word) : List Byte := ws.flatMap fun w => leBytes 8 w.toNat

/-- Bits [lo + n - 1 : lo] of a word, as a number (R1). -/
def getBits (w : Word) (lo n : Nat) : Nat := (w.toNat >>> lo) % 2 ^ n

/-- The word with bits [lo + n - 1 : lo] replaced by the low `n` bits of `v`. -/
def setBits (w : Word) (lo n v : Nat) : Word :=
  (w &&& ~~~(BitVec.ofNat 64 (2 ^ n - 1) <<< lo)) ||| (BitVec.ofNat 64 (v % 2 ^ n) <<< lo)

/-- Bits [lo + n - 1 : lo] of a number. -/
def natBits (v lo n : Nat) : Nat := (v >>> lo) % 2 ^ n

/-- The signed reading of an `n`-bit number. -/
def signExt (n v : Nat) : Int :=
  let u := v % 2 ^ n
  if u < 2 ^ (n - 1) then (u : Int) else (u : Int) - (2 ^ n : Nat)

/-- Element `i` of a list, or a default. -/
def nth {α : Type} (d : α) : List α → Nat → α
  | [], _ => d
  | x :: _, 0 => x
  | _ :: xs, i + 1 => nth d xs i

/-- Replaces element `i` of a list. -/
def setNth {α : Type} : List α → Nat → α → List α
  | [], _, _ => []
  | _ :: xs, 0, v => v :: xs
  | x :: xs, i + 1, v => x :: setNth xs i v

/-- Whether a natural number occurs in a list. -/
def memNat (k : Nat) : List Nat → Bool
  | [] => false
  | x :: xs => decide (k = x) || memNat k xs

/-- The smallest index below `n` that passes a test. -/
def firstBelow (p : Nat → Bool) : Nat → Option Nat
  | 0 => none
  | n + 1 =>
    match firstBelow p n with
    | some k => some k
    | none => if p n then some n else none

/-- The smallest index of `[k, k + fuel)` that passes a test. -/
def firstFrom (p : Nat → Bool) : Nat → Nat → Option Nat
  | 0, _ => none
  | n + 1, k => if p k then some k else firstFrom p n (k + 1)

/-- Least of a value over the elements that pass, the first at a tie. -/
def leastBy {α : Type} (f : α → Nat) : List α → Option α
  | [] => none
  | x :: xs =>
    match leastBy f xs with
    | none => some x
    | some y => if f x ≤ f y then some x else some y

/-- Rounds up to a multiple. -/
def roundUp (n k : Nat) : Nat := (n + k - 1) / k * k

end Sys2Proof.Machine
end

