-- ==== Sys2Proof/Machine/Crypto.lean ====
section
/-! DEFINITION. The codes and ciphers the spec names by their public standards: CRC32C (R82, R415, Table 15-6),
SHA-256 and HMAC-SHA-256 (R414 to R416, R422, R438), SHA-384 and ECDSA on P-384 (R426), AES, GCM, XTS and
ChaCha20-Poly1305 (R306 to R309), the AES key wrap of RFC 3394 (R302, R416). PRESUMED: the standards' own text is
outside the spec (log entry 20). -/

namespace Sys2Proof.Machine

/-! ### CRC32C -/

/-- One bit of the reflected CRC32C register. -/
def crcBit (r : Nat) : Nat := if r % 2 = 1 then (r / 2) ^^^ 0x82F63B78 else r / 2

/-- Advances a CRC32C register by one byte, with no inversion. -/
def crcByte (r : Nat) (b : Byte) : Nat :=
  let x := r ^^^ b.toNat
  crcBit (crcBit (crcBit (crcBit (crcBit (crcBit (crcBit (crcBit x)))))))

/-- Advances a CRC32C register by bytes. -/
def crcBytes (r : Nat) (bs : List Byte) : Nat := bs.foldl crcByte r

/-- CRC32C with initial value 0xFFFF_FFFF and final inversion. -/
def crc32c (bs : List Byte) : Nat := crcBytes 0xFFFFFFFF bs ^^^ 0xFFFFFFFF

/-! ### SHA-256, HMAC-SHA-256 and SHA-384

One hash over words of a width, with the fractional bits of roots of primes as its constants. -/

/-- The primes below 410, smallest first: no divisor from 2 to 20 but themselves. -/
def smallPrimes : List Nat :=
  (List.range 410).filter fun n => decide (2 ≤ n) && (List.range 21).all fun d => decide (d < 2) || decide (n ≤ d) || decide (n % d ≠ 0)

/-- The largest r whose k-th power is at most x: bit by bit from r, `bits` of them left. -/
def rootFrom (k x : Nat) : Nat → Nat → Nat
  | 0, r => r
  | n + 1, r => rootFrom k x n (if (r + 2 ^ n) ^ k ≤ x then r + 2 ^ n else r)

/-- The first 64 fractional bits of the k-th root of p. -/
def rootFraction (k p : Nat) : Nat := rootFrom k (p * 2 ^ (64 * k)) 72 0 % 2 ^ 64

/-- The first 64 fractional bits of the cube roots of the first 80 primes. -/
def cubeFractions : List Nat := (smallPrimes.take 80).map (rootFraction 3)

/-- The first 64 fractional bits of the square roots of the first 16 primes. -/
def squareFractions : List Nat := (smallPrimes.take 16).map (rootFraction 2)

/-- A member of the family: rounds, round constants, initial value, and the rotations of its four mixing functions (the
last number of a schedule function is its shift). -/
structure ShaKind (w : Nat) where
  rounds : Nat
  keys : List (BitVec w)
  start : List (BitVec w)
  sumA : Nat × Nat × Nat
  sumE : Nat × Nat × Nat
  mixOld : Nat × Nat × Nat
  mixNew : Nat × Nat × Nat

/-- SHA-256. -/
def sha256Kind : ShaKind 32 :=
  { rounds := 64, keys := (cubeFractions.take 64).map fun f => BitVec.ofNat 32 (f / 2 ^ 32),
    start := (squareFractions.take 8).map fun f => BitVec.ofNat 32 (f / 2 ^ 32),
    sumA := (2, 13, 22), sumE := (6, 11, 25), mixOld := (7, 18, 3), mixNew := (17, 19, 10) }

/-- SHA-384. -/
def sha384Kind : ShaKind 64 :=
  { rounds := 80, keys := cubeFractions.map (BitVec.ofNat 64), start := (squareFractions.drop 8).map (BitVec.ofNat 64),
    sumA := (28, 34, 39), sumE := (14, 18, 41), mixOld := (1, 8, 7), mixNew := (19, 61, 6) }

/-- Three rotations of a word. -/
def turns {w : Nat} (r : Nat × Nat × Nat) (x : BitVec w) : BitVec w :=
  x.rotateRight r.1 ^^^ x.rotateRight r.2.1 ^^^ x.rotateRight r.2.2

/-- Two rotations and a shift of a word. -/
def turnsShift {w : Nat} (r : Nat × Nat × Nat) (x : BitVec w) : BitVec w :=
  x.rotateRight r.1 ^^^ x.rotateRight r.2.1 ^^^ (x >>> r.2.2)

/-- The padded message: 0x80, zeros, and the bit length in `lenBytes` bytes, to a multiple of `block`. -/
def shaPad (block lenBytes : Nat) (m : List Byte) : List Byte :=
  let used := m.length + 1 + lenBytes
  m ++ [0x80] ++ List.replicate (roundUp used block - used) 0 ++ beBytes lenBytes (8 * m.length)

/-- Big-endian words of `w` bytes each. -/
def beWords (w : Nat) (bits : Nat) : Nat → List Byte → List (BitVec bits)
  | 0, _ => []
  | n + 1, bs => BitVec.ofNat bits (beNat (bs.take w)) :: beWords w bits n (bs.drop w)

/-- The eight working words of the hash. -/
structure ShaWork (w : Nat) where
  a : BitVec w
  b : BitVec w
  c : BitVec w
  d : BitVec w
  e : BitVec w
  f : BitVec w
  g : BitVec w
  h : BitVec w

/-- `n` rounds: the round takes the oldest of the last 16 schedule words, `ws` (newest first), and puts the next in. -/
def shaRounds {w : Nat} (k : ShaKind w) : List (BitVec w) → List (BitVec w) → ShaWork w → ShaWork w
  | [], _, v => v
  | key :: keys, ws, v =>
    let word := nth 0 ws 15
    let added := v.h + turns k.sumE v.e + ((v.e &&& v.f) ||| (~~~v.e &&& v.g)) + key + word
    let major := (v.a &&& (v.b ||| v.c)) ||| (v.b &&& v.c)
    let fresh := word + turnsShift k.mixOld (nth 0 ws 14) + nth 0 ws 6 + turnsShift k.mixNew (nth 0 ws 1)
    shaRounds k keys (fresh :: ws.take 15)
      { a := added + turns k.sumA v.a + major, b := v.a, c := v.b, d := v.c, e := v.d + added, f := v.e, g := v.f, h := v.g }

/-- One block on the eight words of the hash value. -/
def shaBlock {w : Nat} (k : ShaKind w) (h : List (BitVec w)) (blk : List Byte) : List (BitVec w) :=
  let at' := nth 0 h
  let v := shaRounds k (k.keys.take k.rounds) (beWords (w / 8) w 16 blk).reverse
    { a := at' 0, b := at' 1, c := at' 2, d := at' 3, e := at' 4, f := at' 5, g := at' 6, h := at' 7 }
  List.zipWith (· + ·) h [v.a, v.b, v.c, v.d, v.e, v.f, v.g, v.h]

/-- `n` blocks of 2 w bytes. -/
def shaBlocks {w : Nat} (k : ShaKind w) : Nat → List (BitVec w) → List Byte → List (BitVec w)
  | 0, h, _ => h
  | n + 1, h, m => shaBlocks k n (shaBlock k h (m.take (2 * w))) (m.drop (2 * w))

/-- The hash value of a message, whole, big-endian. -/
def sha {w : Nat} (k : ShaKind w) (m : List Byte) : List Byte :=
  let p := shaPad (2 * w) (w / 4) m
  (shaBlocks k (p.length / (2 * w)) k.start p).flatMap fun x => beBytes (w / 8) x.toNat

/-- SHA-256: 32 bytes. -/
def sha256 (m : List Byte) : List Byte := sha sha256Kind m

/-- HMAC-SHA-256 under a key of at most 64 bytes. -/
def hmacSha256 (k m : List Byte) : List Byte :=
  let kp := k ++ List.replicate (64 - k.length) 0
  sha256 (kp.map (· ^^^ 0x5C) ++ sha256 (kp.map (· ^^^ 0x36) ++ m))

/-- SHA-384: the first 48 of the hash value's 64 bytes. -/
def sha384 (m : List Byte) : List Byte := (sha sha384Kind m).take 48

/-! ### ECDSA on P-384 -/

/-- The field prime of P-384. -/
def p384p : Nat := 2 ^ 384 - 2 ^ 128 - 2 ^ 96 + 2 ^ 32 - 1
/-- The order of the base point of P-384. -/
def p384n : Nat := 0xffffffffffffffffffffffffffffffffffffffffffffffffc7634d81f4372ddf581a0db248b0a77aecec196accc52973
/-- The coefficient b of P-384. -/
def p384b : Nat := 0xb3312fa7e23ee7e4988e056be3f82d19181d9c6efe8141120314088f5013875ac656398d8a2ed19d2a85c8edd3ec2aef
/-- The base point of P-384. -/
def p384g : Nat × Nat :=
  (0xaa87ca22be8b05378eb1c71ef320ad746e1d3b628ba79b9859f741e082542a385502f25dbf55296c3a545e3872760ab7,
   0x3617de4a96262c6f5d9e98bf9292dc29f8f41dbd289a147ce9da3113b5f0b8c00a60b1ce1d7e819d7a431d7c90ea0e5f)

/-- Modular power by `fuel` squarings. -/
def powMod (m : Nat) : Nat → Nat → Nat → Nat
  | 0, _, _ => 1 % m
  | fuel + 1, b, e => if e % 2 = 1 then b * powMod m fuel (b * b % m) (e / 2) % m else powMod m fuel (b * b % m) (e / 2)

/-- The inverse modulo a prime of at most 384 bits. -/
def invMod (m a : Nat) : Nat := powMod m 384 (a % m) (m - 2)

/-- Point addition on P-384; `none` is the point at infinity. -/
def p384Add : Option (Nat × Nat) → Option (Nat × Nat) → Option (Nat × Nat)
  | none, q => q
  | p, none => p
  | some (x1, y1), some (x2, y2) =>
    if x1 = x2 && (y1 + y2) % p384p = 0 then none else
    let l := if x1 = x2 then (3 * x1 * x1 + (p384p - 3)) * invMod p384p (2 * y1) % p384p
      else (y2 + (p384p - y1)) * invMod p384p (x2 + (p384p - x1)) % p384p
    let x3 := (l * l + (p384p - x1) + (p384p - x2)) % p384p
    some (x3, (l * (x1 + (p384p - x3)) + (p384p - y1)) % p384p)

/-- Scalar multiple of a point by `fuel` doublings. -/
def p384Mul : Nat → Nat → Option (Nat × Nat) → Option (Nat × Nat)
  | 0, _, _ => none
  | fuel + 1, k, p =>
    let r := p384Mul fuel (k / 2) (p384Add p p)
    if k % 2 = 1 then p384Add r p else r

/-- ECDSA P-384 over a SHA-384 digest: the signature verifies under the uncompressed public key. -/
def ecdsaP384 (pubkey digest sig : List Byte) : Bool :=
  let x := beNat ((pubkey.drop 1).take 48)
  let y := beNat ((pubkey.drop 49).take 48)
  let r := beNat (sig.take 48)
  let s := beNat ((sig.drop 48).take 48)
  let onCurve := decide (x < p384p) && decide (y < p384p) && decide ((y * y) % p384p = (x * x * x + (p384p - 3) * x + p384b) % p384p)
  let w := invMod p384n s
  let u1 := beNat digest * w % p384n
  let u2 := r * w % p384n
  decide (pubkey.head? = some 4) && onCurve && decide (0 < r) && decide (r < p384n) && decide (0 < s) && decide (s < p384n) &&
  (match p384Add (p384Mul 384 u1 (some p384g)) (p384Mul 384 u2 (some (x, y))) with
   | none => false
   | some (px, _) => decide (px % p384n = r))

/-! ### AES -/

/-- The AES substitution box as one number, byte b of it the value at b: the inverse of b in the AES field (0 for 0) under the affine map
that sums its rotations by 0 to 4 bits and 0x63. -/
def aesBoxWord : Nat :=
  0x16bb54b00f2d99416842e6bf0d89a18cdf2855cee9871e9b948ed9691198f8e19e1dc186b95735610ef6034866b53e708a8bbd4b1f74dde8c6b4a61c2e2578ba08ae7a65eaf4566ca94ed58d6d37c8e779e4959162acd3c25c2406490a3a32e0db0b5ede14b8ee4688902a22dc4f816073195d643d7ea7c41744975fec130ccdd2f3ff1021dab6bcf5389d928f40a351a89f3c507f02f94585334d43fbaaefd0cf584c4a39becb6a5bb1fc20ed00d153842fe329b3d63b52a05a6e1b1a2c830975b227ebe28012079a059618c323c7041531d871f1e5a534ccf73f362693fdb7c072a49cafa2d4adf04759fa7dc982ca76abd7fe2b670130c56f6bf27b777c63

/-- The inverse of the substitution box in the same form. -/
def aesUnboxWord : Nat :=
  0x7d0c2155631469e126d677ba7e042b17619953833cbbebc8b0f52aae4d3be0a0ef9cc9939f7ae52d0d4ab519a97f51605fec8027591012b131c7078833a8dd1ff45acd78fec0db9a2079d2c64b3e56fc1bbe18aa0e62b76f89c5291d711af1476edf751ce837f9e28535ade72274ac9673e6b4f0cecff297eadc674f4111913a6b8a130103bdafc1020f3fca8f1e2cd00645b3b80558e4f70ad3bc8c00abd890849d8da75746155edab9edfd5048706c92b6655dcc5ca4d41698688664f6f87225d18b6d49a25b76b224d92866a12e084ec3fa420b954cee3d23c2a632947b54cbe9dec444438e3487ff2f9b8239e37cfbd7f3819ea340bf38a53630d56a0952

/-- Bytewise exclusive or of byte strings. -/
def xorBytes (a b : List Byte) : List Byte := List.zipWith (fun x y => x ^^^ y) a b

/-- The low `n` bytes of packed bytes `x` through a substitution box, byte i of the result from byte (step · i) mod 16: a step of 1 leaves the
bytes in place, 5 is the shift of the rows and 13 its inverse. AES holds a word or a block packed, byte i at bits 8 i + 7 to 8 i. -/
def aesBytes (box step x : Nat) : Nat → Nat
  | 0 => 0
  | n + 1 => aesBytes box step x n + box / 2 ^ (8 * (x / 2 ^ (8 * (step * n % 16)) % 256)) % 256 * 2 ^ (8 * n)

/-- Each of 16 packed bytes times x in the AES field. -/
def aesTwice (x : Nat) : Nat :=
  (2 * (x &&& 0x7F7F7F7F7F7F7F7F7F7F7F7F7F7F7F7F)) ^^^ (0x1B * (x / 128 &&& 0x01010101010101010101010101010101))

/-- Each column turned by `j` bytes: its byte i becomes byte i + j mod 4. -/
def aesTurn (j x : Nat) : Nat :=
  let each := 0x00000001000000010000000100000001
  (x / 2 ^ (8 * j) &&& each * (2 ^ (32 - 8 * j) - 1)) ||| ((x &&& each * (2 ^ (8 * j) - 1)) * 2 ^ (32 - 8 * j))

/-- The column mix: the circulant of 2, 3, 1, 1. -/
def aesMix (x : Nat) : Nat := aesTwice (x ^^^ aesTurn 1 x) ^^^ aesTurn 1 x ^^^ aesTurn 2 x ^^^ aesTurn 3 x

/-- The inverse column mix: the circulant of 14, 11, 13, 9, which is the column mix after the circulant of 5, 0, 4, 0. -/
def aesUnmix (x : Nat) : Nat := aesMix (x ^^^ aesTwice (aesTwice (x ^^^ aesTurn 2 x)))

/-- The key schedule: words of four bytes, newest first, `n` more of them. -/
def aesExpand (nk : Nat) : Nat → Nat → Nat → List Nat → List Nat
  | 0, _, _, ws => ws
  | n + 1, i, rcon, ws =>
    let prev := nth 0 ws 0
    let sub := aesBytes aesBoxWord 1 prev 4
    let t := if i % nk = 0 then (sub / 256 + sub % 256 * 2 ^ 24) ^^^ rcon
      else if nk > 6 && i % nk = 4 then sub else prev
    aesExpand nk n (i + 1) (if i % nk = 0 then aesTwice rcon else rcon) ((nth 0 ws (nk - 1) ^^^ t) :: ws)

/-- Groups of four words as round keys. -/
def aesGroup : Nat → List Nat → List Nat
  | 0, _ => []
  | n + 1, ws => (nth 0 ws 0 + nth 0 ws 1 * 2 ^ 32 + nth 0 ws 2 * 2 ^ 64 + nth 0 ws 3 * 2 ^ 96) :: aesGroup n (ws.drop 4)

/-- Words of four bytes of a key. -/
def aesKeyWords : Nat → List Byte → List Nat
  | 0, _ => []
  | n + 1, k => leNat (k.take 4) :: aesKeyWords n (k.drop 4)

/-- The round keys of a 16-byte or 32-byte key. -/
def aesKeys (key : List Byte) : List Nat :=
  let nk := key.length / 4
  let rounds := nk + 6
  aesGroup (rounds + 1) (aesExpand nk (4 * (rounds + 1) - nk) nk 1 (aesKeyWords nk key).reverse).reverse

/-- The middle and last rounds of encryption. -/
def aesEncRounds : List Nat → Nat → Nat
  | [], s => s
  | [k], s => k ^^^ aesBytes aesBoxWord 5 s 16
  | k :: ks, s => aesEncRounds ks (k ^^^ aesMix (aesBytes aesBoxWord 5 s 16))

/-- AES encryption of one 16-byte block under expanded keys. -/
def aesEncWith (ks : List Nat) (blk : List Byte) : List Byte :=
  match ks with
  | [] => blk
  | k :: rest => leBytes 16 (aesEncRounds rest (k ^^^ leNat blk))

/-- The middle and last rounds of decryption, keys newest first. -/
def aesDecRounds : List Nat → Nat → Nat
  | [], s => s
  | [k], s => k ^^^ aesBytes aesUnboxWord 13 s 16
  | k :: ks, s => aesDecRounds ks (aesUnmix (k ^^^ aesBytes aesUnboxWord 13 s 16))

/-- AES decryption of one 16-byte block under expanded keys. -/
def aesDecWith (ks : List Nat) (blk : List Byte) : List Byte :=
  match ks.reverse with
  | [] => blk
  | k :: rest => leBytes 16 (aesDecRounds rest (k ^^^ leNat blk))

/-- AES encryption of one block. -/
def aesEnc (key blk : List Byte) : List Byte := aesEncWith (aesKeys key) blk

/-- AES decryption of one block. -/
def aesDec (key blk : List Byte) : List Byte := aesDecWith (aesKeys key) blk

/-! ### Counter mode, GHASH and GCM -/

/-- Cuts bytes into 16-byte blocks, the last one as long as it is. -/
def blocks16 : Nat → List Byte → List (List Byte)
  | 0, _ => []
  | _ + 1, [] => []
  | n + 1, bs => bs.take 16 :: blocks16 n (bs.drop 16)

/-- Counter mode from a 12-byte nonce and a first counter value. -/
def aesCtr (ks : List Nat) (iv : List Byte) : Nat → List (List Byte) → List Byte
  | _, [] => []
  | c, b :: bs => xorBytes b (aesEncWith ks (iv ++ beBytes 4 c)) ++ aesCtr ks iv (c + 1) bs

/-- Multiplication in the field of GHASH: bit 127 of the number is the coefficient of degree 0. -/
def ghashMulLoop : Nat → Nat → Nat → Nat → Nat
  | 0, _, _, z => z
  | n + 1, x, v, z =>
    let z' := if x.testBit n then z ^^^ v else z
    let v' := if v % 2 = 1 then (v / 2) ^^^ (0xE1 <<< 120) else v / 2
    ghashMulLoop n x v' z'

/-- The GHASH product. -/
def ghashMul (x y : Nat) : Nat := ghashMulLoop 128 x y 0

/-- Zero padding to a multiple of 16 bytes. -/
def pad16 (bs : List Byte) : List Byte := bs ++ List.replicate (roundUp bs.length 16 - bs.length) 0

/-- GHASH over the padded additional data, the padded text and the two bit lengths. -/
def ghash (h : Nat) (aad ct : List Byte) : Nat :=
  let m := pad16 aad ++ pad16 ct ++ beBytes 8 (8 * aad.length) ++ beBytes 8 (8 * ct.length)
  (blocks16 m.length m).foldl (fun y b => ghashMul (y ^^^ beNat b) h) 0

/-- The GCM tag of a ciphertext under a 12-byte nonce. -/
def gcmTag (key iv aad ct : List Byte) : List Byte :=
  let ks := aesKeys key
  let h := beNat (aesEncWith ks (List.replicate 16 0))
  xorBytes (beBytes 16 (ghash h aad ct)) (aesEncWith ks (iv ++ beBytes 4 1))

/-- GCM encryption: ciphertext and tag. -/
def gcmSeal (key iv aad pt : List Byte) : List Byte × List Byte :=
  let ct := aesCtr (aesKeys key) iv 2 (blocks16 pt.length pt)
  (ct, gcmTag key iv aad ct)

/-- GCM decryption without the tag check. -/
def gcmOpen (key iv ct : List Byte) : List Byte := aesCtr (aesKeys key) iv 2 (blocks16 ct.length ct)

/-! ### XTS -/

/-- Multiplication of an XTS tweak by x. -/
def xtsDouble (t : List Byte) : List Byte :=
  let v := leNat t
  let d := (2 * v) % 2 ^ 128
  leBytes 16 (if v.testBit 127 then d ^^^ 0x87 else d)

/-- XTS over whole 16-byte blocks. -/
def xtsBlocks (f : List Byte → List Byte) : List (List Byte) → List Byte → List Byte
  | [], _ => []
  | b :: bs, t => xorBytes (f (xorBytes b t)) t ++ xtsBlocks f bs (xtsDouble t)

/-- XTS encryption of a data unit of whole blocks under the two key halves. -/
def xtsEnc (k1 k2 tweak data : List Byte) : List Byte :=
  let ks := aesKeys k1
  xtsBlocks (aesEncWith ks) (blocks16 data.length data) (aesEnc k2 tweak)

/-- XTS decryption of a data unit of whole blocks. -/
def xtsDec (k1 k2 tweak data : List Byte) : List Byte :=
  let ks := aesKeys k1
  xtsBlocks (aesDecWith ks) (blocks16 data.length data) (aesEnc k2 tweak)

/-! ### ChaCha20-Poly1305 -/

/-- The ChaCha20 quarter round at four positions. -/
def chachaQ (s : List (BitVec 32)) (a b c d : Nat) : List (BitVec 32) :=
  let xa := nth 0 s a + nth 0 s b
  let xd := (nth 0 s d ^^^ xa).rotateLeft 16
  let xc := nth 0 s c + xd
  let xb := (nth 0 s b ^^^ xc).rotateLeft 12
  let xa := xa + xb
  let xd := (xd ^^^ xa).rotateLeft 8
  let xc := xc + xd
  let xb := (xb ^^^ xc).rotateLeft 7
  setNth (setNth (setNth (setNth s a xa) b xb) c xc) d xd

/-- `n` double rounds. -/
def chachaRounds : Nat → List (BitVec 32) → List (BitVec 32)
  | 0, s => s
  | n + 1, s =>
    let s := chachaQ (chachaQ (chachaQ (chachaQ s 0 4 8 12) 1 5 9 13) 2 6 10 14) 3 7 11 15
    let s := chachaQ (chachaQ (chachaQ (chachaQ s 0 5 10 15) 1 6 11 12) 2 7 8 13) 3 4 9 14
    chachaRounds n s

/-- Little-endian 32-bit words. -/
def leWords32 : Nat → List Byte → List (BitVec 32)
  | 0, _ => []
  | n + 1, bs => BitVec.ofNat 32 (leNat (bs.take 4)) :: leWords32 n (bs.drop 4)

/-- One 64-byte key stream block. -/
def chachaBlock (key nonce : List Byte) (ctr : Nat) : List Byte :=
  let s := [0x61707865, 0x3320646e, 0x79622d32, 0x6b206574] ++ leWords32 8 key ++ [BitVec.ofNat 32 ctr] ++ leWords32 3 nonce
  (List.zipWith (· + ·) s (chachaRounds 10 s)).flatMap fun w => leBytes 4 w.toNat

/-- The key stream exclusive-ored over `n` blocks. -/
def chachaXor (key nonce : List Byte) : Nat → Nat → List Byte → List Byte
  | 0, _, _ => []
  | n + 1, ctr, bs => xorBytes (bs.take 64) (chachaBlock key nonce ctr) ++ chachaXor key nonce n (ctr + 1) (bs.drop 64)

/-- The Poly1305 accumulator over 16-byte blocks. -/
def polyAcc (r : Nat) : List (List Byte) → Nat → Nat
  | [], a => a
  | b :: bs, a => polyAcc r bs ((a + leNat (b ++ [1])) * r % (2 ^ 130 - 5))

/-- Poly1305 of a message under a one-time key of 32 bytes. -/
def poly1305 (k m : List Byte) : List Byte :=
  let r := leNat (k.take 16) &&& 0x0ffffffc0ffffffc0ffffffc0fffffff
  leBytes 16 (polyAcc r (blocks16 m.length m) 0 + leNat (k.drop 16))

/-- The tag of ChaCha20-Poly1305. -/
def chachaTag (key nonce aad ct : List Byte) : List Byte :=
  poly1305 ((chachaBlock key nonce 0).take 32)
    (pad16 aad ++ pad16 ct ++ leBytes 8 aad.length ++ leBytes 8 ct.length)

/-- ChaCha20-Poly1305 encryption: ciphertext and tag. -/
def chachaSeal (key nonce aad pt : List Byte) : List Byte × List Byte :=
  let ct := chachaXor key nonce (pt.length / 64 + 1) 1 pt
  (ct, chachaTag key nonce aad ct)

/-- ChaCha20 decryption without the tag check. -/
def chachaOpen (key nonce ct : List Byte) : List Byte := chachaXor key nonce (ct.length / 64 + 1) 1 ct

/-! ### RFC 3394 key wrap -/

/-- Eight-byte blocks. -/
def blocks8 : Nat → List Byte → List (List Byte)
  | 0, _ => []
  | n + 1, bs => bs.take 8 :: blocks8 n (bs.drop 8)

/-- The unwrap steps t, t − 1, … 1 over n blocks. -/
def unwrapSteps (ks : List Nat) (n : Nat) : Nat → List Byte → List (List Byte) → List Byte × List (List Byte)
  | 0, a, r => (a, r)
  | t + 1, a, r =>
    let i := t % n
    let b := aesDecWith ks (xorBytes a (beBytes 8 (t + 1)) ++ nth [] r i)
    unwrapSteps ks n t (b.take 8) (setNth r i (b.drop 8))

/-- The AES key unwrap of RFC 3394 with the default initial value; none where its integrity check fails. -/
def keyUnwrap (kek blob : List Byte) : Option (List Byte) :=
  let n := blob.length / 8 - 1
  let (a, r) := unwrapSteps (aesKeys kek) n (6 * n) (blob.take 8) (blocks8 n (blob.drop 8))
  if a = List.replicate 8 0xA6 then some r.flatten else none

/-- The wrap steps 1 … t over n blocks. -/
def wrapSteps (ks : List Nat) (n : Nat) : Nat → Nat → List Byte → List (List Byte) → List Byte × List (List Byte)
  | 0, _, a, r => (a, r)
  | fuel + 1, t, a, r =>
    let i := t % n
    let b := aesEncWith ks (a ++ nth [] r i)
    wrapSteps ks n fuel (t + 1) (xorBytes (b.take 8) (beBytes 8 (t + 1))) (setNth r i (b.drop 8))

/-- The AES key wrap of RFC 3394 with the default initial value. -/
def keyWrap (kek key : List Byte) : List Byte :=
  let n := key.length / 8
  let (a, r) := wrapSteps (aesKeys kek) n (6 * n) 0 (List.replicate 8 0xA6) (blocks8 n key)
  a ++ r.flatten

end Sys2Proof.Machine
end

