-- ==== Sys2Proof/Machine/Codes.lean ====
section
/-! DEFINITION. The status codes of every chapter (R14, R15) and the faults with their codes (R472) and classes (R18). -/

namespace Sys2Proof.Machine

/-- A 16-bit status code (R14). -/
abbrev Status := Nat

/-- A fault: its code, high byte the subsystem's, low byte its place among the subsystem's faults (R472), and its class code (Table 0-6). -/
structure FaultKind where
  code : Nat
  cls  : Nat
  deriving DecidableEq, Repr

/-- The request completed as asked. -/
def Code.OK : Status := 0x0000
/-- The target island or unit was fenced, in reset or unpowered, or its reply was lost at the fence. -/
def Code.ABSENT : Status := 0x0001
/-- The data involved carried a poison mark. -/
def Code.POISONED : Status := 0x0002
/-- An authentication check failed, or a critical action arrived without one. -/
def Code.DENIED : Status := 0x0003
/-- A field of the request lies outside its defined range. -/
def Code.BAD_ARGUMENT : Status := 0x0004
/-- The addressed entry, key or object does not exist. -/
def Code.NOT_FOUND : Status := 0x0005
/-- A bounded wait expired before completion. -/
def Code.TIMEOUT : Status := 0x0006
/-- No buffer or pool entry was available, fallback included. -/
def Code.EMPTY : Status := 0x0007
/-- The stall detector ended the thread. -/
def Code.DEADLOCK : Status := 0x0008
/-- A DMA job ended because Bus Master Enable was cleared. -/
def Code.MASTER_OFF : Status := 0x0009
/-- A commit was requested while 4 versions of the bank were live or sealed. -/
def Code.VERSIONS_BUSY : Status := 0x000A
/-- The request exceeds the slice's resource quota. -/
def Code.QUOTA : Status := 0x000B
/-- The request names a feature or option the adapter does not provide. -/
def Code.UNSUPPORTED : Status := 0x000C
/-- The activation time lies before current time plus FT_ARM_LEAD. -/
def Code.TOO_LATE : Status := 0x0200
/-- All 1,024 entries are PENDING or ARMED. -/
def Code.SAT_FULL : Status := 0x0201
/-- The entry is PENDING or ARMED and the write is not a permitted cancel. -/
def Code.ENTRY_BUSY : Status := 0x0202
/-- The activation time is not later than that of a live entry for the same bank, port or pattern engine. -/
def Code.ORDER : Status := 0x0203
/-- A step is not permitted in the current mode. -/
def Code.TIME_LOCKED : Status := 0x0204
/-- R76, or an illegal operand under R83, R84, R85, R87 or R89. -/
def Code.EXC_ILLEGAL : Status := 0x0900
/-- Access outside a space, or a store or atomic to a space that does not permit it, R70. -/
def Code.EXC_SPACE : Status := 0x0901
/-- Misaligned access, R70. -/
def Code.EXC_ALIGN : Status := 0x0902
/-- call with 8 entries held, or ret with none. -/
def Code.EXC_STACK : Status := 0x0903
/-- Access at or beyond PLEN, R70. -/
def Code.EXC_PKT_BOUND : Status := 0x0904
/-- verd or malf issued by a helper. -/
def Code.EXC_NOT_ROOT : Status := 0x0905
/-- brk with debug not enabled. -/
def Code.EXC_BREAK : Status := 0x0906
/-- sendt found no credit, or the 4-request limit was reached. -/
def Code.NO_CREDIT : Status := 0x0907
/-- recvt found the channel empty. -/
def Code.NO_MESSAGE : Status := 0x0908
/-- The channel does not permit the operation, R112 and R113. -/
def Code.BAD_CHANNEL : Status := 0x0909
/-- The join names no filled slot of this thread. -/
def Code.BAD_JOIN : Status := 0x090A
/-- The thread already holds 8 unjoined helpers. -/
def Code.FORK_LIMIT : Status := 0x090B
/-- Exit status: the parent ended while the helper was live. -/
def Code.ORPHANED : Status := 0x090C
/-- Exit status: the debugger killed the thread. -/
def Code.KILLED : Status := 0x090D
/-- A channel configuration write met a queued message or a blocked thread. -/
def Code.CHAN_BUSY : Status := 0x090E
/-- A debug operation needs a halted thread. -/
def Code.DBG_NOT_HALTED : Status := 0x090F
/-- Debug is not enabled for the Mill. -/
def Code.DBG_DISABLED : Status := 0x0910
/-- Resume or step refused: the Mill was stopped by HALT_MILL. -/
def Code.MILL_STOPPED : Status := 0x0911
/-- The write would change a rule that a lookup may see, R171 and R175. -/
def Code.RULE_LIVE : Status := 0x0A00
/-- A scheme change met a valid entry or a sealed version, R170. -/
def Code.BANK_BUSY : Status := 0x0A01
/-- A load or swap met a pending swap, an old slot still in use, or a load in progress, R183. -/
def Code.PRICKING_BUSY : Status := 0x0A02
/-- The pricking image failed a check, R182. -/
def Code.BAD_PRICKING : Status := 0x0A03
/-- A swap was requested with the standby slot not READY. -/
def Code.NO_STANDBY : Status := 0x0A04
/-- No pricking slot is active at the packet's stamp. -/
def Code.NO_PRICKING : Status := 0x0A05
/-- INSERT found the key present. -/
def Code.EXISTS : Status := 0x0B00
/-- No slot, overflow entry or evictable occupant, R206. -/
def Code.TABLE_FULL : Status := 0x0B01
/-- The table, LPM table or counter store is disabled. -/
def Code.TABLE_OFF : Status := 0x0B02
/-- A region would overlap another or exceed the engine's words, R191. -/
def Code.OVERLAP : Status := 0x0B03
/-- A write touched an enabled table's area or fixed field, R191 and R219. -/
def Code.TABLE_ENABLED : Status := 0x0B04
/-- The prefix store has no free unit. -/
def Code.LPM_FULL : Status := 0x0B05
/-- The enable scan found an inconsistent table, R218. -/
def Code.BAD_IMAGE : Status := 0x0B06
/-- GO written while an operator op is running. -/
def Code.OP_BUSY : Status := 0x0B07
/-- The bobbin is FREE, RESERVED or QUARANTINED. -/
def Code.NOT_HELD : Status := 0x0800
/-- A tenant agent named a bobbin of another slice or of the system. -/
def Code.FOREIGN : Status := 0x0801
/-- The request needs a bound reference or an ALLOC bobbin of the requester. -/
def Code.NOT_BOUND : Status := 0x0802
/-- SHARE at REF = 255. -/
def Code.REF_LIMIT : Status := 0x0803
/-- Four ALLOC bobbins already bound to the packet or thread. -/
def Code.ALLOC_LIMIT : Status := 0x0804
/-- A pool change met HELD or RESERVED bobbins, or an enabled pool. -/
def Code.POOL_BUSY : Status := 0x0805
/-- The change needs the port, or every port of the group, disabled. -/
def Code.PORT_ENABLED : Status := 0x0600
/-- The port is not provided by the group's mode. -/
def Code.PORT_ABSENT : Status := 0x0601
/-- A loopback was requested outside Diagnostic. -/
def Code.WRONG_MODE : Status := 0x0602
/-- The queue is disabled or does not exist. -/
def Code.NO_QUEUE : Status := 0x0700
/-- The slice may not use the queue, R279. -/
def Code.FOREIGN_QUEUE : Status := 0x0701
/-- The limit for the packet's colour was reached. -/
def Code.QUEUE_FULL : Status := 0x0702
/-- Red with RED_DROP = 1. -/
def Code.POLICED : Status := 0x0703
/-- No queue entry was free. -/
def Code.NO_ENTRY : Status := 0x0704
/-- The port is in the link-down drop state, R288. -/
def Code.LINK_DOWN : Status := 0x0705
/-- The change needs a disabled, empty queue. -/
def Code.QUEUE_BUSY : Status := 0x0706
/-- A write to a gate list in use, R287. -/
def Code.LIST_ACTIVE : Status := 0x0707
/-- The context has VALID = 0. -/
def Code.CTX_INVALID : Status := 0x0C00
/-- The context belongs to another slice. -/
def Code.FOREIGN_CONTEXT : Status := 0x0C01
/-- The channel does not serve the context's suite. -/
def Code.SUITE_MISMATCH : Status := 0x0C02
/-- No sequence number is left, R305. -/
def Code.SEQ_EXHAUSTED : Status := 0x0C03
/-- A TLS context's state was lost, R304. -/
def Code.SEQ_LOST : Status := 0x0C04
/-- The OPEN source is malformed, R307. -/
def Code.PARSE : Status := 0x0C05
/-- Rejected by the replay window. -/
def Code.REPLAY : Status := 0x0C06
/-- The tag did not verify. -/
def Code.AUTH_FAIL : Status := 0x0C07
/-- WRAP_TAG failed, R303. -/
def Code.CTX_CORRUPT : Status := 0x0C08
/-- INSTALL onto a valid context. -/
def Code.CTX_BUSY : Status := 0x0C09
/-- The key blob failed its integrity check. -/
def Code.UNWRAP_FAIL : Status := 0x0C0A
/-- The connection has VALID = 0. -/
def Code.CONN_INVALID : Status := 0x0D00
/-- The connection belongs to another slice. -/
def Code.FOREIGN_CONN : Status := 0x0D01
/-- The segment lies wholly before EXP_SEQ. -/
def Code.OLD : Status := 0x0D02
/-- The segment starts after EXP_SEQ; the connection is lost. -/
def Code.GAP : Status := 0x0D03
/-- The connection awaits resynchronisation. -/
def Code.LOST : Status := 0x0D04
/-- A transmit payload does not hold whole PDUs. -/
def Code.PARTIAL_PDU : Status := 0x0D05
/-- A change other than EXP_SEQ to a valid connection. -/
def Code.CONN_BUSY : Status := 0x0D06
/-- The endpoint is sluiced and issues no request. -/
def Code.SLUICED : Status := 0x0300
/-- A release was refused, R340. -/
def Code.SLUICE_HELD : Status := 0x0301
/-- A write to a window of the active bank. -/
def Code.PEER_BANK_ACTIVE : Status := 0x0302
/-- A topology change outside Provision or with a queue enabled. -/
def Code.TOPOLOGY_BUSY : Status := 0x0303
/-- BIND of a bound slice. -/
def Code.BOUND : Status := 0x0400
/-- The PASID is bound to another slice. -/
def Code.PASID_BUSY : Status := 0x0401
/-- UNBIND or a quota PUT met a resource in use, R349 and R351. -/
def Code.SLICE_BUSY : Status := 0x0402
/-- UNBIND of an unbound slice. -/
def Code.UNBOUND : Status := 0x0403
/-- No resize record is free. -/
def Code.RESIZE_FULL : Status := 0x0404
/-- The slice has no binding. -/
def Code.NO_PASID : Status := 0x0500
/-- A send broke R362 or R370. -/
def Code.SEND_INVALID : Status := 0x0501
/-- A send or packet exceeded what its path takes. -/
def Code.TOO_LONG : Status := 0x0502
/-- The host completed a read with an error. -/
def Code.HOST_ERROR : Status := 0x0503
/-- A change not permitted while ENABLE = 1. -/
def Code.QP_BUSY : Status := 0x0504
/-- RESTART of a queue pair not HALTED. -/
def Code.NOT_HALTED : Status := 0x0505
/-- The change needs the channel out of READY. -/
def Code.CHANNEL_READY : Status := 0x0E00
/-- The packet is not framed, R405. -/
def Code.BAD_PACKET : Status := 0x0100
/-- COUNTER does not exceed LAST_COUNTER, R413. -/
def Code.STALE_COUNTER : Status := 0x0101
/-- The result would exceed the access point's limit. -/
def Code.RESULT_FULL : Status := 0x0102
/-- STAGE to a sealed group. -/
def Code.GROUP_SEALED : Status := 0x0103
/-- A stage group limit would be exceeded. -/
def Code.GROUP_FULL : Status := 0x0104
/-- The session or target is in use. -/
def Code.SESSION_BUSY : Status := 0x0105
/-- The session is not open. -/
def Code.NO_SESSION : Status := 0x0106
/-- OFFSET is not the next byte expected. -/
def Code.OUT_OF_ORDER : Status := 0x0107
/-- An image header, length, entry or CRC check failed. -/
def Code.IMAGE_BAD : Status := 0x0108
/-- A key blob failed its integrity check. -/
def Code.KEY_UNWRAP : Status := 0x0109
/-- The blob's GENERATION is not newer than the slot's. -/
def Code.GENERATION : Status := 0x010A
/-- A firmware image did not verify, R426. -/
def Code.SIGNATURE : Status := 0x010B
/-- The mode does not accept the command word. -/
def Code.MODE_REFUSED : Status := 0x010C
/-- A flash write failed. -/
def Code.FLASH_FAIL : Status := 0x010D
/-- The packet is addressed to another station, R405. -/
def Code.WRONG_STATION : Status := 0x010E
/-- A replica error exceeds 0.75 ns (R47). -/
def Flt.FT_REPLICA_SKEW : FaultKind := ⟨0x0200, 2⟩
/-- The selected source has been absent for 10 s; the state becomes HOLDOVER. -/
def Flt.FT_SOURCE_LOST : FaultKind := ⟨0x0201, 0⟩
/-- A Scheduled Action Table entry ended FAILED. -/
def Flt.FT_ACTION_FAILED : FaultKind := ⟨0x0202, 0⟩
/-- The Fantail time PLL lost lock. -/
def Flt.FT_TIME_PLL_FAIL : FaultKind := ⟨0x0203, 3⟩
/-- A load or partial store touched a poisoned word, R74. -/
def Flt.MA_POISON_READ : FaultKind := ⟨0x0900, 1⟩
/-- An instruction was fetched from a poisoned word, R74. -/
def Flt.MA_IFETCH_POISON : FaultKind := ⟨0x0901, 1⟩
/-- The stall detector applied HALT_MILL, R125. -/
def Flt.MA_MILL_DEADLOCK : FaultKind := ⟨0x0902, 2⟩
/-- The Control Plane ended a thread to resolve a deadlock across Mills, R126. -/
def Flt.MA_XMILL_DEADLOCK : FaultKind := ⟨0x0903, 0⟩
/-- A resident thread ended, R111. -/
def Flt.MA_RESIDENT_END : FaultKind := ⟨0x0904, 0⟩
/-- A packet's metadata carried a poison mark at Dispatch, R140. -/
def Flt.MA_META_POISON : FaultKind := ⟨0x0905, 1⟩
/-- A lookup read a poisoned rule word, R181. -/
def Flt.CL_RULE_POISON : FaultKind := ⟨0x0A00, 1⟩
/-- A scan read a poisoned pricking word, R185. -/
def Flt.CL_PRICKING_POISON : FaultKind := ⟨0x0A01, 1⟩
/-- A flow cache line carried a poison mark. -/
def Flt.TE_FC_POISON : FaultKind := ⟨0x0B00, 0⟩
/-- A bucket word carried a poison mark. -/
def Flt.TE_BUCKET_POISON : FaultKind := ⟨0x0B01, 1⟩
/-- A record word carried a poison mark. -/
def Flt.TE_RECORD_POISON : FaultKind := ⟨0x0B02, 1⟩
/-- An overflow entry carried a poison mark. -/
def Flt.TE_OVF_POISON : FaultKind := ⟨0x0B03, 1⟩
/-- A counter store word carried a poison mark. -/
def Flt.TE_CNT_POISON : FaultKind := ⟨0x0B04, 1⟩
/-- RELEASE of a bobbin that is not HELD, R234. -/
def Flt.BP_DOUBLE_FREE : FaultKind := ⟨0x0800, 0⟩
/-- RELEASE by a tenant agent of a bobbin it does not own, R234. -/
def Flt.BP_FOREIGN_RELEASE : FaultKind := ⟨0x0801, 0⟩
/-- A state word or free-list word carried a poison mark, R241. -/
def Flt.BP_STATE_POISON : FaultKind := ⟨0x0802, 1⟩
/-- A SerDes PLL of the group lost lock; the group is fenced. -/
def Flt.PX_LANE_PLL_FAIL : FaultKind := ⟨0x0600, 2⟩
/-- A frame left with a stomped FCS for poison, R257. -/
def Flt.PX_TX_POISON : FaultKind := ⟨0x0601, 1⟩
/-- A tenant slice named a queue it may not use. -/
def Flt.TM_FOREIGN_QUEUE : FaultKind := ⟨0x0700, 0⟩
/-- A queue entry carried a poison mark, R296. -/
def Flt.TM_ENTRY_POISON : FaultKind := ⟨0x0701, 1⟩
/-- A tenant named another slice's context. -/
def Flt.CE_FOREIGN_CONTEXT : FaultKind := ⟨0x0C00, 0⟩
/-- A context word carried a poison mark. -/
def Flt.CE_CTX_POISON : FaultKind := ⟨0x0C01, 1⟩
/-- A context failed its WRAP_TAG check. -/
def Flt.CE_CTX_CORRUPT : FaultKind := ⟨0x0C02, 1⟩
/-- A tenant named another slice's connection. -/
def Flt.ST_FOREIGN_CONN : FaultKind := ⟨0x0D00, 0⟩
/-- The endpoint entered Sluice, R338. -/
def Flt.HE_SLUICE_ENTRY : FaultKind := ⟨0x0300, 0⟩
/-- An uncorrectable error on the endpoint's internal path. -/
def Flt.HE_PATH_UE : FaultKind := ⟨0x0301, 1⟩
/-- The endpoint's SerDes PLL lost lock; the island is fenced and the endpoint is sluiced with CAUSE 7. -/
def Flt.HE_LINK_PLL_FAIL : FaultKind := ⟨0x0302, 2⟩
/-- A doorbell named an object of another slice, R358. -/
def Flt.SM_DB_FOREIGN : FaultKind := ⟨0x0400, 0⟩
/-- A queue pair entered HALTED, R379. -/
def Flt.DE_QUEUE_HALT : FaultKind := ⟨0x0500, 0⟩
/-- A fetched descriptor carried a poison mark. -/
def Flt.DE_DESC_POISON : FaultKind := ⟨0x0501, 1⟩
/-- An uncorrectable QDR word was found, R389. -/
def Flt.MC_QDR_UE : FaultKind := ⟨0x0E00, 1⟩
/-- An uncorrectable on-die word was found, R389 and R400. -/
def Flt.MC_SRAM_UE : FaultKind := ⟨0x0E01, 1⟩
/-- Corrected words passed CE_STORM within one second, R397. -/
def Flt.MC_CE_STORM : FaultKind := ⟨0x0E02, 0⟩
/-- A QDR port was disabled, R397. -/
def Flt.MC_PORT_DOWN : FaultKind := ⟨0x0E03, 0⟩
/-- Both ports of a channel failed; the channel is fenced at its edge, R397. -/
def Flt.MC_CHANNEL_FAIL : FaultKind := ⟨0x0E04, 2⟩
/-- A tenant frame carried the command EtherType, R409. -/
def Flt.CP_CMD_SPOOF : FaultKind := ⟨0x0100, 0⟩
/-- A journal block was retired, R424. -/
def Flt.CP_FLASH_RETIRE : FaultKind := ⟨0x0101, 0⟩
/-- Journal mirroring stopped, R424. -/
def Flt.CP_FLASH_FAIL : FaultKind := ⟨0x0102, 0⟩
/-- Neither key store copy is valid, R417. -/
def Flt.CP_KEYSTORE_FAIL : FaultKind := ⟨0x0103, 0⟩
/-- No firmware copy verified, R427. -/
def Flt.CP_BOOT_FAIL : FaultKind := ⟨0x0104, 3⟩
/-- A billing minute could not close and was merged, R437. -/
def Flt.CP_BILL_MERGE : FaultKind := ⟨0x0105, 0⟩
/-- A part failed self-test, R451; a failure in AO or MR is applied as fatal-device with ESCALATED = 1 (R475). -/
def Flt.CP_SELFTEST_FAIL : FaultKind := ⟨0x0106, 2⟩
/-- Watchdog expiry, R461. -/
def Flt.CP_WATCHDOG : FaultKind := ⟨0x0107, 3⟩
/-- A supply monitor left range while PWR_OK stayed high. -/
def Flt.CP_SUPPLY_FAULT : FaultKind := ⟨0x0108, 3⟩
/-- R471. -/
def Flt.CP_THERMAL_THROTTLE : FaultKind := ⟨0x0109, 0⟩
/-- R471. -/
def Flt.CP_THERMAL_TRIP : FaultKind := ⟨0x010A, 3⟩
/-- R470. -/
def Flt.CP_AVS_LIMIT : FaultKind := ⟨0x010B, 0⟩
/-- R470. -/
def Flt.CP_ISLAND_CLOCK : FaultKind := ⟨0x010C, 2⟩
/-- R467. -/
def Flt.CP_POWER_FAIL : FaultKind := ⟨0x010D, 2⟩
/-- R475. -/
def Flt.CP_DEFERRED_STORM : FaultKind := ⟨0x010E, 2⟩

end Sys2Proof.Machine
end

