-- ==== Sys2Proof/Machine/RegNames.lean ====
section
/-! DEFINITION. The register names of the Control Address Space: for every register table of spec/ the address of the
register (its index arguments in the order of the table's heading) and, for every field, its word, its lowest bit and
its width. Chapter and table are those of the spec file named above each group. The values are the spec's own. -/

namespace Sys2Proof.Machine

/-- A field of a register or of a record of several 64-bit words: the word it stands in, its lowest bit, its width (R1). -/
structure Fld where
  word  : Nat
  lo    : Nat
  width : Nat
  deriving DecidableEq, Repr


/-! Registers of spec/02_device_time.md. -/
def A.FT_SAT (n : Nat) : Nat := 0x10001000 + 32 * n
def F.FT_SAT_TIME_NS : Fld := ⟨0, 0, 64⟩
def F.FT_SAT_TIME_FRAC : Fld := ⟨1, 0, 16⟩
def F.FT_SAT_KIND : Fld := ⟨1, 16, 8⟩
def F.FT_SAT_STATE : Fld := ⟨1, 24, 3⟩
def F.FT_SAT_LATE : Fld := ⟨1, 27, 1⟩
def F.FT_SAT_RESULT : Fld := ⟨1, 32, 16⟩
def F.FT_SAT_DELAY_NS : Fld := ⟨1, 48, 16⟩
def F.FT_SAT_ARG0 : Fld := ⟨2, 0, 64⟩
def F.FT_SAT_ARG1 : Fld := ⟨3, 0, 64⟩
def A.FT_CTRL : Nat := 0x10000000
def F.FT_CTRL_SOURCE : Fld := ⟨0, 0, 3⟩
def F.FT_CTRL_TCLK_FREQ : Fld := ⟨0, 3, 1⟩
def F.FT_CTRL_PTP_ROLE : Fld := ⟨0, 4, 1⟩
def F.FT_CTRL_PPS_OUT_EN : Fld := ⟨0, 5, 1⟩
def F.FT_CTRL_PTP_PORT : Fld := ⟨0, 8, 4⟩
def A.FT_STATUS : Nat := 0x10000008
def F.FT_STATUS_STATE : Fld := ⟨0, 0, 2⟩
def F.FT_STATUS_STEP_BUSY : Fld := ⟨0, 2, 1⟩
def F.FT_STATUS_SAT_LIVE : Fld := ⟨0, 16, 11⟩

/-! Registers of spec/03_fecia_isa.md. -/
def A.MA_EXC_LOG (m : Nat) : Nat := 0x80000000 + 0x800000 * m
def F.MA_EXC_LOG_PC : Fld := ⟨0, 0, 16⟩
def F.MA_EXC_LOG_TID : Fld := ⟨0, 16, 8⟩
def F.MA_EXC_LOG_CODE : Fld := ⟨0, 24, 16⟩
def F.MA_EXC_LOG_VALID : Fld := ⟨0, 48, 1⟩
def F.MA_EXC_LOG_OVERRUN : Fld := ⟨0, 49, 1⟩
def A.MA_EXC_STAMP (m : Nat) : Nat := 0x80000008 + 0x800000 * m
def F.MA_EXC_STAMP_DT : Fld := ⟨0, 0, 64⟩
def A.MA_CNTSEL (m : Nat) (i : Nat) : Nat := 0x80010000 + 0x800000 * m + 8 * i
def F.MA_CNTSEL_EVENT : Fld := ⟨0, 0, 8⟩
def F.MA_CNTSEL_PRIO_MASK : Fld := ⟨0, 8, 4⟩
def F.MA_CNTSEL_MODE : Fld := ⟨0, 12, 1⟩
def A.MA_CNT (m : Nat) (i : Nat) : Nat := 0x80010400 + 0x800000 * m + 8 * i
def F.MA_CNT_COUNT : Fld := ⟨0, 0, 48⟩

/-! Registers of spec/04_threads_channels.md. -/
def A.MA_POOL_CFG (m : Nat) : Nat := 0x80000100 + 0x800000 * m
def F.MA_POOL_CFG_FORK_RESERVE : Fld := ⟨0, 0, 8⟩
def A.MA_POOL_STATUS (m : Nat) : Nat := 0x80000108 + 0x800000 * m
def F.MA_POOL_STATUS_FREE : Fld := ⟨0, 0, 9⟩
def F.MA_POOL_STATUS_ROOTS : Fld := ⟨0, 9, 9⟩
def F.MA_POOL_STATUS_HELPERS : Fld := ⟨0, 18, 9⟩
def F.MA_POOL_STATUS_RESIDENTS : Fld := ⟨0, 27, 9⟩
def F.MA_POOL_STATUS_FORKW_WAITERS : Fld := ⟨0, 36, 9⟩
def A.MA_STALL_CFG (m : Nat) : Nat := 0x80000110 + 0x800000 * m
def F.MA_STALL_CFG_STALL_LIMIT : Fld := ⟨0, 0, 32⟩
def F.MA_STALL_CFG_ACTION : Fld := ⟨0, 32, 1⟩
def A.MA_STALL_STATUS (m : Nat) : Nat := 0x80000118 + 0x800000 * m
def F.MA_STALL_STATUS_STALLED : Fld := ⟨0, 0, 1⟩
def F.MA_STALL_STATUS_QUIESCENT_EXT : Fld := ⟨0, 1, 1⟩
def F.MA_STALL_STATUS_SUSPENDED : Fld := ⟨0, 2, 1⟩
def F.MA_STALL_STATUS_MILL_HALTED : Fld := ⟨0, 3, 1⟩
def F.MA_STALL_STATUS_EXT_MASK : Fld := ⟨0, 16, 16⟩
def F.MA_STALL_STATUS_MSG_EPOCH : Fld := ⟨0, 32, 32⟩
def A.MA_WAIT_CFG (m : Nat) : Nat := 0x80000120 + 0x800000 * m
def F.MA_WAIT_CFG_WAIT_LIMIT : Fld := ⟨0, 0, 32⟩
def A.MA_DBG_CTRL (m : Nat) : Nat := 0x80000200 + 0x800000 * m
def F.MA_DBG_CTRL_ENABLE : Fld := ⟨0, 0, 1⟩
def F.MA_DBG_CTRL_HALT_NEW : Fld := ⟨0, 1, 1⟩
def A.MA_DBG_CMD (m : Nat) : Nat := 0x80000208 + 0x800000 * m
def F.MA_DBG_CMD_OP : Fld := ⟨0, 0, 3⟩
def F.MA_DBG_CMD_TID : Fld := ⟨0, 8, 8⟩
def A.MA_DBG_SEL (m : Nat) : Nat := 0x80000210 + 0x800000 * m
def F.MA_DBG_SEL_TID : Fld := ⟨0, 0, 8⟩
def A.MA_DBG_HALTED (m : Nat) (k : Nat) : Nat := 0x80000220 + 0x800000 * m + 8 * k
def F.MA_DBG_HALTED_HALTED : Fld := ⟨0, 0, 64⟩
def A.MA_RESIDENT (m : Nat) (k : Nat) : Nat := 0x80000300 + 0x800000 * m + 8 * k
def F.MA_RESIDENT_ENTRY : Fld := ⟨0, 0, 16⟩
def F.MA_RESIDENT_PRIO : Fld := ⟨0, 16, 2⟩
def F.MA_RESIDENT_START : Fld := ⟨0, 18, 1⟩
def F.MA_RESIDENT_LIVE : Fld := ⟨0, 19, 1⟩
def F.MA_RESIDENT_TID : Fld := ⟨0, 20, 8⟩
def A.MA_CHAN (m : Nat) (c : Nat) : Nat := 0x80004000 + 0x800000 * m + 8 * c
def F.MA_CHAN_KIND : Fld := ⟨0, 0, 2⟩
def F.MA_CHAN_DEPTH : Fld := ⟨0, 2, 2⟩
def F.MA_CHAN_EXTERNAL : Fld := ⟨0, 4, 1⟩
def F.MA_CHAN_SERVER : Fld := ⟨0, 5, 1⟩
def F.MA_CHAN_TARGET_MILL : Fld := ⟨0, 16, 4⟩
def F.MA_CHAN_TARGET_CHAN : Fld := ⟨0, 20, 9⟩
def A.MA_CHAN_STAT (m : Nat) (c : Nat) : Nat := 0x80005000 + 0x800000 * m + 8 * c
def F.MA_CHAN_STAT_QUEUED : Fld := ⟨0, 0, 3⟩
def F.MA_CHAN_STAT_SEND_BLOCKED : Fld := ⟨0, 3, 9⟩
def F.MA_CHAN_STAT_RECV_BLOCKED : Fld := ⟨0, 12, 9⟩
def A.MA_XSTALL_CTRL : Nat := 0x8800F000
def F.MA_XSTALL_CTRL_ENABLE : Fld := ⟨0, 0, 1⟩
def F.MA_XSTALL_CTRL_POLL_US : Fld := ⟨0, 8, 24⟩
def A.MA_XSTALL_COUNT : Nat := 0x8800F008
def F.MA_XSTALL_COUNT_COUNT : Fld := ⟨0, 0, 48⟩

/-! Registers of spec/05_packet_program.md. -/
def A.MA_DISPATCH_HOST_WEIGHT : Nat := 0x88000000
def F.MA_DISPATCH_HOST_WEIGHT_WEIGHT_A : Fld := ⟨0, 0, 8⟩
def F.MA_DISPATCH_HOST_WEIGHT_WEIGHT_B : Fld := ⟨0, 8, 8⟩
def A.MA_STEER_GEN : Nat := 0x88000008
def F.MA_STEER_GEN_GEN : Fld := ⟨0, 0, 32⟩
def A.MA_PL_CTRL : Nat := 0x88000010
def F.MA_PL_CTRL_ENABLE : Fld := ⟨0, 0, 1⟩
def F.MA_PL_CTRL_CONF_MIN : Fld := ⟨0, 1, 2⟩
def F.MA_PL_CTRL_INVALIDATE : Fld := ⟨0, 3, 1⟩
def F.MA_PL_CTRL_HOLD_NS : Fld := ⟨0, 16, 16⟩
def A.MA_STN_OPT : Nat := 0x88000018
def F.MA_STN_OPT_CLASS : Fld := ⟨0, 0, 16⟩
def F.MA_STN_OPT_TYPE : Fld := ⟨0, 16, 8⟩
def F.MA_STN_OPT_ENABLE : Fld := ⟨0, 24, 1⟩
def A.MA_SRC_PORT (p : Nat) : Nat := 0x88000100 + 8 * p
def F.MA_SRC_PORT_PROFILE : Fld := ⟨0, 0, 6⟩
def A.MA_PROFILE (k : Nat) : Nat := 0x88001000 + 32 * k
def F.MA_PROFILE_BASE : Fld := ⟨0, 0, 12⟩
def F.MA_PROFILE_SIZE_LOG2 : Fld := ⟨0, 12, 4⟩
def F.MA_PROFILE_HASH_SEL : Fld := ⟨0, 16, 3⟩
def F.MA_PROFILE_SYM : Fld := ⟨0, 19, 1⟩
def F.MA_PROFILE_PL_EN : Fld := ⟨0, 20, 1⟩
def F.MA_PROFILE_SEED : Fld := ⟨0, 32, 32⟩
def F.MA_PROFILE_SIG_MASK : Fld := ⟨1, 0, 64⟩
def F.MA_PROFILE_RECIPE_SET : Fld := ⟨2, 0, 64⟩
def A.MA_PL_RECIPE (r : Nat) : Nat := 0x88002000 + 64 * r
def F.MA_PL_RECIPE_CHAN : Fld := ⟨0, 0, 10⟩
def F.MA_PL_RECIPE_WORDS : Fld := ⟨0, 10, 3⟩
def F.MA_PL_RECIPE_RESERVE_HDR : Fld := ⟨0, 13, 1⟩
def F.MA_PL_RECIPE_VALID : Fld := ⟨0, 14, 1⟩
def F.MA_PL_RECIPE_MAP1 : Fld := ⟨1, 0, 64⟩
def F.MA_PL_RECIPE_MAP2 : Fld := ⟨2, 0, 64⟩
def F.MA_PL_RECIPE_MAP3 : Fld := ⟨3, 0, 64⟩
def F.MA_PL_RECIPE_MAP4 : Fld := ⟨4, 0, 64⟩
def F.MA_PL_RECIPE_MAP5 : Fld := ⟨5, 0, 64⟩
def A.MA_STEER (n : Nat) : Nat := 0x88010000 + 8 * n
def F.MA_STEER_MILL : Fld := ⟨0, 0, 4⟩
def F.MA_STEER_ENTRY : Fld := ⟨0, 4, 16⟩
def F.MA_STEER_PRIO : Fld := ⟨0, 20, 2⟩
def F.MA_STEER_VALID : Fld := ⟨0, 22, 1⟩
def F.MA_STEER_SLICE : Fld := ⟨0, 24, 13⟩

/-! Registers of spec/06_classifier.md. -/
def A.CL_RULE (n : Nat) : Nat := 0x91000000 + 128 * n
def F.CL_RULE_CLASS : Fld := ⟨10, 0, 8⟩
def F.CL_RULE_COLOUR : Fld := ⟨10, 8, 2⟩
def F.CL_RULE_QUEUE : Fld := ⟨10, 10, 17⟩
def F.CL_RULE_SET_CLASS : Fld := ⟨10, 27, 1⟩
def F.CL_RULE_SET_COLOUR : Fld := ⟨10, 28, 1⟩
def F.CL_RULE_SET_QUEUE : Fld := ⟨10, 29, 1⟩
def F.CL_RULE_USER : Fld := ⟨11, 0, 64⟩
def F.CL_RULE_PRIORITY : Fld := ⟨12, 0, 16⟩
def F.CL_RULE_VALID : Fld := ⟨12, 16, 1⟩
def F.CL_RULE_VFROM : Fld := ⟨12, 32, 16⟩
def F.CL_RULE_VTO : Fld := ⟨12, 48, 16⟩
def F.CL_RULE_VALUE0 : Fld := ⟨0, 0, 64⟩
def F.CL_RULE_VALUE1 : Fld := ⟨1, 0, 64⟩
def F.CL_RULE_VALUE2 : Fld := ⟨2, 0, 64⟩
def F.CL_RULE_VALUE3 : Fld := ⟨3, 0, 64⟩
def F.CL_RULE_VALUE4 : Fld := ⟨4, 0, 64⟩
def F.CL_RULE_CARE0 : Fld := ⟨5, 0, 64⟩
def F.CL_RULE_CARE1 : Fld := ⟨6, 0, 64⟩
def F.CL_RULE_CARE2 : Fld := ⟨7, 0, 64⟩
def F.CL_RULE_CARE3 : Fld := ⟨8, 0, 64⟩
def F.CL_RULE_CARE4 : Fld := ⟨9, 0, 64⟩
def A.CL_BANK_CFG (b : Nat) : Nat := 0x90001000 + 256 * b
def F.CL_BANK_CFG_SCHEME : Fld := ⟨0, 0, 1⟩
def F.CL_BANK_CFG_INSERT_SLICE : Fld := ⟨0, 1, 1⟩
def A.CL_BANK_MISS (b : Nat) : Nat := 0x90001008 + 256 * b
def F.CL_BANK_MISS_ACTION : Fld := ⟨0, 0, 64⟩
def A.CL_BANK_VSTAT (b : Nat) : Nat := 0x90001010 + 256 * b
def F.CL_BANK_VSTAT_BUILDING : Fld := ⟨0, 0, 16⟩
def F.CL_BANK_VSTAT_OLDEST : Fld := ⟨0, 16, 16⟩
def F.CL_BANK_VSTAT_LIVE : Fld := ⟨0, 32, 3⟩
def F.CL_BANK_VSTAT_SEALED : Fld := ⟨0, 35, 3⟩
def F.CL_BANK_VSTAT_CLEANING : Fld := ⟨0, 38, 1⟩
def A.CL_VER (b : Nat) (k : Nat) : Nat := 0x90001020 + 256 * b + 16 * k
def F.CL_VER_T_NS : Fld := ⟨0, 0, 64⟩
def F.CL_VER_T_FRAC : Fld := ⟨1, 0, 16⟩
def F.CL_VER_VERSION : Fld := ⟨1, 16, 16⟩
def F.CL_VER_STATE : Fld := ⟨1, 32, 2⟩
def F.CL_VER_INFLIGHT : Fld := ⟨1, 34, 24⟩
def A.CL_RULE_HITS (n : Nat) : Nat := 0x90800000 + 8 * n
def F.CL_RULE_HITS_HITS : Fld := ⟨0, 0, 48⟩

/-! Registers of spec/07_tables.md. -/
def A.TE_OVF (e : Nat) (i : Nat) : Nat := 0xA0100000 + 0x8000000 * e + 64 * i
def F.TE_OVF_KEY : Fld := ⟨0, 0, 192⟩
def F.TE_OVF_DATA : Fld := ⟨3, 0, 64⟩
def F.TE_OVF_TABLE : Fld := ⟨4, 0, 4⟩
def F.TE_OVF_VALID : Fld := ⟨4, 4, 1⟩
def F.TE_OVF_HIT : Fld := ⟨4, 5, 1⟩
def F.TE_OVF_STALE : Fld := ⟨4, 6, 1⟩
def F.TE_OVF_STATIC : Fld := ⟨4, 7, 1⟩
def F.TE_OVF_SEQ : Fld := ⟨4, 8, 12⟩
def A.TE_CTRL (e : Nat) : Nat := 0xA0000000 + 0x8000000 * e
def F.TE_CTRL_RELOC_DEPTH : Fld := ⟨0, 0, 3⟩
def A.TE_EMT (e : Nat) (t : Nat) : Nat := 0xA0001000 + 0x8000000 * e + 32 * t
def F.TE_EMT_BUCKET_BASE : Fld := ⟨0, 0, 23⟩
def F.TE_EMT_BUCKET_LOG2 : Fld := ⟨0, 23, 5⟩
def F.TE_EMT_KEY_BYTES : Fld := ⟨0, 28, 5⟩
def F.TE_EMT_ENABLE : Fld := ⟨0, 33, 1⟩
def F.TE_EMT_LEARN_EN : Fld := ⟨0, 34, 1⟩
def F.TE_EMT_EVICT : Fld := ⟨0, 35, 1⟩
def F.TE_EMT_EVICT_EN : Fld := ⟨0, 36, 1⟩
def F.TE_EMT_AGE_EN : Fld := ⟨0, 37, 1⟩
def F.TE_EMT_FC_EN : Fld := ⟨0, 38, 1⟩
def F.TE_EMT_SLICE_KEY : Fld := ⟨0, 39, 1⟩
def F.TE_EMT_RECORD_BASE : Fld := ⟨0, 40, 23⟩
def F.TE_EMT_RECORD_COUNT : Fld := ⟨1, 0, 23⟩
def F.TE_EMT_SEED : Fld := ⟨1, 32, 32⟩
def F.TE_EMT_MISS_ACTION : Fld := ⟨2, 0, 64⟩
def F.TE_EMT_SWEEP_MS : Fld := ⟨3, 0, 32⟩
def F.TE_EMT_OVF_QUOTA : Fld := ⟨3, 32, 15⟩
def A.TE_EMT_STAT (e : Nat) (t : Nat) : Nat := 0xA0001200 + 0x8000000 * e + 8 * t
def F.TE_EMT_STAT_ENTRIES : Fld := ⟨0, 0, 23⟩
def F.TE_EMT_STAT_OVF_ENTRIES : Fld := ⟨0, 23, 15⟩
def F.TE_EMT_STAT_SEQ : Fld := ⟨0, 38, 12⟩

/-! Registers of spec/08_bobbins.md. -/
def A.BP_STATE (n : Nat) : Nat := 0x70100000 + 8 * n
def F.BP_STATE_STATE : Fld := ⟨0, 0, 2⟩
def F.BP_STATE_OWNER : Fld := ⟨0, 2, 13⟩
def F.BP_STATE_REF : Fld := ⟨0, 16, 8⟩
def F.BP_STATE_BREF : Fld := ⟨0, 24, 8⟩
def F.BP_STATE_PKT : Fld := ⟨0, 32, 1⟩
def F.BP_STATE_HDR : Fld := ⟨0, 33, 1⟩
def F.BP_STATE_CHARGE_PORT : Fld := ⟨0, 34, 5⟩
def F.BP_STATE_CHARGE_PRIO : Fld := ⟨0, 39, 3⟩
def F.BP_STATE_BOUND_THREAD : Fld := ⟨0, 42, 1⟩
def F.BP_STATE_BOUND_ID : Fld := ⟨0, 48, 16⟩
def A.BP_POOL (p : Nat) : Nat := 0x70000000 + 32 * p
def F.BP_POOL_SIZE : Fld := ⟨0, 0, 7⟩
def F.BP_POOL_ENABLE : Fld := ⟨0, 7, 1⟩
def F.BP_POOL_COUNT : Fld := ⟨0, 32, 16⟩
def F.BP_POOL_BASE : Fld := ⟨1, 0, 19⟩
def F.BP_POOL_META_BASE : Fld := ⟨1, 32, 16⟩
def F.BP_POOL_FREE : Fld := ⟨2, 0, 16⟩
def F.BP_POOL_HELD : Fld := ⟨2, 16, 16⟩
def F.BP_POOL_RESERVED : Fld := ⟨2, 32, 16⟩
def F.BP_POOL_QUARANTINED : Fld := ⟨2, 48, 16⟩
def A.BP_OCC (n : Nat) : Nat := 0x70000800 + 8 * n
def F.BP_OCC_HELD_UNITS : Fld := ⟨0, 0, 24⟩
def F.BP_OCC_RESV_UNITS : Fld := ⟨0, 24, 24⟩

/-! Registers of spec/09_ports.md. -/
def A.PX_MODE (g : Nat) : Nat := 0x50000000 + 0x1000000 * g
def F.PX_MODE_MODE : Fld := ⟨0, 0, 2⟩
def A.PX_TS (g : Nat) (k : Nat) : Nat := 0x50008000 + 0x1000000 * g + 16 * k
def F.PX_TS_DT : Fld := ⟨0, 0, 64⟩
def F.PX_TS_FRAC : Fld := ⟨1, 0, 16⟩
def F.PX_TS_PORT : Fld := ⟨1, 16, 4⟩
def F.PX_TS_MSG_TYPE : Fld := ⟨1, 20, 4⟩
def F.PX_TS_SEQ_ID : Fld := ⟨1, 24, 16⟩
def A.PX_CFG (p : Nat) : Nat := 0x50001000 + 0x1000000 * (p / 4) + 0x1000 * (p % 4)
def F.PX_CFG_ENABLE : Fld := ⟨0, 0, 1⟩
def F.PX_CFG_DELIVER_BAD : Fld := ⟨0, 1, 1⟩
def F.PX_CFG_RX_CSUM_EN : Fld := ⟨0, 2, 1⟩
def F.PX_CFG_AN_EN : Fld := ⟨0, 3, 1⟩
def F.PX_CFG_LOOPBACK : Fld := ⟨0, 4, 3⟩
def F.PX_CFG_DEFAULT_PRIO : Fld := ⟨0, 7, 3⟩
def F.PX_CFG_MAX_FRAME : Fld := ⟨0, 16, 14⟩
def A.PX_STATUS (p : Nat) : Nat := 0x50001008 + 0x1000000 * (p / 4) + 0x1000 * (p % 4)
def F.PX_STATUS_LINK : Fld := ⟨0, 0, 1⟩
def F.PX_STATUS_AN_DONE : Fld := ⟨0, 1, 1⟩
def F.PX_STATUS_TRAINING : Fld := ⟨0, 2, 1⟩
def F.PX_STATUS_TX_PAUSED : Fld := ⟨0, 8, 8⟩
def F.PX_STATUS_XOFF : Fld := ⟨0, 16, 8⟩
def F.PX_STATUS_HEADROOM_SHORT : Fld := ⟨0, 24, 8⟩
def A.PX_WEIR_CFG (p : Nat) : Nat := 0x50001030 + 0x1000000 * (p / 4) + 0x1000 * (p % 4)
def F.PX_WEIR_CFG_MODE : Fld := ⟨0, 0, 2⟩
def F.PX_WEIR_CFG_AUTO : Fld := ⟨0, 2, 1⟩
def F.PX_WEIR_CFG_PFC_EN : Fld := ⟨0, 8, 8⟩
def F.PX_WEIR_CFG_QUANTA : Fld := ⟨0, 16, 16⟩
def F.PX_WEIR_CFG_RESP_NS : Fld := ⟨0, 32, 16⟩
def F.PX_WEIR_CFG_HYST : Fld := ⟨0, 48, 16⟩

/-! Registers of spec/10_traffic_manager.md. -/
def A.TM_PORT (p : Nat) : Nat := 0x60001000 + 64 * p
def F.TM_PORT_LINKDOWN_US : Fld := ⟨0, 0, 16⟩
def F.TM_PORT_GATE_EN : Fld := ⟨0, 16, 1⟩
def F.TM_PORT_ACTIVE_LIST : Fld := ⟨0, 17, 1⟩
def F.TM_PORT_SWITCH_PENDING : Fld := ⟨0, 18, 1⟩
def F.TM_PORT_DROP_STATE : Fld := ⟨0, 19, 1⟩
def A.TM_PORT_GATE_HOLD (p : Nat) : Nat := 0x60001008 + 64 * p
def F.TM_PORT_GATE_HOLD_COUNT : Fld := ⟨0, 0, 48⟩
def A.TM_PORTQ (n : Nat) : Nat := 0x60002000 + 8 * n
def F.TM_PORTQ_STRICT : Fld := ⟨0, 0, 1⟩
def F.TM_PORTQ_EXPRESS : Fld := ⟨0, 1, 1⟩
def F.TM_PORTQ_WEIGHT : Fld := ⟨0, 2, 8⟩
def F.TM_PORTQ_PIR : Fld := ⟨0, 10, 20⟩
def F.TM_PORTQ_PBURST : Fld := ⟨0, 30, 12⟩
def A.TM_GCL_HDR (p : Nat) (l : Nat) : Nat := 0x60004000 + 64 * p + 32 * l
def F.TM_GCL_HDR_BASE_NS : Fld := ⟨0, 0, 64⟩
def F.TM_GCL_HDR_BASE_FRAC : Fld := ⟨1, 0, 16⟩
def F.TM_GCL_HDR_INIT_STATE : Fld := ⟨1, 16, 8⟩
def F.TM_GCL_HDR_LENGTH : Fld := ⟨1, 24, 9⟩
def F.TM_GCL_HDR_CYCLE_NS : Fld := ⟨2, 0, 32⟩
def A.TM_GCL (p : Nat) (l : Nat) (k : Nat) : Nat := 0x60010000 + 0x1000 * p + 2048 * l + 8 * k
def F.TM_GCL_STATES : Fld := ⟨0, 0, 8⟩
def F.TM_GCL_INTERVAL_NS : Fld := ⟨0, 8, 32⟩
def A.TM_CLASS (c : Nat) : Nat := 0x60020000 + 8 * c
def F.TM_CLASS_POLICER : Fld := ⟨0, 0, 14⟩
def A.TM_POLICER (i : Nat) : Nat := 0x60100000 + 32 * i
def F.TM_POLICER_CIR : Fld := ⟨0, 0, 20⟩
def F.TM_POLICER_PIR : Fld := ⟨0, 20, 20⟩
def F.TM_POLICER_COLOUR_BLIND : Fld := ⟨0, 40, 1⟩
def F.TM_POLICER_ENABLE : Fld := ⟨0, 41, 1⟩
def F.TM_POLICER_CBS : Fld := ⟨1, 0, 24⟩
def F.TM_POLICER_PBS : Fld := ⟨1, 24, 24⟩
def F.TM_POLICER_TC : Fld := ⟨2, 0, 32⟩
def F.TM_POLICER_TP : Fld := ⟨2, 32, 32⟩
def A.TM_QUEUE (n : Nat) : Nat := 0x60200000 + 32 * n
def F.TM_QUEUE_ENABLE : Fld := ⟨0, 0, 1⟩
def F.TM_QUEUE_PORT : Fld := ⟨0, 1, 4⟩
def F.TM_QUEUE_PQ : Fld := ⟨0, 5, 3⟩
def F.TM_QUEUE_OPEN : Fld := ⟨0, 8, 1⟩
def F.TM_QUEUE_RED_DROP : Fld := ⟨0, 9, 1⟩
def F.TM_QUEUE_OWNER : Fld := ⟨0, 16, 13⟩
def F.TM_QUEUE_POLICER : Fld := ⟨0, 32, 14⟩
def F.TM_QUEUE_WEIGHT : Fld := ⟨0, 48, 8⟩
def F.TM_QUEUE_LEN_ADJ : Fld := ⟨0, 56, 8⟩
def F.TM_QUEUE_CIR : Fld := ⟨1, 0, 20⟩
def F.TM_QUEUE_PIR : Fld := ⟨1, 20, 20⟩
def F.TM_QUEUE_CBURST : Fld := ⟨1, 40, 12⟩
def F.TM_QUEUE_PBURST : Fld := ⟨1, 52, 12⟩
def F.TM_QUEUE_LIMIT_G : Fld := ⟨2, 0, 24⟩
def F.TM_QUEUE_LIMIT_Y : Fld := ⟨2, 24, 24⟩
def F.TM_QUEUE_LIMIT_R : Fld := ⟨3, 0, 24⟩
def A.TM_HRXQ (q : Nat) : Nat := 0x60400000 + 8 * q
def F.TM_HRXQ_ENABLE : Fld := ⟨0, 0, 1⟩
def F.TM_HRXQ_OPEN : Fld := ⟨0, 1, 1⟩
def F.TM_HRXQ_RED_DROP : Fld := ⟨0, 2, 1⟩
def F.TM_HRXQ_POLICER : Fld := ⟨0, 3, 14⟩
def F.TM_HRXQ_WEIGHT : Fld := ⟨0, 17, 8⟩
def F.TM_HRXQ_LIMIT : Fld := ⟨0, 25, 24⟩
def A.TM_QSTAT (q : Nat) : Nat := 0x60500000 + 8 * q
def F.TM_QSTAT_UNITS : Fld := ⟨0, 0, 24⟩
def F.TM_QSTAT_ENTRIES : Fld := ⟨0, 24, 17⟩

/-! Registers of spec/11_cipher_storage.md. -/
def A.CE_CTRL : Nat := 0xB0000000
def F.CE_CTRL_CKPT_LOG2 : Fld := ⟨0, 0, 4⟩
def A.ST_CONN (n : Nat) : Nat := 0xC0100000 + 32 * n
def F.ST_CONN_VALID : Fld := ⟨0, 0, 1⟩
def F.ST_CONN_ROLE : Fld := ⟨0, 1, 1⟩
def F.ST_CONN_HDGST : Fld := ⟨0, 2, 1⟩
def F.ST_CONN_DDGST : Fld := ⟨0, 3, 1⟩
def F.ST_CONN_PLACE : Fld := ⟨0, 4, 1⟩
def F.ST_CONN_OWNER : Fld := ⟨0, 5, 13⟩
def F.ST_CONN_ENDPOINT : Fld := ⟨0, 18, 1⟩
def F.ST_CONN_INTR : Fld := ⟨0, 19, 3⟩
def F.ST_CONN_EXP_SEQ : Fld := ⟨0, 32, 32⟩
def F.ST_CONN_RING_ADDR : Fld := ⟨1, 0, 64⟩
def F.ST_CONN_RING_LOG2 : Fld := ⟨2, 0, 4⟩
def F.ST_CONN_HEAD : Fld := ⟨2, 16, 16⟩
def F.ST_CONN_TAIL : Fld := ⟨2, 32, 16⟩
def F.ST_CONN_PLACE_LOG2 : Fld := ⟨2, 48, 4⟩
def F.ST_CONN_PLACE_ADDR : Fld := ⟨3, 0, 64⟩

/-! Registers of spec/12_host_endpoints.md. -/
def A.HE_CTRL (x : Nat) : Nat := 0x20000000 + 0x8000000 * x
def F.HE_CTRL_ENABLE : Fld := ⟨0, 0, 1⟩
def F.HE_CTRL_MAX_RATE : Fld := ⟨0, 1, 3⟩
def F.HE_CTRL_MAX_WIDTH : Fld := ⟨0, 4, 3⟩
def F.HE_CTRL_PEER_BAR_LOG2 : Fld := ⟨0, 7, 6⟩
def A.HE_CMDQ (x : Nat) (k : Nat) : Nat := 0x20000200 + 0x8000000 * x + 32 * k
def F.HE_CMDQ_BASE : Fld := ⟨0, 0, 64⟩
def F.HE_CMDQ_HEAD_ADDR : Fld := ⟨1, 0, 64⟩
def F.HE_CMDQ_SIZE_LOG2 : Fld := ⟨2, 0, 4⟩
def F.HE_CMDQ_ENABLE : Fld := ⟨2, 4, 1⟩
def F.HE_CMDQ_HEAD : Fld := ⟨2, 16, 16⟩
def F.HE_CMDQ_TAIL : Fld := ⟨2, 32, 16⟩

/-! Registers of spec/13_slices_queues_dma.md. -/
def A.SM_SLICE (n : Nat) : Nat := 0x30100000 + 32 * n
def F.SM_SLICE_BOUND : Fld := ⟨0, 0, 1⟩
def F.SM_SLICE_ENDPOINT : Fld := ⟨0, 1, 1⟩
def F.SM_SLICE_PASID : Fld := ⟨0, 2, 20⟩
def F.SM_SLICE_QP_MAX : Fld := ⟨1, 0, 17⟩
def F.SM_SLICE_BOBBIN_MAX : Fld := ⟨1, 17, 16⟩
def F.SM_SLICE_ST_MAX : Fld := ⟨1, 33, 16⟩
def F.SM_SLICE_TX_MBPS : Fld := ⟨2, 0, 20⟩
def F.SM_SLICE_QP_USED : Fld := ⟨3, 0, 17⟩
def F.SM_SLICE_BOBBIN_USED : Fld := ⟨3, 17, 16⟩
def F.SM_SLICE_ST_USED : Fld := ⟨3, 33, 16⟩
def A.SM_RESIZE (r : Nat) : Nat := 0x30001000 + 32 * r
def F.SM_RESIZE_SLICE : Fld := ⟨0, 0, 13⟩
def F.SM_RESIZE_MASK : Fld := ⟨0, 13, 4⟩
def F.SM_RESIZE_STATE : Fld := ⟨0, 17, 3⟩
def F.SM_RESIZE_RESULT : Fld := ⟨0, 48, 16⟩
def F.SM_RESIZE_QUOTAS : Fld := ⟨1, 0, 64⟩
def F.SM_RESIZE_RATE : Fld := ⟨2, 0, 64⟩
def F.SM_RESIZE_REL_QP : Fld := ⟨3, 0, 17⟩
def F.SM_RESIZE_REL_BOBBIN : Fld := ⟨3, 17, 16⟩
def F.SM_RESIZE_REL_ST : Fld := ⟨3, 33, 16⟩
def A.SM_MSG (n : Nat) (k : Nat) : Nat := 0x30200000 + 128 * n + 16 * k
def F.SM_MSG_ADDR : Fld := ⟨0, 0, 64⟩
def F.SM_MSG_DATA : Fld := ⟨1, 0, 32⟩
def F.SM_MSG_MASK : Fld := ⟨1, 32, 1⟩
def F.SM_MSG_PENDING : Fld := ⟨1, 33, 1⟩
def A.DE_STATUS : Nat := 0x40000000
def F.DE_STATUS_OVERLAPPED : Fld := ⟨0, 0, 1⟩
def F.DE_STATUS_SWITCHING : Fld := ⟨0, 1, 1⟩
def F.DE_STATUS_MOVERS_A : Fld := ⟨0, 8, 6⟩
def F.DE_STATUS_MOVERS_B : Fld := ⟨0, 16, 6⟩
def F.DE_STATUS_JOBS_A : Fld := ⟨0, 24, 7⟩
def F.DE_STATUS_JOBS_B : Fld := ⟨0, 32, 7⟩
def A.DE_QP (n : Nat) : Nat := 0x41000000 + 64 * n
def F.DE_QP_ENABLE : Fld := ⟨0, 0, 1⟩
def F.DE_QP_RESTART : Fld := ⟨0, 1, 1⟩
def F.DE_QP_STATE : Fld := ⟨0, 2, 2⟩
def F.DE_QP_SLICE : Fld := ⟨0, 4, 13⟩
def F.DE_QP_ENDPOINT : Fld := ⟨0, 17, 1⟩
def F.DE_QP_PROFILE : Fld := ⟨0, 18, 6⟩
def F.DE_QP_IRQ : Fld := ⟨0, 24, 3⟩
def F.DE_QP_TX_LOG2 : Fld := ⟨0, 27, 4⟩
def F.DE_QP_RX_LOG2 : Fld := ⟨0, 31, 4⟩
def F.DE_QP_CQ_LOG2 : Fld := ⟨0, 35, 4⟩
def F.DE_QP_TX_DSWAP : Fld := ⟨0, 39, 3⟩
def F.DE_QP_TX_PSWAP : Fld := ⟨0, 42, 3⟩
def F.DE_QP_RX_DSWAP : Fld := ⟨0, 45, 3⟩
def F.DE_QP_RX_PSWAP : Fld := ⟨0, 48, 3⟩
def F.DE_QP_LOW : Fld := ⟨0, 51, 4⟩
def F.DE_QP_HIGH : Fld := ⟨0, 55, 5⟩
def F.DE_QP_TX_BASE : Fld := ⟨1, 0, 64⟩
def F.DE_QP_RX_BASE : Fld := ⟨2, 0, 64⟩
def F.DE_QP_CQ_BASE : Fld := ⟨3, 0, 64⟩
def F.DE_QP_TX_HEAD : Fld := ⟨4, 0, 16⟩
def F.DE_QP_TX_TAIL : Fld := ⟨4, 16, 16⟩
def F.DE_QP_RX_HEAD : Fld := ⟨4, 32, 16⟩
def F.DE_QP_RX_TAIL : Fld := ⟨4, 48, 16⟩
def F.DE_QP_CQ_TAIL : Fld := ⟨5, 0, 16⟩
def F.DE_QP_CQ_HEAD : Fld := ⟨5, 16, 16⟩
def F.DE_QP_ARMED : Fld := ⟨5, 32, 1⟩
def F.DE_QP_LAST_STATUS : Fld := ⟨5, 48, 16⟩
def F.DE_QP_COAL_US : Fld := ⟨6, 0, 16⟩
def F.DE_QP_RX_BUF : Fld := ⟨6, 16, 9⟩

/-! Registers of spec/14_memory_complex.md. -/
def A.MC_CFG (c : Nat) : Nat := 0xD0000000 + 0x1000000 * c
def F.MC_CFG_RD_LAT : Fld := ⟨0, 0, 4⟩
def F.MC_CFG_WR_LAT : Fld := ⟨0, 4, 4⟩
def F.MC_CFG_ODT_EN : Fld := ⟨0, 8, 1⟩
def F.MC_CFG_RETRAIN_MS : Fld := ⟨0, 16, 16⟩
def F.MC_CFG_SCRUB_S : Fld := ⟨0, 32, 16⟩
def F.MC_CFG_CE_STORM : Fld := ⟨0, 48, 16⟩
def A.MC_STATUS (c : Nat) : Nat := 0xD0000008 + 0x1000000 * c
def F.MC_STATUS_STATE : Fld := ⟨0, 0, 2⟩
def F.MC_STATUS_PORT_A_UP : Fld := ⟨0, 2, 1⟩
def F.MC_STATUS_PORT_B_UP : Fld := ⟨0, 3, 1⟩
def F.MC_STATUS_WORST_PIN : Fld := ⟨0, 8, 7⟩
def F.MC_STATUS_WORST_PORT : Fld := ⟨0, 15, 1⟩
def F.MC_STATUS_MARGIN_PS : Fld := ⟨0, 16, 8⟩
def F.MC_STATUS_SCRUB_PASSES : Fld := ⟨0, 32, 32⟩
def A.MC_SRAM_ARRAY (a : Nat) : Nat := 0xD8001000 + 32 * a
def F.MC_SRAM_ARRAY_CORRECTED : Fld := ⟨0, 0, 48⟩
def F.MC_SRAM_ARRAY_UNCORRECTED : Fld := ⟨1, 0, 48⟩
def F.MC_SRAM_ARRAY_POISON_SEEN : Fld := ⟨2, 0, 48⟩
def F.MC_SRAM_ARRAY_WRITEBACKS : Fld := ⟨3, 0, 48⟩

/-! Registers of spec/15_command_packets.md. -/
def A.CP_STATION : Nat := 0x0
def F.CP_STATION_STATION : Fld := ⟨0, 0, 16⟩
def A.CP_CMD_CFG : Nat := 0x8
def F.CP_CMD_CFG_ETYPE : Fld := ⟨0, 0, 16⟩
def F.CP_CMD_CFG_PORT_EN : Fld := ⟨0, 16, 16⟩
def F.CP_CMD_CFG_I2C_ADDR : Fld := ⟨0, 32, 7⟩
def F.CP_CMD_CFG_I2C_EN : Fld := ⟨0, 39, 1⟩
def F.CP_CMD_CFG_DEBUG_EN : Fld := ⟨0, 40, 1⟩
def A.CP_CMD_MAC : Nat := 0x10
def F.CP_CMD_MAC_MAC : Fld := ⟨0, 0, 48⟩
def A.CP_KEY (k : Nat) : Nat := 0x100 + 32 * k
def F.CP_KEY_LAST_COUNTER : Fld := ⟨0, 0, 64⟩
def F.CP_KEY_GENERATION : Fld := ⟨1, 0, 64⟩
def F.CP_KEY_ACTIVE : Fld := ⟨2, 0, 1⟩
def F.CP_KEY_ROLL_BUSY : Fld := ⟨2, 1, 1⟩
def A.CP_STAGE (g : Nat) : Nat := 0x1000 + 8 * g
def F.CP_STAGE_STATE : Fld := ⟨0, 0, 2⟩
def F.CP_STAGE_ITEMS : Fld := ⟨0, 16, 13⟩
def F.CP_STAGE_ENTRY : Fld := ⟨0, 32, 10⟩
def A.CP_BOOT : Nat := 0x3000
def F.CP_BOOT_COPY : Fld := ⟨0, 0, 1⟩
def F.CP_BOOT_OTHER_VALID : Fld := ⟨0, 1, 1⟩
def F.CP_BOOT_ROM_COPY : Fld := ⟨0, 2, 1⟩
def F.CP_BOOT_SVN : Fld := ⟨0, 8, 8⟩
def F.CP_BOOT_SVN_MIN : Fld := ⟨0, 16, 8⟩
def F.CP_BOOT_KEY0_REVOKED : Fld := ⟨0, 24, 1⟩
def F.CP_BOOT_RAISE_SVN : Fld := ⟨0, 32, 8⟩
def F.CP_BOOT_REVOKE_KEY0 : Fld := ⟨0, 40, 1⟩

/-! Registers of spec/16_counters_billing.md. -/
def A.CP_BW_RING (i : Nat) : Nat := 0x200000 + 64 * i
def F.CP_BW_RING_START_NS : Fld := ⟨0, 0, 64⟩
def F.CP_BW_RING_PORT : Fld := ⟨1, 0, 4⟩
def F.CP_BW_RING_PARTIAL : Fld := ⟨1, 4, 1⟩
def F.CP_BW_RING_LATE : Fld := ⟨1, 5, 1⟩
def F.CP_BW_RING_PERIOD_MS : Fld := ⟨1, 16, 16⟩
def F.CP_BW_RING_RX_BYTES : Fld := ⟨2, 0, 64⟩
def F.CP_BW_RING_RX_FRAMES : Fld := ⟨3, 0, 64⟩
def F.CP_BW_RING_TX_BYTES : Fld := ⟨4, 0, 64⟩
def F.CP_BW_RING_TX_FRAMES : Fld := ⟨5, 0, 64⟩
def F.CP_BW_RING_WINDOW_SEQ : Fld := ⟨6, 0, 64⟩
def A.CP_BILL_RING (j : Nat) : Nat := 0x400000 + 128 * j
def F.CP_BILL_RING_START_NS : Fld := ⟨0, 0, 64⟩
def F.CP_BILL_RING_END_NS : Fld := ⟨1, 0, 64⟩
def F.CP_BILL_RING_SLICE : Fld := ⟨2, 0, 13⟩
def F.CP_BILL_RING_MERGED : Fld := ⟨2, 13, 1⟩
def F.CP_BILL_RING_LATE : Fld := ⟨2, 14, 1⟩
def F.CP_BILL_RING_UNSIGNED : Fld := ⟨2, 15, 1⟩
def F.CP_BILL_RING_STATION : Fld := ⟨2, 16, 16⟩
def F.CP_BILL_RING_KEY : Fld := ⟨2, 32, 2⟩
def F.CP_BILL_RING_PARTIAL : Fld := ⟨2, 34, 1⟩
def F.CP_BILL_RING_GEN : Fld := ⟨2, 48, 16⟩
def F.CP_BILL_RING_RECORD_SEQ : Fld := ⟨3, 0, 64⟩
def F.CP_BILL_RING_CIPHER_BYTES : Fld := ⟨12, 0, 64⟩
def F.CP_BILL_RING_STORAGE_OPS : Fld := ⟨13, 0, 64⟩
def F.CP_BILL_RING_NET_IN_BYTES : Fld := ⟨4, 0, 64⟩
def F.CP_BILL_RING_NET_IN_FRAMES : Fld := ⟨5, 0, 64⟩
def F.CP_BILL_RING_NET_OUT_BYTES : Fld := ⟨6, 0, 64⟩
def F.CP_BILL_RING_NET_OUT_FRAMES : Fld := ⟨7, 0, 64⟩
def F.CP_BILL_RING_HOST_IN_BYTES : Fld := ⟨8, 0, 64⟩
def F.CP_BILL_RING_HOST_IN_FRAMES : Fld := ⟨9, 0, 64⟩
def F.CP_BILL_RING_HOST_OUT_BYTES : Fld := ⟨10, 0, 64⟩
def F.CP_BILL_RING_HOST_OUT_FRAMES : Fld := ⟨11, 0, 64⟩
def F.CP_BILL_RING_CHECK0 : Fld := ⟨14, 0, 64⟩
def F.CP_BILL_RING_CHECK1 : Fld := ⟨15, 0, 64⟩
def A.CP_SMP_MODE : Nat := 0x100000
def F.CP_SMP_MODE_ADDR : Fld := ⟨0, 0, 40⟩
def F.CP_SMP_MODE_EDGE : Fld := ⟨0, 40, 1⟩
def F.CP_SMP_MODE_SET : Fld := ⟨0, 41, 1⟩
def F.CP_SMP_MODE_RESULT : Fld := ⟨0, 48, 16⟩

/-! Registers of spec/17_modes_lifecycle.md. -/
def A.CP_MODE : Nat := 0x5000
def F.CP_MODE_CURRENT : Fld := ⟨0, 0, 4⟩
def F.CP_MODE_PREVIOUS : Fld := ⟨0, 4, 4⟩
def F.CP_MODE_DEVICE_FAULT : Fld := ⟨0, 8, 1⟩
def A.CP_MODE_DROP (p : Nat) : Nat := 0x5800 + 8 * p
def F.CP_MODE_DROP_COUNT : Fld := ⟨0, 0, 48⟩

/-! Registers of spec/18_reset_power_faults.md. -/
def A.CP_FAULT_LOG (i : Nat) : Nat := 0x80000 + 32 * i
def F.CP_FAULT_LOG_CODE : Fld := ⟨0, 0, 16⟩
def F.CP_FAULT_LOG_CLASS : Fld := ⟨0, 16, 2⟩
def F.CP_FAULT_LOG_ESCALATED : Fld := ⟨0, 18, 1⟩
def F.CP_FAULT_LOG_ISLAND : Fld := ⟨0, 19, 5⟩
def F.CP_FAULT_LOG_DOMAIN : Fld := ⟨0, 24, 6⟩
def F.CP_FAULT_LOG_SLICE : Fld := ⟨0, 30, 13⟩
def F.CP_FAULT_LOG_COUNT : Fld := ⟨0, 48, 16⟩
def F.CP_FAULT_LOG_DT_NS : Fld := ⟨1, 0, 64⟩
def F.CP_FAULT_LOG_DETAIL : Fld := ⟨2, 0, 64⟩
def F.CP_FAULT_LOG_SEQ : Fld := ⟨3, 0, 64⟩

/-! Registers of spec/05_packet_program.md. -/
def F.META_FRAME_LEN : Fld := ⟨0, 0, 16⟩
def F.META_PLEN : Fld := ⟨0, 16, 16⟩
def F.META_SOURCE : Fld := ⟨0, 32, 8⟩
def F.META_ERR : Fld := ⟨0, 40, 16⟩
def F.META_PRIO_IN : Fld := ⟨0, 56, 3⟩
def F.META_ISTAMP_NS : Fld := ⟨1, 0, 64⟩
def F.META_ISTAMP_FRAC : Fld := ⟨2, 0, 16⟩
def F.META_SLICE : Fld := ⟨2, 16, 13⟩
def F.META_STEER : Fld := ⟨2, 32, 12⟩
def F.META_PROFILE : Fld := ⟨2, 44, 6⟩
def F.META_REDIRECTED : Fld := ⟨2, 50, 1⟩
def F.META_PL_ISSUED : Fld := ⟨2, 51, 1⟩
def F.META_PL_RESERVED : Fld := ⟨2, 52, 1⟩
def F.META_HASH : Fld := ⟨3, 0, 32⟩
def F.META_GEN : Fld := ⟨3, 32, 32⟩
def F.META_VER0 : Fld := ⟨4, 0, 64⟩
def F.META_VER1 : Fld := ⟨5, 0, 64⟩
def F.META_TXQ : Fld := ⟨6, 0, 16⟩
def F.META_TXFLAGS : Fld := ⟨6, 32, 32⟩
def F.META_L3_OFF : Fld := ⟨7, 0, 8⟩
def F.META_L4_OFF : Fld := ⟨7, 8, 8⟩
def F.META_IN_L3_OFF : Fld := ⟨7, 16, 8⟩
def F.META_IN_L4_OFF : Fld := ⟨7, 24, 8⟩
def F.META_L3_KIND : Fld := ⟨7, 32, 4⟩
def F.META_L4_KIND : Fld := ⟨7, 36, 4⟩
def F.META_TUNNEL : Fld := ⟨7, 40, 4⟩
def F.META_TAGS : Fld := ⟨7, 44, 2⟩
def F.META_STN_OFF : Fld := ⟨7, 46, 8⟩
def F.ACT_QUEUE : Fld := ⟨0, 0, 17⟩
def F.ACT_DROP : Fld := ⟨0, 17, 1⟩
def F.ACT_COLOUR : Fld := ⟨0, 18, 2⟩
def F.ACT_CLASS : Fld := ⟨0, 20, 8⟩

/-! Registers of spec/06_classifier.md. -/
def F.PRK_HEAD_MAGIC : Fld := ⟨0, 0, 32⟩
def F.PRK_HEAD_FORMAT : Fld := ⟨0, 32, 16⟩
def F.PRK_HEAD_PATTERNS : Fld := ⟨1, 0, 32⟩
def F.PRK_HEAD_IMAGE_BYTES : Fld := ⟨1, 32, 32⟩
def F.PRK_HEAD_BODY_CRC : Fld := ⟨2, 0, 32⟩
def F.PRK_HEAD_IMAGE_ID : Fld := ⟨2, 32, 32⟩

/-! Registers of spec/07_tables.md. -/
def F.RECORD_KEY : Fld := ⟨0, 0, 192⟩
def F.RECORD_DATA : Fld := ⟨0, 192, 64⟩

/-! Registers of spec/11_cipher_storage.md. -/
def F.CTX_SUITE : Fld := ⟨0, 0, 4⟩
def F.CTX_VALID : Fld := ⟨0, 4, 1⟩
def F.CTX_DIR : Fld := ⟨0, 5, 1⟩
def F.CTX_OWNER : Fld := ⟨0, 6, 13⟩
def F.CTX_EXT_SEQ : Fld := ⟨0, 19, 1⟩
def F.CTX_REPLAY_WIN : Fld := ⟨0, 20, 8⟩
def F.CTX_AN : Fld := ⟨0, 28, 2⟩
def F.CTX_SC : Fld := ⟨0, 30, 1⟩
def F.CTX_DU : Fld := ⟨0, 32, 2⟩
def F.CTX_ID : Fld := ⟨0, 64, 64⟩
def F.CTX_WRAP_TAG : Fld := ⟨0, 128, 128⟩
def F.CTX_KEY1 : Fld := ⟨1, 0, 256⟩
def F.CTX_KEY2_IV : Fld := ⟨2, 0, 256⟩
def F.CTX_SEQ : Fld := ⟨3, 0, 64⟩
def F.CTX_BITMAP : Fld := ⟨3, 64, 128⟩
def F.CTX_EXACT : Fld := ⟨3, 192, 1⟩

/-! Registers of spec/12_host_endpoints.md. -/
def F.EPSTAT_MODE : Fld := ⟨0, 0, 4⟩
def F.EPSTAT_TWIN : Fld := ⟨0, 4, 1⟩
def F.EPSTAT_SLUICED : Fld := ⟨0, 5, 1⟩
def F.EPSTAT_DMA_OVERLAPPED : Fld := ⟨0, 6, 1⟩
def F.EPSTAT_ENTRY_NS : Fld := ⟨0, 0, 64⟩
def F.EPSTAT_CAUSE : Fld := ⟨0, 0, 4⟩
def F.EPSTAT_ENTRIES : Fld := ⟨0, 16, 16⟩
def F.EPSTAT_RELEASES : Fld := ⟨0, 32, 16⟩

/-! Registers of spec/02_device_time.md. -/
def A.FT_TIME_NS : Nat := 0x10000010
def F.FT_TIME_NS_V : Fld := ⟨0, 0, 64⟩
def A.FT_TIME_FRAC : Nat := 0x10000018
def F.FT_TIME_FRAC_V : Fld := ⟨0, 0, 16⟩
def A.FT_RATE_ADJ : Nat := 0x10000020
def F.FT_RATE_ADJ_V : Fld := ⟨0, 0, 32⟩
def A.FT_SLEW_MAX : Nat := 0x10000028
def F.FT_SLEW_MAX_V : Fld := ⟨0, 0, 20⟩
def A.FT_STEP_NS : Nat := 0x10000030
def F.FT_STEP_NS_V : Fld := ⟨0, 0, 64⟩
def A.FT_STEP_FRAC : Nat := 0x10000038
def F.FT_STEP_FRAC_V : Fld := ⟨0, 0, 16⟩
def A.FT_STEP_CTRL : Nat := 0x10000040
def F.FT_STEP_CTRL_GO : Fld := ⟨0, 0, 1⟩
def A.FT_OFFSET : Nat := 0x10000048
def F.FT_OFFSET_V : Fld := ⟨0, 0, 64⟩
def A.FT_PPS_IN_DELAY : Nat := 0x10000050
def F.FT_PPS_IN_DELAY_V : Fld := ⟨0, 0, 32⟩
def A.FT_PPS_IN_STAMP : Nat := 0x10000058
def F.FT_PPS_IN_STAMP_V : Fld := ⟨0, 0, 64⟩
def A.FT_PPS_OUT_CFG : Nat := 0x10000060
def F.FT_PPS_OUT_CFG_OFFSET_NS : Fld := ⟨0, 0, 30⟩
def F.FT_PPS_OUT_CFG_WIDTH_US : Fld := ⟨0, 32, 20⟩
def A.FT_ARM_LEAD : Nat := 0x10000068
def F.FT_ARM_LEAD_V : Fld := ⟨0, 0, 32⟩
def A.FT_SKEW_MAX : Nat := 0x10000070
def F.FT_SKEW_MAX_V : Fld := ⟨0, 0, 16⟩

/-! Registers of spec/03_fecia_isa.md. -/
def A.MA_EXC_COUNT (m : Nat) : Nat := 0x80000010 + 0x800000 * m
def F.MA_EXC_COUNT_V : Fld := ⟨0, 0, 48⟩
def A.MA_POISON_DROP (m : Nat) : Nat := 0x80000018 + 0x800000 * m
def F.MA_POISON_DROP_V : Fld := ⟨0, 0, 48⟩

/-! Registers of spec/04_threads_channels.md. -/
def A.MA_STALL_COUNT (m : Nat) : Nat := 0x80000130 + 0x800000 * m
def F.MA_STALL_COUNT_V : Fld := ⟨0, 0, 48⟩
def A.MA_ORPHAN (m : Nat) : Nat := 0x80000138 + 0x800000 * m
def F.MA_ORPHAN_V : Fld := ⟨0, 0, 48⟩
def A.MA_FORK_EMPTY (m : Nat) : Nat := 0x80000140 + 0x800000 * m
def F.MA_FORK_EMPTY_V : Fld := ⟨0, 0, 48⟩
def A.MA_REPLY_DISCARD (m : Nat) : Nat := 0x80000148 + 0x800000 * m
def F.MA_REPLY_DISCARD_V : Fld := ⟨0, 0, 48⟩
def A.MA_CHAN_DISCARD (m : Nat) : Nat := 0x80000150 + 0x800000 * m
def F.MA_CHAN_DISCARD_V : Fld := ⟨0, 0, 48⟩
def A.MA_WAIT_TIMEOUT (m : Nat) : Nat := 0x80000158 + 0x800000 * m
def F.MA_WAIT_TIMEOUT_V : Fld := ⟨0, 0, 48⟩

/-! Registers of spec/05_packet_program.md. -/
def A.MA_DISPATCH_REDIRECT : Nat := 0x88000200
def F.MA_DISPATCH_REDIRECT_V : Fld := ⟨0, 0, 48⟩
def A.MA_DISPATCH_NO_MILL : Nat := 0x88000208
def F.MA_DISPATCH_NO_MILL_V : Fld := ⟨0, 0, 48⟩
def A.MA_DISPATCH_INVALID : Nat := 0x88000210
def F.MA_DISPATCH_INVALID_V : Fld := ⟨0, 0, 48⟩
def A.MA_DISPATCH_POISON : Nat := 0x88000218
def F.MA_DISPATCH_POISON_V : Fld := ⟨0, 0, 48⟩
def A.MA_PL_ISSUED : Nat := 0x88000220
def F.MA_PL_ISSUED_V : Fld := ⟨0, 0, 48⟩
def A.MA_PL_ADOPTED : Nat := 0x88000228
def F.MA_PL_ADOPTED_V : Fld := ⟨0, 0, 48⟩
def A.MA_PL_DISCARDED : Nat := 0x88000230
def F.MA_PL_DISCARDED_V : Fld := ⟨0, 0, 48⟩
def A.MA_PL_SKIPPED : Nat := 0x88000238
def F.MA_PL_SKIPPED_V : Fld := ⟨0, 0, 48⟩
def A.MA_DISPATCH_BACKLOG (s : Nat) : Nat := 0x88000300 + 8 * s
def F.MA_DISPATCH_BACKLOG_V : Fld := ⟨0, 0, 48⟩
def A.MA_FENCE_LOST (m : Nat) : Nat := 0x88000400 + 8 * m
def F.MA_FENCE_LOST_V : Fld := ⟨0, 0, 48⟩
def A.MA_MALF_ACT (m : Nat) : Nat := 0x80000400 + 0x800000 * m
def F.MA_MALF_ACT_QUEUE : Fld := ⟨0, 0, 17⟩
def F.MA_MALF_ACT_DROP : Fld := ⟨0, 17, 1⟩
def F.MA_MALF_ACT_COLOUR : Fld := ⟨0, 18, 2⟩
def F.MA_MALF_ACT_CLASS : Fld := ⟨0, 20, 8⟩
def A.MA_MALF_COUNT (m : Nat) : Nat := 0x80000408 + 0x800000 * m
def F.MA_MALF_COUNT_V : Fld := ⟨0, 0, 48⟩
def A.MA_BAD_VERDICT (m : Nat) : Nat := 0x80000410 + 0x800000 * m
def F.MA_BAD_VERDICT_V : Fld := ⟨0, 0, 48⟩
def A.MA_REWRITE_EMPTY (m : Nat) : Nat := 0x80000418 + 0x800000 * m
def F.MA_REWRITE_EMPTY_V : Fld := ⟨0, 0, 48⟩
def A.MA_VERDICT_COUNT (m : Nat) : Nat := 0x80000420 + 0x800000 * m
def F.MA_VERDICT_COUNT_V : Fld := ⟨0, 0, 48⟩
def A.MA_VERDICT_DROP (m : Nat) : Nat := 0x80000428 + 0x800000 * m
def F.MA_VERDICT_DROP_V : Fld := ⟨0, 0, 48⟩
def A.MA_GEN_STATUS (m : Nat) : Nat := 0x80000430 + 0x800000 * m
def F.MA_GEN_STATUS_OLD_LIVE : Fld := ⟨0, 0, 9⟩
def A.MA_DISPATCH_STATUS (m : Nat) : Nat := 0x80000438 + 0x800000 * m
def F.MA_DISPATCH_STATUS_QUEUED : Fld := ⟨0, 0, 6⟩

/-! Registers of spec/06_classifier.md. -/
def A.CL_BANK_LOOKUPS (b : Nat) : Nat := 0x90001060 + 256 * b
def F.CL_BANK_LOOKUPS_V : Fld := ⟨0, 0, 48⟩
def A.CL_BANK_MISSES (b : Nat) : Nat := 0x90001068 + 256 * b
def F.CL_BANK_MISSES_V : Fld := ⟨0, 0, 48⟩
def A.CL_PE_CFG : Nat := 0x90002000
def F.CL_PE_CFG_MAX_DEPTH : Fld := ⟨0, 0, 14⟩
def A.CL_PE_STATUS : Nat := 0x90002008
def F.CL_PE_STATUS_ACTIVE : Fld := ⟨0, 0, 1⟩
def F.CL_PE_STATUS_STANDBY_READY : Fld := ⟨0, 1, 1⟩
def F.CL_PE_STATUS_SWAP_PENDING : Fld := ⟨0, 2, 1⟩
def F.CL_PE_STATUS_OLD_LIVE : Fld := ⟨0, 3, 1⟩
def A.CL_PE_SLOT (s : Nat) : Nat := 0x90002010 + 8 * s
def F.CL_PE_SLOT_PATTERNS : Fld := ⟨0, 0, 17⟩
def F.CL_PE_SLOT_IMAGE_ID : Fld := ⟨0, 32, 32⟩
def A.CL_PE_SWAP_TIME : Nat := 0x90002020
def F.CL_PE_SWAP_TIME_V : Fld := ⟨0, 0, 64⟩
def A.CL_PE_SCANS : Nat := 0x90002040
def F.CL_PE_SCANS_V : Fld := ⟨0, 0, 48⟩
def A.CL_PE_BYTES : Nat := 0x90002048
def F.CL_PE_BYTES_V : Fld := ⟨0, 0, 48⟩
def A.CL_PE_MATCHES : Nat := 0x90002050
def F.CL_PE_MATCHES_V : Fld := ⟨0, 0, 48⟩

/-! Registers of spec/07_tables.md. -/
def A.TE_OP_REQ (e : Nat) (k : Nat) : Nat := 0xA0000100 + 0x8000000 * e + 8 * k
def F.TE_OP_REQ_V : Fld := ⟨0, 0, 64⟩
def A.TE_OP_CTRL (e : Nat) : Nat := 0xA0000128 + 0x8000000 * e
def F.TE_OP_CTRL_GO : Fld := ⟨0, 0, 1⟩
def A.TE_OP_STAT (e : Nat) : Nat := 0xA0000130 + 0x8000000 * e
def F.TE_OP_STAT_STATUS : Fld := ⟨0, 0, 16⟩
def F.TE_OP_STAT_FLAGS : Fld := ⟨0, 16, 8⟩
def F.TE_OP_STAT_BUSY : Fld := ⟨0, 24, 1⟩
def F.TE_OP_STAT_VALUE : Fld := ⟨0, 40, 24⟩
def A.TE_LPM (e : Nat) (l : Nat) : Nat := 0xA0001400 + 0x8000000 * e + 8 * l
def F.TE_LPM_V : Fld := ⟨0, 0, 2⟩
def F.TE_LPM_DEFAULT : Fld := ⟨0, 32, 32⟩
def A.TE_LPM_STORE (e : Nat) : Nat := 0xA0001440 + 0x8000000 * e
def F.TE_LPM_STORE_PFX_BASE : Fld := ⟨0, 0, 23⟩
def F.TE_LPM_STORE_ENABLE : Fld := ⟨0, 23, 1⟩
def F.TE_LPM_STORE_PFX_WORDS : Fld := ⟨0, 24, 22⟩
def A.TE_LPM_STAT (e : Nat) : Nat := 0xA0001448 + 0x8000000 * e
def F.TE_LPM_STAT_UNITS : Fld := ⟨0, 0, 22⟩
def A.TE_CNT_STORE (e : Nat) : Nat := 0xA0001480 + 0x8000000 * e
def F.TE_CNT_STORE_BASE : Fld := ⟨0, 0, 23⟩
def F.TE_CNT_STORE_ENABLE : Fld := ⟨0, 23, 1⟩
def F.TE_CNT_STORE_COUNT : Fld := ⟨0, 24, 24⟩
def A.TE_CNT_CTRL (e : Nat) : Nat := 0xA0001488 + 0x8000000 * e
def F.TE_CNT_CTRL_FLUSH : Fld := ⟨0, 0, 1⟩
def F.TE_CNT_CTRL_FLUSH_BUSY : Fld := ⟨0, 1, 1⟩
def A.TE_CE_AREA (e : Nat) : Nat := 0xA00014C0 + 0x8000000 * e
def F.TE_CE_AREA_BASE : Fld := ⟨0, 0, 23⟩
def F.TE_CE_AREA_ENABLE : Fld := ⟨0, 23, 1⟩
def F.TE_CE_AREA_WORDS : Fld := ⟨0, 24, 23⟩
def A.TE_EMT_LOOKUPS (e : Nat) (t : Nat) : Nat := 0xA0002000 + 0x8000000 * e + 8 * t
def F.TE_EMT_LOOKUPS_V : Fld := ⟨0, 0, 48⟩
def A.TE_EMT_HITS (e : Nat) (t : Nat) : Nat := 0xA0002080 + 0x8000000 * e + 8 * t
def F.TE_EMT_HITS_V : Fld := ⟨0, 0, 48⟩
def A.TE_EMT_MISSES (e : Nat) (t : Nat) : Nat := 0xA0002100 + 0x8000000 * e + 8 * t
def F.TE_EMT_MISSES_V : Fld := ⟨0, 0, 48⟩
def A.TE_EMT_LEARNS (e : Nat) (t : Nat) : Nat := 0xA0002180 + 0x8000000 * e + 8 * t
def F.TE_EMT_LEARNS_V : Fld := ⟨0, 0, 48⟩
def A.TE_EMT_EVICTS (e : Nat) (t : Nat) : Nat := 0xA0002200 + 0x8000000 * e + 8 * t
def F.TE_EMT_EVICTS_V : Fld := ⟨0, 0, 48⟩
def A.TE_EMT_AGED (e : Nat) (t : Nat) : Nat := 0xA0002280 + 0x8000000 * e + 8 * t
def F.TE_EMT_AGED_V : Fld := ⟨0, 0, 48⟩
def A.TE_EMT_FULL (e : Nat) (t : Nat) : Nat := 0xA0002300 + 0x8000000 * e + 8 * t
def F.TE_EMT_FULL_V : Fld := ⟨0, 0, 48⟩
def A.TE_FC_HITS (e : Nat) : Nat := 0xA0002400 + 0x8000000 * e
def F.TE_FC_HITS_V : Fld := ⟨0, 0, 48⟩
def A.TE_FC_MISSES (e : Nat) : Nat := 0xA0002408 + 0x8000000 * e
def F.TE_FC_MISSES_V : Fld := ⟨0, 0, 48⟩
def A.TE_RELOC_MOVES (e : Nat) : Nat := 0xA0002410 + 0x8000000 * e
def F.TE_RELOC_MOVES_V : Fld := ⟨0, 0, 48⟩
def A.TE_QDR_WORDS (e : Nat) : Nat := 0xA0002418 + 0x8000000 * e
def F.TE_QDR_WORDS_V : Fld := ⟨0, 0, 48⟩
def A.TE_SWEEP_POISON (e : Nat) : Nat := 0xA0002420 + 0x8000000 * e
def F.TE_SWEEP_POISON_V : Fld := ⟨0, 0, 48⟩
def A.TE_CNT_LOST (e : Nat) : Nat := 0xA0002428 + 0x8000000 * e
def F.TE_CNT_LOST_V : Fld := ⟨0, 0, 48⟩
def A.TE_LPM_LOOKUPS (e : Nat) (l : Nat) : Nat := 0xA0002500 + 0x8000000 * e + 8 * l
def F.TE_LPM_LOOKUPS_V : Fld := ⟨0, 0, 48⟩
def A.TE_CNT_ADDS (e : Nat) : Nat := 0xA0002540 + 0x8000000 * e
def F.TE_CNT_ADDS_V : Fld := ⟨0, 0, 48⟩

/-! Registers of spec/08_bobbins.md. -/
def A.BP_POOL_ALLOCS (p : Nat) : Nat := 0x70000400 + 8 * p
def F.BP_POOL_ALLOCS_V : Fld := ⟨0, 0, 48⟩
def A.BP_POOL_EMPTY (p : Nat) : Nat := 0x70000440 + 8 * p
def F.BP_POOL_EMPTY_V : Fld := ⟨0, 0, 48⟩
def A.BP_POOL_FALLBACK (p : Nat) : Nat := 0x70000480 + 8 * p
def F.BP_POOL_FALLBACK_V : Fld := ⟨0, 0, 48⟩
def A.BP_DOUBLE_FREE_COUNT : Nat := 0x700004C0
def F.BP_DOUBLE_FREE_COUNT_V : Fld := ⟨0, 0, 48⟩
def A.BP_FOREIGN_COUNT : Nat := 0x700004C8
def F.BP_FOREIGN_COUNT_V : Fld := ⟨0, 0, 48⟩
def A.BP_RESV_COMMIT : Nat := 0x700004D0
def F.BP_RESV_COMMIT_V : Fld := ⟨0, 0, 48⟩
def A.BP_RESV_CANCEL : Nat := 0x700004D8
def F.BP_RESV_CANCEL_V : Fld := ⟨0, 0, 48⟩
def A.BP_BOUND_DROP : Nat := 0x700004E0
def F.BP_BOUND_DROP_V : Fld := ⟨0, 0, 48⟩
def A.BP_META (n : Nat) (w : Nat) : Nat := 0x70200000 + 64 * n + 8 * w
def F.BP_META_V : Fld := ⟨0, 0, 64⟩

/-! Registers of spec/09_ports.md. -/
def A.PX_TS_HEAD (g : Nat) : Nat := 0x50000010 + 0x1000000 * g
def F.PX_TS_HEAD_V : Fld := ⟨0, 0, 6⟩
def A.PX_TS_TAIL (g : Nat) : Nat := 0x50000018 + 0x1000000 * g
def F.PX_TS_TAIL_V : Fld := ⟨0, 0, 6⟩
def A.PX_TS_OVERFLOW (g : Nat) : Nat := 0x50000020 + 0x1000000 * g
def F.PX_TS_OVERFLOW_V : Fld := ⟨0, 0, 48⟩
def A.PX_LAT (p : Nat) : Nat := 0x50001010 + 0x1000000 * (p / 4) + 0x1000 * (p % 4)
def F.PX_LAT_RX_LAT : Fld := ⟨0, 0, 16⟩
def F.PX_LAT_TX_LAT : Fld := ⟨0, 16, 16⟩
def A.PX_TS_CFG (p : Nat) : Nat := 0x50001018 + 0x1000000 * (p / 4) + 0x1000 * (p % 4)
def F.PX_TS_CFG_V : Fld := ⟨0, 0, 4⟩
def A.PX_PREEMPT (p : Nat) : Nat := 0x50001020 + 0x1000000 * (p / 4) + 0x1000 * (p % 4)
def F.PX_PREEMPT_ENABLE : Fld := ⟨0, 0, 1⟩
def F.PX_PREEMPT_VERIFY_DIS : Fld := ⟨0, 1, 1⟩
def F.PX_PREEMPT_VERIFY_MS : Fld := ⟨0, 2, 8⟩
def F.PX_PREEMPT_ADD_FRAG : Fld := ⟨0, 10, 2⟩
def A.PX_PREEMPT_STAT (p : Nat) : Nat := 0x50001028 + 0x1000000 * (p / 4) + 0x1000 * (p % 4)
def F.PX_PREEMPT_STAT_VERIFY_STATUS : Fld := ⟨0, 0, 3⟩
def F.PX_PREEMPT_STAT_ACTIVE : Fld := ⟨0, 3, 1⟩
def A.PX_WEIR (p : Nat) (k : Nat) : Nat := 0x50001040 + 0x1000000 * (p / 4) + 0x1000 * (p % 4) + 8 * k
def F.PX_WEIR_HIGH : Fld := ⟨0, 0, 24⟩
def F.PX_WEIR_LOW : Fld := ⟨0, 24, 24⟩
def A.PX_WEIR_LIMIT (p : Nat) (k : Nat) : Nat := 0x50001080 + 0x1000000 * (p / 4) + 0x1000 * (p % 4) + 8 * k
def F.PX_WEIR_LIMIT_V : Fld := ⟨0, 0, 24⟩
def A.PX_DELAY (p : Nat) : Nat := 0x500010C0 + 0x1000000 * (p / 4) + 0x1000 * (p % 4)
def F.PX_DELAY_MEASURED_NS : Fld := ⟨0, 0, 32⟩
def F.PX_DELAY_DELAY_DEFAULT_NS : Fld := ⟨0, 32, 32⟩

/-! Registers of spec/10_traffic_manager.md. -/
def A.TM_ENTRY_STATUS : Nat := 0x60000000
def F.TM_ENTRY_STATUS_FREE : Fld := ⟨0, 0, 17⟩
def A.TM_FLUSH : Nat := 0x60000008
def F.TM_FLUSH_QUEUE : Fld := ⟨0, 0, 17⟩
def A.TM_REJECT (r : Nat) : Nat := 0x60000100 + 8 * r
def F.TM_REJECT_V : Fld := ⟨0, 0, 48⟩
def A.TM_REJECT_ABSENT : Nat := 0x60000140
def F.TM_REJECT_ABSENT_V : Fld := ⟨0, 0, 48⟩

/-! Registers of spec/11_cipher_storage.md. -/
def A.CE_CTX_HDR : Nat := 0xB0000100
def F.CE_CTX_HDR_V : Fld := ⟨0, 0, 64⟩
def A.CE_CTX_ID : Nat := 0xB0000108
def F.CE_CTX_ID_V : Fld := ⟨0, 0, 64⟩
def A.CE_CTX_SEQ : Nat := 0xB0000110
def F.CE_CTX_SEQ_V : Fld := ⟨0, 0, 64⟩
def A.CE_CTX_BLOB (i : Nat) : Nat := 0xB0000120 + 8 * i
def F.CE_CTX_BLOB_V : Fld := ⟨0, 0, 64⟩
def A.CE_CTX_CMD : Nat := 0xB0000180
def F.CE_CTX_CMD_CTX : Fld := ⟨0, 0, 20⟩
def F.CE_CTX_CMD_OP : Fld := ⟨0, 20, 3⟩
def F.CE_CTX_CMD_KTK : Fld := ⟨0, 24, 2⟩
def A.CE_CTX_STAT : Nat := 0xB0000188
def F.CE_CTX_STAT_STATUS : Fld := ⟨0, 0, 16⟩
def F.CE_CTX_STAT_BUSY : Fld := ⟨0, 16, 1⟩
def A.CE_CTX_STATE : Nat := 0xB0000190
def F.CE_CTX_STATE_V : Fld := ⟨0, 0, 64⟩
def A.ST_NS (i : Nat) : Nat := 0xC0010000 + 8 * i
def F.ST_NS_CTX : Fld := ⟨0, 0, 20⟩
def F.ST_NS_VALID : Fld := ⟨0, 20, 1⟩
def A.ST_CONN_STAT (n : Nat) : Nat := 0xC0200000 + 8 * n
def F.ST_CONN_STAT_STATE : Fld := ⟨0, 0, 3⟩
def F.ST_CONN_STAT_REASON : Fld := ⟨0, 8, 8⟩
def A.ST_RX_SEGS : Nat := 0xC0000400
def F.ST_RX_SEGS_V : Fld := ⟨0, 0, 48⟩
def A.ST_PLACED_BYTES : Nat := 0xC0000408
def F.ST_PLACED_BYTES_V : Fld := ⟨0, 0, 48⟩
def A.ST_DDGST_BAD : Nat := 0xC0000410
def F.ST_DDGST_BAD_V : Fld := ⟨0, 0, 48⟩
def A.ST_LOST : Nat := 0xC0000418
def F.ST_LOST_V : Fld := ⟨0, 0, 48⟩
def A.ST_TX_SEGS : Nat := 0xC0000420
def F.ST_TX_SEGS_V : Fld := ⟨0, 0, 48⟩

/-! Registers of spec/12_host_endpoints.md. -/
def A.HE_LINK_STATUS (x : Nat) : Nat := 0x20000008 + 0x8000000 * x
def F.HE_LINK_STATUS_UP : Fld := ⟨0, 0, 1⟩
def F.HE_LINK_STATUS_RATE : Fld := ⟨0, 1, 3⟩
def F.HE_LINK_STATUS_WIDTH : Fld := ⟨0, 4, 5⟩
def F.HE_LINK_STATUS_FLIT : Fld := ⟨0, 9, 1⟩
def A.HE_CTO_CFG (x : Nat) : Nat := 0x20000010 + 0x8000000 * x
def F.HE_CTO_CFG_STORM_COUNT : Fld := ⟨0, 0, 16⟩
def F.HE_CTO_CFG_STORM_WINDOW_US : Fld := ⟨0, 16, 32⟩
def A.HE_SLUICE (x : Nat) : Nat := 0x20000018 + 0x8000000 * x
def F.HE_SLUICE_STATE : Fld := ⟨0, 0, 1⟩
def F.HE_SLUICE_CAUSE : Fld := ⟨0, 4, 4⟩
def A.HE_SLUICE_STAMP (x : Nat) : Nat := 0x20000020 + 0x8000000 * x
def F.HE_SLUICE_STAMP_V : Fld := ⟨0, 0, 64⟩
def A.HE_TAGS (x : Nat) : Nat := 0x20000028 + 0x8000000 * x
def F.HE_TAGS_OUTSTANDING : Fld := ⟨0, 0, 14⟩
def F.HE_TAGS_QUARANTINED : Fld := ⟨0, 16, 14⟩
def A.HE_TOPOLOGY : Nat := 0x2000F000
def F.HE_TOPOLOGY_MODE : Fld := ⟨0, 0, 1⟩
def A.HE_PEER_CTRL (x : Nat) : Nat := 0x20000100 + 0x8000000 * x
def F.HE_PEER_CTRL_ACTIVE : Fld := ⟨0, 0, 1⟩
def F.HE_PEER_CTRL_SWITCH : Fld := ⟨0, 1, 1⟩
def F.HE_PEER_CTRL_DRAINED : Fld := ⟨0, 2, 1⟩
def F.HE_PEER_CTRL_GEN : Fld := ⟨0, 16, 32⟩
def A.HE_PEER_WIN (x : Nat) (b : Nat) (i : Nat) : Nat := 0x20001000 + 0x8000000 * x + 2048 * b + 32 * i
def F.HE_PEER_WIN_VALID : Fld := ⟨0, 0, 1⟩
def F.HE_PEER_WIN_KIND : Fld := ⟨0, 1, 2⟩
def F.HE_PEER_WIN_READ_EN : Fld := ⟨0, 3, 1⟩
def F.HE_PEER_WIN_WRITE_EN : Fld := ⟨0, 4, 1⟩
def F.HE_PEER_WIN_SIZE_LOG2 : Fld := ⟨0, 5, 6⟩
def F.HE_PEER_WIN_SLICE : Fld := ⟨0, 11, 13⟩
def F.HE_PEER_WIN_BAR_OFF : Fld := ⟨1, 0, 64⟩
def F.HE_PEER_WIN_TARGET : Fld := ⟨2, 0, 64⟩

/-! Registers of spec/14_memory_complex.md. -/
def A.MC_SCRUB_POS (c : Nat) : Nat := 0xD0000010 + 0x1000000 * c
def F.MC_SCRUB_POS_WORD : Fld := ⟨0, 0, 21⟩
def A.MC_ERRLOG (c : Nat) : Nat := 0xD0000018 + 0x1000000 * c
def F.MC_ERRLOG_WORD : Fld := ⟨0, 0, 21⟩
def F.MC_ERRLOG_PORT : Fld := ⟨0, 21, 1⟩
def F.MC_ERRLOG_SOURCE : Fld := ⟨0, 22, 2⟩
def F.MC_ERRLOG_VALID : Fld := ⟨0, 24, 1⟩
def F.MC_ERRLOG_OVERRUN : Fld := ⟨0, 25, 1⟩
def F.MC_ERRLOG_SYNDROME : Fld := ⟨0, 32, 32⟩
def A.MC_ERRSTAMP (c : Nat) : Nat := 0xD0000020 + 0x1000000 * c
def F.MC_ERRSTAMP_V : Fld := ⟨0, 0, 64⟩
def A.MC_SRAM_CFG : Nat := 0xD8000000
def F.MC_SRAM_CFG_SCRUB_S : Fld := ⟨0, 0, 16⟩
def F.MC_SRAM_CFG_CE_STORM : Fld := ⟨0, 16, 16⟩
def A.MC_SRAM_ERRLOG : Nat := 0xD8000008
def F.MC_SRAM_ERRLOG_ARRAY : Fld := ⟨0, 0, 7⟩
def F.MC_SRAM_ERRLOG_WORD : Fld := ⟨0, 8, 24⟩
def F.MC_SRAM_ERRLOG_SOURCE : Fld := ⟨0, 32, 2⟩
def F.MC_SRAM_ERRLOG_VALID : Fld := ⟨0, 34, 1⟩
def F.MC_SRAM_ERRLOG_OVERRUN : Fld := ⟨0, 35, 1⟩
def A.MC_SRAM_SYNDROME : Nat := 0xD8000010
def F.MC_SRAM_SYNDROME_V : Fld := ⟨0, 0, 32⟩
def A.MC_SRAM_ERRSTAMP : Nat := 0xD8000018
def F.MC_SRAM_ERRSTAMP_V : Fld := ⟨0, 0, 64⟩
def A.MC_SRAM_SCRUB_POS : Nat := 0xD8000020
def F.MC_SRAM_SCRUB_POS_WORD : Fld := ⟨0, 0, 24⟩
def F.MC_SRAM_SCRUB_POS_ARRAY : Fld := ⟨0, 24, 7⟩

/-! Registers of spec/15_command_packets.md. -/
def A.CP_JOURNAL_NEXT : Nat := 0x2000
def F.CP_JOURNAL_NEXT_V : Fld := ⟨0, 0, 64⟩
def A.CP_JOURNAL_MIRRORED : Nat := 0x2008
def F.CP_JOURNAL_MIRRORED_V : Fld := ⟨0, 0, 64⟩
def A.CP_JOURNAL_CFG : Nat := 0x2010
def F.CP_JOURNAL_CFG_MIRROR_RATE : Fld := ⟨0, 0, 16⟩
def A.CP_FLASH_STATUS : Nat := 0x2018
def F.CP_FLASH_STATUS_RETIRED : Fld := ⟨0, 0, 8⟩
def F.CP_FLASH_STATUS_MAX_ERASES : Fld := ⟨0, 8, 32⟩
def F.CP_FLASH_STATUS_PRESENT : Fld := ⟨0, 40, 1⟩

/-! Registers of spec/16_counters_billing.md. -/
def A.CP_BW_CFG : Nat := 0x100100
def F.CP_BW_CFG_ENABLE : Fld := ⟨0, 0, 1⟩
def F.CP_BW_CFG_PERIOD_MS : Fld := ⟨0, 1, 16⟩
def F.CP_BW_CFG_PORT_MASK : Fld := ⟨0, 32, 16⟩
def A.CP_BW_HEAD : Nat := 0x100108
def F.CP_BW_HEAD_V : Fld := ⟨0, 0, 14⟩
def A.CP_BW_TAIL : Nat := 0x100110
def F.CP_BW_TAIL_V : Fld := ⟨0, 0, 14⟩
def A.CP_BILL_CFG : Nat := 0x100200
def F.CP_BILL_CFG_KEY : Fld := ⟨0, 0, 2⟩
def A.CP_BILL_HEAD : Nat := 0x100208
def F.CP_BILL_HEAD_V : Fld := ⟨0, 0, 15⟩
def A.CP_BILL_TAIL : Nat := 0x100210
def F.CP_BILL_TAIL_V : Fld := ⟨0, 0, 15⟩
def A.CP_BILL_OPEN : Nat := 0x100218
def F.CP_BILL_OPEN_V : Fld := ⟨0, 0, 64⟩
def A.CP_TLM_CFG : Nat := 0x100300
def F.CP_TLM_CFG_ENABLE : Fld := ⟨0, 0, 1⟩
def F.CP_TLM_CFG_PORT : Fld := ⟨0, 1, 4⟩
def F.CP_TLM_CFG_CONTENT : Fld := ⟨0, 5, 3⟩
def F.CP_TLM_CFG_KEY : Fld := ⟨0, 8, 2⟩
def F.CP_TLM_CFG_PERIOD_MS : Fld := ⟨0, 16, 16⟩
def A.CP_TLM_DA : Nat := 0x100308
def F.CP_TLM_DA_V : Fld := ⟨0, 0, 48⟩

/-! Registers of spec/17_modes_lifecycle.md. -/
def A.CP_MODE_ENTRY_NS : Nat := 0x5008
def F.CP_MODE_ENTRY_NS_V : Fld := ⟨0, 0, 64⟩
def A.CP_SELFTEST : Nat := 0x5010
def F.CP_SELFTEST_FAILED : Fld := ⟨0, 0, 25⟩
def F.CP_SELFTEST_QDR_FAILED : Fld := ⟨0, 25, 8⟩
def F.CP_SELFTEST_ENGINE_FAILED : Fld := ⟨0, 33, 2⟩
def A.CP_BOOT_CFG : Nat := 0x5018
def F.CP_BOOT_CFG_MILL_HALVES : Fld := ⟨0, 0, 32⟩
def F.CP_BOOT_CFG_CE_EN : Fld := ⟨0, 32, 1⟩
def F.CP_BOOT_CFG_ST_EN : Fld := ⟨0, 33, 1⟩
def A.CP_DRAIN_CFG : Nat := 0x5020
def F.CP_DRAIN_CFG_SOURCES : Fld := ⟨0, 0, 18⟩
def F.CP_DRAIN_CFG_TIMEOUT_MS : Fld := ⟨0, 32, 16⟩
def A.CP_DRAIN_STATUS : Nat := 0x5028
def F.CP_DRAIN_STATUS_DRAINED : Fld := ⟨0, 0, 1⟩
def F.CP_DRAIN_STATUS_FORCED : Fld := ⟨0, 1, 1⟩
def F.CP_DRAIN_STATUS_LEFT : Fld := ⟨0, 16, 32⟩
def A.CP_STANDBY_CFG : Nat := 0x5030
def F.CP_STANDBY_CFG_GROUP : Fld := ⟨0, 0, 2⟩
def F.CP_STANDBY_CFG_WAKE_GPIO : Fld := ⟨0, 2, 4⟩
def F.CP_STANDBY_CFG_WAKE_LEVEL : Fld := ⟨0, 6, 1⟩
def F.CP_STANDBY_CFG_WAKE_EN : Fld := ⟨0, 7, 1⟩
def F.CP_STANDBY_CFG_KEEPALIVE_MS : Fld := ⟨0, 16, 16⟩
def A.CP_FW_CTRL : Nat := 0x5038
def F.CP_FW_CTRL_ACTIVATE : Fld := ⟨0, 0, 1⟩
def F.CP_FW_CTRL_FW_BUSY : Fld := ⟨0, 1, 1⟩
def A.CP_DUMP_CTRL : Nat := 0x5040
def F.CP_DUMP_CTRL_GO : Fld := ⟨0, 0, 1⟩
def F.CP_DUMP_CTRL_ENDPOINT : Fld := ⟨0, 1, 1⟩
def F.CP_DUMP_CTRL_BUSY : Fld := ⟨0, 2, 1⟩
def F.CP_DUMP_CTRL_STATUS : Fld := ⟨0, 48, 16⟩
def A.CP_DUMP_ADDR : Nat := 0x5048
def F.CP_DUMP_ADDR_V : Fld := ⟨0, 0, 64⟩
def A.CP_DUMP_LIST (i : Nat) : Nat := 0x5100 + 16 * i
def F.CP_DUMP_LIST_ADDR : Fld := ⟨0, 0, 40⟩
def F.CP_DUMP_LIST_VALID : Fld := ⟨0, 40, 1⟩
def F.CP_DUMP_LIST_LEN : Fld := ⟨1, 0, 32⟩

/-! Registers of spec/18_reset_power_faults.md. -/
def A.CP_RESET_CTRL : Nat := 0x6000
def F.CP_RESET_CTRL_WARM : Fld := ⟨0, 0, 1⟩
def A.CP_WDOG : Nat := 0x6008
def F.CP_WDOG_TIMEOUT_MS : Fld := ⟨0, 0, 32⟩
def F.CP_WDOG_ENABLE : Fld := ⟨0, 32, 1⟩
def A.CP_RESET_CAUSE : Nat := 0x6010
def F.CP_RESET_CAUSE_CAUSE : Fld := ⟨0, 0, 4⟩
def F.CP_RESET_CAUSE_WARM_COUNT : Fld := ⟨0, 16, 32⟩
def A.CP_ISLAND_CTRL : Nat := 0x6020
def F.CP_ISLAND_CTRL_TARGET : Fld := ⟨0, 0, 6⟩
def F.CP_ISLAND_CTRL_OP : Fld := ⟨0, 8, 2⟩
def A.CP_FENCE_STATUS : Nat := 0x6030
def F.CP_FENCE_STATUS_ISLANDS : Fld := ⟨0, 0, 25⟩
def F.CP_FENCE_STATUS_QDR : Fld := ⟨0, 25, 8⟩
def F.CP_FENCE_STATUS_ENGINES : Fld := ⟨0, 33, 2⟩
def A.CP_PWR_REQ : Nat := 0x6040
def F.CP_PWR_REQ_DOMAIN : Fld := ⟨0, 0, 6⟩
def F.CP_PWR_REQ_ON : Fld := ⟨0, 8, 1⟩
def A.CP_ISLAND_STATE (t : Nat) : Nat := 0x6100 + 8 * t
def F.CP_ISLAND_STATE_STATE : Fld := ⟨0, 0, 2⟩
def F.CP_ISLAND_STATE_HELD : Fld := ⟨0, 2, 1⟩
def F.CP_ISLAND_STATE_FAULTS : Fld := ⟨0, 8, 8⟩
def A.CP_PWR_STATUS (d : Nat) : Nat := 0x6200 + 8 * d
def F.CP_PWR_STATUS_STATE : Fld := ⟨0, 0, 2⟩
def F.CP_PWR_STATUS_QUEUED : Fld := ⟨0, 2, 1⟩
def F.CP_PWR_STATUS_QUEUED_ON : Fld := ⟨0, 3, 1⟩
def A.CP_CLK_MILL (m : Nat) : Nat := 0x6400 + 8 * m
def F.CP_CLK_MILL_MHZ_SET : Fld := ⟨0, 0, 12⟩
def F.CP_CLK_MILL_MHZ_NOW : Fld := ⟨0, 16, 12⟩
def A.CP_AVS (n : Nat) : Nat := 0x6500 + 8 * n
def F.CP_AVS_MV : Fld := ⟨0, 0, 10⟩
def F.CP_AVS_AT_LIMIT : Fld := ⟨0, 10, 1⟩
def A.CP_THERMAL : Nat := 0x6050
def F.CP_THERMAL_THROTTLE_C : Fld := ⟨0, 0, 8⟩
def F.CP_THERMAL_TRIP_C : Fld := ⟨0, 8, 8⟩
def F.CP_THERMAL_THROTTLE_MHZ : Fld := ⟨0, 16, 12⟩
def A.CP_FAULT_CFG : Nat := 0x6060
def F.CP_FAULT_CFG_AUTO_REOPEN : Fld := ⟨0, 0, 1⟩
def F.CP_FAULT_CFG_ISLAND_LIMIT : Fld := ⟨0, 4, 4⟩
def F.CP_FAULT_CFG_ISLAND_WINDOW_S : Fld := ⟨0, 8, 16⟩
def F.CP_FAULT_CFG_DEFER_STORM : Fld := ⟨0, 24, 16⟩
def A.CP_FAULT_HEAD : Nat := 0x6070
def F.CP_FAULT_HEAD_V : Fld := ⟨0, 0, 9⟩
def A.CP_FAULT_TAIL : Nat := 0x6078
def F.CP_FAULT_TAIL_V : Fld := ⟨0, 0, 9⟩

/-! Registers of spec/19_pins_electrical.md. -/
def A.CP_GPIO : Nat := 0x7000
def F.CP_GPIO_DIR : Fld := ⟨0, 0, 16⟩
def F.CP_GPIO_OUT : Fld := ⟨0, 16, 16⟩
def F.CP_GPIO_IN : Fld := ⟨0, 32, 16⟩

/-! Registers of spec/09_ports.md. -/
def A.PX_RX_FRAMES (p : Nat) : Nat := 0x50001800 + 0x1000000 * (p / 4) + 0x1000 * (p % 4)
def F.PX_RX_FRAMES_COUNT : Fld := ⟨0, 0, 48⟩
def A.PX_RX_BYTES (p : Nat) : Nat := 0x50001808 + 0x1000000 * (p / 4) + 0x1000 * (p % 4)
def F.PX_RX_BYTES_COUNT : Fld := ⟨0, 0, 48⟩
def A.PX_RX_FCS_ERR (p : Nat) : Nat := 0x50001810 + 0x1000000 * (p / 4) + 0x1000 * (p % 4)
def F.PX_RX_FCS_ERR_COUNT : Fld := ⟨0, 0, 48⟩
def A.PX_RX_RUNT (p : Nat) : Nat := 0x50001818 + 0x1000000 * (p / 4) + 0x1000 * (p % 4)
def F.PX_RX_RUNT_COUNT : Fld := ⟨0, 0, 48⟩
def A.PX_RX_OVERSIZE (p : Nat) : Nat := 0x50001820 + 0x1000000 * (p / 4) + 0x1000 * (p % 4)
def F.PX_RX_OVERSIZE_COUNT : Fld := ⟨0, 0, 48⟩
def A.PX_RX_PCS_ERR (p : Nat) : Nat := 0x50001828 + 0x1000000 * (p / 4) + 0x1000 * (p % 4)
def F.PX_RX_PCS_ERR_COUNT : Fld := ⟨0, 0, 48⟩
def A.PX_RX_PREEMPT_ERR (p : Nat) : Nat := 0x50001830 + 0x1000000 * (p / 4) + 0x1000 * (p % 4)
def F.PX_RX_PREEMPT_ERR_COUNT : Fld := ⟨0, 0, 48⟩
def A.PX_RX_BAD_DROP (p : Nat) : Nat := 0x50001838 + 0x1000000 * (p / 4) + 0x1000 * (p % 4)
def F.PX_RX_BAD_DROP_COUNT : Fld := ⟨0, 0, 48⟩
def A.PX_RX_BAD_DELIVERED (p : Nat) : Nat := 0x50001840 + 0x1000000 * (p / 4) + 0x1000 * (p % 4)
def F.PX_RX_BAD_DELIVERED_COUNT : Fld := ⟨0, 0, 48⟩
def A.PX_RX_BAD_BYTES (p : Nat) : Nat := 0x50001848 + 0x1000000 * (p / 4) + 0x1000 * (p % 4)
def F.PX_RX_BAD_BYTES_COUNT : Fld := ⟨0, 0, 48⟩
def A.PX_RX_NO_BOBBIN (p : Nat) : Nat := 0x50001850 + 0x1000000 * (p / 4) + 0x1000 * (p % 4)
def F.PX_RX_NO_BOBBIN_COUNT : Fld := ⟨0, 0, 48⟩
def A.PX_RX_OVERRUN (p : Nat) : Nat := 0x50001858 + 0x1000000 * (p / 4) + 0x1000 * (p % 4)
def F.PX_RX_OVERRUN_COUNT : Fld := ⟨0, 0, 48⟩
def A.PX_RX_PAUSE (p : Nat) : Nat := 0x50001860 + 0x1000000 * (p / 4) + 0x1000 * (p % 4)
def F.PX_RX_PAUSE_COUNT : Fld := ⟨0, 0, 48⟩
def A.PX_RX_MAC_CTRL (p : Nat) : Nat := 0x50001868 + 0x1000000 * (p / 4) + 0x1000 * (p % 4)
def F.PX_RX_MAC_CTRL_COUNT : Fld := ⟨0, 0, 48⟩
def A.PX_TX_FRAMES (p : Nat) : Nat := 0x50001880 + 0x1000000 * (p / 4) + 0x1000 * (p % 4)
def F.PX_TX_FRAMES_COUNT : Fld := ⟨0, 0, 48⟩
def A.PX_TX_BYTES (p : Nat) : Nat := 0x50001888 + 0x1000000 * (p / 4) + 0x1000 * (p % 4)
def F.PX_TX_BYTES_COUNT : Fld := ⟨0, 0, 48⟩
def A.PX_TX_STOMPED (p : Nat) : Nat := 0x50001890 + 0x1000000 * (p / 4) + 0x1000 * (p % 4)
def F.PX_TX_STOMPED_COUNT : Fld := ⟨0, 0, 48⟩
def A.PX_TX_ABORT (p : Nat) : Nat := 0x50001898 + 0x1000000 * (p / 4) + 0x1000 * (p % 4)
def F.PX_TX_ABORT_COUNT : Fld := ⟨0, 0, 48⟩
def A.PX_TX_OVERSIZE_DROP (p : Nat) : Nat := 0x500018A0 + 0x1000000 * (p / 4) + 0x1000 * (p % 4)
def F.PX_TX_OVERSIZE_DROP_COUNT : Fld := ⟨0, 0, 48⟩
def A.PX_TX_SEG_ERR (p : Nat) : Nat := 0x500018A8 + 0x1000000 * (p / 4) + 0x1000 * (p % 4)
def F.PX_TX_SEG_ERR_COUNT : Fld := ⟨0, 0, 48⟩
def A.PX_TX_LINK_DROP (p : Nat) : Nat := 0x500018B0 + 0x1000000 * (p / 4) + 0x1000 * (p % 4)
def F.PX_TX_LINK_DROP_COUNT : Fld := ⟨0, 0, 48⟩
def A.PX_TX_PAUSE (p : Nat) : Nat := 0x500018B8 + 0x1000000 * (p / 4) + 0x1000 * (p % 4)
def F.PX_TX_PAUSE_COUNT : Fld := ⟨0, 0, 48⟩
def A.PX_FEC_CORRECTED (p : Nat) : Nat := 0x500018C0 + 0x1000000 * (p / 4) + 0x1000 * (p % 4)
def F.PX_FEC_CORRECTED_COUNT : Fld := ⟨0, 0, 48⟩
def A.PX_FEC_UNCORRECTED (p : Nat) : Nat := 0x500018C8 + 0x1000000 * (p / 4) + 0x1000 * (p % 4)
def F.PX_FEC_UNCORRECTED_COUNT : Fld := ⟨0, 0, 48⟩

/-! Registers of spec/10_traffic_manager.md. -/
def A.TM_ENQ_FRAMES (q : Nat) : Nat := 0x61000000 + 64 * q
def F.TM_ENQ_FRAMES_COUNT : Fld := ⟨0, 0, 48⟩
def A.TM_ENQ_BYTES (q : Nat) : Nat := 0x61000008 + 64 * q
def F.TM_ENQ_BYTES_COUNT : Fld := ⟨0, 0, 48⟩
def A.TM_DEQ_FRAMES (q : Nat) : Nat := 0x61000010 + 64 * q
def F.TM_DEQ_FRAMES_COUNT : Fld := ⟨0, 0, 48⟩
def A.TM_DROP (q : Nat) : Nat := 0x61000018 + 64 * q
def F.TM_DROP_COUNT : Fld := ⟨0, 0, 48⟩
def A.TM_ABSENT_DROP (q : Nat) : Nat := 0x61000020 + 64 * q
def F.TM_ABSENT_DROP_COUNT : Fld := ⟨0, 0, 48⟩
def A.TM_LINK_DROP (q : Nat) : Nat := 0x61000028 + 64 * q
def F.TM_LINK_DROP_COUNT : Fld := ⟨0, 0, 48⟩
def A.TM_GATE_DROP (q : Nat) : Nat := 0x61000030 + 64 * q
def F.TM_GATE_DROP_COUNT : Fld := ⟨0, 0, 48⟩
def A.TM_RED (q : Nat) : Nat := 0x61000038 + 64 * q
def F.TM_RED_COUNT : Fld := ⟨0, 0, 48⟩

/-! Registers of spec/11_cipher_storage.md. -/
def A.CE_JOBS : Nat := 0xB0000400
def F.CE_JOBS_COUNT : Fld := ⟨0, 0, 48⟩
def A.CE_BYTES : Nat := 0xB0000408
def F.CE_BYTES_COUNT : Fld := ⟨0, 0, 48⟩
def A.CE_AUTH_FAIL : Nat := 0xB0000410
def F.CE_AUTH_FAIL_COUNT : Fld := ⟨0, 0, 48⟩
def A.CE_REPLAY : Nat := 0xB0000418
def F.CE_REPLAY_COUNT : Fld := ⟨0, 0, 48⟩
def A.CE_CTX_LOADS : Nat := 0xB0000420
def F.CE_CTX_LOADS_COUNT : Fld := ⟨0, 0, 48⟩
def A.CE_CTX_BOUNDS : Nat := 0xB0000428
def F.CE_CTX_BOUNDS_COUNT : Fld := ⟨0, 0, 48⟩

/-! Registers of spec/12_host_endpoints.md. -/
def A.HE_CTO (x : Nat) : Nat := 0x20000800 + 0x8000000 * x
def F.HE_CTO_COUNT : Fld := ⟨0, 0, 48⟩
def A.HE_UNEXP_CPL (x : Nat) : Nat := 0x20000808 + 0x8000000 * x
def F.HE_UNEXP_CPL_COUNT : Fld := ⟨0, 0, 48⟩
def A.HE_LATE_CPL (x : Nat) : Nat := 0x20000810 + 0x8000000 * x
def F.HE_LATE_CPL_COUNT : Fld := ⟨0, 0, 48⟩
def A.HE_POISON_TX (x : Nat) : Nat := 0x20000818 + 0x8000000 * x
def F.HE_POISON_TX_COUNT : Fld := ⟨0, 0, 48⟩
def A.HE_POISON_RX (x : Nat) : Nat := 0x20000820 + 0x8000000 * x
def F.HE_POISON_RX_COUNT : Fld := ⟨0, 0, 48⟩
def A.HE_UR (x : Nat) : Nat := 0x20000828 + 0x8000000 * x
def F.HE_UR_COUNT : Fld := ⟨0, 0, 48⟩
def A.HE_SLUICE_DROP (x : Nat) : Nat := 0x20000830 + 0x8000000 * x
def F.HE_SLUICE_DROP_COUNT : Fld := ⟨0, 0, 48⟩
def A.HE_BAR_DROP (x : Nat) : Nat := 0x20000838 + 0x8000000 * x
def F.HE_BAR_DROP_COUNT : Fld := ⟨0, 0, 48⟩
def A.HE_MBOX_DROP (x : Nat) : Nat := 0x20000840 + 0x8000000 * x
def F.HE_MBOX_DROP_COUNT : Fld := ⟨0, 0, 48⟩
def A.HE_PEER_MISS (x : Nat) : Nat := 0x20000848 + 0x8000000 * x
def F.HE_PEER_MISS_COUNT : Fld := ⟨0, 0, 48⟩
def A.HE_PASID_IN (x : Nat) : Nat := 0x20000850 + 0x8000000 * x
def F.HE_PASID_IN_COUNT : Fld := ⟨0, 0, 48⟩
def A.HE_FLUSH (x : Nat) : Nat := 0x20000858 + 0x8000000 * x
def F.HE_FLUSH_COUNT : Fld := ⟨0, 0, 48⟩
def A.HE_MALFORMED (x : Nat) : Nat := 0x20000860 + 0x8000000 * x
def F.HE_MALFORMED_COUNT : Fld := ⟨0, 0, 48⟩

/-! Registers of spec/13_slices_queues_dma.md. -/
def A.DE_TX_SENDS : Nat := 0x40000800
def F.DE_TX_SENDS_COUNT : Fld := ⟨0, 0, 48⟩
def A.DE_TX_PACKETS : Nat := 0x40000808
def F.DE_TX_PACKETS_COUNT : Fld := ⟨0, 0, 48⟩
def A.DE_TX_BYTES : Nat := 0x40000810
def F.DE_TX_BYTES_COUNT : Fld := ⟨0, 0, 48⟩
def A.DE_RX_PACKETS : Nat := 0x40000818
def F.DE_RX_PACKETS_COUNT : Fld := ⟨0, 0, 48⟩
def A.DE_RX_BYTES : Nat := 0x40000820
def F.DE_RX_BYTES_COUNT : Fld := ⟨0, 0, 48⟩
def A.DE_RX_TOO_LONG : Nat := 0x40000828
def F.DE_RX_TOO_LONG_COUNT : Fld := ⟨0, 0, 48⟩
def A.DE_JOB_FAIL : Nat := 0x40000830
def F.DE_JOB_FAIL_COUNT : Fld := ⟨0, 0, 48⟩
def A.DE_DB_DROP : Nat := 0x40000838
def F.DE_DB_DROP_COUNT : Fld := ⟨0, 0, 48⟩
def A.DE_EMPTY_RETRY : Nat := 0x40000840
def F.DE_EMPTY_RETRY_COUNT : Fld := ⟨0, 0, 48⟩

/-! Registers of spec/14_memory_complex.md. -/
def A.MC_CORRECTED (c : Nat) : Nat := 0xD0000100 + 0x1000000 * c
def F.MC_CORRECTED_COUNT : Fld := ⟨0, 0, 48⟩
def A.MC_UNCORRECTED (c : Nat) : Nat := 0xD0000108 + 0x1000000 * c
def F.MC_UNCORRECTED_COUNT : Fld := ⟨0, 0, 48⟩
def A.MC_POISON_SEEN (c : Nat) : Nat := 0xD0000110 + 0x1000000 * c
def F.MC_POISON_SEEN_COUNT : Fld := ⟨0, 0, 48⟩
def A.MC_SCRUB_READS (c : Nat) : Nat := 0xD0000118 + 0x1000000 * c
def F.MC_SCRUB_READS_COUNT : Fld := ⟨0, 0, 48⟩
def A.MC_WRITEBACKS (c : Nat) : Nat := 0xD0000120 + 0x1000000 * c
def F.MC_WRITEBACKS_COUNT : Fld := ⟨0, 0, 48⟩
def A.MC_RETRAINS (c : Nat) : Nat := 0xD0000128 + 0x1000000 * c
def F.MC_RETRAINS_COUNT : Fld := ⟨0, 0, 48⟩
def A.MC_RETRAIN_FAILS (c : Nat) : Nat := 0xD0000130 + 0x1000000 * c
def F.MC_RETRAIN_FAILS_COUNT : Fld := ⟨0, 0, 48⟩
def A.MC_BG_DEFERRED (c : Nat) : Nat := 0xD0000138 + 0x1000000 * c
def F.MC_BG_DEFERRED_COUNT : Fld := ⟨0, 0, 48⟩
def A.MC_SYM (c : Nat) (s : Nat) : Nat := 0xD0000200 + 0x1000000 * c + 8 * s
def F.MC_SYM_COUNT : Fld := ⟨0, 0, 48⟩

/-! Registers of spec/15_command_packets.md. -/
def A.CP_CMD_PACKETS : Nat := 0x4000
def F.CP_CMD_PACKETS_COUNT : Fld := ⟨0, 0, 48⟩
def A.CP_CMD_DENIED : Nat := 0x4008
def F.CP_CMD_DENIED_COUNT : Fld := ⟨0, 0, 48⟩
def A.CP_CMD_STALE : Nat := 0x4010
def F.CP_CMD_STALE_COUNT : Fld := ⟨0, 0, 48⟩
def A.CP_CMD_BAD_PACKET : Nat := 0x4018
def F.CP_CMD_BAD_PACKET_COUNT : Fld := ⟨0, 0, 48⟩
def A.CP_CMD_RX_DROP : Nat := 0x4020
def F.CP_CMD_RX_DROP_COUNT : Fld := ⟨0, 0, 48⟩
def A.CP_CMD_RX_OFF : Nat := 0x4028
def F.CP_CMD_RX_OFF_COUNT : Fld := ⟨0, 0, 48⟩
def A.CP_CMD_NOT_MINE : Nat := 0x4030
def F.CP_CMD_NOT_MINE_COUNT : Fld := ⟨0, 0, 48⟩
def A.CP_JOURNAL_UNMIRRORED : Nat := 0x4038
def F.CP_JOURNAL_UNMIRRORED_COUNT : Fld := ⟨0, 0, 48⟩
def A.CP_CMD_TX_FILTER (p : Nat) : Nat := 0x4100 + 8 * p
def F.CP_CMD_TX_FILTER_COUNT : Fld := ⟨0, 0, 48⟩

/-! Registers of spec/16_counters_billing.md. -/
def A.CP_BW_DROP : Nat := 0x100400
def F.CP_BW_DROP_COUNT : Fld := ⟨0, 0, 48⟩
def A.CP_BW_LATE : Nat := 0x100408
def F.CP_BW_LATE_COUNT : Fld := ⟨0, 0, 48⟩
def A.CP_BILL_LATE : Nat := 0x100410
def F.CP_BILL_LATE_COUNT : Fld := ⟨0, 0, 48⟩
def A.CP_BILL_MERGES : Nat := 0x100418
def F.CP_BILL_MERGES_COUNT : Fld := ⟨0, 0, 48⟩
def A.CP_TLM_FRAMES : Nat := 0x100420
def F.CP_TLM_FRAMES_COUNT : Fld := ⟨0, 0, 48⟩
def A.CP_TLM_DROP : Nat := 0x100428
def F.CP_TLM_DROP_COUNT : Fld := ⟨0, 0, 48⟩

/-! Registers of spec/18_reset_power_faults.md. -/
def A.CP_FAULT_COUNT (k : Nat) : Nat := 0x6800 + 8 * k
def F.CP_FAULT_COUNT_COUNT : Fld := ⟨0, 0, 48⟩
def A.CP_FAULT_OVERWRITE : Nat := 0x6820
def F.CP_FAULT_OVERWRITE_COUNT : Fld := ⟨0, 0, 48⟩

/-! Registers of spec/05_packet_program.md. -/
def A.PX_DEFAULT_ACT (p : Nat) : Nat := 0x5000F000 + 0x1000000 * (p / 4) + 16 * (p % 4)
def F.PX_DEFAULT_ACT_QUEUE : Fld := ⟨0, 0, 17⟩
def F.PX_DEFAULT_ACT_DROP : Fld := ⟨0, 17, 1⟩
def F.PX_DEFAULT_ACT_COLOUR : Fld := ⟨0, 18, 2⟩
def F.PX_DEFAULT_ACT_CLASS : Fld := ⟨0, 20, 8⟩
def A.PX_DEFAULT_COUNT (p : Nat) : Nat := 0x5000F008 + 0x1000000 * (p / 4) + 16 * (p % 4)
def F.PX_DEFAULT_COUNT_V : Fld := ⟨0, 0, 48⟩
def A.DE_DEFAULT_ACT (x : Nat) : Nat := 0x4000F000 + 16 * x
def F.DE_DEFAULT_ACT_QUEUE : Fld := ⟨0, 0, 17⟩
def F.DE_DEFAULT_ACT_DROP : Fld := ⟨0, 17, 1⟩
def F.DE_DEFAULT_ACT_COLOUR : Fld := ⟨0, 18, 2⟩
def F.DE_DEFAULT_ACT_CLASS : Fld := ⟨0, 20, 8⟩
def A.DE_DEFAULT_COUNT (x : Nat) : Nat := 0x4000F008 + 16 * x
def F.DE_DEFAULT_COUNT_V : Fld := ⟨0, 0, 48⟩

end Sys2Proof.Machine
end

