-- ==== Sys2Proof/Machine/RegTable.lean ====
section
/-! DEFINITION. The register tables of spec/ as rows (R9): every register of the Control Address Space with its base
address, its array dimensions, its words, and each field's access code (Table 0-3), reset value and Crit mark (R12).
An address that no row names is reserved (R30, R31). -/

namespace Sys2Proof.Machine

/-- The access codes of Table 0-3 (R10). -/
inductive Access where
  | rw | ro | wo | roc | w1c | w1s
  deriving DecidableEq, Repr

/-- One row of a register table (R9): the field's place, access, reset value and Crit mark. -/
structure FieldRow where
  word   : Nat
  lo     : Nat
  width  : Nat
  access : Access
  reset  : Nat
  crit   : Bool
  deriving DecidableEq, Repr

/-- One register, or one array of registers: `dims` are (count, stride) pairs, widest stride first. -/
structure RegRow where
  base   : Nat
  dims   : List (Nat × Nat)
  words  : Nat
  fields : List FieldRow
  deriving DecidableEq, Repr


/-- Registers CP_STATION to CP_FAULT_LOG. -/
def cpRows0 : List RegRow := [
  ⟨0x0, [], 1, [⟨0,0,16,.rw,0,true⟩]⟩,
  ⟨0x8, [], 1, [⟨0,0,16,.rw,0x88B5,true⟩, ⟨0,16,16,.rw,0,true⟩, ⟨0,32,7,.rw,0x5C,true⟩, ⟨0,39,1,.rw,1,true⟩, ⟨0,40,1,.rw,0,true⟩]⟩,
  ⟨0x10, [], 1, [⟨0,0,48,.rw,0,true⟩]⟩,
  ⟨0x100, [(24, 0x20)], 4, [⟨0,0,64,.ro,0,false⟩, ⟨1,0,64,.ro,0,false⟩, ⟨2,0,1,.ro,0,false⟩, ⟨2,1,1,.ro,0,false⟩]⟩,
  ⟨0x1000, [(256, 0x8)], 1, [⟨0,0,2,.ro,0,false⟩, ⟨0,16,13,.ro,0,false⟩, ⟨0,32,10,.ro,0,false⟩]⟩,
  ⟨0x3000, [], 1, [⟨0,0,1,.ro,0,false⟩, ⟨0,1,1,.ro,0,false⟩, ⟨0,2,1,.ro,0,false⟩, ⟨0,8,8,.ro,0,false⟩, ⟨0,16,8,.ro,0,false⟩, ⟨0,24,1,.ro,0,false⟩, ⟨0,32,8,.wo,0,true⟩, ⟨0,40,1,.wo,0,true⟩]⟩,
  ⟨0x200000, [(16384, 0x40)], 8, [⟨0,0,64,.ro,0,true⟩, ⟨1,0,4,.ro,0,true⟩, ⟨1,4,1,.ro,0,true⟩, ⟨1,5,1,.ro,0,true⟩, ⟨1,16,16,.ro,0,true⟩, ⟨2,0,64,.ro,0,true⟩, ⟨3,0,64,.ro,0,true⟩, ⟨4,0,64,.ro,0,true⟩, ⟨5,0,64,.ro,0,true⟩, ⟨6,0,64,.ro,0,true⟩]⟩,
  ⟨0x400000, [(32768, 0x80)], 16, [⟨0,0,64,.ro,0,true⟩, ⟨1,0,64,.ro,0,true⟩, ⟨2,0,13,.ro,0,true⟩, ⟨2,13,1,.ro,0,true⟩, ⟨2,14,1,.ro,0,true⟩, ⟨2,15,1,.ro,0,true⟩, ⟨2,16,16,.ro,0,true⟩, ⟨2,32,2,.ro,0,true⟩, ⟨2,34,1,.ro,0,true⟩, ⟨2,48,16,.ro,0,true⟩, ⟨3,0,64,.ro,0,true⟩, ⟨12,0,64,.ro,0,true⟩, ⟨13,0,64,.ro,0,true⟩, ⟨4,0,64,.ro,0,true⟩, ⟨5,0,64,.ro,0,true⟩, ⟨6,0,64,.ro,0,true⟩, ⟨7,0,64,.ro,0,true⟩, ⟨8,0,64,.ro,0,true⟩, ⟨9,0,64,.ro,0,true⟩, ⟨10,0,64,.ro,0,true⟩, ⟨11,0,64,.ro,0,true⟩, ⟨14,0,64,.ro,0,true⟩, ⟨15,0,64,.ro,0,true⟩]⟩,
  ⟨0x100000, [], 1, [⟨0,0,40,.rw,0,true⟩, ⟨0,40,1,.rw,0,true⟩, ⟨0,41,1,.wo,0,true⟩, ⟨0,48,16,.ro,0,false⟩]⟩,
  ⟨0x5000, [], 1, [⟨0,0,4,.ro,3,false⟩, ⟨0,4,4,.ro,2,false⟩, ⟨0,8,1,.ro,0,false⟩]⟩,
  ⟨0x5800, [(16, 0x8)], 1, [⟨0,0,48,.ro,0,true⟩]⟩,
  ⟨0x80000, [(512, 0x20)], 4, [⟨0,0,16,.ro,0,false⟩, ⟨0,16,2,.ro,0,false⟩, ⟨0,18,1,.ro,0,false⟩, ⟨0,19,5,.ro,0,false⟩, ⟨0,24,6,.ro,0,false⟩, ⟨0,30,13,.ro,0,false⟩, ⟨0,48,16,.ro,0,false⟩, ⟨1,0,64,.ro,0,false⟩, ⟨2,0,64,.ro,0,false⟩, ⟨3,0,64,.ro,0,false⟩]⟩]

/-- Registers CP_JOURNAL_NEXT to CP_TLM_CFG. -/
def cpRows1 : List RegRow := [
  ⟨0x2000, [], 1, [⟨0,0,64,.ro,0,false⟩]⟩,
  ⟨0x2008, [], 1, [⟨0,0,64,.ro,0,false⟩]⟩,
  ⟨0x2010, [], 1, [⟨0,0,16,.rw,0x32,true⟩]⟩,
  ⟨0x2018, [], 1, [⟨0,0,8,.ro,0,false⟩, ⟨0,8,32,.ro,0,false⟩, ⟨0,40,1,.ro,0,false⟩]⟩,
  ⟨0x100100, [], 1, [⟨0,0,1,.rw,0,true⟩, ⟨0,1,16,.rw,0x3E8,true⟩, ⟨0,32,16,.rw,0,true⟩]⟩,
  ⟨0x100108, [], 1, [⟨0,0,14,.ro,0,false⟩]⟩,
  ⟨0x100110, [], 1, [⟨0,0,14,.rw,0,true⟩]⟩,
  ⟨0x100200, [], 1, [⟨0,0,2,.rw,0,true⟩]⟩,
  ⟨0x100208, [], 1, [⟨0,0,15,.ro,0,false⟩]⟩,
  ⟨0x100210, [], 1, [⟨0,0,15,.rw,0,true⟩]⟩,
  ⟨0x100218, [], 1, [⟨0,0,64,.ro,0,false⟩]⟩,
  ⟨0x100300, [], 1, [⟨0,0,1,.rw,0,true⟩, ⟨0,1,4,.rw,0,true⟩, ⟨0,5,3,.rw,0,true⟩, ⟨0,8,2,.rw,0,true⟩, ⟨0,16,16,.rw,0x3E8,true⟩]⟩]

/-- Registers CP_TLM_DA to CP_RESET_CTRL. -/
def cpRows2 : List RegRow := [
  ⟨0x100308, [], 1, [⟨0,0,48,.rw,0,true⟩]⟩,
  ⟨0x5008, [], 1, [⟨0,0,64,.ro,0,false⟩]⟩,
  ⟨0x5010, [], 1, [⟨0,0,25,.ro,0,false⟩, ⟨0,25,8,.ro,0,false⟩, ⟨0,33,2,.ro,0,false⟩]⟩,
  ⟨0x5018, [], 1, [⟨0,0,32,.rw,0xFFFFFFFF,true⟩, ⟨0,32,1,.rw,1,true⟩, ⟨0,33,1,.rw,1,true⟩]⟩,
  ⟨0x5020, [], 1, [⟨0,0,18,.rw,0,true⟩, ⟨0,32,16,.rw,0x3E8,true⟩]⟩,
  ⟨0x5028, [], 1, [⟨0,0,1,.ro,0,false⟩, ⟨0,1,1,.ro,0,false⟩, ⟨0,16,32,.ro,0,false⟩]⟩,
  ⟨0x5030, [], 1, [⟨0,0,2,.rw,0,true⟩, ⟨0,2,4,.rw,0,true⟩, ⟨0,6,1,.rw,1,true⟩, ⟨0,7,1,.rw,0,true⟩, ⟨0,16,16,.rw,0x3E8,true⟩]⟩,
  ⟨0x5038, [], 1, [⟨0,0,1,.wo,0,true⟩, ⟨0,1,1,.ro,0,false⟩]⟩,
  ⟨0x5040, [], 1, [⟨0,0,1,.wo,0,true⟩, ⟨0,1,1,.rw,0,true⟩, ⟨0,2,1,.ro,0,false⟩, ⟨0,48,16,.ro,0,false⟩]⟩,
  ⟨0x5048, [], 1, [⟨0,0,64,.rw,0,true⟩]⟩,
  ⟨0x5100, [(64, 0x10)], 2, [⟨0,0,40,.rw,0,true⟩, ⟨0,40,1,.rw,0,true⟩, ⟨1,0,32,.rw,0,true⟩]⟩,
  ⟨0x6000, [], 1, [⟨0,0,1,.wo,0,true⟩]⟩]

/-- Registers CP_WDOG to CP_FAULT_HEAD. -/
def cpRows3 : List RegRow := [
  ⟨0x6008, [], 1, [⟨0,0,32,.rw,0x7D0,true⟩, ⟨0,32,1,.rw,1,true⟩]⟩,
  ⟨0x6010, [], 1, [⟨0,0,4,.ro,1,false⟩, ⟨0,16,32,.ro,0,false⟩]⟩,
  ⟨0x6020, [], 1, [⟨0,0,6,.wo,0,true⟩, ⟨0,8,2,.wo,0,true⟩]⟩,
  ⟨0x6030, [], 1, [⟨0,0,25,.ro,0,false⟩, ⟨0,25,8,.ro,0,false⟩, ⟨0,33,2,.ro,0,false⟩]⟩,
  ⟨0x6040, [], 1, [⟨0,0,6,.wo,0,true⟩, ⟨0,8,1,.wo,0,true⟩]⟩,
  ⟨0x6100, [(42, 0x8)], 1, [⟨0,0,2,.ro,0,false⟩, ⟨0,2,1,.ro,0,false⟩, ⟨0,8,8,.ro,0,false⟩]⟩,
  ⟨0x6200, [(50, 0x8)], 1, [⟨0,0,2,.ro,0,false⟩, ⟨0,2,1,.ro,0,false⟩, ⟨0,3,1,.ro,0,false⟩]⟩,
  ⟨0x6400, [(16, 0x8)], 1, [⟨0,0,12,.rw,0x898,true⟩, ⟨0,16,12,.ro,0x898,false⟩]⟩,
  ⟨0x6500, [(25, 0x8)], 1, [⟨0,0,10,.ro,0x2EE,false⟩, ⟨0,10,1,.ro,0,false⟩]⟩,
  ⟨0x6050, [], 1, [⟨0,0,8,.rw,0x69,true⟩, ⟨0,8,8,.rw,0x78,true⟩, ⟨0,16,12,.rw,0x640,true⟩]⟩,
  ⟨0x6060, [], 1, [⟨0,0,1,.rw,0,true⟩, ⟨0,4,4,.rw,3,true⟩, ⟨0,8,16,.rw,0xE10,true⟩, ⟨0,24,16,.rw,0,true⟩]⟩,
  ⟨0x6070, [], 1, [⟨0,0,9,.ro,0,false⟩]⟩]

/-- Registers CP_FAULT_TAIL to CP_BW_DROP. -/
def cpRows4 : List RegRow := [
  ⟨0x6078, [], 1, [⟨0,0,9,.rw,0,true⟩]⟩,
  ⟨0x7000, [], 1, [⟨0,0,16,.rw,0,true⟩, ⟨0,16,16,.rw,0,true⟩, ⟨0,32,16,.ro,0,false⟩]⟩,
  ⟨0x4000, [], 1, [⟨0,0,48,.ro,0,true⟩]⟩,
  ⟨0x4008, [], 1, [⟨0,0,48,.ro,0,true⟩]⟩,
  ⟨0x4010, [], 1, [⟨0,0,48,.ro,0,true⟩]⟩,
  ⟨0x4018, [], 1, [⟨0,0,48,.ro,0,true⟩]⟩,
  ⟨0x4020, [], 1, [⟨0,0,48,.ro,0,true⟩]⟩,
  ⟨0x4028, [], 1, [⟨0,0,48,.ro,0,true⟩]⟩,
  ⟨0x4030, [], 1, [⟨0,0,48,.ro,0,true⟩]⟩,
  ⟨0x4038, [], 1, [⟨0,0,48,.ro,0,true⟩]⟩,
  ⟨0x4100, [(16, 0x8)], 1, [⟨0,0,48,.ro,0,true⟩]⟩,
  ⟨0x100400, [], 1, [⟨0,0,48,.ro,0,true⟩]⟩]

/-- Registers CP_BW_LATE to CP_FAULT_OVERWRITE. -/
def cpRows5 : List RegRow := [
  ⟨0x100408, [], 1, [⟨0,0,48,.ro,0,true⟩]⟩,
  ⟨0x100410, [], 1, [⟨0,0,48,.ro,0,true⟩]⟩,
  ⟨0x100418, [], 1, [⟨0,0,48,.ro,0,true⟩]⟩,
  ⟨0x100420, [], 1, [⟨0,0,48,.ro,0,true⟩]⟩,
  ⟨0x100428, [], 1, [⟨0,0,48,.ro,0,true⟩]⟩,
  ⟨0x6800, [(4, 0x8)], 1, [⟨0,0,48,.ro,0,true⟩]⟩,
  ⟨0x6820, [], 1, [⟨0,0,48,.ro,0,true⟩]⟩]

/-- Every register of the CP region (Table 1-6). -/
def cpRows : List RegRow := cpRows0 ++ cpRows1 ++ cpRows2 ++ cpRows3 ++ cpRows4 ++ cpRows5

/-- Registers FT_SAT to FT_PPS_IN_DELAY. -/
def ftRows0 : List RegRow := [
  ⟨0x10001000, [(1024, 0x20)], 4, [⟨0,0,64,.rw,0,true⟩, ⟨1,0,16,.rw,0,true⟩, ⟨1,16,8,.rw,0,true⟩, ⟨1,24,3,.rw,0,true⟩, ⟨1,27,1,.ro,0,false⟩, ⟨1,32,16,.ro,0,false⟩, ⟨1,48,16,.ro,0,false⟩, ⟨2,0,64,.rw,0,true⟩, ⟨3,0,64,.rw,0,true⟩]⟩,
  ⟨0x10000000, [], 1, [⟨0,0,3,.rw,0,true⟩, ⟨0,3,1,.rw,0,true⟩, ⟨0,4,1,.rw,0,true⟩, ⟨0,5,1,.rw,0,true⟩, ⟨0,8,4,.rw,0,true⟩]⟩,
  ⟨0x10000008, [], 1, [⟨0,0,2,.ro,0,false⟩, ⟨0,2,1,.ro,0,false⟩, ⟨0,16,11,.ro,0,false⟩]⟩,
  ⟨0x10000010, [], 1, [⟨0,0,64,.ro,0,false⟩]⟩,
  ⟨0x10000018, [], 1, [⟨0,0,16,.ro,0,false⟩]⟩,
  ⟨0x10000020, [], 1, [⟨0,0,32,.rw,0,true⟩]⟩,
  ⟨0x10000028, [], 1, [⟨0,0,20,.rw,0x30D40,true⟩]⟩,
  ⟨0x10000030, [], 1, [⟨0,0,64,.rw,0,true⟩]⟩,
  ⟨0x10000038, [], 1, [⟨0,0,16,.rw,0,true⟩]⟩,
  ⟨0x10000040, [], 1, [⟨0,0,1,.wo,0,true⟩]⟩,
  ⟨0x10000048, [], 1, [⟨0,0,64,.ro,0,false⟩]⟩,
  ⟨0x10000050, [], 1, [⟨0,0,32,.rw,0,true⟩]⟩]

/-- Registers FT_PPS_IN_STAMP to FT_SKEW_MAX. -/
def ftRows1 : List RegRow := [
  ⟨0x10000058, [], 1, [⟨0,0,64,.ro,0,false⟩]⟩,
  ⟨0x10000060, [], 1, [⟨0,0,30,.rw,0,true⟩, ⟨0,32,20,.rw,0x186A0,true⟩]⟩,
  ⟨0x10000068, [], 1, [⟨0,0,32,.rw,0xC350,true⟩]⟩,
  ⟨0x10000070, [], 1, [⟨0,0,16,.roc,0,false⟩]⟩]

/-- Every register of the FT region (Table 1-6). -/
def ftRows : List RegRow := ftRows0 ++ ftRows1

/-- Registers HE_CTRL to HE_UNEXP_CPL. -/
def heRows0 : List RegRow := [
  ⟨0x20000000, [(2, 0x8000000)], 1, [⟨0,0,1,.rw,1,true⟩, ⟨0,1,3,.rw,6,true⟩, ⟨0,4,3,.rw,4,true⟩, ⟨0,7,6,.rw,0x1E,true⟩]⟩,
  ⟨0x20000200, [(2, 0x8000000), (8, 0x20)], 4, [⟨0,0,64,.rw,0,true⟩, ⟨1,0,64,.rw,0,true⟩, ⟨2,0,4,.rw,4,true⟩, ⟨2,4,1,.rw,0,true⟩, ⟨2,16,16,.ro,0,false⟩, ⟨2,32,16,.ro,0,false⟩]⟩,
  ⟨0x20000008, [(2, 0x8000000)], 1, [⟨0,0,1,.ro,0,false⟩, ⟨0,1,3,.ro,0,false⟩, ⟨0,4,5,.ro,0,false⟩, ⟨0,9,1,.ro,0,false⟩]⟩,
  ⟨0x20000010, [(2, 0x8000000)], 1, [⟨0,0,16,.rw,0x40,true⟩, ⟨0,16,32,.rw,0x3E8,true⟩]⟩,
  ⟨0x20000018, [(2, 0x8000000)], 1, [⟨0,0,1,.ro,0,false⟩, ⟨0,4,4,.ro,0,false⟩]⟩,
  ⟨0x20000020, [(2, 0x8000000)], 1, [⟨0,0,64,.ro,0,false⟩]⟩,
  ⟨0x20000028, [(2, 0x8000000)], 1, [⟨0,0,14,.ro,0,false⟩, ⟨0,16,14,.ro,0,false⟩]⟩,
  ⟨0x2000F000, [], 1, [⟨0,0,1,.rw,0,true⟩]⟩,
  ⟨0x20000100, [(2, 0x8000000)], 1, [⟨0,0,1,.ro,0,false⟩, ⟨0,1,1,.wo,0,true⟩, ⟨0,2,1,.ro,1,false⟩, ⟨0,16,32,.ro,0,false⟩]⟩,
  ⟨0x20001000, [(2, 0x8000000), (2, 0x800), (64, 0x20)], 4, [⟨0,0,1,.rw,0,true⟩, ⟨0,1,2,.rw,0,true⟩, ⟨0,3,1,.rw,0,true⟩, ⟨0,4,1,.rw,0,true⟩, ⟨0,5,6,.rw,0xC,true⟩, ⟨0,11,13,.rw,0,true⟩, ⟨1,0,64,.rw,0,true⟩, ⟨2,0,64,.rw,0,true⟩]⟩,
  ⟨0x20000800, [(2, 0x8000000)], 1, [⟨0,0,48,.ro,0,true⟩]⟩,
  ⟨0x20000808, [(2, 0x8000000)], 1, [⟨0,0,48,.ro,0,true⟩]⟩]

/-- Registers HE_LATE_CPL to HE_MALFORMED. -/
def heRows1 : List RegRow := [
  ⟨0x20000810, [(2, 0x8000000)], 1, [⟨0,0,48,.ro,0,true⟩]⟩,
  ⟨0x20000818, [(2, 0x8000000)], 1, [⟨0,0,48,.ro,0,true⟩]⟩,
  ⟨0x20000820, [(2, 0x8000000)], 1, [⟨0,0,48,.ro,0,true⟩]⟩,
  ⟨0x20000828, [(2, 0x8000000)], 1, [⟨0,0,48,.ro,0,true⟩]⟩,
  ⟨0x20000830, [(2, 0x8000000)], 1, [⟨0,0,48,.ro,0,true⟩]⟩,
  ⟨0x20000838, [(2, 0x8000000)], 1, [⟨0,0,48,.ro,0,true⟩]⟩,
  ⟨0x20000840, [(2, 0x8000000)], 1, [⟨0,0,48,.ro,0,true⟩]⟩,
  ⟨0x20000848, [(2, 0x8000000)], 1, [⟨0,0,48,.ro,0,true⟩]⟩,
  ⟨0x20000850, [(2, 0x8000000)], 1, [⟨0,0,48,.ro,0,true⟩]⟩,
  ⟨0x20000858, [(2, 0x8000000)], 1, [⟨0,0,48,.ro,0,true⟩]⟩,
  ⟨0x20000860, [(2, 0x8000000)], 1, [⟨0,0,48,.ro,0,true⟩]⟩]

/-- Every register of the HE region (Table 1-6). -/
def heRows : List RegRow := heRows0 ++ heRows1

/-- Registers SM_SLICE to SM_MSG. -/
def smRows0 : List RegRow := [
  ⟨0x30100000, [(8192, 0x20)], 4, [⟨0,0,1,.ro,0,false⟩, ⟨0,1,1,.ro,0,false⟩, ⟨0,2,20,.ro,0,false⟩, ⟨1,0,17,.rw,0,true⟩, ⟨1,17,16,.rw,0,true⟩, ⟨1,33,16,.rw,0,true⟩, ⟨2,0,20,.rw,0,true⟩, ⟨3,0,17,.ro,0,false⟩, ⟨3,17,16,.ro,0,false⟩, ⟨3,33,16,.ro,0,false⟩]⟩,
  ⟨0x30001000, [(1024, 0x20)], 4, [⟨0,0,13,.ro,0,false⟩, ⟨0,13,4,.ro,0,false⟩, ⟨0,17,3,.ro,0,false⟩, ⟨0,48,16,.ro,0,false⟩, ⟨1,0,64,.ro,0,false⟩, ⟨2,0,64,.ro,0,false⟩, ⟨3,0,17,.ro,0,false⟩, ⟨3,17,16,.ro,0,false⟩, ⟨3,33,16,.ro,0,false⟩]⟩,
  ⟨0x30200000, [(8192, 0x80), (8, 0x10)], 2, [⟨0,0,64,.rw,0,true⟩, ⟨1,0,32,.rw,0,true⟩, ⟨1,32,1,.rw,1,true⟩, ⟨1,33,1,.ro,0,false⟩]⟩]

/-- Every register of the SM region (Table 1-6). -/
def smRows : List RegRow := smRows0

/-- Registers DE_STATUS to DE_DEFAULT_ACT. -/
def deRows0 : List RegRow := [
  ⟨0x40000000, [], 1, [⟨0,0,1,.ro,1,false⟩, ⟨0,1,1,.ro,0,false⟩, ⟨0,8,6,.ro,0,false⟩, ⟨0,16,6,.ro,0,false⟩, ⟨0,24,7,.ro,0,false⟩, ⟨0,32,7,.ro,0,false⟩]⟩,
  ⟨0x41000000, [(65536, 0x40)], 8, [⟨0,0,1,.rw,0,true⟩, ⟨0,1,1,.wo,0,true⟩, ⟨0,2,2,.ro,0,false⟩, ⟨0,4,13,.rw,0,true⟩, ⟨0,17,1,.rw,0,true⟩, ⟨0,18,6,.rw,0,true⟩, ⟨0,24,3,.rw,0,true⟩, ⟨0,27,4,.rw,0,true⟩, ⟨0,31,4,.rw,0,true⟩, ⟨0,35,4,.rw,0,true⟩, ⟨0,39,3,.rw,0,true⟩, ⟨0,42,3,.rw,0,true⟩, ⟨0,45,3,.rw,0,true⟩, ⟨0,48,3,.rw,0,true⟩, ⟨0,51,4,.rw,4,true⟩, ⟨0,55,5,.rw,0xC,true⟩, ⟨1,0,64,.rw,0,true⟩, ⟨2,0,64,.rw,0,true⟩, ⟨3,0,64,.rw,0,true⟩, ⟨4,0,16,.ro,0,false⟩, ⟨4,16,16,.ro,0,false⟩, ⟨4,32,16,.ro,0,false⟩, ⟨4,48,16,.ro,0,false⟩, ⟨5,0,16,.ro,0,false⟩, ⟨5,16,16,.ro,0,false⟩, ⟨5,32,1,.ro,0,false⟩, ⟨5,48,16,.ro,0,false⟩, ⟨6,0,16,.rw,0,true⟩, ⟨6,16,9,.rw,8,true⟩]⟩,
  ⟨0x40000800, [], 1, [⟨0,0,48,.ro,0,true⟩]⟩,
  ⟨0x40000808, [], 1, [⟨0,0,48,.ro,0,true⟩]⟩,
  ⟨0x40000810, [], 1, [⟨0,0,48,.ro,0,true⟩]⟩,
  ⟨0x40000818, [], 1, [⟨0,0,48,.ro,0,true⟩]⟩,
  ⟨0x40000820, [], 1, [⟨0,0,48,.ro,0,true⟩]⟩,
  ⟨0x40000828, [], 1, [⟨0,0,48,.ro,0,true⟩]⟩,
  ⟨0x40000830, [], 1, [⟨0,0,48,.ro,0,true⟩]⟩,
  ⟨0x40000838, [], 1, [⟨0,0,48,.ro,0,true⟩]⟩,
  ⟨0x40000840, [], 1, [⟨0,0,48,.ro,0,true⟩]⟩,
  ⟨0x4000F000, [(2, 0x10)], 1, [⟨0,0,17,.rw,0,true⟩, ⟨0,17,1,.rw,1,true⟩, ⟨0,18,2,.rw,0,true⟩, ⟨0,20,8,.rw,0,true⟩]⟩]

/-- Registers DE_DEFAULT_COUNT to DE_DEFAULT_COUNT. -/
def deRows1 : List RegRow := [
  ⟨0x4000F008, [(2, 0x10)], 1, [⟨0,0,48,.ro,0,true⟩]⟩]

/-- Every register of the DE region (Table 1-6). -/
def deRows : List RegRow := deRows0 ++ deRows1

/-- Registers PX_MODE to PX_PREEMPT_STAT. -/
def pxRows0 : List RegRow := [
  ⟨0x50000000, [(4, 0x1000000)], 1, [⟨0,0,2,.rw,3,true⟩]⟩,
  ⟨0x50008000, [(4, 0x1000000), (64, 0x10)], 2, [⟨0,0,64,.ro,0,false⟩, ⟨1,0,16,.ro,0,false⟩, ⟨1,16,4,.ro,0,false⟩, ⟨1,20,4,.ro,0,false⟩, ⟨1,24,16,.ro,0,false⟩]⟩,
  ⟨0x50001000, [(4, 0x1000000), (4, 0x1000)], 1, [⟨0,0,1,.rw,0,true⟩, ⟨0,1,1,.rw,0,true⟩, ⟨0,2,1,.rw,0,true⟩, ⟨0,3,1,.rw,1,true⟩, ⟨0,4,3,.rw,0,true⟩, ⟨0,7,3,.rw,0,true⟩, ⟨0,16,14,.rw,0x2400,true⟩]⟩,
  ⟨0x50001008, [(4, 0x1000000), (4, 0x1000)], 1, [⟨0,0,1,.ro,0,false⟩, ⟨0,1,1,.ro,0,false⟩, ⟨0,2,1,.ro,0,false⟩, ⟨0,8,8,.ro,0,false⟩, ⟨0,16,8,.ro,0,false⟩, ⟨0,24,8,.ro,0,false⟩]⟩,
  ⟨0x50001030, [(4, 0x1000000), (4, 0x1000)], 1, [⟨0,0,2,.rw,0,true⟩, ⟨0,2,1,.rw,0,true⟩, ⟨0,8,8,.rw,0,true⟩, ⟨0,16,16,.rw,0xFFFF,true⟩, ⟨0,32,16,.rw,0x4B0,true⟩, ⟨0,48,16,.rw,0x40,true⟩]⟩,
  ⟨0x50000010, [(4, 0x1000000)], 1, [⟨0,0,6,.ro,0,false⟩]⟩,
  ⟨0x50000018, [(4, 0x1000000)], 1, [⟨0,0,6,.rw,0,true⟩]⟩,
  ⟨0x50000020, [(4, 0x1000000)], 1, [⟨0,0,48,.ro,0,true⟩]⟩,
  ⟨0x50001010, [(4, 0x1000000), (4, 0x1000)], 1, [⟨0,0,16,.rw,0,true⟩, ⟨0,16,16,.rw,0,true⟩]⟩,
  ⟨0x50001018, [(4, 0x1000000), (4, 0x1000)], 1, [⟨0,0,4,.rw,0,true⟩]⟩,
  ⟨0x50001020, [(4, 0x1000000), (4, 0x1000)], 1, [⟨0,0,1,.rw,0,true⟩, ⟨0,1,1,.rw,0,true⟩, ⟨0,2,8,.rw,0xA,true⟩, ⟨0,10,2,.rw,0,true⟩]⟩,
  ⟨0x50001028, [(4, 0x1000000), (4, 0x1000)], 1, [⟨0,0,3,.ro,0,false⟩, ⟨0,3,1,.ro,0,false⟩]⟩]

/-- Registers PX_WEIR to PX_RX_BAD_DELIVERED. -/
def pxRows1 : List RegRow := [
  ⟨0x50001040, [(4, 0x1000000), (4, 0x1000), (8, 0x8)], 1, [⟨0,0,24,.rw,0xFFFFFF,true⟩, ⟨0,24,24,.rw,0xFFFFFE,true⟩]⟩,
  ⟨0x50001080, [(4, 0x1000000), (4, 0x1000), (8, 0x8)], 1, [⟨0,0,24,.rw,0,true⟩]⟩,
  ⟨0x500010C0, [(4, 0x1000000), (4, 0x1000)], 1, [⟨0,0,32,.ro,0,false⟩, ⟨0,32,32,.rw,0x1F4,true⟩]⟩,
  ⟨0x50001800, [(4, 0x1000000), (4, 0x1000)], 1, [⟨0,0,48,.ro,0,true⟩]⟩,
  ⟨0x50001808, [(4, 0x1000000), (4, 0x1000)], 1, [⟨0,0,48,.ro,0,true⟩]⟩,
  ⟨0x50001810, [(4, 0x1000000), (4, 0x1000)], 1, [⟨0,0,48,.ro,0,true⟩]⟩,
  ⟨0x50001818, [(4, 0x1000000), (4, 0x1000)], 1, [⟨0,0,48,.ro,0,true⟩]⟩,
  ⟨0x50001820, [(4, 0x1000000), (4, 0x1000)], 1, [⟨0,0,48,.ro,0,true⟩]⟩,
  ⟨0x50001828, [(4, 0x1000000), (4, 0x1000)], 1, [⟨0,0,48,.ro,0,true⟩]⟩,
  ⟨0x50001830, [(4, 0x1000000), (4, 0x1000)], 1, [⟨0,0,48,.ro,0,true⟩]⟩,
  ⟨0x50001838, [(4, 0x1000000), (4, 0x1000)], 1, [⟨0,0,48,.ro,0,true⟩]⟩,
  ⟨0x50001840, [(4, 0x1000000), (4, 0x1000)], 1, [⟨0,0,48,.ro,0,true⟩]⟩]

/-- Registers PX_RX_BAD_BYTES to PX_TX_LINK_DROP. -/
def pxRows2 : List RegRow := [
  ⟨0x50001848, [(4, 0x1000000), (4, 0x1000)], 1, [⟨0,0,48,.ro,0,true⟩]⟩,
  ⟨0x50001850, [(4, 0x1000000), (4, 0x1000)], 1, [⟨0,0,48,.ro,0,true⟩]⟩,
  ⟨0x50001858, [(4, 0x1000000), (4, 0x1000)], 1, [⟨0,0,48,.ro,0,true⟩]⟩,
  ⟨0x50001860, [(4, 0x1000000), (4, 0x1000)], 1, [⟨0,0,48,.ro,0,true⟩]⟩,
  ⟨0x50001868, [(4, 0x1000000), (4, 0x1000)], 1, [⟨0,0,48,.ro,0,true⟩]⟩,
  ⟨0x50001880, [(4, 0x1000000), (4, 0x1000)], 1, [⟨0,0,48,.ro,0,true⟩]⟩,
  ⟨0x50001888, [(4, 0x1000000), (4, 0x1000)], 1, [⟨0,0,48,.ro,0,true⟩]⟩,
  ⟨0x50001890, [(4, 0x1000000), (4, 0x1000)], 1, [⟨0,0,48,.ro,0,true⟩]⟩,
  ⟨0x50001898, [(4, 0x1000000), (4, 0x1000)], 1, [⟨0,0,48,.ro,0,true⟩]⟩,
  ⟨0x500018A0, [(4, 0x1000000), (4, 0x1000)], 1, [⟨0,0,48,.ro,0,true⟩]⟩,
  ⟨0x500018A8, [(4, 0x1000000), (4, 0x1000)], 1, [⟨0,0,48,.ro,0,true⟩]⟩,
  ⟨0x500018B0, [(4, 0x1000000), (4, 0x1000)], 1, [⟨0,0,48,.ro,0,true⟩]⟩]

/-- Registers PX_TX_PAUSE to PX_DEFAULT_COUNT. -/
def pxRows3 : List RegRow := [
  ⟨0x500018B8, [(4, 0x1000000), (4, 0x1000)], 1, [⟨0,0,48,.ro,0,true⟩]⟩,
  ⟨0x500018C0, [(4, 0x1000000), (4, 0x1000)], 1, [⟨0,0,48,.ro,0,true⟩]⟩,
  ⟨0x500018C8, [(4, 0x1000000), (4, 0x1000)], 1, [⟨0,0,48,.ro,0,true⟩]⟩,
  ⟨0x5000F000, [(4, 0x1000000), (4, 0x10)], 1, [⟨0,0,17,.rw,0,true⟩, ⟨0,17,1,.rw,1,true⟩, ⟨0,18,2,.rw,0,true⟩, ⟨0,20,8,.rw,0,true⟩]⟩,
  ⟨0x5000F008, [(4, 0x1000000), (4, 0x10)], 1, [⟨0,0,48,.ro,0,true⟩]⟩]

/-- Every register of the PX region (Table 1-6). -/
def pxRows : List RegRow := pxRows0 ++ pxRows1 ++ pxRows2 ++ pxRows3

/-- Registers TM_PORT to TM_FLUSH. -/
def tmRows0 : List RegRow := [
  ⟨0x60001000, [(16, 0x40)], 1, [⟨0,0,16,.rw,0x3E8,true⟩, ⟨0,16,1,.rw,0,true⟩, ⟨0,17,1,.ro,0,false⟩, ⟨0,18,1,.ro,0,false⟩, ⟨0,19,1,.ro,0,false⟩]⟩,
  ⟨0x60001008, [(16, 0x40)], 1, [⟨0,0,48,.ro,0,true⟩]⟩,
  ⟨0x60002000, [(128, 0x8)], 1, [⟨0,0,1,.rw,1,true⟩, ⟨0,1,1,.rw,0,true⟩, ⟨0,2,8,.rw,1,true⟩, ⟨0,10,20,.rw,0,true⟩, ⟨0,30,12,.rw,0x40,true⟩]⟩,
  ⟨0x60004000, [(16, 0x40), (2, 0x20)], 4, [⟨0,0,64,.rw,0,true⟩, ⟨1,0,16,.rw,0,true⟩, ⟨1,16,8,.rw,0xFF,true⟩, ⟨1,24,9,.rw,0,true⟩, ⟨2,0,32,.rw,0xF4240,true⟩]⟩,
  ⟨0x60010000, [(16, 0x1000), (2, 0x800), (256, 0x8)], 1, [⟨0,0,8,.rw,0,true⟩, ⟨0,8,32,.rw,0,true⟩]⟩,
  ⟨0x60020000, [(256, 0x8)], 1, [⟨0,0,14,.rw,0,true⟩]⟩,
  ⟨0x60100020, [(16383, 0x20)], 4, [⟨0,0,20,.rw,0,true⟩, ⟨0,20,20,.rw,0,true⟩, ⟨0,40,1,.rw,0,true⟩, ⟨0,41,1,.rw,0,true⟩, ⟨1,0,24,.rw,0x4000,true⟩, ⟨1,24,24,.rw,0x4000,true⟩, ⟨2,0,32,.ro,0,false⟩, ⟨2,32,32,.ro,0,false⟩]⟩,
  ⟨0x60200000, [(65536, 0x20)], 4, [⟨0,0,1,.rw,0,true⟩, ⟨0,1,4,.rw,0,true⟩, ⟨0,5,3,.rw,0,true⟩, ⟨0,8,1,.rw,0,true⟩, ⟨0,9,1,.rw,1,true⟩, ⟨0,16,13,.rw,0,true⟩, ⟨0,32,14,.rw,0,true⟩, ⟨0,48,8,.rw,1,true⟩, ⟨0,56,8,.rw,0x14,true⟩, ⟨1,0,20,.rw,0,true⟩, ⟨1,20,20,.rw,0,true⟩, ⟨1,40,12,.rw,0x40,true⟩, ⟨1,52,12,.rw,0x40,true⟩, ⟨2,0,24,.rw,0x1000,true⟩, ⟨2,24,24,.rw,0x800,true⟩, ⟨3,0,24,.rw,0x400,true⟩]⟩,
  ⟨0x60400000, [(65536, 0x8)], 1, [⟨0,0,1,.rw,0,true⟩, ⟨0,1,1,.rw,0,true⟩, ⟨0,2,1,.rw,1,true⟩, ⟨0,3,14,.rw,0,true⟩, ⟨0,17,8,.rw,1,true⟩, ⟨0,25,24,.rw,0x1000,true⟩]⟩,
  ⟨0x60500000, [(131072, 0x8)], 1, [⟨0,0,24,.ro,0,false⟩, ⟨0,24,17,.ro,0,false⟩]⟩,
  ⟨0x60000000, [], 1, [⟨0,0,17,.ro,0x10000,false⟩]⟩,
  ⟨0x60000008, [], 1, [⟨0,0,17,.wo,0,true⟩]⟩]

/-- Registers TM_REJECT to TM_RED. -/
def tmRows1 : List RegRow := [
  ⟨0x60000100, [(8, 0x8)], 1, [⟨0,0,48,.ro,0,true⟩]⟩,
  ⟨0x60000140, [], 1, [⟨0,0,48,.ro,0,true⟩]⟩,
  ⟨0x61000000, [(131072, 0x40)], 1, [⟨0,0,48,.ro,0,true⟩]⟩,
  ⟨0x61000008, [(131072, 0x40)], 1, [⟨0,0,48,.ro,0,true⟩]⟩,
  ⟨0x61000010, [(131072, 0x40)], 1, [⟨0,0,48,.ro,0,true⟩]⟩,
  ⟨0x61000018, [(131072, 0x40)], 1, [⟨0,0,48,.ro,0,true⟩]⟩,
  ⟨0x61000020, [(131072, 0x40)], 1, [⟨0,0,48,.ro,0,true⟩]⟩,
  ⟨0x61000028, [(131072, 0x40)], 1, [⟨0,0,48,.ro,0,true⟩]⟩,
  ⟨0x61000030, [(131072, 0x40)], 1, [⟨0,0,48,.ro,0,true⟩]⟩,
  ⟨0x61000038, [(131072, 0x40)], 1, [⟨0,0,48,.ro,0,true⟩]⟩]

/-- Every register of the TM region (Table 1-6). -/
def tmRows : List RegRow := tmRows0 ++ tmRows1

/-- Registers BP_STATE to BP_POOL_EMPTY. -/
def bpRows0 : List RegRow := [
  ⟨0x70100000, [(40960, 0x8)], 1, [⟨0,0,2,.ro,0,false⟩, ⟨0,2,13,.ro,0,false⟩, ⟨0,16,8,.ro,0,false⟩, ⟨0,24,8,.ro,0,false⟩, ⟨0,32,1,.ro,0,false⟩, ⟨0,33,1,.ro,0,false⟩, ⟨0,34,5,.ro,0x1F,false⟩, ⟨0,39,3,.ro,0,false⟩, ⟨0,42,1,.ro,0,false⟩, ⟨0,48,16,.ro,0,false⟩]⟩,
  ⟨0x70000000, [], 4, [⟨0,0,7,.rw,1,true⟩, ⟨0,7,1,.rw,1,true⟩, ⟨0,32,16,.rw,0x6000,true⟩, ⟨1,0,19,.rw,0,true⟩, ⟨1,32,16,.rw,0,true⟩, ⟨2,0,16,.ro,0x6000,false⟩, ⟨2,16,16,.ro,0,false⟩, ⟨2,32,16,.ro,0,false⟩, ⟨2,48,16,.ro,0,false⟩]⟩,
  ⟨0x70000020, [], 4, [⟨0,0,7,.rw,8,true⟩, ⟨0,7,1,.rw,1,true⟩, ⟨0,32,16,.rw,0x2C00,true⟩, ⟨1,0,19,.rw,0x6000,true⟩, ⟨1,32,16,.rw,0x6000,true⟩, ⟨2,0,16,.ro,0x2C00,false⟩, ⟨2,16,16,.ro,0,false⟩, ⟨2,32,16,.ro,0,false⟩, ⟨2,48,16,.ro,0,false⟩]⟩,
  ⟨0x70000040, [], 4, [⟨0,0,7,.rw,0x28,true⟩, ⟨0,7,1,.rw,1,true⟩, ⟨0,32,16,.rw,0x800,true⟩, ⟨1,0,19,.rw,0x1C000,true⟩, ⟨1,32,16,.rw,0x8C00,true⟩, ⟨2,0,16,.ro,0x800,false⟩, ⟨2,16,16,.ro,0,false⟩, ⟨2,32,16,.ro,0,false⟩, ⟨2,48,16,.ro,0,false⟩]⟩,
  ⟨0x70000060, [], 4, [⟨0,0,7,.rw,0x40,true⟩, ⟨0,7,1,.rw,1,true⟩, ⟨0,32,16,.rw,0xC00,true⟩, ⟨1,0,19,.rw,0x30000,true⟩, ⟨1,32,16,.rw,0x9400,true⟩, ⟨2,0,16,.ro,0xC00,false⟩, ⟨2,16,16,.ro,0,false⟩, ⟨2,32,16,.ro,0,false⟩, ⟨2,48,16,.ro,0,false⟩]⟩,
  ⟨0x70000080, [], 4, [⟨0,0,7,.rw,0,true⟩, ⟨0,7,1,.rw,0,true⟩, ⟨0,32,16,.rw,0,true⟩, ⟨1,0,19,.rw,0,true⟩, ⟨1,32,16,.rw,0,true⟩, ⟨2,0,16,.ro,0,false⟩, ⟨2,16,16,.ro,0,false⟩, ⟨2,32,16,.ro,0,false⟩, ⟨2,48,16,.ro,0,false⟩]⟩,
  ⟨0x700000A0, [], 4, [⟨0,0,7,.rw,0,true⟩, ⟨0,7,1,.rw,0,true⟩, ⟨0,32,16,.rw,0,true⟩, ⟨1,0,19,.rw,0,true⟩, ⟨1,32,16,.rw,0,true⟩, ⟨2,0,16,.ro,0,false⟩, ⟨2,16,16,.ro,0,false⟩, ⟨2,32,16,.ro,0,false⟩, ⟨2,48,16,.ro,0,false⟩]⟩,
  ⟨0x700000C0, [], 4, [⟨0,0,7,.rw,0,true⟩, ⟨0,7,1,.rw,0,true⟩, ⟨0,32,16,.rw,0,true⟩, ⟨1,0,19,.rw,0,true⟩, ⟨1,32,16,.rw,0,true⟩, ⟨2,0,16,.ro,0,false⟩, ⟨2,16,16,.ro,0,false⟩, ⟨2,32,16,.ro,0,false⟩, ⟨2,48,16,.ro,0,false⟩]⟩,
  ⟨0x700000E0, [], 4, [⟨0,0,7,.rw,0,true⟩, ⟨0,7,1,.rw,0,true⟩, ⟨0,32,16,.rw,0,true⟩, ⟨1,0,19,.rw,0,true⟩, ⟨1,32,16,.rw,0,true⟩, ⟨2,0,16,.ro,0,false⟩, ⟨2,16,16,.ro,0,false⟩, ⟨2,32,16,.ro,0,false⟩, ⟨2,48,16,.ro,0,false⟩]⟩,
  ⟨0x70000800, [(128, 0x8)], 1, [⟨0,0,24,.ro,0,false⟩, ⟨0,24,24,.ro,0,false⟩]⟩,
  ⟨0x70000400, [(8, 0x8)], 1, [⟨0,0,48,.ro,0,true⟩]⟩,
  ⟨0x70000440, [(8, 0x8)], 1, [⟨0,0,48,.ro,0,true⟩]⟩]

/-- Registers BP_POOL_FALLBACK to BP_META. -/
def bpRows1 : List RegRow := [
  ⟨0x70000480, [(8, 0x8)], 1, [⟨0,0,48,.ro,0,true⟩]⟩,
  ⟨0x700004C0, [], 1, [⟨0,0,48,.ro,0,true⟩]⟩,
  ⟨0x700004C8, [], 1, [⟨0,0,48,.ro,0,true⟩]⟩,
  ⟨0x700004D0, [], 1, [⟨0,0,48,.ro,0,true⟩]⟩,
  ⟨0x700004D8, [], 1, [⟨0,0,48,.ro,0,true⟩]⟩,
  ⟨0x700004E0, [], 1, [⟨0,0,48,.ro,0,true⟩]⟩,
  ⟨0x70200000, [(40960, 0x40), (8, 0x8)], 1, [⟨0,0,64,.ro,0,true⟩]⟩]

/-- Every register of the BP region (Table 1-6). -/
def bpRows : List RegRow := bpRows0 ++ bpRows1

/-- Registers MA_EXC_LOG to MA_DBG_SEL. -/
def maRows0 : List RegRow := [
  ⟨0x80000000, [(16, 0x800000)], 1, [⟨0,0,16,.ro,0,false⟩, ⟨0,16,8,.ro,0,false⟩, ⟨0,24,16,.ro,0,false⟩, ⟨0,48,1,.roc,0,false⟩, ⟨0,49,1,.roc,0,false⟩]⟩,
  ⟨0x80000008, [(16, 0x800000)], 1, [⟨0,0,64,.ro,0,false⟩]⟩,
  ⟨0x80010000, [(16, 0x800000), (128, 0x8)], 1, [⟨0,0,8,.rw,0,true⟩, ⟨0,8,4,.rw,0xF,true⟩, ⟨0,12,1,.rw,0,true⟩]⟩,
  ⟨0x80010400, [(16, 0x800000), (128, 0x8)], 1, [⟨0,0,48,.rw,0,true⟩]⟩,
  ⟨0x80000100, [(16, 0x800000)], 1, [⟨0,0,8,.rw,0x20,true⟩]⟩,
  ⟨0x80000108, [(16, 0x800000)], 1, [⟨0,0,9,.ro,0x100,false⟩, ⟨0,9,9,.ro,0,false⟩, ⟨0,18,9,.ro,0,false⟩, ⟨0,27,9,.ro,0,false⟩, ⟨0,36,9,.ro,0,false⟩]⟩,
  ⟨0x80000110, [(16, 0x800000)], 1, [⟨0,0,32,.rw,0x3E8,true⟩, ⟨0,32,1,.rw,0,true⟩]⟩,
  ⟨0x80000118, [(16, 0x800000)], 1, [⟨0,0,1,.ro,0,false⟩, ⟨0,1,1,.ro,0,false⟩, ⟨0,2,1,.ro,0,false⟩, ⟨0,3,1,.ro,0,false⟩, ⟨0,16,16,.ro,0,false⟩, ⟨0,32,32,.ro,0,false⟩]⟩,
  ⟨0x80000120, [(16, 0x800000)], 1, [⟨0,0,32,.rw,0,true⟩]⟩,
  ⟨0x80000200, [(16, 0x800000)], 1, [⟨0,0,1,.rw,0,true⟩, ⟨0,1,1,.rw,0,true⟩]⟩,
  ⟨0x80000208, [(16, 0x800000)], 1, [⟨0,0,3,.wo,0,true⟩, ⟨0,8,8,.wo,0,true⟩]⟩,
  ⟨0x80000210, [(16, 0x800000)], 1, [⟨0,0,8,.rw,0,true⟩]⟩]

/-- Registers MA_DBG_HALTED to MA_PROFILE. -/
def maRows1 : List RegRow := [
  ⟨0x80000220, [(16, 0x800000), (4, 0x8)], 1, [⟨0,0,64,.ro,0,false⟩]⟩,
  ⟨0x80000300, [(16, 0x800000), (16, 0x8)], 1, [⟨0,0,16,.rw,0,true⟩, ⟨0,16,2,.rw,0,true⟩, ⟨0,18,1,.wo,0,true⟩, ⟨0,19,1,.ro,0,false⟩, ⟨0,20,8,.ro,0,false⟩]⟩,
  ⟨0x80004000, [(16, 0x800000), (512, 0x8)], 1, [⟨0,0,2,.rw,0,true⟩, ⟨0,2,2,.rw,0,true⟩, ⟨0,4,1,.rw,0,true⟩, ⟨0,5,1,.rw,0,true⟩, ⟨0,16,4,.rw,0,true⟩, ⟨0,20,9,.rw,0,true⟩]⟩,
  ⟨0x80005000, [(16, 0x800000), (512, 0x8)], 1, [⟨0,0,3,.ro,0,false⟩, ⟨0,3,9,.ro,0,false⟩, ⟨0,12,9,.ro,0,false⟩]⟩,
  ⟨0x8800F000, [], 1, [⟨0,0,1,.rw,1,true⟩, ⟨0,8,24,.rw,0x64,true⟩]⟩,
  ⟨0x8800F008, [], 1, [⟨0,0,48,.ro,0,true⟩]⟩,
  ⟨0x88000000, [], 1, [⟨0,0,8,.rw,1,true⟩, ⟨0,8,8,.rw,1,true⟩]⟩,
  ⟨0x88000008, [], 1, [⟨0,0,32,.ro,0,false⟩]⟩,
  ⟨0x88000010, [], 1, [⟨0,0,1,.rw,1,true⟩, ⟨0,1,2,.rw,2,true⟩, ⟨0,3,1,.wo,0,true⟩, ⟨0,16,16,.rw,0x7D0,true⟩]⟩,
  ⟨0x88000018, [], 1, [⟨0,0,16,.rw,0xFFF0,true⟩, ⟨0,16,8,.rw,0x4B,true⟩, ⟨0,24,1,.rw,1,true⟩]⟩,
  ⟨0x88000100, [(16, 0x8)], 1, [⟨0,0,6,.rw,0,true⟩]⟩,
  ⟨0x88001000, [(64, 0x20)], 4, [⟨0,0,12,.rw,0,true⟩, ⟨0,12,4,.rw,0,true⟩, ⟨0,16,3,.rw,0,true⟩, ⟨0,19,1,.rw,0,true⟩, ⟨0,20,1,.rw,0,true⟩, ⟨0,32,32,.rw,0,true⟩, ⟨1,0,64,.rw,0,true⟩, ⟨2,0,64,.rw,0,true⟩]⟩]

/-- Registers MA_PL_RECIPE to MA_DISPATCH_NO_MILL. -/
def maRows2 : List RegRow := [
  ⟨0x88002000, [(64, 0x40)], 8, [⟨0,0,10,.rw,0,true⟩, ⟨0,10,3,.rw,0,true⟩, ⟨0,13,1,.rw,0,true⟩, ⟨0,14,1,.rw,0,true⟩, ⟨1,0,64,.rw,0,true⟩, ⟨2,0,64,.rw,0,true⟩, ⟨3,0,64,.rw,0,true⟩, ⟨4,0,64,.rw,0,true⟩, ⟨5,0,64,.rw,0,true⟩]⟩,
  ⟨0x88010000, [(4096, 0x8)], 1, [⟨0,0,4,.rw,0,true⟩, ⟨0,4,16,.rw,0,true⟩, ⟨0,20,2,.rw,0,true⟩, ⟨0,22,1,.rw,0,true⟩, ⟨0,24,13,.rw,0,true⟩]⟩,
  ⟨0x80000010, [(16, 0x800000)], 1, [⟨0,0,48,.ro,0,true⟩]⟩,
  ⟨0x80000018, [(16, 0x800000)], 1, [⟨0,0,48,.ro,0,true⟩]⟩,
  ⟨0x80000130, [(16, 0x800000)], 1, [⟨0,0,48,.ro,0,true⟩]⟩,
  ⟨0x80000138, [(16, 0x800000)], 1, [⟨0,0,48,.ro,0,true⟩]⟩,
  ⟨0x80000140, [(16, 0x800000)], 1, [⟨0,0,48,.ro,0,true⟩]⟩,
  ⟨0x80000148, [(16, 0x800000)], 1, [⟨0,0,48,.ro,0,true⟩]⟩,
  ⟨0x80000150, [(16, 0x800000)], 1, [⟨0,0,48,.ro,0,true⟩]⟩,
  ⟨0x80000158, [(16, 0x800000)], 1, [⟨0,0,48,.ro,0,true⟩]⟩,
  ⟨0x88000200, [], 1, [⟨0,0,48,.ro,0,true⟩]⟩,
  ⟨0x88000208, [], 1, [⟨0,0,48,.ro,0,true⟩]⟩]

/-- Registers MA_DISPATCH_INVALID to MA_REWRITE_EMPTY. -/
def maRows3 : List RegRow := [
  ⟨0x88000210, [], 1, [⟨0,0,48,.ro,0,true⟩]⟩,
  ⟨0x88000218, [], 1, [⟨0,0,48,.ro,0,true⟩]⟩,
  ⟨0x88000220, [], 1, [⟨0,0,48,.ro,0,true⟩]⟩,
  ⟨0x88000228, [], 1, [⟨0,0,48,.ro,0,true⟩]⟩,
  ⟨0x88000230, [], 1, [⟨0,0,48,.ro,0,true⟩]⟩,
  ⟨0x88000238, [], 1, [⟨0,0,48,.ro,0,true⟩]⟩,
  ⟨0x88000300, [(18, 0x8)], 1, [⟨0,0,48,.ro,0,true⟩]⟩,
  ⟨0x88000400, [(16, 0x8)], 1, [⟨0,0,48,.ro,0,true⟩]⟩,
  ⟨0x80000400, [(16, 0x800000)], 1, [⟨0,0,17,.rw,0,true⟩, ⟨0,17,1,.rw,1,true⟩, ⟨0,18,2,.rw,0,true⟩, ⟨0,20,8,.rw,0,true⟩]⟩,
  ⟨0x80000408, [(16, 0x800000)], 1, [⟨0,0,48,.ro,0,true⟩]⟩,
  ⟨0x80000410, [(16, 0x800000)], 1, [⟨0,0,48,.ro,0,true⟩]⟩,
  ⟨0x80000418, [(16, 0x800000)], 1, [⟨0,0,48,.ro,0,true⟩]⟩]

/-- Registers MA_VERDICT_COUNT to MA_DISPATCH_STATUS. -/
def maRows4 : List RegRow := [
  ⟨0x80000420, [(16, 0x800000)], 1, [⟨0,0,48,.ro,0,true⟩]⟩,
  ⟨0x80000428, [(16, 0x800000)], 1, [⟨0,0,48,.ro,0,true⟩]⟩,
  ⟨0x80000430, [(16, 0x800000)], 1, [⟨0,0,9,.ro,0,false⟩]⟩,
  ⟨0x80000438, [(16, 0x800000)], 1, [⟨0,0,6,.ro,0,false⟩]⟩]

/-- Every register of the MA region (Table 1-6). -/
def maRows : List RegRow := maRows0 ++ maRows1 ++ maRows2 ++ maRows3 ++ maRows4

/-- Registers CL_RULE to CL_PE_SWAP_TIME. -/
def clRows0 : List RegRow := [
  ⟨0x91000000, [(65536, 0x80)], 16, [⟨10,0,8,.rw,0,true⟩, ⟨10,8,2,.rw,0,true⟩, ⟨10,10,17,.rw,0,true⟩, ⟨10,27,1,.rw,0,true⟩, ⟨10,28,1,.rw,0,true⟩, ⟨10,29,1,.rw,0,true⟩, ⟨11,0,64,.rw,0,true⟩, ⟨12,0,16,.rw,0,true⟩, ⟨12,16,1,.rw,0,true⟩, ⟨12,32,16,.rw,0,true⟩, ⟨12,48,16,.rw,0,true⟩, ⟨0,0,64,.rw,0,true⟩, ⟨1,0,64,.rw,0,true⟩, ⟨2,0,64,.rw,0,true⟩, ⟨3,0,64,.rw,0,true⟩, ⟨4,0,64,.rw,0,true⟩, ⟨5,0,64,.rw,0,true⟩, ⟨6,0,64,.rw,0,true⟩, ⟨7,0,64,.rw,0,true⟩, ⟨8,0,64,.rw,0,true⟩, ⟨9,0,64,.rw,0,true⟩]⟩,
  ⟨0x90001000, [(8, 0x100)], 1, [⟨0,0,1,.rw,0,true⟩, ⟨0,1,1,.rw,0,true⟩]⟩,
  ⟨0x90001008, [(8, 0x100)], 1, [⟨0,0,64,.rw,0,true⟩]⟩,
  ⟨0x90001010, [(8, 0x100)], 1, [⟨0,0,16,.ro,1,false⟩, ⟨0,16,16,.ro,0,false⟩, ⟨0,32,3,.ro,0,false⟩, ⟨0,35,3,.ro,0,false⟩, ⟨0,38,1,.ro,0,false⟩]⟩,
  ⟨0x90001020, [(8, 0x100), (4, 0x10)], 2, [⟨0,0,64,.ro,0,false⟩, ⟨1,0,16,.ro,0,false⟩, ⟨1,16,16,.ro,0,false⟩, ⟨1,32,2,.ro,0,false⟩, ⟨1,34,24,.ro,0,false⟩]⟩,
  ⟨0x90800000, [(65536, 0x8)], 1, [⟨0,0,48,.rw,0,true⟩]⟩,
  ⟨0x90001060, [(8, 0x100)], 1, [⟨0,0,48,.ro,0,true⟩]⟩,
  ⟨0x90001068, [(8, 0x100)], 1, [⟨0,0,48,.ro,0,true⟩]⟩,
  ⟨0x90002000, [], 1, [⟨0,0,14,.rw,0x3F00,true⟩]⟩,
  ⟨0x90002008, [], 1, [⟨0,0,1,.ro,0,false⟩, ⟨0,1,1,.ro,0,false⟩, ⟨0,2,1,.ro,0,false⟩, ⟨0,3,1,.ro,0,false⟩]⟩,
  ⟨0x90002010, [(2, 0x8)], 1, [⟨0,0,17,.ro,0,false⟩, ⟨0,32,32,.ro,0,false⟩]⟩,
  ⟨0x90002020, [], 1, [⟨0,0,64,.ro,0,false⟩]⟩]

/-- Registers CL_PE_SCANS to CL_PE_MATCHES. -/
def clRows1 : List RegRow := [
  ⟨0x90002040, [], 1, [⟨0,0,48,.ro,0,true⟩]⟩,
  ⟨0x90002048, [], 1, [⟨0,0,48,.ro,0,true⟩]⟩,
  ⟨0x90002050, [], 1, [⟨0,0,48,.ro,0,true⟩]⟩]

/-- Every register of the CL region (Table 1-6). -/
def clRows : List RegRow := clRows0 ++ clRows1

/-- Registers TE_OVF to TE_CNT_CTRL. -/
def teRows0 : List RegRow := [
  ⟨0xA0100000, [(2, 0x8000000), (16384, 0x40)], 5, [⟨0,0,192,.ro,0,false⟩, ⟨3,0,64,.ro,0,false⟩, ⟨4,0,4,.ro,0,false⟩, ⟨4,4,1,.ro,0,false⟩, ⟨4,5,1,.ro,0,false⟩, ⟨4,6,1,.ro,0,false⟩, ⟨4,7,1,.ro,0,false⟩, ⟨4,8,12,.ro,0,false⟩]⟩,
  ⟨0xA0000000, [(2, 0x8000000)], 1, [⟨0,0,3,.rw,2,true⟩]⟩,
  ⟨0xA0001000, [(2, 0x8000000), (16, 0x20)], 4, [⟨0,0,23,.rw,0,true⟩, ⟨0,23,5,.rw,4,true⟩, ⟨0,28,5,.rw,1,true⟩, ⟨0,33,1,.rw,0,true⟩, ⟨0,34,1,.rw,0,true⟩, ⟨0,35,1,.rw,0,true⟩, ⟨0,36,1,.rw,0,true⟩, ⟨0,37,1,.rw,0,true⟩, ⟨0,38,1,.rw,1,true⟩, ⟨0,39,1,.rw,0,true⟩, ⟨0,40,23,.rw,0,true⟩, ⟨1,0,23,.rw,1,true⟩, ⟨1,32,32,.rw,0,true⟩, ⟨2,0,64,.rw,0,true⟩, ⟨3,0,32,.rw,0x2710,true⟩, ⟨3,32,15,.rw,0x400,true⟩]⟩,
  ⟨0xA0001200, [(2, 0x8000000), (16, 0x8)], 1, [⟨0,0,23,.ro,0,false⟩, ⟨0,23,15,.ro,0,false⟩, ⟨0,38,12,.ro,0,false⟩]⟩,
  ⟨0xA0000100, [(2, 0x8000000), (5, 0x8)], 1, [⟨0,0,64,.rw,0,true⟩]⟩,
  ⟨0xA0000128, [(2, 0x8000000)], 1, [⟨0,0,1,.wo,0,true⟩]⟩,
  ⟨0xA0000130, [(2, 0x8000000)], 1, [⟨0,0,16,.ro,0,false⟩, ⟨0,16,8,.ro,0,false⟩, ⟨0,24,1,.ro,0,false⟩, ⟨0,40,24,.ro,0,false⟩]⟩,
  ⟨0xA0001400, [(2, 0x8000000), (8, 0x8)], 1, [⟨0,0,2,.rw,0,true⟩, ⟨0,32,32,.rw,0,true⟩]⟩,
  ⟨0xA0001440, [(2, 0x8000000)], 1, [⟨0,0,23,.rw,0,true⟩, ⟨0,23,1,.rw,0,true⟩, ⟨0,24,22,.rw,0x10000,true⟩]⟩,
  ⟨0xA0001448, [(2, 0x8000000)], 1, [⟨0,0,22,.ro,0,false⟩]⟩,
  ⟨0xA0001480, [(2, 0x8000000)], 1, [⟨0,0,23,.rw,0,true⟩, ⟨0,23,1,.rw,0,true⟩, ⟨0,24,24,.rw,0,true⟩]⟩,
  ⟨0xA0001488, [(2, 0x8000000)], 1, [⟨0,0,1,.wo,0,true⟩, ⟨0,1,1,.ro,0,false⟩]⟩]

/-- Registers TE_CE_AREA to TE_QDR_WORDS. -/
def teRows1 : List RegRow := [
  ⟨0xA00014C0, [(2, 0x8000000)], 1, [⟨0,0,23,.rw,0,true⟩, ⟨0,23,1,.rw,0,true⟩, ⟨0,24,23,.rw,0,true⟩]⟩,
  ⟨0xA0002000, [(2, 0x8000000), (16, 0x8)], 1, [⟨0,0,48,.ro,0,true⟩]⟩,
  ⟨0xA0002080, [(2, 0x8000000), (16, 0x8)], 1, [⟨0,0,48,.ro,0,true⟩]⟩,
  ⟨0xA0002100, [(2, 0x8000000), (16, 0x8)], 1, [⟨0,0,48,.ro,0,true⟩]⟩,
  ⟨0xA0002180, [(2, 0x8000000), (16, 0x8)], 1, [⟨0,0,48,.ro,0,true⟩]⟩,
  ⟨0xA0002200, [(2, 0x8000000), (16, 0x8)], 1, [⟨0,0,48,.ro,0,true⟩]⟩,
  ⟨0xA0002280, [(2, 0x8000000), (16, 0x8)], 1, [⟨0,0,48,.ro,0,true⟩]⟩,
  ⟨0xA0002300, [(2, 0x8000000), (16, 0x8)], 1, [⟨0,0,48,.ro,0,true⟩]⟩,
  ⟨0xA0002400, [(2, 0x8000000)], 1, [⟨0,0,48,.ro,0,true⟩]⟩,
  ⟨0xA0002408, [(2, 0x8000000)], 1, [⟨0,0,48,.ro,0,true⟩]⟩,
  ⟨0xA0002410, [(2, 0x8000000)], 1, [⟨0,0,48,.ro,0,true⟩]⟩,
  ⟨0xA0002418, [(2, 0x8000000)], 1, [⟨0,0,48,.ro,0,true⟩]⟩]

/-- Registers TE_SWEEP_POISON to TE_CNT_ADDS. -/
def teRows2 : List RegRow := [
  ⟨0xA0002420, [(2, 0x8000000)], 1, [⟨0,0,48,.ro,0,true⟩]⟩,
  ⟨0xA0002428, [(2, 0x8000000)], 1, [⟨0,0,48,.ro,0,true⟩]⟩,
  ⟨0xA0002500, [(2, 0x8000000), (8, 0x8)], 1, [⟨0,0,48,.ro,0,true⟩]⟩,
  ⟨0xA0002540, [(2, 0x8000000)], 1, [⟨0,0,48,.ro,0,true⟩]⟩]

/-- Every register of the TE region (Table 1-6). -/
def teRows : List RegRow := teRows0 ++ teRows1 ++ teRows2

/-- Registers CE_CTRL to CE_REPLAY. -/
def ceRows0 : List RegRow := [
  ⟨0xB0000000, [], 1, [⟨0,0,4,.rw,0xA,true⟩]⟩,
  ⟨0xB0000100, [], 1, [⟨0,0,64,.rw,0,true⟩]⟩,
  ⟨0xB0000108, [], 1, [⟨0,0,64,.rw,0,true⟩]⟩,
  ⟨0xB0000110, [], 1, [⟨0,0,64,.rw,0,true⟩]⟩,
  ⟨0xB0000120, [(9, 0x8)], 1, [⟨0,0,64,.wo,0,true⟩]⟩,
  ⟨0xB0000180, [], 1, [⟨0,0,20,.wo,0,true⟩, ⟨0,20,3,.wo,0,true⟩, ⟨0,24,2,.wo,0,true⟩]⟩,
  ⟨0xB0000188, [], 1, [⟨0,0,16,.ro,0,false⟩, ⟨0,16,1,.ro,0,false⟩]⟩,
  ⟨0xB0000190, [], 1, [⟨0,0,64,.ro,0,false⟩]⟩,
  ⟨0xB0000400, [], 1, [⟨0,0,48,.ro,0,true⟩]⟩,
  ⟨0xB0000408, [], 1, [⟨0,0,48,.ro,0,true⟩]⟩,
  ⟨0xB0000410, [], 1, [⟨0,0,48,.ro,0,true⟩]⟩,
  ⟨0xB0000418, [], 1, [⟨0,0,48,.ro,0,true⟩]⟩]

/-- Registers CE_CTX_LOADS to CE_CTX_BOUNDS. -/
def ceRows1 : List RegRow := [
  ⟨0xB0000420, [], 1, [⟨0,0,48,.ro,0,true⟩]⟩,
  ⟨0xB0000428, [], 1, [⟨0,0,48,.ro,0,true⟩]⟩]

/-- Every register of the CE region (Table 1-6). -/
def ceRows : List RegRow := ceRows0 ++ ceRows1

/-- Registers ST_CONN to ST_TX_SEGS. -/
def stRows0 : List RegRow := [
  ⟨0xC0100000, [(32768, 0x20)], 4, [⟨0,0,1,.rw,0,true⟩, ⟨0,1,1,.rw,0,true⟩, ⟨0,2,1,.rw,0,true⟩, ⟨0,3,1,.rw,0,true⟩, ⟨0,4,1,.rw,0,true⟩, ⟨0,5,13,.rw,0,true⟩, ⟨0,18,1,.rw,0,true⟩, ⟨0,19,3,.rw,0,true⟩, ⟨0,32,32,.rw,0,true⟩, ⟨1,0,64,.rw,0,true⟩, ⟨2,0,4,.rw,4,true⟩, ⟨2,16,16,.ro,0,false⟩, ⟨2,32,16,.rw,0,true⟩, ⟨2,48,4,.rw,0,true⟩, ⟨3,0,64,.rw,0,true⟩]⟩,
  ⟨0xC0010000, [(4096, 0x8)], 1, [⟨0,0,20,.rw,0,true⟩, ⟨0,20,1,.rw,0,true⟩]⟩,
  ⟨0xC0200000, [(32768, 0x8)], 1, [⟨0,0,3,.ro,0,false⟩, ⟨0,8,8,.ro,0,false⟩]⟩,
  ⟨0xC0000400, [], 1, [⟨0,0,48,.ro,0,true⟩]⟩,
  ⟨0xC0000408, [], 1, [⟨0,0,48,.ro,0,true⟩]⟩,
  ⟨0xC0000410, [], 1, [⟨0,0,48,.ro,0,true⟩]⟩,
  ⟨0xC0000418, [], 1, [⟨0,0,48,.ro,0,true⟩]⟩,
  ⟨0xC0000420, [], 1, [⟨0,0,48,.ro,0,true⟩]⟩]

/-- Every register of the ST region (Table 1-6). -/
def stRows : List RegRow := stRows0

/-- Registers MC_CFG to MC_CORRECTED. -/
def mcRows0 : List RegRow := [
  ⟨0xD0000000, [(8, 0x1000000)], 1, [⟨0,0,4,.rw,8,true⟩, ⟨0,4,4,.rw,5,true⟩, ⟨0,8,1,.rw,1,true⟩, ⟨0,16,16,.rw,0x64,true⟩, ⟨0,32,16,.rw,0x258,true⟩, ⟨0,48,16,.rw,0x3E8,true⟩]⟩,
  ⟨0xD0000008, [(8, 0x1000000)], 1, [⟨0,0,2,.ro,0,false⟩, ⟨0,2,1,.ro,0,false⟩, ⟨0,3,1,.ro,0,false⟩, ⟨0,8,7,.ro,0,false⟩, ⟨0,15,1,.ro,0,false⟩, ⟨0,16,8,.ro,0,false⟩, ⟨0,32,32,.ro,0,false⟩]⟩,
  ⟨0xD8001000, [(80, 0x20)], 4, [⟨0,0,48,.ro,0,true⟩, ⟨1,0,48,.ro,0,true⟩, ⟨2,0,48,.ro,0,true⟩, ⟨3,0,48,.ro,0,true⟩]⟩,
  ⟨0xD0000010, [(8, 0x1000000)], 1, [⟨0,0,21,.ro,0,false⟩]⟩,
  ⟨0xD0000018, [(8, 0x1000000)], 1, [⟨0,0,21,.ro,0,false⟩, ⟨0,21,1,.ro,0,false⟩, ⟨0,22,2,.ro,0,false⟩, ⟨0,24,1,.roc,0,false⟩, ⟨0,25,1,.roc,0,false⟩, ⟨0,32,32,.ro,0,false⟩]⟩,
  ⟨0xD0000020, [(8, 0x1000000)], 1, [⟨0,0,64,.ro,0,false⟩]⟩,
  ⟨0xD8000000, [], 1, [⟨0,0,16,.rw,0x3C,true⟩, ⟨0,16,16,.rw,0x3E8,true⟩]⟩,
  ⟨0xD8000008, [], 1, [⟨0,0,7,.ro,0,false⟩, ⟨0,8,24,.ro,0,false⟩, ⟨0,32,2,.ro,0,false⟩, ⟨0,34,1,.roc,0,false⟩, ⟨0,35,1,.roc,0,false⟩]⟩,
  ⟨0xD8000010, [], 1, [⟨0,0,32,.ro,0,false⟩]⟩,
  ⟨0xD8000018, [], 1, [⟨0,0,64,.ro,0,false⟩]⟩,
  ⟨0xD8000020, [], 1, [⟨0,0,24,.ro,0,false⟩, ⟨0,24,7,.ro,0,false⟩]⟩,
  ⟨0xD0000100, [(8, 0x1000000)], 1, [⟨0,0,48,.ro,0,true⟩]⟩]

/-- Registers MC_UNCORRECTED to MC_SYM. -/
def mcRows1 : List RegRow := [
  ⟨0xD0000108, [(8, 0x1000000)], 1, [⟨0,0,48,.ro,0,true⟩]⟩,
  ⟨0xD0000110, [(8, 0x1000000)], 1, [⟨0,0,48,.ro,0,true⟩]⟩,
  ⟨0xD0000118, [(8, 0x1000000)], 1, [⟨0,0,48,.ro,0,true⟩]⟩,
  ⟨0xD0000120, [(8, 0x1000000)], 1, [⟨0,0,48,.ro,0,true⟩]⟩,
  ⟨0xD0000128, [(8, 0x1000000)], 1, [⟨0,0,48,.ro,0,true⟩]⟩,
  ⟨0xD0000130, [(8, 0x1000000)], 1, [⟨0,0,48,.ro,0,true⟩]⟩,
  ⟨0xD0000138, [(8, 0x1000000)], 1, [⟨0,0,48,.ro,0,true⟩]⟩,
  ⟨0xD0000200, [(8, 0x1000000), (36, 0x8)], 1, [⟨0,0,48,.ro,0,true⟩]⟩]

/-- Every register of the MC region (Table 1-6). -/
def mcRows : List RegRow := mcRows0 ++ mcRows1

/-- The register rows of the region an address lies in (Table 1-6); none outside the fourteen register regions. -/
def regionRows (a : Nat) : List RegRow :=
  match a / 0x10000000 with
  | 0 => cpRows
  | 1 => ftRows
  | 2 => heRows
  | 3 => smRows
  | 4 => deRows
  | 5 => pxRows
  | 6 => tmRows
  | 7 => bpRows
  | 8 => maRows
  | 9 => clRows
  | 10 => teRows
  | 11 => ceRows
  | 12 => stRows
  | 13 => mcRows
  | _ => []

/-- The offset of `off` inside the element of an array it falls in, or none where it falls in no element. -/
def elementOffset : List (Nat × Nat) → Nat → Option Nat
  | [], off => some off
  | (count, stride) :: ds, off => if off / stride < count then elementOffset ds (off % stride) else none

/-- The word of register `r` that address `a` names, or none where `a` is not in `r`. -/
def RegRow.wordAt (r : RegRow) (a : Nat) : Option Nat :=
  if a < r.base then none else
  match elementOffset r.dims (a - r.base) with
  | none => none
  | some off => if off / 8 < r.words then some (off / 8) else none

/-- The first row of a list that holds address `a`, with the word named. -/
def findRow : List RegRow → Nat → Option (RegRow × Nat)
  | [], _ => none
  | r :: rs, a =>
    match r.wordAt a with
    | some w => some (r, w)
    | none => findRow rs a

/-- The fields that stand in the 8-byte unit at address `a`; none where the address is reserved (R30). -/
def unitFields (a : Nat) : Option (List FieldRow) :=
  match findRow (regionRows a) a with
  | none => none
  | some (r, w) => some (r.fields.filter fun f => f.word == w)

/-- The value the unit at `a` takes at a cold reset (R9): its fields' Reset column, 0 elsewhere (R11). -/
def resetWord (a : Nat) : BitVec 64 :=
  match unitFields a with
  | none => 0
  | some fs => fs.foldl (fun acc f => acc ||| (BitVec.ofNat 64 f.reset <<< f.lo)) 0

end Sys2Proof.Machine
end

