-- ==== Sys2Proof/Machine/State.lean ====
section
/-! DEFINITION. The state of the adapter as plain data. Registers and counters of the Control Address Space have one
home, `Chip.regs`, keyed by address; what no register holds is typed state, one structure per subsystem. -/

namespace Sys2Proof.Machine

/-! ### Control Plane: power, fences, pins (spec/18_reset_power_faults.md, spec/19_pins_electrical.md) -/

/-- One fence target (R463, R464, R476): its boundary state 0 Open, 1 Fencing, 2 Fenced, 3 Opening; whether a
fatal-island fault fenced it; the times of its fatal-island faults; when it reopens by itself; whether a reset waits
for Fenced; and the good synchronisation words its replica has taken. -/
structure Bound where
  st     : Nat
  held   : Bool
  byFault : Bool
  faults : List Nat
  reopen : Option Nat
  reset  : Bool
  good   : Nat
  deriving DecidableEq, Repr

/-- An Open boundary with no history. -/
def Bound.init : Bound := ⟨0, false, false, [], none, false, 0⟩

/-- What the step under way still has to do before it ends: the class action of a fault (R475), the Weir's look at a port
whose occupancy changed or whose watermarks did (R266, R268), the frames of its own that a port holds (R267), the resize record of a slice whose
usage fell (R353), the end of the MODE words that wait (R449, R454). -/
inductive Due where
  | fault (cls : Nat) (target : Option Nat) (code : Nat)
  | occupancy (port : Nat)
  | own (port : Nat)
  | usage (slice : Nat)
  | modeEnd (status : Nat)
  deriving DecidableEq, Repr

/-- Power, reset and lifecycle state that no register holds. -/
structure PwrSt where
  bound    : SMap Bound
  rampQ    : List Nat
  storms   : SMap (List Nat)
  newest   : Option Nat
  bootRom  : Bool
  fwKey    : Nat
  fwRuns   : Bool
  fwStale  : Bool
  warmBoot : Bool
  bootFail : Bool
  testing  : Bool
  wdogDue  : Bool
  wdogAt   : Nat
  throttled : Bool
  clkBusy  : List Nat
  avsCut   : SMap Nat
  avsAt    : SMap (Option Nat)
  vout     : Nat
  drainAt  : Nat
  standby  : Option Nat
  standbyDown : Option Nat
  keepAt   : Nat
  rstN     : Bool
  pwrOk    : Bool
  testMode : Bool
  perst    : SMap Bool
  gpioIn   : Nat
  ppsOut   : Bool
  ppsDue   : Nat
  supplyOk : Bool
  deriving DecidableEq, Repr

/-- The state right after a cold reset has been released (R460); pin levels and times are the model's choice (entry 3). -/
def PwrSt.init : PwrSt :=
  { bound := [], rampQ := [], storms := [], newest := none, bootRom := false, fwKey := 0, fwRuns := false, fwStale := false,
    warmBoot := false, bootFail := false, testing := false, wdogDue := false, wdogAt := 0, throttled := false, clkBusy := [], avsCut := [], avsAt := [], vout := 0, drainAt := 0,
    standby := none, standbyDown := none, keepAt := 0,
    rstN := true, pwrOk := true, testMode := false, perst := [], gpioIn := 0,
    ppsOut := false, ppsDue := 0, supplyOk := true }

/-! ### Fantail (spec/02_device_time.md) -/

/-- Keyed state held in a register of `Chip.regs` and delivered by an armed entry (R56): the address, the activation
time T in units of 2^-16 ns, the bits it sets, their new value, and the Scheduled Action Table entry. -/
structure Armed where
  addr  : Nat
  t     : Nat
  mask  : Word
  value : Word
  entry : Nat
  deriving DecidableEq, Repr

/-- The time replica of an island (R47, R48): how far it stands off AO device time, in units of 2^-16 ns, and the reading it had when it last
took a synchronisation word, below which it does not fall. -/
structure Replica where
  err  : Int
  base : Nat
  deriving DecidableEq, Repr

/-- A replica that agrees with AO device time. -/
def Replica.init : Replica := ⟨0, 0⟩

/-- What the ordinary clock of the Control Plane holds between its messages (R43), times in units of 2^-16 ns: the last two-step Sync with its
receive stamp and correction, the sequence numbers and sending stamp of its Delay_Req, the origin and receive times of the last Sync, the
path delay. -/
structure Clock where
  sync  : Option (Nat × Nat × Int)
  seq   : Nat
  asked : Option Nat
  t1    : Int
  t2    : Int
  delay : Int
  deriving DecidableEq, Repr

/-- A clock that has heard nothing. -/
def Clock.init : Clock := ⟨none, 0, none, 0, 0, 0⟩

/-- Fantail state that no register holds: the order in which entries finished (R55), the FT_STATUS.STATE at arming
(R61), keyed register values in the order of R59 (R56), the times of the keyed changes to steering (R137), when the selected source was last
valid (R42), the time a requested step goes to (R46; none between commands), the servo's rate in units of 2^-40 (R44, R45) and what of it has
not yet made a unit of time, since when the offset lies within 100 ns (R44), the replicas by island (R48), the ordinary clock (R43). -/
structure TimeSt where
  finSeq   : Nat
  finOrder : SMap Nat
  armState : SMap Nat
  armed    : List Armed
  steerTs  : List Nat
  srcSince : Nat
  stepTo   : Option Nat
  rate     : Int
  resid    : Nat
  within   : Option Nat
  replica  : SMap Replica
  clock    : Clock
  deriving DecidableEq, Repr

/-- After a cold reset. -/
def TimeSt.init : TimeSt :=
  { finSeq := 0, finOrder := [], armState := [], armed := [], steerTs := [], srcSince := 0, stepTo := none, rate := 0, resid := 0,
    within := none, replica := [], clock := Clock.init }

/-! ### Command processor, journal, flash (spec/15_command_packets.md) -/

/-- Where a command packet came from and where its result goes (Table 15-2); what its transport has already decided of it, and the
generation of the mailbox or queue it came through (R342). -/
structure Origin where
  source : Nat
  detail : Nat
  limit  : Nat
  resAddr : Nat
  sa     : List Byte
  tags   : List Byte
  pre    : Status
  gen    : Nat
  deriving DecidableEq, Repr

/-- A command word that yields the processor while it waits (R407). -/
inductive CmdWait where
  | none
  | untilT (t : Nat)
  | mode
  | keyRoll (slot : Nat) (key : List Byte) (gen : Nat) (remove : Bool)
  | journal (fromSeq count : Nat)
  | image (session offset : Nat)
  deriving DecidableEq, Repr

/-- A packet whose words run: its bytes, the offset of the next word, its origin and header fields, the records so far,
the words run, the first failing code, whether one ended DENIED, the key its result is checked under, and the word that waits. -/
structure RunPkt where
  bytes   : List Byte
  off     : Nat
  origin  : Origin
  auth    : Bool
  key     : Nat
  cont    : Bool
  records : List Byte
  nrun    : Nat
  status  : Nat
  denied  : Bool
  sign    : List Byte
  wait    : CmdWait
  deriving DecidableEq, Repr

/-- One context of the command processor (R407): the packets that wait, in arrival order, and the packet that runs. -/
structure CmdCtx where
  queue : List (List Byte × Origin)
  run   : Option RunPkt
  deriving DecidableEq, Repr

/-- An idle context. -/
def CmdCtx.init : CmdCtx := ⟨[], none⟩

/-- One item of a stage group (R419). -/
structure StageItem where
  addr  : Nat
  kind  : Nat
  value : Word
  deriving DecidableEq, Repr

/-- An open LOAD_IMAGE session (R421). -/
structure Session where
  target : Nat
  index  : Nat
  total  : Nat
  bytes  : List Byte
  last   : Nat
  deriving DecidableEq, Repr

/-- A key slot's key and its GENERATION and LAST_COUNTER as one flash copy holds them (R416, R417). -/
structure KeySlot where
  key  : List Byte
  gen  : Nat
  last : Nat
  deriving DecidableEq, Repr

/-- An empty slot. -/
def KeySlot.empty : KeySlot := ⟨[], 0, 0⟩

/-- One firmware copy as far as verification reads it (R426): whether its signature, digest and format are right, its
key and its SVN. -/
structure FwCopy where
  sound : Bool
  keyId : Nat
  svn   : Nat
  deriving DecidableEq, Repr

/-- One journal block of the flash (R424). -/
structure JBlock where
  erases  : Nat
  retired : Bool
  entries : List (List Word)
  deriving DecidableEq, Repr

/-- A fresh block. -/
def JBlock.init : JBlock := ⟨0, false, []⟩

/-- The flash and the fuses, which every reset keeps (R416, R422-R427): whether a flash answers, the preferred firmware copy, the
boot epoch, the active ROM copy, the two firmware copies, the two ROM copies, the two key copies with their validity, the
journal blocks and the block being filled. -/
structure FlashSt where
  present : Bool
  pref    : Nat
  epoch   : Nat
  rom     : Nat
  fw      : List FwCopy
  roms    : List (List Byte)
  keyOk   : List Bool
  keys    : List (SMap KeySlot)
  blocks  : SMap JBlock
  cur     : Nat
  deriving DecidableEq, Repr

/-- The flash at delivery (entry 6): one sound firmware copy under key 0, no keys, an empty journal. -/
def FlashSt.init : FlashSt :=
  { present := true, pref := 0, epoch := 0, rom := 0, fw := [⟨true, 0, 0⟩, ⟨false, 0, 0⟩], roms := [[], []],
    keyOk := [true, true], keys := [[], []], blocks := [], cur := 0 }

/-- The command processor, key store, stage groups, sessions and journal; `answer` is what the last SMBus or TAP read returned, `lastStatus`
the code of the last register write a command made. `tokens` is the mirror's bucket in units of 10^-9 of an entry per 2^-16 ns, full at
reset; `turn` is the command queue and `wordAt` the context served last (R329, R407). -/
structure CmdSt where
  ctx      : SMap CmdCtx
  next     : Nat
  frames   : Nat
  keys     : SMap (List Byte)
  stage    : SMap (List StageItem)
  sessions : SMap (Option Session)
  ring     : SMap (List Word)
  prev     : List Word
  unmir    : List Nat
  tokens   : Nat
  tokensAt : Nat
  stopped  : Bool
  gapFirst : Nat
  gapCount : Nat
  i2cBuf   : List Byte
  i2cRes   : List Byte
  i2cDone  : Bool
  dbgBuf   : List Byte
  dbgRes   : List Byte
  dbgDone  : Bool
  dbgRefused : Bool
  answer     : List Byte
  lastStatus : Nat
  polled     : Option Nat
  turn       : Nat
  wordAt     : Nat
  deriving DecidableEq, Repr

/-- After a cold reset (R460): nothing waits, no key is held, the journal ring is empty. -/
def CmdSt.init : CmdSt :=
  { ctx := [], next := 0, frames := 0, keys := [], stage := [], sessions := [], ring := [], prev := [], unmir := [],
    tokens := 268435456000000000, tokensAt := 0, stopped := false, gapFirst := 0, gapCount := 0, i2cBuf := [], i2cRes := [],
    i2cDone := false, dbgBuf := [], dbgRes := [], dbgDone := false, dbgRefused := false, answer := [], lastStatus := 0,
    polled := none, turn := 15, wordAt := 20 }

/-! ### Memory Complex (spec/14_memory_complex.md) -/

/-- The stored words of the adapter that registers do not hold. A code word is its 32 data bytes and the difference
between the check symbols stored and those its data calls for (R384, R387): 0 is clean, 0xC33CA55A is the poison mark.
`qdr` holds the data bytes of both engines (engine e word w at 2^28 e + 32 w), `bob` those of the 96 MiB bobbin memory;
`stitchQ` is keyed by 2^21 c + channel word, `stitchS` by 2^24 a + word of array a (Table 14-5). `qtrain` says of port p of
channel c, at 2 c + p, that it trains alone (1) or is DISABLED (2) (R397), and at 16 + c that channel c trains without zeroing. -/
structure MemSt where
  qdr     : Mem
  bob     : Mem
  stitchQ : SMap (BitVec 32)
  stitchS : SMap (BitVec 32)
  qtrain  : SMap Nat
  deriving DecidableEq, Repr

/-- Every word zero and clean (R399). -/
def MemSt.init : MemSt := ⟨[], [], [], [], []⟩

/-! ### Mills (spec/03_fecia_isa.md, spec/04_threads_channels.md) -/

/-- One of a thread's eight join slots (R105). -/
structure JoinSlot where
  tid      : Nat
  filled   : Bool
  ended    : Bool
  abnormal : Bool
  status   : Nat
  deriving DecidableEq, Repr

/-- An empty join slot. -/
def JoinSlot.empty : JoinSlot := ⟨0, false, false, false, 0⟩

/-- The instruction a blocked thread waits in (Table 4-1): its channel, the words it would publish, its destination; a forkw keeps the
general registers and the start stamp of its issue for the helper (R104, R125). -/
inductive Wait where
  | none
  | recv (chan : Nat)
  | send (chan : Nat) (words : List Word)
  | forkw (rd target : Nat) (g : SMap Word) (start : Nat)
  | join (rd slot : Nat)
  deriving DecidableEq, Repr

/-- A packet data load that has not returned (R84): destination, address, bytes, sign extension, its instruction's index, and
whether a debug step issued it. -/
structure PktLoad where
  rd   : Nat
  ea   : Nat
  n    : Nat
  sx   : Bool
  pc   : Nat
  step : Bool
  deriving DecidableEq, Repr

/-- One thread (R66, Table 3-1, Table 3-9, Table 4-1). `st` is the code of Table 4-1; `pk` names the packet in
`Chip.pkts`; `res` is the resident index; `brk` says that it halted on a brk, `since` when its wait began, `start` its start
stamp, `reqs` its outstanding engine requests, `replies` its reply channel 768, and `stepped` that a STEPPING thread has issued
its one instruction. -/
structure Thread where
  st      : Nat
  g       : SMap Word
  pc      : Nat
  rs      : List Nat
  outb    : List Word
  inb     : List Word
  head    : Mem
  scratch : Mem
  prio    : Nat
  root    : Bool
  pk      : Option Nat
  pkt     : Nat
  valid   : Bool
  plen    : Nat
  slice   : Nat
  istamp  : Nat
  ver0    : Word
  ver1    : Word
  cs      : Word
  parent  : Nat
  res     : Option Nat
  start   : Nat
  joins   : List JoinSlot
  wait    : Wait
  since   : Nat
  brk     : Bool
  reqs    : Nat
  replies : List (List Word)
  loads   : List PktLoad
  stepped : Bool
  deriving DecidableEq, Repr

/-- A FREE thread; what its registers hold before a start is the model's choice of 0 (entry 3). -/
def Thread.free : Thread :=
  { st := 0, g := [], pc := 0, rs := [], outb := List.replicate 8 0, inb := List.replicate 8 0, head := [], scratch := [],
    prio := 0, root := false, pk := none, pkt := 0, valid := false, plen := 0, slice := 0, istamp := 0, ver0 := 0, ver1 := 0,
    cs := 0, parent := 0xFFFF, res := none, start := 0, joins := List.replicate 8 JoinSlot.empty, wait := .none, since := 0,
    brk := false, reqs := 0, replies := [], loads := [],
    stepped := false }

/-- One Mill (R65): its threads, instruction memory and Millpond bytes, the messages each LOCAL channel holds
with the Mill a message came from (16 for this one), since when
the stall condition holds (R124), when a clock change under way began (R469), and the last two readings of
the poll across Mills (R126). -/
structure Mill where
  threads : SMap Thread
  imem    : Mem
  pond    : Mem
  chans   : SMap (List (Nat × List Word))
  stall   : Option Nat
  poll    : Option (Bool × Nat)
  clkAt   : Nat
  deriving DecidableEq, Repr

/-- A Mill after reset: every thread FREE, memories zero (R399), channels empty. -/
def Mill.init : Mill := ⟨[], [], [], [], none, none, 0⟩

/-- A message between Mills in flight (R113): sending Mill, target Mill and channel, words. -/
structure XMsg where
  src   : Nat
  dst   : Nat
  chan  : Nat
  words : List Word
  deriving DecidableEq, Repr

/-- A credit of a target channel on its way back to the sending Mill (R115). -/
structure XCred where
  src  : Nat
  dst  : Nat
  chan : Nat
  deriving DecidableEq, Repr

/-- An engine request with what the Mill attaches to it (R119): requesting Mill and thread, channel, words, packet, bobbin
identifier, slice, ingress stamp, version stamps, whether the requester is a system agent (R233), when it was sent, and
whether a fence owes it ABSENT (R463). -/
structure EngReq where
  mill   : Nat
  tid    : Nat
  chan   : Nat
  words  : List Word
  pk     : Option Nat
  pkt    : Nat
  valid  : Bool
  plen   : Nat
  slice  : Nat
  istamp : Nat
  ver0   : Word
  ver1   : Word
  system : Bool
  sent   : Nat
  owed   : Bool
  deriving DecidableEq, Repr

/-- An engine reply on its way to channel 768 of a thread (R121). -/
structure EngRep where
  mill  : Nat
  tid   : Nat
  chan  : Nat
  words : List Word
  deriving DecidableEq, Repr

/-! ### Packets and dispatch (spec/05_packet_program.md) -/

/-- A packet between Buffering and Verdict (R133-R142). `src` is its dispatch source, `bob` its data bobbin, `w7` metadata
word 7; the fields from `slice` on are set at Dispatch. `stage` is 0 eligible, 1 in its Mill's dispatch queue, 2 with a
thread, 3 ended; `seq` its order of dispatch; `resv` its reserved or allocated header bobbin; `asked` the service channels it
has made its first request on; `sig` its signature (R145). -/
structure Packet where
  src      : Nat
  plen     : Nat
  frameLen : Nat
  err      : Nat
  prioIn   : Nat
  istamp   : Nat
  bob      : Nat
  txq      : Nat
  txflags  : Nat
  w7       : Word
  profile  : Nat
  slice    : Nat
  steer    : Nat
  redirected : Bool
  issued   : Bool
  resv     : Option Nat
  hash     : Nat
  gen      : Nat
  ver0     : Word
  ver1     : Word
  mill     : Nat
  entry    : Nat
  prio     : Nat
  stage    : Nat
  seq      : Nat
  asked    : List Nat
  sig      : Nat
  deriving DecidableEq, Repr

/-- No packet. -/
def Packet.none : Packet :=
  { src := 0, plen := 0, frameLen := 0, err := 0, prioIn := 0, istamp := 0, bob := 0, txq := 0, txflags := 0, w7 := 0,
    profile := 0, slice := 0, steer := 0, redirected := false, issued := false, resv := Option.none, hash := 0, gen := 0,
    ver0 := 0, ver1 := 0, mill := 0, entry := 0, prio := 0, stage := 0, seq := 0, asked := [], sig := 0 }

/-- What the Traffic Manager is asked to enqueue (R154, R158, R279, R292): the data bobbin and its length, the header bobbin,
CUT and NEW, word B, queue, colour, class, the packet's slice, the slice charged, source, priority, stamp, whether a system
agent asks, and the requesting Mill. -/
structure EnqReq where
  pk     : Nat
  bob    : Option Nat
  plen   : Nat
  hdr    : Option Nat
  cut    : Nat
  new    : Nat
  wordB  : Word
  queue  : Nat
  colour : Nat
  cls    : Nat
  slice  : Nat
  acct   : Nat
  src    : Nat
  txq    : Nat
  istamp : Nat
  system : Bool
  mill   : Nat
  deriving DecidableEq, Repr

/-- A verdict in the order stage of a Mill (R37): its order group and place, and what is to be enqueued. -/
structure Held where
  mill  : Nat
  src   : Nat
  txq   : Nat
  steer : Nat
  seq   : Nat
  req   : EnqReq
  deriving DecidableEq, Repr

/-- A tentative request of Prelook (R147-R150): its packet, channel and words, when it was issued, the recipe that built it,
whether its result is complete, that result, what it depended on when it was issued (R149, R180, R215), and its engine's store (R147). -/
structure Tent where
  pk    : Nat
  chan  : Nat
  words : List Word
  at_   : Nat
  recipe : Nat
  done  : Bool
  reply : List Word
  deps  : List Nat
  store : Nat
  deriving DecidableEq, Repr

/-- An entry of the signature cache (R145): its tag and up to two (recipe, confidence) slots. -/
structure SigEntry where
  tag   : Nat
  slots : List (Nat × Nat)
  deriving DecidableEq, Repr

/-- An empty entry. -/
def SigEntry.empty : SigEntry := ⟨0, []⟩

/-- The dispatcher, Prelook, order stages and the enqueue requests under way. -/
structure DispSt where
  pkts   : SMap (Option Packet)
  nextPk : Nat
  nextSeq : Nat
  queues : SMap (List Nat)
  held   : List Held
  enq    : List EnqReq
  tents  : List Tent
  sigs   : SMap SigEntry
  wrr    : Nat
  deriving DecidableEq, Repr

/-- No packet in flight. -/
def DispSt.init : DispSt := ⟨[], 1, 1, [], [], [], [], [], 0⟩

/-! ### Sampler (spec/16_counters_billing.md) -/

/-- A stamped count on its way to the Sampler (R433-R436): `kind` 0 port receive, 1 port transmit, 2 NET_IN, 3 NET_OUT, 4 HOST_IN,
5 HOST_OUT, 6 CIPHER_BYTES, 7 STORAGE_OPS; the port or slice; its quantity; its stamp. -/
structure Report where
  kind  : Nat
  key   : Nat
  n     : Nat
  stamp : Nat
  deriving DecidableEq, Repr

/-- What one port's bandwidth window holds so far (R434). -/
structure BwAcc where
  rxB  : Nat
  rxF  : Nat
  txB  : Nat
  txF  : Nat
  late : Bool
  deriving DecidableEq, Repr

/-- An empty window. -/
def BwAcc.init : BwAcc := ⟨0, 0, 0, 0, false⟩

/-- What one slice's open billing window holds so far (Table 16-3): bytes and frames of NET_IN, NET_OUT, HOST_IN and HOST_OUT, then
CIPHER_BYTES and STORAGE_OPS. -/
structure BillAcc where
  counts : List Nat
  late   : Bool
  deriving DecidableEq, Repr

/-- An empty window. -/
def BillAcc.init : BillAcc := ⟨List.replicate 10 0, false⟩

/-- The Sampler (R430-R440): the counters in EDGE mode, the counts not yet reported, the bandwidth configuration in force with the
start of the open windows, the time from which they count, the time since which ports are counted and the boundary at which a written
configuration comes into force (0 where none waits), the windows and the next ones (by port, by port + 16), PARTIAL of the open
windows, the windows closed; the billing windows by slice, the next minute's, the end of the open window and whether it is
PARTIAL, the records written; the telemetry items that wait, the stream's sequence number and when its next state word is due. -/
structure SmpSt where
  edge     : SMap Bool
  reports  : List Report
  bwCfg    : Word
  bwStart  : Nat
  bwFrom   : Nat
  bwZero   : Nat
  bwTeff   : Nat
  bwAcc    : SMap BwAcc
  bwPart   : Bool
  bwSeq    : Nat
  bill     : SMap BillAcc
  billNext : SMap BillAcc
  billEnd  : Nat
  billPart : Bool
  billMerged : Bool
  recSeq   : Nat
  items    : List (Nat × List Byte)
  tlmSeq   : Nat
  stateAt  : Nat
  deriving DecidableEq, Repr

/-- After a cold reset. -/
def SmpSt.init : SmpSt :=
  { edge := [], reports := [], bwCfg := 0, bwStart := 0, bwFrom := 0, bwZero := 0, bwTeff := 0, bwAcc := [], bwPart := false, bwSeq := 0, bill := [], billNext := [],
    billEnd := 60000000000, billPart := false, billMerged := false, recSeq := 0, items := [], tlmSeq := 0, stateAt := 0 }

/-! ### Classifier (spec/06_classifier.md) -/

/-- Classifier state that no register holds: for version slot 4 b + k, one more than the Scheduled Action Table entry that sealed
it (R176) and whether that entry has armed (R173, R178); the pricking slot active before the last swap and that swap's T once armed
(R184); the images of the pricking slots (R182); how often the rule entries of each bank have been written (R180). -/
structure ClSt where
  verEntry : SMap Nat
  armed    : SMap Bool
  peOld    : Nat
  swaps    : List Nat
  img      : SMap (List Byte)
  gens     : SMap Nat
  deriving DecidableEq, Repr

/-- After a cold reset: no version sealed, slot 0 active, no image. -/
def ClSt.init : ClSt := ⟨[], [], 0, [], [], []⟩

/-! ### Ports (spec/09_ports.md) and the Traffic Manager (spec/10_traffic_manager.md) -/

/-- A frame in a port group's receive buffer (R253): the packet data as the space will hold it (R141), the lengths and flags of
Table 5-1, the priority and the ingress stamp. -/
structure RxFrame where
  port  : Nat
  bytes : List Byte
  frameLen : Nat
  err   : Nat
  prio  : Nat
  stamp : Nat
  deriving DecidableEq, Repr

/-- One entry of the Traffic Manager (R277): its place among the 65,536 entries, the request admitted with its final colour, its
charged length, and whether the gate guard has held its head frame (R286). -/
structure TmEnt where
  slot : Nat
  req  : EnqReq
  len  : Int
  held : Bool
  deriving DecidableEq, Repr

/-- A frame built for a port: its bytes without FCS, and whether one came from a poisoned word (R256, R257). -/
structure TxFrame where
  bytes  : List Byte
  poison : Bool
  deriving DecidableEq, Repr

/-- A frame that a MAC has begun: its transmit stamp (R261), the frame number of its SMD where it was begun under active preemption, the
bytes and fragments of it that have left, and since when the frame, or its present fragment, is in transmission (none: interrupted). -/
structure TxRun where
  stamp : Nat
  no    : Option (Fin 4)
  done  : Nat
  count : Nat
  since : Option Nat
  deriving DecidableEq, Repr

/-- What one MAC of a port transmits: the entry and its queue, the frames still to be sent once they are built, and the first of them where
it has been begun. -/
structure TxJob where
  queue  : Nat
  ent    : TmEnt
  frames : Option (List TxFrame)
  run    : Option TxRun
  deriving DecidableEq, Repr

/-- A frame of the port's own that waits for the express MAC (R267, R408, R440): its bytes without FCS, and what it is. -/
inductive OwnFrame where
  | pause (bytes : List Byte)
  | frame (bytes : List Byte)
  | mpacket (smd : Smd)
  deriving DecidableEq, Repr

/-- A preempted frame under reassembly (R252): its frame number, the fragment count that comes next, its bytes, its stamp, and whether the
PCS marked part of it. -/
structure Asm where
  no    : Fin 4
  next  : Fin 4
  bytes : List Byte
  stamp : Nat
  pcs   : Bool
  deriving DecidableEq, Repr

/-- What has left a port: its bytes with FCS or mCRC, the transmit stamp, what began it. -/
structure Sent where
  port  : Nat
  bytes : List Byte
  stamp : Nat
  smd   : Smd
  deriving DecidableEq, Repr

/-- A port beyond its registers: what its express and preemptable MAC transmit, the frames of its own that wait (R267), the number the next
preemptable frame takes, the frame under reassembly, when ENABLE was cleared while a frame may still have been in reception (R249), when
each priority's pause ends, the last peer delays, when the pause frame is refreshed, the verifies sent and when the next is due, and since
when LINK is 0. -/
structure PortSt where
  express  : Option TxJob
  pre      : Option TxJob
  own      : List OwnFrame
  txNo     : Fin 4
  asm      : Option Asm
  tail     : Option Nat
  paused   : List Nat
  delays   : List Nat
  refresh  : Nat
  verifies : Nat
  verifyAt : Nat
  downAt   : Nat
  deriving DecidableEq, Repr

/-- An idle port. -/
def PortSt.init : PortSt := ⟨none, none, [], 0, none, none, List.replicate 8 0, [], 0, 0, 0, 0⟩

/-- The receive buffers, the ports, and what has left them. -/
structure NetSt where
  rx    : List RxFrame
  ports : SMap PortSt
  sent  : List Sent
  deriving DecidableEq, Repr

/-- Nothing received, nothing sent. -/
def NetSt.init : NetSt := ⟨[], [], []⟩

/-- A policer's buckets in units of 1/(8,000 × 65,536) bytes, and when they were last brought up (R281). -/
structure PolSt where
  tc  : Nat
  tp  : Nat
  at_ : Nat
  deriving DecidableEq, Repr

/-- A policer never used. -/
def PolSt.init : PolSt := ⟨0, 0, 0⟩

/-- The credits of a queue or port queue in the units of `PolSt`, its deficit in bytes, and when the credits were brought up (R283,
R284). -/
structure ShapeSt where
  cir : Int
  pir : Int
  deficit : Int
  at_ : Nat
  deriving DecidableEq, Repr

/-- No credit taken. -/
def ShapeSt.init : ShapeSt := ⟨0, 0, 0, 0⟩

/-- The gate lists of a port: the list in force at first and, for each GATE_LIST action that has armed, its T and its list, T rising
(R287). -/
structure GateSt where
  active   : Nat
  switches : List (Nat × Nat)
  deriving DecidableEq, Repr

/-- List 0 in force. -/
def GateSt.init : GateSt := ⟨0, []⟩

/-- The Traffic Manager: the entries of each queue, oldest first; the buckets by policer; the credits and deficits by queue identifier
and by port queue; which queue each round robin chose last (one more than it: by port queue, by 128 + port, by 144 + endpoint); the
gate lists. -/
structure TmSt where
  queues : SMap (List TmEnt)
  pol    : SMap PolSt
  shaped : SMap ShapeSt
  portq  : SMap ShapeSt
  turn   : SMap Nat
  gates  : SMap GateSt
  deriving DecidableEq, Repr

/-- No entry held. -/
def TmSt.init : TmSt := ⟨[], [], [], [], [], []⟩

/-! ### Host endpoints (spec/12_host_endpoints.md), queue pairs and DMA (spec/13_slices_queues_dma.md) -/

/-- The configuration space of a function (R320-R326): the dwords by offset that software or the function has written, where they differ from
their reset values. -/
structure FnSt where
  cfg : SMap (BitVec 32)
  deriving DecidableEq, Repr

/-- Configuration space at its reset values (entry 37). -/
def FnSt.init : FnSt := ⟨[]⟩

/-- What an outstanding read is for: a descriptor fetch of a ring, payload of a transmit job, the header of a send to be cut, an
entry or a packet of a command queue, entry `i` of the placement table of a connection, a Twin flush. -/
inductive ReqUse where
  | desc (qp : Nat) (rx : Bool) (gen first count : Nat)
  | payload (job bob off : Nat)
  | header (job off : Nat)
  | entry (k : Nat)
  | packet (k off : Nat)
  | place (conn i : Nat)
  | flush
  deriving DecidableEq, Repr

/-- A non-posted request of an endpoint (R322, R323): function, bytes asked for and accepted, those kept with the poison of each, when it was issued with what completion timeout, whether its
tag is quarantined, and whether its job has ended, so that its completions are discarded (R341). -/
structure HostReq where
  fn   : Nat
  len  : Nat
  got  : Nat
  data : List Byte
  marks : List Bool
  at_  : Nat
  cto  : Nat
  use  : ReqUse
  quar : Bool
  dead : Bool
  deriving DecidableEq, Repr

/-- The kinds of TLP the model records. -/
inductive TlpKind where
  | write
  | read
  | cpl
  deriving DecidableEq, Repr

/-- A TLP handed to an endpoint's link layer: function, PASID prefix, address, length, payload, EP, and the tag of a read. -/
structure Tlp where
  ep     : Nat
  kind   : TlpKind
  fn     : Nat
  pasid  : Option Nat
  addr   : Nat
  len    : Nat
  data   : List Byte
  poison : Bool
  tag    : Nat
  deriving DecidableEq, Repr

/-- An ordered write that waits in Twin (R336), with the tag of the flush it waits for once that is issued. -/
structure Ordered where
  tlp  : Tlp
  wait : Option Nat
  deriving DecidableEq, Repr

/-- Reads still to be issued, as (address, length, offset), how many are outstanding, and whether poison came back. -/
structure Xfer where
  segs : List (Nat × Nat × Nat)
  out  : Nat
  bad  : Bool
  deriving DecidableEq, Repr

/-- Nothing to read. -/
def Xfer.init : Xfer := ⟨[], 0, false⟩

/-- The fetch of a command queue (R329): 0 idle, 1 an entry is read, 2 its packet is read, 3 the packet runs; the entry, the packet
bytes and its reads. -/
structure CmdFetch where
  stage : Nat
  entry : List Word
  bytes : Mem
  xfer  : Xfer
  deriving DecidableEq, Repr

/-- Idle. -/
def CmdFetch.init : CmdFetch := ⟨0, [], [], Xfer.init⟩

/-- One MSI-X vector (R330): address, data, mask. -/
structure MsixVec where
  addr : Nat
  data : Nat
  mask : Bool
  deriving DecidableEq, Repr

/-- A vector at reset: masked. -/
def MsixVec.init : MsixVec := ⟨0, 0, true⟩

/-- One endpoint beyond its registers (R320-R344): its functions, requests by tag, the tag issued last, the
mailbox with the dwords of it that carry a poison mark and the LEN last written, MSI-X, the Sluice words, the command queue fetches, and
whether a write has been issued since the last flush. -/
structure HostEp where
  fns      : SMap FnSt
  reqs     : SMap (Option HostReq)
  last     : Nat
  mbox     : Mem
  mboxBad  : SMap Bool
  mboxLen  : Nat
  mboxBusy : Bool
  mboxDone : Bool
  mboxRes  : Nat
  mboxGen  : Nat
  table    : SMap MsixVec
  pend     : Nat
  entries  : Nat
  releases : Nat
  cmdq     : SMap CmdFetch
  dirty    : Bool
  barLog2  : Nat
  deriving DecidableEq, Repr

/-- After a cold reset. -/
def HostEp.init : HostEp :=
  { fns := [], reqs := [], last := 16383, mbox := [], mboxBad := [], mboxLen := 0, mboxBusy := false,
    mboxDone := false, mboxRes := 0, mboxGen := 0, table := [], pend := 0, entries := 0, releases := 0, cmdq := [], dirty := false, barLog2 := 30 }

/-- The endpoints, the ordered writes that wait, the TLPs handed to the link layers, and the command queue served last, of the 16 of both
endpoints (R329). -/
structure HostSt where
  eps     : SMap HostEp
  ordered : List Ordered
  tlps    : List Tlp
  turn    : Nat
  deriving DecidableEq, Repr

/-- After a cold reset. -/
def HostSt.init : HostSt := ⟨[], [], [], 15⟩

/-- A cached transmit descriptor: its ring index and words after the swap of R378. -/
structure TxDesc where
  idx   : Nat
  words : List Word
  deriving DecidableEq, Repr

/-- A queue pair beyond its registers (R355-R380): the two descriptor caches, the next entry of each ring to fetch, the entries in
flight, whether each ring is being filled (R376), the PHASE of the next completion, the generation of its caches, for how many bytes its
head send met EMPTY until a release fits, whether its next job is a retry, and when it fired last. -/
structure QpSt where
  tx     : List TxDesc
  rx     : List (Nat × Nat)
  txNext : Nat
  rxNext : Nat
  txFly  : Nat
  rxFly  : Nat
  txFill : Bool
  rxFill : Bool
  phase  : Bool
  gen    : Nat
  starved : Option Nat
  retry  : Bool
  fired  : Option Nat
  deriving DecidableEq, Repr

/-- A queue pair just enabled: the next completion has PHASE = 1. -/
def QpSt.init : QpSt :=
  { tx := [], rx := [], txNext := 0, rxNext := 0, txFly := 0, rxFly := 0, txFill := false, rxFill := false, phase := true, gen := 0,
    starved := none, retry := false, fired := none }

/-- One packet a send makes: its bobbin, PLEN, TXFLAGS, the bytes of the send it takes from `lo` on and the offset `dst` they go to, its
reads, and its chunk number where the send is cut (R369, R370). -/
structure TxPkt where
  bob   : Nat
  plen  : Nat
  flags : Nat
  lo    : Nat
  dst   : Nat
  xfer  : Xfer
  chunk : Option Nat
  deriving DecidableEq, Repr

/-- The send a transmit job works on: the read of the header of a send to be cut, the header, whether its packets have been
allocated, the packets not yet handed to Dispatch, those handed over, whether one was poisoned, and the last one's stamp. -/
structure TxSend where
  hread  : Xfer
  head   : Mem
  ready  : Bool
  pkts   : List TxPkt
  made   : Nat
  bad    : Bool
  stamp  : Option Nat
  deriving DecidableEq, Repr

/-- A completion entry to be written (Table 13-4), the head it passes to (true TX_HEAD, false RX_HEAD), and whether it counts as a send
completed. -/
structure Cqe where
  words : List Word
  head  : Option (Bool × Nat)
  sent  : Bool
  deriving DecidableEq, Repr

/-- A transmit job with its sends, the first of which is worked on; a receive job with its entry, buffers and first ring index. -/
inductive JobKind where
  | tx (sends : List (List TxDesc)) (cur : TxSend)
  | rx (ent : TmEnt) (bufs : List Nat) (first : Nat)
  deriving DecidableEq, Repr

/-- A DMA job (R373-R375): its queue pair and endpoint, its staging, the completions it may still write, those that wait for their
turn, and whether nothing else is left of it. -/
structure Job where
  id   : Nat
  qp   : Nat
  ep   : Nat
  size : Nat
  room : Nat
  z    : Nat
  kind : JobKind
  cqes : List Cqe
  done : Bool
  deriving DecidableEq, Repr

/-- What a slice has used of its TX_MBPS bucket in the units of `PolSt`, and when it was brought up (R376, entry 36). -/
structure TxBucket where
  used : Int
  at_  : Nat
  deriving DecidableEq, Repr

/-- A full bucket. -/
def TxBucket.init : TxBucket := ⟨0, 0⟩

/-- The DMA Engine and the Slice Manager: queue pairs, jobs in the order they started, TX_MBPS buckets, and the order in which resize
records finished (R352). -/
structure DeSt where
  qps     : SMap QpSt
  jobs    : List Job
  nextJob : Nat
  buckets : SMap TxBucket
  resSeq  : Nat
  resDone : SMap Nat
  turn    : SMap Nat
  deriving DecidableEq, Repr

/-- No queue pair enabled, no job. -/
def DeSt.init : DeSt := ⟨[], [], 1, [], 0, [], []⟩

/-! ### Table Engines (spec/07_tables.md) -/

/-- A flow cache line (R202): its table and key, a copy of the data, where the entry stands, its record, its way in the set (entry 9), and
the bits STATIC, HIT and SLOT_HIT. -/
structure FcLine where
  table  : Nat
  key    : Nat
  data   : Word
  bucket : Nat
  slot   : Nat
  record : Nat
  way    : Nat
  static : Bool
  hit    : Bool
  slotHit : Bool
  deriving DecidableEq, Repr

/-- A line of the counter cache (R214): the store word it holds, its content (bytes and packets of the even and of the odd entry), and
whether it is dirty. -/
structure CcLine where
  word  : Nat
  data  : List Word
  dirty : Bool
  deriving DecidableEq, Repr

/-- A prefix of an LPM table (R213): its length, its address as a number of 32 or 128 bits, its data. -/
structure Prefix where
  len  : Nat
  addr : Nat
  data : Nat
  deriving DecidableEq, Repr

/-- A table's sweeper (R210, R220): the next entry it visits, when its pass began, and whether it has written the bucket word it is at. -/
structure Sweep where
  pos   : Nat
  since : Option Nat
  wrote : Bool
  deriving DecidableEq, Repr

/-- A sweeper that has not begun. -/
def Sweep.init : Sweep := ⟨0, none, false⟩

/-- A Table Engine beyond its registers and its QDR words (R190-R222): the flow cache by set and the counter cache, most recently used
first; the prefixes by LPM table; the record indices in use by table; the tables whose overflow entries met poison; the write generations
(LPM table l at 16 + l); each table's sweeper; the words of an enabling PUT whose scan runs; the operator's op that runs, none when
BUSY = 0. -/
structure TeSt where
  fc    : SMap (List FcLine)
  cc    : List CcLine
  lpm   : SMap (List Prefix)
  used  : SMap (SMap Bool)
  ovfBad : SMap Bool
  gens  : SMap Nat
  sweep : SMap Sweep
  scan  : SMap (List Word)
  op    : List Word
  deriving DecidableEq, Repr

/-- An engine that holds nothing. -/
def TeSt.init : TeSt := ⟨[], [], [], [], [], [], [], [], []⟩

/-! ### Cipher and Storage Engines (spec/11_cipher_storage.md) -/

/-- A cached context (R303, R304): its number, the cache line it lies in (entry 9), word 0 [63:0] and ID, the two unwrapped keys, SEQ, the
bitmap, the bound that word 3 holds in QDR (none while it holds the exact state), and whether its state was lost. -/
structure CeLine where
  ctx   : Nat
  slot  : Nat
  hdr   : Word
  id    : Word
  key1  : List Byte
  key2  : List Byte
  seq   : Nat
  bits  : Nat
  bound : Option Nat
  lost  : Bool
  deriving DecidableEq, Repr

/-- What the context wrapping key opens (entry 41): word 0 [127:0], the tag and words 1 and 2 as they were written, and the keys in them. -/
structure CeWrap where
  blob : List Byte
  key1 : List Byte
  key2 : List Byte
  deriving DecidableEq, Repr

/-- The Cipher Engine beyond its registers and its QDR words: the context cache, most recently used first; what was wrapped under the key in
force; the contexts that failed their load (1 corrupt, 2 poisoned); the removals that wait, with the stamp of each. -/
structure CeSt where
  cache   : List CeLine
  wraps   : List CeWrap
  bad     : SMap Nat
  removes : List (Nat × Nat)
  deriving DecidableEq, Repr

/-- Nothing cached, nothing wrapped. -/
def CeSt.init : CeSt := ⟨[], [], [], []⟩

/-- Where the data of a PDU goes (R314): the host address of its first byte, and the XTS context with the number of the data unit at its
head and the size of a unit. -/
structure StDest where
  addr : Nat
  xts  : Option (Nat × Nat × Nat)
  deriving DecidableEq, Repr

/-- A connection beyond its registers (R312-R315): the header bytes of the PDU under way with its header digest, the bytes of the PDU
taken, the number of its first byte, the running digest of its data, the data digest bytes taken, the bytes of a data unit not yet whole,
the flags of its ring entry, the bytes placed, where its data goes, and PHASE of the next ring entry. -/
structure StConn where
  hdr    : List Byte
  pos    : Nat
  first  : Nat
  crc    : Nat
  dig    : List Byte
  buf    : List Byte
  flags  : Nat
  placed : Nat
  dest   : Option StDest
  phase  : Bool
  deriving DecidableEq, Repr

/-- A connection at the start of a PDU and of its ring. -/
def StConn.init : StConn := ⟨[], 0, 0, 0xFFFFFFFF, [], [], 0, 0, none, true⟩

/-- The Storage Transport Engine beyond its registers: the connections; the placement cache, most recently used first, as (connection,
entry) with the four words of the entry; and the placement reads that failed, with the code, until the request that needs the entry ends. -/
structure StSt where
  conns  : SMap StConn
  cache  : List ((Nat × Nat) × List Word)
  failed : List ((Nat × Nat) × Nat)
  deriving DecidableEq, Repr

/-- Nothing under way. -/
def StSt.init : StSt := ⟨[], [], []⟩

/-! ### The test access port (spec/19_pins_electrical.md) -/

/-- The TAP (R495): the code in its instruction register and the boundary scan register as it was last loaded. -/
structure TapSt where
  ir  : Nat
  bsr : Nat
  deriving DecidableEq, Repr

/-- After TAP reset: IDCODE is selected (IEEE 1149.1). -/
def TapSt.init : TapSt := ⟨1, 0⟩

/-! ### The whole machine -/

/-- The adapter: `free` counts the free values taken (entry 2), `regs` holds every register and counter by address, `due`
what the step under way still has to do (empty between steps), `bind` the full binding of each
bobbin (R227: 2^25 + the packet's data bobbin, or 2^26 + 256 Mill + TID) and `bobSlice` the slice charged for an ALLOC bobbin (R232), both
by state word number, the other fields one subsystem each. -/
structure Chip where
  free   : Nat
  regs   : SMap Word
  due    : List Due
  ft     : TimeSt
  pwr    : PwrSt
  cmd    : CmdSt
  flash  : FlashSt
  mem    : MemSt
  mills  : SMap Mill
  xmsgs  : List XMsg
  xcreds : List XCred
  reqs   : List EngReq
  reps   : List EngRep
  disp   : DispSt
  bind   : SMap Nat
  bobSlice : SMap Nat
  smp    : SmpSt
  cl     : ClSt
  net    : NetSt
  tm     : TmSt
  host   : HostSt
  de     : DeSt
  te     : SMap TeSt
  ce     : CeSt
  sto    : StSt
  tap    : TapSt
  deriving DecidableEq, Repr

/-- The adapter right after a cold reset: every register at its Reset column (R9), every queue and array empty (R460). -/
def Chip.init : Chip :=
  { free := 0, regs := [], due := [], ft := TimeSt.init, pwr := PwrSt.init, cmd := CmdSt.init, flash := FlashSt.init,
    mem := MemSt.init, mills := [], xmsgs := [], xcreds := [], reqs := [], reps := [], disp := DispSt.init, bind := [], bobSlice := [],
    smp := SmpSt.init, cl := ClSt.init, net := NetSt.init, tm := TmSt.init, host := HostSt.init, de := DeSt.init, te := [],
    ce := CeSt.init, sto := StSt.init, tap := TapSt.init }

/-- The machine: the commands that wait, first in first out; device time as a count of 2^-16 ns (R5); the adapter. -/
structure State where
  pending : List Instr
  time    : Nat
  chip    : Chip
  deriving DecidableEq, Repr

/-- The machine right after reset (R41, R460): device time 0, no command waiting. -/
def State.reset : State := { pending := [], time := 0, chip := Chip.init }

/-- Reasons to stop with a fault. No meaning raises one: every row of the table has an effect the spec gives. -/
inductive Fault where
  /-- Raised by no meaning; it keeps the type inhabited for the host's interface. Safe. -/
  | stuck
  deriving DecidableEq, Repr

/-- Reasons to refuse a command. -/
inductive Refusal where
  /-- The row has no meaning in this model; raised by `exec` alone. Safe: nothing is claimed of it. -/
  | notModelled (mnemonic : String)
  deriving DecidableEq, Repr

end Sys2Proof.Machine
end

