-- ==== Sys2Proof/Machine/Ops.lean ====
section
/-! DEFINITION. The named operations every subsystem shares: registers and counters, device time, free values, rings,
power and reachability, the journal. -/

namespace Sys2Proof.Machine

/-! ### Registers (R1, R9, R20) -/

/-- The stored value of the 8-byte unit at address `a`. -/
def Chip.rd (c : Chip) (a : Nat) : Word := mget (resetWord a) c.regs a

/-- Stores the 8-byte unit at address `a`. -/
def Chip.wr (c : Chip) (a : Nat) (v : Word) : Chip := { c with regs := mset (resetWord a) c.regs a v }

/-- Field `f` of the register at base `a`. -/
def Chip.get (c : Chip) (a : Nat) (f : Fld) : Nat := getBits (c.rd (a + 8 * f.word)) f.lo f.width

/-- Sets field `f` of the register at base `a`. -/
def Chip.set (c : Chip) (a : Nat) (f : Fld) (v : Nat) : Chip :=
  c.wr (a + 8 * f.word) (setBits (c.rd (a + 8 * f.word)) f.lo f.width v)

/-- A one-bit field as a truth value. -/
def Chip.flag (c : Chip) (a : Nat) (f : Fld) : Bool := c.get a f == 1

/-- Sets a one-bit field. -/
def Chip.setFlag (c : Chip) (a : Nat) (f : Fld) (b : Bool) : Chip := c.set a f (if b then 1 else 0)

/-- Adds to a 48-bit counter, which wraps (R20, R430); a counter in EDGE mode adds 1 for the run of events (R431, entry 10). -/
def Chip.add (c : Chip) (a n : Nat) : Chip :=
  c.set a ⟨0, 0, 48⟩ (c.get a ⟨0, 0, 48⟩ + if mget false c.smp.edge a then min n 1 else n)

/-- Adds 1 to a 48-bit counter. -/
def Chip.inc (c : Chip) (a : Nat) : Chip := c.add a 1

/-- A word with the bits of a mask taken from another. -/
def maskIn (mask new old : Word) : Word := (old &&& ~~~mask) ||| (new &&& mask)

/-- The value a keyed register has for stamp `s` (R50, R56): the value PUT, over it the delivered values whose T is at or before `s`, in
the order of R59. -/
def Chip.rdAt (c : Chip) (s a : Nat) : Word :=
  c.ft.armed.foldl (fun v k => if k.addr == a && decide (k.t ≤ s) then maskIn k.mask k.value v else v) (c.rd a)

/-- Field `f` of a keyed register for stamp `s`. -/
def Chip.getAt (c : Chip) (s a : Nat) (f : Fld) : Nat := getBits (c.rdAt s (a + 8 * f.word)) f.lo f.width

/-! ### Device time (R5, R48) -/

/-- A hardware stamp: device time at the resolution of 1/8 ns. -/
def stamp (now : Nat) : Nat := now / 0x2000 * 0x2000

/-- The replica of island `i`. -/
def Chip.replica (c : Chip) (i : Nat) : Replica := mget Replica.init c.ft.replica i

/-- A stamp taken in island `i` (R48): what its replica reads at AO device time `now`. -/
def Chip.stampIn (c : Chip) (i now : Nat) : Nat :=
  let r := c.replica i
  stamp (max r.base ((now : Int) + r.err).toNat)

/-- What the MR replica reads (R281, R283, R292). -/
def Chip.mrNow (c : Chip) (now : Nat) : Nat := c.stampIn 23 now

/-- The DT part of a time. -/
def dtOf (t : Nat) : Nat := t / 0x10000

/-- The frac part of a time. -/
def fracOf (t : Nat) : Nat := t % 0x10000

/-- A number of nanoseconds as a time. -/
def ns (n : Nat) : Nat := n * 0x10000

/-- A DT word as it is stored. -/
def dtWord (t : Nat) : Word := BitVec.ofNat 64 (dtOf t)

/-! ### Free values (entry 2) -/

/-- Takes the next free value. -/
def Chip.fresh (c : Chip) : Nat × Chip := ((Config.freeWord c.free).toNat, { c with free := c.free + 1 })

/-! ### Modes and power (R444, R465) -/

/-- The mode the adapter is in (R444). -/
def Chip.mode (c : Chip) : Nat := c.get A.CP_MODE F.CP_MODE_CURRENT

/-- The numbers of Table 17-1. -/
def Mode.off : Nat := 1
def Mode.held : Nat := 2
def Mode.boot : Nat := 3
def Mode.standby : Nat := 4
def Mode.provision : Nat := 5
def Mode.service : Nat := 6
def Mode.degraded : Nat := 7
def Mode.drain : Nat := 8
def Mode.update : Nat := 9
def Mode.diagnostic : Nat := 10
def Mode.recovery : Nat := 11
def Mode.quarantine : Nat := 12

/-- Whether power domain `d` is ON (Table 1-5). -/
def Chip.domOn (c : Chip) (d : Nat) : Bool := c.get (A.CP_PWR_STATUS d) F.CP_PWR_STATUS_STATE == 2

/-- The boundary of fence target `t`. -/
def Chip.bound (c : Chip) (t : Nat) : Bound := mget Bound.init c.pwr.bound t

/-- Replaces the boundary of fence target `t`. -/
def Chip.setBound (c : Chip) (t : Nat) (b : Bound) : Chip :=
  { c with pwr := { c.pwr with bound := mset Bound.init c.pwr.bound t b } }

/-- The power domain whose switch-off unpowers fence target `t` (Table 1-5, R29). -/
def targetDomain (t : Nat) : Nat :=
  if t < 16 then 2 + 2 * t
  else if t < 20 then 34 + (t - 16)
  else if t < 22 then 38 + (t - 20)
  else if t < 24 then 1
  else if t = 24 then 0
  else if t < 40 then 40 + (t - 32)
  else 48 + (t - 40)

/-- Whether a request to fence target `t` gets through: its boundary Open and its domain on (R25, R31). -/
def Chip.open1 (c : Chip) (t : Nat) : Bool := t == 24 || ((c.bound t).st == 0 && c.domOn (targetDomain t))

/-- Whether fence target `t` answers: an edge needs the island it lies in as well (R29, R397). -/
def Chip.up (c : Chip) (t : Nat) : Bool :=
  c.open1 t && (if t < 32 then true else if t < 40 then c.open1 22 else c.open1 23)

/-! ### Counts for the Sampler (R433, R436) -/

/-- Leaves a stamped count to be reported to the Sampler. -/
def Chip.report (c : Chip) (kind key n stamp : Nat) : Chip :=
  { c with smp := { c.smp with reports := c.smp.reports ++ [⟨kind, key, n, stamp⟩] } }

/-- The ingress count of a packet of source `src` against its billing slice (Table 16-3): NET_IN or HOST_IN. -/
def Chip.billIn (c : Chip) (src slice frameLen istamp : Nat) : Chip :=
  c.report (if src < 16 then 2 else 4) slice frameLen istamp

/-! ### The journal (R422, R423) -/

/-- The bytes of a journal entry. -/
def entryBytes (ws : List Word) : List Byte := ofWords ws

/-- The CHAIN word of Table 15-7 over the previous entry and the first seven words of this one. -/
def chainWord (prev ws : List Word) : Word :=
  leWord ((sha256 ((if prev.isEmpty then List.replicate 64 0 else ofWords prev) ++ (ofWords ws).take 56)).take 8)

/-- What an event adds to a journal entry beyond its sequence number and stamp (Tables 15-7 and 15-8). -/
structure JEvent where
  event  : Nat
  level  : Nat
  source : Nat
  island : Nat
  result : Nat
  slice  : Nat
  detail : Nat
  key    : Nat
  w4     : Word
  a0     : Word
  a1     : Word
  deriving DecidableEq, Repr

/-- An event of the Control Plane itself, in AO, with no argument. -/
def JEvent.base : JEvent := ⟨0, 0, 0, 24, 0, 0, 0, 0, 0, 0, 0⟩

/-- Writes one journal entry (R422): it takes the next SEQ, the AO time and the chain, and waits to be mirrored. -/
def Chip.journal (c : Chip) (now : Nat) (e : JEvent) : Chip :=
  let seq := c.rd A.CP_JOURNAL_NEXT
  let s := stamp now
  let w2 := BitVec.ofNat 64 (fracOf s + e.event % 2 ^ 16 * 2 ^ 16 + e.level % 4 * 2 ^ 32 + e.source % 8 * 2 ^ 40
    + e.island % 32 * 2 ^ 43 + e.result % 2 ^ 16 * 2 ^ 48)
  let w3 := BitVec.ofNat 64 (e.slice % 2 ^ 13 + e.detail % 2 ^ 16 * 2 ^ 16 + e.key % 32 * 2 ^ 32)
  let ws := [seq, dtWord s, w2, w3, e.w4, e.a0, e.a1]
  let entry := ws ++ [chainWord c.cmd.prev (ws ++ [0])]
  let n := seq.toNat
  let next := n / 2 ^ 40 * 2 ^ 40 + (n + 1) % 2 ^ 40
  let c := { c with cmd := { c.cmd with ring := mset [] c.cmd.ring (n % 4096) entry, prev := entry,
                                         unmir := c.cmd.unmir ++ [n] } }
  c.wr A.CP_JOURNAL_NEXT (BitVec.ofNat 64 next)

end Sys2Proof.Machine
end

