-- ==== Sys2Proof/Machine/Operands.lean ====
section
/-! DEFINITION. The operand forms of Fecia instructions and the arithmetic over them (R69, R81-R83): sizes, spaces, offsets,
bit fields, byte orders, checksums. -/

namespace Sys2Proof.Machine

/-- The bytes of a size code (Table 3-3). -/
def sizeOf_ (sz : Fin 4) : Nat := 2 ^ sz.val

/-- The effective address ra + off of a load, store or atomic, as an unsigned 64-bit value (R70). -/
def effAddr (ra : Word) (off : BitVec 10) : Nat := (ra + off.signExtend 64).toNat

/-- The channel (ra + chan) modulo 1,024 (R89). -/
def chanOf (ra : Word) (chan : BitVec 10) : Nat := (ra.toNat + chan.toNat) % 1024

/-- Whether a space is in network order (Table 3-2). -/
def netOrder (sp : Nat) : Bool := sp == 0 || sp == 3

/-- The value of loaded bytes (R69): placement by the space's order, then sign extension where asked. -/
def loadValue (net sx : Bool) (bs : List Byte) : Word :=
  let v := if net then beNat bs else leNat bs
  if sx then BitVec.ofInt 64 (signExt (8 * bs.length) v) else BitVec.ofNat 64 v

/-- The bytes a store of `n` bytes writes (R69). -/
def storeBytes (net : Bool) (n : Nat) (w : Word) : List Byte := if net then beBytes n w.toNat else leBytes n w.toNat

/-- Truth as a register value. -/
def truth (b : Bool) : Word := if b then 1 else 0

/-- The shift amount of a register ALU instruction (R81). -/
def shamt (rb : Word) : Nat := rb.toNat % 64

/-- Halfword `i` of a word. -/
def half (w : Word) (i : Nat) : Nat := getBits w (16 * i) 16

/-- A sum with its carries folded back into 16 bits. -/
def fold16 (v : Nat) : Nat :=
  let v := v % 65536 + v / 65536
  v % 65536 + v / 65536

/-- csum (R82). -/
def csum (ra rb : Word) : Word := BitVec.ofNat 64 (fold16 (half ra 0 + half rb 3 + half rb 2 + half rb 1 + half rb 0))

/-- crc (R82): the bytes of rb, most significant first. -/
def crcStep (ra rb : Word) : Word := BitVec.ofNat 64 (crcBytes (ra.toNat % 2 ^ 32) (beBytes 8 rb.toNat))

/-- The low `n` bytes of a value with their order reversed (Table 3-5). -/
def bswap (n : Nat) (w : Word) : Word := BitVec.ofNat 64 (beNat (leBytes n w.toNat))

/-- The leading zero bits of a word, 64 for 0. -/
def clz (w : Word) : Nat := (firstBelow (fun i => natBits w.toNat (63 - i) 1 == 1) 64).getD 64

/-- The trailing zero bits of a word, 64 for 0. -/
def ctz (w : Word) : Nat := (firstBelow (fun i => natBits w.toNat i 1 == 1) 64).getD 64

/-- The one bits of a word. -/
def popc (w : Word) : Nat := ((List.range 64).filter fun i => natBits w.toNat i 1 == 1).length

/-- The field ra[lsb + width - 1:lsb], zero-extended. -/
def bext (ra : Word) (lsb width : Nat) : Word := BitVec.ofNat 64 (getBits ra lsb width)

/-- rd with its field [lsb + width - 1:lsb] replaced by ra[width - 1:0]. -/
def bins (rd ra : Word) (lsb width : Nat) : Word := setBits rd lsb width ra.toNat

end Sys2Proof.Machine
end

