-- ==== Sys2Proof/Machine/PreParse.lean ====
section
/-! DEFINITION. The fixed pre-parser (R134, R144) and the steering hash over what it recognises (R135). Bytes are the
first 256 of the packet data. -/

namespace Sys2Proof.Machine

/-- Byte `i` of a frame; bytes it does not have read as 0. -/
def byteAt (bs : List Byte) (i : Nat) : Nat := (nth 0 bs i).toNat

/-- The 16-bit number in network order at byte `i`. -/
def u16At (bs : List Byte) (i : Nat) : Nat := 256 * byteAt bs i + byteAt bs (i + 1)

/-- What one frame holds (R134): its start, tags, VID, kinds and offsets (0xFF where there is none). -/
structure Layers where
  base : Nat
  tags : Nat
  vid  : Nat
  l3   : Nat
  l3k  : Nat
  l4   : Nat
  l4k  : Nat
  deriving DecidableEq, Repr

/-- The tags of the frame at `o` (R134): their number, the outermost VID, and the offset of the EtherType. -/
def tagsAt (bs : List Byte) (lim o : Nat) : Nat × Nat × Nat :=
  let tag (i : Nat) : Bool := (u16At bs i == 0x8100 || u16At bs i == 0x88A8) && decide (i + 6 ≤ lim)
  if tag (o + 12) then
    if tag (o + 16) then (2, u16At bs (o + 14) % 4096, o + 20) else (1, u16At bs (o + 14) % 4096, o + 16)
  else (0, 0, o + 12)

/-- The transport header of protocol `p` at `i`: its offset and kind (R134). -/
def l4At (bs : List Byte) (lim p i : Nat) : Nat × Nat :=
  if p = 6 ∧ i + 20 ≤ lim ∧ 5 ≤ byteAt bs (i + 12) / 16 ∧ i + 4 * (byteAt bs (i + 12) / 16) ≤ lim then (i, 1)
  else if p = 17 ∧ i + 8 ≤ lim then (i, 2)
  else (255, 0)

/-- The headers of the frame at `o` within the first `lim` bytes (R134). -/
def layersAt (bs : List Byte) (lim o : Nat) : Layers :=
  if lim < o + 14 then ⟨o, 0, 0, 255, 0, 255, 0⟩
  else
    let (tags, vid, et) := tagsAt bs lim o
    let i := et + 2
    let no : Layers := ⟨o, tags, vid, 255, 0, 255, 0⟩
    if u16At bs et = 0x0800 then
      let ihl := byteAt bs i % 16
      if i + 20 ≤ lim ∧ byteAt bs i / 16 = 4 ∧ 5 ≤ ihl ∧ i + 4 * ihl ≤ lim then
        if u16At bs (i + 6) % 0x4000 ≠ 0 then { no with l3 := i, l3k := 3 }
        else
          let (l4, k) := l4At bs lim (byteAt bs (i + 9)) (i + 4 * ihl)
          { no with l3 := i, l3k := 1, l4 := l4, l4k := k }
      else no
    else if u16At bs et = 0x86DD then
      if i + 40 ≤ lim ∧ byteAt bs i / 16 = 6 then
        let (l4, k) := l4At bs lim (byteAt bs (i + 6)) (i + 40)
        { no with l3 := i, l3k := 2, l4 := l4, l4k := k }
      else no
    else no

/-- The offset of the body of the first station option from `o` up to `fin`, or 0xFF (R144). -/
def stnAt (bs : List Byte) (cls typ fin : Nat) : Nat → Nat → Nat
  | 0, _ => 255
  | n + 1, o =>
    if fin < o + 4 then 255
    else
      let len := byteAt bs (o + 3) % 32
      if u16At bs o = cls ∧ byteAt bs (o + 2) = typ ∧ len = 2 then (if o + 12 ≤ fin then o + 4 else 255)
      else stnAt bs cls typ fin n (o + 4 + 4 * len)

/-- All the pre-parser recognises. -/
structure Parsed where
  outer  : Layers
  inner  : Option Layers
  tunnel : Nat
  stn    : Nat
  deriving DecidableEq, Repr

/-- The pre-parser over a packet of `plen` bytes (R134); `stn` gives the class and type of the station option where MA_STN_OPT is
enabled (R144). The option is found wherever its body ends within byte 255, be the Geneve header recognised whole or not (entry 54); the
inner frame is parsed where the protocol type is Ethernet's (entry 191). -/
def preParse (bs : List Byte) (plen : Nat) (stn : Option (Nat × Nat)) : Parsed :=
  let lim := min plen 256
  let out := layersAt bs lim 0
  let u := out.l4
  let no : Parsed := ⟨out, none, 0, 255⟩
  if out.l4k ≠ 2 ∨ lim < u + 16 then no
  else if u16At bs (u + 2) = 4789 then ⟨out, some (layersAt bs lim (u + 16)), 1, 255⟩
  else if u16At bs (u + 2) = 6081 then
    let fin := u + 16 + 4 * (byteAt bs (u + 8) % 64)
    let off := match stn with
      | some (cls, typ) => stnAt bs cls typ (min fin lim) 64 (u + 16)
      | none => 255
    if lim < fin then { no with stn := off }
    else
      ⟨out, if u16At bs (u + 10) = 0x6558 then some (layersAt bs lim fin) else none, 2, off⟩
  else no

/-- Metadata word 7 (Table 5-1). -/
def metaWord7 (p : Parsed) : Word :=
  let i := p.inner.getD ⟨0, 0, 0, 255, 0, 255, 0⟩
  BitVec.ofNat 64 (p.outer.l3 + p.outer.l4 * 2 ^ 8 + i.l3 * 2 ^ 16 + i.l4 * 2 ^ 24 + p.outer.l3k * 2 ^ 32 + p.outer.l4k * 2 ^ 36
    + p.tunnel * 2 ^ 40 + p.outer.tags * 2 ^ 44 + p.stn * 2 ^ 46)

/-! ### The steering hash (R135) -/

/-- `n` bytes from byte `i`. -/
def bytesAt (bs : List Byte) (i n : Nat) : List Byte := (List.range n).map fun k => nth 0 bs (i + k)

/-- Two fields, in order, or the lower first (SYM). -/
def pair (sym : Bool) (a b : List Byte) : List Byte := if sym && decide (beNat b < beNat a) then b ++ a else a ++ b

/-- The L2 fields. -/
def hashL2 (bs : List Byte) (sym : Bool) (l : Layers) : List Byte :=
  pair sym (bytesAt bs l.base 6) (bytesAt bs (l.base + 6) 6) ++ beBytes 2 l.vid

/-- The fields of selection L3, or L2 where there is no IP header. -/
def hashL3 (bs : List Byte) (sym : Bool) (l : Layers) : List Byte :=
  match l.l3k with
  | 0 => hashL2 bs sym l
  | 2 => pair sym (bytesAt bs (l.l3 + 8) 16) (bytesAt bs (l.l3 + 24) 16)
  | _ => pair sym (bytesAt bs (l.l3 + 12) 4) (bytesAt bs (l.l3 + 16) 4)

/-- The fields of selection L4. -/
def hashL4 (bs : List Byte) (sym : Bool) (l : Layers) : List Byte :=
  if l.l3k = 0 then hashL2 bs sym l
  else
    hashL3 bs sym l ++ bytesAt bs (l.l3 + if l.l3k = 2 then 6 else 9) 1
      ++ (if l.l4k = 0 then [] else pair sym (bytesAt bs l.l4 2) (bytesAt bs (l.l4 + 2) 2))

/-- The steering hash of a packet under HASH_SEL `sel`, SYM and SEED (R135). -/
def steerHash (bs : List Byte) (p : Parsed) (sel : Nat) (sym : Bool) (seed : Nat) : Nat :=
  match sel with
  | 1 => crcBytes seed (hashL2 bs sym p.outer)
  | 2 => crcBytes seed (hashL3 bs sym p.outer)
  | 3 => crcBytes seed (hashL4 bs sym p.outer)
  | 4 => crcBytes seed (hashL4 bs sym (p.inner.getD p.outer))
  | _ => 0

/-! ### Prelook's signature and keys (R145, R146) -/

/-- The signature of a packet: the bytes among 0-63 that SIG_MASK selects, those at and above PLEN as 0. -/
def signature (bs : List Byte) (plen profile : Nat) (mask : Word) : Nat :=
  crcBytes profile (((List.range 64).filter fun j => getBits mask j 1 == 1).map fun j =>
    if j < plen then nth 0 bs j else 0)

/-- The key words a recipe builds (R146): `map j` is the map byte of key byte j. -/
def recipeKey (bs : List Byte) (words : Nat) (map : Nat → Nat) : List Word :=
  toWords ((List.range (8 * words)).map fun j =>
    if natBits (map j) 6 1 = 1 then 0 else nth 0 bs (map j % 64))

end Sys2Proof.Machine
end

