-- ==== Sys2Proof/Machine/FrameOps.lean ====
section
/-! DEFINITION. What is computed over the bytes of a frame: its EtherType, its FCS, checksums (R255, R262), segments (R263, R264),
PTP messages (R271), MAC control frames (R254, R267). -/

namespace Sys2Proof.Machine

/-! ### EtherType and FCS (R142, R256) -/

/-- The offset of the EtherType after up to two tags of TPID 0x8100 or 0x88A8, and the number of tags. -/
def etherOff (bs : List Byte) : Nat × Nat :=
  let tag (i : Nat) : Bool := (u16At bs i == 0x8100 || u16At bs i == 0x88A8) && decide (i + 6 ≤ bs.length)
  if tag 12 then (if tag 16 then (20, 2) else (16, 1)) else (12, 0)

/-- The EtherType of a frame, where it has one. -/
def etherType (bs : List Byte) : Option Nat :=
  let o := (etherOff bs).1
  if o + 2 ≤ bs.length then some (u16At bs o) else none

/-- One bit of the CRC-32 of IEEE 802.3. -/
def crc32Bit : Nat → Nat → Nat
  | 0, r => r
  | n + 1, r => crc32Bit n (if r % 2 = 1 then r / 2 ^^^ 0xEDB88320 else r / 2)

/-- The FCS of a frame as it stands on the wire, least significant byte first. -/
def fcsOf (bs : List Byte) : List Byte :=
  leBytes 4 ((bs.foldl (fun r b => crc32Bit 8 (r ^^^ b.toNat)) 0xFFFFFFFF) ^^^ 0xFFFFFFFF)

/-- The stomped FCS: the ones' complement of the correct one (R257). -/
def stompedFcs (bs : List Byte) : List Byte := (fcsOf bs).map (~~~ ·)

/-- The mCRC of a fragment (R252, R260): over the bytes of the frame so far, the last two octets of its FCS inverted (entry 50). -/
def mcrcOf (bs : List Byte) : List Byte := (fcsOf bs).take 2 ++ ((fcsOf bs).drop 2).map (~~~ ·)

/-- A frame padded with zero bytes to 60 (R256). -/
def padFrame (bs : List Byte) : List Byte := bs ++ List.replicate (60 - bs.length) 0

/-! ### Checksums (R255, R262) -/

/-- The sum of the 16-bit numbers of a byte string; an odd last byte stands high. -/
def sum16 : List Byte → Nat
  | [] => 0
  | [a] => 256 * a.toNat
  | a :: b :: rest => 256 * a.toNat + b.toNat + sum16 rest

/-- A sum folded into 16 bits with end-around carry. -/
def foldSum (v : Nat) : Nat := fold16 (fold16 v)

/-- Replaces bytes from `i` up. -/
def putBytes (bs : List Byte) (i : Nat) (new : List Byte) : List Byte := bs.take i ++ new ++ bs.drop (i + new.length)

/-- Replaces the 16-bit number at `i`. -/
def put16 (bs : List Byte) (i v : Nat) : List Byte := putBytes bs i (beBytes 2 v)

/-- The sum of a pseudo-header (IPv4 or IPv6 at `l3`) and of `len` bytes from `l4`. -/
def l4Sum (bs : List Byte) (v6 : Bool) (l3 l4 len : Nat) : Nat :=
  let ps := if v6 then sum16 (bytesAt bs (l3 + 8) 32) + byteAt bs (l3 + 6) else sum16 (bytesAt bs (l3 + 12) 8) + byteAt bs (l3 + 9)
  foldSum (ps + len / 65536 + len % 65536 + sum16 (bytesAt bs l4 len))

/-- Writes the IPv4 header checksum at `l3`. -/
def putIpSum (bs : List Byte) (l3 : Nat) : List Byte :=
  let d := put16 bs (l3 + 10) 0
  put16 d (l3 + 10) (0xFFFF - foldSum (sum16 (bytesAt d l3 (4 * (byteAt d l3 % 16)))))

/-- Writes the checksum at `at_` of a TCP or UDP header at `l4`; a UDP result of 0 is sent as 0xFFFF. -/
def putL4Sum (bs : List Byte) (v6 udp : Bool) (l3 l4 len at_ : Nat) : List Byte :=
  let d := put16 bs at_ 0
  let s := 0xFFFF - l4Sum d v6 l3 l4 len
  put16 d at_ (if udp && s == 0 then 0xFFFF else s)

/-- The checksum flags of a received frame (R255, Table 5-2), bits 6 to 8; `bs` is the packet data. -/
def rxCsum (bs : List Byte) (p : Parsed) : Nat :=
  let o := p.outer
  if o.l3k ≠ 1 ∨ o.l4k = 0 then 0
  else
    let ihl := 4 * (byteAt bs o.l3 % 16)
    let bad3 := foldSum (sum16 (bytesAt bs o.l3 ihl)) != 0xFFFF
    let len := u16At bs (o.l3 + 2) - ihl
    let none_ := o.l4k == 2 && u16At bs (o.l4 + 6) == 0
    let bad4 := !none_ && (decide (len < 8) || decide (bs.length < o.l4 + len) || l4Sum bs false o.l3 o.l4 len != 0xFFFF)
    64 + (if bad3 then 128 else 0) + (if bad4 then 256 else 0)

/-! ### Checksum insertion and the Segmenter (R262-R264) -/

/-- A field of verdict word B (Table 5-4). -/
def wB (b : Word) (lo n : Nat) : Nat := getBits b lo n

/-- Word B with SEG_KIND = 0 carried out on a packet, or none where a named offset lies outside it (R262, R264). -/
def insertCsum (d : List Byte) (b : Word) : Option (List Byte) :=
  let v6 := wB b 3 1 == 1
  let l3 := wB b 16 8
  let l4 := wB b 24 8
  let c3 := wB b 5 1 == 1
  let c4 := wB b 6 1 == 1
  let hl := if v6 then 40 else 4 * (byteAt d l3 % 16)
  if !c3 && !c4 then some d
  else if d.length < l3 + (if v6 then 40 else 20) ∨ (c3 && (decide (hl < 20) || decide (d.length < l3 + hl))) then none
  else
    let d := if c3 then putIpSum d l3 else d
    if !c4 then some d
    else
      let proto := byteAt d (l3 + if v6 then 6 else 9)
      let len := if v6 then u16At d (l3 + 4) - (l4 - l3 - 40) else u16At d (l3 + 2) - hl
      let off := if proto = 6 then 16 else 6
      if (proto ≠ 6 ∧ proto ≠ 17) ∨ len < off + 2 ∨ d.length < l4 + len then none
      else some (putL4Sum d v6 (proto == 17) l3 l4 len (l4 + off))

/-- The header length H of a packet to be segmented (R263). -/
def segHeader (d : List Byte) (b : Word) : Nat :=
  let l4 := wB b 24 8
  l4 + if wB b 0 3 = 1 then 4 * (byteAt d (l4 + 12) / 16) else 8

/-- The conditions of R264 for SEG_KIND ≠ 0. -/
def segOk (d : List Byte) (b : Word) (maxFrame : Nat) : Bool :=
  let v6 := wB b 3 1 == 1
  let l3 := wB b 16 8
  let l4 := wB b 24 8
  let o3 := wB b 8 8
  let h := segHeader d b
  byteAt d l3 / 16 == (if v6 then 6 else 4)
    && (wB b 4 1 == 0 || byteAt d o3 / 16 == 4 || byteAt d o3 / 16 == 6)
    && decide (l3 + (if v6 then 40 else 20) ≤ l4)
    && byteAt d (l3 + if v6 then 6 else 9) == (if wB b 0 3 = 1 then 6 else 17)
    && decide (h ≤ d.length) && decide (h ≤ 256)
    && (wB b 0 3 != 1 || (byteAt d (l4 + 13) / 2 % 2 == 0 && byteAt d (l4 + 13) / 4 % 2 == 0))
    && decide (h + wB b 32 14 + 4 ≤ maxFrame)

/-- The number of segments N (R263). -/
def segCount (len h mss : Nat) : Nat := max 1 ((len - h + mss - 1) / mss)

/-- The fix-ups of an IP header at `o` in segment `k` (Table 9-3), the checksum of IPv4 included. -/
def fixIp (s : List Byte) (o k : Nat) : List Byte :=
  if byteAt s o / 16 = 4 then
    let s := put16 s (o + 2) (s.length - o)
    putIpSum (put16 s (o + 4) ((u16At s (o + 4) + k) % 65536)) o
  else put16 s (o + 4) (s.length - (o + 40))

/-- The fix-ups of the inner or sole transport header in segment `k` of `n` (Table 9-3). -/
def fixL4 (s : List Byte) (b : Word) (k n : Nat) : List Byte :=
  let v6 := wB b 3 1 == 1
  let l3 := wB b 16 8
  let l4 := wB b 24 8
  let len := s.length - l4
  if wB b 0 3 = 1 then
    let seq := (beNat (bytesAt s (l4 + 4) 4) + k * wB b 32 14) % 2 ^ 32
    let s := putBytes s (l4 + 4) (beBytes 4 seq)
    let fl := BitVec.ofNat 8 (byteAt s (l4 + 13))
    let fl := if k = 0 then fl else fl &&& 0x7F
    let fl := if k + 1 = n then fl else fl &&& 0xF6
    putL4Sum (putBytes s (l4 + 13) [fl]) v6 false l3 l4 len (l4 + 16)
  else putL4Sum (put16 s (l4 + 4) len) v6 true l3 l4 len (l4 + 6)

/-- The fix-ups of the outer headers of segment `k` under TUNNEL = 1 (Table 9-3). -/
def fixOuter (s : List Byte) (o3 k : Nat) : List Byte :=
  let v6 := byteAt s o3 / 16 == 6
  let u := o3 + if v6 then 40 else 4 * (byteAt s o3 % 16)
  let s := fixIp s o3 k
  let keep := u16At s (u + 6) == 0 && !v6
  let s := put16 s (u + 4) (s.length - u)
  if keep then s else putL4Sum s v6 true o3 u (s.length - u) (u + 6)

/-- Segment `k` of `n` (R263): the header, its piece, the fix-ups. -/
def segment (d : List Byte) (b : Word) (k n : Nat) : List Byte :=
  let h := segHeader d b
  let mss := wB b 32 14
  let s := d.take h ++ (d.drop (h + k * mss)).take mss
  let s := fixL4 (fixIp s (wB b 16 8) k) b k n
  if wB b 4 1 = 1 then fixOuter s (wB b 8 8) k else s

/-- The poison of segment `k`: of its header or of its piece. -/
def segPoison (m : List Bool) (h mss k : Nat) : Bool :=
  (m.take h).any id || ((m.drop (h + k * mss)).take mss).any id

/-- The frames of a departing packet before padding (R256, R262-R264), with the poison of each; none where it fails a check. `m` is the
poison of each byte. -/
def departFrames (d : List Byte) (m : List Bool) (b : Word) (maxFrame : Nat) : Option (List TxFrame) :=
  if wB b 0 3 = 0 then (insertCsum d b).map fun x => [⟨x, m.any id⟩]
  else if segOk d b maxFrame then
    let h := segHeader d b
    let mss := wB b 32 14
    let n := segCount d.length h mss
    some ((List.range n).map fun k => ⟨segment d b k n, segPoison m h mss k⟩)
  else none

/-! ### PTP event messages (R271) -/

/-- The offset of the PTP header of a frame, and the offset of its UDP header where it has one; `l2` and `udp` say which transports
are recognised. -/
def ptpAt (bs : List Byte) (l2 udp : Bool) : Option (Nat × Option Nat) :=
  let l := layersAt bs bs.length 0
  let o := (etherOff bs).1
  if l2 && etherType bs == some 0x88F7 && decide (o + 36 ≤ bs.length) then some (o + 2, none)
  else if udp && l.l4k == 2 && u16At bs (l.l4 + 2) == 319 && decide (l.l4 + 42 ≤ bs.length) then some (l.l4 + 8, some l.l4)
  else none

/-- The messageType of a recognised event message (types 0-3), with its header's offset and UDP header. -/
def ptpEvent (bs : List Byte) (l2 udp : Bool) : Option (Nat × Nat × Option Nat) :=
  match ptpAt bs l2 udp with
  | some (h, u) => if byteAt bs h % 16 ≤ 3 then some (byteAt bs h % 16, h, u) else none
  | none => none

/-- A one-step Sync with its transmit stamp written in flight (R271). -/
def oneStep (bs : List Byte) (h : Nat) (u : Option Nat) (stamp : Nat) : List Byte :=
  let dt := dtOf stamp
  let corr := (beNat (bytesAt bs (h + 8) 8) + fracOf stamp) % 2 ^ 64
  let s := putBytes bs (h + 8) (beBytes 8 corr)
  let s := putBytes s (h + 34) (beBytes 6 (dt / 1000000000) ++ beBytes 4 (dt % 1000000000))
  match u with
  | none => s
  | some l4 =>
    if u16At s (l4 + 6) = 0 then s
    else
      let l := layersAt s s.length 0
      putL4Sum s (l.l3k == 2) true l.l3 l4 (u16At s (l4 + 4)) (l4 + 6)

/-! ### MAC control frames (R254, R267) -/

/-- The destination of MAC control frames, 01-80-C2-00-00-01. -/
def ctrlDa : List Byte := [0x01, 0x80, 0xC2, 0x00, 0x00, 0x01]

/-- Whether a frame is a MAC control frame. -/
def isMacCtrl (bs : List Byte) : Bool := decide (14 ≤ bs.length) && bs.take 6 == ctrlDa && u16At bs 12 == 0x8808

/-- A PAUSE frame with a time (R267). -/
def pauseFrame (sa : List Byte) (time : Nat) : List Byte :=
  padFrame (ctrlDa ++ sa ++ beBytes 2 0x8808 ++ beBytes 2 1 ++ beBytes 2 time)

/-- A PFC frame that names the priorities of `vec` with their times (R267). -/
def pfcFrame (sa : List Byte) (vec : Nat) (time : Nat → Nat) : List Byte :=
  padFrame (ctrlDa ++ sa ++ beBytes 2 0x8808 ++ beBytes 2 0x0101 ++ beBytes 2 vec
    ++ (List.range 8).flatMap fun k => beBytes 2 (time k))

end Sys2Proof.Machine
end

