-- ==== Sys2Proof/Machine/Encode.lean ====
section
/-! DEFINITION. The words of Fecia instructions (spec/03_fecia_isa.md, Tables 3-3 to 3-8 and 3-10): the encoding of each row of the
table that a thread issues, and which words are listed at all (R76). -/

namespace Sys2Proof.Machine

/-- Format R (Table 3-3). -/
def formR (op rd ra rb fn : Nat) : Nat := op * 2 ^ 26 + rd * 2 ^ 21 + ra * 2 ^ 16 + rb * 2 ^ 11 + fn

/-- Formats I, B, J and F: 16 bits below three fields. -/
def formI (op rd ra imm : Nat) : Nat := op * 2 ^ 26 + rd * 2 ^ 21 + ra * 2 ^ 16 + imm

/-- Format M. -/
def formM (op r ra sp sz : Nat) (x : Bool) (off : Nat) : Nat :=
  op * 2 ^ 26 + r * 2 ^ 21 + ra * 2 ^ 16 + sp * 2 ^ 13 + sz * 2 ^ 11 + (if x then 2 ^ 10 else 0) + off

/-- Format C. -/
def formC (op rd ra n : Nat) (t : Bool) (gap chan : Nat) : Nat :=
  op * 2 ^ 26 + rd * 2 ^ 21 + ra * 2 ^ 16 + n * 2 ^ 13 + (if t then 2 ^ 12 else 0) + gap * 2 ^ 10 + chan

/-- The 32-bit word of a Fecia instruction; 0, which is no instruction, for every other command. An `mbz` operand holds the fields that must
be 0, the highest first. -/
def feciaWord : Instr → Nat
  | .add _ _ rd ra rb => formR 0x01 rd ra rb 0x000
  | .sub _ _ rd ra rb => formR 0x01 rd ra rb 0x001
  | .and _ _ rd ra rb => formR 0x01 rd ra rb 0x002
  | .or _ _ rd ra rb => formR 0x01 rd ra rb 0x003
  | .xor _ _ rd ra rb => formR 0x01 rd ra rb 0x004
  | .andn _ _ rd ra rb => formR 0x01 rd ra rb 0x005
  | .sll _ _ rd ra rb => formR 0x01 rd ra rb 0x006
  | .srl _ _ rd ra rb => formR 0x01 rd ra rb 0x007
  | .sra _ _ rd ra rb => formR 0x01 rd ra rb 0x008
  | .rol _ _ rd ra rb => formR 0x01 rd ra rb 0x009
  | .min _ _ rd ra rb => formR 0x01 rd ra rb 0x00A
  | .max _ _ rd ra rb => formR 0x01 rd ra rb 0x00B
  | .minu _ _ rd ra rb => formR 0x01 rd ra rb 0x00C
  | .maxu _ _ rd ra rb => formR 0x01 rd ra rb 0x00D
  | .slt _ _ rd ra rb => formR 0x01 rd ra rb 0x00E
  | .sltu _ _ rd ra rb => formR 0x01 rd ra rb 0x00F
  | .seq _ _ rd ra rb => formR 0x01 rd ra rb 0x010
  | .mul _ _ rd ra rb => formR 0x01 rd ra rb 0x011
  | .mulhu _ _ rd ra rb => formR 0x01 rd ra rb 0x012
  | .csum _ _ rd ra rb => formR 0x01 rd ra rb 0x013
  | .crc _ _ rd ra rb => formR 0x01 rd ra rb 0x014
  | .bswap16 _ _ rd ra rb => formR 0x01 rd ra rb 0x020
  | .bswap32 _ _ rd ra rb => formR 0x01 rd ra rb 0x021
  | .bswap64 _ _ rd ra rb => formR 0x01 rd ra rb 0x022
  | .clz _ _ rd ra rb => formR 0x01 rd ra rb 0x023
  | .ctz _ _ rd ra rb => formR 0x01 rd ra rb 0x024
  | .popc _ _ rd ra rb => formR 0x01 rd ra rb 0x025
  | .addi _ _ rd ra imm => formI 0x02 rd ra imm.toNat
  | .andi _ _ rd ra imm => formI 0x03 rd ra imm.toNat
  | .ori _ _ rd ra imm => formI 0x04 rd ra imm.toNat
  | .xori _ _ rd ra imm => formI 0x05 rd ra imm.toNat
  | .slli _ _ rd ra amount mbz => formI 0x06 rd ra (0 * 2 ^ 14 + mbz.toNat * 2 ^ 6 + amount.toNat)
  | .srli _ _ rd ra amount mbz => formI 0x06 rd ra (1 * 2 ^ 14 + mbz.toNat * 2 ^ 6 + amount.toNat)
  | .srai _ _ rd ra amount mbz => formI 0x06 rd ra (2 * 2 ^ 14 + mbz.toNat * 2 ^ 6 + amount.toNat)
  | .roli _ _ rd ra amount mbz => formI 0x06 rd ra (3 * 2 ^ 14 + mbz.toNat * 2 ^ 6 + amount.toNat)
  | .movz _ _ rd h imm mbz => formI 0x07 rd (mbz.toNat * 2 ^ 3 + h.val) imm.toNat
  | .movk _ _ rd h imm mbz => formI 0x07 rd (mbz.toNat * 2 ^ 3 + 2 ^ 2 + h.val) imm.toNat
  | .seqi _ _ rd ra imm => formI 0x08 rd ra imm.toNat
  | .sltiu _ _ rd ra imm => formI 0x09 rd ra imm.toNat
  | .bext _ _ rd ra lsb width1 mbz => formI 0x0A rd ra (mbz.toNat * 2 ^ 12 + width1.toNat * 2 ^ 6 + lsb.toNat)
  | .bins _ _ rd ra lsb width1 mbz => formI 0x0B rd ra (mbz.toNat * 2 ^ 12 + width1.toNat * 2 ^ 6 + lsb.toNat)
  | .ld _ _ rd ra sp sz x off => formM 0x10 rd ra sp sz x off.toNat
  | .st _ _ rs ra sp sz x off => formM 0x11 rs ra sp sz x off.toNat
  | .aadd _ _ rd ra rb => formR 0x12 rd ra rb 0
  | .aswp _ _ rd ra rb => formR 0x12 rd ra rb 1
  | .acas _ _ rd ra rb => formR 0x12 rd ra rb 2
  | .amaxu _ _ rd ra rb => formR 0x12 rd ra rb 3
  | .beq _ _ ra rb target => formI 0x18 ra rb target.toNat
  | .bne _ _ ra rb target => formI 0x19 ra rb target.toNat
  | .blt _ _ ra rb target => formI 0x1A ra rb target.toNat
  | .bge _ _ ra rb target => formI 0x1B ra rb target.toNat
  | .bltu _ _ ra rb target => formI 0x1C ra rb target.toNat
  | .bgeu _ _ ra rb target => formI 0x1D ra rb target.toNat
  | .jmp _ _ target mbz => 0x1E * 2 ^ 26 + mbz.toNat * 2 ^ 16 + target.toNat
  | .call _ _ target mbz => 0x1F * 2 ^ 26 + mbz.toNat * 2 ^ 16 + target.toNat
  | .ret _ _ mbz => 0x20 * 2 ^ 26 + mbz.toNat
  | .jr _ _ ra mbz => formI 0x21 (mbz.toNat / 2 ^ 16) ra (mbz.toNat % 2 ^ 16)
  | .mfs _ _ rd n mbz => formI 0x24 rd n mbz.toNat
  | .mts _ _ n ra mbz => formI 0x25 n ra mbz.toNat
  | .time _ _ rd rb mbz => formR 0x26 rd (mbz.toNat / 2 ^ 11) rb (mbz.toNat % 2 ^ 11)
  | .mto _ _ n ra mbz => formI 0x28 (mbz.toNat / 2 ^ 16 * 2 ^ 3 + n.val) ra (mbz.toNat % 2 ^ 16)
  | .mfi _ _ rd n mbz => formI 0x29 rd (mbz.toNat / 2 ^ 16 * 2 ^ 3 + n.val) (mbz.toNat % 2 ^ 16)
  | .send _ _ ra chan n1 mbz => formC 0x30 (mbz.toNat / 2 ^ 2) ra n1 false (mbz.toNat % 2 ^ 2) chan.toNat
  | .sendt _ _ ra chan n1 mbz => formC 0x30 (mbz.toNat / 2 ^ 2) ra n1 true (mbz.toNat % 2 ^ 2) chan.toNat
  | .recv _ _ ra chan mbz => formC 0x31 (mbz.toNat / 2 ^ 5) ra (mbz.toNat / 2 ^ 2 % 2 ^ 3) false (mbz.toNat % 2 ^ 2) chan.toNat
  | .recvt _ _ ra chan mbz => formC 0x31 (mbz.toNat / 2 ^ 5) ra (mbz.toNat / 2 ^ 2 % 2 ^ 3) true (mbz.toNat % 2 ^ 2) chan.toNat
  | .fork _ _ rd target mbz => formI 0x32 rd mbz.toNat target.toNat
  | .forkw _ _ rd target mbz => formI 0x32 rd (2 ^ 4 + mbz.toNat) target.toNat
  | .join _ _ rd ra mbz => formI 0x33 rd ra mbz.toNat
  | .exit _ _ ra mbz => formI 0x34 (mbz.toNat / 2 ^ 16) ra (mbz.toNat % 2 ^ 16)
  | .verd _ _ ra rb mbz => formR 0x35 (mbz.toNat / 2 ^ 11) ra rb (mbz.toNat % 2 ^ 11)
  | .malf _ _ mbz => 0x36 * 2 ^ 26 + mbz.toNat
  | .brk _ _ imm mbz => 0x3F * 2 ^ 26 + mbz.toNat * 2 ^ 16 + imm.toNat
  | _ => 0

/-- Whether a word is one of the instructions listed (R76, R85): its opcode stands in Table 3-4, and its function is defined. -/
def wordListed (w : Nat) : Bool :=
  let op := w / 2 ^ 26
  let fn := w % 2 ^ 11
  let within (lo hi v : Nat) : Bool := decide (lo ≤ v) && decide (v ≤ hi)
  if op = 0x01 then within 0 0x14 fn || within 0x20 0x25 fn
  else if op = 0x12 then within 0 3 fn
  else within 0x02 0x0B op || within 0x10 0x11 op || within 0x18 0x21 op || within 0x24 0x26 op || within 0x28 0x29 op
    || within 0x30 0x36 op || op == 0x3F

end Sys2Proof.Machine
end

