-- ==== Sys2Proof/Machine/Flags.lean ====
section
/-! DEFINITION. Fault flags and records (R472-R475, R500): how a fault is recorded, coalesced, counted and journaled, and
what its class leaves to be done in the same step. -/

namespace Sys2Proof.Machine

/-- The fault log record at index `i` (Table 18-6). -/
def faultAddr (i : Nat) : Nat := A.CP_FAULT_LOG i

/-- Word 0 of a fault record. -/
def faultWord0 (code cls : Nat) (esc : Bool) (isl dom slice count : Nat) : Word :=
  BitVec.ofNat 64 (code % 2 ^ 16 + cls % 4 * 2 ^ 16 + (if esc then 1 else 0) * 2 ^ 18 + isl % 32 * 2 ^ 19
    + dom % 64 * 2 ^ 24 + slice % 2 ^ 13 * 2 ^ 30 + count % 2 ^ 16 * 2 ^ 48)

/-- The times of a storm limit's events that its sliding window still holds (R500). -/
def stormHeld (now window : Nat) (ts : List Nat) : List Nat := ts.filter fun t => decide (now < t + window)

/-- Counts one event of storm limit `id` at `now`; answers whether the condition `meets` came to hold by this event (R500). -/
def Chip.storm (c : Chip) (now id window : Nat) (meets : Nat → Bool) : Bool × Chip :=
  let old := stormHeld now window (mget [] c.pwr.storms id)
  (!meets old.length && meets (old.length + 1),
   { c with pwr := { c.pwr with storms := mset [] c.pwr.storms id (old ++ [now]) } })

/-- The storm limits of R500 as indices of `PwrSt.storms`. -/
def Storm.channel (c : Nat) : Nat := c
def Storm.sram : Nat := 8
def Storm.deferred (island : Nat) : Nat := 16 + island
def Storm.timeouts (e : Nat) : Nat := 64 + e

/-- What one fence target a fault of island `isl` and domain `dom` names: the edge of a QDR channel, of the CE or of the ST
where the domain is one of theirs, else the island (R462, R475). -/
def faultTarget (isl dom : Nat) : Option Nat :=
  if 40 ≤ dom ∧ dom ≤ 47 then some (32 + (dom - 40))
  else if dom = 48 then some 40
  else if dom = 49 then some 41
  else if isl ≤ 24 then some isl
  else none

/-- Whether the newest record takes one more occurrence of a corrected fault (R474). -/
def Chip.coalesces (c : Chip) (now : Nat) (code isl slice : Nat) : Option Nat :=
  match c.pwr.newest with
  | none => none
  | some i =>
    let a := faultAddr i
    if c.get a F.CP_FAULT_LOG_CODE == code && c.get a F.CP_FAULT_LOG_ISLAND == isl && c.get a F.CP_FAULT_LOG_SLICE == slice
        && c.get a F.CP_FAULT_LOG_CLASS == 0
        && decide (dtOf now < (c.rd (a + 8)).toNat + 1000000) && decide ((c.rd (a + 8)).toNat ≤ dtOf now)
    then some i else none

/-- Writes one record at HEAD of the fault log, after discarding the oldest unread record of a full ring, and its FAULT
journal entry (R473, R474). -/
def Chip.record (c : Chip) (now code cls : Nat) (esc : Bool) (isl dom slice : Nat) (detail : Word) : Chip :=
  let h := c.get A.CP_FAULT_HEAD F.CP_FAULT_HEAD_V
  let t := c.get A.CP_FAULT_TAIL F.CP_FAULT_TAIL_V
  let c := if (h + 1) % 512 = t then (c.set A.CP_FAULT_TAIL F.CP_FAULT_TAIL_V ((t + 1) % 512)).inc A.CP_FAULT_OVERWRITE else c
  let w0 := faultWord0 code cls esc isl dom slice 1
  let seq := c.rd A.CP_JOURNAL_NEXT
  let c := c.journal now { JEvent.base with event := 3, level := if cls ≥ 2 then 0 else 1, island := isl, slice := slice,
                                             detail := cls, a0 := w0, a1 := dtWord (stamp now) }
  let a := faultAddr h
  let c := (((c.wr a w0).wr (a + 8) (dtWord (stamp now))).wr (a + 16) detail).wr (a + 24) seq
  let c := (c.set A.CP_FAULT_HEAD F.CP_FAULT_HEAD_V ((h + 1) % 512)).inc (A.CP_FAULT_COUNT cls)
  { c with pwr := { c.pwr with newest := some h } }

/-- One fault without its deferred-storm count: coalesced or recorded, and its class action put in `due` (R474, R475). -/
def Chip.raise1 (c : Chip) (now : Nat) (f : FaultKind) (isl dom slice : Nat) (detail : Word) : Chip :=
  let target := faultTarget isl dom
  let esc : Bool := f.cls == 2 && (target == none || target == some 23 || target == some 24)
  let cls := if esc then 3 else f.cls
  match (if cls = 0 then c.coalesces now f.code isl slice else none) with
  | some i =>
    let a := faultAddr i
    c.set a F.CP_FAULT_LOG_COUNT (min 65535 (c.get a F.CP_FAULT_LOG_COUNT + 1))
  | none =>
    let c := c.record now f.code cls esc isl dom slice detail
    if cls ≥ 2 then { c with due := c.due ++ [.fault cls target f.code] } else c

/-- Raises fault `f` against an island (31 none), a domain (63 none) and a slice, with the DETAIL its rule names (R18, R19,
R472-R475): records it, and raises CP_DEFERRED_STORM where the island's deferred faults pass DEFER_STORM within a second. -/
def Chip.raise (c : Chip) (now : Nat) (f : FaultKind) (isl dom slice : Nat) (detail : Word) : Chip :=
  let c := c.raise1 now f isl dom slice detail
  let limit := c.get A.CP_FAULT_CFG F.CP_FAULT_CFG_DEFER_STORM
  if f.cls = 1 ∧ limit ≠ 0 ∧ isl < 31 then
    let (hit, c) := c.storm now (Storm.deferred isl) (ns 1000000000) (fun n => decide (limit < n))
    if hit then c.raise1 now Flt.CP_DEFERRED_STORM isl 63 0 0 else c
  else c

end Sys2Proof.Machine
end

