-- ==== Sys2Proof/Machine/Stitch.lean ====
section
/-! DEFINITION. The Stitch code over stored words (R384-R391, R401): decoding a word by the difference of its check symbols,
the counters, error logs and write-backs of a read, poison marks, and the byte memories guarded by them. -/

namespace Sys2Proof.Machine

/-- One bit-serial step of the product in GF(2^8) under 0x11D (R384). -/
def gfMulLoop : Nat → Nat → Nat → Nat → Nat
  | 0, _, _, acc => acc
  | n + 1, a, b, acc =>
    gfMulLoop n (if a < 128 then 2 * a else (2 * a) ^^^ 0x11D) (b / 2) (if b % 2 = 1 then acc ^^^ a else acc)

/-- The product in GF(2^8). -/
def gfMul (a b : Nat) : Nat := gfMulLoop 8 a b 0

/-- The n-th power of α = 0x02. -/
def gfPow : Nat → Nat
  | 0 => 1
  | n + 1 => gfMul (gfPow n) 2

/-- The poison mark's difference from the correct check symbols (R387). -/
def poisonMark : BitVec 32 := 0xC33CA55A

/-- Check symbol j of a difference. -/
def symbolOf (r : BitVec 32) (j : Nat) : Nat := (r.toNat >>> (8 * j)) % 256

/-- Syndrome i of a word whose check symbols differ by `r` from those its data calls for (R386). -/
def syndrome (r : BitVec 32) (i : Nat) : Nat :=
  (List.range 4).foldl (fun s j => s ^^^ gfMul (symbolOf r j) (gfPow (i * j))) 0

/-- The four syndromes as the error logs hold them, syndrome 0 in the low byte. -/
def syndromeWord (r : BitVec 32) : Nat :=
  syndrome r 0 + syndrome r 1 * 2 ^ 8 + syndrome r 2 * 2 ^ 16 + syndrome r 3 * 2 ^ 24

/-- The coefficient position (0-3 check symbols, 4-35 data symbols 0-31) and value of an error in exactly one symbol. -/
def singleError (r : BitVec 32) : Option (Nat × Nat) :=
  let s0 := syndrome r 0
  if s0 = 0 then none else
  match firstBelow (fun p =>
      let x := gfPow p
      decide (syndrome r 1 = gfMul s0 x) && decide (syndrome r 2 = gfMul (syndrome r 1) x)
        && decide (syndrome r 3 = gfMul (syndrome r 2) x)) 36 with
  | some p => some (p, s0)
  | none => none

/-- The outcomes of Table 14-1. -/
inductive Decoded where
  | clean
  | marked
  | corrected (pos value : Nat)
  | uncorrectable
  deriving DecidableEq, Repr

/-- Table 14-1 for a word whose check symbols differ by `r`. -/
def decodeWord (r : BitVec 32) : Decoded :=
  if r = 0 then .clean
  else if r = poisonMark then .marked
  else match singleError r with
    | some (p, v) => .corrected p v
    | none => .uncorrectable

/-- Whether a code word with the stored difference `r` is marked or uncorrectable. -/
def codeBad (r : BitVec 32) : Bool :=
  match decodeWord r with
  | .marked => true
  | .uncorrectable => true
  | _ => false

/-- The MC error log symbol number of a coefficient position: data symbols 0-31, check symbols 32-35 (R393). -/
def symNumber (pos : Nat) : Nat := if pos < 4 then 32 + pos else pos - 4

/-! ### On-die arrays -/

/-- The island an array lies in (Table 14-5). -/
def arrayIsland (a : Nat) : Nat :=
  if 2 ≤ a ∧ a ≤ 7 then 22
  else if 16 ≤ a ∧ a ≤ 19 then a
  else if a = 20 ∨ a = 21 then a
  else if a = 24 then 24
  else if 32 ≤ a ∧ a ≤ 47 then a - 32
  else if 48 ≤ a ∧ a ≤ 63 then a - 48
  else if 64 ≤ a ∧ a ≤ 79 then a - 64
  else 23

/-- The power domain an array names in a fault record: the CE's and the ST's arrays have one of their own. -/
def arrayDomain (a : Nat) : Nat := if a = 11 then 48 else if a = 12 then 49 else 63

/-- Whether Table 14-5 lists array `a`. -/
def arrayListed (a : Nat) : Bool :=
  decide (a ≤ 13) || (decide (16 ≤ a) && decide (a ≤ 21)) || a == 24 || (decide (32 ≤ a) && decide (a ≤ 79))

/-- The difference stored for a word of an on-die array. -/
def Chip.sram (c : Chip) (a w : Nat) : BitVec 32 := mget 0 c.mem.stitchS (2 ^ 24 * a + w)

/-- Stores the difference of a word of an on-die array. -/
def Chip.setSram (c : Chip) (a w : Nat) (r : BitVec 32) : Chip :=
  { c with mem := { c.mem with stitchS := mset 0 c.mem.stitchS (2 ^ 24 * a + w) r } }

/-- Cleans every word of array `a` (R399). -/
def Chip.zeroArray (c : Chip) (a : Nat) : Chip :=
  { c with mem := { c.mem with stitchS := mclear c.mem.stitchS (2 ^ 24 * a) (2 ^ 24 * (a + 1)) } }

/-- The Mill of index `m`. -/
def Chip.mill (c : Chip) (m : Nat) : Mill := mget Mill.init c.mills m

/-- Replaces Mill `m`. -/
def Chip.setMill (c : Chip) (m : Nat) (x : Mill) : Chip := { c with mills := mset Mill.init c.mills m x }

/-- Flips a data byte of a word of an array that holds bytes: the correction of R386. -/
def Chip.fixSram (c : Chip) (a w k v : Nat) : Chip :=
  let fix (m : Mem) (at_ : Nat) : Mem := mset 0 m at_ (rdByte m at_ ^^^ BitVec.ofNat 8 v)
  if a = 0 then { c with mem := { c.mem with bob := fix c.mem.bob (32 * w + k) } }
  else if 32 ≤ a ∧ a ≤ 47 then
    let x := c.mill (a - 32); c.setMill (a - 32) { x with pond := fix x.pond (32 * w + k) }
  else if 48 ≤ a ∧ a ≤ 63 then
    let x := c.mill (a - 48); c.setMill (a - 48) { x with imem := fix x.imem (32 * w + k) }
  else if 64 ≤ a ∧ a ≤ 79 then
    let x := c.mill (a - 64)
    let t := mget Thread.free x.threads (w / 24)
    let q := w % 24
    let t' := if q < 8 then { t with head := fix t.head (32 * q + k) } else { t with scratch := fix t.scratch (32 * (q - 8) + k) }
    c.setMill (a - 64) { x with threads := mset Thread.free x.threads (w / 24) t' }
  else c

/-- Logs an uncorrectable on-die word unless one not yet read is logged (R401). -/
def Chip.logSram (c : Chip) (now a w source : Nat) (r : BitVec 32) : Chip :=
  if c.flag A.MC_SRAM_ERRLOG F.MC_SRAM_ERRLOG_VALID then c.setFlag A.MC_SRAM_ERRLOG F.MC_SRAM_ERRLOG_OVERRUN true
  else
    let c := ((c.set A.MC_SRAM_ERRLOG F.MC_SRAM_ERRLOG_ARRAY a).set A.MC_SRAM_ERRLOG F.MC_SRAM_ERRLOG_WORD w).set
      A.MC_SRAM_ERRLOG F.MC_SRAM_ERRLOG_SOURCE source
    let c := (c.setFlag A.MC_SRAM_ERRLOG F.MC_SRAM_ERRLOG_VALID true).wr A.MC_SRAM_SYNDROME (BitVec.ofNat 64 (syndromeWord r))
    c.wr A.MC_SRAM_ERRSTAMP (dtWord (stamp now))

/-- A read of word `w` of array `a` by a consumer (R386, R389, R390): whether the word is poisoned, and what the read leaves:
counters, the correction or the mark written back, the log, and the faults. `source` is 0 reader, 1 scrubber, 2 write path. -/
def Chip.readSram (c : Chip) (now a w source slice : Nat) : Bool × Chip :=
  let r := c.sram a w
  let cnt := A.MC_SRAM_ARRAY a
  match decodeWord r with
  | .clean => (false, c)
  | .marked => (true, c.inc (cnt + 16))
  | .corrected pos v =>
    let c := if pos < 4 then c else c.fixSram a w (pos - 4) v
    let c := ((c.setSram a w 0).inc cnt).inc (cnt + 24)
    let (hit, c) := c.storm now Storm.sram (ns 1000000000)
      (fun n => decide (c.get A.MC_SRAM_CFG F.MC_SRAM_CFG_CE_STORM < n))
    (false, if hit then c.raise now Flt.MC_CE_STORM (arrayIsland a) (arrayDomain a) 0 0 else c)
  | .uncorrectable =>
    let c := (((c.logSram now a w source r).setSram a w poisonMark).inc (cnt + 8)).inc (cnt + 24)
    (true, c.raise now Flt.MC_SRAM_UE (arrayIsland a) (arrayDomain a) slice 0)

/-- Reads `n` words of an array from word `w` up; whether any was poisoned. -/
def Chip.readSrams (now a source slice : Nat) : Nat → Nat → Chip → Bool × Chip
  | 0, _, c => (false, c)
  | n + 1, w, c =>
    let (p, c) := c.readSram now a w source slice
    let (q, c) := Chip.readSrams now a source slice n (w + 1) c
    (p || q, c)

/-! ### QDR -/

/-- The channel of word `w` of engine `e` (R394). -/
def qdrChannel (e w : Nat) : Nat := 4 * e + ((w % 4) ^^^ (w / 4 % 4))

/-- The channel word of word `w` (R394). -/
def qdrChannelWord (w : Nat) : Nat := w / 4 % 2 ^ 21

/-- The word of the engine that lies at channel word `cw` of channel `ch` (R394 inverted). -/
def qdrWordOf (ch cw : Nat) : Nat := 4 * cw + ((ch % 4) ^^^ (cw % 4))

/-- The difference stored for channel word `cw` of channel `ch`. -/
def Chip.qres (c : Chip) (ch cw : Nat) : BitVec 32 := mget 0 c.mem.stitchQ (2 ^ 21 * ch + cw)

/-- Stores the difference of a channel word. -/
def Chip.setQres (c : Chip) (ch cw : Nat) (r : BitVec 32) : Chip :=
  { c with mem := { c.mem with stitchQ := mset 0 c.mem.stitchQ (2 ^ 21 * ch + cw) r } }

/-- The byte address of word `w` of engine `e` in `MemSt.qdr`. -/
def qdrByte (e w : Nat) : Nat := 2 ^ 28 * e + 32 * w

/-- Whether channel `ch` serves requests: READY, and its edge and TQ Open (R396, R397). -/
def Chip.qReady (c : Chip) (ch : Nat) : Bool :=
  c.get (A.MC_STATUS ch) F.MC_STATUS_STATE == 2 && (c.bound (32 + ch)).st == 0 && c.open1 22

/-- Whether port `p` of a channel is in service. -/
def Chip.portUp (c : Chip) (ch p : Nat) : Bool :=
  c.flag (A.MC_STATUS ch) (if p = 0 then F.MC_STATUS_PORT_A_UP else F.MC_STATUS_PORT_B_UP)

/-- Whether port `p` of a channel is DISABLED (R397). -/
def Chip.portDisabled (c : Chip) (ch p : Nat) : Bool := mget 0 c.mem.qtrain (2 * ch + p) == 2

/-- The port that serves an access: A when it is in service, else B (R395); where both train, the first of them that is not DISABLED
(entry 122). -/
def Chip.qPort (c : Chip) (ch : Nat) : Nat :=
  if c.portUp ch 0 then 0 else if c.portUp ch 1 then 1 else if c.portDisabled ch 0 then 1 else 0

/-- Takes port `p` of a channel, where it is in service, out of service to train alone (R397). -/
def Chip.portOut (c : Chip) (ch p : Nat) : Chip :=
  if c.portUp ch p then
    let c := c.setFlag (A.MC_STATUS ch) (if p = 0 then F.MC_STATUS_PORT_A_UP else F.MC_STATUS_PORT_B_UP) false
    { c with mem := { c.mem with qtrain := mset 0 c.mem.qtrain (2 * ch + p) 1 } }
  else c

/-- Logs an uncorrectable channel word unless one not yet read is logged (R401). -/
def Chip.logQdr (c : Chip) (now ch cw port source : Nat) (r : BitVec 32) : Chip :=
  let a := A.MC_ERRLOG ch
  if c.flag a F.MC_ERRLOG_VALID then c.setFlag a F.MC_ERRLOG_OVERRUN true
  else
    let c := ((c.set a F.MC_ERRLOG_WORD cw).set a F.MC_ERRLOG_PORT port).set a F.MC_ERRLOG_SOURCE source
    let c := (c.setFlag a F.MC_ERRLOG_VALID true).set a F.MC_ERRLOG_SYNDROME (syndromeWord r)
    c.wr (A.MC_ERRSTAMP ch) (dtWord (stamp now))

/-- A read of channel word `cw` (R386, R389, R390, R397): whether it is poisoned, and what the read leaves. -/
def Chip.readChan (c : Chip) (now ch cw source slice : Nat) : Bool × Chip :=
  let r := c.qres ch cw
  let port := c.qPort ch
  match decodeWord r with
  | .clean => (false, c)
  | .marked => (true, c.inc (A.MC_POISON_SEEN ch))
  | .corrected pos v =>
    let b := qdrByte (ch / 4) (qdrWordOf ch cw) + (pos - 4)
    let c := if pos < 4 then c
      else { c with mem := { c.mem with qdr := mset 0 c.mem.qdr b (rdByte c.mem.qdr b ^^^ BitVec.ofNat 8 v) } }
    let c := (((c.setQres ch cw 0).inc (A.MC_CORRECTED ch)).inc (A.MC_SYM ch (symNumber pos))).inc (A.MC_WRITEBACKS ch)
    let (hit, c) := c.storm now (Storm.channel ch) (ns 1000000000)
      (fun n => decide (c.get (A.MC_CFG ch) F.MC_CFG_CE_STORM < n))
    (false, if hit then (c.raise now Flt.MC_CE_STORM 22 (40 + ch) 0 0).portOut ch port else c)
  | .uncorrectable =>
    let c := (((c.logQdr now ch cw port source r).setQres ch cw poisonMark).inc (A.MC_UNCORRECTED ch)).inc (A.MC_WRITEBACKS ch)
    (true, c.raise now Flt.MC_QDR_UE 22 (40 + ch) slice 0)

/-- The outcome of a QDR access by a table or cipher engine. -/
inductive QdrRead where
  | absent
  | poisoned
  | ok (bytes : List Byte)
  deriving DecidableEq, Repr

/-- Reads word `w` of engine `e` (R190, R394). -/
def Chip.readQdr (c : Chip) (now e w slice : Nat) : QdrRead × Chip :=
  let ch := qdrChannel e w
  if c.qReady ch then
    let (p, c) := c.readChan now ch (qdrChannelWord w) 0 slice
    (if p then .poisoned else .ok (rdBytes c.mem.qdr (qdrByte e w) 32), c)
  else (.absent, c)

/-- Writes the whole of word `w` of engine `e`, replacing any mark (R388). -/
def Chip.writeQdr (c : Chip) (e w : Nat) (bytes : List Byte) : Chip :=
  let c := c.setQres (qdrChannel e w) (qdrChannelWord w) 0
  { c with mem := { c.mem with qdr := wrBytes c.mem.qdr (qdrByte e w) bytes } }

/-- Gives word `w` of engine `e` the poison mark. -/
def Chip.markQdr (c : Chip) (e w : Nat) : Chip := c.setQres (qdrChannel e w) (qdrChannelWord w) poisonMark

end Sys2Proof.Machine
end

