-- ==== Sys2Proof/Machine/Bobbin.lean ====
section
/-! DEFINITION. The Bobbin Pool Manager's shared operations (R223-R242): identifiers, allocation with fallback, references,
charges, bindings, quarantine, and bobbin bytes under the Stitch code. -/

namespace Sys2Proof.Machine

/-- The pool of an identifier (R226). -/
def bobPool (id : Nat) : Nat := id / 2 ^ 21 % 8

/-- The index of an identifier (R226). -/
def bobIndex (id : Nat) : Nat := id % 2 ^ 21

/-- The identifier of bobbin `i` of pool `p`. -/
def bobId (p i : Nat) : Nat := 2 ^ 21 * p + i

/-- A field of BP_POOL(p). -/
def Chip.pool (c : Chip) (p : Nat) (f : Fld) : Nat := c.get (A.BP_POOL p) f

/-- Whether an identifier names a bobbin (R226). -/
def Chip.bobNamed (c : Chip) (id : Nat) : Bool :=
  c.pool (bobPool id) F.BP_POOL_ENABLE == 1 && decide (bobIndex id < c.pool (bobPool id) F.BP_POOL_COUNT)

/-- The state word and metadata slot number of a bobbin (R223). -/
def Chip.bobSlot (c : Chip) (id : Nat) : Nat := c.pool (bobPool id) F.BP_POOL_META_BASE + bobIndex id

/-- The length of a bobbin in bytes. -/
def Chip.bobSize (c : Chip) (id : Nat) : Nat := 256 * c.pool (bobPool id) F.BP_POOL_SIZE

/-- The first byte of a bobbin in bobbin memory (R223). -/
def Chip.bobBase (c : Chip) (id : Nat) : Nat := 256 * c.pool (bobPool id) F.BP_POOL_BASE + bobIndex id * c.bobSize id

/-- A field of a bobbin's state word (Table 8-2). -/
def Chip.bobGet (c : Chip) (id : Nat) (f : Fld) : Nat := c.get (A.BP_STATE (c.bobSlot id)) f

/-- Sets a field of a bobbin's state word. -/
def Chip.bobSet (c : Chip) (id : Nat) (f : Fld) (v : Nat) : Chip := c.set (A.BP_STATE (c.bobSlot id)) f v

/-- The binding key of a packet: its data bobbin. -/
def bindPacket (bob : Nat) : Nat := 2 ^ 25 + bob

/-- The binding key of a thread that holds no packet. -/
def bindThread (m t : Nat) : Nat := 2 ^ 26 + 256 * m + t

/-- The count of BP_POOL word 2 for a state code. -/
def poolCount : Nat → Fld
  | 0 => F.BP_POOL_FREE
  | 1 => F.BP_POOL_HELD
  | 2 => F.BP_POOL_RESERVED
  | _ => F.BP_POOL_QUARANTINED

/-- Moves a bobbin to state `st` and keeps the pool's counts (R241, R244). -/
def Chip.bobMove (c : Chip) (id st : Nat) : Chip :=
  let p := bobPool id
  let old := c.bobGet id F.BP_STATE_STATE
  let c := c.set (A.BP_POOL p) (poolCount old) (c.pool p (poolCount old) - 1)
  let c := c.set (A.BP_POOL p) (poolCount st) (c.pool p (poolCount st) + 1)
  c.bobSet id F.BP_STATE_STATE st

/-- Adds or takes a bobbin's units to or from the occupancy of its charge (R238). -/
def Chip.occupy (c : Chip) (id : Nat) (f : Fld) (up : Bool) : Chip :=
  let port := c.bobGet id F.BP_STATE_CHARGE_PORT
  if port < 16 then
    let a := A.BP_OCC (8 * port + c.bobGet id F.BP_STATE_CHARGE_PRIO)
    let u := c.pool (bobPool id) F.BP_POOL_SIZE
    let c := c.set a f (if up then c.get a f + u else c.get a f - u)
    { c with due := c.due ++ [.occupancy port] }
  else c

/-- Replaces the binding of a bobbin: `key` 0 clears it (R227). -/
def Chip.bobBind (c : Chip) (id key : Nat) : Chip :=
  let m := c.bobSlot id
  let thread := decide (2 ^ 26 ≤ key)
  let shown := if thread then (key / 256 % 16) + 16 * (key % 256) else key % 2 ^ 16
  let c := (c.bobSet id F.BP_STATE_BOUND_THREAD (if thread then 1 else 0)).bobSet id F.BP_STATE_BOUND_ID shown
  { c with bind := mset 0 c.bind m key }

/-- The binding key of a bobbin. -/
def Chip.bobBound (c : Chip) (id : Nat) : Nat := mget 0 c.bind (c.bobSlot id)

/-- Gives back what an ALLOC bobbin counts against its slice's quota (R232, R351). -/
def Chip.quotaBack (c : Chip) (id : Nat) : Chip :=
  let m := c.bobSlot id
  let s := mget 0 c.bobSlice m
  if s = 0 then c else
    let c := c.set (A.SM_SLICE s) F.SM_SLICE_BOBBIN_USED (c.get (A.SM_SLICE s) F.SM_SLICE_BOBBIN_USED - 1)
    { c with bobSlice := mset 0 c.bobSlice m 0, due := c.due ++ [.usage s] }

/-- Removes a bobbin's charge. -/
def Chip.uncharge (c : Chip) (id : Nat) : Chip :=
  let st := c.bobGet id F.BP_STATE_STATE
  let c := if st = 1 then c.occupy id F.BP_OCC_HELD_UNITS false
    else if st = 2 then c.occupy id F.BP_OCC_RESV_UNITS false else c
  (c.bobSet id F.BP_STATE_CHARGE_PORT 31).bobSet id F.BP_STATE_CHARGE_PRIO 0

/-- Whether pool `p` is enabled and its bobbins hold `n` bytes (R229). -/
def Chip.poolFits (c : Chip) (n p : Nat) : Bool :=
  c.pool p F.BP_POOL_ENABLE == 1 && decide (n ≤ 256 * c.pool p F.BP_POOL_SIZE)

/-- A release has occurred in pool `p`: the transmit queues whose descriptor waits for a pool that fits may try again (Table 8-3). -/
def Chip.feedQueues (c : Chip) (p : Nat) : Chip :=
  { c with de := { c.de with qps := c.de.qps.map fun (e : Nat × QpSt) =>
      match e.2.starved with
      | some n => if c.poolFits n p then (e.1, { e.2 with starved := none }) else e
      | none => e } }

/-- A bobbin becomes FREE: charge removed, binding cleared, state word empty (R234). -/
def Chip.bobFree (c : Chip) (id : Nat) : Chip :=
  let c := ((c.uncharge id).quotaBack id).bobMove id 0
  let c := c.bobBind id 0
  (c.wr (A.BP_STATE (c.bobSlot id)) (resetWord (A.BP_STATE (c.bobSlot id)))).feedQueues (bobPool id)

/-- A bobbin leaves every count but QUARANTINED (R241). -/
def Chip.quarantine (c : Chip) (id : Nat) : Chip :=
  let c := ((c.uncharge id).quotaBack id).bobMove id 3
  c.bobBind id 0

/-- The Stitch word of array 1 that holds a bobbin's state word: metadata slots take the first 81,920 words. -/
def Chip.stateWordIndex (c : Chip) (id : Nat) : Nat := 81920 + c.bobSlot id / 4

/-- Reads a bobbin's state word: whether it is poisoned, and its quarantine if it has just been found so (R241). -/
def Chip.readState (c : Chip) (now id : Nat) : Bool × Chip :=
  if c.bobGet id F.BP_STATE_STATE = 3 then (true, c)
  else
    let (p, c) := c.readSram now 1 (c.stateWordIndex id) 0 0
    if p then (true, (c.quarantine id).raise now Flt.BP_STATE_POISON 23 63 0 0) else (false, c)

/-- The Stitch word of array 1 that lists a bobbin while it is FREE: each free-list word lists 16 (entry 198). -/
def Chip.listWordIndex (c : Chip) (id : Nat) : Nat := 92160 + c.bobSlot id / 16

/-- The bobbins of a pool that share a free-list word with bobbin `id`. -/
def Chip.listMates (c : Chip) (id : Nat) : List Nat :=
  ((List.range (c.pool (bobPool id) F.BP_POOL_COUNT)).map (bobId (bobPool id))).filter fun k =>
    c.listWordIndex k == c.listWordIndex id

/-- Reads the free-list word of a FREE bobbin: where it is poisoned every bobbin it lists is quarantined, and it lists none (R241). -/
def Chip.readList (c : Chip) (now id : Nat) : Bool × Chip :=
  let w := c.listWordIndex id
  let (p, c) := c.readSram now 1 w 0 0
  if p then
    let c := (c.listMates id).foldl (fun (c : Chip) k => if c.bobGet k F.BP_STATE_STATE = 0 then c.quarantine k else c) c
    (true, (c.setSram 1 w 0).raise now Flt.BP_STATE_POISON 23 63 0 0)
  else (false, c)

/-! ### Allocation (R229-R231) -/

/-- What a grant makes of a bobbin (R231, Table 8-4, R237, R238). -/
structure Grant where
  reserved : Bool
  owner    : Nat
  pkt      : Bool
  hdr      : Bool
  port     : Nat
  prio     : Nat
  key      : Nat
  quota    : Nat
  deriving DecidableEq, Repr

/-- Takes bobbin `id` from its pool as `g` says. -/
def Chip.grant (c : Chip) (id : Nat) (g : Grant) : Chip :=
  let c := c.bobMove id (if g.reserved then 2 else 1)
  let c := (c.bobSet id F.BP_STATE_OWNER g.owner).bobSet id F.BP_STATE_REF (if g.reserved then 0 else 1)
  let c := (c.bobSet id F.BP_STATE_BREF (if g.reserved then 0 else 1)).bobSet id F.BP_STATE_PKT (if g.pkt then 1 else 0)
  let c := (c.bobSet id F.BP_STATE_HDR (if g.hdr then 1 else 0)).bobSet id F.BP_STATE_CHARGE_PORT g.port
  let c := (c.bobSet id F.BP_STATE_CHARGE_PRIO g.prio).bobBind id g.key
  let c := { c with bobSlice := mset 0 c.bobSlice (c.bobSlot id) g.quota }
  let c := c.occupy id (if g.reserved then F.BP_OCC_RESV_UNITS else F.BP_OCC_HELD_UNITS) true
  let m := c.bobSlot id
  let c := (c.setSram 1 (2 * m) 0).setSram 1 (2 * m + 1) 0
  (List.range 8).foldl (fun c w => c.wr (A.BP_META m w) 0) (c.inc (A.BP_POOL_ALLOCS (bobPool id)))

/-- The FREE bobbin of lowest index from index `k` of pool `p` up whose free-list word and state word are sound (entry 7). -/
def Chip.takeFree (now p : Nat) : Nat → Nat → Chip → Option Nat × Chip
  | 0, _, c => (none, c)
  | n + 1, k, c =>
    let id := bobId p k
    if c.bobGet id F.BP_STATE_STATE = 0 then
      let (bad, c) := c.readList now id
      let (bad', c) := if bad then (true, c) else c.readState now id
      if bad' then Chip.takeFree now p n (k + 1) c else (some id, c)
    else Chip.takeFree now p n (k + 1) c

/-- Whether a pool of number `p` or higher fits (R229). -/
def Chip.laterFits (c : Chip) (n : Nat) : Nat → Nat → Bool
  | 0, _ => false
  | k + 1, p => c.poolFits n p || Chip.laterFits c n k (p + 1)

/-- Tries the pools from `p` up: the grant and whether it fell back, or EMPTY counted at the last pool tried (R229). -/
def Chip.allocLoop (now n : Nat) (g : Grant) : Nat → Nat → Bool → Chip → Option (Nat × Bool) × Chip
  | 0, _, _, c => (none, c)
  | k + 1, p, fell, c =>
    if c.poolFits n p then
      let (got, c) := if c.pool p F.BP_POOL_FREE = 0 then (none, c) else Chip.takeFree now p (c.pool p F.BP_POOL_COUNT) 0 c
      match got with
      | some id => (some (id, fell), c.grant id g)
      | none =>
        if Chip.laterFits c n k (p + 1) then Chip.allocLoop now n g k (p + 1) true (c.inc (A.BP_POOL_FALLBACK p))
        else (none, c.inc (A.BP_POOL_EMPTY p))
    else Chip.allocLoop now n g k (p + 1) fell c

/-- A request for a bobbin of `n` bytes (R229). -/
def Chip.alloc (c : Chip) (now n : Nat) (g : Grant) : Option (Nat × Bool) × Chip := Chip.allocLoop now n g 8 0 false c

/-! ### References (R234-R237) -/

/-- An agent of R233: a system agent, or a tenant agent with its slice and binding key. -/
inductive Agent where
  | system
  | tenant (slice key : Nat)
  deriving DecidableEq, Repr

/-- The slice a fault of an agent is recorded against (R19). -/
def Agent.slice : Agent → Nat
  | .system => 0
  | .tenant s _ => s

/-- Whether check 2 of R234 fails. -/
def Chip.foreign (c : Chip) (id : Nat) : Agent → Bool
  | .system => false
  | .tenant s _ => c.bobGet id F.BP_STATE_OWNER == 0 || c.bobGet id F.BP_STATE_OWNER != s

/-- Whether check 3 of R234 fails. -/
def Chip.unbound (c : Chip) (id : Nat) : Agent → Bool
  | .system => false
  | .tenant _ key => c.bobBound id != key || c.bobGet id F.BP_STATE_BREF == 0

/-- The checks of R234 in order, with their counts, and their faults where `faults` is true (R235, R240). -/
def Chip.bobCheck (c : Chip) (now id : Nat) (ag : Agent) (faults : Bool) : Status × Chip :=
  if !c.bobNamed id then (Code.BAD_ARGUMENT, c)
  else
    let (bad, c) := c.readState now id
    if bad then (Code.POISONED, c)
    else if c.bobGet id F.BP_STATE_STATE ≠ 1 then
      let c := c.inc A.BP_DOUBLE_FREE_COUNT
      (Code.NOT_HELD, if faults then c.raise now Flt.BP_DOUBLE_FREE 23 63 ag.slice 0 else c)
    else if c.foreign id ag then
      let c := c.inc A.BP_FOREIGN_COUNT
      (Code.FOREIGN, if faults then c.raise now Flt.BP_FOREIGN_RELEASE 23 63 ag.slice 0 else c)
    else if c.unbound id ag then (Code.NOT_BOUND, c)
    else (Code.OK, c)

/-- A RELEASE (R234): the status, whether the bobbin became FREE, and REF after it. -/
def Chip.release (c : Chip) (now id : Nat) (ag : Agent) : Status × Bool × Nat × Chip :=
  let (st, c) := c.bobCheck now id ag true
  if st ≠ Code.OK then (st, false, c.bobGet id F.BP_STATE_REF, c)
  else
    let ref := c.bobGet id F.BP_STATE_REF
    let bref := c.bobGet id F.BP_STATE_BREF
    let sys := ag == .system
    if sys && decide (ref ≤ bref) then (Code.NOT_BOUND, false, ref, c)
    else
      let c := c.bobSet id F.BP_STATE_REF (ref - 1)
      let c := if sys then c else c.bobSet id F.BP_STATE_BREF (bref - 1)
      if ref - 1 = 0 then (Code.OK, true, 0, c.bobFree id) else (Code.OK, false, ref - 1, c)

/-- A RELEASE by a system agent, where the answer does not matter. -/
def Chip.drop (c : Chip) (now id : Nat) : Chip := (c.release now id .system).2.2.2

/-- A SHARE (R235): the status, whether the bobbin is now system-owned by it, and REF after it. -/
def Chip.share (c : Chip) (now id toSlice : Nat) (ag : Agent) : Status × Bool × Nat × Chip :=
  let (st, c) := c.bobCheck now id ag false
  if st ≠ Code.OK then (st, false, c.bobGet id F.BP_STATE_REF, c)
  else
    let ref := c.bobGet id F.BP_STATE_REF
    if ref = 255 then (Code.REF_LIMIT, false, ref, c)
    else
      let c := c.bobSet id F.BP_STATE_REF (ref + 1)
      let c := if ag == .system then c else c.bobSet id F.BP_STATE_BREF (c.bobGet id F.BP_STATE_BREF + 1)
      let own := c.bobGet id F.BP_STATE_OWNER
      let turns := decide (toSlice ≠ own) && decide (own ≠ 0)
      let c := if turns then c.bobSet id F.BP_STATE_OWNER 0 else c
      (Code.OK, c.bobGet id F.BP_STATE_OWNER == 0, ref + 1, c)

/-- A bound reference passes to the Traffic Manager: BREF falls by one, REF stays (R236). -/
def Chip.handOver (c : Chip) (now id : Nat) : Chip :=
  let c := (c.readState now id).2
  if c.bobGet id F.BP_STATE_STATE = 1 then c.bobSet id F.BP_STATE_BREF (c.bobGet id F.BP_STATE_BREF - 1) else c

/-- Every reference of a bobbin still bound is released, each counted in BP_BOUND_DROP (R236). -/
def Chip.dropBound (now : Nat) (c : Chip) (id : Nat) : Chip :=
  let c := (c.readState now id).2
  let bref := c.bobGet id F.BP_STATE_BREF
  let ref := c.bobGet id F.BP_STATE_REF
  if c.bobGet id F.BP_STATE_STATE ≠ 1 ∨ bref = 0 then c
  else
    let c := (c.add A.BP_BOUND_DROP bref).bobSet id F.BP_STATE_BREF 0
    let c := c.bobSet id F.BP_STATE_REF (ref - bref)
    if ref - bref = 0 then c.bobFree id else c

/-- The enabled pool and index of state word number `m`, tried from pool `p` up. -/
def Chip.slotOwner (c : Chip) (m : Nat) : Nat → Nat → Option Nat
  | 0, _ => none
  | k + 1, p =>
    let b := c.pool p F.BP_POOL_META_BASE
    if c.pool p F.BP_POOL_ENABLE == 1 && decide (b ≤ m) && decide (m < b + c.pool p F.BP_POOL_COUNT) then some (bobId p (m - b))
    else Chip.slotOwner c m k (p + 1)

/-- The bobbins bound to `key`. -/
def Chip.boundTo (c : Chip) (key : Nat) : List Nat :=
  c.bind.filterMap fun e => if e.2 = key then c.slotOwner e.1 8 0 else none

/-- The release of everything still bound to `key` (R236). -/
def Chip.dropAllBound (c : Chip) (now key : Nat) : Chip := (c.boundTo key).foldl (Chip.dropBound now) c

/-- How many ALLOC bobbins are bound to `key` (R232). -/
def Chip.allocsOf (c : Chip) (key : Nat) : Nat :=
  ((c.boundTo key).filter fun id => c.bobGet id F.BP_STATE_PKT == 0 && c.bobGet id F.BP_STATE_HDR == 0
    && decide (0 < c.bobGet id F.BP_STATE_BREF)).length

/-- A reservation is cancelled (R237). -/
def Chip.cancelResv (c : Chip) (now id : Nat) : Chip :=
  let c := (c.readState now id).2
  if c.bobGet id F.BP_STATE_STATE = 2 then (c.bobFree id).inc A.BP_RESV_CANCEL else c

/-- A reservation becomes the packet's HELD header bobbin; its units move from RESV_UNITS to HELD_UNITS (R237, R238). -/
def Chip.commitResv (c : Chip) (id slice key : Nat) : Chip :=
  let c := (c.occupy id F.BP_OCC_RESV_UNITS false).bobMove id 1
  let c := ((c.bobSet id F.BP_STATE_HDR 1).bobSet id F.BP_STATE_OWNER slice).bobSet id F.BP_STATE_REF 1
  let c := (c.bobSet id F.BP_STATE_BREF 1).bobBind id key
  (c.occupy id F.BP_OCC_HELD_UNITS true).inc A.BP_RESV_COMMIT

/-! ### Bobbin bytes (R225, R388) -/

/-- Writes bytes over whole Stitch words from word boundary `a`, each word clean (R388). -/
def Chip.bobFill (c : Chip) (a : Nat) (bs : List Byte) : Chip :=
  let n := roundUp bs.length 32
  let bs := bs ++ List.replicate (n - bs.length) 0
  let c := (List.range (n / 32)).foldl (fun c k => c.setSram 0 (a / 32 + k) 0) c
  { c with mem := { c.mem with bob := wrBytes c.mem.bob a bs } }

/-- Reads `n` bytes at byte address `a`; whether one lies in a poisoned word. -/
def Chip.bobRead (c : Chip) (now a n slice : Nat) : Bool × List Byte × Chip :=
  let words := if n = 0 then 0 else (a + n - 1) / 32 - a / 32 + 1
  let (p, c) := Chip.readSrams now 0 0 slice words (a / 32) c
  (p, rdBytes c.mem.bob a n, c)

/-- The words of array `arr` from word `base` that `n` bytes at offset `off` only partly cover. -/
def partWords (off n : Nat) : List Nat :=
  if n = 0 then [] else
    let first := off / 32
    let last := (off + n - 1) / 32
    let head := decide (off % 32 ≠ 0) || (decide (first = last) && decide ((off + n) % 32 ≠ 0))
    let tail := decide ((off + n) % 32 ≠ 0) && decide (first ≠ last)
    (if head then [first] else []) ++ (if tail then [last] else [])

/-- The words that `n` bytes at offset `off` cover whole. -/
def wholeWords (off n : Nat) : List Nat :=
  if n = 0 then [] else
    ((List.range ((off + n - 1) / 32 - off / 32 + 1)).map (· + off / 32)).filter fun w => !(memNat w (partWords off n))

/-- Reads the old words of a partial write: whether one is poisoned (R388). -/
def Chip.readParts (now a slice : Nat) : List Nat → Chip → Bool × Chip
  | [], c => (false, c)
  | w :: ws, c =>
    let (p, c) := c.readSram now a w 2 slice
    let (q, c) := Chip.readParts now a slice ws c
    (p || q, c)

/-- A write of bytes at byte address `a` of bobbin memory by an owner that refuses partial writes of marked words: false and no
write where a word only partly covered is poisoned, else the words covered whole lose their marks (R240, R388). -/
def Chip.bobStore (c : Chip) (now a : Nat) (bs : List Byte) (slice : Nat) : Bool × Chip :=
  let (p, c) := Chip.readParts now 0 slice (partWords a bs.length) c
  if p then (false, c)
  else
    let c := (wholeWords a bs.length).foldl (fun c w => c.setSram 0 w 0) c
    (true, { c with mem := { c.mem with bob := wrBytes c.mem.bob a bs } })

end Sys2Proof.Machine
end

