-- ==== Sys2Proof/Machine/Versions.lean ====
section
/-! DEFINITION. Rule versions as packets carry them (R138, R173, R179): their sequence, the stamp of a bank, the counts of packets
in flight. -/

namespace Sys2Proof.Machine

/-- The version after `v` in the sequence that skips 0. -/
def nextVer (v : Nat) : Nat := if v = 65535 then 1 else v + 1

/-- How many versions lie from `v` to `w` in the sequence. -/
def verDist (v w : Nat) : Nat := (w + 65535 - v) % 65535

/-- BUILDING of bank `b`. -/
def Chip.building (c : Chip) (b : Nat) : Nat := c.get (A.CL_BANK_VSTAT b) F.CL_BANK_VSTAT_BUILDING

/-- Whether bank `b` is under scheme V. -/
def Chip.schemeV (c : Chip) (b : Nat) : Bool := c.flag (A.CL_BANK_CFG b) F.CL_BANK_CFG_SCHEME

/-- A field of version slot `k` of bank `b`. -/
def Chip.verGet (c : Chip) (b k : Nat) (f : Fld) : Nat := c.get (A.CL_VER b k) f

/-- The activation time of version slot `k` of bank `b`. -/
def Chip.verT (c : Chip) (b k : Nat) : Nat := ns (c.verGet b k F.CL_VER_T_NS) + c.verGet b k F.CL_VER_T_FRAC

/-- The slot of version `v` of bank `b`, sealed or live. -/
def Chip.verSlot (c : Chip) (b v : Nat) : Option Nat :=
  firstBelow (fun k => c.verGet b k F.CL_VER_STATE != 0 && c.verGet b k F.CL_VER_VERSION == v) 4

/-- The slots of bank `b` in a state. -/
def Chip.verSlots (c : Chip) (b st : Nat) : List Nat := (List.range 4).filter fun k => c.verGet b k F.CL_VER_STATE == st

/-- The oldest live version's slot: the one farthest behind BUILDING. -/
def Chip.oldestLive (c : Chip) (b : Nat) : Option Nat :=
  leastBy (fun k => 65535 - verDist (c.verGet b k F.CL_VER_VERSION) (c.building b)) (c.verSlots b 2)

/-- The version stamp of bank `b` for an ingress stamp (R138, R173): the newest version live, or armed and sealed, whose T is at or
before the stamp; 0 under scheme E or where there is none. -/
def Chip.verOf (c : Chip) (b s : Nat) : Nat :=
  if !c.schemeV b then 0
  else
    let ks := (List.range 4).filter fun k =>
      (c.verGet b k F.CL_VER_STATE == 2 || (c.verGet b k F.CL_VER_STATE == 1 && mget false c.cl.armed (4 * b + k)))
        && decide (c.verT b k ≤ s)
    match leastBy (fun k => verDist (c.verGet b k F.CL_VER_VERSION) (c.building b)) ks with
    | some k => c.verGet b k F.CL_VER_VERSION
    | none => 0

/-- VER0 or VER1 for an ingress stamp: banks `b` to `b + 3`, 16 bits each (Table 3-9). -/
def Chip.verWord (c : Chip) (b s : Nat) : Word :=
  BitVec.ofNat 64 (c.verOf b s + c.verOf (b + 1) s * 2 ^ 16 + c.verOf (b + 2) s * 2 ^ 32 + c.verOf (b + 3) s * 2 ^ 48)

/-- The stamp of bank `b` in a pair of version words. -/
def verIn (v0 v1 : Word) (b : Nat) : Nat := if b < 4 then half v0 b else half v1 (b - 4)

/-- Changes the in-flight counts of the versions a packet is stamped with (R179). -/
def Chip.verFlight (c : Chip) (v0 v1 : Word) (up : Bool) : Chip :=
  (List.range 8).foldl (fun c b =>
    match verIn v0 v1 b, c.verSlot b (verIn v0 v1 b) with
    | 0, _ => c
    | _, none => c
    | _, some k =>
      let n := c.verGet b k F.CL_VER_INFLIGHT
      c.set (A.CL_VER b k) F.CL_VER_INFLIGHT (if up then n + 1 else n - 1)) c

end Sys2Proof.Machine
end

