-- ==== Sys2Proof/Machine/Packets.lean ====
section
/-! DEFINITION. What becomes of a packet when its root thread ends (R154-R158, R236, R237): the verdict's checks, the header
bobbin, default and malformed actions, the hand-over of references, and what waits in the order stage. -/

namespace Sys2Proof.Machine

/-- Packet `pk`. -/
def Chip.pkt (c : Chip) (pk : Nat) : Option Packet := mget none c.disp.pkts pk

/-- Replaces packet `pk`. -/
def Chip.setPkt (c : Chip) (pk : Nat) (p : Option Packet) : Chip :=
  { c with disp := { c.disp with pkts := mset none c.disp.pkts pk p } }

/-- Thread `t` of Mill `m`. -/
def Chip.th (c : Chip) (m t : Nat) : Thread := mget Thread.free (c.mill m).threads t

/-- Replaces thread `t` of Mill `m`. -/
def Chip.setTh (c : Chip) (m t : Nat) (x : Thread) : Chip :=
  let y := c.mill m
  c.setMill m { y with threads := mset Thread.free y.threads t x }

/-- The Stitch words of a thread in array 64 + m: 0-7 its head window, 8-23 its scratch (entry 9). -/
def threadWord (t k : Nat) : Nat := 24 * t + k

/-- How a root thread ended, as far as its packet is concerned (Table 5-5). -/
inductive Ending where
  | verdict (a b : Word)
  | deflt
  | malformed
  | poisoned
  | lost
  deriving DecidableEq, Repr

/-- Whether the reserved bits of verdict word A are 0 (Table 5-3). -/
def wordAOk (a : Word) : Bool := getBits a 28 4 == 0

/-- Whether a verdict with DROP = 0 is valid (R155). -/
def verdictOk (plen : Nat) (a b : Word) : Bool :=
  let lim := min plen 256
  let seg := getBits b 0 3
  let mss := getBits b 32 14
  wordAOk a && getBits b 7 1 == 0 && getBits b 46 18 == 0
    && getBits a 18 2 != 3 && decide (getBits a 32 9 ≤ lim) && decide (getBits a 41 9 ≤ lim)
    && decide (seg ≤ 2) && (seg == 0 || (decide (64 ≤ mss) && decide (mss ≤ 16000)))
    && !(getBits b 5 1 == 1 && getBits b 3 1 == 1)
    && !(decide (getBits a 0 17 < 0x10000) && b != 0)

/-- The address of the default action of a dispatch source (R158). -/
def defaultActAddr (src : Nat) : Nat := if src < 16 then A.PX_DEFAULT_ACT src else A.DE_DEFAULT_ACT (src - 16)

/-- The address of the default counter of a dispatch source. -/
def defaultCountAddr (src : Nat) : Nat := if src < 16 then A.PX_DEFAULT_COUNT src else A.DE_DEFAULT_COUNT (src - 16)

/-- The tentative results of a packet that nothing adopted are discarded, each counted (R150). -/
def Chip.discardTents (c : Chip) (keep : Tent → Bool) : Chip :=
  let gone := (c.disp.tents.filter fun t => !keep t).length
  { (c.add A.MA_PL_DISCARDED gone) with disp := { c.disp with tents := c.disp.tents.filter keep } }

/-- The reservation of a packet, if it still holds one, is cancelled (R152, R237). -/
def Chip.cancelPktResv (c : Chip) (now pk : Nat) : Chip :=
  match c.pkt pk with
  | some p =>
    match p.resv with
    | some id => (c.cancelResv now id).setPkt pk (some { p with resv := none })
    | none => c
  | none => c

/-- The enqueue request of an action word of Table 5-6: no rewrite, no segmentation, the packet's own slice (R158). -/
def actionReq (pk m : Nat) (p : Packet) (act : Word) : EnqReq :=
  { pk := pk, bob := some p.bob, plen := p.plen, hdr := none, cut := 0, new := 0, wordB := 0, queue := getBits act 0 17,
    colour := getBits act 18 2, cls := getBits act 20 8, slice := p.slice, acct := p.slice, src := p.src, txq := p.txq,
    istamp := p.istamp, system := true, mill := m }

/-- Puts a request in the order stage of its Mill (R37). -/
def Chip.hold (c : Chip) (m : Nat) (p : Packet) (r : EnqReq) : Chip :=
  { c with disp := { c.disp with held := c.disp.held ++ [⟨m, p.src, p.txq, p.steer, p.seq, r⟩] } }

/-- A default or malformed action of a packet of Mill `m`: with DROP = 1 nothing is handed over (R158, R236). -/
def Chip.act (c : Chip) (now m pk : Nat) (p : Packet) (act : Word) : Chip :=
  let c := c.billIn p.src p.slice p.frameLen p.istamp
  if getBits act 17 1 = 1 then c else (c.handOver now p.bob).hold m p (actionReq pk m p act)

/-- The default action of the packet's source. -/
def Chip.actDefault (c : Chip) (now m pk : Nat) (p : Packet) : Chip :=
  (c.inc (defaultCountAddr p.src)).act now m pk p (c.rd (defaultActAddr p.src))

/-- Copies head window bytes 0 to n - 1 of a thread into a header bobbin with their poison marks (R156); the last word is
written in part, and keeps a mark it has (R388). -/
def Chip.fillHeader (c : Chip) (now m t n id : Nat) : Chip :=
  let a := c.bobBase id
  (List.range ((n + 31) / 32)).foldl (fun c k =>
    let (p, c) := c.readSram now (64 + m) (threadWord t k) 0 0
    let len := min 32 (n - 32 * k)
    let w := a / 32 + k
    let c := if len = 32 then c.setSram 0 w 0 else (c.readSram now 0 w 2 0).2
    let c := if p then c.setSram 0 w poisonMark else c
    { c with mem := { c.mem with bob := wrBytes c.mem.bob (a + 32 * k) (rdBytes (c.th m t).head (32 * k) len) } }) c

/-- The header bobbin of a verdict with NEW > 0: the packet's reservation, else one of the smallest pool that fits (R156); a
reservation whose state word is poisoned is none (entry 199). -/
def Chip.headerBobbin (c : Chip) (now new : Nat) (p : Packet) : Option Nat × Chip :=
  let take (c : Chip) : Option Nat × Chip :=
    let port := if p.src < 16 then p.src else 31
    let (got, c) := c.alloc now new ⟨false, p.slice, false, true, port, p.prioIn, bindPacket p.bob, 0⟩
    (got.map (·.1), c)
  match p.resv with
  | some id =>
    let (bad, c) := c.readState now id
    if bad then take c else (some id, c.commitResv id p.slice (bindPacket p.bob))
  | none => take c

/-- The billing slice a verdict names (Table 5-3, R436). -/
def acctSlice (p : Packet) (a : Word) : Nat := if getBits a 63 1 = 1 then getBits a 50 13 else p.slice

/-- A valid verdict with DROP = 0 (R154, R156): header bobbin, hand-over of the references, order stage. -/
def Chip.giveVerdict (c : Chip) (now m t pk : Nat) (p : Packet) (a b : Word) : Chip :=
  let new := getBits a 41 9
  let acct := acctSlice p a
  let req (hdr : Option Nat) : EnqReq :=
    { pk := pk, bob := some p.bob, plen := p.plen, hdr := hdr, cut := getBits a 32 9, new := new, wordB := b,
      queue := getBits a 0 17, colour := getBits a 18 2, cls := getBits a 20 8, slice := p.slice, acct := acct,
      src := p.src, txq := p.txq, istamp := p.istamp, system := p.slice == 0, mill := m }
  if new = 0 then
    ((((c.cancelPktResv now pk).inc (A.MA_VERDICT_COUNT m)).billIn p.src acct p.frameLen p.istamp).handOver now p.bob).hold m p (req none)
  else if !c.up 23 then (c.inc (A.MA_FENCE_LOST m)).billIn p.src p.slice p.frameLen p.istamp
  else
    match c.headerBobbin now new p with
    | (none, c) => (c.inc (A.MA_REWRITE_EMPTY m)).actDefault now m pk p
    | (some id, c) =>
      let c := (c.setPkt pk (some { p with resv := none })).fillHeader now m t new id
      ((((c.inc (A.MA_VERDICT_COUNT m)).billIn p.src acct p.frameLen p.istamp).handOver now p.bob).handOver now id).hold m p (req (some id))

/-- The one outcome of a root thread's ending (R157, Table 5-5), before its threads are released. -/
def Chip.endPacket (c : Chip) (now m t pk : Nat) (e : Ending) : Chip :=
  match c.pkt pk with
  | none => c
  | some p =>
    let c := match e with
      | .verdict a b =>
        if getBits a 17 1 = 1 then
          if wordAOk a then
            ((c.inc (A.MA_VERDICT_COUNT m)).inc (A.MA_VERDICT_DROP m)).billIn p.src (acctSlice p a) p.frameLen p.istamp
          else (c.inc (A.MA_BAD_VERDICT m)).actDefault now m pk p
        else if verdictOk p.plen a b then c.giveVerdict now m t pk p a b
        else (c.inc (A.MA_BAD_VERDICT m)).actDefault now m pk p
      | .deflt => c.actDefault now m pk p
      | .malformed => (c.inc (A.MA_MALF_COUNT m)).act now m pk p (c.rd (A.MA_MALF_ACT m))
      | .poisoned => (c.inc (A.MA_POISON_DROP m)).billIn p.src p.slice p.frameLen p.istamp
      | .lost => (c.inc (A.MA_FENCE_LOST m)).billIn p.src p.slice p.frameLen p.istamp
    let c := (c.cancelPktResv now pk).discardTents fun x =>
      x.pk != pk || c.reqs.any fun r => r.pk == some pk && r.chan == x.chan
    match c.pkt pk with
    | some p => c.setPkt pk (some { p with stage := 3 })
    | none => c

/-- Whether a thread of Mill `m` still belongs to packet `pk`. -/
def Chip.pktLive (c : Chip) (m pk : Nat) : Bool := (c.mill m).threads.any fun e => e.2.pk == some pk

/-- Once an ended packet's threads are all FREE: what is still bound to it is released, its versions count one packet
less (R179), and it is gone (R236). -/
def Chip.pktDone (c : Chip) (now m pk : Nat) : Chip :=
  match c.pkt pk with
  | none => c
  | some p =>
    if p.stage = 3 && !c.pktLive m pk then
      ((c.dropAllBound now (bindPacket p.bob)).verFlight p.ver0 p.ver1 false).setPkt pk none
    else c

end Sys2Proof.Machine
end

