-- ==== Sys2Proof/Machine/Threads.lean ====
section
/-! DEFINITION. The shared operations of Mills (spec/03_fecia_isa.md, spec/04_threads_channels.md): core events, the thread
pool, endings, exceptions, forks, channels and credits, engine requests, the stall condition. -/

namespace Sys2Proof.Machine

/-! ### Core counters (R96, R97) -/

/-- Adds the occurrences of core events on the core of thread `t` by a thread of priority `prio` (R96): SUM adds their
number, EDGE adds 1 (entry 10). -/
def Chip.events (c : Chip) (m t prio : Nat) (evs : List Nat) : Chip :=
  (List.range 8).foldl (fun c k =>
    let i := 8 * (t / 16) + k
    let sel := A.MA_CNTSEL m i
    let e := c.get sel F.MA_CNTSEL_EVENT
    let n := (evs.filter (· == e)).length
    if n = 0 ∨ e = 0 ∨ natBits (c.get sel F.MA_CNTSEL_PRIO_MASK) prio 1 = 0 then c
    else c.add (A.MA_CNT m i) (if c.flag sel F.MA_CNTSEL_MODE then 1 else n)) c

/-! ### The pool (R100-R102) -/

/-- Whether half B of Mill `m` is on, so that its pool has 256 threads (R29, R100). -/
def Chip.halfB (c : Chip) (m : Nat) : Bool := c.domOn (3 + 2 * m)

/-- The threads of Mill `m`'s pool. -/
def Chip.poolSize (c : Chip) (m : Nat) : Nat := if c.halfB m then 256 else 128

/-- Whether thread `t` is FREE. -/
def Chip.isFree (c : Chip) (m t : Nat) : Bool := (c.th m t).st == 0

/-- The FREE threads of core `k`. -/
def Chip.freeOnCore (c : Chip) (m k : Nat) : Nat :=
  ((List.range 16).filter fun j => c.isFree m (16 * k + j)).length

/-- The FREE threads of the pool. -/
def Chip.freeCount (c : Chip) (m : Nat) : Nat :=
  c.poolSize m - ((c.mill m).threads.filter fun e => decide (e.1 < c.poolSize m) && e.2.st != 0).length

/-- The lowest FREE thread of core `k`. -/
def Chip.lowestOn (c : Chip) (m k : Nat) : Option Nat := firstFrom (c.isFree m) 16 (16 * k)

/-- The core with the most FREE threads, the lower number at a tie (R102). -/
def Chip.freestCore (c : Chip) (m : Nat) : Option Nat :=
  leastBy (fun k => 16 - c.freeOnCore m k) (List.range (c.poolSize m / 16))

/-- The thread a request takes: the lowest FREE one on its own core, else on the core with the most (R102). -/
def Chip.pickThread (c : Chip) (m : Nat) (own : Option Nat) : Option Nat :=
  match own.bind (c.lowestOn m) with
  | some t => some t
  | none => (c.freestCore m).bind (c.lowestOn m)

/-- Whether a thread waits in forkw. -/
def Thread.forkWait (x : Thread) : Bool :=
  match x.wait with
  | .forkw _ _ _ _ => true
  | _ => false

/-- The threads of Mill `m` that wait in forkw. -/
def Chip.forkWaiters (c : Chip) (m : Nat) : List (Nat × Nat) :=
  ((c.mill m).threads.filter fun e => e.2.forkWait).map fun e => (m, e.1)

/-- The thread a request that does not wait takes: none where every FREE thread goes to a waiter in forkw (R101). -/
def Chip.spareThread (c : Chip) (m : Nat) (own : Option Nat) : Option Nat :=
  if (c.forkWaiters m).length < c.freeCount m then c.pickThread m own else none

/-- Clears the Stitch differences of a thread's head window and scratch. -/
def Chip.cleanWindows (c : Chip) (m t : Nat) : Chip :=
  { c with mem := { c.mem with stitchS := mclear c.mem.stitchS (2 ^ 24 * (64 + m) + threadWord t 0) (2 ^ 24 * (64 + m) + threadWord t 24) } }

/-! ### Endings (R92-R94, R106-R109) -/

/-- Puts a helper's exit status into its parent's join slot (R105). -/
def Chip.tellParent (c : Chip) (m t : Nat) (x : Thread) (abnormal : Bool) (status : Nat) : Chip :=
  if x.root || x.parent == 0xFFFF then c
  else
    let p := c.th m x.parent
    c.setTh m x.parent { p with joins := p.joins.map fun j =>
      if j.filled && !j.ended && j.tid == t then { j with ended := true, abnormal := abnormal, status := status % 2 ^ 16 } else j }

/-- Releases what a FREE thread's binding still holds: its own without a packet, its packet's once the last thread is gone. -/
def Chip.afterFree (c : Chip) (now m t : Nat) (x : Thread) : Chip :=
  match x.pk with
  | some pk => c.pktDone now m pk
  | none => c.dropAllBound now (bindThread m t)

/-- A thread leaves the live states: FREE, or ENDING while engine replies are outstanding (R109). -/
def Chip.retire (c : Chip) (now m t : Nat) (x : Thread) : Chip :=
  let c := (c.events m t x.prio [0x17]).cleanWindows m t
  let c := match x.res with
    | some k => c.setFlag (A.MA_RESIDENT m k) F.MA_RESIDENT_LIVE false
    | none => c
  if x.reqs = 0 then (c.setTh m t Thread.free).afterFree now m t x
  else c.setTh m t { Thread.free with st := 9, reqs := x.reqs, root := x.root, res := x.res, pk := x.pk, pkt := x.pkt, valid := x.valid,
                                      slice := x.slice }

/-- The journal entry and fault of a resident thread's ending (R111). -/
def Chip.residentEnd (c : Chip) (now m t status : Nat) (x : Thread) : Chip :=
  if x.res.isSome then
    (c.journal now { JEvent.base with event := 0x0A, level := 1, island := m, detail := m, a0 := BitVec.ofNat 64 t,
                                       a1 := BitVec.ofNat 64 status }).raise now Flt.MA_RESIDENT_END m 63 0 0
  else c

/-- Ends thread `t` and, as orphans, every live descendant (R106, R108); `fuel` bounds the depth. -/
def Chip.endTree (now m : Nat) : Nat → Nat → Nat → Bool → Chip → Chip
  | 0, _, _, _, c => c
  | n + 1, t, status, abnormal, c =>
    let x := c.th m t
    let kids := (x.joins.filter fun j => j.filled && !j.ended).map (·.tid)
    let c := c.tellParent m t x abnormal status
    let c := kids.foldl (fun c k => (Chip.endTree now m n k Code.ORPHANED true c).inc (A.MA_ORPHAN m)) c
    (c.residentEnd now m t status x).retire now m t x

/-- Ends a thread (R106): the packet of a root thread has its outcome first, then the threads end, then what remains bound is
released (R236). -/
def Chip.endThread (c : Chip) (now m t status : Nat) (abnormal : Bool) (e : Ending) : Chip :=
  let x := c.th m t
  let c := match x.root, x.pk with
    | true, some pk => c.endPacket now m t pk e
    | _, _ => c
  Chip.endTree now m 256 t status abnormal c

/-- What an exception code means for the packet of a root thread (Table 3-11). -/
def exceptionEnding (code : Nat) : Ending :=
  if code = Code.EXC_PKT_BOUND then .malformed
  else if code = Code.POISONED then .poisoned
  else if code = Code.ABSENT then .lost
  else .deflt

/-- An exception of thread `t` at its pc (R92-R94): counted, logged unless a log is unread, and the thread ends. -/
def Chip.exception (c : Chip) (now m t code : Nat) : Chip :=
  let x := c.th m t
  let log := A.MA_EXC_LOG m
  let c := (c.inc (A.MA_EXC_COUNT m)).events m t x.prio [0x18]
  let c := if c.flag log F.MA_EXC_LOG_VALID then c.setFlag log F.MA_EXC_LOG_OVERRUN true
    else
      let c := ((c.set log F.MA_EXC_LOG_PC x.pc).set log F.MA_EXC_LOG_TID t).set log F.MA_EXC_LOG_CODE code
      (c.setFlag log F.MA_EXC_LOG_VALID true).wr (A.MA_EXC_STAMP m) (dtWord (c.stampIn m now))
  c.endThread now m t code true (exceptionEnding code)

/-! ### Issue (R76, R78, R80) -/

/-- Whether Mill `m`'s cores issue: clock running (R464) and no clock change under way (R469). -/
def Chip.issuing (c : Chip) (m : Nat) : Bool := (c.bound m).st != 2 && !(memNat m c.pwr.clkBusy)

/-- Whether thread `t` may issue: ACTIVE, or STEPPING with its instruction still to come (R78, R129). -/
def Thread.ready (x : Thread) : Bool := (x.st == 2 || (x.st == 8 && !x.stepped)) && x.wait == .none

/-- Whether a register waits for a packet data load (R78). -/
def Thread.busyReg (x : Thread) (r : Nat) : Bool := r != 0 && x.loads.any fun l => l.rd == r

/-- Register `gN`; g0 reads as 0 (R66). -/
def Thread.reg (x : Thread) (n : Nat) : Word := if n = 0 then 0 else mget 0 x.g n

/-- Writes `gN`; a write of g0 is discarded (R77). -/
def Thread.setReg (x : Thread) (n : Nat) (v : Word) : Thread := if n = 0 then x else { x with g := mset 0 x.g n v }

/-- The next instruction (R76). -/
def Thread.next (x : Thread) : Thread := { x with pc := (x.pc + 1) % 65536 }

/-- The instruction word at index `pc` of Mill `m` (R98): instruction i lies at byte 4 i, little-endian. -/
def Chip.codeWord (c : Chip) (m pc : Nat) : Nat := leNat (rdBytes (c.mill m).imem (4 * pc) 4)

/-- One instruction of thread `t` (R76, R78, R92), `w` its word: nothing happens unless the thread can issue it; a poisoned fetch ends the
thread. Where another instruction stands at the pc nothing happens (entry 184); where none is listed, or a field that must be 0 holds another
value, the word issued is illegal; else the issue is counted and `k` is its effect. `regs` are the registers it reads or writes. -/
def Chip.issue (c : Chip) (now m t w : Nat) (mbz : Nat) (regs : List Nat) (k : Chip → Chip) : Chip :=
  let x := c.th m t
  let u := c.codeWord m x.pc
  if !c.issuing m || !x.ready || regs.any x.busyReg then c
  else
    let d := if x.st = 8 then c.setTh m t { x with stepped := true } else c
    let (p, d) := d.readSram now (48 + m) (x.pc / 8) 0 0
    if p then (d.raise now Flt.MA_IFETCH_POISON m 63 0 0).exception now m t Code.POISONED
    else if u ≠ w ∧ wordListed u = true then c
    else
      let d := d.events m t x.prio [0x02, 7 - x.prio]
      if u ≠ w ∨ mbz ≠ 0 then d.exception now m t Code.EXC_ILLEGAL else k d

/-- The state code of a thread that waits (Table 4-1). -/
def Wait.code : Wait → Nat
  | .none => 2
  | .recv _ => 3
  | .send _ _ => 4
  | .forkw _ _ _ _ => 5
  | .join _ _ => 6

/-- A thread starts to wait at `s` of its island's replica; a STEPPING thread stays STEPPING (R129). -/
def Thread.block (x : Thread) (s : Nat) (w : Wait) : Thread :=
  { x with wait := w, since := s, st := if x.st = 8 then 8 else w.code }

/-- A wait ends and the thread goes on at the next instruction. -/
def Thread.wake (x : Thread) : Thread := { x with wait := .none, st := if x.st = 8 then 8 else 2 }.next

/-- CS as an instruction leaves it (Table 3-9): status, words received, channel. -/
def csWord (status words chan : Nat) : Word :=
  BitVec.ofNat 64 (status % 2 ^ 16 + words % 16 * 2 ^ 16 + chan % 1024 * 2 ^ 20)

/-! ### Fork (R103-R105) -/

/-- The lowest empty join slot. -/
def Thread.emptySlot (x : Thread) : Option Nat := firstFrom (fun i => !(nth JoinSlot.empty x.joins i).filled) 8 0

/-- Copies the Stitch differences of the parent's head window to the helper's and cleans its scratch (R74, R104). -/
def Chip.copyMarks (c : Chip) (m t h : Nat) : Chip :=
  let c := c.cleanWindows m h
  (List.range 8).foldl (fun c k => c.setSram (64 + m) (threadWord h k) (c.sram (64 + m) (threadWord t k))) c

/-- The helper parent `x` starts at `target`: its general registers `g` and start stamp are those of the fork's issue (R104, R125). -/
def helperOf (start parent target : Nat) (g : SMap Word) (x : Thread) : Thread :=
  { Thread.free with st := 1, g := g, pc := target, head := x.head, prio := x.prio, root := false, pk := x.pk, pkt := x.pkt,
                     valid := x.valid, plen := x.plen, slice := x.slice, istamp := x.istamp, ver0 := x.ver0, ver1 := x.ver1,
                     parent := parent, start := start }

/-- Thread `h` starts as a helper of thread `t`, recorded in join slot `s` (R103, R105): the parent's rd and CS are written. -/
def Chip.startHelper (c : Chip) (m t h s rd target : Nat) (g : SMap Word) (start : Nat) : Chip :=
  let x := c.th m t
  let c := (c.copyMarks m t h).setTh m h (helperOf start t target g x)
  let x := { x with joins := setNth x.joins s { JoinSlot.empty with tid := h, filled := true } }
  let x := { x.setReg rd (BitVec.ofNat 64 (h + 256 * s)) with cs := csWord Code.OK 0 0 }
  (c.setTh m t x).events m t x.prio [0x15]

/-! ### Channels (R112-R118) -/

/-- What channel `ch` of Mill `m` is (Table 4-3). -/
inductive ChanKind where
  | unused
  | local_
  | remote (mill chan : Nat)
  | engine
  | reply
  deriving DecidableEq, Repr

/-- The service channels the engines define, with the request credits each Mill holds on each (R120, R163, R197, R239,
R291, R308, R312). -/
def engineCredits (ch : Nat) : Nat :=
  if 512 ≤ ch ∧ ch ≤ 519 then 8
  else if ch = 528 then 16
  else if 544 ≤ ch ∧ ch ≤ 575 then 8
  else if ch = 576 ∨ ch = 585 then 4
  else if 577 ≤ ch ∧ ch ≤ 584 then 8
  else if 608 ≤ ch ∧ ch ≤ 611 then 8
  else if ch = 624 ∨ ch = 625 then 8
  else if ch = 640 ∨ ch = 641 then 8
  else if ch = 672 ∨ ch = 673 then 8
  else 0

/-- The kind of channel `ch` of Mill `m` (R112, R113). -/
def Chip.chanKind (c : Chip) (m ch : Nat) : ChanKind :=
  if ch < 512 then
    match c.get (A.MA_CHAN m ch) F.MA_CHAN_KIND with
    | 1 => .local_
    | 2 => .remote (c.get (A.MA_CHAN m ch) F.MA_CHAN_TARGET_MILL) (c.get (A.MA_CHAN m ch) F.MA_CHAN_TARGET_CHAN)
    | _ => .unused
  else if engineCredits ch ≠ 0 then .engine
  else if ch = 768 then .reply
  else .unused

/-- The messages channel `ch` of Mill `m` holds. -/
def Chip.queued (c : Chip) (m ch : Nat) : List (Nat × List Word) := mget [] (c.mill m).chans ch

/-- Replaces the messages of a channel. -/
def Chip.setQueued (c : Chip) (m ch : Nat) (q : List (Nat × List Word)) : Chip :=
  let y := c.mill m
  c.setMill m { y with chans := mset [] y.chans ch q }

/-- Whether thread `x` waits in send on LOCAL channel (m', ch'), itself of Mill `m`. -/
def Chip.sendsTo (c : Chip) (m : Nat) (x : Thread) (m' ch' : Nat) : Bool :=
  match x.wait with
  | .send ch _ =>
    match c.chanKind m ch with
    | .local_ => m == m' && ch == ch'
    | .remote a b => a == m' && b == ch'
    | _ => false
  | _ => false

/-- The threads of every Mill blocked in send on LOCAL channel (m', ch'), as (Mill, TID). -/
def Chip.blockedSenders (c : Chip) (m' ch' : Nat) : List (Nat × Nat) :=
  c.mills.flatMap fun e => (e.2.threads.filter fun k => c.sendsTo e.1 k.2 m' ch').map fun k => (e.1, k.1)

/-- The threads of Mill `m` blocked in recv on channel `ch`. -/
def Chip.blockedReceivers (c : Chip) (m ch : Nat) : List Nat :=
  ((c.mill m).threads.filter fun k => k.2.wait == .recv ch).map (·.1)

/-- The slots of LOCAL channel (m, ch) that are empty and whose credits are home (R115): not queued, not in flight towards it,
not on their way back. -/
def Chip.credits (c : Chip) (m ch : Nat) : Nat :=
  c.get (A.MA_CHAN m ch) F.MA_CHAN_DEPTH + 1 - (c.queued m ch).length
    - (c.xmsgs.filter fun x => x.dst == m && x.chan == ch).length
    - (c.xcreds.filter fun x => x.dst == m && x.chan == ch).length

/-- Adds 1 to MSG_EPOCH of Mill `m` (R126). -/
def Chip.epoch (c : Chip) (m : Nat) : Chip :=
  c.set (A.MA_STALL_STATUS m) F.MA_STALL_STATUS_MSG_EPOCH (c.get (A.MA_STALL_STATUS m) F.MA_STALL_STATUS_MSG_EPOCH + 1)

/-- Publishes a message of Mill `m` for LOCAL channel (m', ch'): into its queue, or across the boundary for a REMOTE channel. -/
def Chip.publish (c : Chip) (m m' ch' : Nat) (remote : Bool) (ws : List Word) : Chip :=
  if remote then ({ c with xmsgs := c.xmsgs ++ [XMsg.mk m m' ch' ws] }).epoch m
  else c.setQueued m' ch' (c.queued m' ch' ++ [(16, ws)])

/-- The slot a received message leaves: its credit is home at once, or on its way to the Mill it came from (R115). -/
def Chip.creditBack (c : Chip) (m ch src : Nat) : Chip :=
  if src = 16 then c else ({ c with xcreds := c.xcreds ++ [XCred.mk src m ch] }).epoch m

/-- The inbox after a message (R89): its words, zeros above. -/
def inboxOf (ws : List Word) : List Word := ws ++ List.replicate (8 - ws.length) 0

/-- A thread receives a message of channel `ch` (R117). -/
def Chip.receive (c : Chip) (m t ch : Nat) (ws : List Word) (blocked : Bool) : Chip :=
  let x := c.th m t
  let x := { (if blocked then x.wake else x.next) with inb := inboxOf ws, cs := csWord Code.OK ws.length ch }
  (c.setTh m t x).events m t x.prio [0x11]

/-- The islands or edges that serve an engine channel (Table 4-3). -/
def engineTarget (ch : Nat) : Nat :=
  if ch < 544 then 23 else if ch < 608 then 22 else if ch < 640 then 23 else if ch < 672 then 40 else 41

/-- The one-word reply of status `st` on channel `ch` (Table 4-5). -/
def replyWord (st flags chan value : Nat) : Word :=
  BitVec.ofNat 64 (st % 2 ^ 16 + flags % 2 ^ 8 * 2 ^ 16 + chan % 1024 * 2 ^ 30 + value % 2 ^ 24 * 2 ^ 40)

/-- The requests of Mill `m` that wait in an engine's queue for channel `ch`, each holding a credit (R120). -/
def Chip.engQueued (c : Chip) (m ch : Nat) : Nat := (c.reqs.filter fun r => r.mill == m && r.chan == ch && !r.owed).length

/-- Whether a thread may send an engine request now (R120). -/
def Chip.engCredit (c : Chip) (m ch : Nat) (x : Thread) : Bool :=
  decide (x.reqs < 4) && (decide (c.engQueued m ch < engineCredits ch) || !c.up (engineTarget ch))

/-- The threads of Mill `m` blocked in send on engine channel `ch` that have a credit now (R120). -/
def Chip.ableSenders (c : Chip) (m ch : Nat) : List (Nat × Nat) :=
  (c.mill m).threads.filterMap fun e =>
    match e.2.wait with
    | .send ch' _ => if ch' = ch ∧ c.engCredit m ch e.2 = true then some (m, e.1) else none
    | _ => none

/-- Whether thread `x` of Mill `m`, not blocked, may send an engine request now: senders blocked for the credits come first (R117). -/
def Chip.spareCredit (c : Chip) (m ch : Nat) (x : Thread) : Bool :=
  c.engCredit m ch x
    && (!c.up (engineTarget ch) || decide (c.engQueued m ch + (c.ableSenders m ch).length < engineCredits ch))

/-- Sends an engine request with what the Mill attaches (R119); towards a target that is not up it is answered ABSENT, never
ahead of an ABSENT a fence owes the same thread on the channel (R122, R463). -/
def Chip.request (c : Chip) (now m t ch : Nat) (ws : List Word) : Chip :=
  let x := c.th m t
  let r : EngReq := { mill := m, tid := t, chan := ch, words := ws, pk := x.pk, pkt := x.pkt, valid := x.valid, plen := x.plen,
                      slice := x.slice, istamp := x.istamp, ver0 := x.ver0, ver1 := x.ver1, system := x.slice == 0,
                      sent := stamp now, owed := false }
  let c := (c.setTh m t { x with reqs := x.reqs + 1 }).epoch m
  if c.up (engineTarget ch) then { c with reqs := c.reqs ++ [r] }
  else if c.reqs.any fun q => q.owed && q.mill == m && q.tid == t && q.chan == ch then
    { c with reqs := c.reqs ++ [{ r with owed := true }] }
  else { c with reps := c.reps ++ [EngRep.mk m t ch [replyWord Code.ABSENT 0 ch 0]] }

/-- A send completes without a message: only CS is written (R112, R115, R118). -/
def Thread.sendEnd (x : Thread) (st ch : Nat) (blocked : Bool) : Thread :=
  { (if blocked then x.wake else x.next) with cs := csWord st 0 ch }

/-- A send publishes its words (R115, R116): the thread goes on with CS = OK and the publication is counted. -/
def Chip.sendDone (c : Chip) (m t ch : Nat) (blocked : Bool) : Chip :=
  let x := (c.th m t).sendEnd Code.OK ch blocked
  (c.setTh m t x).events m t x.prio [0x10]

/-- send and sendt on channel `ch` (R112-R120): `wait` is false for sendt. -/
def Chip.send (c : Chip) (now m t ch : Nat) (ws : List Word) (wait : Bool) : Chip :=
  let x := c.th m t
  let fail (st : Nat) : Chip := c.setTh m t (x.sendEnd st ch false)
  let stuck : Chip := if wait then c.setTh m t (x.block (c.stampIn m now) (.send ch ws)) else fail Code.NO_CREDIT
  let give (m' ch' : Nat) (remote : Bool) : Chip :=
    if (c.blockedSenders m' ch').length < c.credits m' ch' then (c.publish m m' ch' remote ws).sendDone m t ch false else stuck
  match c.chanKind m ch with
  | .local_ => give m ch false
  | .remote m' ch' =>
    if !c.open1 m' then fail Code.ABSENT
    else if c.chanKind m' ch' == .local_ && ch' < 512 && c.flag (A.MA_CHAN m' ch') F.MA_CHAN_EXTERNAL then give m' ch' true
    else fail Code.BAD_CHANNEL
  | .engine => if c.spareCredit m ch x then (c.request now m t ch ws).sendDone m t ch false else stuck
  | _ => fail Code.BAD_CHANNEL

/-- recv and recvt on channel `ch` (R112, R117): messages promised to blocked receivers are not this thread's. -/
def Chip.recv (c : Chip) (now m t ch : Nat) (wait : Bool) : Chip :=
  let x := c.th m t
  let empty : Chip := if wait then c.setTh m t (x.block (c.stampIn m now) (.recv ch))
    else c.setTh m t { x.next with cs := csWord Code.NO_MESSAGE 0 ch }
  match c.chanKind m ch with
  | .local_ =>
    let q := c.queued m ch
    let b := (c.blockedReceivers m ch).length
    match q[b]? with
    | some (src, ws) => ((c.setQueued m ch (q.take b ++ q.drop (b + 1))).creditBack m ch src).receive m t ch ws false
    | none => empty
  | .reply =>
    match x.replies with
    | ws :: rest => (c.setTh m t { x with replies := rest }).receive m t ch ws false
    | [] => empty
  | _ => c.setTh m t { x.next with cs := csWord Code.BAD_CHANNEL 0 ch }

/-! ### The stall condition (R124, R126) -/

/-- Whether a thread is live for the detector (R124): not FREE, not waiting in recv on a SERVER channel. -/
def Chip.liveFor (c : Chip) (m : Nat) (x : Thread) : Bool :=
  x.st != 0 && !(match x.wait with
    | .recv ch => decide (ch < 512) && c.flag (A.MA_CHAN m ch) F.MA_CHAN_SERVER
    | _ => false)

/-- Whether a thread counts as blocked (Table 4-1). -/
def Thread.isBlocked (x : Thread) : Bool := decide (3 ≤ x.st) && decide (x.st ≤ 6)

/-- Whether something is on its way to a waiting thread: a message, a credit, a FREE thread, an ended helper. -/
def Chip.wakeable (c : Chip) (m t : Nat) (x : Thread) : Bool :=
  match x.wait with
  | .none => false
  | .recv ch => if ch = 768 then !x.replies.isEmpty || c.reps.any fun r => r.mill == m && r.tid == t
    else !(c.queued m ch).isEmpty || c.xmsgs.any fun q => q.dst == m && q.chan == ch
  | .send ch _ =>
    match c.chanKind m ch with
    | .local_ => decide (0 < c.credits m ch)
    | .remote m' ch' => decide (0 < c.credits m' ch')
    | .engine => c.engCredit m ch x
    | _ => true
  | .forkw _ _ _ _ => decide (0 < c.freeCount m)
  | .join _ s => (nth JoinSlot.empty x.joins s).ended

/-- Whether a thread waits on another Mill (R124). -/
def Chip.waitsOut (c : Chip) (m : Nat) (x : Thread) : Bool :=
  match x.wait with
  | .send ch _ => match c.chanKind m ch with
    | .remote _ _ => true
    | _ => false
  | .recv ch => decide (ch < 512) && c.flag (A.MA_CHAN m ch) F.MA_CHAN_EXTERNAL
  | _ => false

/-- The conditions of R124 other than the one about waits on other Mills (QUIESCENT_EXT of R126). -/
def Chip.quiescent (c : Chip) (m : Nat) : Bool :=
  let ths := (c.mill m).threads
  (ths.any fun e => c.liveFor m e.2)
    && (ths.all fun e => !c.liveFor m e.2 || e.2.isBlocked)
    && (ths.all fun e => !c.liveFor m e.2 || !c.wakeable m e.1 e.2)
    && (ths.all fun e => e.2.reqs == 0)
    && (ths.all fun e => e.2.st != 7 && e.2.st != 8)

/-- The stall condition of R124. -/
def Chip.stalled (c : Chip) (m : Nat) : Bool :=
  c.quiescent m && (c.mill m).threads.all fun e => !c.liveFor m e.2 || !c.waitsOut m e.2

/-- The Mills with a REMOTE channel configured to target channel `ch` of Mill `m` (R126). -/
def Chip.remoteMask (c : Chip) (m ch : Nat) : Nat :=
  (List.range 16).foldl (fun k j =>
    if (List.range 512).any fun i => c.chanKind j i == .remote m ch then k ||| 2 ^ j else k) 0

/-- EXT_MASK of Mill `m` (R126). -/
def Chip.extMask (c : Chip) (m : Nat) : Nat :=
  (c.mill m).threads.foldl (fun k e =>
    if !c.liveFor m e.2 then k else
    match e.2.wait with
    | .send ch _ => match c.chanKind m ch with
      | .remote m' _ => k ||| 2 ^ m'
      | _ => k
    | .recv ch => if ch < 512 ∧ c.flag (A.MA_CHAN m ch) F.MA_CHAN_EXTERNAL = true then k ||| c.remoteMask m ch else k
    | _ => k) 0

/-- Keeps the measurement of Mill `m`: since when the condition holds without a break, nothing where it fails (R124). -/
def Chip.measure (c : Chip) (now m : Nat) : Chip :=
  let y := c.mill m
  let s := if c.stalled m then some (y.stall.getD (c.stampIn m now)) else none
  c.setMill m { y with stall := s }

/-- The thread the detector ends (R125): the latest start stamp among the blocked, the higher TID at a tie. -/
def Chip.youngest (c : Chip) (m : Nat) : Option (Nat × Thread) :=
  (c.mill m).threads.foldl (fun best e =>
    if e.2.isBlocked && c.liveFor m e.2 then
      match best with
      | none => some e
      | some b => if b.2.start ≤ e.2.start then some e else best
    else best) none

end Sys2Proof.Machine
end

