-- ==== Sys2Proof/Machine/FeciaOps.lean ====
section
/-! DEFINITION. The operations Fecia instructions share (R68-R94, R103-R107): register results, memory accesses, branches,
forks, joins and endings. Each takes the word of its instruction, `w`, and
the fields that must be 0 as one number, `mbz`. -/

namespace Sys2Proof.Machine

/-- An instruction that only changes its own thread and goes on: `f` is its effect but for the pc. -/
def Chip.local_ (c : Chip) (now m t w mbz : Nat) (regs : List Nat) (f : Thread → Thread) : Chip :=
  c.issue now m t w mbz regs fun c => c.setTh m t (f (c.th m t)).next

/-- A register ALU instruction (R81, R82). -/
def Chip.alu (c : Chip) (now m t w rd ra rb : Nat) (f : Word → Word → Word) : Chip :=
  c.local_ now m t w 0 [rd, ra, rb] fun x => x.setReg rd (f (x.reg ra) (x.reg rb))

/-- A unary register instruction, whose rb field must be 0 (R81). -/
def Chip.unary (c : Chip) (now m t w rd ra rb : Nat) (f : Word → Word) : Chip :=
  c.local_ now m t w rb [rd, ra] fun x => x.setReg rd (f (x.reg ra))

/-- An immediate instruction (R83). -/
def Chip.immed (c : Chip) (now m t w mbz rd ra : Nat) (f : Word → Word) : Chip :=
  c.local_ now m t w mbz [rd, ra] fun x => x.setReg rd (f (x.reg ra))

/-! ### Memory spaces (R68-R75) -/

/-- The size of a data space for a thread (R70, Table 3-2). -/
def spaceSize (x : Thread) : Nat → Nat
  | 0 => 256
  | 1 => 512
  | 2 => 2097152
  | 3 => if x.valid then x.plen else 0
  | _ => if x.valid then 64 else 0

/-- Checks 1 to 4 of R70 in order; `store` and `atomic` say what the access is. -/
def accessCheck (x : Thread) (sp ea n : Nat) (store atomic : Bool) : Status :=
  let plen := if x.valid then x.plen else 0
  if 5 ≤ sp then Code.EXC_ILLEGAL
  else if (store && decide (3 ≤ sp)) || (atomic && sp != 2) then Code.EXC_SPACE
  else if spaceSize x sp < ea + n then (if sp = 3 then Code.EXC_PKT_BOUND else Code.EXC_SPACE)
  else if (sp == 1 || sp == 2 || sp == 4) && ea % n != 0 then Code.EXC_ALIGN
  else if sp = 0 ∧ plen < ea + n then Code.EXC_PKT_BOUND
  else Code.OK

/-- The array and first word of the Stitch words that hold bytes `ea` to `ea + n - 1` of a space, and their number. -/
def spaceWords (m t sp ea n : Nat) : Nat × Nat × Nat :=
  let cnt := (ea + n - 1) / 32 - ea / 32 + 1
  match sp with
  | 0 => (64 + m, threadWord t (ea / 32), cnt)
  | 1 => (64 + m, threadWord t (8 + ea / 32), cnt)
  | _ => (32 + m, ea / 32, cnt)

/-- The bytes of a thread's own spaces and of the Millpond. -/
def Chip.spaceBytes (c : Chip) (m t sp ea n : Nat) : List Byte :=
  match sp with
  | 0 => rdBytes (c.th m t).head ea n
  | 1 => rdBytes (c.th m t).scratch ea n
  | _ => rdBytes (c.mill m).pond ea n

/-- The metadata words of a thread's packet as bytes (R142). -/
def Chip.metaBytes (c : Chip) (id ea n : Nat) : List Byte :=
  ((ofWords ((List.range 8).map fun w => c.rd (A.BP_META (c.bobSlot id) w))).drop ea).take n

/-- Writes bytes of a space a store reaches. -/
def Chip.spaceStore (c : Chip) (m t sp ea : Nat) (bs : List Byte) : Chip :=
  let x := c.th m t
  match sp with
  | 0 => c.setTh m t { x with head := wrBytes x.head ea bs }
  | 1 => c.setTh m t { x with scratch := wrBytes x.scratch ea bs }
  | _ => let y := c.mill m; c.setMill m { y with pond := wrBytes y.pond ea bs }

/-- A POISONED exception of a data access, with its fault (R74, R94). -/
def Chip.poisonRead (c : Chip) (now m t : Nat) : Chip :=
  (c.raise now Flt.MA_POISON_READ m 63 0 0).exception now m t Code.POISONED

/-- ld (R69, R70, R84). A packet data load is issued here and returns by itself; a fifth one waits. -/
def Chip.load (c : Chip) (now m t w rd ra sp : Nat) (sz : Fin 4) (sx : Bool) (off : BitVec 10) : Chip :=
  if sp = 3 ∧ 4 ≤ (c.th m t).loads.length then c else
  c.issue now m t w (if sx && sz.val == 3 then 1 else 0) [rd, ra] fun c =>
    let x := c.th m t
    let ea := effAddr (x.reg ra) off
    let n := sizeOf_ sz
    let st := accessCheck x sp ea n false false
    let c := if sp = 3 then c.events m t x.prio [0x0C] else c
    if st ≠ Code.OK then c.exception now m t st
    else if sp = 3 then c.setTh m t { x with loads := x.loads ++ [PktLoad.mk rd ea n sx x.pc (x.st == 8)] }.next
    else if sp = 4 then
      let (p, c) := c.readSram now 1 (2 * c.bobSlot x.pkt + ea / 32) 0 0
      if p then c.poisonRead now m t
      else
        let x := c.th m t
        c.setTh m t (x.setReg rd (loadValue false sx (c.metaBytes x.pkt ea n))).next
    else
      let (a, v, k) := spaceWords m t sp ea n
      let (p, c) := Chip.readSrams now a 0 0 k v c
      if p then c.poisonRead now m t
      else
        let x := c.th m t
        c.setTh m t (x.setReg rd (loadValue (netOrder sp) sx (c.spaceBytes m t sp ea n))).next

/-- The oldest outstanding packet data load of a thread returns (R71, R84): its value, POISONED, or ABSENT across a fenced boundary. Loads
take effect in program order, so no later one returns before it. The exception names the load's own instruction (entry 21); what the thread
has issued since then keeps its effects (entry 181). -/
def Chip.loadReturn (c : Chip) (now m t k : Nat) : Chip :=
  let x := c.th m t
  match k, x.loads with
  | 0, l :: rest =>
    let at_ (c : Chip) : Chip := c.setTh m t { c.th m t with pc := l.pc }
    let c := c.setTh m t { x with loads := rest }
    if !c.open1 23 then (at_ c).exception now m t Code.ABSENT
    else
      let (p, bs, c) := c.bobRead now (c.bobBase x.pkt + l.ea) l.n 0
      if p then (at_ c).poisonRead now m t
      else c.setTh m t ((c.th m t).setReg l.rd (loadValue true l.sx bs))
  | _, _ => c

/-- st (R69, R70, R74): a store that covers part of a poisoned word leaves it and raises POISONED. -/
def Chip.store (c : Chip) (now m t w rs ra sp : Nat) (sz : Fin 4) (sx : Bool) (off : BitVec 10) : Chip :=
  c.issue now m t w (if sx then 1 else 0) [rs, ra] fun c =>
    let x := c.th m t
    let ea := effAddr (x.reg ra) off
    let n := sizeOf_ sz
    let st := accessCheck x sp ea n true false
    if st ≠ Code.OK then c.exception now m t st
    else
      let (a, v, k) := spaceWords m t sp ea n
      let (p, c) := Chip.readSrams now a 2 0 k v c
      if p then c.poisonRead now m t
      else
        let c := c.spaceStore m t sp ea (storeBytes (netOrder sp) n (x.reg rs))
        c.setTh m t (c.th m t).next

/-- An atomic of the Millpond (R85): `f old rd rb` is the word stored, or none where none is. -/
def Chip.atomic (c : Chip) (now m t w rd ra rb : Nat) (f : Word → Word → Word → Option Word) : Chip :=
  c.issue now m t w 0 [rd, ra, rb] fun c =>
    let x := c.th m t
    let c := c.events m t x.prio [0x0E]
    let ea := (x.reg ra).toNat
    let st := accessCheck x 2 ea 8 false true
    if st ≠ Code.OK then c.exception now m t st
    else
      let (p, c) := c.readSram now (32 + m) (ea / 32) 0 0
      if p then c.poisonRead now m t
      else
        let old := leWord (rdBytes (c.mill m).pond ea 8)
        let x := c.th m t
        let c := match f old (x.reg rd) (x.reg rb) with
          | some v => c.spaceStore m t 2 ea (leBytes 8 v.toNat)
          | none => c.events m t x.prio [0x0F]
        let x := c.th m t
        c.setTh m t (x.setReg rd old).next

/-! ### Control (R86, R91) -/

/-- A jump: the pc takes a new value and the jump is counted. -/
def Chip.jump (c : Chip) (m t target : Nat) : Chip :=
  let x := c.th m t
  (c.setTh m t { x with pc := target }).events m t x.prio [0x09]

/-- A conditional branch. -/
def Chip.branch (c : Chip) (now m t w ra rb target : Nat) (p : Word → Word → Bool) : Chip :=
  c.issue now m t w 0 [ra, rb] fun c =>
    let x := c.th m t
    if p (x.reg ra) (x.reg rb) then c.jump m t target else c.setTh m t x.next

/-- call (R86). -/
def Chip.call (c : Chip) (now m t w mbz target : Nat) : Chip :=
  c.issue now m t w mbz [] fun c =>
    let x := c.th m t
    if 8 ≤ x.rs.length then c.exception now m t Code.EXC_STACK
    else (c.setTh m t { x with rs := x.rs ++ [(x.pc + 1) % 65536] }).jump m t target

/-- ret (R86). -/
def Chip.ret (c : Chip) (now m t w mbz : Nat) : Chip :=
  c.issue now m t w mbz [] fun c =>
    let x := c.th m t
    match x.rs.getLast? with
    | none => c.exception now m t Code.EXC_STACK
    | some a => (c.setTh m t { x with rs := x.rs.dropLast }).jump m t a

/-- Whether debug is enabled for Mill `m` (R127). -/
def Chip.dbgOn (c : Chip) (m : Nat) : Bool := c.flag (A.MA_DBG_CTRL m) F.MA_DBG_CTRL_ENABLE

/-- brk (R91). -/
def Chip.brk (c : Chip) (now m t w mbz : Nat) : Chip :=
  c.issue now m t w mbz [] fun c =>
    if c.dbgOn m then c.setTh m t { c.th m t with st := 7, brk := true, stepped := false }
    else c.exception now m t Code.EXC_BREAK

/-! ### Special registers (R87, R88) -/

/-- What mfs reads from special register `n`, or none where it is reserved; register 14 is a cycle count, which the model leaves
free (entry 22). -/
def Chip.special (c : Chip) (m t n free : Nat) : Option Word :=
  let x := c.th m t
  let w (v : Nat) : Option Word := some (BitVec.ofNat 64 v)
  match n with
  | 0 => w t
  | 1 => w m
  | 2 => w (t / 16)
  | 3 => w x.prio
  | 4 => w (if x.root then 1 else 0)
  | 5 => w (if x.valid then x.pkt % 2 ^ 24 + 2 ^ 24 else 0)
  | 6 => w (if x.valid then x.plen else 0)
  | 7 => w x.slice
  | 8 => some (dtWord x.istamp)
  | 9 => w (fracOf x.istamp)
  | 10 => some x.ver0
  | 11 => some x.ver1
  | 12 => some x.cs
  | 13 => w x.parent
  | 14 => w free
  | 15 => w x.pc
  | 16 => w x.rs.length
  | _ => none

/-- mfs (R87). -/
def Chip.mfs (c : Chip) (now m t w mbz rd n : Nat) : Chip :=
  c.issue now m t w mbz [rd] fun c =>
    let (v, c) := if n = 14 then c.fresh else (0, c)
    match c.special m t n v with
    | some w => c.setTh m t ((c.th m t).setReg rd w).next
    | none => c.exception now m t Code.EXC_ILLEGAL

/-- mts (R87): only PRIO, up to 3, and CS are written. -/
def Chip.mts (c : Chip) (now m t w mbz n ra : Nat) : Chip :=
  c.issue now m t w mbz [ra] fun c =>
    let x := c.th m t
    let v := x.reg ra
    if n = 3 ∧ v.toNat ≤ 3 then c.setTh m t { x with prio := v.toNat }.next
    else if n = 12 then c.setTh m t { x with cs := BitVec.ofNat 64 (getBits v 0 30) }.next
    else c.exception now m t Code.EXC_ILLEGAL

/-- time (R88), from the replica of the Mill's island. With rd = rb the manual does not say which of the two values stands: it is free (entry 22). -/
def Chip.time (c : Chip) (now m t w mbz rd rb : Nat) : Chip :=
  c.issue now m t w mbz [rd, rb] fun c =>
    if rd = rb then
      let (v, c) := c.fresh
      c.setTh m t ((c.th m t).setReg rd (BitVec.ofNat 64 v)).next
    else
      let x := c.th m t
      let s := c.stampIn m now
      c.setTh m t ((x.setReg rd (dtWord s)).setReg rb (BitVec.ofNat 64 (fracOf s))).next

/-! ### Forks and joins (R103-R107) -/

/-- A fork or join that does not succeed: its result and CS. -/
def Thread.forkFail (x : Thread) (rd : Nat) (v : Word) (st : Nat) : Thread := { (x.setReg rd v).next with cs := csWord st 0 0 }

/-- fork and forkw (R103). -/
def Chip.fork (c : Chip) (now m t w mbz rd target : Nat) (wait : Bool) : Chip :=
  c.issue now m t w mbz [rd] fun c =>
    let x := c.th m t
    match x.emptySlot with
    | none => c.setTh m t (x.forkFail rd 0xFFFF Code.FORK_LIMIT)
    | some s =>
      match c.spareThread m (some (t / 16)) with
      | some h =>
        let c := c.startHelper m t h s rd target x.g (c.stampIn m now)
        c.setTh m t (c.th m t).next
      | none =>
        let c := c.events m t x.prio [0x16]
        if wait then c.setTh m t (x.block (c.stampIn m now) (.forkw rd target x.g (c.stampIn m now)))
        else (c.inc (A.MA_FORK_EMPTY m)).setTh m t (x.forkFail rd 0xFFFF Code.EMPTY)

/-- What a join writes to rd for an ended helper (R107). -/
def joinResult (j : JoinSlot) : Word := BitVec.ofNat 64 (j.status % 2 ^ 16 + (if j.abnormal then 2 ^ 16 else 0))

/-- The parent of ended slot `s` after its join: result, CS, the slot empty (R107). -/
def Thread.joined (x : Thread) (rd s : Nat) : Thread :=
  { x.setReg rd (joinResult (nth JoinSlot.empty x.joins s)) with
      joins := setNth x.joins s JoinSlot.empty, cs := csWord Code.OK 0 0 }

/-- join (R107). -/
def Chip.join (c : Chip) (now m t w mbz rd ra : Nat) : Chip :=
  c.issue now m t w mbz [rd, ra] fun c =>
    let x := c.th m t
    let v := (x.reg ra).toNat
    let s := v / 256 % 8
    let j := nth JoinSlot.empty x.joins s
    if 2048 ≤ v ∨ !j.filled ∨ j.tid ≠ v % 256 then c.setTh m t (x.forkFail rd 0x1FFFF Code.BAD_JOIN)
    else if j.ended then c.setTh m t (x.joined rd s).next
    else c.setTh m t (x.block (c.stampIn m now) (.join rd s))

/-! ### Endings (R90, R106, R154, R157) -/

/-- exit (R106). -/
def Chip.exit (c : Chip) (now m t w mbz ra : Nat) : Chip :=
  c.issue now m t w mbz [ra] fun c => c.endThread now m t (((c.th m t).reg ra).toNat % 2 ^ 16) false .deflt

/-- verd and malf of a root thread; a helper's raises EXC_NOT_ROOT (R90). -/
def Chip.conclude (c : Chip) (now m t w mbz ev : Nat) (regs : List Nat) (e : Thread → Ending) : Chip :=
  c.issue now m t w mbz regs fun c =>
    let x := c.th m t
    let c := c.events m t x.prio [ev]
    if x.root then c.endThread now m t 0 false (e x) else c.exception now m t Code.EXC_NOT_ROOT

end Sys2Proof.Machine
end

