-- ==== Sys2Proof/Machine/MillOps.lean ====
section
/-! DEFINITION. What happens in a Mill without an instruction issuing (R101-R132): starts, wakes, arrivals between Mills and from
engines, time limits, the stall detector, the poll across Mills, and thread debug. -/

namespace Sys2Proof.Machine

/-- Whether thread `t` halts before its first instruction (R129). -/
def Chip.haltNew (c : Chip) (m : Nat) : Bool := c.dbgOn m && c.flag (A.MA_DBG_CTRL m) F.MA_DBG_CTRL_HALT_NEW

/-- A STARTING thread's copy and clear are complete: it may issue, or is HALTED (R67, R129). -/
def Chip.threadStart (c : Chip) (m t : Nat) : Chip :=
  let x := c.th m t
  if x.st = 1 ∧ c.issuing m = true then c.setTh m t { x with st := if c.haltNew m then 7 else 2 } else c

/-- Of some waiting threads of Mills the one served first: highest priority, then longest wait (R101, R117), then lowest number
(entry 7). -/
def Chip.firstServed (c : Chip) (ts : List (Nat × Nat)) : Option (Nat × Nat) :=
  leastBy (fun p => (3 - (c.th p.1 p.2).prio) * 2 ^ 80 + (c.th p.1 p.2).since) ts

/-- A message that waits in channel `ch` goes to a blocked receiver (R117); `t` names the thread for its reply channel 768. -/
def Chip.deliver (c : Chip) (m ch t : Nat) : Chip :=
  if ch = 768 then
    let x := c.th m t
    match x.wait == .recv 768, x.replies with
    | true, ws :: rest => (c.setTh m t { x with replies := rest }).receive m t 768 ws true
    | _, _ => c
  else
    match c.firstServed ((c.blockedReceivers m ch).map fun r => (m, r)), c.queued m ch with
    | some (_, r), (src, ws) :: rest => ((c.setQueued m ch rest).creditBack m ch src).receive m r ch ws true
    | _, _ => c

/-- A free credit of LOCAL channel (m, ch), or of engine channel `ch` for Mill `m`, goes to a blocked sender (R115, R117, R120). -/
def Chip.grantCredit (c : Chip) (now m ch : Nat) : Chip :=
  if ch < 512 then
    if c.chanKind m ch == .local_ && decide (0 < c.credits m ch) then
      match c.firstServed (c.blockedSenders m ch) with
      | some (m', t) =>
        let x := c.th m' t
        match x.wait with
        | .send ch' ws => (c.publish m' m ch (c.chanKind m' ch' != .local_) ws).sendDone m' t ch' true
        | _ => c
      | none => c
    else c
  else
    match c.firstServed (c.ableSenders m ch) with
    | some (_, t) =>
      match (c.th m t).wait with
      | .send _ ws => (c.request now m t ch ws).sendDone m t ch true
      | _ => c
    | none => c

/-- A FREE thread goes to the first of the waiters in forkw (R101, R103). -/
def Chip.grantFork (c : Chip) (m : Nat) : Chip :=
  match c.firstServed (c.forkWaiters m) with
  | none => c
  | some (_, t) =>
    let x := c.th m t
    match x.wait, x.emptySlot, c.pickThread m (some (t / 16)) with
    | .forkw rd target g start, some s, some h =>
      let c := c.startHelper m t h s rd target g start
      c.setTh m t (c.th m t).wake
    | _, _, _ => c

/-- The helper of a blocked join has ended: the joiner goes on (R107). -/
def Chip.joinWake (c : Chip) (m t : Nat) : Chip :=
  let x := c.th m t
  match x.wait with
  | .join rd s => if (nth JoinSlot.empty x.joins s).ended then c.setTh m t ((x.joined rd s).wake) else c
  | _ => c

/-- Whether the wait of a thread is idle work on a SERVER channel (R110, R124). -/
def Chip.idleWait (c : Chip) (m : Nat) (x : Thread) : Bool :=
  match x.wait with
  | .recv ch => decide (ch < 512) && c.flag (A.MA_CHAN m ch) F.MA_CHAN_SERVER
  | _ => false

/-- A wait that has lasted WAIT_LIMIT ends with TIMEOUT (R110). -/
def Chip.waitTimeout (c : Chip) (now m t : Nat) : Chip :=
  let x := c.th m t
  let lim := getBits (c.rd (A.MA_WAIT_CFG m)) 0 32
  if lim = 0 ∨ x.wait = .none ∨ memNat m c.pwr.clkBusy = true ∨ c.idleWait m x = true ∨ c.stampIn m now < x.since + ns lim then c
  else
    let y := match x.wait with
      | .recv ch => { x.wake with cs := csWord Code.TIMEOUT 0 ch }
      | .send ch _ => { x.wake with cs := csWord Code.TIMEOUT 0 ch }
      | .forkw rd _ _ _ => { (x.setReg rd 0xFFFF).wake with cs := csWord Code.TIMEOUT 0 0 }
      | .join rd _ => { (x.setReg rd 0x10006).wake with cs := csWord Code.TIMEOUT 0 0 }
      | .none => x
    (c.inc (A.MA_WAIT_TIMEOUT m)).setTh m t y

/-! ### Between Mills (R113-R115) -/

/-- The first element that passes, and the list without it. -/
def takeFirst {α : Type} (p : α → Bool) : List α → Option (α × List α)
  | [] => none
  | x :: xs => if p x then some (x, xs) else (takeFirst p xs).map fun r => (r.1, x :: r.2)

/-- The oldest message from Mill `src` to Mill `dst` arrives (R113, R114); a fenced Mill loses it (R118). -/
def Chip.remoteArrival (c : Chip) (src dst : Nat) : Chip :=
  match takeFirst (fun x : XMsg => x.src == src && x.dst == dst) c.xmsgs with
  | none => c
  | some (x, rest) =>
    let c := { c with xmsgs := rest }
    if !c.open1 dst then c
    else
      let c := c.epoch dst
      if c.chanKind dst x.chan == .local_ && c.flag (A.MA_CHAN dst x.chan) F.MA_CHAN_EXTERNAL
          && decide ((c.queued dst x.chan).length < c.get (A.MA_CHAN dst x.chan) F.MA_CHAN_DEPTH + 1) then
        c.setQueued dst x.chan (c.queued dst x.chan ++ [(src, x.words)])
      else c.inc (A.MA_CHAN_DISCARD dst)

/-- The oldest credit of Mill `dst`'s channels on its way back to Mill `src` arrives (R115). -/
def Chip.remoteCredit (c : Chip) (src dst : Nat) : Chip :=
  match takeFirst (fun x : XCred => x.src == src && x.dst == dst) c.xcreds with
  | none => c
  | some (_, rest) => ({ c with xcreds := rest }).epoch src

/-- The oldest reply of service channel `ch` for thread `t` arrives in its channel 768, or is discarded in ENDING (R109, R121). A full
reply channel holds 4 replies and takes no other (R120). -/
def Chip.engineReply (c : Chip) (now m t ch : Nat) : Chip :=
  match takeFirst (fun r : EngRep => r.mill == m && r.tid == t && r.chan == ch) c.reps with
  | none => c
  | some (r, rest) =>
    let x := c.th m t
    if x.st ≠ 9 ∧ 4 ≤ x.replies.length then c else
    let c := ({ c with reps := rest }).epoch m
    let x := { x with reqs := x.reqs - 1 }
    if x.st = 9 then
      let c := c.inc (A.MA_REPLY_DISCARD m)
      if x.reqs = 0 then (c.setTh m t Thread.free).afterFree now m t x else c.setTh m t x
    else c.setTh m t { x with replies := x.replies ++ [r.words] }

/-! ### The stall detector (R124-R126) -/

/-- A thread's blocked instruction is withdrawn and the thread HALTED (R128). -/
def Thread.halt (x : Thread) : Thread := { x with wait := .none, st := 7, stepped := false }

/-- HALTED for every live thread of Mill `m`. -/
def Chip.haltAll (c : Chip) (m : Nat) : Chip :=
  let y := c.mill m
  c.setMill m { y with threads := y.threads.map fun e =>
    if e.2.st = 0 ∨ e.2.st = 7 ∨ e.2.st = 9 then e else (e.1, e.2.halt) }

/-- The stall condition has held for STALL_LIMIT: one action (R125). The fence of HALT_MILL follows from the fault. -/
def Chip.stallExpiry (c : Chip) (now m : Nat) : Chip :=
  let lim := c.get (A.MA_STALL_CFG m) F.MA_STALL_CFG_STALL_LIMIT
  match (c.mill m).stall with
  | none => c
  | some since =>
    if c.stampIn m now < since + ns lim ∨ c.stalled m = false ∨ memNat m c.pwr.clkBusy = true then c
    else
      let act := c.get (A.MA_STALL_CFG m) F.MA_STALL_CFG_ACTION
      let c := c.inc (A.MA_STALL_COUNT m)
      if act = 1 then
        let c := c.journal now { JEvent.base with event := 0x0A, level := 1, island := m, detail := m, a1 := 1 }
        let c := (c.haltAll m).setFlag (A.MA_STALL_STATUS m) F.MA_STALL_STATUS_MILL_HALTED true
        c.raise now Flt.MA_MILL_DEADLOCK m 63 0 0
      else
        match c.youngest m with
        | none => c
        | some (t, _) =>
          let c := c.journal now { JEvent.base with event := 0x0A, level := 1, island := m, detail := m, a0 := BitVec.ofNat 64 t, a1 := 0 }
          let c := c.endThread now m t Code.DEADLOCK true .deflt
          c.setMill m { c.mill m with stall := none }

/-- Whether Mill `m` was stopped by HALT_MILL (R125). -/
def Chip.millHalted (c : Chip) (m : Nat) : Bool := c.flag (A.MA_STALL_STATUS m) F.MA_STALL_STATUS_MILL_HALTED

/-- The largest subset of a set of Mills whose EXT_MASKs name only Mills of the subset; `fuel` bounds the rounds. -/
def closedSet (mask : Nat → Nat) : Nat → List Nat → List Nat
  | 0, s => s
  | n + 1, s => closedSet mask n (s.filter fun m => (List.range 16).all fun k => natBits (mask m) k 1 == 0 || memNat k s)

/-- The thread a poll across Mills ends: latest start stamp, then higher Mill, then higher TID (R126). -/
def Chip.youngestOf (c : Chip) (s : List Nat) : Option (Nat × Nat) :=
  (s.foldl (fun best m =>
    match c.youngest m with
    | none => best
    | some (t, x) =>
      match best with
      | none => some (m, t, x.start)
      | some (_, _, b) => if b ≤ x.start then some (m, t, x.start) else best) (none : Option (Nat × Nat × Nat))).map
    fun r => (r.1, r.2.1)

/-- Whether POLL_US microseconds have passed since the last poll across Mills (R126), or time has stepped back since. -/
def Chip.pollDue (c : Chip) (now : Nat) : Bool :=
  match c.cmd.polled with
  | none => true
  | some t => decide (t + ns (1000 * c.get A.MA_XSTALL_CTRL F.MA_XSTALL_CTRL_POLL_US) ≤ stamp now) || decide (stamp now < t)

/-- One poll of every Mill's stall status (R126), at most one per POLL_US. Of the sets that qualify the largest is resolved (entry 23). -/
def Chip.xstallPoll (c : Chip) (now : Nat) : Chip :=
  if !c.flag A.MA_XSTALL_CTRL F.MA_XSTALL_CTRL_ENABLE || !c.pollDue now then c
  else
    let c := { c with cmd := { c.cmd with polled := some (stamp now) } }
    let ep (m : Nat) : Nat := c.get (A.MA_STALL_STATUS m) F.MA_STALL_STATUS_MSG_EPOCH
    let reading (m : Nat) : Option (Bool × Nat) := if c.open1 m then some (c.quiescent m, ep m) else none
    let cand := (List.range 16).filter fun m =>
      !c.millHalted m && (reading m == some (true, ep m)) && ((c.mill m).poll == some (true, ep m))
    let s := closedSet c.extMask 16 cand
    match c.youngestOf s with
    | some (m, t) =>
      let mask := s.foldl (fun k j => k ||| 2 ^ j) 0
      let c := (c.inc A.MA_XSTALL_COUNT).raise now Flt.MA_XMILL_DEADLOCK 31 63 (c.th m t).slice 0
      let c := c.journal now { JEvent.base with event := 0x0A, level := 1, island := m, detail := m,
                                                 a0 := BitVec.ofNat 64 mask, a1 := BitVec.ofNat 64 Code.DEADLOCK }
      let c := c.endThread now m t Code.DEADLOCK true .deflt
      (List.range 16).foldl (fun c j => c.setMill j { c.mill j with poll := none }) c
    | none => (List.range 16).foldl (fun (d : Chip) j => d.setMill j { d.mill j with poll := reading j }) c

/-! ### Debug (R127-R130) -/

/-- A HALTED thread goes on, or steps; one that halted on a brk goes on after it (R129). -/
def Thread.resume (x : Thread) (step : Bool) : Thread :=
  { x with st := if step then 8 else 2, pc := if x.brk then (x.pc + 1) % 65536 else x.pc, brk := false, stepped := false }

/-- A debug operation of MA_Mnn_DBG_CMD (R127-R129). -/
def Chip.debugOp (c : Chip) (now m op t : Nat) : Status × Chip :=
  let x := c.th m t
  if op = 0 ∨ 7 ≤ op then (Code.BAD_ARGUMENT, c)
  else if !c.dbgOn m then (Code.DBG_DISABLED, c)
  else if (op = 2 ∨ op = 3 ∨ op = 6) ∧ c.millHalted m = true then (Code.MILL_STOPPED, c)
  else if op = 5 then (Code.OK, c.haltAll m)
  else if op = 6 then
    let y := c.mill m
    (Code.OK, c.setMill m { y with threads := y.threads.map fun e => if e.2.st = 7 then (e.1, e.2.resume false) else e })
  else if op = 2 ∨ op = 3 then
    if x.st = 7 then (Code.OK, c.setTh m t (x.resume (op == 3))) else (Code.DBG_NOT_HALTED, c)
  else if x.st = 0 ∨ x.st = 9 then (Code.NOT_FOUND, c)
  else if op = 1 then (Code.OK, if x.st = 7 then c else c.setTh m t x.halt)
  else
    let c := c.journal now { JEvent.base with event := 0x0A, level := 1, island := m, detail := m, a0 := BitVec.ofNat 64 t,
                                               a1 := BitVec.ofNat 64 Code.KILLED }
    (Code.OK, c.endThread now m t Code.KILLED true .deflt)

/-- The stepped instruction of a STEPPING thread completes (R129). -/
def Chip.stepComplete (c : Chip) (m t : Nat) : Chip :=
  let x := c.th m t
  if x.st = 8 ∧ x.stepped = true ∧ x.wait = .none ∧ !(x.loads.any (·.step)) then c.setTh m t x.halt else c

/-- What a write of MA_Mnn_DBG_CTRL does beyond storing it: clearing ENABLE resumes halted threads, but in a Mill stopped by
HALT_MILL (R127). -/
def Chip.debugCtrl (c : Chip) (m : Nat) : Chip :=
  if c.dbgOn m || c.millHalted m then c
  else
    let y := c.mill m
    c.setMill m { y with threads := y.threads.map fun e => if e.2.st = 7 then (e.1, e.2.resume false) else e }

/-- A write of MA_Mnn_RESIDENT(k) with START = 1 (R111), after its ENTRY and PRIO are stored. -/
def Chip.residentStart (c : Chip) (now m k : Nat) : Status × Chip :=
  let a := A.MA_RESIDENT m k
  if c.flag a F.MA_RESIDENT_LIVE then (Code.BAD_ARGUMENT, c)
  else
    match c.spareThread m none with
    | none => (Code.EMPTY, c)
    | some t =>
      let x := { Thread.free with st := 1, pc := c.get a F.MA_RESIDENT_ENTRY, prio := c.get a F.MA_RESIDENT_PRIO, res := some k,
                                  start := c.stampIn m now }
      (Code.OK, (((c.cleanWindows m t).setTh m t x).setFlag a F.MA_RESIDENT_LIVE true).set a F.MA_RESIDENT_TID t)

/-- Whether a write of MA_Mnn_CHAN(ch) may take effect: no message held, no thread blocked on it (R114). -/
def Chip.chanFree (c : Chip) (m ch : Nat) : Bool :=
  (c.queued m ch).isEmpty && !(c.mill m).threads.any fun e =>
    match e.2.wait with
    | .recv k => k == ch
    | .send k _ => k == ch
    | _ => false

end Sys2Proof.Machine
end

