-- ==== Sys2Proof/Machine/ClassifierOps.lean ====
section
/-! DEFINITION. The Classifier (spec/06_classifier.md): rule versions, lookups, writes of rules, the pattern engine. -/

namespace Sys2Proof.Machine

/-! ### Versions (R173-R179) -/

/-- Keeps OLDEST, LIVE and SEALED of bank `b`. -/
def Chip.verStat (c : Chip) (b : Nat) : Chip :=
  let a := A.CL_BANK_VSTAT b
  let old := match c.oldestLive b with
    | some k => c.verGet b k F.CL_VER_VERSION
    | none => 0
  ((c.set a F.CL_BANK_VSTAT_OLDEST old).set a F.CL_BANK_VSTAT_LIVE (c.verSlots b 2).length).set a F.CL_BANK_VSTAT_SEALED
    (c.verSlots b 1).length

/-- The checks the Classifier adds for version `v` of bank `b` (R176): `none` where they pass. -/
def Chip.sealCheck (c : Chip) (b v : Nat) : Status :=
  if v ≠ c.building b ∨ !c.schemeV b then Code.BAD_ARGUMENT
  else if 4 ≤ (c.verSlots b 1).length + (c.verSlots b 2).length then Code.VERSIONS_BUSY
  else Code.OK

/-- Whether a live entry's rule version of bank `b` has a T at or after `t` (R53, check 3). -/
def Chip.verOrder (c : Chip) (b t : Nat) : Bool := (c.verSlots b 1).any fun k => decide (t ≤ c.verT b k)

/-- Version `v` of bank `b` is sealed by entry `e` for time `t` (R176); its slot is the first empty one (entry 7). -/
def Chip.sealVer (c : Chip) (b v t e : Nat) : Chip :=
  match firstBelow (fun k => c.verGet b k F.CL_VER_STATE == 0) 4 with
  | none => c
  | some k =>
    let a := A.CL_VER b k
    let c := ((c.set a F.CL_VER_T_NS (dtOf t)).set a F.CL_VER_T_FRAC (fracOf t)).set a F.CL_VER_VERSION v
    let c := (c.set a F.CL_VER_STATE 1).set (A.CL_BANK_VSTAT b) F.CL_BANK_VSTAT_BUILDING (nextVer v)
    let c := { c with cl := { c.cl with verEntry := mset 0 c.cl.verEntry (4 * b + k) (e + 1),
                                         armed := mset false c.cl.armed (4 * b + k) false } }
    c.verStat b

/-- The slots sealed by entry `e`, as (bank, slot). -/
def Chip.sealedBy (c : Chip) (e : Nat) : List (Nat × Nat) :=
  (List.range 8).flatMap fun b => ((c.verSlots b 1).filter fun k => mget 0 c.cl.verEntry (4 * b + k) == e + 1).map fun k => (b, k)

/-- Entry `e` arms: the versions it sealed reach the dispatcher and their banks (R178). -/
def Chip.armVers (c : Chip) (e : Nat) : Chip :=
  (c.sealedBy e).foldl (fun c p => { c with cl := { c.cl with armed := mset false c.cl.armed (4 * p.1 + p.2) true } }) c

/-- Entry `e` ends DONE: its versions are live (R178). -/
def Chip.liveVers (c : Chip) (e : Nat) : Chip :=
  (c.sealedBy e).foldl (fun c p =>
    ({ c.set (A.CL_VER p.1 p.2) F.CL_VER_STATE 2 with
        cl := { c.cl with armed := mset false c.cl.armed (4 * p.1 + p.2) false } }).verStat p.1) c

/-! ### Rule entries (R164, R181) -/

/-- The rules of bank `b` whose control word has VALID = 1, by rule index. -/
def Chip.validRules (c : Chip) (b : Nat) : List Nat :=
  c.regs.filterMap fun e =>
    let lo := A.CL_RULE (8192 * b)
    if lo ≤ e.1 ∧ e.1 < lo + 2 ^ 20 ∧ e.1 % 128 = 96 ∧ getBits e.2 16 1 = 1 then some ((e.1 - lo) / 128) else none

/-- The rules of bank `b` whose control word is not 0, by rule index: a pass writes these, be VALID 1 or 0 (R177, R179). -/
def Chip.ctrlRules (c : Chip) (b : Nat) : List Nat :=
  c.regs.filterMap fun e =>
    let lo := A.CL_RULE (8192 * b)
    if lo ≤ e.1 ∧ e.1 < lo + 2 ^ 20 ∧ e.1 % 128 = 96 then some ((e.1 - lo) / 128) else none

/-- A field of rule `n`. -/
def Chip.rule (c : Chip) (n : Nat) (f : Fld) : Nat := c.get (A.CL_RULE n) f

/-- The first Stitch word of rule `n` in array 8. -/
def ruleWord (n : Nat) : Nat := 4 * n

/-- Whether the Stitch word with the control word of rule `n` is poisoned as it stands. -/
def Chip.ctrlPoisoned (c : Chip) (n : Nat) : Bool :=
  codeBad (c.sram 8 (ruleWord n + 3))

/-- The journal entry of a poisoned rule entry a pass met (R181). -/
def Chip.noteRule (c : Chip) (now n : Nat) : Chip :=
  c.journal now { JEvent.base with event := 0x0D, level := 1, island := 23, detail := 0x0A, a0 := BitVec.ofNat 64 n }

/-- A cancel or a pass clears VALID of rule `n` (R177, R179, R181). -/
def Chip.clearRule (c : Chip) (now n : Nat) : Chip :=
  if c.ctrlPoisoned n then
    let a := A.CL_RULE n
    (((((c.wr (a + 96) 0).wr (a + 104) 0).wr (a + 112) 0).wr (a + 120) 0).setSram 8 (ruleWord n + 3) 0).noteRule now n
  else c.setFlag (A.CL_RULE n) F.CL_RULE_VALID false

/-- A cancel or a pass writes a version field of rule `n` as 0; a poisoned control word is left (R181). -/
def Chip.zeroVer (c : Chip) (now n : Nat) (f : Fld) : Chip :=
  if c.ctrlPoisoned n then c.noteRule now n else c.set (A.CL_RULE n) f 0

/-- A cancelled version `w` that followed another: its rules go, its deletions are undone (R177). -/
def Chip.undoVer (c : Chip) (now b w : Nat) : Chip :=
  (c.ctrlRules b).foldl (fun c r =>
    let n := 8192 * b + r
    let c := if c.rule n F.CL_RULE_VFROM = w then c.clearRule now n else c
    if c.rule n F.CL_RULE_VTO = w then c.zeroVer now n F.CL_RULE_VTO else c) c

/-- Empties version slot `k` of bank `b`. -/
def Chip.dropVer (c : Chip) (b k : Nat) : Chip :=
  let a := A.CL_VER b k
  { (c.wr a 0).wr (a + 8) 0 with
      cl := { c.cl with verEntry := mset 0 c.cl.verEntry (4 * b + k) 0, armed := mset false c.cl.armed (4 * b + k) false } }

/-- The sealed versions of bank `b` that follow `v`, as (slot, version, entry), nearest first. -/
def Chip.sealedAfter (c : Chip) (b v : Nat) : List (Nat × Nat × Nat) :=
  (List.range 4).filterMap fun d =>
    let w := (List.range d).foldl (fun w _ => nextVer w) (nextVer v)
    match c.verSlot b w with
    | some k => if c.verGet b k F.CL_VER_STATE = 1 then some (k, w, mget 0 c.cl.verEntry (4 * b + k) - 1) else none
    | none => none

/-- A sealed version `v` of bank `b` in slot `k` returns to BUILDING; what followed it is undone (R177, R178). -/
def Chip.unsealVer (c : Chip) (now b k v : Nat) : Chip :=
  let after := c.sealedAfter b v
  let c := after.foldl (fun c x => (c.undoVer now b x.2.1).dropVer b x.1) c
  ((c.dropVer b k).set (A.CL_BANK_VSTAT b) F.CL_BANK_VSTAT_BUILDING v).verStat b

/-- The cleaning pass of bank `b` after version `v` retired, its following version being `w` (R179, R181). -/
def Chip.cleanBank (c : Chip) (now b v w : Nat) : Chip :=
  (c.ctrlRules b).foldl (fun c r =>
    let n := 8192 * b + r
    if c.rule n F.CL_RULE_VTO = w then c.clearRule now n
    else if c.rule n F.CL_RULE_VFROM = v then c.zeroVer now n F.CL_RULE_VFROM else c) c

/-! ### Lookups (R163, R165, R167, R168, R174, R181) -/

/-- The 320-bit key of a request, with its slice where the bank inserts it (R163). -/
def lookupKey (ins : Bool) (ws : List Word) (slice : Nat) : Nat :=
  let k := ((List.range 5).map fun i => (nth 0 ws i).toNat * 2 ^ (64 * i)).foldl (· + ·) 0
  if ins then k % 2 ^ 307 + slice % 2 ^ 13 * 2 ^ 307 else k

/-- Whether rule `n` matches a key (R165). -/
def Chip.ruleMatches (c : Chip) (n key : Nat) : Bool :=
  (List.range 5).all fun w =>
    let k : Word := BitVec.ofNat 64 (key / 2 ^ (64 * w))
    (k ^^^ c.rd (A.CL_RULE n + 8 * w)) &&& c.rd (A.CL_RULE n + 40 + 8 * w) == 0

/-- Whether rule `n` of bank `b` is live in version `v` (R173); `bld` is the bank's BUILDING. -/
def Chip.ruleLive (c : Chip) (b n v : Nat) : Bool :=
  if !c.schemeV b then true
  else
    let bld := c.building b
    let vf := c.rule n F.CL_RULE_VFROM
    let vt := c.rule n F.CL_RULE_VTO
    (vf == 0 || decide (verDist v bld ≤ verDist vf bld)) && (vt == 0 || decide (verDist vt bld < verDist v bld))

/-- What a lookup in bank `b` under version `v` finds. -/
inductive Found where
  | hit (rule : Nat)
  | miss
  | poisoned (rule : Nat)
  deriving DecidableEq, Repr

/-- The best of the matching rules: highest PRIORITY, then lowest index (R165). -/
def Chip.bestRule (c : Chip) (b : Nat) (rs : List Nat) : Option Nat :=
  leastBy (fun r => 65535 - c.rule (8192 * b + r) F.CL_RULE_PRIORITY) rs

/-- Reads the Stitch words of the live rules of a bank; the first poisoned rule. -/
def Chip.readRules (now b slice : Nat) : List Nat → Chip → Option Nat × Chip
  | [], c => (none, c)
  | r :: rs, c =>
    let (p, c) := Chip.readSrams now 8 0 slice 4 (ruleWord (8192 * b + r)) c
    if p then (some r, c) else Chip.readRules now b slice rs c

/-- A lookup in bank `b` (R165, R174, R181): what it finds and the version it ran under. -/
def Chip.lookup (c : Chip) (now b ver : Nat) (ws : List Word) (slice : Nat) : Found × Nat × Chip :=
  let v := if c.schemeV b && ver == 0 then c.verOf b (c.mrNow now) else if c.schemeV b then ver else 0
  if c.schemeV b && v == 0 then (.miss, 0, c)
  else
    let live := (c.validRules b).filter fun r => c.ruleLive b (8192 * b + r) v
    let (bad, c) := Chip.readRules now b slice live c
    match bad with
    | some r => (.poisoned r, v, c)
    | none =>
      let key := lookupKey (c.flag (A.CL_BANK_CFG b) F.CL_BANK_CFG_INSERT_SLICE) ws slice
      match c.bestRule b (live.filter fun r => c.ruleMatches (8192 * b + r) key) with
      | some r => (.hit r, v, c)
      | none => (.miss, v, c)

/-- Word 0 of a LOOKUP reply (Table 6-3). -/
def lookupWord (st b rule : Nat) : Word := replyWord st b (512 + b) (rule % 2 ^ 13)

/-- A LOOKUP request of 1 to 5 words that is not tentative: its reply, and the counts (R167, R168, R181). -/
def Chip.lookupReply (c : Chip) (now b ver : Nat) (ws : List Word) (slice : Nat) : List Word × Chip :=
  let (f, v, c) := c.lookup now b ver ws slice
  let c := c.inc (A.CL_BANK_LOOKUPS b)
  let vw := BitVec.ofNat 64 v
  match f with
  | .hit r =>
    let n := 8192 * b + r
    ([lookupWord Code.OK b r, c.rd (A.CL_RULE n + 80), c.rd (A.CL_RULE n + 88), vw], c.inc (A.CL_RULE_HITS n))
  | .miss => ([lookupWord Code.NOT_FOUND b 0, c.rd (A.CL_BANK_MISS b), 0, vw], c.inc (A.CL_BANK_MISSES b))
  | .poisoned r =>
    ([lookupWord Code.POISONED b 0, 0, 0, vw], c.raise now Flt.CL_RULE_POISON 23 63 slice (BitVec.ofNat 64 (8192 * b + r)))

/-- A LOOKUP request on a channel of a rule bank, under the version stamp its sender carries (R165, R174). One of a length that Table 6-1
does not give is no lookup (R162). -/
def Chip.lookupServe (c : Chip) (now : Nat) (r : EngReq) : List Word × Chip :=
  if r.words.length = 0 ∨ 5 < r.words.length then ([lookupWord Code.BAD_ARGUMENT (r.chan - 512) 0, 0, 0, 0], c)
  else c.lookupReply now (r.chan - 512) (verIn r.ver0 r.ver1 (r.chan - 512)) r.words r.slice

/-- A tentative LOOKUP reply that stands is delivered, and the counters of R168 are updated (R180); a POISONED one is found afresh. -/
def Chip.lookupTaken (c : Chip) (now : Nat) (r : EngReq) (reply : List Word) : List Word × Chip :=
  let b := r.chan - 512
  let w := nth 0 reply 0
  if getBits w 0 16 = Code.OK then (reply, (c.inc (A.CL_BANK_LOOKUPS b)).inc (A.CL_RULE_HITS (8192 * b + getBits w 40 13)))
  else if getBits w 0 16 = Code.NOT_FOUND then (reply, (c.inc (A.CL_BANK_LOOKUPS b)).inc (A.CL_BANK_MISSES b))
  else c.lookupServe now r

/-! ### Writes of rules and banks (R170, R171, R175, R181) -/

/-- Whether a write of words `ws` (index, value) to rule `n` may be made under the bank's scheme (R171, R175). -/
def Chip.ruleWriteCheck (c : Chip) (n : Nat) (ws : List (Nat × Word)) : Status :=
  let b := n / 8192
  let valid := c.rule n F.CL_RULE_VALID == 1
  let bld := c.building b
  let ctl := c.rd (A.CL_RULE n + 96)
  let vto (w : Word) : Nat := getBits w 48 16
  let vfrom (w : Word) : Nat := getBits w 32 16
  let isFree := !valid || c.rule n F.CL_RULE_VFROM == bld
  if !c.schemeV b then
    if valid && ws.any (fun w => decide (w.1 ≤ 11)) then Code.RULE_LIVE else Code.OK
  else if ws.any (fun w => w.1 == 12 && getBits w.2 16 1 == 1 && isFree && vfrom w.2 != bld) then Code.BAD_ARGUMENT
  else if ws.any (fun w => w.1 == 12 && (getBits w.2 16 1 == 1 || !isFree) && vto w.2 != 0 && vto w.2 != bld) then Code.BAD_ARGUMENT
  else if ws.any (fun w => w.1 == 12 && !isFree && vfrom w.2 != vfrom ctl) then Code.BAD_ARGUMENT
  else if isFree then Code.OK
  else if ws.any (fun w => w.1 == 12) && ws.all (fun w => decide (13 ≤ w.1) || (w.1 == 12 && getBits (w.2 ^^^ ctl) 0 17 == 0)) then
    (if ws.any fun w => w.1 == 12 && vto w.2 != bld && !(vto ctl == bld && vto w.2 == 0) then Code.RULE_LIVE else Code.OK)
  else Code.RULE_LIVE

/-- The Stitch words of rule `n` a write of words `ws` covers, and whether it covers one of them whole. -/
def ruleParts (ws : List (Nat × Word)) : List Nat := (List.range 4).filter fun k => ws.any fun w => w.1 / 4 == k

/-- A PUT or FILL has been written to rule `n`: its bank's tentative lookups no longer stand (R180). -/
def Chip.ruleWritten (c : Chip) (n : Nat) : Chip :=
  { c with cl := { c.cl with gens := mset 0 c.cl.gens (n / 8192) (mget 0 c.cl.gens (n / 8192) + 1) } }

/-- A PUT or FILL of words of rule `n` (R171, R175, R181). -/
def Chip.ruleWrite (c : Chip) (now n : Nat) (ws : List (Nat × Word)) : Status × Chip :=
  let whole := (List.range 13).all fun i => ws.any fun w => w.1 == i
  let poisoned := (List.range 4).any fun k => codeBad (c.sram 8 (ruleWord n + k))
  let store (c : Chip) : Chip := ws.foldl (fun (c : Chip) w =>
    c.wr (A.CL_RULE n + 8 * w.1) (if w.1 = 10 then BitVec.ofNat 64 (getBits w.2 0 30)
      else if w.1 = 12 then w.2 &&& 0xFFFFFFFF0001FFFF else if 13 ≤ w.1 then 0 else w.2)) (c.ruleWritten n)
  if ws.any fun w => w.1 == 10 && getBits w.2 8 2 == 3 then (Code.BAD_ARGUMENT, c)
  else if poisoned then
    if whole then
      let c := (List.range 4).foldl (fun c k => c.setSram 8 (ruleWord n + k) 0) (store c)
      (Code.OK, c.noteRule now n)
    else
      let (_, c) := Chip.readSrams now 8 2 0 4 (ruleWord n) c
      (Code.POISONED, c)
  else
    let st := c.ruleWriteCheck n ws
    if st ≠ Code.OK then (st, c) else (Code.OK, store c)

/-- A write of CL_BANK_CFG(b) that changes SCHEME (R170): refused with BANK_BUSY, or the version state cleared. `sat` says whether a
RULE_VERSION action of the bank is PENDING or ARMED. -/
def Chip.schemeWrite (c : Chip) (b : Nat) (v : Word) : Status × Chip :=
  let a := A.CL_BANK_CFG b
  if getBits v 0 1 = c.get a F.CL_BANK_CFG_SCHEME then (Code.OK, c.wr a (BitVec.ofNat 64 (getBits v 0 2)))
  else if !(c.validRules b).isEmpty || !(c.verSlots b 1).isEmpty then (Code.BANK_BUSY, c)
  else
    let c := (List.range 4).foldl (fun c k => c.dropVer b k) (c.wr a (BitVec.ofNat 64 (getBits v 0 2)))
    (Code.OK, (c.wr (A.CL_BANK_VSTAT b) (resetWord (A.CL_BANK_VSTAT b))))

/-! ### The pattern engine (R182-R187) -/

/-- The slot active at stamp `s` (R184). -/
def Chip.peActive (c : Chip) (s : Nat) : Nat :=
  if (c.cl.swaps.filter fun t => decide (t ≤ s)).length % 2 = 0 then c.cl.peOld else 1 - c.cl.peOld

/-- Whether slot `s` is READY. -/
def Chip.peReady (c : Chip) (s : Nat) : Bool := c.get (A.CL_PE_SLOT s) F.CL_PE_SLOT_PATTERNS != 0

/-- The first Stitch word of pricking slot `s` in array 9. -/
def peWord (s : Nat) : Nat := 24576 * s

/-- The words of slot `s` marked or uncorrectable. -/
def Chip.pePoisoned (c : Chip) (s : Nat) : List Nat :=
  c.mem.stitchS.filterMap fun e =>
    let lo := 2 ^ 24 * 9 + peWord s
    if lo ≤ e.1 ∧ e.1 < lo + 24576 then
      match decodeWord e.2 with
      | .marked => some (e.1 - 2 ^ 24 * 9)
      | .uncorrectable => some (e.1 - 2 ^ 24 * 9)
      | _ => none
    else none

/-! #### Matches (R186) -/

/-- A byte with ASCII letters in one case. -/
def foldCase (b : Byte) : Byte := if 0x41 ≤ b.toNat ∧ b.toNat ≤ 0x5A then b + 0x20 else b

/-- Whether a pattern has a form that a pricking may hold: 1 to 64 bytes, identifier and tag of 16 bits. -/
def patternOk (p : Config.Pattern) : Bool :=
  !p.bytes.isEmpty && decide (p.bytes.length ≤ 64) && decide (p.id < 65536) && decide (p.tag < 65536)

/-- Whether pattern `p` matches the bytes `bs` of the range from packet offset `start` with its last byte just before `fin`. -/
def patternEnds (p : Config.Pattern) (bs : List Byte) (start fin : Nat) : Bool :=
  let at_ := fin - p.bytes.length
  let same (x y : Byte) : Bool := if p.fold then foldCase x == foldCase y else x == y
  decide (start + p.bytes.length ≤ fin)
    && (match p.window with
        | some (lo, hi) => decide (lo ≤ at_) && decide (at_ ≤ hi)
        | none => true)
    && (List.range p.bytes.length).all fun i => same (nth 0 p.bytes i) (nth 0 bs (at_ - start + i))

/-- Puts a pattern into a list that rises by identifier. -/
def insertPattern (p : Config.Pattern) : List Config.Pattern → List Config.Pattern
  | [] => [p]
  | q :: qs => if q.id ≤ p.id then q :: insertPattern p qs else p :: q :: qs

/-- The patterns of slot `s` by rising identifier. -/
def Chip.patterns (c : Chip) (s : Nat) : List Config.Pattern :=
  ((Config.pricking (mget [] c.cl.img s)).filter patternOk).foldl (fun ps p => insertPattern p ps) []

/-- The matches in the bytes `bs` from packet offset `start`, as (END, pattern), by rising END and then identifier. -/
def matchesIn (ps : List Config.Pattern) (bs : List Byte) (start : Nat) : List (Nat × Config.Pattern) :=
  (List.range bs.length).flatMap fun k => (ps.filter fun p => patternEnds p bs start (start + k + 1)).map fun p => (start + k + 1, p)

/-- With FIRST the matches at the smallest END alone. -/
def firstOnly (first : Bool) (ms : List (Nat × Config.Pattern)) : List (Nat × Config.Pattern) :=
  match first, ms with
  | true, m :: _ => ms.filter fun x => x.1 == m.1
  | _, _ => ms

/-- A match word (Table 6-7). -/
def matchWord (m : Nat × Config.Pattern) : Word :=
  BitVec.ofNat 64 (m.2.id + m.2.tag * 2 ^ 16 + m.1 % 65536 * 2 ^ 32)

/-- The end of the range of a SCAN word before MAX_DEPTH shortens it (R185). -/
def scanEnd0 (w : Word) (plen : Nat) : Nat :=
  min (if getBits w 16 16 = 0 then plen else getBits w 0 16 + getBits w 16 16) plen

/-- The bytes a SCAN request reads: E - START, after MAX_DEPTH (R185). -/
def Chip.scanLen (c : Chip) (w : Word) (plen : Nat) : Nat :=
  min (scanEnd0 w plen) (c.get A.CL_PE_CFG F.CL_PE_CFG_MAX_DEPTH) - getBits w 0 16

/-- The counters of a scan that is not tentative (R187). -/
def Chip.scanCount (c : Chip) (len n : Nat) : Chip :=
  ((c.inc A.CL_PE_SCANS).add A.CL_PE_BYTES len).add A.CL_PE_MATCHES n

/-- A SCAN request that is not tentative (R185-R187): its reply, and the counts. A request that finds no pricking scans nothing
(entry 194). -/
def Chip.scan (c : Chip) (now : Nat) (ws : List Word) (r : EngReq) : List Word × Chip :=
  let w := nth 0 ws 0
  let start := getBits w 0 16
  let reply (st flags cnt slot : Nat) : Word := replyWord st flags 528 (cnt % 2 ^ 16 + slot * 2 ^ 16)
  if ws.length ≠ 1 ∨ !r.valid ∨ getBits w 33 31 ≠ 0 ∨ r.plen ≤ start then ([reply Code.BAD_ARGUMENT 0 0 0], c)
  else
    let len := c.scanLen w r.plen
    let fl := if c.get A.CL_PE_CFG F.CL_PE_CFG_MAX_DEPTH < scanEnd0 w r.plen then 2 else 0
    let slot := c.peActive r.istamp
    let (bad, bs, c) := if len = 0 then (false, [], c) else c.bobRead now (c.bobBase r.pkt + start) len r.slice
    let (f, c) := c.fresh
    let pw := c.pePoisoned slot
    let pbad := c.peReady slot && len != 0 && !pw.isEmpty && decide (f % 2 = 1)
    if bad then ([reply Code.POISONED fl 0 slot], c.scanCount len 0)
    else if pbad then
      let (_, c) := c.readSram now 9 (nth 0 pw 0) 0 r.slice
      ([reply Code.POISONED fl 0 slot], (c.scanCount len 0).raise now Flt.CL_PRICKING_POISON 23 63 r.slice 0)
    else if !c.peReady slot then ([reply Code.NO_PRICKING fl 0 slot], c)
    else
      let ms := firstOnly (getBits w 32 1 == 1) (matchesIn (c.patterns slot) bs start)
      let n := min 65535 ms.length
      (reply Code.OK (fl + if 7 < n then 1 else 0) n slot :: (ms.take 7).map matchWord, c.scanCount len n)

/-- A tentative SCAN reply that stands is delivered and counted (R149, R187); one that found poison or no pricking is found afresh. -/
def Chip.scanTaken (c : Chip) (now : Nat) (r : EngReq) (reply : List Word) : List Word × Chip :=
  let w := nth 0 reply 0
  if getBits w 0 16 = Code.OK then (reply, c.scanCount (c.scanLen (nth 0 r.words 0) r.plen) (getBits w 40 16))
  else c.scan now r.words r

end Sys2Proof.Machine
end

