-- ==== Sys2Proof/Machine/DispatchOps.lean ====
section
/-! DEFINITION. The dispatcher, Prelook and the order stage (R29, R35-R38, R135-R152). -/

namespace Sys2Proof.Machine

/-! ### Steering (R135-R137) -/

/-- The first bytes of a packet's data space, 256 at most. -/
def Chip.headOf (c : Chip) (p : Packet) : List Byte := rdBytes c.mem.bob (c.bobBase p.bob) (min p.plen 256)

/-- The class and type of the station option while the pre-parser searches for it (R144). -/
def Chip.stnOpt (c : Chip) : Option (Nat × Nat) :=
  if c.flag A.MA_STN_OPT F.MA_STN_OPT_ENABLE then
    some (c.get A.MA_STN_OPT F.MA_STN_OPT_CLASS, c.get A.MA_STN_OPT F.MA_STN_OPT_TYPE)
  else none

/-- What a packet's profile and steering entry give it. -/
structure Steered where
  profile : Nat
  hash    : Nat
  steer   : Nat
  mill    : Nat
  entry   : Nat
  prio    : Nat
  valid   : Bool
  slice   : Nat
  deriving DecidableEq, Repr

/-- The profile and the steering entry a packet reads, whole, for its stamp (R135-R137). -/
def Chip.steer (c : Chip) (p : Packet) : Steered :=
  let k := if p.src < 16 then c.get (A.MA_SRC_PORT p.src) F.MA_SRC_PORT_PROFILE else p.profile
  let pr (f : Fld) : Nat := c.getAt p.istamp (A.MA_PROFILE k) f
  let bs := c.headOf p
  let h := steerHash bs (preParse bs p.plen none) (pr F.MA_PROFILE_HASH_SEL) (pr F.MA_PROFILE_SYM == 1) (pr F.MA_PROFILE_SEED)
  let n := (pr F.MA_PROFILE_BASE + h % 2 ^ pr F.MA_PROFILE_SIZE_LOG2) % 4096
  let st (f : Fld) : Nat := c.getAt p.istamp (A.MA_STEER n) f
  { profile := k, hash := h, steer := n, mill := st F.MA_STEER_MILL, entry := st F.MA_STEER_ENTRY, prio := st F.MA_STEER_PRIO,
    valid := st F.MA_STEER_VALID == 1, slice := if p.src < 16 then st F.MA_STEER_SLICE else p.slice }

/-- MA_STEER_GEN for stamp `s` (R137): the changes by PUT and the keyed changes to steering whose T is at or before it. -/
def Chip.steerGen (c : Chip) (s : Nat) : Nat :=
  (c.get A.MA_STEER_GEN F.MA_STEER_GEN_GEN + (c.ft.steerTs.filter fun t => decide (t ≤ s)).length) % 2 ^ 32

/-- The Mill that serves a packet steered to Mill `m`: itself, or the next one of its side that is not fenced (R29). -/
def Chip.servingMill (c : Chip) (m : Nat) : Option Nat :=
  ((List.range 8).map fun k => m / 8 * 8 + (m + k) % 8).find? c.open1

/-! ### Dispatch (R35, R138, R140) -/

/-- The dispatch queue of Mill `m`. -/
def Chip.dq (c : Chip) (m : Nat) : List Nat := mget [] c.disp.queues m

/-- Replaces the dispatch queue of Mill `m`. -/
def Chip.setDq (c : Chip) (m : Nat) (q : List Nat) : Chip :=
  { c with disp := { c.disp with queues := mset [] c.disp.queues m q } }

/-- The packets that wait for Dispatch, by key. -/
def Chip.eligible (c : Chip) : List (Nat × Packet) :=
  c.disp.pkts.filterMap fun e =>
    match e.2 with
    | some p => if p.stage = 0 then some (e.1, p) else none
    | none => none

/-- The oldest packet of a source that waits. -/
def Chip.oldestOf (c : Chip) (s : Nat) : Option (Nat × Packet) :=
  leastBy (fun e => e.2.istamp) (c.eligible.filter fun e => e.2.src == s)

/-- Whether a packet can leave its source now: its Mill's dispatch queue holds fewer than 32, or it needs no Mill (R138). -/
def Chip.canEnter (c : Chip) (p : Packet) : Bool :=
  let s := c.steer p
  !s.valid || (match c.servingMill s.mill with
    | some m => decide ((c.dq m).length < 32)
    | none => true)

/-- The endpoint served next and the state of the round robin after it (R35, entry 25): `w` holds the endpoint whose turn it is
and, doubled, how many packets it has been served in this turn. -/
def wrrPick (w wa wb : Nat) (a b : Bool) : Option (Nat × Nat) :=
  let x := w % 2
  let k := w / 2
  let ok (e : Nat) : Bool := if e = 0 then a else b
  let wt (e : Nat) : Nat := if e = 0 then wa else wb
  if ok x && decide (k < wt x) then some (x, x + 2 * (k + 1))
  else if ok (1 - x) then some (1 - x, 1 - x + 2)
  else if ok x then some (x, x + 2)
  else none

/-- The packet the dispatcher serves next, with the round robin after it (R35). -/
def Chip.dispatchPick (c : Chip) : Option (Nat × Packet × Nat) :=
  let ready (s : Nat) : Option (Nat × Packet) := (c.oldestOf s).filter fun e => c.canEnter e.2
  match leastBy (fun e => e.2.istamp) ((List.range 16).filterMap ready) with
  | some (pk, p) => some (pk, p, c.disp.wrr)
  | none =>
    let a := ready 16
    let b := ready 17
    match wrrPick c.disp.wrr (c.get A.MA_DISPATCH_HOST_WEIGHT F.MA_DISPATCH_HOST_WEIGHT_WEIGHT_A)
        (c.get A.MA_DISPATCH_HOST_WEIGHT F.MA_DISPATCH_HOST_WEIGHT_WEIGHT_B) a.isSome b.isSome with
    | none => none
    | some (x, w) => (if x = 0 then a else b).map fun e => (e.1, e.2, w)

/-- A packet that never receives a thread is released: its bound reference first, then the bobbin, by the dispatcher. -/
def Chip.discardPkt (c : Chip) (now pk : Nat) (p : Packet) : Chip :=
  (((c.cancelPktResv now pk).handOver now p.bob).drop now p.bob).setPkt pk none

/-- The slice the ingress bytes of a packet lost before its steering are billed to (R436). -/
def preSlice (p : Packet) : Nat := if p.src < 16 then 0 else p.slice

/-- The default action of a packet whose entry has VALID = 0 (R136, R158): no thread, and so no order stage. -/
def Chip.invalidEntry (c : Chip) (now pk : Nat) (p : Packet) : Chip :=
  let act := c.rd (defaultActAddr p.src)
  let c := ((c.inc A.MA_DISPATCH_INVALID).inc (defaultCountAddr p.src)).billIn p.src p.slice p.frameLen p.istamp
  if getBits act 17 1 = 1 then c.discardPkt now pk p
  else
    let c := ((c.cancelPktResv now pk).handOver now p.bob).setPkt pk none
    { c with disp := { c.disp with enq := c.disp.enq ++ [actionReq pk 16 p act] } }

/-- The metadata fields Dispatch fills (R228, Table 5-1). -/
def Chip.metaAtDispatch (c : Chip) (p : Packet) : Chip :=
  let a := A.BP_META (c.bobSlot p.bob)
  let w2 := fracOf p.istamp + p.slice * 2 ^ 16 + p.steer * 2 ^ 32 + p.profile * 2 ^ 44 + (if p.redirected then 2 ^ 50 else 0)
    + (if p.issued then 2 ^ 51 else 0) + (if p.resv.isSome then 2 ^ 52 else 0)
  (((c.wr (a 2) (BitVec.ofNat 64 w2)).wr (a 3) (BitVec.ofNat 64 (p.hash + p.gen * 2 ^ 32))).wr (a 4) p.ver0).wr (a 5) p.ver1

/-! ### Prelook (R145-R152) -/

/-- The bytes 0-63 of a packet, those at and above PLEN as 0. -/
def Chip.first64 (c : Chip) (p : Packet) : List Byte := bytesAt (c.headOf p) 0 64

/-- The key of recipe `r` for a packet. -/
def Chip.keyOf (c : Chip) (p : Packet) (r : Nat) : List Word :=
  let a := A.MA_PL_RECIPE r
  recipeKey (c.first64 p) (c.get a F.MA_PL_RECIPE_WORDS + 1) fun j => natBits (c.rd (a + 8 + 8 * (j / 8))).toNat (8 * (j % 8)) 8

/-- The tentative store of a channel: 0 the Classifier, 1 the pattern engine, 2 and 3 the Table Engines (R147). -/
def tentStore (m ch : Nat) : Nat := if ch < 528 then 0 else if ch = 528 then 1 else 2 + m / 8

/-- The Table Engine that serves a Mill (R190). -/
def teOf (m : Nat) : Nat := if m < 8 then 0 else 1

/-- What the result of a request on channel `ch` for Mill `m` and stamp `s` depends on beyond its words: the writes to the rule entries of
its bank (R180); the active pricking slot and what it holds; its table's write generation and descriptor (R215, R219). -/
def Chip.tentDeps (c : Chip) (m ch s : Nat) : List Nat :=
  let e := teOf m
  let g (t : Nat) : Nat := mget 0 (mget TeSt.init c.te e).gens t
  if ch < 520 then [mget 0 c.cl.gens (ch - 512)]
  else if ch = 528 then [c.peActive s, (c.rd (A.CL_PE_SLOT (c.peActive s))).toNat]
  else if ch < 576 then g (ch % 16) :: (List.range 3).map fun k => (c.rd (A.TE_EMT e (ch % 16) + 8 * k)).toNat
  else [g (16 + (ch - 577)), (c.rd (A.TE_LPM e (ch - 577))).toNat, (c.rd (A.TE_LPM_STORE e)).toNat]

/-- Whether the recipe of a slot may be issued (R147); the Table Engines refuse tentative WRITE and COUNT requests (R215). -/
def Chip.mayIssue (c : Chip) (p : Packet) (slot : Nat × Nat) : Bool :=
  let a := A.MA_PL_RECIPE slot.1
  let ch := c.get a F.MA_PL_RECIPE_CHAN
  let pr (f : Fld) : Nat := c.getAt p.istamp (A.MA_PROFILE p.profile) f
  c.flag A.MA_PL_CTRL F.MA_PL_CTRL_ENABLE && pr F.MA_PROFILE_PL_EN == 1
    && decide (c.get A.MA_PL_CTRL F.MA_PL_CTRL_CONF_MIN ≤ slot.2)
    && c.flag a F.MA_PL_RECIPE_VALID && natBits (pr F.MA_PROFILE_RECIPE_SET) slot.1 1 == 1
    && decide (engineCredits ch ≠ 0) && ch != 576 && ch != 585 && c.up (engineTarget ch)
    && decide ((c.disp.tents.filter fun t => t.store == tentStore p.mill ch).length < 1024)
    && decide (2 * c.engQueued p.mill ch ≤ engineCredits ch)

/-- A reservation for a packet's rewrite header, unless it holds one or no pool grants (R152, R237). -/
def Chip.reserve (c : Chip) (now : Nat) (p : Packet) : Packet × Chip :=
  if p.resv.isSome then (p, c)
  else
    let port := if p.src < 16 then p.src else 31
    let (got, c) := c.alloc now 1 ⟨true, 0, false, false, port, p.prioIn, 0, 0⟩
    ({ p with resv := got.map (·.1) }, c)

/-- Issues the recipe of one slot, or counts it skipped (R147, R152). -/
def Chip.issueSlot (c : Chip) (now pk : Nat) (p : Packet) (slot : Nat × Nat) : Packet × Chip :=
  if c.mayIssue p slot then
    let a := A.MA_PL_RECIPE slot.1
    let ch := c.get a F.MA_PL_RECIPE_CHAN
    let t : Tent := { pk := pk, chan := ch, words := c.keyOf p slot.1, at_ := c.mrNow now, recipe := slot.1, done := false, reply := [],
                      deps := c.tentDeps p.mill ch p.istamp, store := tentStore p.mill ch }
    let c := ({ c with disp := { c.disp with tents := c.disp.tents ++ [t] } }).inc A.MA_PL_ISSUED
    let p := { p with issued := true }
    if c.flag a F.MA_PL_RECIPE_RESERVE_HDR then c.reserve now p else (p, c)
  else (p, c.inc A.MA_PL_SKIPPED)

/-- The signature entry of a packet, where the cache still holds it. -/
def Chip.sigOf (c : Chip) (p : Packet) : Option SigEntry :=
  let e := mget SigEntry.empty c.disp.sigs (p.sig % 4096)
  if e.tag = p.sig / 4096 then some e else none

/-- Replaces the signature entry of a packet. -/
def Chip.setSig (c : Chip) (p : Packet) (e : SigEntry) : Chip :=
  { c with disp := { c.disp with sigs := mset SigEntry.empty c.disp.sigs (p.sig % 4096) e } }

/-- Prelook at Dispatch: the packet's signature entry, replaced if it belongs to another, and its slots issued (R145, R147). -/
def Chip.prelook (c : Chip) (now pk : Nat) (p : Packet) : Packet × Chip :=
  let mask := c.rdAt p.istamp (A.MA_PROFILE p.profile + 8)
  let p := { p with sig := signature (c.first64 p) p.plen p.profile mask }
  match c.sigOf p with
  | none => (p, c.setSig p ⟨p.sig / 4096, []⟩)
  | some e => e.slots.foldl (fun (a : Packet × Chip) s => a.2.issueSlot now pk a.1 s) (p, c)

/-- Empties every signature slot that names recipe `r` (R151). -/
def Chip.forgetRecipe (c : Chip) (r : Nat) : Chip :=
  { c with disp := { c.disp with
      sigs := (c.disp.sigs.map fun e => (e.1, { e.2 with slots := e.2.slots.filter fun s => s.1 != r })).filter
        fun e => decide (e.2 ≠ SigEntry.empty) } }

/-- A slot's confidence after its result was adopted or discarded (R151). -/
def slotAfter (recipe : Nat) (up : Bool) (s : Nat × Nat) : Option (Nat × Nat) :=
  if s.1 ≠ recipe then some s
  else if up then some (s.1, min 3 (s.2 + 1))
  else if s.2 ≤ 1 then none
  else some (s.1, s.2 - 1)

/-- The signature entry of a packet after its first request on a channel (R151): `t` is the recipe whose result was adopted or
discarded. -/
def Chip.learnSig (c : Chip) (p : Packet) (ch : Nat) (ws : List Word) (t : Option (Nat × Bool)) : Chip :=
  match c.sigOf p with
  | none => c
  | some e =>
    let slots := match t with
      | some (r, up) => e.slots.filterMap (slotAfter r up)
      | none => e.slots
    let names (r : Nat) : Bool := c.get (A.MA_PL_RECIPE r) F.MA_PL_RECIPE_CHAN == ch
    let slots :=
      if slots.any (fun s => names s.1) || decide (2 ≤ slots.length) then slots
      else
        let set := c.rdAt p.istamp (A.MA_PROFILE p.profile + 16)
        match firstBelow (fun r => getBits set r 1 == 1 && names r && c.keyOf p r == ws) 64 with
        | some r => slots ++ [(r, 1)]
        | none => slots
    c.setSig p { e with slots := slots }

/-- Runs a request on a channel that Prelook may have anticipated (R149-R151): `run` executes it, `taken` delivers a tentative reply that
still stands with the effects R148 withheld. `none` where the tentative result has not completed. -/
def Chip.adopt (c : Chip) (r : EngReq) (run : Chip → List Word × Chip) (taken : List Word → Chip → List Word × Chip) :
    Option (List Word × Chip) :=
  match r.pk, r.pk.bind c.pkt with
  | some pk, some p =>
    if memNat r.chan p.asked then some (run c)
    else
      let mine (t : Tent) : Bool := t.pk == pk && t.chan == r.chan
      let first (c : Chip) : Chip := c.setPkt pk (some { p with asked := p.asked ++ [r.chan] })
      let drop (c : Chip) : Chip := { c with disp := { c.disp with tents := c.disp.tents.filter fun t => !mine t } }
      match c.disp.tents.find? mine with
      | none =>
        let (ws, c) := run (first c)
        some (ws, c.learnSig p r.chan r.words none)
      | some t =>
        if t.words = r.words then
          if !t.done then none
          else
            let c := drop (first c)
            let (ws, c) := if t.deps = c.tentDeps p.mill r.chan p.istamp then taken t.reply c else run c
            some (ws, (c.inc A.MA_PL_ADOPTED).learnSig p r.chan r.words (some (t.recipe, true)))
        else
          let (ws, c) := run ((drop (first c)).inc A.MA_PL_DISCARDED)
          some (ws, c.learnSig p r.chan r.words (some (t.recipe, false)))
  | _, _ => some (run c)

/-- The request a tentative result stands for. -/
def Packet.tentReq (p : Packet) (pk : Nat) (t : Tent) : EngReq :=
  { mill := p.mill, tid := 0, chan := t.chan, words := t.words, pk := some pk, pkt := p.bob, valid := true, plen := p.plen,
    slice := p.slice, istamp := p.istamp, ver0 := p.ver0, ver1 := p.ver1, system := p.slice == 0, sent := t.at_, owed := false }

/-- A tentative result completes (R149): `run` gives its reply, and only `spend` of what it would change stands (R148). -/
def Chip.tentDone (c : Chip) (pk ch : Nat) (run : EngReq → Chip → List Word × Chip) (spend : Nat → Chip → Chip → Chip) : Chip :=
  match c.pkt pk with
  | none => c
  | some p =>
    match c.disp.tents.find? fun t => t.pk == pk && t.chan == ch && !t.done with
    | none => c
    | some t =>
      let (ws, c') := run (p.tentReq pk t) c
      let c := spend p.mill c c'
      { c with disp := { c.disp with tents := c.disp.tents.map fun x =>
          if x.pk == pk && x.chan == ch then { x with done := true, reply := ws } else x } }

/-- HOLD_NS has elapsed since a tentative request was issued (R150). -/
def Chip.holdExpiry (c : Chip) (now pk ch : Nat) : Chip :=
  let hold := ns (c.get A.MA_PL_CTRL F.MA_PL_CTRL_HOLD_NS)
  c.discardTents fun t => !(t.pk == pk && t.chan == ch && decide (t.at_ + hold ≤ c.mrNow now))

/-! ### The dispatcher's step -/

/-- A packet enters the dispatch queue of Mill `m` (R138, R231): what Dispatch sets, the bobbin's owner and binding, the metadata. -/
def Chip.enterQueue (c : Chip) (now pk m : Nat) (p : Packet) (s : Steered) : Chip :=
  let c := if m = s.mill then c else c.inc A.MA_DISPATCH_REDIRECT
  let p := { p with profile := s.profile, slice := s.slice, steer := s.steer, redirected := p.redirected || m != s.mill,
                    hash := s.hash, gen := c.steerGen p.istamp, ver0 := c.verWord 0 p.istamp, ver1 := c.verWord 4 p.istamp,
                    mill := m, entry := s.entry, prio := s.prio, stage := 1, seq := c.disp.nextSeq }
  let c := { c with disp := { c.disp with nextSeq := c.disp.nextSeq + 1 } }
  let c := c.verFlight p.ver0 p.ver1 true
  let c := (c.bobSet p.bob F.BP_STATE_OWNER p.slice).bobBind p.bob (bindPacket p.bob)
  let (p, c) := if p.issued then (p, c) else c.prelook now pk p
  ((c.metaAtDispatch p).setPkt pk (some p)).setDq m (c.dq m ++ [pk])

/-- The dispatcher serves the next packet (R35, R136, R138, R140). -/
def Chip.dispatch (c : Chip) (now : Nat) : Chip :=
  if !c.open1 23 then c else
  match c.dispatchPick with
  | none => c
  | some (pk, p, w) =>
    let c := { c with disp := { c.disp with wrr := w } }
    let (bad, c) := Chip.readSrams now 1 0 0 2 (2 * c.bobSlot p.bob) c
    if bad then
      let c := (c.inc A.MA_DISPATCH_POISON).raise now Flt.MA_META_POISON 23 63 0 0
      (c.billIn p.src (preSlice p) p.frameLen p.istamp).discardPkt now pk p
    else
      let s := c.steer p
      if !s.valid then c.invalidEntry now pk { p with profile := s.profile, slice := s.slice, steer := s.steer, hash := s.hash }
      else
        match c.servingMill s.mill with
        | none => ((c.inc A.MA_DISPATCH_NO_MILL).billIn p.src (preSlice p) p.frameLen p.istamp).discardPkt now pk p
        | some m => c.enterQueue now pk m p s

/-- A packet has become eligible: it is counted if its source cannot send its oldest packet on (R138). -/
def Chip.becameEligible (c : Chip) (s : Nat) : Chip :=
  match c.oldestOf s with
  | some (_, p) => if c.canEnter p then c else c.inc (A.MA_DISPATCH_BACKLOG s)
  | none => c

/-! ### The Mill takes a thread (R101, R138) -/

/-- The reserve of Mill `m` (R101). -/
def Chip.forkReserve (c : Chip) (m : Nat) : Nat :=
  min (c.get (A.MA_POOL_CFG m) F.MA_POOL_CFG_FORK_RESERVE) (c.poolSize m / 2)

/-- Whether a thread of Mill `m` waits in forkw. -/
def Chip.forkWaits (c : Chip) (m : Nat) : Bool := !(c.forkWaiters m).isEmpty

/-- Fills the head window of thread `t` from a packet's bobbin with its poison marks (R67, R74). -/
def Chip.fillHead (c : Chip) (now m t : Nat) (p : Packet) : Chip :=
  let a := c.bobBase p.bob
  let n := min p.plen 256
  let c := (List.range ((n + 31) / 32)).foldl (fun c k =>
    let (bad, c) := c.readSram now 0 (a / 32 + k) 0 p.slice
    if bad then c.setSram (64 + m) (threadWord t k) poisonMark else c) c
  c.setTh m t { c.th m t with head := wrBytes [] 0 (rdBytes c.mem.bob a n) }

/-- The root thread of a packet. -/
def rootOf (start pk : Nat) (p : Packet) : Thread :=
  { Thread.free with st := 1, pc := p.entry, prio := p.prio, root := true, pk := some pk, pkt := p.bob, valid := true, plen := p.plen,
                     slice := p.slice, istamp := p.istamp, ver0 := p.ver0, ver1 := p.ver1, start := start }

/-- Mill `m` takes a thread for the oldest packet of its dispatch queue (R101, R138). -/
def Chip.takeThread (c : Chip) (now m : Nat) : Chip :=
  if !c.open1 m || !c.open1 23 || memNat m c.pwr.clkBusy || c.forkWaits m || decide (c.freeCount m ≤ c.forkReserve m) then c
  else
    match c.dq m with
    | [] => c
    | pk :: rest =>
      match c.pkt pk, c.pickThread m none with
      | some p, some t =>
        let c := (c.setDq m rest).setPkt pk (some { p with stage := 2 })
        ((c.cleanWindows m t).setTh m t (rootOf (c.stampIn m now) pk p)).fillHead now m t p
      | _, _ => c

/-! ### The order stage (R37, R38) -/

/-- Whether a packet of the order group of `h` that was dispatched before it has not given its verdict. -/
def Chip.heldBack (c : Chip) (h : Held) : Bool :=
  (c.disp.pkts.any fun e =>
    match e.2 with
    | some p => (p.stage == 1 || p.stage == 2) && p.mill == h.mill && p.src == h.src && p.txq == h.txq && p.steer == h.steer
        && decide (p.seq < h.seq)
    | none => false)
  || c.disp.held.any fun g => g.mill == h.mill && g.src == h.src && g.txq == h.txq && g.steer == h.steer && decide (g.seq < h.seq)

/-- The order stage of Mill `m` passes the oldest verdict that nothing holds back, while its boundary is Open. -/
def Chip.orderRelease (c : Chip) (m : Nat) : Chip :=
  if !c.open1 m || !c.open1 23 then c else
  match leastBy Held.seq (c.disp.held.filter fun h => h.mill == m && !c.heldBack h) with
  | none => c
  | some h =>
    { c with disp := { c.disp with held := c.disp.held.filter (fun g => g.seq != h.seq), enq := c.disp.enq ++ [h.req] } }

/-- Releases what an enqueue request holds: its references, and those of its header bobbin (R38). -/
def Chip.dropReq (c : Chip) (now : Nat) (r : EnqReq) : Chip :=
  let c := match r.bob with
    | some b => c.drop now b
    | none => c
  match r.hdr with
  | some h => c.drop now h
  | none => c

/-- Every verdict the order stage of a fenced Mill holds is lost (R38). -/
def Chip.loseHeld (c : Chip) (now m : Nat) : Chip :=
  let mine := c.disp.held.filter fun h => h.mill == m
  let c := { c with disp := { c.disp with held := c.disp.held.filter fun h => h.mill != m } }
  mine.foldl (fun c h => (c.inc (A.MA_FENCE_LOST m)).dropReq now h.req) c

/-- One packet of a fenced Mill's dispatch queue is redirected (R29, R38); where the next Mill's queue is full, or no Mill of the side
is left, it waits at the dispatcher again (entry 26). -/
def Chip.redirect1 (c : Chip) (pk : Nat) : Chip :=
  match c.pkt pk with
  | none => c
  | some p =>
    let back : Chip := (c.verFlight p.ver0 p.ver1 false).setPkt pk (some { p with stage := 0 })
    match c.servingMill p.mill with
    | none => back
    | some m =>
      if 32 ≤ (c.dq m).length then back
      else
        let p := { p with mill := m, redirected := true }
        (((c.inc A.MA_DISPATCH_REDIRECT).metaAtDispatch p).setPkt pk (some p)).setDq m (c.dq m ++ [pk])

/-- The dispatch queue of a fenced Mill is redirected, oldest first (R38). -/
def Chip.redirectQueue (c : Chip) (m : Nat) : Chip :=
  let q := c.dq m
  q.foldl Chip.redirect1 (c.setDq m [])

end Sys2Proof.Machine
end

