-- ==== Sys2Proof/Machine/TmQueues.lean ====
section
/-! DEFINITION. The queues of the Traffic Manager (R276, R277): their entries, occupancy, and the drops that empty them (R288,
R289, R294). -/

namespace Sys2Proof.Machine

/-- Whether queue identifier `q` names a network-side shaped queue (R276). -/
def isShaped (q : Nat) : Bool := decide (65536 ≤ q)

/-- The entries of queue `q`, oldest first. -/
def Chip.tmq (c : Chip) (q : Nat) : List TmEnt := mget [] c.tm.queues q

/-- Replaces the entries of queue `q`. -/
def Chip.setTmq (c : Chip) (q : Nat) (es : List TmEnt) : Chip :=
  { c with tm := { c.tm with queues := mset [] c.tm.queues q es } }

/-- Every entry held. -/
def Chip.tmEntries (c : Chip) : List TmEnt := c.tm.queues.flatMap (·.2)

/-- Bytes in 256-byte units, rounded up once (R277). -/
def units (b : Int) : Int := (b + 255) / 256

/-- The occupancy of queue `q` in bytes (R277). -/
def Chip.tmBytes (c : Chip) (q : Nat) : Int := (c.tmq q).foldl (fun n e => n + e.len) 0

/-- A field of the context of shaped queue `q` as stamp `s` sees it (R295). -/
def Chip.qf (c : Chip) (s q : Nat) (f : Fld) : Nat := c.getAt s (A.TM_QUEUE (q % 65536)) f

/-- The port a shaped queue feeds. -/
def Chip.shapedPort (c : Chip) (now q : Nat) : Nat := c.qf (c.mrNow now) q F.TM_QUEUE_PORT

/-- Drops the entries of queue `q`, each counted at `cnt` and its references released as by a system agent (R289, R294). -/
def Chip.dropQueue (c : Chip) (now q cnt : Nat) : Chip :=
  (c.tmq q).foldl (fun c e => (c.inc cnt).dropReq now e.req) (c.setTmq q [])

/-- Drops the entries of every queue that passes a test, counted at the counter of each. -/
def Chip.dropQueues (c : Chip) (now : Nat) (p : Nat → Bool) (cnt : Nat → Nat) : Chip :=
  (c.tm.queues.map (·.1)).foldl (fun c q => if p q then c.dropQueue now q (cnt q) else c) c

/-- Port `p` enters the link-down drop state (R288). -/
def Chip.portDrop (c : Chip) (now p : Nat) : Chip :=
  (c.setFlag (A.TM_PORT p) F.TM_PORT_DROP_STATE true).dropQueues now (fun q => isShaped q && c.shapedPort now q == p) A.TM_LINK_DROP

end Sys2Proof.Machine
end

