-- ==== Sys2Proof/Machine/PortBase.lean ====
section
/-! DEFINITION. What the operations of a port rest on (spec/09_ports.md): presence and rate, LINK, its stamps, the frames of its own. -/

namespace Sys2Proof.Machine

/-- What port `p` holds beyond its registers. -/
def Chip.port (c : Chip) (p : Nat) : PortSt := mget PortSt.init c.net.ports p

/-- Replaces port `p`. -/
def Chip.setPort (c : Chip) (p : Nat) (x : PortSt) : Chip :=
  { c with net := { c.net with ports := mset PortSt.init c.net.ports p x } }

/-- Whether the group's mode provides port `p` (Table 9-1). -/
def Chip.present (c : Chip) (p : Nat) : Bool :=
  let m := c.get (A.PX_MODE (p / 4)) F.PX_MODE_MODE
  decide (2 ≤ m) || p % 4 == 0 || (m == 1 && p % 4 == 2)

/-- The speed of the ports of the group of port `p` in bits per ns (Table 9-1). -/
def Chip.rate (c : Chip) (p : Nat) : Nat :=
  match c.get (A.PX_MODE (p / 4)) F.PX_MODE_MODE with
  | 0 => 800
  | 1 => 400
  | 2 => 200
  | _ => 100

/-- Whether LINK of port `p` is set. -/
def Chip.link (c : Chip) (p : Nat) : Bool := c.flag (A.PX_STATUS p) F.PX_STATUS_LINK

/-- Whether port `p` is present with ENABLE = 1 and its group answers. -/
def Chip.portOn (c : Chip) (p : Nat) : Bool :=
  c.flag (A.PX_CFG p) F.PX_CFG_ENABLE && c.present p && c.open1 (16 + p / 4)

/-- MAX_FRAME of port `p`. -/
def Chip.maxFrame (c : Chip) (p : Nat) : Nat := c.get (A.PX_CFG p) F.PX_CFG_MAX_FRAME

/-- LOOPBACK of port `p` (R273). -/
def Chip.loopback (c : Chip) (p : Nat) : Nat := c.get (A.PX_CFG p) F.PX_CFG_LOOPBACK

/-- The time `n` bytes take on port `p`. -/
def Chip.wireTime (c : Chip) (p n : Nat) : Nat := (n * 8 * 65536 + c.rate p - 1) / c.rate p

/-- The transmit stamp of a frame that starts now (R48, R49, R270). -/
def Chip.txStamp (c : Chip) (now p : Nat) : Nat := c.stampIn (16 + p / 4) now + 0x2000 * c.get (A.PX_LAT p) F.PX_LAT_TX_LAT

/-- The receive stamp of a frame whose `n` bytes from the destination address on end now: that of its first bit (R48, R49, R270,
entry 49). -/
def Chip.rxStamp (c : Chip) (now p n : Nat) : Nat :=
  c.stampIn (16 + p / 4) (now - c.wireTime p n) + 0x2000 * c.get (A.PX_LAT p) F.PX_LAT_RX_LAT

/-- Whether preemption is active on port `p` (R259). -/
def Chip.preActive (c : Chip) (p : Nat) : Bool := c.flag (A.PX_PREEMPT_STAT p) F.PX_PREEMPT_STAT_ACTIVE

/-- Puts a frame of port `p`'s own behind those that wait for the express MAC (R267, R408, R440); nothing leaves a port without LINK
(entry 28). -/
def Chip.own (c : Chip) (p : Nat) (f : OwnFrame) : Chip :=
  if c.link p && c.open1 (16 + p / 4) then
    let c := c.setPort p { c.port p with own := (c.port p).own ++ [f] }
    { c with due := c.due ++ [.own p] }
  else c

/-- Sends a frame of the Control Plane by the express MAC (R408, R440): padded, given an FCS, counted and never billed (entry 31). -/
def Chip.sendOwn (c : Chip) (p : Nat) (bs : List Byte) : Chip := c.own p (.frame (padFrame bs))

end Sys2Proof.Machine
end

