-- ==== Sys2Proof/Machine/Servo.lean ====
section
/-! DEFINITION. The servo of device time (R42, R44, R45): the state of the time source, the rate correction, a measurement of the offset. -/

namespace Sys2Proof.Machine

/-- FT_STATUS.STATE takes a value, and a change is journaled (R44). -/
def Chip.timeState (c : Chip) (now st : Nat) : Chip :=
  let old := c.get A.FT_STATUS F.FT_STATUS_STATE
  if old = st then c
  else
    let c := c.set A.FT_STATUS F.FT_STATUS_STATE st
    c.journal now { JEvent.base with event := 4, level := 1, a0 := BitVec.ofNat 64 old, a1 := BitVec.ofNat 64 st }

/-- The source selected. -/
def Chip.source (c : Chip) : Nat := c.get A.FT_CTRL F.FT_CTRL_SOURCE

/-- FT_SLEW_MAX in units of 2^-40 (R45). -/
def Chip.slewMax (c : Chip) : Nat := (c.rd A.FT_SLEW_MAX).toNat * 2 ^ 40 / 10 ^ 9

/-- The rate correction in force, in units of 2^-40 (R42, R45): FT_RATE_ADJ while no source is selected, else the servo's; never more than
FT_SLEW_MAX. -/
def Chip.ftRate (c : Chip) : Int :=
  let r := if c.source = 0 then signExt 32 (getBits (c.rd A.FT_RATE_ADJ) 0 32) else c.ft.rate
  max (-(c.slewMax : Int)) (min (c.slewMax : Int) r)

/-- The servo chooses a rate (R44, R45): a free value within FT_SLEW_MAX (entry 176). -/
def Chip.servoRate (c : Chip) : Chip :=
  let (v, c) := c.fresh
  { c with ft := { c.ft with rate := ((v % (2 * c.slewMax + 1) : Nat) : Int) - (c.slewMax : Int) } }

/-- The servo takes a measurement of its offset, in units of 2^-16 ns (R42, R44, R64): valid input; an offset beyond 100 ns ends LOCKED. -/
def Chip.servoInput (c : Chip) (now : Nat) (o : Int) : Chip :=
  let near := decide (o.natAbs ≤ ns 100)
  let since := if near then some (c.ft.within.getD now) else none
  let c := { c with ft := { c.ft with srcSince := now, within := since } }
  let c := (c.wr A.FT_OFFSET (BitVec.ofInt 64 o)).servoRate
  let st := c.get A.FT_STATUS F.FT_STATUS_STATE
  if st = 3 ∨ (st = 2 ∧ near = false) then c.timeState now 1 else c

end Sys2Proof.Machine
end

