-- ==== Sys2Proof/Machine/Engines.lean ====
section
/-! DEFINITION. How an engine serves the requests of a channel (R119-R121): oldest first, one at a time, its reply handed to the
boundary; a channel of Prelook adopts tentative results (R149). -/

namespace Sys2Proof.Machine

/-- The binding key of a request's sender (R227). -/
def EngReq.key (r : EngReq) : Nat := if r.pk.isSome then bindPacket r.pkt else bindThread r.mill r.tid

/-- The agent a request comes from (R233). -/
def EngReq.agent (r : EngReq) : Agent := if r.system then .system else .tenant r.slice r.key

/-- Sends the reply of a request; that of a thread lost at a fence (TID 256) is discarded at the boundary (R463). -/
def Chip.answer (c : Chip) (r : EngReq) (ws : List Word) : Chip :=
  if r.tid = 256 then c else { c with reps := c.reps ++ [EngRep.mk r.mill r.tid r.chan ws] }

/-- Serves the oldest request of channel `ch` that passes `p`, if its engine is up. -/
def Chip.serveIf (c : Chip) (ch : Nat) (p : EngReq → Bool) (run : EngReq → Chip → List Word × Chip) : Chip :=
  if !c.up (engineTarget ch) then c else
  match takeFirst (fun r : EngReq => r.chan == ch && !r.owed && p r) c.reqs with
  | none => c
  | some (r, rest) =>
    let (ws, c) := run r { c with reqs := rest }
    c.answer r ws

/-- Serves the oldest request of channel `ch`, if its engine is up. -/
def Chip.serve (c : Chip) (ch : Nat) (run : EngReq → Chip → List Word × Chip) : Chip := c.serveIf ch (fun _ => true) run

/-- Serves the oldest request of channel `ch` that passes `p` and does not wait for a tentative result to complete (R149); `pre` holds those
passed over, newest first. One that waits holds back the later ones that `after` names, so that replies keep their order (R121, R169, R200). -/
def Chip.serveAdopt (ch : Nat) (after : EngReq → EngReq → Bool) (run : EngReq → Chip → List Word × Chip)
    (taken : EngReq → List Word → Chip → List Word × Chip) : (EngReq → Bool) → List EngReq → List EngReq → Chip → Chip
  | _, _, [], c => c
  | p, pre, r :: rs, c =>
    if r.chan = ch ∧ r.owed = false ∧ p r = true then
      match ({ c with reqs := pre.reverse ++ rs }).adopt r (run r) (taken r) with
      | some (ws, d) => d.answer r ws
      | none => Chip.serveAdopt ch after run taken (fun q => p q && !after r q) (r :: pre) rs c
    else Chip.serveAdopt ch after run taken p (r :: pre) rs c

/-- Serves channel `ch`, a channel that recipes may name (R146, R149). -/
def Chip.serveTent (c : Chip) (ch : Nat) (p : EngReq → Bool) (after : EngReq → EngReq → Bool) (run : EngReq → Chip → List Word × Chip)
    (taken : EngReq → List Word → Chip → List Word × Chip) : Chip :=
  if c.up (engineTarget ch) then Chip.serveAdopt ch after run taken p [] c.reqs c else c

/-- The order of a queue that is served strictly first in, first out (R169, R187). -/
def EngReq.inOrder (_ _ : EngReq) : Bool := true

/-- The order R200 keeps: that of one thread. -/
def EngReq.sameThread (r q : EngReq) : Bool := r.mill == q.mill && r.tid == q.tid

end Sys2Proof.Machine
end

