-- ==== Sys2Proof/Machine/Clock.lean ====
section
/-! DEFINITION. The ordinary clock of the Control Plane (R43): the messages of IEEE 1588 it answers, sends and takes its offset from. The
layout of the messages is that of IEEE 1588, by which R43 describes the clock (entry 53). -/

namespace Sys2Proof.Machine

/-- The offset of the PTP header of a frame over Layer 2 or UDP (ports 319 and 320), and of its UDP header. -/
def ptpMsg (bs : List Byte) : Option (Nat × Option Nat) :=
  let l := layersAt bs bs.length 0
  let o := (etherOff bs).1
  let dport := u16At bs (l.l4 + 2)
  if etherType bs == some 0x88F7 && decide (o + 36 ≤ bs.length) then some (o + 2, none)
  else if l.l4k == 2 && (dport == 319 || dport == 320) && decide (l.l4 + 42 ≤ bs.length) then some (l.l4 + 8, some l.l4)
  else none

/-- A time of a PTP message at `i`: 48 bits of seconds, 32 of nanoseconds. -/
def ptpTime (bs : List Byte) (i : Nat) : Int := (ns (beNat (bytesAt bs i 6) * 1000000000 + beNat (bytesAt bs (i + 6) 4)) : Nat)

/-- The same, written. -/
def ptpStamp (s : Nat) : List Byte := beBytes 6 (dtOf s / 1000000000) ++ beBytes 4 (dtOf s % 1000000000)

/-- The correctionField of the message at `h`, in units of 2^-16 ns. -/
def ptpCorr (bs : List Byte) (h : Nat) : Int := (BitVec.ofNat 64 (beNat (bytesAt bs (h + 8) 8))).toInt

/-- The identity of port `p` of the clock. -/
def clockPort (p : Nat) : List Byte := beBytes 10 (Config.clockPort p).toNat

/-- A message of the clock over the transport of frame `bs`, whose PTP header is at `h` and UDP header at `u`: type, twoStepFlag, correction,
sequence number, body. Its source addresses are free (entry 29). -/
def Chip.clockMsg (c : Chip) (p : Nat) (bs : List Byte) (h : Nat) (u : Option Nat) (typ : Nat) (two : Bool) (corr seq : Nat)
    (body : List Byte) : Chip :=
  let (v, c) := c.fresh
  let head := beBytes 1 (byteAt bs h / 16 * 16 + typ) ++ bytesAt bs (h + 1) 1 ++ beBytes 2 (34 + body.length) ++ bytesAt bs (h + 4) 2
    ++ [(if two then 2 else 0), 0] ++ beBytes 8 corr ++ beBytes 4 0 ++ clockPort p ++ beBytes 2 seq ++ [5, 0x7F]
  let f := putBytes (bs.take h) 6 (beBytes 6 v) ++ head ++ body
  match u with
  | none => c.sendOwn p f
  | some l4 =>
    let l := layersAt bs bs.length 0
    let v6 := l.l3k == 2
    let (w, c) := c.fresh
    let f := if v6 then putBytes f (l.l3 + 8) (beBytes 16 w) else putBytes f (l.l3 + 12) (beBytes 4 w)
    let f := put16 (put16 (fixIp f l.l3 0) (l4 + 2) (if typ < 8 then 319 else 320)) (l4 + 4) (f.length - l4)
    c.sendOwn p (putL4Sum f v6 true l.l3 l4 (f.length - l4) (l4 + 6))

/-- Replaces what the clock holds. -/
def Chip.setClock (c : Chip) (x : Clock) : Chip := { c with ft := { c.ft with clock := x } }

/-- Whether the clock runs on port `p`: PTP or GPTP is the source and PTP_PORT names it (R42). -/
def Chip.clockOn (c : Chip) (p : Nat) : Bool :=
  (c.source == 1 || c.source == 2) && c.get A.FT_CTRL F.FT_CTRL_PTP_PORT == p

/-- The path delay the clock reckons with: that of the delay request-response mechanism, under 802.1AS the port's last peer delay. -/
def Chip.pathDelay (c : Chip) (p : Nat) : Int :=
  if c.source = 2 then (ns ((c.port p).delays.getLast?.getD 0) : Nat) else c.ft.clock.delay

/-- The clock knows when a Sync left its master, corrected, and when it came (R43): its offset, and the next Delay_Req. -/
def Chip.clockSync (c : Chip) (now p : Nat) (bs : List Byte) (h : Nat) (u : Option Nat) (t1 t2 : Int) : Chip :=
  let k := c.ft.clock
  let seq := (k.seq + 1) % 2 ^ 16
  let d := (c.setClock { k with sync := none, t1 := t1, t2 := t2 }).servoInput now (t2 - t1 - c.pathDelay p)
  if c.source = 1 then (d.setClock { d.ft.clock with seq := seq, asked := none }).clockMsg p bs h u 1 false 0 seq (ptpStamp 0) else d

/-- A PTP message arrives at port `p` with receive stamp `st` (R43): peer-delay requests are answered on every port, the rest where the clock
runs; delay requests where it may be master (entry 53). -/
def Chip.clockFrame (c : Chip) (now p : Nat) (bs : List Byte) (st : Nat) : Chip :=
  match ptpMsg bs with
  | none => c
  | some (h, u) =>
    let typ := byteAt bs h % 16
    let seq := u16At bs (h + 30)
    let from_ := bytesAt bs (h + 20) 10
    let corr := ptpCorr bs h
    let k := c.ft.clock
    if typ = 2 then c.clockMsg p bs h u 3 true 0 seq (ptpStamp st ++ from_)
    else if !c.clockOn p then c
    else if typ = 0 then
      if byteAt bs (h + 6) / 2 % 2 = 1 then c.setClock { k with sync := some (seq, st, corr) }
      else c.clockSync now p bs h u (ptpTime bs (h + 34) + corr) st
    else if typ = 8 then
      match k.sync with
      | some (n, t2, c0) => if n = seq then c.clockSync now p bs h u (ptpTime bs (h + 34) + c0 + corr) t2 else c
      | none => c
    else if typ = 1 then
      if c.flag A.FT_CTRL F.FT_CTRL_PTP_ROLE then
        c.clockMsg p bs h u 9 false (beNat (bytesAt bs (h + 8) 8)) seq (ptpStamp st ++ from_)
      else c
    else if typ = 9 then
      match k.asked with
      | some t3 =>
        if seq = k.seq ∧ bytesAt bs (h + 44) 10 = clockPort p then
          c.setClock { k with asked := none, delay := ((k.t2 - k.t1) + (ptpTime bs (h + 34) - corr - t3)) / 2 }
        else c
      | none => c
    else c

/-- A frame of the port's own leaves with stamp `s` (R43): a Delay_Req is remembered with it; a Pdelay_Resp is followed by its stamp. -/
def Chip.clockSent (c : Chip) (p s : Nat) (bs : List Byte) : Chip :=
  match ptpMsg bs with
  | none => c
  | some (h, u) =>
    if byteAt bs h % 16 = 1 ∧ u16At bs (h + 30) = c.ft.clock.seq then c.setClock { c.ft.clock with asked := some s }
    else if byteAt bs h % 16 = 3 then c.clockMsg p bs h u 10 false 0 (u16At bs (h + 30)) (ptpStamp s ++ bytesAt bs (h + 44) 10)
    else c

end Sys2Proof.Machine
end

