-- ==== Sys2Proof/Machine/PortOps.lean ====
section
/-! DEFINITION. Ports (spec/09_ports.md): gates (R285, R286), link, reception and its diversions, buffering,
transmission, pause and the Weir, preemption's verification, timestamps. -/

namespace Sys2Proof.Machine

/-! ### Gates (R285-R287) -/

/-- The gate lists of port `p`. -/
def Chip.gate (c : Chip) (p : Nat) : GateSt := mget GateSt.init c.tm.gates p

/-- The entry that covers a phase: its states and where its interval ends in the cycle. `acc` is where entry `e` begins. -/
def Chip.gclWalk (c : Chip) (p l cycle phase : Nat) : Nat → Nat → Nat → Nat × Nat
  | 0, _, _ => (255, cycle)
  | n + 1, e, acc =>
    let a := A.TM_GCL p l e
    let fin := min cycle (acc + ns (c.get a F.TM_GCL_INTERVAL_NS))
    if n = 0 then (c.get a F.TM_GCL_STATES, cycle)
    else if phase < fin then (c.get a F.TM_GCL_STATES, fin)
    else Chip.gclWalk c p l cycle phase n (e + 1) fin

/-- The states of list `l` of port `p` at stamp `s` and until when they hold, if they change (R285). A list of LENGTH 0 keeps
INIT_STATE (entry 27). -/
def Chip.gclAt (c : Chip) (p l s : Nat) : Nat × Option Nat :=
  let a := A.TM_GCL_HDR p l
  let base := ns (c.get a F.TM_GCL_HDR_BASE_NS) + c.get a F.TM_GCL_HDR_BASE_FRAC
  let init := c.get a F.TM_GCL_HDR_INIT_STATE
  let len := c.get a F.TM_GCL_HDR_LENGTH
  let cycle := ns (c.get a F.TM_GCL_HDR_CYCLE_NS)
  if len = 0 then (init, none)
  else if s < base then (init, some base)
  else
    let phase := (s - base) % cycle
    let (st, fin) := c.gclWalk p l cycle phase len 0 0
    (st, some (s - phase + fin))

/-- The gate list in force at stamp `s` (R287). -/
def GateSt.listAt (g : GateSt) (s : Nat) : Nat := (((g.switches.filter fun x => decide (x.1 ≤ s)).getLast?).map (·.2)).getD g.active

/-- The gate states of port `p` at stamp `s` and until when they hold, the list switches taken into account (R286, R287). -/
def Chip.gatesAt (c : Chip) (p s : Nat) : Nat × Option Nat :=
  let g := c.gate p
  let (st, fin) := c.gclAt p (g.listAt s) s
  match g.switches.find? fun x => decide (s < x.1) with
  | none => (st, fin)
  | some (t, _) => (st, some (min t (fin.getD t)))

/-- Whether gate `k` of port `p` is open throughout [s, e); `fuel` bounds the intervals looked at. -/
def Chip.gateOpen (c : Chip) (p k e : Nat) : Nat → Nat → Bool
  | 0, _ => false
  | n + 1, s =>
    let (st, fin) := c.gatesAt p s
    natBits st k 1 == 1 && (match fin with
      | none => true
      | some f => decide (e ≤ f) || Chip.gateOpen c p k e n f)

/-- Whether the gates of port `p` let a frame of `len` bytes of port queue `k` start at stamp `s` (R286). -/
def Chip.gateAdmits (c : Chip) (p k s len : Nat) (express : Bool) : Bool :=
  if !c.flag (A.TM_PORT p) F.TM_PORT_GATE_EN then true
  else
    let n := if express || !c.preActive p then len else 64 * (1 + c.get (A.PX_PREEMPT p) F.PX_PREEMPT_ADD_FRAG)
    c.gateOpen p k (s + c.wireTime p n) 20000 s

/-- Whether the guard of R286 alone holds a frame: its gate is open at stamp `s`, but closes before the frame fits. -/
def Chip.guardHolds (c : Chip) (p k s len : Nat) (express : Bool) : Bool :=
  natBits (c.gatesAt p s).1 k 1 == 1 && !c.gateAdmits p k s len express

/-! ### Control frames, pause and the Weir (R254, R266-R269) -/

/-- The time of `q` pause quanta on port `p`: 512 bit times each (R267). -/
def Chip.quanta (c : Chip) (p q : Nat) : Nat := q * 512 * 65536 / c.rate p

/-- Priorities `vec` of port `p` are paused for the times given, a time of 0 ending the pause at once (R269). -/
def Chip.pausePrios (c : Chip) (now p vec : Nat) (q : Nat → Nat) : Chip :=
  let x := c.port p
  let ends := (List.range 8).map fun k =>
    if natBits vec k 1 = 1 then (if q k = 0 then 0 else now + c.quanta p (q k)) else nth 0 x.paused k
  let mask := (List.range 8).foldl (fun m k => if nth 0 ends k = 0 then m else m + 2 ^ k) 0
  (c.setPort p { x with paused := ends }).set (A.PX_STATUS p) F.PX_STATUS_TX_PAUSED mask

/-- A MAC control frame is consumed by the MAC (R248, R254, R269). -/
def Chip.macCtrl (c : Chip) (now p : Nat) (bs : List Byte) : Chip :=
  let c := c.inc (A.PX_RX_PAUSE p)
  let mode := c.get (A.PX_WEIR_CFG p) F.PX_WEIR_CFG_MODE
  let op := u16At bs 14
  if op = 1 then (if mode = 1 then c.pausePrios now p 255 fun _ => u16At bs 16 else c)
  else if op = 0x0101 then (if mode = 2 then c.pausePrios now p (u16At bs 16 % 256) fun k => u16At bs (18 + 2 * k) else c)
  else c.inc (A.PX_RX_MAC_CTRL p)

/-- The pauses that have run out end (R269). -/
def Chip.pauseExpiry (c : Chip) (now p : Nat) : Chip :=
  let x := c.port p
  let vec := (List.range 8).foldl (fun m k => if nth 0 x.paused k ≠ 0 ∧ nth 0 x.paused k ≤ now then m + 2 ^ k else m) 0
  if vec = 0 then c else c.pausePrios now p vec fun _ => 0

/-- The occupancy O(k) of port `p` (R266). -/
def Chip.weirOcc (c : Chip) (p k : Nat) : Nat :=
  c.get (A.BP_OCC (8 * p + k)) F.BP_OCC_HELD_UNITS + c.get (A.BP_OCC (8 * p + k)) F.BP_OCC_RESV_UNITS

/-- The XOFF states of port `p` as the occupancies leave them (R266): in PAUSE mode one state, shown for every priority. -/
def Chip.weirNext (c : Chip) (p old : Nat) : Nat :=
  let cfg := A.PX_WEIR_CFG p
  let on (o k : Nat) (was : Bool) : Bool :=
    if was then decide (c.get (A.PX_WEIR p k) F.PX_WEIR_LOW ≤ o) else decide (c.get (A.PX_WEIR p k) F.PX_WEIR_HIGH ≤ o)
  match c.get cfg F.PX_WEIR_CFG_MODE with
  | 2 => (List.range 8).foldl (fun m k =>
      if natBits (c.get cfg F.PX_WEIR_CFG_PFC_EN) k 1 == 1 && on (c.weirOcc p k) k (natBits old k 1 == 1) then m + 2 ^ k else m) 0
  | 1 => if on (((List.range 8).map (c.weirOcc p)).foldl (· + ·) 0) 0 (old != 0) then 255 else 0
  | _ => 0

/-- Queues the pause frame for XOFF states `new`, where `left` have just ended (R267). Its source address is free (entry 29). -/
def Chip.weirFrame (c : Chip) (now p new left : Nat) : Chip :=
  let cfg := A.PX_WEIR_CFG p
  let q := c.get cfg F.PX_WEIR_CFG_QUANTA
  let (v, c) := c.fresh
  let sa := beBytes 6 v
  let bs := if c.get cfg F.PX_WEIR_CFG_MODE = 2 then pfcFrame sa (new ||| left) fun k => if natBits new k 1 = 1 then q else 0
    else pauseFrame sa (if new = 0 then 0 else q)
  (c.setPort p { c.port p with refresh := now + c.quanta p q / 2 }).own p (.pause bs)

/-- The Weir of port `p` compares its occupancies with its watermarks (R266, R267): after every change of either (entry 201). -/
def Chip.weirLook (c : Chip) (now p : Nat) : Chip :=
  if !c.open1 23 || !c.open1 (16 + p / 4) then c
  else
    let old := c.get (A.PX_STATUS p) F.PX_STATUS_XOFF
    let new := c.weirNext p old
    if new = old then c
    else
      let c := c.set (A.PX_STATUS p) F.PX_STATUS_XOFF new
      if c.get (A.PX_WEIR_CFG p) F.PX_WEIR_CFG_MODE = 0 then c else c.weirFrame now p new (old &&& (new ^^^ 255))

/-- QUANTA ÷ 2 quanta have passed in XOFF (R266, R267). -/
def Chip.weirRefresh (c : Chip) (now p : Nat) : Chip :=
  let x := c.get (A.PX_STATUS p) F.PX_STATUS_XOFF
  if x = 0 ∨ c.get (A.PX_WEIR_CFG p) F.PX_WEIR_CFG_MODE = 0 ∨ now < (c.port p).refresh then c else c.weirFrame now p x 0

/-- The Weir of port `p` looks again within the step. -/
def Chip.weirDue (c : Chip) (p : Nat) : Chip := { c with due := c.due ++ [.occupancy p] }

/-- The watermarks of port `p`, under AUTO = 1 computed anew (R268). -/
def Chip.weirAuto (c : Chip) (p : Nat) : Chip :=
  let cfg := A.PX_WEIR_CFG p
  if !c.flag cfg F.PX_WEIR_CFG_AUTO then c.weirDue p
  else
    let ds := (c.port p).delays
    let d := if ds.isEmpty then c.get (A.PX_DELAY p) F.PX_DELAY_DELAY_DEFAULT_NS else ds.foldl max 0
    let head := (c.rate p * (2 * d + c.get cfg F.PX_WEIR_CFG_RESP_NS) + 8 * (2 * c.maxFrame p + 64) + 2047) / 2048
    let hyst := c.get cfg F.PX_WEIR_CFG_HYST
    let short (k : Nat) : Bool := decide (c.get (A.PX_WEIR_LIMIT p k) F.PX_WEIR_LIMIT_V < head + hyst + 1)
    let mask := (List.range 8).foldl (fun m k => if short k then m + 2 ^ k else m) 0
    let d := (List.range 8).foldl (fun (c : Chip) k =>
      let hi := if short k then hyst + 1 else c.get (A.PX_WEIR_LIMIT p k) F.PX_WEIR_LIMIT_V - head
      (c.set (A.PX_WEIR p k) F.PX_WEIR_HIGH hi).set (A.PX_WEIR p k) F.PX_WEIR_LOW (hi - hyst)) c
    (d.set (A.PX_STATUS p) F.PX_STATUS_HEADROOM_SHORT mask).weirDue p

/-- A new peer-delay result of a port with link (R43, R268). -/
def Chip.peerDelay (c : Chip) (p d : Nat) : Chip :=
  if !c.link p || !c.open1 (16 + p / 4) then c
  else
    let ds := ((c.port p).delays ++ [d])
    let ds := ds.drop (ds.length - 8)
    let c := c.setPort p { c.port p with delays := ds }
    (c.set (A.PX_DELAY p) F.PX_DELAY_MEASURED_NS (ds.foldl max 0)).weirAuto p

/-! ### Reception (R250-R255) -/

/-- Whether the mode admits a frame of port `p` at Arrival (Table 17-2). -/
def Chip.admitsPort (c : Chip) (p : Nat) : Bool :=
  let m := c.mode
  m == Mode.service || m == Mode.update || m == Mode.degraded || m == Mode.diagnostic
    || (m == Mode.drain && natBits (c.get A.CP_DRAIN_CFG F.CP_DRAIN_CFG_SOURCES) p 1 == 0)

/-- Puts a packet in the queue of a context of the command processor (R407). -/
def Chip.cmdSubmit (c : Chip) (k : Nat) (bs : List Byte) (o : Origin) : Chip :=
  { c with cmd := { c.cmd with ctx := mupd CmdCtx.init c.cmd.ctx k fun x => { x with queue := x.queue ++ [(bs, o)] } } }

/-- The frames the command processor holds (R408): those that wait and the one that runs. -/
def Chip.framesHeld (c : Chip) : Nat :=
  let x := mget CmdCtx.init c.cmd.ctx 18
  x.queue.length + (if x.run.isSome then 1 else 0)

/-- Whether a good frame is a command frame (R408). -/
def Chip.isCmdFrame (c : Chip) (bs : List Byte) : Bool := etherType bs == some (c.get A.CP_CMD_CFG F.CP_CMD_CFG_ETYPE)

/-- A command frame is diverted to the command processor, or dropped (R408). -/
def Chip.cmdFrame (c : Chip) (p : Nat) (bs : List Byte) : Chip :=
  if natBits (c.get A.CP_CMD_CFG F.CP_CMD_CFG_PORT_EN) p 1 = 0 then c.inc A.CP_CMD_RX_OFF
  else if 16 ≤ c.framesHeld then c.inc A.CP_CMD_RX_DROP
  else
    let (o, tags) := etherOff bs
    c.cmdSubmit 18 (bs.drop (o + 2)) { source := 5, detail := p, limit := c.maxFrame p - 18 - 4 * tags, resAddr := 0,
                                        sa := bytesAt bs 6 6, tags := bytesAt bs 12 (4 * tags), pre := Code.OK, gen := 0 }

/-- The error flags of Table 5-2 that a received frame of `n` bytes takes. -/
def errFlags (n maxFrame : Nat) (fcs pcs pre : Bool) : Nat :=
  (if fcs then 1 else 0) + (if n < 64 then 2 else 0) + (if maxFrame < n then 4 else 0) + (if pcs then 8 else 0) + (if pre then 16 else 0)

/-- How the port classifies a frame with its FCS (Table 9-2, R251): the flags whose condition it meets. -/
def rxFlags (bs : List Byte) (maxFrame : Nat) (pcs : Bool) : Nat :=
  let n := bs.length
  errFlags n maxFrame (decide (n ≤ maxFrame) && (decide (n < 4) || fcsOf (bs.take (n - 4)) != bs.drop (n - 4))) pcs false

/-- The counter of the first row of Table 9-2 that applies to a bad frame. -/
def rxRow (p flags : Nat) : Nat :=
  if natBits flags 3 1 = 1 then A.PX_RX_PCS_ERR p
  else if natBits flags 2 1 = 1 then A.PX_RX_OVERSIZE p
  else if natBits flags 4 1 = 1 then A.PX_RX_PREEMPT_ERR p
  else if natBits flags 1 1 = 1 then A.PX_RX_RUNT p
  else A.PX_RX_FCS_ERR p

/-- The bytes the receive buffer of group `g` holds (R253). -/
def Chip.rxHeld (c : Chip) (g : Nat) : Nat :=
  (c.net.rx.filter fun f => f.port / 4 == g).foldl (fun n f => n + f.bytes.length) 0

/-- A frame waits in the receive buffer, unless the mode drops it at Arrival (R253, R445). PTP event messages are admitted in every
mode. -/
def Chip.rxStore (c : Chip) (p : Nat) (f : RxFrame) : Chip :=
  if c.admitsPort p || (ptpEvent f.bytes true true).isSome then { c with net := { c.net with rx := c.net.rx ++ [f] } }
  else c.inc (A.CP_MODE_DROP p)

/-- Whether the receive buffer of port `p`'s group is full (R253, entry 51). -/
def Chip.rxFull (c : Chip) (p : Nat) : Bool := decide (2 ^ 20 ≤ c.rxHeld (p / 4))

/-- A frame of packet data `data`, FRAME_LEN `len`, flags `fl` and stamp `st` is counted, then dropped, consumed, diverted or stored
(R250-R254, R408, entries 51 and 202). -/
def Chip.rxClassified (c : Chip) (now p : Nat) (data : List Byte) (len fl st : Nat) : Chip :=
  let prio := if (etherOff data).2 = 0 then c.get (A.PX_CFG p) F.PX_CFG_DEFAULT_PRIO else byteAt data 14 / 32
  let f : RxFrame := { port := p, bytes := data, frameLen := len, err := fl, prio := prio, stamp := st }
  let keep (c : Chip) : Chip := if c.loopback p = 4 then c else c.rxStore p f
  if fl = 0 then
    let c := ((c.inc (A.PX_RX_FRAMES p)).add (A.PX_RX_BYTES p) len).report 0 p len st
    if isMacCtrl data then c.macCtrl now p data
    else if c.isCmdFrame data then c.cmdFrame p data
    else if c.rxFull p then c.inc (A.PX_RX_OVERRUN p)
    else keep (c.clockFrame now p data st)
  else
    let c := (c.inc (rxRow p fl)).add (A.PX_RX_BAD_BYTES p) len
    let c := if c.rxFull p && !isMacCtrl data then c.inc (A.PX_RX_OVERRUN p) else c
    if c.flag (A.PX_CFG p) F.PX_CFG_DELIVER_BAD && !c.rxFull p && !isMacCtrl data then keep (c.inc (A.PX_RX_BAD_DELIVERED p))
    else c.inc (A.PX_RX_BAD_DROP p)

/-- A whole frame is classified (R250, R251). `bs` runs from the destination address to the FCS. -/
def Chip.rxFrame (c : Chip) (now p : Nat) (bs : List Byte) (pcs : Bool) (st : Nat) : Chip :=
  let mf := c.maxFrame p
  let fl := rxFlags bs mf pcs
  if mf < bs.length then c.rxClassified now p (bs.take mf) (mf + 1) fl st
  else c.rxClassified now p (bs.take (bs.length - 4)) bs.length fl st

/-- A frame that suffered a reassembly error is classified (R252): `bs` is what was received of it up to the error, no FCS among it
(entry 50). -/
def Chip.rxBroken (c : Chip) (now p : Nat) (bs : List Byte) (pcs : Bool) (st : Nat) : Chip :=
  let mf := c.maxFrame p
  c.rxClassified now p (bs.take mf) (min (mf + 1) bs.length) (errFlags bs.length mf false pcs true) st

/-- Replaces the frame under reassembly of port `p`. -/
def Chip.setAsm (c : Chip) (p : Nat) (a : Option Asm) : Chip := c.setPort p { c.port p with asm := a }

/-- The frame under reassembly of port `p` ends in error (R252); `pcs` where the link dropped within it (Table 9-2). -/
def Chip.asmBreak (c : Chip) (now p : Nat) (pcs : Bool) : Chip :=
  match (c.port p).asm with
  | none => c
  | some a => (c.setAsm p none).rxBroken now p a.bytes (a.pcs || pcs) a.stamp

/-- A respond mPacket arrives (R259). -/
def Chip.respondIn (c : Chip) (p : Nat) : Chip :=
  let st := A.PX_PREEMPT_STAT p
  if c.flag (A.PX_PREEMPT p) F.PX_PREEMPT_ENABLE && c.get st F.PX_PREEMPT_STAT_VERIFY_STATUS == 1 then
    (c.set st F.PX_PREEMPT_STAT_VERIFY_STATUS 2).setFlag st F.PX_PREEMPT_STAT_ACTIVE true
  else c

/-- A verify mPacket arrives and is answered while ENABLE = 1, whatever the port's own status (R259). -/
def Chip.verifyIn (c : Chip) (p : Nat) : Chip :=
  if c.flag (A.PX_PREEMPT p) F.PX_PREEMPT_ENABLE then c.own p (.mpacket .respond) else c

/-- A fragment that is the first of a frame arrives (R252): one that ends with its mCRC is to be continued. -/
def Chip.rxStart (c : Chip) (now p : Nat) (no : Fin 4) (bs : List Byte) (pcs : Bool) : Chip :=
  let c := c.asmBreak now p false
  let st := c.rxStamp now p bs.length
  let body := bs.take (bs.length - 4)
  if 4 ≤ bs.length ∧ bs.drop (bs.length - 4) = mcrcOf body then
    if bs.length < 64 then c.rxBroken now p body pcs st else c.setAsm p (some ⟨no, 0, body, st, pcs⟩)
  else c.rxFrame now p bs pcs st

/-- A continuation fragment arrives (R252): the frame carries the stamp of its first fragment (R49). -/
def Chip.rxCont (c : Chip) (now p : Nat) (no k : Fin 4) (bs : List Byte) (pcs : Bool) : Chip :=
  match (c.port p).asm with
  | none => c.rxBroken now p [] pcs (c.rxStamp now p bs.length)
  | some a =>
    let c := c.setAsm p none
    let body := a.bytes ++ bs.take (bs.length - 4)
    let crc := bs.drop (bs.length - 4)
    let bad := a.pcs || pcs
    if a.no ≠ no ∨ a.next ≠ k then c.rxBroken now p a.bytes bad a.stamp
    else if bs.length < 4 then c.rxBroken now p (a.bytes ++ bs) bad a.stamp
    else if crc = mcrcOf body then
      if bs.length < 64 then c.rxBroken now p body bad a.stamp
      else c.setAsm p (some { a with next := k + 1, bytes := body, pcs := bad })
    else if crc = fcsOf body then c.rxFrame now p (a.bytes ++ bs) bad a.stamp
    else c.rxBroken now p body bad a.stamp

/-- What arrives at the receive MAC of port `p`. -/
def Chip.rxIn (c : Chip) (now p : Nat) (smd : Smd) (bs : List Byte) (pcs : Bool) : Chip :=
  match smd with
  | .express => c.rxFrame now p bs pcs (c.rxStamp now p bs.length)
  | .start no => c.rxStart now p no bs pcs
  | .cont no k => c.rxCont now p no k bs pcs
  | .verify => c.verifyIn p
  | .respond => c.respondIn p

/-- Whether port `p` receives from its partner (R249, R273). -/
def Chip.receives (c : Chip) (p : Nat) : Bool :=
  c.portOn p && c.link p && (c.loopback p == 0 || c.loopback p == 4)

/-- Whether what ends now, `n` bytes long, was in reception when ENABLE was cleared (R249): a frame, or the fragments of one. -/
def Chip.inReception (c : Chip) (now p n : Nat) : Bool :=
  match (c.port p).tail with
  | some t => c.present p && c.open1 (16 + p / 4) && (c.loopback p == 0 || c.loopback p == 4)
      && (decide (now - c.wireTime p n < t) || (c.port p).asm.isSome)
  | none => false

/-- A frame or an mPacket arrives at port `p`, with the RS-FEC codewords corrected and uncorrectable within it (R250, R252); in loopback 4
its symbols return to the transmitter (R273). -/
def Chip.frameReceive (c : Chip) (now p : Nat) (smd : Smd) (bs : List Byte) (pcs : Bool) (fecOk fecBad : Nat) : Chip :=
  if !c.receives p && !c.inReception now p bs.length then c
  else
    let c := (c.add (A.PX_FEC_CORRECTED p) fecOk).add (A.PX_FEC_UNCORRECTED p) fecBad
    let d := c.rxIn now p smd bs pcs
    let x := d.port p
    let d := if x.asm.isSome then d else d.setPort p { x with tail := none }
    if c.loopback p = 4 then { d with net := { d.net with sent := d.net.sent ++ [⟨p, bs, d.txStamp now p, smd⟩] } } else d

/-- The fields of Table 5-1 that Buffering writes (R228). -/
def Chip.metaAtBuffering (c : Chip) (p : Packet) : Chip :=
  let a := A.BP_META (c.bobSlot p.bob)
  let w0 := p.frameLen + p.plen * 2 ^ 16 + p.src * 2 ^ 32 + p.err * 2 ^ 40 + p.prioIn * 2 ^ 56
  ((((c.wr (a 0) (BitVec.ofNat 64 w0)).wr (a 1) (dtWord p.istamp)).wr (a 2) (BitVec.ofNat 64 (fracOf p.istamp))).wr (a 6)
    (BitVec.ofNat 64 (p.txq % 2 ^ 16 + p.txflags * 2 ^ 32))).wr (a 7) p.w7

/-- A packet in its bobbin becomes eligible for Dispatch (R133, R228). -/
def Chip.addPacket (c : Chip) (p : Packet) : Chip :=
  let pk := c.disp.nextPk
  let c := c.metaAtBuffering p
  let c := { c with disp := { c.disp with nextPk := pk + 1 } }
  (c.setPkt pk (some p)).becameEligible p.src

/-- The oldest frame that waits in the receive buffer of group `g` is granted a bobbin and buffered, or dropped (R229, R253, R134). -/
def Chip.poolAllocation (c : Chip) (now g : Nat) : Chip :=
  if !c.open1 (16 + g) then c else
  match takeFirst (fun f : RxFrame => f.port / 4 == g) c.net.rx with
  | none => c
  | some (f, rest) =>
    let c := { c with net := { c.net with rx := rest } }
    if !c.open1 23 then c
    else
      let (got, c) := c.alloc now f.bytes.length ⟨false, 0, true, false, f.port, f.prio, 0, 0⟩
      match got with
      | none => if c.present f.port then c.inc (A.PX_RX_NO_BOBBIN f.port) else c
      | some (id, _) =>
        let c := c.bobFill (c.bobBase id) f.bytes
        let ps := preParse f.bytes f.bytes.length c.stnOpt
        let cs := if c.flag (A.PX_CFG f.port) F.PX_CFG_RX_CSUM_EN then rxCsum f.bytes ps else 0
        c.addPacket { Packet.none with src := f.port, plen := f.bytes.length, frameLen := f.frameLen, err := f.err + cs,
                                       prioIn := f.prio, istamp := f.stamp, bob := id, w7 := metaWord7 ps }

/-! ### Link (R249, R258, R259) -/

/-- Restarts 802.3br verification as the registers and LINK ask (R259). -/
def Chip.verifyRestart (c : Chip) (now p : Nat) : Chip :=
  let pre := A.PX_PREEMPT p
  let dis := c.flag pre F.PX_PREEMPT_ENABLE && c.flag pre F.PX_PREEMPT_VERIFY_DIS
  let c := (c.set (A.PX_PREEMPT_STAT p) F.PX_PREEMPT_STAT_VERIFY_STATUS (if dis then 4 else 0)).setFlag (A.PX_PREEMPT_STAT p)
    F.PX_PREEMPT_STAT_ACTIVE (dis && c.link p)
  c.setPort p { c.port p with verifies := 0, verifyAt := now + ns (1000000 * c.get pre F.PX_PREEMPT_VERIFY_MS) }

/-- The journal entry of a change of LINK (R249, Table 15-8). -/
def Chip.linkNote (c : Chip) (now p : Nat) (up : Bool) : Chip :=
  c.journal now { JEvent.base with event := 6, level := 2, island := 16 + p / 4, detail := p, a0 := if up then 1 else 0 }

/-- What a MAC of port `p` transmits is lost and counts as having left (R258). -/
def Chip.loseJob (c : Chip) (now p : Nat) (j : Option TxJob) : Chip :=
  match j with
  | some j => (c.inc (A.PX_TX_LINK_DROP p)).dropReq now j.ent.req
  | none => c

/-- Everything port `p` transmits is lost. -/
def Chip.loseTx (c : Chip) (now p : Nat) : Chip :=
  let x := c.port p
  ((c.setPort p { x with express := none, pre := none, own := [] }).loseJob now p x.express).loseJob now p x.pre

/-- LINK of port `p` is cleared (R249, R258, R259); with LINKDOWN_US = 0 the drop state follows at once (R288). -/
def Chip.linkClear (c : Chip) (now p : Nat) : Chip :=
  if !c.link p then c
  else
    let c := (c.setFlag (A.PX_STATUS p) F.PX_STATUS_LINK false).linkNote now p false
    let c := (c.loseTx now p).verifyRestart now p
    let c := c.setPort p { c.port p with downAt := now }
    if c.get (A.TM_PORT p) F.TM_PORT_LINKDOWN_US = 0 then c.portDrop now p else c

/-- LINK of port `p` falls, and with it what was being received (R250). -/
def Chip.linkFall (c : Chip) (now p : Nat) : Chip := if !c.link p then c else (c.linkClear now p).asmBreak now p true

/-- A port starts (R249): training, and auto-negotiation where AN_EN asks. -/
def Chip.portStart (c : Chip) (p : Nat) : Chip :=
  if c.portOn p then
    let c := c.setPort p { c.port p with asm := none, tail := none }
    (c.setFlag (A.PX_STATUS p) F.PX_STATUS_TRAINING true).setFlag (A.PX_STATUS p) F.PX_STATUS_AN_DONE false
  else c

/-- ENABLE of port `p` has been set (R249): as a disabled port it was treated as without LINK for long, so it is in the drop state until LINK
comes (R288). -/
def Chip.portEnable (c : Chip) (p : Nat) : Chip :=
  (if c.link p then c else c.setFlag (A.TM_PORT p) F.TM_PORT_DROP_STATE true).portStart p

/-- Whether a MAC has a frame, or a fragment, in transmission. -/
def macGoing (j : Option TxJob) : Bool :=
  match j with
  | some { run := some r, .. } => r.since.isSome
  | _ => false

/-- Whether port `p` transmits. -/
def Chip.lineBusy (c : Chip) (p : Nat) : Bool := macGoing (c.port p).express || macGoing (c.port p).pre

/-- A port stops once no frame or fragment is in transmission (R249), and what is queued for it is dropped (R288). -/
def Chip.portHalt (c : Chip) (now p : Nat) : Chip :=
  if c.lineBusy p then c
  else
    let c := (c.setFlag (A.PX_STATUS p) F.PX_STATUS_TRAINING false).setFlag (A.PX_STATUS p) F.PX_STATUS_AN_DONE false
    (c.linkClear now p).portDrop now p

/-- ENABLE of port `p` has been cleared (R249): the frame in reception, if there is one, is still received. -/
def Chip.portStop (c : Chip) (now p : Nat) : Chip :=
  (if c.link p then c.setPort p { c.port p with tail := some now } else c).portHalt now p

/-- Every lane of group `g` retrains (R247). -/
def Chip.groupRetrain (c : Chip) (now g : Nat) : Chip :=
  (List.range 4).foldl (fun c k => (c.linkFall now (4 * g + k)).portStart (4 * g + k)) c

/-- The PCS and the RS-FEC of port `p` report lock (R249). -/
def Chip.linkRise (c : Chip) (now p : Nat) : Chip :=
  if !c.portOn p || c.link p then c
  else
    let a := A.PX_STATUS p
    let c := ((c.setFlag a F.PX_STATUS_LINK true).setFlag a F.PX_STATUS_TRAINING false).setFlag a F.PX_STATUS_AN_DONE
      (c.flag (A.PX_CFG p) F.PX_CFG_AN_EN)
    ((c.setFlag (A.TM_PORT p) F.TM_PORT_DROP_STATE false).linkNote now p true).verifyRestart now p

/-! ### 802.3br verification (R259) -/

/-- VERIFY_MS has passed: a verify mPacket, or FAILED after three. -/
def Chip.verifyTimer (c : Chip) (now p : Nat) : Chip :=
  let st := A.PX_PREEMPT_STAT p
  let s := c.get st F.PX_PREEMPT_STAT_VERIFY_STATUS
  let x := c.port p
  if !c.portOn p || !c.link p || !c.flag (A.PX_PREEMPT p) F.PX_PREEMPT_ENABLE || decide (2 ≤ s) || decide (now < x.verifyAt) then c
  else if 3 ≤ x.verifies then c.set st F.PX_PREEMPT_STAT_VERIFY_STATUS 3
  else
    let c := (c.set st F.PX_PREEMPT_STAT_VERIFY_STATUS 1).own p (.mpacket .verify)
    c.setPort p { c.port p with verifies := x.verifies + 1, verifyAt := now + ns (1000000 * c.get (A.PX_PREEMPT p) F.PX_PREEMPT_VERIFY_MS) }

/-- A respond mPacket arrives from the partner. -/
def Chip.respondReceive (c : Chip) (now p : Nat) : Chip := c.frameReceive now p .respond [] false 0 0

/-- A verify mPacket arrives from the partner. -/
def Chip.verifyReceive (c : Chip) (now p : Nat) : Chip := c.frameReceive now p .verify [] false 0 0

/-! ### Transmission (R256-R265, R271, R272, R409) -/

/-- The bytes at a place of bobbin memory with the poison of each. -/
def Chip.readMarked (c : Chip) (now a n slice : Nat) : List Byte × List Bool × Chip :=
  let words := if n = 0 then [] else (List.range ((a + n - 1) / 32 - a / 32 + 1)).map (· + a / 32)
  let (bad, c) := words.foldl (fun (r : List Nat × Chip) w =>
    let (p, c) := r.2.readSram now 0 w 0 slice
    (if p then r.1 ++ [w] else r.1, c)) ([], c)
  (rdBytes c.mem.bob a n, (List.range n).map fun i => memNat ((a + i) / 32) bad, c)

/-- The bytes of a departing packet (R156, R292) with the poison of each: NEW header bytes, then data from CUT on. -/
def Chip.departBytes (c : Chip) (now : Nat) (r : EnqReq) : List Byte × List Bool × Chip :=
  let (h, hm, c) := match r.hdr with
    | some id => c.readMarked now (c.bobBase id) r.new r.slice
    | none => ([], [], c)
  let (d, dm, c) := match r.bob with
    | some id => c.readMarked now (c.bobBase id + r.cut) (r.plen - r.cut) r.slice
    | none => ([], [], c)
  (h ++ d, hm ++ dm, c)

/-- What a MAC of port `p` transmits. -/
def PortSt.mac (x : PortSt) (express : Bool) : Option TxJob := if express then x.express else x.pre

/-- Replaces what a MAC of port `p` transmits. -/
def Chip.setMac (c : Chip) (p : Nat) (express : Bool) (j : Option TxJob) : Chip :=
  c.setPort p (if express then { c.port p with express := j } else { c.port p with pre := j })

/-- A packet has left a MAC, or counts as having left (R38): its references are released and the MAC is free. -/
def Chip.leave (c : Chip) (now p : Nat) (express : Bool) (j : TxJob) : Chip := (c.setMac p express none).dropReq now j.ent.req

/-- The egress filter and the length limit over the frames still to be sent (R256, R409): the first that may be sent heads the list. -/
def Chip.screen (now p slice : Nat) : List TxFrame → Chip → List TxFrame × Chip
  | [], c => ([], c)
  | f :: fs, c =>
    if slice ≠ 0 ∧ c.isCmdFrame f.bytes = true then
      Chip.screen now p slice fs ((c.inc (A.CP_CMD_TX_FILTER p)).raise now Flt.CP_CMD_SPOOF (16 + p / 4) 63 slice 0)
    else if c.maxFrame p < (padFrame f.bytes).length + 4 then Chip.screen now p slice fs (c.inc (A.PX_TX_OVERSIZE_DROP p))
    else (f :: fs, c)

/-- Writes a transmit stamp to the group's timestamp ring (R272). -/
def Chip.ringStamp (c : Chip) (p s typ seq : Nat) : Chip :=
  let g := p / 4
  let h := c.get (A.PX_TS_HEAD g) F.PX_TS_HEAD_V
  if (h + 1) % 64 = c.get (A.PX_TS_TAIL g) F.PX_TS_TAIL_V then c.inc (A.PX_TS_OVERFLOW g)
  else
    let w1 := fracOf s + (p % 4) * 2 ^ 16 + typ * 2 ^ 20 + seq * 2 ^ 24
    ((c.wr (A.PX_TS g h) (dtWord s)).wr (A.PX_TS g h + 8) (BitVec.ofNat 64 w1)).set (A.PX_TS_HEAD g) F.PX_TS_HEAD_V ((h + 1) % 64)

/-- A PTP event message as it leaves (R271): a one-step Sync is changed in flight, another message may leave its stamp in the ring. -/
def Chip.ptpTx (c : Chip) (p s : Nat) (bs : List Byte) : List Byte × Chip :=
  let cfg := c.get (A.PX_TS_CFG p) F.PX_TS_CFG_V
  match ptpEvent bs (natBits cfg 2 1 == 1) (natBits cfg 3 1 == 1) with
  | none => (bs, c)
  | some (typ, h, u) =>
    if natBits cfg 0 1 = 1 ∧ typ = 0 ∧ byteAt bs (h + 6) / 2 % 2 = 0 ∧ h + 44 ≤ bs.length then (oneStep bs h u s, c)
    else if natBits cfg 1 1 = 1 then (bs, c.ringStamp p s typ (u16At bs (h + 30)))
    else (bs, c)

/-- The frames of a job, built if they are not yet: none where a check of R264 fails. -/
def Chip.buildJob (c : Chip) (now p : Nat) (j : TxJob) : Option (List TxFrame) × Chip :=
  match j.frames with
  | some fs => (some fs, c)
  | none =>
    let (d, m, c) := c.departBytes now j.ent.req
    (departFrames d m j.ent.req.wordB (c.maxFrame p), c)

/-- What begins on the wire a frame, or the next fragment of one (R260). -/
def TxRun.smd (r : TxRun) : Smd :=
  match r.no with
  | none => .express
  | some no => if r.count = 0 then .start no else .cont no (Fin.ofNat 4 (r.count - 1))

/-- What a MAC of port `p` has put out: it leaves, or in loopback 1 to 3 returns to the receive MAC; in loopback 4 the transmitters carry
the received symbols alone (R273). -/
def Chip.wireOut (c : Chip) (now p : Nat) (smd : Smd) (bs : List Byte) (s : Nat) : Chip :=
  let lb := c.loopback p
  if 1 ≤ lb ∧ lb ≤ 3 then c.rxIn now p smd bs false
  else if lb = 4 then c
  else { c with net := { c.net with sent := c.net.sent ++ [⟨p, bs, s, smd⟩] } }

/-- The bytes port `p` sends between two stamps. -/
def Chip.bytesIn (c : Chip) (p s e : Nat) : Nat := (e - s) * c.rate p / (8 * 65536)

/-- The preemptable frame in transmission is interrupted at stamp `s` (R260): its fragment ends with its mCRC. None where either part would
be shorter than a fragment may be (entry 203). -/
def Chip.cutPre (c : Chip) (now p s : Nat) : Option Chip :=
  match (c.port p).pre with
  | some j =>
    match j.run, j.frames with
    | some r, some (f :: _) =>
      match r.since with
      | none => none
      | some t =>
        let n := c.bytesIn p t s
        if r.no.isSome ∧ 64 * (1 + c.get (A.PX_PREEMPT p) F.PX_PREEMPT_ADD_FRAG) ≤ n + 4 ∧ r.done + n + 60 ≤ f.bytes.length then
          let sent := f.bytes.take (r.done + n)
          let c := c.setMac p false (some { j with run := some { r with done := r.done + n, count := r.count + 1, since := none } })
          some (c.wireOut now p r.smd (sent.drop r.done ++ mcrcOf sent) r.stamp)
        else none
    | _, _ => none
  | none => none

/-- When gate `k` of port `p`, open at stamp `s`, next closes; `fuel` bounds the intervals looked at. -/
def Chip.gateClose (c : Chip) (p k : Nat) : Nat → Nat → Option Nat
  | 0, _ => none
  | n + 1, s =>
    let (st, fin) := c.gatesAt p s
    if natBits st k 1 = 0 then some s
    else match fin with
      | none => none
      | some f => Chip.gateClose c p k n f

/-- The port queue of a job. -/
def Chip.jobPq (c : Chip) (j : TxJob) : Nat := c.get (A.TM_QUEUE (j.queue % 2 ^ 16)) F.TM_QUEUE_PQ

/-- The preemptable frame in transmission is interrupted where its gate has closed meanwhile (R286). -/
def Chip.gateCut (c : Chip) (now p : Nat) : Chip :=
  match (c.port p).pre with
  | some j =>
    match j.run with
    | some { no := some _, since := some t, .. } =>
      if !c.flag (A.TM_PORT p) F.TM_PORT_GATE_EN then c
      else match c.gateClose p (c.jobPq j) 20000 t with
        | some e => if e < c.txStamp now p then (c.cutPre now p e).getD c else c
        | none => c
    | _ => c
  | none => c

/-- The line of port `p` for a MAC: it is free, or the express MAC interrupts a preemptable frame (R260). -/
def Chip.lineFor (c : Chip) (now p : Nat) (express : Bool) : Option Chip :=
  if !c.lineBusy p then some c
  else if express && macGoing (c.port p).pre then c.cutPre now p (c.txStamp now p)
  else none

/-- Counts a frame of port `p` as sent with stamp `s` (R256, R434, R436); `acct` is its billing slice, where it is billed. -/
def Chip.countTx (c : Chip) (p len s : Nat) (acct : Option Nat) : Chip :=
  let c := ((c.inc (A.PX_TX_FRAMES p)).add (A.PX_TX_BYTES p) len).report 1 p len s
  match acct with
  | some a => c.report 3 a len s
  | none => c

/-- One frame of port `p`'s own leaves by the express MAC with stamp `s` (R267, R271, R408). -/
def Chip.ownOut (c : Chip) (now p s : Nat) (f : OwnFrame) : Chip :=
  match f with
  | .pause bs => (c.wireOut now p .express (bs ++ fcsOf bs) s).inc (A.PX_TX_PAUSE p)
  | .mpacket m => c.wireOut now p m [] s
  | .frame bs =>
    let (bs, c) := c.ptpTx p s bs
    ((c.clockSent p s bs).wireOut now p .express (bs ++ fcsOf bs) s).countTx p (bs.length + 4) s none

/-- The frames of port `p`'s own leave at the next frame or fragment boundary (R267). -/
def Chip.ownGo (c : Chip) (now p : Nat) : Chip :=
  let x := c.port p
  if x.own.isEmpty then c
  else if !c.link p || !c.open1 (16 + p / 4) then c.setPort p { x with own := [] }
  else
    match (c.gateCut now p).lineFor now p true with
    | none => c
    | some c => x.own.foldl (fun c f => c.ownOut now p (c.txStamp now p) f) (c.setPort p { c.port p with own := [] })

/-- An interrupted frame goes on with its next fragment (R260, R286). -/
def Chip.txResume (c : Chip) (now p : Nat) (j : TxJob) (r : TxRun) : Chip :=
  let s := c.txStamp now p
  let left := ((j.frames.getD []).headD ⟨[], false⟩).bytes.length - r.done + 4
  if c.gateAdmits p (c.jobPq j) s left false && !c.lineBusy p then
    c.setMac p false (some { j with run := some { r with since := some s } })
  else c

/-- A MAC of port `p` starts its next frame or goes on with the one interrupted (R257, R260, R262-R265, R271, R409), if LINK, pause, gate
and the other MAC let it. -/
def Chip.txStart (c : Chip) (now p : Nat) (express : Bool) : Chip :=
  let c := (c.gateCut now p).ownGo now p
  match (c.port p).mac express with
  | none => c
  | some j =>
    if !c.portOn p || !c.link p || macGoing (some j) || !c.open1 23 || !(c.port p).own.isEmpty then c
    else
      let k := c.jobPq j
      if nth 0 (c.port p).paused k ≠ 0 then c
      else
        match j.run with
        | some r => c.txResume now p j r
        | none =>
          match c.buildJob now p j with
          | (none, c) => (c.inc (A.PX_TX_SEG_ERR p)).leave now p express j
          | (some fs, c) =>
            match Chip.screen now p j.ent.req.slice fs c with
            | ([], c) => c.leave now p express j
            | (f :: fs, c) =>
              let s := c.txStamp now p
              let bs := padFrame f.bytes
              if c.gateAdmits p k s (bs.length + 4) express then
                let c := c.setMac p express (some { j with frames := some (f :: fs) })
                match c.lineFor now p express with
                | none => c
                | some c =>
                  let (bs, c) := c.ptpTx p s bs
                  let x := c.port p
                  let pre := !express && c.preActive p
                  let run : TxRun := ⟨s, if pre then some x.txNo else none, 0, 0, some s⟩
                  let c := c.setMac p express (some { j with frames := some ({ f with bytes := bs } :: fs), run := some run })
                  if pre then c.setPort p { c.port p with txNo := x.txNo + 1 } else c
              else
                let hold := !j.ent.held && c.guardHolds p k s (bs.length + 4) express
                let c := if hold then c.inc (A.TM_PORT_GATE_HOLD p) else c
                c.setMac p express (some { j with frames := some (f :: fs), ent := { j.ent with held := j.ent.held || hold } })

/-- The frame in transmission of a MAC of port `p` ends (R256-R258, R261, R265, R273): `abort` where MR was fenced before all of it came.
A port whose ENABLE has been cleared stops then (R249). -/
def Chip.txEnd (c : Chip) (now p : Nat) (express abort : Bool) : Chip :=
  let c := c.gateCut now p
  match (c.port p).mac express with
  | none => c
  | some j =>
    match j.run, j.frames with
    | some r, some (f :: fs) =>
      if r.since.isNone && !abort then c
      else
        let stomp := f.poison || abort
        let fcs := if stomp then stompedFcs f.bytes else fcsOf f.bytes
        let c := c.countTx p (f.bytes.length + 4) r.stamp (some j.ent.req.acct)
        let c := if f.poison then (c.inc (A.PX_TX_STOMPED p)).raise now Flt.PX_TX_POISON (16 + p / 4) 63 0 0 else c
        let c := if abort then c.inc (A.PX_TX_ABORT p) else c
        let c := if fs.isEmpty then c.leave now p express j
          else c.setMac p express (some { j with frames := some fs, run := none, ent := { j.ent with held := false } })
        let c := c.wireOut now p r.smd (f.bytes.drop r.done ++ fcs) r.stamp
        let c := { c with due := c.due ++ [.own p] }
        if c.flag (A.PX_CFG p) F.PX_CFG_ENABLE then c else c.portHalt now p
    | _, _ => c

end Sys2Proof.Machine
end

