-- ==== Sys2Proof/Machine/TmOps.lean ====
section
/-! DEFINITION. The Traffic Manager (spec/10_traffic_manager.md): charged length, policers, admission, scheduling of the ports, gate
drops, copies and queue depth, the checks of its registers. -/

namespace Sys2Proof.Machine

/-! ### Host receive queues as the Traffic Manager sees them (R276, R284) -/

/-- STATE of queue pair `n`. -/
def Chip.qpState (c : Chip) (n : Nat) : Nat := c.get (A.DE_QP n) F.DE_QP_STATE

/-- Whether the topology is Twin (R334). -/
def Chip.twin (c : Chip) : Bool := c.flag A.HE_TOPOLOGY F.HE_TOPOLOGY_MODE

/-- The home endpoint of slice `s` (R336, R347, R348). -/
def Chip.sliceHome (c : Chip) (s : Nat) : Nat := if s = 0 then 0 else c.get (A.SM_SLICE s) F.SM_SLICE_ENDPOINT

/-- The endpoint queue pair `n` is homed on: its ENDPOINT, in Twin its slice's home (Table 13-1 ff.). -/
def Chip.qpHome (c : Chip) (n : Nat) : Nat :=
  if c.twin then c.sliceHome (c.get (A.DE_QP n) F.DE_QP_SLICE) else c.get (A.DE_QP n) F.DE_QP_ENDPOINT

/-- Whether the topology register sluices endpoint `e` (R338). -/
def Chip.sluiced (c : Chip) (e : Nat) : Bool := c.flag (0x20000018 + 0x8000000 * e) ⟨0, 0, 1⟩

/-! ### Charged length (R278) -/

/-- The bytes of a departing packet as they stand, before any egress edit. -/
def Chip.rawBytes (c : Chip) (r : EnqReq) : List Byte :=
  (match r.hdr with
    | some id => rdBytes c.mem.bob (c.bobBase id) r.new
    | none => [])
  ++ (match r.bob with
    | some id => rdBytes c.mem.bob (c.bobBase id + r.cut) (r.plen - r.cut)
    | none => [])

/-- The lengths with FCS of the frames a departing packet makes (R256, R263): one, or its segments, whether or not it passes the checks of
R264 (entry 58). -/
def Chip.frameLens (c : Chip) (r : EnqReq) : List Nat :=
  let len := r.new + (r.plen - r.cut)
  if wB r.wordB 0 3 = 0 then [len + 4]
  else
    let h := segHeader (c.rawBytes r) r.wordB
    let mss := wB r.wordB 32 14
    (List.range (segCount len h mss)).map fun k => min h len + min mss (len - h - k * mss) + 4

/-- The charged length B of a request (R278). -/
def Chip.charged (c : Chip) (now : Nat) (r : EnqReq) : Int :=
  if !isShaped r.queue then ((r.new + (r.plen - r.cut) : Nat) : Int)
  else
    let adj := signExt 8 (c.qf (c.mrNow now) r.queue F.TM_QUEUE_LEN_ADJ)
    (c.frameLens r).foldl (fun (n : Int) l => n + (max l 64 : Nat) + adj) 0

/-! ### Policers and credits (R281-R283, R295) -/

/-- The unit of buckets and credits: a rate in Mb/s times a time in 2^-16 ns is a number of 1/tokenUnit bytes. -/
def tokenUnit : Nat := 8000 * 65536

/-- Puts a number into a rising list. -/
def insertNat (n : Nat) : List Nat → List Nat
  | [] => [n]
  | x :: xs => if n ≤ x then n :: x :: xs else x :: insertNat n xs

/-- The times in (lo, hi] at which a keyed value of one of the addresses comes into force, rising, then `hi`. -/
def Chip.cuts (c : Chip) (as : List Nat) (lo hi : Nat) : List Nat :=
  ((c.ft.armed.filter fun k => memNat k.addr as && decide (lo < k.t) && decide (k.t ≤ hi)).map (·.t)).foldr insertNat [hi]

/-- The buckets of policer `i` at `now` (R281, R282): they gain at the rates in force, capped at the bursts; a policer that comes to be
enabled starts full, a disabled one is empty. -/
def Chip.buckets (c : Chip) (now i : Nat) : PolSt :=
  let a := A.TM_POLICER i
  let en (t : Nat) : Bool := c.getAt t a F.TM_POLICER_ENABLE == 1
  let cap (t : Nat) (f : Fld) : Nat := c.getAt t a f * tokenUnit
  (c.cuts [a, a + 8] (mget PolSt.init c.tm.pol i).at_ now).foldl (fun (p : PolSt) t =>
    if !en t then ⟨0, 0, t⟩
    else if !en p.at_ then ⟨cap t F.TM_POLICER_CBS, cap t F.TM_POLICER_PBS, t⟩
    else
      let dt := t - p.at_
      ⟨min (p.tc + c.getAt p.at_ a F.TM_POLICER_CIR * dt) (cap t F.TM_POLICER_CBS),
       min (p.tp + c.getAt p.at_ a F.TM_POLICER_PIR * dt) (cap t F.TM_POLICER_PBS), t⟩) (mget PolSt.init c.tm.pol i)

/-- Stores the buckets of policer `i`. -/
def Chip.setBuckets (c : Chip) (i : Nat) (p : PolSt) : Chip :=
  { c with tm := { c.tm with pol := mset PolSt.init c.tm.pol i p } }

/-- One policer on a packet of charged length `b` and ingress stamp `s` (R281): the colour, and the buckets to be committed after
those of `pend`, newest first. -/
def Chip.meter (c : Chip) (now s i colour : Nat) (b : Int) (pend : List (Nat × PolSt)) : Nat × List (Nat × PolSt) :=
  let a := A.TM_POLICER i
  if i = 0 ∨ c.getAt s a F.TM_POLICER_ENABLE = 0 then (colour, pend)
  else
    let p := match pend.find? fun x => x.1 == i with
      | some x => x.2
      | none => c.buckets (c.mrNow now) i
    let need := b * tokenUnit
    let col := if c.getAt s a F.TM_POLICER_COLOUR_BLIND = 1 then 0 else colour
    if col = 2 ∨ (p.tp : Int) < need then (2, (i, p) :: pend)
    else
      let tp := ((p.tp : Int) - need).toNat
      if col = 1 ∨ (p.tc : Int) < need then (1, (i, { p with tp := tp }) :: pend)
      else (0, (i, { p with tp := tp, tc := ((p.tc : Int) - need).toNat }) :: pend)

/-! ### Admission (R279) -/

/-- The Stitch word of array 10 that holds the context of queue `q`, and that of policer `i` (entry 9). -/
def queueWord (q : Nat) : Nat := if isShaped q then 147456 + q % 65536 else 212992 + q / 4
def policerWord (i : Nat) : Nat := 131072 + i

/-- Adds a signed number to a 48-bit counter. -/
def Chip.addInt (c : Chip) (a : Nat) (n : Int) : Chip :=
  if mget false c.smp.edge a then c.inc a else c.set a ⟨0, 0, 48⟩ (((c.get a ⟨0, 0, 48⟩ : Int) + n) % 2 ^ 48).toNat

/-- Whether queue `q` is enabled for admission (check 1). -/
def Chip.tmEnabled (c : Chip) (now q : Nat) : Bool :=
  if isShaped q then c.qf (c.mrNow now) q F.TM_QUEUE_ENABLE == 1
  else c.qpState q == 1 && c.getAt (c.mrNow now) (A.TM_HRXQ q) F.TM_HRXQ_ENABLE == 1

/-- Whether slice `sl` may use queue `q` at stamp `s` (check 2). -/
def Chip.tmAccess (c : Chip) (now s q sl : Nat) (system : Bool) : Bool :=
  system || (if isShaped q then c.qf s q F.TM_QUEUE_OPEN == 1 || c.qf (c.mrNow now) q F.TM_QUEUE_OWNER == sl
    else c.getAt s (A.TM_HRXQ q) F.TM_HRXQ_OPEN == 1 || c.get (A.DE_QP q) F.DE_QP_SLICE == sl)

/-- Whether port `p` is in the link-down drop state (R288), or treated so: absent and disabled ports are (entry 34). -/
def Chip.dropState (c : Chip) (p : Nat) : Bool :=
  c.flag (A.TM_PORT p) F.TM_PORT_DROP_STATE || !c.flag (A.PX_CFG p) F.PX_CFG_ENABLE || !c.present p

/-- What check 3 finds of the destination of queue `q`. -/
def Chip.tmDest (c : Chip) (now q : Nat) : Status :=
  if isShaped q then
    let p := c.shapedPort now q
    if !c.open1 (16 + p / 4) then Code.ABSENT else if c.dropState p then Code.LINK_DOWN else Code.OK
  else if !c.open1 (20 + c.qpHome q) then Code.ABSENT else Code.OK

/-- The second policer of queue `q`, whether it drops red packets, and its limit for a colour, at stamp `s`. -/
def Chip.tmPolicer (c : Chip) (s q : Nat) : Nat :=
  if isShaped q then c.qf s q F.TM_QUEUE_POLICER else c.getAt s (A.TM_HRXQ q) F.TM_HRXQ_POLICER
def Chip.tmRedDrop (c : Chip) (s q : Nat) : Bool :=
  (if isShaped q then c.qf s q F.TM_QUEUE_RED_DROP else c.getAt s (A.TM_HRXQ q) F.TM_HRXQ_RED_DROP) == 1
def Chip.tmLimit (c : Chip) (s q colour : Nat) : Nat :=
  if isShaped q then
    c.qf s q (if colour = 0 then F.TM_QUEUE_LIMIT_G else if colour = 1 then F.TM_QUEUE_LIMIT_Y else F.TM_QUEUE_LIMIT_R)
  else
    let l := c.getAt s (A.TM_HRXQ q) F.TM_HRXQ_LIMIT
    if colour = 2 then l / 2 else l

/-- A request is dropped with a code: counted, and its references released as by a system agent (R279). An enqueue to a fenced
destination counts as such whichever check drops it (R289, entry 206). -/
def Chip.tmRefuse (c : Chip) (now : Nat) (r : EnqReq) (code : Status) (red : Bool) : Chip :=
  let c := if c.tmDest now r.queue = Code.ABSENT then c.inc (A.TM_ABSENT_DROP r.queue) else c
  let c := if code = Code.ABSENT then c.inc A.TM_REJECT_ABSENT
    else if code / 256 = 7 then c.inc (A.TM_REJECT (code - 0x700)) else c
  let c := c.inc (A.TM_DROP r.queue)
  (if red then c.inc (A.TM_RED r.queue) else c).dropReq now r

/-- The contexts check 4 needs: those of its policers that are enabled. -/
def Chip.readPolicers (now slice : Nat) : List Nat → Chip → Bool × Chip
  | [], c => (false, c)
  | i :: is, c =>
    let (p, c) := if i = 0 then (false, c) else c.readSram now 10 (policerWord i) 0 slice
    let (q, c) := Chip.readPolicers now slice is c
    (p || q, c)

/-- The lowest entry of the Traffic Manager that is free. -/
def Chip.freeEntry (c : Chip) : Option Nat :=
  let used := c.tmEntries.map (·.slot)
  firstFrom (fun k => !memNat k used) 65536 0

/-- A request that passed every check is admitted into entry `slot`. -/
def Chip.tmAdmit (c : Chip) (r : EnqReq) (slot colour : Nat) (b : Int) (pend : List (Nat × PolSt)) : Chip :=
  let c := pend.reverse.foldl (fun (c : Chip) x => c.setBuckets x.1 x.2) c
  let c := (c.setSram 10 (2 * slot) 0).setSram 10 (2 * slot + 1) 0
  let c := c.setTmq r.queue (c.tmq r.queue ++ [⟨slot, { r with colour := colour }, b, false⟩])
  let c := (c.inc (A.TM_ENQ_FRAMES r.queue)).addInt (A.TM_ENQ_BYTES r.queue) b
  if colour = 2 then c.inc (A.TM_RED r.queue) else c

/-- The Traffic Manager judges an enqueue request (R279): the status and the colour after policing. -/
def Chip.tmEnqueue (c : Chip) (now : Nat) (r : EnqReq) : Status × Nat × Chip :=
  let q := r.queue
  let s := r.istamp
  let no (c : Chip) (code : Status) : Status × Nat × Chip := (code, r.colour, c.tmRefuse now r code false)
  let (bad, c) := c.readSram now 10 (queueWord q) 0 r.slice
  if bad then no c Code.POISONED
  else if !c.tmEnabled now q then no c Code.NO_QUEUE
  else if !c.tmAccess now s q r.slice r.system then no (c.raise now Flt.TM_FOREIGN_QUEUE 23 63 r.slice 0) Code.FOREIGN_QUEUE
  else if c.tmDest now q ≠ Code.OK then no c (c.tmDest now q)
  else
    let i := c.getAt s (A.TM_CLASS r.cls) F.TM_CLASS_POLICER
    let j := c.tmPolicer s q
    let (bad, c) := Chip.readPolicers now r.slice [i, j] c
    if bad then no c Code.POISONED
    else
      let b := c.charged now r
      let (col, pend) := c.meter now s i r.colour b []
      let (col, pend) := c.meter now s j col b pend
      let drop (code : Status) : Status × Nat × Chip := (code, col, c.tmRefuse now r code (col == 2))
      if col = 2 ∧ c.tmRedDrop s q = true then drop Code.POLICED
      else if (c.tmLimit s q col : Int) < units (c.tmBytes q) + units b then drop Code.QUEUE_FULL
      else
        match c.freeEntry with
        | none => drop Code.NO_ENTRY
        | some slot => (Code.OK, col, c.tmAdmit r slot col b pend)

/-- The oldest enqueue request that has left its order stage is judged (R279, R280). -/
def Chip.tmEnqueueNext (c : Chip) (now : Nat) : Chip :=
  if !c.open1 23 then c else
  match c.disp.enq with
  | [] => c
  | r :: rest => ({ c with disp := { c.disp with enq := rest } }.tmEnqueue now r).2.2

/-! ### Copies and queue depth (R291-R293) -/

/-- Whether a bobbin has a reference bound to the sender of a request; `alloc` asks for an ALLOC bobbin as well (R292). -/
def Chip.boundTo_ (c : Chip) (r : EngReq) (alloc : Bool) (id : Nat) : Bool :=
  c.bobNamed id && c.bobGet id F.BP_STATE_STATE == 1 && c.bobBound id == r.key && decide (0 < c.bobGet id F.BP_STATE_BREF)
    && (!alloc || (c.bobGet id F.BP_STATE_PKT == 0 && c.bobGet id F.BP_STATE_HDR == 0))

/-- The conditions that end a COPY with BAD_ARGUMENT (R292). -/
def Chip.copyBad (c : Chip) (r : EngReq) : Bool :=
  let w0 := nth 0 r.words 0
  let w1 := nth 0 r.words 1
  let w2 := nth 0 r.words 2
  let data := getBits w0 28 1 == 1
  let hv := getBits w1 24 1 == 1
  let id := getBits w1 0 24
  r.words.length != 3 || getBits w0 17 1 != 0 || getBits w0 29 3 != 0 || getBits w0 41 9 != 0 || getBits w1 40 24 != 0
    || (!data && !hv) || (data && !r.valid)
    || !verdictOk (if r.valid then r.plen else 0) (setBits w0 28 1 0) w2
    || (hv && (!c.bobNamed id || getBits w1 25 15 == 0 || decide (c.bobSize id < getBits w1 25 15)))

/-- A COPY request (R292): its reply. -/
def Chip.copy (c : Chip) (now : Nat) (r : EngReq) : List Word × Chip :=
  let reply (st fl : Nat) : List Word := [replyWord st fl 624 0]
  let w0 := nth 0 r.words 0
  let w1 := nth 0 r.words 1
  let data := getBits w0 28 1 == 1
  let hv := getBits w1 24 1 == 1
  let id := getBits w1 0 24
  if c.copyBad r then (reply Code.BAD_ARGUMENT 0, c)
  else
    let (p1, c) := if hv then c.readState now id else (false, c)
    let (p2, c) := if data then c.readState now r.pkt else (false, c)
    if p1 || p2 then (reply Code.POISONED 0, c)
    else if (hv && !c.boundTo_ r true id) || (data && !c.boundTo_ r false r.pkt) then (reply Code.NOT_BOUND 0, c)
    else
      let c := if hv then c.handOver now id else c
      let c := if data then c.handOver now r.pkt else c
      let (v, c) := if r.pk.isSome then (0, c) else c.fresh
      let p := (r.pk.bind c.pkt).getD Packet.none
      let (st, col, c) := c.tmEnqueue now
        { pk := r.pk.getD 0, bob := if data then some r.pkt else none, plen := if data then r.plen else 0,
          hdr := if hv then some id else none, cut := if data then getBits w0 32 9 else 0,
          new := if hv then getBits w1 25 15 else 0, wordB := nth 0 r.words 2, queue := getBits w0 0 17,
          colour := getBits w0 18 2, cls := getBits w0 20 8, slice := r.slice,
          acct := if getBits w0 63 1 = 1 then getBits w0 50 13 else r.slice,
          src := if r.pk.isSome then p.src else v % 256, txq := p.txq,
          istamp := if r.pk.isSome then r.istamp else c.mrNow now, system := r.system, mill := r.mill }
      (reply st col, c)

/-- A QDEPTH request (R293): its reply. -/
def Chip.qdepth (c : Chip) (now : Nat) (r : EngReq) : List Word × Chip :=
  let w := nth 0 r.words 0
  let q := getBits w 0 17
  let reply (st fl v : Nat) : List Word := [replyWord st fl 625 v]
  if r.words.length ≠ 1 ∨ getBits w 17 47 ≠ 0 then (reply Code.BAD_ARGUMENT 0 0, c)
  else
    let (bad, c) := c.readSram now 10 (queueWord q) 0 r.slice
    if bad then (reply Code.POISONED 0 0, c)
    else if !c.tmAccess now (if r.pk.isSome then r.istamp else c.mrNow now) q r.slice r.system then (reply Code.FOREIGN_QUEUE 0 0, c)
    else (reply Code.OK (if c.tmEnabled now q then 1 else 0) (units (c.tmBytes q) % 2 ^ 24).toNat, c)

/-! ### Scheduling (R283, R284) -/

/-- The visits a queue of deficit `d` needs before its quantum covers `need`: at least one. -/
def visits (d need : Int) (quantum : Nat) : Nat := max 1 ((need - d + quantum - 1) / quantum).toNat

/-- Deficit round robin over rising queue numbers (entry 32): `last` is one more than the queue chosen last, which is chosen again while
its deficit covers its head; else the round goes on after it, each visit adding the quantum. Answers the choice and what each
deficit gains. -/
def drr (cands : List Nat) (last : Nat) (deficit need : Nat → Int) (quantum : Nat → Nat) : Option (Nat × List (Nat × Int)) :=
  if last ≠ 0 ∧ memNat (last - 1) cands = true ∧ need (last - 1) ≤ deficit (last - 1) then some (last - 1, [])
  else
    let order := (cands.filter fun q => decide (last ≤ q)) ++ cands.filter fun q => decide (q < last)
    let turns (q : Nat) : Nat := visits (deficit q) (need q) (quantum q)
    match leastBy turns order with
    | none => none
    | some q =>
      let n := turns q
      let before := order.takeWhile (· != q)
      some (q, order.map fun x =>
        (x, ((if x = q ∨ memNat x before = true then n else n - 1) * quantum x : Nat)))

/-- The credits, deficit and time of queue `q`. -/
def Chip.shape (c : Chip) (q : Nat) : ShapeSt := mget ShapeSt.init c.tm.shaped q

/-- Replaces them. -/
def Chip.setShape (c : Chip) (q : Nat) (x : ShapeSt) : Chip :=
  { c with tm := { c.tm with shaped := mset ShapeSt.init c.tm.shaped q x } }

/-- Those of port queue `n`. -/
def Chip.pqShape (c : Chip) (n : Nat) : ShapeSt := mget ShapeSt.init c.tm.portq n

/-- Replaces them. -/
def Chip.setPqShape (c : Chip) (n : Nat) (x : ShapeSt) : Chip :=
  { c with tm := { c.tm with portq := mset ShapeSt.init c.tm.portq n x } }

/-- What round robin `k` chose last. -/
def Chip.turn (c : Chip) (k : Nat) : Nat := mget 0 c.tm.turn k

/-- Notes what it chose. -/
def Chip.setTurn (c : Chip) (k q : Nat) : Chip := { c with tm := { c.tm with turn := mset 0 c.tm.turn k (q + 1) } }

/-- Adds to the deficits of queues. -/
def Chip.gain (c : Chip) (adds : List (Nat × Int)) : Chip :=
  adds.foldl (fun (c : Chip) x => c.setShape x.1 { c.shape x.1 with deficit := (c.shape x.1).deficit + x.2 }) c

/-- The credits of shaped queue `q` at `now` (R283, R295). -/
def Chip.credit (c : Chip) (now q : Nat) : ShapeSt :=
  let a := A.TM_QUEUE (q % 65536) + 8
  (c.cuts [a] (c.shape q).at_ now).foldl (fun (x : ShapeSt) t =>
    let dt := t - x.at_
    let f (g : Fld) (u : Nat) : Nat := getBits (c.rdAt u a) g.lo g.width
    { x with cir := min (x.cir + (f F.TM_QUEUE_CIR x.at_ * dt : Nat)) (f F.TM_QUEUE_CBURST t * 256 * tokenUnit : Nat),
             pir := min (x.pir + (f F.TM_QUEUE_PIR x.at_ * dt : Nat)) (f F.TM_QUEUE_PBURST t * 256 * tokenUnit : Nat), at_ := t })
    (c.shape q)

/-- The credit of port queue `n` at `now`. -/
def Chip.pqCredit (c : Chip) (now n : Nat) : ShapeSt :=
  let a := A.TM_PORTQ n
  (c.cuts [a] (c.pqShape n).at_ now).foldl (fun (x : ShapeSt) t =>
    { x with pir := min (x.pir + (c.getAt x.at_ a F.TM_PORTQ_PIR * (t - x.at_) : Nat))
                        (c.getAt t a F.TM_PORTQ_PBURST * 256 * tokenUnit : Nat), at_ := t }) (c.pqShape n)

/-- The charged length of the head entry of queue `q`. -/
def Chip.headCharge (c : Chip) (q : Nat) : Int :=
  match c.tmq q with
  | e :: _ => e.len
  | [] => 0

/-- The shaped queues of port queue `k` of port `p` that hold entries. -/
def Chip.feeding (c : Chip) (now p k : Nat) : List Nat :=
  (c.tm.queues.map (·.1)).filter fun q => isShaped q && c.shapedPort now q == p && c.qf (c.mrNow now) q F.TM_QUEUE_PQ == k

/-- The choice within a port queue: the queues with CIR credit first, then the other eligible ones (R283). -/
def Chip.level1 (c : Chip) (now p k : Nat) : Option (Nat × List (Nat × Int)) :=
  let s := c.mrNow now
  let ok := (c.feeding now p k).filter fun q => c.qf s q F.TM_QUEUE_PIR == 0 || decide (0 ≤ (c.credit s q).pir)
  let cir := ok.filter fun q => c.qf s q F.TM_QUEUE_CIR != 0 && decide (0 ≤ (c.credit s q).cir)
  drr (if cir.isEmpty then ok else cir) (c.turn (8 * p + k)) (fun q => (c.shape q).deficit) c.headCharge
    fun q => 256 * c.qf s q F.TM_QUEUE_WEIGHT

/-- Whether port queue `k` of port `p` could send but for its gate: not paused, in credit, an eligible queue (R283). -/
def Chip.pqReady (c : Chip) (now p k : Nat) : Bool :=
  let n := 8 * p + k
  nth 0 (c.port p).paused k == 0
    && (c.getAt (c.mrNow now) (A.TM_PORTQ n) F.TM_PORTQ_PIR == 0 || decide (0 ≤ (c.pqCredit (c.mrNow now) n).pir))
    && (c.level1 now p k).isSome

/-- The head entry of port queue `k`: that of the queue its round robin chooses. -/
def Chip.pqHead (c : Chip) (now p k : Nat) : Option (Nat × TmEnt) :=
  match c.level1 now p k with
  | some (q, _) => (c.tmq q).head?.map fun e => (q, e)
  | none => none

/-- The length of the first frame of an entry. -/
def Chip.firstLen (c : Chip) (e : TmEnt) : Nat :=
  max 64 ((c.frameLens e.req).headD (e.req.new + (e.req.plen - e.req.cut) + 4))

/-- The intervals of list `l` of port `p` within its cycle as (open, length) pairs for gate `k` (R285). -/
def Chip.gclRuns (c : Chip) (p l k cycle : Nat) : Nat → Nat → Nat → List (Bool × Nat)
  | 0, _, _ => []
  | n + 1, e, acc =>
    let a := A.TM_GCL p l e
    let fin := if n = 0 then cycle else min cycle (acc + ns (c.get a F.TM_GCL_INTERVAL_NS))
    (natBits (c.get a F.TM_GCL_STATES) k 1 == 1, fin - acc) :: Chip.gclRuns c p l k cycle n (e + 1) fin

/-- The longest open run of gate `k` of port `p` in the active list; none where the list has no entries or the gate never closes. -/
def Chip.longestOpen (c : Chip) (now p k : Nat) : Option Nat :=
  let g := c.gate p
  let l := g.listAt (c.mrNow now)
  let len := c.get (A.TM_GCL_HDR p l) F.TM_GCL_HDR_LENGTH
  let runs := c.gclRuns p l k (ns (c.get (A.TM_GCL_HDR p l) F.TM_GCL_HDR_CYCLE_NS)) len 0 0
  if len = 0 ∨ (runs.all fun r => r.1 || r.2 == 0) = true then none
  else
    some ((runs ++ runs).foldl (fun (r : Nat × Nat) x =>
      if x.1 then (r.1 + x.2, max r.2 (r.1 + x.2)) else if x.2 = 0 then r else (0, r.2)) (0, 0)).2

/-- A head entry of an EXPRESS port queue that can never start is dropped and counts as having left (R286). -/
def Chip.gateDrop (c : Chip) (now p k : Nat) : Chip :=
  if !c.flag (A.TM_PORT p) F.TM_PORT_GATE_EN || c.getAt (c.mrNow now) (A.TM_PORTQ (8 * p + k)) F.TM_PORTQ_EXPRESS != 1 then c
  else
    match c.pqHead now p k, c.longestOpen now p k with
    | some (q, e), some run =>
      if run < c.wireTime p (c.firstLen e) then ((c.setTmq q ((c.tmq q).drop 1)).inc (A.TM_GATE_DROP q)).dropReq now e.req else c
    | _, _ => c

/-- The gate's decision on the head of port queue `k`, a frame held by the guard alone counted once (R286). -/
def Chip.gateTry (c : Chip) (now p k : Nat) (express : Bool) : Bool × Chip :=
  match c.pqHead now p k with
  | none => (false, c)
  | some (q, e) =>
    let s := c.txStamp now p
    let len := c.firstLen e
    if c.gateAdmits p k s len express then (true, c)
    else if !e.held && c.guardHolds p k s len express then
      (false, (c.setTmq q ({ e with held := true } :: (c.tmq q).drop 1)).inc (A.TM_PORT_GATE_HOLD p))
    else (false, c)

/-- The port queues of a list whose gate admits their head. -/
def Chip.gated (now p : Nat) (express : Nat → Bool) : List Nat → Chip → List Nat × Chip
  | [], c => ([], c)
  | k :: ks, c =>
    let (ok, c) := c.gateTry now p k (express k)
    let (rest, c) := Chip.gated now p express ks c
    (if ok then k :: rest else rest, c)

/-- The choice among eligible port queues: strict ones highest first, the rest by deficit round robin (R283). -/
def Chip.level2 (c : Chip) (now p : Nat) (ks : List Nat) : Option (Nat × List (Nat × Int)) :=
  let pq (k : Nat) (f : Fld) : Nat := c.getAt (c.mrNow now) (A.TM_PORTQ (8 * p + k)) f
  match (ks.filter fun k => pq k F.TM_PORTQ_STRICT == 1).getLast? with
  | some k => some (k, [])
  | none =>
    drr ks (c.turn (128 + p)) (fun k => (c.pqShape (8 * p + k)).deficit)
      (fun k => match c.pqHead now p k with
        | some (_, e) => e.len
        | none => 0)
      fun k => 256 * pq k F.TM_PORTQ_WEIGHT

/-- The head entry of queue `q` leaves it: its queue's deficit and credits fall by B, a queue left empty gives up its deficit. -/
def Chip.takeEntry (c : Chip) (now q : Nat) (e : TmEnt) : Chip :=
  let c := c.setTmq q ((c.tmq q).drop 1)
  let x := if isShaped q then c.credit (c.mrNow now) q else c.shape q
  let cost := if isShaped q then e.len * tokenUnit else 0
  c.setShape q { x with deficit := if (c.tmq q).isEmpty then 0 else x.deficit - e.len, cir := x.cir - cost, pir := x.pir - cost }

/-- What the choice of an entry of charged length `b` costs its port queue. -/
def Chip.chargePq (c : Chip) (now p k : Nat) (b : Int) : Chip :=
  let n := 8 * p + k
  let x := c.pqCredit (c.mrNow now) n
  let strict := c.getAt (c.mrNow now) (A.TM_PORTQ n) F.TM_PORTQ_STRICT == 1
  let shaped := c.getAt (c.mrNow now) (A.TM_PORTQ n) F.TM_PORTQ_PIR != 0
  c.setPqShape n { x with deficit := if strict then x.deficit else if (c.feeding now p k).isEmpty then 0 else x.deficit - b,
                          pir := if shaped then x.pir - b * tokenUnit else x.pir }

/-- Whether a word of entry `e` is poisoned: such an entry is discarded, its references released through the other word (R296). -/
def Chip.entryPoison (c : Chip) (now q : Nat) (e : TmEnt) : Bool × Chip :=
  let (p1, c) := c.readSram now 10 (2 * e.slot) 0 e.req.slice
  let (p2, c) := c.readSram now 10 (2 * e.slot + 1) 0 e.req.slice
  if p1 || p2 then
    let c := (c.inc (A.TM_DROP q)).raise now Flt.TM_ENTRY_POISON 23 63 0 0
    (true, if p1 && p2 then c else c.dropReq now e.req)
  else (false, c)

/-- The Traffic Manager selects the next entry for a MAC of port `p` (R283, R286, R288, R296). -/
def Chip.selectPort (c : Chip) (now p : Nat) (express : Bool) : Chip :=
  if !c.open1 23 || !c.portOn p || !c.link p || c.mode == Mode.quarantine then c
  else
    let c := (List.range 8).foldl (fun (c : Chip) k => c.gateDrop now p k) c
    let pre := c.preActive p
    let mac := express || !pre
    if ((c.port p).mac mac).isSome || (!pre && (c.port p).pre.isSome) then c
    else
      let exp (k : Nat) : Bool := c.getAt (c.mrNow now) (A.TM_PORTQ (8 * p + k)) F.TM_PORTQ_EXPRESS == 1
      let ks := (List.range 8).filter fun k => (!pre || exp k == express) && c.pqReady now p k
      let (ks, c) := Chip.gated now p exp ks c
      match c.level2 now p ks with
      | none => c
      | some (k, adds2) =>
        match c.level1 now p k with
        | none => c
        | some (q, adds1) =>
          match c.tmq q with
          | [] => c
          | e :: _ =>
            let c := adds2.foldl (fun (c : Chip) x =>
              c.setPqShape (8 * p + x.1) { c.pqShape (8 * p + x.1) with deficit := (c.pqShape (8 * p + x.1)).deficit + x.2 }) c
            let c := if adds2.isEmpty then c else c.setTurn (128 + p) k
            let c := (((c.gain adds1).setTurn (8 * p + k) q).takeEntry now q e).chargePq now p k e.len
            let (bad, c) := c.entryPoison now q e
            if bad then c else (c.inc (A.TM_DEQ_FRAMES q)).setMac p mac (some ⟨q, e, none, none⟩)

/-- LINK of port `p` has stayed down for LINKDOWN_US (R288). -/
def Chip.linkdownExpiry (c : Chip) (now p : Nat) : Chip :=
  if c.link p || c.flag (A.TM_PORT p) F.TM_PORT_DROP_STATE
      || decide (now < (c.port p).downAt + ns (1000 * c.get (A.TM_PORT p) F.TM_PORT_LINKDOWN_US)) then c
  else c.portDrop now p

/-! ### Changes to queues and policies (R282, R287, R294) -/

/-- Whether a change of the context of queue `q` from word 0 `old` to `new` is permitted (R294, R298). -/
def Chip.queueCheck (c : Chip) (q : Nat) (old new : Word) : Status :=
  let en (w : Word) : Bool := getBits w 0 1 == 1
  let moved := isShaped q && (getBits old 1 7 != getBits new 1 7 || getBits old 16 13 != getBits new 16 13)
  let weight := if isShaped q then getBits new 48 8 else getBits new 17 8
  if weight = 0 then Code.BAD_ARGUMENT
  else if ((!en old && en new) || moved) && !((!en old || !en new) && (c.tmq q).isEmpty) then Code.QUEUE_BUSY
  else Code.OK

/-- Whether a policer may hold words 0 and 1 (R282, R298). -/
def Chip.policerCheck (c : Chip) (i : Nat) (w0 w1 : Word) : Status :=
  let cir := getBits w0 0 20
  let pir := getBits w0 20 20
  let cbs := getBits w1 0 24
  let maxFrame := (List.range 16).foldl (fun m p => max m (c.maxFrame p)) 0
  if i = 0 ∨ 800000 < cir ∨ 800000 < pir ∨ pir < cir ∨ getBits w1 24 24 < cbs ∨ cbs < maxFrame then Code.BAD_ARGUMENT else Code.OK

/-- What a PUT of policer `i` makes of its buckets, `p` before it and `was` its ENABLE then (R282). -/
def Chip.policerPut (c : Chip) (now i : Nat) (p : PolSt) (was : Bool) : Chip :=
  let f (g : Fld) : Nat := c.getAt now (A.TM_POLICER i) g
  let cbs := f F.TM_POLICER_CBS * tokenUnit
  let pbs := f F.TM_POLICER_PBS * tokenUnit
  c.setBuckets i (if f F.TM_POLICER_ENABLE = 0 then ⟨0, 0, now⟩
    else if was then ⟨min p.tc cbs, min p.tp pbs, now⟩ else ⟨cbs, pbs, now⟩)

/-- A write of TM_FLUSH (R294). -/
def Chip.tmFlush (c : Chip) (now q : Nat) : Status × Chip :=
  let en := if isShaped q then c.qf (c.mrNow now) q F.TM_QUEUE_ENABLE else c.getAt (c.mrNow now) (A.TM_HRXQ q) F.TM_HRXQ_ENABLE
  if en = 1 then (Code.QUEUE_BUSY, c) else (Code.OK, c.dropQueue now q (A.TM_DROP q))

end Sys2Proof.Machine
end

