-- ==== Sys2Proof/Machine/ConfigSpace.lean ====
section
/-! DEFINITION. Configuration space of the host functions (spec/12_host_endpoints.md, R320-R326, R330): its dwords, what of them software
writes, the fields the adapter acts on, and the errors AER logs. Layouts within a capability are those of PCI Express Base (entry 208). -/

namespace Sys2Proof.Machine

/-! ### A function -/

/-- Endpoint `e`. -/
def Chip.ep (c : Chip) (e : Nat) : HostEp := mget HostEp.init c.host.eps e

/-- Replaces endpoint `e`. -/
def Chip.setEp (c : Chip) (e : Nat) (x : HostEp) : Chip :=
  { c with host := { c.host with eps := mset HostEp.init c.host.eps e x } }

/-- Function `f` of endpoint `e`. -/
def Chip.fn (c : Chip) (e f : Nat) : FnSt := mget FnSt.init (c.ep e).fns f

/-- Replaces function `f` of endpoint `e`. -/
def Chip.setFn (c : Chip) (e f : Nat) (x : FnSt) : Chip :=
  c.setEp e { c.ep e with fns := mset FnSt.init (c.ep e).fns f x }

/-- The reset values of the dwords that software or the function writes: Device Control, AER severity, AER correctable mask. -/
def cfgReset : Nat → BitVec 32
  | 0x058 => 0x2000
  | 0x10C => 0x00462030
  | 0x114 => 0xE000
  | _ => 0

/-- A dword that is written, at offset `o`. -/
def FnSt.rd (x : FnSt) (o : Nat) : BitVec 32 := mget (cfgReset o) x.cfg o

/-- Replaces it. -/
def FnSt.wr (x : FnSt) (o : Nat) (v : BitVec 32) : FnSt := ⟨mset (cfgReset o) x.cfg o v⟩

/-- Bit `k` of the dword at offset `o`. -/
def FnSt.bit (x : FnSt) (o k : Nat) : Bool := (x.rd o).getLsbD k

/-- `n` bits from bit `k` of the dword at offset `o`. -/
def FnSt.fld (x : FnSt) (o k n : Nat) : Nat := (x.rd o).toNat / 2 ^ k % 2 ^ n

/-- Sets bit `k` of the dword at offset `o`. -/
def FnSt.raise (x : FnSt) (o k : Nat) : FnSt := x.wr o (x.rd o ||| BitVec.twoPow 32 k)

/-- Memory Space Enable and Bus Master Enable of the Command register. -/
def FnSt.mse (x : FnSt) : Bool := x.bit 0x04 1
def FnSt.bme (x : FnSt) : Bool := x.bit 0x04 2

/-- Whether the function is in D3hot (R325). -/
def FnSt.d3 (x : FnSt) : Bool := x.fld 0x44 0 2 == 3

/-- Max Payload Size and Max Read Request Size in bytes, at most 512 and 4,096 (Table 12-1). -/
def FnSt.mps (x : FnSt) : Nat := 128 * 2 ^ min 2 (x.fld 0x58 5 3)
def FnSt.mrrs (x : FnSt) : Nat := 128 * 2 ^ min 5 (x.fld 0x58 12 3)

/-- Completion Timeout Value of Device Control 2 (R322). -/
def FnSt.cto (x : FnSt) : Nat := x.fld 0x78 0 4

/-- Expansion ROM Enable (R331). -/
def FnSt.romOn (x : FnSt) : Bool := x.bit 0x30 0

/-- Whether MSI-X sends nothing: not enabled, or the function masked as a whole (entry 208). -/
def FnSt.msixOff (x : FnSt) : Bool := !x.bit 0xB0 31 || x.bit 0xB0 30

/-! ### Errors (R322, R323, R337, R338) -/

/-- Bit numbers of the AER status registers as PCI Express has them: Poisoned TLP Received, Completion Timeout, Unexpected Completion,
Malformed TLP, Unsupported Request, Uncorrectable Internal Error. -/
def Aer.poisoned : Nat := 12
def Aer.timeout : Nat := 14
def Aer.unexpected : Nat := 16
def Aer.malformed : Nat := 18
def Aer.unsupported : Nat := 20
def Aer.internal : Nat := 22

/-- Logs an error in the AER of a function, as advisory where `adv`: the status, the First Error Pointer with the header log where no earlier
error is held there, and Device Status. The header is a free value. -/
def Chip.aerLog (c : Chip) (e f bit : Nat) (adv : Bool) : Chip :=
  let x := c.fn e f
  let first := !x.bit 0x104 (x.fld 0x118 0 5) && !x.bit 0x108 bit
  let sort := if adv then 16 else if x.bit 0x10C bit then 18 else 17
  let x := (x.raise 0x104 bit).raise 0x58 sort
  let x := if adv then x.raise 0x110 13 else x
  let x := if bit = Aer.unsupported then x.raise 0x58 19 else x
  let c := c.setFn e f x
  if !first then c
  else
    let x := x.wr 0x118 (BitVec.ofNat 32 bit)
    if bit = Aer.timeout ∨ bit = Aer.internal then c.setFn e f x
    else
      let (a, c) := c.fresh
      let (b, c) := c.fresh
      c.setFn e f ((((x.wr 0x11C (BitVec.ofNat 32 a)).wr 0x120 (BitVec.ofNat 32 (a / 2 ^ 32))).wr 0x124 (BitVec.ofNat 32 b)).wr 0x128
        (BitVec.ofNat 32 (b / 2 ^ 32)))

/-! ### Reads (Tables 12-3 to 12-5) -/

/-- The address bits of the BAR at offset `o` of function `f` (Table 12-5): where BAR4 has size 2^`log2`. -/
def barMask (f log2 o : Nat) : BitVec 32 :=
  let bits (k : Nat) : BitVec 32 := BitVec.ofNat 32 (2 ^ 32 - 2 ^ min k 32)
  if f = 0 then
    (match o with
     | 0x10 => bits 24
     | 0x14 => bits 0
     | _ => 0)
  else
    (match o with
     | 0x10 => bits 25
     | 0x14 => bits 0
     | 0x18 => bits 20
     | 0x1C => bits 0
     | 0x20 => bits log2
     | 0x24 => bits (log2 - 32)
     | 0x30 => bits 20
     | _ => 0)

/-- The type bits of a BAR: 64-bit, prefetchable for BAR4. -/
def barType (f o : Nat) : BitVec 32 :=
  if o = 0x10 then 4 else if f = 1 ∧ o = 0x18 then 4 else if f = 1 ∧ o = 0x20 then 12 else 0

/-- The bits of the dword at offset `o` that software may write: Command, BARs, Device Control, Device Control 2, MSI-X control, the AER
masks and severity, PASID control. -/
def cfgMask (f log2 o : Nat) : BitVec 32 :=
  match o with
  | 0x004 => 0x0546
  | 0x030 => if f = 1 then barMask f log2 o ||| 1 else 0
  | 0x058 => 0x70EF
  | 0x078 => 0x000F
  | 0x0B0 => if f = 0 then 0xC0000000 else 0
  | 0x108 => 0x07FFF010
  | 0x10C => 0x07FFF010
  | 0x114 => 0xF1C1
  | 0x2A4 => if f = 1 then 0x00010000 else 0
  | o => barMask f log2 o

/-- The bits of the dword at offset `o` that a 1 clears: Device Status and the AER status registers. -/
def cfgClear : Nat → BitVec 32
  | 0x058 => 0x000F0000
  | 0x104 => 0xFFFFFFFF
  | 0x110 => 0xFFFFFFFF
  | _ => 0

/-- The identifier and version of the extended capability at offset `o`, and the offset of the next one (Table 12-4); none where none
begins. -/
def extCap (f : Nat) : Nat → Option (Nat × Nat)
  | 0x100 => some (0x20001, 0x148)
  | 0x148 => some (0x10003, 0x158)
  | 0x158 => some (0x10019, 0x178)
  | 0x178 => some (0x10025, 0x184)
  | 0x230 => some (0x10027, 0x270)
  | 0x270 => some (0x1002F, 0x280)
  | 0x280 => some (0x10032, if f = 1 then 0x2A0 else 0)
  | 0x2A0 => if f = 1 then some (0x1001B, 0) else none
  | _ => none

/-- The dword at offset `o` of function `f` of endpoint `e` as a configuration read returns it (R324-R326). -/
def Chip.configRead (c : Chip) (e f o : Nat) : BitVec 32 :=
  let x := c.fn e f
  let w (n : Nat) : BitVec 32 := BitVec.ofNat 32 n
  let mem := o = 0x10 ∨ o = 0x14 ∨ o = 0x18 ∨ o = 0x1C ∨ o = 0x20 ∨ o = 0x24 ∨ o = 0x30
  if mem then x.rd o ||| barType f o
  else
    match o with
    | 0x000 => w (0x1C6E + 0x10000 * (0x9816 + f))
    | 0x004 => x.rd o ||| 0x00100000
    | 0x008 => w (256 * (if f = 0 then 0x088000 else 0x020000) + Config.revision.toNat % 256)
    | 0x00C => 0x00800000
    | 0x034 => 0x40
    | 0x040 => 0x00035001
    | 0x044 => x.rd o ||| 8
    | 0x050 => w (0x00020010 + if f = 0 then 0xB000 else 0)
    | 0x054 => 0x10008022
    | 0x058 => x.rd o
    | 0x060 => w (0x10000 * (if c.flag (A.HE_LINK_STATUS e) F.HE_LINK_STATUS_UP then c.get (A.HE_LINK_STATUS e) F.HE_LINK_STATUS_RATE + 1
        + 16 * c.get (A.HE_LINK_STATUS e) F.HE_LINK_STATUS_WIDTH else 0))
    | 0x074 => (Config.cfgDword f o &&& 0xFFFFFFE0) ||| 7
    | 0x078 => x.rd o
    | 0x0B0 => if f = 0 then x.rd o ||| 0x000F0011 else 0
    | 0x0B4 => if f = 0 then 0x00300000 else 0
    | 0x0B8 => if f = 0 then 0x00301000 else 0
    | 0x14C => w (Config.serial.toNat % 2 ^ 32)
    | 0x150 => w (Config.serial.toNat / 2 ^ 32)
    | 0x2A4 => if f = 1 then x.rd o ||| 0x1400 else 0
    | o =>
      match extCap f o with
      | some (id, next) => w (id + next * 2 ^ 20)
      | none =>
        if 0x104 ≤ o ∧ o ≤ 0x128 then x.rd o
        else if o = 0x2C ∨ (0x5C ≤ o ∧ o < 0xB0) ∨ (0x12C ≤ o ∧ o < (if f = 1 then 0x2A8 else 0x2A0)) then Config.cfgDword f o
        else 0

/-- The dword at offset `o` after software wrote `v` to the bits of `be`. -/
def FnSt.put (x : FnSt) (f log2 o : Nat) (v be : BitVec 32) : FnSt :=
  let m := cfgMask f log2 o &&& be
  x.wr o (((x.rd o &&& ~~~m) ||| (v &&& m)) &&& ~~~(v &&& be &&& cfgClear o))

end Sys2Proof.Machine
end

