-- ==== Sys2Proof/Machine/HostOps.lean ====
section
/-! DEFINITION. What the host endpoints issue (spec/12_host_endpoints.md): what keeps a function from issuing, tags, TLPs handed to the
link layer, striping and flushes in Twin, MSI-X and interrupt messages. -/

namespace Sys2Proof.Machine

/-! ### Endpoints and functions -/

/-- Whether the link of endpoint `e` is in L0. -/
def Chip.epUp (c : Chip) (e : Nat) : Bool := c.flag (A.HE_LINK_STATUS e) F.HE_LINK_STATUS_UP

/-- What keeps function `f` of endpoint `e` from issuing a request (R339, R341, R325, R379): OK where nothing does. -/
def Chip.issueStatus (c : Chip) (e f : Nat) : Status :=
  if !c.open1 (20 + e) then Code.ABSENT
  else if c.sluiced e then Code.SLUICED
  else if !(c.fn e f).bme || (c.fn e f).d3 then Code.MASTER_OFF
  else Code.OK

/-- Whether a request goes out at once; while only the link is missing it waits (entry 35). -/
def Chip.canIssue (c : Chip) (e f : Nat) : Bool := c.issueStatus e f == Code.OK && c.epUp e

/-- The endpoints a job of home `e` uses: in Twin its data goes on both (R336, entry 38). -/
def Chip.usedEps (c : Chip) (e : Nat) : List Nat := if c.twin then [e, 1 - e] else [e]

/-- The function of slice `s`, and its PASID prefix (R333, R347). -/
def Chip.sliceFn (c : Chip) (s : Nat) : Nat × Option Nat :=
  if s = 0 then (0, none) else (1, some (c.get (A.SM_SLICE s) F.SM_SLICE_PASID))

/-- Whether slice `s` has a binding, or needs none (R347, R350). -/
def Chip.bound_ (c : Chip) (s : Nat) : Bool := s == 0 || c.flag (A.SM_SLICE s) F.SM_SLICE_BOUND

/-- What keeps a job of slice `s` and home `e` from issuing (R350, R379). -/
def Chip.jobStatus (c : Chip) (s e : Nat) : Status :=
  if !c.bound_ s then Code.NO_PASID
  else (c.usedEps e).foldl (fun st x => if st = Code.OK then c.issueStatus x (c.sliceFn s).1 else st) Code.OK

/-- Whether every endpoint a job of slice `s` and home `e` uses can issue now. -/
def Chip.jobCan (c : Chip) (s e : Nat) : Bool :=
  c.bound_ s && (c.usedEps e).all fun x => c.canIssue x (c.sliceFn s).1

/-- The endpoint that carries host address `a` for a job of home `e` (R336). -/
def Chip.stripe (c : Chip) (e a : Nat) : Nat := if c.twin then a / 4096 % 2 else e

/-! ### Tags (R322, R323, R342) -/

/-- The requests of endpoint `e` with a tag, quarantined or not. -/
def Chip.reqsOf (c : Chip) (e : Nat) : List (Nat × HostReq) := (c.ep e).reqs.filterMap fun p => p.2.map fun r => (p.1, r)

/-- The request of tag `t`. -/
def Chip.hreq (c : Chip) (e t : Nat) : Option HostReq := mget none (c.ep e).reqs t

/-- Replaces the request of tag `t`, and shows the counts in HE_x_TAGS. -/
def Chip.setHreq (c : Chip) (e t : Nat) (r : Option HostReq) : Chip :=
  let c := c.setEp e { c.ep e with reqs := mset none (c.ep e).reqs t r }
  let n (b : Bool) : Nat := ((c.reqsOf e).filter fun p => p.2.quar == b).length
  (c.set (A.HE_TAGS e) F.HE_TAGS_OUTSTANDING (n false)).set (A.HE_TAGS e) F.HE_TAGS_QUARANTINED (n true)

/-- The next tag to assign: ascending from the last one issued, skipping those in use (R323). -/
def Chip.nextTag (c : Chip) (e : Nat) : Option Nat :=
  let x := c.ep e
  let busy := x.reqs.map (·.1)
  if ((c.reqsOf e).filter fun p => !p.2.quar).length ≥ 8192 then none
  else (firstFrom (fun k => !memNat (k % 16384) busy) 16384 (x.last + 1)).map (· % 16384)

/-- The completion timeout of a function in nanoseconds (Table 12-2). -/
def ctoNs : Nat → Nat
  | 1 => 100000
  | 5 => 50000000
  | 6 => 200000000
  | 9 => 900000000
  | 10 => 3000000000
  | _ => 10000000

/-- Hands a TLP to the link layer of its endpoint; one with EP = 1 is counted (R337), and a write needs a flush from now on (R336). -/
def Chip.handTlp (c : Chip) (t : Tlp) : Chip :=
  let c := { c with host := { c.host with tlps := c.host.tlps ++ [t] } }
  let c := if t.poison then c.inc (A.HE_POISON_TX t.ep) else c
  if t.kind = .write then c.setEp t.ep { c.ep t.ep with dirty := true } else c

/-- Issues one read of function `f` on endpoint `e`, if it can be issued and a tag is free: the tag. -/
def Chip.issueRead (c : Chip) (now e f : Nat) (pasid : Option Nat) (a n : Nat) (use : ReqUse) : Option Nat × Chip :=
  if !c.canIssue e f then (none, c) else
  match c.nextTag e with
  | none => (none, c)
  | some t =>
    let c := c.setHreq e t (some { fn := f, len := n, got := 0, data := [], marks := [], at_ := now, cto := ctoNs (c.fn e f).cto, use := use, quar := false, dead := false })
    let c := c.setEp e { c.ep e with last := t }
    (some t, c.handTlp { ep := e, kind := .read, fn := f, pasid := pasid, addr := a, len := n, data := [], poison := false, tag := t })

/-- Cuts `n` bytes at address `a` at multiples of `k`: (address, length, offset); `fuel` bounds the pieces. -/
def cutAt (k : Nat) : Nat → Nat → Nat → Nat → List (Nat × Nat × Nat)
  | 0, _, _, _ => []
  | fuel + 1, a, n, off =>
    if n = 0 then [] else
      let l := min n (k - a % k)
      (a, l, off) :: cutAt k fuel (a + l) (n - l) (off + l)

/-- The reads that fetch `n` bytes at host address `a` for function `f` of endpoint `e`: none longer than Max Read Request Size, none
across a 4 KiB boundary. -/
def Chip.readSegs (c : Chip) (e f a n off : Nat) : List (Nat × Nat × Nat) := cutAt (max 1 (min 4096 (c.fn e f).mrrs)) n a n off

/-- A data write of function `f` from home `e`: bytes with the poison marks of the words they come from, cut at Max Payload Size and
striped in Twin (R336, R337). -/
def Chip.writeData (c : Chip) (e f : Nat) (pasid : Option Nat) (a : Nat) (bs : List Byte) (marks : List Bool) : Chip :=
  (cutAt (max 1 (c.fn e f).mps) bs.length a bs.length 0).foldl (fun c p =>
    c.handTlp { ep := c.stripe e p.1, kind := .write, fn := f, pasid := pasid, addr := p.1, len := p.2.1,
                data := (bs.drop p.2.2).take p.2.1, poison := ((marks.drop p.2.2).take p.2.1).any id, tag := 0 }) c

/-! ### Ordered writes (R335, R336) -/

/-- The mark of an ordered write whose flush has completed. -/
def orderedReady : Nat := 16384

/-- Gives the entries behind a head that share its endpoint, and that no later write needs a flush for, the head's wait. -/
def shareWait (ep : Nat) (w : Option Nat) : List Ordered → List Ordered
  | [] => []
  | o :: os => if o.tlp.ep = ep ∧ o.wait = none then { o with wait := w } :: shareWait ep w os else o :: os

/-- Issues the ordered writes that may go, first in first out: a head whose other endpoint has writes since its last flush waits for a
flush, and the writes behind it for the same endpoint proceed with it (R336). -/
def Chip.pumpOrdered (now : Nat) : Nat → Chip → Chip
  | 0, c => c
  | n + 1, c =>
    match c.host.ordered with
    | [] => c
    | o :: rest =>
      let other := 1 - o.tlp.ep
      if o.wait = some orderedReady ∨ (o.wait = none ∧ (c.ep other).dirty = false) then
        Chip.pumpOrdered now n ({ c with host := { c.host with ordered := rest } }.handTlp o.tlp)
      else if o.wait = none then
        match c.issueRead now other o.tlp.fn o.tlp.pasid o.tlp.addr 0 .flush with
        | (none, c) => c
        | (some t, c) =>
          let c := (c.setEp other { c.ep other with dirty := false }).inc (A.HE_FLUSH other)
          { c with host := { c.host with ordered := { o with wait := some t } :: shareWait o.tlp.ep (some t) rest } }
      else if (c.ep other).dirty then c
      else { c with host := { c.host with ordered := o :: shareWait o.tlp.ep o.wait rest } }

/-- The flush of tag `t` on endpoint `e` has completed. -/
def Chip.flushDone (c : Chip) (now e t : Nat) : Chip :=
  let os := c.host.ordered.map fun o => if o.tlp.ep = 1 - e ∧ o.wait = some t then { o with wait := some orderedReady } else o
  Chip.pumpOrdered now (os.length + 1) { c with host := { c.host with ordered := os } }

/-- An ordered write of function `f` on home endpoint `e` (R336). -/
def Chip.writeOrdered (c : Chip) (now e f : Nat) (pasid : Option Nat) (a : Nat) (bs : List Byte) : Chip :=
  let t : Tlp := { ep := e, kind := .write, fn := f, pasid := pasid, addr := a, len := bs.length, data := bs, poison := false, tag := 0 }
  if c.twin then
    let c := { c with host := { c.host with ordered := c.host.ordered ++ [⟨t, none⟩] } }
    Chip.pumpOrdered now (c.host.ordered.length + 1) c
  else c.handTlp t

/-- The ordered writes of an endpoint that still wait are dropped (R338, R341). -/
def Chip.dropOrdered (c : Chip) (p : Tlp → Bool) : Chip :=
  { c with host := { c.host with ordered := c.host.ordered.filter fun o => !p o.tlp } }

/-- Tries the ordered writes that wait. -/
def Chip.goOrdered (c : Chip) (now : Nat) : Chip := Chip.pumpOrdered now (c.host.ordered.length + 1) c

/-- The flush of tag `t` on endpoint `e` will have no completion: it is to be made again. -/
def Chip.flushLost (c : Chip) (e t : Nat) : Chip :=
  let os := c.host.ordered.map fun o => if o.tlp.ep = 1 - e ∧ o.wait = some t then { o with wait := none } else o
  ({ c with host := { c.host with ordered := os } }).setEp e { c.ep e with dirty := true }

/-! ### MSI-X and interrupt messages (R330, R365-R367) -/

/-- Vector `v` of endpoint `e`. -/
def Chip.vector (c : Chip) (e v : Nat) : MsixVec := mget MsixVec.init (c.ep e).table v

/-- The endpoint on which ordered writes for slice 0 from endpoint `e` go (R336). -/
def Chip.home0 (c : Chip) (e : Nat) : Nat := if c.twin then 0 else e

/-- Whether vector `v` of endpoint `e` is masked (R330). -/
def Chip.masked (c : Chip) (e v : Nat) : Bool := (c.vector e v).mask || (c.fn e 0).msixOff

/-- Fires MSI-X vector `v`: its message goes out, or its pending bit is set (R330). -/
def Chip.msix (c : Chip) (now e v : Nat) : Chip :=
  let x := c.vector e v
  if c.masked e v || !c.canIssue e 0 || !c.canIssue (c.home0 e) 0 then c.setEp e { c.ep e with pend := (c.ep e).pend ||| 2 ^ v }
  else
    let c := c.setEp e { c.ep e with pend := (c.ep e).pend &&& (65535 - 2 ^ v) }
    c.writeOrdered now (c.home0 e) 0 none x.addr (leBytes 4 x.data)

/-- Sends the pending messages of endpoint `e` that have become possible. -/
def Chip.msixRetry (c : Chip) (now e : Nat) : Chip :=
  (List.range 16).foldl (fun c v => if natBits (c.ep e).pend v 1 = 1 then c.msix now e v else c) c

/-- Fires interrupt message entry `k` of slice `s` (R365, R366). -/
def Chip.fireMsg (c : Chip) (now s k : Nat) : Chip :=
  let a := A.SM_MSG s k
  let e := c.sliceHome s
  let (f, pasid) := c.sliceFn s
  if c.flag a F.SM_MSG_MASK || !c.bound_ s || !c.canIssue e f then c.setFlag a F.SM_MSG_PENDING true
  else
    let c := c.setFlag a F.SM_MSG_PENDING false
    c.writeOrdered now e f pasid (c.get a F.SM_MSG_ADDR) (leBytes 4 (c.get a F.SM_MSG_DATA))

/-- The message entries with PENDING set, as (slice, entry). -/
def Chip.pendingMsgs (c : Chip) : List (Nat × Nat) :=
  c.regs.filterMap fun p =>
    if 0x30200000 ≤ p.1 ∧ p.1 < 0x30300000 ∧ p.1 % 16 = 8 ∧ getBits p.2 33 1 = 1 then
      some ((p.1 - 0x30200000) / 128, (p.1 - 0x30200000) / 16 % 8)
    else none

/-- Issues the pending messages that have become possible. -/
def Chip.msgRetry (c : Chip) (now : Nat) : Chip := c.pendingMsgs.foldl (fun c p => c.fireMsg now p.1 p.2) c

/-- Every pending message is tried again: after a release, Bus Master Enable, or a link that came up. -/
def Chip.retryAll (c : Chip) (now : Nat) : Chip := ((c.msixRetry now 0).msixRetry now 1).msgRetry now

/-! ### Link (R321) -/

/-- LINK_STATUS and the journal entry of a change of UP. -/
def Chip.epLink (c : Chip) (now e : Nat) (up : Bool) : Chip :=
  c.journal now { JEvent.base with event := 6, level := 2, island := 20 + e, detail := 16 + e, a0 := if up then 1 else 0 }

/-- The link of endpoint `e` leaves L0. -/
def Chip.epDown (c : Chip) (now e : Nat) : Chip :=
  if c.epUp e then (c.wr (A.HE_LINK_STATUS e) 0).epLink now e false else c

/-- The endpoint trains to L0 at the given rate and width, both within its limits (R321). -/
def Chip.epTrain (c : Chip) (now e rate width : Nat) : Chip :=
  let lanes := 2 ^ width
  if !c.flag (A.HE_CTRL e) F.HE_CTRL_ENABLE || mget false c.pwr.perst e || !c.open1 (20 + e) || c.epUp e
      || decide (c.get (A.HE_CTRL e) F.HE_CTRL_MAX_RATE < rate) || decide (c.get (A.HE_CTRL e) F.HE_CTRL_MAX_WIDTH < width) then c
  else
    let c := c.wr (A.HE_LINK_STATUS e) (BitVec.ofNat 64 (1 + 2 * rate + 16 * lanes + (if 5 ≤ rate then 512 else 0)))
    (c.epLink now e true).retryAll now

end Sys2Proof.Machine
end

