-- ==== Sys2Proof/Machine/DmaOps.lean ====
section
/-! DEFINITION. Queue pairs and the DMA Engine (spec/13_slices_queues_dma.md): byte swapping, pacing, completions and interrupts, transmit
jobs with cutting, receive jobs, halts, restarts and the switch of the DMA mode. -/

namespace Sys2Proof.Machine

/-! ### Access -/

/-- Queue pair `n` beyond its registers. -/
def Chip.qp (c : Chip) (n : Nat) : QpSt := mget QpSt.init c.de.qps n

/-- Replaces it. -/
def Chip.setQp (c : Chip) (n : Nat) (x : QpSt) : Chip := { c with de := { c.de with qps := mset QpSt.init c.de.qps n x } }

/-- A field of DE_QP(n). -/
def Chip.qpf (c : Chip) (n : Nat) (f : Fld) : Nat := c.get (A.DE_QP n) f

/-- Sets a field of DE_QP(n). -/
def Chip.setQpf (c : Chip) (n : Nat) (f : Fld) (v : Nat) : Chip := c.set (A.DE_QP n) f v

/-- The slice of queue pair `n`. -/
def Chip.qpSlice (c : Chip) (n : Nat) : Nat := c.qpf n F.DE_QP_SLICE

/-- The entries of a ring of size field `l`; 0 where it is absent (R355). -/
def ringSize (l : Nat) : Nat := if l = 0 then 0 else 2 ^ l

/-- Replaces the jobs. -/
def Chip.setJobs (c : Chip) (js : List Job) : Chip := { c with de := { c.de with jobs := js } }

/-- The job of a number. -/
def Chip.job (c : Chip) (id : Nat) : Option Job := c.de.jobs.find? fun j => j.id == id

/-- Replaces a job. -/
def Chip.putJob (c : Chip) (j : Job) : Chip := c.setJobs (c.de.jobs.map fun k => if k.id = j.id then j else k)

/-- Whether queue pair `n` has a job in flight. -/
def Chip.qpBusy (c : Chip) (n : Nat) : Bool := c.de.jobs.any fun j => j.qp == n

/-- Whether Overlapped mode is in force (R375). -/
def Chip.overlapped (c : Chip) : Bool := c.get A.DE_STATUS ⟨0, 0, 1⟩ == 1

/-- Whether a switch of the DMA mode is under way (R375). -/
def Chip.switching (c : Chip) : Bool := c.get A.DE_STATUS ⟨0, 1, 1⟩ == 1

/-- The DMA mode of a device mode (Table R373): whether Overlapped; none where no job starts. -/
def dmaModeOf (m : Nat) : Option Bool :=
  if m = Mode.boot ∨ m = Mode.diagnostic ∨ m = Mode.recovery then some true
  else if m = Mode.off ∨ m = Mode.held ∨ m = Mode.standby ∨ m = Mode.quarantine then none
  else some false

/-- After a change of the device mode the DMA mode in force may have to follow (R375). -/
def Chip.dmaFollow (c : Chip) : Chip :=
  match dmaModeOf c.mode with
  | some o => c.set A.DE_STATUS ⟨0, 1, 1⟩ (if o = c.overlapped then 0 else 1)
  | none => c

/-- Whether the mode admits a host job of slice `s` and home `e` (Table 17-2); a MODE to Standby that waits admits none (R454). -/
def Chip.admitsHost (c : Chip) (s e : Nat) : Bool :=
  let m := c.mode
  if c.pwr.standby.isSome then false
  else if m = Mode.provision ∨ m = Mode.diagnostic then s == 0
  else if m = Mode.service ∨ m = Mode.update then true
  else if m = Mode.degraded then c.open1 (20 + e)
  else if m = Mode.drain then natBits (c.get A.CP_DRAIN_CFG F.CP_DRAIN_CFG_SOURCES) (16 + e) 1 == 0
  else false

/-- The command queue fetches and placement fetches of endpoint `e` that are jobs in flight (R373). -/
def Chip.fetchJobs (c : Chip) (e : Nat) : Nat :=
  ((c.ep e).cmdq.filter fun p => p.2.stage == 1 || p.2.stage == 2).length
    + ((c.reqsOf e).filter fun p => match p.2.use with
        | .place _ _ => !p.2.dead
        | _ => false).length

/-- Whether a job of `size` bytes may start on endpoint `e`: no switch under way, and a mover, or a place and staging (R373-R375). -/
def Chip.moverFree (c : Chip) (e size : Nat) : Bool :=
  let js := c.de.jobs.filter fun j => j.ep == e
  let n := js.length + c.fetchJobs e
  let staged := js.foldl (fun k j => k + j.size) 0
  !c.switching && (dmaModeOf c.mode).isSome
    && (if c.overlapped then decide (n < 64) && decide (staged + size ≤ 2 ^ 20) else decide (n < 32))

/-- The usage of queue pairs of a slice falls or rises (R351, R356). -/
def Chip.qpUsed (c : Chip) (s : Nat) (up : Bool) : Chip :=
  let a := A.SM_SLICE s
  let u := c.get a F.SM_SLICE_QP_USED
  let c := c.set a F.SM_SLICE_QP_USED (if up then u + 1 else u - 1)
  if up then c else { c with due := c.due ++ [.usage s] }

/-! ### Byte swapping (R378) -/

/-- The unit of a swap setting in bytes. -/
def swapUnit : Nat → Nat
  | 1 => 2
  | 2 => 4
  | 3 => 4
  | 4 => 8
  | _ => 1

/-- One unit swapped. -/
def swapOne {α : Type} (k : Nat) (u : List α) : List α := if k = 3 then u.drop 2 ++ u.take 2 else u.reverse

/-- Bytes swapped unit by unit from their start; a part of a unit at the end stays. -/
def swapLoop {α : Type} (k : Nat) : Nat → List α → List α
  | 0, bs => bs
  | n + 1, bs =>
    if bs.length < swapUnit k then bs else swapOne k (bs.take (swapUnit k)) ++ swapLoop k n (bs.drop (swapUnit k))

/-- R378 for setting `k`. -/
def swapped {α : Type} (k : Nat) (bs : List α) : List α := if k = 0 then bs else swapLoop k bs.length bs

/-! ### Interrupts (R367) -/

/-- An armed queue pair whose completion ring is not empty fires its entry, once COAL_US has passed since its last firing. -/
def Chip.qpFire (c : Chip) (now n : Nat) : Chip :=
  let ready := match (c.qp n).fired with
    | none => true
    | some t => decide (t + ns (1000 * c.qpf n F.DE_QP_COAL_US) ≤ now)
  if c.qpf n F.DE_QP_ARMED = 1 ∧ c.qpf n F.DE_QP_CQ_TAIL ≠ c.qpf n F.DE_QP_CQ_HEAD ∧ ready = true then
    let c := (c.setQpf n F.DE_QP_ARMED 0).setQp n { c.qp n with fired := some now }
    c.fireMsg now (c.qpSlice n) (c.qpf n F.DE_QP_IRQ)
  else c

/-! ### Completions (R364) -/

/-- The room of the completion ring of queue pair `n`, less the entries its jobs in flight may still write. -/
def Chip.cqRoom (c : Chip) (n : Nat) : Nat :=
  let size := ringSize (c.qpf n F.DE_QP_CQ_LOG2)
  let held := (c.de.jobs.filter fun j => j.qp == n).foldl (fun k j => k + j.room) 0
  size - 1 - (c.qpf n F.DE_QP_CQ_TAIL + size - c.qpf n F.DE_QP_CQ_HEAD) % size - held

/-- Writes one completion entry: PHASE and the swap are put in, the head passes, and the queue pair may fire. -/
def Chip.writeCqe (c : Chip) (now n : Nat) (q : Cqe) : Chip :=
  let x := c.qp n
  let size := ringSize (c.qpf n F.DE_QP_CQ_LOG2)
  let tail := c.qpf n F.DE_QP_CQ_TAIL
  let ws := setNth q.words 0 (setBits (nth 0 q.words 0) 16 1 (if x.phase then 1 else 0))
  let e := c.qpHome n
  let (f, pasid) := c.sliceFn (c.qpSlice n)
  let c := c.writeOrdered now e f pasid (c.qpf n F.DE_QP_CQ_BASE + 32 * tail) (swapped (c.qpf n F.DE_QP_RX_DSWAP) (ofWords ws))
  let c := c.setQpf n F.DE_QP_CQ_TAIL ((tail + 1) % size)
  let c := if tail + 1 = size then c.setQp n { c.qp n with phase := !x.phase } else c
  let c := match q.head with
    | some (true, h) => c.setQpf n F.DE_QP_TX_HEAD h
    | some (false, h) => c.setQpf n F.DE_QP_RX_HEAD h
    | none => c
  let c := if q.sent then c.inc A.DE_TX_SENDS else c
  c.qpFire now n

/-! ### The end of jobs (R356, R375, R379) -/

/-- Every request of a job is marked, so that its completions are discarded. -/
def Chip.deadReqs (c : Chip) (p : HostReq → Bool) : Chip :=
  [0, 1].foldl (fun c e =>
    c.setEp e { c.ep e with reqs := (c.ep e).reqs.map fun r => (r.1, r.2.map fun q => if p q then { q with dead := true } else q) }) c

/-- Whether a request belongs to job `id`. -/
def ReqUse.ofJob (id : Nat) : ReqUse → Bool
  | .payload j _ _ => j == id
  | .header j _ => j == id
  | _ => false

/-- The bobbins a job holds are released. -/
def Chip.jobFree (c : Chip) (now : Nat) (j : Job) : Chip :=
  match j.kind with
  | .tx _ cur => cur.pkts.foldl (fun c p => (c.handOver now p.bob).drop now p.bob) c
  | .rx _ _ _ => c

/-- A draining queue pair without a job is disabled (R356). -/
def Chip.qpDrained (c : Chip) (n : Nat) : Chip :=
  if c.qpState n = 3 ∧ c.qpBusy n = false then (c.setQpf n F.DE_QP_STATE 0).qpUsed (c.qpSlice n) false else c

/-- Takes the jobs that are done from the front of the endpoint's list, writing what they still held back: in Overlapped mode jobs end in
the order in which they started (R375). -/
def Chip.flushJobs (now e : Nat) : Nat → Chip → Chip
  | 0, c => c
  | k + 1, c =>
    match c.de.jobs.find? fun j => j.ep == e with
    | none => c
    | some j =>
      let c := (c.putJob { j with cqes := [] })
      let c := j.cqes.foldl (fun c q => c.writeCqe now j.qp q) c
      if j.done then Chip.flushJobs now e k ((c.setJobs (c.de.jobs.filter fun x => x.id != j.id)).qpDrained j.qp) else c

/-- A job has nothing left to do. -/
def Chip.jobDone (c : Chip) (now : Nat) (j : Job) : Chip :=
  let c := (c.jobFree now j).deadReqs fun r => r.use.ofJob j.id
  let c := match j.kind with
    | .tx _ cur => c.putJob { j with done := true, room := j.cqes.length, kind := .tx [] { cur with pkts := [] } }
    | .rx e b f => c.putJob { j with done := true, room := j.cqes.length, kind := .rx e b f }
  if c.overlapped then Chip.flushJobs now j.ep (c.de.jobs.length + 1) c
  else
    let c := j.cqes.foldl (fun c q => c.writeCqe now j.qp q) c
    (c.setJobs (c.de.jobs.filter fun x => x.id != j.id)).qpDrained j.qp

/-- A completion of a job: written at once, or in Overlapped mode once the job is the oldest of its endpoint. -/
def Chip.jobCqe (c : Chip) (now : Nat) (j : Job) (q : Cqe) : Chip :=
  let first := match c.de.jobs.find? fun x => x.ep == j.ep with
    | some x => x.id == j.id
    | none => true
  if c.overlapped && !first then c.putJob { j with cqes := j.cqes ++ [q] }
  else (c.putJob { j with room := j.room - 1 }).writeCqe now j.qp q

/-- A queue pair in RUN is halted with a code (R379): the entries of its host receive queue are dropped (R356). -/
def Chip.qpHalt (c : Chip) (now n code : Nat) : Chip :=
  if c.qpState n ≠ 1 then c
  else
    let c := ((c.setQpf n F.DE_QP_STATE 2).setQpf n F.DE_QP_LAST_STATUS code).inc A.DE_JOB_FAIL
    let c := c.raise now Flt.DE_QUEUE_HALT 23 63 (c.qpSlice n) 0
    c.dropQueue now n (A.TM_DROP n)

/-- A job ends with a failure that writes no further completion, and halts its queue pair. A receive job drops its entry. -/
def Chip.jobFail (c : Chip) (now code : Nat) (j : Job) : Chip :=
  let c := match j.kind with
    | .rx ent _ _ => if j.done then c else (c.inc (A.TM_DROP j.qp)).dropReq now ent.req
    | .tx _ _ => c
  let c := { j with cqes := [] } |> fun j => (c.putJob j).jobDone now j
  c.qpHalt now j.qp code

/-! ### Pacing (R376, R377) -/

/-- The packets of queue pair `n` that await Dispatch. -/
def Chip.txBacklog (c : Chip) (n : Nat) : Nat :=
  (c.disp.pkts.filter fun p => match p.2 with
    | some q => decide (16 ≤ q.src) && q.txq == n && q.stage == 0
    | none => false).length

/-- The TX_MBPS bucket of slice `s` at `now`, in the units of `PolSt` (R351, R376): what has been used and not yet gained back. -/
def Chip.txBucket (c : Chip) (now s : Nat) : TxBucket :=
  let a := A.SM_SLICE s + 16
  let rate (t : Nat) : Nat := getBits (c.rdAt t a) 0 20
  (c.cuts [a] (mget TxBucket.init c.de.buckets s).at_ now).foldl (fun (b : TxBucket) t =>
    if rate b.at_ = 0 then ⟨0, t⟩ else ⟨max 0 (b.used - (rate b.at_ * (t - b.at_) : Nat)), t⟩) (mget TxBucket.init c.de.buckets s)

/-- Stores it. -/
def Chip.setTxBucket (c : Chip) (s : Nat) (b : TxBucket) : Chip :=
  { c with de := { c.de with buckets := mset TxBucket.init c.de.buckets s b } }

/-- Whether the transmit side of queue pair `n` is held (R376). -/
def Chip.txHeld (c : Chip) (now n : Nat) : Bool :=
  let s := c.qpSlice n
  decide (32 ≤ c.txBacklog n) || (s != 0 && decide ((262144 * tokenUnit : Nat) < (c.txBucket (c.mrNow now) s).used))

/-- How many buffers an entry of host receive queue `n` needs (R371). -/
def Chip.buffersFor (c : Chip) (n : Nat) (e : TmEnt) : Nat :=
  let size := 256 * c.qpf n F.DE_QP_RX_BUF
  ((e.len.toNat) + size - 1) / size

/-- Whether the last cached transmit descriptor lacks EOP. -/
def QpSt.lacksEop (x : QpSt) : Bool :=
  match x.tx.getLast? with
  | some d => getBits (nth 0 d.words 1) 19 1 == 0
  | none => false

/-- A ring of queue pair `n` as its pacing sees it (R376): its size, the entries cached, the next to fetch, the entries available, where fetching
stops, and whether it asks for a fetch read. -/
structure RingView where
  size   : Nat
  cached : Nat
  next   : Nat
  avail  : Nat
  stop   : Nat
  wants  : Bool

/-- The receive or transmit ring of queue pair `n`. -/
def Chip.ring (c : Chip) (now n : Nat) (rx : Bool) : RingView :=
  let x := c.qp n
  let size := ringSize (c.qpf n (if rx then F.DE_QP_RX_LOG2 else F.DE_QP_TX_LOG2))
  let cached := if rx then x.rx.length else x.tx.length
  let next := if rx then x.rxNext else x.txNext
  let avail := (c.qpf n (if rx then F.DE_QP_RX_TAIL else F.DE_QP_TX_TAIL) + size - next) % size
  let raised := if rx then (match c.tmq n with
      | e :: _ => decide (cached < c.buffersFor n e)
      | [] => false) else x.lacksEop
  let stop := if raised then 16 else c.qpf n F.DE_QP_HIGH
  let fill := if rx then x.rxFill else x.txFill
  ⟨size, cached, next, avail, stop,
   c.qpState n == 1 && size != 0 && (if rx then x.rxFly else x.txFly) == 0 && avail != 0 && decide (cached < stop)
     && (fill || raised || decide (cached ≤ c.qpf n F.DE_QP_LOW)) && (rx || !c.txHeld now n)⟩

/-- Whether it is the turn of a ring among those of its endpoint that ask for a fetch read and can issue it (R377). -/
def Chip.ringTurn (c : Chip) (now n : Nat) (rx : Bool) : Bool :=
  let e := c.qpHome n
  let last := mget 0 c.de.turn e
  let key (m : Nat) (r : Bool) : Nat := (2 * m + (if r then 2 else 1) + 131072 - last) % 131073
  let mine := key n rx
  c.de.qps.all fun p => [false, true].all fun r =>
    !(c.qpHome p.1 == e && decide (key p.1 r < mine) && (c.ring now p.1 r).wants && c.jobCan (c.qpSlice p.1) e)

/-- The queue logic issues one fetch read of a ring of queue pair `n`, if pacing asks for one and the ring has its turn (R376, R377). -/
def Chip.descFetch (c : Chip) (now n : Nat) (rx : Bool) : Chip :=
  let x := c.qp n
  let r := c.ring now n rx
  if !c.open1 23 || !r.wants then c
  else
    let s := c.qpSlice n
    let e := c.qpHome n
    let st := c.jobStatus s e
    if st ≠ Code.OK ∧ st ≠ Code.MASTER_OFF then c.qpHalt now n st
    else if !c.jobCan s e || !c.ringTurn now n rx then c
    else
      let (f, pasid) := c.sliceFn s
      let w := if rx then 8 else 32
      let a := c.qpf n (if rx then F.DE_QP_RX_BASE else F.DE_QP_TX_BASE) + w * r.next
      let lim := max 1 (min 4096 (c.fn e f).mrrs)
      let k := max 1 (min (min (r.stop - r.cached) r.avail) (min (r.size - r.next) ((lim - a % lim) / w)))
      let (t, c) := c.issueRead now (c.stripe e a) f pasid a (w * k) (.desc n rx x.gen r.next k)
      match t with
      | none => c
      | some _ =>
        let more := decide (r.cached + k < r.stop) && decide (k < r.avail)
        let c := { c with de := { c.de with turn := mset 0 c.de.turn e (2 * n + if rx then 2 else 1) } }
        c.setQp n (if rx then { x with rxNext := (r.next + k) % r.size, rxFly := k, rxFill := more }
          else { x with txNext := (r.next + k) % r.size, txFly := k, txFill := more })

/-- The descriptors a string of bytes holds, from ring index `first` on. -/
def txDescs (first size : Nat) (ws : List Word) : Nat → List TxDesc
  | 0 => []
  | k + 1 => ⟨first % size, ws.take 4⟩ :: txDescs (first + 1) size (ws.drop 4) k

/-- A fetch of a ring has ended well: its entries are cached, unless the caches have been discarded since. -/
def Chip.descData (c : Chip) (now n : Nat) (rx : Bool) (gen first count : Nat) (bs : List Byte) (bad : Bool) : Chip :=
  let x := c.qp n
  if x.gen ≠ gen ∨ c.qpState n ≠ 1 then c
  else
    let c := c.setQp n (if rx then { x with rxFly := 0 } else { x with txFly := 0 })
    if bad then (c.raise now Flt.DE_DESC_POISON 23 63 (c.qpSlice n) 0).qpHalt now n Code.POISONED
    else
      let ws := toWords (swapped (c.qpf n (if rx then F.DE_QP_RX_DSWAP else F.DE_QP_TX_DSWAP)) bs)
      let x := c.qp n
      if rx then c.setQp n { x with rx := x.rx ++ (List.range count).map fun i => (first + i, (nth 0 ws i).toNat) }
      else c.setQp n { x with tx := x.tx ++ txDescs first (ringSize (c.qpf n F.DE_QP_TX_LOG2)) ws count }

/-! ### Transmit (R360-R362, R368-R370) -/

/-- LEN of a descriptor. -/
def TxDesc.len (d : TxDesc) : Nat := getBits (nth 0 d.words 1) 0 19

/-- The length L of a send. -/
def sendLen (ds : List TxDesc) : Nat := ds.foldl (fun n d => n + d.len) 0

/-- The words of a send's first descriptor. -/
def sendWord (ds : List TxDesc) (k : Nat) : Word := match ds with
  | d :: _ => nth 0 d.words k
  | [] => 0

/-- TSO, MSS, HDR_LEN and the offsets of a send (Table 13-2). -/
def sendTso (ds : List TxDesc) : Bool := getBits (sendWord ds 2) 0 1 == 1
def sendTunnel (ds : List TxDesc) : Bool := getBits (sendWord ds 2) 3 1 == 1
def sendMss (ds : List TxDesc) : Nat := getBits (sendWord ds 2) 32 14
def sendHdr (ds : List TxDesc) : Nat := getBits (sendWord ds 2) 46 9
def sendL3 (ds : List TxDesc) : Nat := getBits (sendWord ds 3) 32 8
def sendL4 (ds : List TxDesc) : Nat := getBits (sendWord ds 3) 40 8
def sendOuter (ds : List TxDesc) : Nat := getBits (sendWord ds 3) 48 8

/-- The first complete send of a list of descriptors; a run of 16 without EOP is taken as one, and is invalid (R362). -/
def firstSend : Nat → List TxDesc → List TxDesc → Option (List TxDesc × List TxDesc)
  | 0, acc, ds => some (acc.reverse, ds)
  | _ + 1, _, [] => none
  | n + 1, acc, d :: ds =>
    if getBits (nth 0 d.words 1) 19 1 = 1 then some ((d :: acc).reverse, ds) else firstSend n (d :: acc) ds

/-- Up to `k` complete sends, and the descriptors left. -/
def takeSends : Nat → List TxDesc → List (List TxDesc) × List TxDesc
  | 0, ds => ([], ds)
  | k + 1, ds =>
    match firstSend 16 [] ds with
    | some (s, rest) => let (ss, r) := takeSends k rest; (s :: ss, r)
    | none => ([], ds)

/-- Whether a send breaks R362 for unit `u` of TX_PSWAP. -/
def sendBad (u : Nat) (ds : List TxDesc) : Bool :=
  let l := sendLen ds
  !(ds.getLast?.any fun d => getBits (nth 0 d.words 1) 19 1 == 1)
    || ds.any (fun d => getBits (nth 0 d.words 1) 20 44 != 0 || d.len == 0 || decide (262144 < d.len)
        || (nth 0 d.words 0).toNat % u != 0 || d.len % u != 0)
    || getBits (sendWord ds 2) 6 18 != 0 || getBits (sendWord ds 2) 55 9 != 0 || getBits (sendWord ds 3) 56 8 != 0
    || decide (l < 14) || decide (262144 < l)

/-- Z: the size of the largest enabled bobbin (R362). -/
def Chip.largest (c : Chip) : Nat :=
  (List.range 8).foldl (fun z p => if c.pool p F.BP_POOL_ENABLE = 1 then max z (256 * c.pool p F.BP_POOL_SIZE) else z) 0

/-- The conditions of R370 on a send to be cut that its descriptors alone decide. -/
def cutBad (z : Nat) (ds : List TxDesc) : Bool :=
  let mss := sendMss ds
  let h := sendHdr ds
  decide (mss < 64) || decide (16000 < mss) || decide (h < sendL4 ds + 8) || decide (256 < h) || decide (z < h + mss)
    || decide (sendL4 ds < sendL3 ds + 20)
    || decide (256 < (sendLen ds - h + (z - h) / mss * mss - 1) / ((z - h) / mss * mss))

/-- Whether the header bytes of a send to be cut pass R370: IP version nibbles of 4 or 6, protocol 6 or 17. -/
def cutHeadOk (ds : List TxDesc) (h : List Byte) : Bool :=
  let v (o : Nat) : Nat := byteAt h o / 16
  let l3 := sendL3 ds
  let proto := byteAt h (if v l3 = 6 then l3 + 6 else l3 + 9)
  (v l3 == 4 || v l3 == 6) && (!sendTunnel ds || v (sendOuter ds) == 4 || v (sendOuter ds) == 6) && (proto == 6 || proto == 17)

/-- The fix-ups of an IP header at `o` of a chunk that ends at `len` (R370, Table 9-3): `add` goes to the identification. -/
def chunkIp (h : List Byte) (o len add : Nat) : List Byte :=
  if byteAt h o / 16 = 4 then put16 (put16 h (o + 2) (len - o)) (o + 4) ((u16At h (o + 4) + add) % 65536)
  else put16 h (o + 4) (len - (o + 40))

/-- The header of chunk `k` of `n`, of `m` MSS pieces each, whose packet is `len` bytes long (R370). -/
def chunkHead (ds : List TxDesc) (h : List Byte) (k n m len : Nat) : List Byte :=
  let l3 := sendL3 ds
  let l4 := sendL4 ds
  let proto := byteAt h (if byteAt h l3 / 16 = 6 then l3 + 6 else l3 + 9)
  let o3 := sendOuter ds
  let u := o3 + if byteAt h o3 / 16 = 6 then 40 else 4 * (byteAt h o3 % 16)
  let g := chunkIp h l3 len (k * m)
  let g := if sendTunnel ds then put16 (chunkIp g o3 len (k * m)) (u + 4) (len - u) else g
  let g :=
    if proto = 6 then
      let g := putBytes g (l4 + 4) (beBytes 4 ((beNat (bytesAt h (l4 + 4) 4) + k * m * sendMss ds) % 2 ^ 32))
      let fl := BitVec.ofNat 8 (byteAt h (l4 + 13))
      let fl := if k = 0 then fl else fl &&& 0x7F
      putBytes g (l4 + 13) [if k + 1 = n then fl else fl &&& 0xF6]
    else put16 g (l4 + 4) (len - l4)
  g.take h.length

/-- The reads that fetch bytes [lo, hi) of a send, extended to whole units of its buffers: offsets count from the send's start. -/
def Chip.sendSegs (c : Chip) (e f u lo hi : Nat) : List TxDesc → Nat → List (Nat × Nat × Nat)
  | [], _ => []
  | d :: ds, at_ =>
    let a := max lo at_ - at_
    let b := min hi (at_ + d.len) - at_
    let a' := a / u * u
    let b' := min d.len (roundUp b u)
    (if a < b then c.readSegs e f ((nth 0 d.words 0).toNat + a') (b' - a') (at_ + a') else [])
      ++ Chip.sendSegs c e f u lo hi ds (at_ + d.len)

/-- A send no packet of which has been made yet. -/
def TxSend.init : TxSend := ⟨Xfer.init, [], false, [], 0, false, none⟩

/-- The completion of a send (Table 13-4); without a packet its stamp is a free value. -/
def Chip.sendCqe (c : Chip) (n code : Nat) (ds : List TxDesc) (cur : TxSend) : Cqe × Chip :=
  let size := ringSize (c.qpf n F.DE_QP_TX_LOG2)
  let first := match ds with
    | d :: _ => d.idx
    | [] => 0
  let (s, c) := match cur.stamp with
    | some s => (s, c)
    | none => c.fresh
  let w0 := code % 2 ^ 16 + ds.length % 256 * 2 ^ 24 + first * 2 ^ 32
  let w1 := getBits (sendWord ds 3) 0 32 + sendLen ds % 2 ^ 32 * 2 ^ 32
  let w3 := fracOf s + cur.made % 2 ^ 16 * 2 ^ 16
  (⟨[BitVec.ofNat 64 w0, BitVec.ofNat 64 w1, dtWord s, BitVec.ofNat 64 w3], some (true, (first + ds.length) % size),
    code == Code.OK || code == Code.POISONED⟩, c)

/-- The head send of a transmit job fails with a code whose completion is written (R379). -/
def Chip.sendFail (c : Chip) (now code : Nat) (j : Job) (ds : List TxDesc) (cur : TxSend) : Chip :=
  let (q, c) := c.sendCqe j.qp code ds cur
  let c := c.jobCqe now j q
  match c.job j.id with
  | some j => (c.jobDone now j).qpHalt now j.qp code
  | none => c.qpHalt now j.qp code

/-- Allocates one bobbin for each packet of a send, as (bytes from `lo`, at `dst`, PLEN, flags, chunk); where a request ends EMPTY its length,
and then what had been allocated is given back. -/
def Chip.allocPkts (now s : Nat) : List (Nat × Nat × Nat × Nat × Option Nat) → List TxPkt → Chip → Sum Nat (List TxPkt) × Chip
  | [], acc, c => (.inr acc.reverse, c)
  | (lo, dst, plen, flags, chunk) :: ps, acc, c =>
    match c.alloc now plen ⟨false, s, true, false, 31, 0, 0, 0⟩ with
    | (some (id, _), c) =>
      let c := c.bobFill (c.bobBase id) (List.replicate plen 0)
      Chip.allocPkts now s ps (⟨id, plen, flags, lo, dst, Xfer.init, chunk⟩ :: acc) c
    | (none, c) => (.inl plen, acc.foldl (fun c p => (c.handOver now p.bob).drop now p.bob) c)

/-- The job ends at a send that met EMPTY for `n` bytes; the send and those after it stay at the head until a release in a pool that
fits (R368, Table 8-3). -/
def Chip.sendEmpty (c : Chip) (now n : Nat) (j : Job) (sends : List (List TxDesc)) : Chip :=
  let c := c.setQp j.qp { c.qp j.qp with tx := sends.flatten ++ (c.qp j.qp).tx, starved := some n, retry := true }
  c.jobDone now j

/-- The packets of the head send are allocated and their reads prepared. -/
def Chip.sendPackets (c : Chip) (now : Nat) (j : Job) (ds : List TxDesc) (rest : List (List TxDesc)) (cur : TxSend)
    (ps : List (Nat × Nat × Nat × Nat × Option Nat)) : Chip :=
  let s := c.qpSlice j.qp
  let e := c.qpHome j.qp
  let u := swapUnit (c.qpf j.qp F.DE_QP_TX_PSWAP)
  match Chip.allocPkts now s ps [] c with
  | (.inl n, c) => c.sendEmpty now n j (ds :: rest)
  | (.inr pkts, c) =>
    let pkts := pkts.map fun p =>
      { p with xfer := { p.xfer with segs := c.sendSegs e (c.sliceFn s).1 u p.lo (p.lo + (p.plen - p.dst)) ds 0 } }
    c.putJob { j with kind := .tx (ds :: rest) { cur with ready := true, pkts := pkts } }

/-- The mover turns to the head send of its job (R362, R368-R370). -/
def Chip.startSend (c : Chip) (now : Nat) (j : Job) (ds : List TxDesc) (rest : List (List TxDesc)) : Chip :=
  let l := sendLen ds
  let z := j.z
  let u := swapUnit (c.qpf j.qp F.DE_QP_TX_PSWAP)
  let fl := getBits (sendWord ds 2) 0 32
  if sendBad u ds then c.sendFail now Code.SEND_INVALID j ds TxSend.init
  else if l ≤ z then c.sendPackets now j ds rest TxSend.init [(0, 0, l, fl, none)]
  else if !sendTso ds then c.sendFail now Code.TOO_LONG j ds TxSend.init
  else if cutBad z ds then c.sendFail now Code.SEND_INVALID j ds TxSend.init
  else
    let segs := c.sendSegs (c.qpHome j.qp) (c.sliceFn (c.qpSlice j.qp)).1 u 0 (sendHdr ds) ds 0
    c.putJob { j with kind := .tx (ds :: rest) { TxSend.init with hread := { Xfer.init with segs := segs } } }

/-- The header of a send to be cut has been read: its checks, its chunks (R370). -/
def Chip.cutSend (c : Chip) (now : Nat) (j : Job) (ds : List TxDesc) (rest : List (List TxDesc)) (cur : TxSend) : Chip :=
  let h := sendHdr ds
  let l := sendLen ds
  let z := j.z
  let piece := (z - h) / sendMss ds * sendMss ds
  if !cutHeadOk ds (rdBytes cur.head 0 h) || piece = 0 then c.sendFail now Code.SEND_INVALID j ds cur
  else
    let n := (l - h + piece - 1) / piece
    let fl := getBits (sendWord ds 2) 0 32
    c.sendPackets now j ds rest cur ((List.range n).map fun k =>
      (h + k * piece, h, h + min piece (l - h - k * piece), fl + 256 + (if k + 1 = n then 512 else 0) + k * 2 ^ 16, some k))

/-- Issues what reads of a transfer it can; answers those left and how many went out. -/
def Chip.pumpSegs (now e f : Nat) (pasid : Option Nat) (use : Nat → ReqUse) :
    List (Nat × Nat × Nat) → Nat → Chip → List (Nat × Nat × Nat) × Nat × Chip
  | [], k, c => ([], k, c)
  | (a, n, off) :: rest, k, c =>
    match c.issueRead now (c.stripe e a) f pasid a n (use off) with
    | (some _, c) => Chip.pumpSegs now e f pasid use rest (k + 1) c
    | (none, c) => ((a, n, off) :: rest, k, c)

/-- Issues what reads of a transfer it can. -/
def Chip.pumpXfer (c : Chip) (now e f : Nat) (pasid : Option Nat) (use : Nat → ReqUse) (x : Xfer) : Xfer × Chip :=
  let (segs, k, c) := Chip.pumpSegs now e f pasid use x.segs 0 c
  ({ x with segs := segs, out := x.out + k }, c)

/-- Issues what reads of the packets of a send it can. -/
def Chip.pumpPkts (now e f : Nat) (pasid : Option Nat) (id : Nat) : List TxPkt → Chip → List TxPkt × Chip
  | [], c => ([], c)
  | p :: ps, c =>
    let (x, c) := c.pumpXfer now e f pasid (fun off => .payload id p.bob off) p.xfer
    let (qs, c) := Chip.pumpPkts now e f pasid id ps c
    ({ p with xfer := x } :: qs, c)

/-- Issues what reads of a job it can (R323, R368). -/
def Chip.pumpJob (c : Chip) (now : Nat) (j : Job) : Chip :=
  match j.kind with
  | .rx _ _ _ => c
  | .tx sends cur =>
    let (f, pasid) := c.sliceFn (c.qpSlice j.qp)
    let (h, c) := c.pumpXfer now j.ep f pasid (fun off => .header j.id off) cur.hread
    let (ps, c) := Chip.pumpPkts now j.ep f pasid j.id cur.pkts c
    c.putJob { j with kind := .tx sends { cur with hread := h, pkts := ps } }

/-- Issues what reads of the jobs it can, in the order the jobs started, and the flushes that wait for a tag. -/
def Chip.pumpJobs (c : Chip) (now : Nat) : Chip :=
  Chip.pumpOrdered now (c.host.ordered.length + 1) (c.de.jobs.foldl (fun (c : Chip) j => match c.job j.id with
    | some j => c.pumpJob now j
    | none => c) c)

/-- A mover starts a transmit job of queue pair `n` (R368, R376, R446). -/
def Chip.txJob (c : Chip) (now n : Nat) : Chip :=
  let s := c.qpSlice n
  let e := c.qpHome n
  let x := c.qp n
  let (all, _) := takeSends 16 x.tx
  let room := c.cqRoom n
  let fits := if c.overlapped then
      (all.foldl (fun (r : Nat × Nat) ds => if r.2 + sendLen ds ≤ 2 ^ 20 then (r.1 + 1, r.2 + sendLen ds) else (r.1, 2 ^ 20 + 1)) (0, 0)).1
    else all.length
  let k := min (min all.length room) fits
  let sends := all.take k
  let l := sends.foldl (fun t ds => t + sendLen ds) 0
  let one := c.de.jobs.any fun j => j.qp == n && !j.done && (match j.kind with
    | .tx _ _ => true
    | .rx _ _ _ => false)
  if !c.open1 23 || c.qpState n ≠ 1 || k = 0 || x.starved.isSome || one || c.txHeld now n || !c.admitsHost s e || !c.moverFree e l then c
  else
    let st := c.jobStatus s e
    if st ≠ Code.OK ∧ st ≠ Code.MASTER_OFF then c.qpHalt now n st
    else if !c.jobCan s e then c
    else
      let c := if x.retry then c.inc A.DE_EMPTY_RETRY else c
      let c := c.setQp n { x with tx := (takeSends k x.tx).2, retry := false }
      let b := c.txBucket (c.mrNow now) s
      let c := if s = 0 ∨ getBits (c.rdAt (c.mrNow now) (A.SM_SLICE s + 16)) 0 20 = 0 then c
        else c.setTxBucket s { b with used := b.used + (l * tokenUnit : Nat) }
      let id := c.de.nextJob
      let j : Job := ⟨id, n, e, l, k, c.largest, .tx sends TxSend.init, [], false⟩
      let c := { c with de := { c.de with jobs := c.de.jobs ++ [j], nextJob := id + 1 } }
      match sends with
      | [] => c
      | ds :: rest => (c.startSend now j ds rest).pumpJobs now

/-- The first packet of the head send has all its payload (R49, R368): it is stamped and handed to Dispatch; after the last packet of a
send its completion is written, and the mover turns to the next send. -/
def Chip.txCountPoint (c : Chip) (now n : Nat) : Chip :=
  match c.de.jobs.find? fun j => j.qp == n && !j.done && (match j.kind with
    | .tx _ cur => cur.ready
    | .rx _ _ _ => false) with
  | none => c
  | some j =>
    match j.kind with
    | .tx (ds :: rest) cur =>
      match cur.pkts with
      | [] => c
      | p :: ps =>
        if !c.open1 23 || !p.xfer.segs.isEmpty || p.xfer.out ≠ 0 || !c.jobCan (c.qpSlice n) j.ep then c
        else
          let h := sendHdr ds
          let base := c.bobBase p.bob
          let c := match p.chunk with
            | none => c
            | some k =>
              let g := chunkHead ds (rdBytes cur.head 0 h) k (cur.made + cur.pkts.length) ((j.z - h) / sendMss ds) p.plen
              let c := { c with mem := { c.mem with bob := wrBytes c.mem.bob base g } }
              if cur.hread.bad then (List.range ((h + 31) / 32)).foldl (fun c w => c.setSram 0 (base / 32 + w) poisonMark) c else c
          let bad := p.xfer.bad || cur.hread.bad
          let head := rdBytes c.mem.bob base (min p.plen 256)
          let t := c.stampIn (20 + j.ep) now
          let c := c.addPacket { Packet.none with
            src := 16 + j.ep, plen := p.plen, frameLen := p.plen + 4, err := if bad then 2 ^ 5 else 0, istamp := t, bob := p.bob,
            txq := n, txflags := p.flags, profile := c.qpf n F.DE_QP_PROFILE, slice := c.qpSlice n,
            w7 := metaWord7 (preParse head p.plen c.stnOpt) }
          let c := (c.inc A.DE_TX_PACKETS).add A.DE_TX_BYTES p.plen
          let cur := { cur with pkts := ps, made := cur.made + 1, bad := cur.bad || bad, stamp := some t }
          if !ps.isEmpty then c.putJob { j with kind := .tx (ds :: rest) cur }
          else
            let (q, c) := c.sendCqe n (if cur.bad then Code.POISONED else Code.OK) ds cur
            let j := { j with kind := .tx rest TxSend.init }
            let c := (c.putJob j).jobCqe now j q
            match c.job j.id, rest with
            | some j, [] => c.jobDone now j
            | some j, ds :: rest => (c.startSend now j ds rest).pumpJobs now
            | none, _ => c
    | _ => c

/-- Payload of a packet, or the header of a send to be cut, has arrived for a transmit job (R337, R372, R378). -/
def Chip.txData (c : Chip) (now id : Nat) (bob : Option Nat) (off : Nat) (bs : List Byte) (marks : List Bool) : Chip :=
  match c.job id with
  | none => c
  | some j =>
    match j.kind with
    | .tx (ds :: rest) cur =>
      let k := c.qpf j.qp F.DE_QP_TX_PSWAP
      let bs := swapped k bs
      let marks := swapped k marks
      let poison := marks.any fun b => b
      match bob with
      | none =>
        let x := { cur.hread with out := cur.hread.out - 1, bad := cur.hread.bad || poison }
        let cur := { cur with hread := x, head := wrBytes cur.head off bs }
        let c := c.putJob { j with kind := .tx (ds :: rest) cur }
        if x.segs.isEmpty && x.out == 0 then (c.cutSend now { j with kind := .tx (ds :: rest) cur } ds rest cur).pumpJobs now
        else c.pumpJobs now
      | some b =>
        match cur.pkts.find? fun p => p.bob == b with
        | none => c
        | some p =>
          let skip := p.lo - off
          let o := p.dst + (off - p.lo)
          let bs := (bs.drop skip).take (p.plen - o)
          let marks := (marks.drop skip).take (p.plen - o)
          let a := c.bobBase b + o
          let c := { c with mem := { c.mem with bob := wrBytes c.mem.bob a bs } }
          let c := (marks.zipIdx).foldl (fun (c : Chip) m => if m.1 then c.setSram 0 ((a + m.2) / 32) poisonMark else c) c
          let x := { p.xfer with out := p.xfer.out - 1, bad := p.xfer.bad || marks.any fun b => b }
          let pkts := cur.pkts.map fun q => if q.bob = b then { q with xfer := x } else q
          (c.putJob { j with kind := .tx (ds :: rest) { cur with pkts := pkts } }).pumpJobs now
    | _ => c

/-- A read of a transmit job has failed: HOST_ERROR or TIMEOUT, with a completion for its send (R379). -/
def Chip.txReadFail (c : Chip) (now id code : Nat) : Chip :=
  match c.job id with
  | none => c
  | some j =>
    match j.kind with
    | .tx (ds :: _) cur => c.sendFail now code j ds cur
    | _ => c

/-! ### Receive (R284, R371, R372) -/

/-- Whether the DMA Engine reports host receive queue `n` of endpoint `e` able to depart its head entry: buffers, a mover and room. -/
def Chip.rxReady (c : Chip) (n e : Nat) : Bool :=
  match c.tmq n with
  | [] => false
  | h :: _ =>
    let k := c.buffersFor n h
    let s := c.qpSlice n
    c.qpState n == 1 && c.qpHome n == e && decide (1 ≤ c.cqRoom n) && c.jobCan s e
      && (decide (16 < k) || (decide (k ≤ (c.qp n).rx.length) && c.moverFree e h.len.toNat))

/-- The completion of a received packet (Table 13-4). -/
def Chip.rxCqe (c : Chip) (code count index : Nat) (e : TmEnt) (written : Nat) (head : Option (Bool × Nat)) : Cqe × Chip :=
  let (err, c) := match e.req.bob with
    | some b => (getBits (c.rd (A.BP_META (c.bobSlot b) 0)) 40 16, c)
    | none => c.fresh
  let s := e.req.istamp
  let w0 := code % 2 ^ 16 + 2 ^ 17 + count * 2 ^ 24 + index * 2 ^ 32
  let w1 := written + e.req.src % 256 * 2 ^ 32 + e.req.cls % 256 * 2 ^ 40 + err % 2 ^ 16 * 2 ^ 48
  (⟨[BitVec.ofNat 64 w0, BitVec.ofNat 64 w1, dtWord s, BitVec.ofNat 64 (fracOf s)], head, false⟩, c)

/-- The Traffic Manager selects the next host receive queue of endpoint `e` (R284, R296, R371): a receive job starts, or a packet that
needs too many buffers leaves at once. -/
def Chip.selectHost (c : Chip) (now e : Nat) : Chip :=
  if !c.open1 23 then c else
  let qs := (c.tm.queues.map (·.1)).filter fun q => !isShaped q && c.rxReady q e
  match drr qs (c.turn (144 + e)) (fun q => (c.shape q).deficit) c.headCharge
      (fun q => 256 * c.getAt (c.mrNow now) (A.TM_HRXQ q) F.TM_HRXQ_WEIGHT) with
  | none => c
  | some (n, adds) =>
    match c.tmq n with
    | [] => c
    | h :: _ =>
      let c := ((c.gain adds).setTurn (144 + e) n).takeEntry now n h
      let (bad, c) := c.entryPoison now n h
      if bad then c
      else
        let k := c.buffersFor n h
        let x := c.qp n
        let size := ringSize (c.qpf n F.DE_QP_RX_LOG2)
        let busy := c.de.jobs.foldl (fun t j => if j.qp = n then t + (match j.kind with
          | .rx _ b _ => b.length
          | .tx _ _ => 0) else t) 0
        if 16 < k then
          let (q, c) := c.rxCqe Code.TOO_LONG 0 (c.qpf n F.DE_QP_RX_HEAD) h 0 none
          let c := (((c.inc A.DE_RX_TOO_LONG).inc (A.TM_DEQ_FRAMES n)).writeCqe now n q)
          c.dropReq now h.req
        else
          let id := c.de.nextJob
          let first := (c.qpf n F.DE_QP_RX_HEAD + busy) % size
          let c := c.setQp n { x with rx := x.rx.drop k }
          { c with de := { c.de with jobs := c.de.jobs ++ [⟨id, n, e, h.len.toNat, 1, 0, .rx h ((x.rx.take k).map (·.2)) first, [], false⟩],
                                     nextJob := id + 1 } }

/-- Writes a packet into buffers of `size` bytes, each filled before the next, under RX_PSWAP. -/
def Chip.fillBufs (e f : Nat) (pasid : Option Nat) (k size : Nat) : List Nat → List Byte → List Bool → Chip → Chip
  | [], _, _, c => c
  | a :: as, bs, ms, c =>
    let part := bs.take size
    let pad := roundUp part.length (swapUnit k) - part.length
    let c := c.writeData e f pasid a (swapped k (part ++ List.replicate pad 0)) (swapped k (ms.take size ++ List.replicate pad false))
    Chip.fillBufs e f pasid k size as (bs.drop size) (ms.drop size) c

/-- The oldest receive job of queue pair `n` that has not run (R371): the packet is written, the bobbin released, the completion written,
the entry fired. -/
def Chip.rxJob (c : Chip) (now n : Nat) : Chip :=
  match c.de.jobs.find? fun j => j.qp == n && !j.done && (match j.kind with
    | .rx _ _ _ => true
    | .tx _ _ => false) with
  | none => c
  | some j =>
    match j.kind with
    | .tx _ _ => c
    | .rx ent bufs first =>
      let s := c.qpSlice n
      let st := c.jobStatus s j.ep
      if !c.open1 23 then c
      else if st ≠ Code.OK then c.jobFail now st j
      else if !c.jobCan s j.ep then c
      else
        let (f, pasid) := c.sliceFn s
        let (bs, ms, c) := c.departBytes now ent.req
        let c := Chip.fillBufs j.ep f pasid (c.qpf n F.DE_QP_RX_PSWAP) (256 * c.qpf n F.DE_QP_RX_BUF) bufs bs ms c
        let size := ringSize (c.qpf n F.DE_QP_RX_LOG2)
        let code := if ms.any fun b => b then Code.POISONED else Code.OK
        let (q, c) := c.rxCqe code bufs.length first ent bs.length (some (false, (first + bufs.length) % size))
        let c := (c.inc (A.TM_DEQ_FRAMES n)).dropReq now ent.req
        let c := ((c.inc A.DE_RX_PACKETS).add A.DE_RX_BYTES bs.length).report 5 ent.req.acct (bs.length + 4) (stamp now)
        let c := c.jobCqe now j q
        match c.job j.id with
        | some j => c.jobDone now j
        | none => c

/-- COAL_US after its last firing a queue pair fires if one waits (R367). -/
def Chip.holdoffExpiry (c : Chip) (now n : Nat) : Chip := if c.open1 23 then c.qpFire now n else c

/-- The switch between Sequential and Overlapped mode, once no job is in flight (R375). -/
def Chip.dmaSwitch (c : Chip) : Chip :=
  if c.switching && c.de.jobs.isEmpty && c.fetchJobs 0 == 0 && c.fetchJobs 1 == 0 then
    (c.set A.DE_STATUS ⟨0, 0, 1⟩ (if c.overlapped then 0 else 1)).set A.DE_STATUS ⟨0, 1, 1⟩ 0
  else c

/-! ### Enable, disable, restart (R355, R356, R380) -/

/-- Discards the caches of queue pair `n`; the rings are fetched again from the heads, past what its jobs in flight hold. -/
def Chip.recache (c : Chip) (n : Nat) : Chip :=
  let js := c.de.jobs.filter fun j => j.qp == n && !j.done
  let tx := js.foldl (fun t j => match j.kind with
    | .tx sends _ => t + sends.flatten.length
    | .rx _ _ _ => t) 0
  let rx := js.foldl (fun t j => match j.kind with
    | .rx _ b _ => t + b.length
    | .tx _ _ => t) 0
  let x := c.qp n
  let sz (f : Fld) : Nat := max 1 (ringSize (c.qpf n f))
  c.setQp n { x with tx := [], rx := [], txFly := 0, rxFly := 0, txFill := false, rxFill := false, gen := x.gen + 1, starved := none, retry := false,
                     txNext := (c.qpf n F.DE_QP_TX_HEAD + tx) % sz F.DE_QP_TX_LOG2, rxNext := (c.qpf n F.DE_QP_RX_HEAD + rx) % sz F.DE_QP_RX_LOG2 }

/-- Whether a present ring's size field is in range. -/
def logOk (l : Nat) : Bool := l == 0 || (decide (4 ≤ l) && decide (l ≤ 15))

/-- The checks of R355 on a context about to be enabled. -/
def Chip.qpCheck (c : Chip) (now n : Nat) : Status :=
  let f := c.qpf n
  let s := f F.DE_QP_SLICE
  let tx := f F.DE_QP_TX_LOG2
  let rx := f F.DE_QP_RX_LOG2
  let cq := f F.DE_QP_CQ_LOG2
  if !logOk tx || !logOk rx || !logOk cq || decide (4 < f F.DE_QP_TX_DSWAP) || decide (4 < f F.DE_QP_TX_PSWAP)
      || decide (4 < f F.DE_QP_RX_DSWAP) || decide (4 < f F.DE_QP_RX_PSWAP) || f F.DE_QP_HIGH == 0 || decide (16 < f F.DE_QP_HIGH)
      || f F.DE_QP_TX_BASE % 32 != 0 || f F.DE_QP_RX_BASE % 8 != 0 || f F.DE_QP_CQ_BASE % 32 != 0 || decide (256 < f F.DE_QP_RX_BUF)
      || decide (f F.DE_QP_HIGH ≤ f F.DE_QP_LOW)
      || (cq == 0 && (tx != 0 || rx != 0)) || (f F.DE_QP_RX_BUF == 0 && rx != 0)
      || (!c.twin && c.bound_ s && f F.DE_QP_ENDPOINT != c.sliceHome s) then Code.BAD_ARGUMENT
  else if !c.bound_ s then Code.NO_PASID
  else if s = 0 then Code.OK
  else
    let used := c.get (A.SM_SLICE s) F.SM_SLICE_QP_USED
    let max_ := getBits (c.rdAt (stamp now) (A.SM_SLICE s + 8)) 0 17
    let draining := (List.range 1024).any fun r =>
      c.get (A.SM_RESIZE r) F.SM_RESIZE_STATE == 2 && c.get (A.SM_RESIZE r) F.SM_RESIZE_SLICE == s
        && c.get (A.SM_RESIZE r) F.SM_RESIZE_REL_QP != 0
    if max_ < used + 1 ∨ draining = true then Code.QUOTA else Code.OK

/-- A queue pair that passed its checks comes to RUN. -/
def Chip.qpStart (c : Chip) (n : Nat) : Chip :=
  let c := ((c.setQpf n F.DE_QP_STATE 1).wr (A.DE_QP n + 32) 0).setQpf n F.DE_QP_CQ_TAIL 0
  let c := (c.setQpf n F.DE_QP_CQ_HEAD 0).setQpf n F.DE_QP_ARMED 0
  (c.setQp n { QpSt.init with gen := (c.qp n).gen + 1 }).qpUsed (c.qpSlice n) true

/-- Clearing ENABLE of a queue pair (R356). -/
def Chip.qpStop (c : Chip) (now n : Nat) : Chip :=
  let st := c.qpState n
  if st = 0 ∨ st = 3 then c
  else
    let c := if st = 1 then (c.setQpf n F.DE_QP_STATE 3).dropQueue now n (A.TM_DROP n) else c.setQpf n F.DE_QP_STATE 3
    (c.recache n).qpDrained n

/-- Writing RESTART = 1 (R380): what doorbells recorded takes effect, an arm with them (R359). -/
def Chip.qpRestart (c : Chip) (now n : Nat) : Status × Chip :=
  if c.qpState n = 2 then (Code.OK, ((c.setQpf n F.DE_QP_STATE 1).recache n).qpFire now n) else (Code.NOT_HALTED, c)

/-- Whether a PUT may change the words of an enabled queue pair: only IRQ, LOW, HIGH and COAL_US (R356). -/
def qpKept (old new : List Word) : Bool :=
  let m0 : Word := setBits (setBits (setBits (setBits 0 24 3 7) 51 4 15) 55 5 31) 0 4 15
  (nth 0 old 0 &&& ~~~ m0) == (nth 0 new 0 &&& ~~~ m0) && nth 0 old 1 == nth 0 new 1 && nth 0 old 2 == nth 0 new 2
    && nth 0 old 3 == nth 0 new 3 && getBits (nth 0 old 6) 16 9 == getBits (nth 0 new 6) 16 9

/-! ### Doorbells (R357-R359) -/

/-- The checks of R358 on a doorbell of slice `s` that arrived on endpoint `e` for an object: its owner, its endpoint, whether it takes
doorbells, the size of its ring. The doorbell is counted where it is dropped. -/
def Chip.dbOk (c : Chip) (now e s owner home : Nat) (live : Bool) (size v : Nat) : Bool × Chip :=
  if owner ≠ s then (false, (c.inc A.DE_DB_DROP).raise now Flt.SM_DB_FOREIGN 23 63 s 0)
  else if (!c.twin && home != e) || !live || size = 0 || size ≤ v then (false, c.inc A.DE_DB_DROP)
  else (true, c)

/-- Whether function `f` of endpoint `e` takes memory requests: Memory Space Enable, and D0 (R320, R325). -/
def Chip.decodes (c : Chip) (e f : Nat) : Bool := (c.fn e f).mse && !(c.fn e f).d3

/-- Whether a posted write to function `f` of endpoint `e` is taken: its link in L0, its island Open, not sluiced, decoded, not poisoned. A
dropped one is counted or logged (R325, R337, R339). -/
def Chip.posted (c : Chip) (e f : Nat) (poison pasid : Bool) : Bool × Chip :=
  if !c.epUp e || !c.open1 (20 + e) then (false, c)
  else
    let c := if pasid then c.inc (A.HE_PASID_IN e) else c
    if c.sluiced e then (false, c.inc (A.HE_SLUICE_DROP e))
    else if !c.decodes e f then (false, c.aerLog e f Aer.unsupported false)
    else if poison then (false, (c.aerLog e f Aer.poisoned true).inc (A.HE_POISON_RX e))
    else (true, c)

/-- A doorbell of page `s` for a ring of queue pair `n` (R357, R358): `whole` says that it is an aligned 8-byte write, `rsv` are its
reserved bits, `log` names the size field of its ring, `act` is its effect. -/
def Chip.qpDoorbell (c : Chip) (now e s : Nat) (whole poison pasid : Bool) (v n rsv : Nat) (log : Fld) (act : Chip → Chip) : Chip :=
  let (ok, c) := c.posted e 1 poison pasid
  if !ok then c
  else if !whole then c.inc (A.HE_BAR_DROP e)
  else if rsv ≠ 0 ∨ c.open1 23 = false then c
  else
    let live := c.qpState n == 1 || c.qpState n == 2
    let (ok, c) := c.dbOk now e s (c.qpSlice n) (c.qpf n F.DE_QP_ENDPOINT) live (ringSize (c.qpf n log)) v
    if ok then act c else c

end Sys2Proof.Machine
end

