-- ==== Sys2Proof/Machine/SliceOps.lean ====
section
/-! DEFINITION. Sluice, Bus Master Enable, resets of functions and endpoints, completions and timeouts, the mailbox and command queues
(spec/12_host_endpoints.md), slices and their live resizing (spec/13_slices_queues_dma.md). -/

namespace Sys2Proof.Machine

/-! ### Queue pairs an endpoint's event reaches (R381) -/

/-- The queue pairs in RUN that pass a test. -/
def Chip.running (c : Chip) (p : Nat → Bool) : List Nat := (c.de.qps.map (·.1)).filter fun n => c.qpState n == 1 && p n

/-- Whether a job or queue pair of home `h` uses endpoint `e`. -/
def Chip.uses (c : Chip) (e h : Nat) : Bool := c.twin || h == e

/-- The jobs that pass a test end with a failure. -/
def Chip.failJobs (c : Chip) (now code : Nat) (p : Job → Bool) : Chip :=
  (c.de.jobs.filter p).foldl (fun c j => match c.job j.id with
    | some j => if j.done then { j with cqes := [] } |> fun j => c.putJob j else c.jobFail now code j
    | none => c) c

/-- The queue pairs in RUN that pass a test are halted. -/
def Chip.haltQps (c : Chip) (now code : Nat) (p : Nat → Bool) : Chip := (c.running p).foldl (fun c n => c.qpHalt now n code) c

/-- Replaces the fetch of command queue `k` of endpoint `e`. -/
def Chip.setFetch (c : Chip) (e k : Nat) (x : CmdFetch) : Chip :=
  c.setEp e { c.ep e with cmdq := mset CmdFetch.init (c.ep e).cmdq k x }

/-- The fetch of command queue `k` of endpoint `e`. -/
def Chip.fetch (c : Chip) (e k : Nat) : CmdFetch := mget CmdFetch.init (c.ep e).cmdq k

/-- The command queue fetches under way end (R341, R381); entries not yet executed stay at HEAD. -/
def Chip.endFetches (c : Chip) (e : Nat) : Chip :=
  (List.range 8).foldl (fun (c : Chip) k => if (c.fetch e k).stage = 3 then c else c.setFetch e k CmdFetch.init) c

/-! ### Sluice (R338-R340) -/

/-- Endpoint `e` enters Sluice with a cause (R338, R339, R381). -/
def Chip.sluiceOne (c : Chip) (now e cause : Nat) : Chip :=
  if c.sluiced e then c
  else
    let c := (c.setFlag (A.HE_SLUICE e) F.HE_SLUICE_STATE true).set (A.HE_SLUICE e) F.HE_SLUICE_CAUSE cause
    let c := c.wr (A.HE_SLUICE_STAMP e) (dtWord (stamp now))
    let x := c.ep e
    let c := c.setEp e { x with entries := (x.entries + 1) % 65536 }
    let c := c.dropOrdered fun t => t.ep == e
    let c := c.journal now { JEvent.base with event := 7, level := 0, island := 20 + e, detail := e, a0 := BitVec.ofNat 64 cause }
    let c := c.raise now Flt.HE_SLUICE_ENTRY (20 + e) 63 0 0
    let c := (c.reqsOf e).foldl (fun (c : Chip) p => c.setHreq e p.1 (some { p.2 with quar := true, dead := true })) c
    let c := (c.failJobs now Code.SLUICED fun j => c.uses e j.ep).haltQps now Code.SLUICED fun n => c.uses e (c.qpHome n)
    (c.endFetches e).msix now e 9

/-- Endpoint `e` enters Sluice; in Twin the other follows, with the same cause (R336) or with 5 (R338), a free choice. -/
def Chip.sluice (c : Chip) (now e cause : Nat) : Chip :=
  let was := c.sluiced e
  let c := c.sluiceOne now e cause
  if was || !c.twin || c.sluiced (1 - e) then c
  else
    let (v, c) := c.fresh
    c.sluiceOne now (1 - e) (if v % 2 = 0 then cause else 5)

/-! ### Command queues (R329) -/

/-- The index of command queue `k` of endpoint `e` among the contexts (R407). -/
def cmdqCtx (e k : Nat) : Nat := 2 + 8 * e + k

/-- Command queue `k` of endpoint `e` fetches its next entry, if it may (R329, R446, R448). -/
def Chip.cmdqKick (c : Chip) (now e k : Nat) : Chip :=
  let a := A.HE_CMDQ e k
  let head := c.get a F.HE_CMDQ_HEAD
  if (c.fetch e k).stage ≠ 0 || !c.flag a F.HE_CMDQ_ENABLE || head = c.get a F.HE_CMDQ_TAIL || !c.pwr.fwRuns || !c.open1 23
      || !c.jobCan 0 e || !c.moverFree e 32 then c
  else
    let at_ := c.get a F.HE_CMDQ_BASE + 32 * head
    match c.issueRead now (c.stripe e at_) 0 none at_ 32 (.entry (8 * e + k)) with
    | (none, c) => c
    | (some _, c) =>
      let c := c.setFetch e k { CmdFetch.init with stage := 1 }
      { c with host := { c.host with turn := 8 * e + k } }

/-- Every command queue tries, the one after the queue served last first (R329). -/
def Chip.kickAll (c : Chip) (now : Nat) : Chip :=
  ((List.range 16).map fun i => (c.host.turn + 1 + i) % 16).foldl (fun c i => c.cmdqKick now (i / 8) (i % 8)) c

/-- Issues what reads of the command queues it can. -/
def Chip.pumpFetches (c : Chip) (now : Nat) : Chip :=
  (List.range 16).foldl (fun (c : Chip) i =>
    let x := c.fetch (i / 8) (i % 8)
    if x.stage = 2 then
      let (y, c) := c.pumpXfer now (i / 8) 0 none (fun off => .packet i off) x.xfer
      c.setFetch (i / 8) (i % 8) { x with xfer := y }
    else c) c

/-- Tags or staging have become free: what waits for them goes on. -/
def Chip.pump (c : Chip) (now : Nat) : Chip := (((c.goOrdered now).pumpJobs now).pumpFetches now).kickAll now

/-- Hands the packet of a command queue to its context, with what its transport has decided of it; of a packet refused so only the header is kept. -/
def Chip.cmdqSubmit (c : Chip) (e k : Nat) (pre : Status) : Chip :=
  let x := c.fetch e k
  let n := getBits (nth 0 x.entry 1) 0 32
  let c := c.setFetch e k { x with stage := 3 }
  c.cmdSubmit (cmdqCtx e k) (if pre = Code.BAD_ARGUMENT then [] else rdBytes x.bytes 0 (if pre = Code.OK then n else min n 64))
    { source := 3 + e, detail := k, limit := min (2 ^ 20) (getBits (nth 0 x.entry 1) 32 32), resAddr := (nth 0 x.entry 2).toNat, sa := [], tags := [],
      pre := pre, gen := (c.ep e).mboxGen }

/-- The entry of a command queue has been read: its packet is fetched, or refused for its length. -/
def Chip.cmdqEntry (c : Chip) (now i : Nat) (bs : List Byte) (bad : Bool) : Chip :=
  let e := i / 8
  let k := i % 8
  let ws := toWords bs
  let n := getBits (nth 0 ws 1) 0 32
  let c := c.setFetch e k { CmdFetch.init with stage := 2, entry := ws }
  if bad then c.cmdqSubmit e k Code.POISONED
  else if n = 0 ∨ n % 8 ≠ 0 ∨ 2 ^ 20 < n then c.cmdqSubmit e k Code.BAD_ARGUMENT
  else
    let x := { CmdFetch.init with stage := 2, entry := ws, xfer := { Xfer.init with segs := c.readSegs e 0 (nth 0 ws 0).toNat n 0 } }
    (c.setFetch e k x).pump now

/-- A part of the packet of a command queue has arrived; the whole packet goes to the command processor. -/
def Chip.cmdqData (c : Chip) (now i off : Nat) (bs : List Byte) (bad : Bool) : Chip :=
  let e := i / 8
  let k := i % 8
  let x := c.fetch e k
  if x.stage ≠ 2 then c
  else
    let y := { x.xfer with out := x.xfer.out - 1, bad := x.xfer.bad || bad }
    let c := c.setFetch e k { x with bytes := wrBytes x.bytes off bs, xfer := y }
    if y.segs.isEmpty && y.out == 0 then (c.cmdqSubmit e k (if y.bad then Code.POISONED else Code.OK)).pump now else c.pump now

/-- A read of a command queue has failed: an entry is fetched again at the next doorbell, a packet ends with the code (entry 39). -/
def Chip.cmdqFail (c : Chip) (i code : Nat) : Chip :=
  let e := i / 8
  let k := i % 8
  match (c.fetch e k).stage with
  | 1 => c.setFetch e k CmdFetch.init
  | 2 => (c.deadReqs fun r => match r.use with
      | .packet j _ => j == i
      | _ => false).cmdqSubmit e k code
  | _ => c

/-- The result of a packet of a command queue: result, HEAD word, interrupt, then the next queue's entry (R329). Where function 0 can issue
nothing the entry is consumed and the interrupt pends (entry 39, R330). -/
def Chip.cmdqResult (c : Chip) (now e k gen : Nat) (o : Origin) (res : List Byte) : Chip :=
  if (c.fetch e k).stage ≠ 3 ∨ gen ≠ (c.ep e).mboxGen then c
  else
    let a := A.HE_CMDQ e k
    let head := (c.get a F.HE_CMDQ_HEAD + 1) % 2 ^ c.get a F.HE_CMDQ_SIZE_LOG2
    let c := (c.set a F.HE_CMDQ_HEAD head).setFetch e k CmdFetch.init
    let c :=
      if c.jobCan 0 e then
        let bs := res.take o.limit
        let c := c.writeData e 0 none o.resAddr bs (bs.map fun _ => false)
        c.writeOrdered now (c.home0 e) 0 none (c.get a F.HE_CMDQ_HEAD_ADDR) (leBytes 8 head)
      else c
    (c.msix now e (1 + k)).kickAll now

/-- A doorbell of command queue `k` (R329): `n` bytes long. -/
def Chip.cmdqDoorbell (c : Chip) (now e k n : Nat) (poison pasid : Bool) (v : Nat) : Chip :=
  let (ok, c) := c.posted e 0 poison pasid
  if !ok then c
  else
    let a := A.HE_CMDQ e k
    if n ≠ 8 || !c.flag a F.HE_CMDQ_ENABLE || decide (2 ^ c.get a F.HE_CMDQ_SIZE_LOG2 ≤ natBits v 0 16) then c.inc (A.HE_BAR_DROP e)
    else (c.set a F.HE_CMDQ_TAIL (natBits v 0 16)).kickAll now

/-! ### Mailbox (R328) -/

/-- Marks, or clears the marks of, the dwords of the mailbox that hold `n` bytes from offset `o` on. -/
def markBox (m : SMap Bool) (o n : Nat) (bad : Bool) : SMap Bool :=
  let m := m.filter fun p => !(decide (o / 4 ≤ p.1) && decide (4 * p.1 < o + n))
  if bad then (List.range ((n + 3) / 4)).foldl (fun m k => mset false m (o / 4 + k) true) m else m

/-- The host writes bytes to the mailbox buffer (R328, R337). -/
def Chip.mboxWrite (c : Chip) (e o : Nat) (bs : List Byte) (poison : Bool) : Chip :=
  let x := c.ep e
  if x.mboxBusy then c.inc (A.HE_MBOX_DROP e)
  else c.setEp e { x with mbox := wrBytes x.mbox o bs, mboxBad := markBox x.mboxBad o bs.length poison }

/-- The host writes MBOX_CTRL: LEN, and GO where that half is written with it set (R328). -/
def Chip.mboxCtrl (c : Chip) (e : Nat) (len : Option Nat) (go : Bool) : Chip :=
  let x := c.ep e
  if go && x.mboxBusy then c.inc (A.HE_MBOX_DROP e)
  else
    let n := len.getD x.mboxLen
    if !go then c.setEp e { x with mboxLen := n }
    else
      let bad := x.mboxBad.any fun p => decide (4 * p.1 < n)
      let pre := if n = 0 ∨ 2 ^ 20 < n ∨ n % 8 ≠ 0 then Code.BAD_ARGUMENT else if bad then Code.POISONED else Code.OK
      let c := c.setEp e { x with mboxLen := n, mboxBusy := true, mboxDone := false }
      c.cmdSubmit e (if pre = Code.BAD_ARGUMENT then [] else rdBytes x.mbox 0 n)
        { source := 1 + e, detail := 0, limit := 2 ^ 20, resAddr := 0, sa := [], tags := [], pre := pre, gen := x.mboxGen }

/-- The result of the mailbox's packet: written from offset 0, BUSY clear, DONE set, vector 0. -/
def Chip.mboxResult (c : Chip) (now e gen : Nat) (res : List Byte) : Chip :=
  let x := c.ep e
  if gen ≠ x.mboxGen ∨ x.mboxBusy = false then c
  else
    (c.setEp e { x with mbox := wrBytes x.mbox 0 res, mboxBad := markBox x.mboxBad 0 res.length false, mboxBusy := false, mboxDone := true, mboxRes := res.length }).msix now e 0

/-! ### Placement reads (R314) -/

/-- Puts entry `i` of the placement table of connection `n` at the front of the placement cache. -/
def Chip.entryKeep (c : Chip) (n i : Nat) (ws : List Word) : Chip :=
  { c with sto := { c.sto with cache := (((n, i), ws) :: c.sto.cache.filter fun p => p.1 != (n, i)).take 4096 } }

/-- The read of an entry has failed with a code. -/
def Chip.entryFail (c : Chip) (n i code : Nat) : Chip :=
  { c with sto := { c.sto with failed := ((n, i), code) :: c.sto.failed.filter fun p => p.1 != (n, i) } }

/-- The request of connection `n` that a failed read would stop has ended. -/
def Chip.entryForget (c : Chip) (n : Nat) : Chip :=
  { c with sto := { c.sto with failed := c.sto.failed.filter fun p => p.1.1 != n } }

/-! ### Completions (R322, R323, R337, R342) -/

/-- The reply of a request is complete. -/
def Chip.reqDone (c : Chip) (now e t : Nat) (r : HostReq) : Chip :=
  let bad := r.marks.any fun b => b
  match r.use with
  | .desc n rx gen first count => (c.descData now n rx gen first count r.data bad).pump now
  | .payload j b off => (c.txData now j (some b) off r.data r.marks).pump now
  | .header j off => (c.txData now j none off r.data r.marks).pump now
  | .entry i => c.cmdqEntry now i r.data bad
  | .packet i off => c.cmdqData now i off r.data bad
  | .place n i => (if bad then c.entryFail n i Code.POISONED else c.entryKeep n i (toWords r.data)).pump now
  | .flush => (c.flushDone now e t).pump now

/-- A request has failed, with HOST_ERROR or TIMEOUT (R379). A flush that the host has answered with an error is over; one that timed out
is tried again. -/
def Chip.reqFail (c : Chip) (now e t code : Nat) (r : HostReq) : Chip :=
  match r.use with
  | .desc n _ gen _ _ => (if (c.qp n).gen = gen then c.qpHalt now n code else c).pump now
  | .payload j _ _ => (c.txReadFail now j code).pump now
  | .header j _ => (c.txReadFail now j code).pump now
  | .entry i => (c.cmdqFail i code).pump now
  | .packet i _ => (c.cmdqFail i code).pump now
  | .place n i => (c.entryFail n i code).pump now
  | .flush =>
    if code = Code.HOST_ERROR then (c.flushDone now e t).pump now
    else (c.flushLost e t).pump now

/-- A completion for tag `t` arrives on endpoint `e` (R323, R337, R339, R342): `ok` is its status Successful Completion. -/
def Chip.pcieCompletion (c : Chip) (now e f t : Nat) (ok : Bool) (bs : List Byte) (poison : Bool) : Chip :=
  if !c.epUp e || !c.open1 (20 + e) then c
  else
    match c.hreq e t with
    | none => (c.aerLog e f Aer.unexpected true).inc (A.HE_UNEXP_CPL e)
    | some r =>
      if r.quar then c.inc (A.HE_LATE_CPL e)
      else
        let c := if poison then (c.aerLog e r.fn Aer.poisoned true).inc (A.HE_POISON_RX e) else c
        let r := { r with got := r.got + bs.length, data := r.data ++ bs, marks := r.marks ++ bs.map fun _ => poison }
        if ok && decide (r.got < r.len) then c.setHreq e t (some r)
        else
          let c := c.setHreq e t none
          if r.dead then c.pump now
          else if ok then c.reqDone now e t { r with data := r.data.take r.len, marks := r.marks.take r.len }
          else c.reqFail now e t Code.HOST_ERROR r

/-- The completion timeout of tag `t` expires (R322, R341, R500). -/
def Chip.completionTimeout (c : Chip) (now e t : Nat) : Chip :=
  match c.hreq e t with
  | none => c
  | some r =>
    if r.quar || decide (now < r.at_ + ns r.cto) || !c.open1 (20 + e) then c
    else
      let c := ((c.setHreq e t none).aerLog e r.fn Aer.timeout false).inc (A.HE_CTO e)
      let c := if r.dead then c.pump now else c.reqFail now e t Code.TIMEOUT r
      let count := c.get (A.HE_CTO_CFG e) F.HE_CTO_CFG_STORM_COUNT
      let window := ns (1000 * c.get (A.HE_CTO_CFG e) F.HE_CTO_CFG_STORM_WINDOW_US)
      let (hit, c) := c.storm now (Storm.timeouts e) window fun n => decide (count ≤ n)
      if hit then c.sluice now e 4 else c

/-- The quarantine of tag `t` ends: its completion timeout, counted from its issue, has passed (R342). -/
def Chip.quarantineExpiry (c : Chip) (now e t : Nat) : Chip :=
  match c.hreq e t with
  | some r => if r.quar && decide (r.at_ + ns r.cto ≤ now) then (c.setHreq e t none).pump now else c
  | none => c

/-! ### Release, Bus Master Enable, resets (R325, R340-R342, R381, R460) -/

/-- Endpoint `e` leaves Sluice. -/
def Chip.sluiceLift (c : Chip) (now e : Nat) : Chip :=
  if !c.sluiced e then c
  else
    let c := c.setFlag (A.HE_SLUICE e) F.HE_SLUICE_STATE false
    let c := { c with pwr := { c.pwr with storms := mset [] c.pwr.storms (Storm.timeouts e) [] } }
    let c := c.setEp e { c.ep e with releases := ((c.ep e).releases + 1) % 65536 }
    let c := c.journal now { JEvent.base with event := 7, level := 0, island := 20 + e, detail := e }
    ((c.msix now e 9).retryAll now).pump now

/-- SLUICE_RELEASE of endpoint `e` (R340). -/
def Chip.sluiceRelease (c : Chip) (now e : Nat) : Status × Chip :=
  if !c.sluiced e then (Code.OK, c)
  else if !c.epUp e || (c.twin && !c.epUp (1 - e)) || c.mode == Mode.quarantine then (Code.SLUICE_HELD, c)
  else
    let c := c.sluiceLift now e
    (Code.OK, if c.twin then c.sluiceLift now (1 - e) else c)

/-- What a clear of Bus Master Enable of function `f` does (R341, R381): queued writes dropped, completions discarded (that of a flush, which
brings no data, still lets the writes that wait for it go), the jobs affected
end with MASTER_OFF, and so do the queue pairs whose descriptors were being fetched. -/
def Chip.masterOff (c : Chip) (now e f : Nat) : Chip :=
  let c := c.dropOrdered fun t => t.ep == e && t.fn == f
  let fetching := (c.reqsOf e).filterMap fun p => match p.2.use with
    | .desc n _ _ _ _ => if p.2.fn = f ∧ p.2.dead = false then some n else none
    | _ => none
  let c := (c.reqsOf e).foldl (fun (c : Chip) p =>
    if p.2.fn = f ∧ p.2.use ≠ .flush then c.setHreq e p.1 (some { p.2 with dead := true }) else c) c
  let mine (n : Nat) : Bool := (c.sliceFn (c.qpSlice n)).1 == f
  let c := (c.failJobs now Code.MASTER_OFF fun j => mine j.qp && c.uses e j.ep).haltQps now Code.MASTER_OFF fun n => memNat n fetching
  let c := if f = 0 then (c.haltQps now Code.MASTER_OFF fun n => c.qpSlice n == 0 && c.uses e (c.qpHome n)).endFetches e else c
  c.goOrdered now

/-- Bus Master Enable of function `f` goes from 1 to 0. -/
def Chip.bmeClear (c : Chip) (now e f : Nat) : Chip :=
  let x := c.fn e f
  if x.bme then (c.setFn e f (x.wr 0x04 (x.rd 0x04 &&& ~~~4))).masterOff now e f else c

/-- Bus Master Enable of function `f` is set (R341). -/
def Chip.bmeSet (c : Chip) (now e f : Nat) : Chip :=
  if !c.epUp e then c else ((c.setFn e f ((c.fn e f).raise 0x04 2)).retryAll now).pump now

/-- Function `f` moves between D0 and D3hot (R325). -/
def Chip.powerState (c : Chip) (now e f : Nat) (d3 : Bool) : Chip :=
  let x := c.fn e f
  if x.d3 = d3 then c
  else
    let c := c.setFn e f (x.wr 0x44 (if d3 then 3 else 0))
    if d3 then (if x.bme then c.masterOff now e f else c) else (c.retryAll now).pump now

/-- What a reset of function 0 does beyond the rest (R342): the mailbox is emptied, the command queues are disabled. -/
def Chip.mboxReset (c : Chip) (e : Nat) : Chip :=
  let x := c.ep e
  c.setEp e { x with mbox := [], mboxBad := [], mboxLen := 0, mboxBusy := false, mboxDone := false, mboxRes := 0, mboxGen := x.mboxGen + 1, cmdq := [] }

/-- A function-level reset of function `f` of endpoint `e` (R342, R381): a flush whose tag it quarantines is made again. -/
def Chip.flr (c : Chip) (now e f : Nat) : Chip :=
  let c := c.masterOff now e f
  let c := (c.reqsOf e).foldl (fun (c : Chip) p =>
    if p.2.fn = f then
      let c := c.setHreq e p.1 (some { p.2 with quar := true, dead := true })
      if p.2.use = .flush then c.flushLost e p.1 else c
    else c) c
  let c := c.setFn e f FnSt.init
  if f = 0 then
    (List.range 8).foldl (fun c k => c.setFlag (A.HE_CMDQ e k) F.HE_CMDQ_ENABLE false) (c.mboxReset e)
  else c.haltQps now Code.MASTER_OFF fun n => c.uses e (c.qpHome n)

/-- A hot reset (R321): a function-level reset of both functions; the link leaves L0 without a Sluice. -/
def Chip.hotReset (c : Chip) (now e : Nat) : Chip :=
  if c.epUp e then ((c.flr now e 0).flr now e 1).epDown now e else c

/-- PERST_x_N goes low (R460): link, configuration space, tags, MSI-X table, mailbox and command queue state. -/
def Chip.fundamental (c : Chip) (now e : Nat) : Chip :=
  let c := ((c.masterOff now e 0).masterOff now e 1).epDown now e
  let c := (c.reqsOf e).foldl (fun (c : Chip) p => (c.setHreq e p.1 none).flushLost e p.1) c
  let c := c.mboxReset e
  let x := c.ep e
  let c := c.setEp e { x with fns := [], last := HostEp.init.last, table := [], pend := 0, dirty := false,
                              barLog2 := c.get (A.HE_CTRL e) F.HE_CTRL_PEER_BAR_LOG2 }
  let c := (List.range 8).foldl (fun c k => (c.set (A.HE_CMDQ e k) F.HE_CMDQ_HEAD 0).set (A.HE_CMDQ e k) F.HE_CMDQ_TAIL 0) c
  ({ c with pwr := { c.pwr with perst := mset false c.pwr.perst e true } }).goOrdered now

/-- PERST_x_N rises. -/
def Chip.perstRise (c : Chip) (e : Nat) : Chip := { c with pwr := { c.pwr with perst := mset false c.pwr.perst e false } }

/-- A surprise link-down (R321, R338). -/
def Chip.surpriseDown (c : Chip) (now e : Nat) : Chip := if c.epUp e then (c.epDown now e).sluice now e 3 else c

/-- A Malformed TLP (R338). -/
def Chip.malformed (c : Chip) (now e f : Nat) : Chip :=
  if c.epUp e && c.open1 (20 + e) then ((c.aerLog e f Aer.malformed false).inc (A.HE_MALFORMED e)).sluice now e 2 else c

/-- An uncorrectable internal error on the path of endpoint `e` (R338, R345). -/
def Chip.pathError (c : Chip) (now e : Nat) : Chip :=
  if c.open1 (20 + e) then ((c.raise now Flt.HE_PATH_UE (20 + e) 63 0 0).aerLog e 0 Aer.internal false).sluice now e 1 else c

/-- What a write of HE_x_CTRL does to the link (R321): with ENABLE = 0 it leaves L0, which is a surprise link-down. -/
def Chip.epCtrl (c : Chip) (now e : Nat) : Chip :=
  if c.flag (A.HE_CTRL e) F.HE_CTRL_ENABLE then c else c.surpriseDown now e

/-- The checks of a write of HE_TOPOLOGY.MODE (R334). -/
def Chip.topologyCheck (c : Chip) (twin : Bool) : Status :=
  if c.mode ≠ Mode.provision || ((c.de.qps.map (·.1)).any fun n => c.qpState n != 0) then Code.TOPOLOGY_BUSY
  else if twin && !(c.flag (A.HE_CTRL 0) F.HE_CTRL_ENABLE && c.flag (A.HE_CTRL 1) F.HE_CTRL_ENABLE) then Code.TOPOLOGY_BUSY
  else Code.OK

/-! ### Slices (R347-R349) -/

/-- The addresses of [lo, hi) whose offset from `lo` is `off` modulo `step` and that hold a stored value, as indices. -/
def Chip.stored (c : Chip) (lo hi step off : Nat) : List Nat :=
  c.regs.filterMap fun p => if lo ≤ p.1 ∧ p.1 < hi ∧ (p.1 - lo) % step = off then some ((p.1 - lo) / step) else none

/-- BIND (R348). -/
def Chip.bindSlice (c : Chip) (now s e pasid : Nat) : Status × Chip :=
  if s = 0 ∨ 8192 ≤ s ∨ 2 ≤ e ∨ 2 ^ 20 ≤ pasid then (Code.BAD_ARGUMENT, c)
  else if c.flag (A.SM_SLICE s) F.SM_SLICE_BOUND then (Code.BOUND, c)
  else
    let same (k : Nat) : Bool :=
      c.flag (A.SM_SLICE k) F.SM_SLICE_BOUND && c.get (A.SM_SLICE k) F.SM_SLICE_PASID == pasid
        && (c.twin || c.get (A.SM_SLICE k) F.SM_SLICE_ENDPOINT == e)
    if (c.stored (A.SM_SLICE 0) (A.SM_SLICE 8192) 32 0).any same then (Code.PASID_BUSY, c)
    else
      let c := ((c.setFlag (A.SM_SLICE s) F.SM_SLICE_BOUND true).set (A.SM_SLICE s) F.SM_SLICE_ENDPOINT e).set (A.SM_SLICE s)
        F.SM_SLICE_PASID pasid
      let c := c.journal now { JEvent.base with event := 9, level := 1, island := 23, slice := s, detail := s,
                                                a0 := BitVec.ofNat 64 pasid, a1 := 1 }
      (Code.OK, c.msgRetry now)

/-- UNBIND (R349). -/
def Chip.unbindSlice (c : Chip) (now s : Nat) : Status × Chip :=
  if !c.flag (A.SM_SLICE s) F.SM_SLICE_BOUND then (Code.UNBOUND, c)
  else
    let qps := (c.de.qps.map (·.1)).any fun n => c.qpState n != 0 && c.qpSlice n == s
    let conns := (c.stored (A.ST_CONN 0) (A.ST_CONN 65536) 32 0).any fun n =>
      c.flag (A.ST_CONN n) F.ST_CONN_VALID && c.get (A.ST_CONN n) F.ST_CONN_OWNER == s
    let wins := [0, 1].any fun e => (c.stored (A.HE_PEER_WIN e 0 0) (A.HE_PEER_WIN e 2 0) 32 0).any fun i =>
      c.get (A.HE_PEER_WIN e 0 i) F.HE_PEER_WIN_KIND == 3 && c.get (A.HE_PEER_WIN e 0 i) F.HE_PEER_WIN_SLICE == s
    if qps || conns || wins then (Code.SLICE_BUSY, c)
    else
      let pasid := c.get (A.SM_SLICE s) F.SM_SLICE_PASID
      let c := c.wr (A.SM_SLICE s) 0
      let c := c.journal now { JEvent.base with event := 9, level := 1, island := 23, slice := s, detail := s, a0 := BitVec.ofNat 64 pasid }
      (Code.OK, (List.range 8).foldl (fun c k => c.setFlag (A.SM_MSG s k) F.SM_MSG_PENDING false) c)

/-! ### Live resizing (R352-R354) -/

/-- A field of SM_RESIZE(r). -/
def Chip.rsz (c : Chip) (r : Nat) (f : Fld) : Nat := c.get (A.SM_RESIZE r) f

/-- The three usages of a slice and where each stands in words 1 and 3: queue pairs, bobbins, connections. -/
def usageFields : List (Nat × Fld × Fld) :=
  [(0, F.SM_SLICE_QP_USED, F.SM_RESIZE_REL_QP), (17, F.SM_SLICE_BOBBIN_USED, F.SM_RESIZE_REL_BOBBIN),
   (33, F.SM_SLICE_ST_USED, F.SM_RESIZE_REL_ST)]

/-- The record RESIZE_SLICE takes: the lowest FREE one, else the one that finished earliest (R352). -/
def Chip.resizeTake (c : Chip) : Option Nat :=
  match firstBelow (fun r => c.rsz r F.SM_RESIZE_STATE == 0) 1024 with
  | some r => some r
  | none => leastBy (fun r => mget 0 c.de.resDone r) ((List.range 1024).filter fun r => decide (3 ≤ c.rsz r F.SM_RESIZE_STATE))

/-- Fills in record `r`, PENDING. -/
def Chip.resizeFill (c : Chip) (r s mask : Nat) (quotas rate : Word) : Chip :=
  let a := A.SM_RESIZE r
  (((c.wr a (BitVec.ofNat 64 (s % 8192 + mask % 16 * 2 ^ 13 + 2 ^ 17))).wr (a + 8) quotas).wr (a + 16) rate).wr (a + 24) 0

/-- Record `r` ends in a state with a result, and is journaled. -/
def Chip.resizeEnd (c : Chip) (now r st result : Nat) : Chip :=
  let c := (c.set (A.SM_RESIZE r) F.SM_RESIZE_STATE st).set (A.SM_RESIZE r) F.SM_RESIZE_RESULT result
  let c := c.wr (A.SM_RESIZE r + 24) 0
  let c := { c with de := { c.de with resSeq := c.de.resSeq + 1, resDone := mset 0 c.de.resDone r (c.de.resSeq + 1) } }
  c.journal now { JEvent.base with event := 0xB, level := 1, island := 23, slice := c.rsz r F.SM_RESIZE_SLICE, detail := r, a0 := 3,
                                   a1 := BitVec.ofNat 64 result, result := result }

/-- The values record `r` gives words 1 and 2 of its slice where they stood at `w1` and `w2` (R353). -/
def Chip.resizeWords (c : Chip) (r : Nat) (w1 w2 : Word) : Word × Word :=
  let mask := c.rsz r F.SM_RESIZE_MASK
  let q := c.rd (A.SM_RESIZE r + 8)
  let bit (k : Nat) : Bool := natBits mask k 1 == 1
  let w1 := if bit 0 then setBits w1 0 17 (getBits q 0 17) else w1
  let w1 := if bit 1 then setBits w1 17 16 (getBits q 17 16) else w1
  let w1 := if bit 2 then setBits w1 33 16 (getBits q 33 16) else w1
  (w1, if bit 3 then setBits w2 0 20 (getBits (c.rd (A.SM_RESIZE r + 16)) 0 20) else w2)

/-- The bits of words 1 and 2 of its slice that record `r` sets. -/
def Chip.resizeMask (c : Chip) (r : Nat) : Word × Word :=
  let mask := c.rsz r F.SM_RESIZE_MASK
  let part (k lo n : Nat) (w : Word) : Word := if natBits mask k 1 = 1 then setBits w lo n (2 ^ n - 1) else w
  (part 2 33 16 (part 1 17 16 (part 0 0 17 0)), part 3 0 20 0)

/-- The excess of each usage of record `r` over its new quota, where `old` says the record drains already. -/
def Chip.resizeRel (c : Chip) (r : Nat) (old : Bool) : Chip :=
  let s := c.rsz r F.SM_RESIZE_SLICE
  let mask := c.rsz r F.SM_RESIZE_MASK
  (usageFields.zipIdx).foldl (fun (c : Chip) x =>
    let (lo, used, rel) := x.1
    let n := if natBits mask x.2 1 = 1 ∧ (!old || c.rsz r rel != 0) = true
      then c.get (A.SM_SLICE s) used - getBits (c.rd (A.SM_RESIZE r + 8)) lo (if lo = 0 then 17 else 16) else 0
    c.set (A.SM_RESIZE r) rel n) c

/-- Whether record `r` still releases something. -/
def Chip.releasing (c : Chip) (r : Nat) : Bool := usageFields.any fun x => c.rsz r x.2.2 != 0

/-- The entry of record `r` has ended DONE: its outcome, and that of an earlier record of its slice (R353, R354). -/
def Chip.resizeDone (c : Chip) (now r : Nat) : Chip :=
  let s := c.rsz r F.SM_RESIZE_SLICE
  let earlier := (List.range 1024).filter fun k => k != r && c.rsz k F.SM_RESIZE_STATE == 2 && c.rsz k F.SM_RESIZE_SLICE == s
  let c := earlier.foldl (fun c k => c.resizeEnd now k 3 Code.OK) c
  let c := c.resizeRel r false
  if c.releasing r then c.set (A.SM_RESIZE r) F.SM_RESIZE_STATE 2 else c.resizeEnd now r 3 Code.OK

/-- A usage of slice `s` has fallen (R353). -/
def Chip.usageFell (c : Chip) (now s : Nat) : Chip :=
  match firstBelow (fun r => c.rsz r F.SM_RESIZE_STATE == 2 && c.rsz r F.SM_RESIZE_SLICE == s) 1024 with
  | none => c
  | some r =>
    let c := c.resizeRel r true
    if c.releasing r then c else c.resizeEnd now r 3 Code.OK

/-- Whether a draining record of slice `s` still releases the resource of field `rel`. -/
def Chip.drains (c : Chip) (s : Nat) (rel : Fld) : Bool :=
  (List.range 1024).any fun r => c.rsz r F.SM_RESIZE_STATE == 2 && c.rsz r F.SM_RESIZE_SLICE == s && c.rsz r rel != 0

end Sys2Proof.Machine
end

