-- ==== Sys2Proof/Machine/BobbinOps.lean ====
section
/-! DEFINITION. The services of the Bobbin Pool Manager and its pools (spec/08_bobbins.md): ALLOC, SHARE, RELEASE, WRITE, POOL. -/

namespace Sys2Proof.Machine

/-- The reply of the Bobbin Pool Manager (Table 4-5). -/
def bpReply (r : EngReq) (st : Status) (flags value : Nat) : List Word := [replyWord st flags r.chan value]

/-- Whether the reserved bits of word 0 above its fields are 0, and the request has `n` words (R239). -/
def bpForm (r : EngReq) (n width : Nat) : Bool := r.words.length == n && getBits (nth 0 r.words 0) width (64 - width) == 0

/-- The source port and PRIO_IN an ALLOC bobbin is charged to: those of its packet (R238). -/
def Chip.chargeOf (c : Chip) (r : EngReq) : Nat × Nat :=
  match r.pk.bind c.pkt with
  | some p => if p.src < 16 then (p.src, p.prioIn) else (31, 0)
  | none => (31, 0)

/-- Whether one more ALLOC bobbin exceeds the quota of the requester's slice (R232, R351, R353). -/
def Chip.overQuota (c : Chip) (now : Nat) (r : EngReq) : Bool :=
  let s := if r.pk.isSome then r.istamp else c.mrNow now
  r.slice != 0 && (decide (getBits (c.rdAt s (A.SM_SLICE r.slice + 8)) 17 16 < c.get (A.SM_SLICE r.slice) F.SM_SLICE_BOBBIN_USED + 1)
    || c.drains r.slice F.SM_RESIZE_REL_BOBBIN)

/-- ALLOC (R231, R232). -/
def Chip.bpAlloc (c : Chip) (now : Nat) (r : EngReq) : List Word × Chip :=
  let n := getBits (nth 0 r.words 0) 0 15
  if !bpForm r 1 15 || n = 0 || c.largest < n then (bpReply r Code.BAD_ARGUMENT 0 0, c)
  else if c.overQuota now r then (bpReply r Code.QUOTA 0 0, c)
  else if 4 ≤ c.allocsOf r.key then (bpReply r Code.ALLOC_LIMIT 0 0, c)
  else
    let (port, prio) := c.chargeOf r
    match c.alloc now n ⟨false, r.slice, false, false, port, prio, r.key, r.slice⟩ with
    | (none, c) => (bpReply r Code.EMPTY 0 0, c)
    | (some (id, fell), c) =>
      let a := A.SM_SLICE r.slice
      let c := if r.slice = 0 then c else c.set a F.SM_SLICE_BOBBIN_USED (c.get a F.SM_SLICE_BOBBIN_USED + 1)
      (bpReply r Code.OK (if fell then 1 else 0) id, c)

/-- SHARE (R235). -/
def Chip.bpShare (c : Chip) (now : Nat) (r : EngReq) : List Word × Chip :=
  let w := nth 0 r.words 0
  if !bpForm r 1 37 then (bpReply r Code.BAD_ARGUMENT 0 0, c)
  else
    let (st, sys, ref, c) := c.share now (getBits w 0 24) (getBits w 24 13) r.agent
    (bpReply r st (if sys then 2 else 0) (if st = Code.OK then ref else 0), c)

/-- RELEASE (R234). -/
def Chip.bpRelease (c : Chip) (now : Nat) (r : EngReq) : List Word × Chip :=
  if !bpForm r 1 24 then (bpReply r Code.BAD_ARGUMENT 0 0, c)
  else
    let (st, freed, ref, c) := c.release now (getBits (nth 0 r.words 0) 0 24) r.agent
    (bpReply r st (if freed then 4 else 0) (if st = Code.OK then ref else 0), c)

/-- The data bytes of a WRITE: byte k stands high in its word first (R240). -/
def writeBytes (ws : List Word) (n : Nat) : List Byte :=
  (List.range n).map fun k => BitVec.ofNat 8 (getBits (nth 0 ws (1 + k / 8)) (56 - 8 * (k % 8)) 8)

/-- WRITE (R240). -/
def Chip.bpWrite (c : Chip) (now : Nat) (r : EngReq) : List Word × Chip :=
  let w := nth 0 r.words 0
  let id := getBits w 0 24
  let off := getBits w 24 14
  let n := getBits w 38 6
  let no (st : Status) (c : Chip) : List Word × Chip := (bpReply r st 0 0, c)
  if !bpForm r (1 + (n + 7) / 8) 44 || n = 0 || 56 < n || (c.bobNamed id && decide (c.bobSize id < off + n)) then no Code.BAD_ARGUMENT c
  else
    let (st, c) := c.bobCheck now id r.agent false
    if st ≠ Code.OK then no st c
    else if !c.boundTo_ r true id then no Code.NOT_BOUND c
    else
      let (ok, c) := c.bobStore now (c.bobBase id + off) (writeBytes r.words n) r.slice
      no (if ok then Code.OK else Code.POISONED) c

/-! ### Pools (R223, R224) -/

/-- Whether two ranges overlap. -/
def overlap (a n b m : Nat) : Bool := decide (a < b + m) && decide (b < a + n)

/-- Whether the enabled pools keep R223. -/
def Chip.poolsOk (c : Chip) : Bool :=
  let on := (List.range 8).filter fun p => c.pool p F.BP_POOL_ENABLE == 1
  let size (p : Nat) : Nat := c.pool p F.BP_POOL_SIZE
  let count (p : Nat) : Nat := c.pool p F.BP_POOL_COUNT
  let base (p : Nat) : Nat := c.pool p F.BP_POOL_BASE
  let slot (p : Nat) : Nat := c.pool p F.BP_POOL_META_BASE
  !on.isEmpty
    && on.all (fun p => decide (1 ≤ size p) && decide (size p ≤ 64) && decide (1 ≤ count p)
        && decide (base p + size p * count p ≤ 393216) && decide (slot p + count p ≤ 40960))
    && on.all (fun p => on.all fun q => decide (q ≤ p) || (decide (size p < size q)
        && !overlap (base p) (size p * count p) (base q) (size q * count q) && !overlap (slot p) (count p) (slot q) (count q)))
    && (List.range 16).all fun p => decide (c.maxFrame p ≤ c.largest)

/-- The checks of a PUT of BP_POOL(p) that leaves `c`, with words 0 and 1 `o0` and `o1` before it (R223, R224). -/
def Chip.poolCheck (c : Chip) (p : Nat) (o0 o1 : Word) : Status :=
  let was := getBits o0 7 1 == 1
  let on := c.pool p F.BP_POOL_ENABLE == 1
  let changed := getBits o0 0 7 != c.pool p F.BP_POOL_SIZE || getBits o0 32 16 != c.pool p F.BP_POOL_COUNT
    || getBits o1 0 19 != c.pool p F.BP_POOL_BASE || getBits o1 32 16 != c.pool p F.BP_POOL_META_BASE
  let used := c.pool p F.BP_POOL_HELD != 0 || c.pool p F.BP_POOL_RESERVED != 0
  if !c.poolsOk then Code.BAD_ARGUMENT
  else if (changed && ((was && on) || used)) || (was && !on && used) then Code.POOL_BUSY
  else Code.OK

/-- What an accepted PUT of BP_POOL(p) does: a pool that comes to be enabled has every bobbin FREE and its metadata empty. -/
def Chip.poolPut (c : Chip) (p : Nat) (was : Bool) : Chip :=
  if was || c.pool p F.BP_POOL_ENABLE != 1 then c
  else
    let n := c.pool p F.BP_POOL_COUNT
    let m := c.pool p F.BP_POOL_META_BASE
    let c := c.wr (A.BP_POOL p + 16) (BitVec.ofNat 64 n)
    let c := { c with regs := mclear (mclear c.regs (A.BP_STATE m) (A.BP_STATE (m + n))) (A.BP_META m 0) (A.BP_META (m + n) 0),
                      bind := mclear c.bind m (m + n), bobSlice := mclear c.bobSlice m (m + n) }
    let q := mclear c.mem.stitchS (2 ^ 24 + 2 * m) (2 ^ 24 + 2 * (m + n))
    let q := mclear q (2 ^ 24 + 81920 + (m + 3) / 4) (2 ^ 24 + 81920 + (m + n) / 4)
    ({ c with mem := { c.mem with stitchS := mclear q (2 ^ 24 + 92160 + (m + 15) / 16) (2 ^ 24 + 92160 + (m + n) / 16) } }).feedQueues p

/-- The exec-level form of a service row: the oldest request of a channel is served. -/
def Chip.serveBp (c : Chip) (ch : Nat) (run : Chip → EngReq → List Word × Chip) : Chip := c.serve ch fun r c => run c r

end Sys2Proof.Machine
end

