-- ==== Sys2Proof/Machine/TableOps.lean ====
section
/-! DEFINITION. The Table Engines (spec/07_tables.md): exact-match lookups through the flow cache, buckets and the overflow store,
insertion with relocation and eviction, aging, enable scans, longest-prefix match and the counter store. -/

namespace Sys2Proof.Machine

/-! ### Access -/

/-- Engine `e` (0 West, 1 East). -/
def Chip.eng (c : Chip) (e : Nat) : TeSt := mget TeSt.init c.te e

/-- Replaces engine `e`. -/
def Chip.setEng (c : Chip) (e : Nat) (x : TeSt) : Chip := { c with te := mset TeSt.init c.te e x }

/-- A field of TE_x_EMT(t). -/
def Chip.emt (c : Chip) (e t : Nat) (f : Fld) : Nat := c.get (A.TE_EMT e t) f

/-- Whether table `t` is enabled. -/
def Chip.emtOn (c : Chip) (e t : Nat) : Bool := c.emt e t F.TE_EMT_ENABLE == 1

/-- A completed write advances the write generation of a table (R215); LPM table l stands at 16 + l. -/
def Chip.nextGen (c : Chip) (e t : Nat) : Chip :=
  let x := c.eng e
  c.setEng e { x with gens := mset 0 x.gens t (mget 0 x.gens t + 1) }

/-- Adds to a field of TE_x_EMT_STAT(t). -/
def Chip.emtCount (c : Chip) (e t : Nat) (f : Fld) (up : Bool) : Chip :=
  let a := A.TE_EMT_STAT e t
  c.set a f (if up then c.get a f + 1 else c.get a f - 1)

/-- Replaces bits [lo + n - 1 : lo] of a number. -/
def setNatBits (v lo n x : Nat) : Nat := v - natBits v lo n * 2 ^ lo + x % 2 ^ n * 2 ^ lo

/-- Slot `k` of a bucket word (Table 7-2). -/
def slotOf (b k : Nat) : Nat := natBits b (48 * k) 48

/-- The fields of a slot. -/
def slotSig (s : Nat) : Nat := natBits s 0 16
def slotRec (s : Nat) : Nat := natBits s 16 24
def slotValid (s : Nat) : Bool := natBits s 40 1 == 1
def slotHit (s : Nat) : Bool := natBits s 41 1 == 1
def slotStale (s : Nat) : Bool := natBits s 42 1 == 1
def slotStatic (s : Nat) : Bool := natBits s 43 1 == 1
def slotAlt (s : Nat) : Nat := natBits s 44 1

/-- SEQ(k) of a bucket word. -/
def slotSeq (b k : Nat) : Nat := natBits b (192 + 12 * k) 12

/-- A bucket word with slot `k` and its SEQ replaced. -/
def putSlot (b k s q : Nat) : Nat := setNatBits (setNatBits b (48 * k) 48 s) (192 + 12 * k) 12 q

/-- A slot word from its fields. -/
def mkSlot (sig rec_ : Nat) (static : Bool) (alt : Nat) : Nat :=
  sig + rec_ * 2 ^ 16 + 2 ^ 40 + (if static then 2 ^ 43 else 0) + alt * 2 ^ 44

/-- The lowest free slot of a bucket word. -/
def freeSlot (b : Nat) : Option Nat := firstBelow (fun k => !slotValid (slotOf b k)) 4

/-- How many slots of a bucket word are free. -/
def freeSlots (b : Nat) : Nat := ((List.range 4).filter fun k => !slotValid (slotOf b k)).length

/-- The bucket word `i` and the record word `r` of table `t` as words of the engine (Table 7-1). -/
def Chip.bucketAt (c : Chip) (e t i : Nat) : Nat := c.emt e t F.TE_EMT_BUCKET_BASE + i
def Chip.recordAt (c : Chip) (e t r : Nat) : Nat := c.emt e t F.TE_EMT_RECORD_BASE + r

/-- Whether the channel of a word serves requests (R191). -/
def Chip.teReady (c : Chip) (e w : Nat) : Bool := c.qReady (qdrChannel e w)

/-- Reads a word of the engine, counted (R220): OK, ABSENT or POISONED, and its content. -/
def Chip.teRead (c : Chip) (now e w slice : Nat) : Status × Nat × Chip :=
  match c.readQdr now e w slice with
  | (.absent, c) => (Code.ABSENT, 0, c)
  | (.poisoned, c) => (Code.POISONED, 0, c.inc (A.TE_QDR_WORDS e))
  | (.ok bs, c) => (Code.OK, leNat bs, c.inc (A.TE_QDR_WORDS e))

/-- Writes a word of the engine, counted. -/
def Chip.teWrite (c : Chip) (e w v : Nat) : Chip := (c.writeQdr e w (leBytes 32 v)).inc (A.TE_QDR_WORDS e)

/-- Reads a bucket word: its poison raises TE_BUCKET_POISON (Table 7-10). -/
def Chip.teBucket (c : Chip) (now e t i slice : Nat) : Status × Nat × Chip :=
  let (st, v, c) := c.teRead now e (c.bucketAt e t i) slice
  (st, v, if st = Code.POISONED then c.raise now Flt.TE_BUCKET_POISON 22 63 slice 0 else c)

/-- Reads a record word: its poison raises TE_RECORD_POISON (Table 7-10). -/
def Chip.teRecord (c : Chip) (now e t r slice : Nat) : Status × Nat × Chip :=
  let (st, v, c) := c.teRead now e (c.recordAt e t r) slice
  (st, v, if st = Code.POISONED then c.raise now Flt.TE_RECORD_POISON 22 63 slice 0 else c)

/-- The key of a record word. -/
def recKey (v : Nat) : Nat := v % 2 ^ 192

/-- The data of a record word. -/
def recData (v : Nat) : Word := BitVec.ofNat 64 (v / 2 ^ 192)

/-! ### Keys (R192, R193) -/

/-- The key bytes of a request; `slice` is none for an operator op. -/
def Chip.teKey (c : Chip) (e t : Nat) (ws : List Word) (slice : Option Nat) : List Byte :=
  let n := c.emt e t F.TE_EMT_KEY_BYTES
  let bs := (ofWords ws).take n
  let bs := bs ++ List.replicate (24 - bs.length) 0
  match slice with
  | some s => if c.emt e t F.TE_EMT_SLICE_KEY = 1 then bs.take 22 ++ leBytes 2 s else bs
  | none => bs

/-- Bucket A, bucket B and the signature of a key. -/
def teHash (seed log2 : Nat) (key : List Byte) : Nat × Nat × Nat :=
  let ha := crcBytes seed key
  let hb := crcBytes (seed ^^^ 0xFFFFFFFF) key
  (ha % 2 ^ log2, hb % 2 ^ log2, (ha / 2 ^ 16) ^^^ (hb % 2 ^ 16))

/-- The hash of a key in table `t`. -/
def Chip.teHashOf (c : Chip) (e t : Nat) (key : List Byte) : Nat × Nat × Nat :=
  teHash (c.emt e t F.TE_EMT_SEED) (c.emt e t F.TE_EMT_BUCKET_LOG2) key

/-! ### Flow cache (R202, R203) -/

/-- The set of a signature in table `t`. -/
def fcSet (t sig : Nat) : Nat := (sig ^^^ (t * 4096)) % 49152

/-- The lines of a set, most recently used first. -/
def Chip.fcLines (c : Chip) (e s : Nat) : List FcLine := mget [] (c.eng e).fc s

/-- Replaces the lines of a set. -/
def Chip.setFc (c : Chip) (e s : Nat) (ls : List FcLine) : Chip := c.setEng e { c.eng e with fc := mset [] (c.eng e).fc s ls }

/-- Whether a line names a slot of table `t`. -/
def FcLine.names (l : FcLine) (t bucket slot : Nat) : Bool := l.table == t && l.bucket == bucket && l.slot == slot

/-- Rewrites or drops the line of a slot. -/
def Chip.fcChange (c : Chip) (e t sig bucket slot : Nat) (f : FcLine → Option FcLine) : Chip :=
  let s := fcSet t sig
  c.setFc e s ((c.fcLines e s).filterMap fun l => if l.names t bucket slot then f l else some l)

/-- HIT is written into the slot a line names: one read and one write (R202); a slot on a channel out of service keeps what it has. -/
def Chip.hitBack (c : Chip) (now e : Nat) (l : FcLine) : Chip :=
  let (st, b, c) := c.teBucket now e l.table l.bucket 0
  if st ≠ Code.OK then c
  else
    let s := slotOf b l.slot
    if slotValid s && slotRec s == l.record then
      c.teWrite e (c.bucketAt e l.table l.bucket) (setNatBits b (48 * l.slot + 41) 1 1)
    else c

/-- A line leaves the cache: HIT goes back to its slot where only the line holds it. -/
def Chip.fcLeave (c : Chip) (now e : Nat) (l : FcLine) : Chip := if l.hit && !l.slotHit then c.hitBack now e l else c

/-- Installs a line, the least recently used of a full set leaving. -/
def Chip.fcInstall (c : Chip) (now e sig : Nat) (l : FcLine) : Chip :=
  let s := fcSet l.table sig
  let ls := c.fcLines e s
  let c := match ls.drop 15 with
    | old :: _ => c.fcLeave now e old
    | [] => c
  let kept := ls.take 15
  let way := (firstBelow (fun w => !(kept.any fun k => k.way == w)) 16).getD 0
  (c.setSram (2 + e) (16 * s + way) 0).setFc e s ({ l with way := way } :: kept)

/-- Every line of a table is invalidated, HIT going back first (R203). -/
def Chip.fcFlush (c : Chip) (now e t : Nat) : Chip :=
  (c.eng e).fc.foldl (fun (c : Chip) p =>
    let c := (p.2.filter fun l => l.table == t).foldl (fun c l => c.fcLeave now e l) c
    c.setFc e p.1 ((c.fcLines e p.1).filter fun l => l.table != t)) c

/-- The line of a key, unless its word is poisoned: then it is dropped (Table 7-10). -/
def Chip.fcFind (c : Chip) (now e t sig key slice : Nat) : Option FcLine × Chip :=
  let s := fcSet t sig
  match (c.fcLines e s).find? fun l => l.table == t && l.key == key with
  | none => (none, c)
  | some l =>
    let (bad, c) := c.readSram now (2 + e) (16 * s + l.way) 0 slice
    if bad then
      (none, (c.setFc e s ((c.fcLines e s).filter fun x => x.way != l.way)).raise now Flt.TE_FC_POISON 22 63 slice 0)
    else (some l, c)

/-! ### Overflow store (R196) -/

/-- The overflow entries in use by table `t`, by rising index. -/
def Chip.ovfOf (c : Chip) (e t : Nat) : List Nat :=
  (c.regs.filterMap fun p =>
    if A.TE_OVF e 0 ≤ p.1 ∧ p.1 < A.TE_OVF e 16384 ∧ (p.1 - A.TE_OVF e 0) % 64 = 32 ∧ getBits p.2 4 1 = 1 ∧ getBits p.2 0 4 = t
    then some ((p.1 - A.TE_OVF e 0) / 64) else none)

/-- The key of an overflow entry. -/
def Chip.ovfKey (c : Chip) (e i : Nat) : Nat :=
  let a := A.TE_OVF e i
  (c.rd a).toNat + (c.rd (a + 8)).toNat * 2 ^ 64 + (c.rd (a + 16)).toNat * 2 ^ 128

/-- Whether an overflow entry of table `t` is poisoned; the first finding raises TE_OVF_POISON (Table 7-10). -/
def Chip.ovfPoisoned (c : Chip) (now e t slice : Nat) : Bool × Chip :=
  if mget false (c.eng e).ovfBad t then (true, c)
  else
    let (bad, c) := (c.ovfOf e t).foldl (fun (r : Bool × Chip) i =>
      let (p, c) := r.2.readSram now (4 + e) i 0 slice
      (r.1 || p, c)) (false, c)
    if bad then
      (true, (c.setEng e { c.eng e with ovfBad := mset false (c.eng e).ovfBad t true }).raise now Flt.TE_OVF_POISON 22 63 slice 0)
    else (false, c)

/-- Removes an overflow entry. -/
def Chip.ovfFree (c : Chip) (e t i : Nat) : Chip :=
  ((List.range 5).foldl (fun c k => c.wr (A.TE_OVF e i + 8 * k) 0) c).emtCount e t F.TE_EMT_STAT_OVF_ENTRIES false

/-! ### Search (R194, R195) -/

/-- What a search finds: an entry in a slot with its bucket word, an entry of the overflow store, or a miss with the two bucket words. -/
inductive TeHit where
  | slot (bucket content k rec_ : Nat) (data : Word)
  | ovf (i : Nat)
  | miss (ca cb : Nat)
  deriving DecidableEq, Repr

/-- Looks through slots for a key; each slot is (bucket, its word, slot). -/
def Chip.teSlots (now e t key sig slice : Nat) : List (Nat × Nat × Nat) → Chip → Status × Option TeHit × Chip
  | [], c => (Code.OK, none, c)
  | (b, w, k) :: rest, c =>
    let s := slotOf w k
    if slotValid s && slotSig s == sig then
      let (st, v, c) := c.teRecord now e t (slotRec s) slice
      if st ≠ Code.OK then (st, none, c)
      else if recKey v = key then (Code.OK, some (.slot b w k (slotRec s) (recData v)), c)
      else Chip.teSlots now e t key sig slice rest c
    else Chip.teSlots now e t key sig slice rest c

/-- Searches both buckets of a key, then the overflow store, which the search reaches where no bucket holds the key (R195). -/
def Chip.teBuckets (c : Chip) (now e t key a b sig slice : Nat) : Status × TeHit × Chip :=
  let (st, ca, c) := c.teBucket now e t a slice
  if st ≠ Code.OK then (st, .miss 0 0, c)
  else
    let (st, cb, c) := if a = b then (Code.OK, ca, c) else c.teBucket now e t b slice
    if st ≠ Code.OK then (st, .miss 0 0, c)
    else
      let slots := (List.range 4).map (fun k => (a, ca, k)) ++ if a = b then [] else (List.range 4).map fun k => (b, cb, k)
      let (st, hit, c) := Chip.teSlots now e t key sig slice slots c
      if st ≠ Code.OK then (st, .miss ca cb, c)
      else
        match hit with
        | some h => (Code.OK, h, c)
        | none =>
          let (bad, c) := c.ovfPoisoned now e t slice
          (if bad then Code.POISONED else Code.OK, .miss ca cb, c)

/-- Finds a key (R195). It has at most one entry, so one that stands in the overflow store is found there at no QDR word (Table 7-11), and
with a channel out of service too (R191). -/
def Chip.teSearch (c : Chip) (now e t key a b sig slice : Nat) : Status × TeHit × Chip :=
  match (c.ovfOf e t).find? fun i => c.ovfKey e i == key with
  | some i =>
    let (bad, c) := c.ovfPoisoned now e t slice
    if bad then (Code.POISONED, .miss 0 0, c) else (Code.OK, .ovf i, c)
  | none => c.teBuckets now e t key a b sig slice

/-! ### Replies (R198) -/

/-- An answer of an exact-match or WRITE request: status, FLAGS, VALUE, word 1. -/
structure TeAns where
  st    : Status
  flags : Nat
  value : Nat
  data  : Word
  deriving DecidableEq, Repr

/-- A refusal or failure. -/
def TeAns.no (st : Status) : TeAns := ⟨st, 0, 0, 0⟩

/-- The FLAGS of Table 7-6. -/
def teFlag (fc ovf learned evicted replaced static : Bool) : Nat :=
  (if fc then 1 else 0) + (if ovf then 2 else 0) + (if learned then 4 else 0) + (if evicted then 8 else 0)
    + (if replaced then 16 else 0) + (if static then 32 else 0)

/-! ### Insertion (R206-R208) -/

/-- The record indices table `t` uses; those of a disabled table are what its valid slots name. -/
def Chip.usedRecs (c : Chip) (e t : Nat) : SMap Bool :=
  if c.emtOn e t then mget [] (c.eng e).used t
  else (List.range (2 ^ c.emt e t F.TE_EMT_BUCKET_LOG2)).foldl (fun m i =>
    let b := leNat (rdBytes c.mem.qdr (qdrByte e (c.bucketAt e t i)) 32)
    (List.range 4).foldl (fun m k => if slotValid (slotOf b k) then mset false m (slotRec (slotOf b k)) true else m) m) []

/-- The lowest index from `k` up that a rising list does not hold. -/
def firstGap : Nat → SMap Bool → Nat
  | k, [] => k
  | k, (i, _) :: m => if i = k then firstGap (k + 1) m else if i < k then firstGap k m else k

/-- The lowest free record of table `t`. -/
def Chip.freeRec (c : Chip) (e t : Nat) : Option Nat :=
  let r := firstGap 0 (c.usedRecs e t)
  if r < c.emt e t F.TE_EMT_RECORD_COUNT then some r else none

/-- Marks a record used or free. -/
def Chip.markRec (c : Chip) (e t r : Nat) (b : Bool) : Chip :=
  let x := c.eng e
  c.setEng e { x with used := mset [] x.used t (mset false (mget [] x.used t) r b) }

/-- One occupant to be moved: its bucket, that bucket's word, its slot. -/
structure TeStep where
  bucket : Nat
  word   : Nat
  slot   : Nat
  deriving DecidableEq, Repr

/-- The movable occupants of a bucket, in slot order. -/
def movable (b w : Nat) : List TeStep :=
  (List.range 4).filterMap fun k => if slotValid (slotOf w k) && !slotStatic (slotOf w k) then some ⟨b, w, k⟩ else none

/-- What a level of the search for a chain has found: a failure; a chain with its free slot; or the chains of the next level, the
buckets seen, and the occupants still allowed. -/
inductive TeChain where
  | failed (st : Status)
  | found (path : List TeStep) (bucket word slot : Nat)
  | deeper (paths : List (List TeStep)) (seen : List Nat) (left : Nat)
  deriving DecidableEq, Repr

/-- Examines the last occupants of the chains of one level, in order (R206 step 2). -/
def Chip.teLevel (now e t slice : Nat) : List (List TeStep) → List (List TeStep) → List Nat → Nat → Chip → TeChain × Chip
  | [], next, seen, left, c => (.deeper next seen left, c)
  | p :: ps, next, seen, left, c =>
    match p.getLast?, left with
    | some s, left + 1 =>
      let (st, v, c) := c.teRecord now e t (slotRec (slotOf s.word s.slot)) slice
      if st ≠ Code.OK then (.failed st, c)
      else
        let (a, b, _) := c.teHashOf e t (leBytes 24 (recKey v))
        let other := if slotAlt (slotOf s.word s.slot) = 0 then b else a
        let (st, w, c) := c.teBucket now e t other slice
        if st ≠ Code.OK then (.failed st, c)
        else if other = s.bucket ∨ memNat other seen = true then Chip.teLevel now e t slice ps next seen left c
        else
          match freeSlot w with
          | some k => (.found p other w k, c)
          | none => Chip.teLevel now e t slice ps (next ++ (movable other w).map fun m => p ++ [m]) (other :: seen) left c
    | _, _ => (.deeper [] seen 0, c)

/-- Searches level by level. -/
def Chip.teChains (now e t slice : Nat) : Nat → List (List TeStep) → List Nat → Nat → Chip → TeChain × Chip
  | 0, ps, seen, left, c => (.deeper ps seen left, c)
  | n + 1, ps, seen, left, c =>
    match Chip.teLevel now e t slice ps [] seen left c with
    | (.deeper next seen left, c) =>
      if next.isEmpty || left == 0 then (.deeper [] seen left, c) else Chip.teChains now e t slice n next seen left c
    | r => r

/-- Moves the entry of one slot into a free slot of another bucket word (R207): the destination is written, its line renamed. -/
def Chip.teMove (c : Chip) (e t : Nat) (s : TeStep) (bucket word slot : Nat) : Chip :=
  let x := slotOf s.word s.slot
  let c := c.teWrite e (c.bucketAt e t bucket) (putSlot word slot (setNatBits x 44 1 (1 - slotAlt x)) (slotSeq s.word s.slot))
  (c.fcChange e t (slotSig x) s.bucket s.slot fun l => some { l with bucket := bucket, slot := slot }).inc (A.TE_RELOC_MOVES e)

/-- Performs the moves of a chain from its free end backwards; `path` is given last occupant first. -/
def Chip.teMoves (e t : Nat) : List TeStep → Nat → Nat → Nat → Chip → Chip
  | [], _, _, _, c => c
  | s :: rest, bucket, word, slot, c => Chip.teMoves e t rest s.bucket s.word s.slot (c.teMove e t s bucket word slot)

/-- Takes the table's next insertion sequence number. -/
def Chip.teSeq (c : Chip) (e t : Nat) : Nat × Chip :=
  let a := A.TE_EMT_STAT e t
  let q := c.get a F.TE_EMT_STAT_SEQ
  (q, c.set a F.TE_EMT_STAT_SEQ ((q + 1) % 4096))

/-- An insertion of a key whose place is decided: record first, then the slot (R207), then counts, line and generation. -/
def Chip.tePlace (c : Chip) (now e t key sig : Nat) (data : Word) (static : Bool) (bucket word slot rec_ alt : Nat) : Chip :=
  let c := c.teWrite e (c.recordAt e t rec_) (key + data.toNat * 2 ^ 192)
  let (q, c) := c.teSeq e t
  let c := c.teWrite e (c.bucketAt e t bucket) (putSlot word slot (mkSlot sig rec_ static alt) q)
  let c := (c.markRec e t rec_ true).inc (A.TE_EMT_LEARNS e t)
  let c := if c.emt e t F.TE_EMT_FC_EN = 1 && c.emtOn e t then c.fcInstall now e sig
    ⟨t, key, data, bucket, slot, rec_, 0, static, false, false⟩ else c
  c.nextGen e t

/-- The occupant eviction chooses among (bucket, word, slot) triples (R208). -/
def Chip.teVictim (c : Chip) (e t : Nat) (occ : List TeStep) : Option TeStep × Chip :=
  if occ.isEmpty then (none, c)
  else if c.emt e t F.TE_EMT_EVICT = 0 then
    let (v, c) := c.fresh
    (occ[v % occ.length]?, c)
  else
    let seq := c.get (A.TE_EMT_STAT e t) F.TE_EMT_STAT_SEQ
    (leastBy (fun s => (slotSeq s.word s.slot + 4096 - 1 - seq) % 4096) occ, c)

/-- Steps 3 and 4 of R206: the overflow store, where a record was free, else an eviction. -/
def Chip.teOverflow (c : Chip) (now e t key a sig : Nat) (data : Word) (static rec_ : Bool) (occ : List TeStep) :
    TeAns × Chip :=
  let held := c.get (A.TE_EMT_STAT e t) F.TE_EMT_STAT_OVF_ENTRIES
  let free := firstBelow (fun i => !(c.flag (A.TE_OVF e i) F.TE_OVF_VALID)) 16384
  match (if rec_ && decide (held < c.emt e t F.TE_EMT_OVF_QUOTA) then free else none) with
  | some i =>
    let (q, c) := c.teSeq e t
    let o := A.TE_OVF e i
    let c := ((c.wr o (BitVec.ofNat 64 key)).wr (o + 8) (BitVec.ofNat 64 (key / 2 ^ 64))).wr (o + 16) (BitVec.ofNat 64 (key / 2 ^ 128))
    let c := (c.wr (o + 24) data).wr (o + 32) (BitVec.ofNat 64 (t + 16 + (if static then 128 else 0) + q * 256))
    let c := ((c.setSram (4 + e) i 0).emtCount e t F.TE_EMT_STAT_OVF_ENTRIES true).inc (A.TE_EMT_LEARNS e t)
    (⟨Code.OK, teFlag false true false false false false, i, data⟩, c.nextGen e t)
  | none =>
    let full (c : Chip) : TeAns × Chip := (TeAns.no Code.TABLE_FULL, c.inc (A.TE_EMT_FULL e t))
    if c.emt e t F.TE_EMT_EVICT_EN = 0 then full c
    else
      let (v, c) := c.teVictim e t occ
      match v with
      | none => full c
      | some s =>
        let x := slotOf s.word s.slot
        if !c.teReady e (c.recordAt e t (slotRec x)) then (TeAns.no Code.ABSENT, c)
        else
          let c := (c.fcChange e t (slotSig x) s.bucket s.slot fun _ => none).inc (A.TE_EMT_EVICTS e t)
          let alt := if s.bucket = a then 0 else 1
          let c := c.tePlace now e t key sig data static s.bucket s.word s.slot (slotRec x) alt
          (⟨Code.OK, teFlag false false false true false false, slotRec x, data⟩, c)

/-- An insertion of an absent key with its two bucket words (R206). -/
def Chip.teInsert (c : Chip) (now e t key a b sig ca cb slice : Nat) (data : Word) (static : Bool) : TeAns × Chip :=
  let occ := movable a ca ++ if a = b then [] else movable b cb
  match c.freeRec e t with
  | none => c.teOverflow now e t key a sig data static false occ
  | some r =>
    if !c.teReady e (c.recordAt e t r) then (TeAns.no Code.ABSENT, c)
    else
      let put (c : Chip) (bucket word slot : Nat) : TeAns × Chip :=
        let c := c.tePlace now e t key sig data static bucket word slot r (if bucket = a then 0 else 1)
        (⟨Code.OK, 0, r, data⟩, c.emtCount e t F.TE_EMT_STAT_ENTRIES true)
      let inB := a != b && decide (freeSlots ca < freeSlots cb)
      match (if inB then freeSlot cb else freeSlot ca) with
      | some k => if inB then put c b cb k else put c a ca k
      | none =>
        let depth := c.get (A.TE_CTRL e) F.TE_CTRL_RELOC_DEPTH
        match Chip.teChains now e t slice depth (occ.map fun s => [s]) [a, b] 16 c with
        | (.failed st, c) => (TeAns.no st, c)
        | (.found path bucket word slot, c) =>
          let c := Chip.teMoves e t path.reverse bucket word slot c
          match path with
          | s :: _ => put c s.bucket s.word s.slot
          | [] => (TeAns.no Code.TABLE_FULL, c)
        | (.deeper _ _ _, c) => c.teOverflow now e t key a sig data static true occ

/-! ### Lookup (R199, R202, R205) -/

/-- A lookup's counts: LOOKUPS, and HITS or MISSES. -/
def Chip.teCounts (c : Chip) (e t : Nat) (tent hit : Bool) : Chip :=
  if tent then c else (c.inc (A.TE_EMT_LOOKUPS e t)).inc (if hit then A.TE_EMT_HITS e t else A.TE_EMT_MISSES e t)

/-- A LOOKUP or LOOKUP_LEARN in an enabled table (R199, R205); a tentative one withholds HIT, counts and the insertion (R215). Where the
insertion needs a word that is absent or meets one that is poisoned, the reply says so (R191, R216). -/
def Chip.teLookup (c : Chip) (now e t : Nat) (key : List Byte) (learn : Option Word) (slice : Nat) (tent : Bool) : TeAns × Chip :=
  let k := leNat key
  let (a, b, sig) := c.teHashOf e t key
  let fc := c.emt e t F.TE_EMT_FC_EN == 1
  let (line, c) := if fc then c.fcFind now e t sig k slice else (none, c)
  match line with
  | some l =>
    let ans : TeAns := ⟨Code.OK, teFlag true false false false false l.static, l.record, l.data⟩
    if tent then (ans, c)
    else
      let s := fcSet t sig
      let c := c.setFc e s ({ l with hit := true } :: (c.fcLines e s).filter fun x => x.way != l.way)
      (ans, (c.teCounts e t tent true).inc (A.TE_FC_HITS e))
  | none =>
    let c := if fc && !tent then c.inc (A.TE_FC_MISSES e) else c
    let (st, hit, c) := c.teSearch now e t k a b sig slice
    if st ≠ Code.OK then (TeAns.no st, if tent then c else c.inc (A.TE_EMT_LOOKUPS e t))
    else
      match hit with
      | .slot bucket w j r data =>
        let x := slotOf w j
        let ans : TeAns := ⟨Code.OK, teFlag false false false false false (slotStatic x), r, data⟩
        if tent then (ans, c)
        else
          let c := c.teCounts e t tent true
          (ans, if fc then c.fcInstall now e sig ⟨t, k, data, bucket, j, r, 0, slotStatic x, true, slotHit x⟩
            else if slotHit x then c
            else c.teWrite e (c.bucketAt e t bucket) (setNatBits w (48 * j + 41) 1 1))
      | .ovf i =>
        let o := A.TE_OVF e i
        let ans : TeAns := ⟨Code.OK, teFlag false true false false false (c.flag o F.TE_OVF_STATIC), i, c.rd (o + 24)⟩
        (ans, if tent then c else (c.setFlag o F.TE_OVF_HIT true).teCounts e t tent true)
      | .miss ca cb =>
        let miss := c.rd (A.TE_EMT e t + 16)
        let c := c.teCounts e t tent false
        match learn with
        | some data =>
          if tent || c.emt e t F.TE_EMT_LEARN_EN == 0 then (⟨Code.NOT_FOUND, 0, 0, miss⟩, c)
          else
            let (r, c) := c.teInsert now e t k a b sig ca cb slice data false
            if r.st = Code.OK then (⟨Code.NOT_FOUND, r.flags + 4, r.value, miss⟩, c)
            else if r.st = Code.TABLE_FULL then (⟨Code.NOT_FOUND, 0, 0, miss⟩, c)
            else (TeAns.no r.st, c.inc (A.TE_EMT_FULL e t))
        | none => (⟨Code.NOT_FOUND, 0, 0, miss⟩, c)

/-- A request on channels 544 to 575 (R192, R197): its reply. -/
def Chip.teServe (c : Chip) (now : Nat) (r : EngReq) (tent : Bool) : List Word × Chip :=
  let e := teOf r.mill
  let t := r.chan % 16
  let learn := decide (560 ≤ r.chan)
  let kw := (c.emt e t F.TE_EMT_KEY_BYTES + 7) / 8
  let one (st : Status) : List Word := [replyWord st 0 r.chan 0, 0]
  if r.words.length ≠ kw + (if learn then 1 else 0) then (one Code.BAD_ARGUMENT, c)
  else if !c.emtOn e t then (one Code.TABLE_OFF, c)
  else
    let key := c.teKey e t (r.words.take kw) (some r.slice)
    let (ans, c) := c.teLookup now e t key (if learn then some (nth 0 r.words kw) else none) r.slice tent
    if ans.st = Code.ABSENT then ([replyWord Code.ABSENT 0 r.chan 0], c)
    else ([replyWord ans.st ans.flags r.chan ans.value, ans.data], c)

/-- The words of engine `e` counted so far. -/
def Chip.qdrWords (c : Chip) (e : Nat) : Nat := (c.rd (A.TE_QDR_WORDS e)).toNat

/-- What stands of a tentative request of a Mill's engine that would leave `d`: the words it has used (R148). -/
def Chip.tentSpent (c : Chip) (m : Nat) (d : Chip) : Chip :=
  ({ c with free := d.free }).wr (A.TE_QDR_WORDS (teOf m)) (d.rd (A.TE_QDR_WORDS (teOf m)))

/-- The words a request has used at adoption, `d` being what it leaves and `t` what its tentative reads alone would: those reads have been
counted already (R148, R220). -/
def Chip.sparedWords (c : Chip) (e : Nat) (t d : Chip) : Chip :=
  d.wr (A.TE_QDR_WORDS e) (BitVec.ofNat 64 (d.qdrWords e - (t.qdrWords e - c.qdrWords e)))

/-- A tentative reply of an exact-match table that stands: the effects R148 withheld are performed as if the request had arrived now, and a
reply with OK is delivered as it is, counted in the flow cache counters as it was answered (R148, R215). -/
def Chip.teTaken (c : Chip) (now : Nat) (r : EngReq) (reply : List Word) : List Word × Chip :=
  let e := teOf r.mill
  let (ws, d) := c.teServe now r false
  let d := c.sparedWords e (c.teServe now r true).2 d
  let w := nth 0 reply 0
  if getBits w 0 16 = Code.OK ∧ c.emt e (r.chan % 16) F.TE_EMT_FC_EN = 1 then
    let a := if getBits w 16 1 = 1 then A.TE_FC_HITS e else A.TE_FC_MISSES e
    (reply, ((d.wr (A.TE_FC_HITS e) (c.rd (A.TE_FC_HITS e))).wr (A.TE_FC_MISSES e) (c.rd (A.TE_FC_MISSES e))).inc a)
  else (if getBits w 0 16 = Code.OK then reply else ws, d)

/-! ### WRITE (R204, R207) -/

/-- A deletion of an entry in a slot: the slot first, then its record; its line writes nothing back. -/
def Chip.teDelete (c : Chip) (e t bucket w k r : Nat) : Chip :=
  let c := c.teWrite e (c.bucketAt e t bucket) (putSlot w k 0 0)
  let c := (c.fcChange e t (slotSig (slotOf w k)) bucket k fun _ => none).markRec e t r false
  (c.emtCount e t F.TE_EMT_STAT_ENTRIES false).nextGen e t

/-- An exact-match op of a WRITE request: 0 INSERT, 1 UPSERT, 2 UPDATE, 3 DELETE. -/
def Chip.teWriteOp (c : Chip) (now e t op : Nat) (key : List Byte) (data : Word) (static : Bool) (slice : Nat) : TeAns × Chip :=
  let k := leNat key
  let (a, b, sig) := c.teHashOf e t key
  let (st, hit, c) := c.teSearch now e t k a b sig slice
  if st ≠ Code.OK then (TeAns.no st, c)
  else
    match hit with
    | .miss ca cb =>
      if op = 0 ∨ op = 1 then c.teInsert now e t k a b sig ca cb slice data static else (TeAns.no Code.NOT_FOUND, c)
    | .slot bucket w j r old =>
      let x := slotOf w j
      if op = 0 then (⟨Code.EXISTS, teFlag false false false false false (slotStatic x), r, old⟩, c)
      else if op = 3 then (⟨Code.OK, teFlag false false false false false (slotStatic x), r, old⟩, c.teDelete e t bucket w j r)
      else
        let c := c.teWrite e (c.recordAt e t r) (k + data.toNat * 2 ^ 192)
        let now_ := if op = 1 then static else slotStatic x
        let c := if now_ = slotStatic x then c
          else c.teWrite e (c.bucketAt e t bucket) (setNatBits w (48 * j + 43) 1 (if now_ then 1 else 0))
        let c := c.fcChange e t sig bucket j fun l => some { l with data := data, static := now_ }
        (⟨Code.OK, teFlag false false false false (op == 1) (slotStatic x), r, data⟩, c.nextGen e t)
    | .ovf i =>
      let o := A.TE_OVF e i
      let st0 := c.flag o F.TE_OVF_STATIC
      if op = 0 then (⟨Code.EXISTS, teFlag false true false false false st0, i, 0⟩, c)
      else if op = 3 then (⟨Code.OK, teFlag false true false false false st0, i, 0⟩, (c.ovfFree e t i).nextGen e t)
      else
        let c := c.wr (o + 24) data
        let c := if op = 1 then c.setFlag o F.TE_OVF_STATIC static else c
        (⟨Code.OK, teFlag false true false false (op == 1) st0, i, data⟩, c.nextGen e t)

/-- OVF_CLEAR of table `t`. -/
def Chip.ovfClear (c : Chip) (e t : Nat) : Chip :=
  let is := c.ovfOf e t
  let c := is.foldl (fun c i => (c.ovfFree e t i).setSram (4 + e) i 0) c
  (c.setEng e { c.eng e with ovfBad := mset false (c.eng e).ovfBad t false }).nextGen e t

/-! ### Longest-prefix match (R213) -/

/-- Whether LPM table `l` and the store are enabled; whether it is IPv6. -/
def Chip.lpmOn (c : Chip) (e l : Nat) : Bool :=
  getBits (c.rd (A.TE_LPM e l)) 0 1 == 1 && c.flag (A.TE_LPM_STORE e) F.TE_LPM_STORE_ENABLE
def Chip.lpm6 (c : Chip) (e l : Nat) : Bool := getBits (c.rd (A.TE_LPM e l)) 1 1 == 1

/-- The address of a request in `width` bits: word 0 [31:0], or words 0 and 1. -/
def lpmAddr (v6 : Bool) (w0 w1 : Word) : Nat := if v6 then w0.toNat * 2 ^ 64 + w1.toNat else w0.toNat % 2 ^ 32

/-- Whether a prefix matches an address of `width` bits. -/
def Prefix.matches (p : Prefix) (width a : Nat) : Bool := p.addr / 2 ^ (width - p.len) == a / 2 ^ (width - p.len)

/-- The prefixes of LPM table `l`. -/
def Chip.prefixes (c : Chip) (e l : Nat) : List Prefix := mget [] (c.eng e).lpm l

/-- QDR words an LPM operation uses: their number, at most `n`, is internal to the engine, a free value; none of them can be had where
a channel is out of service and the operation needs it, a free choice. -/
def Chip.lpmWords (c : Chip) (e n : Nat) : Bool × Chip :=
  let (v, c) := c.fresh
  let (u, c) := c.fresh
  if (List.range 4).all (fun k => c.qReady (4 * e + k)) || u % 2 == 0 then (true, c.add (A.TE_QDR_WORDS e) (v % (n + 1))) else (false, c)

/-- An LPM lookup on channel 577 + l. -/
def Chip.lpmServe (c : Chip) (now : Nat) (r : EngReq) (tent : Bool) : List Word × Chip :=
  let e := teOf r.mill
  let l := r.chan - 577
  let v6 := c.lpm6 e l
  let one (st : Status) : List Word := [replyWord st 0 r.chan 0, 0]
  if r.words.length ≠ (if v6 then 2 else 1) || (!v6 && getBits (nth 0 r.words 0) 32 32 != 0) then (one Code.BAD_ARGUMENT, c)
  else if !c.lpmOn e l then (one Code.TABLE_OFF, c)
  else
    let width := if v6 then 128 else 32
    let a := lpmAddr v6 (nth 0 r.words 0) (nth 0 r.words 1)
    let (ok, c) := c.lpmWords e (if v6 then 4 else 2)
    if !ok then ([replyWord Code.ABSENT 0 r.chan 0], note c now)
    else
      let c := if tent then c else c.inc (A.TE_LPM_LOOKUPS e l)
      match leastBy (fun p : Prefix => 128 - p.len) ((c.prefixes e l).filter fun p => p.matches width a) with
      | some p => ([replyWord Code.OK 0 r.chan p.len, BitVec.ofNat 64 p.data], c)
      | none => ([replyWord Code.NOT_FOUND 0 r.chan 0, BitVec.ofNat 64 (c.get (A.TE_LPM e l) F.TE_LPM_DEFAULT)], c)
where
  /-- An absent word leaves no trace. -/
  note (c : Chip) (_ : Nat) : Chip := c

/-- A tentative LPM reply that stands: the request runs, its words counted already (R215). -/
def Chip.lpmTaken (c : Chip) (now : Nat) (r : EngReq) (reply : List Word) : List Word × Chip :=
  let (ws, d) := c.lpmServe now r false
  let d := c.sparedWords (teOf r.mill) (c.lpmServe now r true).2 d
  (if getBits (nth 0 reply 0) 0 16 = Code.OK then reply else ws, d)

/-- LPM_ADD and LPM_DEL. -/
def Chip.lpmWrite (c : Chip) (e l : Nat) (add : Bool) (len : Nat) (w0 w1 data : Word) : TeAns × Chip :=
  let v6 := c.lpm6 e l
  let width := if v6 then 128 else 32
  let a := lpmAddr v6 w0 w1 / 2 ^ (width - len) * 2 ^ (width - len)
  let cost := if v6 then 2 else 1
  let ps := c.prefixes e l
  let has := ps.any fun p => p.len == len && p.addr == a
  let rest := ps.filter fun p => !(p.len == len && p.addr == a)
  let units := c.get (A.TE_LPM_STAT e) F.TE_LPM_STAT_UNITS
  let put (c : Chip) (ps : List Prefix) (u : Nat) : Chip :=
    let c := c.setEng e { c.eng e with lpm := mset [] (c.eng e).lpm l ps }
    (c.set (A.TE_LPM_STAT e) F.TE_LPM_STAT_UNITS u).nextGen e (16 + l)
  if !add && !has then (TeAns.no Code.NOT_FOUND, c)
  else if add && !has && decide (c.get (A.TE_LPM_STORE e) F.TE_LPM_STORE_PFX_WORDS < units + cost) then (TeAns.no Code.LPM_FULL, c)
  else
    let (ok, c) := c.lpmWords e 16
    if !ok then (TeAns.no Code.ABSENT, c)
    else if add then (⟨Code.OK, 0, len, 0⟩, put c (rest ++ [⟨len, a, data.toNat % 2 ^ 32⟩]) (if has then units else units + cost))
    else (⟨Code.OK, 0, len, 0⟩, put c rest (units - cost))

/-- A WRITE request of a program (`slice`) or of the operator (none), as Table 7-8 lays it out (R204). -/
def Chip.teRequest (c : Chip) (now e : Nat) (ws : List Word) (slice : Option Nat) : TeAns × Chip :=
  let w := nth 0 ws 0
  let t := getBits w 0 4
  let op := getBits w 4 3
  let len := getBits w 8 8
  let oper := slice.isNone
  if ws.length ≠ 5 ∨ getBits w 16 48 ≠ 0 ∨ op = 7 then (TeAns.no Code.BAD_ARGUMENT, c)
  else if op = 6 then
    if oper then (⟨Code.OK, 0, 0, 0⟩, c.ovfClear e t) else (TeAns.no Code.BAD_ARGUMENT, c)
  else if op = 4 ∨ op = 5 then
    let v6 := c.lpm6 e t
    if 8 ≤ t || decide ((if v6 then 128 else 32) < len) || nth 0 ws 3 != 0 || (op == 4 && getBits (nth 0 ws 4) 32 32 != 0)
        || (!v6 && getBits (nth 0 ws 1) 32 32 != 0) then (TeAns.no Code.BAD_ARGUMENT, c)
    else if !oper && !c.lpmOn e t then (TeAns.no Code.TABLE_OFF, c)
    else c.lpmWrite e t (op == 4) len (nth 0 ws 1) (nth 0 ws 2) (nth 0 ws 4)
  else if !oper && !c.emtOn e t then (TeAns.no Code.TABLE_OFF, c)
  else
    c.teWriteOp now e t op (c.teKey e t ((ws.drop 1).take 3) slice) (nth 0 ws 4) (getBits w 7 1 == 1) (slice.getD 0)

/-- A WRITE request of channel 576 whose op is `op`: its reply. -/
def Chip.teWriteServe (c : Chip) (now : Nat) (r : EngReq) : List Word × Chip :=
  let (ans, c) := c.teRequest now (teOf r.mill) r.words (some r.slice)
  ([if ans.st = Code.ABSENT then replyWord Code.ABSENT 0 r.chan 0 else replyWord ans.st ans.flags r.chan ans.value], c)

/-- Whether an operator op runs (R222). -/
def Chip.opBusy (c : Chip) (e : Nat) : Bool := !(c.eng e).op.isEmpty

/-- Writing GO = 1 of TE_x_OP_CTRL (R204, R222): the op of TE_x_OP_REQ starts, and BUSY reads 1 until it has run (entry 68). -/
def Chip.teGo (c : Chip) (e : Nat) : Chip :=
  (c.setEng e { c.eng e with op := (List.range 5).map fun k => c.rd (A.TE_OP_REQ e k) }).setFlag (A.TE_OP_STAT e) F.TE_OP_STAT_BUSY true

/-- The operator's op ends with an answer: TE_x_OP_STAT shows it, BUSY clears. -/
def Chip.opEnd (c : Chip) (e : Nat) (ans : TeAns) : Chip :=
  (c.setEng e { c.eng e with op := [] }).wr (A.TE_OP_STAT e) (BitVec.ofNat 64 (ans.st + ans.flags * 2 ^ 16 + ans.value * 2 ^ 40))

/-- The operator's op runs (R204). -/
def Chip.teOperator (c : Chip) (now e : Nat) : Chip :=
  if c.opBusy e then
    let (ans, c) := c.teRequest now e (c.eng e).op none
    c.opEnd e ans
  else c

/-- An operator op under way when TQ is fenced ends with ABSENT (R122). -/
def Chip.opLost (c : Chip) : Chip := [0, 1].foldl (fun (c : Chip) e => if c.opBusy e then c.opEnd e (TeAns.no Code.ABSENT) else c) c

/-! ### Counter store (R214) -/

/-- The content of a counter store word as four words, and back. -/
def ccWords (v : Nat) : List Word := (List.range 4).map fun k => BitVec.ofNat 64 (v / 2 ^ (64 * k))
def ccNat (ws : List Word) : Nat := leNat (ofWords ws)

/-- Writes a line back, if it is dirty and its channel serves. -/
def Chip.ccBack (c : Chip) (e : Nat) (l : CcLine) : Bool × Chip :=
  let w := c.get (A.TE_CNT_STORE e) F.TE_CNT_STORE_BASE + l.word
  if !l.dirty then (true, c)
  else if !c.teReady e w then (false, c)
  else (true, c.teWrite e w (ccNat l.data))

/-- The line of a counter store word, filled from QDR where the cache does not hold it. -/
def Chip.ccLine (c : Chip) (now e w slice : Nat) : Status × CcLine × Chip :=
  let ls := (c.eng e).cc
  match ls.find? fun l => l.word == w with
  | some l => (Code.OK, l, c.setEng e { c.eng e with cc := ls.filter fun l => l.word != w })
  | none =>
    let (st, v, c) := c.teRead now e (c.get (A.TE_CNT_STORE e) F.TE_CNT_STORE_BASE + w) slice
    if st = Code.POISONED then (st, ⟨w, [], false⟩, c.raise now Flt.TE_CNT_POISON 22 63 slice 0)
    else if st ≠ Code.OK then (st, ⟨w, [], false⟩, c)
    else
      match ls.drop 16383 with
      | old :: _ =>
        let (ok, c) := c.ccBack e old
        if ok then (Code.OK, ⟨w, ccWords v, false⟩, c.setEng e { c.eng e with cc := ls.take 16383 }) else (Code.ABSENT, ⟨w, [], false⟩, c)
      | [] => (Code.OK, ⟨w, ccWords v, false⟩, c)

/-- COUNT on channel 585. -/
def Chip.teCount (c : Chip) (now : Nat) (r : EngReq) : List Word × Chip :=
  let e := teOf r.mill
  let w0 := nth 0 r.words 0
  let w1 := nth 0 r.words 1
  let i := getBits w0 0 24
  let one (st : Status) : List Word := [replyWord st 0 r.chan 0]
  if r.words.length ≠ 2 then (one Code.BAD_ARGUMENT, c)
  else if getBits w0 24 40 ≠ 0 ∨ c.get (A.TE_CNT_STORE e) F.TE_CNT_STORE_COUNT ≤ i then (one Code.BAD_ARGUMENT, c)
  else if !c.flag (A.TE_CNT_STORE e) F.TE_CNT_STORE_ENABLE then (one Code.TABLE_OFF, c)
  else
    let (st, l, c) := c.ccLine now e (i / 2) r.slice
    if st ≠ Code.OK then (one st, c)
    else
      let k := 2 * (i % 2)
      let d := setNth l.data k (nth 0 l.data k + BitVec.ofNat 64 (getBits w1 0 48))
      let d := setNth d (k + 1) (nth 0 d (k + 1) + BitVec.ofNat 64 (getBits w1 48 16))
      let c := c.setEng e { c.eng e with cc := { l with data := d, dirty := true } :: (c.eng e).cc }
      (one Code.OK, c.inc (A.TE_CNT_ADDS e))

/-- Writes back every dirty line that can be written. -/
def Chip.ccFlushLines (e : Nat) : List CcLine → Chip → List CcLine × Chip
  | [], c => ([], c)
  | l :: ls, c =>
    let (ok, c) := c.ccBack e l
    let (rest, c) := Chip.ccFlushLines e ls c
    ({ l with dirty := l.dirty && !ok } :: rest, c)

/-- Writing FLUSH = 1: FLUSH_BUSY reads 1 until the last write-back completes. -/
def Chip.ccFlush (c : Chip) (e : Nat) : Chip :=
  let (ls, c) := Chip.ccFlushLines e (c.eng e).cc c
  (c.setEng e { c.eng e with cc := ls }).setFlag (A.TE_CNT_CTRL e) F.TE_CNT_CTRL_FLUSH_BUSY true

/-- The last write-back of a flush completes. -/
def Chip.ccFlushDone (c : Chip) (e : Nat) : Chip := c.setFlag (A.TE_CNT_CTRL e) F.TE_CNT_CTRL_FLUSH_BUSY false

/-- A window PUT to word `w` of the engine, where it is a counter store word, first writes back and drops its line. -/
def Chip.ccDrop (c : Chip) (e w : Nat) : Chip :=
  let base := c.get (A.TE_CNT_STORE e) F.TE_CNT_STORE_BASE
  match (c.eng e).cc.find? fun l => base + l.word == w with
  | some l =>
    let c := (c.ccBack e l).2
    c.setEng e { c.eng e with cc := (c.eng e).cc.filter fun l => base + l.word != w }
  | none => c

/-! ### Aging (R210) -/

/-- The next overflow entry of table `t` from index `i` up. -/
def Chip.ovfNext (c : Chip) (e t i : Nat) : Option Nat := (c.ovfOf e t).find? fun j => decide (i ≤ j)

/-- The sweeper of table `t`. -/
def Chip.sweeper (c : Chip) (e t : Nat) : Sweep := mget Sweep.init (c.eng e).sweep t

/-- Replaces the sweeper of table `t`. -/
def Chip.setSweep (c : Chip) (e t : Nat) (w : Sweep) : Chip := c.setEng e { c.eng e with sweep := mset Sweep.init (c.eng e).sweep t w }

/-- Whether a line of the flow cache names a slot and has HIT. -/
def Chip.lineHit (c : Chip) (e t sig bucket k : Nat) : Bool :=
  (c.fcLines e (fcSet t sig)).any fun l => l.names t bucket k && l.hit

/-- The sweeper visits slot `k` of a bucket whose word is `w`. -/
def Chip.sweepSlot (c : Chip) (e t bucket w k : Nat) : Chip :=
  let x := slotOf w k
  if !slotValid x || slotStatic x then c
  else
    let sig := slotSig x
    if slotHit x || c.lineHit e t sig bucket k then
      let y := setNatBits (setNatBits x 41 1 0) 42 1 0
      let c := if y = x then c else c.teWrite e (c.bucketAt e t bucket) (putSlot w k y (slotSeq w k))
      c.fcChange e t sig bucket k fun l => some { l with hit := false, slotHit := false }
    else if slotStale x then (c.teDelete e t bucket w k (slotRec x)).inc (A.TE_EMT_AGED e t)
    else c.teWrite e (c.bucketAt e t bucket) (putSlot w k (setNatBits x 42 1 1) (slotSeq w k))

/-- The sweeper visits an overflow entry. -/
def Chip.sweepOvf (c : Chip) (e t i : Nat) : Chip :=
  let o := A.TE_OVF e i
  if c.flag o F.TE_OVF_STATIC then c
  else if c.flag o F.TE_OVF_HIT then (c.setFlag o F.TE_OVF_HIT false).setFlag o F.TE_OVF_STALE false
  else if c.flag o F.TE_OVF_STALE then ((c.ovfFree e t i).nextGen e t).inc (A.TE_EMT_AGED e t)
  else c.setFlag o F.TE_OVF_STALE true

/-- When the visit of place `p` among `n` is due in a pass that began at `since`: the visits are spread evenly over SWEEP_MS (R210). -/
def Chip.sweepDue (c : Chip) (now e t n p : Nat) : Bool :=
  let w := c.sweeper e t
  let period := ns (1000000 * c.emt e t F.TE_EMT_SWEEP_MS)
  match w.since with
  | none => true
  | some s => decide (c.stampIn 22 now < s) || decide (s + (if w.pos = 0 then period else period * p / n) ≤ c.stampIn 22 now)

/-- Slot `k` of bucket `i` is visited: of the words written at one bucket in a pass the first is counted (Table 7-11). -/
def Chip.sweepBucket (c : Chip) (e t i v k : Nat) (w : Sweep) : Chip :=
  let d := c.sweepSlot e t i v k
  let wrote := d.qdrWords e != c.qdrWords e
  let d := if w.wrote then d.wr (A.TE_QDR_WORDS e) (c.rd (A.TE_QDR_WORDS e)) else d
  d.setSweep e t { w with pos := 4 * i + k + 1, wrote := (w.wrote || wrote) && k != 3 }

/-- The sweeper of table `t` visits its next entry once it is due: the buckets in index order, then the table's overflow entries (R210). -/
def Chip.sweepVisit (c : Chip) (now e t : Nat) : Chip :=
  let slots := 4 * 2 ^ c.emt e t F.TE_EMT_BUCKET_LOG2
  let w := c.sweeper e t
  let late := c.ovfOf e t
  let place := if w.pos < slots then w.pos else slots + (late.filter fun i => decide (i < w.pos - slots)).length
  if !c.up 22 || !c.emtOn e t || c.emt e t F.TE_EMT_AGE_EN != 1 || !c.sweepDue now e t (slots + late.length) place then c
  else
    let w := if w.pos = 0 then { w with since := some (c.stampIn 22 now) } else w
    if w.pos < slots then
      let i := w.pos / 4
      let skip (c : Chip) : Chip := c.setSweep e t { w with pos := 4 * i + 4, wrote := false }
      match c.readQdr now e (c.bucketAt e t i) 0 with
      | (.absent, c) => skip c
      | (.poisoned, c) => skip ((c.inc (A.TE_QDR_WORDS e)).inc (A.TE_SWEEP_POISON e))
      | (.ok bs, c) => (if w.pos % 4 = 0 then c.inc (A.TE_QDR_WORDS e) else c).sweepBucket e t i (leNat bs) (w.pos % 4) w
    else
      match c.ovfNext e t (w.pos - slots) with
      | some i => (c.sweepOvf e t i).setSweep e t { w with pos := slots + i + 1 }
      | none => c.setSweep e t { w with pos := 0 }

/-! ### Enable (R191, R211, R218, R219) -/

/-- The enabled regions of an engine as (base, length), those of table `skip` left out. -/
def Chip.regions (c : Chip) (e skip : Nat) : List (Nat × Nat) :=
  let tabs := ((List.range 16).filter fun t => t != skip && c.emtOn e t).flatMap fun t =>
    [(c.emt e t F.TE_EMT_BUCKET_BASE, 2 ^ c.emt e t F.TE_EMT_BUCKET_LOG2), (c.emt e t F.TE_EMT_RECORD_BASE, c.emt e t F.TE_EMT_RECORD_COUNT)]
  let lpm := if skip ≠ 16 ∧ c.flag (A.TE_LPM_STORE e) F.TE_LPM_STORE_ENABLE = true
    then [(c.get (A.TE_LPM_STORE e) F.TE_LPM_STORE_PFX_BASE, c.get (A.TE_LPM_STORE e) F.TE_LPM_STORE_PFX_WORDS)] else []
  let cnt := if skip ≠ 17 ∧ c.flag (A.TE_CNT_STORE e) F.TE_CNT_STORE_ENABLE = true
    then [(c.get (A.TE_CNT_STORE e) F.TE_CNT_STORE_BASE, (c.get (A.TE_CNT_STORE e) F.TE_CNT_STORE_COUNT + 1) / 2)] else []
  let ce := if skip ≠ 18 ∧ c.flag (A.TE_CE_AREA e) F.TE_CE_AREA_ENABLE = true
    then [(c.get (A.TE_CE_AREA e) F.TE_CE_AREA_BASE, c.get (A.TE_CE_AREA e) F.TE_CE_AREA_WORDS)] else []
  tabs ++ lpm ++ cnt ++ ce

/-- Whether regions fit the engine and share no word with `others` (R191). -/
def fits (mine others : List (Nat × Nat)) : Bool :=
  mine.all fun m => decide (m.1 + m.2 ≤ 2 ^ 23) && others.all fun o => !overlap m.1 m.2 o.1 o.2

/-- The sum of the sweepers' cost as a fraction, over every table with AGE_EN = 1 (R211). -/
def Chip.sweepCost (c : Chip) (e : Nat) : Nat × Nat :=
  (List.range 16).foldl (fun (r : Nat × Nat) t =>
    if c.emt e t F.TE_EMT_AGE_EN = 1 then
      let n := 2 * 2 ^ c.emt e t F.TE_EMT_BUCKET_LOG2 * 1000
      let d := max 1 (c.emt e t F.TE_EMT_SWEEP_MS)
      (r.1 * d + n * r.2, r.2 * d)
    else r) (0, 1)

/-- The fields a PUT may change while the table is enabled, masked out of words 0 and 1 (R219). -/
def emtKept (o0 o1 n0 n1 : Word) : Bool :=
  let mask : Word := setBits 0 33 6 63
  (o0 &&& ~~~ mask) == (n0 &&& ~~~ mask) && o1 == n1

/-- The checks of a PUT of TE_x_EMT(t) that leaves `c`, with words 0 and 1 `o0` and `o1` before it, but for the scan. -/
def Chip.emtCheck (c : Chip) (e t : Nat) (o0 o1 : Word) : Status :=
  let f := c.emt e t
  let was := getBits o0 33 1 == 1
  let on := c.emtOn e t
  let cost := c.sweepCost e
  let recs := (List.range 16).foldl (fun n k => if c.emtOn e k then n + c.emt e k F.TE_EMT_RECORD_COUNT else n) 0
  if f F.TE_EMT_BUCKET_LOG2 < 4 || 20 < f F.TE_EMT_BUCKET_LOG2 || f F.TE_EMT_KEY_BYTES = 0 || 24 < f F.TE_EMT_KEY_BYTES
      || f F.TE_EMT_RECORD_COUNT = 0 || 4194304 < f F.TE_EMT_RECORD_COUNT || f F.TE_EMT_SWEEP_MS < 100 || 86400000 < f F.TE_EMT_SWEEP_MS
      || 16384 < f F.TE_EMT_OVF_QUOTA || (f F.TE_EMT_SLICE_KEY = 1 && f F.TE_EMT_KEY_BYTES != 24)
      || decide (48000000 * cost.2 < cost.1) || (on && !was && decide (4194304 < recs)) then Code.BAD_ARGUMENT
  else if was && !emtKept o0 o1 (c.rd (A.TE_EMT e t)) (c.rd (A.TE_EMT e t + 8)) then Code.TABLE_ENABLED
  else
    let mine := [(f F.TE_EMT_BUCKET_BASE, 2 ^ f F.TE_EMT_BUCKET_LOG2), (f F.TE_EMT_RECORD_BASE, f F.TE_EMT_RECORD_COUNT)]
    if on && !was && !(fits mine (c.regions e t) && fits (mine.take 1) (mine.drop 1)) then Code.OVERLAP else Code.OK

/-- Scans one slot: BAD_IMAGE, POISONED or ABSENT, or the record marked used. -/
def Chip.scanSlot (c : Chip) (now e t i w k : Nat) (used : SMap Bool) : Status × SMap Bool × Chip :=
  let x := slotOf w k
  let r := slotRec x
  if !slotValid x then (Code.OK, used, c)
  else if c.emt e t F.TE_EMT_RECORD_COUNT ≤ r ∨ mget false used r = true then (Code.BAD_IMAGE, used, c)
  else
    let (st, v, c) := c.teRead now e (c.recordAt e t r) 0
    if st = Code.POISONED then (st, used, c.raise now Flt.TE_RECORD_POISON 22 63 0 (BitVec.ofNat 64 (c.recordAt e t r)))
    else if st ≠ Code.OK then (st, used, c)
    else
      let (a, b, sig) := c.teHashOf e t (leBytes 24 (recKey v))
      if slotSig x = sig ∧ (if slotAlt x = 0 then a else b) = i then (Code.OK, mset false used r true, c)
      else (Code.BAD_IMAGE, used, c)

/-- Scans the slots of a bucket. -/
def Chip.scanSlots (now e t i w : Nat) : List Nat → SMap Bool → Chip → Status × SMap Bool × Chip
  | [], used, c => (Code.OK, used, c)
  | k :: ks, used, c =>
    let (st, used, c) := c.scanSlot now e t i w k used
    if st = Code.OK then Chip.scanSlots now e t i w ks used c else (st, used, c)

/-- Scans `n` buckets from bucket `i` up (R218). -/
def Chip.scanBuckets (now e t : Nat) : Nat → Nat → SMap Bool → Chip → Status × SMap Bool × Chip
  | 0, _, used, c => (Code.OK, used, c)
  | n + 1, i, used, c =>
    let (st, w, c) := c.teRead now e (c.bucketAt e t i) 0
    if st = Code.POISONED then (st, used, c.raise now Flt.TE_BUCKET_POISON 22 63 0 (BitVec.ofNat 64 (c.bucketAt e t i)))
    else if st ≠ Code.OK then (st, used, c)
    else
      let (st, used, c) := Chip.scanSlots now e t i w [0, 1, 2, 3] used c
      if st = Code.OK then Chip.scanBuckets now e t n (i + 1) used c else (st, used, c)

/-- The enable scan of table `t` runs: on OK the table is enabled with its bitmap and entry count, else it is disabled (R218). -/
def Chip.tableScan (c : Chip) (now e t : Nat) : Status × Chip :=
  let (st, used, c) := Chip.scanBuckets now e t (2 ^ c.emt e t F.TE_EMT_BUCKET_LOG2) 0 [] c
  if st = Code.OK then
    let x := c.eng e
    let c := c.setEng e { x with used := mset [] x.used t used }
    (st, ((c.set (A.TE_EMT_STAT e t) F.TE_EMT_STAT_ENTRIES used.length).set (A.TE_EMT e t) F.TE_EMT_ENABLE 1))
  else (st, c.set (A.TE_EMT e t) F.TE_EMT_ENABLE 0)

/-- What an accepted PUT of TE_x_EMT(t) that does not enable the table does: clearing FC_EN or ENABLE invalidates its lines (R203). -/
def Chip.emtPut (c : Chip) (now e t : Nat) (o0 : Word) : Chip :=
  let off (b : Nat) (f : Fld) : Bool := getBits o0 b 1 == 1 && c.emt e t f == 0
  if off 33 F.TE_EMT_ENABLE || off 38 F.TE_EMT_FC_EN then c.fcFlush now e t else c

/-- The dirty counter lines of engine `e` are lost and counted (R217). -/
def Chip.cntLost (c : Chip) (e : Nat) : Chip := c.add (A.TE_CNT_LOST e) ((c.eng e).cc.filter fun l => l.dirty).length

/-- TQ has opened again after a fence (R217): caches and overflow stores are empty, the dirty counter lines are lost and counted, and
every enabled table is scanned afresh. -/
def Chip.teReopen (c : Chip) (now : Nat) : Chip :=
  [0, 1].foldl (fun (c : Chip) e =>
    let c := c.cntLost e
    let c := c.setEng e { c.eng e with fc := [], cc := [], ovfBad := [], scan := [] }
    let c := { c with regs := mclear c.regs (A.TE_OVF e 0) (A.TE_OVF e 16384) }
    let c := c.setFlag (A.TE_CNT_CTRL e) F.TE_CNT_CTRL_FLUSH_BUSY false
    (List.range 16).foldl (fun (c : Chip) t =>
      let c := c.set (A.TE_EMT_STAT e t) F.TE_EMT_STAT_OVF_ENTRIES 0
      if c.emtOn e t then (c.tableScan now e t).2 else c) c) c

/-- The area in use that word `w` of an engine lies in: 0 none, 1 a bucket area, 2 a record area, 3 the prefix store, 4 the cipher context
area; with the table (R191, R300). -/
def Chip.areaOf (c : Chip) (e w : Nat) : Nat × Nat :=
  let inside (b n : Nat) : Bool := decide (b ≤ w) && decide (w < b + n)
  match (List.range 16).find? fun t => c.emtOn e t && inside (c.emt e t F.TE_EMT_BUCKET_BASE) (2 ^ c.emt e t F.TE_EMT_BUCKET_LOG2) with
  | some t => (1, t)
  | none =>
    match (List.range 16).find? fun t => c.emtOn e t && inside (c.emt e t F.TE_EMT_RECORD_BASE) (c.emt e t F.TE_EMT_RECORD_COUNT) with
    | some t => (2, t)
    | none =>
      if c.flag (A.TE_LPM_STORE e) F.TE_LPM_STORE_ENABLE
          && inside (c.get (A.TE_LPM_STORE e) F.TE_LPM_STORE_PFX_BASE) (c.get (A.TE_LPM_STORE e) F.TE_LPM_STORE_PFX_WORDS) then (3, 0)
      else if c.flag (A.TE_CE_AREA e) F.TE_CE_AREA_ENABLE
          && inside (c.get (A.TE_CE_AREA e) F.TE_CE_AREA_BASE) (c.get (A.TE_CE_AREA e) F.TE_CE_AREA_WORDS) then (4, 0)
      else (0, 0)

/-- A poisoned word of an enabled table's area has been replaced through the window (R216): journaled, and the lines that name it go. -/
def Chip.areaReplaced (c : Chip) (now e w : Nat) : Chip :=
  let (k, t) := c.areaOf e w
  let c := (c.nextGen e t).journal now { JEvent.base with event := 0xD, level := 1, island := 22, detail := 0xB, a0 := BitVec.ofNat 64 w }
  let gone (l : FcLine) : Bool :=
    l.table == t && (if k = 1 then l.bucket == w - c.emt e t F.TE_EMT_BUCKET_BASE else l.record == w - c.emt e t F.TE_EMT_RECORD_BASE)
  (c.eng e).fc.foldl (fun (c : Chip) p => c.setFc e p.1 ((c.fcLines e p.1).filter fun l => !gone l)) c

/-- The region of a store of engine `e` as (base, length): `k` is 16 for the prefix store, 17 for the counter store, 18 for the cipher
context area. -/
def Chip.storeRegion (c : Chip) (e k : Nat) : Nat × Nat :=
  if k = 16 then (c.get (A.TE_LPM_STORE e) F.TE_LPM_STORE_PFX_BASE, c.get (A.TE_LPM_STORE e) F.TE_LPM_STORE_PFX_WORDS)
  else if k = 17 then (c.get (A.TE_CNT_STORE e) F.TE_CNT_STORE_BASE, (c.get (A.TE_CNT_STORE e) F.TE_CNT_STORE_COUNT + 1) / 2)
  else (c.get (A.TE_CE_AREA e) F.TE_CE_AREA_BASE, c.get (A.TE_CE_AREA e) F.TE_CE_AREA_WORDS)

/-- The overlap check of a write of TE_x_LPM_STORE, TE_x_CNT_STORE or TE_x_CE_AREA that leaves `c` (R191): `k` is 16, 17 or 18. -/
def Chip.storeCheck (c : Chip) (e k : Nat) : Status :=
  if fits [c.storeRegion e k] (c.regions e k) then Code.OK else Code.OVERLAP

/-- Whether PFX_WORDS is a multiple of 65,536, up to 2,097,152 (R222). -/
def Chip.pfxOk (c : Chip) (e : Nat) : Bool :=
  let words := c.get (A.TE_LPM_STORE e) F.TE_LPM_STORE_PFX_WORDS
  words % 65536 == 0 && decide (words ≤ 2097152)

end Sys2Proof.Machine
end

