-- ==== Sys2Proof/Machine/CipherOps.lean ====
section
/-! DEFINITION. The Cipher Engine (spec/11_cipher_storage.md, R299-R310): contexts in QDR and in the cache, sequence state across losses,
seals and opens of every suite, and the operations of CE_CTX_CMD. -/

namespace Sys2Proof.Machine

/-! ### Suites (R299) -/

/-- Whether a suite code is ESP. -/
def suiteEsp (s : Nat) : Bool := s == 1 || s == 2
/-- Whether a suite code is MACsec. -/
def suiteMac (s : Nat) : Bool := s == 3 || s == 4
/-- Whether a suite code is TLS 1.3. -/
def suiteTls (s : Nat) : Bool := s == 5 || s == 6 || s == 7
/-- Whether a suite code is XTS. -/
def suiteXts (s : Nat) : Bool := s == 8 || s == 9

/-- The fields of word 0 [63:0] of a context (Table 11-2). -/
def hdrSuite (h : Word) : Nat := getBits h 0 4
def hdrOpen (h : Word) : Bool := getBits h 5 1 == 1
def hdrOwner (h : Word) : Nat := getBits h 6 13
def hdrExt (h : Word) : Bool := getBits h 19 1 == 1
def hdrWin (h : Word) : Nat := getBits h 20 8
def hdrAn (h : Word) : Nat := getBits h 28 2
def hdrSc (h : Word) : Bool := getBits h 30 1 == 1
def hdrDu (h : Word) : Nat := if getBits h 32 2 = 1 then 4096 else 512

/-- The largest sequence number of a context's suite (R305). -/
def seqMax (h : Word) : Nat :=
  if (suiteEsp (hdrSuite h) || suiteMac (hdrSuite h)) && !hdrExt h then 2 ^ 32 - 1 else 2 ^ 64 - 1

/-- The bytes of a suite's key. -/
def keyLen (s : Nat) : Nat := if s = 1 ∨ s = 3 ∨ s = 5 ∨ s = 8 then 16 else 32

/-! ### Contexts in QDR (R300, R303) -/

/-- Replaces the state of the Cipher Engine. -/
def Chip.setCe (c : Chip) (x : CeSt) : Chip := { c with ce := x }

/-- The Table Engine and first word of context `n`, if its words lie in an enabled area. -/
def Chip.ctxWord (c : Chip) (n : Nat) : Option (Nat × Nat) :=
  let e := n / 2 ^ 19 % 2
  let k := 4 * (n % 2 ^ 19)
  let a := A.TE_CE_AREA e
  if c.flag a F.TE_CE_AREA_ENABLE && decide (k + 4 ≤ c.get a F.TE_CE_AREA_WORDS) then some (e, c.get a F.TE_CE_AREA_BASE + k) else none

/-- Reads `n` QDR words from word `w` up, appended. -/
def Chip.readQdrs (now e slice : Nat) : Nat → Nat → Chip → QdrRead × Chip
  | 0, _, c => (.ok [], c)
  | n + 1, w, c =>
    match c.readQdr now e w slice with
    | (.absent, c) => (.absent, c)
    | (.poisoned, c) => (.poisoned, c)
    | (.ok bs, c) =>
      match Chip.readQdrs now e slice n (w + 1) c with
      | (.ok cs, c) => (.ok (bs ++ cs), c)
      | (r, c) => (r, c)

/-- Whether the four words of a context can be reached. -/
def Chip.ctxReady (c : Chip) (e w : Nat) : Bool := (List.range 4).all fun k => c.qReady (qdrChannel e (w + k))

/-- Word 3 of a context as bytes. -/
def word3 (seq bits : Nat) (exact : Bool) : List Byte :=
  leBytes 32 (seq % 2 ^ 64 + bits % 2 ^ 128 * 2 ^ 64 + (if exact then 2 ^ 192 else 0))

/-- The bitmap with every bit set. -/
def allOnes : Nat := 2 ^ 128 - 1

/-- S of R304. -/
def Chip.ckpt (c : Chip) : Nat := 2 ^ c.get A.CE_CTRL F.CE_CTRL_CKPT_LOG2

/-- Replaces the line of a context and makes it the most recently used. -/
def Chip.putLine (c : Chip) (l : CeLine) : Chip :=
  c.setCe { c.ce with cache := l :: c.ce.cache.filter fun x => x.ctx != l.ctx }

/-- Writes the bound `p` into word 3 of a cached context (R304): false where its channel does not serve. -/
def Chip.writeBound (c : Chip) (l : CeLine) (p : Nat) : Option (CeLine × Chip) :=
  match c.ctxWord l.ctx with
  | none => none
  | some (e, w) =>
    if c.qReady (qdrChannel e (w + 3)) then
      let p := min p (seqMax l.hdr + 1)
      let l := { l with bound := some p }
      let bits := if hdrOpen l.hdr then allOnes else 0
      some (l, ((c.writeQdr e (w + 3) (word3 p bits false)).inc A.CE_CTX_BOUNDS).putLine l)
    else none

/-- Writes the exact state of a cached context (R303); XTS contexts hold none, and a lost one has none. -/
def Chip.writeExact (c : Chip) (l : CeLine) : Option (CeLine × Chip) :=
  if suiteXts (hdrSuite l.hdr) || l.lost then some (l, c)
  else
    match c.ctxWord l.ctx with
    | none => none
    | some (e, w) =>
      if c.qReady (qdrChannel e (w + 3)) then
        some ({ l with bound := none }, c.writeQdr e (w + 3) (word3 l.seq l.bits true))
      else none

/-- The lowest cache line in use by no context. -/
def CeSt.freeSlot (x : CeSt) : Nat := (firstBelow (fun k => !(x.cache.any fun l => l.slot == k)) 2048).getD 0

/-- Makes room for one more context: the least recently used leaves, its exact state written (R303). -/
def Chip.ceEvict (c : Chip) : Chip :=
  if c.ce.cache.length < 2048 then c
  else
    match c.ce.cache.getLast? with
    | none => c
    | some l =>
      let c := match c.writeExact l with
        | some (_, c) => c
        | none => c
      c.setCe { c.ce with cache := c.ce.cache.filter fun x => x.ctx != l.ctx }

/-- A context that failed its load answers in the same way until it is installed afresh (R303). -/
def Chip.ceFail (c : Chip) (n k : Nat) : Chip := c.setCe { c.ce with bad := mset 0 c.ce.bad n k }

/-- What the wrapping key opens of the words of a context. -/
def CeSt.unwrap (x : CeSt) (bs : List Byte) : Option CeWrap := x.wraps.find? fun p => p.blob == bs.take 96

/-- The first bound of a context just loaded (R304): from its exact state, or from the bound of a lost one. -/
def Chip.loadState (c : Chip) (l : CeLine) (seq bits : Nat) (exact : Bool) : Status × Option CeLine × Chip :=
  let s := hdrSuite l.hdr
  let l := { l with seq := seq }
  if suiteXts s then (Code.OK, some l, c.putLine l)
  else if !exact && suiteTls s then
    let l := { l with lost := true }
    (Code.OK, some l, c.putLine l)
  else
    let l := { l with bits := if exact then bits else if hdrOpen l.hdr then allOnes else 0 }
    match c.writeBound l (seq + c.ckpt) with
    | some (l, c) => (Code.OK, some l, c)
    | none => (Code.ABSENT, none, c)

/-- Loads context `n` (R303): its words are read and the tag is checked. The status is OK, BAD_ARGUMENT, ABSENT, POISONED, CTX_INVALID or
CTX_CORRUPT. -/
def Chip.ctxLoad (c : Chip) (now n slice : Nat) : Status × Option CeLine × Chip :=
  match c.ctxWord n with
  | none => (Code.BAD_ARGUMENT, none, c)
  | some (e, w) =>
    if !c.ctxReady e w then (Code.ABSENT, none, c)
    else
      match mget 0 c.ce.bad n with
      | 1 => (Code.CTX_CORRUPT, none, c)
      | 2 => (Code.POISONED, none, c)
      | _ =>
        match Chip.readQdrs now e slice 4 w c with
        | (.absent, c) => (Code.ABSENT, none, c)
        | (.poisoned, c) => (Code.POISONED, none, (c.ceFail n 2).raise now Flt.CE_CTX_POISON 23 48 0 0)
        | (.ok bs, c) =>
          let h := leWord bs
          if getBits h 4 1 = 0 then (Code.CTX_INVALID, none, c)
          else
            match c.ce.unwrap bs with
            | none => (Code.CTX_CORRUPT, none, (c.ceFail n 1).raise now Flt.CE_CTX_CORRUPT 23 48 0 0)
            | some k =>
              let c := c.ceEvict.inc A.CE_CTX_LOADS
              let slot := c.ce.freeSlot
              let c := (List.range 4).foldl (fun c i => c.setSram 11 (4 * slot + i) 0) c
              let v := leNat (bs.drop 96)
              c.loadState ⟨n, slot, h, leWord (bs.drop 8), k.key1, k.key2, 0, 0, none, false⟩
                (natBits v 0 64) (natBits v 64 128) (natBits v 192 1 == 1)

/-- Context `n` for a job: its line from the cache, or loaded. -/
def Chip.ctxGet (c : Chip) (now n slice : Nat) : Status × Option CeLine × Chip :=
  if (c.ctxWord n).isNone then (Code.BAD_ARGUMENT, none, c)
  else
    match c.ce.cache.find? fun l => l.ctx == n with
    | none => c.ctxLoad now n slice
    | some l =>
      let (bad, c) := Chip.readSrams now 11 0 slice 4 (4 * l.slot) c
      if bad then
        let c := c.setCe { c.ce with cache := c.ce.cache.filter fun x => x.ctx != n }
        (Code.POISONED, none, (c.ceFail n 2).raise now Flt.CE_CTX_POISON 23 48 0 0)
      else (Code.OK, some l, c.putLine l)

/-! ### Nonces, seals and opens (R307) -/

/-- The key a suite uses. -/
def CeLine.key (l : CeLine) : List Byte := l.key1.take (keyLen (hdrSuite l.hdr))

/-- Network order of a 64-bit number. -/
def be8 (n : Nat) : List Byte := beBytes 8 n

/-- The nonce of a job with sequence number `n`; ESP takes its explicit IV. -/
def CeLine.nonce (l : CeLine) (n : Nat) (iv : List Byte) : List Byte :=
  let s := hdrSuite l.hdr
  if suiteEsp s then l.key2.take 4 ++ iv
  else if suiteMac s then
    if hdrExt l.hdr then xorBytes ((l.key2.drop 12).take 4).reverse (l.key2.take 4) ++ xorBytes (be8 n) ((l.key2.drop 4).take 8)
    else be8 l.id.toNat ++ beBytes 4 n
  else l.key2.take 4 ++ xorBytes (be8 n) ((l.key2.drop 4).take 8)

/-- Encryption and tag under the suite's algorithm. -/
def CeLine.seal (l : CeLine) (iv aad pt : List Byte) : List Byte :=
  let (ct, tag) := if hdrSuite l.hdr = 7 then chachaSeal l.key iv aad pt else gcmSeal l.key iv aad pt
  ct ++ tag

/-- Verification and decryption of ciphertext followed by its tag. -/
def CeLine.open_ (l : CeLine) (iv aad bs : List Byte) : Option (List Byte) :=
  let ct := bs.take (bs.length - 16)
  let tag := bs.drop (bs.length - 16)
  if hdrSuite l.hdr = 7 then (if chachaTag l.key iv aad ct = tag then some (chachaOpen l.key iv ct) else none)
  else if gcmTag l.key iv aad ct = tag then some (gcmOpen l.key iv ct) else none

/-- The associated data of ESP: SPI and sequence number, 64 bits of it under ESN. -/
def CeLine.espAad (l : CeLine) (n : Nat) : List Byte :=
  beBytes 4 l.id.toNat ++ (if hdrExt l.hdr then be8 n else beBytes 4 n)

/-- The SecTAG of MACsec with its EtherType. -/
def CeLine.secTag (l : CeLine) (n len : Nat) : List Byte :=
  let sl := if len < 48 then len else 0
  [0x88, 0xE5, BitVec.ofNat 8 (0x0C + (if hdrSc l.hdr then 0x20 else 0) + hdrAn l.hdr), BitVec.ofNat 8 sl] ++ beBytes 4 n
    ++ (if hdrSc l.hdr then be8 l.id.toNat else [])

/-- The output of a seal of source `src` with number `n` (Table 11-4). -/
def CeLine.sealed (l : CeLine) (n param : Nat) (src : List Byte) : List Byte :=
  let s := hdrSuite l.hdr
  if suiteEsp s then
    let p := (4 - (src.length + 2) % 4) % 4
    let pt := src ++ (List.range p).map (fun i => BitVec.ofNat 8 (i + 1)) ++ [BitVec.ofNat 8 p, BitVec.ofNat 8 param]
    beBytes 4 l.id.toNat ++ beBytes 4 n ++ be8 n ++ l.seal (l.nonce n (be8 n)) (l.espAad n) pt
  else if suiteMac s then
    let pt := src.drop 12
    let aad := src.take 12 ++ l.secTag n pt.length
    aad ++ l.seal (l.nonce n []) aad pt
  else
    let aad := [0x17, 0x03, 0x03] ++ beBytes 2 (src.length + 17)
    aad ++ l.seal (l.nonce n []) aad (src ++ [BitVec.ofNat 8 param])

/-- The bytes a job writes, where they follow from its length: seals, MACsec opens and XTS (Table 11-4). -/
def CeLine.outLen (l : CeLine) (len : Nat) : Option Nat :=
  let s := hdrSuite l.hdr
  let tag := if hdrSc l.hdr then 32 else 24
  if suiteXts s then some len
  else if hdrOpen l.hdr then (if suiteMac s then some (len - tag) else none)
  else if suiteEsp s then some (len + (4 - (len + 2) % 4) % 4 + 34)
  else if suiteMac s then some (len + tag)
  else some (len + 22)

/-- The full ESP number of a received low half under ESN (RFC 4303 Appendix A). -/
def esnOf (h w low : Nat) : Nat :=
  let tl := h % 2 ^ 32
  let th := h / 2 ^ 32
  if w ≤ tl + 1 then (if tl + 1 - w ≤ low then th else th + 1) * 2 ^ 32 + low
  else if tl + 1 + 2 ^ 32 - w ≤ low then (th + 2 ^ 32 - 1) % 2 ^ 32 * 2 ^ 32 + low
  else th * 2 ^ 32 + low

/-- The full packet number of a received low half under XPN (IEEE 802.1AE). -/
def xpnOf (h w low : Nat) : Nat :=
  let least := h + 1 - w
  let up := least / 2 ^ 32
  (if 2 ^ 31 ≤ least % 2 ^ 32 ∧ low < 2 ^ 31 then up + 1 else up) * 2 ^ 32 + low

/-- The full number an OPEN of ESP or MACsec reconstructs (R305). -/
def CeLine.fullSeq (l : CeLine) (low : Nat) : Nat :=
  let w := max 1 (hdrWin l.hdr)
  if !hdrExt l.hdr then low
  else if suiteEsp (hdrSuite l.hdr) then esnOf l.seq w low
  else xpnOf l.seq w low

/-- Whether the replay window rejects number `n` (R305). -/
def CeLine.replayed (l : CeLine) (n : Nat) : Bool :=
  let w := hdrWin l.hdr
  if w = 0 then false
  else n == 0 || decide (n + w ≤ l.seq) || (decide (n ≤ l.seq) && (w == 1 || natBits l.bits (l.seq - n) 1 == 1))

/-- The state after number `n` is accepted. -/
def CeLine.accept (l : CeLine) (n : Nat) : CeLine :=
  if l.seq < n then
    { l with seq := n, bits := (if n - l.seq < 128 then l.bits * 2 ^ (n - l.seq) % 2 ^ 128 else 0) ||| 1 }
  else if l.seq - n < 128 then { l with bits := l.bits ||| 2 ^ (l.seq - n) }
  else l

/-- What an open finds: a malformed source, a tag that fails, or the plaintext, its next header or content type, and its number. -/
inductive Opened where
  | parse
  | bad
  | ok (pt : List Byte) (flags n : Nat)
  deriving DecidableEq, Repr

/-- OPEN of ESP (R307). -/
def CeLine.openEsp (l : CeLine) (src : List Byte) : Opened :=
  let len := src.length
  if beNat (src.take 4) ≠ getBits l.id 0 32 ∨ len < 36 ∨ (len - 32) % 4 ≠ 0 then .parse
  else
    let n := l.fullSeq (beNat ((src.drop 4).take 4))
    match l.open_ (l.nonce n ((src.drop 8).take 8)) (l.espAad n) (src.drop 16) with
    | none => .bad
    | some pt =>
      let pad := (nth 0 pt (pt.length - 2)).toNat
      let body := pt.take (pt.length - 2)
      if len - 34 < pad then .parse
      else if body.drop (body.length - pad) ≠ (List.range pad).map (fun i => BitVec.ofNat 8 (i + 1)) then .parse
      else .ok (body.take (body.length - pad)) (nth 0 pt (pt.length - 1)).toNat n

/-- OPEN of MACsec (R307). -/
def CeLine.openMac (l : CeLine) (src : List Byte) : Opened :=
  let head := if hdrSc l.hdr then 28 else 20
  let tci := (nth 0 src 14).toNat
  if src.length < head + 16 ∨ beNat ((src.drop 12).take 2) ≠ 0x88E5 ∨ natBits tci 7 1 ≠ 0 ∨ natBits tci 2 2 ≠ 3 ∨ natBits tci 0 2 ≠ hdrAn l.hdr
      ∨ (hdrSc l.hdr = true ∧ (src.drop 20).take 8 ≠ be8 l.id.toNat) then .parse
  else
    let n := l.fullSeq (beNat ((src.drop 16).take 4))
    match l.open_ (l.nonce n []) (src.take head) (src.drop head) with
    | none => .bad
    | some pt => .ok (src.take 12 ++ pt) 0 n

/-- OPEN of TLS (R307): the type byte and the zero padding go. -/
def CeLine.openTls (l : CeLine) (src : List Byte) : Opened :=
  let n := beNat ((src.drop 3).take 2)
  if src.length < 5 ∨ src.take 3 ≠ [0x17, 0x03, 0x03] ∨ n + 5 ≠ src.length ∨ n < 17 ∨ 16640 < n then .parse
  else
    match l.open_ (l.nonce l.seq []) (src.take 5) (src.drop 5) with
    | none => .bad
    | some pt =>
      match (pt.reverse.dropWhile fun b => b == 0) with
      | [] => .parse
      | t :: rest => .ok rest.reverse t.toNat l.seq

/-- OPEN of any suite with a tag. -/
def CeLine.opened (l : CeLine) (src : List Byte) : Opened :=
  let s := hdrSuite l.hdr
  if suiteEsp s then l.openEsp src else if suiteMac s then l.openMac src else l.openTls src

/-- XTS over whole data units from unit `dun` up (R307); `fuel` bounds the units. -/
def xtsUnits (dec : Bool) (k1 k2 : List Byte) (du : Nat) : Nat → Nat → List Byte → List Byte
  | 0, _, _ => []
  | f + 1, dun, bs =>
    if bs.isEmpty then [] else
      let t := leBytes 16 dun
      (if dec then xtsDec k1 k2 t (bs.take du) else xtsEnc k1 k2 t (bs.take du)) ++ xtsUnits dec k1 k2 du f (dun + 1) (bs.drop du)

/-- XTS of a cached context. -/
def CeLine.xts (l : CeLine) (dec : Bool) (dun : Nat) (bs : List Byte) : List Byte :=
  let k := keyLen (hdrSuite l.hdr)
  xtsUnits dec (l.key1.take k) (l.key2.take k) (hdrDu l.hdr) bs.length dun bs

/-! ### Jobs (R306-R310) -/

/-- A job that ended OK is counted and reported (R310, Table 16-3). -/
def Chip.ceDone (c : Chip) (now len slice : Nat) : Chip := ((c.inc A.CE_JOBS).add A.CE_BYTES len).report 6 slice len (stamp now)

/-- The checks of a context that do not depend on the data: validity comes with the line, then FOREIGN_CONTEXT, SUITE_MISMATCH and
SEQ_LOST (R308). -/
def Chip.ctxCheck (c : Chip) (now : Nat) (l : CeLine) (xts : Bool) (system : Bool) (slice : Nat) : Status × Chip :=
  if !system && hdrOwner l.hdr != slice then (Code.FOREIGN_CONTEXT, c.raise now Flt.CE_FOREIGN_CONTEXT 23 48 slice 0)
  else if suiteXts (hdrSuite l.hdr) != xts then (Code.SUITE_MISMATCH, c)
  else if l.lost then (Code.SEQ_LOST, c)
  else (Code.OK, c)

/-- Whether a request is malformed by its words alone (Table 11-3), and by its context where it has one (R308). -/
def ceBad (r : EngReq) (l : Option CeLine) : Bool :=
  let w0 := nth 0 r.words 0
  let w1 := nth 0 r.words 1
  let w2 := nth 0 r.words 2
  let w3 := nth 0 r.words 3
  let len := getBits w1 16 16
  r.words.length != 4 || getBits w0 21 3 != 0 || getBits w0 56 8 != 0 || getBits w1 48 16 != 0 || getBits w2 24 40 != 0
    || (getBits w0 20 1 == 0 && w2 != 0)
    || (match l with
        | none => false
        | some l =>
          let s := hdrSuite l.hdr
          (suiteXts s && len % hdrDu l.hdr != 0) || (!suiteXts s && w3 != 0)
            || ((suiteEsp s || suiteMac s) && len == 0) || (suiteMac s && !hdrOpen l.hdr && decide (len < 14))
            || (suiteTls s && !hdrOpen l.hdr && decide (16383 < len))
            || (getBits w0 48 8 != 0 && (hdrOpen l.hdr || suiteMac s || suiteXts s)))

/-- Whether the source lies within its space; an identifier that names no bobbin is left to NOT_BOUND. -/
def Chip.ceSrcFits (c : Chip) (r : EngReq) : Bool :=
  let w1 := nth 0 r.words 1
  let id := getBits (nth 0 r.words 2) 0 24
  let last := getBits w1 0 16 + getBits w1 16 16
  if getBits (nth 0 r.words 0) 20 1 = 1 then !c.bobNamed id || decide (last ≤ c.bobSize id)
  else decide (last ≤ if r.valid then r.plen else 0)

/-- Whether `n` bytes of output lie within DST. -/
def Chip.ceDstFits (c : Chip) (r : EngReq) (n : Nat) : Bool :=
  let id := getBits (nth 0 r.words 0) 24 24
  !c.bobNamed id || decide (getBits (nth 0 r.words 1) 32 16 + n ≤ c.bobSize id)

/-- The bobbin a job reads. -/
def ceSrc (r : EngReq) : Nat := if getBits (nth 0 r.words 0) 20 1 = 1 then getBits (nth 0 r.words 2) 0 24 else r.pkt

/-- The source bytes, and whether one is poisoned. -/
def Chip.ceRead (c : Chip) (now : Nat) (r : EngReq) : Bool × List Byte × Chip :=
  let w1 := nth 0 r.words 1
  if c.bobNamed (ceSrc r) then c.bobRead now (c.bobBase (ceSrc r) + getBits w1 0 16) (getBits w1 16 16) r.slice else (false, [], c)

/-- Whether DST is an ALLOC bobbin bound to the requester and SRC is bound to it. -/
def Chip.ceBound (c : Chip) (r : EngReq) : Bool :=
  c.boundTo_ r true (getBits (nth 0 r.words 0) 24 24)
    && (getBits (nth 0 r.words 0) 20 1 == 0 || c.boundTo_ r false (getBits (nth 0 r.words 2) 0 24))

/-- The reply of a job (R309). -/
def ceReply (r : EngReq) (st : Status) (flags value seq : Nat) : List Word := [replyWord st flags r.chan value, BitVec.ofNat 64 seq]

/-- A job ends with a status other than OK. -/
def Chip.ceNo (c : Chip) (r : EngReq) (st : Status) : List Word × Chip :=
  let c := if st = Code.AUTH_FAIL then c.inc A.CE_AUTH_FAIL else if st = Code.REPLAY then c.inc A.CE_REPLAY else c
  (ceReply r st 0 0 0, c)

/-- Writes the output of a job that has verified, then lets `commit` update the sequence state (R308). -/
def Chip.ceOut (c : Chip) (now : Nat) (r : EngReq) (out : List Byte) (flags n : Nat) (commit : Chip → Option Chip) : List Word × Chip :=
  match commit c with
  | none => c.ceNo r Code.ABSENT
  | some d =>
    let id := getBits (nth 0 r.words 0) 24 24
    let at_ := c.bobBase id + getBits (nth 0 r.words 1) 32 16
    let (ok, e) := d.bobStore now at_ out r.slice
    if ok then (ceReply r Code.OK flags out.length n, e.ceDone now (getBits (nth 0 r.words 1) 16 16) r.slice)
    else c.ceNo r Code.POISONED

/-- Sets the state of a cached context, writing a new bound first where number `n` is beyond the old one, or where word 3 holds the exact state
that FLUSH left (R304): that bound lies beyond all the state. -/
def Chip.advance (l l' : CeLine) (n : Nat) (c : Chip) : Option Chip :=
  match l.bound with
  | some p => if n < p then some (c.putLine l') else (c.writeBound l' (n + c.ckpt)).map (·.2)
  | none => (c.writeBound l' (max n l.seq + c.ckpt)).map (·.2)

/-- A seal of a context with a tag (R305). -/
def Chip.ceSeal (c : Chip) (now : Nat) (r : EngReq) (l : CeLine) (src : List Byte) : List Word × Chip :=
  if seqMax l.hdr < l.seq then c.ceNo r Code.SEQ_EXHAUSTED
  else
    c.ceOut now r (l.sealed l.seq (getBits (nth 0 r.words 0) 48 8) src) 0 l.seq (Chip.advance l { l with seq := l.seq + 1 } l.seq)

/-- An open of a context with a tag (R305): the window is checked once the tag has verified. -/
def Chip.ceOpen (c : Chip) (now : Nat) (r : EngReq) (l : CeLine) (src : List Byte) : List Word × Chip :=
  if suiteTls (hdrSuite l.hdr) && decide (seqMax l.hdr < l.seq) then c.ceNo r Code.SEQ_EXHAUSTED
  else
    match l.opened src with
    | .parse => c.ceNo r Code.PARSE
    | .bad => c.ceNo r Code.AUTH_FAIL
    | .ok pt flags n =>
      if !c.ceDstFits r pt.length then c.ceNo r Code.BAD_ARGUMENT
      else if suiteTls (hdrSuite l.hdr) then c.ceOut now r pt flags n (Chip.advance l { l with seq := l.seq + 1 } n)
      else if l.replayed n then c.ceNo r Code.REPLAY
      else c.ceOut now r pt flags n (Chip.advance l (l.accept n) n)

/-- A job whose context has been read, its source bytes at hand (R308). -/
def Chip.ceRun (c : Chip) (now : Nat) (r : EngReq) (l : CeLine) (src : List Byte) : List Word × Chip :=
  let (st, c) := c.ctxCheck now l (r.chan == 641) r.system r.slice
  if st ≠ Code.OK then c.ceNo r st
  else if suiteXts (hdrSuite l.hdr) then
    c.ceOut now r (l.xts (hdrOpen l.hdr) (nth 0 r.words 3).toNat src) 0 0 some
  else if hdrOpen l.hdr then c.ceOpen now r l src
  else c.ceSeal now r l src

/-- A cipher job (R308). -/
def Chip.cipherJob (c : Chip) (now : Nat) (r : EngReq) : List Word × Chip :=
  if ceBad r none || !c.ceSrcFits r then c.ceNo r Code.BAD_ARGUMENT
  else
    let (st, l, c) := c.ctxGet now (getBits (nth 0 r.words 0) 0 20) r.slice
    let out := (l.bind fun l => l.outLen (getBits (nth 0 r.words 1) 16 16)).getD 0
    if st = Code.BAD_ARGUMENT || ceBad r l || !c.ceDstFits r out then c.ceNo r Code.BAD_ARGUMENT
    else if st = Code.ABSENT then c.ceNo r st
    else
      let (bad, src, c) := c.ceRead now r
      if bad || st = Code.POISONED then c.ceNo r Code.POISONED
      else if !c.ceBound r then c.ceNo r Code.NOT_BOUND
      else
        match l with
        | none => c.ceNo r st
        | some l => c.ceRun now r l src

/-- One data unit of XTS work for the Storage Transport Engine (R314): none where the job fails. `owner` is the connection's. -/
def Chip.xtsUnit (c : Chip) (now owner ctx dun : Nat) (dec : Bool) (bs : List Byte) : Option (List Byte) × Chip :=
  if !c.up 40 then (none, c)
  else
    let (st, l, c) := c.ctxGet now ctx owner
    match l with
    | none => (none, c)
    | some l =>
      let (chk, c) := c.ctxCheck now l true (owner == 0) owner
      if st ≠ Code.OK ∨ chk ≠ Code.OK ∨ bs.length ≠ hdrDu l.hdr then (none, c)
      else (some (l.xts dec dun bs), c.ceDone now bs.length owner)

/-! ### CE_CTX_CMD (R302, R303) -/

/-- Ends an operation: its status is shown and the blob registers are cleared. -/
def Chip.ceCmdEnd (c : Chip) (st : Status) : Chip :=
  let c := (List.range 9).foldl (fun (c : Chip) i => c.wr (A.CE_CTX_BLOB i) 0) c
  (c.set A.CE_CTX_STAT F.CE_CTX_STAT_STATUS st).setFlag A.CE_CTX_STAT F.CE_CTX_STAT_BUSY (!c.ce.removes.isEmpty)

/-- Whether a staged field is out of range (R302, Table 11-2). -/
def stagedBad (h id : Word) (seq : Nat) : Bool :=
  let s := hdrSuite h
  let seqd := suiteEsp s || suiteMac s
  s == 0 || decide (9 < s) || getBits h 31 1 != 0 || getBits h 34 30 != 0
    || (hdrExt h && !seqd) || decide (128 < hdrWin h) || (hdrWin h != 0 && !(seqd && hdrOpen h))
    || (getBits h 32 2 != 0 && (decide (1 < getBits h 32 2) || !suiteXts s))
    || (suiteEsp s && getBits id 32 32 != 0) || (!seqd && id != 0)
    || (seqd && !hdrOpen h && seq == 0) || decide (seqMax h + (if hdrOpen h then 0 else 1) < seq)

/-- `n` free bytes (entry 2). -/
def Chip.freshBytes : Nat → Chip → List Byte × Chip
  | 0, c => ([], c)
  | n + 1, c =>
    let (v, c) := c.fresh
    let (bs, c) := Chip.freshBytes n c
    (leBytes 8 v ++ bs, c)

/-- INSTALL (R302); the wrapped words and the tag are free values the wrapping key opens (entry 41). -/
def Chip.ctxInstall (c : Chip) (now n ktk : Nat) : Chip :=
  let h := (c.rd A.CE_CTX_HDR &&& ~~~ 0x10#64) ||| 0x10#64
  let id := c.rd A.CE_CTX_ID
  let seq := (c.rd A.CE_CTX_SEQ).toNat
  if stagedBad (c.rd A.CE_CTX_HDR) id seq then c.ceCmdEnd Code.BAD_ARGUMENT
  else
    match c.ctxWord n with
    | none => c.ceCmdEnd Code.BAD_ARGUMENT
    | some (e, w) =>
      if !c.ctxReady e w then c.ceCmdEnd Code.ABSENT
      else
        let blob := ofWords ((List.range 9).map fun i => c.rd (A.CE_CTX_BLOB i))
        let kek := mget [] c.cmd.keys (16 + ktk)
        match if kek.length = 32 then keyUnwrap kek blob else none with
        | none => c.ceCmdEnd Code.UNWRAP_FAIL
        | some keys =>
          match Chip.readQdrs now e 0 4 w c with
          | (.absent, c) => c.ceCmdEnd Code.ABSENT
          | (old, c) =>
            let busy := match old with
              | .ok bs => getBits (leWord bs) 4 1 == 1 && mget 0 c.ce.bad n != 2
              | _ => false
            if busy then c.ceCmdEnd Code.CTX_BUSY
            else
              let (free, c) := Chip.freshBytes 10 c
              let w0 := leBytes 8 h.toNat ++ leBytes 8 id.toNat ++ free.take 16
              let w1 := (free.drop 16).take 32
              let w2 := (free.drop 48).take 32
              let c := ((c.writeQdr e w w0).writeQdr e (w + 1) w1).writeQdr e (w + 2) w2
              let c := c.writeQdr e (w + 3) (word3 seq 0 true)
              let c := c.setCe { c.ce with wraps := ⟨w0 ++ w1 ++ w2, keys.take 32, keys.drop 32⟩ :: c.ce.wraps,
                                           bad := mset 0 c.ce.bad n 0, cache := c.ce.cache.filter fun l => l.ctx != n }
              c.ceCmdEnd Code.OK

/-- REMOVE (R302): it waits for the jobs already accepted for the context. -/
def Chip.ctxRemove (c : Chip) (now n : Nat) : Chip :=
  if (c.ctxWord n).isNone then c.ceCmdEnd Code.BAD_ARGUMENT
  else (c.setCe { c.ce with removes := c.ce.removes ++ [(n, now)] }).ceCmdEnd Code.OK

/-- Whether a job accepted at or before `t` for context `n` has not completed. -/
def Chip.ctxJobs (c : Chip) (n t : Nat) : Bool :=
  c.reqs.any fun r => (r.chan == 640 || r.chan == 641) && !r.owed && getBits (nth 0 r.words 0) 0 20 == n && decide (r.sent ≤ t)

/-- The removal of context `n` takes effect once no such job is left: VALID = 0 and zero key words (R302). -/
def Chip.removeEffect (c : Chip) (now n : Nat) : Chip :=
  match c.ce.removes.find? fun p => p.1 == n with
  | none => c
  | some p =>
    if !c.up 40 || c.ctxJobs n p.2 then c
    else
      let c := c.setCe { c.ce with removes := c.ce.removes.filter fun q => q.1 != n, cache := c.ce.cache.filter fun l => l.ctx != n }
      match c.ctxWord n with
      | none => c.ceCmdEnd Code.BAD_ARGUMENT
      | some (e, w) =>
        if !c.ctxReady e w then c.ceCmdEnd Code.ABSENT
        else
          let (old, c) := c.readQdr now e w 0
          let bs := match old with
            | .ok bs => leBytes 8 ((leWord bs) &&& ~~~ 0x10#64).toNat ++ bs.drop 8
            | _ => leBytes 32 0
          (((c.writeQdr e w bs).writeQdr e (w + 1) (leBytes 32 0)).writeQdr e (w + 2) (leBytes 32 0)).ceCmdEnd Code.OK

/-- FLUSH (R303): every cached context's exact state is written; ABSENT where one could not be. -/
def Chip.ctxFlush (c : Chip) : Chip :=
  let (st, c) := c.ce.cache.foldl (fun (a : Status × Chip) l =>
    match a.2.writeExact l with
    | some (l', d) => (a.1, d.setCe { d.ce with cache := d.ce.cache.map fun x => if x.ctx = l'.ctx then l' else x })
    | none => (Code.ABSENT, a.2)) (Code.OK, c)
  c.ceCmdEnd st

/-- READ_STATE (R319): SEQ of the context, exact if it is cached. -/
def Chip.ctxState (c : Chip) (now n : Nat) : Chip :=
  match c.ctxWord n with
  | none => c.ceCmdEnd Code.BAD_ARGUMENT
  | some (e, w) =>
    match c.ce.cache.find? fun l => l.ctx == n with
    | some l => (c.wr A.CE_CTX_STATE (BitVec.ofNat 64 l.seq)).ceCmdEnd Code.OK
    | none =>
      match c.readQdr now e (w + 3) 0 with
      | (.absent, c) => c.ceCmdEnd Code.ABSENT
      | (.poisoned, c) => c.ceCmdEnd Code.POISONED
      | (.ok bs, c) => (c.wr A.CE_CTX_STATE (leWord bs)).ceCmdEnd Code.OK

/-- A write of CE_CTX_CMD that its checks accept. -/
def Chip.ctxCmd (c : Chip) (now : Nat) (v : Word) : Chip :=
  let n := getBits v 0 20
  match getBits v 20 3 with
  | 1 => c.ctxInstall now n (getBits v 24 2)
  | 2 => c.ctxRemove now n
  | 3 => c.ctxFlush
  | _ => c.ctxState now n

/-- The CE domain loses the cache (R304); the wrapping key and the contexts in QDR stay. -/
def Chip.ceLose (c : Chip) : Chip :=
  let c := c.setCe { c.ce with cache := [], bad := [], removes := [] }
  c.setFlag A.CE_CTX_STAT F.CE_CTX_STAT_BUSY false

end Sys2Proof.Machine
end

