-- ==== Sys2Proof/Machine/StorageOps.lean ====
section
/-! DEFINITION. The Storage Transport Engine (spec/11_cipher_storage.md, R311-R317): connections, the PDU stream of NVMe/TCP, placement,
the PDU ring, losses. -/

namespace Sys2Proof.Machine

/-! ### Connections (R311) -/

/-- A field of ST_CONN(n). -/
def Chip.sc (c : Chip) (n : Nat) (f : Fld) : Nat := c.get (A.ST_CONN n) f

/-- What connection `n` holds beyond its registers. -/
def Chip.conn (c : Chip) (n : Nat) : StConn := mget StConn.init c.sto.conns n

/-- Replaces it. -/
def Chip.setConn (c : Chip) (n : Nat) (x : StConn) : Chip := { c with sto := { c.sto with conns := mset StConn.init c.sto.conns n x } }

/-- The codes of ST_CONN_STAT.STATE. -/
def stIdle : Nat := 0
def stHeader : Nat := 1
def stData : Nat := 2
def stDigest : Nat := 3
def stLost : Nat := 4

/-- Sets ST_CONN_STAT(n).STATE. -/
def Chip.setStState (c : Chip) (n st : Nat) : Chip := c.set (A.ST_CONN_STAT n) F.ST_CONN_STAT_STATE st

/-- ST_CONN_STAT(n).STATE. -/
def Chip.stState (c : Chip) (n : Nat) : Nat := c.get (A.ST_CONN_STAT n) F.ST_CONN_STAT_STATE

/-- The endpoint of a connection, and the home its ring entries go on (R314, R336). -/
def Chip.stEp (c : Chip) (n : Nat) : Nat := c.sc n F.ST_CONN_ENDPOINT
def Chip.stHome (c : Chip) (n : Nat) : Nat := if c.twin then c.sliceHome (c.sc n F.ST_CONN_OWNER) else c.stEp n

/-- Slots of the PDU ring. -/
def Chip.stSize (c : Chip) (n : Nat) : Nat := 2 ^ c.sc n F.ST_CONN_RING_LOG2

/-- The connections with VALID = 1 counted for a slice rise or fall by one (R351). -/
def Chip.stUsed (c : Chip) (s : Nat) (up : Bool) : Chip :=
  let a := A.SM_SLICE s
  let u := c.get a F.SM_SLICE_ST_USED
  let c := c.set a F.SM_SLICE_ST_USED (if up then u + 1 else u - 1)
  if up then c else { c with due := c.due ++ [.usage s] }

/-- The checks of a PUT of ST_CONN(n) that leaves `c`, with words `old` before it (R311, R351). -/
def Chip.connCheck (c : Chip) (now n : Nat) (old : List Word) : Status :=
  let w (k : Nat) : Word := c.rd (A.ST_CONN n + 8 * k)
  let was := getBits (nth 0 old 0) 0 1 == 1
  let f := c.sc n
  let s := f F.ST_CONN_OWNER
  if f F.ST_CONN_RING_LOG2 < 4 ∨ 12 < f F.ST_CONN_PLACE_LOG2 ∨ f F.ST_CONN_RING_ADDR % 128 ≠ 0 ∨ f F.ST_CONN_PLACE_ADDR % 32 ≠ 0
      ∨ c.stSize n ≤ f F.ST_CONN_TAIL then Code.BAD_ARGUMENT
  else if was then
    if setBits (w 0) 32 32 0 == setBits (nth 0 old 0) 32 32 0 && w 1 == nth 0 old 1 && w 3 == nth 0 old 3
        && setBits (w 2) 32 16 0 == setBits (nth 0 old 2) 32 16 0 then Code.OK
    else Code.CONN_BUSY
  else if f F.ST_CONN_VALID = 1 ∧ s ≠ 0 ∧ (getBits (c.rdAt (stamp now) (A.SM_SLICE s + 8)) 33 16 < c.get (A.SM_SLICE s) F.SM_SLICE_ST_USED + 1
      ∨ c.drains s F.SM_RESIZE_REL_ST = true) then Code.QUOTA
  else Code.OK

/-- What an accepted PUT of ST_CONN(n) does: a connection that becomes valid starts at HEADER with an empty ring, a new EXP_SEQ
resynchronises (R311). -/
def Chip.connPut (c : Chip) (n : Nat) (old : List Word) : Chip :=
  let was := getBits (nth 0 old 0) 0 1 == 1
  let fresh (c : Chip) (phase : Bool) : Chip :=
    (c.setConn n { StConn.init with first := c.sc n F.ST_CONN_EXP_SEQ, phase := phase }).setStState n stHeader
  if was then
    if getBits (nth 0 old 0) 32 32 = c.sc n F.ST_CONN_EXP_SEQ then c else (fresh c (c.conn n).phase).setSram 12 n 0
  else if c.sc n F.ST_CONN_VALID = 1 then
    let c := ((fresh c true).set (A.ST_CONN n) F.ST_CONN_HEAD 0).deadReqs fun r => match r.use with
      | .place m _ => m == n
      | _ => false
    let c := { c with sto := { c.sto with cache := c.sto.cache.filter fun p => p.1.1 != n, failed := c.sto.failed.filter fun p => p.1.1 != n } }
    let c := c.setSram 12 n 0
    c.stUsed (c.sc n F.ST_CONN_OWNER) true
  else c

/-- The connections with VALID = 1. -/
def Chip.validConns (c : Chip) : List Nat :=
  c.regs.filterMap fun p =>
    if 0xC0100000 ≤ p.1 ∧ p.1 < 0xC0200000 ∧ p.1 % 32 = 0 ∧ getBits p.2 0 1 = 1 then some ((p.1 - 0xC0100000) / 32) else none

/-- A reset or power-down of the domain clears every connection to VALID = 0 (R311). -/
def Chip.stClear (c : Chip) : Chip :=
  let c := c.validConns.foldl (fun (c : Chip) n =>
    ((c.stUsed (c.sc n F.ST_CONN_OWNER) false).setFlag (A.ST_CONN n) F.ST_CONN_VALID false).setStState n stIdle) c
  { c.deadReqs fun r => match r.use with
      | .place _ _ => true
      | _ => false with sto := StSt.init }

/-! ### The PDU ring (R315) -/

/-- A ring entry (Table 11-6). -/
def ringEntry (seq plen flags hlen placed : Nat) (hdr : List Byte) : List Byte :=
  let n := min hlen 96
  let h := hdr.take n
  leBytes 4 seq ++ leBytes 4 plen ++ leBytes 2 flags ++ leBytes 2 h.length ++ leBytes 4 placed ++ List.replicate 16 0
    ++ h ++ List.replicate (112 - 16 - h.length) 0

/-- Writes an entry at HEAD, which advances; a ring that becomes non-empty fires INTR of OWNER. -/
def Chip.ringPut (c : Chip) (now n seq plen flags hlen placed : Nat) (hdr : List Byte) : Chip :=
  let x := c.conn n
  let head := c.sc n F.ST_CONN_HEAD
  let size := c.stSize n
  let s := c.sc n F.ST_CONN_OWNER
  let (f, pasid) := c.sliceFn s
  let bs := ringEntry seq plen (flags + if x.phase then 1 else 0) hlen placed hdr
  let was := head == c.sc n F.ST_CONN_TAIL
  let c := c.writeOrdered now (c.stHome n) f pasid (c.sc n F.ST_CONN_RING_ADDR + 128 * head) bs
  let next := (head + 1) % size
  let c := (c.set (A.ST_CONN n) F.ST_CONN_HEAD next).setConn n { x with phase := if next = 0 then !x.phase else x.phase }
  if was then c.fireMsg now s (c.sc n F.ST_CONN_INTR) else c

/-- Loss reasons of Table 11-6. -/
def lossGap : Nat := 1
def lossHdgst : Nat := 2
def lossFull : Nat := 3
def lossHost : Nat := 4
def lossPdu : Nat := 5
def lossPoison : Nat := 6
def lossXts : Nat := 7

/-- Connection `n` is lost at stream byte `seq` (R315): its entry may use the kept slot. -/
def Chip.lose (c : Chip) (now n seq reason : Nat) : Chip :=
  let x := c.conn n
  let c := ((c.inc A.ST_LOST).setStState n stLost).set (A.ST_CONN_STAT n) F.ST_CONN_STAT_REASON reason
  let c := c.set (A.ST_CONN n) F.ST_CONN_EXP_SEQ seq
  let room := decide ((c.sc n F.ST_CONN_HEAD + 1) % c.stSize n ≠ c.sc n F.ST_CONN_TAIL)
  if room && c.jobStatus (c.sc n F.ST_CONN_OWNER) (c.stEp n) == Code.OK then
    let long := decide (8 ≤ x.hdr.length) && decide (96 < (nth 0 x.hdr 2).toNat)
    let flags := (x.flags ||| if long then 32 else 0) + 64 + 256 * reason + (if reason = lossHdgst then 2 else 0)
    c.ringPut now n seq (if 8 ≤ x.hdr.length then leNat ((x.hdr.drop 4).take 4) else 0) flags (min x.hdr.length (nth 0 x.hdr 2).toNat)
      x.placed x.hdr
  else c

/-! ### PDUs (R313, NVMe/TCP) -/

/-- The common header of a PDU: type, flags, HLEN, PDO, PLEN. -/
def pduType (h : List Byte) : Nat := (nth 0 h 0).toNat
def pduHd (h : List Byte) : Bool := natBits (nth 0 h 1).toNat 0 1 == 1
def pduDd (h : List Byte) : Bool := natBits (nth 0 h 1).toNat 1 1 == 1
def pduHlen (h : List Byte) : Nat := (nth 0 h 2).toNat
def pduPdo (h : List Byte) : Nat := (nth 0 h 3).toNat
def pduLen (h : List Byte) : Nat := leNat ((h.drop 4).take 4)

/-- The header with its digest. -/
def pduHead (h : List Byte) : Nat := pduHlen h + if pduHd h then 4 else 0

/-- Whether a PDU has data, where it begins and where it ends. -/
def pduHasData (h : List Byte) : Bool := decide (pduHead h < pduLen h)
def pduStart (h : List Byte) : Nat := if pduHasData h then pduPdo h else pduHead h
def pduEnd (h : List Byte) : Nat := if pduHasData h then pduLen h - (if pduDd h then 4 else 0) else pduHead h

/-- Whether a common header is inconsistent (R313): `hd` and `dd` are the digests negotiated. -/
def pduBad (hd dd : Bool) (h : List Byte) : Bool :=
  decide (pduHlen h < 8) || decide (pduLen h < pduHead h) || (pduHd h && !hd) || (pduDd h && !dd)
    || (pduHasData h && (decide (pduPdo h < pduHead h) || decide (pduEnd h < pduPdo h)))

/-- The data PDU fields: CID, DATAO, DATAL. -/
def pduCid (h : List Byte) : Nat := leNat ((h.drop 8).take 2)
def pduDatao (h : List Byte) : Nat := leNat ((h.drop 12).take 4)
def pduDatal (h : List Byte) : Nat := leNat ((h.drop 16).take 4)

/-- The digest of bytes as NVMe/TCP stores it. -/
def digestOf (bs : List Byte) : List Byte := leBytes 4 (crc32c bs)

/-! ### Placement (R314) -/

/-- Why a request stops short of its end: its connection is lost, with the code the request ends with; entry `i` of the placement table is to be
read first; or a host access waits for the link of the endpoint or for a mover. -/
inductive StStop where
  | lost (reason : Nat) (st : Status)
  | entry (i : Nat)
  | wait
  deriving DecidableEq, Repr

/-- What keeps connection `n` from a host access of `k` bytes, which is a job of a mover (R314, R373): none where nothing does. -/
def Chip.stHost (c : Chip) (n k : Nat) : Option StStop :=
  let s := c.sc n F.ST_CONN_OWNER
  if c.jobStatus s (c.stEp n) ≠ Code.OK then some (.lost lossHost Code.LOST)
  else if c.jobCan s (c.stEp n) && c.moverFree (c.stEp n) k then none
  else some .wait

/-- Entry `i` of the placement table of connection `n` (R314): from the cache, else why it is not there. -/
def Chip.placement (c : Chip) (n i : Nat) : Except StStop (List Word) :=
  match c.sto.cache.find? fun p => p.1 == (n, i) with
  | some p => .ok p.2
  | none =>
    match c.sto.failed.find? fun p => p.1 == (n, i) with
    | some p => .error (.lost (if p.2 = Code.POISONED then lossPoison else lossHost) p.2)
    | none => .error ((c.stHost n 32).getD (.entry i))

/-- Reads entry `i` of the placement table of connection `n` from host memory, unless a read of it is under way (R314, R323). -/
def Chip.entryRead (c : Chip) (now n i : Nat) : Chip :=
  if [0, 1].any fun e => (c.reqsOf e).any fun p => p.2.use == .place n i && !p.2.dead then c
  else
    let (f, pasid) := c.sliceFn (c.sc n F.ST_CONN_OWNER)
    let a := c.sc n F.ST_CONN_PLACE_ADDR + 32 * i
    (c.issueRead now (c.stripe (c.stEp n) a) f pasid a 32 (.place n i)).2

/-- Where the data of a PDU with header `h` goes (R314): none where its entry does not fit. XTS is left out where DATAO is no multiple of
the data unit; the flag says that the XTS context cannot be used. -/
def Chip.destOf (c : Chip) (now n : Nat) (h : List Byte) (ws : List Word) : Option StDest × Bool × Chip :=
  let w1 := nth 0 ws 1
  let o := pduDatao h
  if getBits w1 48 1 = 0 ∨ getBits w1 32 16 ≠ pduCid h ∨ getBits w1 0 32 < o + pduDatal h then (none, false, c)
  else
    let addr := (nth 0 ws 0).toNat + o
    if getBits w1 49 1 = 0 then (some ⟨addr, none⟩, false, c)
    else
      let ns := A.ST_NS (getBits w1 50 12)
      let ctx := c.get ns F.ST_NS_CTX
      if !c.flag ns F.ST_NS_VALID || !c.up 40 then (none, true, c)
      else
        let (_, l, c) := c.ctxGet now ctx (c.sc n F.ST_CONN_OWNER)
        match l with
        | none => (none, true, c)
        | some l =>
          let du := hdrDu l.hdr
          if o % du ≠ 0 then (some ⟨addr, none⟩, false, c)
          else (some ⟨addr, some (ctx, (nth 0 ws 3).toNat + o / du, du)⟩, false, c)

/-! ### The stream (R312-R315) -/

/-- A receive request under way: the chip, the connection, the bytes placed, the PDUs that ended, and what has stopped it. -/
structure StRun where
  chip   : Chip
  x      : StConn
  placed : Nat
  ended  : Nat
  stop   : Option StStop

/-- Places bytes at host address `a`, if the endpoint takes the write. -/
def StRun.put (r : StRun) (n a : Nat) (bs : List Byte) : StRun :=
  let c := r.chip
  if (c.stHost n bs.length).isSome then { r with stop := c.stHost n bs.length } else
  let (f, pasid) := c.sliceFn (c.sc n F.ST_CONN_OWNER)
  let c := (c.writeData (c.stEp n) f pasid a bs (bs.map fun _ => false)).add A.ST_PLACED_BYTES bs.length
  { r with chip := c, placed := r.placed + bs.length, x := { r.x with placed := r.x.placed + bs.length, flags := r.x.flags ||| 8 } }

/-- Places the whole data units buffered, from data offset `off` on; `fuel` bounds them. -/
def StRun.units (now n : Nat) (dec : Bool) (addr ctx dun du : Nat) : Nat → StRun → StRun
  | 0, r => r
  | f + 1, r =>
    if r.stop.isSome || r.x.buf.length < du || du = 0 then r
    else
      let (out, c) := r.chip.xtsUnit now (r.chip.sc n F.ST_CONN_OWNER) ctx dun dec (r.x.buf.take du)
      match out with
      | none => { r with chip := c, stop := some (.lost lossXts Code.LOST) }
      | some bs =>
        let r := { r with chip := c, x := { r.x with buf := r.x.buf.drop du, flags := r.x.flags ||| 16 } }
        StRun.units now n dec addr ctx (dun + 1) du f (r.put n (addr + r.x.placed) bs)

/-- Takes data bytes of a PDU that is placed (R314). -/
def StRun.data (r : StRun) (now n : Nat) (bs : List Byte) : StRun :=
  match r.x.dest with
  | none => r
  | some d =>
    match d.xts with
    | none => r.put n (d.addr + r.x.placed) bs
    | some (ctx, dun, du) =>
      let dec := r.chip.sc n F.ST_CONN_ROLE == 0
      let r := { r with x := { r.x with buf := r.x.buf ++ bs } }
      StRun.units now n dec d.addr ctx (dun + r.x.placed / du) du (r.x.buf.length + 1) r

/-- The header of a PDU is complete: its digest is checked, its entry looked up. -/
def StRun.headed (r : StRun) (now n : Nat) : StRun :=
  let c := r.chip
  let h := r.x.hdr
  if pduHd h ∧ digestOf (h.take (pduHlen h)) ≠ (h.drop (pduHlen h)).take 4 then { r with stop := some (.lost lossHdgst Code.LOST) }
  else
    let r := { r with x := { r.x with flags := if 96 < pduHlen h then 32 else 0 } }
    let typ := if c.sc n F.ST_CONN_ROLE = 0 then 7 else 6
    if c.sc n F.ST_CONN_PLACE = 0 ∨ pduType h ≠ typ ∨ !pduHasData h then r
    else
      let i := pduCid h % 2 ^ c.sc n F.ST_CONN_PLACE_LOG2
      match c.placement n i with
      | .error why => { r with stop := some why }
      | .ok ws =>
        let (dest, bad, c) := (c.entryKeep n i ws).destOf now n h ws
        let r := { r with chip := c }
        if bad then { r with stop := some (.lost lossXts Code.LOST) }
        else { r with x := { r.x with dest := dest, flags := if dest.isNone then r.x.flags ||| 128 else r.x.flags } }

/-- A PDU has ended (R315): its ring entry, or the loss of a connection whose ring is full; a data unit left over is a failed XTS job. -/
def StRun.close (r : StRun) (now n : Nat) : StRun :=
  let c := r.chip
  let x := r.x
  let h := x.hdr
  if !x.buf.isEmpty then { r with stop := some (.lost lossXts Code.LOST) }
  else if (c.sc n F.ST_CONN_HEAD + 2) % c.stSize n = c.sc n F.ST_CONN_TAIL then { r with stop := some (.lost lossFull Code.LOST) }
  else if (c.stHost n 128).isSome then { r with stop := c.stHost n 128 }
  else
    let bad := pduDd h && pduHasData h && decide (leBytes 4 (x.crc ^^^ 0xFFFFFFFF) ≠ x.dig)
    let c := if bad then c.inc A.ST_DDGST_BAD else c
    let c := (c.setConn n x).ringPut now n x.first (pduLen h) (x.flags + if bad then 4 else 0) (pduHlen h) x.placed h
    let c := c.report 7 (c.sc n F.ST_CONN_OWNER) 1 (stamp now)
    { r with chip := c, ended := r.ended + 1, x := { StConn.init with first := (x.first + x.pos) % 2 ^ 32, phase := (c.conn n).phase } }

/-- What part of the PDU under way the next byte belongs to: the common header, the rest of the header and its digest, the bytes skipped,
the data, the data digest. -/
inductive PduPart where
  | common
  | header
  | skip
  | data
  | digest
  deriving DecidableEq, Repr

/-- The part of the PDU the next byte belongs to, and the bytes left of that part. -/
def StConn.part (x : StConn) : PduPart × Nat :=
  let h := x.hdr
  if h.length < 8 then (.common, 8 - h.length)
  else if h.length < pduHead h then (.header, pduHead h - h.length)
  else if x.pos < pduStart h then (.skip, pduStart h - x.pos)
  else if x.pos < pduEnd h then (.data, pduEnd h - x.pos)
  else (.digest, pduLen h - x.pos)

/-- Takes a run of bytes that lie in one part of the PDU. -/
def StRun.take (r : StRun) (now n : Nat) (p : PduPart) (bs : List Byte) : StRun :=
  let c := r.chip
  let x := { r.x with pos := r.x.pos + bs.length }
  match p with
  | .common =>
    let r := { r with x := { x with hdr := x.hdr ++ bs } }
    if r.x.hdr.length < 8 then r
    else if pduBad (c.sc n F.ST_CONN_HDGST == 1) (c.sc n F.ST_CONN_DDGST == 1) r.x.hdr then { r with stop := some (.lost lossPdu Code.LOST) }
    else if pduHead r.x.hdr = 8 then r.headed now n
    else r
  | .header =>
    let r := { r with x := { x with hdr := x.hdr ++ bs } }
    if r.x.hdr.length = pduHead r.x.hdr then r.headed now n else r
  | .skip => { r with x := x }
  | .data => { r with x := { x with crc := crcBytes x.crc bs } }.data now n bs
  | .digest => { r with x := { x with dig := x.dig ++ bs } }

/-- Follows the stream over bytes; `fuel` bounds the runs. -/
def StRun.follow (now n : Nat) : Nat → List Byte → StRun → StRun
  | 0, _, r => r
  | f + 1, bs, r =>
    if bs.isEmpty || r.stop.isSome then r
    else
      let (p, k) := r.x.part
      let r := r.take now n p (bs.take k)
      let full := decide (8 ≤ r.x.hdr.length) && decide (pduHead r.x.hdr ≤ r.x.hdr.length) && decide (pduLen r.x.hdr ≤ r.x.pos)
      let r := if full && r.stop.isNone then r.close now n else r
      StRun.follow now n f (bs.drop k) r

/-- ST_CONN_STAT.STATE of a connection that is not lost. -/
def StConn.shown (x : StConn) : Nat :=
  match x.part.1 with
  | .data => stData
  | .digest => stDigest
  | _ => stHeader

/-- The checks of a request on channel 672 or 673 that name its connection (R312). -/
def Chip.stCheck (c : Chip) (now : Nat) (r : EngReq) (n : Nat) : Status × Chip :=
  let s := c.sc n F.ST_CONN_OWNER
  if c.sc n F.ST_CONN_VALID = 0 then (Code.CONN_INVALID, c)
  else if !r.system && s != r.slice then (Code.FOREIGN_CONN, c.raise now Flt.ST_FOREIGN_CONN 23 49 r.slice 0)
  else (Code.OK, c)

/-- The reply of a receive request (R312). -/
def Chip.stReply (c : Chip) (r : EngReq) (n : Nat) (st : Status) (placed ended : Nat) : List Word × Chip :=
  ([replyWord st (if ended = 0 then 0 else 1) r.chan placed,
    BitVec.ofNat 64 (c.sc n F.ST_CONN_EXP_SEQ + ended % 2 ^ 16 * 2 ^ 32)], c)

/-- A receive request ends with a loss. -/
def Chip.stLose (c : Chip) (now : Nat) (r : EngReq) (n seq reason : Nat) (st : Status) (placed ended : Nat) : List Word × Chip :=
  (c.lose now n seq reason).stReply r n st placed ended

/-- The reply of a request that ends, and no reason for it to wait. -/
def ends (x : List Word × Chip) : List Word × Chip × Option StStop := (x.1, x.2, none)

/-- A segment for a connection that is not lost (R312-R315): `bs` are its bytes from EXP_SEQ on. -/
def Chip.stSegment (c : Chip) (now : Nat) (r : EngReq) (n : Nat) (bs : List Byte) : List Word × Chip × Option StStop :=
  let run := StRun.follow now n (bs.length + 1) bs ⟨c, c.conn n, 0, 0, none⟩
  let c := run.chip.setConn n run.x
  let seq := (run.x.first + run.x.pos) % 2 ^ 32
  match run.stop with
  | none => ends (((c.set (A.ST_CONN n) F.ST_CONN_EXP_SEQ seq).setStState n run.x.shown).stReply r n Code.OK run.placed run.ended)
  | some (.lost reason st) => ends (c.stLose now r n seq reason st run.placed run.ended)
  | some why => ([], c, some why)

/-- A receive request (R312-R315): the reply and the chip after it, or why the request waits. The codes come in the order of R16. -/
def Chip.stReceive (c : Chip) (now : Nat) (r : EngReq) : List Word × Chip × Option StStop :=
  let c := c.inc A.ST_RX_SEGS
  let w0 := nth 0 r.words 0
  let w1 := nth 0 r.words 1
  let n := getBits w0 0 15
  let off := getBits w0 16 16
  let len := getBits w0 32 16
  let no (st : Status) (c : Chip) : List Word × Chip × Option StStop := ends (c.stReply r n st 0 0)
  if r.words.length ≠ 2 ∨ getBits w0 15 1 ≠ 0 ∨ getBits w0 48 16 ≠ 0 ∨ getBits w1 32 32 ≠ 0
      ∨ (if r.valid then r.plen else 0) < off + len then no Code.BAD_ARGUMENT c
  else
    let (bad, c) := c.readSram now 12 n 0 (c.sc n F.ST_CONN_OWNER)
    let (p, bs, c) := if c.bobNamed r.pkt then c.bobRead now (c.bobBase r.pkt + off) len r.slice else (false, [], c)
    let (st, d) := c.stCheck now r n
    let e := c.sc n F.ST_CONN_EXP_SEQ
    let s := getBits w1 0 32
    let ahead := (s + 2 ^ 32 - e) % 2 ^ 32
    let behind := (e + 2 ^ 32 - s) % 2 ^ 32
    let gap := decide (0 < ahead) && decide (ahead < 2 ^ 31)
    let old := !gap && decide (len ≤ behind)
    if (bad || p) && (st != Code.OK || c.stState n == stLost || old) then no Code.POISONED c
    else if st ≠ Code.OK then no st d
    else if c.stState n = stLost then no Code.LOST c
    else if old then no Code.OLD c
    else if (bad || p || gap) && c.stHost n 128 == some .wait then ([], c, some .wait)
    else if bad || p then ends (c.stLose now r n e lossPoison Code.POISONED 0 0)
    else if gap then ends (c.stLose now r n e lossGap Code.GAP 0 0)
    else c.stSegment now r n (bs.drop behind)

/-- Serves the oldest request of channel `ch` with `run`. One that waits stays there, without effect, until what it waits for is there: the read
of a placement entry, or the link of its connection's endpoint or a mover (entries 35, 99). -/
def Chip.stServe (c : Chip) (now ch : Nat) (run : EngReq → Chip → List Word × Chip × Option StStop) : Chip :=
  match c.reqs.find? fun r => r.chan == ch && !r.owed with
  | none => c
  | some r =>
    let n := getBits (nth 0 r.words 0) 0 15
    match (run r c).2.2 with
    | none => c.serve ch fun r c => let x := run r c; (x.1, x.2.1.entryForget n)
    | some (.entry i) => if c.up (engineTarget ch) then c.entryRead now n i else c
    | some _ => c

/-- Serves the oldest receive request (R312). -/
def Chip.stRx (c : Chip) (now : Nat) : Chip := c.stServe now 672 fun r c => c.stReceive now r

/-! ### Transmit (R316) -/

/-- Cuts a payload into whole PDUs, none where it does not hold whole PDUs only; a flag announces a digest whether or not the connection
negotiated it. `fuel` bounds them. -/
def cutPdus : Nat → List Byte → Option (List (List Byte))
  | 0, _ => none
  | f + 1, bs =>
    if bs.isEmpty then some []
    else if bs.length < 8 || pduBad true true bs || pduLen bs = 0 || bs.length < pduLen bs then none
    else (cutPdus f (bs.drop (pduLen bs))).map (bs.take (pduLen bs) :: ·)

/-- Replaces bytes of a list from position `k`. -/
def overwrite (bs : List Byte) (k : Nat) (new : List Byte) : List Byte := bs.take k ++ new ++ bs.drop (k + new.length)

/-- XTS over whole data units of a transmitted PDU; none where a job fails. `fuel` bounds the units. -/
def Chip.txUnits (now owner ctx du : Nat) (dec : Bool) : Nat → Nat → List Byte → Chip → Option (List Byte) × Chip
  | 0, _, _, c => (some [], c)
  | f + 1, dun, bs, c =>
    if bs.isEmpty then (some [], c)
    else
      match c.xtsUnit now owner ctx dun dec (bs.take du) with
      | (none, c) => (none, c)
      | (some o, c) =>
        match Chip.txUnits now owner ctx du dec f (dun + 1) (bs.drop du) c with
        | (none, c) => (none, c)
        | (some os, c) => (some (o ++ os), c)

/-- The data of a PDU as it is sent: XTS over the data of the type its peer places. -/
def Chip.sendData (c : Chip) (now n : Nat) (p : List Byte) : Except StStop (List Byte) × Chip :=
  let typ := if c.sc n F.ST_CONN_ROLE = 0 then 6 else 7
  let plain := (p.take (pduEnd p)).drop (pduStart p)
  if c.sc n F.ST_CONN_PLACE = 0 ∨ pduType p ≠ typ ∨ !pduHasData p then (.ok plain, c)
  else
    let i := pduCid p % 2 ^ c.sc n F.ST_CONN_PLACE_LOG2
    match c.placement n i with
    | .error why => (.error why, c)
    | .ok ws =>
      let (dest, bad, c) := (c.entryKeep n i ws).destOf now n p ws
      if bad then (.error (.lost lossXts Code.LOST), c)
      else
        match dest.bind StDest.xts with
        | none => (.ok plain, c)
        | some (ctx, dun, du) =>
          match Chip.txUnits now (c.sc n F.ST_CONN_OWNER) ctx du (c.sc n F.ST_CONN_ROLE == 1) p.length dun plain c with
          | (some o, c) => (.ok o, c)
          | (none, c) => (.error (.lost lossXts Code.LOST), c)

/-- One PDU with data `d` as it is sent: the digests its flags announce are filled in. -/
def sealPdu (p d : List Byte) : List Byte :=
  let p := overwrite p (pduStart p) d
  let p := if pduHd p then overwrite p (pduHlen p) (digestOf (p.take (pduHlen p))) else p
  if pduDd p && pduHasData p then overwrite p (pduEnd p) (digestOf d) else p

/-- Every PDU of a transmit request. -/
def Chip.sendPdus (now n : Nat) : List (List Byte) → Chip → Except StStop (List Byte) × Chip
  | [], c => (.ok [], c)
  | p :: ps, c =>
    match c.sendData now n p with
    | (.error why, c) => (.error why, c)
    | (.ok d, c) =>
      match Chip.sendPdus now n ps c with
      | (.error why, c) => (.error why, c)
      | (.ok os, c) => (.ok (sealPdu p d ++ os), c)

/-- A transmit request (R316): the reply and the chip after it, or why the request waits. -/
def Chip.stTransmit (c : Chip) (now : Nat) (r : EngReq) : List Word × Chip × Option StStop :=
  let c := c.inc A.ST_TX_SEGS
  let w0 := nth 0 r.words 0
  let w1 := nth 0 r.words 1
  let n := getBits w0 0 15
  let off := getBits w0 16 16
  let len := getBits w0 32 16
  let dst := getBits w1 0 24
  let at_ := getBits w1 24 16
  let no (st : Status) (c : Chip) : List Word × Chip × Option StStop := ([replyWord st 0 r.chan 0], c, none)
  if r.words.length ≠ 2 ∨ getBits w0 15 1 ≠ 0 ∨ getBits w0 48 16 ≠ 0 ∨ getBits w1 40 24 ≠ 0
      ∨ (if r.valid then r.plen else 0) < off + len ∨ (c.bobNamed dst = true ∧ c.bobSize dst < at_ + len) then no Code.BAD_ARGUMENT c
  else
    let (bad, bs, c) := if c.bobNamed r.pkt then c.bobRead now (c.bobBase r.pkt + off) len r.slice else (false, [], c)
    if bad then no Code.POISONED c
    else
      let (st, c) := c.stCheck now r n
      if st ≠ Code.OK then no st c
      else if !c.boundTo_ r true dst then no Code.NOT_BOUND c
      else
        match cutPdus (len + 1) bs with
        | none => no Code.PARTIAL_PDU c
        | some ps =>
          match Chip.sendPdus now n ps c with
          | (.error (.lost reason st), c) => no st (c.lose now n (c.sc n F.ST_CONN_EXP_SEQ) reason)
          | (.error why, c) => ([], c, some why)
          | (.ok out, c) =>
            let (ok, c) := c.bobStore now (c.bobBase dst + at_) out r.slice
            if ok then ([replyWord Code.OK 0 r.chan len], c.report 7 (c.sc n F.ST_CONN_OWNER) ps.length (stamp now), none)
            else no Code.POISONED c

/-- Serves the oldest transmit request (R316). -/
def Chip.stTx (c : Chip) (now : Nat) : Chip := c.stServe now 673 fun r c => c.stTransmit now r

/-! ### The doorbell (R357-R359) -/

/-- ST_TAIL for connection `n`, on behalf of slice `s`, that arrived on endpoint `e`. -/
def Chip.stTail (c : Chip) (now e s n v : Nat) : Chip :=
  let (ok, c) := c.dbOk now e s (c.sc n F.ST_CONN_OWNER) (c.stEp n) (c.sc n F.ST_CONN_VALID == 1) (c.stSize n) v
  if ok then c.set (A.ST_CONN n) F.ST_CONN_TAIL v else c

/-- A doorbell of kind ST_TAIL in the page of slice `s`. -/
def Chip.stDoorbell (c : Chip) (now e s : Nat) (whole poison pasid : Bool) (v n rsv : Nat) : Chip :=
  let (ok, c) := c.posted e 1 poison pasid
  if !ok then c
  else if !whole then c.inc (A.HE_BAR_DROP e)
  else if rsv ≠ 0 ∨ 32768 ≤ n ∨ c.up 41 = false then c
  else c.stTail now e s n v

end Sys2Proof.Machine
end

