-- ==== Sys2Proof/Machine/HostRequests.lean ====
section
/-! DEFINITION. Inbound requests of the hosts (spec/12_host_endpoints.md): configuration space, the registers, the mailbox, the doorbells and
the MSI-X table of BAR0 and BAR2, the expansion ROM, and the peer windows of BAR4 (R324-R331, R337, R339, R343, R344). -/

namespace Sys2Proof.Machine

/-! ### Peer windows (R343, R344) -/

/-- A field of window `i` of the active bank of endpoint `e`. -/
def Chip.win (c : Chip) (e i : Nat) (f : Fld) : Nat := c.get (A.HE_PEER_WIN e (c.get (A.HE_PEER_CTRL e) F.HE_PEER_CTRL_ACTIVE) i) f

/-- The window that holds `len` bytes at offset `off` of BAR4, none where a request crosses its end. -/
def Chip.peerWin (c : Chip) (e off len : Nat) : Option Nat :=
  match firstBelow (fun i => c.win e i F.HE_PEER_WIN_VALID == 1 && decide (c.win e i F.HE_PEER_WIN_BAR_OFF ≤ off)
      && decide (off < c.win e i F.HE_PEER_WIN_BAR_OFF + 2 ^ c.win e i F.HE_PEER_WIN_SIZE_LOG2)) 64 with
  | some i => if off + len ≤ c.win e i F.HE_PEER_WIN_BAR_OFF + 2 ^ c.win e i F.HE_PEER_WIN_SIZE_LOG2 then some i else none
  | none => none

/-- Whether byte `a` of bobbin memory lies in a HELD bobbin owned by slice `s`. -/
def Chip.heldBy (c : Chip) (a s : Nat) : Bool :=
  (List.range 8).any fun p =>
    c.pool p F.BP_POOL_ENABLE == 1 && decide (256 * c.pool p F.BP_POOL_BASE ≤ a)
      && decide (a < 256 * (c.pool p F.BP_POOL_BASE + c.pool p F.BP_POOL_SIZE * c.pool p F.BP_POOL_COUNT))
      && (let id := bobId p ((a - 256 * c.pool p F.BP_POOL_BASE) / (256 * c.pool p F.BP_POOL_SIZE))
          c.bobGet id F.BP_STATE_STATE == 1 && c.bobGet id F.BP_STATE_OWNER == s)

/-- A peer write of bytes to bobbin memory; a poisoned one marks every word it touches (R337). -/
def Chip.peerStore (c : Chip) (now a : Nat) (bs : List Byte) (poison : Bool) : Chip :=
  let (ok, c) := c.bobStore now a bs 0
  if ok && poison then
    (List.range (if bs.isEmpty then 0 else (a + bs.length - 1) / 32 - a / 32 + 1)).foldl (fun c k => c.setSram 0 (a / 32 + k) poisonMark) c
  else c

/-- A peer read is answered in parts at the 64-byte Read Completion Boundary; a part that touches a poisoned word has EP = 1. -/
def Chip.peerAnswer (c : Chip) (now e a addr n : Nat) : Chip :=
  (cutAt 64 n addr n 0).foldl (fun (c : Chip) p =>
    let (bad, bs, c) := c.bobRead now (a + p.2.2) p.2.1 0
    c.handTlp { ep := e, kind := .cpl, fn := 1, pasid := none, addr := p.1, len := p.2.1, data := bs, poison := bad, tag := 0 }) c

/-- A miss (R343): a read is answered with Unsupported Request, a write is dropped. -/
def Chip.peerMiss (c : Chip) (e : Nat) (write : Bool) : Chip := c.inc (if write then A.HE_PEER_MISS e else A.HE_UR e)

/-- A memory request to BAR4 that the function takes (R337, R343). -/
def Chip.bar4Request (c : Chip) (now e : Nat) (write : Bool) (off n : Nat) (data : List Byte) (poison : Bool) : Chip :=
  match c.peerWin e off n with
  | none => c.peerMiss e write
  | some i =>
    let o := off - c.win e i F.HE_PEER_WIN_BAR_OFF
    let t := c.win e i F.HE_PEER_WIN_TARGET + o
    let kind := c.win e i F.HE_PEER_WIN_KIND
    let inside := decide (t + n ≤ 96 * 2 ^ 20) && c.open1 23
    if kind = 1 then
      if !inside || !(if write then c.win e i F.HE_PEER_WIN_WRITE_EN == 1 else c.win e i F.HE_PEER_WIN_READ_EN == 1) then c.peerMiss e write
      else if write then c.peerStore now t data poison
      else c.peerAnswer now e t off n
    else if kind = 2 then
      if !write || n ≠ 8 || o % 8 ≠ 0 then c.peerMiss e write
      else if poison then c
      else
        let k := c.win e i F.HE_PEER_WIN_TARGET + o / 8
        if 32768 ≤ k ∨ c.up 41 = false then c.peerMiss e true
        else c.stTail now e (c.sc k F.ST_CONN_OWNER) k (getBits (leWord data) 0 16)
    else if kind = 3 then
      if !write || !inside then c.peerMiss e write
      else if poison then c
      else if (List.range n).all fun k => c.heldBy (t + k) (c.win e i F.HE_PEER_WIN_SLICE) then c.peerStore now t data false
      else c.inc (A.HE_PEER_MISS e)
    else c.peerMiss e write

/-- A write of HE_x_PEER_CTRL.SWITCH (R344). In the model no translated TLP stays in flight, so DRAINED is 1 again at once. -/
def Chip.peerSwitch (c : Chip) (e : Nat) : Chip :=
  let a := A.HE_PEER_CTRL e
  let c := c.set a F.HE_PEER_CTRL_ACTIVE (1 - c.get a F.HE_PEER_CTRL_ACTIVE)
  (c.set a F.HE_PEER_CTRL_GEN ((c.get a F.HE_PEER_CTRL_GEN + 1) % 2 ^ 32)).setFlag a F.HE_PEER_CTRL_DRAINED true

/-! ### Registers of BAR0 and BAR2 (R327, Tables 12-6 and 12-7) -/

/-- The endpoint status word. -/
def Chip.hostStatus (c : Chip) (e : Nat) : Word :=
  BitVec.ofNat 64 (c.mode + (if c.twin then 16 else 0) + (if c.sluiced e then 32 else 0) + if c.overlapped then 64 else 0)

/-- The register ranges that a read of BAR0 of function 0, or of BAR2 of function 1, finds, with what they hold. -/
def Chip.hostRegs (c : Chip) (e f : Nat) : List (Nat × List Byte) :=
  let x := c.ep e
  if f = 0 then
    [(0x000000, ofWords [c.hostStatus e]),
     (0x001000, ofWords [c.rd (A.HE_SLUICE_STAMP e),
       BitVec.ofNat 64 (c.get (A.HE_SLUICE e) F.HE_SLUICE_CAUSE + 2 ^ 16 * x.entries + 2 ^ 32 * x.releases)]),
     (0x002008, ofWords [BitVec.ofNat 64 ((if x.mboxBusy then 1 else 0) + (if x.mboxDone then 2 else 0) + 2 ^ 32 * x.mboxRes)]),
     (0x300000, (List.range 16).flatMap fun v =>
       leBytes 8 (c.vector e v).addr ++ leBytes 4 (c.vector e v).data ++ leBytes 4 (if (c.vector e v).mask then 1 else 0)),
     (0x301000, leBytes 8 x.pend)]
  else
    [(0x0000, ofWords [BitVec.ofNat 64 (Config.revision.toNat + 2 ^ 16 * c.get A.CP_STATION F.CP_STATION_STATION + 2 ^ 32 * e)]),
     (0x0008, ofWords [c.hostStatus e])]

/-- Whether an access to a register range is 4 or 8 bytes wide and naturally aligned. -/
def regAccess (off n : Nat) : Bool := (n == 4 || n == 8) && off % n == 0

/-- What a read of `n` bytes of a register range returns; none where it is to be answered with Unsupported Request. -/
def Chip.hostRegRead (c : Chip) (e f off n : Nat) : Option (List Byte) :=
  if !regAccess off n then none
  else ((c.hostRegs e f).find? fun r => decide (r.1 ≤ off) && decide (off + n ≤ r.1 + r.2.length)).map fun r => (r.2.drop (off - r.1)).take n

/-- Whether an access lies in the mailbox buffer. -/
def inMbox (off n : Nat) : Bool := decide (0x100000 ≤ off) && decide (off + n ≤ 0x200000)

/-- Hands over the completion of a read of function `f`, in parts at the 64-byte Read Completion Boundary. -/
def Chip.answerRead (c : Chip) (e f off : Nat) (bs : List Byte) (bad : Nat → Nat → Bool) : Chip :=
  (cutAt 64 bs.length off bs.length 0).foldl (fun (c : Chip) p =>
    c.handTlp { ep := e, kind := .cpl, fn := f, pasid := none, addr := p.1, len := p.2.1, data := (bs.drop p.2.2).take p.2.1,
                poison := bad p.2.2 p.2.1, tag := 0 }) c

/-- A read is answered with Unsupported Request. -/
def Chip.refuseRead (c : Chip) (e f : Nat) : Chip := (c.aerLog e f Aer.unsupported true).inc (A.HE_UR e)

/-- A read of BAR0 of function 0: registers and the mailbox buffer, or of BAR2 of function 1. -/
def Chip.regsRead (c : Chip) (e f off n : Nat) : Chip :=
  if f = 0 ∧ inMbox off n = true then
    if n = 0 ∨ off % 4 ≠ 0 ∨ n % 4 ≠ 0 then c.refuseRead e 0
    else
      let o := off - 0x100000
      c.answerRead e 0 off (rdBytes (c.ep e).mbox o n) fun k m =>
        (c.ep e).mboxBad.any fun p => decide ((o + k) / 4 ≤ p.1) && decide (4 * p.1 < o + k + m)
  else
    match c.hostRegRead e f off n with
    | some bs => c.answerRead e f off bs fun _ _ => false
    | none => c.refuseRead e f

/-- A write of 4 or 8 bytes to the MSI-X table, at offset `o`; a message that pends on the vector is sent once it can be (R330). -/
def Chip.msixWrite (c : Chip) (now e o : Nat) (bs : List Byte) : Chip :=
  let v := o / 16
  let x := c.vector e v
  let old := leBytes 8 x.addr ++ leBytes 4 x.data ++ leBytes 4 (if x.mask then 1 else 0)
  let new := old.take (o % 16) ++ bs ++ old.drop (o % 16 + bs.length)
  let y : MsixVec := ⟨leNat (new.take 8), leNat ((new.drop 8).take 4), (leNat ((new.drop 12).take 4)) % 2 == 1⟩
  let c := c.setEp e { c.ep e with table := mset MsixVec.init (c.ep e).table v y }
  if natBits (c.ep e).pend v 1 = 1 then c.msix now e v else c

/-- Whether a sluiced endpoint takes a write all the same: to the mailbox buffer or MBOX_CTRL (R339). -/
def mailWrite (off n : Nat) : Bool := inMbox off n || (decide (0x2000 ≤ off) && decide (off + n ≤ 0x2008))

/-- A write to BAR0 of function 0 (R327, R328, R330, R337). -/
def Chip.regsWrite (c : Chip) (now e off : Nat) (bs : List Byte) (poison : Bool) : Chip :=
  let n := bs.length
  let c := if poison then (c.aerLog e 0 Aer.poisoned true).inc (A.HE_POISON_RX e) else c
  if inMbox off n = true then
    if n = 0 ∨ off % 4 ≠ 0 ∨ n % 4 ≠ 0 then c.inc (A.HE_BAR_DROP e) else c.mboxWrite e (off - 0x100000) bs poison
  else if poison then c
  else if !regAccess off n then c.inc (A.HE_BAR_DROP e)
  else if off = 0x2000 then c.mboxCtrl e (some (leNat bs % 2 ^ 21)) (n == 8 && leNat bs / 2 ^ 63 == 1)
  else if off = 0x2004 ∧ n = 4 then c.mboxCtrl e none (leNat bs / 2 ^ 31 == 1)
  else if 0x300000 ≤ off ∧ off + n ≤ 0x300100 then c.msixWrite now e (off - 0x300000) bs
  else c.inc (A.HE_BAR_DROP e)

/-! ### Doorbells (R357-R359) -/

/-- A CQ_ARM doorbell that has passed its checks (R359, R367): a HALTED queue pair records it until RESTART. -/
def Chip.qpArm (c : Chip) (now n v : Nat) : Chip :=
  let c := (c.setQpf n F.DE_QP_CQ_HEAD v).setQpf n F.DE_QP_ARMED 1
  if c.qpState n = 1 then c.qpFire now n else c

/-- A doorbell of page `s`: `kind` 0 to 3 name a ring of a queue pair, 4 a connection; the others are dropped (Table 13-1). -/
def Chip.doorbell (c : Chip) (now e s kind : Nat) (whole poison pasid : Bool) (v n rsv : Nat) : Chip :=
  match kind with
  | 0 => c.qpDoorbell now e s whole poison pasid v n rsv F.DE_QP_TX_LOG2 fun c => c.setQpf n F.DE_QP_TX_TAIL v
  | 1 => c.qpDoorbell now e s whole poison pasid v n rsv F.DE_QP_RX_LOG2 fun c => c.setQpf n F.DE_QP_RX_TAIL v
  | 2 => c.qpDoorbell now e s whole poison pasid v n rsv F.DE_QP_CQ_LOG2 fun c => c.setQpf n F.DE_QP_CQ_HEAD v
  | 3 => c.qpDoorbell now e s whole poison pasid v n rsv F.DE_QP_CQ_LOG2 fun c => c.qpArm now n v
  | 4 => c.stDoorbell now e s whole poison pasid v n rsv
  | _ =>
    let (ok, c) := c.posted e 1 poison pasid
    if ok && !whole then c.inc (A.HE_BAR_DROP e) else c

/-- A write to BAR0 of function 1 at offset `off`: the doorbell page of slice `off` div 4,096 (R357). -/
def Chip.pageWrite (c : Chip) (now e off : Nat) (bs : List Byte) (poison pasid : Bool) : Chip :=
  let w := leWord bs
  c.doorbell now e (off / 4096) (getBits w 32 3) (bs.length == 8 && off % 8 == 0) poison pasid (getBits w 0 16) (getBits w 16 16)
    (getBits w 35 29)

/-! ### The expansion ROM (R331) -/

/-- Bytes of the active copy of the ROM partition; what its image does not cover is erased flash. -/
def Chip.romBytes (c : Chip) (off n : Nat) : List Byte :=
  (List.range n).map fun k => nth 0xFF (nth [] c.flash.roms c.flash.rom) (off + k)

/-- A read of the expansion ROM: without Expansion ROM Enable or without the flash it is answered with Unsupported Request (entry 209). -/
def Chip.romRead (c : Chip) (e off n : Nat) : Chip :=
  if n = 0 || !(c.fn e 1).romOn || !c.flash.present then c.refuseRead e 1
  else c.answerRead e 1 off (c.romBytes off n) fun _ _ => false

/-! ### Configuration requests (R320-R326, R341, R342) -/

/-- A configuration write of up to 4 bytes at offset `off`, within one dword: Bus Master Enable, the power state and Initiate Function Level
Reset act as their commands do. -/
def Chip.configWrite (c : Chip) (now e f off : Nat) (bs : List Byte) : Chip :=
  let o := off / 4 * 4
  let sh := 8 * (off % 4)
  let v : BitVec 32 := BitVec.ofNat 32 (leNat bs * 2 ^ sh)
  let be : BitVec 32 := BitVec.ofNat 32 ((2 ^ (8 * bs.length) - 1) * 2 ^ sh)
  let x := c.fn e f
  let y := x.put f (c.ep e).barLog2 o v be
  if o = 0x04 then
    let c := c.setFn e f (y.wr o ((y.rd o &&& ~~~4) ||| (x.rd o &&& 4)))
    if y.bme = x.bme then c else if y.bme then c.bmeSet now e f else c.bmeClear now e f
  else if o = 0x44 then
    let p := ((v &&& be) ||| (x.rd o &&& ~~~be)).toNat % 4
    if p = 0 then c.powerState now e f false else if p = 3 then c.powerState now e f true else c
  else
    let c := c.setFn e f y
    if o = 0x58 ∧ (v &&& be).getLsbD 15 = true then c.flr now e f
    else if o = 0xB0 ∧ f = 0 then c.msixRetry now e
    else c

/-! ### All of them -/

/-- The function a request names, and the bytes of the space it lies in. -/
def Chip.spaceOf (c : Chip) (e : Nat) : HostSpace → Nat × Nat
  | .config f => (f, 4096)
  | .f0bar0 => (0, 2 ^ 24)
  | .f1bar0 => (1, 2 ^ 25)
  | .f1bar2 => (1, 2 ^ 20)
  | .bar4 => (1, 2 ^ (c.ep e).barLog2)
  | .rom => (1, 2 ^ 20)

/-- A memory read that the function takes. -/
def Chip.memRead (c : Chip) (now e off n : Nat) : HostSpace → Chip
  | .f0bar0 => c.regsRead e 0 off n
  | .f1bar2 => c.regsRead e 1 off n
  | .bar4 => c.bar4Request now e false off n [] false
  | .rom => c.romRead e off n
  | _ => c.refuseRead e 1

/-- A memory write that the function takes. -/
def Chip.memWrite (c : Chip) (now e off : Nat) (bs : List Byte) (poison : Bool) : HostSpace → Chip
  | .f0bar0 => c.regsWrite now e off bs poison
  | .bar4 =>
    let c := if poison then (c.aerLog e 1 Aer.poisoned true).inc (A.HE_POISON_RX e) else c
    c.bar4Request now e true off bs.length bs poison
  | _ =>
    let c := if poison then (c.aerLog e 1 Aer.poisoned true).inc (A.HE_POISON_RX e) else c
    c.inc (A.HE_BAR_DROP e)

/-- A memory request that is no doorbell: the prefix, Sluice, and what makes the function take no request come first (R325, R333, R339). -/
def Chip.memRequest (c : Chip) (now e : Nat) (t : HostSpace) (write : Bool) (off n : Nat) (bs : List Byte) (poison pasid : Bool) : Chip :=
  let f := (c.spaceOf e t).1
  let c := if pasid then c.inc (A.HE_PASID_IN e) else c
  let live := t == .f0bar0 && (!write || mailWrite off n)
  if c.sluiced e && !live then (if write then c.inc (A.HE_SLUICE_DROP e) else c.refuseRead e f)
  else if !c.decodes e f then (if write then c.aerLog e f Aer.unsupported false else c.refuseRead e f)
  else if write then c.memWrite now e off bs poison t
  else c.memRead now e off n t

/-- An inbound request of the host to a space of endpoint `e`; one that does not lie wholly in the space is no request to it. A write of a
doorbell goes to its queue. -/
def Chip.hostRequest (c : Chip) (now e : Nat) (t : HostSpace) (write : Bool) (off len : Nat) (bs : List Byte) (poison pasid : Bool) : Chip :=
  let n := if write then bs.length else len
  if !c.epUp e || !c.open1 (20 + e) || decide ((c.spaceOf e t).2 < off + n) then c
  else
    match t with
    | .config f =>
      if n = 0 ∨ 4 < off % 4 + n then c
      else if write then c.configWrite now e f off bs
      else c.answerRead e f off (((leBytes 4 (c.configRead e f (off / 4 * 4)).toNat).drop (off % 4)).take n) fun _ _ => false
    | .f1bar0 => if write then c.pageWrite now e off bs poison pasid else c.memRequest now e t write off n bs poison pasid
    | .f0bar0 =>
      let k := (off - 0x200000) / 4096
      if write && decide (0x200000 ≤ off) && decide (k < 8) && off % 4096 == 0 then c.cmdqDoorbell now e k n poison pasid (leNat bs)
      else c.memRequest now e t write off n bs poison pasid
    | t => c.memRequest now e t write off n bs poison pasid

end Sys2Proof.Machine
end

