-- ==== Sys2Proof/Machine/MemoryOps.lean ====
section
/-! DEFINITION. Training, retraining and scrubbing of the QDR channels, scrubbing of the on-die arrays (spec/14_memory_complex.md). -/

namespace Sys2Proof.Machine

/-- Empties the data bytes of every word of channel `ch`. -/
def Chip.zeroChannelBytes (c : Chip) (ch : Nat) : Chip :=
  { c with mem := { c.mem with
      qdr := c.mem.qdr.filter fun p => decide (p.1 / 2 ^ 28 ≠ ch / 4) || qdrChannel (ch / 4) (p.1 % 2 ^ 28 / 32) != ch,
      stitchQ := mclear c.mem.stitchQ (2 ^ 21 * ch) (2 ^ 21 * (ch + 1)) } }

/-- Shows the pin of least margin of a channel. -/
def Chip.showMargin (c : Chip) (ch port pin ps : Nat) : Chip :=
  let a := A.MC_STATUS ch
  ((c.set a F.MC_STATUS_WORST_PIN pin).set a F.MC_STATUS_WORST_PORT port).set a F.MC_STATUS_MARGIN_PS ps

/-- Says whether port `p` of a channel is in service, and why not. -/
def Chip.setQPort (c : Chip) (ch p : Nat) (up : Bool) (why : Nat) : Chip :=
  let c := c.setFlag (A.MC_STATUS ch) (if p = 0 then F.MC_STATUS_PORT_A_UP else F.MC_STATUS_PORT_B_UP) up
  { c with mem := { c.mem with qtrain := mset 0 c.mem.qtrain (2 * ch + p) why } }

/-- Starts the training of a channel whose domain has come on, whose configuration changed while it trains, or whose edge was reset (R396,
R403). A port stays DISABLED until the domain goes off (R397). -/
def Chip.trainStart (c : Chip) (ch : Nat) : Chip :=
  let down (c : Chip) (p : Nat) : Chip := c.setQPort ch p false (if c.portDisabled ch p then 2 else 0)
  down (down (c.set (A.MC_STATUS ch) F.MC_STATUS_STATE 1) 0) 1

/-- Whether a channel trains after a reset of its edge, and so without zeroing (Table 18-2). -/
def Chip.keepsData (c : Chip) (ch : Nat) : Bool := mget 0 c.mem.qtrain (16 + ch) == 1

/-- Says whether the training under way zeroes. -/
def Chip.setKeep (c : Chip) (ch : Nat) (b : Bool) : Chip :=
  { c with mem := { c.mem with qtrain := mset 0 c.mem.qtrain (16 + ch) (if b then 1 else 0) } }

/-- A channel finishes training and zeroing and enters READY (R396); the pin of least margin is what training measured. A channel whose
ports are both DISABLED does not (entry 218). -/
def Chip.channelTrained (c : Chip) (ch port pin ps : Nat) : Chip :=
  let a := A.MC_STATUS ch
  if c.get a F.MC_STATUS_STATE ≠ 1 ∨ c.get (A.CP_PWR_STATUS (40 + ch)) F.CP_PWR_STATUS_STATE = 0 then c
  else if c.portDisabled ch 0 && c.portDisabled ch 1 then c
  else
    let up (c : Chip) (p : Nat) : Chip := if c.portDisabled ch p then c else c.setQPort ch p true 0
    let c := if c.keepsData ch then c else c.zeroChannelBytes ch
    let c := ((c.setKeep ch false).set a F.MC_STATUS_STATE 2).showMargin ch port pin ps
    (up (up c 0) 1).wr (A.MC_SCRUB_POS ch) 0

/-- A retrain of a port in service (R397): below 15 ps of margin the port leaves service. -/
def Chip.retrain (c : Chip) (ch port pin ps : Nat) : Chip :=
  if !c.qReady ch || !c.portUp ch port then c
  else
    let c := (c.showMargin ch port pin ps).inc (A.MC_RETRAINS ch)
    if ps < 15 then c.portOut ch port else c

/-- A port that trained alone is done after `fails` failed attempts (R397): after three it is DISABLED, and with both ports DISABLED the
channel fails. -/
def Chip.portTrained (c : Chip) (now ch port fails pin ps : Nat) : Chip :=
  if mget 0 c.mem.qtrain (2 * ch + port) ≠ 1 ∨ c.get (A.MC_STATUS ch) F.MC_STATUS_STATE ≠ 2 then c
  else
    let c := c.add (A.MC_RETRAIN_FAILS ch) fails
    if fails < 3 then ((c.setQPort ch port true 0).showMargin ch port pin ps).inc (A.MC_RETRAINS ch)
    else
      let c := (c.setQPort ch port false 2).raise now Flt.MC_PORT_DOWN 22 (40 + ch) 0 (BitVec.ofNat 64 (pin % 128 + 128 * (port % 2)))
      if mget 0 c.mem.qtrain (2 * ch + (1 - port)) = 2 then c.raise now Flt.MC_CHANNEL_FAIL 22 (40 + ch) 0 0 else c

/-- The QDR scrubber reads the next word of a channel (R398); `upset` is what has become of its stored check symbols against its data. -/
def Chip.qdrScrub (c : Chip) (now ch : Nat) (upset : BitVec 32) : Chip :=
  if !c.qReady ch then c
  else
    let a := A.MC_SCRUB_POS ch
    let w := c.get a F.MC_SCRUB_POS_WORD
    let c := c.setQres ch w (c.qres ch w ^^^ upset)
    let c := ((c.readChan now ch w 1 0).2).inc (A.MC_SCRUB_READS ch)
    let next := (w + 1) % 2 ^ 21
    let c := c.set a F.MC_SCRUB_POS_WORD next
    if next = 0 then c.set (A.MC_STATUS ch) F.MC_STATUS_SCRUB_PASSES (c.get (A.MC_STATUS ch) F.MC_STATUS_SCRUB_PASSES + 1) else c

/-- The words of an on-die array; those of an array whose size no chapter gives are the model's choice (entry 9). -/
def arrayWords (a : Nat) : Nat :=
  if a = 0 then 3145728
  else if a = 1 then 92160
  else if a = 2 ∨ a = 3 then 786432
  else if a = 4 ∨ a = 5 then 16384
  else if a = 6 ∨ a = 7 then 16384
  else if a = 8 then 262144
  else if a = 9 then 49152
  else if a = 10 then 229376
  else if a = 11 then 8192
  else if a = 12 then 36864
  else if a = 13 then 32768
  else if 16 ≤ a ∧ a ≤ 19 then 65536
  else if a = 20 ∨ a = 21 then 65536
  else if a = 24 then 65536
  else if 32 ≤ a ∧ a ≤ 47 then 65536
  else if 48 ≤ a ∧ a ≤ 63 then 8192
  else if 64 ≤ a ∧ a ≤ 79 then 6144
  else 0

/-- The fence target whose domain powers an array. -/
def arrayTarget (a : Nat) : Nat := if a = 11 then 40 else if a = 12 then 41 else arrayIsland a

/-- Whether the scrubber reads array `a`. -/
def Chip.scrubbed (c : Chip) (a : Nat) : Bool := arrayListed a && c.domOn (targetDomain (arrayTarget a))

/-- The SRAM scrubber reads the next word of the powered arrays (R400). -/
def Chip.sramScrub (c : Chip) (now : Nat) (upset : BitVec 32) : Chip :=
  let p := A.MC_SRAM_SCRUB_POS
  let a0 := c.get p F.MC_SRAM_SCRUB_POS_ARRAY
  match firstFrom (fun k => c.scrubbed (k % 80)) 80 a0 with
  | none => c
  | some k =>
    let a := k % 80
    let w := if a = a0 then c.get p F.MC_SRAM_SCRUB_POS_WORD else 0
    let c := c.setSram a w (c.sram a w ^^^ upset)
    let c := (c.readSram now a w 1 0).2
    let (a, w) := if w + 1 < arrayWords a then (a, w + 1) else ((a + 1) % 80, 0)
    (c.set p F.MC_SRAM_SCRUB_POS_ARRAY a).set p F.MC_SRAM_SCRUB_POS_WORD w

/-- What a PUT of MC_Qc_CFG that leaves `c` does, `old` the word before it (R403). -/
def Chip.qdrCfg (c : Chip) (ch : Nat) (old : Word) : Status × Chip :=
  let changed := getBits old 0 9 != getBits (c.rd (A.MC_CFG ch)) 0 9
  let st := c.get (A.MC_STATUS ch) F.MC_STATUS_STATE
  if !changed then (Code.OK, c)
  else if st = 2 then (Code.CHANNEL_READY, c)
  else if st = 1 then (Code.OK, c.trainStart ch)
  else (Code.OK, c)

end Sys2Proof.Machine
end

