-- ==== Sys2Proof/Machine/SamplerOps.lean ====
section
/-! DEFINITION. The Sampler (R430-R443): counter modes, bandwidth windows, billing minutes and their signed records, the telemetry
stream, the state word. -/

namespace Sys2Proof.Machine

/-! ### Counter modes (R430, R431) -/

/-- Whether a register row holds dedicated counters: one 48-bit count alone in its unit, which only a keyed GET reads (R20, R430), the words of
CL_RULE_HITS and of MC_SRAM_ARRAY (Table 16-1). -/
def RegRow.isCounter (r : RegRow) : Bool :=
  (r.words == 1 && r.fields.length == 1
    && r.fields.all fun f => f.lo == 0 && f.width == 48 && f.access == .ro && f.crit) || r.base == A.CL_RULE_HITS 0 || r.base == A.MC_SRAM_ARRAY 0

/-- The counters that add a quantity (R431): their first addresses. -/
def quantityRows : List Nat :=
  [A.PX_RX_BYTES 0, A.PX_RX_BAD_BYTES 0, A.PX_TX_BYTES 0, A.TM_ENQ_BYTES 0, A.CE_BYTES, A.DE_TX_BYTES, A.DE_RX_BYTES,
    A.ST_PLACED_BYTES, A.CL_PE_BYTES, A.CL_PE_MATCHES, A.TE_QDR_WORDS 0]

/-- What a write of CP_SMP_MODE for address `a` answers (R431). -/
def smpCheck (a : Nat) (setEdge : Bool) : Status :=
  if a % 8 ≠ 0 then Code.NOT_FOUND else
  match findRow (regionRows a) a with
  | none => Code.NOT_FOUND
  | some (r, _) =>
    if r.base = A.MA_CNT 0 0 then Code.BAD_ARGUMENT
    else if !r.isCounter then Code.NOT_FOUND
    else if setEdge && memNat r.base quantityRows then Code.BAD_ARGUMENT
    else Code.OK

/-- CP_SMP_MODE has been written (R431): SET applies EDGE to the counter named, otherwise EDGE is loaded with the counter's mode. -/
def Chip.smpMode (c : Chip) (v : Word) : Chip :=
  let a := getBits v 0 40
  let edge := getBits v 40 1 == 1
  let set := getBits v 41 1 == 1
  let st := smpCheck a (set && edge)
  let c := if set && st == Code.OK then { c with smp := { c.smp with edge := mset false c.smp.edge a edge } } else c
  let shown := if !set && st == Code.OK then mget false c.smp.edge a else edge
  c.wr A.CP_SMP_MODE (BitVec.ofNat 64 (a + (if shown then 1 else 0) * 2 ^ 40 + st * 2 ^ 48))

/-! ### The stream and the state word (R440, R441) -/

/-- The key of metering key slot `k` and its GENERATION (R416, R438). -/
def Chip.meterKey (c : Chip) (k : Nat) : List Byte × Nat :=
  (mget [] c.cmd.keys (20 + k), (c.rd (A.CP_KEY (20 + k) + 8)).toNat)

/-- CHECK of R438 over bytes under a metering key: 16 bytes, zero where the slot is empty. -/
def checkOf (key bs : List Byte) : List Byte := if key.isEmpty then List.replicate 16 0 else (hmacSha256 key bs).take 16

/-- The state word of Table 16-6 at `now`; the sensor readings are free values (entry 2). -/
def Chip.stateWord (c : Chip) (now : Nat) : List Byte × Chip :=
  let (temp, c) := c.fresh
  let (power, c) := c.fresh
  let sum (f : Nat → Bool) (n : Nat) : Nat := (List.range n).foldl (fun k i => if f i then k + 2 ^ i else k) 0
  let w1 := temp % 65536 + power % 65536 * 2 ^ 16 + c.mode * 2 ^ 32 + c.get A.FT_STATUS F.FT_STATUS_STATE * 2 ^ 36
    + sum (fun p => c.flag (A.PX_STATUS p) F.PX_STATUS_LINK) 16 * 2 ^ 48
  let w2 := sum (fun n => !c.open1 n) 25 + sum (fun e => c.epUp e) 2 * 2 ^ 25
    + sum (fun e => c.flag (A.HE_SLUICE e) F.HE_SLUICE_STATE) 2 * 2 ^ 27
  (ofWords [dtWord (stamp now), BitVec.ofNat 64 w1, BitVec.ofNat 64 w2, 0], c)

/-- A telemetry frame of port `p` with the items given (R440). -/
def Chip.tlmFrame (c : Chip) (now p : Nat) (items : List (Nat × List Byte)) : Chip :=
  let k := c.get A.CP_TLM_CFG F.CP_TLM_CFG_KEY
  let w0 : Word := BitVec.ofNat 64 (0x4D4C544B + c.get A.CP_STATION F.CP_STATION_STATION * 2 ^ 32)
  let w3 : Word := BitVec.ofNat 64 (items.length + k * 2 ^ 16)
  let body := items.flatMap fun (kind, bs) => leBytes 8 (kind + bs.length * 2 ^ 16) ++ bs
  let pay := ofWords [w0, BitVec.ofNat 64 c.smp.tlmSeq, dtWord (stamp now), w3] ++ body
  let frame := beBytes 6 (c.rd A.CP_TLM_DA).toNat ++ beBytes 6 (c.rd A.CP_CMD_MAC).toNat
    ++ beBytes 2 (c.get A.CP_CMD_CFG F.CP_CMD_CFG_ETYPE) ++ pay ++ checkOf (c.meterKey k).1 pay
  let c := { c with smp := { c.smp with tlmSeq := c.smp.tlmSeq + 1 } }
  if c.link p && c.open1 (16 + p / 4) then (c.sendOwn p frame).inc A.CP_TLM_FRAMES else c.inc A.CP_TLM_DROP

/-- The items that fit one frame of 1,480 payload bytes, from `room` bytes on, and the rest. -/
def fitItems : Nat → List (Nat × List Byte) → List (Nat × List Byte) × List (Nat × List Byte)
  | _, [] => ([], [])
  | room, i :: is =>
    if i.2.length + 8 ≤ room then
      let (a, b) := fitItems (room - (i.2.length + 8)) is
      (i :: a, b)
    else ([], i :: is)

/-- Sends the items that wait, as full frames as they make; `fuel` bounds the frames. -/
def Chip.tlmPump (now : Nat) : Nat → Chip → Chip
  | 0, c => c
  | n + 1, c =>
    match fitItems 1432 c.smp.items with
    | ([], _) => c
    | (is, rest) => Chip.tlmPump now n (({ c with smp := { c.smp with items := rest } }).tlmFrame now (c.get A.CP_TLM_CFG F.CP_TLM_CFG_PORT) is)

/-- Sends every item that waits. -/
def Chip.tlmSend (c : Chip) (now : Nat) : Chip := c.tlmPump now c.smp.items.length

/-- An item enters the stream where CONTENT selects its kind (R440). -/
def Chip.tlmItem (c : Chip) (kind : Nat) (bs : List Byte) : Chip :=
  if c.flag A.CP_TLM_CFG F.CP_TLM_CFG_ENABLE && natBits (c.get A.CP_TLM_CFG F.CP_TLM_CFG_CONTENT) (kind - 1) 1 == 1 then
    { c with smp := { c.smp with items := c.smp.items ++ [(kind, bs)] } }
  else c

/-- PERIOD_MS of the stream elapses (R440): a state word enters it. -/
def Chip.tlmState (c : Chip) (now : Nat) : Chip :=
  if c.flag A.CP_TLM_CFG F.CP_TLM_CFG_ENABLE && decide (2 ^ 2 ≤ c.get A.CP_TLM_CFG F.CP_TLM_CFG_CONTENT)
      && decide (c.smp.stateAt ≤ now) then
    let (w, c) := c.stateWord now
    let c := { c with smp := { c.smp with stateAt := now + ns (1000000 * c.get A.CP_TLM_CFG F.CP_TLM_CFG_PERIOD_MS) } }
    (c.tlmItem 3 w).tlmSend now
  else c

/-! ### Bandwidth windows (R433-R435) -/

/-- ENABLE, the period in ns and the port mask of a bandwidth configuration. -/
def bwOn (v : Word) : Bool := getBits v 0 1 == 1
def bwPeriod (v : Word) : Nat := max 1 (getBits v 1 16) * 1000000
def bwMask (v : Word) : Nat := getBits v 32 16

/-- The end of the open bandwidth windows. -/
def Chip.bwEnd (c : Chip) : Nat := c.smp.bwStart + bwPeriod c.smp.bwCfg

/-- The ports counted by a configuration, in ascending order. -/
def bwPorts (v : Word) : List Nat := (List.range 16).filter fun p => natBits (bwMask v) p 1 == 1

/-- Adds a count to a window. -/
def BwAcc.add (x : BwAcc) (rx : Bool) (n : Nat) : BwAcc :=
  if rx then { x with rxB := x.rxB + n, rxF := x.rxF + 1 } else { x with txB := x.txB + n, txF := x.txF + 1 }

/-- Writes the record of port `p` for the open window (R435, Table 16-2). -/
def Chip.bwRecord (partl : Bool) (c : Chip) (p : Nat) : Chip :=
  let h := c.get A.CP_BW_HEAD F.CP_BW_HEAD_V
  if (h + 1) % 16384 = c.get A.CP_BW_TAIL F.CP_BW_TAIL_V then c.inc A.CP_BW_DROP
  else
    let x := mget BwAcc.init c.smp.bwAcc p
    let w1 := p + (if partl then 16 else 0) + (if x.late then 32 else 0) + bwPeriod c.smp.bwCfg / 1000000 * 2 ^ 16
    let ws := [BitVec.ofNat 64 c.smp.bwStart, BitVec.ofNat 64 w1, BitVec.ofNat 64 x.rxB, BitVec.ofNat 64 x.rxF,
      BitVec.ofNat 64 x.txB, BitVec.ofNat 64 x.txF, BitVec.ofNat 64 c.smp.bwSeq, 0]
    let c := (ws.zip (List.range 8)).foldl (fun c (w, i) => c.wr (A.CP_BW_RING h + 8 * i) w) c
    (c.set A.CP_BW_HEAD F.CP_BW_HEAD_V ((h + 1) % 16384)).tlmItem 1 (ofWords ws)

/-- The open windows become the next ones, empty but for what was already stamped in them. -/
def bwShift (m : SMap BwAcc) : SMap BwAcc :=
  (List.range 16).foldl (fun a p => mset BwAcc.init a p (mget BwAcc.init m (p + 16))) []

/-- The open windows' records are written (R435). -/
def Chip.bwWrite (c : Chip) (partl : Bool) : Chip :=
  let c := (bwPorts c.smp.bwCfg).foldl (Chip.bwRecord partl) c
  { c with smp := { c.smp with bwSeq := c.smp.bwSeq + 1, bwAcc := bwShift c.smp.bwAcc } }

/-- One window closes and the next opens, under a written configuration whose boundary has come (R434, R435). -/
def Chip.bwClose (c : Chip) : Chip :=
  let e := c.bwEnd
  let sw := c.smp.bwTeff != 0 && decide (c.smp.bwTeff ≤ e)
  let c := c.bwWrite (c.smp.bwPart || sw)
  if sw then
    let v := c.rd A.CP_BW_CFG
    { c with smp := { c.smp with bwCfg := v, bwStart := e / bwPeriod v * bwPeriod v, bwFrom := e, bwPart := true, bwTeff := 0 } }
  else { c with smp := { c.smp with bwStart := e, bwFrom := e, bwPart := false } }

/-- Closes the windows whose end plus 100 µs `d` has reached (R433); past the capacity of the ring no record finds room, and the rest are
counted alone. -/
def Chip.bwCloseDue (d : Nat) : Nat → Chip → Chip
  | 0, c =>
    if bwOn c.smp.bwCfg then
      let k := (d - 100000 - c.smp.bwStart) / bwPeriod c.smp.bwCfg
      let c := c.add A.CP_BW_DROP (k * (bwPorts c.smp.bwCfg).length)
      { c with smp := { c.smp with bwSeq := c.smp.bwSeq + k, bwStart := c.smp.bwStart + k * bwPeriod c.smp.bwCfg,
                                   bwFrom := c.smp.bwStart + k * bwPeriod c.smp.bwCfg } }
    else c
  | n + 1, c => if bwOn c.smp.bwCfg && decide (c.bwEnd + 100000 ≤ d) then Chip.bwCloseDue d n c.bwClose else c

/-- BW_WINDOW_CLOSE: every window due closes. -/
def Chip.bwWindowClose (c : Chip) (now : Nat) : Chip := (c.bwCloseDue (dtOf now) 16400).tlmSend now

/-- A count of port `p` stamped `d` enters its window (R433, R434). -/
def Chip.bwCount (c : Chip) (rx : Bool) (p n d : Nat) : Chip :=
  if !bwOn c.smp.bwCfg || natBits (bwMask c.smp.bwCfg) p 1 == 0 || decide (d < c.smp.bwZero) then c
  else
    let late := decide (d < c.smp.bwFrom)
    let k := if !late && decide (c.bwEnd ≤ d) then p + 16 else p
    let x := (mget BwAcc.init c.smp.bwAcc k).add rx n
    let c := if late then c.inc A.CP_BW_LATE else c
    { c with smp := { c.smp with bwAcc := mset BwAcc.init c.smp.bwAcc k { x with late := x.late || late } } }

/-- CP_BW_CFG has been written (R434): the change waits for the next window boundary. -/
def Chip.bwPut (c : Chip) (now : Nat) : Chip :=
  let d := dtOf now
  let old := c.smp.bwCfg
  if bwOn old && decide (c.smp.bwStart ≤ d) then
    { c with smp := { c.smp with bwTeff := (d / bwPeriod old + 1) * bwPeriod old } }
  else
    let v := c.rd A.CP_BW_CFG
    let t := (d / bwPeriod v + 1) * bwPeriod v
    { c with smp := { c.smp with bwCfg := v, bwStart := t, bwFrom := t, bwZero := t, bwTeff := 0, bwAcc := [], bwPart := true } }

/-- Device time has stepped back from `d` to `new` (R433): the open windows close with PARTIAL, and new ones open. -/
def Chip.bwBack (c : Chip) (d new : Nat) : Chip :=
  if !bwOn c.smp.bwCfg || decide (d < c.smp.bwStart) then c
  else
    let more := decide (c.bwEnd ≤ d)
    let c := c.bwWrite true
    let c := if more then
        ({ c with smp := { c.smp with bwStart := c.bwEnd } }).bwWrite true
      else c
    let v := if c.smp.bwTeff = 0 then c.smp.bwCfg else c.rd A.CP_BW_CFG
    { c with smp := { c.smp with bwCfg := v, bwStart := new / bwPeriod v * bwPeriod v, bwFrom := new, bwZero := min c.smp.bwZero new,
                                 bwTeff := 0, bwAcc := [], bwPart := true } }

/-! ### Billing minutes (R436-R438) -/

/-- One minute in ns. -/
def minuteNs : Nat := 60000000000

/-- The place of a count in `BillAcc.counts` (Table 16-3). -/
def billSlot (kind : Nat) : Nat := if kind ≤ 6 then 2 * (kind - 2) else 9

/-- Adds a count of a kind to a window: bytes and a frame, or a quantity. -/
def BillAcc.add (x : BillAcc) (kind n : Nat) : BillAcc :=
  let k := billSlot kind
  let cs := setNth x.counts k (nth 0 x.counts k + n)
  { x with counts := if kind ≤ 5 then setNth cs (k + 1) (nth 0 cs (k + 1) + 1) else cs }

/-- A count of slice `s` stamped `d` enters its billing window (R433). -/
def Chip.billCount (c : Chip) (kind s n d : Nat) : Chip :=
  let late := decide (d < (c.rd A.CP_BILL_OPEN).toNat)
  if !late && decide (c.smp.billEnd ≤ d) then
    { c with smp := { c.smp with billNext := mupd BillAcc.init c.smp.billNext s fun x => x.add kind n } }
  else
    let c := if late then c.inc A.CP_BILL_LATE else c
    { c with smp := { c.smp with bill := mupd BillAcc.init c.smp.bill s fun x => { x.add kind n with late := x.late || late } } }

/-- The free space of the billing ring (R437). -/
def Chip.billFree (c : Chip) : Nat :=
  32767 - (c.get A.CP_BILL_HEAD F.CP_BILL_HEAD_V + 32768 - c.get A.CP_BILL_TAIL F.CP_BILL_TAIL_V) % 32768

/-- Writes the signed record of slice `s` for the open window, which ends at `e` (R437, R438, Table 16-4). -/
def Chip.billRecord (e : Nat) (partl : Bool) (c : Chip) (s : Nat) : Chip :=
  let x := mget BillAcc.init c.smp.bill s
  let k := c.get A.CP_BILL_CFG F.CP_BILL_CFG_KEY
  let (key, gen) := c.meterKey k
  let bit (b : Bool) (i : Nat) : Nat := if b then 2 ^ i else 0
  let w2 := s + bit c.smp.billMerged 13 + bit x.late 14 + bit key.isEmpty 15 + c.get A.CP_STATION F.CP_STATION_STATION * 2 ^ 16
    + k * 2 ^ 32 + bit partl 34 + gen % 65536 * 2 ^ 48
  let ws : List Word := [c.rd A.CP_BILL_OPEN, BitVec.ofNat 64 e, BitVec.ofNat 64 w2, BitVec.ofNat 64 c.smp.recSeq]
    ++ x.counts.map (BitVec.ofNat 64)
  let ws := ws ++ toWords (checkOf key (ofWords ws))
  let h := c.get A.CP_BILL_HEAD F.CP_BILL_HEAD_V
  let c := (ws.zip (List.range 16)).foldl (fun c (w, i) => c.wr (A.CP_BILL_RING h + 8 * i) w) c
  let c := (c.set A.CP_BILL_HEAD F.CP_BILL_HEAD_V ((h + 1) % 32768)).tlmItem 2 (ofWords ws)
  { c with smp := { c.smp with recSeq := c.smp.recSeq + 1 } }

/-- The records of the open window are written and its accumulators emptied into the next window's (R437). -/
def Chip.billWrite (c : Chip) (e : Nat) (partl : Bool) : Chip :=
  let c := (List.range 8192).foldl (Chip.billRecord e partl) c
  { c with smp := { c.smp with bill := c.smp.billNext, billNext := [], billMerged := false } }

/-- What the next minute has counted is added to the open window, which is merged with it (R437). -/
def Chip.billFold (c : Chip) : Chip :=
  let m := c.smp.billNext.foldl (fun m (s, y) => mupd BillAcc.init m s fun x =>
    ⟨List.zipWith (· + ·) x.counts y.counts, x.late || y.late⟩) c.smp.bill
  { c with smp := { c.smp with bill := m, billNext := [], billMerged := true } }

/-- One minute closes, or stays open where the ring has no room for its records (R437). -/
def Chip.billClose (now : Nat) (c : Chip) : Chip :=
  let e := c.smp.billEnd
  let c := if c.billFree < 8192 then
      ((c.billFold).inc A.CP_BILL_MERGES).raise now Flt.CP_BILL_MERGE 24 63 0 0
    else
      let c := (c.billWrite e c.smp.billPart).wr A.CP_BILL_OPEN (BitVec.ofNat 64 e)
      { c with smp := { c.smp with billPart := false } }
  { c with smp := { c.smp with billEnd := e + minuteNs } }

/-- Closes the minutes whose end plus 100 µs has come (R433); once the ring is full and the fault's COUNT cannot rise any more, the rest are
counted alone. -/
def Chip.billCloseDue (now : Nat) : Nat → Chip → Chip
  | 0, c =>
    let k := (dtOf now - 100000 - (c.smp.billEnd - minuteNs)) / minuteNs
    let c := c.add A.CP_BILL_MERGES k
    { c with smp := { c.smp with billEnd := c.smp.billEnd + k * minuteNs } }
  | n + 1, c => if c.smp.billEnd + 100000 ≤ dtOf now then Chip.billCloseDue now n (c.billClose now) else c

/-- Whether the Sampler closes billing minutes: from the end of Boot on (R436, entry 42). -/
def Chip.billing (c : Chip) : Bool := decide (Mode.boot < c.mode)

/-- BILL_MINUTE_CLOSE: every minute due closes. -/
def Chip.billMinuteClose (c : Chip) (now : Nat) : Chip :=
  if c.billing then (Chip.billCloseDue now 70000 c).tlmSend now else c

/-- Device time has stepped back to `new` (R433): the open billing window closes with PARTIAL, and a new one opens. -/
def Chip.billBack (c : Chip) (now new : Nat) : Chip :=
  let e := c.smp.billEnd
  let close (c : Chip) (e : Nat) : Chip :=
    if c.billFree < 8192 then ((c.billFold).inc A.CP_BILL_MERGES).raise now Flt.CP_BILL_MERGE 24 63 0 0
    else (c.billWrite e true).wr A.CP_BILL_OPEN (BitVec.ofNat 64 e)
  let c := close c (min e (dtOf now))
  let c := if e ≤ dtOf now then close c (dtOf now) else c
  let c := if c.smp.billMerged then c else c.wr A.CP_BILL_OPEN (BitVec.ofNat 64 new)
  { c with smp := { c.smp with billEnd := (new / minuteNs + 1) * minuteNs, billPart := true } }

/-! ### Reports and time steps (R433) -/

/-- COUNT_REPORT: the oldest report reaches the Sampler, after the windows that are due have closed. -/
def Chip.countReport (c : Chip) (now : Nat) : Chip :=
  match c.smp.reports with
  | [] => c
  | r :: rs =>
    let c := (c.bwWindowClose now).billMinuteClose now
    let c := { c with smp := { c.smp with reports := rs } }
    let d := dtOf r.stamp
    if r.kind ≤ 1 then c.bwCount (r.kind == 0) r.key r.n d else c.billCount r.kind r.key r.n d

/-- Device time steps from `old` to `new` (R46, R433). -/
def Chip.smpStep (c : Chip) (old new : Nat) : Chip :=
  if new < old then ((c.bwBack (dtOf old) (dtOf new)).billBack old (dtOf new)).tlmSend new
  else (c.bwWindowClose new).billMinuteClose new

/-! ### Rings (R439) -/

/-- Whether a new TAIL of a ring of `n` entries lies from TAIL up to HEAD, counted forward. -/
def tailOk (n head tail new : Nat) : Bool := decide ((new + n - tail) % n ≤ (head + n - tail) % n) && decide (new < n)

end Sys2Proof.Machine
end

