-- ==== Sys2Proof/Machine/FenceOps.lean ====
section
/-! DEFINITION. Fences and island resets (R462-R465, Tables 18-2 and 18-3): what a fence owes, what is lost at it, what a reset clears. -/

namespace Sys2Proof.Machine

/-! ### What a fence owes (R463) -/

/-- Whether requests on channel `ch` wait in fence target `t`; the CE and the ST lie in MR. -/
def atTarget (t ch : Nat) : Bool := engineTarget ch == t || (t == 23 && decide (40 ≤ engineTarget ch))

/-- The requests that wait in target `t` are owed ABSENT, and what Prelook waits for there is discarded (R40, R463). -/
def Chip.owe (c : Chip) (t : Nat) : Chip :=
  ({ c with reqs := c.reqs.map fun (r : EngReq) => if atTarget t r.chan then { r with owed := true } else r }).discardTents
    fun x => !atTarget t x.chan

/-- Fenced is reached: every ABSENT owed for target `t` is delivered, in the order of the requests. -/
def Chip.pay (c : Chip) (t : Nat) : Chip :=
  let due := c.reqs.filter fun r => r.owed && atTarget t r.chan
  let c := { c with reqs := c.reqs.filter fun r => !(r.owed && atTarget t r.chan) }
  due.foldl (fun c r => c.answer r [replyWord Code.ABSENT 0 r.chan 0]) c

/-! ### A Mill (R38, R111, R118, R236, R242) -/

/-- Sends that wait for a channel of Mill `m` end with ABSENT (R118). -/
def Chip.failSenders (c : Chip) (m : Nat) : Chip :=
  (List.range 16).foldl (fun (c : Chip) k =>
    if k = m then c else
    (c.mill k).threads.foldl (fun (c : Chip) (t, x) =>
      match x.wait with
      | .send ch _ =>
        match c.chanKind k ch with
        | .remote m' _ => if m' = m then c.setTh k t (x.sendEnd Code.ABSENT ch true) else c
        | _ => c
      | _ => c) c) c

/-- The requests of Mill `m` to the Bobbin Pool Manager are carried out as they stand, their replies lost (R242). -/
def Chip.endBpRequests (c : Chip) (now m : Nat) : Chip :=
  let mine (r : EngReq) : Bool := r.mill == m && !r.owed && decide (608 ≤ r.chan) && decide (r.chan ≤ 611)
  let due := c.reqs.filter mine
  due.foldl (fun (c : Chip) r =>
    (if r.chan = 608 then c.bpAlloc now r else if r.chan = 609 then c.bpShare now r
      else if r.chan = 610 then c.bpRelease now r else c.bpWrite now r).2) { c with reqs := c.reqs.filter fun r => !mine r }

/-- One thread of a fenced Mill ends (event 0x17 of Table 3-14): the packet of a root thread is lost, a resident thread ends with ABSENT,
and a helper's parent ends, so that it is orphaned (R108). -/
def Chip.loseThread (now m : Nat) (c : Chip) (e : Nat × Thread) : Chip :=
  let (t, x) := e
  if x.st = 0 ∨ x.st = 9 then c else
  let c := c.events m t x.prio [0x17]
  let c := match x.root, x.pk with
    | true, some pk => if (c.pkt pk).any (fun p => p.stage == 2) then c.endPacket now m t pk .lost else c
    | _, _ => c
  match x.res with
  | some k => (c.residentEnd now m t Code.ABSENT x).setFlag (A.MA_RESIDENT m k) F.MA_RESIDENT_LIVE false
  | none => if x.root then c else c.inc (A.MA_ORPHAN m)

/-- What is lost when Mill `m` is fenced (R38, R118, R236, R242): live packets, held verdicts, messages and their credits, replies. The
threads themselves stay where HALT_MILL stopped them (R125). -/
def Chip.millLost (c : Chip) (now m : Nat) : Chip :=
  let c := c.endBpRequests now m
  let ts := (c.mill m).threads
  let c := ts.foldl (Chip.loseThread now m) c
  let x := c.mill m
  let left := if c.millHalted m then (x.threads.filter fun e => e.2.st != 9).map fun e => (e.1, { e.2 with pk := none, res := none, reqs := 0, replies := [] }) else []
  let c := c.setMill m { x with threads := left, chans := [], stall := none, poll := none }
  let c := ts.foldl (fun (c : Chip) e => match e.2.pk with
    | some pk => c.pktDone now m pk
    | none => c.dropAllBound now (bindThread m e.1)) c
  let c := (c.loseHeld now m).redirectQueue m
  { c with xmsgs := c.xmsgs.filter fun x => x.dst != m, xcreds := c.xcreds.filter fun x => x.dst != m && x.src != m,
           reps := c.reps.filter fun r => r.mill != m,
           reqs := c.reqs.map fun r => if r.mill = m then { r with tid := 256 } else r }

/-! ### A port group and an endpoint (R258, R289, Table 13-6) -/

/-- The entries queued for the ports of group `g` are dropped with ABSENT, its buffers and what it transmits are lost. -/
def Chip.groupLost (c : Chip) (now g : Nat) : Chip :=
  let c := c.dropQueues now (fun q => isShaped q && c.shapedPort now q / 4 == g) A.TM_ABSENT_DROP
  let c := { c with net := { c.net with rx := c.net.rx.filter fun f => f.port / 4 != g } }
  (List.range 4).foldl (fun (c : Chip) k =>
    let p := 4 * g + k
    let c := (c.loseTx now p).linkClear now p
    c.setPort p { c.port p with asm := none, tail := none }) c

/-- The entries queued for endpoint `e` are dropped, its jobs end with ABSENT and their queue pairs halt. -/
def Chip.endpointLost (c : Chip) (now e : Nat) : Chip :=
  let c := c.dropOrdered fun t => t.ep == e
  let c := c.dropQueues now (fun q => !isShaped q && c.uses e (c.qpHome q)) A.TM_ABSENT_DROP
  ((c.failJobs now Code.ABSENT fun j => c.uses e j.ep).haltQps now Code.ABSENT fun n => c.uses e (c.qpHome n)).endFetches e

/-! ### MR (R242, Table 18-2) -/

/-- Every bobbin is FREE, every pool full, and no port or slice is charged for one (R238, R242). -/
def Chip.bobClear (c : Chip) : Chip :=
  let c := { c with regs := mclear (mclear c.regs (A.BP_STATE 0) (A.BP_STATE 40960)) (A.BP_META 0 0) (A.BP_META 40960 0),
                    bind := [], bobSlice := [] }
  let c := (List.range 128).foldl (fun (c : Chip) n => c.wr (A.BP_OCC n) 0) c
  let c := { c with due := c.due ++ (List.range 16).map Due.occupancy }
  let c := (c.zeroArray 0).zeroArray 1
  let c := { c with mem := { c.mem with bob := [] } }
  let c := (List.range 8).foldl (fun (c : Chip) p =>
    c.wr (A.BP_POOL p + 16) (BitVec.ofNat 64 (if c.pool p F.BP_POOL_ENABLE = 1 then c.pool p F.BP_POOL_COUNT else 0))) c
  (c.stored (A.SM_SLICE 0) (A.SM_SLICE 8192) 32 24).foldl (fun (c : Chip) s =>
    let c := c.set (A.SM_SLICE s) F.SM_SLICE_BOBBIN_USED 0
    { c with due := c.due ++ [.usage s] }) c

/-- What a MAC transmits when MR is fenced (R257): nothing that has not started goes on, and a frame longer than the transmit buffer may
be cut; whether the rest of it had come is a free value. -/
def Chip.cutTx (c : Chip) (now p : Nat) (express : Bool) : Chip :=
  match (c.port p).mac express with
  | none => c
  | some j =>
    match j.run, j.frames with
    | some _, some (f :: _) =>
      let req := { j.ent.req with bob := none, hdr := none }
      let c := c.setMac p express (some { j with frames := some [f], ent := { j.ent with req := req } })
      if f.bytes.length ≤ 2044 then c
      else
        let (v, c) := c.fresh
        if v % 2 = 0 then c else c.txEnd now p express true
    | _, _ => c.setMac p express none

/-- What is lost when MR is fenced: packets, bobbins, queue entries, jobs, Prelook, the CE's cache. -/
def Chip.mrLost (c : Chip) (now : Nat) : Chip :=
  let c := (List.range 32).foldl (fun (c : Chip) i => c.cutTx now (i / 2) (i % 2 == 1)) c
  let c := ((c.failJobs now Code.ABSENT fun _ => true).haltQps now Code.ABSENT fun _ => true).dropOrdered fun _ => true
  let c := ((c.endFetches 0).endFetches 1).discardTents fun _ => false
  let c := c.disp.held.foldl (fun (c : Chip) h => c.inc (A.MA_FENCE_LOST h.mill)) c
  let c := c.disp.pkts.foldl (fun (c : Chip) e => match e.2 with
    | some p =>
      let c := if p.resv.isSome then c.inc A.BP_RESV_CANCEL else c
      let c := if p.stage = 2 then (c.inc (A.MA_FENCE_LOST p.mill)).billIn p.src p.slice p.frameLen p.istamp else c
      if p.stage = 0 then c else c.verFlight p.ver0 p.ver1 false
    | none => c) c
  let c := { c with disp := { DispSt.init with nextPk := c.disp.nextPk, nextSeq := c.disp.nextSeq },
                    tm := { c.tm with queues := [] },
                    mills := c.mills.map fun (e : Nat × Mill) => (e.1, { e.2 with threads := e.2.threads.map fun (x : Nat × Thread) =>
                      (x.1, { x.2 with pk := none }) }) }
  c.ceLose.bobClear

/-! ### The fence (R463, R464) -/

/-- Every boundary of target `t` goes to Fencing, from Open or from Opening. -/
def Chip.fenceBegin (c : Chip) (now t : Nat) : Chip :=
  let b := c.bound t
  if t = 24 ∨ b.st = 1 ∨ b.st = 2 then c
  else
    let c := (c.setBound t { b with st := 1, good := 0 }).owe t
    if t < 16 then (c.failSenders t).redirectQueue t
    else if 20 ≤ t ∧ t < 22 then c.endpointLost now (t - 20)
    else c

/-- What is lost at target `t` when Fenced is reached. -/
def Chip.targetLost (c : Chip) (now t : Nat) : Chip :=
  if t < 16 then c.millLost now t
  else if t < 20 then c.groupLost now (t - 16)
  else if t < 22 then c.endpointLost now (t - 20)
  else if t = 22 then c.opLost
  else if t = 23 then c.mrLost now
  else if 32 ≤ t ∧ t < 40 then c.set (A.MC_STATUS (t - 32)) F.MC_STATUS_STATE 3
  else if t = 40 then c.ceLose
  else c

/-- Fenced is reached: what is owed is paid and what is lost is lost. -/
def Chip.fenceDone (c : Chip) (now t : Nat) : Chip :=
  ((c.setBound t { c.bound t with st := 2 }).pay t).targetLost now t

/-- HALT_MILL fences Mill `m` at once, its boundary to AO staying Open (R125). -/
def Chip.haltFence (c : Chip) (now m : Nat) : Chip :=
  if (c.bound m).st = 2 then c else (((c.failSenders m).redirectQueue m).owe m).fenceDone now m

/-! ### Island reset (R462, Table 18-2) -/

/-- What a reset of target `t` clears beyond what its fence has lost. -/
def Chip.resetClears (c : Chip) (now t : Nat) : Chip :=
  if t < 16 then
    (c.setMill t { c.mill t with threads := [], chans := [] }).setFlag (A.MA_STALL_STATUS t) F.MA_STALL_STATUS_MILL_HALTED false
  else if t < 20 then
    (c.wr (A.PX_TS_HEAD (t - 16)) 0).wr (A.PX_TS_TAIL (t - 16)) 0
  else if t < 22 then (c.fundamental now (t - 20)).perstRise (t - 20)
  else if t = 23 then c.stClear
  else if 32 ≤ t ∧ t < 40 then (c.trainStart (t - 32)).setKeep (t - 32) true
  else if t = 40 then c.ceLose
  else if t = 41 then c.stClear
  else c

/-- The reset of a Fenced target whose domain is on: its boundary goes to Opening. -/
def Chip.resetNow (c : Chip) (now t : Nat) : Chip :=
  let c := c.setBound t { c.bound t with reset := false, reopen := none }
  if c.domOn (targetDomain t) then
    let c := c.resetClears now t
    c.setBound t { c.bound t with st := 3, good := 0 }
  else c

/-- A reset of target `t` is asked for (R462, R464): performed once Fenced is reached. -/
def Chip.resetAsk (c : Chip) (now t : Nat) : Chip :=
  let c := c.setBound t { c.bound t with reset := true }
  if (c.bound t).st = 2 then c.resetNow now t else c.fenceBegin now t

/-- The register region of a target answers the Control Plane while its boundary to AO is up: Open, or a Mill that HALT_MILL stopped (R31,
R125). -/
def Chip.reach (c : Chip) (t : Nat) : Bool := c.up t || (decide (t < 16) && c.millHalted t && c.domOn (targetDomain t))

end Sys2Proof.Machine
end

