-- ==== Sys2Proof/Machine/ModeOps.lean ====
section
/-! DEFINITION. The device modes (R444-R456): the transitions of Table 17-5, what entering and leaving a mode does, drain, the wait for
Standby, the class action of faults (R450, R475). -/

namespace Sys2Proof.Machine

/-! ### Image sessions and modes (R421, Table 17-4) -/

/-- Whether a mode accepts LOAD_IMAGE to a target (Table 17-4). -/
def imageMode (target m : Nat) : Bool :=
  let load := m == Mode.provision || m == Mode.update || m == Mode.diagnostic
  if target = 3 then load || m == Mode.service || m == Mode.degraded || m == Mode.drain
  else if 4 ≤ target then load || m == Mode.recovery
  else load

/-- An open session. -/
def Chip.session (c : Chip) (i : Nat) : Option Session := mget none c.cmd.sessions i

/-- Replaces a session. -/
def Chip.setSession (c : Chip) (i : Nat) (x : Option Session) : Chip :=
  { c with cmd := { c.cmd with sessions := mset none c.cmd.sessions i x } }

/-- The journal entry of the end of a session (Table 15-8). -/
def Chip.noteImage (c : Chip) (now : Nat) (x : Session) (ok : Bool) (st : Status) : Chip :=
  c.journal now { JEvent.base with event := 0xC, level := 0, result := st, detail := x.target, a0 := BitVec.ofNat 64 x.index,
                                   a1 := if ok then 1 else 0 }

/-- A session is aborted (R421): its target stays as the words so far have left it, which is how Table 15-5 leaves it on a failure. -/
def Chip.abortSession (c : Chip) (now i : Nat) : Chip :=
  match c.session i with
  | none => c
  | some x => (c.setSession i none).noteImage now x false 0

/-- The sessions that pass a test are aborted. -/
def Chip.abortSessions (c : Chip) (now : Nat) (p : Session → Bool) : Chip :=
  (List.range 8).foldl (fun (c : Chip) i => if (c.session i).any p then c.abortSession now i else c) c

/-- Whether an image session is open. -/
def Chip.loading (c : Chip) : Bool := (List.range 8).any fun i => (c.session i).isSome

/-! ### Entering a mode -/

/-- The adapter enters mode `m` (R449): CP_MODE, the journal, and what the mode brings with it. A warm reset from Quarantine keeps Sluice
(Table 18-1, entry 221). -/
def Chip.enterMode (c : Chip) (now m : Nat) : Chip :=
  let old := c.mode
  let c := (c.set A.CP_MODE F.CP_MODE_PREVIOUS old).set A.CP_MODE F.CP_MODE_CURRENT m
  let c := c.wr A.CP_MODE_ENTRY_NS (dtWord (stamp now))
  let c := c.journal now { JEvent.base with event := 2, level := 0, detail := m, a0 := BitVec.ofNat 64 old }
  let c := c.abortSessions now fun x => !imageMode x.target m
  let c := { c with pwr := { c.pwr with standby := none, drainAt := now } }
  let c := if m = Mode.drain then c.wr A.CP_DRAIN_STATUS 0 else c
  let c := if m = Mode.recovery then (c.msix now 0 10).msix now 1 10 else c
  let c := if m = Mode.quarantine then (c.sluiceOne now 0 6).sluiceOne now 1 6 else c
  let c := if old = Mode.quarantine ∧ m ≠ Mode.boot then (c.sluiceLift now 0).sluiceLift now 1 else c
  let c := if old = Mode.boot then (c.bwWindowClose now).billMinuteClose now else c
  let c := if old = Mode.diagnostic then (List.range 16).foldl (fun (c : Chip) p => c.set (A.PX_CFG p) F.PX_CFG_LOOPBACK 0) c else c
  c.dmaFollow.pump now

/-- Whether something is fenced by a fatal-island fault (R449). -/
def Chip.faultFenced (c : Chip) : Bool := c.pwr.bound.any fun e => e.2.byFault && e.2.st != 0

/-- Service, or Degraded Service while such a fence holds (R449). -/
def Chip.enterTarget (c : Chip) (now m : Nat) : Chip :=
  c.enterMode now (if m = Mode.service ∧ c.faultFenced = true then Mode.degraded else m)

/-! ### Drain (R453) -/

/-- Whether Drain selects dispatch source `s`. -/
def Chip.drained (c : Chip) (s : Nat) : Bool := natBits (c.get A.CP_DRAIN_CFG F.CP_DRAIN_CFG_SOURCES) s 1 == 1

/-- The packets of selected sources that remain: in receive buffers, between Buffering and Verdict, and in the TM. -/
def Chip.drainLeft (c : Chip) : Nat :=
  (c.net.rx.filter fun f => c.drained f.port).length
  + (c.disp.pkts.filter fun e => match e.2 with
      | some p => c.drained p.src && p.stage != 3
      | none => false).length
  + (c.disp.held.filter fun h => c.drained h.src).length
  + (c.disp.enq.filter fun r => c.drained r.src).length
  + (c.tmEntries.filter fun e => c.drained e.req.src).length

/-- No packet of a selected source remains (R453). -/
def Chip.drainDone (c : Chip) : Chip :=
  if c.mode = Mode.drain ∧ c.drainLeft = 0 then c.setFlag A.CP_DRAIN_STATUS F.CP_DRAIN_STATUS_DRAINED true else c

/-- TIMEOUT_MS has passed since Drain was entered (R453). -/
def Chip.drainTimeout (c : Chip) (now : Nat) : Chip :=
  let ms := c.get A.CP_DRAIN_CFG F.CP_DRAIN_CFG_TIMEOUT_MS
  if c.mode ≠ Mode.drain ∨ c.flag A.CP_DRAIN_STATUS F.CP_DRAIN_STATUS_DRAINED = true ∨ now < c.pwr.drainAt + ns (1000000 * ms) then c
  else
    let n := c.drainLeft
    let c := (c.setFlag A.CP_DRAIN_STATUS F.CP_DRAIN_STATUS_DRAINED true).setFlag A.CP_DRAIN_STATUS F.CP_DRAIN_STATUS_FORCED true
    let c := c.set A.CP_DRAIN_STATUS F.CP_DRAIN_STATUS_LEFT n
    c.journal now { JEvent.base with event := 0x10, level := 0, a0 := BitVec.ofNat 64 n, a1 := BitVec.ofNat 64 ms,
                                     w4 := BitVec.ofNat 64 (c.get A.CP_DRAIN_CFG F.CP_DRAIN_CFG_SOURCES) }

/-! ### Standby (R454) -/

/-- Whether a Scheduled Action Table entry is PENDING or ARMED. -/
def Chip.satLive (c : Chip) (n : Nat) : Bool :=
  let s := c.get (A.FT_SAT n) F.FT_SAT_STATE
  s == 1 || s == 2

/-- Whether an entry is of a keyed kind (Table 2-4). -/
def Chip.satKeyed (c : Chip) (n : Nat) : Bool :=
  let k := c.get (A.FT_SAT n) F.FT_SAT_KIND
  decide (1 ≤ k) && decide (k ≤ 5)

/-- The two conditions of a MODE to Standby. -/
def Chip.standbyOk (c : Chip) : Bool :=
  let g := c.get A.CP_STANDBY_CFG F.CP_STANDBY_CFG_GROUP
  ((List.range 4).any fun k => c.flag (A.PX_CFG (4 * g + k)) F.PX_CFG_ENABLE)
    && (List.range 1024).all fun n => !(c.satLive n && c.satKeyed n)

/-- Whether every job and packet admitted has ended. -/
def Chip.workDone (c : Chip) : Bool :=
  c.de.jobs.isEmpty && c.disp.pkts.isEmpty && c.disp.held.isEmpty && c.disp.enq.isEmpty && c.tmEntries.isEmpty && c.net.rx.isEmpty
    && (List.range 16).all fun p => (c.port p).express.isNone && (c.port p).pre.isNone

/-- The work admitted before a MODE to Standby has ended: the mode is entered, and its word completes (R454). -/
def Chip.standbyEnter (c : Chip) (now : Nat) : Chip :=
  if c.pwr.standby.isSome && c.workDone then
    let c := c.enterMode now Mode.standby
    { c with pwr := { c.pwr with standbyDown := some (now + ns 1000000),
                                 keepAt := now + ns (1000000 * c.get A.CP_STANDBY_CFG F.CP_STANDBY_CFG_KEEPALIVE_MS) },
             due := c.due ++ [.modeEnd Code.OK] }
  else c

/-- It has not ended within 100 ms: the word is refused and admission resumes. -/
def Chip.standbyTimeout (c : Chip) (now : Nat) : Chip :=
  match c.pwr.standby with
  | none => c
  | some t =>
    if now < t then c
    else ({ c with pwr := { c.pwr with standby := none }, due := c.due ++ [Due.modeEnd Code.MODE_REFUSED] }).pump now

/-! ### MODE (R449, Table 17-5) -/

/-- Whether Table 17-5 lists a MODE from the current mode to `m` and its precondition holds. -/
def Chip.modeListed (c : Chip) (m : Nat) : Bool :=
  let from_ := c.mode
  let all := c.flag A.CP_DRAIN_STATUS F.CP_DRAIN_STATUS_DRAINED
    && c.get A.CP_DRAIN_CFG F.CP_DRAIN_CFG_SOURCES == 2 ^ 18 - 1
  if from_ = Mode.provision then
    (m == Mode.service && !c.loading) || m == Mode.diagnostic || (m == Mode.standby && c.standbyOk) || m == Mode.quarantine
  else if from_ = Mode.service ∨ from_ = Mode.degraded then
    (m == Mode.drain && c.get A.CP_DRAIN_CFG F.CP_DRAIN_CFG_SOURCES != 0) || m == Mode.update || m == Mode.quarantine
  else if from_ = Mode.drain then
    m == Mode.service || m == Mode.quarantine
      || (all && (m == Mode.provision || m == Mode.diagnostic || (m == Mode.standby && c.standbyOk)))
  else if from_ = Mode.update then
    (m == Mode.service && !c.loading && !c.flag A.CP_FW_CTRL F.CP_FW_CTRL_FW_BUSY) || m == Mode.quarantine
  else if from_ = Mode.diagnostic then m == Mode.provision || m == Mode.quarantine
  else if from_ = Mode.standby then m == Mode.provision
  else if from_ = Mode.quarantine then m == Mode.provision || m == Mode.service
  else false

/-! ### The class action of a fault (R450, R475, R476) -/

/-- The times of the fatal-island faults of a target that ISLAND_WINDOW_S still holds. -/
def Chip.faultsHeld (c : Chip) (now t : Nat) : List Nat :=
  stormHeld now (ns (1000000000 * c.get A.CP_FAULT_CFG F.CP_FAULT_CFG_ISLAND_WINDOW_S)) (c.bound t).faults

/-- A fatal-island fault of target `t` is counted against it (R476). -/
def Chip.noteFatal (c : Chip) (now t : Nat) : Chip :=
  let b := c.bound t
  let fs := c.faultsHeld now t ++ [now]
  let held := b.held || decide (c.get A.CP_FAULT_CFG F.CP_FAULT_CFG_ISLAND_LIMIT ≤ fs.length)
  let reopen := if c.flag A.CP_FAULT_CFG F.CP_FAULT_CFG_AUTO_REOPEN && !held then some (now + ns 10000000) else none
  c.setBound t { b with faults := fs, held := held, byFault := true, reopen := reopen }

/-- A fatal-island fault in Service, Update or Drain moves the adapter to Degraded Service (R450). -/
def Chip.degrade (c : Chip) (now : Nat) : Chip :=
  let m := c.mode
  if m = Mode.service ∨ m = Mode.update ∨ m = Mode.drain then
    let c := if m = Mode.drain then c.set A.CP_DRAIN_CFG F.CP_DRAIN_CFG_SOURCES 0 else c
    (c.abortSessions now fun _ => true).enterMode now Mode.degraded
  else c

/-- A fatal-device fault: Recovery, but for Quarantine and Boot before firmware runs (R450). -/
def Chip.deviceFault (c : Chip) (now : Nat) : Chip :=
  let m := c.mode
  if m = Mode.quarantine then c.setFlag A.CP_MODE F.CP_MODE_DEVICE_FAULT true
  else if m = Mode.recovery ∨ m ≤ Mode.held ∨ (m = Mode.boot ∧ c.pwr.fwRuns = false) then c
  else c.enterMode now Mode.recovery

/-- The class action of a fatal fault with its target (R475): the fence, Sluice, the mode, the message of R474. -/
def Chip.classAct (c : Chip) (now cls : Nat) (target : Option Nat) (code : Nat) : Chip :=
  let c := (c.msix now 0 10).msix now 1 10
  match target with
  | none => if cls = 3 then c.deviceFault now else c
  | some t =>
    let c := if cls = 2 then c.noteFatal now t else c
    let c := if code = Flt.MA_MILL_DEADLOCK.code then c.haltFence now t else c.fenceBegin now t
    let c := if cls = 2 ∧ 20 ≤ t ∧ t < 22 then c.sluice now (t - 20) 7 else c
    if cls = 3 then c.deviceFault now else c.degrade now

end Sys2Proof.Machine
end

