-- ==== Sys2Proof/Machine/PowerOps.lean ====
section
/-! DEFINITION. Power domains, boot, resets, clocks, voltage and temperature (R427, R451, R454, R455, R460-R471): what switching off
loses, how boundaries open, how firmware starts. -/

namespace Sys2Proof.Machine

/-! ### Power domains (R466, R467) -/

/-- STATE of power domain `d`: 0 OFF, 1 RAMPING, 2 ON, 3 STOPPING. -/
def Chip.pwrState (c : Chip) (d : Nat) : Nat := c.get (A.CP_PWR_STATUS d) F.CP_PWR_STATUS_STATE

/-- Sets it. -/
def Chip.setPwr (c : Chip) (d s : Nat) : Chip := c.set (A.CP_PWR_STATUS d) F.CP_PWR_STATUS_STATE s

/-- The fence target of power domain `d` (Table 1-5); a Mill's half B lies in its Mill. -/
def domainTarget (d : Nat) : Nat :=
  if d = 0 then 24
  else if d = 1 then 23
  else if d < 34 then (d - 2) / 2
  else if d < 38 then 16 + (d - 34)
  else if d < 40 then 20 + (d - 38)
  else if d < 48 then 32 + (d - 40)
  else 40 + (d - 48)

/-- Whether `d` is the half B of a Mill. -/
def isHalfB (d : Nat) : Bool := decide (2 ≤ d) && decide (d < 34) && d % 2 == 1

/-- Empties the registers and counters of an address range: their contents are lost with their domain. -/
def Chip.wipe (c : Chip) (lo n : Nat) : Chip := { c with regs := mclear c.regs lo (lo + n) }

/-- The contents of power domain `d` are lost as its switch opens (R467). -/
def Chip.domainLost (c : Chip) (now d : Nat) : Chip :=
  if d < 2 then c
  else if isHalfB d then c
  else if d < 34 then
    let m := domainTarget d
    let c := (((c.wipe (0x80000000 + 0x800000 * m) 0x800000).zeroArray (32 + m)).zeroArray (48 + m)).zeroArray (64 + m)
    c.setMill m Mill.init
  else if d < 38 then
    let g := d - 34
    let c := (c.wipe (0x50000000 + 0x1000000 * g) 0x1000000).zeroArray (16 + g)
    { c with net := { c.net with rx := c.net.rx.filter fun f => f.port / 4 != g, ports := mclear c.net.ports (4 * g) (4 * g + 4) } }
  else if d < 40 then
    let e := d - 38
    let top := c.rd A.HE_TOPOLOGY
    let c := (((c.fundamental now e).perstRise e).wipe (0x20000000 + 0x8000000 * e) 0x8000000).wr A.HE_TOPOLOGY top
    (c.setEp e HostEp.init).zeroArray (20 + e)
  else if d < 48 then
    let ch := d - 40
    (((c.set (A.MC_STATUS ch) F.MC_STATUS_STATE 0).setQPort ch 0 false 0).setQPort ch 1 false 0).setKeep ch false
  else if d = 48 then (c.ceLose.wipe 0xB0000000 0x10000000).zeroArray 11
  else (c.stClear.wipe 0xC0000000 0x10000000).zeroArray 12

/-- The contents of Main are lost: every register of the units in MR and TQ, their arrays, what they held. -/
def Chip.mainLost (c : Chip) : Chip :=
  let c := ((c.wipe 0x30000000 0x20000000).wipe 0x60000000 0x20000000).wipe 0x88000000 0x8000000
  let c := (c.wipe 0x90000000 0x20000000).wipe 0xD0000000 0x8000000
  let c := (List.range 14).foldl (fun (c : Chip) a => c.zeroArray a) c
  { c with mem := { c.mem with bob := [] }, bind := [], bobSlice := [], disp := DispSt.init, cl := ClSt.init, te := [],
           tm := TmSt.init, de := DeSt.init, reqs := [], reps := [], host := { c.host with ordered := [] } }

/-- A domain that waits for its ramp, or ramps: the first is the one whose switch has closed (R467). -/
def Chip.rampAdd (c : Chip) (d : Nat) : Chip :=
  { c.setPwr d 1 with pwr := { (c.setPwr d 1).pwr with rampQ := c.pwr.rampQ ++ [d] } }

/-- The ramp of domain `d` has ended. -/
def Chip.rampEnd (c : Chip) (d : Nat) : Chip :=
  { c with pwr := { c.pwr with rampQ := c.pwr.rampQ.filter fun x => x != d } }

/-- The switch of power domain `d` opens (R467); a Mill's half B goes off with its half A, on or ramping (R28). -/
def Chip.switchOpen (c : Chip) (now d : Nat) : Chip :=
  let c := ((c.domainLost now d).setPwr d 0).rampEnd d
  let c :=
    if 2 ≤ d ∧ d < 34 ∧ d % 2 = 0 then
      ((c.setPwr (d + 1) 0).rampEnd (d + 1)).setFlag (A.CP_PWR_STATUS (d + 1)) F.CP_PWR_STATUS_QUEUED false
    else c
  if d = 1 then c.mainLost else c

/-- The switch of domain `d` closes (Table 18-5): the target is Fenced, its arrays are zeroed, a channel trains; 48-bit counters start
from 0 (R430). -/
def Chip.switchClose (c : Chip) (d : Nat) : Chip :=
  let t := domainTarget d
  let c := c.rampAdd d
  if isHalfB d then c
  else
    let c := c.setBound t { Bound.init with st := 2, held := (c.bound t).held, faults := (c.bound t).faults }
    if 40 ≤ d ∧ d < 48 then c.trainStart (d - 40) else c

/-- Whether a request to switch domain `d` keeps R28, Main being on outside Standby. -/
def Chip.pwrAllowed (c : Chip) (d : Nat) (on : Bool) : Bool :=
  let live (k : Nat) : Bool := c.pwrState k == 1 || c.pwrState k == 2
  if 2 ≤ d ∧ d < 34 then
    if d % 2 = 1 then !on || live (d - 1) else on || c.pwrState (d + 1) == 0
  else true

/-- A request for domain `d` that may be carried out at once. -/
def Chip.pwrDo (c : Chip) (now d : Nat) (on : Bool) : Chip :=
  let s := c.pwrState d
  let t := domainTarget d
  if on then (if s = 0 then c.switchClose d else c)
  else if s ≠ 2 then c
  else if (c.bound t).st = 2 then c.switchOpen now d
  else (c.setPwr d 3).fenceBegin now t

/-- CP_PWR_REQ (R466): a domain that is changing keeps the request for later. -/
def Chip.pwrReq (c : Chip) (now d : Nat) (on : Bool) : Status × Chip :=
  if d < 2 ∨ 50 ≤ d ∨ c.pwrAllowed d on = false then (Code.BAD_ARGUMENT, c)
  else if c.mode = Mode.boot ∨ c.mode = Mode.standby then (Code.MODE_REFUSED, c)
  else if c.pwrState d % 2 = 1 then
    (Code.OK, (c.setFlag (A.CP_PWR_STATUS d) F.CP_PWR_STATUS_QUEUED true).setFlag (A.CP_PWR_STATUS d) F.CP_PWR_STATUS_QUEUED_ON on)
  else (Code.OK, c.pwrDo now d on)

/-- The change of domain `d` has ended: a request that waits is carried out, if R28 still lets it. -/
def Chip.pwrNext (c : Chip) (now d : Nat) : Chip :=
  let a := A.CP_PWR_STATUS d
  if c.flag a F.CP_PWR_STATUS_QUEUED then
    let on := c.flag a F.CP_PWR_STATUS_QUEUED_ON
    let c := (c.setFlag a F.CP_PWR_STATUS_QUEUED false).setFlag a F.CP_PWR_STATUS_QUEUED_ON false
    if c.pwrAllowed d on then c.pwrDo now d on else c
  else c

/-- FENCED_REACHED of target `t` (R464, R467): a domain that stops is switched off, a reset that waits is performed. -/
def Chip.fencedReached (c : Chip) (now t : Nat) : Chip :=
  if (c.bound t).st ≠ 1 then c
  else
    let c := c.fenceDone now t
    let d := targetDomain t
    if c.pwrState d = 3 ∧ 2 ≤ d then (c.switchOpen now d).pwrNext now d
    else if t < 16 ∧ c.pwrState (3 + 2 * t) = 3 then ((c.switchOpen now (3 + 2 * t)).resetNow now t).pwrNext now (3 + 2 * t)
    else if (c.bound t).reset then c.resetNow now t
    else c

/-- Whether target `t` may leave Opening (R464): its domain ramps or is on, its replica has taken 16 good words, a channel is READY. -/
def Chip.mayOpen (c : Chip) (t : Nat) : Bool :=
  let b := c.bound t
  let d := targetDomain t
  let ramps := c.pwrState d == 1 && c.pwr.rampQ.head? == some d
  (b.st == 3 || (b.st == 2 && ramps)) && (ramps || c.pwrState d == 2) && (decide (24 ≤ t) || decide (16 ≤ b.good))
    && (decide (t < 32) || decide (40 ≤ t) || c.get (A.MC_STATUS (t - 32)) F.MC_STATUS_STATE == 2)

/-- What begins again when a boundary opens (Table 18-2, R217, R249). -/
def Chip.afterOpen (c : Chip) (now t : Nat) : Chip :=
  if 16 ≤ t ∧ t < 20 then (List.range 4).foldl (fun (c : Chip) k => c.portStart (4 * (t - 16) + k)) c
  else if t = 22 then c.teReopen now
  else (c.retryAll now).pump now

/-- The boundary of target `t` is Open; with the last fence by a fault Degraded Service ends (R449). -/
def Chip.openNow (c : Chip) (now t : Nat) : Chip :=
  let b := c.bound t
  let c := c.setBound t { b with st := 0, byFault := false, good := 0 }
  let d := targetDomain t
  let c := if c.pwrState d = 1 then (c.setPwr d 2).rampEnd d else c
  let c := c.afterOpen now t
  if b.byFault && c.mode == Mode.degraded && !c.faultFenced then c.enterMode now Mode.service else c

/-- BOUNDARY_OPEN of target `t`: Opening ends in Open, and with it the ramp of its domain; or the ramp of its Mill's half B ends. -/
def Chip.boundaryOpen (c : Chip) (now t : Nat) : Chip :=
  if c.mayOpen t then (c.openNow now t).pwrNext now (targetDomain t)
  else if t < 16 ∧ c.pwr.rampQ.head? = some (3 + 2 * t) then
    ((c.setPwr (3 + 2 * t) 2).rampEnd (3 + 2 * t)).pwrNext now (3 + 2 * t)
  else c

/-- POWER_GOOD_TIMEOUT of domain `d` (R467): the switch opens again and the target stays Fenced. -/
def Chip.powerBad (c : Chip) (now d : Nat) : Chip :=
  if c.pwr.rampQ.head? ≠ some d then c
  else
    let t := domainTarget d
    let c := c.switchOpen now d
    let isl := if t < 25 then t else if t < 40 then 22 else 23
    (c.raise now Flt.CP_POWER_FAIL isl (if t < 25 then 63 else d) 0 0).pwrNext now d

/-- CP_ISLAND_CTRL (R462). -/
def Chip.islandCtrl (c : Chip) (now t op : Nat) : Status × Chip :=
  let known := decide (t < 24) || (decide (32 ≤ t) && decide (t ≤ 41))
  if !known || (op != 1 && op != 2) || (op == 2 && decide (20 ≤ t) && decide (t < 22) && !c.sluiced (t - 20)) then (Code.BAD_ARGUMENT, c)
  else if op = 1 then (Code.OK, c.fenceBegin now t)
  else if t = 23 ∧ c.mode ≠ Mode.recovery ∧ c.mode ≠ Mode.diagnostic then (Code.MODE_REFUSED, c)
  else (Code.OK, (c.setBound t { c.bound t with held := false }).resetAsk now t)

/-- AUTO_REOPEN of target `t` (R476): 10 ms after the fault, unless the target is HELD. -/
def Chip.autoReopen (c : Chip) (now t : Nat) : Chip :=
  let b := c.bound t
  match b.reopen with
  | none => c
  | some at_ =>
    if now < at_ || b.held || b.st == 0 || b.st == 3 || !c.flag A.CP_FAULT_CFG F.CP_FAULT_CFG_AUTO_REOPEN then c
    else c.resetAsk now t

/-! ### Boot (R422, R426, R427, R448, R451) -/

/-- Whether firmware copy `k` verifies (R426). -/
def Chip.verifies (c : Chip) (k : Nat) : Bool :=
  let f := nth ⟨false, 0, 0⟩ c.flash.fw k
  f.sound && decide (f.keyId ≤ 1) && !(f.keyId == 0 && c.flag A.CP_BOOT F.CP_BOOT_KEY0_REVOKED)
    && decide (c.get A.CP_BOOT F.CP_BOOT_SVN_MIN ≤ f.svn)

/-- The entries that the flash holds, oldest first. -/
def Chip.mirrored (c : Chip) : List (List Word) :=
  (c.flash.blocks.flatMap fun b => b.2.entries).mergeSort fun a b => decide ((nth 0 a 0).toNat ≤ (nth 0 b 0).toNat)

/-- The key store as boot reads it (R417): the newer valid copy, else nothing and CP_KEYSTORE_FAIL. -/
def Chip.readKeys (c : Chip) (now : Nat) : Chip :=
  let copy := if nth false c.flash.keyOk 0 then some (nth [] c.flash.keys 0)
    else if nth false c.flash.keyOk 1 then some (nth [] c.flash.keys 1) else none
  match copy with
  | none => c.raise now Flt.CP_KEYSTORE_FAIL 24 63 0 0
  | some ks => ks.foldl (fun (c : Chip) (s, k) =>
      let c := { c with cmd := { c.cmd with keys := mset [] c.cmd.keys s k.key } }
      let c := (c.wr (A.CP_KEY s) (BitVec.ofNat 64 k.last)).wr (A.CP_KEY s + 8) (BitVec.ofNat 64 k.gen)
      c.setFlag (A.CP_KEY s) F.CP_KEY_ACTIVE (!k.key.isEmpty)) c

/-- A new epoch of the journal (R422): its first entry is a MIRROR_GAP, chained to the newest mirrored entry. -/
def Chip.journalStart (c : Chip) (now : Nat) : Chip :=
  let last := (c.mirrored).getLast?
  let epoch := max c.flash.epoch ((last.map fun e => (nth 0 e 0).toNat / 2 ^ 40).getD 0) + 1
  let c := c.wr A.CP_JOURNAL_NEXT (BitVec.ofNat 64 (epoch * 2 ^ 40))
  let c := c.wr A.CP_JOURNAL_MIRRORED (BitVec.ofNat 64 (epoch * 2 ^ 40))
  let c := { c with cmd := { c.cmd with prev := last.getD [] } }
  let a0 := (last.map fun e => nth 0 e 0 + 1).getD 0
  if c.flash.present then
    ({ c with flash := { c.flash with epoch := epoch } }).journal now { JEvent.base with event := 0xE, level := 0, a0 := a0, a1 := -1 }
  else
    (c.journal now { JEvent.base with event := 0xE, level := 0, result := Code.FLASH_FAIL, a0 := a0, a1 := -1 }).raise now
      Flt.CP_FLASH_FAIL 24 63 0 0

/-- The boot ROM after Held (R451, R468): journal and key store, AO and the endpoint domains on, Main's switch closed with MR and TQ held
Fenced. -/
def Chip.bootStart (c : Chip) (now : Nat) : Chip :=
  if c.pwr.bootRom then c
  else
    let c := { c with pwr := { c.pwr with bootRom := true } }
    let c := c.setFlag A.CP_FLASH_STATUS F.CP_FLASH_STATUS_PRESENT c.flash.present
    let c := c.journalStart now
    let c := c.journal now { JEvent.base with event := 2, level := 0, detail := Mode.boot, a0 := BitVec.ofNat 64 Mode.held }
    let c := ((c.readKeys now).setPwr 0 2).setPwr 1 1
    let c := (c.setBound 22 { Bound.init with st := 2 }).setBound 23 { Bound.init with st := 2 }
    (c.setPwr 38 2).setPwr 39 2

/-- The domains the firmware powers in Boot and at wake (R451), beside Main. -/
def Chip.bootDomains (c : Chip) : List Nat :=
  [1] ++ (List.range 4).map (· + 34) ++ [38, 39] ++ (List.range 8).map (· + 40)
    ++ ((List.range 32).filter fun k => natBits (c.get A.CP_BOOT_CFG F.CP_BOOT_CFG_MILL_HALVES) k 1 == 1
        && (k % 2 == 0 || natBits (c.get A.CP_BOOT_CFG F.CP_BOOT_CFG_MILL_HALVES) (k - 1) 1 == 1)).map (· + 2)
    ++ (if c.flag A.CP_BOOT_CFG F.CP_BOOT_CFG_CE_EN then [48] else [])
    ++ (if c.flag A.CP_BOOT_CFG F.CP_BOOT_CFG_ST_EN then [49] else [])

/-- The firmware powers Main, the channels, the Mill halves and the engines; what was off stays Fenced until self-test has ended, and the
channels that were off train. A half or an engine domain that CP_BOOT_CFG leaves out is off. -/
def Chip.powerUp (c : Chip) : Chip :=
  let on := c.bootDomains
  let c := ((List.range 32).map (· + 2) ++ [48, 49]).foldl (fun (c : Chip) d => if memNat d on then c else c.setPwr d 0) c
  let c := c.bootDomains.foldl (fun (c : Chip) d =>
    if c.pwrState d = 2 then c
    else
      let c := c.setPwr d 2
      if isHalfB d then c
      else
        let c := c.setBound (domainTarget d) { Bound.init with st := 2 }
        let c := if d = 1 then c.setBound 22 { Bound.init with st := 2 } else c
        if 40 ≤ d ∧ d < 48 then c.trainStart (d - 40) else c) c
  { c with pwr := { c.pwr with testing := true, rampQ := [] } }

/-- Firmware copy `k` starts: CP_BOOT, the journal, the watchdog's count (R427, R461). -/
def Chip.fwStart (c : Chip) (now k : Nat) : Chip :=
  let b := A.CP_BOOT
  let svn := (nth ⟨false, 0, 0⟩ c.flash.fw k).svn
  let c := ((c.set b F.CP_BOOT_COPY k).setFlag b F.CP_BOOT_OTHER_VALID (c.verifies (1 - k))).set b F.CP_BOOT_ROM_COPY c.flash.rom
  let c := c.set b F.CP_BOOT_SVN svn
  let c := c.journal now { JEvent.base with event := 0xF, level := 0, detail := k, a0 := BitVec.ofNat 64 svn, a1 := 0 }
  { c with pwr := { c.pwr with fwRuns := true, fwStale := false, bootFail := false,
                               fwKey := (nth ⟨false, 0, 0⟩ c.flash.fw k).keyId,
                               wdogAt := now + ns (1000000 * c.get A.CP_WDOG F.CP_WDOG_TIMEOUT_MS) } }

/-- The copy that runs, the preferred one first: none where neither verifies. -/
def Chip.pickCopy (c : Chip) : Option Nat :=
  if c.verifies c.flash.pref then some c.flash.pref else if c.verifies (1 - c.flash.pref) then some (1 - c.flash.pref) else none

/-- Neither copy verifies (R427). -/
def Chip.bootFailed (c : Chip) (now : Nat) : Chip :=
  if c.pwr.bootFail then c
  else
    let c := { c with pwr := { c.pwr with bootFail := true } }
    let c := c.journal now { JEvent.base with event := 0xF, level := 0, detail := c.flash.pref, a1 := BitVec.ofNat 64 Code.SIGNATURE }
    c.raise now Flt.CP_BOOT_FAIL 24 63 0 0

/-- Whether the VDD_CORE regulator reports a format the adapter writes: linear, mode bits 0, or direct, mode bits 2 (R487). -/
def Chip.vddFormat (c : Chip) : Bool := c.pwr.vout == 0 || c.pwr.vout == 2

/-- FIRMWARE_START (R427): the boot ROM has verified a copy and starts it, or stays in Boot. After a warm reset the firmware is verified
again only where the preferred copy has changed. The format of the VDD_CORE regulator is read (R487). -/
def Chip.firmwareStart (c : Chip) (now : Nat) : Chip :=
  if c.mode ≠ Mode.boot ∨ c.pwr.fwRuns = true then c
  else
    let c := c.bootStart now
    let keep := c.pwr.warmBoot && !c.pwr.fwStale
    match (if keep then some (c.get A.CP_BOOT F.CP_BOOT_COPY) else c.pickCopy) with
    | none => c.bootFailed now
    | some k =>
      let c := (c.fwStart now k).powerUp
      let c := if c.vddFormat then c else c.raise now Flt.CP_SUPPLY_FAULT 24 63 0 0
      if c.pwr.wdogDue then
        ({ c with pwr := { c.pwr with wdogDue := false } }).raise now Flt.CP_WATCHDOG 24 63 0 0
      else c

/-- Raises CP_SELFTEST_FAIL for each failing part (R451). -/
def Chip.testFailures (c : Chip) (now isl qdr eng : Nat) : Chip :=
  let c := (List.range 25).foldl (fun (c : Chip) n => if natBits isl n 1 = 1 then c.raise now Flt.CP_SELFTEST_FAIL n 63 0 0 else c) c
  let c := (List.range 8).foldl (fun (c : Chip) k =>
    if natBits qdr k 1 = 1 then c.raise now Flt.CP_SELFTEST_FAIL 22 (40 + k) 0 0 else c) c
  (List.range 2).foldl (fun (c : Chip) k =>
    if natBits eng k 1 = 1 then c.raise now Flt.CP_SELFTEST_FAIL 23 (48 + k) 0 0 else c) c

/-- Whether target `t` failed self-test. -/
def testFailed (isl qdr eng t : Nat) : Bool :=
  if t < 25 then natBits isl t 1 == 1
  else if t < 40 then natBits qdr (t - 32) 1 == 1
  else natBits eng (t - 40) 1 == 1

/-- The fence targets other than AO. -/
def fenceTargets : List Nat := List.range 24 ++ (List.range 10).map (· + 32)

/-- Whether target `t` opens at the end of self-test: it is powered, not Open, and has not failed (R451). -/
def Chip.testOpens (c : Chip) (isl qdr eng t : Nat) : Bool :=
  c.pwrState (targetDomain t) == 2 && (c.bound t).st != 0 && !testFailed isl qdr eng t

/-- SELF_TEST_END (R451): the masks name what failed; the rest opens, and the adapter enters Provision, or Recovery for AO and MR. Self-test
follows training, so every channel that passes is READY, and the replica of an island that opens has its 16 synchronisation words (R464). -/
def Chip.selfTestEnd (c : Chip) (now isl qdr eng : Nat) : Chip :=
  let waits := (List.range 8).any fun k => c.pwrState (40 + k) == 2 && natBits qdr k 1 == 0
    && c.get (A.MC_STATUS k) F.MC_STATUS_STATE != 2
  let unsynced := (List.range 24).any fun t => c.testOpens isl qdr eng t && decide ((c.bound t).good < 16)
  if !c.pwr.testing || waits || unsynced then c
  else
    let c := { c with pwr := { c.pwr with testing := false, warmBoot := false } }
    let c := ((c.set A.CP_SELFTEST F.CP_SELFTEST_FAILED isl).set A.CP_SELFTEST F.CP_SELFTEST_QDR_FAILED qdr).set A.CP_SELFTEST
      F.CP_SELFTEST_ENGINE_FAILED eng
    let c := fenceTargets.foldl (fun (c : Chip) t => if c.testOpens isl qdr eng t then c.openNow now t else c) c
    let c := if c.mode = Mode.boot ∧ natBits isl 23 1 = 0 ∧ natBits isl 24 1 = 0 then c.enterMode now Mode.provision
      else if c.mode = Mode.standby then
        let d := c.enterMode now Mode.provision
        { d with due := d.due ++ [Due.modeEnd Code.OK] }
      else c
    c.testFailures now isl qdr eng

/-! ### Standby and wake (R454, R468) -/

/-- The domains in switch-off order (R468). -/
def offOrder : List Nat :=
  ((List.range 16).map fun k => 33 - 2 * k) ++ ((List.range 16).map fun k => 32 - 2 * k) ++ [49, 48]
    ++ ((List.range 8).map fun k => 47 - k) ++ [39, 38, 37, 36, 35, 34, 1]

/-- A domain is fenced and switched off. -/
def Chip.cutOff (now : Nat) (c : Chip) (d : Nat) : Chip :=
  if c.pwrState d = 0 then c
  else if isHalfB d then (c.setPwr d 0).rampEnd d
  else
    let t := domainTarget d
    let c := (if (c.bound t).st = 2 then c else (c.fenceBegin now t).fenceDone now t)
    let c := if d = 1 ∧ (c.bound 22).st ≠ 2 then (c.fenceBegin now 22).fenceDone now 22 else c
    c.switchOpen now d

/-- STANDBY_POWER_DOWN: one millisecond after the word every domain but AO and the keepalive group powers down. -/
def Chip.standbyOff (c : Chip) (now : Nat) : Chip :=
  match c.pwr.standbyDown with
  | none => c
  | some t =>
    if c.mode ≠ Mode.standby ∨ now < t then c
    else
      let c := (offOrder.filter fun d => d != 34 + c.get A.CP_STANDBY_CFG F.CP_STANDBY_CFG_GROUP).foldl (Chip.cutOff now) c
      { c with pwr := { c.pwr with standbyDown := none, rampQ := [] } }

/-- Wake: the domains power up as in Boot and self-test runs (R454). -/
def Chip.wake (c : Chip) : Chip :=
  if c.mode = Mode.standby ∧ c.pwr.testing = false then
    ({ c with pwr := { c.pwr with standbyDown := none } }).powerUp
  else c

/-- An edge on a GPIO input (R454): the level is kept, and one that CP_STANDBY_CFG waits for wakes the adapter. -/
def Chip.gpioEdge (c : Chip) (n : Nat) (level : Bool) : Chip :=
  let old := natBits c.pwr.gpioIn n 1 == 1
  let c := { c with pwr := { c.pwr with gpioIn := if level then c.pwr.gpioIn ||| 2 ^ n else c.pwr.gpioIn &&& (65535 - 2 ^ n) } }
  let cfg := A.CP_STANDBY_CFG
  if old ≠ level ∧ c.flag cfg F.CP_STANDBY_CFG_WAKE_EN = true ∧ c.get cfg F.CP_STANDBY_CFG_WAKE_GPIO = n
      ∧ c.flag cfg F.CP_STANDBY_CFG_WAKE_LEVEL = level then c.wake
  else c

/-- KEEPALIVE_MS passes in Standby: a state word frame on the lowest port of the group that has link. -/
def Chip.keepalive (c : Chip) (now : Nat) : Chip :=
  if c.mode ≠ Mode.standby ∨ now < c.pwr.keepAt then c
  else
    let g := c.get A.CP_STANDBY_CFG F.CP_STANDBY_CFG_GROUP
    let c := { c with pwr := { c.pwr with keepAt := now + ns (1000000 * c.get A.CP_STANDBY_CFG F.CP_STANDBY_CFG_KEEPALIVE_MS) } }
    match ((List.range 4).map (4 * g + ·)).find? c.link with
    | none => c
    | some p =>
      let (w, c) := c.stateWord now
      c.tlmFrame now p [(3, w)]

/-- What an accepted MODE does (R449): nothing for the mode the adapter is in; the wait for Standby or for a wake begins, which `true` says. -/
def Chip.modeRequest (c : Chip) (now m : Nat) : Status × Bool × Chip :=
  if m = 0 ∨ 13 ≤ m then (Code.BAD_ARGUMENT, false, c)
  else if m = c.mode then (Code.OK, false, c)
  else if c.mode = Mode.quarantine ∧ (m = Mode.provision ∨ m = Mode.service) ∧ c.flag A.CP_MODE F.CP_MODE_DEVICE_FAULT = true then
    (Code.OK, false, c.enterMode now Mode.recovery)
  else if !c.modeListed m then (Code.MODE_REFUSED, false, c)
  else if m = Mode.standby then
    (Code.OK, true, ({ c with pwr := { c.pwr with standby := some (c.pwr.standby.getD (now + ns 100000000)) } }).standbyEnter now)
  else if c.mode = Mode.standby then (Code.OK, true, c.wake)
  else (Code.OK, false, c.enterTarget now m)

/-! ### Firmware restart (R455) -/

/-- ACTIVATE: the Control Plane restarts. -/
def Chip.activate (c : Chip) : Chip :=
  { c.setFlag A.CP_FW_CTRL F.CP_FW_CTRL_FW_BUSY true with pwr := { c.pwr with fwRuns := false } }

/-- FW_RESTART_END: the preferred copy runs, or the other where it does not verify. -/
def Chip.restartEnd (c : Chip) (now : Nat) : Chip :=
  if !c.flag A.CP_FW_CTRL F.CP_FW_CTRL_FW_BUSY then c
  else
    let c := c.setFlag A.CP_FW_CTRL F.CP_FW_CTRL_FW_BUSY false
    match c.pickCopy with
    | some k => (((c.fwStart now k).bwWindowClose now).billMinuteClose now).pump now
    | none => ({ c with pwr := { c.pwr with fwRuns := true } }).bootFailed now

/-! ### Resets (R460, R461) -/

/-- Whether a warm reset keeps the unit at an address: the CP, FT and HE regions, the counters, the channels' state (Table 18-1). -/
def warmKeeps (a : Nat) : Bool :=
  decide (a < 0x30000000)
    || (match findRow (regionRows a) a with
        | some (r, _) => r.isCounter || r.base == A.MA_CNT 0 0 || r.base == A.MC_STATUS 0
        | none => false)

/-- Word 1 of a Scheduled Action Table entry that ends. -/
def Chip.satFail (c : Chip) (n st result : Nat) : Chip :=
  let a := A.FT_SAT n
  let c := (c.set a F.FT_SAT_STATE st).set a F.FT_SAT_RESULT result
  { c with ft := { c.ft with finSeq := c.ft.finSeq + 1, finOrder := mset 0 c.ft.finOrder n (c.ft.finSeq + 1) } }

/-- Every keyed entry that is live ends FAILED with ABSENT and is journaled (R461). -/
def Chip.satLose (c : Chip) (now : Nat) : Chip :=
  let c := (List.range 1024).foldl (fun (c : Chip) n =>
    if c.satLive n && c.satKeyed n then
      let c := c.satFail n 4 Code.ABSENT
      let c := c.journal now { JEvent.base with event := 5, level := 1, result := Code.ABSENT, detail := n, a0 := c.rd (A.FT_SAT n),
                                                 w4 := BitVec.ofNat 64 (mget 0 c.ft.armState n) }
      c.raise now Flt.FT_ACTION_FAILED 24 63 0 0
    else c) c
  { c with ft := { c.ft with armed := [], steerTs := [] } }

/-- The Mills, ports and Millrace units after a warm reset: nothing of their work is left; instruction memories, Millponds, rule banks,
pricking slots and caches are empty (Table 18-1). -/
def Chip.warmClear (c : Chip) : Chip :=
  let keep := c.mem.stitchS.filter fun p => p.1 / 2 ^ 24 == 20 || p.1 / 2 ^ 24 == 21 || p.1 / 2 ^ 24 == 24
  { c with regs := c.regs.filter fun p => warmKeeps p.1,
           mem := { c.mem with bob := [], stitchS := keep }, mills := [], xmsgs := [], xcreds := [], reqs := [], reps := [],
           disp := DispSt.init, bind := [], bobSlice := [], cl := ClSt.init, net := { NetSt.init with sent := c.net.sent },
           tm := TmSt.init, de := DeSt.init, te := [], ce := { CeSt.init with wraps := c.ce.wraps }, sto := StSt.init,
           host := { c.host with ordered := [] } }

/-- A warm reset (R461): every boundary in its scope is fenced, TQ's with it, so that dirty counter lines are lost (R217); the keyed
entries end, and the adapter enters Boot. -/
def Chip.warmReset (c : Chip) (now cause : Nat) : Chip :=
  let scope := fenceTargets.filter fun t => decide (t < 20) || decide (21 < t)
  let c := (c.endFetches 0).endFetches 1
  let c := (((c.satLose now).cntLost 0).cntLost 1).warmClear
  let c := scope.foldl (fun (c : Chip) t =>
    if c.pwrState (targetDomain t) = 0 then c else c.setBound t { c.bound t with st := 2, good := 0, reset := false, reopen := none,
                                                                                 byFault := false }) c
  let n := c.get A.CP_RESET_CAUSE F.CP_RESET_CAUSE_WARM_COUNT
  let c := (c.set A.CP_RESET_CAUSE F.CP_RESET_CAUSE_CAUSE cause).set A.CP_RESET_CAUSE F.CP_RESET_CAUSE_WARM_COUNT (n + 1)
  let c := c.setFlag A.CP_FW_CTRL F.CP_FW_CTRL_FW_BUSY false
  let c := { c with pwr := { c.pwr with fwRuns := false, warmBoot := true, testing := false, standbyDown := none, clkBusy := [] } }
  c.enterMode now Mode.boot

/-- WATCHDOG_EXPIRY (R461): the warm reset follows in AO hardware, the record once firmware runs. -/
def Chip.watchdog (c : Chip) (now : Nat) : Chip :=
  if c.pwr.fwRuns && c.flag A.CP_WDOG F.CP_WDOG_ENABLE && decide (c.pwr.wdogAt ≤ now) then
    let c := c.warmReset now 5
    { c with pwr := { c.pwr with wdogDue := true } }
  else c

/-- The adapter after a cold reset (R460, Table 18-1): fuses and flash are kept, every register takes its Reset value, the mode is as given. -/
def Chip.cold (c : Chip) (mode cause : Nat) : Chip :=
  let b := c.rd A.CP_BOOT
  let d := { Chip.init with free := c.free, flash := c.flash, net := { NetSt.init with sent := c.net.sent },
                            host := { HostSt.init with tlps := c.host.tlps }, tap := c.tap,
                            pwr := { PwrSt.init with rstN := c.pwr.rstN, pwrOk := c.pwr.pwrOk, testMode := c.pwr.testMode,
                                                     gpioIn := c.pwr.gpioIn, perst := c.pwr.perst, supplyOk := c.pwr.supplyOk, vout := c.pwr.vout } }
  let d := (d.set A.CP_BOOT F.CP_BOOT_SVN_MIN (getBits b 16 8)).set A.CP_BOOT F.CP_BOOT_KEY0_REVOKED (getBits b 24 1)
  (d.set A.CP_MODE F.CP_MODE_CURRENT mode).set A.CP_RESET_CAUSE F.CP_RESET_CAUSE_CAUSE cause

/-- RST_N and PWR_OK are high and TEST_MODE is low (R449): the adapter enters Boot, and the boot ROM begins (R451). -/
def Chip.releaseReset (c : Chip) (now : Nat) : Chip :=
  if c.mode = Mode.boot then c.bootStart now
  else if c.mode ≠ Mode.held ∨ c.pwr.supplyOk = false then c
  else
    let c := { c with pwr := { c.pwr with rstN := true, pwrOk := true, testMode := false } }
    ((c.set A.CP_MODE F.CP_MODE_PREVIOUS Mode.held).set A.CP_MODE F.CP_MODE_CURRENT Mode.boot).bootStart now

/-! ### Clocks, voltage, temperature (R469-R471) -/

/-- The clock of Mill `m` in force: MHZ_SET, no higher than the throttle, less what voltage has cost. -/
def Chip.millMhz (c : Chip) (m : Nat) : Nat :=
  let set := c.get (A.CP_CLK_MILL m) F.CP_CLK_MILL_MHZ_SET
  (if c.pwr.throttled then min set (c.get A.CP_THERMAL F.CP_THERMAL_THROTTLE_MHZ) else set) - 100 * mget 0 c.pwr.avsCut m

/-- MHZ_NOW of Mill `m` follows. -/
def Chip.showMhz (c : Chip) (m : Nat) : Chip := c.set (A.CP_CLK_MILL m) F.CP_CLK_MILL_MHZ_NOW (c.millMhz m)

/-- MHZ_SET of Mill `m` has been written (R469): its cores stop until the new clock is in force. -/
def Chip.clkWrite (c : Chip) (now m : Nat) : Chip :=
  if memNat m c.pwr.clkBusy then c
  else { c.setMill m { c.mill m with clkAt := c.stampIn m now } with pwr := { c.pwr with clkBusy := m :: c.pwr.clkBusy } }

/-- MILL_CLOCK_CHANGE_DONE of Mill `m`: issue and dispatch resume, and the measurements go on where they paused. -/
def Chip.clkDone (c : Chip) (now m : Nat) : Chip :=
  if !memNat m c.pwr.clkBusy then c
  else
    let c := { c with pwr := { c.pwr with clkBusy := c.pwr.clkBusy.filter fun k => k != m } }
    let x := c.mill m
    let d := c.stampIn m now - x.clkAt
    let ts := x.threads.map fun (e : Nat × Thread) => (e.1, if e.2.wait = .none then e.2 else { e.2 with since := e.2.since + d })
    (c.setMill m { x with stall := x.stall.map (· + d), threads := ts, clkAt := 0 }).showMhz m

/-- Whether island `n` has stepped its segment within the last 10 µs (R470). -/
def Chip.avsWaits (c : Chip) (now n : Nat) : Bool := (mget none c.pwr.avsAt n).any fun t => decide (t ≤ now) && decide (now < t + ns 10000)

/-- One step of the VDD_CORE segment of island `n`, at most one in 10 µs (R470). -/
def Chip.avsStep (c : Chip) (now n : Nat) (up : Bool) : Chip :=
  let a := A.CP_AVS n
  let mv := c.get a F.CP_AVS_MV
  let waits := c.avsWaits now n
  let c := { c with pwr := { c.pwr with avsAt := if waits then c.pwr.avsAt else mset none c.pwr.avsAt n (some now) } }
  if waits then c
  else if up then
    if 850 ≤ mv then
      if n < 16 then
        let cut := mget 0 c.pwr.avsCut n + 1
        (({ c with pwr := { c.pwr with avsCut := mset 0 c.pwr.avsCut n cut } }).showMhz n).raise now Flt.CP_AVS_LIMIT n 63 0 0
      else c.raise now Flt.CP_ISLAND_CLOCK n 63 0 0
    else (c.set a F.CP_AVS_MV (mv + 5)).setFlag a F.CP_AVS_AT_LIMIT (decide (850 ≤ mv + 5))
  else if 650 < mv then (c.set a F.CP_AVS_MV (mv - 5)).setFlag a F.CP_AVS_AT_LIMIT false
  else c

/-- THERMAL_THRESHOLD: the hottest sensor reads `temp` sixteenths of a degree (R471). -/
def Chip.thermal (c : Chip) (now : Nat) (temp : Int) : Chip :=
  let thr : Int := 16 * (c.get A.CP_THERMAL F.CP_THERMAL_THROTTLE_C : Nat)
  let trip : Int := 16 * (c.get A.CP_THERMAL F.CP_THERMAL_TRIP_C : Nat)
  let all (c : Chip) : Chip := (List.range 16).foldl (fun (c : Chip) m => c.showMhz m) c
  let c := if thr ≤ temp ∧ c.pwr.throttled = false then
      (all { c with pwr := { c.pwr with throttled := true } }).raise now Flt.CP_THERMAL_THROTTLE 24 63 0 0
    else if temp < thr - 80 ∧ c.pwr.throttled = true then all { c with pwr := { c.pwr with throttled := false } }
    else c
  if trip ≤ temp then
    let off := offOrder.filter fun d => decide (d < 38) && decide (2 ≤ d) || decide (48 ≤ d)
    (off.foldl (Chip.cutOff now) c).raise now Flt.CP_THERMAL_TRIP 24 63 0 0
  else c

end Sys2Proof.Machine
end

