-- ==== Sys2Proof/Machine/Windows.lean ====
section
/-! DEFINITION. The windows of the Control Address Space onto memories (R32, R75, R98, R130, R191): the QDR and bobbin data windows, the
Millpond and instruction memory windows of a Mill, and its thread state window. -/

namespace Sys2Proof.Machine

/-! ### Code words behind an address -/

/-- The memory a window unit lies in, and its 32-byte code word there. -/
inductive Place where
  | qdr (e w : Nat)
  | bob (w : Nat)
  | pond (m w : Nat)
  | imem (m w : Nat)
  | head (m t q : Nat)
  | scratch (m t q : Nat)
  deriving DecidableEq, Repr

/-- The Mill whose region an address lies in, with the offset (Table 1-6). -/
def millOffset (a : Nat) : Option (Nat × Nat) :=
  if 0x80000000 ≤ a ∧ a < 0x88000000 then some ((a - 0x80000000) / 0x800000, a % 0x800000) else none

/-- The thread a Mill's thread state window shows (R130). -/
def Chip.shown (c : Chip) (m : Nat) : Nat := c.get (A.MA_DBG_SEL m) F.MA_DBG_SEL_TID

/-- The code word of a window an address lies in, or none where it lies in no window onto code words. -/
def Chip.place (c : Chip) (a : Nat) : Option Place :=
  if 0x100000000 ≤ a ∧ a < 0x120000000 then some (.qdr ((a - 0x100000000) / 2 ^ 28) (a % 2 ^ 28 / 32))
  else if 0x200000000 ≤ a ∧ a < 0x206000000 then some (.bob ((a - 0x200000000) / 32))
  else
    match millOffset a with
    | none => none
    | some (m, o) =>
      if 0x200000 ≤ o ∧ o < 0x400000 then some (.pond m ((o - 0x200000) / 32))
      else if 0x400000 ≤ o ∧ o < 0x440000 then some (.imem m ((o - 0x400000) / 32))
      else if 0xB00 ≤ o ∧ o < 0xC00 then some (.head m (c.shown m) ((o - 0xB00) / 32))
      else if 0xC00 ≤ o ∧ o < 0xE00 then some (.scratch m (c.shown m) ((o - 0xC00) / 32))
      else none

/-- The on-die array and word of a place, or none for QDR. -/
def Place.array : Place → Option (Nat × Nat)
  | .qdr _ _ => none
  | .bob w => some (0, w)
  | .pond m w => some (32 + m, w)
  | .imem m w => some (48 + m, w)
  | .head m t q => some (64 + m, threadWord t q)
  | .scratch m t q => some (64 + m, threadWord t (8 + q))

/-- Whether the place answers the Control Plane (R31, R394). -/
def Chip.placeUp (c : Chip) : Place → Bool
  | .qdr e w => c.qReady (qdrChannel e w)
  | .bob _ => c.open1 23
  | .pond m _ => c.reach m
  | .imem m _ => c.reach m
  | .head m _ _ => c.reach m
  | .scratch m _ _ => c.reach m

/-- A read of the code word by the Control Plane: whether it is poisoned (R386, R389); `source` as in R401. -/
def Chip.placeRead (c : Chip) (now source : Nat) (p : Place) : Bool × Chip :=
  match p, p.array with
  | .qdr e w, _ => c.readChan now (qdrChannel e w) (qdrChannelWord w) source 0
  | _, some (a, w) => c.readSram now a w source 0
  | _, none => (false, c)

/-- Whether the code word is marked or uncorrectable as it stands. -/
def Chip.placeBad (c : Chip) (p : Place) : Bool :=
  codeBad (match p, p.array with
    | .qdr e w, _ => c.qres (qdrChannel e w) (qdrChannelWord w)
    | _, some (a, w) => c.sram a w
    | _, none => 0)

/-- The code word takes a new mark-free value with its whole content (R388). -/
def Chip.placeClean (c : Chip) (p : Place) : Chip :=
  match p, p.array with
  | .qdr e w, _ => c.setQres (qdrChannel e w) (qdrChannelWord w) 0
  | _, some (a, w) => c.setSram a w 0
  | _, none => c

/-- Eight data bytes of the code word from byte `o` up. -/
def Chip.placeGet (c : Chip) (o : Nat) : Place → Word
  | .qdr e w => leWord (rdBytes c.mem.qdr (qdrByte e w + o) 8)
  | .bob w => leWord (rdBytes c.mem.bob (32 * w + o) 8)
  | .pond m w => leWord (rdBytes (c.mill m).pond (32 * w + o) 8)
  | .imem m w => leWord (rdBytes (c.mill m).imem (32 * w + o) 8)
  | .head m t q => leWord (rdBytes (c.th m t).head (32 * q + o) 8)
  | .scratch m t q => leWord (rdBytes (c.th m t).scratch (32 * q + o) 8)

/-- Sets eight data bytes of the code word from byte `o` up. -/
def Chip.placePut (c : Chip) (o : Nat) (v : Word) : Place → Chip
  | .qdr e w => { c with mem := { c.mem with qdr := wrBytes c.mem.qdr (qdrByte e w + o) (leBytes 8 v.toNat) } }
  | .bob w => { c with mem := { c.mem with bob := wrBytes c.mem.bob (32 * w + o) (leBytes 8 v.toNat) } }
  | .pond m w => let x := c.mill m; c.setMill m { x with pond := wrBytes x.pond (32 * w + o) (leBytes 8 v.toNat) }
  | .imem m w => let x := c.mill m; c.setMill m { x with imem := wrBytes x.imem (32 * w + o) (leBytes 8 v.toNat) }
  | .head m t q => let x := c.th m t; c.setTh m t { x with head := wrBytes x.head (32 * q + o) (leBytes 8 v.toNat) }
  | .scratch m t q => let x := c.th m t; c.setTh m t { x with scratch := wrBytes x.scratch (32 * q + o) (leBytes 8 v.toNat) }

/-! ### The thread state window (R127, R130, Table 4-8) -/

/-- Whether an offset of a Mill lies in its thread state window. -/
def inThreadWindow (o : Nat) : Bool := decide (0x800 ≤ o) && decide (o < 0xE00)

/-- The status with which an access to a unit of the window ends before any word is read: R127, then R130. -/
def Chip.windowCheck (c : Chip) (m o : Nat) (write : Bool) : Status :=
  if !c.dbgOn m then Code.DBG_DISABLED
  else if o = 0x9C0 ∧ write = false then Code.OK
  else if (c.th m (c.shown m)).st = 7 then Code.OK
  else Code.DBG_NOT_HALTED

/-- A join slot as the window shows it. -/
def JoinSlot.word (j : JoinSlot) : Word :=
  BitVec.ofNat 64 (j.tid + (if j.filled then 2 ^ 8 else 0) + (if j.ended then 2 ^ 9 else 0) + (if j.abnormal then 2 ^ 10 else 0)
    + j.status % 2 ^ 16 * 2 ^ 16)

/-- One bit for each filled join slot. -/
def joinMask : List JoinSlot → Nat
  | [] => 0
  | j :: js => (if j.filled then 1 else 0) + 2 * joinMask js

/-- A unit of the window that is no code word; offset 0x0A00 is s0 (entry 43), an offset that Table 4-8 does not name reads 0. -/
def Chip.windowGet (c : Chip) (m o free : Nat) : Word :=
  let t := c.shown m
  let x := c.th m t
  if o < 0x900 then x.reg ((o - 0x800) / 8)
  else if o < 0x940 then nth 0 x.outb ((o - 0x900) / 8)
  else if o < 0x980 then nth 0 x.inb ((o - 0x940) / 8)
  else if o < 0x9C0 then BitVec.ofNat 64 (nth 0 x.rs ((o - 0x980) / 8))
  else if o = 0x9C0 then BitVec.ofNat 64 (x.pc + x.rs.length * 2 ^ 16 + x.st * 2 ^ 20 + joinMask x.joins * 2 ^ 24)
  else if o < 0xA00 then (nth JoinSlot.empty x.joins ((o - 0x9C8) / 8)).word
  else match c.special m t ((o - 0xA00) / 8) free with
    | some w => w
    | none => 0

/-- A write of such a unit: BAD_ARGUMENT for a read-only word or a PRIO above 3. -/
def Chip.windowPut (c : Chip) (m o : Nat) (v : Word) : Status × Chip :=
  let t := c.shown m
  let x := c.th m t
  if o < 0x900 then (Code.OK, c.setTh m t (x.setReg ((o - 0x800) / 8) v))
  else if o < 0x940 then (Code.OK, c.setTh m t { x with outb := setNth x.outb ((o - 0x900) / 8) v })
  else if o = 0x9C0 then (Code.OK, c.setTh m t { x with pc := getBits v 0 16, brk := false })
  else if o = 0xA18 then (if v.toNat ≤ 3 then (Code.OK, c.setTh m t { x with prio := v.toNat }) else (Code.BAD_ARGUMENT, c))
  else if o = 0xA60 then (Code.OK, c.setTh m t { x with cs := BitVec.ofNat 64 (getBits v 0 30) })
  else (Code.BAD_ARGUMENT, c)

/-! ### Windows onto code words: PUT and GET (R32) -/

/-- A run of units inside one code word: its place, the byte its first unit starts at, the values. -/
structure Part where
  place : Place
  off   : Nat
  vals  : List Word
  deriving DecidableEq, Repr

/-- Whether a part covers its whole code word. -/
def Part.whole (p : Part) : Bool := p.vals.length == 4

/-- Cuts units from address `a` up into parts; none where a unit lies in no such window. -/
def Chip.parts (c : Chip) : Nat → List Word → Option (List Part)
  | _, [] => some []
  | a, v :: vs =>
    match c.place a, Chip.parts c (a + 8) vs with
    | some p, some (q :: ps) => if q.place = p then some ({ q with off := a % 32, vals := v :: q.vals } :: ps) else some (⟨p, a % 32, [v]⟩ :: q :: ps)
    | some p, some [] => some [⟨p, a % 32, [v]⟩]
    | _, _ => none

/-- What the owner of a part's words makes of a write (R191, R216, R300). -/
def Chip.partOwner (c : Chip) (p : Part) : Status :=
  match p.place with
  | .qdr e w =>
    let k := (c.areaOf e w).1
    if k = 0 then Code.OK
    else if k = 4 then Code.BAD_ARGUMENT
    else if p.whole && k < 3 && c.placeBad p.place then Code.OK
    else Code.TABLE_ENABLED
  | _ => Code.OK

/-- Writes one part: its bytes, with a new code word where it is covered whole; a counter store word first leaves the counter cache (R214), and
the replacement of a poisoned table word is noted (R216). -/
def Chip.partPut (now : Nat) (c : Chip) (p : Part) : Chip :=
  let c := match p.place with
    | .qdr e w =>
      let c := if p.whole && (c.areaOf e w).1 != 0 then c.areaReplaced now e w else c
      c.ccDrop e w
    | _ => c
  let c := if p.whole then c.placeClean p.place else c
  (putAll c p.off p.vals p.place)
where
  /-- Writes successive units. -/
  putAll (c : Chip) : Nat → List Word → Place → Chip
    | _, [], _ => c
    | o, v :: vs, q => putAll (c.placePut o v q) (o + 8) vs q

/-- Reads the words of the parts that are covered in part: whether one is poisoned. -/
def Chip.partsRead (now source : Nat) (some_ : Part → Bool) : List Part → Chip → Bool × Chip
  | [], c => (false, c)
  | p :: ps, c =>
    if some_ p then
      let (b, c) := c.placeRead now source p.place
      let (b', c) := Chip.partsRead now source some_ ps c
      (b || b', c)
    else Chip.partsRead now source some_ ps c

/-- A PUT of parts that lie in windows (R32): ABSENT, POISONED, the owner's refusal, or every part written. -/
def Chip.partsPut (c : Chip) (now : Nat) (ps : List Part) : Status × Chip :=
  if ps.any fun p => !c.placeUp p.place then (Code.ABSENT, c)
  else
    let (bad, c) := Chip.partsRead now 2 (fun p => !p.whole) ps c
    if bad then (Code.POISONED, c)
    else
      match ps.find? fun p => c.partOwner p != Code.OK with
      | some p => (c.partOwner p, c)
      | none => (Code.OK, ps.foldl (Chip.partPut now) c)

/-- A GET of parts (R32): ABSENT, POISONED, or the words as they stand. -/
def Chip.partsGet (c : Chip) (now : Nat) (ps : List Part) : Status × Chip :=
  if ps.any fun p => !c.placeUp p.place then (Code.ABSENT, c)
  else
    let (bad, c) := Chip.partsRead now 0 (fun _ => true) ps c
    (if bad then Code.POISONED else Code.OK, c)

end Sys2Proof.Machine
end

