-- ==== Sys2Proof/Machine/TimeOps.lean ====
section
/-! DEFINITION. The Fantail (R41-R49, R62): the state of the time source, the synchronisation words, the pulses, the checks of a step. -/

namespace Sys2Proof.Machine

/-! ### The source (R42, R44) -/

/-- FT_CTRL has been written, `old` its source before and `rate` the rate then in force (R42, R44): a newly selected source is acquired from
that rate, TCLK_IN sets its own; without a source the state is FREE. FT_OFFSET has no estimate of a new source yet (entry 177). -/
def Chip.sourcePut (c : Chip) (now old : Nat) (rate : Int) : Chip :=
  if c.source = old then c
  else if c.source = 0 then
    ({ c with ft := { c.ft with within := none } }.timeState now 0).wr A.FT_OFFSET 0
  else
    let (v, c) := c.fresh
    let c := { c with ft := { c.ft with srcSince := now, rate := rate, within := if c.source = 4 then some now else none } }
    let c := if c.source = 4 ∨ c.source = 5 then c.servoRate else c
    (c.wr A.FT_OFFSET (BitVec.ofNat 64 v)).timeState now 1

/-- SERVO_LOCK (R44): a source that is being acquired, and an offset held within 100 ns for 10 s. TCLK_IN has no measured offset (entry
177). -/
def Chip.servoLock (c : Chip) (now : Nat) : Chip :=
  let st := c.get A.FT_STATUS F.FT_STATUS_STATE
  match c.ft.within with
  | none => c
  | some t => if (st = 1 ∨ (st = 3 ∧ c.source = 4)) ∧ c.source ≠ 0 ∧ t + ns 10000000000 ≤ now then c.timeState now 2 else c

/-- SOURCE_LOSS_TIMEOUT (R42): 10 s without a valid input. -/
def Chip.sourceLost (c : Chip) (now : Nat) : Chip :=
  if c.source = 0 ∨ c.get A.FT_STATUS F.FT_STATUS_STATE = 3 ∨ now < c.ft.srcSince + ns 10000000000 then c
  else ({ c with ft := { c.ft with within := none } }.timeState now 3).raise now Flt.FT_SOURCE_LOST 24 63 0 0

/-- The offset of a time from the whole second nearest to it, in units of 2^-16 ns. -/
def secondOffset (t : Nat) : Int :=
  let s := ns 1000000000
  let r := t % s
  if 2 * r < s then (r : Int) else (r : Int) - s

/-- A rising edge of PPS_IN (R42, R49, Table 2-1): it is stamped, less FT_PPS_IN_DELAY; where it is the source its distance from the whole
second is the servo's offset. -/
def Chip.ppsIn (c : Chip) (now : Nat) : Chip :=
  let s := stamp now - 0x2000 * (c.rd A.FT_PPS_IN_DELAY).toNat
  let c := c.wr A.FT_PPS_IN_STAMP (dtWord s)
  if c.source = 3 ∨ c.source = 5 then c.servoInput now (secondOffset s) else c

/-! ### The synchronisation words (R47, R464) -/

/-- The bound a replica holds its error to: 0.75 ns. -/
def skewBound : Nat := 0xC000

/-- The replica of island `i` has measured its error (R47, R48): it stands off AO device time by that much, ahead or behind as a free value
says (entry 178), and its reading does not fall. -/
def Chip.replicaSet (c : Chip) (now i err : Nat) : Chip :=
  let (v, c) := c.fresh
  let r := c.replica i
  let new : Replica := ⟨if v % 2 = 0 then (err : Int) else -(err : Int), max r.base ((now : Int) + r.err).toNat⟩
  { c with ft := { c.ft with replica := mset Replica.init c.ft.replica i new } }

/-- A synchronisation word reaches the replica of island `i`, which measures `err` in units of 2^-16 ns (R47). One out of bound raises the
fault, except where the boundary is Fenced (entry 44); a boundary that opens counts the words within bound. FT_SKEW_MAX holds at its largest
value (entry 175). -/
def Chip.syncWord (c : Chip) (now i err : Nat) : Chip :=
  let b := c.bound i
  let d := c.pwrState (targetDomain i)
  if 24 ≤ i ∨ ¬ ((b.st = 0 ∧ d = 2) ∨ b.st = 3 ∨ (b.st = 2 ∧ (d = 1 ∨ (d = 2 ∧ c.pwr.testing = true)))) then c
  else
    let c := (c.replicaSet now i err).set A.FT_SKEW_MAX ⟨0, 0, 16⟩ (min 0xFFFF (max err (c.get A.FT_SKEW_MAX ⟨0, 0, 16⟩)))
    let c := if b.st = 0 then c else c.setBound i { b with good := if skewBound < err then 0 else b.good + 1 }
    if skewBound < err ∧ b.st ≠ 2 then c.raise now Flt.FT_REPLICA_SKEW i 63 0 0 else c

/-! ### PPS_OUT (R62) -/

/-- The last time at or before `now` at which a pulse is due: a whole second plus OFFSET_NS; 0 before the first. -/
def Chip.ppsTime (c : Chip) (now : Nat) : Nat :=
  let o := c.get A.FT_PPS_OUT_CFG ⟨0, 0, 30⟩
  let d := dtOf now
  if d < o then 0 else ns ((d - o) / 1000000000 * 1000000000 + o)

/-- No pulse is due for a second that has already passed: after an enable, a new offset, a step. -/
def Chip.ppsSkip (c : Chip) (now : Nat) : Chip := { c with pwr := { c.pwr with ppsOut := false, ppsDue := c.ppsTime now } }

/-- PPS_OUT rises once device time reaches the next whole second plus OFFSET_NS. -/
def Chip.ppsEdge (c : Chip) (now : Nat) : Chip :=
  if c.flag A.FT_CTRL F.FT_CTRL_PPS_OUT_EN && decide (c.pwr.ppsDue < c.ppsTime now) then
    { c with pwr := { c.pwr with ppsOut := true, ppsDue := c.ppsTime now } }
  else c

/-- The level of PPS_OUT: high for WIDTH_US from its edge. -/
def Chip.ppsLevel (c : Chip) (now : Nat) : Bool :=
  c.pwr.ppsOut && decide (now < c.pwr.ppsDue + ns (1000 * c.get A.FT_PPS_OUT_CFG ⟨0, 32, 20⟩))

/-! ### The checks of a step (R46) -/

/-- The time a step of FT_STEP_NS and FT_STEP_FRAC leads to; it may lie outside DT:frac. -/
def Chip.stepTarget (c : Chip) (now : Nat) : Int :=
  let n := (c.rd A.FT_STEP_NS).toInt
  let f : Int := ((c.rd A.FT_STEP_FRAC).toNat : Int)
  if n < 0 then (now : Int) + n * 65536 - f else (now : Int) + n * 65536 + f

/-- The modes in which a step may be of either sign. -/
def stepFree (m : Nat) : Bool := m == Mode.boot || m == Mode.provision || m == Mode.standby || m == Mode.diagnostic

/-- The modes in which only a forward step is accepted (R45). -/
def stepForward (m : Nat) : Bool := m == Mode.service || m == Mode.degraded || m == Mode.drain || m == Mode.update

/-- Whether the mode admits a step from `now` to `t`. -/
def stepAdmitted (m now t : Nat) : Bool := stepFree m || (stepForward m && decide (now ≤ t))

/-- A write of FT_STEP_CTRL with GO = 1 (R46): BAD_ARGUMENT, TIME_LOCKED, or the step requested. -/
def Chip.stepGo (c : Chip) (now : Nat) : Status × Chip :=
  let t := c.stepTarget now
  if t < 0 ∨ (2 : Int) ^ 80 ≤ t then (Code.BAD_ARGUMENT, c)
  else if !stepAdmitted c.mode now t.toNat then (Code.TIME_LOCKED, c)
  else if t < now ∧ (List.range 1024).any (fun n => c.satLive n && c.satKeyed n) = true then (Code.TIME_LOCKED, c)
  else (Code.OK, { c with ft := { c.ft with stepTo := some t.toNat } })

end Sys2Proof.Machine
end

