-- ==== Sys2Proof/Machine/Registers.lean ====
section
/-! DEFINITION. The registers of the Control Address Space under PUT and GET (R9-R13, R30, R31): what a unit shows, what a write stores,
the checks and the action that a register's own rule attaches to its write. The Scheduled Action Table has a file of its own. -/

namespace Sys2Proof.Machine

/-! ### Which unit an address names (R30, R31) -/

/-- Whether no register and no window lies at the unit at `a`. TM_POLICER(0) is reserved (R281). -/
def Chip.reserved (c : Chip) (a : Nat) : Bool :=
  if (c.place a).isSome then false
  else
    match millOffset a with
    | some (_, o) => !inThreadWindow o && (findRow (regionRows a) a).isNone
    | none => (findRow (regionRows a) a).isNone || (decide (0x60100000 ≤ a) && decide (a < 0x60100020))

/-- The Mill of an address below the dispatcher's registers. -/
def millIn (a : Nat) : Nat := (a - 0x80000000) / 0x800000

/-- Whether the island or unit that holds register `a` answers (R22, R31); the upper 64 counters of a Mill lie on the cores of half B. -/
def Chip.regUp (c : Chip) (a : Nat) : Bool :=
  match a / 0x10000000 with
  | 0 => true
  | 1 => true
  | 2 => c.up (20 + a % 0x10000000 / 0x8000000)
  | 5 => c.up (16 + a % 0x10000000 / 0x1000000)
  | 8 =>
    if a < 0x88000000 then
      let o := a % 0x800000
      let upper := decide (0x10000 ≤ o) && decide (o < 0x10800) && decide (0x200 ≤ o % 0x400)
      c.reach (millIn a) && (!upper || c.halfB (millIn a))
    else c.up 23
  | 10 => c.up 22
  | 11 => c.up 40
  | 12 => c.up 41
  | 13 => if a < 0xD8000000 then c.up 22 else true
  | _ => c.up 23

/-- Whether a PUT or FILL of the unit at `a` is critical (R12, R411). -/
def Chip.putCritical (c : Chip) (a : Nat) : Bool :=
  if (c.place a).isSome then true
  else
    match millOffset a with
    | some (_, o) => inThreadWindow o || (match findRow (regionRows a) a with
      | some (r, _) => r.fields.any (·.crit)
      | none => false)
    | none => match findRow (regionRows a) a with
      | some (r, _) => r.fields.any (·.crit)
      | none => false

/-- Whether a GET of the unit at `a` is critical (R20, R411): counters, records of the Sampler, BP_META and every window. -/
def Chip.getCritical (c : Chip) (a : Nat) : Bool :=
  if (c.place a).isSome then true
  else
    match millOffset a with
    | some (_, o) => inThreadWindow o || counts a
    | none => counts a
where
  /-- Whether the unit belongs to a counter or to BP_META. -/
  counts (a : Nat) : Bool :=
    match findRow (regionRows a) a with
    | some (r, _) => r.isCounter || r.base == A.MA_CNT 0 0 || r.base == A.BP_META 0 0
        || (r.fields.all (fun f => f.access == .ro && f.crit) && !r.fields.isEmpty)
    | none => false

/-! ### Reading a register -/

/-- Counts the threads of Mill `m` that pass a test. -/
def Chip.countThreads (c : Chip) (m : Nat) (p : Nat → Thread → Bool) : Nat :=
  ((c.mill m).threads.filter fun e => p e.1 e.2).length

/-- MA_Mnn_POOL_STATUS (R131). -/
def Chip.poolStatus (c : Chip) (m : Nat) : Word :=
  let n (p : Thread → Bool) : Nat := c.countThreads m fun _ x => x.st != 0 && p x
  BitVec.ofNat 64 (c.freeCount m + n (·.root) * 2 ^ 9 + n (fun x => !x.root && x.res.isNone) * 2 ^ 18 + n (·.res.isSome) * 2 ^ 27
    + n (fun x => x.st == 5) * 2 ^ 36)

/-- MA_Mnn_STALL_STATUS (R124, R126). -/
def Chip.stallStatus (c : Chip) (m : Nat) : Word :=
  let v := c.rd (A.MA_STALL_STATUS m)
  let b (x : Bool) : Nat := if x then 1 else 0
  let susp := (c.mill m).threads.any fun e => e.2.st == 7 || e.2.st == 8
  setBits (setBits (setBits (setBits v 0 1 (b (c.stalled m))) 1 1 (b (c.quiescent m))) 2 1 (b susp)) 16 16 (c.extMask m)

/-- MA_Mnn_DBG_HALTED(k): one bit for each of 64 threads. -/
def Chip.haltedWord (c : Chip) (m k : Nat) : Word :=
  BitVec.ofNat 64 ((List.range 64).foldl (fun n j =>
    let s := (c.th m (64 * k + j)).st
    if s = 7 ∨ s = 8 then n + 2 ^ j else n) 0)

/-- MA_Mnn_CHAN_STAT(ch). -/
def Chip.chanStat (c : Chip) (m ch : Nat) : Word :=
  let sends := c.countThreads m fun _ x => match x.wait with
    | .send k _ => k == ch && x.st == 4
    | _ => false
  let recvs := c.countThreads m fun _ x => match x.wait with
    | .recv k => k == ch && x.st == 3
    | _ => false
  BitVec.ofNat 64 ((c.queued m ch).length + sends * 2 ^ 3 + recvs * 2 ^ 12)

/-- MA_Mnn_GEN_STATUS.OLD_LIVE (R137): threads and queued packets of the Mill dispatched under an earlier generation. -/
def Chip.oldLive (c : Chip) (now m : Nat) : Nat :=
  let g := c.steerGen now
  let old (pk : Nat) : Bool := match c.pkt pk with
    | some p => p.gen != g
    | none => false
  c.countThreads m (fun _ x => x.st != 0 && (match x.pk with
    | some pk => old pk
    | none => false)) + ((c.dq m).filter old).length

/-- Whether an entry of kind `k` that passes a test is PENDING or ARMED. -/
def Chip.satAny (c : Chip) (k : Nat) (p : Nat → Bool) : Bool :=
  (List.range 1024).any fun n => c.satLive n && c.get (A.FT_SAT n) F.FT_SAT_KIND == k && p n

/-- CL_PE_STATUS.OLD_LIVE (R184): a packet stamped before the T of a swap in force is still waiting or held. -/
def Chip.peOldLive (c : Chip) (now : Nat) : Bool :=
  c.cl.swaps.any fun t => decide (t ≤ now)
    && (c.disp.pkts.any (fun e => match e.2 with
          | some p => decide (p.istamp < t)
          | none => false)
        || c.net.rx.any fun f => decide (f.stamp < t))

/-- The fence status bits of `n` targets from `t` up. -/
def Chip.notOpen (c : Chip) (t n : Nat) : Nat :=
  (List.range n).foldl (fun m k => if (c.bound (t + k)).st = 0 then m else m + 2 ^ k) 0

/-- The stage group `g` as CP_STAGE shows it (R419). -/
def Chip.stageWord (c : Chip) (g : Nat) : Word :=
  let items := (mget [] c.cmd.stage g).length
  match (List.range 1024).find? fun n => c.satLive n && c.get (A.FT_SAT n) F.FT_SAT_KIND == 1
      && c.get (A.FT_SAT n) F.FT_SAT_ARG0 == g with
  | some n => BitVec.ofNat 64 (2 + items * 2 ^ 16 + n * 2 ^ 32)
  | none => BitVec.ofNat 64 ((if items = 0 then 0 else 1) + items * 2 ^ 16)

/-- DE_STATUS (R373-R375): in Sequential mode each job has a mover of its own. -/
def Chip.deStatus (c : Chip) : Word :=
  let js (e : Nat) : Nat := (c.de.jobs.filter fun j => j.ep == e).length + c.fetchJobs e
  let mv (e : Nat) : Nat := if c.overlapped then 0 else js e
  setBits (setBits (setBits (setBits (c.rd A.DE_STATUS) 8 6 (mv 0)) 16 6 (mv 1)) 24 7 (js 0)) 32 7 (js 1)

/-- Whether a KEY_ROLL of slot `k` waits for the flash. -/
def Chip.rollBusy (c : Chip) (k : Nat) : Bool :=
  c.cmd.ctx.any fun e => match e.2.run with
    | some r => (match r.wait with
      | .keyRoll s _ _ _ => s == k
      | _ => false)
    | none => false

/-- What the unit at `a`, word `k` of register `r`, shows to a GET (R9, R56). -/
def Chip.shows (c : Chip) (now a : Nat) (r : RegRow) (k : Nat) : Word :=
  let v := c.rdAt now a
  let b := r.base
  let m := millIn a
  let o := a % 0x800000
  if b = A.FT_STATUS then setBits v 16 11 ((List.range 1024).filter c.satLive).length
  else if b = A.FT_TIME_NS then dtWord now
  else if b = A.MA_POOL_STATUS 0 then c.poolStatus m
  else if b = A.MA_STALL_STATUS 0 then c.stallStatus m
  else if b = A.MA_DBG_HALTED 0 0 then c.haltedWord m ((o - 0x220) / 8)
  else if b = A.MA_CHAN_STAT 0 0 then c.chanStat m ((o - 0x5000) / 8)
  else if b = A.MA_GEN_STATUS 0 then BitVec.ofNat 64 (c.oldLive now m)
  else if b = A.MA_DISPATCH_STATUS 0 then BitVec.ofNat 64 (c.dq m).length
  else if b = A.MA_STEER_GEN then BitVec.ofNat 64 (c.steerGen now)
  else if b = A.CL_PE_STATUS then
    let s := c.peActive now
    let bit (x : Bool) (n : Nat) : Nat := if x then 2 ^ n else 0
    BitVec.ofNat 64 (s + bit (c.peReady (1 - s)) 1 + bit (c.satAny 5 fun _ => true) 2 + bit (c.peOldLive now) 3)
  else if b = A.CL_PE_SWAP_TIME then dtWord (c.cl.swaps.getLast?.getD 0)
  else if b = A.TM_ENTRY_STATUS then BitVec.ofNat 64 (65536 - c.tmEntries.length)
  else if b = A.TM_QSTAT 0 then
    let q := (a - A.TM_QSTAT 0) / 8
    BitVec.ofNat 64 ((units (c.tmBytes q)).toNat % 2 ^ 24 + (c.tmq q).length * 2 ^ 24)
  else if b = A.TM_PORT 0 then
    let p := (a - A.TM_PORT 0) / 64
    let g := c.gate p
    let l := g.listAt (c.mrNow now)
    let pend := c.satAny 4 fun n => c.get (A.FT_SAT n) F.FT_SAT_ARG0 % 16 == p
    setBits (setBits v 17 1 l) 18 1 (if pend then 1 else 0)
  else if b = A.TM_POLICER 1 ∧ k = 2 then
    let p := c.buckets (c.mrNow now) ((a - A.TM_POLICER 0) / 32)
    BitVec.ofNat 64 (p.tc / tokenUnit % 2 ^ 32 + p.tp / tokenUnit % 2 ^ 32 * 2 ^ 32)
  else if b = A.DE_STATUS then c.deStatus
  else if b = A.CP_KEY 0 ∧ k = 2 then setBits v 1 1 (if c.rollBusy ((a - A.CP_KEY 0) / 32) then 1 else 0)
  else if b = A.CP_STAGE 0 then c.stageWord ((a - A.CP_STAGE 0) / 8)
  else if b = A.CP_FENCE_STATUS then
    BitVec.ofNat 64 (c.notOpen 0 25 + c.notOpen 32 8 * 2 ^ 25 + c.notOpen 40 2 * 2 ^ 33)
  else if b = A.CP_ISLAND_STATE 0 ∧ a < A.CP_PWR_STATUS 0 then
    let t := (a - A.CP_ISLAND_STATE 0) / 8
    let x := c.bound t
    BitVec.ofNat 64 (x.st + (if x.held then 4 else 0) + min 255 (c.faultsHeld now t).length * 2 ^ 8)
  else if b = A.CP_GPIO then
    let d := getBits v 0 16
    setBits v 32 16 ((getBits v 16 16 &&& d) ||| (c.pwr.gpioIn &&& (65535 - d)))
  else if b = A.CE_CTX_BLOB 0 then 0
  else v

/-- What a GET of the unit leaves behind (R10, R13, R64): ROC fields clear, FT_TIME_NS latches frac. -/
def Chip.afterRead (c : Chip) (now a : Nat) (r : RegRow) (k : Nat) : Chip :=
  if r.base = A.FT_TIME_NS then c.wr A.FT_TIME_FRAC (BitVec.ofNat 64 (fracOf (stamp now)))
  else
    r.fields.foldl (fun (c : Chip) f => if f.word == k && f.access == .roc then c.wr a (setBits (c.rd a) f.lo f.width 0) else c) c

/-! ### Writing a register -/

/-- One register element as a PUT covers it: its row, its address, the words written. -/
structure Elem where
  row  : RegRow
  base : Nat
  ws   : List (Nat × Word)
  deriving DecidableEq, Repr

/-- The value written to word `k`, 0 where the PUT does not cover it. -/
def Elem.raw (e : Elem) (k : Nat) : Word := ((e.ws.find? fun w => w.1 == k).map (·.2)).getD 0

/-- Whether the PUT covers word `k`. -/
def Elem.covers (e : Elem) (k : Nat) : Bool := e.ws.any fun w => w.1 == k

/-- The index of the element in the first dimension of its array. -/
def Elem.i (e : Elem) : Nat :=
  match e.row.dims with
  | (_, s) :: _ => (e.base - e.row.base) / s
  | [] => 0

/-- Its index in the second dimension. -/
def Elem.j (e : Elem) : Nat :=
  match e.row.dims with
  | (_, s) :: (_, t) :: _ => (e.base - e.row.base) % s / t
  | _ => 0

/-- What a write makes of one field (R10). -/
def fieldPut (kept : Bool) (new : Word) (acc : Word) (f : FieldRow) : Word :=
  match f.access with
  | .rw => setBits acc f.lo f.width (getBits new f.lo f.width)
  | .wo => if kept then setBits acc f.lo f.width (getBits new f.lo f.width) else acc
  | .w1c => setBits acc f.lo f.width (getBits (acc &&& ~~~new) f.lo f.width)
  | .w1s => setBits acc f.lo f.width (getBits (acc ||| new) f.lo f.width)
  | _ => acc

/-- Stores a unit of keyed state (R56, R137): it replaces what is in force now, whose armed values give way to it; an armed value later than
now stays. -/
def Chip.wrNow (c : Chip) (now a : Nat) (v : Word) : Chip :=
  { c with ft := { c.ft with armed := c.ft.armed.filter fun k => !(k.addr == a && decide (k.t ≤ now)) } }.wr a v

/-- Stores the words of an element, field by field. -/
def Chip.storeElem (c : Chip) (now : Nat) (e : Elem) : Chip :=
  e.ws.foldl (fun (c : Chip) w =>
    let a := e.base + 8 * w.1
    let fs := e.row.fields.filter fun f => f.word == w.1
    c.wrNow now a (fs.foldl (fieldPut (e.row.base == A.CE_CTX_BLOB 0) w.2) (c.rdAt now a))) c

/-- Accepts a write whose fields lie in their ranges. -/
def judge (c0 c : Chip) (ok : Bool) : Status × Chip := if ok then (Code.OK, c) else (Code.BAD_ARGUMENT, c0)

/-- Whether a value lies in a closed range. -/
def within (lo hi v : Nat) : Bool := decide (lo ≤ v) && decide (v ≤ hi)

/-- A Mill clock setting (R469). -/
def mhzOk (v : Nat) : Bool := within 800 2200 v && v % 100 == 0

/-- An action word (Table 5-6): COLOUR 3 is rejected. -/
def colourOk (w : Word) : Bool := getBits w 18 2 != 3

/-- The bytes a state dump writes: its header and its ranges (R457). -/
def Chip.dumpLen (c : Chip) : Nat :=
  (List.range 64).foldl (fun n i =>
    if c.flag (A.CP_DUMP_LIST i) F.CP_DUMP_LIST_VALID then n + c.get (A.CP_DUMP_LIST i) F.CP_DUMP_LIST_LEN else n) 64

/-- One token of the mirror's bucket: entries accrue at MIRROR_RATE a second. -/
def mirrorToken : Nat := ns 1000000000

/-- The bucket brought up to `now` (R424). -/
def Chip.mirrorTokens (c : Chip) (now : Nat) : Nat :=
  min (4096 * mirrorToken) (c.cmd.tokens + c.get A.CP_JOURNAL_CFG F.CP_JOURNAL_CFG_MIRROR_RATE * (now - c.cmd.tokensAt))

/-- Writes of CP_BOOT (R427). -/
def Chip.bootPut (c0 c : Chip) (v : Word) : Status × Chip :=
  let svn := getBits v 32 8
  let rev := getBits v 40 1 == 1
  if c.get A.CP_BOOT F.CP_BOOT_SVN < svn ∨ (rev = true ∧ c.pwr.fwKey ≠ 1) then (Code.BAD_ARGUMENT, c0)
  else
    let c := c.set A.CP_BOOT F.CP_BOOT_SVN_MIN (max svn (c.get A.CP_BOOT F.CP_BOOT_SVN_MIN))
    let c := if rev then c.setFlag A.CP_BOOT F.CP_BOOT_KEY0_REVOKED true else c
    (Code.OK, c.setFlag A.CP_BOOT F.CP_BOOT_OTHER_VALID (c.verifies (1 - c.get A.CP_BOOT F.CP_BOOT_COPY)))

/-- Writes of the CP region up to offset 0x5FFF and of the Sampler (R429, R443, R459). -/
def Chip.cpHook (c0 c : Chip) (now : Nat) (e : Elem) : Status × Chip :=
  let b := e.row.base
  let f (g : Fld) : Nat := c.get e.base g
  if b = A.CP_CMD_CFG then
    let t := f F.CP_CMD_CFG_ETYPE
    judge c0 c (decide (0x600 ≤ t) && !memNat t [0x8100, 0x88A8, 0x8808, 0x88F7])
  else if b = A.CP_JOURNAL_CFG then
    judge c0 { c with cmd := { c.cmd with tokens := c0.mirrorTokens now, tokensAt := now } } (f F.CP_JOURNAL_CFG_MIRROR_RATE != 0)
  else if b = A.CP_BOOT then c0.bootPut c (e.raw 0)
  else if b = A.CP_SMP_MODE then (Code.OK, c0.smpMode (e.raw 0))
  else if b = A.CP_BW_CFG then
    if within 1 60000 (f F.CP_BW_CFG_PERIOD_MS) then (Code.OK, c.bwPut now) else (Code.BAD_ARGUMENT, c0)
  else if b = A.CP_BW_TAIL then
    judge c0 c (tailOk 16384 (c0.get A.CP_BW_HEAD ⟨0, 0, 14⟩) (c0.get b ⟨0, 0, 14⟩) (getBits (e.raw 0) 0 14))
  else if b = A.CP_BILL_TAIL then
    judge c0 c (tailOk 32768 (c0.get A.CP_BILL_HEAD ⟨0, 0, 15⟩) (c0.get b ⟨0, 0, 15⟩) (getBits (e.raw 0) 0 15))
  else if b = A.CP_TLM_CFG then
    if !within 1 60000 (f F.CP_TLM_CFG_PERIOD_MS) then (Code.BAD_ARGUMENT, c0)
    else if c.flag b F.CP_TLM_CFG_ENABLE && !c0.flag b F.CP_TLM_CFG_ENABLE then
      (Code.OK, { c with smp := { c.smp with stateAt := now + ns (1000000 * f F.CP_TLM_CFG_PERIOD_MS) } })
    else (Code.OK, c)
  else if b = A.CP_DRAIN_CFG then
    if f F.CP_DRAIN_CFG_TIMEOUT_MS = 0 then (Code.BAD_ARGUMENT, c0)
    else if c.mode = Mode.drain then (Code.MODE_REFUSED, c0)
    else (Code.OK, c)
  else if b = A.CP_STANDBY_CFG then judge c0 c (within 10 60000 (f F.CP_STANDBY_CFG_KEEPALIVE_MS))
  else if b = A.CP_FW_CTRL then
    if getBits (e.raw 0) 0 1 = 0 then (Code.OK, c)
    else if c.mode = Mode.provision ∨ c.mode = Mode.update ∨ c.mode = Mode.diagnostic then (Code.OK, c.activate)
    else (Code.MODE_REFUSED, c0)
  else if b = A.CP_DUMP_CTRL then
    if getBits (e.raw 0) 0 1 = 0 then (Code.OK, c)
    else if 2 ^ 20 < c.dumpLen then (Code.BAD_ARGUMENT, c0)
    else if c.mode = Mode.recovery ∨ c.mode = Mode.diagnostic then (Code.OK, c.setFlag b F.CP_DUMP_CTRL_BUSY true)
    else (Code.MODE_REFUSED, c0)
  else if b = A.CP_DUMP_ADDR then judge c0 c (getBits (e.raw 0) 0 6 == 0)
  else if b = A.CP_DUMP_LIST 0 then
    judge c0 c (f F.CP_DUMP_LIST_ADDR % 8 == 0 && f F.CP_DUMP_LIST_LEN % 8 == 0)
  else (Code.OK, c)

/-- Writes of the reset, power, clock and fault registers (R479). -/
def Chip.aoHook (c0 c : Chip) (now : Nat) (e : Elem) : Status × Chip :=
  let b := e.row.base
  let f (g : Fld) : Nat := c.get e.base g
  if b = A.CP_RESET_CTRL then (Code.OK, if getBits (e.raw 0) 0 1 = 1 then c.warmReset now 4 else c)
  else if b = A.CP_WDOG then
    if within 100 60000 (f F.CP_WDOG_TIMEOUT_MS) then
      (Code.OK, { c with pwr := { c.pwr with wdogAt := now + ns (1000000 * f F.CP_WDOG_TIMEOUT_MS) } })
    else (Code.BAD_ARGUMENT, c0)
  else if b = A.CP_ISLAND_CTRL then c.islandCtrl now (getBits (e.raw 0) 0 6) (getBits (e.raw 0) 8 2)
  else if b = A.CP_PWR_REQ then c.pwrReq now (getBits (e.raw 0) 0 6) (getBits (e.raw 0) 8 1 == 1)
  else if b = A.CP_CLK_MILL 0 then
    if mhzOk (f F.CP_CLK_MILL_MHZ_SET) then (Code.OK, c.clkWrite now e.i) else (Code.BAD_ARGUMENT, c0)
  else if b = A.CP_THERMAL then
    let t := f F.CP_THERMAL_THROTTLE_C
    judge c0 c (within 60 125 t && within (t + 1) 125 (f F.CP_THERMAL_TRIP_C) && mhzOk (f F.CP_THERMAL_THROTTLE_MHZ))
  else if b = A.CP_FAULT_CFG then judge c0 c (f F.CP_FAULT_CFG_ISLAND_LIMIT != 0 && f F.CP_FAULT_CFG_ISLAND_WINDOW_S != 0)
  else if b = A.CP_FAULT_TAIL then
    judge c0 c (tailOk 512 (c0.get A.CP_FAULT_HEAD ⟨0, 0, 9⟩) (c0.get b ⟨0, 0, 9⟩) (getBits (e.raw 0) 0 9))
  else (Code.OK, c)

/-- Writes of the Fantail's registers (R42, R46, R62, R64). -/
def Chip.ftHook (c0 c : Chip) (now : Nat) (e : Elem) : Status × Chip :=
  let b := e.row.base
  let v := (c.rd e.base).toNat
  let skip (c : Chip) : Chip := c.ppsSkip now
  if b = A.FT_CTRL then
    if 6 ≤ c.source then (Code.BAD_ARGUMENT, c0)
    else
      let c := c.sourcePut now c0.source c0.ftRate
      (Code.OK, if c.flag b F.FT_CTRL_PPS_OUT_EN == c0.flag b F.FT_CTRL_PPS_OUT_EN then c else skip c)
  else if b = A.FT_RATE_ADJ then
    judge c0 c (decide ((signExt 32 v).natAbs * 10 ^ 9 ≤ (c.rd A.FT_SLEW_MAX).toNat * 2 ^ 40))
  else if b = A.FT_SLEW_MAX then judge c0 c (within 1 1000000 v)
  else if b = A.FT_PPS_OUT_CFG then
    if getBits (c.rd b) 0 30 ≤ 999999999 ∧ within 1 999999 (getBits (c.rd b) 32 20) = true then
      (Code.OK, if getBits (c.rd b) 0 30 = getBits (c0.rd b) 0 30 then c else skip c)
    else (Code.BAD_ARGUMENT, c0)
  else if b = A.FT_ARM_LEAD then judge c0 c (within 10000 1000000000 v)
  else if b = A.FT_STEP_CTRL then if getBits (e.raw 0) 0 1 = 1 then c.stepGo now else (Code.OK, c)
  else (Code.OK, c)

/-- Whether the mode admits debug accesses (Table 17-3). -/
def Chip.debugMode (c : Chip) : Bool := c.mode == Mode.provision || c.mode == Mode.diagnostic || c.mode == Mode.recovery

/-- Writes of a Mill's registers (R111, R114, R127, R131). -/
def Chip.millHook (c0 c : Chip) (now : Nat) (e : Elem) : Status × Chip :=
  let b := e.row.base
  let m := e.i
  let f (g : Fld) : Nat := c.get e.base g
  if b = A.MA_POOL_CFG 0 then judge c0 c (decide (f F.MA_POOL_CFG_FORK_RESERVE ≤ 128))
  else if b = A.MA_STALL_CFG 0 then judge c0 c (within 100 1000000000 (f F.MA_STALL_CFG_STALL_LIMIT))
  else if b = A.MA_WAIT_CFG 0 then
    let v := f F.MA_WAIT_CFG_WAIT_LIMIT
    judge c0 c (v == 0 || within 1000 1000000000 v)
  else if b = A.MA_DBG_CTRL 0 then if c.debugMode then (Code.OK, c.debugCtrl m) else (Code.MODE_REFUSED, c0)
  else if b = A.MA_DBG_CMD 0 then
    let r := c.debugOp now m (getBits (e.raw 0) 0 3) (getBits (e.raw 0) 8 8)
    if r.1 = Code.BAD_ARGUMENT ∨ c.debugMode = true then r else (Code.MODE_REFUSED, c0)
  else if b = A.MA_DBG_SEL 0 then if c.debugMode then (Code.OK, c) else (Code.MODE_REFUSED, c0)
  else if b = A.MA_RESIDENT 0 0 then
    if getBits (e.raw 0) 18 1 = 1 then
      let r := c.residentStart now m e.j
      if r.1 = Code.OK then r else (r.1, c0)
    else (Code.OK, c)
  else if b = A.MA_CHAN 0 0 then
    if f F.MA_CHAN_KIND = 3 then (Code.BAD_ARGUMENT, c0)
    else if c0.chanFree m e.j then (Code.OK, c)
    else (Code.CHAN_BUSY, c0)
  else if b = A.MA_MALF_ACT 0 then judge c0 c (colourOk (c.rd e.base))
  else (Code.OK, c)

/-- Writes of the dispatcher and of Prelook (R135, R137, R151, R159). -/
def Chip.dispHook (c0 c : Chip) (now : Nat) (e : Elem) : Status × Chip :=
  let b := e.row.base
  let f (g : Fld) : Nat := c.getAt now e.base g
  let next (c : Chip) : Chip := c.set A.MA_STEER_GEN F.MA_STEER_GEN_GEN (c.get A.MA_STEER_GEN F.MA_STEER_GEN_GEN + 1)
  if b = A.MA_XSTALL_CTRL then judge c0 c (within 10 1000000 (f F.MA_XSTALL_CTRL_POLL_US))
  else if b = A.MA_DISPATCH_HOST_WEIGHT then
    judge c0 c (f F.MA_DISPATCH_HOST_WEIGHT_WEIGHT_A != 0 && f F.MA_DISPATCH_HOST_WEIGHT_WEIGHT_B != 0)
  else if b = A.MA_PL_CTRL then
    if f F.MA_PL_CTRL_CONF_MIN = 0 ∨ f F.MA_PL_CTRL_HOLD_NS < 100 then (Code.BAD_ARGUMENT, c0)
    else (Code.OK, if getBits (e.raw 0) 3 1 = 1 then { c with disp := { c.disp with sigs := [] } } else c)
  else if b = A.MA_STN_OPT then judge c0 c (decide (f F.MA_STN_OPT_TYPE < 128))
  else if b = A.MA_PROFILE 0 then
    let l := f F.MA_PROFILE_SIZE_LOG2
    if 12 < l ∨ 4 < f F.MA_PROFILE_HASH_SEL ∨ 4096 < f F.MA_PROFILE_BASE + 2 ^ l then (Code.BAD_ARGUMENT, c0) else (Code.OK, next c)
  else if b = A.MA_STEER 0 then (Code.OK, next c)
  else if b = A.MA_PL_RECIPE 0 then
    let w0 := !e.covers 0 || (within 512 607 (f F.MA_PL_RECIPE_CHAN) && decide (f F.MA_PL_RECIPE_WORDS ≤ 4))
    let map := (List.range 5).all fun k => (e.raw (k + 1) &&& 0x8080808080808080) == 0
    if w0 && map then (Code.OK, c.forgetRecipe e.i) else (Code.BAD_ARGUMENT, c0)
  else (Code.OK, c)

/-- Writes of the Classifier (R170, R175, R189). -/
def Chip.clHook (c0 c : Chip) (now : Nat) (e : Elem) : Status × Chip :=
  let b := e.row.base
  if b = A.CL_RULE 0 then c0.ruleWrite now e.i e.ws
  else if b = A.CL_BANK_CFG 0 then c0.schemeWrite e.i (e.raw 0)
  else if b = A.CL_BANK_MISS 0 then judge c0 c (getBits (c.rd e.base) 8 2 != 3)
  else if b = A.CL_PE_CFG then judge c0 c (within 64 16128 (c.get b ⟨0, 0, 14⟩))
  else (Code.OK, c)

/-- Writes of TE_x_EMT(t) (R191, R211, R218, R219): an enable scans the table before the PUT completes. -/
def Chip.emtHook (c0 c : Chip) (now : Nat) (e : Elem) : Status × Chip :=
  let o0 := c0.rd e.base
  let st := c.emtCheck e.i e.j o0 (c0.rd (e.base + 8))
  if st ≠ Code.OK then (st, c0)
  else if getBits o0 33 1 = 0 ∧ getBits (c.rd e.base) 33 1 = 1 then
    let (st, d) := c.tableScan now e.i e.j
    if st = Code.OK then (st, d)
    else (st, (List.range 4).foldl (fun (d : Chip) k => d.wr (e.base + 8 * k) (c0.rd (e.base + 8 * k))) d)
  else (Code.OK, c.emtPut now e.i e.j o0)

/-- Writes of the Table Engines (R191, R204, R213, R214, R222). -/
def Chip.teHook (c0 c : Chip) (now : Nat) (e : Elem) : Status × Chip :=
  let b := e.row.base
  let old := c0.rd e.base
  let new := c.rd e.base
  let region (k : Nat) : Status × Chip :=
    if getBits new 23 1 = 1 ∧ new ≠ old then
      let st := c.storeCheck e.i k
      if st = Code.OK then (st, c) else (st, c0)
    else (Code.OK, c)
  if b = A.TE_CTRL 0 then judge c0 c (decide (getBits new 0 3 ≤ 4))
  else if b = A.TE_EMT 0 0 then c0.emtHook c now e
  else if b = A.TE_OP_CTRL 0 then
    if getBits (e.raw 0) 0 1 = 0 then (Code.OK, c) else if c.opBusy e.i then (Code.OP_BUSY, c0) else (Code.OK, c.teGo e.i)
  else if b = A.TE_LPM 0 0 then
    if getBits old 0 1 = 1 ∧ getBits old 1 1 ≠ getBits new 1 1 then (Code.TABLE_ENABLED, c0) else (Code.OK, c)
  else if b = A.TE_LPM_STORE 0 then (if c.pfxOk e.i then region 16 else (Code.BAD_ARGUMENT, c0))
  else if b = A.TE_CNT_STORE 0 then region 17
  else if b = A.TE_CE_AREA 0 then region 18
  else if b = A.TE_CNT_CTRL 0 then (Code.OK, if getBits (e.raw 0) 0 1 = 1 then c.ccFlush e.i else c)
  else (Code.OK, c)

/-- Writes of the Bobbin Pool Manager (R223, R224). -/
def Chip.bpHook (c0 c : Chip) (e : Elem) : Status × Chip :=
  if A.BP_POOL 0 ≤ e.row.base ∧ e.row.base < A.BP_POOL 8 then
    let p := (e.row.base - A.BP_POOL 0) / 32
    let st := c.poolCheck p (c0.rd e.base) (c0.rd (e.base + 8))
    if st = Code.OK then (st, c.poolPut p (getBits (c0.rd e.base) 7 1 == 1)) else (st, c0)
  else (Code.OK, c)

/-- The largest enabled bobbin in bytes (R223). -/
def Chip.largestBobbin (c : Chip) : Nat :=
  (List.range 8).foldl (fun n p => if c.pool p F.BP_POOL_ENABLE = 1 then max n (256 * c.pool p F.BP_POOL_SIZE) else n) 0

/-- Writes of PX_PTnn_CFG (R223, R249, R273). -/
def Chip.portCfgHook (c0 c : Chip) (now p : Nat) : Status × Chip :=
  let a := A.PX_CFG p
  let f (x : Chip) (g : Fld) : Nat := x.get a g
  let on0 := c0.flag a F.PX_CFG_ENABLE
  let on := c.flag a F.PX_CFG_ENABLE
  let mf := f c F.PX_CFG_MAX_FRAME
  let moved := mf != f c0 F.PX_CFG_MAX_FRAME
  if !within 1518 16128 mf || (moved && decide (c.largestBobbin < mf)) || decide (5 ≤ f c F.PX_CFG_LOOPBACK) then (Code.BAD_ARGUMENT, c0)
  else if on0 && (moved || f c F.PX_CFG_AN_EN != f c0 F.PX_CFG_AN_EN) then (Code.PORT_ENABLED, c0)
  else if f c F.PX_CFG_LOOPBACK ≠ 0 ∧ c.mode ≠ Mode.diagnostic then (Code.WRONG_MODE, c0)
  else (Code.OK, if on && !on0 then c.portEnable p else if on0 && !on then c.portStop now p else if moved then c.weirAuto p else c)

/-- Writes of a port group's registers (R246, R259, R266-R268, R272). -/
def Chip.pxHook (c0 c : Chip) (now : Nat) (e : Elem) : Status × Chip :=
  let b := e.row.base
  let g := e.i
  let p := 4 * g + e.j
  let auto := c0.flag (A.PX_WEIR_CFG p) F.PX_WEIR_CFG_AUTO
  let f (x : Fld) : Nat := c.get e.base x
  if b = A.PX_MODE 0 then
    if (List.range 4).any fun k => c0.flag (A.PX_CFG (4 * g + k)) F.PX_CFG_ENABLE then (Code.PORT_ENABLED, c0)
    else if c.rd e.base = c0.rd e.base then (Code.OK, c)
    else (Code.OK, (List.range 4).foldl (fun (c : Chip) k => c.weirAuto (4 * g + k)) (c.groupRetrain now g))
  else if b = A.PX_TS_TAIL 0 then
    judge c0 c (tailOk 64 (c0.get (A.PX_TS_HEAD g) ⟨0, 0, 6⟩) (c0.get e.base ⟨0, 0, 6⟩) (getBits (e.raw 0) 0 6))
  else if b = A.PX_CFG 0 then
    if c0.present p then c0.portCfgHook c now p
    else
      let r := c0.portCfgHook c now p
      if r.1 = Code.BAD_ARGUMENT then r else (Code.PORT_ABSENT, c0)
  else
    let r : Status × Chip :=
      if b = A.PX_WEIR_CFG 0 then
        if f F.PX_WEIR_CFG_MODE = 3 ∨ f F.PX_WEIR_CFG_QUANTA = 0 ∨ f F.PX_WEIR_CFG_HYST = 0 then (Code.BAD_ARGUMENT, c0)
        else (Code.OK, c.weirAuto p)
      else if b = A.PX_WEIR 0 0 then
        if auto then (Code.OK, c0) else judge c0 (c.weirDue p) (decide (f F.PX_WEIR_LOW < f F.PX_WEIR_HIGH))
      else if b = A.PX_WEIR_LIMIT 0 0 then (Code.OK, c.weirAuto p)
      else if b = A.PX_DELAY 0 then (Code.OK, c.weirAuto p)
      else if b = A.PX_DEFAULT_ACT 0 then judge c0 c (colourOk (c.rd e.base))
      else if b = A.PX_PREEMPT 0 then
        if !within 1 128 (f F.PX_PREEMPT_VERIFY_MS) then (Code.BAD_ARGUMENT, c0)
        else
          let o := c0.rd e.base
          (Code.OK, if getBits o 0 2 = getBits (c.rd e.base) 0 2 then c else c.verifyRestart now p)
      else (Code.OK, c)
    if r.1 = Code.OK && e.row.dims.length != 1 && b != A.PX_TS 0 0 && !c0.present p then (Code.PORT_ABSENT, c0) else r

/-- Whether a write to gate list `l` of port `p` is refused (R287): the list in force, and both lists from PENDING to DONE. -/
def Chip.gclBusy (c : Chip) (now p l : Nat) : Bool :=
  let g := c.gate p
  g.listAt now == l || c.satAny 4 fun n => c.get (A.FT_SAT n) F.FT_SAT_ARG0 % 16 == p

/-- Writes of the Traffic Manager (R281, R282, R287, R294). -/
def Chip.tmHook (c0 c : Chip) (now : Nat) (e : Elem) : Status × Chip :=
  let b := e.row.base
  let f (g : Fld) : Nat := c.getAt now e.base g
  let gcl (ok : Bool) : Status × Chip :=
    if !ok then (Code.BAD_ARGUMENT, c0) else if c0.gclBusy now e.i e.j then (Code.LIST_ACTIVE, c0) else (Code.OK, c)
  let ctx (st : Status) (w : Nat) : Status × Chip := if st = Code.OK then (st, c.setSram 10 w 0) else (st, c0)
  if b = A.TM_FLUSH then c.tmFlush now (getBits (e.raw 0) 0 17)
  else if b = A.TM_PORTQ 0 then
    let n := e.i
    judge c0 (c.setPqShape n (c0.pqCredit (c.mrNow now) n))
      (f F.TM_PORTQ_WEIGHT != 0 && decide (f F.TM_PORTQ_PIR ≤ 800000) && f F.TM_PORTQ_PBURST != 0)
  else if b = A.TM_GCL_HDR 0 0 then
    gcl (decide (f F.TM_GCL_HDR_LENGTH ≤ 256) && within 1000 1000000000 (f F.TM_GCL_HDR_CYCLE_NS) && f F.TM_GCL_HDR_BASE_FRAC % 2 ^ 13 == 0)
  else if b = A.TM_GCL 0 0 0 then gcl true
  else if b = A.TM_POLICER 1 then
    let i := e.i + 1
    let st := c.policerCheck i (c.rdAt now e.base) (c.rdAt now (e.base + 8))
    if st = Code.OK then
      let was := c0.getAt now e.base F.TM_POLICER_ENABLE == 1
      (st, (c.policerPut (c.mrNow now) i (c0.buckets (c.mrNow now) i) was).setSram 10 (policerWord i) 0)
    else (st, c0)
  else if b = A.TM_QUEUE 0 then
    let q := 65536 + e.i
    let r := ctx (c.queueCheck q (c0.rdAt now e.base) (c.rdAt now e.base)) (queueWord q)
    if r.1 = Code.OK then (r.1, r.2.setShape q (c0.credit (c.mrNow now) q)) else r
  else if b = A.TM_HRXQ 0 then ctx (c.queueCheck e.i (c0.rdAt now e.base) (c.rdAt now e.base)) (queueWord e.i)
  else (Code.OK, c)

/-- Writes of the Cipher Engine's registers (R302, R319). -/
def Chip.ceHook (c0 c : Chip) (now : Nat) (e : Elem) : Status × Chip :=
  let b := e.row.base
  if b = A.CE_CTRL then judge c0 c (within 4 15 (c.get b F.CE_CTRL_CKPT_LOG2))
  else if b = A.CE_CTX_CMD then
    if within 1 4 (getBits (e.raw 0) 20 3) then (Code.OK, c.ctxCmd now (e.raw 0)) else (Code.BAD_ARGUMENT, c0)
  else (Code.OK, c)

/-- Writes of the Storage Transport Engine's registers (R311). -/
def Chip.stHook (c0 c : Chip) (now : Nat) (e : Elem) : Status × Chip :=
  if e.row.base = A.ST_CONN 0 then
    let old := (List.range 4).map fun k => c0.rd (e.base + 8 * k)
    let st := c.connCheck now e.i old
    if st = Code.OK then (st, c.connPut e.i old) else (st, c0)
  else (Code.OK, c)

/-- Writes of an endpoint's registers (R321, R329, R334, R344, R346). -/
def Chip.heHook (c0 c : Chip) (now : Nat) (e : Elem) : Status × Chip :=
  let b := e.row.base
  let f (g : Fld) : Nat := c.get e.base g
  if b = A.HE_CTRL 0 then
    if f F.HE_CTRL_MAX_RATE = 7 ∨ 4 < f F.HE_CTRL_MAX_WIDTH ∨ within 28 36 (f F.HE_CTRL_PEER_BAR_LOG2) = false then (Code.BAD_ARGUMENT, c0)
    else (Code.OK, c.epCtrl now e.i)
  else if b = A.HE_CTO_CFG 0 then
    judge c0 c (f F.HE_CTO_CFG_STORM_COUNT != 0 && within 1 10000000 (f F.HE_CTO_CFG_STORM_WINDOW_US))
  else if b = A.HE_TOPOLOGY then
    let st := c0.topologyCheck (getBits (e.raw 0) 0 1 == 1)
    if st = Code.OK then (st, c) else (st, c0)
  else if b = A.HE_PEER_CTRL 0 then (Code.OK, if getBits (e.raw 0) 1 1 = 1 then c.peerSwitch e.i else c)
  else if b = A.HE_PEER_WIN 0 0 0 then
    let l := f F.HE_PEER_WIN_SIZE_LOG2
    if !within 12 36 l || (f F.HE_PEER_WIN_VALID == 1 && f F.HE_PEER_WIN_KIND == 0) || f F.HE_PEER_WIN_BAR_OFF % 2 ^ l != 0 then
      (Code.BAD_ARGUMENT, c0)
    else if c0.get (A.HE_PEER_CTRL e.i) F.HE_PEER_CTRL_ACTIVE = e.j then (Code.PEER_BANK_ACTIVE, c0)
    else (Code.OK, c)
  else if b = A.HE_CMDQ 0 0 then
    let kept := (List.range 2).all (fun k => c.rd (e.base + 8 * k) == c0.rd (e.base + 8 * k))
      && c.get e.base F.HE_CMDQ_SIZE_LOG2 == c0.get e.base F.HE_CMDQ_SIZE_LOG2
    if f F.HE_CMDQ_BASE % 32 ≠ 0 ∨ f F.HE_CMDQ_HEAD_ADDR % 8 ≠ 0 ∨ within 4 12 (f F.HE_CMDQ_SIZE_LOG2) = false
        ∨ (c0.flag e.base F.HE_CMDQ_ENABLE = true ∧ kept = false) then (Code.BAD_ARGUMENT, c0)
    else (Code.OK, c.cmdqKick now e.i e.j)
  else (Code.OK, c)

/-- Writes of the Slice Manager's registers (R351, R366). -/
def Chip.smHook (c0 c : Chip) (now : Nat) (e : Elem) : Status × Chip :=
  let b := e.row.base
  let f (g : Fld) : Nat := c.getAt now e.base g
  if b = A.SM_SLICE 0 then
    if !(e.covers 1 || e.covers 2) then (Code.OK, c)
    else if 65536 < f F.SM_SLICE_QP_MAX ∨ 40960 < f F.SM_SLICE_BOBBIN_MAX ∨ 32768 < f F.SM_SLICE_ST_MAX ∨ 800000 < f F.SM_SLICE_TX_MBPS then
      (Code.BAD_ARGUMENT, c0)
    else if c0.flag e.base F.SM_SLICE_BOUND then (Code.SLICE_BUSY, c0)
    else (Code.OK, c)
  else if b = A.SM_MSG 0 0 then
    if f F.SM_MSG_ADDR % 4 ≠ 0 then (Code.BAD_ARGUMENT, c0) else (Code.OK, c.msgRetry now)
  else (Code.OK, c)

/-- Writes of DE_QP(n) (R355, R356, R380). -/
def Chip.qpHook (c0 c : Chip) (now n : Nat) (e : Elem) : Status × Chip :=
  let old := (List.range 8).map fun k => c0.rd (e.base + 8 * k)
  let new := (List.range 8).map fun k => c.rd (e.base + 8 * k)
  let was := getBits (nth 0 old 0) 0 1 == 1
  let on := getBits (nth 0 new 0) 0 1 == 1
  let marks := decide (c.qpf n F.DE_QP_LOW < c.qpf n F.DE_QP_HIGH) && decide (c.qpf n F.DE_QP_HIGH ≤ 16)
  let restart (r : Status × Chip) : Status × Chip :=
    if r.1 = Code.OK ∧ getBits (e.raw 0) 1 1 = 1 then
      let s := r.2.qpRestart now n
      if s.1 = Code.OK then s else (s.1, c0)
    else r
  restart (if was then
      if on && !marks then (Code.BAD_ARGUMENT, c0)
      else if !qpKept old new then (Code.QP_BUSY, c0)
      else if on then (Code.OK, c)
      else (Code.OK, c.qpStop now n)
    else if on then
      let st := c.qpCheck now n
      if st ≠ Code.OK then (st, c0)
      else if c0.qpState n ≠ 0 then (Code.QP_BUSY, c0)
      else (Code.OK, c.qpStart n)
    else (Code.OK, c))

/-- Writes of the DMA Engine's registers (R158, R355). -/
def Chip.deHook (c0 c : Chip) (now : Nat) (e : Elem) : Status × Chip :=
  if e.row.base = A.DE_QP 0 then c0.qpHook c now e.i e
  else if e.row.base = A.DE_DEFAULT_ACT 0 then judge c0 c (colourOk (c.rd e.base))
  else (Code.OK, c)

/-- Writes of the Memory Complex's registers (R403). -/
def Chip.mcHook (c0 c : Chip) (e : Elem) : Status × Chip :=
  let f (g : Fld) : Nat := c.get e.base g
  if e.row.base = A.MC_CFG 0 then
    if within 5 12 (f F.MC_CFG_RD_LAT) && within 3 8 (f F.MC_CFG_WR_LAT) && within 10 10000 (f F.MC_CFG_RETRAIN_MS)
        && decide (60 ≤ f F.MC_CFG_SCRUB_S) && f F.MC_CFG_CE_STORM != 0 then
      let r := c.qdrCfg e.i (c0.rd e.base)
      if r.1 = Code.OK then r else (r.1, c0)
    else (Code.BAD_ARGUMENT, c0)
  else if e.row.base = A.MC_SRAM_CFG then
    judge c0 c (within 10 3600 (f F.MC_SRAM_CFG_SCRUB_S) && f F.MC_SRAM_CFG_CE_STORM != 0)
  else (Code.OK, c)

/-- The checks and the action of the register written; `c0` is the adapter before the write, `c` after it (Table 1-6). -/
def Chip.hook (c0 c : Chip) (now : Nat) (e : Elem) : Status × Chip :=
  match e.base / 0x10000000 with
  | 0 => if within 0x6000 0x7FFF e.base then c0.aoHook c now e else c0.cpHook c now e
  | 1 => c0.ftHook c now e
  | 2 => c0.heHook c now e
  | 3 => c0.smHook c now e
  | 4 => c0.deHook c now e
  | 5 => c0.pxHook c now e
  | 6 => c0.tmHook c now e
  | 7 => c0.bpHook c e
  | 8 => if e.base < 0x88000000 then c0.millHook c now e else c0.dispHook c now e
  | 9 => c0.clHook c now e
  | 10 => c0.teHook c now e
  | 11 => c0.ceHook c now e
  | 12 => c0.stHook c now e
  | 13 => c0.mcHook c e
  | _ => (Code.OK, c)

/-- A write of one register element: ABSENT where its unit does not answer, else what its rule says (R31). -/
def Chip.elemPut (c : Chip) (now : Nat) (e : Elem) : Status × Chip :=
  if !c.regUp e.base then
    let st := (c.hook (c.storeElem now e) now e).1
    (if st = Code.BAD_ARGUMENT then st else Code.ABSENT, c)
  else c.hook (c.storeElem now e) now e

end Sys2Proof.Machine
end

