-- ==== Sys2Proof/Machine/Access.lean ====
section
/-! DEFINITION. PUT and GET over the Control Address Space outside the Scheduled Action Table (R16, R31, R32, R130): the units of an access
cut into register elements, code words and thread state words, checked before anything is written. -/

namespace Sys2Proof.Machine

/-! ### The order of R16 -/

/-- The place of a code in the order of R16. -/
def codeRank (s : Status) : Nat :=
  if s = Code.DENIED then 0 else if s = Code.BAD_ARGUMENT then 1 else if s = Code.ABSENT then 2 else if s = Code.POISONED then 3 else 4

/-- The code R16 reports of two findings, the first made first. -/
def firstCode (s t : Status) : Status :=
  if s = Code.OK then t else if t = Code.OK then s else if codeRank t < codeRank s then t else s

/-! ### The pieces of an access -/

/-- One piece of a PUT or FILL: a register element, a run of units in a code word, a thread state word. -/
inductive Piece where
  | elem (e : Elem)
  | part (p : Part)
  | thread (m o : Nat) (v : Word)
  deriving DecidableEq, Repr

/-- The piece the unit at `a` begins. -/
def Chip.pieceOf (c : Chip) (a : Nat) (v : Word) : Option Piece :=
  match c.place a with
  | some p => some (.part ⟨p, a % 32, [v]⟩)
  | none =>
    match millOffset a with
    | some (m, o) =>
      if inThreadWindow o then some (.thread m o v)
      else (findRow (regionRows a) a).map fun r => .elem ⟨r.1, a - 8 * r.2, [(r.2, v)]⟩
    | none => (findRow (regionRows a) a).map fun r => .elem ⟨r.1, a - 8 * r.2, [(r.2, v)]⟩

/-- A piece joined to the pieces after it, where it belongs to the first of them. -/
def joinPiece (p : Piece) (ps : List Piece) : List Piece :=
  match p, ps with
  | .elem e, .elem f :: qs => if e.base = f.base then .elem { f with ws := e.ws ++ f.ws } :: qs else p :: ps
  | .part a, .part b :: qs => if a.place = b.place then .part ⟨a.place, a.off, a.vals ++ b.vals⟩ :: qs else p :: ps
  | _, _ => p :: ps

/-- Cuts the units from address `a` up; none where one is reserved (R31). -/
def Chip.cut (c : Chip) : Nat → List Word → Option (List Piece)
  | _, [] => some []
  | a, v :: vs =>
    if c.reserved a then none
    else
      match c.pieceOf a v, Chip.cut c (a + 8) vs with
      | some p, some ps => some (joinPiece p ps)
      | _, _ => none

/-- The status with which the mode, the debug enable and the thread's state meet a PUT to offset `o` of Mill `m`'s thread state window
(R447, R127, R130). -/
def Chip.windowWrite (c : Chip) (m o : Nat) : Status :=
  if !c.debugMode then Code.MODE_REFUSED else c.windowCheck m o true

/-- Writes one piece. -/
def Chip.piecePut (c : Chip) (now : Nat) : Piece → Status × Chip
  | .elem e => c.elemPut now e
  | .part p =>
    let r := c.partsPut now [p]
    let st := match p.place with
      | .head m _ _ => c.windowWrite m 0xB00
      | .scratch m _ _ => c.windowWrite m 0xC00
      | _ => Code.OK
    if r.1 ≠ Code.OK ∨ st = Code.OK then r else (st, (Chip.partsRead now 2 (fun p => !p.whole) [p] c).2)
  | .thread m o v =>
    if !c.reach m then (if (c.windowPut m o v).1 = Code.BAD_ARGUMENT then Code.BAD_ARGUMENT else Code.ABSENT, c)
    else
      let r := c.windowPut m o v
      if r.1 ≠ Code.OK then (r.1, c)
      else
        let st := c.windowWrite m o
        if st ≠ Code.OK then (st, c) else r

/-- Writes the pieces in ascending order, each on what the earlier ones left, and gathers the code of R16. -/
def Chip.piecesPut (now : Nat) : List Piece → Status → Chip → Status × Chip
  | [], st, c => (st, c)
  | p :: ps, st, c =>
    let r := c.piecePut now p
    Chip.piecesPut now ps (firstCode st r.1) (if r.1 = Code.OK then r.2 else c)

/-- A PUT of `vs` from `a` up, outside the Scheduled Action Table: all of it, or nothing but what the failing read leaves behind (R31, R32). -/
def Chip.putPlain (c : Chip) (now a : Nat) (vs : List Word) : Status × Chip :=
  if a % 8 ≠ 0 then (Code.BAD_ARGUMENT, c)
  else
    match c.cut a vs with
    | none => (Code.BAD_ARGUMENT, c)
    | some ps =>
      let r := Chip.piecesPut now ps Code.OK c
      if r.1 = Code.OK then r
      else
        match ps.find? fun p => (c.piecePut now p).1 == r.1 with
        | some p => c.piecePut now p
        | none => (r.1, c)

/-! ### GET -/

/-- The status with which a GET of the unit at `a` ends before any word is read, BAD_ARGUMENT apart. -/
def Chip.getCheck (c : Chip) (a : Nat) : Status :=
  match c.place a with
  | some p =>
    if !c.placeUp p then Code.ABSENT
    else
      match p with
      | .head m _ _ => c.windowCheck m 0xB00 false
      | .scratch m _ _ => c.windowCheck m 0xC00 false
      | _ => Code.OK
  | none =>
    if !c.regUp a then Code.ABSENT
    else
      match millOffset a with
      | some (m, o) => if inThreadWindow o then c.windowCheck m o false else Code.OK
      | none => Code.OK

/-- The on-die array and the code word of it that hold a register read by a GET (R181, R244): a rule entry's, a metadata slot's. -/
def regCode (a : Nat) : Option (Nat × Nat) :=
  if A.CL_RULE 0 ≤ a ∧ a < A.CL_RULE 65536 then some (8, (a - A.CL_RULE 0) / 32)
  else if A.BP_META 0 0 ≤ a ∧ a < A.BP_META 40960 0 then some (1, (a - A.BP_META 0 0) / 32)
  else none

/-- The Stitch words a GET of `n` units from `a` up reads, one for each code word: those of windows, and those that hold registers. -/
def Chip.getReads (c : Chip) (now a : Nat) : Nat → Option Place → Option (Nat × Nat) → Chip → Bool × Chip
  | 0, _, _, d => (false, d)
  | n + 1, lp, lr, d =>
    match c.place a with
    | some p =>
      if lp = some p then Chip.getReads c now (a + 8) n lp none d
      else
        let (b, d) := d.placeRead now 0 p
        let (b', d) := Chip.getReads c now (a + 8) n (some p) none d
        (b || b', d)
    | none =>
      match regCode a with
      | some w =>
        if lr = some w then Chip.getReads c now (a + 8) n none lr d
        else
          let (b, d) := d.readSram now w.1 w.2 0 0
          let (b', d) := Chip.getReads c now (a + 8) n none (some w) d
          (b || b', d)
      | none => Chip.getReads c now (a + 8) n none none d

/-- The value a GET of the unit at `a` returns, and what the read leaves behind. -/
def Chip.getUnit (c : Chip) (now a : Nat) : Word × Chip :=
  match c.place a with
  | some p => (c.placeGet (a % 32) p, c)
  | none =>
    match millOffset a with
    | some (m, o) =>
      if inThreadWindow o then
        let (f, c) := c.fresh
        (c.windowGet m o f, c)
      else regGet c
    | none => regGet c
where
  /-- A register unit. -/
  regGet (c : Chip) : Word × Chip :=
    match findRow (regionRows a) a with
    | some (r, k) => (c.shows now a r k, c.afterRead now a r k)
    | none => (0, c)

/-- The values of `n` units from `a` up, in ascending order. -/
def Chip.getUnits (now : Nat) : Nat → Nat → Chip → List Word × Chip
  | 0, _, c => ([], c)
  | n + 1, a, c =>
    let (v, c) := c.getUnit now a
    let (vs, c) := Chip.getUnits now n (a + 8) c
    (v :: vs, c)

/-- The code the units from `a` up give a GET by R16. -/
def Chip.getChecks (c : Chip) : Nat → Nat → Status → Status
  | 0, _, st => st
  | n + 1, a, st => Chip.getChecks c n (a + 8) (if c.reserved a then firstCode st Code.BAD_ARGUMENT else firstCode st (c.getCheck a))

/-- A GET of `n` units from `a` up (R31, R32): every word, or none; poison comes before the debugger's refusals (R16). -/
def Chip.getRange (c : Chip) (now a n : Nat) : Status × List Word × Chip :=
  let st := if a % 8 ≠ 0 then Code.BAD_ARGUMENT else c.getChecks n a Code.OK
  if st = Code.BAD_ARGUMENT ∨ st = Code.ABSENT then (st, [], c)
  else
    let (bad, c) := Chip.getReads c now a n none none c
    if bad then (Code.POISONED, [], c)
    else if st ≠ Code.OK then (st, [], c)
    else
      let (vs, c) := Chip.getUnits now n a c
      (Code.OK, vs, c)

/-- The units that `len` bytes from `a` up cover, in whole or in part (R12, R411). -/
def unitsOf (a len : Nat) : List Nat :=
  if len = 0 then [] else (List.range ((a % 8 + len + 7) / 8)).map fun i => a / 8 * 8 + 8 * i

/-- Whether a PUT or FILL of `len` bytes from `a` up is critical (R12, R411). -/
def Chip.putCriticalAt (c : Chip) (a len : Nat) : Bool := (unitsOf a len).any c.putCritical

/-- Whether a GET of `len` bytes from `a` up is critical (R20, R411). -/
def Chip.getCriticalAt (c : Chip) (a len : Nat) : Bool := (unitsOf a len).any c.getCritical

end Sys2Proof.Machine
end

