-- ==== Sys2Proof/Machine/SatOps.lean ====
section
/-! DEFINITION. The Scheduled Action Table (R51-R59, R352, R419, R420): validation, cancelling, arming, the end of entries, stage groups,
the table's part in a step of device time; PUT over the whole Control Address Space. -/

namespace Sys2Proof.Machine

/-! ### Entries (Table 2-3) -/

/-- The activation time of entry `n`. -/
def Chip.satT (c : Chip) (n : Nat) : Nat := ns (c.get (A.FT_SAT n) F.FT_SAT_TIME_NS) + c.get (A.FT_SAT n) F.FT_SAT_TIME_FRAC

/-- STATE of entry `n`. -/
def Chip.satState (c : Chip) (n : Nat) : Nat := c.get (A.FT_SAT n) F.FT_SAT_STATE

/-- KIND of entry `n`. -/
def Chip.satKind (c : Chip) (n : Nat) : Nat := c.get (A.FT_SAT n) F.FT_SAT_KIND

/-- ARG0 of entry `n`. -/
def Chip.satArg0 (c : Chip) (n : Nat) : Nat := c.get (A.FT_SAT n) F.FT_SAT_ARG0

/-- ARG1 of entry `n`. -/
def Chip.satArg1 (c : Chip) (n : Nat) : Nat := c.get (A.FT_SAT n) F.FT_SAT_ARG1

/-- An action as an entry would hold it: TIME_NS, TIME_FRAC, KIND, ARG0, ARG1. -/
structure SatReq where
  dt   : Nat
  frac : Nat
  kind : Nat
  arg0 : Nat
  arg1 : Nat
  deriving DecidableEq, Repr

/-- Its activation time. -/
def SatReq.t (q : SatReq) : Nat := ns q.dt + q.frac

/-- The action the four words of an entry name. -/
def satReq (w0 w1 w2 w3 : Word) : SatReq := ⟨w0.toNat, getBits w1 0 16, getBits w1 16 8, w2.toNat, w3.toNat⟩

/-- The items of stage group `g`. -/
def Chip.stageItems (c : Chip) (g : Nat) : List StageItem := mget [] c.cmd.stage g

/-- Replaces the items of stage group `g`. -/
def Chip.setStage (c : Chip) (g : Nat) (xs : List StageItem) : Chip :=
  { c with cmd := { c.cmd with stage := mset [] c.cmd.stage g xs } }

/-- STATE of stage group `g` (R419): 0 EMPTY, 1 OPEN, 2 SEALED. -/
def Chip.stageState (c : Chip) (g : Nat) : Nat := getBits (c.stageWord g) 0 2

/-! ### Validation (R53) -/

/-- Whether the arguments of a kind are in range (Table 2-4). -/
def satArgs (kind a0 a1 : Nat) : Bool :=
  match kind with
  | 0x01 => decide (a0 < 256) && a1 == 0
  | 0x02 => decide (a0 < 2 ^ 32) && decide (a0 % 65536 < 8) && a1 == 0
  | 0x03 => decide (a0 < 1024) && a1 == 0
  | 0x04 => decide (a0 < 512) && decide (a0 % 256 < 16) && a1 == 0
  | 0x05 => a0 == 0 && a1 == 0
  | 0x10 => a0 % 8 == 0 && decide (a0 < 2 ^ 40)
  | 0x11 => decide (1 ≤ a0) && decide (a0 ≤ 12) && a1 == 0
  | 0x12 => decide (a0 < 512) && decide (a0 % 256 < 16) && a1 == 0
  | 0x13 => decide (a0 < 65536) && decide (a1 < 512) && decide (a1 % 256 < 8)
  | _ => false

/-- The rule versions an action commits, as (bank, version) pairs (R176). -/
def Chip.satVersions (c : Chip) (q : SatReq) : List (Nat × Nat) :=
  if q.kind = 1 then (c.stageItems q.arg0).filterMap fun x => if x.kind = 1 then some (x.addr % 8, x.value.toNat % 65536) else none
  else if q.kind = 2 then [(q.arg0 % 8, q.arg0 / 65536 % 65536)]
  else []

/-- Whether no bank stands twice in a list of rule versions. -/
def banksOnce : List (Nat × Nat) → Bool
  | [] => true
  | v :: vs => vs.all (fun w => w.1 != v.1) && banksOnce vs

/-- Whether gate list `l` of port `p` may become active (R287). -/
def Chip.gateListOk (c : Chip) (now p l : Nat) : Bool :=
  let g := c.gate p
  let act := g.listAt now
  let len := c.get (A.TM_GCL_HDR p l) F.TM_GCL_HDR_LENGTH
  act != l && len != 0 && (List.range len).all fun e => c.get (A.TM_GCL p l e) F.TM_GCL_INTERVAL_NS != 0

/-- Check 1 of R53 with the target checks that answer BAD_ARGUMENT; `own` says that RESIZE_SLICE makes the entry. -/
def Chip.satInRange (c : Chip) (now : Nat) (q : SatReq) (own : Bool) : Bool :=
  let vs := c.satVersions q
  satArgs q.kind q.arg0 q.arg1 && q.frac % 8192 == 0
    && (q.kind != 1 || c.stageState q.arg0 == 1)
    && banksOnce vs && vs.all (fun v => c.sealCheck v.1 v.2 != Code.BAD_ARGUMENT)
    && (q.kind != 3 || own)
    && (q.kind != 4 || c.gateListOk now (q.arg0 % 16) (q.arg0 / 256))

/-- Checks 3 and 4 of R53: whether the action's T is not later than that of a live entry of its bank, port or pattern engine. -/
def Chip.satDisorder (c : Chip) (q : SatReq) : Bool :=
  (c.satVersions q).any (fun v => c.verOrder v.1 q.t)
    || (q.kind == 4 && (List.range 1024).any fun n =>
          c.satLive n && c.satKind n == 4 && c.satArg0 n % 16 == q.arg0 % 16 && decide (q.t ≤ c.satT n))
    || (q.kind == 5 && (List.range 1024).any fun n => c.satLive n && c.satKind n == 5 && decide (q.t ≤ c.satT n))

/-- Whether a pricking is being loaded. -/
def Chip.prickLoading (c : Chip) : Bool := (List.range 8).any fun i => (c.session i).any fun x => x.target == 2

/-- The checks of R53 and of the targets (R176, R183, R287, R420), in their order. -/
def Chip.satCheck (c : Chip) (now : Nat) (q : SatReq) (own : Bool) : Status :=
  if !c.satInRange now q own then Code.BAD_ARGUMENT
  else if q.t < now + ns (c.rd A.FT_ARM_LEAD).toNat then Code.TOO_LATE
  else if c.satDisorder q then Code.ORDER
  else if (c.satVersions q).any fun v => c.sealCheck v.1 v.2 == Code.VERSIONS_BUSY then Code.VERSIONS_BUSY
  else if q.kind = 5 ∧ c.prickLoading = true then Code.PRICKING_BUSY
  else if q.kind = 5 ∧ c.peReady (1 - c.peActive now) = false then Code.NO_STANDBY
  else Code.OK

/-- Entry `n` becomes PENDING with an action that has passed its checks; the versions it commits are sealed (R176). -/
def Chip.satPend (c : Chip) (n : Nat) (q : SatReq) : Chip :=
  let vs := c.satVersions q
  let a := A.FT_SAT n
  let c := (c.wr a (BitVec.ofNat 64 q.dt)).wr (a + 8) (BitVec.ofNat 64 (q.frac + q.kind * 2 ^ 16 + 2 ^ 24))
  let c := (c.wr (a + 16) (BitVec.ofNat 64 q.arg0)).wr (a + 24) (BitVec.ofNat 64 q.arg1)
  vs.foldl (fun (c : Chip) v => c.sealVer v.1 v.2 q.t n) c

/-! ### The end of entries (R54, R56-R58, R177, R178) -/

/-- The resize record of an entry that does not end DONE ends with it (R352). -/
def Chip.resizeDrop (c : Chip) (now n st result : Nat) : Chip :=
  if c.satKind n = 3 then c.resizeEnd now (c.satArg0 n) st result else c

/-- A PENDING entry is CANCELLED and journaled. -/
def Chip.satCancelOne (c : Chip) (now n : Nat) : Chip :=
  let k := c.satKind n
  let c := c.satFail n 5 Code.OK
  let c := c.journal now { JEvent.base with event := 0xB, level := 1, detail := n, a0 := BitVec.ofNat 64 k, a1 := 5 }
  c.resizeDrop now n 5 Code.OK

/-- The versions entry `n` sealed return to BUILDING; the PENDING entries whose versions follow are cancelled (R177). -/
def Chip.satUnseal (now : Nat) : Nat → Nat → Chip → Chip
  | 0, _, c => c
  | f + 1, n, c =>
    (c.sealedBy n).foldl (fun (c : Chip) x =>
      let v := c.verGet x.1 x.2 F.CL_VER_VERSION
      let after := (c.sealedAfter x.1 v).map fun y => y.2.2
      let c := c.unsealVer now x.1 x.2 v
      after.foldl (fun (c : Chip) e => if c.satState e = 1 then Chip.satUnseal now f e (c.satCancelOne now e) else c) c) c

/-- STATE = 5 written to a PENDING entry (R54, R177). -/
def Chip.satCancel (c : Chip) (now n : Nat) : Chip := Chip.satUnseal now 1024 n (c.satCancelOne now n)

/-- The SAT_END journal entry of entry `n` (Table 15-8). -/
def Chip.noteSat (c : Chip) (now n result delay : Nat) (arg2 : Word) : Chip :=
  c.journal now { JEvent.base with event := 5, level := 1, result := result, detail := n, a0 := c.rd (A.FT_SAT n),
                                   a1 := BitVec.ofNat 64 delay, w4 := arg2 }

/-- FT_STATUS.STATE when entry `n` armed, as the journal shows it (R61). -/
def Chip.armWord (c : Chip) (n : Nat) : Word := BitVec.ofNat 64 (mget 0 c.ft.armState n)

/-- A keyed entry ends FAILED with a code (R57, R178, R352, R420). -/
def Chip.satKeyedFail (c : Chip) (now n code : Nat) : Chip :=
  let c := (c.satFail n 4 code).noteSat now n code 0 (c.armWord n)
  let c := c.resizeDrop now n 4 code
  (Chip.satUnseal now 1024 n c).raise now Flt.FT_ACTION_FAILED 24 63 0 0

/-- A keyed entry ends DONE (R56): versions are live (R178), a resize works out its outcome (R353), a stage group is EMPTY (R420). -/
def Chip.satKeyedEnd (c : Chip) (now n : Nat) : Chip :=
  let c := ((c.satFail n 3 Code.OK).noteSat now n Code.OK 0 (c.armWord n)).liveVers n
  let c := if c.satKind n = 1 then c.setStage (c.satArg0 n) [] else c
  if c.satKind n = 3 then c.resizeDone now (c.satArg0 n) else c

/-! ### Arming (R56, R57, R420) -/

/-- The registers whose staged writes are keyed state (R137, R295). -/
def keyedBases : List Nat :=
  [A.MA_STEER 0, A.MA_PROFILE 0, A.TM_CLASS 0, A.TM_POLICER 1, A.TM_QUEUE 0, A.TM_HRXQ 0, A.TM_PORTQ 0]

/-- The row of an address that holds keyed state. -/
def keyedRow (a : Nat) : Option (RegRow × Nat) := (findRow (regionRows a) a).filter fun r => memNat r.1.base keyedBases

/-- Whether a stage item is delivered at arming rather than written at T. -/
def StageItem.keyed (x : StageItem) : Bool := x.kind == 1 || (keyedRow x.addr).isSome

/-- Delivers the bits `mask` of keyed register `a` for time `t`, from entry `n`, in the order of R59. -/
def Chip.deliverKeyed (c : Chip) (n t a : Nat) (mask v : Word) : Chip :=
  let later (k : Armed) : Bool := decide (t < k.t) || (k.t == t && decide (n < k.entry))
  let xs := c.ft.armed.filter (fun k => !later k) ++ [⟨a, t, mask, v, n⟩] ++ c.ft.armed.filter later
  { c with ft := { c.ft with armed := xs } }

/-- The bits of word `k` of a register that a PUT writes. -/
def RegRow.rwMask (r : RegRow) (k : Nat) : Word :=
  r.fields.foldl (fun m f => if f.word == k && f.access == .rw then setBits m f.lo f.width (2 ^ f.width - 1) else m) 0

/-- Delivers a WRITE item: its RW fields, and a rewritten TM context is clean (R296). -/
def Chip.deliverItem (c : Chip) (n t : Nat) (x : StageItem) : Chip :=
  match keyedRow x.addr with
  | none => c
  | some (r, k) =>
    let c := c.deliverKeyed n t x.addr (r.rwMask k) x.value
    if r.base = A.TM_POLICER 1 then c.setSram 10 (policerWord ((x.addr - A.TM_POLICER 0) / 32)) 0
    else if r.base = A.TM_QUEUE 0 then c.setSram 10 (queueWord (65536 + (x.addr - r.base) / 32)) 0
    else if r.base = A.TM_HRXQ 0 then c.setSram 10 (queueWord ((x.addr - r.base) / 8)) 0
    else c

/-- The steering entries and profiles that items change, each once (R137). -/
def steerElems (xs : List StageItem) : List Nat :=
  xs.foldl (fun acc x => match keyedRow x.addr with
    | some (r, k) => if (r.base == A.MA_STEER 0 || r.base == A.MA_PROFILE 0) && !memNat (x.addr - 8 * k) acc then (x.addr - 8 * k) :: acc else acc
    | none => acc) []

/-- The code with which an item fails at arming, OK where it passes. -/
def Chip.itemCheck (c : Chip) (now : Nat) (x : StageItem) : Status :=
  if x.kind = 1 then (if c.up 23 then Code.OK else Code.ABSENT) else (c.putPlain now x.addr [x.value]).1

/-- The gate list switch of port `p` (R287): the lists of the switches that `now` has passed but the last are past. -/
def Chip.gateSwitch (c : Chip) (now p t l : Nat) : Chip :=
  let g := c.gate p
  let later := g.switches.filter fun x => decide (now < x.1)
  let g : GateSt := ⟨g.listAt now, later.filter (fun x => decide (x.1 ≤ t)) ++ [(t, l)] ++ later.filter fun x => decide (t < x.1)⟩
  { c with tm := { c.tm with gates := mset GateSt.init c.tm.gates p g } }

/-- Delivers the new quotas of resize record `r` (R353): those that its MASK names. -/
def Chip.deliverResize (c : Chip) (n t r : Nat) : Chip :=
  let a := A.SM_SLICE (c.rsz r F.SM_RESIZE_SLICE)
  let v := c.resizeWords r 0 0
  let keep := c.resizeMask r
  (c.deliverKeyed n t (a + 8) keep.1 v.1).deliverKeyed n t (a + 16) keep.2 v.2

/-- What arming delivers to the targets of entry `n`. -/
def Chip.satDeliver (c : Chip) (now n : Nat) : Chip :=
  let t := c.satT n
  let a0 := c.satArg0 n
  match c.satKind n with
  | 1 =>
    let xs := (c.stageItems a0).filter fun x => x.kind == 0 && x.keyed
    let c := xs.foldl (fun (c : Chip) x => c.deliverItem n t x) (c.armVers n)
    { c with ft := { c.ft with steerTs := (steerElems xs).map (fun _ => t) ++ c.ft.steerTs } }
  | 2 => c.armVers n
  | 3 => c.deliverResize n t a0
  | 4 => c.gateSwitch now (a0 % 16) t (a0 / 256)
  | _ => { c with cl := { c.cl with swaps := c.cl.swaps ++ [t] } }

/-- Entry `n` arms: its new state reaches every target, or none of them (R56, R57, R420). -/
def Chip.satArmNow (c : Chip) (now n : Nat) : Chip :=
  let c := { c with ft := { c.ft with armState := mset 0 c.ft.armState n (c.get A.FT_STATUS F.FT_STATUS_STATE) } }
  let code :=
    if c.satKind n = 1 then
      match (c.stageItems (c.satArg0 n)).find? fun x => c.itemCheck now x != Code.OK with
      | some x => c.itemCheck now x
      | none => Code.OK
    else if c.up 23 then Code.OK else Code.ABSENT
  if code = Code.OK then (c.satDeliver now n).set (A.FT_SAT n) F.FT_SAT_STATE 2 else c.satKeyedFail now n code

/-- SAT_ARM of entry `n` (R56). -/
def Chip.satArm (c : Chip) (now n : Nat) : Chip :=
  if c.satState n = 1 ∧ c.satKeyed n = true ∧ c.satT n ≤ now + ns (c.rd A.FT_ARM_LEAD).toNat then c.satArmNow now n else c

/-- Whether the group of entry `n` holds items to be written at T. -/
def Chip.satWrites (c : Chip) (n : Nat) : List StageItem :=
  if c.satKind n = 1 then (c.stageItems (c.satArg0 n)).filter fun x => !x.keyed else []

/-- SAT_KEYED_DONE of entry `n` (R56); a group with items to be written ends with them. -/
def Chip.satDone (c : Chip) (now n : Nat) : Chip :=
  if c.satState n = 2 ∧ c.satT n ≤ now ∧ (c.satWrites n).isEmpty = true then c.satKeyedEnd now n else c

/-- Writes items in order; the first code other than OK. -/
def Chip.writeItems (now : Nat) : List StageItem → Status → Chip → Status × Chip
  | [], st, c => (st, c)
  | x :: xs, st, c =>
    let r := c.putPlain now x.addr [x.value]
    Chip.writeItems now xs (if st = Code.OK then r.1 else st) r.2

/-- Whether an action that has ended at `now` is late: after T and an allowance, or passed over by a step. -/
def Chip.satLate (c : Chip) (now n allow : Nat) : Bool := c.flag (A.FT_SAT n) F.FT_SAT_LATE || decide (c.satT n + allow < now)

/-- Whether entry `n` comes before entry `m`: by T, then by index (R59). -/
def Chip.satBefore (c : Chip) (n m : Nat) : Bool := decide (c.satT n < c.satT m) || (c.satT n == c.satT m && decide (n < m))

/-- STAGE_WRITE_APPLY of entry `n` (R420): the items that are not keyed are written in order, and the entry ends; the groups of entries
before it go first (R59). -/
def Chip.stageApply (c : Chip) (now n : Nat) : Chip :=
  let xs := c.satWrites n
  if c.satState n ≠ 2 ∨ now < c.satT n ∨ xs.isEmpty = true then c
  else if (List.range 1024).any (fun m => c.satState m == 2 && !(c.satWrites m).isEmpty && c.satBefore m n) then c
  else
    let r := Chip.writeItems now xs Code.OK c
    let c := r.2.setFlag (A.FT_SAT n) F.FT_SAT_LATE (r.2.satLate now n (ns (2000 + 10 * xs.length)))
    if r.1 = Code.OK then c.satKeyedEnd now n
    else (((c.satFail n 4 r.1).noteSat now n r.1 0 (c.armWord n)).liveVers n).raise now Flt.FT_ACTION_FAILED 24 63 0 0

/-! ### PUT over the whole space (R31, R53, R54) -/

/-- The value of word `k` of entry `n` as a write of `ws` would leave it. -/
def Chip.satWord (c : Chip) (n : Nat) (ws : List (Nat × Word)) (k : Nat) : Word :=
  match ws.find? fun w => w.1 == k with
  | some w => w.2
  | none => c.rd (A.FT_SAT n + 8 * k)

/-- A write of words of entry `n`, by index (R53, R54). -/
def Chip.satWrite (c : Chip) (now n : Nat) (ws : List (Nat × Word)) : Status × Chip :=
  let st := c.satState n
  let has1 := ws.any fun w => w.1 == 1
  let args := ws.any fun w => w.1 != 1
  let w1 := c.satWord n ws 1
  let new := getBits w1 24 3
  if st = 1 ∨ st = 2 then
    if st = 1 ∧ has1 = true ∧ args = false ∧ new = 5 then (Code.OK, c.satCancel now n) else (Code.ENTRY_BUSY, c)
  else
    let put (c : Chip) : Chip := ws.foldl (fun (c : Chip) w => if w.1 = 1 then c else c.wr (A.FT_SAT n + 8 * w.1) w.2) c
    if !has1 then (Code.OK, put c)
    else if new = 0 then
      (Code.OK, (put c).wr (A.FT_SAT n + 8) (setBits (c.rd (A.FT_SAT n + 8)) 0 27 (getBits w1 0 27)))
    else if new ≠ 1 then (Code.BAD_ARGUMENT, c)
    else
      let q := satReq (c.satWord n ws 0) w1 (c.satWord n ws 2) (c.satWord n ws 3)
      let code := c.satCheck now q false
      if code = Code.OK then (code, c.satPend n q) else (code, c)

/-- The units from address `a` up by entry. -/
def satUnits : Nat → List Word → List (Nat × List (Nat × Word))
  | _, [] => []
  | a, v :: vs =>
    let n := (a - A.FT_SAT 0) / 32
    let k := a % 32 / 8
    match satUnits (a + 8) vs with
    | (m, ws) :: es => if m = n then (n, (k, v) :: ws) :: es else (n, [(k, v)]) :: (m, ws) :: es
    | [] => [(n, [(k, v)])]

/-- Writes entries in ascending order, each on what the earlier ones left, up to the first that fails: its code (R53). -/
def Chip.satEntriesPut (now : Nat) : List (Nat × List (Nat × Word)) → Chip → Status × Chip
  | [], c => (Code.OK, c)
  | e :: es, c =>
    let r := c.satWrite now e.1 e.2
    if r.1 = Code.OK then Chip.satEntriesPut now es r.2 else r

/-- Whether an address lies in the Scheduled Action Table. -/
def inSat (a : Nat) : Bool := decide (A.FT_SAT 0 ≤ a) && decide (a < A.FT_SAT 1024)

/-- A PUT of `vs` from `a` up (R31): all of it or nothing. -/
def Chip.put (c : Chip) (now a : Nat) (vs : List Word) : Status × Chip :=
  if inSat a then
    if a % 8 ≠ 0 ∨ A.FT_SAT 1024 < a + 8 * vs.length then (Code.BAD_ARGUMENT, c)
    else
      let r := Chip.satEntriesPut now (satUnits a vs) c
      if r.1 = Code.OK then r else (r.1, c)
  else c.putPlain now a vs

/-! ### COMMIT_AT and RESIZE_SLICE (R55, R352) -/

/-- The entry COMMIT_AT and RESIZE_SLICE take. -/
def Chip.satTake (c : Chip) : Option Nat :=
  match firstBelow (fun n => c.satState n == 0) 1024 with
  | some n => some n
  | none => leastBy (fun n => mget 0 c.ft.finOrder n) ((List.range 1024).filter fun n => decide (3 ≤ c.satState n))

/-- Makes a new entry PENDING: its code, the entry, the adapter. -/
def Chip.satCommit (c : Chip) (now : Nat) (q : SatReq) (own : Bool) : Status × Nat × Chip :=
  let st := c.satCheck now q own
  if st = Code.BAD_ARGUMENT ∨ st = Code.TOO_LATE then (st, 0, c)
  else
    match c.satTake with
    | none => (Code.SAT_FULL, 0, c)
    | some n => if st = Code.OK then (st, n, c.satPend n q) else (st, 0, c)

/-- COMMIT_AT (R418). -/
def Chip.commitAt (c : Chip) (now : Nat) (q : SatReq) : Status × Nat × Chip := c.satCommit now q false

/-- RESIZE_SLICE (R352): its code, the record, the entry, the adapter. -/
def Chip.resizeSlice (c : Chip) (now s mask : Nat) (quotas rate : Word) (dt frac : Nat) : Status × Nat × Nat × Chip :=
  let bit (k : Nat) : Bool := natBits mask k 1 == 1
  let bad := frac % 8192 != 0 || (bit 0 && decide (65536 < getBits quotas 0 17)) || (bit 1 && decide (40960 < getBits quotas 17 16))
    || (bit 2 && decide (32768 < getBits quotas 33 16)) || (bit 3 && decide (800000 < getBits rate 0 20))
  if bad then (Code.BAD_ARGUMENT, 0, 0, c)
  else if !c.up 23 then (Code.ABSENT, 0, 0, c)
  else
    match c.resizeTake with
    | none => (Code.RESIZE_FULL, 0, 0, c)
    | some r =>
      let x := (c.resizeFill r s mask quotas rate).satCommit now ⟨dt, frac, 3, r, 0⟩ true
      if x.1 = Code.OK then (Code.OK, r, x.2.1, x.2.2) else (x.1, 0, 0, c)

/-! ### Plain actions (R58, R499) -/

/-- Whether plain entry `n` of kind `k` runs next: due, firmware running, no plain entry before it in time and index order. -/
def Chip.plainDue (c : Chip) (now n k : Nat) : Bool :=
  c.pwr.fwRuns && c.satState n == 1 && c.satKind n == k && decide (c.satT n ≤ now)
    && !(List.range 1024).any fun m => c.satState m == 1 && !c.satKeyed m && c.satBefore m n

/-- Plain entry `n` has run with a code: LATE, DELAY_NS, RESULT, the journal (R58). -/
def Chip.plainEnd (c : Chip) (now n : Nat) (st : Status) (mark : Nat) : Chip :=
  let delay := min 65535 (dtOf (now - c.satT n))
  let a := A.FT_SAT n
  let c := (c.setFlag a F.FT_SAT_LATE (c.satLate now n (ns 2000))).set a F.FT_SAT_DELAY_NS delay
  let c := (c.satFail n (if st = Code.OK then 3 else 4) st).noteSat now n st delay (BitVec.ofNat 64 mark)
  if st = Code.OK then c else c.raise now Flt.FT_ACTION_FAILED 24 63 0 0

/-- SAT_PUT64 of entry `n`: an authenticated write. -/
def Chip.satPut64 (c : Chip) (now n : Nat) : Chip :=
  if c.plainDue now n 0x10 then
    let r := c.put now (c.satArg0 n) [c.rd (A.FT_SAT n + 24)]
    r.2.plainEnd now n r.1 0
  else c

/-- SAT_MODE of entry `n`. -/
def Chip.satMode (c : Chip) (now n : Nat) : Chip :=
  if c.plainDue now n 0x11 then
    let r := c.modeRequest now (c.satArg0 n)
    r.2.2.plainEnd now n r.1 0
  else c

/-- SAT_GPIO of entry `n` (R499). -/
def Chip.satGpio (c : Chip) (now n : Nat) : Chip :=
  if c.plainDue now n 0x12 then
    let k := c.satArg0 n % 16
    if natBits (c.get A.CP_GPIO F.CP_GPIO_DIR) k 1 = 1 then
      (c.set A.CP_GPIO ⟨0, 16 + k, 1⟩ (c.satArg0 n / 256 % 2)).plainEnd now n Code.OK 0
    else c.plainEnd now n Code.BAD_ARGUMENT 0
  else c

/-- SAT_SIGNAL of entry `n`. -/
def Chip.satSignal (c : Chip) (now n : Nat) : Chip :=
  if c.plainDue now n 0x13 then
    let m := c.satArg1 n
    let d := if m / 256 % 2 = 1 then c.fireMsg now 0 (m % 8) else c
    d.plainEnd now n Code.OK (c.satArg0 n)
  else c

/-! ### STAGE (R419) -/

/-- Whether an address may not be staged: windows, the Scheduled Action Table, CP_KEY. -/
def Chip.unstaged (c : Chip) (a : Nat) : Bool :=
  (c.place a).isSome || inSat a || (decide (A.CP_KEY 0 ≤ a) && decide (a < A.CP_KEY 24))
    || (match millOffset a with
        | some (_, o) => inThreadWindow o
        | none => false)

/-- Whether an item may be staged: its address, kind and value words. -/
def Chip.stageOk (c : Chip) (now : Nat) (x : StageItem) : Bool :=
  if x.kind = 0 then !c.unstaged x.addr && (c.putPlain now x.addr [x.value]).1 == Code.OK
  else x.kind == 1 && decide (x.addr < 8) && decide (1 ≤ x.value.toNat) && decide (x.value.toNat < 65536)

/-- Adds an item to those of a group: a WRITE to a staged address replaces its value in place. -/
def addItem (xs : List StageItem) (x : StageItem) : List StageItem :=
  if x.kind = 0 ∧ xs.any (fun y => y.kind == 0 && y.addr == x.addr) = true then
    xs.map fun y => if y.kind == 0 && y.addr == x.addr then x else y
  else xs ++ [x]

/-- STAGE of items to group `g`. -/
def Chip.stage (c : Chip) (now g : Nat) (reset : Bool) (xs : List StageItem) : Status × Chip :=
  if c.stageState g = 2 then (Code.GROUP_SEALED, c)
  else if xs.any fun x => !c.stageOk now x then (Code.BAD_ARGUMENT, c)
  else
    let ys := xs.foldl addItem (if reset then [] else c.stageItems g)
    let others := (c.cmd.stage.filter fun e => e.1 != g).foldl (fun (n : Nat) e => n + e.2.length) 0
    if 4096 < ys.length ∨ 65536 < others + ys.length then (Code.GROUP_FULL, c) else (Code.OK, c.setStage g ys)

/-! ### Steps of device time (R46) -/

/-- Puts entry `n` into a list of entries that stand in the order of R59. -/
def Chip.satInsert (c : Chip) (n : Nat) : List Nat → List Nat
  | [] => [n]
  | m :: ms => if c.satBefore n m then n :: m :: ms else m :: Chip.satInsert c n ms

/-- The keyed entries that are PENDING with T before `lim`, in the order of R59. -/
def Chip.armOrder (c : Chip) (lim : Nat) : List Nat :=
  ((List.range 1024).filter fun n => c.satState n == 1 && c.satKeyed n && decide (c.satT n < lim)).foldl (fun ns n => c.satInsert n ns) []

/-- Before a forward step to `t` every keyed PENDING entry whose T lies before `t` plus FT_ARM_LEAD arms. -/
def Chip.stepArm (c : Chip) (now t : Nat) : Chip :=
  let c := (c.armOrder (t + ns (c.rd A.FT_ARM_LEAD).toNat)).foldl (fun (c : Chip) n => c.satArmNow now n) c
  (List.range 1024).foldl (fun (c : Chip) n =>
    if c.satState n = 1 ∧ c.satKeyed n = false ∧ now < c.satT n ∧ c.satT n < t then c.setFlag (A.FT_SAT n) F.FT_SAT_LATE true else c) c

/-- Before a backward step to `t` every T of keyed state that lies after `t` moves to `t`. -/
def Chip.stepBack (c : Chip) (t : Nat) : Chip :=
  let c := (List.range 32).foldl (fun (c : Chip) i =>
    if c.verGet (i / 4) (i % 4) F.CL_VER_STATE ≠ 0 ∧ t < c.verT (i / 4) (i % 4) then
      (c.set (A.CL_VER (i / 4) (i % 4)) F.CL_VER_T_NS (dtOf t)).set (A.CL_VER (i / 4) (i % 4)) F.CL_VER_T_FRAC (fracOf t)
    else c) c
  let gates := c.tm.gates.map fun (e : Nat × GateSt) => (e.1, { e.2 with switches := e.2.switches.map fun s => (min s.1 t, s.2) })
  { c with ft := { c.ft with armed := c.ft.armed.map fun (k : Armed) => { k with t := min k.t t },
                             steerTs := c.ft.steerTs.map fun s => min s t },
           cl := { c.cl with swaps := c.cl.swaps.map fun s => min s t },
           tm := { c.tm with gates := gates } }

/-- What a step from `now` to `t` does before device time takes its new value (R46, R62, R437). -/
def Chip.stepTime (c : Chip) (now t : Nat) : Chip :=
  let c := if now ≤ t then c.stepArm now t else c.stepBack t
  let c := { c with ft := { c.ft with replica := [] } }
  (c.smpStep now t).ppsSkip t

end Sys2Proof.Machine
end

