-- ==== Sys2Proof/Machine/FlashOps.lean ====
section
/-! DEFINITION. The journal's mirror and its readers, the key store, image sessions (R416, R417, R421-R426). -/

namespace Sys2Proof.Machine

/-! ### Mirroring (R424) -/

/-- LEVEL of a journal entry. -/
def entryLevel (e : List Word) : Nat := getBits (nth 0 e 2) 32 2

/-- A journal block. -/
def Chip.jblock (c : Chip) (b : Nat) : JBlock := mget JBlock.init c.flash.blocks b

/-- Replaces a journal block. -/
def Chip.setJblock (c : Chip) (b : Nat) (x : JBlock) : Chip :=
  { c with flash := { c.flash with blocks := mset JBlock.init c.flash.blocks b x } }

/-- The first block from `b` on, around the ring, that is not retired. -/
def Chip.goodBlock (c : Chip) (b : Nat) : Option Nat :=
  ((List.range 192).map fun k => (b + k) % 192).find? fun k => !(c.jblock k).retired

/-- The block that takes the next entry: the one being filled, or the next where it holds 1,023 entries. -/
def Chip.mirrorBlock (c : Chip) : Option Nat :=
  let cur := c.flash.cur
  if (c.jblock cur).retired || decide (1023 ≤ (c.jblock cur).entries.length) then c.goodBlock ((cur + 1) % 192) else some cur

/-- SEQ of the first entry not yet mirrored. -/
def Chip.mirrorNext (c : Chip) : Chip :=
  c.wr A.CP_JOURNAL_MIRRORED (match c.cmd.unmir with
    | n :: _ => BitVec.ofNat 64 n
    | [] => c.rd A.CP_JOURNAL_NEXT)

/-- The oldest waiting entry, of SEQ `n`, will not be mirrored. -/
def Chip.mirrorSkip (c : Chip) (n : Nat) : Chip :=
  let first := if c.cmd.gapCount = 0 then n else c.cmd.gapFirst
  let d := { c with cmd := { c.cmd with unmir := c.cmd.unmir.drop 1, gapFirst := first, gapCount := c.cmd.gapCount + 1 } }
  (d.inc A.CP_JOURNAL_UNMIRRORED).mirrorNext

/-- The oldest waiting entry is written to block `b`, erased just before its first write; a run of skipped entries that it ends is journaled. -/
def Chip.mirrorWrite (c : Chip) (now b : Nat) (e : List Word) : Chip :=
  let x := c.jblock b
  let fresh := x.entries.isEmpty || b != c.flash.cur
  let x : JBlock := if fresh then ⟨x.erases + 1, false, [e]⟩ else { x with entries := x.entries ++ [e] }
  let c := c.setJblock b x
  let c := { c with flash := { c.flash with cur := b }, cmd := { c.cmd with unmir := c.cmd.unmir.drop 1 } }
  let c := c.set A.CP_FLASH_STATUS F.CP_FLASH_STATUS_MAX_ERASES (max x.erases (c.get A.CP_FLASH_STATUS F.CP_FLASH_STATUS_MAX_ERASES))
  let n := c.cmd.gapCount
  let c := if n = 0 then c
    else ({ c with cmd := { c.cmd with gapCount := 0 } }).journal now { JEvent.base with
      event := 0xE, level := 0, a0 := BitVec.ofNat 64 c.cmd.gapFirst, a1 := BitVec.ofNat 64 n }
  c.mirrorNext

/-- Block `b` failed to erase or to verify: it is retired, and with the last one mirroring stops. -/
def Chip.mirrorRetire (c : Chip) (now b : Nat) : Chip :=
  let c := c.setJblock b { c.jblock b with retired := true }
  let c := c.set A.CP_FLASH_STATUS F.CP_FLASH_STATUS_RETIRED (c.get A.CP_FLASH_STATUS F.CP_FLASH_STATUS_RETIRED + 1)
  let c := c.raise now Flt.CP_FLASH_RETIRE 24 63 0 0
  if (c.goodBlock 0).isSome then c else ({ c with cmd := { c.cmd with stopped := true } }).raise now Flt.CP_FLASH_FAIL 24 63 0 0

/-- JOURNAL_MIRROR: the oldest entry that waits is mirrored, or passed over; `ok` says that the flash erased and verified. -/
def Chip.journalMirror (c : Chip) (now : Nat) (ok : Bool) : Chip :=
  match c.cmd.unmir with
  | [] => c
  | n :: _ =>
    let e := mget [] c.cmd.ring (n % 4096)
    let have_ := (nth 0 e 0).toNat == n && !e.isEmpty
    let tok := c.mirrorTokens now
    let c := { c with cmd := { c.cmd with tokens := tok, tokensAt := now } }
    if !have_ || c.cmd.stopped || !c.flash.present then c.mirrorSkip n
    else if entryLevel e ≠ 0 ∧ tok < mirrorToken then c.mirrorSkip n
    else
      match c.mirrorBlock with
      | none => c.mirrorSkip n
      | some b =>
        if ok then ({ c with cmd := { c.cmd with tokens := if tok < mirrorToken then tok else tok - mirrorToken } }).mirrorWrite now b e
        else c.mirrorRetire now b

/-! ### JOURNAL_READ (R425) -/

/-- The entries of the ring. -/
def Chip.ringEntries (c : Chip) : List (List Word) := (c.cmd.ring.map (·.2)).filter fun e => !e.isEmpty

/-- Keeps the first of entries with one SEQ in a sorted list. -/
def dedupSeq : List (List Word) → List (List Word)
  | [] => []
  | e :: es => e :: dedupSeqFrom (nth 0 e 0) es
where
  /-- Drops what repeats the SEQ before it. -/
  dedupSeqFrom (s : Word) : List (List Word) → List (List Word)
    | [] => []
    | e :: es => if nth 0 e 0 = s then dedupSeqFrom s es else e :: dedupSeqFrom (nth 0 e 0) es

/-- Up to `n` entries whose SEQ is at or above `from_`, in SEQ order, from the ring and the flash. -/
def Chip.journalEntries (c : Chip) (from_ : Word) (n : Nat) : List (List Word) :=
  let all := (c.ringEntries ++ c.flash.blocks.flatMap fun b => b.2.entries).filter fun e => decide (from_.toNat ≤ (nth 0 e 0).toNat)
  (dedupSeq (all.mergeSort fun a b => decide ((nth 0 a 0).toNat ≤ (nth 0 b 0).toNat))).take n

/-- Whether one of the entries is in the flash only. -/
def Chip.needsFlash (c : Chip) (es : List (List Word)) : Bool := es.any fun e => mget [] c.cmd.ring ((nth 0 e 0).toNat % 4096) != e

/-- The result body of JOURNAL_READ. -/
def journalBody (from_ : Word) (es : List (List Word)) : List Byte :=
  leBytes 8 ((es.getLast?.map fun e => nth 0 e 0 + 1).getD from_).toNat ++ es.flatMap ofWords

/-! ### Keys (R416, R417) -/

/-- The device-unique key. -/
def udkBytes : List Byte := (List.range 32).map Config.udk

/-- KEK(n). -/
def kekOf (n : Nat) : List Byte :=
  hmacSha256 udkBytes ([0x4B, 0x5A, 0x2D, 0x4B, 0x45, 0x59, BitVec.ofNat 8 n])

/-- The key in a slot, empty where there is none. -/
def Chip.slotKey (c : Chip) (n : Nat) : List Byte := mget [] c.cmd.keys n

/-- The key store as both flash copies hold it. -/
def Chip.keyImage (c : Chip) : SMap KeySlot :=
  (List.range 24).foldl (fun (m : SMap KeySlot) s =>
    mset KeySlot.empty m s ⟨c.slotKey s, (c.rd (A.CP_KEY s + 8)).toNat, (c.rd (A.CP_KEY s)).toNat⟩) []

/-- Both flash copies take the key store as it is. -/
def Chip.keySave (c : Chip) : Chip := { c with flash := { c.flash with keys := [c.keyImage, c.keyImage], keyOk := [true, true] } }

/-- The checks of KEY_ROLL of slot `n` with a blob: the key and GENERATION it holds. -/
def Chip.rollCheck (c : Chip) (n : Nat) (blob : List Byte) : Status × List Byte × Nat :=
  if 24 ≤ n then (Code.BAD_ARGUMENT, [], 0)
  else
    match keyUnwrap (kekOf n) blob with
    | none => (Code.KEY_UNWRAP, [], 0)
    | some k =>
      let g := leNat ((k.drop 32).take 8)
      if k.length ≠ 40 then (Code.KEY_UNWRAP, [], 0)
      else if g ≤ (c.rd (A.CP_KEY n + 8)).toNat then (Code.GENERATION, [], 0)
      else (Code.OK, k.take 32, g)

/-- The flash writes of a roll have completed: the key is ACTIVE, or gone, and the roll is journaled. -/
def Chip.rollApply (c : Chip) (now n : Nat) (key : List Byte) (gen : Nat) (remove : Bool) : Chip :=
  let a := A.CP_KEY n
  let c := { c with cmd := { c.cmd with keys := mset [] c.cmd.keys n (if remove then [] else key) } }
  let c := if remove then c.setFlag a F.CP_KEY_ACTIVE false
    else (c.wr (a + 8) (BitVec.ofNat 64 gen)).setFlag a F.CP_KEY_ACTIVE true
  c.keySave.journal now { JEvent.base with event := 8, level := 0, detail := n, key := n, a0 := c.rd (a + 8),
                                            a1 := if remove then 1 else 0 }

/-! ### Image sessions (R421) -/

/-- A header field of an image: `n` bytes from `o` on. -/
def imgNat (bs : List Byte) (o n : Nat) : Nat := leNat ((bs.drop o).take n)

/-- The Mills a session names. -/
def millsOf (index : Nat) : List Nat := (List.range 16).filter fun m => natBits index m 1 == 1

/-- The bytes of an image's header. -/
def headerLen (target : Nat) : Nat := if target = 4 then 512 else if target = 5 then 0 else 32

/-- Whether INDEX names a target of its kind. -/
def indexOk (target index : Nat) : Bool :=
  match target with
  | 1 => decide (1 ≤ index) && decide (index < 65536)
  | 3 => decide (index < 32)
  | _ => index == 0

/-- Whether two sessions load one target. -/
def sameTarget (x : Session) (target index : Nat) : Bool :=
  x.target == target && (if target = 1 then x.index &&& index != 0 else x.index == index)

/-- The firmware copy that is not preferred. -/
def Chip.otherCopy (c : Chip) : Nat := 1 - c.flash.pref

/-- Replaces a firmware copy, and CP_BOOT.OTHER_VALID follows. -/
def Chip.setFw (c : Chip) (k : Nat) (f : FwCopy) : Chip :=
  let c := { c with flash := { c.flash with fw := setNth c.flash.fw k f } }
  c.setFlag A.CP_BOOT F.CP_BOOT_OTHER_VALID (c.verifies (1 - c.get A.CP_BOOT F.CP_BOOT_COPY))

/-- Table `i % 16` of engine `i / 16` of a TABLE session: its descriptor's address. -/
def emtOf (i : Nat) : Nat := A.TE_EMT (i / 16) (i % 16)

/-- The header check of Table 15-5 against TOTAL and the target. -/
def Chip.headerOk (c : Chip) (target index total : Nat) (bs : List Byte) : Bool :=
  match target with
  | 1 =>
    let cb := imgNat bs 8 4
    let cc := imgNat bs 12 4
    let pb := imgNat bs 16 4
    let pn := imgNat bs 20 4
    imgNat bs 0 6 == 0x00014C494D4B && cb % 8 == 0 && cc % 8 == 0 && decide (cb + cc ≤ 65536) && pb % 32 == 0 && pn % 32 == 0
      && decide (pb + pn ≤ 2097152) && total == 32 + 4 * cc + pn + 8 * imgNat bs 24 2
  | 2 =>
    let ib := imgNat bs 12 4
    imgNat bs 0 6 == 0x00014B50524B && decide (1 ≤ imgNat bs 8 4) && decide (imgNat bs 8 4 ≤ 65536) && ib % 32 == 0
      && decide (64 ≤ ib) && decide (ib ≤ 786432) && ib == total
  | 3 =>
    let bk := imgNat bs 8 4
    let rc := imgNat bs 12 4
    imgNat bs 0 6 == 0x00014C42544B && bk == 2 ^ c.get (emtOf index) F.TE_EMT_BUCKET_LOG2
      && decide (rc ≤ c.get (emtOf index) F.TE_EMT_RECORD_COUNT) && total == 32 + 32 * (bk + rc)
  | 4 => imgNat bs 0 6 == 0x00014957464B && total == 512 + imgNat bs 12 4 && decide (total ≤ 2 ^ 23)
  | _ => decide (4 ≤ total) && decide (total ≤ 2 ^ 20)

/-- The code of a failed image check. -/
def badImage (target : Nat) : Status := if target = 2 then Code.BAD_PRICKING else if target = 4 then Code.SIGNATURE else Code.IMAGE_BAD

/-- The place in Mill `m` of image byte `o`: code, Millpond, or none for the header and the entries. -/
def millPlace (head : List Byte) (m o : Nat) : Option (Place × Nat) :=
  let cc := 4 * imgNat head 12 4
  let pn := imgNat head 20 4
  if o < 32 then none
  else if o < 32 + cc then
    let a := 4 * imgNat head 8 4 + (o - 32)
    some (.imem m (a / 32), a % 32)
  else if o < 32 + cc + pn then
    let a := imgNat head 16 4 + (o - 32 - cc)
    some (.pond m (a / 32), a % 32)
  else none

/-- Writes image words from offset `o` on into Mill `m`; a code word is new once its last unit is written (R75). -/
def Chip.millWords (head : List Byte) (m : Nat) : Nat → List Word → Chip → Chip
  | _, [], c => c
  | o, v :: vs, c =>
    let c := match millPlace head m o with
      | none => c
      | some (p, k) =>
        let c := c.placePut k v p
        if k = 24 then c.placeClean p else c
    Chip.millWords head m (o + 8) vs c

/-- The QDR data window address of image byte `o` of a TABLE session: the bucket area, then the record area (Table 15-5). -/
def Chip.tablePlace (c : Chip) (index o : Nat) : Nat :=
  let a := emtOf index
  let nb := 32 * 2 ^ c.get a F.TE_EMT_BUCKET_LOG2
  let b := if o - 32 < nb then 32 * c.get a F.TE_EMT_BUCKET_BASE + (o - 32) else 32 * c.get a F.TE_EMT_RECORD_BASE + (o - 32 - nb)
  0x100000000 + 2 ^ 28 * (index / 16) + b

/-- Writes image words of a TABLE session as window PUTs would (R218). -/
def Chip.tableWords (now index : Nat) : Nat → List Word → Chip → Status × Chip
  | o, vs, c =>
    let body := if o < 32 then vs.drop ((32 - o) / 8) else vs
    let o := max o 32
    let nb := 32 * 2 ^ c.get (emtOf index) F.TE_EMT_BUCKET_LOG2
    let k := (32 + nb - o) / 8
    let one (o : Nat) (ws : List Word) (c : Chip) : Status × Chip := if ws.isEmpty then (Code.OK, c) else c.putPlain now (c.tablePlace index o) ws
    let r := one o (body.take k) c
    if r.1 ≠ Code.OK then r
    else
      let q := one (o + 8 * k) (body.drop k) r.2
      if q.1 = Code.OK then q else (q.1, c)

/-- The bytes of an image from offset `o` on reach their target (Table 15-5): what the flash holds is written when the flash has taken it. -/
def Chip.imageWrite (c : Chip) (now : Nat) (x : Session) (o : Nat) (bs : List Byte) : Status × Chip :=
  match x.target with
  | 1 =>
    let head := (x.bytes ++ bs).take 32
    let ms := millsOf x.index
    let c := (ms.filter c.reach).foldl (fun (c : Chip) m => Chip.millWords head m o (toWords bs) c) c
    (if ms.all c.reach then Code.OK else Code.ABSENT, c)
  | 2 =>
    if !c.up 23 then (Code.ABSENT, c)
    else
      let s := 1 - c.peActive now
      let old := mget [] c.cl.img s
      let c := { c with cl := { c.cl with img := mset [] c.cl.img s (old.take o ++ bs) } }
      (Code.OK, (List.range ((o + bs.length) / 32 - o / 32)).foldl (fun (c : Chip) k => c.setSram 9 (peWord s + o / 32 + k) 0) c)
  | 3 => Chip.tableWords now x.index o (toWords bs) c
  | _ => (Code.OK, c)

/-- The bytes of a DATA word that the image still takes: all, or all but the padding to a multiple of 8 after TOTAL. -/
def imageTake (x : Session) (bs : List Byte) : Option (List Byte) :=
  let room := x.total - x.bytes.length
  if bs.length ≤ room then some bs else if bs.length < room + 8 then some (bs.take room) else none

/-- The target checks of BEGIN (Table 15-5): ABSENT, SESSION_BUSY, the target's state, the header. -/
def Chip.beginCheck (c : Chip) (now s target index total : Nat) (bs : List Byte) : Status :=
  let old := c.satAny 5 (fun _ => true) || c.peOldLive now
  let h := headerLen target
  if !indexOk target index then Code.BAD_ARGUMENT
  else if (target = 1 ∧ (millsOf index).any (fun m => !c.reach m) = true) ∨ (target = 2 ∧ c.up 23 = false) ∨ (target = 3 ∧ c.up 22 = false) then
    Code.ABSENT
  else if (c.session s).isSome || (List.range 8).any (fun k => (c.session k).any fun x => sameTarget x target index) then Code.SESSION_BUSY
  else if target = 2 ∧ old = true then Code.PRICKING_BUSY
  else if target = 3 ∧ c.flag (emtOf index) F.TE_EMT_ENABLE = true then Code.TABLE_ENABLED
  else if bs.length < h ∨ c.headerOk target index total bs = false ∨ (imageTake ⟨target, index, total, [], 0⟩ bs).isNone = true then
    if target = 4 then Code.IMAGE_BAD else badImage target
  else Code.OK

/-- BEGIN has passed its checks: the session is open and its target is no longer what it was (Table 15-5). -/
def Chip.beginOpen (c : Chip) (now s target index total : Nat) : Chip :=
  let c := c.setSession s (some ⟨target, index, total, [], now⟩)
  if target = 2 then
    let k := 1 - c.peActive now
    ({ c with cl := { c.cl with img := mset [] c.cl.img k [] } }).wr (A.CL_PE_SLOT k) 0
  else if target = 4 then c.setFw c.otherCopy ⟨false, 0, 0⟩
  else c

/-- Bytes are added to an open session and written to its target. -/
def Chip.imageAdd (c : Chip) (now s : Nat) (x : Session) (bs : List Byte) : Status × Chip :=
  let r := c.imageWrite now x x.bytes.length bs
  if r.1 = Code.OK ∨ x.target = 1 then
    (r.1, r.2.setSession s (some { x with bytes := x.bytes ++ bs, last := now }))
  else (r.1, r.2.setSession s (some { x with last := now }))

/-- Whether the signature, the digest and the format of a firmware image are right (R426). -/
def fwSound (bs : List Byte) : Bool :=
  let k := imgNat bs 6 1
  let pub := (bs.drop 64).take 97
  imgNat bs 0 6 == 0x00014957464B && decide (k ≤ 1) && decide (imgNat bs 8 4 ≤ 64) && sha384 pub == (List.range 48).map (Config.keyHash k)
    && ecdsaP384 pub (sha384 (bs.take 256)) ((bs.drop 256).take 96)
    && sha384 ((bs.drop 512).take (imgNat bs 12 4)) == (bs.drop 16).take 48

/-- The entry checks of a Mill image (Table 15-6). -/
def millEntriesOk (bs : List Byte) : Bool :=
  let cb := imgNat bs 8 4
  let cc := imgNat bs 12 4
  let o := 32 + 4 * cc + imgNat bs 20 4
  (List.range (imgNat bs 24 2)).all fun i => decide (cb ≤ imgNat bs (o + 8 * i) 2) && decide (imgNat bs (o + 8 * i) 2 < cb + cc)

/-- The final check of END (Table 15-5) on the bytes received. -/
def Chip.imageFinal (c : Chip) (x : Session) : Bool :=
  let bs := x.bytes
  bs.length == x.total &&
    (match x.target with
    | 1 => crc32c (bs.drop 32) == imgNat bs 28 4 && millEntriesOk bs
    | 2 => crc32c (bs.drop 32) == imgNat bs 16 4
    | 3 => crc32c (bs.drop 32) == imgNat bs 16 4
    | 4 =>
      let d := c.setFw 0 ⟨fwSound bs, imgNat bs 6 1, imgNat bs 8 4⟩
      d.verifies 0
    | _ => crc32c (bs.take (bs.length - 4)) == imgNat bs (bs.length - 4) 4)

/-- What a good image makes of its target at END. -/
def Chip.imageGood (c : Chip) (now : Nat) (x : Session) : Chip :=
  let bs := x.bytes
  match x.target with
  | 2 =>
    let k := 1 - c.peActive now
    (c.set (A.CL_PE_SLOT k) F.CL_PE_SLOT_PATTERNS (imgNat bs 8 4)).set (A.CL_PE_SLOT k) F.CL_PE_SLOT_IMAGE_ID (imgNat bs 20 4)
  | 4 =>
    let k := c.otherCopy
    let c := c.setFw k ⟨true, imgNat bs 6 1, imgNat bs 8 4⟩
    { c with flash := { c.flash with pref := k }, pwr := { c.pwr with fwStale := true } }
  | 5 =>
    let k := 1 - c.flash.rom
    let c := { c with flash := { c.flash with roms := setNth c.flash.roms k (bs.take (bs.length - 4)), rom := k } }
    c.set A.CP_BOOT F.CP_BOOT_ROM_COPY k
  | _ => c

/-- END (R421): the final check, the outcome, the session closed and journaled. -/
def Chip.imageEnd (c : Chip) (now s : Nat) (x : Session) : Status × Chip :=
  let st := if c.imageFinal x then Code.OK else if x.target = 4 ∧ x.bytes.length ≠ x.total then Code.IMAGE_BAD else badImage x.target
  let c := if st = Code.OK then c.imageGood now x else c
  (st, (c.setSession s none).noteImage now x true st)

/-- SESSION_TIMEOUT of session `s`: 60 s without a word. -/
def Chip.sessionTimeout (c : Chip) (now s : Nat) : Chip :=
  match c.session s with
  | none => c
  | some x => if x.last + ns 60000000000 ≤ now then c.abortSession now s else c

end Sys2Proof.Machine
end

