-- ==== Sys2Proof/Machine/CommandOps.lean ====
section
/-! DEFINITION. Command packets (R404-R418, R447, R448): framing, authentication, the decoding and running of command words, waits, results,
the access points of the I2C target and the debug port. -/

namespace Sys2Proof.Machine

/-! ### Command words (R405, R411, R418, Table 15-4) -/

/-- A command word of Table 15-4 with its arguments. -/
inductive CmdWord where
  | put (addr : Nat) (data : List Word)
  | get (addr len : Nat)
  | fill (addr len : Nat) (value : Word)
  | imageBegin (session target index total : Nat) (bytes : List Byte)
  | imageData (session offset : Nat) (bytes : List Byte)
  | imageEnd (session : Nat)
  | imageAbort (session : Nat)
  | stage (group : Nat) (reset : Bool) (items : List StageItem)
  | commitAt (q : SatReq)
  | waitUntil (dt frac : Nat)
  | resizeSlice (slice mask : Nat) (quotas rate : Word) (dt frac : Nat)
  | bind (slice endpoint pasid : Nat)
  | unbind (slice : Nat)
  | sluiceRelease (endpoint : Nat)
  | mode (m : Nat)
  | keyRoll (slot : Nat) (remove : Bool) (blob : List Byte)
  | journalRead (fromSeq : Word) (count : Nat)
  | debug (mill op tid : Nat) (read : Bool)
  deriving DecidableEq, Repr

/-- Whether a body word has no bit outside the fields of its row. -/
def only (w mask : Word) : Bool := w &&& ~~~mask == 0

/-- The items of a STAGE word. -/
def stageItemsOf : List Word → List StageItem
  | a :: v :: ws => ⟨getBits a 0 40, getBits a 40 24, v⟩ :: stageItemsOf ws
  | _ => []

/-- A LOAD_IMAGE word (R421). -/
def decodeImage (ws : List Word) (body : List Byte) : Option CmdWord :=
  let w := nth 0 ws 0
  let s := getBits w 0 4
  let target := getBits w 8 8
  if !only w 0xFFFFFFFF || 7 < s || target = 0 || 5 < target then none
  else
    match getBits w 4 4 with
    | 0 => if ws.length < 2 then none else some (.imageBegin s target (getBits w 16 16) (nth 0 ws 1).toNat (body.drop 16))
    | 1 => if ws.length < 2 then none else some (.imageData s (nth 0 ws 1).toNat (body.drop 16))
    | 2 => if ws.length = 1 then some (.imageEnd s) else none
    | 3 => if ws.length = 1 then some (.imageAbort s) else none
    | _ => none

/-- The command word with word 0 `w0` and a body; none where Table 15-4 does not define it. -/
def decodeCmd (w0 : Word) (body : List Byte) : Option CmdWord :=
  let ws := toWords body
  let w (i : Nat) : Word := nth 0 ws i
  let n := ws.length
  let sel (len : Nat) (ok : Bool) (x : CmdWord) : Option CmdWord := if n = len ∧ ok = true then some x else none
  if getBits w0 8 24 ≠ 0 then none
  else
    match getBits w0 0 8 with
    | 0x01 => if 2 ≤ n ∧ only (w 0) 0xFFFFFFFFFF = true then some (.put (w 0).toNat (ws.drop 1)) else none
    | 0x02 => sel 2 (only (w 0) 0xFFFFFFFFFF && only (w 1) 0xFFFFFFFF) (.get (w 0).toNat (w 1).toNat)
    | 0x03 => sel 3 (only (w 0) 0xFFFFFFFFFF && only (w 1) 0xFFFFFFFFFF) (.fill (w 0).toNat (w 1).toNat (w 2))
    | 0x04 => decodeImage ws body
    | 0x05 =>
      if 1 ≤ n ∧ only (w 0) 0x1FFF01FF = true ∧ n = 1 + 2 * getBits (w 0) 16 13 then
        some (.stage (getBits (w 0) 0 8) (getBits (w 0) 8 1 == 1) (stageItemsOf (ws.drop 1))) else none
    | 0x06 => sel 4 (only (w 1) 0xFFFFFF) (.commitAt ⟨(w 0).toNat, getBits (w 1) 0 16, getBits (w 1) 16 8, (w 2).toNat, (w 3).toNat⟩)
    | 0x07 => sel 2 (only (w 1) 0xFFFF) (.waitUntil (w 0).toNat (w 1).toNat)
    | 0x08 => sel 5 (only (w 0) 0xF1FFF && only (w 4) 0xFFFF)
        (.resizeSlice (getBits (w 0) 0 13) (getBits (w 0) 16 4) (w 1) (w 2) (w 3).toNat (w 4).toNat)
    | 0x09 => sel 1 (only (w 0) 0xFFFFF00011FFF) (.bind (getBits (w 0) 0 13) (getBits (w 0) 16 1) (getBits (w 0) 32 20))
    | 0x0A => sel 1 (only (w 0) 0x1FFF) (.unbind (w 0).toNat)
    | 0x0B => sel 1 (only (w 0) 1) (.sluiceRelease (w 0).toNat)
    | 0x0C => sel 1 (only (w 0) 15) (.mode (w 0).toNat)
    | 0x0D => sel (if getBits (w 0) 8 1 = 1 then 1 else 7) (only (w 0) 0x11F)
        (.keyRoll (getBits (w 0) 0 5) (getBits (w 0) 8 1 == 1) (body.drop 8))
    | 0x0E => sel 2 (only (w 1) 0x1FFF) (.journalRead (w 0) (w 1).toNat)
    | 0x0F => sel 1 (only (w 0) 0x1FF070F) (.debug (getBits (w 0) 0 4) (getBits (w 0) 8 3) (getBits (w 0) 16 8) (getBits (w 0) 24 1 == 1))
    | _ => none

/-- Whether a command word is critical (R411). -/
def Chip.critical (c : Chip) (w0 : Word) (body : List Byte) : Bool :=
  let ws := toWords body
  let a := getBits (nth 0 ws 0) 0 40
  match getBits w0 0 8 with
  | 0x01 => decide (1 ≤ ws.length) && c.putCriticalAt a (8 * (ws.length - 1))
  | 0x02 => decide (2 ≤ ws.length) && c.getCriticalAt a (getBits (nth 0 ws 1) 0 32)
  | 0x03 => decide (2 ≤ ws.length) && c.putCriticalAt a (getBits (nth 0 ws 1) 0 40)
  | 0x07 => false
  | op => decide (4 ≤ op) && decide (op ≤ 15)

/-- Whether an unkeyed critical word is accepted all the same: a KEY_ROLL in Provision while slots 0-15 are empty (R417), a FIRMWARE image where no
copy verifies (R427). -/
def Chip.waived (c : Chip) (w0 : Word) : Bool :=
  (getBits w0 0 8 == 0x0D && c.mode == Mode.provision && (List.range 16).all fun s => (c.slotKey s).isEmpty)
    || (getBits w0 0 8 == 0x04 && c.mode == Mode.boot && c.pwr.bootFail)

/-- Whether the mode accepts a command word (R447, R448, Tables 17-3 and 17-4). -/
def Chip.modeTakes (c : Chip) (w : CmdWord) : Bool :=
  let m := c.mode
  let in_ (l : List Nat) : Bool := memNat m l
  if m = Mode.boot then
    match w with
    | .get a n => a == A.CP_BOOT && n == 8
    | .imageBegin _ t _ _ _ => t == 4
    | .imageData _ _ _ => true
    | .imageEnd _ => true
    | .imageAbort _ => true
    | _ => false
  else
    match w with
    | .imageBegin _ t _ _ _ => imageMode t m
    | .imageData _ _ _ => !in_ [Mode.standby, Mode.quarantine]
    | .imageEnd _ => !in_ [Mode.standby, Mode.quarantine]
    | .imageAbort _ => !in_ [Mode.standby, Mode.quarantine]
    | .stage _ _ _ => !in_ [Mode.recovery]
    | .commitAt _ => !in_ [Mode.recovery]
    | .resizeSlice _ _ _ _ _ _ => !in_ [Mode.standby, Mode.recovery, Mode.quarantine]
    | .bind _ _ _ => !in_ [Mode.standby, Mode.recovery, Mode.quarantine]
    | .unbind _ => !in_ [Mode.standby, Mode.recovery, Mode.quarantine]
    | .sluiceRelease _ => !in_ [Mode.standby]
    | .debug _ _ _ _ => c.debugMode
    | _ => true

/-! ### Contexts and packets (R404-R407) -/

/-- Context `k`. -/
def Chip.cmdCtx (c : Chip) (k : Nat) : CmdCtx := mget CmdCtx.init c.cmd.ctx k

/-- Replaces context `k`. -/
def Chip.setCmdCtx (c : Chip) (k : Nat) (x : CmdCtx) : Chip :=
  { c with cmd := { c.cmd with ctx := mset CmdCtx.init c.cmd.ctx k x } }

/-- Replaces the packet context `k` runs. -/
def Chip.setRun (c : Chip) (k : Nat) (r : Option RunPkt) : Chip := c.setCmdCtx k { c.cmdCtx k with run := r }

/-- Header word `i` of a packet. -/
def hdr (bs : List Byte) (i : Nat) : Word := leWord ((bs.drop (8 * i)).take 8)

/-- Word 0 and the body of the command word at offset `o`. -/
def wordAt (bs : List Byte) (o : Nat) : Word × List Byte :=
  let w := leWord ((bs.drop o).take 8)
  (w, (bs.drop (o + 8)).take (getBits w 32 32))

/-- Whether command words tile the bytes from offset `o` on (R405). -/
def tiles (bs : List Byte) : Nat → Nat → Bool
  | 0, _ => false
  | n + 1, o =>
    if o = bs.length then true
    else if bs.length < o + 8 then false
    else
      let l := getBits (hdr (bs.drop o) 0) 32 32
      l % 8 == 0 && decide (o + 8 + l ≤ bs.length) && tiles bs n (o + 8 + l)

/-- The bytes of a delivered packet: those of its LENGTH where the frame is longer (R408). -/
def packetBytes (o : Origin) (bs : List Byte) : List Byte := if o.source = 5 then bs.take (getBits (hdr bs 1) 0 32) else bs

/-- The largest packet of an access point; the result of a command queue has a limit of its own, RES_LEN (Table 15-2). -/
def Origin.packetLimit (o : Origin) : Nat := if o.source = 3 ∨ o.source = 4 then 2 ^ 20 else o.limit

/-- Whether a packet is framed (R405). -/
def framed (o : Origin) (bs : List Byte) : Bool :=
  let n := getBits (hdr bs 1) 0 32
  decide (64 ≤ bs.length) && getBits (hdr bs 0) 0 40 == 0x01444D434B && getBits (hdr bs 0) 42 22 == 0 && getBits (hdr bs 1) 52 12 == 0
    && getBits (hdr bs 3) 17 47 == 0 && hdr bs 6 == 0 && hdr bs 7 == 0 && n == bs.length && n % 8 == 0 && decide (n ≤ o.packetLimit)
    && tiles bs bs.length 64

/-- Whether a packet names this station (R405). -/
def Chip.mine (c : Chip) (bs : List Byte) : Bool :=
  getBits (hdr bs 3) 0 16 == c.get A.CP_STATION F.CP_STATION_STATION || getBits (hdr bs 3) 16 1 == 1

/-- The keyed check of a packet under a key (R414). -/
def checkBytes (key bs : List Byte) : List Byte :=
  (hmacSha256 key (bs.take 32 ++ List.replicate 16 0 ++ bs.drop 48)).take 16

/-- The result packet (R406): records of the words run, the status, the journal entry's SEQ, checked under `sign` where the request was
authenticated. -/
def Chip.resultOf (c : Chip) (bs records sign : List Byte) (status nrun : Nat) (seq : Word) : List Byte :=
  let n := 64 + records.length
  let keyed := !sign.isEmpty
  let w0 : Word := BitVec.ofNat 64 (0x0153 * 2 ^ 24 + 0x52434B + (if keyed then 2 ^ 40 else 0) + getBits (hdr bs 0) 41 1 * 2 ^ 41)
  let w1 : Word := BitVec.ofNat 64 (n + getBits (hdr bs 1) 32 20 * 2 ^ 32)
  let w3 : Word := BitVec.ofNat 64 (c.get A.CP_STATION F.CP_STATION_STATION + status % 65536 * 2 ^ 16 + nrun % 65536 * 2 ^ 32)
  let out := ofWords [w0, w1, hdr bs 2, w3, 0, 0, seq, 0] ++ records
  if keyed then out.take 32 ++ checkBytes sign out ++ out.drop 48 else out

/-- The COMMAND journal entry of a packet (R415), and its SEQ. -/
def Chip.noteCommand (c : Chip) (now : Nat) (o : Origin) (bs : List Byte) (auth : Bool) (status : Nat) : Word × Chip :=
  let d := (sha256 bs).take 16
  (c.rd A.CP_JOURNAL_NEXT,
   c.journal now { JEvent.base with event := 1, level := if auth then 0 else 1, source := o.source, result := status, detail := o.detail,
                                    key := getBits (hdr bs 1) 48 4, w4 := hdr bs 2, a0 := leWord (d.take 8), a1 := leWord (d.drop 8) })

/-- The reply frame of a port (R408). -/
def Chip.replyFrame (c : Chip) (o : Origin) (res : List Byte) : List Byte :=
  o.sa ++ beBytes 6 (c.get A.CP_CMD_MAC F.CP_CMD_MAC_MAC) ++ o.tags ++ beBytes 2 (c.get A.CP_CMD_CFG F.CP_CMD_CFG_ETYPE) ++ res

/-- A result goes to its access point (Table 15-2). -/
def Chip.deliver_ (c : Chip) (now k : Nat) (o : Origin) (res : List Byte) : Chip :=
  if k < 2 then c.mboxResult now k o.gen res
  else if k < 18 then c.cmdqResult now ((k - 2) / 8) ((k - 2) % 8) o.gen o res
  else if k = 18 then c.sendOwn o.detail (c.replyFrame o res)
  else if k = 19 then { c with cmd := { c.cmd with i2cRes := res, i2cDone := true } }
  else { c with cmd := { c.cmd with dbgRes := res, dbgDone := true } }

/-- The status with which a packet that is no request ends (R405), or that its transport has decided; OK for a request. -/
def Chip.notRequest (c : Chip) (o : Origin) (bs : List Byte) : Status :=
  if o.pre ≠ Code.OK then o.pre
  else if !framed o bs then Code.BAD_PACKET
  else if !c.mine bs then Code.WRONG_STATION
  else Code.OK

/-- The status of the authentication of a keyed packet (R413). -/
def Chip.authenticate (c : Chip) (bs : List Byte) : Status :=
  let k := getBits (hdr bs 1) 48 4
  let key := c.slotKey k
  if key.isEmpty || checkBytes key bs != (bs.drop 32).take 16 then Code.DENIED
  else if (hdr bs 2).toNat ≤ (c.rd (A.CP_KEY k)).toNat then Code.STALE_COUNTER
  else Code.OK

/-- Whether context `k` runs packets now (R448, R455). -/
def Chip.cmdRuns (c : Chip) : Bool :=
  if c.mode = Mode.boot then c.pwr.bootFail && !c.pwr.fwRuns else c.pwr.fwRuns && decide (4 ≤ c.mode)

/-- Whether a packet of context `k` is refused because no firmware copy verifies (R448). -/
def Chip.bootRefuses (c : Chip) (k : Nat) : Bool := c.mode == Mode.boot && !memNat k [0, 1, 20]

/-- Whether a packet from offset `o` on holds a critical word. -/
def Chip.holdsCritical (c : Chip) (bs : List Byte) : Nat → Nat → Bool
  | 0, _ => false
  | n + 1, o =>
    if bs.length ≤ o then false
    else
      let w := wordAt bs o
      c.critical w.1 w.2 || Chip.holdsCritical c bs n (o + 8 + w.2.length)

/-- The packet of context `k` has ended: journal, result (R406, R415). -/
def Chip.packetEnd (c : Chip) (now k : Nat) (r : RunPkt) : Chip :=
  let log := if r.auth then c.holdsCritical r.bytes r.bytes.length 64 else r.denied
  let (seq, c) := if log then c.noteCommand now r.origin r.bytes r.auth r.status else (-1, c)
  (c.setRun k none).deliver_ now k r.origin (c.resultOf r.bytes r.records r.sign r.status r.nrun seq)

/-- The record of a word that has ended, and the next word; `stop` ends the packet (R405, R406). -/
def RunPkt.record (r : RunPkt) (st : Status) (body : List Byte) : RunPkt :=
  let w := wordAt r.bytes r.off
  let rec0 := leBytes 8 (getBits w.1 0 8 + st % 65536 * 2 ^ 16 + body.length * 2 ^ 32)
  let next := r.off + 8 + w.2.length
  { r with records := r.records ++ rec0 ++ body, nrun := r.nrun + 1, status := if r.status = Code.OK then st else r.status,
           off := if st = Code.OK ∨ r.cont = true then next else r.bytes.length, wait := .none }

/-- Whether a record with a body of `n` bytes would carry the result beyond its limit (R406). -/
def RunPkt.full (r : RunPkt) (n : Nat) : Bool := decide (r.origin.limit < 64 + r.records.length + 8 + n)

/-- The word at hand does not run and the packet stops (R406). -/
def RunPkt.overflow (r : RunPkt) : RunPkt :=
  { r with status := if r.status = Code.OK then Code.RESULT_FULL else r.status, off := r.bytes.length }

/-- Ends the words of context `k` that Table 15-4 does not define (R418), and the packet with its last word. -/
def Chip.cmdSweep (now k : Nat) : Nat → Chip → Chip
  | 0, c => c
  | n + 1, c =>
    match (c.cmdCtx k).run with
    | none => c
    | some r =>
      if r.wait ≠ .none then c
      else if r.bytes.length ≤ r.off then c.packetEnd now k r
      else
        let w := wordAt r.bytes r.off
        match decodeCmd w.1 w.2 with
        | some _ => c
        | none =>
          let deny := !r.auth && c.critical w.1 w.2 && !c.waived w.1
          let next := if r.full 0 then r.overflow
            else { r with denied := r.denied || deny }.record (if deny then Code.DENIED else Code.BAD_ARGUMENT) []
          Chip.cmdSweep now k n (c.setRun k (some next))

/-- Goes on in context `k` after a word. -/
def Chip.cmdNext (c : Chip) (now k : Nat) : Chip :=
  match (c.cmdCtx k).run with
  | none => c
  | some r => Chip.cmdSweep now k (r.bytes.length + 1) c

/-- A word of context `k` has ended with a code and a result body. -/
def Chip.wordEnd (c : Chip) (now k : Nat) (st : Status) (body : List Byte) : Chip :=
  match (c.cmdCtx k).run with
  | none => c
  | some r => (c.setRun k (some (r.record st body))).cmdNext now k

/-- A packet is refused whole with a status: journaled where `log`, its result unsigned (R413). -/
def Chip.refusePacket (c : Chip) (now k : Nat) (o : Origin) (bs : List Byte) (st : Status) (log reply : Bool) : Chip :=
  let (seq, c) := if log then c.noteCommand now o bs false st else (-1, c)
  if reply then c.deliver_ now k o (c.resultOf bs [] [] st 0 seq) else c

/-- Whether it is the turn of context `k`: the command queues with a packet to start take turns, one packet at a time (R329). -/
def Chip.cmdTurn (c : Chip) (k : Nat) : Bool :=
  let free (j : Nat) : Bool := !(c.cmdCtx j).queue.isEmpty && (c.cmdCtx j).run.isNone
  k < 2 || 18 ≤ k || firstBelow (fun i => free (2 + (c.cmd.turn + 1 + i) % 16)) 16 == some ((k + 29 - c.cmd.turn) % 16)

/-- COMMAND_PACKET: the next packet of context `k` takes its start step (R405, R407, R413). -/
def Chip.packetStart (c : Chip) (now k : Nat) : Chip :=
  let x := c.cmdCtx k
  match x.queue, x.run with
  | (raw, o) :: rest, none =>
    if !c.cmdRuns || !c.cmdTurn k then c
    else
      let bs := packetBytes o raw
      let c := c.setCmdCtx k { x with queue := rest }
      let c := if 2 ≤ k ∧ k < 18 then { c with cmd := { c.cmd with turn := k - 2 } } else c
      let st := c.notRequest o bs
      if o.pre ≠ Code.OK then c.refusePacket now k o bs st false true
      else if st = Code.BAD_PACKET then (c.inc A.CP_CMD_BAD_PACKET).refusePacket now k o bs st false (k != 18)
      else
        let c := c.inc A.CP_CMD_PACKETS
        if st ≠ Code.OK then (c.inc A.CP_CMD_NOT_MINE).refusePacket now k o bs st false (k != 18)
        else if c.bootRefuses k then c.refusePacket now k o bs Code.MODE_REFUSED false true
        else
          let keyed := getBits (hdr bs 0) 40 1 == 1
          let a := if keyed then c.authenticate bs else Code.OK
          let slot := getBits (hdr bs 1) 48 4
          if a ≠ Code.OK then
            (c.inc (if a = Code.DENIED then A.CP_CMD_DENIED else A.CP_CMD_STALE)).refusePacket now k o bs a true true
          else
            let c := if keyed then (c.wr (A.CP_KEY slot) (hdr bs 2)).keySave else c
            let r : RunPkt := { bytes := bs, off := 64, origin := o, auth := keyed, key := slot, cont := getBits (hdr bs 0) 41 1 == 1,
                                records := [], nrun := 0, status := Code.OK, denied := false,
                                sign := if keyed then c.slotKey slot else [], wait := .none }
            (c.setRun k (some r)).cmdNext now k
  | _, _ => c

/-! ### Running a word -/

/-- The bytes of the result body a word would carry (Table 15-4). -/
def Chip.bodyLen (c : Chip) : CmdWord → Nat
  | .get _ n => n
  | .imageEnd _ => 8
  | .commitAt _ => 8
  | .resizeSlice _ _ _ _ _ _ => 8
  | .journalRead f n => 8 + 64 * (c.journalEntries f n).length
  | .debug _ _ _ true => 1536
  | _ => 0

/-- How a word ends: at once with a code and a body, or later. -/
inductive WordEnd where
  | now (st : Status) (body : List Byte)
  | later (w : CmdWait)
  deriving DecidableEq, Repr

/-- A result body of one word. -/
def body1 (n : Nat) : List Byte := leBytes 8 n

/-- A code without a body. -/
def plainEnd_ (r : Status × Chip) : WordEnd × Chip := (.now r.1 [], r.2)

/-- Whether a session's image is written to the flash (R407). -/
def toFlash (target : Nat) : Bool := decide (4 ≤ target)

/-- LOAD_IMAGE BEGIN (R421). -/
def Chip.runBegin (c : Chip) (now s target index total : Nat) (bs : List Byte) : WordEnd × Chip :=
  let st := c.beginCheck now s target index total bs
  if st ≠ Code.OK then (.now st [], c)
  else
    let c := c.beginOpen now s target index total
    let x : Session := ⟨target, index, total, [], now⟩
    let take := (imageTake x bs).getD []
    let r := c.imageAdd now s x take
    if toFlash target then (.later (.image s 0), r.2) else plainEnd_ r

/-- LOAD_IMAGE DATA. -/
def Chip.runData (c : Chip) (now s offset : Nat) (bs : List Byte) : WordEnd × Chip :=
  match c.session s with
  | none => (.now Code.NO_SESSION [], c)
  | some x =>
    let c := c.setSession s (some { x with last := now })
    if offset ≠ x.bytes.length then (.now Code.OUT_OF_ORDER [], c)
    else
      match imageTake x bs with
      | none => (.now Code.IMAGE_BAD [], c)
      | some take =>
        let r := c.imageAdd now s x take
        if toFlash x.target then (.later (.image s offset), r.2) else plainEnd_ r

/-- LOAD_IMAGE END. -/
def Chip.runEnd (c : Chip) (now s : Nat) : WordEnd × Chip :=
  match c.session s with
  | none => (.now Code.NO_SESSION (body1 Code.NO_SESSION), c)
  | some x =>
    if toFlash x.target then (.later (.image s x.bytes.length), c)
    else if x.target = 2 ∧ c.up 23 = false then (.now Code.ABSENT (body1 Code.ABSENT), c)
    else
      let r := c.imageEnd now s x
      (.now r.1 (body1 r.1), r.2)

/-- LOAD_IMAGE ABORT. -/
def Chip.runAbort (c : Chip) (now s : Nat) : WordEnd × Chip :=
  match c.session s with
  | none => (.now Code.NO_SESSION [], c)
  | some _ => (.now Code.OK [], c.abortSession now s)

/-- The DEBUG command word (R127-R130). READ_STATE shows the thread the word names. -/
def Chip.runDebug (c : Chip) (now m op t : Nat) (read : Bool) : WordEnd × Chip :=
  if op = 7 then (.now Code.BAD_ARGUMENT [], c)
  else if !c.reach m then (.now Code.ABSENT [], c)
  else
    let r := if op = 0 then (Code.OK, c) else c.debugOp now m op t
    if r.1 ≠ Code.OK ∨ read = false then plainEnd_ r
    else
      let d := r.2
      let sel := d.rd (A.MA_DBG_SEL m)
      let g := (d.set (A.MA_DBG_SEL m) F.MA_DBG_SEL_TID t).getRange now (0x80000000 + 0x800000 * m + 0x800) 192
      if g.1 = Code.OK then (.now Code.OK (ofWords g.2.1), g.2.2.wr (A.MA_DBG_SEL m) sel) else (.now g.1 [], c)

/-- WAIT_UNTIL (R418). -/
def Chip.runWait (c : Chip) (now dt frac : Nat) : WordEnd × Chip :=
  let t := ns dt + frac
  if now + ns 60000000000 < t then (.now Code.BAD_ARGUMENT [], c)
  else if t ≤ now then (.now Code.OK [], c)
  else (.later (.untilT t), c)

/-- KEY_ROLL (R417). -/
def Chip.runRoll (c : Chip) (n : Nat) (remove : Bool) (blob : List Byte) : WordEnd × Chip :=
  if remove then
    if 24 ≤ n then (.now Code.BAD_ARGUMENT [], c) else (.later (.keyRoll n [] 0 true), c)
  else
    let k := c.rollCheck n blob
    if k.1 = Code.OK then (.later (.keyRoll n k.2.1 k.2.2 false), c) else (.now k.1 [], c)

/-- JOURNAL_READ (R425). -/
def Chip.runJournal (c : Chip) (f : Word) (n : Nat) : WordEnd × Chip :=
  if n = 0 ∨ 4096 < n then (.now Code.BAD_ARGUMENT [], c)
  else
    let es := c.journalEntries f n
    if c.needsFlash es then (.later (.journal f.toNat es.length), c) else (.now Code.OK (journalBody f es), c)

/-- MODE (R449). -/
def Chip.runMode (c : Chip) (now m : Nat) : WordEnd × Chip :=
  let r := c.modeRequest now m
  if r.2.1 then (.later .mode, r.2.2) else (.now r.1 [], r.2.2)

/-- BIND, UNBIND and SLUICE_RELEASE; the Slice Manager lies in MR (R31). -/
def Chip.inMr (c : Chip) (r : Status × Chip) : WordEnd × Chip :=
  if r.1 ≠ Code.BAD_ARGUMENT ∧ c.up 23 = false then (.now Code.ABSENT [], c) else plainEnd_ r

/-- Runs a command word whose mode accepts it. -/
def Chip.runWord (c : Chip) (now : Nat) : CmdWord → WordEnd × Chip
  | .put a vs => plainEnd_ (c.put now a vs)
  | .get a n =>
    if n < 8 ∨ n % 8 ≠ 0 then (.now Code.BAD_ARGUMENT [], c)
    else
      let g := c.getRange now a (n / 8)
      (.now g.1 (if g.1 = Code.OK then ofWords g.2.1 else []), g.2.2)
  | .fill a n v => if n % 8 ≠ 0 then (.now Code.BAD_ARGUMENT [], c) else plainEnd_ (c.put now a (List.replicate (n / 8) v))
  | .imageBegin s t i n bs => c.runBegin now s t i n bs
  | .imageData s o bs => c.runData now s o bs
  | .imageEnd s => c.runEnd now s
  | .imageAbort s => c.runAbort now s
  | .stage g reset xs => plainEnd_ (c.stage now g reset xs)
  | .commitAt q =>
    let r := c.commitAt now q
    (.now r.1 (if r.1 = Code.OK then body1 r.2.1 else []), r.2.2)
  | .waitUntil dt f => c.runWait now dt f
  | .resizeSlice s mask q r dt f =>
    let x := c.resizeSlice now s mask q r dt f
    (.now x.1 (if x.1 = Code.OK then body1 (x.2.1 + x.2.2.1 * 2 ^ 32) else []), x.2.2.2)
  | .bind s e p => c.inMr (c.bindSlice now s e p)
  | .unbind s => c.inMr (c.unbindSlice now s)
  | .sluiceRelease e => plainEnd_ (c.sluiceRelease now e)
  | .mode m => c.runMode now m
  | .keyRoll n remove blob => c.runRoll n remove blob
  | .journalRead f n => c.runJournal f n
  | .debug m op t read => c.runDebug now m op t read

/-- Whether context `k` holds a word that could run now. -/
def Chip.runnable (c : Chip) (k : Nat) : Bool :=
  match (c.cmdCtx k).run with
  | some r => r.wait == .none && decide (r.off < r.bytes.length)
  | none => false

/-- Whether the word of context `k` is the next: the processor rotates among the contexts that hold a runnable word (R407). -/
def Chip.wordTurn (c : Chip) (k : Nat) : Bool :=
  firstBelow (fun i => c.runnable ((c.cmd.wordAt + 1 + i) % 21)) 21 == some ((k + 20 - c.cmd.wordAt) % 21)

/-- Runs the next word of context `k`, which is `w` (R405-R407, R411, R412, R418). -/
def Chip.cmdWord (c : Chip) (now k : Nat) (w : CmdWord) : Chip :=
  match (c.cmdCtx k).run with
  | none => c
  | some r =>
    let x := wordAt r.bytes r.off
    if !c.cmdRuns || !c.runnable k || !c.wordTurn k || decodeCmd x.1 x.2 != some w then c
    else
    let c := { c with cmd := { c.cmd with wordAt := k } }
    if r.full 0 then (c.setRun k (some r.overflow)).cmdNext now k
    else if !r.auth && c.critical x.1 x.2 && !c.waived x.1 then
      (c.setRun k (some { r with denied := true })).wordEnd now k Code.DENIED []
    else if !c.modeTakes w then c.wordEnd now k Code.MODE_REFUSED []
    else if r.full (c.bodyLen w) then (c.setRun k (some r.overflow)).cmdNext now k
    else
      match c.runWord now w with
      | (.now st body, d) => d.wordEnd now k st body
      | (.later wt, d) => d.setRun k (some { r with wait := wt })

/-! ### Words that waited (R407) -/

/-- What the word of context `k` waits for. -/
def Chip.waiting (c : Chip) (k : Nat) : CmdWait :=
  match (c.cmdCtx k).run with
  | some r => r.wait
  | none => .none

/-- What the word of context `k` waits for, where the command processor runs. -/
def Chip.resumes (c : Chip) (k : Nat) : CmdWait := if c.cmdRuns then c.waiting k else .none

/-- WAIT_UNTIL_DONE in context `k`. -/
def Chip.waitDone (c : Chip) (now k : Nat) : Chip :=
  match c.resumes k with
  | .untilT t => if t ≤ now then c.wordEnd now k Code.OK [] else c
  | _ => c

/-- KEY_ROLL_DONE in context `k`: the flash writes have completed or failed (R417); a blob that
another roll has outrun is not installed (entry 219). -/
def Chip.keyRollDone (c : Chip) (now k : Nat) (ok : Bool) : Chip :=
  match c.resumes k with
  | .keyRoll n key gen remove =>
    if !(ok && c.flash.present) then c.wordEnd now k Code.FLASH_FAIL []
    else if !remove && decide (gen ≤ (c.rd (A.CP_KEY n + 8)).toNat) then c.wordEnd now k Code.GENERATION []
    else (c.rollApply now n key gen remove).wordEnd now k Code.OK []
  | _ => c

/-- JOURNAL_FLASH_READ_DONE in context `k` (R425). -/
def Chip.journalReadDone (c : Chip) (now k : Nat) : Chip :=
  match c.resumes k with
  | .journal f n => c.wordEnd now k Code.OK (journalBody (BitVec.ofNat 64 f) (c.journalEntries (BitVec.ofNat 64 f) n))
  | _ => c

/-- The word context `k` is at. -/
def Chip.currentWord (c : Chip) (k : Nat) : Option CmdWord :=
  match (c.cmdCtx k).run with
  | some r => decodeCmd (wordAt r.bytes r.off).1 (wordAt r.bytes r.off).2
  | none => none

/-- Whether the word of context `k` is an END, and whether it is a BEGIN. -/
def Chip.atEnd (c : Chip) (k : Nat) : Bool × Bool :=
  match c.currentWord k with
  | some (.imageEnd _) => (true, false)
  | some (.imageBegin _ _ _ _ _) => (false, true)
  | _ => (false, false)

/-- IMAGE_FLASH_WRITE_DONE in context `k` (R407, R421): the bytes stand in the flash, or END makes its check, or the write has failed, and
then the session holds what it held before the word. -/
def Chip.imageWriteDone (c : Chip) (now k : Nat) (ok : Bool) : Chip :=
  match c.resumes k with
  | .image s o =>
    let at_ := c.atEnd k
    match c.session s with
    | none => c.wordEnd now k Code.NO_SESSION (if at_.1 then body1 Code.NO_SESSION else [])
    | some x =>
      if !(ok && c.flash.present) then
        (c.setSession s (if at_.2 then none else some { x with bytes := x.bytes.take o })).wordEnd now k Code.FLASH_FAIL
          (if at_.1 then body1 Code.FLASH_FAIL else [])
      else if at_.1 then
        let r := c.imageEnd now s x
        r.2.wordEnd now k r.1 (body1 r.1)
      else c.wordEnd now k Code.OK []
  | _ => c

/-- The MODE words that wait end with a code (R449, R454). -/
def Chip.modeWordsEnd (c : Chip) (now : Nat) (st : Status) : Chip :=
  (List.range 21).foldl (fun (c : Chip) k => if c.waiting k = .mode then c.wordEnd now k st [] else c) c

/-! ### The I2C target (R410, R441) -/

/-- Whether the I2C target answers: enabled, and the Control Plane out of reset. -/
def Chip.i2cOn (c : Chip) : Bool := c.flag A.CP_CMD_CFG F.CP_CMD_CFG_I2C_EN && decide (3 ≤ c.mode)

/-- BUSY of context `k`: a packet waits or runs. -/
def Chip.ctxBusy (c : Chip) (k : Nat) : Bool := !(c.cmdCtx k).queue.isEmpty || (c.cmdCtx k).run.isSome

/-- Records what an access of the I2C target or the TAP returns. -/
def Chip.answers (c : Chip) (bs : List Byte) : Chip := { c with cmd := { c.cmd with answer := bs } }

/-- Block write 0x10: up to 32 bytes are appended. -/
def Chip.i2cWrite (c : Chip) (bs : List Byte) : Chip :=
  if !c.i2cOn || c.ctxBusy 19 || decide (32 < bs.length) || decide (4096 < c.cmd.i2cBuf.length + bs.length) then c
  else { c with cmd := { c.cmd with i2cBuf := c.cmd.i2cBuf ++ bs } }

/-- Byte write 0x11 of 0x01: the buffered packet is submitted. -/
def Chip.i2cSubmit (c : Chip) (v : Nat) : Chip :=
  if !c.i2cOn || c.ctxBusy 19 || v != 1 then c
  else
    let bs := c.cmd.i2cBuf
    let c := { c with cmd := { c.cmd with i2cBuf := [], i2cRes := [], i2cDone := false } }
    c.cmdSubmit 19 bs { source := 6, detail := 0, limit := 4096, resAddr := 0, sa := [], tags := [], pre := Code.OK, gen := 0 }

/-- Block read 0x12: the next result bytes, up to 32. -/
def Chip.i2cRead (c : Chip) : Chip :=
  if !c.i2cOn then c
  else (({ c with cmd := { c.cmd with i2cRes := c.cmd.i2cRes.drop 32 } }).answers (c.cmd.i2cRes.take 32))

/-- Byte read 0x13: BUSY and DONE. -/
def Chip.i2cStatus (c : Chip) : Chip :=
  if !c.i2cOn then c
  else c.answers [BitVec.ofNat 8 ((if c.ctxBusy 19 then 1 else 0) + if c.cmd.i2cDone then 2 else 0)]

/-- Block read 0x20: the state word (R441). -/
def Chip.i2cState (c : Chip) (now : Nat) : Chip :=
  if !c.i2cOn then c
  else
    let w := c.stateWord now
    w.2.answers w.1

end Sys2Proof.Machine
end

