-- ==== Sys2Proof/Machine/PinOps.lean ====
section
/-! DEFINITION. Pins, supplies, PLLs and the test access port (R460, R470, R478, R483-R487, R495, R496). -/

namespace Sys2Proof.Machine

/-! ### Resets and supplies (R449, R460, R486) -/

/-- COLD_RESET: a pin has held the device in reset for 100 ns: 2 RST_N low, 3 PWR_OK low, 6 TEST_MODE high (R460, R483, R491). -/
def Chip.coldReset (c : Chip) (cause : Nat) : Chip :=
  if c.mode = Mode.off then c
  else
    let p := c.pwr
    let p := { p with rstN := p.rstN && cause != 2, pwrOk := p.pwrOk && cause != 3, testMode := p.testMode || cause == 6 }
    ({ c with pwr := p }).cold Mode.held cause

/-- SUPPLIES_REMOVED (R449): the adapter is Off, and the TAP loses its state. -/
def Chip.supplyOff (c : Chip) : Chip :=
  ({ c with tap := TapSt.init, pwr := { c.pwr with supplyOk := false, pwrOk := false } }).cold Mode.off 1

/-- SUPPLIES_IN_RANGE (R449): from Off to Held, RST_N and PWR_OK low. -/
def Chip.supplyOn (c : Chip) : Chip :=
  if c.mode ≠ Mode.off then c
  else ({ c with pwr := { c.pwr with supplyOk := true, rstN := false, pwrOk := false } }).cold Mode.held 1

/-- SUPPLY_RANGE_EXIT (R486): a supply leaves its range while PWR_OK is high. -/
def Chip.supplyExit (c : Chip) (now : Nat) : Chip :=
  if c.mode ≤ Mode.held ∨ c.pwr.pwrOk = false then c else c.raise now Flt.CP_SUPPLY_FAULT 24 63 0 0

/-- PLL_LOCK_LOSS (R63, R272, R344, R470): the fault of its unit, where the unit runs. -/
def Chip.pllLoss (c : Chip) (now : Nat) : Pll → Chip
  | .fantail => if c.mode ≤ Mode.held then c else c.raise now Flt.FT_TIME_PLL_FAIL 24 63 0 0
  | .lane g => if c.open1 (16 + g) then c.raise now Flt.PX_LANE_PLL_FAIL (16 + g) 63 0 0 else c
  | .link e => if c.open1 (20 + e) then c.raise now Flt.HE_LINK_PLL_FAIL (20 + e) 63 0 0 else c
  | .island n => if c.mode ≤ Mode.held || !c.open1 n then c else c.raise now Flt.CP_ISLAND_CLOCK n 63 0 0

/-! ### Output states (Tables 18-8 and 19-4, R483, R487) -/

/-- What an output does. -/
inductive Drive where
  | idle
  | highZ
  | driven
  deriving DecidableEq, Repr

/-- The port that Ethernet lane `l` serves (Table 9-1). -/
def Chip.lanePort (c : Chip) (l : Nat) : Nat :=
  match c.get (A.PX_MODE (l / 4)) F.PX_MODE_MODE with
  | 0 => l / 4 * 4
  | 1 => l / 2 * 2
  | _ => l

/-- The transmitter of Ethernet lane `l` (R249, R273): driven while its port is enabled, or finishes a frame, in a group that is powered and not
fenced; idle in loopback 1 to 3. -/
def Chip.ethDrive (c : Chip) (l : Nat) : Drive :=
  let p := c.lanePort l
  let lb := c.loopback p
  if decide (3 ≤ c.mode) && c.open1 (16 + p / 4) && (c.flag (A.PX_CFG p) F.PX_CFG_ENABLE || c.lineBusy p)
      && !(decide (1 ≤ lb) && decide (lb ≤ 3)) then .driven else .idle

/-- The transmitters of endpoint `e`. -/
def Chip.pcieDrive (c : Chip) (e : Nat) : Drive :=
  if decide (3 ≤ c.mode) && c.pwrState (38 + e) == 2 && c.flag (A.HE_CTRL e) F.HE_CTRL_ENABLE then .driven else .idle

/-- The signals of QDR channel `k`. -/
def Chip.qdrDrive (c : Chip) (k : Nat) : Drive := if 3 ≤ c.mode ∧ c.pwrState (40 + k) = 2 then .driven else .highZ

/-- The SPI signals. -/
def Chip.spiDrive (c : Chip) : Drive := if 3 ≤ c.mode then .driven else .highZ

/-- GPIO `n`: the level driven, none while it is an input or the device is in Off or Held. -/
def Chip.gpioDrive (c : Chip) (n : Nat) : Option Bool :=
  if 3 ≤ c.mode ∧ natBits (c.get A.CP_GPIO F.CP_GPIO_DIR) n 1 = 1 then some (natBits (c.get A.CP_GPIO F.CP_GPIO_OUT) n 1 == 1) else none

/-- SMB_ALERT_N is driven low while CP_FAULT_HEAD differs from CP_FAULT_TAIL (R483). -/
def Chip.smbAlert (c : Chip) : Bool := decide (3 ≤ c.mode) && c.rd A.CP_FAULT_HEAD != c.rd A.CP_FAULT_TAIL

/-- The VDD_CORE value asked for over AVS, in mV (R487): the highest segment plus 30 mV, within 680 to 880. -/
def Chip.vddAsked (c : Chip) : Nat :=
  min 880 (max 680 ((List.range 25).foldl (fun m n => max m (c.get (A.CP_AVS n) F.CP_AVS_MV)) 0 + 30))

/-! ### The TAP (R495, Table 19-10) -/

/-- What the boundary scan register does with the outputs under the instruction loaded: driven from it, in high impedance, or functional. -/
def TapSt.pins (t : TapSt) : Option Drive :=
  if t.ir = 0 ∨ t.ir = 4 ∨ t.ir = 5 ∨ t.ir = 6 then some .driven else if t.ir = 3 then some .highZ else none

/-- Bits of the data register an instruction selects, the boundary scan register apart. -/
def TapSt.width (t : TapSt) : Option Nat :=
  if t.ir = 0 ∨ t.ir = 2 ∨ t.ir = 5 ∨ t.ir = 6 then none
  else some (if t.ir = 1 then 32 else if t.ir = 0x20 then 66 else if t.ir = 0x21 then 8 else 1)

/-- Loads a TAP instruction; VDD_AON powers the TAP in every mode but Off. -/
def Chip.tapLoad (c : Chip) (ir : Nat) : Chip :=
  if c.mode = Mode.off then c else { c with tap := { c.tap with ir := ir } }

/-- IDCODE: the register reads 0x1981_656B. -/
def Chip.tapIdcode (c : Chip) : Chip := if c.mode = Mode.off then c else (c.tapLoad 1).answers (leBytes 4 0x1981656B)

/-- SAMPLE/PRELOAD: the chain samples the pins and then holds a new value. -/
def Chip.tapSample (c : Chip) (pins : List Byte) (value : Nat) : Chip :=
  if c.mode = Mode.off then c
  else
    let c := (c.tapLoad 2).answers pins
    { c with tap := { c.tap with bsr := value } }

/-- CMD_STATUS: BUSY, DONE, REFUSED. -/
def Chip.tapStatus (c : Chip) : Chip :=
  if c.mode = Mode.off then c
  else (c.tapLoad 0x21).answers [BitVec.ofNat 8 ((if c.ctxBusy 20 then 1 else 0) + (if c.cmd.dbgDone then 2 else 0)
    + (if c.cmd.dbgRefused then 4 else 0))]

/-- Submits the packet in the debug port's buffer (R410, R496): refused with DENIED while DEBUG_EN = 0. -/
def Chip.debugSubmit (c : Chip) : Chip :=
  let bs := c.cmd.dbgBuf
  let c := { c with cmd := { c.cmd with dbgBuf := [], dbgRes := [], dbgDone := false, dbgRefused := false } }
  if c.flag A.CP_CMD_CFG F.CP_CMD_CFG_DEBUG_EN then
    c.cmdSubmit 20 bs { source := 7, detail := 0, limit := 65536, resAddr := 0, sa := [], tags := [], pre := Code.OK, gen := 0 }
  else
    { c with cmd := { c.cmd with dbgRes := c.resultOf bs [] [] Code.DENIED 0 (-1), dbgDone := true, dbgRefused := true } }

/-- Update-DR of CMD_DATA (R496). -/
def Chip.tapData (c : Chip) (v : Word) (valid last : Bool) : Chip :=
  if c.mode = Mode.off then c
  else
    let c := c.tapLoad 0x20
    if !valid || c.ctxBusy 20 || decide (65536 < c.cmd.dbgBuf.length + 8) then c
    else
      let c := { c with cmd := { c.cmd with dbgBuf := c.cmd.dbgBuf ++ leBytes 8 v.toNat } }
      if last then c.debugSubmit else c

/-- Capture-DR of CMD_DATA (R496): the next 8 result bytes, or none. -/
def Chip.tapCapture (c : Chip) : Chip :=
  if c.mode = Mode.off then c
  else
    let c := c.tapLoad 0x20
    ({ c with cmd := { c.cmd with dbgRes := c.cmd.dbgRes.drop 8 } }).answers (c.cmd.dbgRes.take 8)

/-- TAP_RESET (R489): IDCODE is selected and the pins are functional. -/
def Chip.tapReset (c : Chip) : Chip := { c with tap := { c.tap with ir := 1 } }

end Sys2Proof.Machine
end

