-- ==== Sys2Proof/Machine/Settle.lean ====
section
/-! DEFINITION. What follows a command within its own step: the class actions of faults, the end of a wait for Standby, a state dump, the stall
measurement; and how a command acts on the whole state. -/

namespace Sys2Proof.Machine

/-! ### The state dump (R457) -/

/-- Whether the unit at `a` lies in a poisoned word. -/
def Chip.unitBad (c : Chip) (a : Nat) : Bool :=
  match c.place a, regCode a with
  | some p, _ => c.placeBad p
  | none, some w => codeBad (c.sram w.1 w.2)
  | none, none => false

/-- One range with the bytes a GET would read: those bytes, the poison of each, whether it ended ABSENT. A dump is no GET, so no ROC field
clears and no time is latched by it (R13, entry 174). -/
def Chip.dumpRange (c : Chip) (now a n : Nat) : List Byte × List Bool × Bool × Chip :=
  let st := c.getChecks (n / 8) a Code.OK
  if n = 0 then ([], [], false, c)
  else if a % 8 ≠ 0 ∨ st ≠ Code.OK then (List.replicate n 0, List.replicate n false, st == Code.ABSENT, c)
  else
    let bad := (List.range (n / 8)).flatMap fun i => List.replicate 8 (c.unitBad (a + 8 * i))
    let (_, c) := Chip.getReads c now a (n / 8) none none c
    let (vs, d) := Chip.getUnits now (n / 8) a c
    (ofWords vs, bad, false, { c with free := d.free })

/-- The ranges of CP_DUMP_LIST in index order, from entry `i` on: bytes, poison, the mask of those ABSENT, their number. -/
def Chip.dumpRanges (now : Nat) : Nat → Nat → Chip → List Byte × List Bool × Nat × Nat × Chip
  | 0, _, c => ([], [], 0, 0, c)
  | k + 1, i, c =>
    let a := A.CP_DUMP_LIST i
    if c.flag a F.CP_DUMP_LIST_VALID then
      let (bs, ms, gone, c) := c.dumpRange now (c.get a F.CP_DUMP_LIST_ADDR) (c.get a F.CP_DUMP_LIST_LEN)
      let (bs', ms', mask, n, c) := Chip.dumpRanges now k (i + 1) c
      (bs ++ bs', ms ++ ms', mask + (if gone then 2 ^ i else 0), n + 1, c)
    else Chip.dumpRanges now k (i + 1) c

/-- Ends a dump with a status. -/
def Chip.dumpEnd (c : Chip) (st : Status) : Chip :=
  (c.setFlag A.CP_DUMP_CTRL F.CP_DUMP_CTRL_BUSY false).set A.CP_DUMP_CTRL F.CP_DUMP_CTRL_STATUS st

/-- A dump that has been started is written once function 0 of its endpoint can issue (R457, entry 35). -/
def Chip.dumpRun (c : Chip) (now : Nat) : Chip :=
  if !c.flag A.CP_DUMP_CTRL F.CP_DUMP_CTRL_BUSY then c
  else
    let e := c.get A.CP_DUMP_CTRL F.CP_DUMP_CTRL_ENDPOINT
    let st := c.issueStatus e 0
    if st ≠ Code.OK then c.dumpEnd st
    else if !c.epUp e then c
    else
      let (bs, ms, mask, n, d) := Chip.dumpRanges now 64 0 c
      let head := ofWords [0x504D444B, dtWord (stamp now), BitVec.ofNat 64 n, BitVec.ofNat 64 mask, 0, 0, 0, 0]
      (d.writeData e 0 none (d.rd A.CP_DUMP_ADDR).toNat (head ++ bs) (List.replicate 64 false ++ ms)).dumpEnd Code.OK

/-! ### What a step still has to do -/

/-- Does one thing that is due. -/
def Chip.dueDo (c : Chip) (now : Nat) : Due → Chip
  | .fault cls target code => c.classAct now cls target code
  | .occupancy p => c.weirLook now p
  | .own p => c.ownGo now p
  | .usage s => c.usageFell now s
  | .modeEnd st => c.modeWordsEnd now st

/-- Does what is due, and what that makes due, oldest first. -/
def Chip.dueAll (now : Nat) : Nat → Chip → Chip
  | 0, c => c
  | n + 1, c =>
    match c.due with
    | [] => c
    | d :: ds => Chip.dueAll now n (({ c with due := ds }).dueDo now d)

/-- Whether a MODE word still waits for what it asked (R449, R454). -/
def Chip.modeUnderWay (c : Chip) : Bool := c.pwr.standby.isSome || (c.mode == Mode.standby && c.pwr.testing)

/-- The waits that a command may have ended. -/
def Chip.waitsEnd (c : Chip) (now : Nat) : Chip :=
  let c := Chip.dueAll now 4096 (c.standbyEnter now)
  let c := if c.modeUnderWay then c else c.modeWordsEnd now Code.MODE_REFUSED
  c.dumpRun now

/-- Keeps the stall measurement of every Mill (R124). -/
def Chip.measureAll (c : Chip) (now : Nat) : Chip := (List.range 16).foldl (fun (c : Chip) m => c.measure now m) c

/-- The rest of a step. -/
def Chip.settle (c : Chip) (now : Nat) : Chip := ({ (Chip.dueAll now 4096 c).waitsEnd now with due := [] }).measureAll now

/-! ### Commands on the whole state -/

/-- A requested step of device time takes effect where the mode the command found admits it (R45, R46). -/
def State.stepped (s : State) (c : Chip) : State :=
  match c.ft.stepTo with
  | none => { s with chip := c }
  | some t =>
    if stepAdmitted s.chip.mode s.time t then
      let d := (c.stepTime s.time t).settle t
      { s with time := t, chip := { d with ft := { d.ft with stepTo := none } } }
    else { s with chip := { c with ft := { c.ft with stepTo := none } } }

/-- What a command does to the adapter at the device time it finds, with all that follows within its step. -/
def State.after (s : State) (f : Nat → Chip → Chip) : State := s.stepped ((f s.time { s.chip with due := [] }).settle s.time)

/-- The outcome of a command. -/
def State.on (s : State) (f : Nat → Chip → Chip) : Host.Outcome State Fault Refusal := .next (s.after f)

/-- The outcome of a cold reset, after which device time starts at 0 (R41, R460). -/
def State.restarted (s : State) (f : Chip → Chip) : Host.Outcome State Fault Refusal :=
  .next { s.after (fun _ c => f c) with time := 0 }

/-- Device time has reached `t` (R5, R47), in a mode that keeps it. -/
def State.reach (s : State) (t : Nat) : State := if 3 ≤ s.chip.mode then { s with time := max s.time t } else s

/-- A write of registers by the command processor with a keyed check, in a mode that runs one (R411, R447); its code is kept. -/
def Chip.regWrite (c : Chip) (now a : Nat) (vs : List Word) : Chip :=
  if c.pwr.fwRuns && decide (4 ≤ c.mode) then
    let r := c.put now a vs
    { r.2 with cmd := { r.2.cmd with lastStatus := r.1 } }
  else c

/-- A request for a step (R46): in Boot, which runs no command word, the firmware makes it. -/
def Chip.stepWrite (c : Chip) (now : Nat) : Chip :=
  if c.mode = Mode.boot ∧ c.pwr.fwRuns = true then
    let r := c.put now A.FT_STEP_CTRL [1]
    { r.2 with cmd := { r.2.cmd with lastStatus := r.1 } }
  else c.regWrite now A.FT_STEP_CTRL [1]

/-- A read of registers by the command processor with a keyed check. -/
def Chip.regRead (c : Chip) (now a n : Nat) : Chip :=
  if c.pwr.fwRuns && decide (4 ≤ c.mode) then
    let r := c.getRange now a n
    { r.2.2 with cmd := { r.2.2.cmd with lastStatus := r.1, answer := ofWords r.2.1 } }
  else c

end Sys2Proof.Machine
end

