-- ==== Sys2Proof/Machine/Arrival.lean ====
section
/-! DEFINITION. Frames that arrive, Buffering, Dispatch, Prelook and the order stage (spec/05_packet_program.md, spec/09_ports.md). One meaning for every command; the operations they call say what each does. -/

namespace Sys2Proof.Machine

/-- A tentative result completes (R147, R149): of a rule bank, of the pattern engine, of an exact-match or an LPM table. Only what R148
leaves to a tentative request stands. -/
def Chip.tentativeComplete (c : Chip) (now pk ch : Nat) : Chip :=
  if 512 ≤ ch ∧ ch < 520 then c.tentDone pk ch (fun r c => c.lookupServe now r) fun _ c d => { c with free := d.free }
  else if ch = 528 then c.tentDone pk ch (fun r c => c.scan now r.words r) fun _ c d => { c with free := d.free }
  else if 544 ≤ ch ∧ ch < 576 then c.tentDone pk ch (fun r c => c.teServe now r true) fun m c d => c.tentSpent m d
  else if 577 ≤ ch ∧ ch < 585 then c.tentDone pk ch (fun r c => c.lpmServe now r true) fun m c d => c.tentSpent m d
  else c

/-- FRAME_RECEIVE (R250): A whole frame arrives at a port, is stamped and classified, and is dropped or waits in the receive buffer for a
bobbin. `bytes` is what arrives, its FCS or mCRC last, at the moment of its last bit: an express frame, or one fragment of a preemptable frame,
as `smd` says (R252); `pcs` says that the PCS or the RS-FEC marked it in error; `fecOk` and `fecBad` are the RS-FEC codewords corrected and
uncorrectable in it. -/
def execFrameReceive (p : PortNo) (smd : Smd) (bytes : List Byte) (pcs : Bool) (fecOk fecBad : Nat)
    (s : State) : Host.Outcome State Fault Refusal :=
  s.on fun now c => c.frameReceive now p smd bytes pcs fecOk fecBad

/-- POOL_ALLOCATION (R229): A request for a bobbin of n bytes is granted from the smallest pool that fits, with fallback, or ends EMPTY.
The request is that of the oldest frame in the receive buffer of port group `g`; those of transmit jobs, headers and ALLOC are made
within the rows that need them. -/
def execPoolAllocation (g : GroupNo) (s : State) : Host.Outcome State Fault Refusal := s.on fun now c => c.poolAllocation now g

/-- DISPATCH (R138): The dispatcher serves an eligible packet: it reads the steering entry, sets the version stamps and places the packet
in its Mill's dispatch queue. -/
def execDispatch (s : State) : Host.Outcome State Fault Refusal := s.on fun now c => c.dispatch now

/-- DISPATCH_THREAD_TAKE (R138): The Mill takes a thread for the oldest queued packet once its FREE count exceeds the reserve, and begins
the head window copy. -/
def execDispatchThreadTake (m : MillNo) (s : State) : Host.Outcome State Fault Refusal := s.on fun now c => c.takeThread now m

/-- TENTATIVE_COMPLETE (R149): A tentative request's result completes in its engine and waits to be adopted. `pk` is the key of the packet
in `DispSt.pkts`. -/
def execTentativeComplete (pk : Nat) (ch : ChanNo) (s : State) : Host.Outcome State Fault Refusal :=
  s.on fun now c => c.tentativeComplete now pk ch

/-- HOLD_EXPIRY (R150): HOLD_NS elapses after a tentative request was issued, and its result is discarded. -/
def execHoldExpiry (pk : Nat) (ch : ChanNo) (s : State) : Host.Outcome State Fault Refusal := s.on fun now c => c.holdExpiry now pk ch

/-- ORDER_STAGE_RELEASE (R37): The order stage passes a held verdict once every earlier packet of its source and steering entry in the
Mill has given its verdict. -/
def execOrderStageRelease (m : MillNo) (s : State) : Host.Outcome State Fault Refusal := s.on fun _ c => c.orderRelease m

/-- STEER_WRITE (R137): A PUT of MA_STEER or MA_PROFILE applies to later dispatches and advances MA_STEER_GEN. Steering entries from `n`
up, or a profile. -/
def execSteerWrite (n : Sum (Fin 4096) (Fin 64)) (words : List Word) (s : State) : Host.Outcome State Fault Refusal :=
  s.on fun now c => c.regWrite now (match n with
    | .inl n => A.MA_STEER n
    | .inr k => A.MA_PROFILE k) words

/-- RECIPE_WRITE (R151): A PUT of a Prelook recipe empties every signature slot that names it. -/
def execRecipeWrite (r : Fin 64) (words : List Word) (s : State) : Host.Outcome State Fault Refusal :=
  s.on fun now c => c.regWrite now (A.MA_PL_RECIPE r) words

/-- INVALIDATE (R151): Writing MA_PL_CTRL.INVALIDATE empties the signature cache. -/
def execInvalidate (v : Word) (s : State) : Host.Outcome State Fault Refusal :=
  s.on fun now c => c.regWrite now A.MA_PL_CTRL [setBits v 3 1 1]

end Sys2Proof.Machine
end

