-- ==== Sys2Proof/Machine/Bobbins.lean ====
section
/-! DEFINITION. The requests of the Bobbin Pool Manager and its pools (spec/08_bobbins.md). One meaning for every command; the operations they call say what each does. -/

namespace Sys2Proof.Machine

/-- ALLOC (R231): An ALLOC request on channel 608 grants a bobbin bound to the requester, subject to quota and ALLOC_LIMIT. -/
def execAlloc (s : State) : Host.Outcome State Fault Refusal := s.on fun now c => c.serveBp 608 fun c r => c.bpAlloc now r

/-- SHARE (R235): A SHARE request on channel 609 raises a bobbin's reference count and may make the bobbin system-owned. -/
def execShare (s : State) : Host.Outcome State Fault Refusal := s.on fun now c => c.serveBp 609 fun c r => c.bpShare now r

/-- RELEASE (R234): A RELEASE request on channel 610 lowers REF, freeing the bobbin when REF reaches 0. -/
def execRelease (s : State) : Host.Outcome State Fault Refusal := s.on fun now c => c.serveBp 610 fun c r => c.bpRelease now r

/-- BP_WRITE (R240): A WRITE request on channel 611 stores up to 56 bytes into a bound ALLOC bobbin. -/
def execBpWrite (s : State) : Host.Outcome State Fault Refusal := s.on fun now c => c.serveBp 611 fun c r => c.bpWrite now r

/-- POOL_WRITE (R224): A PUT of BP_POOL(p) that carves, enables or disables a pool, or ends with POOL_BUSY or BAD_ARGUMENT. -/
def execPoolWrite (p : Fin 8) (words : List Word) (s : State) : Host.Outcome State Fault Refusal :=
  s.on fun now c => c.regWrite now (A.BP_POOL p) words

end Sys2Proof.Machine
end

