-- ==== Sys2Proof/Machine/Cipher.lean ====
section
/-! DEFINITION. The Cipher Engine (spec/11_cipher_storage.md). One meaning for every command; the operations they call say what each does. -/

namespace Sys2Proof.Machine

/-- CIPHER_JOB (R308): A cipher job on channel 640 or 641 seals or opens its source into DST under a context, and its reply follows when a
lane has finished. `xts` names channel 641. -/
def execCipherJob (xts : Bool) (s : State) : Host.Outcome State Fault Refusal :=
  s.on fun now c => c.serve (if xts then 641 else 640) fun r c => c.cipherJob now r

/-- INSTALL (R302): CE_CTX_CMD INSTALL unwraps the key blob and writes a new context. A write of CE_CTX_CMD. -/
def execInstall (ctx : BitVec 20) (ktk : Fin 4) (s : State) : Host.Outcome State Fault Refusal :=
  s.on fun now c => c.regWrite now A.CE_CTX_CMD [BitVec.ofNat 64 (ctx.toNat + 2 ^ 20 + ktk.val * 2 ^ 24)]

/-- REMOVE (R302): CE_CTX_CMD REMOVE requests removal of a context. -/
def execRemove (ctx : BitVec 20) (s : State) : Host.Outcome State Fault Refusal :=
  s.on fun now c => c.regWrite now A.CE_CTX_CMD [BitVec.ofNat 64 (ctx.toNat + 2 * 2 ^ 20)]

/-- REMOVE_TAKES_EFFECT (R302): The jobs accepted for a removed context have completed, and the context is written invalid. -/
def execRemoveTakesEffect (ctx : BitVec 20) (s : State) : Host.Outcome State Fault Refusal := s.on fun now c => c.removeEffect now ctx.toNat

/-- CTX_FLUSH (R303): CE_CTX_CMD FLUSH writes the exact state of every cached context. -/
def execCtxFlush (s : State) : Host.Outcome State Fault Refusal :=
  s.on fun now c => c.regWrite now A.CE_CTX_CMD [BitVec.ofNat 64 (3 * 2 ^ 20)]

/-- READ_STATE (R319): CE_CTX_CMD READ_STATE loads a context's SEQ into CE_CTX_STATE. -/
def execReadState (ctx : BitVec 20) (s : State) : Host.Outcome State Fault Refusal :=
  s.on fun now c => c.regWrite now A.CE_CTX_CMD [BitVec.ofNat 64 (ctx.toNat + 4 * 2 ^ 20)]

end Sys2Proof.Machine
end

