-- ==== Sys2Proof/Machine/Classifier.lean ====
section
/-! DEFINITION. Lookups, scans, rule writes and version retirement (spec/06_classifier.md). One meaning for every command; the operations they call say what each does. -/

namespace Sys2Proof.Machine

/-- Whether a source holds a packet stamped before `t` that Dispatch has not taken, in its queue or in a receive buffer (R179). -/
def Chip.heldBefore (c : Chip) (t : Nat) : Bool :=
  (c.eligible.any fun e => decide (e.2.istamp < t)) || c.net.rx.any fun f => decide (f.stamp < t)

/-- The oldest live version of bank `b` retires, if its conditions hold and no pass is under way (R179). -/
def Chip.versionRetire (c : Chip) (b : Nat) : Chip :=
  match c.oldestLive b with
  | none => c
  | some k =>
    match c.verSlot b (nextVer (c.verGet b k F.CL_VER_VERSION)) with
    | none => c
    | some j =>
      if !c.open1 23 || !c.schemeV b || c.flag (A.CL_BANK_VSTAT b) F.CL_BANK_VSTAT_CLEANING || c.verGet b j F.CL_VER_STATE != 2
          || c.verGet b k F.CL_VER_INFLIGHT != 0 || c.heldBefore (c.verT b j) then c
      else ((c.dropVer b k).setFlag (A.CL_BANK_VSTAT b) F.CL_BANK_VSTAT_CLEANING true).verStat b

/-- The version before `v` in the sequence that skips 0. -/
def prevVer (v : Nat) : Nat := if v = 1 then 65535 else v - 1

/-- The retirement pass of bank `b` ends (R179, R181): the version that retired is the one before the oldest live one. -/
def Chip.passEnd (c : Chip) (now b : Nat) : Chip :=
  if !c.open1 23 || !c.flag (A.CL_BANK_VSTAT b) F.CL_BANK_VSTAT_CLEANING then c
  else
    let c := c.setFlag (A.CL_BANK_VSTAT b) F.CL_BANK_VSTAT_CLEANING false
    match c.oldestLive b with
    | none => c
    | some k => let w := c.verGet b k F.CL_VER_VERSION; c.cleanBank now b (prevVer w) w

/-- CL_LOOKUP (R165): A LOOKUP request on channel 512 + b returns the winning rule of bank b under the packet's version, or the miss
action. -/
def execClLookup (b : Fin 8) (s : State) : Host.Outcome State Fault Refusal :=
  s.on fun now c => c.serveTent (512 + b) (fun _ => true) EngReq.inOrder (fun r c => c.lookupServe now r) fun r ws c =>
    c.lookupTaken now r ws

/-- SCAN (R185): A SCAN request on channel 528 scans a byte range against the pricking active at the packet's stamp. -/
def execScan (s : State) : Host.Outcome State Fault Refusal :=
  s.on fun now c => c.serveTent 528 (fun _ => true) EngReq.inOrder (fun r c => c.scan now r.words r) fun r ws c => c.scanTaken now r ws

/-- SCHEME_WRITE (R170): A write of CL_BANK_CFG.SCHEME that switches the update scheme, or ends with BANK_BUSY. -/
def execSchemeWrite (b : Fin 8) (v : Word) (s : State) : Host.Outcome State Fault Refusal :=
  s.on fun now c => c.regWrite now (A.CL_BANK_CFG b) [v]

/-- RULE_WRITE (R175): A PUT or FILL of a rule entry, governed by the scheme E or scheme V write limits and the poison rule. Words `k` and
up of rule entry `n`. -/
def execRuleWrite (n : Fin 65536) (k : Fin 16) (words : List Word) (s : State) : Host.Outcome State Fault Refusal :=
  s.on fun now c => c.regWrite now (A.CL_RULE n + 8 * k.val) words

/-- VERSION_RETIRE (R179): The oldest live version meets the retirement conditions, and the bank begins its cleaning pass. -/
def execVersionRetire (b : Fin 8) (s : State) : Host.Outcome State Fault Refusal := s.on fun _ c => c.versionRetire b

/-- RETIREMENT_PASS_END (R179): The retirement pass over the 8,192 entries ends, and CLEANING clears. -/
def execRetirementPassEnd (b : Fin 8) (s : State) : Host.Outcome State Fault Refusal := s.on fun now c => c.passEnd now b

end Sys2Proof.Machine
end

