-- ==== Sys2Proof/Machine/Commands.lean ====
section
/-! DEFINITION. Command packets, command words and the I2C target (spec/15_command_packets.md). One meaning for every command; the operations they call say what each does. -/

namespace Sys2Proof.Machine

/-- COMMAND_PACKET (R405): A command packet is taken whole, checked for framing, station and authentication, and its words are queued to
run. `k` is the context: 0 and 1 the mailboxes, 2 to 9 and 10 to 17 the command queues of HA and HB, 18 the ports, 19 I2C, 20 the
debug port. -/
def execCommandPacket (k : CtxNo) (s : State) : Host.Outcome State Fault Refusal := s.on fun now c => c.packetStart now k

/-- COMMAND_FRAME (R408): A frame with the command EtherType is diverted at Arrival to the command processor, or dropped. -/
def execCommandFrame (p : PortNo) (bytes : List Byte) (s : State) : Host.Outcome State Fault Refusal :=
  s.on fun now c => if c.isCmdFrame bytes then c.frameReceive now p .express bytes false 0 0 else c

/-- PUT (R31): Command word that writes data to a Control Address Space range, and that carries the writes of every register without a row
of its own. The next word of context `k` runs if it is this one. -/
def execPut (k : CtxNo) (addr : BitVec 40) (words : List Word) (s : State) : Host.Outcome State Fault Refusal :=
  s.on fun now c => c.cmdWord now k (.put addr.toNat words)

/-- GET (R31): Command word that reads a Control Address Space range into the result. The next word of context `k` runs if it is this one. -/
def execGet (k : CtxNo) (addr : BitVec 40) (len : BitVec 32) (s : State) : Host.Outcome State Fault Refusal :=
  s.on fun now c => c.cmdWord now k (.get addr.toNat len.toNat)

/-- FILL (R31): Command word that writes one value to every 8-byte unit of a range. The next word of context `k` runs if it is this one. -/
def execFill (k : CtxNo) (addr len : BitVec 40) (v : Word) (s : State) : Host.Outcome State Fault Refusal :=
  s.on fun now c => c.cmdWord now k (.fill addr.toNat len.toNat v)

/-- LOAD_IMAGE_BEGIN (R421): LOAD_IMAGE phase BEGIN opens a session, checks the header and writes its bytes. The next word of context `k`
runs if it is this one. -/
def execLoadImageBegin (k : CtxNo) (session : Fin 8) (target : BitVec 8) (index : BitVec 16) (total : Word) (bytes : List Byte)
    (s : State) : Host.Outcome State Fault Refusal :=
  s.on fun now c => c.cmdWord now k (.imageBegin session target.toNat index.toNat total.toNat bytes)

/-- LOAD_IMAGE_DATA (R421): LOAD_IMAGE phase DATA writes the next bytes of an open session. The next word of context `k` runs if it is
this one. -/
def execLoadImageData (k : CtxNo) (session : Fin 8) (offset : Word) (bytes : List Byte) (s : State) : Host.Outcome State Fault Refusal :=
  s.on fun now c => c.cmdWord now k (.imageData session offset.toNat bytes)

/-- LOAD_IMAGE_END (R421): LOAD_IMAGE phase END makes the target's final check and closes the session. The next word of context `k` runs
if it is this one. -/
def execLoadImageEnd (k : CtxNo) (session : Fin 8) (s : State) : Host.Outcome State Fault Refusal :=
  s.on fun now c => c.cmdWord now k (.imageEnd session)

/-- LOAD_IMAGE_ABORT (R421): LOAD_IMAGE phase ABORT closes a session and leaves the target as on a failure. The next word of context `k`
runs if it is this one. -/
def execLoadImageAbort (k : CtxNo) (session : Fin 8) (s : State) : Host.Outcome State Fault Refusal :=
  s.on fun now c => c.cmdWord now k (.imageAbort session)

/-- SESSION_TIMEOUT (R421): A session that has received no word for 60 s is aborted. -/
def execSessionTimeout (session : Fin 8) (s : State) : Host.Outcome State Fault Refusal := s.on fun now c => c.sessionTimeout now session

/-- STAGE (R419): Command word that adds WRITE or RULE_VERSION items to a stage group. The next word of context `k` runs if it is this
one. -/
def execStage (k : CtxNo) (group : BitVec 8) (reset : Bool) (items : List (BitVec 40 × BitVec 24 × Word))
    (s : State) : Host.Outcome State Fault Refusal :=
  s.on fun now c => c.cmdWord now k (.stage group.toNat reset (items.map fun x => ⟨x.1.toNat, x.2.1.toNat, x.2.2⟩))

/-- COMMIT_AT (R418): Command word that takes a Scheduled Action Table entry and makes it PENDING. The next word of context `k` runs if it
is this one. -/
def execCommitAt (k : CtxNo) (dt : Word) (frac : BitVec 16) (kind : BitVec 8) (arg0 arg1 : Word)
    (s : State) : Host.Outcome State Fault Refusal :=
  s.on fun now c => c.cmdWord now k (.commitAt ⟨dt.toNat, frac.toNat, kind.toNat, arg0.toNat, arg1.toNat⟩)

/-- WAIT_UNTIL (R418): Command word that holds its context until AO device time reaches T. The next word of context `k` runs if it is this
one. -/
def execWaitUntil (k : CtxNo) (dt : Word) (frac : BitVec 16) (s : State) : Host.Outcome State Fault Refusal :=
  s.on fun now c => c.cmdWord now k (.waitUntil dt.toNat frac.toNat)

/-- WAIT_UNTIL_DONE (R418): AO device time reaches the T of a waiting WAIT_UNTIL, and the word completes. -/
def execWaitUntilDone (k : CtxNo) (s : State) : Host.Outcome State Fault Refusal := s.on fun now c => c.waitDone now k

/-- RESIZE_SLICE (R352): Command word that takes a resize record and schedules a SLICE_RESIZE entry. The next word of context `k` runs if
it is this one. -/
def execResizeSlice (k : CtxNo) (slice : SliceNo) (mask : BitVec 4) (quotas rate dt : Word) (frac : BitVec 16)
    (s : State) : Host.Outcome State Fault Refusal :=
  s.on fun now c => c.cmdWord now k (.resizeSlice slice mask.toNat quotas rate dt.toNat frac.toNat)

/-- BIND (R348): Command word that binds a slice to a PASID and a home endpoint. The next word of context `k` runs if it is this one. -/
def execBind (k : CtxNo) (slice : SliceNo) (e : EpNo) (pasid : BitVec 20) (s : State) : Host.Outcome State Fault Refusal :=
  s.on fun now c => c.cmdWord now k (.bind slice e pasid.toNat)

/-- UNBIND (R349): Command word that removes a slice's binding. The next word of context `k` runs if it is this one. -/
def execUnbind (k : CtxNo) (slice : SliceNo) (s : State) : Host.Outcome State Fault Refusal :=
  s.on fun now c => c.cmdWord now k (.unbind slice)

/-- SLUICE_RELEASE (R340): Command word that releases an endpoint from Sluice. The next word of context `k` runs if it is this one. -/
def execSluiceRelease (k : CtxNo) (e : EpNo) (s : State) : Host.Outcome State Fault Refusal :=
  s.on fun now c => c.cmdWord now k (.sluiceRelease e)

/-- MODE (R449): Command word that requests a transition to a target mode. The next word of context `k` runs if it is this one. -/
def execMode (k : CtxNo) (target : Fin 16) (s : State) : Host.Outcome State Fault Refusal :=
  s.on fun now c => c.cmdWord now k (.mode target)

/-- KEY_ROLL (R417): Command word that unwraps a blob into a key slot, or removes a slot's key, writing both flash copies. The next word
of context `k` runs if it is this one. -/
def execKeyRoll (k : CtxNo) (slot : Fin 32) (remove : Bool) (blob : List Byte) (s : State) : Host.Outcome State Fault Refusal :=
  s.on fun now c => c.cmdWord now k (.keyRoll slot remove blob)

/-- KEY_ROLL_DONE (R417): The flash writes of a key roll complete, and the new key becomes ACTIVE or the roll ends with FLASH_FAIL. `ok`
says that the flash took the writes. -/
def execKeyRollDone (k : CtxNo) (ok : Bool) (s : State) : Host.Outcome State Fault Refusal := s.on fun now c => c.keyRollDone now k ok

/-- JOURNAL_READ (R425): Command word that returns journal entries from FROM_SEQ, taken from the ring and the flash. The next word of
context `k` runs if it is this one. -/
def execJournalRead (k : CtxNo) (fromSeq : Word) (count : BitVec 13) (s : State) : Host.Outcome State Fault Refusal :=
  s.on fun now c => c.cmdWord now k (.journalRead fromSeq count.toNat)

/-- DEBUG (R418): Command word that applies a debug operation to a thread and optionally returns its thread state window. The next word of
context `k` runs if it is this one. -/
def execDebug (k : CtxNo) (m : MillNo) (op : Fin 16) (t : ThreadNo) (read : Bool) (s : State) : Host.Outcome State Fault Refusal :=
  s.on fun now c => c.cmdWord now k (.debug m op t read)

/-- I2C_BLOCK_WRITE (R410): SMBus command 0x10 appends up to 32 bytes to the packet buffer. -/
def execI2cBlockWrite (bytes : List Byte) (s : State) : Host.Outcome State Fault Refusal := s.on fun _ c => c.i2cWrite bytes

/-- I2C_SUBMIT (R410): SMBus command 0x11 submits the buffered packet. -/
def execI2cSubmit (v : BitVec 8) (s : State) : Host.Outcome State Fault Refusal := s.on fun _ c => c.i2cSubmit v.toNat

/-- I2C_BLOCK_READ (R410): SMBus command 0x12 returns the next result bytes. -/
def execI2cBlockRead (s : State) : Host.Outcome State Fault Refusal := s.on fun _ c => c.i2cRead

/-- I2C_STATUS_READ (R410): SMBus command 0x13 returns BUSY and DONE. -/
def execI2cStatusRead (s : State) : Host.Outcome State Fault Refusal := s.on fun _ c => c.i2cStatus

/-- STATE_WORD_READ (R441): SMBus block read 0x20 returns the 32-byte state word without authentication. -/
def execStateWordRead (s : State) : Host.Outcome State Fault Refusal := s.on fun now c => c.i2cState now

/-- IMAGE_FLASH_WRITE_DONE (R407): The flash write of a LOAD_IMAGE word finishes, and the word completes and its context continues. -/
def execImageFlashWriteDone (k : CtxNo) (ok : Bool) (s : State) : Host.Outcome State Fault Refusal :=
  s.on fun now c => c.imageWriteDone now k ok

/-- JOURNAL_FLASH_READ_DONE (R425): The flash read of a JOURNAL_READ word finishes, and the word returns its entries and its context
continues. -/
def execJournalFlashReadDone (k : CtxNo) (s : State) : Host.Outcome State Fault Refusal := s.on fun now c => c.journalReadDone now k

end Sys2Proof.Machine
end

