-- ==== Sys2Proof/Machine/Endpoints.lean ====
section
/-! DEFINITION. Host endpoints, doorbells, queue pairs and the DMA Engine (spec/12_host_endpoints.md, spec/13_slices_queues_dma.md). One meaning for every command; the operations they call say what each does. -/

namespace Sys2Proof.Machine

/-- MBOX_GO (R328): The host writes MBOX_CTRL with GO = 1, and the packet in the mailbox buffer is submitted. `bytes` is what the host writes
to the mailbox buffer before that, from offset 0, `poison` whether that write is poisoned, `bad` whether the write of MBOX_CTRL is. -/
def execMboxGo (e : EpNo) (bytes : List Byte) (len : BitVec 21) (poison bad pasid : Bool) (s : State) : Host.Outcome State Fault Refusal :=
  s.on fun now c =>
    let c := if bytes.isEmpty then c else c.hostRequest now e .f0bar0 true 0x100000 0 bytes poison pasid
    c.hostRequest now e .f0bar0 true 0x2000 0 (leBytes 8 (len.toNat + 2 ^ 63)) bad pasid

/-- CMDQ_DOORBELL (R329): The host writes TAIL to a command queue doorbell, and the entries become available. `n` is the length of the
write in bytes. -/
def execCmdqDoorbell (e : EpNo) (k : Fin 8) (n : Nat) (poison pasid : Bool) (value : Nat) (s : State) : Host.Outcome State Fault Refusal :=
  s.on fun now c => c.cmdqDoorbell now e k n poison pasid value

/-- TX_TAIL (R359): A doorbell of kind TX_TAIL sets the tail of a transmit ring. `whole` says that the write is 8 bytes, aligned. -/
def execTxTail (e : EpNo) (sl : SliceNo) (whole poison pasid : Bool) (value index : BitVec 16) (rsv : BitVec 29)
    (s : State) : Host.Outcome State Fault Refusal :=
  s.on fun now c => c.doorbell now e sl 0 whole poison pasid value.toNat index.toNat rsv.toNat

/-- RX_TAIL (R359): A doorbell of kind RX_TAIL sets the tail of a receive buffer ring. `whole` says that the write is 8 bytes, aligned. -/
def execRxTail (e : EpNo) (sl : SliceNo) (whole poison pasid : Bool) (value index : BitVec 16) (rsv : BitVec 29)
    (s : State) : Host.Outcome State Fault Refusal :=
  s.on fun now c => c.doorbell now e sl 1 whole poison pasid value.toNat index.toNat rsv.toNat

/-- CQ_HEAD (R359): A doorbell of kind CQ_HEAD sets the head of a completion ring. `whole` says that the write is 8 bytes, aligned. -/
def execCqHead (e : EpNo) (sl : SliceNo) (whole poison pasid : Bool) (value index : BitVec 16) (rsv : BitVec 29)
    (s : State) : Host.Outcome State Fault Refusal :=
  s.on fun now c => c.doorbell now e sl 2 whole poison pasid value.toNat index.toNat rsv.toNat

/-- CQ_ARM (R367): A doorbell of kind CQ_ARM sets CQ_HEAD and arms the interrupt. `whole` says that the write is 8 bytes, aligned. -/
def execCqArm (e : EpNo) (sl : SliceNo) (whole poison pasid : Bool) (value index : BitVec 16) (rsv : BitVec 29)
    (s : State) : Host.Outcome State Fault Refusal :=
  s.on fun now c => c.doorbell now e sl 3 whole poison pasid value.toNat index.toNat rsv.toNat

/-- ST_TAIL (R359): A doorbell of kind ST_TAIL sets TAIL of an ST connection. -/
def execStTail (e : EpNo) (sl : SliceNo) (whole poison pasid : Bool) (value index : BitVec 16) (rsv : BitVec 29)
    (s : State) : Host.Outcome State Fault Refusal :=
  s.on fun now c => c.doorbell now e sl 4 whole poison pasid value.toNat index.toNat rsv.toNat

/-- DESCRIPTOR_FETCH (R376): The queue logic issues a fetch read of descriptors or buffers for a ring under LOW and HIGH pacing. -/
def execDescriptorFetch (n : QpNo) (rx : Bool) (s : State) : Host.Outcome State Fault Refusal := s.on fun now c => c.descFetch now n rx

/-- TRANSMIT_JOB (R368): A mover starts a transmit job of up to 16 complete sends of one queue pair. -/
def execTransmitJob (n : QpNo) (s : State) : Host.Outcome State Fault Refusal := s.on fun now c => c.txJob now n

/-- HOST_TX_COUNT_POINT (R368): The last completion of a packet's payload is accepted, and the packet is stamped and handed to Dispatch. -/
def execHostTxCountPoint (n : QpNo) (s : State) : Host.Outcome State Fault Refusal := s.on fun now c => c.txCountPoint now n

/-- RECEIVE_JOB (R371): A receive job writes a departing packet into host buffers, releases the bobbin, writes the completion and fires. -/
def execReceiveJob (n : QpNo) (s : State) : Host.Outcome State Fault Refusal := s.on fun now c => c.rxJob now n

/-- INTERRUPT_HOLDOFF_EXPIRY (R367): COAL_US after the previous firing passes, and a waiting firing is issued. -/
def execInterruptHoldoffExpiry (n : QpNo) (s : State) : Host.Outcome State Fault Refusal := s.on fun now c => c.holdoffExpiry now n

/-- QP_ENABLE (R355): Writing ENABLE = 1 of a queue pair checks it and places it in RUN. A write of word 0 of DE_QP(n), the other fields
as in `v`. -/
def execQpEnable (n : QpNo) (v : Word) (s : State) : Host.Outcome State Fault Refusal :=
  s.on fun now c => c.regWrite now (A.DE_QP n) [setBits (setBits v 1 1 0) 0 1 1]

/-- QP_DISABLE (R356): Clearing ENABLE moves a queue pair to DRAINING and then DISABLED, and drops its TM entries. -/
def execQpDisable (n : QpNo) (v : Word) (s : State) : Host.Outcome State Fault Refusal :=
  s.on fun now c => c.regWrite now (A.DE_QP n) [setBits (setBits v 1 1 0) 0 1 0]

/-- RESTART (R380): Writing RESTART = 1 returns a HALTED queue pair to RUN. -/
def execRestart (n : QpNo) (v : Word) (s : State) : Host.Outcome State Fault Refusal :=
  s.on fun now c => c.regWrite now (A.DE_QP n) [setBits v 1 1 1]

/-- DMA_MODE_SWITCH (R375): The jobs in flight have ended after a mode change, and the DMA Engine switches between Sequential and
Overlapped mode. -/
def execDmaModeSwitch (s : State) : Host.Outcome State Fault Refusal := s.on fun _ c => c.dmaSwitch

/-- QUOTA_WRITE (R351): A PUT of a slice's quota words, accepted only while the slice is unbound. -/
def execQuotaWrite (sl : SliceNo) (w1 w2 : Word) (s : State) : Host.Outcome State Fault Refusal :=
  s.on fun now c => c.regWrite now (A.SM_SLICE sl + 8) [w1, w2]

/-- PCIE_COMPLETION (R323): A completion TLP arrives and is matched to its request, discarded as late, or treated as Unexpected. -/
def execPcieCompletion (e : EpNo) (f : Fin 2) (tag : Nat) (ok : Bool) (bytes : List Byte) (poison : Bool)
    (s : State) : Host.Outcome State Fault Refusal :=
  s.on fun now c => c.pcieCompletion now e f tag ok bytes poison

/-- COMPLETION_TIMEOUT (R322): A request's completion timeout expires, and the job ends with TIMEOUT. -/
def execCompletionTimeout (e : EpNo) (tag : Nat) (s : State) : Host.Outcome State Fault Refusal :=
  s.on fun now c => c.completionTimeout now e tag

/-- TAG_QUARANTINE_EXPIRY (R342): A quarantined tag's completion timeout passes, and the tag is freed. -/
def execTagQuarantineExpiry (e : EpNo) (tag : Nat) (s : State) : Host.Outcome State Fault Refusal :=
  s.on fun now c => c.quarantineExpiry now e tag

/-- PEER_REQUEST (R343): An inbound request to BAR4 is translated by a peer window of the active bank, or is handled as a miss. The row also
carries the host's requests to the other spaces (entry 210). -/
def execPeerRequest (e : EpNo) (t : HostSpace) (write : Bool) (off len : Nat) (bytes : List Byte) (poison pasid : Bool)
    (s : State) : Host.Outcome State Fault Refusal :=
  s.on fun now c => c.hostRequest now e t write off len bytes poison pasid

/-- PEER_SWITCH (R344): Writing HE_x_PEER_CTRL.SWITCH makes the inactive peer bank active at the next TLP boundary. -/
def execPeerSwitch (e : EpNo) (s : State) : Host.Outcome State Fault Refusal := s.on fun now c => c.regWrite now (A.HE_PEER_CTRL e) [2]

/-- PEER_WINDOW_WRITE (R344): A PUT of a peer window, refused with PEER_BANK_ACTIVE in the active bank. -/
def execPeerWindowWrite (e : EpNo) (b : Fin 2) (win : Fin 64) (words : List Word) (s : State) : Host.Outcome State Fault Refusal :=
  s.on fun now c => c.regWrite now (A.HE_PEER_WIN e b win) words

/-- PCIE_LINK_UP (R321): An endpoint's link trains to L0, and the change is journaled. -/
def execPcieLinkUp (e : EpNo) (rate width : Fin 8) (s : State) : Host.Outcome State Fault Refusal :=
  s.on fun now c => c.epTrain now e rate width

/-- SURPRISE_LINK_DOWN (R321): A link leaves L0 without PERST, hot reset or Link Disable, and the endpoint enters Sluice. -/
def execSurpriseLinkDown (e : EpNo) (s : State) : Host.Outcome State Fault Refusal := s.on fun now c => c.surpriseDown now e

/-- HOT_RESET (R321): A hot reset arrives and is handled as a function-level reset of both functions. -/
def execHotReset (e : EpNo) (s : State) : Host.Outcome State Fault Refusal := s.on fun now c => c.hotReset now e

/-- FUNCTION_LEVEL_RESET (R342): A function-level reset clears Bus Master Enable, quarantines the outstanding tags and resets
configuration space. -/
def execFunctionLevelReset (e : EpNo) (f : Fin 2) (s : State) : Host.Outcome State Fault Refusal := s.on fun now c => c.flr now e f

/-- BUS_MASTER_DISABLE (R341): Bus Master Enable goes from 1 to 0, and the affected jobs end with MASTER_OFF. -/
def execBusMasterDisable (e : EpNo) (f : Fin 2) (s : State) : Host.Outcome State Fault Refusal := s.on fun now c => c.bmeClear now e f

/-- BUS_MASTER_ENABLE (R341): Bus Master Enable returns to 1, and issue and pending messages resume. -/
def execBusMasterEnable (e : EpNo) (f : Fin 2) (s : State) : Host.Outcome State Fault Refusal := s.on fun now c => c.bmeSet now e f

/-- POWER_STATE_CHANGE (R325): A function moves between D0 and D3hot. -/
def execPowerStateChange (e : EpNo) (f : Fin 2) (d3 : Bool) (s : State) : Host.Outcome State Fault Refusal :=
  s.on fun now c => c.powerState now e f d3

/-- MALFORMED_TLP (R338): A Malformed TLP is received and logged, and the endpoint enters Sluice. -/
def execMalformedTlp (e : EpNo) (f : Fin 2) (s : State) : Host.Outcome State Fault Refusal := s.on fun now c => c.malformed now e f

/-- FUNDAMENTAL_RESET (R460): PERST_A_N or PERST_B_N goes low, and the endpoint's link and configuration are reset. -/
def execFundamentalReset (e : EpNo) (s : State) : Host.Outcome State Fault Refusal := s.on fun now c => c.fundamental now e

/-- EP_CTRL_WRITE (R321): A write of HE_x_CTRL that enables or disables the link or changes its limits. -/
def execEpCtrlWrite (e : EpNo) (v : Word) (s : State) : Host.Outcome State Fault Refusal :=
  s.on fun now c => c.regWrite now (A.HE_CTRL e) [v]

/-- TOPOLOGY_WRITE (R334): A write of HE_TOPOLOGY.MODE, accepted only in Provision with every queue disabled. -/
def execTopologyWrite (v : Word) (s : State) : Host.Outcome State Fault Refusal := s.on fun now c => c.regWrite now A.HE_TOPOLOGY [v]

/-- LINK_DISABLE (R321): The host takes the endpoint's link out of L0 by Link Disable, so UP clears and is journaled without any Sluice. -/
def execLinkDisable (e : EpNo) (s : State) : Host.Outcome State Fault Refusal := s.on fun now c => c.epDown now e

/-- PERST_DEASSERT (R321): PERST_x_N rises, and the endpoint leaves fundamental reset and begins training. -/
def execPerstDeassert (e : EpNo) (s : State) : Host.Outcome State Fault Refusal := s.on fun _ c => c.perstRise e

/-- MSIX_UNMASK (R330): The host clears the mask of an MSI-X vector, and a message pending on it is sent. The entry is written in two parts
of 8 bytes. -/
def execMsixUnmask (e : EpNo) (v : Fin 16) (addr : Word) (data : BitVec 32) (poison pasid : Bool)
    (s : State) : Host.Outcome State Fault Refusal :=
  s.on fun now c =>
    (c.hostRequest now e .f0bar0 true (0x300000 + 16 * v) 0 (leBytes 8 addr.toNat) poison pasid).hostRequest now e .f0bar0 true
      (0x300008 + 16 * v) 0 (leBytes 8 data.toNat) poison pasid

/-- PATH_UNCORRECTABLE_ERROR (R338): An uncorrectable internal error on an endpoint's path raises HE_PATH_UE and sluices the endpoint with
CAUSE INTERNAL. -/
def execPathUncorrectableError (e : EpNo) (s : State) : Host.Outcome State Fault Refusal := s.on fun now c => c.pathError now e

end Sys2Proof.Machine
end

