-- ==== Sys2Proof/Machine/Fecia.lean ====
section
/-! DEFINITION. The Fecia instructions (spec/03_fecia_isa.md): what one does when a thread issues it. One meaning for every command; the operations they call say what each does. -/

namespace Sys2Proof.Machine

/-- The number that must be 0 for a bext or bins: its unused bits, and whether its field passes bit 63 (Table 3-6). -/
def fieldMbz (lsb width1 : BitVec 6) (mbz : BitVec 4) : Nat := mbz.toNat + if 63 < lsb.toNat + width1.toNat then 1 else 0

/-- ADD (R81): Register ALU instruction that writes ra + rb to rd. -/
def execAdd (m : MillNo) (t : ThreadNo) (rd ra rb : RegNo) (s : State) : Host.Outcome State Fault Refusal :=
  s.on fun now c => c.alu now m t (feciaWord (.add m t rd ra rb)) rd ra rb fun a b => a + b

/-- SUB (R81): Register ALU instruction that writes ra − rb to rd. -/
def execSub (m : MillNo) (t : ThreadNo) (rd ra rb : RegNo) (s : State) : Host.Outcome State Fault Refusal :=
  s.on fun now c => c.alu now m t (feciaWord (.sub m t rd ra rb)) rd ra rb fun a b => a - b

/-- AND (R81): Register ALU instruction that writes the bitwise AND of ra and rb to rd. -/
def execAnd (m : MillNo) (t : ThreadNo) (rd ra rb : RegNo) (s : State) : Host.Outcome State Fault Refusal :=
  s.on fun now c => c.alu now m t (feciaWord (.and m t rd ra rb)) rd ra rb fun a b => a &&& b

/-- OR (R81): Register ALU instruction that writes the bitwise OR of ra and rb to rd. -/
def execOr (m : MillNo) (t : ThreadNo) (rd ra rb : RegNo) (s : State) : Host.Outcome State Fault Refusal :=
  s.on fun now c => c.alu now m t (feciaWord (.or m t rd ra rb)) rd ra rb fun a b => a ||| b

/-- XOR (R81): Register ALU instruction that writes the bitwise XOR of ra and rb to rd. -/
def execXor (m : MillNo) (t : ThreadNo) (rd ra rb : RegNo) (s : State) : Host.Outcome State Fault Refusal :=
  s.on fun now c => c.alu now m t (feciaWord (.xor m t rd ra rb)) rd ra rb fun a b => a ^^^ b

/-- ANDN (R81): Register ALU instruction that writes ra AND NOT rb to rd. -/
def execAndn (m : MillNo) (t : ThreadNo) (rd ra rb : RegNo) (s : State) : Host.Outcome State Fault Refusal :=
  s.on fun now c => c.alu now m t (feciaWord (.andn m t rd ra rb)) rd ra rb fun a b => a &&& ~~~b

/-- SLL (R81): Register ALU instruction that shifts ra left by rb[5:0]. -/
def execSll (m : MillNo) (t : ThreadNo) (rd ra rb : RegNo) (s : State) : Host.Outcome State Fault Refusal :=
  s.on fun now c => c.alu now m t (feciaWord (.sll m t rd ra rb)) rd ra rb fun a b => a <<< shamt b

/-- SRL (R81): Register ALU instruction that shifts ra right by rb[5:0], filling with zeros. -/
def execSrl (m : MillNo) (t : ThreadNo) (rd ra rb : RegNo) (s : State) : Host.Outcome State Fault Refusal :=
  s.on fun now c => c.alu now m t (feciaWord (.srl m t rd ra rb)) rd ra rb fun a b => a >>> shamt b

/-- SRA (R81): Register ALU instruction that shifts ra right by rb[5:0], filling with the sign bit. -/
def execSra (m : MillNo) (t : ThreadNo) (rd ra rb : RegNo) (s : State) : Host.Outcome State Fault Refusal :=
  s.on fun now c => c.alu now m t (feciaWord (.sra m t rd ra rb)) rd ra rb fun a b => a.sshiftRight (shamt b)

/-- ROL (R81): Register ALU instruction that rotates ra left by rb[5:0]. -/
def execRol (m : MillNo) (t : ThreadNo) (rd ra rb : RegNo) (s : State) : Host.Outcome State Fault Refusal :=
  s.on fun now c => c.alu now m t (feciaWord (.rol m t rd ra rb)) rd ra rb fun a b => a.rotateLeft (shamt b)

/-- MIN (R81): Register ALU instruction that writes the signed minimum of ra and rb. -/
def execMin (m : MillNo) (t : ThreadNo) (rd ra rb : RegNo) (s : State) : Host.Outcome State Fault Refusal :=
  s.on fun now c => c.alu now m t (feciaWord (.min m t rd ra rb)) rd ra rb fun a b => if a.sle b then a else b

/-- MAX (R81): Register ALU instruction that writes the signed maximum of ra and rb. -/
def execMax (m : MillNo) (t : ThreadNo) (rd ra rb : RegNo) (s : State) : Host.Outcome State Fault Refusal :=
  s.on fun now c => c.alu now m t (feciaWord (.max m t rd ra rb)) rd ra rb fun a b => if a.sle b then b else a

/-- MINU (R81): Register ALU instruction that writes the unsigned minimum of ra and rb. -/
def execMinu (m : MillNo) (t : ThreadNo) (rd ra rb : RegNo) (s : State) : Host.Outcome State Fault Refusal :=
  s.on fun now c => c.alu now m t (feciaWord (.minu m t rd ra rb)) rd ra rb fun a b => if a.ule b then a else b

/-- MAXU (R81): Register ALU instruction that writes the unsigned maximum of ra and rb. -/
def execMaxu (m : MillNo) (t : ThreadNo) (rd ra rb : RegNo) (s : State) : Host.Outcome State Fault Refusal :=
  s.on fun now c => c.alu now m t (feciaWord (.maxu m t rd ra rb)) rd ra rb fun a b => if a.ule b then b else a

/-- SLT (R81): Register ALU instruction that writes 1 if ra < rb as signed values, else 0. -/
def execSlt (m : MillNo) (t : ThreadNo) (rd ra rb : RegNo) (s : State) : Host.Outcome State Fault Refusal :=
  s.on fun now c => c.alu now m t (feciaWord (.slt m t rd ra rb)) rd ra rb fun a b => truth (a.slt b)

/-- SLTU (R81): Register ALU instruction that writes 1 if ra < rb as unsigned values, else 0. -/
def execSltu (m : MillNo) (t : ThreadNo) (rd ra rb : RegNo) (s : State) : Host.Outcome State Fault Refusal :=
  s.on fun now c => c.alu now m t (feciaWord (.sltu m t rd ra rb)) rd ra rb fun a b => truth (a.ult b)

/-- SEQ (R81): Register ALU instruction that writes 1 if ra equals rb, else 0. -/
def execSeq (m : MillNo) (t : ThreadNo) (rd ra rb : RegNo) (s : State) : Host.Outcome State Fault Refusal :=
  s.on fun now c => c.alu now m t (feciaWord (.seq m t rd ra rb)) rd ra rb fun a b => truth (a == b)

/-- MUL (R81): Register ALU instruction that writes the low 64 bits of ra × rb, with latency 3. -/
def execMul (m : MillNo) (t : ThreadNo) (rd ra rb : RegNo) (s : State) : Host.Outcome State Fault Refusal :=
  s.on fun now c => c.alu now m t (feciaWord (.mul m t rd ra rb)) rd ra rb fun a b => a * b

/-- MULHU (R81): Register ALU instruction that writes the high 64 bits of the unsigned product ra × rb. -/
def execMulhu (m : MillNo) (t : ThreadNo) (rd ra rb : RegNo) (s : State) : Host.Outcome State Fault Refusal :=
  s.on fun now c => c.alu now m t (feciaWord (.mulhu m t rd ra rb)) rd ra rb fun a b => BitVec.ofNat 64 (a.toNat * b.toNat / 2 ^ 64)

/-- CSUM (R82): Writes the 16-bit ones'-complement sum of ra[15:0] and the four halfwords of rb. -/
def execCsum (m : MillNo) (t : ThreadNo) (rd ra rb : RegNo) (s : State) : Host.Outcome State Fault Refusal :=
  s.on fun now c => c.alu now m t (feciaWord (.csum m t rd ra rb)) rd ra rb fun a b => csum a b

/-- CRC (R82): Advances a CRC32C register held in ra by the 8 bytes of rb, with no inversion. -/
def execCrc (m : MillNo) (t : ThreadNo) (rd ra rb : RegNo) (s : State) : Host.Outcome State Fault Refusal :=
  s.on fun now c => c.alu now m t (feciaWord (.crc m t rd ra rb)) rd ra rb fun a b => crcStep a b

/-- BSWAP16 (R81): Exchanges the two bytes of ra[15:0] and clears the upper bits. -/
def execBswap16 (m : MillNo) (t : ThreadNo) (rd ra rb : RegNo) (s : State) : Host.Outcome State Fault Refusal :=
  s.on fun now c => c.unary now m t (feciaWord (.bswap16 m t rd ra rb)) rd ra rb fun a => bswap 2 a

/-- BSWAP32 (R81): Reverses the byte order of ra[31:0] and clears the upper bits. -/
def execBswap32 (m : MillNo) (t : ThreadNo) (rd ra rb : RegNo) (s : State) : Host.Outcome State Fault Refusal :=
  s.on fun now c => c.unary now m t (feciaWord (.bswap32 m t rd ra rb)) rd ra rb fun a => bswap 4 a

/-- BSWAP64 (R81): Reverses the byte order of ra. -/
def execBswap64 (m : MillNo) (t : ThreadNo) (rd ra rb : RegNo) (s : State) : Host.Outcome State Fault Refusal :=
  s.on fun now c => c.unary now m t (feciaWord (.bswap64 m t rd ra rb)) rd ra rb fun a => bswap 8 a

/-- CLZ (R81): Counts the leading zero bits of ra, giving 64 for a value of 0. -/
def execClz (m : MillNo) (t : ThreadNo) (rd ra rb : RegNo) (s : State) : Host.Outcome State Fault Refusal :=
  s.on fun now c => c.unary now m t (feciaWord (.clz m t rd ra rb)) rd ra rb fun a => BitVec.ofNat 64 (clz a)

/-- CTZ (R81): Counts the trailing zero bits of ra, giving 64 for a value of 0. -/
def execCtz (m : MillNo) (t : ThreadNo) (rd ra rb : RegNo) (s : State) : Host.Outcome State Fault Refusal :=
  s.on fun now c => c.unary now m t (feciaWord (.ctz m t rd ra rb)) rd ra rb fun a => BitVec.ofNat 64 (ctz a)

/-- POPC (R81): Counts the one bits of ra. -/
def execPopc (m : MillNo) (t : ThreadNo) (rd ra rb : RegNo) (s : State) : Host.Outcome State Fault Refusal :=
  s.on fun now c => c.unary now m t (feciaWord (.popc m t rd ra rb)) rd ra rb fun a => BitVec.ofNat 64 (popc a)

/-- ADDI (R83): Adds the sign-extended imm16 to ra. -/
def execAddi (m : MillNo) (t : ThreadNo) (rd ra : RegNo) (imm : BitVec 16) (s : State) : Host.Outcome State Fault Refusal :=
  s.on fun now c => c.immed now m t (feciaWord (.addi m t rd ra imm)) 0 rd ra fun a => a + imm.signExtend 64

/-- ANDI (R83): ANDs ra with the zero-extended imm16. -/
def execAndi (m : MillNo) (t : ThreadNo) (rd ra : RegNo) (imm : BitVec 16) (s : State) : Host.Outcome State Fault Refusal :=
  s.on fun now c => c.immed now m t (feciaWord (.andi m t rd ra imm)) 0 rd ra fun a => a &&& imm.zeroExtend 64

/-- ORI (R83): ORs ra with the zero-extended imm16. -/
def execOri (m : MillNo) (t : ThreadNo) (rd ra : RegNo) (imm : BitVec 16) (s : State) : Host.Outcome State Fault Refusal :=
  s.on fun now c => c.immed now m t (feciaWord (.ori m t rd ra imm)) 0 rd ra fun a => a ||| imm.zeroExtend 64

/-- XORI (R83): XORs ra with the zero-extended imm16. -/
def execXori (m : MillNo) (t : ThreadNo) (rd ra : RegNo) (imm : BitVec 16) (s : State) : Host.Outcome State Fault Refusal :=
  s.on fun now c => c.immed now m t (feciaWord (.xori m t rd ra imm)) 0 rd ra fun a => a ^^^ imm.zeroExtend 64

/-- SLLI (R83): Shifts ra left by an immediate amount. -/
def execSlli (m : MillNo) (t : ThreadNo) (rd ra : RegNo) (amount : BitVec 6) (mbz : BitVec 8)
    (s : State) : Host.Outcome State Fault Refusal :=
  s.on fun now c => c.immed now m t (feciaWord (.slli m t rd ra amount mbz)) mbz.toNat rd ra fun a => a <<< amount.toNat

/-- SRLI (R83): Shifts ra right by an immediate amount, filling with zeros. -/
def execSrli (m : MillNo) (t : ThreadNo) (rd ra : RegNo) (amount : BitVec 6) (mbz : BitVec 8)
    (s : State) : Host.Outcome State Fault Refusal :=
  s.on fun now c => c.immed now m t (feciaWord (.srli m t rd ra amount mbz)) mbz.toNat rd ra fun a => a >>> amount.toNat

/-- SRAI (R83): Shifts ra right by an immediate amount, filling with the sign bit. -/
def execSrai (m : MillNo) (t : ThreadNo) (rd ra : RegNo) (amount : BitVec 6) (mbz : BitVec 8)
    (s : State) : Host.Outcome State Fault Refusal :=
  s.on fun now c => c.immed now m t (feciaWord (.srai m t rd ra amount mbz)) mbz.toNat rd ra fun a => a.sshiftRight amount.toNat

/-- ROLI (R83): Rotates ra left by an immediate amount. -/
def execRoli (m : MillNo) (t : ThreadNo) (rd ra : RegNo) (amount : BitVec 6) (mbz : BitVec 8)
    (s : State) : Host.Outcome State Fault Refusal :=
  s.on fun now c => c.immed now m t (feciaWord (.roli m t rd ra amount mbz)) mbz.toNat rd ra fun a => a.rotateLeft amount.toNat

/-- MOVZ (R83): Writes imm16 shifted to a halfword position, with all other bits of rd set to zero. -/
def execMovz (m : MillNo) (t : ThreadNo) (rd : RegNo) (h : Fin 4) (imm : BitVec 16) (mbz : BitVec 2)
    (s : State) : Host.Outcome State Fault Refusal :=
  s.on fun now c => c.immed now m t (feciaWord (.movz m t rd h imm mbz)) mbz.toNat rd 0 fun _ => imm.zeroExtend 64 <<< (16 * h.val)

/-- MOVK (R83): Replaces one halfword of rd with imm16 and keeps the other bits. -/
def execMovk (m : MillNo) (t : ThreadNo) (rd : RegNo) (h : Fin 4) (imm : BitVec 16) (mbz : BitVec 2)
    (s : State) : Host.Outcome State Fault Refusal :=
  s.on fun now c => c.immed now m t (feciaWord (.movk m t rd h imm mbz)) mbz.toNat rd rd fun a => setBits a (16 * h.val) 16 imm.toNat

/-- SEQI (R83): Writes 1 if ra equals the sign-extended imm16, else 0. -/
def execSeqi (m : MillNo) (t : ThreadNo) (rd ra : RegNo) (imm : BitVec 16) (s : State) : Host.Outcome State Fault Refusal :=
  s.on fun now c => c.immed now m t (feciaWord (.seqi m t rd ra imm)) 0 rd ra fun a => truth (a == imm.signExtend 64)

/-- SLTIU (R83): Writes 1 if ra is below the zero-extended imm16 as unsigned values, else 0. -/
def execSltiu (m : MillNo) (t : ThreadNo) (rd ra : RegNo) (imm : BitVec 16) (s : State) : Host.Outcome State Fault Refusal :=
  s.on fun now c => c.immed now m t (feciaWord (.sltiu m t rd ra imm)) 0 rd ra fun a => truth (a.ult (imm.zeroExtend 64))

/-- BEXT (R83): Extracts a bit field of ra, zero-extended. -/
def execBext (m : MillNo) (t : ThreadNo) (rd ra : RegNo) (lsb width1 : BitVec 6) (mbz : BitVec 4)
    (s : State) : Host.Outcome State Fault Refusal :=
  s.on fun now c => c.immed now m t (feciaWord (.bext m t rd ra lsb width1 mbz)) (fieldMbz lsb width1 mbz) rd ra fun a => bext a lsb.toNat (width1.toNat + 1)

/-- BINS (R83): Inserts the low bits of ra into a bit field of rd. -/
def execBins (m : MillNo) (t : ThreadNo) (rd ra : RegNo) (lsb width1 : BitVec 6) (mbz : BitVec 4)
    (s : State) : Host.Outcome State Fault Refusal :=
  s.on fun now c => c.local_ now m t (feciaWord (.bins m t rd ra lsb width1 mbz)) (fieldMbz lsb width1 mbz) [rd, ra] fun x => x.setReg rd (bins (x.reg rd) (x.reg ra) lsb.toNat (width1.toNat + 1))

/-- LD (R84): Loads 1 to 8 bytes from a data space into rd, after the access checks of R70. -/
def execLd (m : MillNo) (t : ThreadNo) (rd ra : RegNo) (sp : Fin 8) (sz : Fin 4) (x : Bool) (off : BitVec 10)
    (s : State) : Host.Outcome State Fault Refusal :=
  s.on fun now c => c.load now m t (feciaWord (.ld m t rd ra sp sz x off)) rd ra sp sz x off

/-- PACKET_DATA_LOAD_RETURN (R84): A packet data load completes from the bobbin, or ends the thread with ABSENT across a fenced boundary.
`k` counts the outstanding loads of the thread from the oldest; they return in their order. -/
def execPacketDataLoadReturn (m : MillNo) (t : ThreadNo) (k : Fin 4) (s : State) : Host.Outcome State Fault Refusal :=
  s.on fun now c => c.loadReturn now m t k

/-- ST (R84): Stores the low bytes of rs to the head window, scratch or Millpond, after the access checks of R70. -/
def execSt (m : MillNo) (t : ThreadNo) (rs ra : RegNo) (sp : Fin 8) (sz : Fin 4) (x : Bool) (off : BitVec 10)
    (s : State) : Host.Outcome State Fault Refusal :=
  s.on fun now c => c.store now m t (feciaWord (.st m t rs ra sp sz x off)) rs ra sp sz x off

/-- AADD (R85): Atomically adds rb to a Millpond word and returns the old value. -/
def execAadd (m : MillNo) (t : ThreadNo) (rd ra rb : RegNo) (s : State) : Host.Outcome State Fault Refusal :=
  s.on fun now c => c.atomic now m t (feciaWord (.aadd m t rd ra rb)) rd ra rb fun old _ b => some (old + b)

/-- ASWP (R85): Atomically swaps rb into a Millpond word and returns the old value. -/
def execAswp (m : MillNo) (t : ThreadNo) (rd ra rb : RegNo) (s : State) : Host.Outcome State Fault Refusal :=
  s.on fun now c => c.atomic now m t (feciaWord (.aswp m t rd ra rb)) rd ra rb fun _ _ b => some b

/-- ACAS (R85): Atomically compares a Millpond word with rd and, when they are equal, stores rb. -/
def execAcas (m : MillNo) (t : ThreadNo) (rd ra rb : RegNo) (s : State) : Host.Outcome State Fault Refusal :=
  s.on fun now c => c.atomic now m t (feciaWord (.acas m t rd ra rb)) rd ra rb fun old d b => if old = d then some b else none

/-- AMAXU (R85): Atomically stores the unsigned maximum of a Millpond word and rb. -/
def execAmaxu (m : MillNo) (t : ThreadNo) (rd ra rb : RegNo) (s : State) : Host.Outcome State Fault Refusal :=
  s.on fun now c => c.atomic now m t (feciaWord (.amaxu m t rd ra rb)) rd ra rb fun old _ b => some (if old.ule b then b else old)

/-- BEQ (R86): Branches if ra equals rb. -/
def execBeq (m : MillNo) (t : ThreadNo) (ra rb : RegNo) (target : BitVec 16) (s : State) : Host.Outcome State Fault Refusal :=
  s.on fun now c => c.branch now m t (feciaWord (.beq m t ra rb target)) ra rb target.toNat fun a b => a == b

/-- BNE (R86): Branches if ra differs from rb. -/
def execBne (m : MillNo) (t : ThreadNo) (ra rb : RegNo) (target : BitVec 16) (s : State) : Host.Outcome State Fault Refusal :=
  s.on fun now c => c.branch now m t (feciaWord (.bne m t ra rb target)) ra rb target.toNat fun a b => a != b

/-- BLT (R86): Branches if ra < rb as signed values. -/
def execBlt (m : MillNo) (t : ThreadNo) (ra rb : RegNo) (target : BitVec 16) (s : State) : Host.Outcome State Fault Refusal :=
  s.on fun now c => c.branch now m t (feciaWord (.blt m t ra rb target)) ra rb target.toNat fun a b => a.slt b

/-- BGE (R86): Branches if ra ≥ rb as signed values. -/
def execBge (m : MillNo) (t : ThreadNo) (ra rb : RegNo) (target : BitVec 16) (s : State) : Host.Outcome State Fault Refusal :=
  s.on fun now c => c.branch now m t (feciaWord (.bge m t ra rb target)) ra rb target.toNat fun a b => !a.slt b

/-- BLTU (R86): Branches if ra < rb as unsigned values. -/
def execBltu (m : MillNo) (t : ThreadNo) (ra rb : RegNo) (target : BitVec 16) (s : State) : Host.Outcome State Fault Refusal :=
  s.on fun now c => c.branch now m t (feciaWord (.bltu m t ra rb target)) ra rb target.toNat fun a b => a.ult b

/-- BGEU (R86): Branches if ra ≥ rb as unsigned values. -/
def execBgeu (m : MillNo) (t : ThreadNo) (ra rb : RegNo) (target : BitVec 16) (s : State) : Host.Outcome State Fault Refusal :=
  s.on fun now c => c.branch now m t (feciaWord (.bgeu m t ra rb target)) ra rb target.toNat fun a b => !a.ult b

/-- JMP (R86): Jumps to target16. -/
def execJmp (m : MillNo) (t : ThreadNo) (target : BitVec 16) (mbz : BitVec 10) (s : State) : Host.Outcome State Fault Refusal :=
  s.on fun now c => c.issue now m t (feciaWord (.jmp m t target mbz)) mbz.toNat [] fun c => c.jump m t target.toNat

/-- CALL (R86): Pushes the return address and jumps, or raises EXC_STACK when 8 entries are held. -/
def execCall (m : MillNo) (t : ThreadNo) (target : BitVec 16) (mbz : BitVec 10) (s : State) : Host.Outcome State Fault Refusal :=
  s.on fun now c => c.call now m t (feciaWord (.call m t target mbz)) mbz.toNat target.toNat

/-- RET (R86): Pops the return stack into pc, or raises EXC_STACK when the stack is empty. -/
def execRet (m : MillNo) (t : ThreadNo) (mbz : BitVec 26) (s : State) : Host.Outcome State Fault Refusal :=
  s.on fun now c => c.ret now m t (feciaWord (.ret m t mbz)) mbz.toNat

/-- JR (R86): Jumps to ra[15:0]. -/
def execJr (m : MillNo) (t : ThreadNo) (ra : RegNo) (mbz : BitVec 21) (s : State) : Host.Outcome State Fault Refusal :=
  s.on fun now c => c.issue now m t (feciaWord (.jr m t ra mbz)) mbz.toNat [ra] fun c => c.jump m t (((c.th m t).reg ra).toNat % 65536)

/-- MFS (R87): Reads a special register into rd. -/
def execMfs (m : MillNo) (t : ThreadNo) (rd n : RegNo) (mbz : BitVec 16) (s : State) : Host.Outcome State Fault Refusal :=
  s.on fun now c => c.mfs now m t (feciaWord (.mfs m t rd n mbz)) mbz.toNat rd n

/-- MTS (R87): Writes a writable special register, PRIO or CS. -/
def execMts (m : MillNo) (t : ThreadNo) (n ra : RegNo) (mbz : BitVec 16) (s : State) : Host.Outcome State Fault Refusal :=
  s.on fun now c => c.mts now m t (feciaWord (.mts m t n ra mbz)) mbz.toNat n ra

/-- TIME (R88): Reads DT and frac from the time replica of the Mill's island. No two reads fall in one cycle: device time goes on by its
smallest amount before each (entry 183). -/
def execTime (m : MillNo) (t : ThreadNo) (rd rb : RegNo) (mbz : BitVec 16) (s : State) : Host.Outcome State Fault Refusal :=
  (s.reach (s.time + 0x2000)).on fun now c => c.time now m t (feciaWord (.time m t rd rb mbz)) mbz.toNat rd rb

/-- MTO (R89): Writes ra into an outbox word. -/
def execMto (m : MillNo) (t : ThreadNo) (n : Fin 8) (ra : RegNo) (mbz : BitVec 18) (s : State) : Host.Outcome State Fault Refusal :=
  s.on fun now c => c.local_ now m t (feciaWord (.mto m t n ra mbz)) mbz.toNat [ra] fun x => { x with outb := setNth x.outb n (x.reg ra) }

/-- MFI (R89): Reads an inbox word into rd. -/
def execMfi (m : MillNo) (t : ThreadNo) (rd : RegNo) (n : Fin 8) (mbz : BitVec 18) (s : State) : Host.Outcome State Fault Refusal :=
  s.on fun now c => c.local_ now m t (feciaWord (.mfi m t rd n mbz)) mbz.toNat [rd] fun x => x.setReg rd (nth 0 x.inb n)

/-- SEND (R116): Publishes the outbox as one message on a channel, blocking until a credit is free. -/
def execSend (m : MillNo) (t : ThreadNo) (ra : RegNo) (chan : BitVec 10) (n1 : Fin 8) (mbz : BitVec 7)
    (s : State) : Host.Outcome State Fault Refusal :=
  s.on fun now c => c.issue now m t (feciaWord (.send m t ra chan n1 mbz)) mbz.toNat [ra] fun c =>
    c.send now m t (chanOf ((c.th m t).reg ra) chan) ((c.th m t).outb.take (n1 + 1)) true

/-- SENDT (R115): Publishes a message if a credit is free, and otherwise completes at once with NO_CREDIT. -/
def execSendt (m : MillNo) (t : ThreadNo) (ra : RegNo) (chan : BitVec 10) (n1 : Fin 8) (mbz : BitVec 7)
    (s : State) : Host.Outcome State Fault Refusal :=
  s.on fun now c => c.issue now m t (feciaWord (.sendt m t ra chan n1 mbz)) mbz.toNat [ra] fun c =>
    c.send now m t (chanOf ((c.th m t).reg ra) chan) ((c.th m t).outb.take (n1 + 1)) false

/-- RECV (R117): Takes the oldest message of a channel into the inbox, blocking while the channel is empty. -/
def execRecv (m : MillNo) (t : ThreadNo) (ra : RegNo) (chan : BitVec 10) (mbz : BitVec 10) (s : State) : Host.Outcome State Fault Refusal :=
  s.on fun now c => c.issue now m t (feciaWord (.recv m t ra chan mbz)) mbz.toNat [ra] fun c => c.recv now m t (chanOf ((c.th m t).reg ra) chan) true

/-- RECVT (R117): Takes a message if one is queued, and otherwise completes at once with NO_MESSAGE. -/
def execRecvt (m : MillNo) (t : ThreadNo) (ra : RegNo) (chan : BitVec 10) (mbz : BitVec 10)
    (s : State) : Host.Outcome State Fault Refusal :=
  s.on fun now c => c.issue now m t (feciaWord (.recvt m t ra chan mbz)) mbz.toNat [ra] fun c => c.recv now m t (chanOf ((c.th m t).reg ra) chan) false

/-- FORK (R103): Takes a FREE thread and starts a helper, or fails with FORK_LIMIT or EMPTY. -/
def execFork (m : MillNo) (t : ThreadNo) (rd : RegNo) (target : BitVec 16) (mbz : BitVec 4)
    (s : State) : Host.Outcome State Fault Refusal :=
  s.on fun now c => c.fork now m t (feciaWord (.fork m t rd target mbz)) mbz.toNat rd target.toNat false

/-- FORKW (R103): Forks a helper, waiting in BLOCKED_FORKW when the pool has no FREE thread. -/
def execForkw (m : MillNo) (t : ThreadNo) (rd : RegNo) (target : BitVec 16) (mbz : BitVec 4)
    (s : State) : Host.Outcome State Fault Refusal :=
  s.on fun now c => c.fork now m t (feciaWord (.forkw m t rd target mbz)) mbz.toNat rd target.toNat true

/-- JOIN (R107): Collects the exit status of a helper, or blocks until the helper ends. -/
def execJoin (m : MillNo) (t : ThreadNo) (rd ra : RegNo) (mbz : BitVec 16) (s : State) : Host.Outcome State Fault Refusal :=
  s.on fun now c => c.join now m t (feciaWord (.join m t rd ra mbz)) mbz.toNat rd ra

/-- EXIT (R106): Ends the thread with exit status ra[15:0]. -/
def execExit (m : MillNo) (t : ThreadNo) (ra : RegNo) (mbz : BitVec 21) (s : State) : Host.Outcome State Fault Refusal :=
  s.on fun now c => c.exit now m t (feciaWord (.exit m t ra mbz)) mbz.toNat ra

/-- VERD (R154): Gives verdict words A and B, ends the root thread and delivers the verdict to the order stage. -/
def execVerd (m : MillNo) (t : ThreadNo) (ra rb : RegNo) (mbz : BitVec 16) (s : State) : Host.Outcome State Fault Refusal :=
  s.on fun now c => c.conclude now m t (feciaWord (.verd m t ra rb mbz)) mbz.toNat 0x19 [ra, rb] fun x => .verdict (x.reg ra) (x.reg rb)

/-- MALF (R157): Declares the packet malformed and ends the root thread, so the malformed action of the Mill applies. -/
def execMalf (m : MillNo) (t : ThreadNo) (mbz : BitVec 26) (s : State) : Host.Outcome State Fault Refusal :=
  s.on fun now c => c.conclude now m t (feciaWord (.malf m t mbz)) mbz.toNat 0x1A [] fun _ => .malformed

/-- BRK (R91): Halts the thread when debug is enabled, and otherwise raises EXC_BREAK. -/
def execBrk (m : MillNo) (t : ThreadNo) (imm : BitVec 16) (mbz : BitVec 10) (s : State) : Host.Outcome State Fault Refusal :=
  s.on fun now c => c.brk now m t (feciaWord (.brk m t imm mbz)) mbz.toNat

end Sys2Proof.Machine
end

