-- ==== Sys2Proof/Machine/Lifecycle.lean ====
section
/-! DEFINITION. Modes, self-test, firmware, dumps (spec/17_modes_lifecycle.md). One meaning for every command; the operations they call say what each does. -/

namespace Sys2Proof.Machine

/-- DRAIN_CFG_WRITE (R453): A write of CP_DRAIN_CFG.SOURCES, refused with MODE_REFUSED in Drain. -/
def execDrainCfgWrite (v : Word) (s : State) : Host.Outcome State Fault Refusal := s.on fun now c => c.regWrite now A.CP_DRAIN_CFG [v]

/-- DRAINED (R453): No packet of a selected source remains in flight, and DRAINED is set. -/
def execDrained (s : State) : Host.Outcome State Fault Refusal := s.on fun _ c => c.drainDone

/-- DRAIN_TIMEOUT (R453): TIMEOUT_MS passes in Drain, so DRAINED and FORCED are set and DRAIN_FORCED is journaled. -/
def execDrainTimeout (s : State) : Host.Outcome State Fault Refusal := s.on fun now c => c.drainTimeout now

/-- STANDBY_POWER_DOWN (R454): One millisecond after the Standby MODE word completes, every domain but AO and the keepalive group powers
down. -/
def execStandbyPowerDown (s : State) : Host.Outcome State Fault Refusal := s.on fun now c => c.standbyOff now

/-- STANDBY_WORK_TIMEOUT (R454): Admitted work has not ended within 100 ms of a Standby request, so the word is refused and admission
resumes. -/
def execStandbyWorkTimeout (s : State) : Host.Outcome State Fault Refusal := s.on fun now c => c.standbyTimeout now

/-- KEEPALIVE (R454): KEEPALIVE_MS passes in Standby, and a state word telemetry frame is sent. -/
def execKeepalive (s : State) : Host.Outcome State Fault Refusal := s.on fun now c => c.keepalive now

/-- WAKE_GPIO (R454): An edge on WAKE_GPIO while WAKE_EN = 1 wakes the adapter from Standby. The pin comes to `level`. -/
def execWakeGpio (level : Bool) (s : State) : Host.Outcome State Fault Refusal :=
  s.on fun _ c => c.gpioEdge (c.get A.CP_STANDBY_CFG F.CP_STANDBY_CFG_WAKE_GPIO) level

/-- SELF_TEST_END (R451): Self-test ends, and the adapter enters Provision or Recovery. The masks name the islands, channel edges and
engine edges that failed. -/
def execSelfTestEnd (isl : BitVec 25) (qdr : BitVec 8) (eng : BitVec 2) (s : State) : Host.Outcome State Fault Refusal :=
  s.on fun now c => c.selfTestEnd now isl.toNat qdr.toNat eng.toNat

/-- FIRMWARE_START (R427): The boot ROM finishes verifying a firmware copy and starts it, or stays in Boot with CP_BOOT_FAIL. -/
def execFirmwareStart (s : State) : Host.Outcome State Fault Refusal := s.on fun now c => c.firmwareStart now

/-- ACTIVATE (R455): Writing CP_FW_CTRL.ACTIVATE restarts the Control Plane on the preferred copy. -/
def execActivate (s : State) : Host.Outcome State Fault Refusal := s.on fun now c => c.regWrite now A.CP_FW_CTRL [1]

/-- FW_RESTART_END (R455): The firmware restart ends, so FW_BUSY clears and the deferred actions run. -/
def execFwRestartEnd (s : State) : Host.Outcome State Fault Refusal := s.on fun now c => c.restartEnd now

/-- RAISE_SVN (R427): A keyed write of RAISE_SVN blows SVN fuses up to the value written. -/
def execRaiseSvn (v : BitVec 8) (s : State) : Host.Outcome State Fault Refusal :=
  s.on fun now c => c.regWrite now A.CP_BOOT [v.zeroExtend 64 <<< 32]

/-- REVOKE_KEY0 (R427): A keyed write of REVOKE_KEY0 revokes fused key 0. -/
def execRevokeKey0 (s : State) : Host.Outcome State Fault Refusal := s.on fun now c => c.regWrite now A.CP_BOOT [1 <<< 40]

/-- DUMP_GO (R457): Writing CP_DUMP_CTRL.GO starts a state dump to host memory. -/
def execDumpGo (e : EpNo) (s : State) : Host.Outcome State Fault Refusal :=
  s.on fun now c => c.regWrite now A.CP_DUMP_CTRL [BitVec.ofNat 64 (1 + 2 * e.val)]

end Sys2Proof.Machine
end

