-- ==== Sys2Proof/Machine/Memory.lean ====
section
/-! DEFINITION. QDR channels and scrubbers (spec/14_memory_complex.md). One meaning for every command; the operations they call say what each does. -/

namespace Sys2Proof.Machine

/-- CHANNEL_TRAINED (R396): A QDR channel finishes training and zeroing and enters READY. `port`, `pin` and `ps` are the pin of least
margin and its margin. -/
def execChannelTrained (ch : QdrNo) (port : Fin 2) (pin : Fin 128) (ps : BitVec 8) (s : State) : Host.Outcome State Fault Refusal :=
  s.on fun _ c => c.channelTrained ch port pin ps.toNat

/-- QDR_RETRAIN (R397): RETRAIN_MS elapses, and a channel retrains a port on its training region. -/
def execQdrRetrain (ch : QdrNo) (port : Fin 2) (pin : Fin 128) (ps : BitVec 8) (s : State) : Host.Outcome State Fault Refusal :=
  s.on fun _ c => c.retrain ch port pin ps.toNat

/-- PORT_TRAINING_END (R397): A port taken out of service finishes training alone, and returns to service or becomes DISABLED. `fails` is
the number of attempts that failed. -/
def execPortTrainingEnd (ch : QdrNo) (port : Fin 2) (fails : Fin 4) (pin : Fin 128) (ps : BitVec 8)
    (s : State) : Host.Outcome State Fault Refusal :=
  s.on fun now c => c.portTrained now ch port fails pin ps.toNat

/-- QDR_SCRUB (R398): The QDR scrubber reads the next channel word and writes it back if needed. `upset` is what faults have changed in
the word since it was last written. -/
def execQdrScrub (ch : QdrNo) (upset : BitVec 32) (s : State) : Host.Outcome State Fault Refusal :=
  s.on fun now c => c.qdrScrub now ch upset

/-- SRAM_SCRUB (R400): The SRAM scrubber reads the next word of the powered arrays. -/
def execSramScrub (upset : BitVec 32) (s : State) : Host.Outcome State Fault Refusal := s.on fun now c => c.sramScrub now upset

/-- QDR_CFG_WRITE (R403): A write of RD_LAT, WR_LAT or ODT_EN, accepted outside READY and restarting training while TRAINING. -/
def execQdrCfgWrite (ch : QdrNo) (v : Word) (s : State) : Host.Outcome State Fault Refusal :=
  s.on fun now c => c.regWrite now (A.MC_CFG ch) [v]

end Sys2Proof.Machine
end

