-- ==== Sys2Proof/Machine/Mills.lean ====
section
/-! DEFINITION. The events of threads, channels, stalls and the debugger (spec/04_threads_channels.md). One meaning for every command; the operations they call say what each does. -/

namespace Sys2Proof.Machine

/-- THREAD_START (R67): A root, helper or resident thread issues its first instruction once its head window copy and scratch clear are
complete. -/
def execThreadStart (m : MillNo) (t : ThreadNo) (s : State) : Host.Outcome State Fault Refusal := s.on fun _ c => c.threadStart m t

/-- RECV_DELIVER (R117): A message becomes available, and the longest-waiting receiver of highest priority that is blocked on the channel
receives it. -/
def execRecvDeliver (m : MillNo) (ch : ChanNo) (t : ThreadNo) (s : State) : Host.Outcome State Fault Refusal :=
  s.on fun _ c => c.deliver m ch t

/-- SEND_CREDIT_GRANT (R115): A credit becomes free, and a thread blocked in send publishes its message. -/
def execSendCreditGrant (m : MillNo) (ch : ChanNo) (s : State) : Host.Outcome State Fault Refusal :=
  s.on fun now c => c.grantCredit now m ch

/-- FORKW_GRANT (R101): A thread becomes FREE and goes to the highest-priority, longest-waiting forkw. -/
def execForkwGrant (m : MillNo) (s : State) : Host.Outcome State Fault Refusal := s.on fun _ c => c.grantFork m

/-- JOIN_WAKE (R107): A joined helper has ended, and the blocked joiner becomes ready 3 cycles later with the exit status. -/
def execJoinWake (m : MillNo) (t : ThreadNo) (s : State) : Host.Outcome State Fault Refusal := s.on fun _ c => c.joinWake m t

/-- WAIT_TIMEOUT (R110): A wait in recv, send, forkw or join reaches WAIT_LIMIT and ends with TIMEOUT. -/
def execWaitTimeout (m : MillNo) (t : ThreadNo) (s : State) : Host.Outcome State Fault Refusal := s.on fun now c => c.waitTimeout now m t

/-- REMOTE_MESSAGE_ARRIVAL (R113): A cross-Mill message arrives at a LOCAL channel with EXTERNAL = 1, or is discarded under R114. -/
def execRemoteMessageArrival (src dst : MillNo) (s : State) : Host.Outcome State Fault Refusal := s.on fun _ c => c.remoteArrival src dst

/-- REMOTE_CREDIT_RETURN (R115): A credit of a target channel returns across the boundaries to the sending Mill. -/
def execRemoteCreditReturn (src dst : MillNo) (s : State) : Host.Outcome State Fault Refusal := s.on fun _ c => c.remoteCredit src dst

/-- ENGINE_REPLY (R121): An engine reply arrives in channel 768 of the requesting thread, or is discarded when the thread is ENDING. -/
def execEngineReply (m : MillNo) (t : ThreadNo) (ch : ChanNo) (s : State) : Host.Outcome State Fault Refusal :=
  s.on fun now c => c.engineReply now m t ch

/-- STALL_LIMIT_EXPIRY (R125): The stall condition has held for STALL_LIMIT, and the detector applies ABORT_YOUNGEST or HALT_MILL. -/
def execStallLimitExpiry (m : MillNo) (s : State) : Host.Outcome State Fault Refusal := s.on fun now c => c.stallExpiry now m

/-- XSTALL_POLL (R126): The Control Plane polls every Mill's stall status and resolves any deadlock across Mills. -/
def execXstallPoll (s : State) : Host.Outcome State Fault Refusal := s.on fun now c => c.xstallPoll now

/-- HALT (R129): Debug operation that halts one thread at an instruction boundary. An authenticated write of MA_Mnn_DBG_CMD. -/
def execHalt (m : MillNo) (t : ThreadNo) (s : State) : Host.Outcome State Fault Refusal :=
  s.on fun now c => c.regWrite now (A.MA_DBG_CMD m) [BitVec.ofNat 64 (1 + 256 * t.val)]

/-- RESUME (R129): Debug operation that returns a HALTED thread to ACTIVE. An authenticated write of MA_Mnn_DBG_CMD. -/
def execResume (m : MillNo) (t : ThreadNo) (s : State) : Host.Outcome State Fault Refusal :=
  s.on fun now c => c.regWrite now (A.MA_DBG_CMD m) [BitVec.ofNat 64 (2 + 256 * t.val)]

/-- STEP (R129): Debug operation that makes a HALTED thread issue exactly one instruction. An authenticated write of MA_Mnn_DBG_CMD. -/
def execStep (m : MillNo) (t : ThreadNo) (s : State) : Host.Outcome State Fault Refusal :=
  s.on fun now c => c.regWrite now (A.MA_DBG_CMD m) [BitVec.ofNat 64 (3 + 256 * t.val)]

/-- STEP_COMPLETE (R129): The stepped instruction completes, and the thread returns to HALTED. -/
def execStepComplete (m : MillNo) (t : ThreadNo) (s : State) : Host.Outcome State Fault Refusal := s.on fun _ c => c.stepComplete m t

/-- KILL (R129): Debug operation that ends a thread with status KILLED. An authenticated write of MA_Mnn_DBG_CMD. -/
def execKill (m : MillNo) (t : ThreadNo) (s : State) : Host.Outcome State Fault Refusal :=
  s.on fun now c => c.regWrite now (A.MA_DBG_CMD m) [BitVec.ofNat 64 (4 + 256 * t.val)]

/-- HALT_ALL (R129): Debug operation that halts every live thread of the Mill. An authenticated write of MA_Mnn_DBG_CMD. -/
def execHaltAll (m : MillNo) (s : State) : Host.Outcome State Fault Refusal :=
  s.on fun now c => c.regWrite now (A.MA_DBG_CMD m) [BitVec.ofNat 64 (5)]

/-- RESUME_ALL (R129): Debug operation that resumes every HALTED thread of the Mill. An authenticated write of MA_Mnn_DBG_CMD. -/
def execResumeAll (m : MillNo) (s : State) : Host.Outcome State Fault Refusal :=
  s.on fun now c => c.regWrite now (A.MA_DBG_CMD m) [BitVec.ofNat 64 (6)]

/-- DBG_CTRL_WRITE (R127): A write of MA_Mnn_DBG_CTRL; clearing ENABLE resumes every thread halted by the debugger or by brk. -/
def execDbgCtrlWrite (m : MillNo) (v : Word) (s : State) : Host.Outcome State Fault Refusal :=
  s.on fun now c => c.regWrite now (A.MA_DBG_CTRL m) [v]

/-- RESIDENT_START (R111): A write of MA_Mnn_RESIDENT(k).START takes a thread and starts a resident thread. -/
def execResidentStart (m : MillNo) (k : Fin 16) (entry : BitVec 16) (prio : Fin 4) (s : State) : Host.Outcome State Fault Refusal :=
  s.on fun now c => c.regWrite now (A.MA_RESIDENT m k) [BitVec.ofNat 64 (entry.toNat + prio.val * 2 ^ 16 + 2 ^ 18)]

/-- CHAN_WRITE (R114): A write of a channel configuration, refused with CHAN_BUSY while a message is queued or a thread is blocked. -/
def execChanWrite (m : MillNo) (ch : Fin 512) (v : Word) (s : State) : Host.Outcome State Fault Refusal :=
  s.on fun now c => c.regWrite now (A.MA_CHAN m ch) [v]

end Sys2Proof.Machine
end

