-- ==== Sys2Proof/Machine/Ports.lean ====
section
/-! DEFINITION. Ports, pause, preemption verification and timestamps (spec/09_ports.md). One meaning for every command; the operations they call say what each does. -/

namespace Sys2Proof.Machine

/-- TX_FRAME_START (R257): A port starts transmitting a frame once 2,048 bytes of it, or all of it, are in the transmit buffer. -/
def execTxFrameStart (p : PortNo) (express : Bool) (s : State) : Host.Outcome State Fault Refusal :=
  s.on fun now c => c.txStart now p express

/-- TX_FRAME_END (R38): The last transmission of a packet leaves the port group's transmit buffer, and its bobbin is released. -/
def execTxFrameEnd (p : PortNo) (express : Bool) (s : State) : Host.Outcome State Fault Refusal :=
  s.on fun now c => c.txEnd now p express false

/-- PORT_ENABLE (R249): Writing ENABLE = 1 starts the port's SerDes, auto-negotiation and link training. The other fields of the register
are those of `v`. -/
def execPortEnable (p : PortNo) (v : Word) (s : State) : Host.Outcome State Fault Refusal :=
  s.on fun now c => c.regWrite now (A.PX_CFG p) [setBits v 0 1 1]

/-- PORT_DISABLE (R249): Writing ENABLE = 0 stops reception and transmission and idles the transmitters. -/
def execPortDisable (p : PortNo) (v : Word) (s : State) : Host.Outcome State Fault Refusal :=
  s.on fun now c => c.regWrite now (A.PX_CFG p) [setBits v 0 1 0]

/-- GROUP_MODE_WRITE (R246): A write of PX_Pg_MODE that changes the group layout and retrains its lanes. -/
def execGroupModeWrite (g : GroupNo) (v : Word) (s : State) : Host.Outcome State Fault Refusal :=
  s.on fun now c => c.regWrite now (A.PX_MODE g) [v]

/-- LINK_UP (R249): The PCS and RS-FEC report lock on every lane of a port, and LINK is set. -/
def execLinkUp (p : PortNo) (s : State) : Host.Outcome State Fault Refusal := s.on fun now c => c.linkRise now p

/-- LINK_DOWN (R249): A port's LINK falls, and the frame in transmission is lost. -/
def execLinkDown (p : PortNo) (s : State) : Host.Outcome State Fault Refusal := s.on fun now c => c.linkFall now p

/-- PAUSE_FRAME_RECEIVE (R269): A received PAUSE or PFC frame stops transmission of the named priorities for its time. -/
def execPauseFrameReceive (p : PortNo) (bytes : List Byte) (s : State) : Host.Outcome State Fault Refusal :=
  s.on fun now c => if isMacCtrl bytes then c.frameReceive now p .express bytes false 0 0 else c

/-- PAUSE_TIMER_EXPIRY (R269): The pause time received from the partner runs out, and transmission resumes. -/
def execPauseTimerExpiry (p : PortNo) (s : State) : Host.Outcome State Fault Refusal := s.on fun now c => c.pauseExpiry now p

/-- WEIR_REFRESH (R267): QUANTA ÷ 2 quanta pass in XOFF, and the pause frame is sent again. -/
def execWeirRefresh (p : PortNo) (s : State) : Host.Outcome State Fault Refusal := s.on fun now c => c.weirRefresh now p

/-- PEER_DELAY_RESULT (R268): A new peer-delay measurement arrives, and the Weir recomputes its automatic watermarks. -/
def execPeerDelayResult (p : PortNo) (delay : BitVec 32) (s : State) : Host.Outcome State Fault Refusal :=
  s.on fun _ c => c.peerDelay p delay.toNat

/-- VERIFY_TIMER (R259): VERIFY_MS passes, and a verify mPacket is sent, or after three verifies the status becomes FAILED. -/
def execVerifyTimer (p : PortNo) (s : State) : Host.Outcome State Fault Refusal := s.on fun now c => c.verifyTimer now p

/-- RESPOND_MPACKET_RECEIVE (R259): A respond mPacket moves VERIFY_STATUS to SUCCEEDED. -/
def execRespondMpacketReceive (p : PortNo) (s : State) : Host.Outcome State Fault Refusal := s.on fun now c => c.respondReceive now p

/-- VERIFY_MPACKET_RECEIVE (R259): A received verify mPacket is answered with a respond mPacket. -/
def execVerifyMpacketReceive (p : PortNo) (s : State) : Host.Outcome State Fault Refusal := s.on fun now c => c.verifyReceive now p

/-- TS_TAIL_WRITE (R272): A PUT of PX_Pg_TS_TAIL frees timestamp ring entries. -/
def execTsTailWrite (g : GroupNo) (v : Word) (s : State) : Host.Outcome State Fault Refusal :=
  s.on fun now c => c.regWrite now (A.PX_TS_TAIL g) [v]

end Sys2Proof.Machine
end

