-- ==== Sys2Proof/Machine/Power.lean ====
section
/-! DEFINITION. Supplies, resets, fences, domains, clocks and faults (spec/18_reset_power_faults.md). One meaning for every command; the operations they call say what each does. -/

namespace Sys2Proof.Machine

/-- SUPPLIES_REMOVED (R449): The supplies are removed, and the adapter enters Off. -/
def execSuppliesRemoved (s : State) : Host.Outcome State Fault Refusal := s.restarted fun c => c.supplyOff

/-- SUPPLIES_IN_RANGE (R449): The supplies come into range with RST_N or PWR_OK low, and the adapter enters Held. -/
def execSuppliesInRange (s : State) : Host.Outcome State Fault Refusal := s.restarted fun c => c.supplyOn

/-- COLD_RESET (R460): RST_N or PWR_OK low, or TEST_MODE high, for 100 ns or longer resets the whole device. -/
def execColdReset (pin : ResetPin) (s : State) : Host.Outcome State Fault Refusal := s.restarted fun c => c.coldReset pin.cause

/-- RESET_RELEASE (R449): RST_N and PWR_OK both go high with TEST_MODE low, and the adapter enters Boot. -/
def execResetRelease (s : State) : Host.Outcome State Fault Refusal := s.on fun now c => c.releaseReset now

/-- SUPPLY_RANGE_EXIT (R486): A supply leaves its range while PWR_OK is high, and CP_SUPPLY_FAULT is raised. -/
def execSupplyRangeExit (s : State) : Host.Outcome State Fault Refusal := s.on fun now c => c.supplyExit now

/-- WARM_RESET (R461): Writing CP_RESET_CTRL.WARM performs a warm reset of every island outside AO, HA and HB. -/
def execWarmReset (s : State) : Host.Outcome State Fault Refusal := s.on fun now c => c.regWrite now A.CP_RESET_CTRL [1]

/-- WDOG_WRITE (R461): A write of CP_WDOG restarts the watchdog count. -/
def execWdogWrite (v : Word) (s : State) : Host.Outcome State Fault Refusal := s.on fun now c => c.regWrite now A.CP_WDOG [v]

/-- WATCHDOG_EXPIRY (R461): The firmware has not written CP_WDOG for TIMEOUT_MS, so CP_WATCHDOG is raised and a warm reset follows. -/
def execWatchdogExpiry (s : State) : Host.Outcome State Fault Refusal := s.on fun now c => c.watchdog now

/-- ISLAND_FENCE (R462): CP_ISLAND_CTRL OP FENCE fences a target and holds it. -/
def execIslandFence (t : Fin 64) (s : State) : Host.Outcome State Fault Refusal :=
  s.on fun now c => c.regWrite now A.CP_ISLAND_CTRL [BitVec.ofNat 64 (t.val + 2 ^ 8)]

/-- ISLAND_RESET (R462): CP_ISLAND_CTRL OP RESET resets a target island, channel edge or engine edge under Table 18-2. -/
def execIslandReset (t : Fin 64) (s : State) : Host.Outcome State Fault Refusal :=
  s.on fun now c => c.regWrite now A.CP_ISLAND_CTRL [BitVec.ofNat 64 (t.val + 2 * 2 ^ 8)]

/-- FENCED_REACHED (R464): Fencing reaches Fenced, owed ABSENT replies are delivered and the island's clock stops. -/
def execFencedReached (t : Fin 64) (s : State) : Host.Outcome State Fault Refusal := s.on fun now c => c.fencedReached now t

/-- BOUNDARY_OPEN (R464): Opening ends in Open once clock, arrays, replica and keyed state are ready. -/
def execBoundaryOpen (t : Fin 64) (s : State) : Host.Outcome State Fault Refusal := s.on fun now c => c.boundaryOpen now t

/-- AUTO_REOPEN (R476): 10 ms after a fatal-island fault with AUTO_REOPEN = 1, the Control Plane resets the target. -/
def execAutoReopen (t : Fin 64) (s : State) : Host.Outcome State Fault Refusal := s.on fun now c => c.autoReopen now t

/-- DOMAIN_POWER_ON (R467): CP_PWR_REQ with ON = 1 switches a domain on in the serialised steps of Table 18-5. -/
def execDomainPowerOn (d : Fin 64) (s : State) : Host.Outcome State Fault Refusal :=
  s.on fun now c => c.regWrite now A.CP_PWR_REQ [BitVec.ofNat 64 (d.val + 2 ^ 8)]

/-- DOMAIN_POWER_OFF (R466): CP_PWR_REQ with ON = 0 fences a domain and switches it off. -/
def execDomainPowerOff (d : Fin 64) (s : State) : Host.Outcome State Fault Refusal :=
  s.on fun now c => c.regWrite now A.CP_PWR_REQ [BitVec.ofNat 64 d.val]

/-- POWER_GOOD_TIMEOUT (R467): A rail has not reached power good 1 ms after the switch closed, so CP_POWER_FAIL is raised and the switch
opens. -/
def execPowerGoodTimeout (d : Fin 64) (s : State) : Host.Outcome State Fault Refusal := s.on fun now c => c.powerBad now d

/-- MILL_CLOCK_WRITE (R469): A write of CP_CLK_MILL(m).MHZ_SET changes the Mill clock without a fence. -/
def execMillClockWrite (m : MillNo) (mhz : BitVec 12) (s : State) : Host.Outcome State Fault Refusal :=
  s.on fun now c => c.regWrite now (A.CP_CLK_MILL m) [mhz.zeroExtend 64]

/-- AVS_STEP (R470): An island's timing monitors move its VDD_CORE segment by one step, lowering a Mill clock at the limit. -/
def execAvsStep (n : Fin 25) (up : Bool) (s : State) : Host.Outcome State Fault Refusal := s.on fun now c => c.avsStep now n up

/-- THERMAL_THRESHOLD (R471): The hottest die sensor crosses THROTTLE_C or TRIP_C, and the Mills throttle or the adapter trips to
Recovery. `temp` is the reading of the hottest sensor, in 1/16 °C. -/
def execThermalThreshold (temp : Int) (s : State) : Host.Outcome State Fault Refusal := s.on fun now c => c.thermal now temp

/-- PLL_LOCK_LOSS (R470): A PLL loses lock, and the fault of its unit is raised. -/
def execPllLockLoss (pll : Pll) (s : State) : Host.Outcome State Fault Refusal := s.on fun now c => c.pllLoss now pll

/-- FAULT_TAIL_WRITE (R474): A write of CP_FAULT_TAIL frees fault records. -/
def execFaultTailWrite (v : Word) (s : State) : Host.Outcome State Fault Refusal := s.on fun now c => c.regWrite now A.CP_FAULT_TAIL [v]

/-- MILL_CLOCK_CHANGE_DONE (R469): The new Mill clock is in force, so the cores issue again, dispatch to the Mill resumes and the stall
and wait measurements restart. -/
def execMillClockChangeDone (m : MillNo) (s : State) : Host.Outcome State Fault Refusal := s.on fun now c => c.clkDone now m

end Sys2Proof.Machine
end

