-- ==== Sys2Proof/Machine/Records.lean ====
section
/-! DEFINITION. The journal mirror, the Sampler, billing and telemetry (spec/15_command_packets.md, spec/16_counters_billing.md). One meaning for every command; the operations they call say what each does. -/

namespace Sys2Proof.Machine

/-- JOURNAL_MIRROR (R424): A journal entry is mirrored to the JOURNAL partition of the flash within the budget. `ok` says that the flash
took the write. -/
def execJournalMirror (ok : Bool) (s : State) : Host.Outcome State Fault Refusal := s.on fun now c => c.journalMirror now ok

/-- COUNT_REPORT (R433): A unit reports a stamped count to the Sampler, which adds it to its window or to the next one as LATE. -/
def execCountReport (s : State) : Host.Outcome State Fault Refusal := s.on fun now c => c.countReport now

/-- BW_WINDOW_CLOSE (R435): AO time reaches a bandwidth window's end plus 100 µs, and a record is written for each counted port. -/
def execBwWindowClose (s : State) : Host.Outcome State Fault Refusal := s.on fun now c => c.bwWindowClose now

/-- BILL_MINUTE_CLOSE (R437): A billing minute's closure time arrives, and 8,192 signed records are written, or the minute is merged. -/
def execBillMinuteClose (s : State) : Host.Outcome State Fault Refusal := s.on fun now c => c.billMinuteClose now

/-- BW_TAIL_WRITE (R439): A critical PUT of CP_BW_TAIL frees bandwidth records. -/
def execBwTailWrite (v : Word) (s : State) : Host.Outcome State Fault Refusal := s.on fun now c => c.regWrite now A.CP_BW_TAIL [v]

/-- BILL_TAIL_WRITE (R439): A critical PUT of CP_BILL_TAIL frees billing records. -/
def execBillTailWrite (v : Word) (s : State) : Host.Outcome State Fault Refusal := s.on fun now c => c.regWrite now A.CP_BILL_TAIL [v]

/-- TELEMETRY_STATE_PERIOD (R440): PERIOD_MS elapses, and a state word item enters the telemetry stream. -/
def execTelemetryStatePeriod (s : State) : Host.Outcome State Fault Refusal := s.on fun now c => c.tlmState now

/-- SMP_MODE_SET (R431): A write of CP_SMP_MODE with SET = 1 gives a dedicated counter the LEVEL or EDGE mode. -/
def execSmpModeSet (addr : BitVec 40) (edge : Bool) (s : State) : Host.Outcome State Fault Refusal :=
  s.on fun now c => c.regWrite now A.CP_SMP_MODE [BitVec.ofNat 64 (addr.toNat + edge.toNat * 2 ^ 40 + 2 ^ 41)]

/-- SMP_MODE_LOAD (R431): A write of CP_SMP_MODE with SET = 0 loads EDGE with a counter's current mode. -/
def execSmpModeLoad (addr : BitVec 40) (s : State) : Host.Outcome State Fault Refusal :=
  s.on fun now c => c.regWrite now A.CP_SMP_MODE [BitVec.ofNat 64 addr.toNat]

end Sys2Proof.Machine
end

