-- ==== Sys2Proof/Machine/Schedule.lean ====
section
/-! DEFINITION. The Scheduled Action Table, device time, PPS (spec/02_device_time.md). One meaning for every command; the operations they call say what each does. -/

namespace Sys2Proof.Machine

/-- SAT_PENDING (R53): A write of word 1 with STATE = 1 validates a Scheduled Action Table entry and makes it PENDING. The other fields of
word 1 are those of `v`. -/
def execSatPending (n : SatNo) (v : Word) (s : State) : Host.Outcome State Fault Refusal :=
  s.on fun now c => c.regWrite now (A.FT_SAT n + 8) [setBits v 24 3 1]

/-- SAT_CANCEL (R54): A write of STATE = 5 to a PENDING entry cancels it. -/
def execSatCancel (n : SatNo) (v : Word) (s : State) : Host.Outcome State Fault Refusal :=
  s.on fun now c => c.regWrite now (A.FT_SAT n + 8) [setBits v 24 3 5]

/-- SAT_FREE (R54): A write of STATE = 0 makes a finished entry FREE. -/
def execSatFree (n : SatNo) (v : Word) (s : State) : Host.Outcome State Fault Refusal :=
  s.on fun now c => c.regWrite now (A.FT_SAT n + 8) [setBits v 24 3 0]

/-- SAT_WORD_WRITE (R54): A PUT of word 0, 2 or 3 of an entry, refused with ENTRY_BUSY while the entry is live. `k` is 0, 1 or 2 for word
0, 2 or 3. -/
def execSatWordWrite (n : SatNo) (k : Fin 3) (v : Word) (s : State) : Host.Outcome State Fault Refusal :=
  s.on fun now c => c.regWrite now (A.FT_SAT n + (if k.val = 0 then 0 else 8 + 8 * k.val)) [v]

/-- SAT_ARM (R56): At T − FT_ARM_LEAD a keyed entry arms and delivers its new state to every target, or ends FAILED with ABSENT. -/
def execSatArm (n : SatNo) (s : State) : Host.Outcome State Fault Refusal := s.on fun now c => c.satArm now n

/-- SAT_KEYED_DONE (R56): AO time reaches T and every target has reported holding the new state, so the keyed entry ends DONE. -/
def execSatKeyedDone (n : SatNo) (s : State) : Host.Outcome State Fault Refusal := s.on fun now c => c.satDone now n

/-- STAGE_WRITE_APPLY (R420): At T the Control Plane writes a committed group's non-keyed WRITE items in item order. -/
def execStageWriteApply (n : SatNo) (s : State) : Host.Outcome State Fault Refusal := s.on fun now c => c.stageApply now n

/-- SAT_PUT64 (R58): A plain PUT64 entry writes its value once device time reaches T. -/
def execSatPut64 (n : SatNo) (s : State) : Host.Outcome State Fault Refusal := s.on fun now c => c.satPut64 now n

/-- SAT_MODE (R58): A plain MODE entry requests a mode transition at T. -/
def execSatMode (n : SatNo) (s : State) : Host.Outcome State Fault Refusal := s.on fun now c => c.satMode now n

/-- SAT_GPIO (R499): A plain GPIO entry sets a GPIO output level at T. -/
def execSatGpio (n : SatNo) (s : State) : Host.Outcome State Fault Refusal := s.on fun now c => c.satGpio now n

/-- SAT_SIGNAL (R58): A plain SIGNAL entry journals a mark and may fire an interrupt message entry of slice 0. -/
def execSatSignal (n : SatNo) (s : State) : Host.Outcome State Fault Refusal := s.on fun now c => c.satSignal now n

/-- TIME_STEP (R46): Writing FT_STEP_CTRL.GO applies a forward or backward step to device time, within the limits of the mode. -/
def execTimeStep (s : State) : Host.Outcome State Fault Refusal := s.on fun now c => c.stepWrite now

/-- TIME_SYNC_WORD (R47): A synchronisation word reaches an island's time replica every 256 ns, and the replica checks its error. `dt` and
`frac` are the word's send time, which device time has reached; `err` is the replica's error in 2^-16 ns. -/
def execTimeSyncWord (isl : Fin 25) (dt : Word) (frac : BitVec 16) (err : BitVec 32) (s : State) : Host.Outcome State Fault Refusal :=
  (s.reach (ns dt.toNat + frac.toNat)).on fun now c => c.syncWord now isl err.toNat

/-- PPS_IN_EDGE (R49): A rising edge of PPS_IN is stamped and disciplines device time. -/
def execPpsInEdge (s : State) : Host.Outcome State Fault Refusal := s.on fun now c => c.ppsIn now

/-- PPS_OUT_EDGE (R62): Device time reaches a whole second plus OFFSET_NS, and PPS_OUT rises for WIDTH_US. -/
def execPpsOutEdge (s : State) : Host.Outcome State Fault Refusal := s.on fun now c => c.ppsEdge now

/-- SOURCE_LOSS_TIMEOUT (R42): The selected source has been absent for 10 s, so the state becomes HOLDOVER and FT_SOURCE_LOST is raised. -/
def execSourceLossTimeout (s : State) : Host.Outcome State Fault Refusal := s.on fun now c => c.sourceLost now

/-- SERVO_LOCK (R44): The servo has held the offset within 100 ns for 10 s, and the state becomes LOCKED. -/
def execServoLock (s : State) : Host.Outcome State Fault Refusal := s.on fun now c => c.servoLock now

end Sys2Proof.Machine
end

