-- ==== Sys2Proof/Machine/Storage.lean ====
section
/-! DEFINITION. The Storage Engine (spec/11_cipher_storage.md). One meaning for every command; the operations they call say what each does. -/

namespace Sys2Proof.Machine

/-- ST_RECEIVE (R312): A receive request on channel 672 follows a connection's stream, checks digests and places data. -/
def execStReceive (s : State) : Host.Outcome State Fault Refusal := s.on fun now c => c.stRx now

/-- ST_TRANSMIT (R316): A transmit request on channel 673 copies whole PDUs to DST, filling in digests and applying XTS. -/
def execStTransmit (s : State) : Host.Outcome State Fault Refusal :=
  s.on fun now c => c.stTx now

/-- CONN_WRITE (R311): A PUT of ST_CONN(n): a change of EXP_SEQ alone resynchronises a valid connection, other changes to it end with
CONN_BUSY, and a PUT of TAIL acts as the doorbell. -/
def execConnWrite (n : Fin 32768) (k : Fin 4) (words : List Word) (s : State) : Host.Outcome State Fault Refusal :=
  s.on fun now c => c.regWrite now (A.ST_CONN n + 8 * k.val) words

end Sys2Proof.Machine
end

