-- ==== Sys2Proof/Machine/Tables.lean ====
section
/-! DEFINITION. Exact-match tables, LPM tables and the counter store (spec/07_tables.md). One meaning for every command; the operations they call say what each does. -/

namespace Sys2Proof.Machine

/-- Serves a channel of the Table Engine of side `e` (R197): replies of one thread keep their order (R200). -/
def Chip.serveSide (c : Chip) (ch e : Nat) (run : EngReq → Chip → List Word × Chip)
    (taken : EngReq → List Word → Chip → List Word × Chip) : Chip :=
  c.serveTent ch (fun r => teOf r.mill == e) EngReq.sameThread run taken

/-- A WRITE op of kind `op` (R204): the operator's, which GO has started, or the oldest of the programs of side `e`, if it is of that kind.
OVF_CLEAR stands for the reserved kind 7 too. -/
def Chip.tableOp (c : Chip) (now e : Nat) (oper : Bool) (op : Nat) : Chip :=
  let kind (w : Word) : Nat := min 6 (getBits w 4 3)
  if oper then (if c.up 22 && kind (nth 0 (c.eng e).op 0) == op then c.teOperator now e else c)
  else
    match c.reqs.find? fun r => r.chan == 576 && !r.owed && teOf r.mill == e with
    | none => c
    | some r =>
      if kind (nth 0 r.words 0) = op then c.serveSide 576 e (fun r c => c.teWriteServe now r) fun r _ c => c.teWriteServe now r else c

/-- The last write-back of a flush completes (R214). -/
def Chip.flushDone_ (c : Chip) (e : Nat) : Chip := if c.up 22 then c.ccFlushDone e else c

/-- A write of TE_x_EMT(t) by the command processor (R218, R219): one that enables the table and passes its checks waits for the scan. -/
def Chip.emtWrite (c : Chip) (now e t : Nat) (ws : List Word) : Chip :=
  if c.pwr.fwRuns && decide (4 ≤ c.mode) && !c.emtOn e t && getBits (nth 0 ws 0) 33 1 == 1 then
    let st := (c.put now (A.TE_EMT e t) ws).1
    if st = Code.OK ∨ st = Code.BAD_IMAGE ∨ st = Code.POISONED then
      c.setEng e { c.eng e with scan := mset [] (c.eng e).scan t ws }
    else { c with cmd := { c.cmd with lastStatus := st } }
  else c.regWrite now (A.TE_EMT e t) ws

/-- The scan of table `t` ends, and the write that asked for it completes (R218). -/
def Chip.scanEnd (c : Chip) (now e t : Nat) : Chip :=
  match mget [] (c.eng e).scan t with
  | [] => c
  | ws => (c.setEng e { c.eng e with scan := mset [] (c.eng e).scan t [] }).regWrite now (A.TE_EMT e t) ws

/-- TE_LOOKUP (R199): A LOOKUP in exact-match table t searches the flow cache, bucket A, bucket B and the overflow store. `e` is the
engine: 0 A, 1 B. -/
def execTeLookup (e : EpNo) (t : Fin 16) (s : State) : Host.Outcome State Fault Refusal :=
  s.on fun now c => c.serveSide (544 + t) e (fun r c => c.teServe now r false) fun r ws c => c.teTaken now r ws

/-- TE_LOOKUP_LEARN (R205): A lookup that, on a miss in a learning table, inserts the key with the data carried. -/
def execTeLookupLearn (e : EpNo) (t : Fin 16) (s : State) : Host.Outcome State Fault Refusal :=
  s.on fun now c => c.serveSide (560 + t) e (fun r c => c.teServe now r false) fun r ws c => c.teTaken now r ws

/-- INSERT (R206): A WRITE op that inserts a key, ending with EXISTS if the key is present. `oper` says that it is the op
the operator has started through TE_x_OP_CTRL; else the oldest WRITE request of channel 576 is it. -/
def execInsert (e : EpNo) (oper : Bool) (s : State) : Host.Outcome State Fault Refusal := s.on fun now c => c.tableOp now e oper 0

/-- UPSERT (R204): A WRITE op that inserts a key or replaces its DATA and STATIC. `oper` says that it is the op the operator has
started through TE_x_OP_CTRL; else the oldest WRITE request of channel 576 is it. -/
def execUpsert (e : EpNo) (oper : Bool) (s : State) : Host.Outcome State Fault Refusal := s.on fun now c => c.tableOp now e oper 1

/-- UPDATE (R204): A WRITE op that replaces DATA, ending with NOT_FOUND if the key is absent. `oper` says that it is the op
the operator has started through TE_x_OP_CTRL; else the oldest WRITE request of channel 576 is it. -/
def execUpdate (e : EpNo) (oper : Bool) (s : State) : Host.Outcome State Fault Refusal := s.on fun now c => c.tableOp now e oper 2

/-- DELETE (R207): A WRITE op that removes a key, ending with NOT_FOUND if the key is absent. `oper` says that it is the op
the operator has started through TE_x_OP_CTRL; else the oldest WRITE request of channel 576 is it. -/
def execDelete (e : EpNo) (oper : Bool) (s : State) : Host.Outcome State Fault Refusal := s.on fun now c => c.tableOp now e oper 3

/-- LPM_ADD (R213): A WRITE op that adds or replaces a prefix, ending with LPM_FULL when no unit is free. `oper` says that it is the op
the operator has started through TE_x_OP_CTRL; else the oldest WRITE request of channel 576 is it. -/
def execLpmAdd (e : EpNo) (oper : Bool) (s : State) : Host.Outcome State Fault Refusal := s.on fun now c => c.tableOp now e oper 4

/-- LPM_DEL (R213): A WRITE op that removes a prefix, ending with NOT_FOUND if the prefix is absent. `oper` says that it is the op the
operator has started through TE_x_OP_CTRL; else the oldest WRITE request of channel 576 is it. -/
def execLpmDel (e : EpNo) (oper : Bool) (s : State) : Host.Outcome State Fault Refusal := s.on fun now c => c.tableOp now e oper 5

/-- OVF_CLEAR (R204): An operator-only WRITE op that empties a table's overflow entries. `oper` says that it is the op the operator has
started through TE_x_OP_CTRL; else the oldest WRITE request of channel 576 is it. -/
def execOvfClear (e : EpNo) (oper : Bool) (s : State) : Host.Outcome State Fault Refusal := s.on fun now c => c.tableOp now e oper 6

/-- LPM_LOOKUP (R213): An LPM lookup returns the data of the longest matching prefix, or DEFAULT on a miss. -/
def execLpmLookup (e : EpNo) (l : Fin 8) (s : State) : Host.Outcome State Fault Refusal :=
  s.on fun now c => c.serveSide (577 + l) e (fun r c => c.lpmServe now r false) fun r ws c => c.lpmTaken now r ws

/-- COUNT (R214): A COUNT request adds bytes and packets to a counter store entry through the counter cache. -/
def execCount (e : EpNo) (s : State) : Host.Outcome State Fault Refusal :=
  s.on fun now c => c.serveSide 585 e (fun r c => c.teCount now r) fun r _ c => c.teCount now r

/-- CNT_FLUSH (R214): Writing TE_x_CNT_CTRL.FLUSH starts the write-back of every dirty counter cache line. -/
def execCntFlush (e : EpNo) (s : State) : Host.Outcome State Fault Refusal := s.on fun now c => c.regWrite now (A.TE_CNT_CTRL e) [1]

/-- CNT_FLUSH_DONE (R214): The last write-back of a flush completes, and FLUSH_BUSY clears. -/
def execCntFlushDone (e : EpNo) (s : State) : Host.Outcome State Fault Refusal := s.on fun _ c => c.flushDone_ e

/-- SWEEP_VISIT (R210): The table's sweeper visits an entry and clears HIT, sets STALE or removes the entry. -/
def execSweepVisit (e : EpNo) (t : Fin 16) (s : State) : Host.Outcome State Fault Refusal := s.on fun now c => c.sweepVisit now e t

/-- EMT_WRITE (R219): A PUT of TE_x_EMT(t) that changes the fields permitted while enabled, or that enables, disables or invalidates the
flow cache. A write that enables the table keeps its words until the scan ends. -/
def execEmtWrite (e : EpNo) (t : Fin 16) (words : List Word) (s : State) : Host.Outcome State Fault Refusal :=
  s.on fun now c => c.emtWrite now e t words

/-- TABLE_SCAN_END (R218): The enable scan of a table ends, with the table enabled or left disabled with BAD_IMAGE or POISONED. -/
def execTableScanEnd (e : EpNo) (t : Fin 16) (s : State) : Host.Outcome State Fault Refusal := s.on fun now c => c.scanEnd now e t

end Sys2Proof.Machine
end

