-- ==== Sys2Proof/Machine/Tap.lean ====
section
/-! DEFINITION. The test access port (spec/19_pins_electrical.md). One meaning for every command; the operations they call say what each does. -/

namespace Sys2Proof.Machine

/-- EXTEST (R495): TAP instruction that drives the boundary scan register onto the pins. -/
def execExtest (s : State) : Host.Outcome State Fault Refusal := s.on fun _ c => c.tapLoad 0x00

/-- IDCODE (R495): TAP instruction that selects the 32-bit IDCODE register. -/
def execIdcode (s : State) : Host.Outcome State Fault Refusal := s.on fun _ c => c.tapIdcode

/-- SAMPLE_PRELOAD (R495): TAP instruction that samples and preloads the boundary scan register. `pins` is what the chain samples, `value`
what is shifted in. -/
def execSamplePreload (pins : List Byte) (value : Nat) (s : State) : Host.Outcome State Fault Refusal :=
  s.on fun _ c => c.tapSample pins value

/-- HIGHZ (R495): TAP instruction that places the outputs in high impedance with the bypass register selected. -/
def execHighz (s : State) : Host.Outcome State Fault Refusal := s.on fun _ c => c.tapLoad 0x03

/-- CLAMP (R495): TAP instruction that holds the outputs from the boundary scan register with the bypass register selected. -/
def execClamp (s : State) : Host.Outcome State Fault Refusal := s.on fun _ c => c.tapLoad 0x04

/-- EXTEST_PULSE (R495): IEEE 1149.6 TAP instruction for AC-coupled lanes. -/
def execExtestPulse (s : State) : Host.Outcome State Fault Refusal := s.on fun _ c => c.tapLoad 0x05

/-- EXTEST_TRAIN (R495): IEEE 1149.6 TAP instruction for AC-coupled lanes using a pulse train. -/
def execExtestTrain (s : State) : Host.Outcome State Fault Refusal := s.on fun _ c => c.tapLoad 0x06

/-- BYPASS (R495): TAP instruction that selects the 1-bit bypass register. -/
def execBypass (s : State) : Host.Outcome State Fault Refusal := s.on fun _ c => c.tapLoad 0xFF

/-- CMD_STATUS (R495): TAP instruction that selects the 8-bit status register of the debug port. -/
def execCmdStatus (s : State) : Host.Outcome State Fault Refusal := s.on fun _ c => c.tapStatus

/-- CMD_DATA (R496): Update-DR of CMD_DATA appends 8 packet bytes, and with LAST also submits the packet. -/
def execCmdData (v : Word) (valid last : Bool) (s : State) : Host.Outcome State Fault Refusal := s.on fun _ c => c.tapData v valid last

/-- CMD_DATA_CAPTURE (R496): Capture-DR of CMD_DATA loads the next 8 result bytes. -/
def execCmdDataCapture (s : State) : Host.Outcome State Fault Refusal := s.on fun _ c => c.tapCapture

/-- TAP_RESET (R489): TRST_N goes low, or five TCK cycles pass with TMS high, and the TAP returns to its reset state. -/
def execTapReset (s : State) : Host.Outcome State Fault Refusal := s.on fun _ c => c.tapReset

end Sys2Proof.Machine
end

