-- ==== Sys2Proof/Machine/Traffic.lean ====
section
/-! DEFINITION. Enqueues, copies, selection and the configuration of the Traffic Manager (spec/10_traffic_manager.md). One meaning for every command; the operations they call say what each does. -/

namespace Sys2Proof.Machine

/-- TM_ENQUEUE (R279): The TM judges an enqueue request of a verdict, default or malformed action against the admission checks and admits
it or drops it. -/
def execTmEnqueue (s : State) : Host.Outcome State Fault Refusal := s.on fun now c => c.tmEnqueueNext now

/-- COPY (R292): A COPY request on channel 624 enqueues one more departure of a header bobbin and, optionally, the packet data. -/
def execCopy (s : State) : Host.Outcome State Fault Refusal := s.on fun now c => c.serve 624 fun r c => c.copy now r

/-- QDEPTH (R293): A QDEPTH request on channel 625 returns a queue's occupancy. -/
def execQdepth (s : State) : Host.Outcome State Fault Refusal := s.on fun now c => c.serve 625 fun r c => c.qdepth now r

/-- TM_SELECT (R283): The TM selects the next entry for a port or endpoint by the three scheduling levels and the gate guard. `d` is a
port, or 16 plus an endpoint; `express` names the MAC of a port that asks. -/
def execTmSelect (d : Fin 18) (express : Bool) (s : State) : Host.Outcome State Fault Refusal :=
  s.on fun now c => if d < 16 then c.selectPort now d express else c.selectHost now (d - 16)

/-- TM_FLUSH (R294): A write of TM_FLUSH drops every entry of a disabled queue. -/
def execTmFlush (q : BitVec 17) (s : State) : Host.Outcome State Fault Refusal :=
  s.on fun now c => c.regWrite now A.TM_FLUSH [q.zeroExtend 64]

/-- QUEUE_WRITE (R294): A PUT of a queue context, refused with QUEUE_BUSY where the change needs a disabled, empty queue. -/
def execQueueWrite (n : QpNo) (k : Fin 4) (words : List Word) (s : State) : Host.Outcome State Fault Refusal :=
  s.on fun now c => c.regWrite now (A.TM_QUEUE n + 8 * k.val) words

/-- POLICER_WRITE (R282): A PUT of a policer that checks the rates and bursts and sets the buckets on enable. -/
def execPolicerWrite (pol : Fin 16384) (words : List Word) (s : State) : Host.Outcome State Fault Refusal :=
  s.on fun now c => c.regWrite now (A.TM_POLICER pol) words

/-- GCL_WRITE (R287): A write of a gate control list, refused with LIST_ACTIVE for a list in use. Entries from `k` up, or the header of
the list. -/
def execGclWrite (p : PortNo) (l : Fin 2) (k : Option (Fin 256)) (words : List Word) (s : State) : Host.Outcome State Fault Refusal :=
  s.on fun now c => c.regWrite now (match k with
    | none => A.TM_GCL_HDR p l
    | some k => A.TM_GCL p l k) words

/-- LINKDOWN_EXPIRY (R288): LINK has stayed down for LINKDOWN_US, and the port enters the link-down drop state. -/
def execLinkdownExpiry (p : PortNo) (s : State) : Host.Outcome State Fault Refusal := s.on fun now c => c.linkdownExpiry now p

end Sys2Proof.Machine
end

