-- ==== Sys2Proof/Machine/Dispatch.lean ====
section
/-! DEFINITION. The meaning of every command, one arm per constructor. -/

namespace Sys2Proof.Machine

/-- The effect of command `i` on everything but the queue. -/
def exec (i : Instr) (s : State) : Host.Outcome State Fault Refusal :=
  match i with
  | .add m t rd ra rb => Sys2Proof.Machine.execAdd m t rd ra rb s
  | .sub m t rd ra rb => Sys2Proof.Machine.execSub m t rd ra rb s
  | .and m t rd ra rb => Sys2Proof.Machine.execAnd m t rd ra rb s
  | .or m t rd ra rb => Sys2Proof.Machine.execOr m t rd ra rb s
  | .xor m t rd ra rb => Sys2Proof.Machine.execXor m t rd ra rb s
  | .andn m t rd ra rb => Sys2Proof.Machine.execAndn m t rd ra rb s
  | .sll m t rd ra rb => Sys2Proof.Machine.execSll m t rd ra rb s
  | .srl m t rd ra rb => Sys2Proof.Machine.execSrl m t rd ra rb s
  | .sra m t rd ra rb => Sys2Proof.Machine.execSra m t rd ra rb s
  | .rol m t rd ra rb => Sys2Proof.Machine.execRol m t rd ra rb s
  | .min m t rd ra rb => Sys2Proof.Machine.execMin m t rd ra rb s
  | .max m t rd ra rb => Sys2Proof.Machine.execMax m t rd ra rb s
  | .minu m t rd ra rb => Sys2Proof.Machine.execMinu m t rd ra rb s
  | .maxu m t rd ra rb => Sys2Proof.Machine.execMaxu m t rd ra rb s
  | .slt m t rd ra rb => Sys2Proof.Machine.execSlt m t rd ra rb s
  | .sltu m t rd ra rb => Sys2Proof.Machine.execSltu m t rd ra rb s
  | .seq m t rd ra rb => Sys2Proof.Machine.execSeq m t rd ra rb s
  | .mul m t rd ra rb => Sys2Proof.Machine.execMul m t rd ra rb s
  | .mulhu m t rd ra rb => Sys2Proof.Machine.execMulhu m t rd ra rb s
  | .csum m t rd ra rb => Sys2Proof.Machine.execCsum m t rd ra rb s
  | .crc m t rd ra rb => Sys2Proof.Machine.execCrc m t rd ra rb s
  | .bswap16 m t rd ra rb => Sys2Proof.Machine.execBswap16 m t rd ra rb s
  | .bswap32 m t rd ra rb => Sys2Proof.Machine.execBswap32 m t rd ra rb s
  | .bswap64 m t rd ra rb => Sys2Proof.Machine.execBswap64 m t rd ra rb s
  | .clz m t rd ra rb => Sys2Proof.Machine.execClz m t rd ra rb s
  | .ctz m t rd ra rb => Sys2Proof.Machine.execCtz m t rd ra rb s
  | .popc m t rd ra rb => Sys2Proof.Machine.execPopc m t rd ra rb s
  | .addi m t rd ra imm => Sys2Proof.Machine.execAddi m t rd ra imm s
  | .andi m t rd ra imm => Sys2Proof.Machine.execAndi m t rd ra imm s
  | .ori m t rd ra imm => Sys2Proof.Machine.execOri m t rd ra imm s
  | .xori m t rd ra imm => Sys2Proof.Machine.execXori m t rd ra imm s
  | .slli m t rd ra amount mbz => Sys2Proof.Machine.execSlli m t rd ra amount mbz s
  | .srli m t rd ra amount mbz => Sys2Proof.Machine.execSrli m t rd ra amount mbz s
  | .srai m t rd ra amount mbz => Sys2Proof.Machine.execSrai m t rd ra amount mbz s
  | .roli m t rd ra amount mbz => Sys2Proof.Machine.execRoli m t rd ra amount mbz s
  | .movz m t rd h imm mbz => Sys2Proof.Machine.execMovz m t rd h imm mbz s
  | .movk m t rd h imm mbz => Sys2Proof.Machine.execMovk m t rd h imm mbz s
  | .seqi m t rd ra imm => Sys2Proof.Machine.execSeqi m t rd ra imm s
  | .sltiu m t rd ra imm => Sys2Proof.Machine.execSltiu m t rd ra imm s
  | .bext m t rd ra lsb width1 mbz => Sys2Proof.Machine.execBext m t rd ra lsb width1 mbz s
  | .bins m t rd ra lsb width1 mbz => Sys2Proof.Machine.execBins m t rd ra lsb width1 mbz s
  | .ld m t rd ra sp sz x off => Sys2Proof.Machine.execLd m t rd ra sp sz x off s
  | .packetDataLoadReturn m t k => Sys2Proof.Machine.execPacketDataLoadReturn m t k s
  | .st m t rs ra sp sz x off => Sys2Proof.Machine.execSt m t rs ra sp sz x off s
  | .aadd m t rd ra rb => Sys2Proof.Machine.execAadd m t rd ra rb s
  | .aswp m t rd ra rb => Sys2Proof.Machine.execAswp m t rd ra rb s
  | .acas m t rd ra rb => Sys2Proof.Machine.execAcas m t rd ra rb s
  | .amaxu m t rd ra rb => Sys2Proof.Machine.execAmaxu m t rd ra rb s
  | .beq m t ra rb target => Sys2Proof.Machine.execBeq m t ra rb target s
  | .bne m t ra rb target => Sys2Proof.Machine.execBne m t ra rb target s
  | .blt m t ra rb target => Sys2Proof.Machine.execBlt m t ra rb target s
  | .bge m t ra rb target => Sys2Proof.Machine.execBge m t ra rb target s
  | .bltu m t ra rb target => Sys2Proof.Machine.execBltu m t ra rb target s
  | .bgeu m t ra rb target => Sys2Proof.Machine.execBgeu m t ra rb target s
  | .jmp m t target mbz => Sys2Proof.Machine.execJmp m t target mbz s
  | .call m t target mbz => Sys2Proof.Machine.execCall m t target mbz s
  | .ret m t mbz => Sys2Proof.Machine.execRet m t mbz s
  | .jr m t ra mbz => Sys2Proof.Machine.execJr m t ra mbz s
  | .mfs m t rd n mbz => Sys2Proof.Machine.execMfs m t rd n mbz s
  | .mts m t n ra mbz => Sys2Proof.Machine.execMts m t n ra mbz s
  | .time m t rd rb mbz => Sys2Proof.Machine.execTime m t rd rb mbz s
  | .mto m t n ra mbz => Sys2Proof.Machine.execMto m t n ra mbz s
  | .mfi m t rd n mbz => Sys2Proof.Machine.execMfi m t rd n mbz s
  | .send m t ra chan n1 mbz => Sys2Proof.Machine.execSend m t ra chan n1 mbz s
  | .sendt m t ra chan n1 mbz => Sys2Proof.Machine.execSendt m t ra chan n1 mbz s
  | .recv m t ra chan mbz => Sys2Proof.Machine.execRecv m t ra chan mbz s
  | .recvt m t ra chan mbz => Sys2Proof.Machine.execRecvt m t ra chan mbz s
  | .fork m t rd target mbz => Sys2Proof.Machine.execFork m t rd target mbz s
  | .forkw m t rd target mbz => Sys2Proof.Machine.execForkw m t rd target mbz s
  | .join m t rd ra mbz => Sys2Proof.Machine.execJoin m t rd ra mbz s
  | .exit m t ra mbz => Sys2Proof.Machine.execExit m t ra mbz s
  | .verd m t ra rb mbz => Sys2Proof.Machine.execVerd m t ra rb mbz s
  | .malf m t mbz => Sys2Proof.Machine.execMalf m t mbz s
  | .brk m t imm mbz => Sys2Proof.Machine.execBrk m t imm mbz s
  | .threadStart m t => Sys2Proof.Machine.execThreadStart m t s
  | .recvDeliver m ch t => Sys2Proof.Machine.execRecvDeliver m ch t s
  | .sendCreditGrant m ch => Sys2Proof.Machine.execSendCreditGrant m ch s
  | .forkwGrant m => Sys2Proof.Machine.execForkwGrant m s
  | .joinWake m t => Sys2Proof.Machine.execJoinWake m t s
  | .waitTimeout m t => Sys2Proof.Machine.execWaitTimeout m t s
  | .remoteMessageArrival src dst => Sys2Proof.Machine.execRemoteMessageArrival src dst s
  | .remoteCreditReturn src dst => Sys2Proof.Machine.execRemoteCreditReturn src dst s
  | .engineReply m t ch => Sys2Proof.Machine.execEngineReply m t ch s
  | .stallLimitExpiry m => Sys2Proof.Machine.execStallLimitExpiry m s
  | .xstallPoll => Sys2Proof.Machine.execXstallPoll s
  | .halt m t => Sys2Proof.Machine.execHalt m t s
  | .resume m t => Sys2Proof.Machine.execResume m t s
  | .step m t => Sys2Proof.Machine.execStep m t s
  | .stepComplete m t => Sys2Proof.Machine.execStepComplete m t s
  | .kill m t => Sys2Proof.Machine.execKill m t s
  | .haltAll m => Sys2Proof.Machine.execHaltAll m s
  | .resumeAll m => Sys2Proof.Machine.execResumeAll m s
  | .dbgCtrlWrite m v => Sys2Proof.Machine.execDbgCtrlWrite m v s
  | .residentStart m k entry prio => Sys2Proof.Machine.execResidentStart m k entry prio s
  | .chanWrite m ch v => Sys2Proof.Machine.execChanWrite m ch v s
  | .frameReceive p smd bytes pcs fecOk fecBad => Sys2Proof.Machine.execFrameReceive p smd bytes pcs fecOk fecBad s
  | .poolAllocation g => Sys2Proof.Machine.execPoolAllocation g s
  | .dispatch => Sys2Proof.Machine.execDispatch s
  | .dispatchThreadTake m => Sys2Proof.Machine.execDispatchThreadTake m s
  | .tentativeComplete pk ch => Sys2Proof.Machine.execTentativeComplete pk ch s
  | .holdExpiry pk ch => Sys2Proof.Machine.execHoldExpiry pk ch s
  | .orderStageRelease m => Sys2Proof.Machine.execOrderStageRelease m s
  | .clLookup b => Sys2Proof.Machine.execClLookup b s
  | .scan => Sys2Proof.Machine.execScan s
  | .schemeWrite b v => Sys2Proof.Machine.execSchemeWrite b v s
  | .ruleWrite n k words => Sys2Proof.Machine.execRuleWrite n k words s
  | .versionRetire b => Sys2Proof.Machine.execVersionRetire b s
  | .retirementPassEnd b => Sys2Proof.Machine.execRetirementPassEnd b s
  | .teLookup e t => Sys2Proof.Machine.execTeLookup e t s
  | .teLookupLearn e t => Sys2Proof.Machine.execTeLookupLearn e t s
  | .insert e oper => Sys2Proof.Machine.execInsert e oper s
  | .upsert e oper => Sys2Proof.Machine.execUpsert e oper s
  | .update e oper => Sys2Proof.Machine.execUpdate e oper s
  | .delete e oper => Sys2Proof.Machine.execDelete e oper s
  | .lpmAdd e oper => Sys2Proof.Machine.execLpmAdd e oper s
  | .lpmDel e oper => Sys2Proof.Machine.execLpmDel e oper s
  | .ovfClear e oper => Sys2Proof.Machine.execOvfClear e oper s
  | .lpmLookup e l => Sys2Proof.Machine.execLpmLookup e l s
  | .count e => Sys2Proof.Machine.execCount e s
  | .cntFlush e => Sys2Proof.Machine.execCntFlush e s
  | .cntFlushDone e => Sys2Proof.Machine.execCntFlushDone e s
  | .sweepVisit e t => Sys2Proof.Machine.execSweepVisit e t s
  | .emtWrite e t words => Sys2Proof.Machine.execEmtWrite e t words s
  | .tableScanEnd e t => Sys2Proof.Machine.execTableScanEnd e t s
  | .alloc => Sys2Proof.Machine.execAlloc s
  | .share => Sys2Proof.Machine.execShare s
  | .release => Sys2Proof.Machine.execRelease s
  | .bpWrite => Sys2Proof.Machine.execBpWrite s
  | .poolWrite p words => Sys2Proof.Machine.execPoolWrite p words s
  | .tmEnqueue => Sys2Proof.Machine.execTmEnqueue s
  | .copy => Sys2Proof.Machine.execCopy s
  | .qdepth => Sys2Proof.Machine.execQdepth s
  | .tmSelect d express => Sys2Proof.Machine.execTmSelect d express s
  | .tmFlush q => Sys2Proof.Machine.execTmFlush q s
  | .queueWrite n k words => Sys2Proof.Machine.execQueueWrite n k words s
  | .policerWrite pol words => Sys2Proof.Machine.execPolicerWrite pol words s
  | .gclWrite p l k words => Sys2Proof.Machine.execGclWrite p l k words s
  | .linkdownExpiry p => Sys2Proof.Machine.execLinkdownExpiry p s
  | .txFrameStart p express => Sys2Proof.Machine.execTxFrameStart p express s
  | .txFrameEnd p express => Sys2Proof.Machine.execTxFrameEnd p express s
  | .portEnable p v => Sys2Proof.Machine.execPortEnable p v s
  | .portDisable p v => Sys2Proof.Machine.execPortDisable p v s
  | .groupModeWrite g v => Sys2Proof.Machine.execGroupModeWrite g v s
  | .linkUp p => Sys2Proof.Machine.execLinkUp p s
  | .linkDown p => Sys2Proof.Machine.execLinkDown p s
  | .pauseFrameReceive p bytes => Sys2Proof.Machine.execPauseFrameReceive p bytes s
  | .pauseTimerExpiry p => Sys2Proof.Machine.execPauseTimerExpiry p s
  | .weirRefresh p => Sys2Proof.Machine.execWeirRefresh p s
  | .peerDelayResult p delay => Sys2Proof.Machine.execPeerDelayResult p delay s
  | .verifyTimer p => Sys2Proof.Machine.execVerifyTimer p s
  | .respondMpacketReceive p => Sys2Proof.Machine.execRespondMpacketReceive p s
  | .verifyMpacketReceive p => Sys2Proof.Machine.execVerifyMpacketReceive p s
  | .tsTailWrite g v => Sys2Proof.Machine.execTsTailWrite g v s
  | .cipherJob xts => Sys2Proof.Machine.execCipherJob xts s
  | .install ctx ktk => Sys2Proof.Machine.execInstall ctx ktk s
  | .remove ctx => Sys2Proof.Machine.execRemove ctx s
  | .removeTakesEffect ctx => Sys2Proof.Machine.execRemoveTakesEffect ctx s
  | .ctxFlush => Sys2Proof.Machine.execCtxFlush s
  | .readState ctx => Sys2Proof.Machine.execReadState ctx s
  | .stReceive => Sys2Proof.Machine.execStReceive s
  | .stTransmit => Sys2Proof.Machine.execStTransmit s
  | .connWrite n k words => Sys2Proof.Machine.execConnWrite n k words s
  | .mboxGo e bytes len poison bad pasid => Sys2Proof.Machine.execMboxGo e bytes len poison bad pasid s
  | .cmdqDoorbell e k n poison pasid value => Sys2Proof.Machine.execCmdqDoorbell e k n poison pasid value s
  | .txTail e sl whole poison pasid value index rsv => Sys2Proof.Machine.execTxTail e sl whole poison pasid value index rsv s
  | .rxTail e sl whole poison pasid value index rsv => Sys2Proof.Machine.execRxTail e sl whole poison pasid value index rsv s
  | .cqHead e sl whole poison pasid value index rsv => Sys2Proof.Machine.execCqHead e sl whole poison pasid value index rsv s
  | .cqArm e sl whole poison pasid value index rsv => Sys2Proof.Machine.execCqArm e sl whole poison pasid value index rsv s
  | .stTail e sl whole poison pasid value index rsv => Sys2Proof.Machine.execStTail e sl whole poison pasid value index rsv s
  | .descriptorFetch n rx => Sys2Proof.Machine.execDescriptorFetch n rx s
  | .transmitJob n => Sys2Proof.Machine.execTransmitJob n s
  | .hostTxCountPoint n => Sys2Proof.Machine.execHostTxCountPoint n s
  | .receiveJob n => Sys2Proof.Machine.execReceiveJob n s
  | .interruptHoldoffExpiry n => Sys2Proof.Machine.execInterruptHoldoffExpiry n s
  | .qpEnable n v => Sys2Proof.Machine.execQpEnable n v s
  | .qpDisable n v => Sys2Proof.Machine.execQpDisable n v s
  | .restart n v => Sys2Proof.Machine.execRestart n v s
  | .dmaModeSwitch => Sys2Proof.Machine.execDmaModeSwitch s
  | .quotaWrite sl w1 w2 => Sys2Proof.Machine.execQuotaWrite sl w1 w2 s
  | .pcieCompletion e f tag ok bytes poison => Sys2Proof.Machine.execPcieCompletion e f tag ok bytes poison s
  | .completionTimeout e tag => Sys2Proof.Machine.execCompletionTimeout e tag s
  | .tagQuarantineExpiry e tag => Sys2Proof.Machine.execTagQuarantineExpiry e tag s
  | .peerRequest e t write off len bytes poison pasid => Sys2Proof.Machine.execPeerRequest e t write off len bytes poison pasid s
  | .peerSwitch e => Sys2Proof.Machine.execPeerSwitch e s
  | .peerWindowWrite e b win words => Sys2Proof.Machine.execPeerWindowWrite e b win words s
  | .pcieLinkUp e rate width => Sys2Proof.Machine.execPcieLinkUp e rate width s
  | .surpriseLinkDown e => Sys2Proof.Machine.execSurpriseLinkDown e s
  | .hotReset e => Sys2Proof.Machine.execHotReset e s
  | .functionLevelReset e f => Sys2Proof.Machine.execFunctionLevelReset e f s
  | .busMasterDisable e f => Sys2Proof.Machine.execBusMasterDisable e f s
  | .busMasterEnable e f => Sys2Proof.Machine.execBusMasterEnable e f s
  | .powerStateChange e f d3 => Sys2Proof.Machine.execPowerStateChange e f d3 s
  | .malformedTlp e f => Sys2Proof.Machine.execMalformedTlp e f s
  | .fundamentalReset e => Sys2Proof.Machine.execFundamentalReset e s
  | .epCtrlWrite e v => Sys2Proof.Machine.execEpCtrlWrite e v s
  | .topologyWrite v => Sys2Proof.Machine.execTopologyWrite v s
  | .commandPacket k => Sys2Proof.Machine.execCommandPacket k s
  | .commandFrame p bytes => Sys2Proof.Machine.execCommandFrame p bytes s
  | .put k addr words => Sys2Proof.Machine.execPut k addr words s
  | .get k addr len => Sys2Proof.Machine.execGet k addr len s
  | .fill k addr len v => Sys2Proof.Machine.execFill k addr len v s
  | .loadImageBegin k session target index total bytes => Sys2Proof.Machine.execLoadImageBegin k session target index total bytes s
  | .loadImageData k session offset bytes => Sys2Proof.Machine.execLoadImageData k session offset bytes s
  | .loadImageEnd k session => Sys2Proof.Machine.execLoadImageEnd k session s
  | .loadImageAbort k session => Sys2Proof.Machine.execLoadImageAbort k session s
  | .sessionTimeout session => Sys2Proof.Machine.execSessionTimeout session s
  | .stage k group reset items => Sys2Proof.Machine.execStage k group reset items s
  | .commitAt k dt frac kind arg0 arg1 => Sys2Proof.Machine.execCommitAt k dt frac kind arg0 arg1 s
  | .waitUntil k dt frac => Sys2Proof.Machine.execWaitUntil k dt frac s
  | .waitUntilDone k => Sys2Proof.Machine.execWaitUntilDone k s
  | .resizeSlice k slice mask quotas rate dt frac => Sys2Proof.Machine.execResizeSlice k slice mask quotas rate dt frac s
  | .bind k slice e pasid => Sys2Proof.Machine.execBind k slice e pasid s
  | .unbind k slice => Sys2Proof.Machine.execUnbind k slice s
  | .sluiceRelease k e => Sys2Proof.Machine.execSluiceRelease k e s
  | .mode k target => Sys2Proof.Machine.execMode k target s
  | .keyRoll k slot remove blob => Sys2Proof.Machine.execKeyRoll k slot remove blob s
  | .keyRollDone k ok => Sys2Proof.Machine.execKeyRollDone k ok s
  | .journalRead k fromSeq count => Sys2Proof.Machine.execJournalRead k fromSeq count s
  | .debug k m op t read => Sys2Proof.Machine.execDebug k m op t read s
  | .i2cBlockWrite bytes => Sys2Proof.Machine.execI2cBlockWrite bytes s
  | .i2cSubmit v => Sys2Proof.Machine.execI2cSubmit v s
  | .i2cBlockRead => Sys2Proof.Machine.execI2cBlockRead s
  | .i2cStatusRead => Sys2Proof.Machine.execI2cStatusRead s
  | .stateWordRead => Sys2Proof.Machine.execStateWordRead s
  | .extest => Sys2Proof.Machine.execExtest s
  | .idcode => Sys2Proof.Machine.execIdcode s
  | .samplePreload pins value => Sys2Proof.Machine.execSamplePreload pins value s
  | .highz => Sys2Proof.Machine.execHighz s
  | .clamp => Sys2Proof.Machine.execClamp s
  | .extestPulse => Sys2Proof.Machine.execExtestPulse s
  | .extestTrain => Sys2Proof.Machine.execExtestTrain s
  | .bypass => Sys2Proof.Machine.execBypass s
  | .cmdStatus => Sys2Proof.Machine.execCmdStatus s
  | .cmdData v valid last => Sys2Proof.Machine.execCmdData v valid last s
  | .cmdDataCapture => Sys2Proof.Machine.execCmdDataCapture s
  | .satPending n v => Sys2Proof.Machine.execSatPending n v s
  | .satCancel n v => Sys2Proof.Machine.execSatCancel n v s
  | .satFree n v => Sys2Proof.Machine.execSatFree n v s
  | .satWordWrite n k v => Sys2Proof.Machine.execSatWordWrite n k v s
  | .satArm n => Sys2Proof.Machine.execSatArm n s
  | .satKeyedDone n => Sys2Proof.Machine.execSatKeyedDone n s
  | .stageWriteApply n => Sys2Proof.Machine.execStageWriteApply n s
  | .satPut64 n => Sys2Proof.Machine.execSatPut64 n s
  | .satMode n => Sys2Proof.Machine.execSatMode n s
  | .satGpio n => Sys2Proof.Machine.execSatGpio n s
  | .satSignal n => Sys2Proof.Machine.execSatSignal n s
  | .timeStep => Sys2Proof.Machine.execTimeStep s
  | .timeSyncWord isl dt frac err => Sys2Proof.Machine.execTimeSyncWord isl dt frac err s
  | .ppsInEdge => Sys2Proof.Machine.execPpsInEdge s
  | .ppsOutEdge => Sys2Proof.Machine.execPpsOutEdge s
  | .sourceLossTimeout => Sys2Proof.Machine.execSourceLossTimeout s
  | .servoLock => Sys2Proof.Machine.execServoLock s
  | .channelTrained ch port pin ps => Sys2Proof.Machine.execChannelTrained ch port pin ps s
  | .qdrRetrain ch port pin ps => Sys2Proof.Machine.execQdrRetrain ch port pin ps s
  | .portTrainingEnd ch port fails pin ps => Sys2Proof.Machine.execPortTrainingEnd ch port fails pin ps s
  | .qdrScrub ch upset => Sys2Proof.Machine.execQdrScrub ch upset s
  | .sramScrub upset => Sys2Proof.Machine.execSramScrub upset s
  | .qdrCfgWrite ch v => Sys2Proof.Machine.execQdrCfgWrite ch v s
  | .journalMirror ok => Sys2Proof.Machine.execJournalMirror ok s
  | .countReport => Sys2Proof.Machine.execCountReport s
  | .bwWindowClose => Sys2Proof.Machine.execBwWindowClose s
  | .billMinuteClose => Sys2Proof.Machine.execBillMinuteClose s
  | .bwTailWrite v => Sys2Proof.Machine.execBwTailWrite v s
  | .billTailWrite v => Sys2Proof.Machine.execBillTailWrite v s
  | .telemetryStatePeriod => Sys2Proof.Machine.execTelemetryStatePeriod s
  | .smpModeSet addr edge => Sys2Proof.Machine.execSmpModeSet addr edge s
  | .smpModeLoad addr => Sys2Proof.Machine.execSmpModeLoad addr s
  | .steerWrite n words => Sys2Proof.Machine.execSteerWrite n words s
  | .recipeWrite r words => Sys2Proof.Machine.execRecipeWrite r words s
  | .invalidate v => Sys2Proof.Machine.execInvalidate v s
  | .drainCfgWrite v => Sys2Proof.Machine.execDrainCfgWrite v s
  | .drained => Sys2Proof.Machine.execDrained s
  | .drainTimeout => Sys2Proof.Machine.execDrainTimeout s
  | .standbyPowerDown => Sys2Proof.Machine.execStandbyPowerDown s
  | .standbyWorkTimeout => Sys2Proof.Machine.execStandbyWorkTimeout s
  | .keepalive => Sys2Proof.Machine.execKeepalive s
  | .wakeGpio level => Sys2Proof.Machine.execWakeGpio level s
  | .selfTestEnd isl qdr eng => Sys2Proof.Machine.execSelfTestEnd isl qdr eng s
  | .firmwareStart => Sys2Proof.Machine.execFirmwareStart s
  | .activate => Sys2Proof.Machine.execActivate s
  | .fwRestartEnd => Sys2Proof.Machine.execFwRestartEnd s
  | .raiseSvn v => Sys2Proof.Machine.execRaiseSvn v s
  | .revokeKey0 => Sys2Proof.Machine.execRevokeKey0 s
  | .dumpGo e => Sys2Proof.Machine.execDumpGo e s
  | .suppliesRemoved => Sys2Proof.Machine.execSuppliesRemoved s
  | .suppliesInRange => Sys2Proof.Machine.execSuppliesInRange s
  | .coldReset pin => Sys2Proof.Machine.execColdReset pin s
  | .resetRelease => Sys2Proof.Machine.execResetRelease s
  | .supplyRangeExit => Sys2Proof.Machine.execSupplyRangeExit s
  | .warmReset => Sys2Proof.Machine.execWarmReset s
  | .wdogWrite v => Sys2Proof.Machine.execWdogWrite v s
  | .watchdogExpiry => Sys2Proof.Machine.execWatchdogExpiry s
  | .islandFence t => Sys2Proof.Machine.execIslandFence t s
  | .islandReset t => Sys2Proof.Machine.execIslandReset t s
  | .fencedReached t => Sys2Proof.Machine.execFencedReached t s
  | .boundaryOpen t => Sys2Proof.Machine.execBoundaryOpen t s
  | .autoReopen t => Sys2Proof.Machine.execAutoReopen t s
  | .domainPowerOn d => Sys2Proof.Machine.execDomainPowerOn d s
  | .domainPowerOff d => Sys2Proof.Machine.execDomainPowerOff d s
  | .powerGoodTimeout d => Sys2Proof.Machine.execPowerGoodTimeout d s
  | .millClockWrite m mhz => Sys2Proof.Machine.execMillClockWrite m mhz s
  | .avsStep n up => Sys2Proof.Machine.execAvsStep n up s
  | .thermalThreshold temp => Sys2Proof.Machine.execThermalThreshold temp s
  | .pllLockLoss pll => Sys2Proof.Machine.execPllLockLoss pll s
  | .faultTailWrite v => Sys2Proof.Machine.execFaultTailWrite v s
  | .linkDisable e => Sys2Proof.Machine.execLinkDisable e s
  | .perstDeassert e => Sys2Proof.Machine.execPerstDeassert e s
  | .msixUnmask e v addr data poison pasid => Sys2Proof.Machine.execMsixUnmask e v addr data poison pasid s
  | .pathUncorrectableError e => Sys2Proof.Machine.execPathUncorrectableError e s
  | .imageFlashWriteDone k ok => Sys2Proof.Machine.execImageFlashWriteDone k ok s
  | .journalFlashReadDone k => Sys2Proof.Machine.execJournalFlashReadDone k s
  | .millClockChangeDone m => Sys2Proof.Machine.execMillClockChangeDone m s
  | .tapReset => Sys2Proof.Machine.execTapReset s

end Sys2Proof.Machine
end

