-- ==== Sys2Proof/Machine/Step.lean ====
section
/-! DEFINITION. One step: the command at the front of the queue, or, with nothing waiting, the passing of time. -/

namespace Sys2Proof.Machine

/-- With no command waiting, 1/8 ns of the reference passes: device time counts it at the rate in force, in a mode that keeps it (R41, R42,
R45; entry 1). -/
def State.tick (s : State) : State :=
  if 3 ≤ s.chip.mode then
    let n := ((0x2000 : Int) * (2 ^ 40 + s.chip.ftRate)).toNat + s.chip.ft.resid
    { s with time := s.time + n / 2 ^ 40, chip := { s.chip with ft := { s.chip.ft with resid := n % 2 ^ 40 } } }
  else s

/-- One step of the block: commands run first in, first out. -/
def step (s : State) : Host.Outcome State Fault Refusal :=
  match s.pending with
  | [] => .next s.tick
  | i :: rest => exec i { s with pending := rest }

/-- The command a word spells, put at the front of the queue; no word spells one. -/
def State.withFetchWord (s : State) (nbits w : Nat) : State :=
  match decodeTableWord nbits w with
  | some i => { s with pending := i :: s.pending }
  | none => s

end Sys2Proof.Machine
end

