-- ==== Sys2Proof/Safety.lean ====
section
/-! DEFINITION. The terms in which the claims speak: the adapter as a command finds it, the state a command leaves, what a sound state is,
when a thread can issue. -/

namespace Sys2Proof.Machine

/-! ### A command and its step -/

/-- The adapter as a command finds it, with nothing left over of an earlier step. -/
def State.found (s : State) : Chip := { s.chip with due := [] }

/-- The state left by a command whose own effect turns the adapter into `c`: what follows within its step is done (`Chip.settle`: class
actions of faults, waits that end, the stall measurement), a requested step of device time taken, the queue kept. -/
def State.done (s : State) (c : Chip) : State := s.stepped (c.settle s.time)

/-! ### Sound states -/

/-- Nothing of a step is left over: no class action, wait or resize still due, no step of device time still asked for. -/
def Chip.settled (c : Chip) : Bool := c.due.isEmpty && c.ft.stepTo.isNone

/-- The stall measurement of every Mill runs exactly while its stall condition holds (R124). -/
def Chip.measured (c : Chip) : Bool := (List.range 16).all fun m => (c.mill m).stall.isSome == c.stalled m

/-- The registers and the byte memories are in canonical form: indices rising, no entry equal to what an unlisted index reads as. -/
def Chip.canonical (c : Chip) : Bool :=
  mwf resetWord c.regs && c.mem.bob.wf && c.mem.qdr.wf && mwf (fun _ => Mill.init) c.mills

/-- A sound state between steps. -/
def State.sound (s : State) : Bool := s.chip.settled && s.chip.measured && s.chip.canonical

/-- The modes in which device time never steps backward (R45): Service, Degraded Service, Drain, Update. -/
def Chip.steady (c : Chip) : Bool :=
  c.mode == Mode.service || c.mode == Mode.degraded || c.mode == Mode.drain || c.mode == Mode.update

/-- Nothing but the command itself moves within a step: no fault action due, no state dump started, no MODE word waiting for the end of
work, for Standby or for a wake, no step of device time asked for. -/
def Chip.calm (c : Chip) : Bool :=
  c.settled && !c.flag A.CP_DUMP_CTRL F.CP_DUMP_CTRL_BUSY && c.pwr.standby.isNone
    && (List.range 21).all fun k => c.waiting k != .mode

/-! ### Registers written (R31, R411) -/

/-- The command processor runs in a mode that admits its register writes, and the unit that holds `a` answers. -/
def State.writable (s : State) (a : Nat) : Bool :=
  s.found.pwr.fwRuns && decide (4 ≤ s.found.mode) && s.found.regUp a

/-- The adapter once the fields of the one register from `a` up have taken the words `vs` by their access codes (Table 0-3), before the
register's own rule acts. -/
def Chip.filled (c : Chip) (now a : Nat) (vs : List Word) : Chip :=
  match c.cut a vs with
  | some [.elem e] => c.storeElem now e
  | _ => c

/-- The outcome of a register write that ends with code `st` and leaves the adapter as `c`. -/
def State.wrote (s : State) (st : Status) (c : Chip) : Host.Outcome State Fault Refusal :=
  .next (s.done { c with cmd := { c.cmd with lastStatus := st } })

/-! ### Requests served (R119, R120) -/

/-- The oldest request of channel `ch` that passes `p` and is still to be served, with the requests that stay, where its engine is up. -/
def Chip.front (c : Chip) (ch : Nat) (p : EngReq → Bool) : Option (EngReq × List EngReq) :=
  if c.up (engineTarget ch) then takeFirst (fun r : EngReq => r.chan == ch && !r.owed && p r) c.reqs else none

/-- No tentative result of Prelook can be adopted for request `r` (R149): no packet sent it, or its packet has used the channel before. -/
def Chip.plain (c : Chip) (r : EngReq) : Prop := ∀ pk p, r.pk = some pk → c.pkt pk = some p → memNat r.chan p.asked = true

/-- The outcome of a request served: the reply `ws` to `r`, the adapter otherwise `c`. -/
def State.replied (s : State) (r : EngReq) (ws : List Word) (c : Chip) : Host.Outcome State Fault Refusal :=
  .next (s.done (c.answer r ws))

/-- The host buffers a receive job has taken. -/
def Job.buffers (j : Job) : Nat :=
  match j.kind with
  | .rx _ b _ => b.length
  | .tx _ _ => 0

/-! ### Command words accepted (R405, R406, R411, R447) -/

/-- Context `k` runs the packet `r`, which waits for nothing and has come to the word `w`; the word is authorised, its mode takes it and the
result has room for its record. -/
def Chip.takesWord (c : Chip) (k : Nat) (r : RunPkt) (w : CmdWord) : Bool :=
  let x := wordAt r.bytes r.off
  decide ((c.cmdCtx k).run = some r) && c.cmdRuns && decide (r.wait = .none) && decide (r.off < r.bytes.length)
    && decide (decodeCmd x.1 x.2 = some w) && (r.auth || !c.critical x.1 x.2 || c.waived x.1) && c.modeTakes w
    && decide (64 + r.records.length + 8 + c.bodyLen w ≤ r.origin.limit)

/-- The outcome of a command word of context `k` that ends with code `st` and a result body, the adapter otherwise `c`. -/
def State.ended (s : State) (k : Nat) (st : Status) (body : List Byte) (c : Chip) : Host.Outcome State Fault Refusal :=
  .next (s.done (c.wordEnd s.time k st body))

/-- The outcome of a command word of context `k` in packet `r` that waits for `w`, the adapter otherwise `c`. -/
def State.waitsFor (s : State) (k : Nat) (r : RunPkt) (w : CmdWait) (c : Chip) : Host.Outcome State Fault Refusal :=
  .next (s.done (c.setRun k (some { r with wait := w })))

/-! ### Issue (R78) -/

/-- Thread `t` of Mill `m` can issue: it is ready, no packet data load is outstanding for any of `regs`, and the word at its pc is fetched
without poison. -/
def Chip.fetches (c : Chip) (now m t : Nat) (regs : List Nat) : Bool :=
  let x := c.th m t
  let d := if x.st = 8 then c.setTh m t { x with stepped := true } else c
  c.issuing m && x.ready && !regs.any x.busyReg && !(d.readSram now (48 + m) (x.pc / 8) 0 0).1

/-- Thread `t` of Mill `m` can issue and the word at its pc is `w`. -/
def Chip.issues (c : Chip) (now m t w : Nat) (regs : List Nat) : Bool :=
  c.fetches now m t regs && decide (c.codeWord m (c.th m t).pc = w)

/-- The Mill and thread that issue a Fecia instruction, and the registers that it reads or writes; none for every other command. -/
def issuer : Instr → Option (MillNo × ThreadNo × List Nat)
  | .add m t rd ra rb => some (m, t, [rd, ra, rb])
  | .sub m t rd ra rb => some (m, t, [rd, ra, rb])
  | .and m t rd ra rb => some (m, t, [rd, ra, rb])
  | .or m t rd ra rb => some (m, t, [rd, ra, rb])
  | .xor m t rd ra rb => some (m, t, [rd, ra, rb])
  | .andn m t rd ra rb => some (m, t, [rd, ra, rb])
  | .sll m t rd ra rb => some (m, t, [rd, ra, rb])
  | .srl m t rd ra rb => some (m, t, [rd, ra, rb])
  | .sra m t rd ra rb => some (m, t, [rd, ra, rb])
  | .rol m t rd ra rb => some (m, t, [rd, ra, rb])
  | .min m t rd ra rb => some (m, t, [rd, ra, rb])
  | .max m t rd ra rb => some (m, t, [rd, ra, rb])
  | .minu m t rd ra rb => some (m, t, [rd, ra, rb])
  | .maxu m t rd ra rb => some (m, t, [rd, ra, rb])
  | .slt m t rd ra rb => some (m, t, [rd, ra, rb])
  | .sltu m t rd ra rb => some (m, t, [rd, ra, rb])
  | .seq m t rd ra rb => some (m, t, [rd, ra, rb])
  | .mul m t rd ra rb => some (m, t, [rd, ra, rb])
  | .mulhu m t rd ra rb => some (m, t, [rd, ra, rb])
  | .csum m t rd ra rb => some (m, t, [rd, ra, rb])
  | .crc m t rd ra rb => some (m, t, [rd, ra, rb])
  | .bswap16 m t rd ra _ => some (m, t, [rd, ra])
  | .bswap32 m t rd ra _ => some (m, t, [rd, ra])
  | .bswap64 m t rd ra _ => some (m, t, [rd, ra])
  | .clz m t rd ra _ => some (m, t, [rd, ra])
  | .ctz m t rd ra _ => some (m, t, [rd, ra])
  | .popc m t rd ra _ => some (m, t, [rd, ra])
  | .addi m t rd ra _ => some (m, t, [rd, ra])
  | .andi m t rd ra _ => some (m, t, [rd, ra])
  | .ori m t rd ra _ => some (m, t, [rd, ra])
  | .xori m t rd ra _ => some (m, t, [rd, ra])
  | .seqi m t rd ra _ => some (m, t, [rd, ra])
  | .sltiu m t rd ra _ => some (m, t, [rd, ra])
  | .slli m t rd ra _ _ => some (m, t, [rd, ra])
  | .srli m t rd ra _ _ => some (m, t, [rd, ra])
  | .srai m t rd ra _ _ => some (m, t, [rd, ra])
  | .roli m t rd ra _ _ => some (m, t, [rd, ra])
  | .movz m t rd _ _ _ => some (m, t, [rd, 0])
  | .movk m t rd _ _ _ => some (m, t, [rd, rd])
  | .bext m t rd ra _ _ _ => some (m, t, [rd, ra])
  | .bins m t rd ra _ _ _ => some (m, t, [rd, ra])
  | .ld m t r ra _ _ _ _ => some (m, t, [r, ra])
  | .st m t r ra _ _ _ _ => some (m, t, [r, ra])
  | .aadd m t rd ra rb => some (m, t, [rd, ra, rb])
  | .aswp m t rd ra rb => some (m, t, [rd, ra, rb])
  | .acas m t rd ra rb => some (m, t, [rd, ra, rb])
  | .amaxu m t rd ra rb => some (m, t, [rd, ra, rb])
  | .beq m t ra rb _ => some (m, t, [ra, rb])
  | .bne m t ra rb _ => some (m, t, [ra, rb])
  | .blt m t ra rb _ => some (m, t, [ra, rb])
  | .bge m t ra rb _ => some (m, t, [ra, rb])
  | .bltu m t ra rb _ => some (m, t, [ra, rb])
  | .bgeu m t ra rb _ => some (m, t, [ra, rb])
  | .jmp m t _ _ => some (m, t, [])
  | .call m t _ _ => some (m, t, [])
  | .ret m t _ => some (m, t, [])
  | .jr m t ra _ => some (m, t, [ra])
  | .mfs m t rd _ _ => some (m, t, [rd])
  | .mts m t _ ra _ => some (m, t, [ra])
  | .time m t rd rb _ => some (m, t, [rd, rb])
  | .mto m t _ ra _ => some (m, t, [ra])
  | .mfi m t rd _ _ => some (m, t, [rd])
  | .send m t ra _ _ _ => some (m, t, [ra])
  | .sendt m t ra _ _ _ => some (m, t, [ra])
  | .recv m t ra _ _ => some (m, t, [ra])
  | .recvt m t ra _ _ => some (m, t, [ra])
  | .fork m t rd _ _ => some (m, t, [rd])
  | .forkw m t rd _ _ => some (m, t, [rd])
  | .join m t rd ra _ => some (m, t, [rd, ra])
  | .exit m t ra _ => some (m, t, [ra])
  | .verd m t ra rb _ => some (m, t, [ra, rb])
  | .malf m t _ => some (m, t, [])
  | .brk m t _ _ => some (m, t, [])
  | _ => none

/-- What of an instruction must be 0 (R76, Tables 3-5 to 3-10), as one number: its fields outside the listed ones; the rb of a unary
instruction; X of a store and of an 8-byte load; 1 for a bit field that passes bit 63 (R83). -/
def mustBeZero : Instr → Nat
  | .bswap16 _ _ _ _ rb => rb.val
  | .bswap32 _ _ _ _ rb => rb.val
  | .bswap64 _ _ _ _ rb => rb.val
  | .clz _ _ _ _ rb => rb.val
  | .ctz _ _ _ _ rb => rb.val
  | .popc _ _ _ _ rb => rb.val
  | .slli _ _ _ _ _ z => z.toNat
  | .srli _ _ _ _ _ z => z.toNat
  | .srai _ _ _ _ _ z => z.toNat
  | .roli _ _ _ _ _ z => z.toNat
  | .movz _ _ _ _ _ z => z.toNat
  | .movk _ _ _ _ _ z => z.toNat
  | .bext _ _ _ _ lsb w1 z => z.toNat + if 64 < lsb.toNat + (w1.toNat + 1) then 1 else 0
  | .bins _ _ _ _ lsb w1 z => z.toNat + if 64 < lsb.toNat + (w1.toNat + 1) then 1 else 0
  | .ld _ _ _ _ _ sz x _ => if x && sz.val == 3 then 1 else 0
  | .st _ _ _ _ _ _ x _ => if x then 1 else 0
  | .jmp _ _ _ z => z.toNat
  | .call _ _ _ z => z.toNat
  | .ret _ _ z => z.toNat
  | .jr _ _ _ z => z.toNat
  | .mfs _ _ _ _ z => z.toNat
  | .mts _ _ _ _ z => z.toNat
  | .time _ _ _ _ z => z.toNat
  | .mto _ _ _ _ z => z.toNat
  | .mfi _ _ _ _ z => z.toNat
  | .send _ _ _ _ _ z => z.toNat
  | .sendt _ _ _ _ _ z => z.toNat
  | .recv _ _ _ _ z => z.toNat
  | .recvt _ _ _ _ z => z.toNat
  | .fork _ _ _ _ z => z.toNat
  | .forkw _ _ _ _ z => z.toNat
  | .join _ _ _ _ z => z.toNat
  | .exit _ _ _ z => z.toNat
  | .verd _ _ _ _ z => z.toNat
  | .malf _ _ z => z.toNat
  | .brk _ _ _ z => z.toNat
  | _ => 0

/-- The adapter once the instruction has been issued and counted, before its effect: a STEPPING thread has had its one instruction, a
corrected fetch is written back, core events 0x02 and that of the thread's priority have occurred. -/
def Chip.issued (c : Chip) (now m t : Nat) : Chip :=
  let x := c.th m t
  let d := if x.st = 8 then c.setTh m t { x with stepped := true } else c
  (d.readSram now (48 + m) (x.pc / 8) 0 0).2.events m t x.prio [0x02, 7 - x.prio]

/-- The outcome of an instruction that issues, changes its own thread by `f` and goes on at the next instruction. -/
def State.goesOn (s : State) (m t : Nat) (f : Thread → Thread) : Host.Outcome State Fault Refusal :=
  let c := s.found.issued s.time m t
  .next (s.done (c.setTh m t (f (c.th m t)).next))

/-- The outcome of an instruction that issues, writes register `rd` with a value of its thread's registers and goes on. -/
def State.writes (s : State) (m t rd : Nat) (v : Thread → Word) : Host.Outcome State Fault Refusal :=
  s.goesOn m t fun x => x.setReg rd (v x)

/-- Where thread `t` of Mill `m` can issue the instruction `i`, which reads or writes `regs` and stands at its pc, the outcome is `out`. -/
def State.does (s : State) (m t : Nat) (regs : List Nat) (i : Instr) (out : Host.Outcome State Fault Refusal) : Prop :=
  s.found.issues s.time m t (feciaWord i) regs = true → exec i s = out

/-- The outcome of an instruction that issues and then raises exception `code` (R92). -/
def State.raises (s : State) (m t code : Nat) : Host.Outcome State Fault Refusal :=
  .next (s.done ((s.found.issued s.time m t).exception s.time m t code))

end Sys2Proof.Machine
end

