-- ==== Sys2Proof/Certificates/Slice0/Obligations.lean ====
section
/-! DEFINITION. The statements for the provers, chapter by chapter of the spec. `State.found`, `State.done` and their like (Safety.lean) say
what a command finds and what follows it within its step; an effect is written with the named operations of Machine/. -/

open Sys2Proof Sys2Proof.Machine

/-! ### The block as a whole -/

/-- The step of the block: a command at the front of the queue is run on the state with the rest of the queue. With nothing waiting, 1/8 ns of
the reference passes in a mode that keeps device time, which counts it at the rate in force, and else nothing (the passing of time is the
model's own choice, log entry 1). -/
def Obligations.StepRunsFront : Prop :=
  (∀ (i : Instr) (rest : List Instr) (s : State), s.pending = i :: rest → step s = exec i { s with pending := rest }) ∧
  (∀ s : State, s.pending = [] → 3 ≤ s.chip.mode →
    let n := ((0x2000 : Int) * (2 ^ 40 + s.chip.ftRate)).toNat + s.chip.ft.resid
    step s = .next { s with time := s.time + n / 2 ^ 40, chip := { s.chip with ft := { s.chip.ft with resid := n % 2 ^ 40 } } }) ∧
  (∀ s : State, s.pending = [] → s.chip.mode < 3 → step s = .next s)

/-- No command stops the block: every command at every state answers a next state, and none of them touches the queue. -/
def Obligations.EveryCommandAnswersNext : Prop :=
  ∀ (i : Instr) (s : State), ∃ u : State, exec i s = .next u ∧ u.pending = s.pending

/-- R9, R41, R65: after a cold reset every register reads its Reset column, device time is 0, every thread is FREE, every boundary is as its
domain's reset leaves it, no command waits. That the adapter stands in Boot then is the Reset column of CP_MODE.
The state after reset is sound: nothing is left over, no Mill's stall is measured, every map is in canonical form. -/
def Obligations.ResetState : Prop :=
  ((∀ a, State.reset.chip.rd a = resetWord a) ∧ State.reset.time = 0 ∧ State.reset.pending = [] ∧
  (∀ m t, (State.reset.chip.th m t) = Thread.free) ∧ State.reset.chip.mode = Mode.boot ∧
  (∀ e a, rdByte State.reset.chip.mem.qdr (qdrByte e a) = 0) ∧ (∀ a, rdByte State.reset.chip.mem.bob a = 0)) ∧
  (State.reset.sound = true)

/-- Every step leaves nothing over: what a command makes due (class actions of faults, waits that end, a step of device time) is done within
its own step. -/
def Obligations.StepKeepsSettled : Prop :=
  ∀ s t : State, s.chip.settled = true → step s = .next t → t.chip.settled = true

/-- R124: the stall condition of a Mill, and its measurement, which runs exactly while the condition holds, after every step. -/
def Obligations.StepKeepsMeasured : Prop :=
  (∀ (x : Thread), x.isBlocked = true ↔ x.st = 3 ∨ x.st = 4 ∨ x.st = 5 ∨ x.st = 6) ∧
  (∀ (c : Chip) (m : Nat) (x : Thread), c.liveFor m x = true ↔
    x.st ≠ 0 ∧ ∀ ch, x.wait = .recv ch → ch < 512 → c.flag (A.MA_CHAN m ch) F.MA_CHAN_SERVER = false) ∧
  (∀ (c : Chip) (m : Nat) (x : Thread), c.waitsOut m x = true ↔
    (∃ ch ws m' k, x.wait = .send ch ws ∧ c.chanKind m ch = .remote m' k) ∨
      ∃ ch, x.wait = .recv ch ∧ ch < 512 ∧ c.flag (A.MA_CHAN m ch) F.MA_CHAN_EXTERNAL = true) ∧
  (∀ (c : Chip) (m : Nat), c.stalled m = true ↔
    (∃ e ∈ (c.mill m).threads, c.liveFor m e.2 = true) ∧
    (∀ e ∈ (c.mill m).threads, c.liveFor m e.2 = true → e.2.isBlocked = true ∧ c.wakeable m e.1 e.2 = false ∧ c.waitsOut m e.2 = false) ∧
    ∀ e ∈ (c.mill m).threads, e.2.reqs = 0 ∧ e.2.st ≠ 7 ∧ e.2.st ≠ 8) ∧
  (∀ s t : State, s.chip.measured = true → step s = .next t → t.chip.measured = true)

/-- R45: in Service, Degraded Service, Drain and Update device time never steps backward, whatever the command, a cold reset and a loss of the
supplies apart. -/
def Obligations.DeviceTimeNeverBack : Prop :=
  ∀ s t : State, s.chip.steady = true → step s = .next t →
    (∀ i, s.pending.head? = some i → (∀ p, i ≠ .coldReset p) ∧ i ≠ .suppliesRemoved ∧ i ≠ .suppliesInRange) → s.time ≤ t.time

/-- The memories keep their one canonical form under every operation on them, and a read after a write gives what was written there and
elsewhere what stood before. -/
def Obligations.MemoryKeepsForm : Prop :=
  (∀ (m : Mem) (a : Nat) (bs : List Byte), m.wf = true → (wrBytes m a bs).wf = true) ∧
  (∀ (m : Mem) (a k : Nat) (bs : List Byte), k < bs.length → rdByte (wrBytes m a bs) (a + k) = nth 0 bs k) ∧
  (∀ (m : Mem) (a k : Nat) (bs : List Byte), k < a ∨ a + bs.length ≤ k → rdByte (wrBytes m a bs) k = rdByte m k) ∧
  (∀ (c : Chip) (a b : Nat) (v : Word), (c.wr a v).rd b = if b = a then v else c.rd b) ∧
  (∀ (c : Chip) (a : Nat) (v : Word), c.canonical = true → (c.wr a v).canonical = true) ∧
  (∀ (m : Mem) (a b : Nat), m.wf = true → Mem.wf (mclear m a b) = true) ∧
  (∀ (m : Mem) (a b k : Nat), rdByte (mclear m a b) k = if a ≤ k ∧ k < b then 0 else rdByte m k)

/-- R10, Table 0-3: what a write of one unit makes of each field of its register, before the register's own rule acts. An RW field takes the
bits written, a W1C field loses the bits written 1, a W1S field gains them, an RO or ROC field keeps its bits, and so does a field written only
for its effect (the words of CE_CTX_BLOB, which CE_CTX_CMD reads, hold what was written); no other unit changes. -/
def Obligations.FieldsTakeTheirWrite : Prop :=
  ∀ (c : Chip) (now a : Nat) (v : Word) (r : RegRow) (k : Nat),
    findRow (regionRows a) a = some (r, k) → a % 8 = 0 → c.reserved a = false → c.place a = none →
    (∀ m o, millOffset a = some (m, o) → inThreadWindow o = false) → c.ft.armed = [] →
    (∀ f ∈ r.fields, f.word = k →
      let old := getBits (c.rd a) f.lo f.width
      let new := getBits ((c.filled now a [v]).rd a) f.lo f.width
      (f.access = .rw → new = getBits v f.lo f.width) ∧ (f.access = .w1c → new = getBits (c.rd a &&& ~~~v) f.lo f.width) ∧
      (f.access = .w1s → new = getBits (c.rd a ||| v) f.lo f.width) ∧ (f.access = .ro ∨ f.access = .roc → new = old) ∧
      (f.access = .wo → new = if r.base = A.CE_CTX_BLOB 0 then getBits v f.lo f.width else old)) ∧
    (∀ b, b ≠ a → (c.filled now a [v]).rd b = c.rd b)

/-! ### Fecia instructions (spec/03_fecia_isa.md, spec/04_threads_channels.md) -/

/-- R81, Table 3-5: what each two-operand register ALU instruction writes, where its thread can issue it; the instruction goes on at the next one.
R82: csum is the 16-bit ones'-complement sum of ra[15:0] and the four halfwords of rb, zero only where all five are.
R81: the unary register instructions, whose rb field is 0.
Table 3-5: what the unary functions compute. Byte swaps exchange byte i with byte n - 1 - i and clear the bits above; clz and ctz
count up to the first one bit, 64 for a value of 0; popc of a value is that of its halves together. -/
def Obligations.RegisterAluResults : Prop :=
  (∀ (s : State) (m : MillNo) (t : ThreadNo) (rd ra rb : RegNo),
    s.does m t [rd, ra, rb] (.add m t rd ra rb) (s.writes m t rd (fun x => x.reg ra + x.reg rb)) ∧
    s.does m t [rd, ra, rb] (.sub m t rd ra rb) (s.writes m t rd (fun x => x.reg ra - x.reg rb)) ∧
    s.does m t [rd, ra, rb] (.and m t rd ra rb) (s.writes m t rd (fun x => x.reg ra &&& x.reg rb)) ∧
    s.does m t [rd, ra, rb] (.or m t rd ra rb) (s.writes m t rd (fun x => x.reg ra ||| x.reg rb)) ∧
    s.does m t [rd, ra, rb] (.xor m t rd ra rb) (s.writes m t rd (fun x => x.reg ra ^^^ x.reg rb)) ∧
    s.does m t [rd, ra, rb] (.andn m t rd ra rb) (s.writes m t rd (fun x => x.reg ra &&& ~~~x.reg rb)) ∧
    s.does m t [rd, ra, rb] (.sll m t rd ra rb) (s.writes m t rd (fun x => x.reg ra <<< ((x.reg rb).toNat % 64))) ∧
    s.does m t [rd, ra, rb] (.srl m t rd ra rb) (s.writes m t rd (fun x => x.reg ra >>> ((x.reg rb).toNat % 64))) ∧
    s.does m t [rd, ra, rb] (.sra m t rd ra rb) (s.writes m t rd (fun x => (x.reg ra).sshiftRight ((x.reg rb).toNat % 64))) ∧
    s.does m t [rd, ra, rb] (.rol m t rd ra rb) (s.writes m t rd (fun x => (x.reg ra).rotateLeft ((x.reg rb).toNat % 64))) ∧
    s.does m t [rd, ra, rb] (.min m t rd ra rb) (s.writes m t rd (fun x => if (x.reg ra).toInt ≤ (x.reg rb).toInt then x.reg ra else x.reg rb)) ∧
    s.does m t [rd, ra, rb] (.max m t rd ra rb) (s.writes m t rd (fun x => if (x.reg ra).toInt ≤ (x.reg rb).toInt then x.reg rb else x.reg ra)) ∧
    s.does m t [rd, ra, rb] (.minu m t rd ra rb) (s.writes m t rd (fun x => if (x.reg ra).toNat ≤ (x.reg rb).toNat then x.reg ra else x.reg rb)) ∧
    s.does m t [rd, ra, rb] (.maxu m t rd ra rb) (s.writes m t rd (fun x => if (x.reg ra).toNat ≤ (x.reg rb).toNat then x.reg rb else x.reg ra)) ∧
    s.does m t [rd, ra, rb] (.slt m t rd ra rb) (s.writes m t rd (fun x => if (x.reg ra).toInt < (x.reg rb).toInt then 1 else 0)) ∧
    s.does m t [rd, ra, rb] (.sltu m t rd ra rb) (s.writes m t rd (fun x => if (x.reg ra).toNat < (x.reg rb).toNat then 1 else 0)) ∧
    s.does m t [rd, ra, rb] (.seq m t rd ra rb) (s.writes m t rd (fun x => if x.reg ra = x.reg rb then 1 else 0)) ∧
    s.does m t [rd, ra, rb] (.mul m t rd ra rb) (s.writes m t rd (fun x => x.reg ra * x.reg rb)) ∧
    s.does m t [rd, ra, rb] (.mulhu m t rd ra rb) (s.writes m t rd (fun x => BitVec.ofNat 64 ((x.reg ra).toNat * (x.reg rb).toNat / 2 ^ 64))) ∧
    s.does m t [rd, ra, rb] (.csum m t rd ra rb) (s.writes m t rd (fun x => csum (x.reg ra) (x.reg rb))) ∧
    s.does m t [rd, ra, rb] (.crc m t rd ra rb) (s.writes m t rd (fun x => crcStep (x.reg ra) (x.reg rb)))) ∧
  (∀ (a b : Word),
    let n := a.toNat % 2 ^ 16 + b.toNat % 2 ^ 16 + b.toNat / 2 ^ 16 % 2 ^ 16 + b.toNat / 2 ^ 32 % 2 ^ 16 + b.toNat / 2 ^ 48
    (csum a b).toNat = if n = 0 then 0 else (n - 1) % 65535 + 1) ∧
  (∀ (s : State) (m : MillNo) (t : ThreadNo) (rd ra : RegNo),
    s.does m t [rd, ra] (.bswap16 m t rd ra 0) (s.writes m t rd (fun x => bswap 2 (x.reg ra))) ∧
    s.does m t [rd, ra] (.bswap32 m t rd ra 0) (s.writes m t rd (fun x => bswap 4 (x.reg ra))) ∧
    s.does m t [rd, ra] (.bswap64 m t rd ra 0) (s.writes m t rd (fun x => bswap 8 (x.reg ra))) ∧
    s.does m t [rd, ra] (.clz m t rd ra 0) (s.writes m t rd (fun x => BitVec.ofNat 64 (clz (x.reg ra)))) ∧
    s.does m t [rd, ra] (.ctz m t rd ra 0) (s.writes m t rd (fun x => BitVec.ofNat 64 (ctz (x.reg ra)))) ∧
    s.does m t [rd, ra] (.popc m t rd ra 0) (s.writes m t rd (fun x => BitVec.ofNat 64 (popc (x.reg ra))))) ∧
  (∀ a : Word,
    (∀ i < 2, (bswap 2 a).toNat / 2 ^ (8 * i) % 256 = a.toNat / 2 ^ (8 * (1 - i)) % 256) ∧ (bswap 2 a).toNat < 2 ^ 16 ∧
    (∀ i < 4, (bswap 4 a).toNat / 2 ^ (8 * i) % 256 = a.toNat / 2 ^ (8 * (3 - i)) % 256) ∧ (bswap 4 a).toNat < 2 ^ 32 ∧
    (∀ i < 8, (bswap 8 a).toNat / 2 ^ (8 * i) % 256 = a.toNat / 2 ^ (8 * (7 - i)) % 256) ∧
    clz 0 = 64 ∧ ctz 0 = 64 ∧
    (a ≠ 0 → clz a < 64 ∧ a.getLsbD (63 - clz a) = true ∧ ∀ i < clz a, a.getLsbD (63 - i) = false) ∧
    (a ≠ 0 → ctz a < 64 ∧ a.getLsbD (ctz a) = true ∧ ∀ i < ctz a, a.getLsbD i = false) ∧
    popc a = ((List.range 64).map fun i => if a.getLsbD i then 1 else 0).sum)

/-- R83, Table 3-6: what each immediate instruction writes; fields that must be 0 are 0.
R83, Table 3-6: the halfword and bit-field instructions. For bext and bins, lsb + width is at most 64.
Setting a field changes its bits to those of the value and keeps every other bit (movk and bins of Table 3-6, R1). -/
def Obligations.ImmediateResults : Prop :=
  (∀ (s : State) (m : MillNo) (t : ThreadNo) (rd ra : RegNo) (imm : BitVec 16) (n : BitVec 6),
    s.does m t [rd, ra] (.addi m t rd ra imm) (s.writes m t rd (fun x => x.reg ra + imm.signExtend 64)) ∧
    s.does m t [rd, ra] (.andi m t rd ra imm) (s.writes m t rd (fun x => x.reg ra &&& imm.zeroExtend 64)) ∧
    s.does m t [rd, ra] (.ori m t rd ra imm) (s.writes m t rd (fun x => x.reg ra ||| imm.zeroExtend 64)) ∧
    s.does m t [rd, ra] (.xori m t rd ra imm) (s.writes m t rd (fun x => x.reg ra ^^^ imm.zeroExtend 64)) ∧
    s.does m t [rd, ra] (.slli m t rd ra n 0) (s.writes m t rd (fun x => x.reg ra <<< n.toNat)) ∧
    s.does m t [rd, ra] (.srli m t rd ra n 0) (s.writes m t rd (fun x => x.reg ra >>> n.toNat)) ∧
    s.does m t [rd, ra] (.srai m t rd ra n 0) (s.writes m t rd (fun x => (x.reg ra).sshiftRight n.toNat)) ∧
    s.does m t [rd, ra] (.roli m t rd ra n 0) (s.writes m t rd (fun x => (x.reg ra).rotateLeft n.toNat)) ∧
    s.does m t [rd, ra] (.seqi m t rd ra imm) (s.writes m t rd (fun x => if x.reg ra = imm.signExtend 64 then 1 else 0)) ∧
    s.does m t [rd, ra] (.sltiu m t rd ra imm) (s.writes m t rd (fun x => if (x.reg ra).toNat < imm.toNat then 1 else 0))) ∧
  (∀ (s : State) (m : MillNo) (t : ThreadNo) (rd ra : RegNo) (imm : BitVec 16) (h : Fin 4) (lsb w1 : BitVec 6),
    s.does m t [rd, 0] (.movz m t rd h imm 0) (s.writes m t rd (fun _ => imm.zeroExtend 64 <<< (16 * h.val))) ∧
    s.does m t [rd, rd] (.movk m t rd h imm 0) (s.writes m t rd (fun x => setBits (x.reg rd) (16 * h.val) 16 imm.toNat)) ∧
    (lsb.toNat + (w1.toNat + 1) ≤ 64 →
      s.does m t [rd, ra] (.bext m t rd ra lsb w1 0)
        (s.writes m t rd (fun x => BitVec.ofNat 64 ((x.reg ra).toNat / 2 ^ lsb.toNat % 2 ^ (w1.toNat + 1)))) ∧
      s.does m t [rd, ra] (.bins m t rd ra lsb w1 0)
        (s.writes m t rd (fun x => setBits (x.reg rd) lsb.toNat (w1.toNat + 1) (x.reg ra).toNat)))) ∧
  (∀ (w : Word) (lo n v i : Nat), lo + n ≤ 64 → i < 64 →
    (setBits w lo n v).getLsbD i = if lo ≤ i ∧ i < lo + n then v.testBit (i - lo) else w.getLsbD i)

/-- R76, R83: an instruction whose fields that must be 0 hold another value, or whose bit field passes bit 63, issues and raises EXC_ILLEGAL; so
does a word that Table 3-4 does not list, or whose function is undefined, whichever instruction was to run. A fifth packet data load waits
instead (R84).
R76, Tables 3-3 to 3-10: the words of some instructions, which words are listed, and that every instruction's word is one of them.
R78: an instruction of a thread that is not ready, or whose registers wait for a packet data load, changes nothing. -/
def Obligations.IssueRefused : Prop :=
  (∀ (s : State) (i : Instr) (m : MillNo) (t : ThreadNo) (regs : List Nat),
    let s' : State := match i with
      | .time _ _ _ _ _ => s.reach (s.time + 0x2000)
      | _ => s
    issuer i = some (m, t, regs) → s.found.fetches s'.time m t regs = true → (s.found.th m t).loads.length < 4 →
    (s.found.codeWord m (s.found.th m t).pc = feciaWord i → mustBeZero i ≠ 0 → exec i s = s'.raises m t Code.EXC_ILLEGAL) ∧
    (s.found.codeWord m (s.found.th m t).pc ≠ feciaWord i → wordListed (s.found.codeWord m (s.found.th m t).pc) = false →
      exec i s = s'.raises m t Code.EXC_ILLEGAL)) ∧
  ((∀ (m : MillNo) (t : ThreadNo),
    feciaWord (.addi m t 3 4 (-8)) = 0x0864FFF8 ∧ feciaWord (.ld m t 1 0 2 1 false 12) = 0x4020480C ∧
    feciaWord (.beq m t 5 0 0x123) = 0x60A00123 ∧ feciaWord (.or m t 0 0 0) = 0x04000003) ∧
  wordListed 0 = false ∧ wordListed 0x04000015 = false ∧ wordListed 0x48000004 = false ∧ wordListed 0xFC000000 = true ∧
  (∀ i : Instr, issuer i ≠ none → feciaWord i < 2 ^ 32 ∧ wordListed (feciaWord i) = true)) ∧
  (∀ (s : State) (i : Instr) (m : MillNo) (t : ThreadNo) (regs : List Nat),
    issuer i = some (m, t, regs) → (∀ rd rb z, i ≠ .time m t rd rb z) →
    (s.found.issuing m && (s.found.th m t).ready && !regs.any (s.found.th m t).busyReg) = false → s.found.calm = true →
    exec i s = .next { s with chip := s.found.measureAll s.time })

/-- R66, R77: an instruction whose outcome is the write of one register (the results above name them) changes nothing but that register and the
pc of its own thread, and the counters of its core. Memory of every kind, every other thread, every other register of the adapter and the
queues are as they were. -/
def Obligations.RegisterInstructionFrame : Prop :=
  ∀ (s : State) (i : Instr) (m : MillNo) (t : ThreadNo) (rd : RegNo) (v : Thread → Word),
    exec i s = s.writes m t rd v → s.found.calm = true → (s.found.th m t).st = 2 → s.found.sram (48 + m) ((s.found.th m t).pc / 8) = 0 →
    ∃ u : State, exec i s = .next u ∧ u.pending = s.pending ∧ u.time = s.time ∧
    u.chip.th m t = ((s.chip.th m t).setReg rd (v (s.chip.th m t))).next ∧
    (∀ m' t' : Nat, ¬ (m' = m ∧ t' = t) → u.chip.th m' t' = s.chip.th m' t') ∧
    (∀ k : Nat, (u.chip.mill k).imem = (s.chip.mill k).imem ∧ (u.chip.mill k).pond = (s.chip.mill k).pond ∧
      (u.chip.mill k).chans = (s.chip.mill k).chans) ∧
    u.chip.mem = s.chip.mem ∧ u.chip.flash = s.chip.flash ∧ u.chip.disp = s.chip.disp ∧ u.chip.tm = s.chip.tm ∧
    u.chip.net = s.chip.net ∧ u.chip.host = s.chip.host ∧ u.chip.de = s.chip.de ∧ u.chip.te = s.chip.te ∧ u.chip.ce = s.chip.ce ∧
    u.chip.sto = s.chip.sto ∧ u.chip.cmd = s.chip.cmd ∧ u.chip.pwr = s.chip.pwr ∧ u.chip.ft = s.chip.ft ∧ u.chip.free = s.chip.free ∧
    u.chip.reqs = s.chip.reqs ∧ u.chip.reps = s.chip.reps ∧ u.chip.xmsgs = s.chip.xmsgs ∧ u.chip.xcreds = s.chip.xcreds ∧
    u.chip.bind = s.chip.bind ∧ u.chip.smp = s.chip.smp ∧ u.chip.cl = s.chip.cl ∧ u.chip.tap = s.chip.tap ∧
    (∀ a : Nat, (∀ k < 8, a ≠ A.MA_CNT m (8 * (t / 16) + k)) → u.chip.rd a = s.chip.rd a)

/-- R77: a write to g0 is discarded and the instruction goes on; a load into g0 makes its access, raises the exception of a check that fails, and
never makes its thread wait. -/
def Obligations.WriteOfG0Discarded : Prop :=
  (∀ (x : Thread) (v : Word), x.setReg 0 v = x ∧ x.reg 0 = 0 ∧ x.busyReg 0 = false) ∧
  (∀ (s : State) (m : MillNo) (t : ThreadNo) (v : Thread → Word), s.writes m t 0 v = s.goesOn m t id) ∧
  (∀ (s : State) (m : MillNo) (t : ThreadNo) (ra rb : RegNo) (imm : BitVec 16) (sp : Fin 8) (sz : Fin 4) (off : BitVec 10),
    let c := s.found.issued s.time m t
    let x := c.th m t
    let ea := (x.reg ra + off.signExtend 64).toNat
    let n := 2 ^ sz.val
    let w := spaceWords m t sp ea n
    s.does m t [0, ra, rb] (.add m t 0 ra rb) (s.goesOn m t id) ∧
    s.does m t [0, ra] (.addi m t 0 ra imm) (s.goesOn m t id) ∧ s.does m t [0, ra] (.clz m t 0 ra 0) (s.goesOn m t id) ∧
    (∀ d, sp.val < 3 → accessCheck x sp ea n false false = Code.OK → Chip.readSrams s.time w.1 0 0 w.2.2 w.2.1 c = (false, d) →
      s.does m t [0, ra] (.ld m t 0 ra sp sz false off) (.next (s.done (d.setTh m t (d.th m t).next)))) ∧
    (sp.val < 3 → accessCheck x sp ea n false false ≠ Code.OK →
      s.does m t [0, ra] (.ld m t 0 ra sp sz false off) (s.raises m t (accessCheck x sp ea n false false))))

/-- R69, R70, R84: a load that passes its checks. From the head window, scratch and the Millpond it writes the bytes at ra + off in the
order of the space; from packet metadata the metadata bytes; from packet data it leaves a load outstanding, and the value comes when the
load returns.
R71, R84: the oldest outstanding packet data load of a thread returns: the bytes of the packet's bobbin in network order go to its
destination register, and the load is no longer outstanding; across a fenced boundary the thread ends with ABSENT, over a poisoned word with
POISONED, named at the pc of the load (log entries 21 and 181).
R70: the checks of an access in their order, and the exception of the first that fails.
R70, R92: a load, a store or an atomic whose access fails a check issues and raises the exception of that check. -/
def Obligations.LoadResults : Prop :=
  (∀ (s : State) (m : MillNo) (t : ThreadNo) (rd ra : RegNo) (sp : Fin 8) (sz : Fin 4) (sx : Bool) (off : BitVec 10),
    ¬ (sx = true ∧ sz = 3) →
    let c := s.found.issued s.time m t
    let x := c.th m t
    let ea := (x.reg ra + off.signExtend 64).toNat
    let n := 2 ^ sz.val
    accessCheck x sp ea n false false = Code.OK →
    (sp.val < 3 → ∀ d, (let w := spaceWords m t sp ea n; Chip.readSrams s.time w.1 0 0 w.2.2 w.2.1 c) = (false, d) →
      s.does m t [rd, ra] (.ld m t rd ra sp sz sx off)
        (.next (s.done (d.setTh m t ((d.th m t).setReg rd (loadValue (sp == 0) sx (d.spaceBytes m t sp ea n))).next)))) ∧
    (sp.val = 4 → ∀ d, c.readSram s.time 1 (2 * c.bobSlot x.pkt + ea / 32) 0 0 = (false, d) →
      s.does m t [rd, ra] (.ld m t rd ra sp sz sx off)
        (.next (s.done (d.setTh m t ((d.th m t).setReg rd (loadValue false sx (d.metaBytes (d.th m t).pkt ea n))).next)))) ∧
    (sp.val = 3 → (s.found.th m t).loads.length < 4 →
      s.does m t [rd, ra] (.ld m t rd ra sp sz sx off)
        (.next (s.done ((c.events m t x.prio [0x0C]).setTh m t
          { x with loads := x.loads ++ [PktLoad.mk rd ea n sx x.pc (x.st == 8)] }.next))))) ∧
  (∀ (s : State) (m : MillNo) (t : ThreadNo) (l : PktLoad) (rest : List PktLoad) (bs : List Byte) (d : Chip),
    let x := s.found.th m t
    let c := s.found.setTh m t { x with loads := rest }
    let at_ (c : Chip) := c.setTh m t { c.th m t with pc := l.pc }
    x.loads = l :: rest →
    (c.open1 23 = true → c.bobRead s.time (c.bobBase x.pkt + l.ea) l.n 0 = (false, bs, d) →
      exec (.packetDataLoadReturn m t 0) s = .next (s.done (d.setTh m t ((d.th m t).setReg l.rd (loadValue true l.sx bs))))) ∧
    (c.open1 23 = true → c.bobRead s.time (c.bobBase x.pkt + l.ea) l.n 0 = (true, bs, d) →
      exec (.packetDataLoadReturn m t 0) s = .next (s.done ((at_ d).poisonRead s.time m t))) ∧
    (c.open1 23 = false →
      exec (.packetDataLoadReturn m t 0) s = .next (s.done ((at_ c).exception s.time m t Code.ABSENT)))) ∧
  (∀ (x : Thread) (sp ea n : Nat) (store atomic : Bool),
    (5 ≤ sp → accessCheck x sp ea n store atomic = Code.EXC_ILLEGAL) ∧
    (sp < 5 → (store = true ∧ 3 ≤ sp ∨ atomic = true ∧ sp ≠ 2) → accessCheck x sp ea n store atomic = Code.EXC_SPACE) ∧
    (sp < 5 → ¬ (store = true ∧ 3 ≤ sp ∨ atomic = true ∧ sp ≠ 2) → spaceSize x sp < ea + n →
      accessCheck x sp ea n store atomic = if sp = 3 then Code.EXC_PKT_BOUND else Code.EXC_SPACE) ∧
    (sp < 5 → ¬ (store = true ∧ 3 ≤ sp ∨ atomic = true ∧ sp ≠ 2) → ea + n ≤ spaceSize x sp → sp = 1 ∨ sp = 2 ∨ sp = 4 → ea % n ≠ 0 →
      accessCheck x sp ea n store atomic = Code.EXC_ALIGN) ∧
    (ea + n ≤ spaceSize x 0 → atomic = false → (if x.valid then x.plen else 0) < ea + n →
      accessCheck x 0 ea n store atomic = Code.EXC_PKT_BOUND)) ∧
  (∀ (s : State) (m : MillNo) (t : ThreadNo) (r ra rb : RegNo) (sp : Fin 8) (sz : Fin 4) (off : BitVec 10),
    let c := s.found.issued s.time m t
    let x := c.th m t
    let ea := (x.reg ra + off.signExtend 64).toNat
    let counted (ev code : Nat) := Host.Outcome.next (φ := Fault) (ρ := Refusal) (s.done ((c.events m t x.prio [ev]).exception s.time m t code))
    (sp.val ≠ 3 → accessCheck x sp ea (2 ^ sz.val) false false ≠ Code.OK →
      s.does m t [r, ra] (.ld m t r ra sp sz false off) (s.raises m t (accessCheck x sp ea (2 ^ sz.val) false false))) ∧
    (accessCheck x 3 ea (2 ^ sz.val) false false ≠ Code.OK → (s.found.th m t).loads.length < 4 →
      s.does m t [r, ra] (.ld m t r ra 3 sz false off) (counted 0x0C (accessCheck x 3 ea (2 ^ sz.val) false false))) ∧
    (accessCheck x sp ea (2 ^ sz.val) true false ≠ Code.OK →
      s.does m t [r, ra] (.st m t r ra sp sz false off) (s.raises m t (accessCheck x sp ea (2 ^ sz.val) true false))) ∧
    (let st := accessCheck x 2 (x.reg ra).toNat 8 false true
     st ≠ Code.OK →
      s.does m t [r, ra, rb] (.aadd m t r ra rb) (counted 0x0E st) ∧ s.does m t [r, ra, rb] (.aswp m t r ra rb) (counted 0x0E st) ∧
      s.does m t [r, ra, rb] (.acas m t r ra rb) (counted 0x0E st) ∧ s.does m t [r, ra, rb] (.amaxu m t r ra rb) (counted 0x0E st)))

/-- R69, R74, R84: a store that passes its checks writes the low bytes of rs at ra + off in the order of the space, and the thread goes on;
where it reaches a poisoned word it writes nothing and raises POISONED.
R66, R69: what storing bytes at an address of a space changes: those bytes and no other byte of the space; the thread's other spaces and
registers, every other thread, the other Mills and everything outside the Mills stay as they were.
R85: the Millpond atomics, aligned and within the Millpond, on a word that is not poisoned: rd takes the old word, and the word takes
the sum, the new value, the new value where rd equals the old one, or the unsigned maximum. -/
def Obligations.StoreResults : Prop :=
  (∀ (s : State) (m : MillNo) (t : ThreadNo) (rs ra : RegNo) (sp : Fin 8) (sz : Fin 4) (off : BitVec 10) (d : Chip),
    let c := s.found.issued s.time m t
    let x := c.th m t
    let ea := (x.reg ra + off.signExtend 64).toNat
    let n := 2 ^ sz.val
    let w := spaceWords m t sp ea n
    accessCheck x sp ea n true false = Code.OK →
    (Chip.readSrams s.time w.1 2 0 w.2.2 w.2.1 c = (false, d) →
      let e := d.spaceStore m t sp ea (if sp.val = 0 then beBytes n (x.reg rs).toNat else leBytes n (x.reg rs).toNat)
      s.does m t [rs, ra] (.st m t rs ra sp sz false off) (.next (s.done (e.setTh m t (e.th m t).next)))) ∧
    (Chip.readSrams s.time w.1 2 0 w.2.2 w.2.1 c = (true, d) →
      s.does m t [rs, ra] (.st m t rs ra sp sz false off) (.next (s.done (d.poisonRead s.time m t))))) ∧
  (∀ (c : Chip) (m t sp ea : Nat) (bs : List Byte), sp < 3 →
    let d := c.spaceStore m t sp ea bs
    (∀ i < bs.length, d.spaceBytes m t sp (ea + i) 1 = [bs.getD i 0]) ∧
    (∀ a, a < ea ∨ ea + bs.length ≤ a → d.spaceBytes m t sp a 1 = c.spaceBytes m t sp a 1) ∧
    (∀ sp' a, sp' < 3 → sp' ≠ sp → d.spaceBytes m t sp' a 1 = c.spaceBytes m t sp' a 1) ∧
    (∀ r, (d.th m t).reg r = (c.th m t).reg r) ∧ (d.th m t).pc = (c.th m t).pc ∧
    (∀ m' t', ¬ (m' = m ∧ t' = t) → d.th m' t' = c.th m' t') ∧ (∀ m', m' ≠ m → d.mill m' = c.mill m') ∧
    d = { c with mills := d.mills }) ∧
  (∀ (s : State) (m : MillNo) (t : ThreadNo) (rd ra rb : RegNo) (d : Chip),
    let c := s.found.issued s.time m t
    let x := c.th m t
    let ea := (x.reg ra).toNat
    accessCheck x 2 ea 8 false true = Code.OK → (c.events m t x.prio [0x0E]).readSram s.time (32 + m) (ea / 32) 0 0 = (false, d) →
    let old := leWord (rdBytes (d.mill m).pond ea 8)
    let y := d.th m t
    let stores (w : Word) := let e := d.spaceStore m t 2 ea (leBytes 8 w.toNat)
      Host.Outcome.next (φ := Fault) (ρ := Refusal) (s.done (e.setTh m t ((e.th m t).setReg rd old).next))
    s.does m t [rd, ra, rb] (.aadd m t rd ra rb) (stores (old + y.reg rb)) ∧
    s.does m t [rd, ra, rb] (.aswp m t rd ra rb) (stores (y.reg rb)) ∧
    s.does m t [rd, ra, rb] (.amaxu m t rd ra rb) (stores (if old.toNat ≤ (y.reg rb).toNat then y.reg rb else old)) ∧
    (old = y.reg rd → s.does m t [rd, ra, rb] (.acas m t rd ra rb) (stores (y.reg rb))) ∧
    (old ≠ y.reg rd → s.does m t [rd, ra, rb] (.acas m t rd ra rb)
      (.next (s.done (let e := d.events m t y.prio [0x0F]; e.setTh m t ((e.th m t).setReg rd old).next)))))

/-- R86, Table 3-8: a branch whose comparison holds, a jump, a call with room and a return with an entry set the pc and count a jump; a
branch whose comparison fails goes on at the next instruction; a call with 8 entries held and a return with none raise EXC_STACK.
R87, R88, R89: reading and writing special registers, the outbox and the inbox; the device time of the island's replica, which two time
instructions never read alike where device time runs. mfs of s14 (CYCLE), and time with rd = rb, write the next free value of the stream (log
entries 2 and 22). -/
def Obligations.ControlResults : Prop :=
  (∀ (s : State) (m : MillNo) (t : ThreadNo) (ra rb : RegNo) (target : BitVec 16),
    let c := s.found.issued s.time m t
    let x := c.th m t
    let jumps (c : Chip) (pc : Nat) :=
      Host.Outcome.next (φ := Fault) (ρ := Refusal)
        (s.done ((c.setTh m t { c.th m t with pc := pc }).events m t (c.th m t).prio [0x09]))
    let branches (p : Prop) [Decidable p] := if p then jumps c target.toNat else s.goesOn m t id
    s.does m t [ra, rb] (.beq m t ra rb target) (branches (x.reg ra = x.reg rb)) ∧
    s.does m t [ra, rb] (.bne m t ra rb target) (branches (x.reg ra ≠ x.reg rb)) ∧
    s.does m t [ra, rb] (.blt m t ra rb target) (branches ((x.reg ra).toInt < (x.reg rb).toInt)) ∧
    s.does m t [ra, rb] (.bge m t ra rb target) (branches ((x.reg rb).toInt ≤ (x.reg ra).toInt)) ∧
    s.does m t [ra, rb] (.bltu m t ra rb target) (branches ((x.reg ra).toNat < (x.reg rb).toNat)) ∧
    s.does m t [ra, rb] (.bgeu m t ra rb target) (branches ((x.reg rb).toNat ≤ (x.reg ra).toNat)) ∧
    s.does m t [] (.jmp m t target 0) (jumps c target.toNat) ∧
    s.does m t [ra] (.jr m t ra 0) (jumps c ((x.reg ra).toNat % 65536)) ∧
    (x.rs.length < 8 →
      s.does m t [] (.call m t target 0) (jumps (c.setTh m t { x with rs := x.rs ++ [(x.pc + 1) % 65536] }) target.toNat)) ∧
    (8 ≤ x.rs.length → s.does m t [] (.call m t target 0) (s.raises m t Code.EXC_STACK)) ∧
    (∀ l a, x.rs = l ++ [a] → s.does m t [] (.ret m t 0) (jumps (c.setTh m t { x with rs := l }) a)) ∧
    (x.rs = [] → s.does m t [] (.ret m t 0) (s.raises m t Code.EXC_STACK))) ∧
  (∀ (s : State) (m : MillNo) (t : ThreadNo) (rd rb ra : RegNo) (n : Fin 8),
    let c := s.found.issued s.time m t
    let reads (k : RegNo) (v : Thread → Word) := s.does m t [rd] (.mfs m t rd k 0) (s.writes m t rd v)
    let v := (c.th m t).reg ra
    let s' := s.reach (s.time + 0x2000)
    let c' := s'.found.issued s'.time m t
    let at_ := c'.stampIn m s'.time
    reads 0 (fun _ => BitVec.ofNat 64 t.val) ∧
    reads 1 (fun _ => BitVec.ofNat 64 m.val) ∧
    reads 2 (fun _ => BitVec.ofNat 64 (t.val / 16)) ∧
    reads 3 (fun x => BitVec.ofNat 64 x.prio) ∧
    reads 4 (fun x => BitVec.ofNat 64 (if x.root then 1 else 0)) ∧
    reads 5 (fun x => BitVec.ofNat 64 (if x.valid then x.pkt % 2 ^ 24 + 2 ^ 24 else 0)) ∧
    reads 6 (fun x => BitVec.ofNat 64 (if x.valid then x.plen else 0)) ∧
    reads 7 (fun x => BitVec.ofNat 64 x.slice) ∧
    reads 8 (fun x => BitVec.ofNat 64 (x.istamp / 0x10000)) ∧
    reads 9 (fun x => BitVec.ofNat 64 (x.istamp % 0x10000)) ∧
    reads 10 (fun x => x.ver0) ∧
    reads 11 (fun x => x.ver1) ∧
    reads 12 (fun x => x.cs) ∧
    reads 13 (fun x => BitVec.ofNat 64 x.parent) ∧
    reads 15 (fun x => BitVec.ofNat 64 x.pc) ∧
    reads 16 (fun x => BitVec.ofNat 64 x.rs.length) ∧
    s.does m t [rd] (.mfs m t rd 14 0)
      (.next (s.done ({ c with free := c.free + 1 }.setTh m t ((c.th m t).setReg rd (Config.freeWord c.free)).next))) ∧
    (∀ k : RegNo, 17 ≤ k.val → s.does m t [rd] (.mfs m t rd k 0) (s.raises m t Code.EXC_ILLEGAL)) ∧
    s.does m t [rd] (.mfi m t rd n 0) (s.writes m t rd (fun x => nth 0 x.inb n)) ∧
    (v.toNat ≤ 3 → s.does m t [ra] (.mts m t 3 ra 0) (s.goesOn m t fun x => { x with prio := v.toNat })) ∧
    (3 < v.toNat → s.does m t [ra] (.mts m t 3 ra 0) (s.raises m t Code.EXC_ILLEGAL)) ∧
    s.does m t [ra] (.mts m t 12 ra 0) (s.goesOn m t (fun x => { x with cs := BitVec.ofNat 64 (v.toNat % 2 ^ 30) })) ∧
    (∀ k : RegNo, k ≠ 3 → k ≠ 12 → s.does m t [ra] (.mts m t k ra 0) (s.raises m t Code.EXC_ILLEGAL)) ∧
    s.does m t [ra] (.mto m t n ra 0) (s.goesOn m t (fun x => { x with outb := setNth x.outb n (x.reg ra) })) ∧
    (s'.found.issues s'.time m t (feciaWord (.time m t rd rb 0)) [rd, rb] = true →
      (rd ≠ rb → exec (.time m t rd rb 0) s = s'.goesOn m t (fun x =>
        (x.setReg rd (BitVec.ofNat 64 (at_ / 0x10000))).setReg rb (BitVec.ofNat 64 (at_ % 0x10000)))) ∧
      (rd = rb → exec (.time m t rd rb 0) s =
        .next (s'.done ({ c' with free := c'.free + 1 }.setTh m t ((c'.th m t).setReg rd (Config.freeWord c'.free)).next)))) ∧
    (3 ≤ s.chip.mode → s.time < s'.time))

/-- R103, R104, R105, R125: a fork with an empty join slot and a FREE thread that no waiter in forkw is to have starts a helper there, with the
general registers and the start stamp of this moment; without an empty slot it fails with FORK_LIMIT; with no such thread fork fails with
EMPTY and forkw waits, keeping those registers and that stamp.
R101: a request that does not wait takes a FREE thread only where more are FREE than threads wait in forkw: the lowest of its own core, or
where that core has none, the lowest of a core that has as many FREE as any (R102).
R104, R105: what starting helper `h` of thread `t` in join slot `k`, with registers `g` and start stamp `start`, makes of the two threads.
R107: join of a value that names no helper of the thread gives 0x1FFFF with BAD_JOIN; of an ended helper its status; of a live one it waits. -/
def Obligations.ForkAndJoin : Prop :=
  (∀ (s : State) (m : MillNo) (t : ThreadNo) (rd : RegNo) (target : BitVec 16),
    let c := s.found.issued s.time m t
    let x := c.th m t
    (x.emptySlot = none →
      s.does m t [rd] (.fork m t rd target 0) (.next (s.done (c.setTh m t (x.forkFail rd 0xFFFF Code.FORK_LIMIT)))) ∧
      s.does m t [rd] (.forkw m t rd target 0) (.next (s.done (c.setTh m t (x.forkFail rd 0xFFFF Code.FORK_LIMIT))))) ∧
    (∀ k h, x.emptySlot = some k → c.spareThread m (some (t / 16)) = some h →
      let d := c.startHelper m t h k rd target.toNat x.g (c.stampIn m s.time)
      s.does m t [rd] (.fork m t rd target 0) (.next (s.done (d.setTh m t (d.th m t).next))) ∧
      s.does m t [rd] (.forkw m t rd target 0) (.next (s.done (d.setTh m t (d.th m t).next)))) ∧
    (∀ k, x.emptySlot = some k → c.spareThread m (some (t / 16)) = none →
      let d := c.events m t x.prio [0x16]
      let at_ := d.stampIn m s.time
      s.does m t [rd] (.fork m t rd target 0)
        (.next (s.done ((d.inc (A.MA_FORK_EMPTY m)).setTh m t (x.forkFail rd 0xFFFF Code.EMPTY)))) ∧
      s.does m t [rd] (.forkw m t rd target 0)
        (.next (s.done (d.setTh m t (x.block at_ (.forkw rd target.toNat x.g at_))))))) ∧
  (∀ (c : Chip) (m h : Nat) (own : Option Nat), (∀ k, own = some k → k < c.poolSize m / 16) → c.spareThread m own = some h →
    (c.forkWaiters m).length < c.freeCount m ∧ c.isFree m h = true ∧
    (∀ j, h / 16 * 16 ≤ j → j < h → c.isFree m j = false) ∧
    (∀ k, own = some k → h / 16 ≠ k → c.freeOnCore m k = 0) ∧
    (∀ k, own ≠ some (h / 16) → k < c.poolSize m / 16 → c.freeOnCore m k ≤ c.freeOnCore m (h / 16))) ∧
  (∀ (c : Chip) (m t h k rd target start : Nat) (g : SMap Word), t ≠ h →
    let x := c.th m t
    let d := c.startHelper m t h k rd target g start
    (d.th m h).st = 1 ∧ (d.th m h).pc = target ∧ (d.th m h).g = g ∧ (d.th m h).head = x.head ∧ (d.th m h).scratch = [] ∧
    (d.th m h).root = false ∧ (d.th m h).parent = t ∧ (d.th m h).pk = x.pk ∧ (d.th m h).slice = x.slice ∧ (d.th m h).istamp = x.istamp ∧
    (d.th m h).prio = x.prio ∧ (d.th m h).rs = [] ∧ (d.th m h).start = start ∧
    (d.th m t).cs = csWord Code.OK 0 0 ∧ (rd ≠ 0 → (d.th m t).reg rd = BitVec.ofNat 64 (h + 256 * k)) ∧ (d.th m t).pc = x.pc ∧
    (d.th m t).joins = setNth x.joins k { JoinSlot.empty with tid := h, filled := true }) ∧
  (∀ (s : State) (m : MillNo) (t : ThreadNo) (rd ra : RegNo),
    let c := s.found.issued s.time m t
    let x := c.th m t
    let v := (x.reg ra).toNat
    let k := v / 256 % 8
    let j := nth JoinSlot.empty x.joins k
    (2048 ≤ v ∨ j.filled = false ∨ j.tid ≠ v % 256 →
      s.does m t [rd, ra] (.join m t rd ra 0) (.next (s.done (c.setTh m t (x.forkFail rd 0x1FFFF Code.BAD_JOIN))))) ∧
    (v < 2048 → j.filled = true → j.tid = v % 256 → j.ended = true →
      s.does m t [rd, ra] (.join m t rd ra 0) (s.goesOn m t (fun x =>
        { x.setReg rd (BitVec.ofNat 64 (j.status % 2 ^ 16 + if j.abnormal then 2 ^ 16 else 0)) with
          joins := setNth x.joins k JoinSlot.empty, cs := csWord Code.OK 0 0 }))) ∧
    (v < 2048 → j.filled = true → j.tid = v % 256 → j.ended = false →
      s.does m t [rd, ra] (.join m t rd ra 0) (.next (s.done (c.setTh m t (x.block (c.stampIn m s.time) (.join rd k)))))))

/-- R90, R91, R106, R154, R157: endings. exit ends the thread with status ra[15:0]; verd and malf end a root thread with its verdict or as
malformed and raise EXC_NOT_ROOT in a helper; brk halts the thread where debug is enabled and else raises EXC_BREAK.
R106: an exit status reaches the join slot of a helper's parent, a thread without outstanding engine requests is FREE and one with them
ENDING (R109), and a helper left behind ends as an orphan (R108).
R92, R94: an exception is counted, logged with its pc, thread, code and the stamp of the Mill's island unless a log is unread, where OVERRUN
is set instead, and ends the thread with the code as its status. -/
def Obligations.EndingResults : Prop :=
  (∀ (s : State) (m : MillNo) (t : ThreadNo) (ra rb : RegNo) (imm : BitVec 16),
    let c := s.found.issued s.time m t
    let x := c.th m t
    let counted (ev : Nat) := c.events m t x.prio [ev]
    s.does m t [ra] (.exit m t ra 0) (.next (s.done (c.endThread s.time m t ((x.reg ra).toNat % 2 ^ 16) false .deflt))) ∧
    (x.root = true →
      s.does m t [ra, rb] (.verd m t ra rb 0)
        (.next (s.done ((counted 0x19).endThread s.time m t 0 false (.verdict (x.reg ra) (x.reg rb))))) ∧
      s.does m t [] (.malf m t 0) (.next (s.done ((counted 0x1A).endThread s.time m t 0 false .malformed)))) ∧
    (x.root = false →
      s.does m t [ra, rb] (.verd m t ra rb 0) (.next (s.done ((counted 0x19).exception s.time m t Code.EXC_NOT_ROOT))) ∧
      s.does m t [] (.malf m t 0) (.next (s.done ((counted 0x1A).exception s.time m t Code.EXC_NOT_ROOT)))) ∧
    (c.flag (A.MA_DBG_CTRL m) F.MA_DBG_CTRL_ENABLE = true →
      s.does m t [] (.brk m t imm 0) (.next (s.done (c.setTh m t { x with st := 7, brk := true, stepped := false })))) ∧
    (c.flag (A.MA_DBG_CTRL m) F.MA_DBG_CTRL_ENABLE = false → s.does m t [] (.brk m t imm 0) (s.raises m t Code.EXC_BREAK))) ∧
  (∀ (c : Chip) (now m t status : Nat) (abnormal : Bool) (n : Nat),
    let x := c.th m t
    let d := Chip.endTree now m (n + 1) t status abnormal c
    x.root = false → x.joins = List.replicate 8 JoinSlot.empty → x.res = none → x.pk = none → x.parent ≠ t → x.parent ≠ 0xFFFF →
    (d.th m x.parent).joins = (c.th m x.parent).joins.map (fun j =>
      if j.filled = true ∧ j.ended = false ∧ j.tid = t then { j with ended := true, abnormal := abnormal, status := status % 2 ^ 16 } else j) ∧
    (x.reqs = 0 → (d.th m t).st = 0) ∧ (x.reqs ≠ 0 → (d.th m t).st = 9 ∧ (d.th m t).reqs = x.reqs)) ∧
  (∀ (c : Chip) (now m t code : Nat),
    let x := c.th m t
    let d := (c.inc (A.MA_EXC_COUNT m)).events m t x.prio [0x18]
    (d.flag (A.MA_EXC_LOG m) F.MA_EXC_LOG_VALID = true →
      c.exception now m t code =
        (d.setFlag (A.MA_EXC_LOG m) F.MA_EXC_LOG_OVERRUN true).endThread now m t code true (exceptionEnding code)) ∧
    (d.flag (A.MA_EXC_LOG m) F.MA_EXC_LOG_VALID = false →
      c.exception now m t code =
        (((((d.set (A.MA_EXC_LOG m) F.MA_EXC_LOG_PC x.pc).set (A.MA_EXC_LOG m) F.MA_EXC_LOG_TID t).set (A.MA_EXC_LOG m)
          F.MA_EXC_LOG_CODE code).setFlag (A.MA_EXC_LOG m) F.MA_EXC_LOG_VALID true).wr (A.MA_EXC_STAMP m)
          (BitVec.ofNat 64 (c.stampIn m now / 0x10000))).endThread now m t code true (exceptionEnding code)))

/-- R112 to R118: send and recv on a channel between threads. Where the channel's LOCAL end has more credits home than senders waiting, send
and sendt publish the words of the outbox, at once in the thread's own Mill, across the boundary towards another; without, send waits and
sendt ends with NO_CREDIT; towards a Mill that is not Open they end with ABSENT, and on a channel that is none, or whose target is no LOCAL
channel with EXTERNAL = 1, with BAD_CHANNEL. With a message queued beyond those promised to waiting receivers, recv and recvt copy its words
to the inbox and its credit goes home; with none, recv waits and recvt ends with NO_MESSAGE.
R117, R119 to R122: send and sendt on an engine channel with a credit that no waiting sender is to have hand the request to the engine with
what the Mill attaches, or have it answered ABSENT at once where the engine's boundary does not answer; without such a credit send waits and
sendt ends with NO_CREDIT. recv and recvt on channel 768 take the oldest reply; with none, recv waits and recvt ends with NO_MESSAGE. -/
def Obligations.ChannelResults : Prop :=
  (∀ (s : State) (m : MillNo) (t : ThreadNo) (ra : RegNo) (chan : BitVec 10) (n1 : Fin 8),
    let c := s.found.issued s.time m t
    let x := c.th m t
    let ch := ((x.reg ra).toNat + chan.toNat) % 1024
    let ws := x.outb.take (n1 + 1)
    let sends (a b : Host.Outcome State Fault Refusal) :=
      s.does m t [ra] (.send m t ra chan n1 0) a ∧ s.does m t [ra] (.sendt m t ra chan n1 0) b
    let recvs (a b : Host.Outcome State Fault Refusal) :=
      s.does m t [ra] (.recv m t ra chan 0) a ∧ s.does m t [ra] (.recvt m t ra chan 0) b
    let ends (st : Nat) := s.goesOn m t fun x => { x with cs := csWord st 0 ch }
    let waits (w : Wait) := Host.Outcome.next (φ := Fault) (ρ := Refusal) (s.done (c.setTh m t (x.block (c.stampIn m s.time) w)))
    let sent (d : Chip) := Host.Outcome.next (φ := Fault) (ρ := Refusal)
      (s.done ((d.setTh m t { (d.th m t).next with cs := csWord Code.OK 0 ch }).events m t (d.th m t).prio [0x10]))
    let got (d : Chip) (ws : List Word) := Host.Outcome.next (φ := Fault) (ρ := Refusal)
      (s.done ((d.setTh m t { (d.th m t).next with inb := inboxOf ws, cs := csWord Code.OK ws.length ch }).events m t (d.th m t).prio [0x11]))
    (c.chanKind m ch = .local_ → (c.blockedSenders m ch).length < c.credits m ch →
      sends (sent (c.setQueued m ch (c.queued m ch ++ [(16, ws)]))) (sent (c.setQueued m ch (c.queued m ch ++ [(16, ws)])))) ∧
    (c.chanKind m ch = .local_ → c.credits m ch ≤ (c.blockedSenders m ch).length →
      sends (waits (.send ch ws)) (ends Code.NO_CREDIT)) ∧
    (∀ m' k, c.chanKind m ch = .remote m' k → c.open1 m' = false → sends (ends Code.ABSENT) (ends Code.ABSENT)) ∧
    (∀ m' k, c.chanKind m ch = .remote m' k → c.open1 m' = true →
      (c.chanKind m' k ≠ .local_ ∨ 512 ≤ k ∨ c.flag (A.MA_CHAN m' k) F.MA_CHAN_EXTERNAL = false →
        sends (ends Code.BAD_CHANNEL) (ends Code.BAD_CHANNEL)) ∧
      (c.chanKind m' k = .local_ → k < 512 → c.flag (A.MA_CHAN m' k) F.MA_CHAN_EXTERNAL = true →
        ((c.blockedSenders m' k).length < c.credits m' k →
          let d := ({ c with xmsgs := c.xmsgs ++ [XMsg.mk m m' k ws] }).epoch m
          sends (sent d) (sent d)) ∧
        (c.credits m' k ≤ (c.blockedSenders m' k).length → sends (waits (.send ch ws)) (ends Code.NO_CREDIT)))) ∧
    (c.chanKind m ch = .unused → sends (ends Code.BAD_CHANNEL) (ends Code.BAD_CHANNEL) ∧ recvs (ends Code.BAD_CHANNEL) (ends Code.BAD_CHANNEL)) ∧
    (c.chanKind m ch = .local_ → ∀ src msg a b, (c.blockedReceivers m ch).length = a.length → c.queued m ch = a ++ (src, msg) :: b →
      let d := (c.setQueued m ch (a ++ b)).creditBack m ch src
      recvs (got d msg) (got d msg)) ∧
    (c.chanKind m ch = .local_ → (c.queued m ch).length ≤ (c.blockedReceivers m ch).length →
      recvs (waits (.recv ch)) (ends Code.NO_MESSAGE))) ∧
  (∀ (s : State) (m : MillNo) (t : ThreadNo) (ra : RegNo) (chan : BitVec 10) (n1 : Fin 8),
    let c := s.found.issued s.time m t
    let x := c.th m t
    let ch := ((x.reg ra).toNat + chan.toNat) % 1024
    let ws := x.outb.take (n1 + 1)
    let ends (st : Nat) := s.goesOn m t fun x => { x with cs := csWord st 0 ch }
    let waits (w : Wait) := Host.Outcome.next (φ := Fault) (ρ := Refusal) (s.done (c.setTh m t (x.block (c.stampIn m s.time) w)))
    let sent (d : Chip) := Host.Outcome.next (φ := Fault) (ρ := Refusal)
      (s.done ((d.setTh m t { (d.th m t).next with cs := csWord Code.OK 0 ch }).events m t (d.th m t).prio [0x10]))
    let asked := (c.setTh m t { x with reqs := x.reqs + 1 }).epoch m
    let req : EngReq := { mill := m, tid := t, chan := ch, words := ws, pk := x.pk, pkt := x.pkt, valid := x.valid, plen := x.plen,
                          slice := x.slice, istamp := x.istamp, ver0 := x.ver0, ver1 := x.ver1, system := x.slice == 0,
                          sent := stamp s.time, owed := false }
    (c.chanKind m ch = .engine → c.spareCredit m ch x = true → asked.up (engineTarget ch) = true →
      s.does m t [ra] (.send m t ra chan n1 0) (sent { asked with reqs := asked.reqs ++ [req] }) ∧
      s.does m t [ra] (.sendt m t ra chan n1 0) (sent { asked with reqs := asked.reqs ++ [req] })) ∧
    (c.chanKind m ch = .engine → c.spareCredit m ch x = true → asked.up (engineTarget ch) = false → asked.reqs.all (fun q => !q.owed) = true →
      let d := { asked with reps := asked.reps ++ [EngRep.mk m t ch [replyWord Code.ABSENT 0 ch 0]] }
      s.does m t [ra] (.send m t ra chan n1 0) (sent d) ∧ s.does m t [ra] (.sendt m t ra chan n1 0) (sent d)) ∧
    (c.chanKind m ch = .engine → c.spareCredit m ch x = false →
      s.does m t [ra] (.send m t ra chan n1 0) (waits (.send ch ws)) ∧ s.does m t [ra] (.sendt m t ra chan n1 0) (ends Code.NO_CREDIT)) ∧
    (ch = 768 → ∀ msg rest, x.replies = msg :: rest →
      let d := c.setTh m t { x with replies := rest }
      let got := Host.Outcome.next (φ := Fault) (ρ := Refusal)
        (s.done ((d.setTh m t { (d.th m t).next with inb := inboxOf msg, cs := csWord Code.OK msg.length ch }).events m t (d.th m t).prio [0x11]))
      s.does m t [ra] (.recv m t ra chan 0) got ∧ s.does m t [ra] (.recvt m t ra chan 0) got) ∧
    (ch = 768 → x.replies = [] →
      s.does m t [ra] (.recv m t ra chan 0) (waits (.recv ch)) ∧ s.does m t [ra] (.recvt m t ra chan 0) (ends Code.NO_MESSAGE)))

/-! ### Threads, channels, stalls, the debugger (spec/04_threads_channels.md) -/

/-- R67, R104, R129: a STARTING thread whose Mill issues becomes ACTIVE, or HALTED where debug is enabled with HALT_NEW.
R101, R103, R107: once a thread is FREE, the first of the threads that wait in forkw starts its helper with the registers and the start stamp
of its issue, and goes on; a thread that waits in join goes on once its helper has ended.
R110: a wait that has lasted WAIT_LIMIT by the replica of the Mill's island, and is no idle wait on a SERVER channel, is counted and ends
with TIMEOUT in CS; forkw gives 0xFFFF and join 0x10006 in rd. -/
def Obligations.ThreadsWake : Prop :=
  (∀ (s : State) (m : MillNo) (t : ThreadNo), (s.found.th m t).st = 1 → s.found.issuing m = true →
    exec (.threadStart m t) s = .next (s.done (s.found.setTh m t { s.found.th m t with
      st := if s.found.flag (A.MA_DBG_CTRL m) F.MA_DBG_CTRL_ENABLE && s.found.flag (A.MA_DBG_CTRL m) F.MA_DBG_CTRL_HALT_NEW then 7 else 2 }))) ∧
  (∀ (s : State) (m : MillNo) (t : ThreadNo),
    let c := s.found
    (∀ m' t' rd target g start k h,
      c.firstServed (c.forkWaiters m) = some (m', t') →
      (c.th m t').wait = .forkw rd target g start → (c.th m t').emptySlot = some k → c.pickThread m (some (t' / 16)) = some h →
      exec (.forkwGrant m) s =
        .next (s.done (let d := c.startHelper m t' h k rd target g start; d.setTh m t' (d.th m t').wake))) ∧
    (∀ rd k, (c.th m t).wait = .join rd k → (nth JoinSlot.empty (c.th m t).joins k).ended = true →
      exec (.joinWake m t) s = .next (s.done (c.setTh m t ((c.th m t).joined rd k).wake)))) ∧
  (∀ (s : State) (m : MillNo) (t : ThreadNo),
    let c := s.found
    let x := c.th m t
    let lim := (c.rd (A.MA_WAIT_CFG m)).toNat % 2 ^ 32
    let ends (y : Thread) := Host.Outcome.next (φ := Fault) (ρ := Refusal) (s.done ((c.inc (A.MA_WAIT_TIMEOUT m)).setTh m t y))
    lim ≠ 0 → memNat m c.pwr.clkBusy = false → c.idleWait m x = false → x.since + lim * 0x10000 ≤ c.stampIn m s.time →
    (∀ ch, x.wait = .recv ch → exec (.waitTimeout m t) s = ends { x.wake with cs := csWord Code.TIMEOUT 0 ch }) ∧
    (∀ ch ws, x.wait = .send ch ws → exec (.waitTimeout m t) s = ends { x.wake with cs := csWord Code.TIMEOUT 0 ch }) ∧
    (∀ rd target g start, x.wait = .forkw rd target g start →
      exec (.waitTimeout m t) s = ends { (x.setReg rd 0xFFFF).wake with cs := csWord Code.TIMEOUT 0 0 }) ∧
    (∀ rd k, x.wait = .join rd k → exec (.waitTimeout m t) s = ends { (x.setReg rd 0x10006).wake with cs := csWord Code.TIMEOUT 0 0 }))

/-- R115, R117, R120: a message of a channel goes to the first of the blocked receivers, a reply in channel 768 to its thread, a free credit of
a LOCAL channel to the first of its blocked senders, a credit of an engine channel to the first of those that have one.
R101, R117: of several waiting threads the one served has the highest priority, and among those of its priority none has waited longer.
R113, R114, R115, R118, R126: the oldest message from another Mill joins the queue of a LOCAL channel with EXTERNAL = 1 that has room, is
discarded and counted where there is none such, and is lost where its Mill is not Open; the oldest credit on its way home arrives. Each
advances MSG_EPOCH of the Mill it reaches.
R109, R120, R121: the oldest reply of a service channel goes to channel 768 of the thread that asked, which holds at most 4; a reply for a
thread in ENDING is discarded and counted, and the last of them frees the thread. -/
def Obligations.WaitersServed : Prop :=
  (∀ (s : State) (m : MillNo) (ch : ChanNo) (t : ThreadNo),
    let c := s.found
    (∀ m' r src ws rest, ch.val ≠ 768 → c.firstServed ((c.blockedReceivers m ch).map fun r => (m.val, r)) = some (m', r) →
      c.queued m ch = (src, ws) :: rest →
      exec (.recvDeliver m ch t) s = .next (s.done (((c.setQueued m ch rest).creditBack m ch src).receive m r ch ws true))) ∧
    (∀ ws rest, (c.th m t).wait = .recv 768 → (c.th m t).replies = ws :: rest →
      exec (.recvDeliver m 768 t) s = .next (s.done ((c.setTh m t { c.th m t with replies := rest }).receive m t 768 ws true))) ∧
    (∀ m' t' ch' ws, ch.val < 512 → c.chanKind m ch = .local_ → 0 < c.credits m ch →
      c.firstServed (c.blockedSenders m ch) = some (m', t') → (c.th m' t').wait = .send ch' ws →
      exec (.sendCreditGrant m ch) s =
        .next (s.done ((c.publish m' m ch (c.chanKind m' ch' != .local_) ws).sendDone m' t' ch' true))) ∧
    (∀ m' t' ch' ws, 512 ≤ ch.val → c.firstServed (c.ableSenders m ch) = some (m', t') → (c.th m t').wait = .send ch' ws →
      exec (.sendCreditGrant m ch) s = .next (s.done ((c.request s.time m t' ch ws).sendDone m t' ch true)))) ∧
  (∀ (c : Chip) (ts : List (Nat × Nat)) (p q : Nat × Nat), (∀ r ∈ ts, (c.th r.1 r.2).prio ≤ 3 ∧ (c.th r.1 r.2).since < 2 ^ 80) →
    c.firstServed ts = some p → q ∈ ts →
    p ∈ ts ∧ ((c.th q.1 q.2).prio < (c.th p.1 p.2).prio ∨
      (c.th q.1 q.2).prio = (c.th p.1 p.2).prio ∧ (c.th p.1 p.2).since ≤ (c.th q.1 q.2).since)) ∧
  (∀ (s : State) (src dst : MillNo),
    let c := s.found
    (∀ a x b, c.xmsgs = a ++ x :: b → x.src = src.val → x.dst = dst.val → (∀ y ∈ a, ¬ (y.src = src.val ∧ y.dst = dst.val)) →
      let d := ({ c with xmsgs := a ++ b }).epoch dst
      let room : Prop := d.chanKind dst x.chan = .local_ ∧ d.flag (A.MA_CHAN dst x.chan) F.MA_CHAN_EXTERNAL = true ∧
        (d.queued dst x.chan).length < d.get (A.MA_CHAN dst x.chan) F.MA_CHAN_DEPTH + 1
      (c.open1 dst = true → room →
        exec (.remoteMessageArrival src dst) s =
          .next (s.done (d.setQueued dst x.chan (d.queued dst x.chan ++ [(src.val, x.words)])))) ∧
      (c.open1 dst = true → ¬ room → exec (.remoteMessageArrival src dst) s = .next (s.done (d.inc (A.MA_CHAN_DISCARD dst)))) ∧
      (c.open1 dst = false → exec (.remoteMessageArrival src dst) s = .next (s.done { c with xmsgs := a ++ b }))) ∧
    (∀ a x b, c.xcreds = a ++ x :: b → x.src = src.val → x.dst = dst.val → (∀ y ∈ a, ¬ (y.src = src.val ∧ y.dst = dst.val)) →
      exec (.remoteCreditReturn src dst) s = .next (s.done (({ c with xcreds := a ++ b }).epoch src)))) ∧
  (∀ (s : State) (m : MillNo) (t : ThreadNo) (ch : ChanNo) (a b : List EngRep) (r : EngRep),
    s.found.reps = a ++ r :: b → r.mill = m.val → r.tid = t.val → r.chan = ch.val →
    (∀ q ∈ a, ¬ (q.mill = m.val ∧ q.tid = t.val ∧ q.chan = ch.val)) →
    let c := ({ s.found with reps := a ++ b }).epoch m
    let x := { c.th m t with reqs := (c.th m t).reqs - 1 }
    (x.st ≠ 9 → x.replies.length < 4 →
      exec (.engineReply m t ch) s = .next (s.done (c.setTh m t { x with replies := x.replies ++ [r.words] }))) ∧
    (x.st ≠ 9 → 4 ≤ x.replies.length → exec (.engineReply m t ch) s = .next (s.done s.found)) ∧
    (x.st = 9 → x.reqs ≠ 0 → exec (.engineReply m t ch) s = .next (s.done ((c.inc (A.MA_REPLY_DISCARD m)).setTh m t x))) ∧
    (x.st = 9 → x.reqs = 0 →
      exec (.engineReply m t ch) s = .next (s.done (((c.inc (A.MA_REPLY_DISCARD m)).setTh m t Thread.free).afterFree s.time m t x))))

/-- R125: a stall that has lasted STALL_LIMIT by the replica of the Mill's island. HALT_MILL counts and journals it, halts every live thread, sets MILL_HALTED and raises
MA_MILL_DEADLOCK; ABORT_YOUNGEST counts and journals it, ends the youngest blocked thread with DEADLOCK and starts the measurement anew.
R126: a poll across Mills, at most one per POLL_US. Polling disabled, or too early, changes nothing; a poll that finds no deadlock keeps its
readings for the next; one that finds the set `mills` is counted, raises MA_XMILL_DEADLOCK against the slice of the youngest blocked thread
of the set, is journaled with the set, ends that thread with DEADLOCK and starts anew.
R126: the set a poll resolves lies among the Mills that qualify; every Mill that one of it waits on is of the set; and every such set lies
within it. -/
def Obligations.StallActions : Prop :=
  (∀ (s : State) (m : MillNo) (since : Nat),
    let c := s.found
    (c.mill m).stall = some since →
    since + c.get (A.MA_STALL_CFG m) F.MA_STALL_CFG_STALL_LIMIT * 0x10000 ≤ c.stampIn m s.time →
    c.stalled m = true → memNat m c.pwr.clkBusy = false →
    let d := c.inc (A.MA_STALL_COUNT m)
    let entry (a0 a1 : Word) : JEvent := { JEvent.base with event := 0x0A, level := 1, island := m, detail := m, a0 := a0, a1 := a1 }
    (c.get (A.MA_STALL_CFG m) F.MA_STALL_CFG_ACTION = 1 →
      exec (.stallLimitExpiry m) s = .next (s.done
        ((((d.journal s.time (entry 0 1)).haltAll m).setFlag (A.MA_STALL_STATUS m) F.MA_STALL_STATUS_MILL_HALTED true).raise s.time
          Flt.MA_MILL_DEADLOCK m 63 0 0))) ∧
    (∀ t x, c.get (A.MA_STALL_CFG m) F.MA_STALL_CFG_ACTION ≠ 1 → d.youngest m = some (t, x) →
      exec (.stallLimitExpiry m) s = .next (s.done
        (let e := (d.journal s.time (entry (BitVec.ofNat 64 t) 0)).endThread s.time m t Code.DEADLOCK true .deflt
         e.setMill m { e.mill m with stall := none })))) ∧
  (∀ (s : State),
    let c := s.found
    let ep (m : Nat) := c.get (A.MA_STALL_STATUS m) F.MA_STALL_STATUS_MSG_EPOCH
    let reading (m : Nat) : Option (Bool × Nat) := if c.open1 m then some (c.quiescent m, ep m) else none
    let cand := (List.range 16).filter fun m =>
      !c.millHalted m && (reading m == some (true, ep m)) && ((c.mill m).poll == some (true, ep m))
    let mills := closedSet c.extMask 16 cand
    let d := { c with cmd := { c.cmd with polled := some (stamp s.time) } }
    let due : Prop := ∀ t, c.cmd.polled = some t →
      t + 1000 * c.get A.MA_XSTALL_CTRL F.MA_XSTALL_CTRL_POLL_US * 0x10000 ≤ stamp s.time ∨ stamp s.time < t
    (c.flag A.MA_XSTALL_CTRL F.MA_XSTALL_CTRL_ENABLE = false ∨ ¬ due → exec .xstallPoll s = .next (s.done c)) ∧
    (c.flag A.MA_XSTALL_CTRL F.MA_XSTALL_CTRL_ENABLE = true → due → c.youngestOf mills = none →
      exec .xstallPoll s = .next (s.done ((List.range 16).foldl (fun (d : Chip) j => d.setMill j { d.mill j with poll := reading j }) d))) ∧
    (c.flag A.MA_XSTALL_CTRL F.MA_XSTALL_CTRL_ENABLE = true → due → ∀ m t, c.youngestOf mills = some (m, t) →
      let e := (d.inc A.MA_XSTALL_COUNT).raise s.time Flt.MA_XMILL_DEADLOCK 31 63 (c.th m t).slice 0
      let entry : JEvent := { JEvent.base with event := 0x0A, level := 1, island := m, detail := m,
                                                a0 := BitVec.ofNat 64 (mills.foldl (fun k j => k ||| 2 ^ j) 0),
                                                a1 := BitVec.ofNat 64 Code.DEADLOCK }
      let e := (e.journal s.time entry).endThread s.time m t Code.DEADLOCK true .deflt
      exec .xstallPoll s = .next (s.done ((List.range 16).foldl (fun c j => c.setMill j { c.mill j with poll := none }) e)))) ∧
  (∀ (mask : Nat → Nat) (cand : List Nat), (∀ m ∈ cand, m < 16) → cand.Nodup →
    let s := closedSet mask 16 cand
    (∀ m ∈ s, m ∈ cand) ∧ (∀ m ∈ s, ∀ k < 16, (mask m).testBit k = true → k ∈ s) ∧
    (∀ l : List Nat, (∀ m ∈ l, m ∈ cand) → (∀ m ∈ l, ∀ k < 16, (mask m).testBit k = true → k ∈ l) → ∀ m ∈ l, m ∈ s))

/-- R125, R127, R128, R129: what a debug operation answers and does to threads. With debug disabled every operation ends with DBG_DISABLED;
HALT withdraws what a live thread waits in and halts it; RESUME and STEP let a HALTED thread go on, after its brk where it halted on one; in a
Mill stopped by HALT_MILL they end with MILL_STOPPED; KILL journals and ends a live thread with KILLED; HALT_ALL and RESUME_ALL act on every
thread.
R111, R114, R127, R129: the writes of a Mill's registers. A debug operation written in Provision, Diagnostic or Recovery with debug enabled
and the thread in a state for it has its effect and ends OK; in any other mode it ends with MODE_REFUSED; a stepped thread whose instruction
has completed is HALTED again; a write of DBG_CTRL takes effect, and clearing ENABLE resumes what was halted; a resident thread starts on a FREE
thread that no waiter is to have; a channel with no message and no waiting thread takes its configuration. -/
def Obligations.DebugOperations : Prop :=
  (∀ (c : Chip) (now m t : Nat),
    let x := c.th m t
    let resumed (st : Nat) (x : Thread) : Thread :=
      { x with st := st, pc := if x.brk then (x.pc + 1) % 65536 else x.pc, brk := false, stepped := false }
    let halted (x : Thread) : Thread := { x with wait := .none, st := 7, stepped := false }
    (c.dbgOn m = false → ∀ op, 1 ≤ op → op ≤ 6 → c.debugOp now m op t = (Code.DBG_DISABLED, c)) ∧
    (∀ op, op = 0 ∨ 7 ≤ op → c.debugOp now m op t = (Code.BAD_ARGUMENT, c)) ∧
    (c.dbgOn m = true →
      (x.st ≠ 0 → x.st ≠ 7 → x.st ≠ 9 → c.debugOp now m 1 t = (Code.OK, c.setTh m t (halted x))) ∧
      (x.st = 7 → c.debugOp now m 1 t = (Code.OK, c)) ∧
      (x.st = 0 ∨ x.st = 9 → c.debugOp now m 1 t = (Code.NOT_FOUND, c) ∧ c.debugOp now m 4 t = (Code.NOT_FOUND, c)) ∧
      (c.millHalted m = false → x.st = 7 →
        c.debugOp now m 2 t = (Code.OK, c.setTh m t (resumed 2 x)) ∧ c.debugOp now m 3 t = (Code.OK, c.setTh m t (resumed 8 x))) ∧
      (c.millHalted m = false → x.st ≠ 7 →
        c.debugOp now m 2 t = (Code.DBG_NOT_HALTED, c) ∧ c.debugOp now m 3 t = (Code.DBG_NOT_HALTED, c)) ∧
      (c.millHalted m = true → ∀ op, op = 2 ∨ op = 3 ∨ op = 6 → c.debugOp now m op t = (Code.MILL_STOPPED, c)) ∧
      (x.st ≠ 0 → x.st ≠ 9 →
        let d := c.journal now { JEvent.base with event := 0x0A, level := 1, island := m, detail := m, a0 := BitVec.ofNat 64 t,
                                                   a1 := BitVec.ofNat 64 Code.KILLED }
        c.debugOp now m 4 t = (Code.OK, d.endThread now m t Code.KILLED true .deflt)) ∧
      c.debugOp now m 5 t = (Code.OK, c.setMill m { c.mill m with threads := (c.mill m).threads.map fun e =>
        if e.2.st = 0 ∨ e.2.st = 7 ∨ e.2.st = 9 then e else (e.1, halted e.2) }) ∧
      (c.millHalted m = false → c.debugOp now m 6 t = (Code.OK, c.setMill m { c.mill m with threads := (c.mill m).threads.map fun e =>
        if e.2.st = 7 then (e.1, resumed 2 e.2) else e })))) ∧
  (∀ (s : State) (m : MillNo) (t : ThreadNo) (v : Word),
    let c := s.found
    let now := s.time
    let d (op t : Nat) : Chip := c.filled now (A.MA_DBG_CMD m) [BitVec.ofNat 64 (op + 256 * t)]
    let cmd (op t : Nat) : Status × Chip := (d op t).debugOp now m op t
    let halted (x : Thread) : Thread := { x with wait := .none, st := 7, stepped := false }
    let able (op t : Nat) : Prop := s.writable (A.MA_DBG_CMD m) = true ∧ c.debugMode = true ∧ (d op t).dbgOn m = true
    (s.writable (A.MA_DBG_CMD m) = true → c.debugMode = true →
      exec (.halt m t) s = s.wrote (cmd 1 t).1 (cmd 1 t).2 ∧ exec (.resume m t) s = s.wrote (cmd 2 t).1 (cmd 2 t).2 ∧
      exec (.step m t) s = s.wrote (cmd 3 t).1 (cmd 3 t).2 ∧ exec (.kill m t) s = s.wrote (cmd 4 t).1 (cmd 4 t).2 ∧
      exec (.haltAll m) s = s.wrote (cmd 5 0).1 (cmd 5 0).2 ∧ exec (.resumeAll m) s = s.wrote (cmd 6 0).1 (cmd 6 0).2) ∧
    (able 1 t → let x := (d 1 t).th m t
      x.st ≠ 0 → x.st ≠ 7 → x.st ≠ 9 → exec (.halt m t) s = s.wrote Code.OK ((d 1 t).setTh m t (halted x))) ∧
    (able 2 t → (d 2 t).millHalted m = false → ((d 2 t).th m t).st = 7 →
      exec (.resume m t) s = s.wrote Code.OK ((d 2 t).setTh m t (((d 2 t).th m t).resume false))) ∧
    (able 3 t → (d 3 t).millHalted m = false → ((d 3 t).th m t).st = 7 →
      exec (.step m t) s = s.wrote Code.OK ((d 3 t).setTh m t (((d 3 t).th m t).resume true))) ∧
    (able 4 t → ((d 4 t).th m t).st ≠ 0 → ((d 4 t).th m t).st ≠ 9 →
      exec (.kill m t) s = s.wrote Code.OK (((d 4 t).journal now { JEvent.base with
        event := 0x0A, level := 1, island := m, detail := m, a0 := BitVec.ofNat 64 t, a1 := BitVec.ofNat 64 Code.KILLED }).endThread
          now m t Code.KILLED true .deflt)) ∧
    (able 5 0 → exec (.haltAll m) s = s.wrote Code.OK ((d 5 0).haltAll m)) ∧
    (able 6 0 → (d 6 0).millHalted m = false → let y := (d 6 0).mill m
      exec (.resumeAll m) s = s.wrote Code.OK ((d 6 0).setMill m { y with
        threads := y.threads.map fun e => if e.2.st = 7 then (e.1, e.2.resume false) else e })) ∧
    (s.writable (A.MA_DBG_CMD m) = true → c.debugMode = false →
      exec (.halt m t) s = s.wrote Code.MODE_REFUSED c ∧ exec (.resume m t) s = s.wrote Code.MODE_REFUSED c ∧
      exec (.step m t) s = s.wrote Code.MODE_REFUSED c ∧ exec (.kill m t) s = s.wrote Code.MODE_REFUSED c ∧
      exec (.haltAll m) s = s.wrote Code.MODE_REFUSED c ∧ exec (.resumeAll m) s = s.wrote Code.MODE_REFUSED c) ∧
    ((c.th m t).st = 8 → (c.th m t).stepped = true → (c.th m t).wait = .none → ((c.th m t).loads.all fun l => !l.step) = true →
      exec (.stepComplete m t) s = .next (s.done (c.setTh m t { c.th m t with wait := .none, st := 7, stepped := false }))) ∧
    (s.writable (A.MA_DBG_CTRL m) = true →
      (c.debugMode = true → exec (.dbgCtrlWrite m v) s = s.wrote Code.OK ((c.filled now (A.MA_DBG_CTRL m) [v]).debugCtrl m)) ∧
      (c.debugMode = false → exec (.dbgCtrlWrite m v) s = s.wrote Code.MODE_REFUSED c)) ∧
    (∀ (k : Fin 16) (entry : BitVec 16) (prio : Fin 4), s.writable (A.MA_RESIDENT m k) = true →
      let a := A.MA_RESIDENT m k
      let d := c.filled now a [BitVec.ofNat 64 (entry.toNat + prio.val * 2 ^ 16 + 2 ^ 18)]
      let x : Thread := { Thread.free with st := 1, pc := d.get a F.MA_RESIDENT_ENTRY, prio := d.get a F.MA_RESIDENT_PRIO,
                                            res := some k.val, start := d.stampIn m now }
      (c.flag a F.MA_RESIDENT_LIVE = true → exec (.residentStart m k entry prio) s = s.wrote Code.BAD_ARGUMENT c) ∧
      (c.flag a F.MA_RESIDENT_LIVE = false → d.spareThread m none = none → exec (.residentStart m k entry prio) s = s.wrote Code.EMPTY c) ∧
      (∀ u, c.flag a F.MA_RESIDENT_LIVE = false → d.spareThread m none = some u → exec (.residentStart m k entry prio) s =
        s.wrote Code.OK ((((d.cleanWindows m u).setTh m u x).setFlag a F.MA_RESIDENT_LIVE true).set a F.MA_RESIDENT_TID u))) ∧
    (∀ (ch : Fin 512), s.writable (A.MA_CHAN m ch) = true →
      let d := c.filled now (A.MA_CHAN m ch) [v]
      (d.get (A.MA_CHAN m ch) F.MA_CHAN_KIND = 3 → exec (.chanWrite m ch v) s = s.wrote Code.BAD_ARGUMENT c) ∧
      (d.get (A.MA_CHAN m ch) F.MA_CHAN_KIND ≠ 3 → c.chanFree m ch = false → exec (.chanWrite m ch v) s = s.wrote Code.CHAN_BUSY c) ∧
      (d.get (A.MA_CHAN m ch) F.MA_CHAN_KIND ≠ 3 → c.chanFree m ch = true → exec (.chanWrite m ch v) s = s.wrote Code.OK d)))

/-! ### Frames, Dispatch, Prelook, the order stage (spec/05_packet_program.md, spec/09_ports.md) -/

/-- R49, R250, R251, R253, R254, R408, R269, R273: a whole express frame that a port without loopback receives has the stamp of its first
bit. It is classified by its length, its FCS and the PCS; a good one is counted, then consumed as a MAC control frame, diverted as a command frame,
counted as overrun where the receive buffer is full, or waits for a bobbin where the mode admits it; a bad one is counted in its row and
dropped, unless DELIVER_BAD asks for it and it is no MAC control frame.
R251, Table 9-2: the flags of a frame that was not under reassembly, and the one row that counts it: the first whose condition holds.
R49, R252: the fragments of a preemptable frame. A first fragment that ends with its mCRC opens a reassembly with its frame number and its
stamp; a continuation with the frame number and the count that are due joins it while it ends with its mCRC, and completes the frame where it
ends with the FCS, under the stamp of the first; with another number or count, too short, or with neither check, and with no reassembly open, what
was received is a frame that suffered a reassembly error.
R254, R269, R408: the own effects of the frames that never reach a bobbin. A good PAUSE or PFC frame pauses the priorities it names for its
quanta under the mode that takes it; a good command frame of an enabled port, with fewer than 16 held, waits in the port context of the command
processor, and else is dropped and counted.
R228, R229, R231, R133: the oldest frame in a group's receive buffer gets a bobbin of its own and becomes a packet that waits for Dispatch,
with its bytes in the bobbin and what Buffering knows in its metadata; with no bobbin it is dropped and counted. -/
def Obligations.FramesReceived : Prop :=
  (∀ (s : State) (p : PortNo) (bs : List Byte) (pcs : Bool) (fecOk fecBad : Nat),
    let c := (s.found.add (A.PX_FEC_CORRECTED p) fecOk).add (A.PX_FEC_UNCORRECTED p) fecBad
    let mf := c.maxFrame p
    let st := c.stampIn (16 + p.val / 4) (s.time - c.wireTime p bs.length) + 0x2000 * c.get (A.PX_LAT p) F.PX_LAT_RX_LAT
    let fl := rxFlags bs mf pcs
    let long := decide (mf < bs.length)
    let len := if long then mf + 1 else bs.length
    let data := if long then bs.take mf else bs.take (bs.length - 4)
    let prio := if (etherOff data).2 = 0 then c.get (A.PX_CFG p) F.PX_CFG_DEFAULT_PRIO else byteAt data 14 / 32
    let frame : RxFrame := { port := p, bytes := data, frameLen := len, err := fl, prio := prio, stamp := st }
    let kept (d : Chip) : Chip := { d with net := { d.net with rx := d.net.rx ++ [frame] } }
    let good := ((c.inc (A.PX_RX_FRAMES p)).add (A.PX_RX_BYTES p) len).report 0 p len st
    let served := good.clockFrame s.time p data st
    let bad := (c.inc (rxRow p fl)).add (A.PX_RX_BAD_BYTES p) len
    let fin (d : Chip) : Chip := if (d.port p).asm.isSome then d else d.setPort p { d.port p with tail := none }
    let ends (d : Chip) : Prop := exec (.frameReceive p .express bs pcs fecOk fecBad) s = .next (s.done (fin d))
    s.found.receives p = true → c.loopback p = 0 →
    (fl = 0 → isMacCtrl data = false → good.isCmdFrame data = false → good.rxFull p = false → served.loopback p = 0 →
      served.admitsPort p = true ∨ (ptpEvent data true true).isSome = true → ends (kept served)) ∧
    (fl = 0 → isMacCtrl data = false → good.isCmdFrame data = false → good.rxFull p = false → served.loopback p = 0 →
      served.admitsPort p = false → ptpEvent data true true = none → ends (served.inc (A.CP_MODE_DROP p))) ∧
    (fl = 0 → isMacCtrl data = false → good.isCmdFrame data = false → good.rxFull p = true → ends (good.inc (A.PX_RX_OVERRUN p))) ∧
    (fl = 0 → isMacCtrl data = false → good.isCmdFrame data = true → ends (good.cmdFrame p data)) ∧
    (fl = 0 → isMacCtrl data = true → ends (good.macCtrl s.time p data)) ∧
    (fl ≠ 0 → (bad.rxFull p = false ∧ bad.flag (A.PX_CFG p) F.PX_CFG_DELIVER_BAD = false) ∨ isMacCtrl data = true →
      ends (bad.inc (A.PX_RX_BAD_DROP p))) ∧
    (fl ≠ 0 → bad.rxFull p = true → isMacCtrl data = false → ends ((bad.inc (A.PX_RX_OVERRUN p)).inc (A.PX_RX_BAD_DROP p))) ∧
    (fl ≠ 0 → bad.rxFull p = false → isMacCtrl data = false → bad.flag (A.PX_CFG p) F.PX_CFG_DELIVER_BAD = true →
      (bad.inc (A.PX_RX_BAD_DELIVERED p)).admitsPort p = true → ends (kept (bad.inc (A.PX_RX_BAD_DELIVERED p)))) ∧
    (s.found.isCmdFrame bs = true → exec (.commandFrame p bs) s = exec (.frameReceive p .express bs false 0 0) s) ∧
    (isMacCtrl bs = true → exec (.pauseFrameReceive p bs) s = exec (.frameReceive p .express bs false 0 0) s)) ∧
  ((∀ (bs : List Byte) (mf : Nat) (pcs : Bool),
    let badFcs := bs.length ≤ mf ∧ (bs.length < 4 ∨ fcsOf (bs.take (bs.length - 4)) ≠ bs.drop (bs.length - 4))
    (natBits (rxFlags bs mf pcs) 0 1 = 1 ↔ badFcs) ∧ (natBits (rxFlags bs mf pcs) 1 1 = 1 ↔ bs.length < 64) ∧
    (natBits (rxFlags bs mf pcs) 2 1 = 1 ↔ mf < bs.length) ∧ (natBits (rxFlags bs mf pcs) 3 1 = 1 ↔ pcs = true) ∧
    natBits (rxFlags bs mf pcs) 4 1 = 0 ∧ rxFlags bs mf pcs < 16) ∧
  (∀ (p : Nat) (fcs runt long pcs pre : Bool),
    let fl := (if fcs then 1 else 0) + (if runt then 2 else 0) + (if long then 4 else 0) + (if pcs then 8 else 0) + (if pre then 16 else 0)
    (pcs = true → rxRow p fl = A.PX_RX_PCS_ERR p) ∧ (pcs = false → long = true → rxRow p fl = A.PX_RX_OVERSIZE p) ∧
    (pcs = false → long = false → pre = true → rxRow p fl = A.PX_RX_PREEMPT_ERR p) ∧
    (pcs = false → long = false → pre = false → runt = true → rxRow p fl = A.PX_RX_RUNT p) ∧
    (pcs = false → long = false → pre = false → runt = false → rxRow p fl = A.PX_RX_FCS_ERR p))) ∧
  (∀ (c : Chip) (now : Nat) (p : PortNo) (no k : Fin 4) (bs : List Byte) (pcs : Bool),
    let body := bs.take (bs.length - 4)
    let crc := bs.drop (bs.length - 4)
    let st := c.rxStamp now p bs.length
    let put (a : Option Asm) : Chip := c.setPort p { c.port p with asm := a }
    (c.rxIn now p .express bs pcs = c.rxFrame now p bs pcs st) ∧
    ((c.port p).asm = none →
      (64 ≤ bs.length → crc = mcrcOf body → c.rxIn now p (.start no) bs pcs = put (some ⟨no, 0, body, st, pcs⟩)) ∧
      (4 ≤ bs.length → bs.length < 64 → crc = mcrcOf body → c.rxIn now p (.start no) bs pcs = c.rxBroken now p body pcs st) ∧
      (bs.length < 4 ∨ crc ≠ mcrcOf body → c.rxIn now p (.start no) bs pcs = c.rxFrame now p bs pcs st) ∧
      c.rxIn now p (.cont no k) bs pcs = c.rxBroken now p [] pcs st) ∧
    (∀ a : Asm, (c.port p).asm = some a →
      let all := a.bytes ++ body
      let bad := a.pcs || pcs
      let closed := put none
      (a.no ≠ no ∨ a.next ≠ k → c.rxIn now p (.cont no k) bs pcs = closed.rxBroken now p a.bytes bad a.stamp) ∧
      (a.no = no → a.next = k →
        (64 ≤ bs.length → crc = mcrcOf all →
          c.rxIn now p (.cont no k) bs pcs = closed.setPort p { closed.port p with asm := some ⟨no, k + 1, all, a.stamp, bad⟩ }) ∧
        (4 ≤ bs.length → bs.length < 64 → crc = mcrcOf all → c.rxIn now p (.cont no k) bs pcs = closed.rxBroken now p all bad a.stamp) ∧
        (4 ≤ bs.length → crc ≠ mcrcOf all → crc = fcsOf all →
          c.rxIn now p (.cont no k) bs pcs = closed.rxFrame now p (a.bytes ++ bs) bad a.stamp) ∧
        (4 ≤ bs.length → crc ≠ mcrcOf all → crc ≠ fcsOf all →
          c.rxIn now p (.cont no k) bs pcs = closed.rxBroken now p all bad a.stamp) ∧
        (bs.length < 4 → c.rxIn now p (.cont no k) bs pcs = closed.rxBroken now p (a.bytes ++ bs) bad a.stamp)))) ∧
  (∀ (s : State) (p : PortNo) (bs : List Byte),
    let c := (s.found.add (A.PX_FEC_CORRECTED p) 0).add (A.PX_FEC_UNCORRECTED p) 0
    let st := c.rxStamp s.time p bs.length
    let data := bs.take (bs.length - 4)
    let good := ((c.inc (A.PX_RX_FRAMES p)).add (A.PX_RX_BYTES p) bs.length).report 0 p bs.length st
    let fin (d : Chip) : Chip := if (d.port p).asm.isSome then d else d.setPort p { d.port p with tail := none }
    s.found.receives p = true → c.loopback p = 0 → bs.length ≤ c.maxFrame p → rxFlags bs (c.maxFrame p) false = 0 →
    (isMacCtrl bs = true → isMacCtrl data = true →
      let ends (d : Chip) : Prop := exec (.pauseFrameReceive p bs) s = .next (s.done (fin d))
      let d := good.inc (A.PX_RX_PAUSE p)
      (u16At data 14 = 1 → d.get (A.PX_WEIR_CFG p) F.PX_WEIR_CFG_MODE = 1 → ends (d.pausePrios s.time p 255 fun _ => u16At data 16)) ∧
      (u16At data 14 = 0x0101 → d.get (A.PX_WEIR_CFG p) F.PX_WEIR_CFG_MODE = 2 →
        ends (d.pausePrios s.time p (u16At data 16 % 256) fun k => u16At data (18 + 2 * k)))) ∧
    (s.found.isCmdFrame bs = true → isMacCtrl data = false → good.isCmdFrame data = true →
      let ends (d : Chip) : Prop := exec (.commandFrame p bs) s = .next (s.done (fin d))
      let tags := (etherOff data).2
      let on : Prop := natBits (good.get A.CP_CMD_CFG F.CP_CMD_CFG_PORT_EN) p 1 = 1
      (on → good.framesHeld < 16 → ends (good.cmdSubmit 18 (data.drop ((etherOff data).1 + 2))
        { source := 5, detail := p, limit := good.maxFrame p - 18 - 4 * tags, resAddr := 0, sa := bytesAt data 6 6,
          tags := bytesAt data 12 (4 * tags), pre := Code.OK, gen := 0 })) ∧
      (on → 16 ≤ good.framesHeld → ends (good.inc A.CP_CMD_RX_DROP)) ∧
      (¬on → ends (good.inc A.CP_CMD_RX_OFF)))) ∧
  (∀ (s : State) (g : GroupNo) (f : RxFrame) (rest : List RxFrame),
    takeFirst (fun f : RxFrame => f.port / 4 == g.val) s.found.net.rx = some (f, rest) →
    s.found.open1 (16 + g.val) = true →
    let c : Chip := { s.found with net := { s.found.net with rx := rest } }
    let a := c.alloc s.time f.bytes.length ⟨false, 0, true, false, f.port, f.prio, 0, 0⟩
    c.open1 23 = true →
    (∀ id fell, a.1 = some (id, fell) →
      let d := a.2.bobFill (a.2.bobBase id) f.bytes
      let parsed := preParse f.bytes f.bytes.length d.stnOpt
      let sums := if d.flag (A.PX_CFG f.port) F.PX_CFG_RX_CSUM_EN then rxCsum f.bytes parsed else 0
      exec (.poolAllocation g) s = .next (s.done (d.addPacket { Packet.none with
        src := f.port, plen := f.bytes.length, frameLen := f.frameLen, err := f.err + sums, prioIn := f.prio, istamp := f.stamp, bob := id,
        w7 := metaWord7 parsed }))) ∧
    (a.1 = none → a.2.present f.port = true → exec (.poolAllocation g) s = .next (s.done (a.2.inc (A.PX_RX_NO_BOBBIN f.port)))))

/-- R229, R231: a bobbin granted to a request of `n` bytes belongs to an enabled pool whose bobbins hold `n` bytes, at an index below its COUNT,
and the grant says exactly whether a pool of lower number that also holds `n` bytes was passed over. -/
def Obligations.SmallestPoolServes : Prop :=
  ∀ (c : Chip) (now n id : Nat) (g : Grant) (fell : Bool), (c.alloc now n g).1 = some (id, fell) →
    c.poolFits n (bobPool id) = true ∧ bobIndex id < c.pool (bobPool id) F.BP_POOL_COUNT ∧ bobPool id < 8 ∧
    (∀ p, p < bobPool id → c.poolFits n p = true → fell = true) ∧
    ((∀ p, p < bobPool id → c.poolFits n p = false) → fell = false)

/-- R135-R140, R158: what Dispatch does with the packet it serves next. A valid steering entry puts the packet in the dispatch queue of the Mill
that serves it; an entry with VALID = 0 leads to the source's default action; with no Mill of the side up, or a poisoned metadata word, the
packet is lost and billed.
R101, R138, R67: a Mill whose FREE threads exceed its reserve, with no thread waiting in forkw, takes a thread for the oldest packet of its
dispatch queue and fills its head window; R37: the order stage passes the oldest verdict before which nothing of its order group is missing.
R135, R137, R151: the writes of steering entries, profiles, recipes and of MA_PL_CTRL. A steering entry or a profile advances MA_STEER_GEN, a
recipe empties the signature slots that name it, INVALIDATE empties the signature cache. -/
def Obligations.DispatchServes : Prop :=
  (∀ (s : State) (pk : Nat) (p : Packet) (w : Nat),
    s.found.open1 23 = true → s.found.dispatchPick = some (pk, p, w) →
    let c : Chip := { s.found with disp := { s.found.disp with wrr := w } }
    let r := Chip.readSrams s.time 1 0 0 2 (2 * c.bobSlot p.bob) c
    let d := r.2
    let e := d.steer p
    (∀ m, r.1 = false → e.valid = true → d.servingMill e.mill = some m →
      exec .dispatch s = .next (s.done (d.enterQueue s.time pk m p e))) ∧
    (r.1 = false → e.valid = true → d.servingMill e.mill = none →
      exec .dispatch s = .next (s.done (((d.inc A.MA_DISPATCH_NO_MILL).billIn p.src (preSlice p) p.frameLen p.istamp).discardPkt s.time pk p))) ∧
    (r.1 = false → e.valid = false →
      exec .dispatch s = .next (s.done (d.invalidEntry s.time pk { p with profile := e.profile, slice := e.slice, steer := e.steer, hash := e.hash }))) ∧
    (r.1 = true → exec .dispatch s = .next (s.done
      ((((d.inc A.MA_DISPATCH_POISON).raise s.time Flt.MA_META_POISON 23 63 0 0).billIn p.src (preSlice p) p.frameLen p.istamp).discardPkt
        s.time pk p)))) ∧
  (∀ (s : State) (m : MillNo),
    let c := s.found
    (∀ pk rest p t, c.open1 m = true → c.open1 23 = true → memNat m c.pwr.clkBusy = false → c.forkWaits m = false → c.forkReserve m < c.freeCount m →
      c.dq m = pk :: rest → c.pkt pk = some p → c.pickThread m none = some t →
      exec (.dispatchThreadTake m) s = .next (s.done
        (((((c.setDq m rest).setPkt pk (some { p with stage := 2 })).cleanWindows m t).setTh m t
          (rootOf (c.stampIn m s.time) pk p)).fillHead s.time m t p))) ∧
    (∀ h, c.open1 m = true → c.open1 23 = true → leastBy Held.seq (c.disp.held.filter fun h => h.mill == m.val && !c.heldBack h) = some h →
      c.heldBack h = false ∧ h ∈ c.disp.held ∧
      exec (.orderStageRelease m) s = .next (s.done
        { c with disp := { c.disp with held := c.disp.held.filter (fun g => g.seq != h.seq), enq := c.disp.enq ++ [h.req] } }))) ∧
  (∀ (s : State) (v : Word) (ws : List Word),
    let c := s.found
    let now := s.time
    let next (d : Chip) : Chip := d.set A.MA_STEER_GEN F.MA_STEER_GEN_GEN (d.get A.MA_STEER_GEN F.MA_STEER_GEN_GEN + 1)
    (∀ n : Fin 4096, s.writable (A.MA_STEER n) = true →
      exec (.steerWrite (.inl n) [v]) s = s.wrote Code.OK (next (c.filled now (A.MA_STEER n) [v])) ∧
      exec (.steerWrite (.inl n) ws) s = s.wrote (c.put now (A.MA_STEER n) ws).1 (c.put now (A.MA_STEER n) ws).2) ∧
    (∀ k : Fin 64, s.writable (A.MA_PROFILE k) = true → 1 ≤ ws.length → ws.length ≤ 4 →
      let a := A.MA_PROFILE k
      let d := c.filled now a ws
      let ok := d.getAt now a F.MA_PROFILE_SIZE_LOG2 ≤ 12 ∧ d.getAt now a F.MA_PROFILE_HASH_SEL ≤ 4 ∧
        d.getAt now a F.MA_PROFILE_BASE + 2 ^ d.getAt now a F.MA_PROFILE_SIZE_LOG2 ≤ 4096
      (ok → exec (.steerWrite (.inr k) ws) s = s.wrote Code.OK (next d)) ∧
      (¬ok → exec (.steerWrite (.inr k) ws) s = s.wrote Code.BAD_ARGUMENT c)) ∧
    (∀ r : Fin 64, s.writable (A.MA_PL_RECIPE r) = true → 1 ≤ ws.length → ws.length ≤ 8 →
      let a := A.MA_PL_RECIPE r
      let d := c.filled now a ws
      let ok := 512 ≤ d.getAt now a F.MA_PL_RECIPE_CHAN ∧ d.getAt now a F.MA_PL_RECIPE_CHAN ≤ 607 ∧
        d.getAt now a F.MA_PL_RECIPE_WORDS ≤ 4 ∧ ∀ k, k < 5 → nth 0 ws (k + 1) &&& 0x8080808080808080 = 0
      (ok → exec (.recipeWrite r ws) s = s.wrote Code.OK (d.forgetRecipe r)) ∧
      (¬ok → exec (.recipeWrite r ws) s = s.wrote Code.BAD_ARGUMENT c)) ∧
    (s.writable A.MA_PL_CTRL = true →
      let d := c.filled now A.MA_PL_CTRL [setBits v 3 1 1]
      let ok := d.getAt now A.MA_PL_CTRL F.MA_PL_CTRL_CONF_MIN ≠ 0 ∧ 100 ≤ d.getAt now A.MA_PL_CTRL F.MA_PL_CTRL_HOLD_NS
      (ok → exec (.invalidate v) s = s.wrote Code.OK { d with disp := { d.disp with sigs := [] } }) ∧
      (¬ok → exec (.invalidate v) s = s.wrote Code.BAD_ARGUMENT c)))

/-- R149-R151: the first request of a packet on a channel for which Prelook has asked. With equal words it waits until the tentative result has
completed, which is then taken where all that it depended on still stands, and made afresh where not, and it counts as adopted; other words
discard the result and count that; with nothing anticipated, or on a later request, the request simply runs.
R147-R151, R220: a tentative request of a packet completes in its engine with its reply kept; of all that it would change nothing stands but
free values used, and the QDR words of an exact-match or LPM table; HOLD_NS after it was issued its result is discarded and counted. -/
def Obligations.PrelookAdopts : Prop :=
  (∀ (c : Chip) (r : EngReq) (run : Chip → List Word × Chip) (taken : List Word → Chip → List Word × Chip) (pk : Nat) (p : Packet) (t : Tent),
    (r.pk = none → c.adopt r run taken = some (run c)) ∧
    (r.pk = some pk → c.pkt pk = some p → memNat r.chan p.asked = true → c.adopt r run taken = some (run c)) ∧
    (r.pk = some pk → c.pkt pk = some p → memNat r.chan p.asked = false →
      let first := c.setPkt pk (some { p with asked := p.asked ++ [r.chan] })
      (c.disp.tents.find? (fun t : Tent => t.pk == pk && t.chan == r.chan) = none →
        c.adopt r run taken = some ((run first).1, (run first).2.learnSig p r.chan r.words none)) ∧
      (c.disp.tents.find? (fun t : Tent => t.pk == pk && t.chan == r.chan) = some t →
        let gone : Chip := { first with disp := { first.disp with tents := first.disp.tents.filter fun x => !(x.pk == pk && x.chan == r.chan) } }
        let adopted (q : List Word × Chip) : Option (List Word × Chip) :=
          some (q.1, (q.2.inc A.MA_PL_ADOPTED).learnSig p r.chan r.words (some (t.recipe, true)))
        (t.words = r.words → t.done = false → c.adopt r run taken = none) ∧
        (t.words = r.words → t.done = true → t.deps = gone.tentDeps p.mill r.chan p.istamp →
          c.adopt r run taken = adopted (taken t.reply gone)) ∧
        (t.words = r.words → t.done = true → t.deps ≠ gone.tentDeps p.mill r.chan p.istamp → c.adopt r run taken = adopted (run gone)) ∧
        (t.words ≠ r.words →
          let q := run (gone.inc A.MA_PL_DISCARDED)
          c.adopt r run taken = some (q.1, q.2.learnSig p r.chan r.words (some (t.recipe, false))))))) ∧
  (∀ (s : State) (pk : Nat) (p : Packet) (t : Tent) (ch : ChanNo),
    let c := s.found
    c.pkt pk = some p → c.disp.tents.find? (fun t : Tent => t.pk == pk && t.chan == ch.val && !t.done) = some t →
    let done (d : Chip) (ws : List Word) : State := s.done { d with disp := { d.disp with tents := d.disp.tents.map fun x =>
      if x.pk == pk && x.chan == ch.val then { x with done := true, reply := ws } else x } }
    let words (d : Chip) : Chip := ({ c with free := d.free }).wr (A.TE_QDR_WORDS (teOf p.mill)) (d.rd (A.TE_QDR_WORDS (teOf p.mill)))
    (512 ≤ ch.val → ch.val < 520 →
      let r := c.lookupServe s.time (p.tentReq pk t)
      exec (.tentativeComplete pk ch) s = .next (done { c with free := r.2.free } r.1)) ∧
    (ch.val = 528 →
      let r := c.scan s.time (p.tentReq pk t).words (p.tentReq pk t)
      exec (.tentativeComplete pk ch) s = .next (done { c with free := r.2.free } r.1)) ∧
    (544 ≤ ch.val → ch.val < 576 →
      let r := c.teServe s.time (p.tentReq pk t) true
      exec (.tentativeComplete pk ch) s = .next (done (words r.2) r.1)) ∧
    (577 ≤ ch.val → ch.val < 585 →
      let r := c.lpmServe s.time (p.tentReq pk t) true
      exec (.tentativeComplete pk ch) s = .next (done (words r.2) r.1)) ∧
    (let late (x : Tent) : Bool := x.pk == pk && x.chan == ch.val && decide (x.at_ + ns (c.get A.MA_PL_CTRL F.MA_PL_CTRL_HOLD_NS) ≤ c.mrNow s.time)
     let d := c.add A.MA_PL_DISCARDED (c.disp.tents.filter late).length
     exec (.holdExpiry pk ch) s = .next (s.done { d with disp := { d.disp with tents := c.disp.tents.filter fun x => !late x } })))

/-! ### The Classifier (spec/06_classifier.md) -/

/-- R165: a rule matches a key when every bit of it that CARE marks equals VALUE's, and VALUE reads back as written. The winner of a lookup is a valid
rule of the bank that is live in the version looked up and matches, and no matching live rule of the bank has a higher priority, nor the same
priority and a lower index; a lookup misses only where no live rule matches. -/
def Obligations.WinnerIsBest : Prop :=
  (∀ (c : Chip) (n key : Nat), c.ruleMatches n key = true ↔ ∀ i, i < 320 →
    (c.rd (A.CL_RULE n + 40 + 8 * (i / 64))).getLsbD (i % 64) = false ∨
      key.testBit i = (c.rd (A.CL_RULE n + 8 * (i / 64))).getLsbD (i % 64)) ∧
  (∀ (c : Chip) (now n k : Nat) (w : Word), k < 5 → (c.ruleWrite now n [(k, w)]).1 = Code.OK →
    (c.ruleWrite now n [(k, w)]).2.rd (A.CL_RULE n + 8 * k) = w) ∧
  (∀ (c : Chip) (now b ver slice : Nat) (ws : List Word), mwf resetWord c.regs = true →
    let v := (c.lookup now b ver ws slice).2.1
    let d := (c.lookup now b ver ws slice).2.2
    let key := lookupKey (d.flag (A.CL_BANK_CFG b) F.CL_BANK_CFG_INSERT_SLICE) ws slice
    let prio (r : Nat) : Nat := d.rule (8192 * b + r) F.CL_RULE_PRIORITY
    let meets (r : Nat) : Prop := r ∈ c.validRules b ∧ c.ruleLive b (8192 * b + r) v = true ∧ d.ruleMatches (8192 * b + r) key = true
    (∀ n, (c.lookup now b ver ws slice).1 = .hit n → meets n ∧ ∀ r, meets r → prio r < prio n ∨ (prio r = prio n ∧ n ≤ r)) ∧
    ((c.lookup now b ver ws slice).1 = .miss → c.schemeV b = false ∨ v ≠ 0 → ∀ r, ¬meets r))

/-- R162, R165, R167, R168, R174, R181: the oldest request of a rule bank's channel, for which Prelook holds nothing to adopt. A
request of 1 to 5 words is looked up under the version its packet carries: a hit answers the rule's action words and counts the rule, a miss
answers the bank's miss action, a poisoned rule answers POISONED and raises CL_RULE_POISON; any other length is no lookup. R149, R180: where a
tentative result may be adopted the reply is the one that adoption gives; where that result has not completed yet the request waits.
R180, R149: a tentative LOOKUP reply that stands is delivered as it is and counted as the hit or the miss it reports.
R184-R187: a scan of a range of a clean packet against the pricking active at its stamp answers the matches in order of END and then
identifier, the first seven of them in words, their number and MORE, and counts itself, its bytes and its matches. With FIRST only the matches
at the smallest END count. Against a pricking that is not READY it ends NO_PRICKING and counts nothing (log entry 194); over poison it ends POISONED; a
malformed request ends BAD_ARGUMENT. TRUNCATED says that MAX_DEPTH shortened the range. What patterns a pricking image holds is a free value
(log entry 24).
R185, R186: what the pattern engine finds in a range. A match is a pattern of the pricking that ends at some byte of the range; matches rise
by END and at one END by identifier; FIRST keeps those at the smallest END. -/
def Obligations.ClassifierReplies : Prop :=
  (∀ (s : State) (b : Fin 8) (r : EngReq) (rest : List EngReq),
    s.found.front (512 + b.val) (fun _ => true) = some (r, rest) →
    let c : Chip := { s.found with reqs := rest }
    let plain := c.plain r
    let found := c.lookup s.time b (verIn r.ver0 r.ver1 b) r.words r.slice
    let v : Word := BitVec.ofNat 64 found.2.1
    let d := found.2.2.inc (A.CL_BANK_LOOKUPS b)
    let lenOk := 0 < r.words.length ∧ r.words.length ≤ 5
    (∀ n, plain → lenOk → found.1 = .hit n → exec (.clLookup b) s =
      s.replied r [lookupWord Code.OK b n, d.rd (A.CL_RULE (8192 * b + n) + 80), d.rd (A.CL_RULE (8192 * b + n) + 88), v]
        (d.inc (A.CL_RULE_HITS (8192 * b + n)))) ∧
    (plain → lenOk → found.1 = .miss → exec (.clLookup b) s =
      s.replied r [lookupWord Code.NOT_FOUND b 0, d.rd (A.CL_BANK_MISS b), 0, v] (d.inc (A.CL_BANK_MISSES b))) ∧
    (∀ n, plain → lenOk → found.1 = .poisoned n → exec (.clLookup b) s =
      s.replied r [lookupWord Code.POISONED b 0, 0, 0, v]
        (d.raise s.time Flt.CL_RULE_POISON 23 63 r.slice (BitVec.ofNat 64 (8192 * b + n)))) ∧
    (plain → ¬lenOk → exec (.clLookup b) s = s.replied r [lookupWord Code.BAD_ARGUMENT b 0, 0, 0, 0] c) ∧
    (∀ ws d, c.adopt r (fun c => c.lookupServe s.time r) (fun ws c => c.lookupTaken s.time r ws) = some (ws, d) →
      exec (.clLookup b) s = s.replied r ws d) ∧
    (c.adopt r (fun c => c.lookupServe s.time r) (fun ws c => c.lookupTaken s.time r ws) = none →
      exec (.clLookup b) s = .next (s.done s.found))) ∧
  (∀ (c : Chip) (now : Nat) (r : EngReq) (b n : Nat) (reply : List Word), b < 8 → n < 8192 → r.chan = 512 + b →
    (nth 0 reply 0 = lookupWord Code.OK b n → c.lookupTaken now r reply =
      (reply, (c.inc (A.CL_BANK_LOOKUPS b)).inc (A.CL_RULE_HITS (8192 * b + n)))) ∧
    (nth 0 reply 0 = lookupWord Code.NOT_FOUND b n →
      c.lookupTaken now r reply = (reply, (c.inc (A.CL_BANK_LOOKUPS b)).inc (A.CL_BANK_MISSES b)))) ∧
  (∀ (s : State) (r : EngReq) (rest : List EngReq),
    s.found.front 528 (fun _ => true) = some (r, rest) →
    let c : Chip := { s.found with reqs := rest }
    c.plain r →
    let w := nth 0 r.words 0
    let start := getBits w 0 16
    let e0 := min (if getBits w 16 16 = 0 then r.plen else start + getBits w 16 16) r.plen
    let depth := c.get A.CL_PE_CFG F.CL_PE_CFG_MAX_DEPTH
    let len := min e0 depth - start
    let trunc := if depth < e0 then 2 else 0
    let slot := c.peActive r.istamp
    let read := if len = 0 then (false, [], c) else c.bobRead s.time (c.bobBase r.pkt + start) len r.slice
    let d := read.2.2.fresh.2
    let counted (n : Nat) : Chip := ((d.inc A.CL_PE_SCANS).add A.CL_PE_BYTES len).add A.CL_PE_MATCHES n
    let all := matchesIn (d.patterns slot) read.2.1 start
    let ms := firstOnly (getBits w 32 1 == 1) all
    let n := min 65535 ms.length
    let good := r.words.length = 1 ∧ r.valid = true ∧ getBits w 33 31 = 0 ∧ start < r.plen
    (¬good → exec .scan s = s.replied r [replyWord Code.BAD_ARGUMENT 0 528 0] c) ∧
    (good → read.1 = false → d.peReady slot = false → exec .scan s = s.replied r [replyWord Code.NO_PRICKING trunc 528 (slot * 2 ^ 16)] d) ∧
    (good → read.1 = true → exec .scan s = s.replied r [replyWord Code.POISONED trunc 528 (slot * 2 ^ 16)] (counted 0)) ∧
    (good → read.1 = false → d.peReady slot = true → d.pePoisoned slot = [] →
      exec .scan s = s.replied r (replyWord Code.OK (trunc + if 7 < n then 1 else 0) 528 (n % 2 ^ 16 + slot * 2 ^ 16) :: (ms.take 7).map matchWord)
        (counted n))) ∧
  ((∀ (c : Chip) (slot start : Nat) (bs : List Byte) (x : Nat × Config.Pattern),
    x ∈ matchesIn (c.patterns slot) bs start ↔
      (start < x.1 ∧ x.1 ≤ start + bs.length) ∧ x.2 ∈ Config.pricking (mget [] c.cl.img slot) ∧ patternOk x.2 = true ∧
        patternEnds x.2 bs start x.1 = true) ∧
  (∀ (c : Chip) (slot start : Nat) (bs : List Byte),
    (matchesIn (c.patterns slot) bs start).Pairwise fun x y => x.1 < y.1 ∨ (x.1 = y.1 ∧ x.2.id ≤ y.2.id)) ∧
  (∀ (p : Config.Pattern) (bs : List Byte) (start fin : Nat), fin ≤ start + bs.length → p.fold = false → p.window = none →
    (patternEnds p bs start fin = true ↔
      start + p.bytes.length ≤ fin ∧ (bs.drop (fin - p.bytes.length - start)).take p.bytes.length = p.bytes)) ∧
  (∀ (ms : List (Nat × Config.Pattern)), firstOnly false ms = ms ∧
    ∀ x ∈ firstOnly true ms, x ∈ ms ∧ ((ms.Pairwise fun x y => x.1 ≤ y.1) → ∀ y ∈ ms, x.1 ≤ y.1)))

/-- R170, R171, R175, R181: writes of rules and of a bank's scheme. A write that is accepted stores its words. Under scheme E the words of a
valid rule up to 11 are refused with RULE_LIVE and anything may be written to an invalid one. Under scheme V an entry that is not live takes
words 0 to 11; a live one refuses a write that leaves out its control word; whatever makes a rule VALID must give it VFROM of BUILDING and VTO 0 or
BUILDING. A poisoned entry takes only a write of it whole; COLOUR 3 is no colour. A change of scheme is refused while the bank holds a valid rule or a
sealed version, else it empties the version slots.
R179: the oldest live version retires once the next one is live, no packet stamped with it is in flight, no packet stamped before the next
one's T waits, and no pass is under way; its slot empties and CLEANING is set. When the pass ends CLEANING clears and the rules that only the
retired version held are gone. -/
def Obligations.RuleWrites : Prop :=
  (∀ (s : State),
    (∀ (n : Fin 65536) (k : Fin 16) (ws : List Word), s.writable (A.CL_RULE n) = true → ws ≠ [] → k.val + ws.length ≤ 16 →
      let c := s.found
      let b := n.val / 8192
      let items := (List.range ws.length).map fun i => (k.val + i, nth 0 ws i)
      let kept (w : Nat × Word) : Word := if w.1 = 10 then BitVec.ofNat 64 (getBits w.2 0 30)
        else if w.1 = 12 then w.2 &&& 0xFFFFFFFF0001FFFF else if 13 ≤ w.1 then 0 else w.2
      let stored := items.foldl (fun (d : Chip) w => d.wr (A.CL_RULE n + 8 * w.1) (kept w)) (c.ruleWritten n)
      let ends (st : Status) (d : Chip) : Prop := exec (.ruleWrite n k ws) s = s.wrote st d
      let badColour := items.any fun w => w.1 == 10 && getBits w.2 8 2 == 3
      let clean : Prop := badColour = false ∧ ∀ j < 4, c.sram 8 (ruleWord n + j) = 0
      let live : Prop := c.rule n F.CL_RULE_VALID = 1 ∧ c.rule n F.CL_RULE_VFROM ≠ c.building b
      let ctrl := items.any fun w => w.1 == 12
      (badColour = true → ends Code.BAD_ARGUMENT c) ∧
      (clean → c.schemeV b = false → c.rule n F.CL_RULE_VALID = 1 → (items.any fun w => decide (w.1 ≤ 11)) = true → ends Code.RULE_LIVE c) ∧
      (clean → c.schemeV b = false → (c.rule n F.CL_RULE_VALID ≠ 1 ∨ 12 ≤ k.val) → ends Code.OK stored) ∧
      (clean → c.schemeV b = true → ctrl = false → ¬live → ends Code.OK stored) ∧
      (clean → c.schemeV b = true → ctrl = false → live → ends Code.RULE_LIVE c) ∧
      (∀ w, clean → c.schemeV b = true → ¬live → items = [(12, w)] → getBits w 16 1 = 1 →
        (getBits w 32 16 = c.building b → (getBits w 48 16 = 0 ∨ getBits w 48 16 = c.building b) → ends Code.OK stored) ∧
        (getBits w 32 16 ≠ c.building b ∨ (getBits w 48 16 ≠ 0 ∧ getBits w 48 16 ≠ c.building b) → ends Code.BAD_ARGUMENT c)) ∧
      (badColour = false → codeBad (c.sram 8 (ruleWord n)) = true →
        (k.val = 0 → 13 ≤ ws.length → ends Code.OK (((List.range 4).foldl (fun (d : Chip) j => d.setSram 8 (ruleWord n + j) 0) stored).noteRule
          s.time n)) ∧
        (k.val ≠ 0 ∨ ws.length < 13 → ends Code.POISONED (Chip.readSrams s.time 8 2 0 4 (ruleWord n) c).2))) ∧
    (∀ (b : Fin 8) (v : Word), s.writable (A.CL_BANK_CFG b) = true →
      let c := s.found
      let a := A.CL_BANK_CFG b
      let put := c.wr a (BitVec.ofNat 64 (getBits v 0 2))
      let change := getBits v 0 1 ≠ c.get a F.CL_BANK_CFG_SCHEME
      (¬change → exec (.schemeWrite b v) s = s.wrote Code.OK put) ∧
      (change → (c.validRules b ≠ [] ∨ c.verSlots b 1 ≠ []) → exec (.schemeWrite b v) s = s.wrote Code.BANK_BUSY c) ∧
      (change → c.validRules b = [] → c.verSlots b 1 = [] → exec (.schemeWrite b v) s = s.wrote Code.OK
        (((List.range 4).foldl (fun (c : Chip) k => c.dropVer b k) put).wr (A.CL_BANK_VSTAT b) (resetWord (A.CL_BANK_VSTAT b)))))) ∧
  (∀ (s : State) (b : Fin 8) (k : Nat),
    let c := s.found
    (∀ j, c.open1 23 = true → c.schemeV b = true → c.flag (A.CL_BANK_VSTAT b) F.CL_BANK_VSTAT_CLEANING = false → c.oldestLive b = some k →
      c.verSlot b (nextVer (c.verGet b k F.CL_VER_VERSION)) = some j → c.verGet b j F.CL_VER_STATE = 2 → c.verGet b k F.CL_VER_INFLIGHT = 0 →
      c.heldBefore (c.verT b j) = false →
      exec (.versionRetire b) s = .next (s.done (((c.dropVer b k).setFlag (A.CL_BANK_VSTAT b) F.CL_BANK_VSTAT_CLEANING true).verStat b))) ∧
    (c.open1 23 = true → c.flag (A.CL_BANK_VSTAT b) F.CL_BANK_VSTAT_CLEANING = true →
      let d := c.setFlag (A.CL_BANK_VSTAT b) F.CL_BANK_VSTAT_CLEANING false
      (d.oldestLive b = some k → exec (.retirementPassEnd b) s =
        .next (s.done (d.cleanBank s.time b (prevVer (d.verGet b k F.CL_VER_VERSION)) (d.verGet b k F.CL_VER_VERSION)))) ∧
      (d.oldestLive b = none → exec (.retirementPassEnd b) s = .next (s.done d))))

/-! ### The Table Engines (spec/07_tables.md) -/

/-- R192, R197-R199, R205, R213, R214: the lookups and COUNT of the Table Engine, each the oldest request of its channel from the engine's own side.
Where Prelook holds nothing to adopt, a lookup of an enabled table with a key of the table's length answers what the search finds; the wrong
length answers BAD_ARGUMENT, a table that is off TABLE_OFF; LPM lookups and COUNT are answered by their own rules. Where a tentative result may be
adopted the reply is the one that adoption gives (R149, R215).
R204, R206, R207, R213, R222: the WRITE ops, each in its own row: the oldest WRITE request of the engine's side, sent by a program and not
anticipated by Prelook, and the op that the operator has started through TE_x_OP_CTRL. The reply of a program and TE_x_OP_STAT of the operator give
what the op answers; only the operator may clear a table's overflow entries. -/
def Obligations.TableRequests : Prop :=
  (∀ (s : State) (e : EpNo) (r : EngReq) (rest : List EngReq),
    let c : Chip := { s.found with reqs := rest }
    let mine : EngReq → Bool := fun r => teOf r.mill == e.val
    let no (st : Status) : List Word := [replyWord st 0 r.chan 0, 0]
    let words (a : TeAns) : List Word :=
      if a.st = Code.ABSENT then [replyWord Code.ABSENT 0 r.chan 0] else [replyWord a.st a.flags r.chan a.value, a.data]
    (∀ t : Fin 16, s.found.front (544 + t.val) mine = some (r, rest) →
      let n := (c.emt e t F.TE_EMT_KEY_BYTES + 7) / 8
      let a := c.teLookup s.time e t (c.teKey e t (r.words.take n) (some r.slice)) none r.slice false
      (c.plain r → r.words.length ≠ n → exec (.teLookup e t) s = s.replied r (no Code.BAD_ARGUMENT) c) ∧
      (c.plain r → r.words.length = n → c.emtOn e t = false → exec (.teLookup e t) s = s.replied r (no Code.TABLE_OFF) c) ∧
      (c.plain r → r.words.length = n → c.emtOn e t = true → exec (.teLookup e t) s = s.replied r (words a.1) a.2) ∧
      (∀ ws d, c.adopt r (fun c => c.teServe s.time r false) (fun ws c => c.teTaken s.time r ws) = some (ws, d) →
        exec (.teLookup e t) s = s.replied r ws d)) ∧
    (∀ t : Fin 16, s.found.front (560 + t.val) mine = some (r, rest) →
      let n := (c.emt e t F.TE_EMT_KEY_BYTES + 7) / 8
      let a := c.teLookup s.time e t (c.teKey e t (r.words.take n) (some r.slice)) (some (nth 0 r.words n)) r.slice false
      (c.plain r → r.words.length ≠ n + 1 → exec (.teLookupLearn e t) s = s.replied r (no Code.BAD_ARGUMENT) c) ∧
      (c.plain r → r.words.length = n + 1 → c.emtOn e t = false → exec (.teLookupLearn e t) s = s.replied r (no Code.TABLE_OFF) c) ∧
      (c.plain r → r.words.length = n + 1 → c.emtOn e t = true → exec (.teLookupLearn e t) s = s.replied r (words a.1) a.2) ∧
      (∀ ws d, c.adopt r (fun c => c.teServe s.time r false) (fun ws c => c.teTaken s.time r ws) = some (ws, d) →
        exec (.teLookupLearn e t) s = s.replied r ws d)) ∧
    (∀ l : Fin 8, s.found.front (577 + l.val) mine = some (r, rest) → c.plain r →
      let a := c.lpmServe s.time r false
      exec (.lpmLookup e l) s = s.replied r a.1 a.2) ∧
    (s.found.front 585 mine = some (r, rest) → c.plain r →
      let a := c.teCount s.time r
      exec (.count e) s = s.replied r a.1 a.2)) ∧
  (∀ (s : State) (e : EpNo),
    (∀ (r : EngReq) (rest : List EngReq), s.found.front 576 (fun r => teOf r.mill == e.val) = some (r, rest) →
      let c : Chip := { s.found with reqs := rest }
      let w := nth 0 r.words 0
      let t := getBits w 0 4
      let len := getBits w 8 8
      let op (n : Nat) := c.teWriteOp s.time e t n (c.teKey e t ((r.words.drop 1).take 3) (some r.slice)) (nth 0 r.words 4) (getBits w 7 1 == 1) r.slice
      let lpm (add : Bool) := c.lpmWrite e t add len (nth 0 r.words 1) (nth 0 r.words 2) (nth 0 r.words 4)
      let ends (i : Instr) (q : TeAns × Chip) : Prop :=
        exec i s = s.replied r [if q.1.st = Code.ABSENT then replyWord Code.ABSENT 0 576 0 else replyWord q.1.st q.1.flags 576 q.1.value] q.2
      let form (n : Nat) : Prop := c.plain r ∧ r.words.length = 5 ∧ getBits w 16 48 = 0 ∧ getBits w 4 3 = n
      let prefixOk : Prop := t < 8 ∧ len ≤ (if c.lpm6 e t then 128 else 32) ∧ nth 0 r.words 3 = 0 ∧
        (c.lpm6 e t = false → getBits (nth 0 r.words 1) 32 32 = 0)
      (form 0 → c.emtOn e t = true → ends (.insert e false) (op 0)) ∧
      (form 1 → c.emtOn e t = true → ends (.upsert e false) (op 1)) ∧
      (form 2 → c.emtOn e t = true → ends (.update e false) (op 2)) ∧
      (form 3 → c.emtOn e t = true → ends (.delete e false) (op 3)) ∧
      (form 0 → c.emtOn e t = false → ends (.insert e false) (TeAns.no Code.TABLE_OFF, c)) ∧
      (form 4 → prefixOk → getBits (nth 0 r.words 4) 32 32 = 0 → c.lpmOn e t = true → ends (.lpmAdd e false) (lpm true)) ∧
      (form 5 → prefixOk → c.lpmOn e t = true → ends (.lpmDel e false) (lpm false)) ∧
      (form 6 → ends (.ovfClear e false) (TeAns.no Code.BAD_ARGUMENT, c)) ∧
      (c.plain r → r.words.length ≠ 5 → getBits w 4 3 = 0 → ends (.insert e false) (TeAns.no Code.BAD_ARGUMENT, c))) ∧
    (let c := s.found
     let ws := (c.eng e).op
     let w := nth 0 ws 0
     let t := getBits w 0 4
     let len := getBits w 8 8
     let op (n : Nat) := c.teWriteOp s.time e t n (c.teKey e t ((ws.drop 1).take 3) none) (nth 0 ws 4) (getBits w 7 1 == 1) 0
     let lpm (add : Bool) := c.lpmWrite e t add len (nth 0 ws 1) (nth 0 ws 2) (nth 0 ws 4)
     let ends (i : Instr) (q : TeAns × Chip) : Prop :=
       exec i s = .next (s.done ((q.2.setEng e { q.2.eng e with op := [] }).wr (A.TE_OP_STAT e)
         (BitVec.ofNat 64 (q.1.st + q.1.flags * 2 ^ 16 + q.1.value * 2 ^ 40))))
     let form (n : Nat) : Prop := c.up 22 = true ∧ ws.length = 5 ∧ getBits w 16 48 = 0 ∧ getBits w 4 3 = n
     let prefixOk : Prop := t < 8 ∧ len ≤ (if c.lpm6 e t then 128 else 32) ∧ nth 0 ws 3 = 0 ∧
       (c.lpm6 e t = false → getBits (nth 0 ws 1) 32 32 = 0)
     (form 0 → ends (.insert e true) (op 0)) ∧ (form 1 → ends (.upsert e true) (op 1)) ∧
     (form 2 → ends (.update e true) (op 2)) ∧ (form 3 → ends (.delete e true) (op 3)) ∧
     (form 4 → prefixOk → getBits (nth 0 ws 4) 32 32 = 0 → ends (.lpmAdd e true) (lpm true)) ∧
     (form 5 → prefixOk → ends (.lpmDel e true) (lpm false)) ∧
     (form 6 → ends (.ovfClear e true) (⟨Code.OK, 0, 0, 0⟩, c.ovfClear e t))))

/-- R194, R195, R199, R205, R206: what an exact-match lookup without the flow cache makes of what the search finds. An entry answers OK with its
record and data and has HIT written, an overflow entry says so in FLAGS, a miss answers NOT_FOUND with the table's miss word and only
LOOKUP_LEARN in a learning table goes on to insert the key.
R204, R206, R207: the exact-match ops by what the search finds: INSERT of a key that is present answers EXISTS and changes nothing, UPDATE
and DELETE of an absent one NOT_FOUND; UPDATE keeps STATIC, UPSERT sets it; DELETE empties the slot; INSERT and UPSERT of an absent key insert
it. -/
def Obligations.ExactMatchByWhatIsFound : Prop :=
  (∀ (c : Chip) (now e t slice : Nat) (key : List Byte) (learn : Option Word),
    let k := leNat key
    let h := c.teHashOf e t key
    let found := c.teSearch now e t k h.1 h.2.1 h.2.2 slice
    let d := found.2.2
    let counted (hit : Bool) : Chip := (d.inc (A.TE_EMT_LOOKUPS e t)).inc (if hit then A.TE_EMT_HITS e t else A.TE_EMT_MISSES e t)
    let run := c.teLookup now e t key learn slice false
    c.emt e t F.TE_EMT_FC_EN = 0 →
    (found.1 ≠ Code.OK → run = (TeAns.no found.1, d.inc (A.TE_EMT_LOOKUPS e t))) ∧
    (∀ bucket w j r data, found.1 = Code.OK → found.2.1 = .slot bucket w j r data →
      run.1 = ⟨Code.OK, if slotStatic (slotOf w j) then 32 else 0, r, data⟩ ∧
      run.2 = if slotHit (slotOf w j) then counted true
        else (counted true).teWrite e ((counted true).bucketAt e t bucket) (setNatBits w (48 * j + 41) 1 1)) ∧
    (∀ i, found.1 = Code.OK → found.2.1 = .ovf i →
      run.1 = ⟨Code.OK, if d.flag (A.TE_OVF e i) F.TE_OVF_STATIC then 34 else 2, i, d.rd (A.TE_OVF e i + 24)⟩) ∧
    (∀ ca cb, found.1 = Code.OK → found.2.1 = .miss ca cb → learn = none →
      run = (⟨Code.NOT_FOUND, 0, 0, d.rd (A.TE_EMT e t + 16)⟩, counted false)) ∧
    (∀ ca cb data, found.1 = Code.OK → found.2.1 = .miss ca cb → learn = some data → (counted false).emt e t F.TE_EMT_LEARN_EN = 1 →
      let put := (counted false).teInsert now e t k h.1 h.2.1 h.2.2 ca cb slice data false
      (put.1.st = Code.OK → run = (⟨Code.NOT_FOUND, put.1.flags + 4, put.1.value, d.rd (A.TE_EMT e t + 16)⟩, put.2)) ∧
      (put.1.st = Code.TABLE_FULL → run = (⟨Code.NOT_FOUND, 0, 0, d.rd (A.TE_EMT e t + 16)⟩, put.2)) ∧
      (put.1.st = Code.POISONED ∨ put.1.st = Code.ABSENT → run = (TeAns.no put.1.st, put.2.inc (A.TE_EMT_FULL e t))))) ∧
  (∀ (c : Chip) (now e t slice op : Nat) (key : List Byte) (data : Word) (static : Bool),
    let k := leNat key
    let h := c.teHashOf e t key
    let found := c.teSearch now e t k h.1 h.2.1 h.2.2 slice
    let d := found.2.2
    let run := c.teWriteOp now e t op key data static slice
    op ≤ 3 →
    (found.1 ≠ Code.OK → run = (TeAns.no found.1, d)) ∧
    (∀ ca cb, found.1 = Code.OK → found.2.1 = .miss ca cb →
      (op ≤ 1 → run = d.teInsert now e t k h.1 h.2.1 h.2.2 ca cb slice data static) ∧ (2 ≤ op → run = (TeAns.no Code.NOT_FOUND, d))) ∧
    (∀ bucket w j r old, found.1 = Code.OK → found.2.1 = .slot bucket w j r old →
      let fl := if slotStatic (slotOf w j) then 32 else 0
      (op = 0 → run = (⟨Code.EXISTS, fl, r, old⟩, d)) ∧
      (op = 3 → run = (⟨Code.OK, fl, r, old⟩, d.teDelete e t bucket w j r)) ∧
      (op = 2 → run = (⟨Code.OK, fl, r, data⟩, ((d.teWrite e (d.recordAt e t r) (k + data.toNat * 2 ^ 192)).fcChange e t h.2.2 bucket j
        (fun l => some { l with data := data, static := slotStatic (slotOf w j) })).nextGen e t)) ∧
      (op = 1 → run.1 = ⟨Code.OK, fl + 16, r, data⟩)) ∧
    (∀ i, found.1 = Code.OK → found.2.1 = .ovf i →
      let fl := if d.flag (A.TE_OVF e i) F.TE_OVF_STATIC then 34 else 2
      (op = 0 → run = (⟨Code.EXISTS, fl, i, 0⟩, d)) ∧
      (op = 3 → run = (⟨Code.OK, fl, i, 0⟩, (d.ovfFree e t i).nextGen e t)) ∧
      (op = 2 → run = (⟨Code.OK, fl, i, data⟩, (d.wr (A.TE_OVF e i + 24) data).nextGen e t))))

/-- R213, R214: an LPM lookup answers the length and the data of a matching prefix than which no matching prefix of the table is longer, or the
table's default where none matches; COUNT adds its bytes and packets to the two numbers of its entry.
R213: what LPM_ADD and LPM_DEL do to the prefixes of a table. Adding a prefix with room for it puts it in with its data, in place of the
same prefix; deleting one takes it out; UNITS counts 1 for an IPv4 prefix and 2 for an IPv6 one; a prefix that is not there answers NOT_FOUND, a
full store LPM_FULL.
R210, R214, R218, R219, R222: what changes a table or the counter store but is no request: a flush and its end; GO, which starts the
operator's op or ends with OP_BUSY while one runs; a write of TE_x_EMT(t) (one that enables the table waits for the scan); the end of that scan; and
the sweeper's visit, once it is due, of a slot of a sound bucket: HIT clears HIT and STALE, without HIT an entry becomes STALE and a STALE one is
removed, a STATIC one stays. -/
def Obligations.LongestPrefixAndCounts : Prop :=
  (∀ (c : Chip) (now : Nat) (r : EngReq),
    let e := teOf r.mill
    (∀ p : Prefix,
      let l := r.chan - 577
      let v6 := c.lpm6 e l
      let width := if v6 then 128 else 32
      let w := c.lpmWords e (if v6 then 4 else 2)
      let d := w.2.inc (A.TE_LPM_LOOKUPS e l)
      let a := lpmAddr v6 (nth 0 r.words 0) (nth 0 r.words 1)
      let run := c.lpmServe now r false
      r.words.length = (if v6 then 2 else 1) → (v6 = false → getBits (nth 0 r.words 0) 32 32 = 0) → c.lpmOn e l = true → w.1 = true →
      (∀ q ∈ d.prefixes e l, q.len ≤ 128) →
      (p ∈ d.prefixes e l → p.matches width a = true →
        ∃ q ∈ d.prefixes e l, q.matches width a = true ∧ (∀ x ∈ d.prefixes e l, x.matches width a = true → x.len ≤ q.len) ∧
          run = ([replyWord Code.OK 0 r.chan q.len, BitVec.ofNat 64 q.data], d)) ∧
      ((∀ x ∈ d.prefixes e l, x.matches width a = false) →
        run = ([replyWord Code.NOT_FOUND 0 r.chan 0, BitVec.ofNat 64 (d.get (A.TE_LPM e l) F.TE_LPM_DEFAULT)], d))) ∧
    (let i := getBits (nth 0 r.words 0) 0 24
     let k := 2 * (i % 2)
     let got := c.ccLine now e (i / 2) r.slice
     let bytes : Word := BitVec.ofNat 64 (getBits (nth 0 r.words 1) 0 48)
     let packets : Word := BitVec.ofNat 64 (getBits (nth 0 r.words 1) 48 16)
     let x := setNth got.2.1.data k (nth 0 got.2.1.data k + bytes)
     r.words.length = 2 → c.flag (A.TE_CNT_STORE e) F.TE_CNT_STORE_ENABLE = true → getBits (nth 0 r.words 0) 24 40 = 0 →
     i < c.get (A.TE_CNT_STORE e) F.TE_CNT_STORE_COUNT → got.1 = Code.OK →
     c.teCount now r = ([replyWord Code.OK 0 r.chan 0],
       (got.2.2.setEng e { got.2.2.eng e with cc :=
         { got.2.1 with data := setNth x (k + 1) (nth 0 x (k + 1) + packets), dirty := true } :: (got.2.2.eng e).cc }).inc (A.TE_CNT_ADDS e)))) ∧
  (∀ (c : Chip) (e l len : Nat) (w0 w1 data : Word),
    let v6 := c.lpm6 e l
    let width := if v6 then 128 else 32
    let a := lpmAddr v6 w0 w1 / 2 ^ (width - len) * 2 ^ (width - len)
    let cost := if v6 then 2 else 1
    let same (p : Prefix) : Bool := p.len == len && p.addr == a
    let units := c.get (A.TE_LPM_STAT e) F.TE_LPM_STAT_UNITS
    let rest := (c.prefixes e l).filter fun p => !same p
    let d := (c.lpmWords e 16).2
    let put (ps : List Prefix) (u : Nat) : Chip :=
      ((d.setEng e { d.eng e with lpm := mset [] (d.eng e).lpm l ps }).set (A.TE_LPM_STAT e) F.TE_LPM_STAT_UNITS u).nextGen e (16 + l)
    (((c.prefixes e l).any same) = false → c.lpmWrite e l false len w0 w1 data = (TeAns.no Code.NOT_FOUND, c)) ∧
    (((c.prefixes e l).any same) = true → (c.lpmWords e 16).1 = true →
      c.lpmWrite e l false len w0 w1 data = (⟨Code.OK, 0, len, 0⟩, put rest (units - cost)) ∧
      c.lpmWrite e l true len w0 w1 data = (⟨Code.OK, 0, len, 0⟩, put (rest ++ [⟨len, a, data.toNat % 2 ^ 32⟩]) units)) ∧
    (((c.prefixes e l).any same) = false →
      (c.get (A.TE_LPM_STORE e) F.TE_LPM_STORE_PFX_WORDS < units + cost →
        c.lpmWrite e l true len w0 w1 data = (TeAns.no Code.LPM_FULL, c)) ∧
      (units + cost ≤ c.get (A.TE_LPM_STORE e) F.TE_LPM_STORE_PFX_WORDS → (c.lpmWords e 16).1 = true →
        c.lpmWrite e l true len w0 w1 data =
          (⟨Code.OK, 0, len, 0⟩, put (rest ++ [⟨len, a, data.toNat % 2 ^ 32⟩]) (units + cost))))) ∧
  (∀ (s : State) (e : EpNo) (t : Fin 16) (ws : List Word),
    let c := s.found
    let a := A.TE_EMT e t
    let put := c.put s.time a ws
    let runs := c.pwr.fwRuns = true ∧ 4 ≤ c.mode
    let on := getBits (nth 0 ws 0) 33 1 = 1
    (s.writable (A.TE_CNT_CTRL e) = true →
      let d := c.filled s.time (A.TE_CNT_CTRL e) [1]
      let out := Chip.ccFlushLines e (d.eng e).cc d
      exec (.cntFlush e) s = s.wrote Code.OK ((out.2.setEng e { out.2.eng e with cc := out.1 }).setFlag (A.TE_CNT_CTRL e)
        F.TE_CNT_CTRL_FLUSH_BUSY true)) ∧
    (c.up 22 = true → exec (.cntFlushDone e) s = .next (s.done (c.setFlag (A.TE_CNT_CTRL e) F.TE_CNT_CTRL_FLUSH_BUSY false))) ∧
    (s.writable (A.TE_OP_CTRL e) = true →
      let d := c.filled s.time (A.TE_OP_CTRL e) [1]
      (d.opBusy e = true → c.put s.time (A.TE_OP_CTRL e) [1] = (Code.OP_BUSY, c)) ∧
      (d.opBusy e = false → c.put s.time (A.TE_OP_CTRL e) [1] = (Code.OK,
        (d.setEng e { d.eng e with op := (List.range 5).map fun k => d.rd (A.TE_OP_REQ e k) }).setFlag (A.TE_OP_STAT e) F.TE_OP_STAT_BUSY true))) ∧
    (s.writable a = true → 1 ≤ ws.length → ws.length ≤ 3 → ¬(c.emtOn e t = false ∧ on) →
      let d := c.filled s.time a ws
      let st := d.emtCheck e t (c.rd a) (c.rd (a + 8))
      (st = Code.OK → exec (.emtWrite e t ws) s = s.wrote Code.OK (d.emtPut s.time e t (c.rd a))) ∧
      (st ≠ Code.OK → exec (.emtWrite e t ws) s = s.wrote st c)) ∧
    (runs → c.emtOn e t = false → on → (put.1 = Code.OK ∨ put.1 = Code.BAD_IMAGE ∨ put.1 = Code.POISONED) →
      exec (.emtWrite e t ws) s = .next (s.done (c.setEng e { c.eng e with scan := mset [] (c.eng e).scan t ws }))) ∧
    (runs → c.emtOn e t = false → on → put.1 ≠ Code.OK → put.1 ≠ Code.BAD_IMAGE → put.1 ≠ Code.POISONED →
      exec (.emtWrite e t ws) s = s.wrote put.1 c) ∧
    (s.writable a = true → 1 ≤ ws.length → ws.length ≤ 3 → on → mget [] (c.eng e).scan t = ws → c.emtOn e t = false →
      let d := c.setEng e { c.eng e with scan := mset [] (c.eng e).scan t [] }
      let f := d.filled s.time a ws
      let scanned := f.tableScan s.time e t
      let back := (List.range 4).foldl (fun (x : Chip) k => x.wr (a + 8 * k) (d.rd (a + 8 * k))) scanned.2
      f.emtCheck e t (d.rd a) (d.rd (a + 8)) = Code.OK →
        (scanned.1 = Code.OK → exec (.tableScanEnd e t) s = s.wrote Code.OK scanned.2) ∧
        (scanned.1 ≠ Code.OK → exec (.tableScanEnd e t) s = s.wrote scanned.1 back)) ∧
    (∀ bs d, c.up 22 = true → c.emtOn e t = true → c.emt e t F.TE_EMT_AGE_EN = 1 →
      let v := c.sweeper e t
      let slots := 4 * 2 ^ c.emt e t F.TE_EMT_BUCKET_LOG2
      v.pos < slots → v.pos % 4 ≠ 0 → v.wrote = false → c.sweepDue s.time e t (slots + (c.ovfOf e t).length) v.pos = true →
      c.readQdr s.time e (c.bucketAt e t (v.pos / 4)) 0 = (.ok bs, d) →
      let w := leNat bs
      let i := v.pos / 4
      let k := v.pos % 4
      let x := slotOf w k
      let at_ := d.bucketAt e t i
      let next (d : Chip) (wrote : Bool) : State := s.done (d.setSweep e t { v with pos := v.pos + 1, wrote := wrote && k != 3 })
      ((slotValid x = false ∨ slotStatic x = true) → exec (.sweepVisit e t) s = .next (next d false)) ∧
      (slotValid x = true → slotStatic x = false → slotHit x = false → d.lineHit e t (slotSig x) i k = false →
        (slotStale x = true → (d.teDelete e t i w k (slotRec x)).qdrWords e ≠ d.qdrWords e →
          exec (.sweepVisit e t) s = .next (next ((d.teDelete e t i w k (slotRec x)).inc (A.TE_EMT_AGED e t)) true)) ∧
        (slotStale x = false →
          let f := d.teWrite e at_ (putSlot w k (setNatBits x 42 1 1) (slotSeq w k))
          f.qdrWords e ≠ d.qdrWords e → exec (.sweepVisit e t) s = .next (next f true))) ∧
      (slotValid x = true → slotStatic x = false → slotHit x = true →
        let y := setNatBits (setNatBits x 41 1 0) 42 1 0
        let f := d.teWrite e at_ (putSlot w k y (slotSeq w k))
        f.qdrWords e ≠ d.qdrWords e → exec (.sweepVisit e t) s =
          .next (next (f.fcChange e t (slotSig x) i k fun l => some { l with hit := false, slotHit := false }) true))))

/-! ### Bobbins and the Traffic Manager's admission (spec/08_bobbins.md, spec/10_traffic_manager.md) -/

/-- R227, R231-R235, R239, R240: the oldest request of each channel of the Bobbin Pool Manager. ALLOC of 1 byte up to the largest enabled bobbin,
within the quota and below 4 bobbins bound to the sender, grants an ALLOC bobbin charged to the slice; SHARE raises REF, RELEASE lowers it and
frees the bobbin at 0; WRITE of 1 to 56 bytes into a bound ALLOC bobbin stores them; each refusal answers its code.
R240, R388: what a WRITE stores. Bytes over bobbin memory are written at their place, and the words that they cover whole lose their marks; with a
word only partly covered that is poisoned nothing is written.
R233-R236: what SHARE and RELEASE do to a bobbin that passes the checks of R234: REF moves by one, BREF with it for a tenant, a share to
another slice makes the bobbin system-owned, a 255th reference is the last, and the release of the last one frees the bobbin. The checks
themselves: no such bobbin, not HELD (counted), another slice's (counted), not bound.
R223-R225: a write of a pool. It is carved, enabled or disabled; a pool with bobbins held or reserved is not changed or disabled, and an
enabled one is not carved anew (POOL_BUSY); pools that would overlap or outgrow the memory are refused (BAD_ARGUMENT). A pool that comes to
be enabled has every bobbin FREE, with its metadata empty. -/
def Obligations.BobbinRequests : Prop :=
  (∀ (s : State) (r : EngReq) (rest : List EngReq),
    let c : Chip := { s.found with reqs := rest }
    let all : EngReq → Bool := fun _ => true
    let w := nth 0 r.words 0
    let answer (st : Status) (fl v : Nat) : List Word := [replyWord st fl r.chan v]
    (s.found.front 608 all = some (r, rest) →
      let n := getBits w 0 15
      let ok := bpForm r 1 15 = true ∧ n ≠ 0 ∧ n ≤ c.largest
      let grant : Grant := ⟨false, r.slice, false, false, (c.chargeOf r).1, (c.chargeOf r).2, r.key, r.slice⟩
      let a := c.alloc s.time n grant
      (¬ok → exec .alloc s = s.replied r (answer Code.BAD_ARGUMENT 0 0) c) ∧
      (ok → c.overQuota s.time r = true → exec .alloc s = s.replied r (answer Code.QUOTA 0 0) c) ∧
      (ok → c.overQuota s.time r = false → 4 ≤ c.allocsOf r.key → exec .alloc s = s.replied r (answer Code.ALLOC_LIMIT 0 0) c) ∧
      (ok → c.overQuota s.time r = false → c.allocsOf r.key < 4 → a.1 = none → exec .alloc s = s.replied r (answer Code.EMPTY 0 0) a.2) ∧
      (∀ id fell, ok → c.overQuota s.time r = false → c.allocsOf r.key < 4 → a.1 = some (id, fell) →
        let used := A.SM_SLICE r.slice
        exec .alloc s = s.replied r (answer Code.OK (if fell then 1 else 0) id)
          (if r.slice = 0 then a.2 else a.2.set used F.SM_SLICE_BOBBIN_USED (a.2.get used F.SM_SLICE_BOBBIN_USED + 1)))) ∧
    (s.found.front 609 all = some (r, rest) →
      let id := getBits w 0 24
      let a := c.share s.time id (getBits w 24 13) r.agent
      (bpForm r 1 37 = false → exec .share s = s.replied r (answer Code.BAD_ARGUMENT 0 0) c) ∧
      (bpForm r 1 37 = true → a.1 ≠ Code.OK → exec .share s = s.replied r (answer a.1 (if a.2.1 then 2 else 0) 0) a.2.2.2) ∧
      (∀ d, bpForm r 1 37 = true → c.bobCheck s.time id r.agent false = (Code.OK, d) → d.bobGet id F.BP_STATE_REF ≠ 255 →
        let e := d.bobSet id F.BP_STATE_REF (d.bobGet id F.BP_STATE_REF + 1)
        let f := if r.system then e else e.bobSet id F.BP_STATE_BREF (e.bobGet id F.BP_STATE_BREF + 1)
        let own := f.bobGet id F.BP_STATE_OWNER
        let g := if getBits w 24 13 ≠ own ∧ own ≠ 0 then f.bobSet id F.BP_STATE_OWNER 0 else f
        exec .share s = s.replied r (answer Code.OK (if g.bobGet id F.BP_STATE_OWNER = 0 then 2 else 0) (d.bobGet id F.BP_STATE_REF + 1)) g)) ∧
    (s.found.front 610 all = some (r, rest) →
      let id := getBits w 0 24
      let a := c.release s.time id r.agent
      (bpForm r 1 24 = false → exec .release s = s.replied r (answer Code.BAD_ARGUMENT 0 0) c) ∧
      (bpForm r 1 24 = true → a.1 ≠ Code.OK → exec .release s = s.replied r (answer a.1 (if a.2.1 then 4 else 0) 0) a.2.2.2) ∧
      (∀ d, bpForm r 1 24 = true → c.bobCheck s.time id r.agent true = (Code.OK, d) → r.system = false →
        let ref := d.bobGet id F.BP_STATE_REF
        let e := (d.bobSet id F.BP_STATE_REF (ref - 1)).bobSet id F.BP_STATE_BREF (d.bobGet id F.BP_STATE_BREF - 1)
        (1 < ref → exec .release s = s.replied r (answer Code.OK 0 (ref - 1)) e) ∧
        (ref = 1 → exec .release s = s.replied r (answer Code.OK 4 0) (e.bobFree id)))) ∧
    (s.found.front 611 all = some (r, rest) →
      let id := getBits w 0 24
      let off := getBits w 24 14
      let n := getBits w 38 6
      let ok := bpForm r (1 + (n + 7) / 8) 44 = true ∧ n ≠ 0 ∧ n ≤ 56 ∧ (c.bobNamed id = true → off + n ≤ c.bobSize id)
      let k := c.bobCheck s.time id r.agent false
      let put := k.2.bobStore s.time (k.2.bobBase id + off) (writeBytes r.words n) r.slice
      (¬ok → exec .bpWrite s = s.replied r (answer Code.BAD_ARGUMENT 0 0) c) ∧
      (ok → k.1 ≠ Code.OK → exec .bpWrite s = s.replied r (answer k.1 0 0) k.2) ∧
      (ok → k.1 = Code.OK → k.2.boundTo_ r true id = false → exec .bpWrite s = s.replied r (answer Code.NOT_BOUND 0 0) k.2) ∧
      (ok → k.1 = Code.OK → k.2.boundTo_ r true id = true →
        (put.1 = true → exec .bpWrite s = s.replied r (answer Code.OK 0 0) put.2) ∧
        (put.1 = false → exec .bpWrite s = s.replied r (answer Code.POISONED 0 0) put.2)))) ∧
  (∀ (c : Chip) (now a slice : Nat) (bs : List Byte),
    let parts := Chip.readParts now 0 slice (partWords a bs.length) c
    let put := c.bobStore now a bs slice
    (parts.1 = true → put = (false, parts.2)) ∧
    (parts.1 = false → put.1 = true ∧
      (∀ k, rdByte put.2.mem.bob k = if a ≤ k ∧ k < a + bs.length then nth 0 bs (k - a) else rdByte parts.2.mem.bob k) ∧
      (∀ w, a ≤ 32 * w → 32 * w + 32 ≤ a + bs.length → put.2.sram 0 w = 0))) ∧
  (∀ (c : Chip) (now id sl : Nat) (ag : Agent),
    let k (faults : Bool) := c.bobCheck now id ag faults
    let sys := ag == .system
    let ref (d : Chip) := d.bobGet id F.BP_STATE_REF
    let bref (d : Chip) := d.bobGet id F.BP_STATE_BREF
    (c.bobNamed id = false → k true = (Code.BAD_ARGUMENT, c)) ∧
    (∀ d, c.bobNamed id = true → c.readState now id = (false, d) →
      (d.bobGet id F.BP_STATE_STATE ≠ 1 → k false = (Code.NOT_HELD, d.inc A.BP_DOUBLE_FREE_COUNT) ∧
        k true = (Code.NOT_HELD, (d.inc A.BP_DOUBLE_FREE_COUNT).raise now Flt.BP_DOUBLE_FREE 23 63 ag.slice 0)) ∧
      (d.bobGet id F.BP_STATE_STATE = 1 → d.foreign id ag = true → k false = (Code.FOREIGN, d.inc A.BP_FOREIGN_COUNT) ∧
        k true = (Code.FOREIGN, (d.inc A.BP_FOREIGN_COUNT).raise now Flt.BP_FOREIGN_RELEASE 23 63 ag.slice 0)) ∧
      (d.bobGet id F.BP_STATE_STATE = 1 → d.foreign id ag = false → d.unbound id ag = true → k true = (Code.NOT_BOUND, d)) ∧
      (d.bobGet id F.BP_STATE_STATE = 1 → d.foreign id ag = false → d.unbound id ag = false → k true = (Code.OK, d) ∧ k false = (Code.OK, d))) ∧
    (∀ d, k true = (Code.OK, d) → sys = false → 1 < ref d →
      c.release now id ag = (Code.OK, false, ref d - 1, (d.bobSet id F.BP_STATE_REF (ref d - 1)).bobSet id F.BP_STATE_BREF (bref d - 1))) ∧
    (∀ d, k true = (Code.OK, d) → sys = true → ref d ≤ bref d → c.release now id ag = (Code.NOT_BOUND, false, ref d, d)) ∧
    (∀ d, k true = (Code.OK, d) → sys = true → bref d < ref d → ref d = 1 →
      c.release now id ag = (Code.OK, true, 0, (d.bobSet id F.BP_STATE_REF 0).bobFree id)) ∧
    (∀ d, k false = (Code.OK, d) → ref d = 255 → c.share now id sl ag = (Code.REF_LIMIT, false, 255, d)) ∧
    (∀ d, k false = (Code.OK, d) → ref d ≠ 255 → sys = true →
      let u := d.bobSet id F.BP_STATE_REF (ref d + 1)
      let own := u.bobGet id F.BP_STATE_OWNER
      let v := if sl ≠ own ∧ own ≠ 0 then u.bobSet id F.BP_STATE_OWNER 0 else u
      c.share now id sl ag = (Code.OK, v.bobGet id F.BP_STATE_OWNER == 0, ref d + 1, v))) ∧
  (∀ (s : State) (p : Fin 8) (ws : List Word),
    let c := s.found
    let a := A.BP_POOL p
    let d := c.filled s.time a ws
    let was := c.pool p F.BP_POOL_ENABLE = 1
    let on := d.pool p F.BP_POOL_ENABLE = 1
    let kept := ∀ f : Fld, f = F.BP_POOL_SIZE ∨ f = F.BP_POOL_COUNT ∨ f = F.BP_POOL_BASE ∨ f = F.BP_POOL_META_BASE → d.pool p f = c.pool p f
    let used := c.pool p F.BP_POOL_HELD ≠ 0 ∨ c.pool p F.BP_POOL_RESERVED ≠ 0
    s.writable a = true → 1 ≤ ws.length → ws.length ≤ 4 →
    (d.poolsOk = false → exec (.poolWrite p ws) s = s.wrote Code.BAD_ARGUMENT c) ∧
    (d.poolsOk = true → ¬kept → (was ∧ on) ∨ used → exec (.poolWrite p ws) s = s.wrote Code.POOL_BUSY c) ∧
    (d.poolsOk = true → was → ¬on → used → exec (.poolWrite p ws) s = s.wrote Code.POOL_BUSY c) ∧
    (d.poolsOk = true → kept ∨ (¬(was ∧ on) ∧ ¬used) → ¬(was ∧ ¬on ∧ used) →
      exec (.poolWrite p ws) s = s.wrote Code.OK (d.poolPut p (decide was))) ∧
    (was ∨ ¬on → d.poolPut p (decide was) = d) ∧
    (¬was → on → d.poolsOk = true →
      let e := d.poolPut p false
      let n := d.pool p F.BP_POOL_COUNT
      let m := d.pool p F.BP_POOL_META_BASE
      e.pool p F.BP_POOL_FREE = n ∧ e.pool p F.BP_POOL_HELD = 0 ∧ e.pool p F.BP_POOL_RESERVED = 0 ∧
      ∀ i, i < n → e.get (A.BP_STATE (m + i)) F.BP_STATE_STATE = 0 ∧ ∀ k < 8, e.rd (A.BP_META (m + i) k) = 0))

/-- R278-R281, R288, R292, R293: the oldest enqueue request is judged and leaves the list; the checks of R279 in their order, each with its code
and its drop, and an admitted entry at the tail of its queue with its charged length; COPY hands its references over and is judged the same way; QDEPTH
answers the occupancy of a queue that its sender may use.
R276, R277: a request that is admitted joins the tail of its own queue and no other queue changes, and the queue's occupancy grows by exactly
its charged length.
R281: a policer of an enabled context answers green only where both buckets hold the charge, and takes the charge from each bucket it
answers by; red takes nothing; policer 0 and a disabled one leave the colour. -/
def Obligations.Admission : Prop :=
  (∀ (s : State),
    (∀ (r : EnqReq) (es : List EnqReq), s.found.open1 23 = true → s.found.disp.enq = r :: es →
      let now := s.time
      let c : Chip := { s.found with disp := { s.found.disp with enq := es } }
      let q := r.queue
      let lists := c.readSram now 10 (queueWord q) 0 r.slice
      let d := lists.2
      let ends (e : Chip) : Prop := exec .tmEnqueue s = .next (s.done e)
      let may : Prop := lists.1 = false ∧ d.tmEnabled now q = true ∧ d.tmAccess now r.istamp q r.slice r.system = true
      (lists.1 = true → ends (d.tmRefuse now r Code.POISONED false)) ∧
      (lists.1 = false → d.tmEnabled now q = false → ends (d.tmRefuse now r Code.NO_QUEUE false)) ∧
      (lists.1 = false → d.tmEnabled now q = true → d.tmAccess now r.istamp q r.slice r.system = false →
        ends ((d.raise now Flt.TM_FOREIGN_QUEUE 23 63 r.slice 0).tmRefuse now r Code.FOREIGN_QUEUE false)) ∧
      (may → d.tmDest now q ≠ Code.OK → ends (d.tmRefuse now r (d.tmDest now q) false)) ∧
      (may → d.tmDest now q = Code.OK →
        let i := d.getAt r.istamp (A.TM_CLASS r.cls) F.TM_CLASS_POLICER
        let j := d.tmPolicer r.istamp q
        let pol := Chip.readPolicers now r.slice [i, j] d
        let e := pol.2
        let len := e.charged now r
        let one := e.meter now r.istamp i r.colour len []
        let two := e.meter now r.istamp j one.1 len one.2
        let drop (st : Status) : Chip := e.tmRefuse now r st (two.1 == 2)
        let above := (e.tmLimit r.istamp q two.1 : Int) < units (e.tmBytes q) + units len
        let policed := two.1 = 2 ∧ e.tmRedDrop r.istamp q = true
        (pol.1 = true → ends (e.tmRefuse now r Code.POISONED false)) ∧
        (pol.1 = false → policed → ends (drop Code.POLICED)) ∧
        (pol.1 = false → ¬policed → above → ends (drop Code.QUEUE_FULL)) ∧
        (pol.1 = false → ¬policed → ¬above → e.freeEntry = none → ends (drop Code.NO_ENTRY)) ∧
        (∀ slot, pol.1 = false → ¬policed → ¬above → e.freeEntry = some slot → ends (e.tmAdmit r slot two.1 len two.2)))) ∧
    (∀ (r : EngReq) (rest : List EngReq), s.found.front 624 (fun _ => true) = some (r, rest) →
      let c : Chip := { s.found with reqs := rest }
      let w0 := nth 0 r.words 0
      let w1 := nth 0 r.words 1
      let data := getBits w0 28 1 = 1
      let hv := getBits w1 24 1 = 1
      let id := getBits w1 0 24
      let sees := if hv then c.readState s.time id else (false, c)
      let read := if data then sees.2.readState s.time r.pkt else (false, sees.2)
      let d := read.2
      let bound : Prop := (hv → d.boundTo_ r true id = true) ∧ (data → d.boundTo_ r false r.pkt = true)
      let d1 := if hv then d.handOver s.time id else d
      let d2 := if data then d1.handOver s.time r.pkt else d1
      let p := (r.pk.bind d2.pkt).getD Packet.none
      let job := d2.tmEnqueue s.time
        { pk := r.pk.getD 0, bob := if data then some r.pkt else none, plen := if data then r.plen else 0, hdr := if hv then some id else none,
          cut := if data then getBits w0 32 9 else 0, new := if hv then getBits w1 25 15 else 0, wordB := nth 0 r.words 2,
          queue := getBits w0 0 17, colour := getBits w0 18 2, cls := getBits w0 20 8, slice := r.slice,
          acct := if getBits w0 63 1 = 1 then getBits w0 50 13 else r.slice, src := p.src, txq := p.txq, istamp := r.istamp,
          system := r.system, mill := r.mill }
      (c.copyBad r = true → exec .copy s = s.replied r [replyWord Code.BAD_ARGUMENT 0 624 0] c) ∧
      (c.copyBad r = false → sees.1 = true ∨ read.1 = true → exec .copy s = s.replied r [replyWord Code.POISONED 0 624 0] d) ∧
      (c.copyBad r = false → sees.1 = false → read.1 = false → ¬bound → exec .copy s = s.replied r [replyWord Code.NOT_BOUND 0 624 0] d) ∧
      (c.copyBad r = false → sees.1 = false → read.1 = false → bound → r.pk.isSome = true →
        exec .copy s = s.replied r [replyWord job.1 job.2.1 624 0] job.2.2)) ∧
    (∀ (r : EngReq) (rest : List EngReq), s.found.front 625 (fun _ => true) = some (r, rest) →
      let c : Chip := { s.found with reqs := rest }
      let w := nth 0 r.words 0
      let q := getBits w 0 17
      let read := c.readSram s.time 10 (queueWord q) 0 r.slice
      let d := read.2
      let st := if r.pk.isSome then r.istamp else d.mrNow s.time
      let form := r.words.length = 1 ∧ getBits w 17 47 = 0
      let answer (st : Status) (fl v : Nat) : List Word := [replyWord st fl 625 v]
      (¬form → exec .qdepth s = s.replied r (answer Code.BAD_ARGUMENT 0 0) c) ∧
      (form → read.1 = true → exec .qdepth s = s.replied r (answer Code.POISONED 0 0) d) ∧
      (form → read.1 = false → d.tmAccess s.time st q r.slice r.system = false →
        exec .qdepth s = s.replied r (answer Code.FOREIGN_QUEUE 0 0) d) ∧
      (form → read.1 = false → d.tmAccess s.time st q r.slice r.system = true → exec .qdepth s =
        s.replied r (answer Code.OK (if d.tmEnabled s.time q then 1 else 0) (units (d.tmBytes q) % 2 ^ 24).toNat) d))) ∧
  (∀ (c : Chip) (r : EnqReq) (slot colour : Nat) (b : Int) (pend : List (Nat × PolSt)),
    let d := c.tmAdmit r slot colour b pend
    d.tmq r.queue = c.tmq r.queue ++ [⟨slot, { r with colour := colour }, b, false⟩] ∧
    (∀ q, q ≠ r.queue → d.tmq q = c.tmq q) ∧ d.tmBytes r.queue = c.tmBytes r.queue + b) ∧
  (∀ (c : Chip) (now st i colour : Nat) (b : Int),
    let a := A.TM_POLICER i
    let on := i ≠ 0 ∧ c.getAt st a F.TM_POLICER_ENABLE ≠ 0
    let col := if c.getAt st a F.TM_POLICER_COLOUR_BLIND = 1 then 0 else colour
    let p := c.buckets (c.mrNow now) i
    let need := b * tokenUnit
    let run := c.meter now st i colour b []
    (¬on → run = (colour, [])) ∧
    (on → (col = 2 ∨ (p.tp : Int) < need) → run = (2, [(i, p)])) ∧
    (on → ¬(col = 2 ∨ (p.tp : Int) < need) → (col = 1 ∨ (p.tc : Int) < need) →
      run = (1, [(i, { p with tp := ((p.tp : Int) - need).toNat })])) ∧
    (on → ¬(col = 2 ∨ (p.tp : Int) < need) → ¬(col = 1 ∨ (p.tc : Int) < need) →
      run = (0, [(i, { p with tp := ((p.tp : Int) - need).toNat, tc := ((p.tc : Int) - need).toNat })])))

/-! ### Scheduling and the ports (spec/09_ports.md, spec/10_traffic_manager.md) -/

/-- R283, R284, R286, R288, R296: what the Traffic Manager does when a MAC of a port with link asks for an entry: EXPRESS heads that can never fit
their gate go first, then the strict port queue of highest number, or the round robin of those left, gives the queue its own round robin chooses;
the entry leaves its queue, is charged and counted and goes to the MAC. With no port queue eligible nothing more happens.
R283: the strict port queue of highest number is chosen before every other; deficit round robin chooses a queue of those that may send and
never one that needs more visits than another. -/
def Obligations.PortSelection : Prop :=
  (∀ (s : State) (d : Fin 18) (express : Bool) (k q : Nat) (adds1 adds2 : List (Nat × Int)) (e : TmEnt) (es : List TmEnt),
    let now := s.time
    d.val < 16 → s.found.open1 23 = true → s.found.portOn d = true → s.found.link d = true → s.found.mode ≠ Mode.quarantine →
    let c := (List.range 8).foldl (fun (c : Chip) k => c.gateDrop now d k) s.found
    let pre := c.preActive d
    let mac := express || !pre
    ((c.port d).mac mac).isSome = false → (pre = true ∨ (c.port d).pre.isSome = false) →
    let exp (k : Nat) : Bool := c.getAt (c.mrNow now) (A.TM_PORTQ (8 * d.val + k)) F.TM_PORTQ_EXPRESS == 1
    let g := Chip.gated now d exp ((List.range 8).filter fun k => (!pre || exp k == express) && c.pqReady now d k) c
    (g.2.level2 now d g.1 = none → exec (.tmSelect d express) s = .next (s.done g.2)) ∧
    (g.2.level2 now d g.1 = some (k, adds2) → g.2.level1 now d k = some (q, adds1) → g.2.tmq q = e :: es →
      let u := adds2.foldl (fun (c : Chip) x =>
        c.setPqShape (8 * d.val + x.1) { c.pqShape (8 * d.val + x.1) with deficit := (c.pqShape (8 * d.val + x.1)).deficit + x.2 }) g.2
      let u := if adds2.isEmpty then u else u.setTurn (128 + d.val) k
      let u := (((u.gain adds1).setTurn (8 * d.val + k) q).takeEntry now q e).chargePq now d k e.len
      let p := u.entryPoison now q e
      (p.1 = true → exec (.tmSelect d express) s = .next (s.done p.2)) ∧
      (p.1 = false → exec (.tmSelect d express) s =
        .next (s.done ((p.2.inc (A.TM_DEQ_FRAMES q)).setMac d mac (some ⟨q, e, none, none⟩)))))) ∧
  ((∀ (c : Chip) (now p j k : Nat) (ks : List Nat) (adds : List (Nat × Int)), ks.Pairwise (· < ·) → j ∈ ks →
    c.getAt (c.mrNow now) (A.TM_PORTQ (8 * p + j)) F.TM_PORTQ_STRICT = 1 → c.level2 now p ks = some (k, adds) →
    k ∈ ks ∧ j ≤ k ∧ c.getAt (c.mrNow now) (A.TM_PORTQ (8 * p + k)) F.TM_PORTQ_STRICT = 1 ∧ adds = []) ∧
  (∀ (qs : List Nat) (last q : Nat) (deficit need : Nat → Int) (quantum : Nat → Nat) (adds : List (Nat × Int)),
    drr qs last deficit need quantum = some (q, adds) →
    q ∈ qs ∧ (adds ≠ [] → ∀ x ∈ qs, visits (deficit q) (need q) (quantum q) ≤ visits (deficit x) (need x) (quantum x))))

/-- R256-R258, R260, R262-R265, R271, R38: a MAC with a packet, link, an unpaused and open gate and the line free for it starts its next frame with
the transmit stamp, as a preemptable one with the next frame number; a gate that alone holds the frame is counted once; a packet that cannot be
segmented leaves at once. The frame ends: it is counted, goes out with its FCS (stomped, with PX_TX_POISON, where a word was poisoned), and after the
last one the packet's references are released.
R260: a preemptable frame in transmission is interrupted only where the fragment sent and what is left of the frame are both long enough; the
fragment goes out with its mCRC under the frame's own stamp, and the frame goes on later from the byte after it. -/
def Obligations.FramesTransmitted : Prop :=
  (∀ (s : State) (p : PortNo) (express : Bool) (j : TxJob),
    let now := s.time
    (let c := (s.found.gateCut now p).ownGo now p
     let ends (d : Chip) : Prop := exec (.txFrameStart p express) s = .next (s.done d)
     let may : Prop := (c.port p).mac express = some j ∧ c.portOn p = true ∧ c.link p = true ∧ macGoing (some j) = false ∧ c.open1 23 = true ∧
       (c.port p).own = [] ∧ nth 0 (c.port p).paused (c.jobPq j) = 0
     (∀ d, may → j.run = none → c.buildJob now p j = (none, d) → ends ((d.inc (A.PX_TX_SEG_ERR p)).leave now p express j)) ∧
     (∀ fs d u, may → j.run = none → c.buildJob now p j = (some fs, d) → Chip.screen now p j.ent.req.slice fs d = ([], u) →
       ends (u.leave now p express j)) ∧
     (∀ fs d f gs u, may → j.run = none → c.buildJob now p j = (some fs, d) → Chip.screen now p j.ent.req.slice fs d = (f :: gs, u) →
       let st := u.txStamp now p
       let bs := padFrame f.bytes
       let held : Chip := u.setMac p express (some { j with frames := some (f :: gs) })
       (∀ w, u.gateAdmits p (c.jobPq j) st (bs.length + 4) express = true → held.lineFor now p express = some w →
         let x := w.ptpTx p st bs
         let run (no : Option (Fin 4)) : TxRun := ⟨st, no, 0, 0, some st⟩
         let put (no : Option (Fin 4)) : Chip :=
           x.2.setMac p express (some { j with frames := some ({ f with bytes := x.1 } :: gs), run := some (run no) })
         (express = true ∨ x.2.preActive p = false → ends (put none)) ∧
         (express = false → x.2.preActive p = true →
           let e := put (some (x.2.port p).txNo)
           ends (e.setPort p { e.port p with txNo := (x.2.port p).txNo + 1 }))) ∧
       (u.gateAdmits p (c.jobPq j) st (bs.length + 4) express = true → held.lineFor now p express = none → ends held) ∧
       (u.gateAdmits p (c.jobPq j) st (bs.length + 4) express = false →
         let hold := !j.ent.held && u.guardHolds p (c.jobPq j) st (bs.length + 4) express
         let v := if hold then u.inc (A.TM_PORT_GATE_HOLD p) else u
         ends (v.setMac p express (some { j with frames := some (f :: gs), ent := { j.ent with held := j.ent.held || hold } }))))) ∧
    (let c := s.found.gateCut now p
     ∀ r f fs, (c.port p).mac express = some j → j.run = some r → j.frames = some (f :: fs) → r.since.isSome = true →
       let d := c.countTx p (f.bytes.length + 4) r.stamp (some j.ent.req.acct)
       let d := if f.poison then (d.inc (A.PX_TX_STOMPED p)).raise now Flt.PX_TX_POISON (16 + p.val / 4) 63 0 0 else d
       let u := if fs.isEmpty then d.leave now p express j
         else d.setMac p express (some { j with frames := some fs, run := none, ent := { j.ent with held := false } })
       let fcs := if f.poison then stompedFcs f.bytes else fcsOf f.bytes
       let w : Chip := { u with net := { u.net with sent := u.net.sent ++ [⟨p, f.bytes.drop r.done ++ fcs, r.stamp, r.smd⟩] },
                                due := u.due ++ [.own p] }
       u.loopback p = 0 →
         (w.flag (A.PX_CFG p) F.PX_CFG_ENABLE = true → exec (.txFrameEnd p express) s = .next (s.done w)) ∧
         (w.flag (A.PX_CFG p) F.PX_CFG_ENABLE = false → exec (.txFrameEnd p express) s = .next (s.done (w.portHalt now p))))) ∧
  (∀ (c : Chip) (now st : Nat) (p : PortNo) (j : TxJob) (r : TxRun) (f : TxFrame) (fs : List TxFrame) (t : Nat) (no : Fin 4),
    (c.port p).pre = some j → j.run = some r → j.frames = some (f :: fs) → r.since = some t → r.no = some no → c.loopback p = 0 →
    let n := (st - t) * c.rate p / (8 * 65536)
    let least := 64 * (1 + c.get (A.PX_PREEMPT p) F.PX_PREEMPT_ADD_FRAG)
    let cut := (f.bytes.take (r.done + n)).drop r.done
    (n + 4 < least ∨ f.bytes.length < r.done + n + 60 → c.cutPre now p st = none) ∧
    (least ≤ n + 4 → r.done + n + 60 ≤ f.bytes.length →
      let d := c.setMac p false (some { j with run := some { r with done := r.done + n, count := r.count + 1, since := none } })
      c.cutPre now p st = some { d with net := { d.net with
        sent := d.net.sent ++ [⟨p, cut ++ mcrcOf (f.bytes.take (r.done + n)), r.stamp, r.smd⟩] } }))

/-- R249, R258, R259, R267-R269: the events of a port: its link rises and falls, pauses run out, an XOFF is repeated, a peer delay arrives, and
802.3br verification: a verify mPacket after VERIFY_MS, FAILED after three, SUCCEEDED on a respond, a respond for every verify received. -/
def Obligations.PortEvents : Prop :=
  ∀ (s : State) (p : PortNo),
    let c := s.found
    let now := s.time
    let a := A.PX_STATUS p
    let vs := A.PX_PREEMPT_STAT p
    let x := c.port p
    (c.portOn p = true → c.link p = false →
      let d := ((c.setFlag a F.PX_STATUS_LINK true).setFlag a F.PX_STATUS_TRAINING false).setFlag a F.PX_STATUS_AN_DONE
        (c.flag (A.PX_CFG p) F.PX_CFG_AN_EN)
      exec (.linkUp p) s =
        .next (s.done (((d.setFlag (A.TM_PORT p) F.TM_PORT_DROP_STATE false).linkNote now p true).verifyRestart now p))) ∧
    (c.link p = true →
      let d := ((((c.setFlag a F.PX_STATUS_LINK false).linkNote now p false).loseTx now p).verifyRestart now p)
      let u := d.setPort p { d.port p with downAt := now }
      (u.get (A.TM_PORT p) F.TM_PORT_LINKDOWN_US = 0 → exec (.linkDown p) s = .next (s.done ((u.portDrop now p).asmBreak now p true))) ∧
      (u.get (A.TM_PORT p) F.TM_PORT_LINKDOWN_US ≠ 0 → exec (.linkDown p) s = .next (s.done (u.asmBreak now p true)))) ∧
    (let due := (List.range 8).foldl (fun m k => if nth 0 x.paused k ≠ 0 ∧ nth 0 x.paused k ≤ now then m + 2 ^ k else m) 0
     due ≠ 0 → exec (.pauseTimerExpiry p) s = .next (s.done (c.pausePrios now p due fun _ => 0))) ∧
    (c.get a F.PX_STATUS_XOFF ≠ 0 → c.get (A.PX_WEIR_CFG p) F.PX_WEIR_CFG_MODE ≠ 0 → x.refresh ≤ now →
      exec (.weirRefresh p) s = .next (s.done (c.weirFrame now p (c.get a F.PX_STATUS_XOFF) 0))) ∧
    (∀ delay : BitVec 32, c.link p = true → c.open1 (16 + p.val / 4) = true →
      let ds := (x.delays ++ [delay.toNat]).drop (x.delays.length + 1 - 8)
      exec (.peerDelayResult p delay) s =
        .next (s.done (((c.setPort p { x with delays := ds }).set (A.PX_DELAY p) F.PX_DELAY_MEASURED_NS (ds.foldl max 0)).weirAuto p))) ∧
    (c.portOn p = true → c.link p = true → c.flag (A.PX_PREEMPT p) F.PX_PREEMPT_ENABLE = true →
      c.get vs F.PX_PREEMPT_STAT_VERIFY_STATUS < 2 → x.verifyAt ≤ now →
      (3 ≤ x.verifies → exec (.verifyTimer p) s = .next (s.done (c.set vs F.PX_PREEMPT_STAT_VERIFY_STATUS 3))) ∧
      (x.verifies < 3 →
        let d := (c.set vs F.PX_PREEMPT_STAT_VERIFY_STATUS 1).own p (.mpacket .verify)
        exec (.verifyTimer p) s = .next (s.done (d.setPort p { d.port p with
          verifies := x.verifies + 1, verifyAt := now + ns (1000000 * d.get (A.PX_PREEMPT p) F.PX_PREEMPT_VERIFY_MS) })))) ∧
    (let e := (c.add (A.PX_FEC_CORRECTED p) 0).add (A.PX_FEC_UNCORRECTED p) 0
     let fin (d : Chip) : Chip := if (d.port p).asm.isSome then d else d.setPort p { d.port p with tail := none }
     c.receives p = true → e.loopback p = 0 → e.flag (A.PX_PREEMPT p) F.PX_PREEMPT_ENABLE = true →
      exec (.verifyMpacketReceive p) s = .next (s.done (fin (e.own p (.mpacket .respond)))) ∧
      (e.get vs F.PX_PREEMPT_STAT_VERIFY_STATUS = 1 → exec (.respondMpacketReceive p) s =
        .next (s.done (fin ((e.set vs F.PX_PREEMPT_STAT_VERIFY_STATUS 2).setFlag vs F.PX_PREEMPT_STAT_ACTIVE true)))))

/-- R246, R249, R272, R273: writes of a port's and a group's registers: enabling a port that is present starts it, disabling stops it, a group's
mode is changed only with its ports disabled and retrains them, and TS_TAIL moves only over entries of the ring.
R276, R287, R288, R294, R282: writes of queue contexts, policers, gate lists and TM_FLUSH, and the link-down drop state. A refused write
leaves everything as it was. -/
def Obligations.PortWrites : Prop :=
  (∀ (s : State) (p : PortNo) (g : GroupNo) (v : Word),
    let c := s.found
    let now := s.time
    (s.writable (A.PX_CFG p) = true → c.present p = true →
      let a := A.PX_CFG p
      let on := c.filled now a [setBits v 0 1 1]
      let off := c.filled now a [setBits v 0 1 0]
      let ok (d : Chip) := 1518 ≤ d.get a F.PX_CFG_MAX_FRAME ∧ d.get a F.PX_CFG_MAX_FRAME ≤ 16128
        ∧ (d.get a F.PX_CFG_MAX_FRAME = c.get a F.PX_CFG_MAX_FRAME ∨ d.get a F.PX_CFG_MAX_FRAME ≤ d.largestBobbin)
        ∧ (d.get a F.PX_CFG_LOOPBACK = 0 ∨ (d.get a F.PX_CFG_LOOPBACK ≤ 4 ∧ d.mode = Mode.diagnostic))
      (c.flag a F.PX_CFG_ENABLE = false → on.flag a F.PX_CFG_ENABLE = true → ok on → exec (.portEnable p v) s =
        s.wrote Code.OK ((if on.link p then on else on.setFlag (A.TM_PORT p) F.TM_PORT_DROP_STATE true).portStart p)) ∧
      (c.flag a F.PX_CFG_ENABLE = true → off.flag a F.PX_CFG_ENABLE = false → ok off →
        off.get a F.PX_CFG_MAX_FRAME = c.get a F.PX_CFG_MAX_FRAME → off.get a F.PX_CFG_AN_EN = c.get a F.PX_CFG_AN_EN →
        exec (.portDisable p v) s =
          s.wrote Code.OK ((if off.link p then off.setPort p { off.port p with tail := some now } else off).portHalt now p)) ∧
      (c.flag a F.PX_CFG_ENABLE = true → ok on → on.get a F.PX_CFG_AN_EN ≠ c.get a F.PX_CFG_AN_EN →
        exec (.portEnable p v) s = s.wrote Code.PORT_ENABLED c)) ∧
    (s.writable (A.PX_MODE g) = true →
      let d := c.filled now (A.PX_MODE g) [v]
      let busy := ∃ k, k < 4 ∧ c.flag (A.PX_CFG (4 * g.val + k)) F.PX_CFG_ENABLE = true
      (busy → exec (.groupModeWrite g v) s = s.wrote Code.PORT_ENABLED c) ∧
      (¬busy → d.rd (A.PX_MODE g) ≠ c.rd (A.PX_MODE g) → exec (.groupModeWrite g v) s =
        s.wrote Code.OK ((List.range 4).foldl (fun (c : Chip) k => c.weirAuto (4 * g.val + k)) (d.groupRetrain now g))) ∧
      (¬busy → d.rd (A.PX_MODE g) = c.rd (A.PX_MODE g) → exec (.groupModeWrite g v) s = s.wrote Code.OK d)) ∧
    (s.writable (A.PX_TS_TAIL g) = true →
      let head := c.get (A.PX_TS_HEAD g) ⟨0, 0, 6⟩
      let tail := c.get (A.PX_TS_TAIL g) ⟨0, 0, 6⟩
      (tailOk 64 head tail (getBits v 0 6) = true → exec (.tsTailWrite g v) s = s.wrote Code.OK (c.filled now (A.PX_TS_TAIL g) [v])) ∧
      (tailOk 64 head tail (getBits v 0 6) = false → exec (.tsTailWrite g v) s = s.wrote Code.BAD_ARGUMENT c))) ∧
  (∀ (s : State),
    let c := s.found
    let now := s.time
    (∀ q : BitVec 17, s.writable A.TM_FLUSH = true →
      let d := c.filled now A.TM_FLUSH [q.zeroExtend 64]
      let en := if isShaped q.toNat then d.qf (d.mrNow now) q.toNat F.TM_QUEUE_ENABLE else d.getAt (d.mrNow now) (A.TM_HRXQ q.toNat) F.TM_HRXQ_ENABLE
      (en = 1 → exec (.tmFlush q) s = s.wrote Code.QUEUE_BUSY d) ∧
      (en ≠ 1 → exec (.tmFlush q) s = s.wrote Code.OK (d.dropQueue now q.toNat (A.TM_DROP q.toNat)))) ∧
    (∀ (n : QpNo) (k : Fin 4) (ws : List Word), s.writable (A.TM_QUEUE n) = true → ws ≠ [] → k.val + ws.length ≤ 4 →
      let a := A.TM_QUEUE n
      let d := c.filled now (a + 8 * k.val) ws
      let st := d.queueCheck (65536 + n.val) (c.rdAt now a) (d.rdAt now a)
      (st = Code.OK → exec (.queueWrite n k ws) s =
        s.wrote Code.OK ((d.setSram 10 (queueWord (65536 + n.val)) 0).setShape (65536 + n.val) (c.credit (c.mrNow now) (65536 + n.val)))) ∧
      (st ≠ Code.OK → exec (.queueWrite n k ws) s = s.wrote st c)) ∧
    (∀ (i : Fin 16384) (ws : List Word), i.val ≠ 0 → s.writable (A.TM_POLICER i) = true → ws ≠ [] → ws.length ≤ 2 →
      let a := A.TM_POLICER i
      let d := c.filled now a ws
      let st := d.policerCheck i (d.rdAt now a) (d.rdAt now (a + 8))
      (st = Code.OK → exec (.policerWrite i ws) s = s.wrote Code.OK
        ((d.policerPut (c.mrNow now) i (c.buckets (c.mrNow now) i) (c.getAt now a F.TM_POLICER_ENABLE == 1)).setSram 10 (policerWord i) 0)) ∧
      (st ≠ Code.OK → exec (.policerWrite i ws) s = s.wrote st c)) ∧
    (∀ (p : PortNo) (l : Fin 2) (k : Fin 256) (v : Word), s.writable (A.TM_GCL p l k) = true →
      (c.gclBusy now p l = true → exec (.gclWrite p l (some k) [v]) s = s.wrote Code.LIST_ACTIVE c) ∧
      (c.gclBusy now p l = false → exec (.gclWrite p l (some k) [v]) s = s.wrote Code.OK (c.filled now (A.TM_GCL p l k) [v]))) ∧
    (∀ (p : PortNo) (l : Fin 2) (ws : List Word), s.writable (A.TM_GCL_HDR p l) = true → ws ≠ [] → ws.length ≤ 4 →
      let a := A.TM_GCL_HDR p l
      let d := c.filled now a ws
      let ok := d.getAt now a F.TM_GCL_HDR_LENGTH ≤ 256 ∧ 1000 ≤ d.getAt now a F.TM_GCL_HDR_CYCLE_NS
        ∧ d.getAt now a F.TM_GCL_HDR_CYCLE_NS ≤ 1000000000 ∧ d.getAt now a F.TM_GCL_HDR_BASE_FRAC % 2 ^ 13 = 0
      (¬ok → exec (.gclWrite p l none ws) s = s.wrote Code.BAD_ARGUMENT c) ∧
      (ok → c.gclBusy now p l = true → exec (.gclWrite p l none ws) s = s.wrote Code.LIST_ACTIVE c) ∧
      (ok → c.gclBusy now p l = false → exec (.gclWrite p l none ws) s = s.wrote Code.OK d)) ∧
    (∀ p : PortNo, c.link p = false → c.flag (A.TM_PORT p) F.TM_PORT_DROP_STATE = false →
      (c.port p).downAt + ns (1000 * c.get (A.TM_PORT p) F.TM_PORT_LINKDOWN_US) ≤ now →
      exec (.linkdownExpiry p) s = .next (s.done (c.portDrop now p))))

/-! ### The Cipher Engine and the Storage Transport Engine (spec/11_cipher_storage.md) -/

/-- R304-R309: a cipher job on channel 640 or 641. A malformed request, or one whose source does not fit, ends BAD_ARGUMENT; with the context at
hand, the source read and DST bound, a foreign slice, the wrong channel and lost sequence state end the job with their codes; a seal takes the
context's SEQ once, an open is accepted once its tag verifies and its number is new, an open of TLS takes SEQ once, XTS works on whole data
units; each ends ABSENT where the bound that R304 needs first cannot be written. The reply tells the bytes of output, their flags and number.
R304, R305: the sequence state of a context that is used. A number below the bound is taken without a write; one at or beyond it, or the
first after the exact state was written back, waits for a new bound S beyond it in word 3, never beyond the largest number of the suite plus 1;
without the word's channel nothing is used. The replay window of W numbers rejects 0, whatever lies W or more behind the highest number
accepted, and a number whose bit is set.
R300, R302, R303: the operations of CE_CTX_CMD. Each ends with its status in CE_CTX_STAT and the blob registers cleared. INSTALL with staged
fields in range unwraps the key blob under its key-transport key and writes the four words of a context that is not valid or is poisoned:
VALID = 1, BITMAP 0, EXACT = 1, the keys wrapped (what wrapping makes of them are free values that the wrapping key opens, log entry 41). REMOVE
is noted; it takes effect once no job accepted for the context is left, with VALID = 0 and zero key words. FLUSH writes the exact state of the
cached contexts. READ_STATE shows the SEQ of the context. -/
def Obligations.CipherEngine : Prop :=
  (∀ (s : State) (xts : Bool) (r : EngReq) (rest : List EngReq),
    s.found.front (if xts then 641 else 640) (fun _ => true) = some (r, rest) →
    let c : Chip := { s.found with reqs := rest }
    let now := s.time
    let run := exec (.cipherJob xts) s
    let fails (d : Chip) (st : Status) := s.replied r (ceReply r st 0 0 0) d
    let id := getBits (nth 0 r.words 0) 24 24
    let dst (d : Chip) : Nat := d.bobBase id + getBits (nth 0 r.words 1) 32 16
    let gives (d k u : Chip) (out : List Byte) (fl n : Nat) : Prop :=
      k.bobStore now (dst d) out r.slice = (true, u) →
      run = s.replied r (ceReply r Code.OK fl out.length n) (u.ceDone now (getBits (nth 0 r.words 1) 16 16) r.slice)
    ((ceBad r none = true ∨ c.ceSrcFits r = false) → run = fails c Code.BAD_ARGUMENT) ∧
    (∀ l d src e, ceBad r none = false → c.ceSrcFits r = true →
      c.ctxGet now (getBits (nth 0 r.words 0) 0 20) r.slice = (Code.OK, some l, d) → ceBad r (some l) = false →
      d.ceDstFits r ((l.outLen (getBits (nth 0 r.words 1) 16 16)).getD 0) = true → d.ceRead now r = (false, src, e) →
      let tagged := suiteXts (hdrSuite l.hdr) = false
      let mine := (r.system = true ∨ hdrOwner l.hdr = r.slice) ∧ suiteXts (hdrSuite l.hdr) = (r.chan == 641) ∧ l.lost = false
      (e.ceBound r = false → run = fails e Code.NOT_BOUND) ∧
      (e.ceBound r = true →
        (r.system = false → hdrOwner l.hdr ≠ r.slice → run = fails (e.raise now Flt.CE_FOREIGN_CONTEXT 23 48 r.slice 0) Code.FOREIGN_CONTEXT) ∧
        ((r.system = true ∨ hdrOwner l.hdr = r.slice) → suiteXts (hdrSuite l.hdr) ≠ (r.chan == 641) → run = fails e Code.SUITE_MISMATCH) ∧
        ((r.system = true ∨ hdrOwner l.hdr = r.slice) → suiteXts (hdrSuite l.hdr) = (r.chan == 641) → l.lost = true →
          run = fails e Code.SEQ_LOST) ∧
        (∀ u, mine → ¬tagged → gives e e u (l.xts (hdrOpen l.hdr) (nth 0 r.words 3).toNat src) 0 0) ∧
        (mine → tagged → hdrOpen l.hdr = false → seqMax l.hdr < l.seq → run = fails e Code.SEQ_EXHAUSTED) ∧
        (mine → tagged → hdrOpen l.hdr = false → l.seq ≤ seqMax l.hdr →
          (Chip.advance l { l with seq := l.seq + 1 } l.seq e = none → run = fails e Code.ABSENT) ∧
          (∀ k u, Chip.advance l { l with seq := l.seq + 1 } l.seq e = some k →
            gives e k u (l.sealed l.seq (getBits (nth 0 r.words 0) 48 8) src) 0 l.seq)) ∧
        (mine → tagged → hdrOpen l.hdr = true → suiteTls (hdrSuite l.hdr) = true → seqMax l.hdr < l.seq → run = fails e Code.SEQ_EXHAUSTED) ∧
        (mine → tagged → hdrOpen l.hdr = true → (suiteTls (hdrSuite l.hdr) = true → l.seq ≤ seqMax l.hdr) →
          (l.opened src = .parse → run = fails e Code.PARSE) ∧
          (l.opened src = .bad → run = fails (e.inc A.CE_AUTH_FAIL) Code.AUTH_FAIL) ∧
          (∀ pt fl n, l.opened src = .ok pt fl n → e.ceDstFits r pt.length = true →
            (∀ k u, suiteTls (hdrSuite l.hdr) = true → Chip.advance l { l with seq := l.seq + 1 } n e = some k → gives e k u pt fl n) ∧
            (suiteTls (hdrSuite l.hdr) = false → l.replayed n = true → run = fails (e.inc A.CE_REPLAY) Code.REPLAY) ∧
            (∀ k u, suiteTls (hdrSuite l.hdr) = false → l.replayed n = false → Chip.advance l (l.accept n) n e = some k →
              gives e k u pt fl n)))))) ∧
  ((∀ (l l' : CeLine) (n p : Nat) (c : Chip), l.bound = some p → n < p → Chip.advance l l' n c = some (c.putLine l')) ∧
  (∀ (l l' : CeLine) (n e w : Nat) (c : Chip), c.ctxWord l'.ctx = some (e, w) → (∀ p, l.bound = some p → p ≤ n) →
    let b := min ((if l.bound.isSome then n else max n l.seq) + c.ckpt) (seqMax l'.hdr + 1)
    (c.qReady (qdrChannel e (w + 3)) = false → Chip.advance l l' n c = none) ∧
    (c.qReady (qdrChannel e (w + 3)) = true → Chip.advance l l' n c =
      some (((c.writeQdr e (w + 3) (word3 b (if hdrOpen l'.hdr then allOnes else 0) false)).inc A.CE_CTX_BOUNDS).putLine
        { l' with bound := some b }))) ∧
  (∀ (l : CeLine) (n : Nat), 1 ≤ hdrWin l.hdr →
    (l.replayed n = true ↔ n = 0 ∨ n + hdrWin l.hdr ≤ l.seq ∨ (n ≤ l.seq ∧ (hdrWin l.hdr = 1 ∨ l.bits.testBit (l.seq - n) = true)))) ∧
  (∀ (l : CeLine) (n : Nat), hdrWin l.hdr = 0 → l.replayed n = false)) ∧
  (∀ (s : State) (ctx : BitVec 20) (ktk : Fin 4),
    let now := s.time
    let n := ctx.toNat
    let cmd (v : Nat) : Chip := s.found.filled now A.CE_CTX_CMD [BitVec.ofNat 64 v]
    let ends (d : Chip) (st : Status) := s.wrote Code.OK (d.ceCmdEnd st)
    (∀ (d : Chip) (st : Status), st < 2 ^ 16 →
      (∀ i, i < 9 → (d.ceCmdEnd st).rd (A.CE_CTX_BLOB i) = 0) ∧ (d.ceCmdEnd st).get A.CE_CTX_STAT F.CE_CTX_STAT_STATUS = st) ∧
    (∀ d : Chip, d.ctxFlush.ce.cache.map (·.ctx) = d.ce.cache.map (·.ctx)) ∧
    (s.writable A.CE_CTX_CMD = true →
      (let d := cmd (n + 2 ^ 20 + ktk.val * 2 ^ 24)
       let h := (d.rd A.CE_CTX_HDR &&& ~~~ 0x10#64) ||| 0x10#64
       let id := d.rd A.CE_CTX_ID
       let seq := (d.rd A.CE_CTX_SEQ).toNat
       let run := exec (.install ctx ktk) s
       let kek := mget [] d.cmd.keys (16 + ktk.val)
       (stagedBad (d.rd A.CE_CTX_HDR) id seq = true ∨ d.ctxWord n = none → run = ends d Code.BAD_ARGUMENT) ∧
       (∀ e w, stagedBad (d.rd A.CE_CTX_HDR) id seq = false → d.ctxWord n = some (e, w) → d.ctxReady e w = true →
        (∀ keys, kek.length = 32 → keyUnwrap kek (ofWords ((List.range 9).map fun i => d.rd (A.CE_CTX_BLOB i))) = some keys →
          (∀ bs u, Chip.readQdrs now e 0 4 w d = (.ok bs, u) → getBits (leWord bs) 4 1 = 1 → mget 0 u.ce.bad n ≠ 2 →
            run = ends u Code.CTX_BUSY) ∧
          (∀ q u, Chip.readQdrs now e 0 4 w d = (q, u) → (q = .poisoned ∨ ∃ bs, q = .ok bs ∧ (getBits (leWord bs) 4 1 = 0 ∨ mget 0 u.ce.bad n = 2)) →
            let free := (Chip.freshBytes 10 u).1
            let w0 := leBytes 8 h.toNat ++ leBytes 8 id.toNat ++ free.take 16
            let w1 := (free.drop 16).take 32
            let w2 := (free.drop 48).take 32
            let v := (((((Chip.freshBytes 10 u).2.writeQdr e w w0).writeQdr e (w + 1) w1).writeQdr e (w + 2) w2).writeQdr e (w + 3) (word3 seq 0 true))
            run = ends (v.setCe { v.ce with wraps := ⟨w0 ++ w1 ++ w2, keys.take 32, keys.drop 32⟩ :: v.ce.wraps, bad := mset 0 v.ce.bad n 0,
                                            cache := v.ce.cache.filter fun l => l.ctx != n }) Code.OK)) ∧
        (kek.length ≠ 32 ∨ keyUnwrap kek (ofWords ((List.range 9).map fun i => d.rd (A.CE_CTX_BLOB i))) = none → run = ends d Code.UNWRAP_FAIL))) ∧
      (let d := cmd (n + 2 * 2 ^ 20)
       (d.ctxWord n = none → exec (.remove ctx) s = ends d Code.BAD_ARGUMENT) ∧
       (∀ p, d.ctxWord n = some p → exec (.remove ctx) s = ends (d.setCe { d.ce with removes := d.ce.removes ++ [(n, now)] }) Code.OK)) ∧
      (let d := cmd (3 * 2 ^ 20)
       (exec .ctxFlush s = s.wrote Code.OK d.ctxFlush) ∧
       (d.ce.cache = [] → exec .ctxFlush s = ends d Code.OK) ∧
       (∀ l e w, d.ce.cache = [l] → d.ctxWord l.ctx = some (e, w) → suiteXts (hdrSuite l.hdr) = false → l.lost = false →
        d.qReady (qdrChannel e (w + 3)) = true →
        let u := d.writeQdr e (w + 3) (word3 l.seq l.bits true)
        exec .ctxFlush s = ends (u.setCe { u.ce with cache := u.ce.cache.map fun x => if x.ctx = l.ctx then { l with bound := none } else x })
          Code.OK)) ∧
      (let d := cmd (n + 4 * 2 ^ 20)
       (d.ctxWord n = none → exec (.readState ctx) s = ends d Code.BAD_ARGUMENT) ∧
       (∀ p l, d.ctxWord n = some p → d.ce.cache.find? (fun l => l.ctx == n) = some l →
         exec (.readState ctx) s = ends (d.wr A.CE_CTX_STATE (BitVec.ofNat 64 l.seq)) Code.OK) ∧
       (∀ e w bs u, d.ctxWord n = some (e, w) → d.ce.cache.find? (fun l => l.ctx == n) = none → d.readQdr now e (w + 3) 0 = (.ok bs, u) →
         exec (.readState ctx) s = ends (u.wr A.CE_CTX_STATE (leWord bs)) Code.OK))) ∧
    (∀ t, s.found.ce.removes.find? (fun p => p.1 == n) = some (n, t) → s.found.up 40 = true →
      (s.found.ctxJobs n t = true → exec (.removeTakesEffect ctx) s = .next (s.done s.found)) ∧
      (∀ e w old d, s.found.ctxJobs n t = false →
        let u := s.found.setCe { s.found.ce with removes := s.found.ce.removes.filter fun q => q.1 != n,
                                                 cache := s.found.ce.cache.filter fun l => l.ctx != n }
        u.ctxWord n = some (e, w) → u.ctxReady e w = true → u.readQdr now e w 0 = (.ok old, d) →
        exec (.removeTakesEffect ctx) s = .next (s.done
          ((((d.writeQdr e w (leBytes 8 ((leWord old) &&& ~~~ 0x10#64).toNat ++ old.drop 8)).writeQdr e (w + 1) (leBytes 32 0)).writeQdr
            e (w + 2) (leBytes 32 0)).ceCmdEnd Code.OK)))))

/-- R312, R315, R318: a receive request on channel 672, checked in the order of R16. A malformed one ends BAD_ARGUMENT; with its connection's
state and its bytes without poison, a connection that is not valid ends CONN_INVALID, another slice's FOREIGN_CONN with its fault, a lost one
LOST, a segment wholly before EXP_SEQ OLD; one that starts after it ends GAP and the connection is lost. Any other segment is followed from
EXP_SEQ on, EXP_SEQ advances, and the reply tells what was placed and how many PDUs ended. A request whose host access must wait (for the link
of the endpoint, or for a mover) stays; one that needs a placement entry first has it read.
R313-R315: what the stream of a connection does. The end of a header checks its digest; a data PDU of the placed type looks up its entry and
its data go to ADDR + DATAO where the entry is VALID, carries the CID and is long enough; an inconsistent header, a wrong header digest, a ring
without room but for the slot kept back lose the connection. A PDU's end writes its entry at HEAD; a loss sets LOST with its reason and EXP_SEQ
and writes an entry, for which the slot kept back may be used.
R316: a transmit request on channel 673 of a payload of whole PDUs copies it to a bound DST with the digests that its flags announce and
answers LEN; a payload that is not whole PDUs ends PARTIAL_PDU. A malformed request, a connection that is not valid and a DST that is not bound
end with their codes.
R311, R351: a write of ST_CONN(n). Fields out of range end BAD_ARGUMENT. Of a valid connection only EXP_SEQ and TAIL may change, any other
change ends CONN_BUSY; a new EXP_SEQ starts it anew at HEADER, TAIL alone leaves it as it is. A connection that becomes valid within its slice's
quota starts at EXP_SEQ in HEADER with an empty ring. -/
def Obligations.StorageTransport : Prop :=
  (∀ (s : State) (r : EngReq) (rest : List EngReq), s.found.front 672 (fun _ => true) = some (r, rest) →
    let c := ({ s.found with reqs := rest } : Chip).inc A.ST_RX_SEGS
    let now := s.time
    let w0 := nth 0 r.words 0
    let w1 := nth 0 r.words 1
    let n := getBits w0 0 15
    let off := getBits w0 16 16
    let len := getBits w0 32 16
    let run := exec .stReceive s
    let waits := (s.found.stReceive now r).2.2
    let ack (d : Chip) (st : Status) (placed ended : Nat) : Host.Outcome State Fault Refusal :=
      s.replied r [replyWord st (if ended = 0 then 0 else 1) r.chan placed,
        BitVec.ofNat 64 (d.sc n F.ST_CONN_EXP_SEQ + ended % 2 ^ 16 * 2 ^ 32)] (d.entryForget n)
    let form := r.words.length = 2 ∧ getBits w0 15 1 = 0 ∧ getBits w0 48 16 = 0 ∧ getBits w1 32 32 = 0
      ∧ off + len ≤ (if r.valid then r.plen else 0)
    (¬form → run = ack c Code.BAD_ARGUMENT 0 0) ∧
    (waits = some .wait → run = .next (s.done s.found)) ∧
    (∀ i, waits = some (.entry i) → run = .next (s.done (s.found.entryRead now n i))) ∧
    (∀ d u bs, form → waits = none → c.readSram now 12 n 0 (c.sc n F.ST_CONN_OWNER) = (false, d) →
      d.bobNamed r.pkt = true → d.bobRead now (d.bobBase r.pkt + off) len r.slice = (false, bs, u) →
      let e := u.sc n F.ST_CONN_EXP_SEQ
      let ahead := (getBits w1 0 32 + 2 ^ 32 - e) % 2 ^ 32
      let behind := (e + 2 ^ 32 - getBits w1 0 32) % 2 ^ 32
      let valid := u.sc n F.ST_CONN_VALID ≠ 0
      let mine := valid ∧ (r.system = true ∨ u.sc n F.ST_CONN_OWNER = r.slice)
      let lost := u.stState n = stLost
      let gap := 0 < ahead ∧ ahead < 2 ^ 31
      (¬valid → run = ack u Code.CONN_INVALID 0 0) ∧
      (valid → r.system = false → u.sc n F.ST_CONN_OWNER ≠ r.slice →
        run = ack (u.raise now Flt.ST_FOREIGN_CONN 23 49 r.slice 0) Code.FOREIGN_CONN 0 0) ∧
      (mine → lost → run = ack u Code.LOST 0 0) ∧
      (mine → ¬lost → gap → u.stHost n 128 ≠ some .wait → run = ack (u.lose now n e lossGap) Code.GAP 0 0) ∧
      (mine → ¬lost → ¬gap → len ≤ behind → run = ack u Code.OLD 0 0) ∧
      (mine → ¬lost → ¬gap → behind < len →
        let f := StRun.follow now n ((bs.drop behind).length + 1) (bs.drop behind) ⟨u, u.conn n, 0, 0, none⟩
        let v := f.chip.setConn n f.x
        (f.stop = none →
          run = ack ((v.set (A.ST_CONN n) F.ST_CONN_EXP_SEQ ((f.x.first + f.x.pos) % 2 ^ 32)).setStState n f.x.shown) Code.OK f.placed f.ended) ∧
        (∀ reason st, f.stop = some (.lost reason st) →
          run = ack (v.lose now n ((f.x.first + f.x.pos) % 2 ^ 32) reason) st f.placed f.ended)))) ∧
  ((∀ (r : StRun) (now n : Nat), pduHd r.x.hdr = true → digestOf (r.x.hdr.take (pduHlen r.x.hdr)) ≠ (r.x.hdr.drop (pduHlen r.x.hdr)).take 4 →
    (r.headed now n).stop = some (.lost lossHdgst Code.LOST) ∧ (r.headed now n).chip = r.chip) ∧
  (∀ (r : StRun) (now n : Nat) (bs : List Byte), 8 ≤ (r.x.hdr ++ bs).length →
    pduBad (r.chip.sc n F.ST_CONN_HDGST == 1) (r.chip.sc n F.ST_CONN_DDGST == 1) (r.x.hdr ++ bs) = true →
    (r.take now n .common bs).stop = some (.lost lossPdu Code.LOST)) ∧
  (∀ (c : Chip) (now n : Nat) (h : List Byte) (ws : List Word), getBits (nth 0 ws 1) 49 1 = 0 →
    (c.destOf now n h ws).1 = if getBits (nth 0 ws 1) 48 1 = 1 ∧ getBits (nth 0 ws 1) 32 16 = pduCid h
        ∧ pduDatao h + pduDatal h ≤ getBits (nth 0 ws 1) 0 32 then some ⟨(nth 0 ws 0).toNat + pduDatao h, none⟩ else none) ∧
  (∀ (r : StRun) (n a : Nat) (bs : List Byte), r.chip.stHost n bs.length = none →
    let f := r.chip.sliceFn (r.chip.sc n F.ST_CONN_OWNER)
    (r.put n a bs).chip = (r.chip.writeData (r.chip.stEp n) f.1 f.2 a bs (bs.map fun _ => false)).add A.ST_PLACED_BYTES bs.length ∧
    (r.put n a bs).placed = r.placed + bs.length ∧ (r.put n a bs).stop = r.stop) ∧
  (∀ (r : StRun) (now n : Nat), r.x.buf = [] → (r.chip.sc n F.ST_CONN_HEAD + 2) % r.chip.stSize n = r.chip.sc n F.ST_CONN_TAIL →
    (r.close now n).stop = some (.lost lossFull Code.LOST) ∧ (r.close now n).chip = r.chip) ∧
  (∀ (c : Chip) (now n seq plen flags hlen placed : Nat) (hdr : List Byte),
    let x := c.conn n
    let head := c.sc n F.ST_CONN_HEAD
    let own := c.sc n F.ST_CONN_OWNER
    let d := c.writeOrdered now (c.stHome n) (c.sliceFn own).1 (c.sliceFn own).2 (c.sc n F.ST_CONN_RING_ADDR + 128 * head)
      (ringEntry seq plen (flags + if x.phase then 1 else 0) hlen placed hdr)
    let next := (head + 1) % c.stSize n
    let u := (d.set (A.ST_CONN n) F.ST_CONN_HEAD next).setConn n { x with phase := if next = 0 then !x.phase else x.phase }
    c.ringPut now n seq plen flags hlen placed hdr =
      if head = c.sc n F.ST_CONN_TAIL then u.fireMsg now own (u.sc n F.ST_CONN_INTR) else u) ∧
  (∀ (c : Chip) (now n seq reason : Nat),
    let d := (((c.inc A.ST_LOST).setStState n stLost).set (A.ST_CONN_STAT n) F.ST_CONN_STAT_REASON reason).set (A.ST_CONN n)
      F.ST_CONN_EXP_SEQ seq
    let full := (d.sc n F.ST_CONN_HEAD + 1) % d.stSize n = d.sc n F.ST_CONN_TAIL
    (full → c.lose now n seq reason = d) ∧
    (¬full → d.jobStatus (d.sc n F.ST_CONN_OWNER) (d.stEp n) = Code.OK → (c.conn n).hdr = [] →
      c.lose now n seq reason = d.ringPut now n seq 0 ((c.conn n).flags + 64 + 256 * reason + (if reason = lossHdgst then 2 else 0)) 0
        (c.conn n).placed []))) ∧
  ((∀ (s : State) (r : EngReq) (rest : List EngReq), s.found.front 673 (fun _ => true) = some (r, rest) →
    let c := ({ s.found with reqs := rest } : Chip).inc A.ST_TX_SEGS
    let now := s.time
    let w0 := nth 0 r.words 0
    let w1 := nth 0 r.words 1
    let n := getBits w0 0 15
    let off := getBits w0 16 16
    let len := getBits w0 32 16
    let dst := getBits w1 0 24
    let run := exec .stTransmit s
    let waits := (s.found.stTransmit now r).2.2
    let ack (d : Chip) (st : Status) (v : Nat) : Host.Outcome State Fault Refusal := s.replied r [replyWord st 0 r.chan v] (d.entryForget n)
    let form := r.words.length = 2 ∧ getBits w0 15 1 = 0 ∧ getBits w0 48 16 = 0 ∧ getBits w1 40 24 = 0
      ∧ off + len ≤ (if r.valid then r.plen else 0) ∧ (c.bobNamed dst = true → getBits w1 24 16 + len ≤ c.bobSize dst)
    (¬form → run = ack c Code.BAD_ARGUMENT 0) ∧
    (waits = some .wait → run = .next (s.done s.found)) ∧
    (∀ i, waits = some (.entry i) → run = .next (s.done (s.found.entryRead now n i))) ∧
    (∀ bs d, form → waits = none → c.bobNamed r.pkt = true → c.bobRead now (c.bobBase r.pkt + off) len r.slice = (false, bs, d) →
      let mine := d.sc n F.ST_CONN_VALID ≠ 0 ∧ (r.system = true ∨ d.sc n F.ST_CONN_OWNER = r.slice)
      (d.sc n F.ST_CONN_VALID = 0 → run = ack d Code.CONN_INVALID 0) ∧
      (d.sc n F.ST_CONN_VALID ≠ 0 → r.system = false → d.sc n F.ST_CONN_OWNER ≠ r.slice →
        run = ack (d.raise now Flt.ST_FOREIGN_CONN 23 49 r.slice 0) Code.FOREIGN_CONN 0) ∧
      (mine → d.boundTo_ r true dst = false → run = ack d Code.NOT_BOUND 0) ∧
      (mine → d.boundTo_ r true dst = true → cutPdus (len + 1) bs = none → run = ack d Code.PARTIAL_PDU 0) ∧
      (∀ ps out u v, mine → d.boundTo_ r true dst = true → cutPdus (len + 1) bs = some ps → Chip.sendPdus now n ps d = (.ok out, u) →
        u.bobStore now (u.bobBase dst + getBits w1 24 16) out r.slice = (true, v) →
        run = ack (v.report 7 (v.sc n F.ST_CONN_OWNER) ps.length (stamp now)) Code.OK len) ∧
      (∀ ps reason st u, mine → d.boundTo_ r true dst = true → cutPdus (len + 1) bs = some ps →
        Chip.sendPdus now n ps d = (.error (.lost reason st), u) →
        run = ack (u.lose now n (u.sc n F.ST_CONN_EXP_SEQ) reason) st 0))) ∧
  (∀ (f : Nat) (bs : List Byte) (ps : List (List Byte)), cutPdus f bs = some ps →
    ps.flatten = bs ∧ ∀ p, p ∈ ps → p.length = pduLen p ∧ 8 ≤ p.length) ∧
  (∀ (c : Chip) (now n : Nat) (p : List Byte), c.sc n F.ST_CONN_PLACE = 0 →
    c.sendData now n p = (.ok ((p.take (pduEnd p)).drop (pduStart p)), c))) ∧
  (∀ (s : State) (n : Fin 32768) (k : Fin 4) (ws : List Word), s.writable (A.ST_CONN n) = true → ws ≠ [] → k.val + ws.length ≤ 4 →
    let c := s.found
    let d := c.filled s.time (A.ST_CONN n + 8 * k.val) ws
    let old := (List.range 4).map fun j => c.rd (A.ST_CONN n + 8 * j)
    let was := getBits (nth 0 old 0) 0 1 = 1
    let own := d.sc n F.ST_CONN_OWNER
    let run := exec (.connWrite n k ws) s
    let same := setBits (d.rd (A.ST_CONN n)) 32 32 0 = setBits (nth 0 old 0) 32 32 0 ∧ d.rd (A.ST_CONN n + 8) = nth 0 old 1
      ∧ d.rd (A.ST_CONN n + 24) = nth 0 old 3 ∧ setBits (d.rd (A.ST_CONN n + 16)) 32 16 0 = setBits (nth 0 old 2) 32 16 0
    let inRange := 4 ≤ d.sc n F.ST_CONN_RING_LOG2 ∧ d.sc n F.ST_CONN_PLACE_LOG2 ≤ 12 ∧ d.sc n F.ST_CONN_RING_ADDR % 128 = 0
      ∧ d.sc n F.ST_CONN_PLACE_ADDR % 32 = 0 ∧ d.sc n F.ST_CONN_TAIL < d.stSize n
    let room := own = 0 ∨ (d.get (A.SM_SLICE own) F.SM_SLICE_ST_USED < getBits (d.rdAt (stamp s.time) (A.SM_SLICE own + 8)) 33 16
      ∧ d.drains own F.SM_RESIZE_REL_ST = false)
    let start (u : Chip) (ph : Bool) : Chip :=
      (u.setConn n { StConn.init with first := u.sc n F.ST_CONN_EXP_SEQ, phase := ph }).setStState n stHeader
    (¬inRange → run = s.wrote Code.BAD_ARGUMENT c) ∧
    (inRange → was → ¬same → run = s.wrote Code.CONN_BUSY c) ∧
    (inRange → was → same → d.sc n F.ST_CONN_EXP_SEQ = getBits (nth 0 old 0) 32 32 → run = s.wrote Code.OK d) ∧
    (inRange → was → same → d.sc n F.ST_CONN_EXP_SEQ ≠ getBits (nth 0 old 0) 32 32 →
      run = s.wrote Code.OK ((start d (d.conn n).phase).setSram 12 n 0)) ∧
    (inRange → ¬was → d.sc n F.ST_CONN_VALID = 0 → run = s.wrote Code.OK d) ∧
    (inRange → ¬was → d.sc n F.ST_CONN_VALID = 1 → ¬room → run = s.wrote Code.QUOTA c) ∧
    (inRange → ¬was → d.sc n F.ST_CONN_VALID = 1 → room →
      let u := ((start d true).set (A.ST_CONN n) F.ST_CONN_HEAD 0).deadReqs fun r => match r.use with
        | .place m _ => m == n.val
        | _ => false
      let v : Chip := { u with sto := { u.sto with cache := u.sto.cache.filter fun p => p.1.1 != n.val,
                                                   failed := u.sto.failed.filter fun p => p.1.1 != n.val } }
      run = s.wrote Code.OK ((v.setSram 12 n 0).stUsed ((v.setSram 12 n 0).sc n F.ST_CONN_OWNER) true)))

/-! ### Host endpoints, queue pairs, the DMA Engine (spec/12_host_endpoints.md, spec/13_slices_queues_dma.md) -/

/-- R320, R337, R339, R357-R359, R367: a posted write to a doorbell page. The link must be in L0 and the function must decode memory requests; a
sluiced or poisoned one is dropped and counted, as is one that is not an aligned 8-byte write. A doorbell of a foreign object raises
SM_DB_FOREIGN, one for an object that takes none, of the other endpoint or beyond its ring is counted; any other sets its index, and CQ_ARM arms. -/
def Obligations.Doorbells : Prop :=
  ∀ (s : State) (e : EpNo) (sl : SliceNo) (whole poison pasid : Bool) (value index : BitVec 16) (rsv : BitVec 29),
    let c := s.found
    let now := s.time
    let n := index.toNat
    let v := value.toNat
    let d := if pasid then c.inc (A.HE_PASID_IN e) else c
    let up := c.epUp e = true ∧ c.open1 (20 + e.val) = true
    let clear := up ∧ d.sluiced e = false
    let taken := clear ∧ d.decodes e 1 = true ∧ poison = false
    let rings := d.qpState n = 1 ∨ d.qpState n = 2
    let bell (run : Host.Outcome State Fault Refusal) (there live : Prop) (owner home size : Nat) (act : Chip) : Prop :=
      let named := taken ∧ whole = true ∧ rsv.toNat = 0 ∧ there
      (¬up → run = .next (s.done c)) ∧
      (up → d.sluiced e = true → run = .next (s.done (d.inc (A.HE_SLUICE_DROP e)))) ∧
      (clear → d.decodes e 1 = false → run = .next (s.done (d.aerLog e 1 Aer.unsupported false))) ∧
      (clear → d.decodes e 1 = true → poison = true → run = .next (s.done ((d.aerLog e 1 Aer.poisoned true).inc (A.HE_POISON_RX e)))) ∧
      (taken → whole = false → run = .next (s.done (d.inc (A.HE_BAR_DROP e)))) ∧
      (taken → whole = true → ¬(rsv.toNat = 0 ∧ there) → run = .next (s.done d)) ∧
      (named → owner ≠ sl.val → run = .next (s.done ((d.inc A.DE_DB_DROP).raise now Flt.SM_DB_FOREIGN 23 63 sl 0))) ∧
      (named → owner = sl.val → ((d.twin = false ∧ home ≠ e.val) ∨ ¬live ∨ size ≤ v) → run = .next (s.done (d.inc A.DE_DB_DROP))) ∧
      (named → owner = sl.val → (d.twin = true ∨ home = e.val) → live → v < size → run = .next (s.done act))
    let queue (run : Host.Outcome State Fault Refusal) (log : Fld) (act : Chip) : Prop :=
      bell run (d.open1 23 = true) rings (d.qpSlice n) (d.qpf n F.DE_QP_ENDPOINT) (ringSize (d.qpf n log)) act
    let armed := (d.setQpf n F.DE_QP_CQ_HEAD v).setQpf n F.DE_QP_ARMED 1
    queue (exec (.txTail e sl whole poison pasid value index rsv) s) F.DE_QP_TX_LOG2 (d.setQpf n F.DE_QP_TX_TAIL v) ∧
    queue (exec (.rxTail e sl whole poison pasid value index rsv) s) F.DE_QP_RX_LOG2 (d.setQpf n F.DE_QP_RX_TAIL v) ∧
    queue (exec (.cqHead e sl whole poison pasid value index rsv) s) F.DE_QP_CQ_LOG2 (d.setQpf n F.DE_QP_CQ_HEAD v) ∧
    queue (exec (.cqArm e sl whole poison pasid value index rsv) s) F.DE_QP_CQ_LOG2 (if armed.qpState n = 1 then armed.qpFire now n else armed) ∧
    bell (exec (.stTail e sl whole poison pasid value index rsv) s) (n < 32768 ∧ d.up 41 = true) (d.sc n F.ST_CONN_VALID = 1)
      (d.sc n F.ST_CONN_OWNER) (d.stEp n) (d.stSize n) (d.set (A.ST_CONN n) F.ST_CONN_TAIL v)

/-- R376, R377: the queue logic issues one fetch read of a ring. A ring of a queue pair in RUN asks for one while none of its reads is
outstanding, entries are available and fewer are cached than HIGH (16 while the head packet needs more), once LOW is reached; the transmit side
only while it is not held. The rings of an endpoint that ask take turns. The read stays within 4 KiB, Max Read Request Size and the ring.
R360-R363, R368-R370, R376: what the movers do for the transmit side of a queue pair in RUN: a job of up to 16 complete sends within the room
of the completion ring, and the count point of a packet whose payload is there: it is stamped, handed to Dispatch and counted, and the last one
of a send brings the completion. The header of a chunk is written before it.
R362, R368-R370: the mover turns to a send. An invalid one, or one too long for the largest bobbin that asks for no cut, ends with its code
and halts the queue pair; one that fits becomes one packet; one to be cut has its header read first, and then makes a packet of whole MSS pieces
for each chunk. A chunk's TXFLAGS carry its number, and the last one's say so. -/
def Obligations.HostQueues : Prop :=
  (∀ (s : State) (n : QpNo) (rx : Bool),
    let c := s.found
    let now := s.time
    let x := c.qp n
    let own := c.qpSlice n
    let e := c.qpHome n
    let fn := (c.sliceFn own).1
    let pasid := (c.sliceFn own).2
    let r := c.ring now n rx
    let run := exec (.descriptorFetch n rx) s
    (r.size = ringSize (c.qpf n (if rx then F.DE_QP_RX_LOG2 else F.DE_QP_TX_LOG2)) ∧
     r.cached = (if rx then x.rx.length else x.tx.length) ∧ r.next = (if rx then x.rxNext else x.txNext) ∧
     r.avail = (c.qpf n (if rx then F.DE_QP_RX_TAIL else F.DE_QP_TX_TAIL) + r.size - r.next) % r.size ∧
     let raised := if rx then ∃ h hs, c.tmq n = h :: hs ∧ r.cached < c.buffersFor n h else x.lacksEop = true
     (raised → r.stop = 16) ∧ (¬raised → r.stop = c.qpf n F.DE_QP_HIGH) ∧
     (r.wants = true ↔ c.qpState n = 1 ∧ r.size ≠ 0 ∧ (if rx then x.rxFly else x.txFly) = 0 ∧ r.avail ≠ 0 ∧ r.cached < r.stop ∧
       ((if rx then x.rxFill else x.txFill) = true ∨ raised ∨ r.cached ≤ c.qpf n F.DE_QP_LOW) ∧ (rx = true ∨ c.txHeld now n = false))) ∧
    (r.wants = false → run = .next (s.done c)) ∧
    (c.open1 23 = true → r.wants = true →
      (c.jobStatus own e ≠ Code.OK → c.jobStatus own e ≠ Code.MASTER_OFF → run = .next (s.done (c.qpHalt now n (c.jobStatus own e)))) ∧
      (c.jobStatus own e = Code.OK → c.ringTurn now n rx = false → run = .next (s.done c)) ∧
      (∀ t d, c.jobStatus own e = Code.OK → c.jobCan own e = true → c.ringTurn now n rx = true →
        let w := if rx then 8 else 32
        let a := c.qpf n (if rx then F.DE_QP_RX_BASE else F.DE_QP_TX_BASE) + w * r.next
        let lim := max 1 (min 4096 (c.fn e fn).mrrs)
        let k := max 1 (min (min (r.stop - r.cached) r.avail) (min (r.size - r.next) ((lim - a % lim) / w)))
        let more := decide (r.cached + k < r.stop) && decide (k < r.avail)
        c.issueRead now (c.stripe e a) fn pasid a (w * k) (.desc n rx x.gen r.next k) = (some t, d) →
        run = .next (s.done (({ d with de := { d.de with turn := mset 0 d.de.turn e (2 * n.val + if rx then 2 else 1) } } : Chip).setQp n
          (if rx then { x with rxNext := (r.next + k) % r.size, rxFly := k, rxFill := more }
           else { x with txNext := (r.next + k) % r.size, txFly := k, txFill := more }))))) ∧
    (∀ (m : Nat) (q : Bool), c.ringTurn now n rx = true → (m ∈ c.de.qps.map (·.1)) → c.qpHome m = e → (c.ring now m q).wants = true →
      c.jobCan (c.qpSlice m) e = true →
      let last := mget 0 c.de.turn e
      let place (a : Nat) (b : Bool) : Nat := (2 * a + (if b then 2 else 1) + 131072 - last) % 131073
      place n rx ≤ place m q)) ∧
  (∀ (s : State) (n : QpNo),
    let c := s.found
    let now := s.time
    let x := c.qp n
    let own := c.qpSlice n
    let e := c.qpHome n
    (let all := (takeSends 16 x.tx).1
     let fits := if c.overlapped then
         (all.foldl (fun (r : Nat × Nat) ds => if r.2 + sendLen ds ≤ 2 ^ 20 then (r.1 + 1, r.2 + sendLen ds) else (r.1, 2 ^ 20 + 1)) (0, 0)).1
       else all.length
     let k := min (min all.length (c.cqRoom n)) fits
     let l := (all.take k).foldl (fun t ds => t + sendLen ds) 0
     (x.starved.isSome = true → exec (.transmitJob n) s = .next (s.done c)) ∧
     (∀ ds rest, c.open1 23 = true → c.qpState n = 1 → all.take k = ds :: rest → x.starved = none →
      (∀ j ∈ c.de.jobs, j.qp = n.val → j.done = true ∨ ∃ h b i, j.kind = .rx h b i) →
      c.txHeld now n = false → c.admitsHost own e = true → c.moverFree e l = true → c.jobStatus own e = Code.OK → c.jobCan own e = true →
      let d := if x.retry then c.inc A.DE_EMPTY_RETRY else c
      let d := d.setQp n { x with tx := (takeSends k x.tx).2, retry := false }
      let b := d.txBucket (d.mrNow now) own
      let d := if own = 0 ∨ getBits (d.rdAt (d.mrNow now) (A.SM_SLICE own + 16)) 0 20 = 0 then d
        else d.setTxBucket own { b with used := b.used + (l * tokenUnit : Nat) }
      let id := d.de.nextJob
      let j : Job := ⟨id, n, e, l, k, d.largest, .tx (ds :: rest) TxSend.init, [], false⟩
      exec (.transmitJob n) s = .next (s.done
        ((({ d with de := { d.de with jobs := d.de.jobs ++ [j], nextJob := id + 1 } } : Chip).startSend now j ds rest).pumpJobs now)))) ∧
    (∀ (j : Job) (ds : List TxDesc) (rest : List (List TxDesc)) (cur : TxSend) (p : TxPkt) (ps : List TxPkt) (before after : List Job),
      c.de.jobs = before ++ j :: after →
      (∀ i ∈ before, i.qp ≠ n.val ∨ i.done = true ∨ (∃ h b k, i.kind = .rx h b k) ∨ ∃ ss q, i.kind = .tx ss q ∧ q.ready = false) →
      j.qp = n.val → j.done = false → j.kind = .tx (ds :: rest) cur →
      cur.ready = true → cur.pkts = p :: ps → c.open1 23 = true → p.xfer.segs = [] → p.xfer.out = 0 → c.jobCan own j.ep = true →
      let h := sendHdr ds
      let base := c.bobBase p.bob
      let headed (k : Nat) : Chip := { c with mem := { c.mem with bob := wrBytes c.mem.bob base (chunkHead ds (rdBytes cur.head 0 h) k (cur.made + cur.pkts.length) ((j.z - h) / sendMss ds) p.plen) } }
      let w : Chip := match p.chunk with
        | none => c
        | some k => if cur.hread.bad then (List.range ((h + 31) / 32)).foldl (fun (d : Chip) i => d.setSram 0 (base / 32 + i) poisonMark) (headed k)
          else headed k
      let bad := p.xfer.bad || cur.hread.bad
      let t := w.stampIn (20 + j.ep) now
      let d := ((w.addPacket { Packet.none with
        src := 16 + j.ep, plen := p.plen, frameLen := p.plen + 4, err := if bad then 2 ^ 5 else 0, istamp := t, bob := p.bob,
        txq := n, txflags := p.flags, profile := w.qpf n F.DE_QP_PROFILE, slice := w.qpSlice n,
        w7 := metaWord7 (preParse (rdBytes w.mem.bob base (min p.plen 256)) p.plen w.stnOpt) }).inc A.DE_TX_PACKETS).add A.DE_TX_BYTES p.plen
      let cur' := { cur with pkts := ps, made := cur.made + 1, bad := cur.bad || bad, stamp := some t }
      let q := d.sendCqe n (if cur'.bad then Code.POISONED else Code.OK) ds cur'
      let j' : Job := { j with kind := .tx rest TxSend.init }
      let u := (q.2.putJob j').jobCqe now j' q.1
      (ps ≠ [] → exec (.hostTxCountPoint n) s = .next (s.done (d.putJob { j with kind := .tx (ds :: rest) cur' }))) ∧
      (∀ i, ps = [] → rest = [] → u.job j.id = some i → exec (.hostTxCountPoint n) s = .next (s.done (u.jobDone now i))) ∧
      (∀ i ds' rest', ps = [] → rest = ds' :: rest' → u.job j.id = some i →
        exec (.hostTxCountPoint n) s = .next (s.done ((u.startSend now i ds' rest').pumpJobs now))))) ∧
  (∀ (c : Chip) (now : Nat) (j : Job) (ds : List TxDesc) (rest : List (List TxDesc)) (cur : TxSend),
    let u := swapUnit (c.qpf j.qp F.DE_QP_TX_PSWAP)
    let l := sendLen ds
    let fl := getBits (sendWord ds 2) 0 32
    let h := sendHdr ds
    let piece := (j.z - h) / sendMss ds * sendMss ds
    let n := (l - h + piece - 1) / piece
    (sendBad u ds = true → c.startSend now j ds rest = c.sendFail now Code.SEND_INVALID j ds TxSend.init) ∧
    (sendBad u ds = false → l ≤ j.z → c.startSend now j ds rest = c.sendPackets now j ds rest TxSend.init [(0, 0, l, fl, none)]) ∧
    (sendBad u ds = false → j.z < l → sendTso ds = false → c.startSend now j ds rest = c.sendFail now Code.TOO_LONG j ds TxSend.init) ∧
    (sendBad u ds = false → j.z < l → sendTso ds = true → cutBad j.z ds = true →
      c.startSend now j ds rest = c.sendFail now Code.SEND_INVALID j ds TxSend.init) ∧
    (sendBad u ds = false → j.z < l → sendTso ds = true → cutBad j.z ds = false → c.startSend now j ds rest =
      c.putJob { j with kind := .tx (ds :: rest) { TxSend.init with hread := { Xfer.init with
        segs := c.sendSegs (c.qpHome j.qp) (c.sliceFn (c.qpSlice j.qp)).1 u 0 h ds 0 } } }) ∧
    (cutHeadOk ds (rdBytes cur.head 0 h) = true → piece ≠ 0 → c.cutSend now j ds rest cur =
      c.sendPackets now j ds rest cur ((List.range n).map fun k =>
        (h + k * piece, h, h + min piece (l - h - k * piece), fl + 256 + (if k + 1 = n then 512 else 0) + k * 2 ^ 16, some k))) ∧
    (∀ m d ps, Chip.allocPkts now (c.qpSlice j.qp) ps [] c = (.inl m, d) →
      c.sendPackets now j ds rest cur ps = (d.setQp j.qp { d.qp j.qp with tx := (ds :: rest).flatten ++ (d.qp j.qp).tx, starved := some m,
                                                                          retry := true }).jobDone now j))

/-- R284, R296, R364-R367, R371, R375: the receive side. The Traffic Manager gives an endpoint the head entry of a host receive queue its round
robin chooses: a job with the buffers the packet needs, or TOO_LONG where it needs more than 16. A receive job writes the packet, releases its
bobbin, writes the completion and is billed. A waiting firing is issued, and the DMA mode is switched once no job is in flight. -/
def Obligations.HostReceives : Prop :=
  ∀ (s : State) (n : QpNo),
    let c := s.found
    let now := s.time
    (∀ (d : Fin 18) (express : Bool) (q : Nat) adds h hs u, 16 ≤ d.val → c.open1 23 = true →
      let e := d.val - 16
      let qs := (c.tm.queues.map (·.1)).filter fun q => !isShaped q && c.rxReady q e
      drr qs (c.turn (144 + e)) (fun q => (c.shape q).deficit) c.headCharge
        (fun q => 256 * c.getAt (c.mrNow now) (A.TM_HRXQ q) F.TM_HRXQ_WEIGHT) = some (q, adds) →
      c.tmq q = h :: hs → (((c.gain adds).setTurn (144 + e) q).takeEntry now q h).entryPoison now q h = (false, u) →
      let k := u.buffersFor q h
      let x := u.qp q
      let busy := u.de.jobs.foldl (fun t j => if j.qp = q then t + j.buffers else t) 0
      let job : Job := ⟨u.de.nextJob, q, e, h.len.toNat, 1, 0,
        .rx h ((x.rx.take k).map (·.2)) ((u.qpf q F.DE_QP_RX_HEAD + busy) % ringSize (u.qpf q F.DE_QP_RX_LOG2)), [], false⟩
      let w := u.setQp q { x with rx := x.rx.drop k }
      let z := u.rxCqe Code.TOO_LONG 0 (u.qpf q F.DE_QP_RX_HEAD) h 0 none
      (k ≤ 16 → exec (.tmSelect d express) s =
        .next (s.done { w with de := { w.de with jobs := w.de.jobs ++ [job], nextJob := u.de.nextJob + 1 } })) ∧
      (16 < k → exec (.tmSelect d express) s =
        .next (s.done ((((z.2.inc A.DE_RX_TOO_LONG).inc (A.TM_DEQ_FRAMES q)).writeCqe now q z.1).dropReq now h.req)))) ∧
    (∀ (j : Job) (ent : TmEnt) (bufs : List Nat) (first : Nat) (before after : List Job) bs ms d,
      c.de.jobs = before ++ j :: after → (∀ i ∈ before, i.qp ≠ n.val ∨ i.done = true ∨ ∃ ss q, i.kind = .tx ss q) →
      j.qp = n.val → j.done = false → j.kind = .rx ent bufs first → c.open1 23 = true →
      (c.jobStatus (c.qpSlice n) j.ep ≠ Code.OK → exec (.receiveJob n) s = .next (s.done (c.jobFail now (c.jobStatus (c.qpSlice n) j.ep) j))) ∧
      (c.jobStatus (c.qpSlice n) j.ep = Code.OK → c.jobCan (c.qpSlice n) j.ep = true → c.departBytes now ent.req = (bs, ms, d) →
        let f := c.sliceFn (c.qpSlice n)
        let d := Chip.fillBufs j.ep f.1 f.2 (d.qpf n F.DE_QP_RX_PSWAP) (256 * d.qpf n F.DE_QP_RX_BUF) bufs bs ms d
        let size := ringSize (d.qpf n F.DE_QP_RX_LOG2)
        let q := d.rxCqe (if ms.any (fun b => b) then Code.POISONED else Code.OK) bufs.length first ent bs.length
          (some (false, (first + bufs.length) % size))
        let u := ((((q.2.inc (A.TM_DEQ_FRAMES n)).dropReq now ent.req).inc A.DE_RX_PACKETS).add A.DE_RX_BYTES bs.length).report 5
          ent.req.acct (bs.length + 4) (stamp now)
        let u := u.jobCqe now j q.1
        ∀ i, u.job j.id = some i → exec (.receiveJob n) s = .next (s.done (u.jobDone now i)))) ∧
    (∀ t, c.open1 23 = true → c.qpf n F.DE_QP_ARMED = 1 → c.qpf n F.DE_QP_CQ_TAIL ≠ c.qpf n F.DE_QP_CQ_HEAD →
      ((c.qp n).fired = none ∨ ((c.qp n).fired = some t ∧ t + ns (1000 * c.qpf n F.DE_QP_COAL_US) ≤ now)) →
      let d := c.setQpf n F.DE_QP_ARMED 0
      let d := d.setQp n { d.qp n with fired := some now }
      exec (.interruptHoldoffExpiry n) s = .next (s.done (d.fireMsg now (d.qpSlice n) (d.qpf n F.DE_QP_IRQ)))) ∧
    (c.switching = true → c.de.jobs = [] → c.fetchJobs 0 = 0 → c.fetchJobs 1 = 0 →
      exec .dmaModeSwitch s =
        .next (s.done ((c.set A.DE_STATUS ⟨0, 0, 1⟩ (if c.overlapped then 0 else 1)).set A.DE_STATUS ⟨0, 1, 1⟩ 0)))

/-- R322, R323, R337, R342: completions for outstanding, quarantined and unknown tags, timeouts and the end of quarantine at an endpoint in L0. A
completion that brings the last byte ends its request: descriptors are cached, a placement entry is kept, a flush lets the writes go that wait for
it. A failed read ends what it was for.
R321, R325, R328-R330, R338-R342, R460: the events of an endpoint and its functions: the link rises and falls, a surprise link-down, a Malformed
TLP and an internal error sluice it, resets and Bus Master Enable act on jobs and tags, the mailbox and a command queue doorbell reach the command
processor, an unmasked vector is sent. -/
def Obligations.EndpointEvents : Prop :=
  (∀ (s : State) (e : EpNo) (f : Fin 2) (tag : Nat),
    let c := s.found
    let now := s.time
    (∀ ok bs poison, c.epUp e = true → c.open1 (20 + e.val) = true →
      let run := exec (.pcieCompletion e f tag ok bs poison) s
      (c.hreq e tag = none → run = .next (s.done ((c.aerLog e f Aer.unexpected true).inc (A.HE_UNEXP_CPL e)))) ∧
      (∀ r, c.hreq e tag = some r →
        let d := if poison then (c.aerLog e r.fn Aer.poisoned true).inc (A.HE_POISON_RX e) else c
        let data := r.data ++ bs
        let marks := r.marks ++ bs.map fun _ => poison
        let r' := { r with got := r.got + bs.length, data := data, marks := marks }
        let u := d.setHreq e tag none
        let bad := (marks.take r.len).any fun b => b
        (r.quar = true → run = .next (s.done (c.inc (A.HE_LATE_CPL e)))) ∧
        (r.quar = false → ok = true → r.got + bs.length < r.len → run = .next (s.done (d.setHreq e tag (some r')))) ∧
        (r.quar = false → (ok = false ∨ r.len ≤ r.got + bs.length) → r.dead = true → run = .next (s.done (u.pump now))) ∧
        (r.quar = false → ok = true → r.len ≤ r.got + bs.length → r.dead = false →
          (∀ n rx gen first count, r.use = .desc n rx gen first count →
            run = .next (s.done ((u.descData now n rx gen first count (data.take r.len) bad).pump now))) ∧
          (∀ j b off, r.use = .payload j b off → run = .next (s.done ((u.txData now j (some b) off (data.take r.len) (marks.take r.len)).pump now))) ∧
          (∀ j off, r.use = .header j off → run = .next (s.done ((u.txData now j none off (data.take r.len) (marks.take r.len)).pump now))) ∧
          (∀ i, r.use = .entry i → run = .next (s.done (u.cmdqEntry now i (data.take r.len) bad))) ∧
          (∀ i off, r.use = .packet i off → run = .next (s.done (u.cmdqData now i off (data.take r.len) bad))) ∧
          (∀ n i, r.use = .place n i →
            run = .next (s.done ((if bad then u.entryFail n i Code.POISONED else u.entryKeep n i (toWords (data.take r.len))).pump now))) ∧
          (r.use = .flush → run = .next (s.done ((u.flushDone now e tag).pump now)))) ∧
        (r.quar = false → ok = false → r.dead = false → run = .next (s.done (u.reqFail now e tag Code.HOST_ERROR r'))))) ∧
    (∀ r, c.hreq e tag = some r → r.at_ + ns r.cto ≤ now →
      (r.quar = true → exec (.tagQuarantineExpiry e tag) s = .next (s.done ((c.setHreq e tag none).pump now))) ∧
      (r.quar = false → c.open1 (20 + e.val) = true →
        let d := ((c.setHreq e tag none).aerLog e r.fn Aer.timeout false).inc (A.HE_CTO e)
        let d := if r.dead then d.pump now else d.reqFail now e tag Code.TIMEOUT r
        let window := ns (1000 * d.get (A.HE_CTO_CFG e) F.HE_CTO_CFG_STORM_WINDOW_US)
        let hit := d.storm now (Storm.timeouts e) window fun k => decide (d.get (A.HE_CTO_CFG e) F.HE_CTO_CFG_STORM_COUNT ≤ k)
        (hit.1 = false → exec (.completionTimeout e tag) s = .next (s.done hit.2)) ∧
        (hit.1 = true → exec (.completionTimeout e tag) s = .next (s.done (hit.2.sluice now e 4))))) ∧
    (∀ r, c.hreq e tag = some r → now < r.at_ + ns r.cto →
      exec (.tagQuarantineExpiry e tag) s = .next (s.done c) ∧ exec (.completionTimeout e tag) s = .next (s.done c)) ∧
    (∀ (d : Chip) (x : HostReq) (k : Nat),
      (∀ n rx gen first count, x.use = .desc n rx gen first count → d.qpState n = 1 → (d.qp n).gen = gen →
        d.reqFail now e tag k x = (d.qpHalt now n k).pump now) ∧
      (∀ n i, x.use = .place n i → d.reqFail now e tag k x = (d.entryFail n i k).pump now)) ∧
    (∀ (d : Chip) (n gen first count : Nat) (bs : List Byte), d.qpState n = 1 → (d.qp n).gen = gen →
      let x := d.qp n
      let r := d.setQp n { x with rxFly := 0 }
      let t := d.setQp n { x with txFly := 0 }
      let ws (f : Fld) : List Word := toWords (swapped (d.qpf n f) bs)
      d.descData now n true gen first count bs false = r.setQp n { r.qp n with
        rx := (r.qp n).rx ++ (List.range count).map fun i => (first + i, (nth 0 (ws F.DE_QP_RX_DSWAP) i).toNat) } ∧
      d.descData now n false gen first count bs false = t.setQp n { t.qp n with
        tx := (t.qp n).tx ++ txDescs first (ringSize (d.qpf n F.DE_QP_TX_LOG2)) (ws F.DE_QP_TX_DSWAP) count } ∧
      d.descData now n true gen first count bs true = (r.raise now Flt.DE_DESC_POISON 23 63 (r.qpSlice n) 0).qpHalt now n Code.POISONED)) ∧
  (∀ (s : State) (e : EpNo) (f : Fin 2),
    let c := s.found
    let now := s.time
    let ctrl := A.HE_CTRL e
    let pre (pasid : Bool) (d : Chip) : Chip := if pasid then d.inc (A.HE_PASID_IN e) else d
    (∀ rate width : Fin 8, c.flag ctrl F.HE_CTRL_ENABLE = true → mget false c.pwr.perst e = false → c.open1 (20 + e.val) = true →
      c.epUp e = false → rate.val ≤ c.get ctrl F.HE_CTRL_MAX_RATE → width.val ≤ c.get ctrl F.HE_CTRL_MAX_WIDTH →
      exec (.pcieLinkUp e rate width) s = .next (s.done (((c.wr (A.HE_LINK_STATUS e) (BitVec.ofNat 64
        (1 + 2 * rate.val + 16 * 2 ^ width.val + (if 5 ≤ rate.val then 512 else 0)))).epLink now e true).retryAll now))) ∧
    (c.epUp e = true →
      let down := (c.wr (A.HE_LINK_STATUS e) 0).epLink now e false
      exec (.linkDisable e) s = .next (s.done down) ∧
      exec (.surpriseLinkDown e) s = .next (s.done (down.sluice now e 3)) ∧
      exec (.hotReset e) s = .next (s.done (((c.flr now e 0).flr now e 1).epDown now e)) ∧
      (c.open1 (20 + e.val) = true →
        exec (.malformedTlp e f) s = .next (s.done (((c.aerLog e f Aer.malformed false).inc (A.HE_MALFORMED e)).sluice now e 2)) ∧
        (∀ (v : Fin 16) (addr : Word) (data : BitVec 32) (pasid : Bool), c.sluiced e = false → c.decodes e 0 = true →
          (c.vector e v).mask = true →
          let d := pre pasid c
          let d := d.setEp e { d.ep e with table := mset MsixVec.init (d.ep e).table v ⟨addr.toNat, (d.vector e v).data % 2 ^ 32, true⟩ }
          let d := pre pasid (if natBits (d.ep e).pend v 1 = 1 then d.msix now e v else d)
          let d := d.setEp e { d.ep e with table := mset MsixVec.init (d.ep e).table v ⟨addr.toNat, data.toNat, false⟩ }
          (natBits (d.ep e).pend v 1 = 1 → exec (.msixUnmask e v addr data false pasid) s = .next (s.done (d.msix now e v))) ∧
          (natBits (d.ep e).pend v 1 ≠ 1 → exec (.msixUnmask e v addr data false pasid) s = .next (s.done d)))) ∧
      exec (.busMasterEnable e f) s = .next (s.done (((c.setFn e f ((c.fn e f).raise 0x04 2)).retryAll now).pump now))) ∧
    (∀ v : Nat, let x := c.vector e v
      (c.masked e v = false → c.canIssue e 0 = true → c.canIssue (c.home0 e) 0 = true →
        c.msix now e v = (c.setEp e { c.ep e with pend := (c.ep e).pend &&& (65535 - 2 ^ v) }).writeOrdered now
          (c.home0 e) 0 none x.addr (leBytes 4 x.data)) ∧
      ((c.masked e v = true ∨ c.canIssue e 0 = false) → c.msix now e v = c.setEp e { c.ep e with pend := (c.ep e).pend ||| 2 ^ v })) ∧
    ((c.fn e f).bme = true →
      exec (.busMasterDisable e f) s = .next (s.done ((c.setFn e f ((c.fn e f).wr 0x04 ((c.fn e f).rd 0x04 &&& ~~~4))).masterOff now e f))) ∧
    (c.open1 (20 + e.val) = true → exec (.pathUncorrectableError e) s =
      .next (s.done (((c.raise now Flt.HE_PATH_UE (20 + e.val) 63 0 0).aerLog e 0 Aer.internal false).sluice now e 1))) ∧
    (exec (.functionLevelReset e f) s = .next (s.done (c.flr now e f)) ∧
      (c.flr now e 0).fn e 0 = FnSt.init ∧ ((c.flr now e 0).ep e).mboxBusy = false) ∧
    ((c.fn e f).d3 = true → exec (.powerStateChange e f false) s =
      .next (s.done (((c.setFn e f ((c.fn e f).wr 0x44 0)).retryAll now).pump now))) ∧
    ((c.fn e f).d3 = false → (c.fn e f).bme = true → exec (.powerStateChange e f true) s =
      .next (s.done ((c.setFn e f ((c.fn e f).wr 0x44 3)).masterOff now e f))) ∧
    ((c.fn e f).d3 = false → (c.fn e f).bme = false → exec (.powerStateChange e f true) s =
      .next (s.done (c.setFn e f ((c.fn e f).wr 0x44 3)))) ∧
    (exec (.fundamentalReset e) s = .next (s.done (c.fundamental now e)) ∧ mget false (c.fundamental now e).pwr.perst e = true
      ∧ ((c.fundamental now e).ep e).table = [] ∧ ((c.fundamental now e).ep e).fns = []) ∧
    (exec (.perstDeassert e) s = .next (s.done { c with pwr := { c.pwr with perst := mset false c.pwr.perst e false } })) ∧
    (∀ (bs : List Byte) (len : BitVec 21) (pasid : Bool), c.epUp e = true → c.open1 (20 + e.val) = true → c.decodes e 0 = true →
      (c.ep e).mboxBusy = false → bs.length % 4 = 0 → bs.length ≤ 2 ^ 20 →
      let d := if bs = [] then c else
        let u := pre pasid c
        u.setEp e { u.ep e with mbox := wrBytes (u.ep e).mbox 0 bs, mboxBad := markBox (u.ep e).mboxBad 0 bs.length false }
      let d := pre pasid d
      let x := d.ep e
      let n := len.toNat
      let st := if n = 0 ∨ 2 ^ 20 < n ∨ n % 8 ≠ 0 then Code.BAD_ARGUMENT else if x.mboxBad.any (fun p => decide (4 * p.1 < n)) then Code.POISONED
        else Code.OK
      exec (.mboxGo e bs len false false pasid) s = .next (s.done
        ((d.setEp e { x with mboxLen := n, mboxBusy := true, mboxDone := false }).cmdSubmit e
          (if st = Code.BAD_ARGUMENT then [] else rdBytes x.mbox 0 n)
          { source := 1 + e.val, detail := 0, limit := 2 ^ 20, resAddr := 0, sa := [], tags := [], pre := st, gen := x.mboxGen }))) ∧
    (∀ (len : BitVec 21) (pasid : Bool), c.epUp e = true → c.open1 (20 + e.val) = true → c.decodes e 0 = true → (c.ep e).mboxBusy = true →
      exec (.mboxGo e [] len false false pasid) s = .next (s.done ((pre pasid c).inc (A.HE_MBOX_DROP e)))) ∧
    (∀ (k : Fin 8) (n value : Nat) (pasid : Bool), c.epUp e = true → c.open1 (20 + e.val) = true → c.sluiced e = false →
      c.decodes e 0 = true →
      let d := pre pasid c
      let a := A.HE_CMDQ e k
      let v := value % 2 ^ 16
      let good := n = 8 ∧ d.flag a F.HE_CMDQ_ENABLE = true ∧ v < 2 ^ d.get a F.HE_CMDQ_SIZE_LOG2
      (good → exec (.cmdqDoorbell e k n false pasid value) s = .next (s.done ((d.set a F.HE_CMDQ_TAIL v).kickAll now))) ∧
      (¬good → exec (.cmdqDoorbell e k n false pasid value) s = .next (s.done (d.inc (A.HE_BAR_DROP e))))))

/-- R327, R337, R339, R343, R344: the host's requests to BAR4. A request that the function takes goes through the first window of the active bank
that holds it: a window on bobbin memory stores or answers where its direction is enabled, one on a connection's doorbell moves TAIL, one on a
slice's bobbins stores where they are held for it. A miss is counted, a read of it is answered with Unsupported Request; so is a read of a
sluiced endpoint, whose writes are dropped and counted.
R324-R331, R337: the host's requests to the other spaces of an endpoint in L0. A configuration read returns the dword, a configuration write
changes what software may write and acts on Bus Master Enable, the power state and Initiate Function Level Reset; BAR0 and BAR2 return their
registers and the mailbox buffer, any other read there Unsupported Request; a write of the buffer is stored or, while the mailbox is BUSY, dropped
and counted; a write that no space takes is counted in HE_x_BAR_DROP. -/
def Obligations.HostRequestsAnswered : Prop :=
  (∀ (s : State) (e : EpNo) (off len : Nat) (bs : List Byte) (pasid : Bool),
    let c := s.found
    let now := s.time
    let n := bs.length
    let d := if pasid then c.inc (A.HE_PASID_IN e) else c
    let bar := 2 ^ (c.ep e).barLog2
    let rd := exec (.peerRequest e .bar4 false off len bs false pasid) s
    let wr := exec (.peerRequest e .bar4 true off len bs false pasid) s
    let up := c.epUp e = true ∧ c.open1 (20 + e.val) = true
    let takes := d.sluiced e = false ∧ d.decodes e 1 = true
    let miss (write : Bool) : Chip := d.inc (if write then A.HE_PEER_MISS e else A.HE_UR e)
    (¬up → rd = .next (s.done c) ∧ wr = .next (s.done c)) ∧
    (bar < off + len → rd = .next (s.done c)) ∧ (bar < off + n → wr = .next (s.done c)) ∧
    (up → off + len ≤ bar → off + n ≤ bar →
      (d.sluiced e = true → rd = .next (s.done ((d.aerLog e 1 Aer.unsupported true).inc (A.HE_UR e))) ∧
        wr = .next (s.done (d.inc (A.HE_SLUICE_DROP e)))) ∧
      (d.sluiced e = false → d.decodes e 1 = false → rd = .next (s.done ((d.aerLog e 1 Aer.unsupported true).inc (A.HE_UR e))) ∧
        wr = .next (s.done (d.aerLog e 1 Aer.unsupported false))) ∧
      (takes → d.peerWin e off len = none → rd = .next (s.done (miss false))) ∧
      (takes → d.peerWin e off n = none → wr = .next (s.done (miss true))) ∧
      (∀ i, takes → d.win e i F.HE_PEER_WIN_KIND = 1 →
        let t := d.win e i F.HE_PEER_WIN_TARGET + (off - d.win e i F.HE_PEER_WIN_BAR_OFF)
        (d.peerWin e off len = some i →
          (d.win e i F.HE_PEER_WIN_READ_EN = 1 → t + len ≤ 96 * 2 ^ 20 → d.open1 23 = true → rd = .next (s.done (d.peerAnswer now e t off len))) ∧
          (d.win e i F.HE_PEER_WIN_READ_EN = 0 → rd = .next (s.done (miss false)))) ∧
        (d.peerWin e off n = some i →
          (d.win e i F.HE_PEER_WIN_WRITE_EN = 1 → t + n ≤ 96 * 2 ^ 20 → d.open1 23 = true →
            wr = .next (s.done (d.bobStore now t bs 0).2) ∧
            exec (.peerRequest e .bar4 true off len bs true pasid) s =
              .next (s.done (((d.aerLog e 1 Aer.poisoned true).inc (A.HE_POISON_RX e)).peerStore now t bs true))) ∧
          (d.win e i F.HE_PEER_WIN_WRITE_EN = 0 → wr = .next (s.done (miss true))))) ∧
      (∀ i, takes → d.peerWin e off n = some i → d.win e i F.HE_PEER_WIN_KIND = 2 → n = 8 →
        (off - d.win e i F.HE_PEER_WIN_BAR_OFF) % 8 = 0 →
        let k := d.win e i F.HE_PEER_WIN_TARGET + (off - d.win e i F.HE_PEER_WIN_BAR_OFF) / 8
        let v := getBits (leWord bs) 0 16
        k < 32768 → d.up 41 = true → (d.twin = true ∨ d.stEp k = e.val) → d.sc k F.ST_CONN_VALID = 1 → v < d.stSize k →
        wr = .next (s.done (d.set (A.ST_CONN k) F.ST_CONN_TAIL v))) ∧
      (∀ i, takes → d.peerWin e off n = some i → d.win e i F.HE_PEER_WIN_KIND = 3 → d.open1 23 = true →
        let t := d.win e i F.HE_PEER_WIN_TARGET + (off - d.win e i F.HE_PEER_WIN_BAR_OFF)
        t + n ≤ 96 * 2 ^ 20 →
        let held := ∀ k, k < n → d.heldBy (t + k) (d.win e i F.HE_PEER_WIN_SLICE) = true
        (held → wr = .next (s.done (d.bobStore now t bs 0).2)) ∧
        (¬held → wr = .next (s.done (miss true)))))) ∧
  (∀ (s : State) (e : EpNo) (off n : Nat) (bs : List Byte),
    let c := s.found
    let now := s.time
    let rd (t : HostSpace) := exec (.peerRequest e t false off n bs false false) s
    let wr (t : HostSpace) := exec (.peerRequest e t true off n bs false false) s
    let up := c.epUp e = true ∧ c.open1 (20 + e.val) = true
    let refused (f : Nat) : Chip := (c.aerLog e f Aer.unsupported true).inc (A.HE_UR e)
    (∀ f : Fin 2, up → 0 < n → off % 4 + n ≤ 4 → off + n ≤ 4096 → rd (.config f) = .next (s.done
      (c.answerRead e f off (((leBytes 4 (c.configRead e f (off / 4 * 4)).toNat).drop (off % 4)).take n) fun _ _ => false))) ∧
    (∀ (f : Fin 2) (o : Nat), up → off = 4 * o → off + 4 ≤ 4096 → bs.length = 4 →
      let v : BitVec 32 := BitVec.ofNat 32 (leNat bs)
      let x := c.fn e f
      let m := cfgMask f (c.ep e).barLog2 off
      let y := x.wr off (((x.rd off &&& ~~~m) ||| (v &&& m)) &&& ~~~(v &&& cfgClear off))
      (off ≠ 0x04 → off ≠ 0x44 → off ≠ 0x58 → off ≠ 0xB0 → wr (.config f) = .next (s.done (c.setFn e f y))) ∧
      (off = 0x58 → v.getLsbD 15 = false → wr (.config f) = .next (s.done (c.setFn e f y))) ∧
      (off = 0x58 → v.getLsbD 15 = true → wr (.config f) = .next (s.done ((c.setFn e f y).flr now e f))) ∧
      (off = 0x44 → v.toNat % 4 = 3 → wr (.config f) = .next (s.done (c.powerState now e f true))) ∧
      (off = 0x44 → v.toNat % 4 = 0 → wr (.config f) = .next (s.done (c.powerState now e f false)))) ∧
    (∀ f : Fin 2, c.configRead e f 0 = BitVec.ofNat 32 (0x98160000 + 0x10000 * f.val + 0x1C6E)
      ∧ c.configRead e f 8 = BitVec.ofNat 32 (256 * (if f = 0 then 0x088000 else 0x020000) + Config.revision.toNat % 256)
      ∧ c.configRead e f 0x150 = BitVec.ofNat 32 (Config.serial.toNat / 2 ^ 32)) ∧
    (∀ f : Fin 2, up → c.sluiced e = false → c.decodes e f = true →
      let t : HostSpace := if f = 0 then .f0bar0 else .f1bar2
      off + n ≤ (if f = 0 then 2 ^ 24 else 2 ^ 20) → (f = 0 → inMbox off n = false) →
      (∀ out, c.hostRegRead e f off n = some out → rd t = .next (s.done (c.answerRead e f off out fun _ _ => false))) ∧
      (c.hostRegRead e f off n = none → rd t = .next (s.done (refused f)))) ∧
    (c.hostRegRead e 0 0 8 = some (leBytes 8 (c.hostStatus e).toNat)) ∧
    (up → c.decodes e 0 = true → inMbox off n = true → 0 < n → off % 4 = 0 → n % 4 = 0 → rd .f0bar0 = .next (s.done
      (c.answerRead e 0 off (rdBytes (c.ep e).mbox (off - 0x100000) n) fun k m =>
        (c.ep e).mboxBad.any fun p => decide ((off - 0x100000 + k) / 4 ≤ p.1) && decide (4 * p.1 < off - 0x100000 + k + m)))) ∧
    (up → c.decodes e 0 = true → inMbox off bs.length = true → 0 < bs.length → off % 4 = 0 → bs.length % 4 = 0 →
      let x := c.ep e
      (x.mboxBusy = true → wr .f0bar0 = .next (s.done (c.inc (A.HE_MBOX_DROP e)))) ∧
      (x.mboxBusy = false → wr .f0bar0 = .next (s.done (c.setEp e { x with
        mbox := wrBytes x.mbox (off - 0x100000) bs, mboxBad := markBox x.mboxBad (off - 0x100000) bs.length false })))) ∧
    (up → c.sluiced e = false → c.decodes e 1 = true → off + n ≤ 2 ^ 20 →
      (0 < n → (c.fn e 1).romOn = true → c.flash.present = true →
        rd .rom = .next (s.done (c.answerRead e 1 off (c.romBytes off n) fun _ _ => false))) ∧
      ((c.fn e 1).romOn = false → rd .rom = .next (s.done (refused 1)))) ∧
    (up → c.sluiced e = false → c.decodes e 1 = true → off + bs.length ≤ 2 ^ 20 →
      wr .rom = .next (s.done (c.inc (A.HE_BAR_DROP e))) ∧ wr .f1bar2 = .next (s.done (c.inc (A.HE_BAR_DROP e)))))

/-- R351, R355, R356, R380: writes of a queue pair and of a slice's quotas. An enable that passes the checks of R355 places the pair in RUN with empty
rings, a disable drains it, a RESTART returns a HALTED pair to RUN, its rings fetched again from their heads; quotas change only while the slice is
unbound.
R321, R334, R344: writes of an endpoint's registers: HE_x_CTRL, whose ENABLE = 0 ends the link; the topology, only in Provision with every queue
pair disabled; peer windows of the bank that is not active, and the switch of banks. -/
def Obligations.HostWrites : Prop :=
  (∀ (s : State) (n : QpNo) (v : Word),
    let c := s.found
    let now := s.time
    let a := A.DE_QP n
    let words (d : Chip) := (List.range 8).map fun k => d.rd (a + 8 * k)
    (s.writable a = true →
      (let d := c.filled now a [setBits (setBits v 1 1 0) 0 1 1]
       let run := exec (.qpEnable n v) s
       let u := ((((d.setQpf n F.DE_QP_STATE 1).wr (a + 32) 0).setQpf n F.DE_QP_CQ_TAIL 0).setQpf n F.DE_QP_CQ_HEAD 0).setQpf n F.DE_QP_ARMED 0
       let u := u.setQp n { QpSt.init with gen := (u.qp n).gen + 1 }
       let b := A.SM_SLICE (u.qpSlice n)
       c.qpf n F.DE_QP_ENABLE = 0 →
        (d.qpCheck now n = Code.OK → c.qpState n = 0 →
          run = s.wrote Code.OK (u.set b F.SM_SLICE_QP_USED (u.get b F.SM_SLICE_QP_USED + 1))) ∧
        (d.qpCheck now n = Code.OK → c.qpState n ≠ 0 → run = s.wrote Code.QP_BUSY c) ∧
        (d.qpCheck now n ≠ Code.OK → run = s.wrote (d.qpCheck now n) c)) ∧
      (let d := c.filled now a [setBits (setBits v 1 1 0) 0 1 0]
       let run := exec (.qpDisable n v) s
       c.qpf n F.DE_QP_ENABLE = 1 →
        (qpKept (words c) (words d) = false → run = s.wrote Code.QP_BUSY c) ∧
        (qpKept (words c) (words d) = true →
          (d.qpState n = 1 → run = s.wrote Code.OK ((((d.setQpf n F.DE_QP_STATE 3).dropQueue now n (A.TM_DROP n)).recache n).qpDrained n)) ∧
          (d.qpState n = 2 → run = s.wrote Code.OK (((d.setQpf n F.DE_QP_STATE 3).recache n).qpDrained n)) ∧
          (d.qpState n = 3 → run = s.wrote Code.OK d))) ∧
      (let d := c.filled now a [setBits v 1 1 1]
       let run := exec (.restart n v) s
       c.qpf n F.DE_QP_ENABLE = 1 → getBits v 0 1 = 1 → d.qpf n F.DE_QP_LOW < d.qpf n F.DE_QP_HIGH → d.qpf n F.DE_QP_HIGH ≤ 16 →
       qpKept (words c) (words d) = true →
        (d.qpState n = 2 → run = s.wrote Code.OK (((d.setQpf n F.DE_QP_STATE 1).recache n).qpFire now n)) ∧
        (d.qpState n ≠ 2 → run = s.wrote Code.NOT_HALTED c))) ∧
    (∀ d : Chip, d.qpState n = 3 →
      (d.qpBusy n = true → d.qpDrained n = d) ∧
      (d.qpBusy n = false → (d.qpDrained n).qpState n = 0)) ∧
    (∀ d : Chip, (∀ j ∈ d.de.jobs, j.qp ≠ n.val) →
      ((d.recache n).qp n).tx = [] ∧ ((d.recache n).qp n).rx = [] ∧ ((d.recache n).qp n).gen = (d.qp n).gen + 1 ∧
      ((d.recache n).qp n).txNext = d.qpf n F.DE_QP_TX_HEAD % max 1 (ringSize (d.qpf n F.DE_QP_TX_LOG2)) ∧
      ((d.recache n).qp n).rxNext = d.qpf n F.DE_QP_RX_HEAD % max 1 (ringSize (d.qpf n F.DE_QP_RX_LOG2))) ∧
    (∀ (sl : SliceNo) (w1 w2 : Word), s.writable (A.SM_SLICE sl) = true →
      let b := A.SM_SLICE sl
      let d := c.filled now (b + 8) [w1, w2]
      let ok := d.getAt now b F.SM_SLICE_QP_MAX ≤ 65536 ∧ d.getAt now b F.SM_SLICE_BOBBIN_MAX ≤ 40960 ∧ d.getAt now b F.SM_SLICE_ST_MAX ≤ 32768
        ∧ d.getAt now b F.SM_SLICE_TX_MBPS ≤ 800000
      (¬ok → exec (.quotaWrite sl w1 w2) s = s.wrote Code.BAD_ARGUMENT c) ∧
      (ok → c.flag b F.SM_SLICE_BOUND = true → exec (.quotaWrite sl w1 w2) s = s.wrote Code.SLICE_BUSY c) ∧
      (ok → c.flag b F.SM_SLICE_BOUND = false → exec (.quotaWrite sl w1 w2) s = s.wrote Code.OK d))) ∧
  (∀ (s : State) (e : EpNo) (v : Word),
    let c := s.found
    let now := s.time
    (s.writable (A.HE_CTRL e) = true →
      let a := A.HE_CTRL e
      let d := c.filled now a [v]
      let ok := d.get a F.HE_CTRL_MAX_RATE ≠ 7 ∧ d.get a F.HE_CTRL_MAX_WIDTH ≤ 4 ∧ 28 ≤ d.get a F.HE_CTRL_PEER_BAR_LOG2
        ∧ d.get a F.HE_CTRL_PEER_BAR_LOG2 ≤ 36
      (¬ok → exec (.epCtrlWrite e v) s = s.wrote Code.BAD_ARGUMENT c) ∧
      (ok → d.flag a F.HE_CTRL_ENABLE = true → exec (.epCtrlWrite e v) s = s.wrote Code.OK d) ∧
      (ok → d.flag a F.HE_CTRL_ENABLE = false → exec (.epCtrlWrite e v) s = s.wrote Code.OK (d.surpriseDown now e))) ∧
    (s.writable A.HE_TOPOLOGY = true →
      let free := c.mode = Mode.provision ∧ (∀ n ∈ c.de.qps.map (·.1), c.qpState n = 0)
        ∧ (getBits v 0 1 = 1 → c.flag (A.HE_CTRL 0) F.HE_CTRL_ENABLE = true ∧ c.flag (A.HE_CTRL 1) F.HE_CTRL_ENABLE = true)
      (free → exec (.topologyWrite v) s = s.wrote Code.OK (c.filled now A.HE_TOPOLOGY [v])) ∧
      (¬free → exec (.topologyWrite v) s = s.wrote Code.TOPOLOGY_BUSY c)) ∧
    (s.writable (A.HE_PEER_CTRL e) = true →
      let a := A.HE_PEER_CTRL e
      let d := c.filled now a [2]
      let u := d.set a F.HE_PEER_CTRL_ACTIVE (1 - d.get a F.HE_PEER_CTRL_ACTIVE)
      exec (.peerSwitch e) s = s.wrote Code.OK
        ((u.set a F.HE_PEER_CTRL_GEN ((u.get a F.HE_PEER_CTRL_GEN + 1) % 2 ^ 32)).setFlag a F.HE_PEER_CTRL_DRAINED true)) ∧
    (∀ (b : Fin 2) (win : Fin 64) (ws : List Word), s.writable (A.HE_PEER_WIN e b win) = true → ws ≠ [] → ws.length ≤ 3 →
      let a := A.HE_PEER_WIN e b win
      let d := c.filled now a ws
      let l := d.get a F.HE_PEER_WIN_SIZE_LOG2
      let ok := 12 ≤ l ∧ l ≤ 36 ∧ ¬(d.get a F.HE_PEER_WIN_VALID = 1 ∧ d.get a F.HE_PEER_WIN_KIND = 0) ∧ d.get a F.HE_PEER_WIN_BAR_OFF % 2 ^ l = 0
      (¬ok → exec (.peerWindowWrite e b win ws) s = s.wrote Code.BAD_ARGUMENT c) ∧
      (ok → c.get (A.HE_PEER_CTRL e) F.HE_PEER_CTRL_ACTIVE = b.val → exec (.peerWindowWrite e b win ws) s = s.wrote Code.PEER_BANK_ACTIVE c) ∧
      (ok → c.get (A.HE_PEER_CTRL e) F.HE_PEER_CTRL_ACTIVE ≠ b.val → exec (.peerWindowWrite e b win ws) s = s.wrote Code.OK d)))

/-! ### Command packets and the access points (spec/15_command_packets.md, spec/19_pins_electrical.md) -/

/-- R329, R404-R408, R413, R414, R448: the next packet of a context that runs none and has its turn (the command queues take turns). One its transport has refused, one that is not framed or names another
station, one that Boot does not take, one whose check fails or whose counter is not new is refused whole with its code; any other starts at its
first word, a keyed one after its counter has become the slot's LAST_COUNTER.
R410, R441, R489, R495, R496: the I2C target and the test access port. A packet is gathered in a buffer of 4,096 or 65,536 bytes, submitted and its
result read out; while one waits or runs nothing is taken; the TAP works in every mode but Off and its instructions select what it shows. -/
def Obligations.CommandTransports : Prop :=
  (∀ (s : State) (k : CtxNo) (raw : List Byte) (o : Origin) (rest : List (List Byte × Origin)),
    let c := s.found
    let now := s.time
    let x := c.cmdCtx k
    x.queue = (raw, o) :: rest → x.run = none → c.cmdRuns = true → c.cmdTurn k = true →
    let run := exec (.commandPacket k) s
    let bs := packetBytes o raw
    let d := c.setCmdCtx k { x with queue := rest }
    let d : Chip := if 2 ≤ k.val ∧ k.val < 18 then { d with cmd := { d.cmd with turn := k.val - 2 } } else d
    let u := d.inc A.CP_CMD_PACKETS
    let reply := k.val != 18
    let slot := getBits (hdr bs 1) 48 4
    let key := u.slotKey slot
    let keyed := getBits (hdr bs 0) 40 1 = 1
    let good := o.pre = Code.OK ∧ framed o bs = true ∧ d.mine bs = true ∧ u.bootRefuses k = false
    let checked := key ≠ [] ∧ checkBytes key bs = (bs.drop 32).take 16
    let begun (e : Chip) (auth : Bool) (sign : List Byte) : Chip := (e.setRun k (some
      { bytes := bs, off := 64, origin := o, auth := auth, key := slot, cont := getBits (hdr bs 0) 41 1 == 1, records := [], nrun := 0,
        status := Code.OK, denied := false, sign := sign, wait := .none })).cmdNext now k
    (o.pre ≠ Code.OK → run = .next (s.done (d.refusePacket now k o bs o.pre false true))) ∧
    (o.pre = Code.OK → framed o bs = false →
      run = .next (s.done ((d.inc A.CP_CMD_BAD_PACKET).refusePacket now k o bs Code.BAD_PACKET false reply))) ∧
    (o.pre = Code.OK → framed o bs = true → d.mine bs = false →
      run = .next (s.done ((u.inc A.CP_CMD_NOT_MINE).refusePacket now k o bs Code.WRONG_STATION false reply))) ∧
    (o.pre = Code.OK → framed o bs = true → d.mine bs = true → u.bootRefuses k = true →
      run = .next (s.done (u.refusePacket now k o bs Code.MODE_REFUSED false true))) ∧
    (good → keyed → ¬checked → run = .next (s.done ((u.inc A.CP_CMD_DENIED).refusePacket now k o bs Code.DENIED true true))) ∧
    (good → keyed → checked → (hdr bs 2).toNat ≤ (u.rd (A.CP_KEY slot)).toNat →
      run = .next (s.done ((u.inc A.CP_CMD_STALE).refusePacket now k o bs Code.STALE_COUNTER true true))) ∧
    (good → keyed → checked → (u.rd (A.CP_KEY slot)).toNat < (hdr bs 2).toNat →
      let e := (u.wr (A.CP_KEY slot) (hdr bs 2)).keySave
      run = .next (s.done (begun e true (e.slotKey slot)))) ∧
    (good → ¬keyed → run = .next (s.done (begun u false [])))) ∧
  (∀ (s : State),
    let c := s.found
    let now := s.time
    let free (k : Nat) : Prop := (c.cmdCtx k).queue = [] ∧ (c.cmdCtx k).run = none
    let busy (k : Nat) : Nat := if (c.cmdCtx k).queue = [] ∧ (c.cmdCtx k).run = none then 0 else 1
    (c.flag A.CP_CMD_CFG F.CP_CMD_CFG_I2C_EN = true → 3 ≤ c.mode →
      (∀ bs, bs.length ≤ 32 → c.cmd.i2cBuf.length + bs.length ≤ 4096 →
        (free 19 → exec (.i2cBlockWrite bs) s = .next (s.done { c with cmd := { c.cmd with i2cBuf := c.cmd.i2cBuf ++ bs } })) ∧
        (¬free 19 → exec (.i2cBlockWrite bs) s = .next (s.done c))) ∧
      (∀ v : BitVec 8, free 19 →
        (v.toNat = 1 → exec (.i2cSubmit v) s = .next (s.done
          (({ c with cmd := { c.cmd with i2cBuf := [], i2cRes := [], i2cDone := false } } : Chip).cmdSubmit 19 c.cmd.i2cBuf
            { source := 6, detail := 0, limit := 4096, resAddr := 0, sa := [], tags := [], pre := Code.OK, gen := 0 }))) ∧
        (v.toNat ≠ 1 → exec (.i2cSubmit v) s = .next (s.done c))) ∧
      exec .i2cBlockRead s = .next (s.done
        { c with cmd := { c.cmd with i2cRes := c.cmd.i2cRes.drop 32, answer := c.cmd.i2cRes.take 32 } }) ∧
      exec .i2cStatusRead s = .next (s.done
        { c with cmd := { c.cmd with answer := [BitVec.ofNat 8 (busy 19 + if c.cmd.i2cDone then 2 else 0)] } }) ∧
      exec .stateWordRead s = .next (s.done ((c.stateWord now).2.answers (c.stateWord now).1))) ∧
    (c.mode ≠ Mode.off →
      let ir (n : Nat) : Chip := { c with tap := { c.tap with ir := n } }
      exec .extest s = .next (s.done (ir 0x00)) ∧ exec .highz s = .next (s.done (ir 0x03)) ∧ exec .clamp s = .next (s.done (ir 0x04)) ∧
      exec .extestPulse s = .next (s.done (ir 0x05)) ∧ exec .extestTrain s = .next (s.done (ir 0x06)) ∧
      exec .bypass s = .next (s.done (ir 0xFF)) ∧
      exec .idcode s = .next (s.done ((ir 1).answers (leBytes 4 0x1981656B))) ∧
      (∀ pins value, exec (.samplePreload pins value) s =
        .next (s.done { ir 2 with tap := { c.tap with ir := 2, bsr := value }, cmd := { c.cmd with answer := pins } })) ∧
      exec .cmdStatus s = .next (s.done ((ir 0x21).answers [BitVec.ofNat 8
        (busy 20 + (if c.cmd.dbgDone then 2 else 0) + (if c.cmd.dbgRefused then 4 else 0))])) ∧
      (∀ v, free 20 → c.cmd.dbgBuf.length + 8 ≤ 65536 →
        let d : Chip := { ir 0x20 with cmd := { c.cmd with dbgBuf := c.cmd.dbgBuf ++ leBytes 8 v.toNat } }
        let sent : Chip := { d with cmd := { d.cmd with dbgBuf := [], dbgRes := [], dbgDone := false, dbgRefused := false } }
        exec (.cmdData v true false) s = .next (s.done d) ∧
        (c.flag A.CP_CMD_CFG F.CP_CMD_CFG_DEBUG_EN = true → exec (.cmdData v true true) s = .next (s.done (sent.cmdSubmit 20 d.cmd.dbgBuf
          { source := 7, detail := 0, limit := 65536, resAddr := 0, sa := [], tags := [], pre := Code.OK, gen := 0 }))) ∧
        (c.flag A.CP_CMD_CFG F.CP_CMD_CFG_DEBUG_EN = false → exec (.cmdData v true true) s = .next (s.done
          { sent with cmd := { sent.cmd with dbgRes := sent.resultOf d.cmd.dbgBuf [] [] Code.DENIED 0 (-1), dbgDone := true, dbgRefused := true } }))) ∧
      exec .cmdDataCapture s = .next (s.done
        { ir 0x20 with cmd := { c.cmd with dbgRes := c.cmd.dbgRes.drop 8, answer := c.cmd.dbgRes.take 8 } })) ∧
    exec .tapReset s = .next (s.done { c with tap := { c.tap with ir := 1 } }))

/-- R31, R12: what PUT and GET do on registers. A range that is not aligned, or touches a reserved address, ends BAD_ARGUMENT with nothing done; a
PUT of one register acts by its rule where its unit answers, and ends ABSENT where it does not; a GET of a unit returns what its register shows and
leaves what reading it leaves.
R31, R340, R348, R349, R352, R405-R407, R411, R417-R419, R425, R449: the command words but for image sessions. A word whose context has its turn,
that is authorised, that its mode takes and for whose record there is room runs, and its record goes to the result; an unkeyed critical word ends
DENIED, one that the mode does not take ends MODE_REFUSED, one whose record does not fit ends the packet. -/
def Obligations.CommandWords : Prop :=
  (∀ (c : Chip) (now a : Nat),
    (∀ vs : List Word, (a % 8 ≠ 0 ∨ (inSat a = false ∧ ∃ i, i < vs.length ∧ c.reserved (a + 8 * i) = true)) →
      c.put now a vs = (Code.BAD_ARGUMENT, c)) ∧
    (∀ (vs : List Word) (e : Elem), a % 8 = 0 → inSat a = false → c.cut a vs = some [.elem e] →
      (c.regUp e.base = true → c.put now a vs = c.hook (c.storeElem now e) now e) ∧
      (c.regUp e.base = false → (c.hook (c.storeElem now e) now e).1 ≠ Code.BAD_ARGUMENT → c.put now a vs = (Code.ABSENT, c))) ∧
    (∀ n : Nat, (a % 8 ≠ 0 ∨ ∃ i, i < n ∧ c.reserved (a + 8 * i) = true) → c.getRange now a n = (Code.BAD_ARGUMENT, [], c)) ∧
    (∀ (r : RegRow) (k : Nat), a % 8 = 0 → c.reserved a = false → c.place a = none → regCode a = none → millOffset a = none →
      findRow (regionRows a) a = some (r, k) →
      (c.regUp a = true → c.getRange now a 1 = (Code.OK, [c.shows now a r k], c.afterRead now a r k)) ∧
      (c.regUp a = false → c.getRange now a 1 = (Code.ABSENT, [], c)))) ∧
  (∀ (s : State) (k : CtxNo) (r : RunPkt),
    let c : Chip := { s.found with cmd := { s.found.cmd with wordAt := k } }
    let now := s.time
    let turn := s.found.wordTurn k = true
    let takes (w : CmdWord) : Prop := turn ∧ c.takesWord k r w = true
    (∀ (a : BitVec 40) (ws : List Word), takes (.put a.toNat ws) →
      exec (.put k a ws) s = s.ended k (c.put now a.toNat ws).1 [] (c.put now a.toNat ws).2) ∧
    (∀ (a : BitVec 40) (n : BitVec 32), takes (.get a.toNat n.toNat) →
      let g := c.getRange now a.toNat (n.toNat / 8)
      (8 ≤ n.toNat → n.toNat % 8 = 0 →
        exec (.get k a n) s = s.ended k g.1 (if g.1 = Code.OK then ofWords g.2.1 else []) g.2.2) ∧
      ((n.toNat < 8 ∨ n.toNat % 8 ≠ 0) → exec (.get k a n) s = s.ended k Code.BAD_ARGUMENT [] c)) ∧
    (∀ (a n : BitVec 40) (v : Word), takes (.fill a.toNat n.toNat v) →
      let p := c.put now a.toNat (List.replicate (n.toNat / 8) v)
      (n.toNat % 8 = 0 → exec (.fill k a n v) s = s.ended k p.1 [] p.2) ∧
      (n.toNat % 8 ≠ 0 → exec (.fill k a n v) s = s.ended k Code.BAD_ARGUMENT [] c)) ∧
    (∀ (g : BitVec 8) (reset : Bool) (items : List (BitVec 40 × BitVec 24 × Word)),
      let xs : List StageItem := items.map fun x => ⟨x.1.toNat, x.2.1.toNat, x.2.2⟩
      takes (.stage g.toNat reset xs) →
      exec (.stage k g reset items) s = s.ended k (c.stage now g.toNat reset xs).1 [] (c.stage now g.toNat reset xs).2) ∧
    (∀ (dt : Word) (frac : BitVec 16) (kind : BitVec 8) (a0 a1 : Word),
      let q : SatReq := ⟨dt.toNat, frac.toNat, kind.toNat, a0.toNat, a1.toNat⟩
      let e := c.commitAt now q
      takes (.commitAt q) →
      exec (.commitAt k dt frac kind a0 a1) s = s.ended k e.1 (if e.1 = Code.OK then leBytes 8 e.2.1 else []) e.2.2) ∧
    (∀ (dt : Word) (frac : BitVec 16), takes (.waitUntil dt.toNat frac.toNat) →
      let t := ns dt.toNat + frac.toNat
      (t ≤ now → exec (.waitUntil k dt frac) s = s.ended k Code.OK [] c) ∧
      (now < t → t ≤ now + ns 60000000000 → exec (.waitUntil k dt frac) s = s.waitsFor k r (.untilT t) c) ∧
      (now + ns 60000000000 < t → exec (.waitUntil k dt frac) s = s.ended k Code.BAD_ARGUMENT [] c)) ∧
    (∀ (sl : SliceNo) (mask : BitVec 4) (quotas rate dt : Word) (frac : BitVec 16),
      takes (.resizeSlice sl mask.toNat quotas rate dt.toNat frac.toNat) →
      let x := c.resizeSlice now sl mask.toNat quotas rate dt.toNat frac.toNat
      exec (.resizeSlice k sl mask quotas rate dt frac) s =
        s.ended k x.1 (if x.1 = Code.OK then leBytes 8 (x.2.1 + x.2.2.1 * 2 ^ 32) else []) x.2.2.2) ∧
    (∀ (sl : SliceNo) (e : EpNo) (pasid : BitVec 20), takes (.bind sl e pasid.toNat) →
      let b := c.bindSlice now sl e pasid.toNat
      ((b.1 = Code.BAD_ARGUMENT ∨ c.up 23 = true) → exec (.bind k sl e pasid) s = s.ended k b.1 [] b.2) ∧
      (b.1 ≠ Code.BAD_ARGUMENT → c.up 23 = false → exec (.bind k sl e pasid) s = s.ended k Code.ABSENT [] c)) ∧
    (∀ (sl : SliceNo), takes (.unbind sl) →
      let b := c.unbindSlice now sl
      ((b.1 = Code.BAD_ARGUMENT ∨ c.up 23 = true) → exec (.unbind k sl) s = s.ended k b.1 [] b.2) ∧
      (b.1 ≠ Code.BAD_ARGUMENT → c.up 23 = false → exec (.unbind k sl) s = s.ended k Code.ABSENT [] c)) ∧
    (∀ (e : EpNo), takes (.sluiceRelease e) →
      (c.sluiced e = false → exec (.sluiceRelease k e) s = s.ended k Code.OK [] c) ∧
      (c.sluiced e = true → (c.epUp e = false ∨ (c.twin = true ∧ c.epUp (1 - e.val) = false) ∨ c.mode = Mode.quarantine) →
        exec (.sluiceRelease k e) s = s.ended k Code.SLUICE_HELD [] c) ∧
      (c.sluiced e = true → c.epUp e = true → (c.twin = true → c.epUp (1 - e.val) = true) → c.mode ≠ Mode.quarantine →
        let d := c.sluiceLift now e
        exec (.sluiceRelease k e) s = s.ended k Code.OK [] (if d.twin then d.sluiceLift now (1 - e.val) else d))) ∧
    (∀ (m : Fin 16), takes (.mode m) →
      let q := c.modeRequest now m
      (q.2.1 = false → exec (.mode k m) s = s.ended k q.1 [] q.2.2) ∧
      (q.2.1 = true → exec (.mode k m) s = s.waitsFor k r .mode q.2.2)) ∧
    (∀ (slot : Fin 32) (blob : List Byte),
      let q := c.rollCheck slot blob
      (takes (.keyRoll slot true blob) → slot.val < 24 → exec (.keyRoll k slot true blob) s = s.waitsFor k r (.keyRoll slot [] 0 true) c) ∧
      (takes (.keyRoll slot false blob) → q.1 = Code.OK →
        exec (.keyRoll k slot false blob) s = s.waitsFor k r (.keyRoll slot q.2.1 q.2.2 false) c) ∧
      (takes (.keyRoll slot false blob) → q.1 ≠ Code.OK → exec (.keyRoll k slot false blob) s = s.ended k q.1 [] c)) ∧
    (∀ (f : Word) (n : BitVec 13), takes (.journalRead f n.toNat) →
      let es := c.journalEntries f n.toNat
      ((n.toNat = 0 ∨ 4096 < n.toNat) → exec (.journalRead k f n) s = s.ended k Code.BAD_ARGUMENT [] c) ∧
      (1 ≤ n.toNat → n.toNat ≤ 4096 → c.needsFlash es = true →
        exec (.journalRead k f n) s = s.waitsFor k r (.journal f.toNat es.length) c) ∧
      (1 ≤ n.toNat → n.toNat ≤ 4096 → c.needsFlash es = false → exec (.journalRead k f n) s = s.ended k Code.OK (journalBody f es) c)) ∧
    (∀ (m : MillNo) (op : Fin 16) (t : ThreadNo), takes (.debug m op t false) →
      (op.val = 7 → exec (.debug k m op t false) s = s.ended k Code.BAD_ARGUMENT [] c) ∧
      (op.val ≠ 7 → op.val = 0 → c.reach m = true → exec (.debug k m op t false) s = s.ended k Code.OK [] c) ∧
      (op.val ≠ 7 → c.reach m = false → exec (.debug k m op t false) s = s.ended k Code.ABSENT [] c) ∧
      (op.val ≠ 7 → op.val ≠ 0 → c.reach m = true →
        exec (.debug k m op t false) s = s.ended k (c.debugOp now m op t).1 [] (c.debugOp now m op t).2)) ∧
    (∀ (a : BitVec 40) (ws : List Word), turn → (c.cmdCtx k).run = some r → c.cmdRuns = true → r.wait = .none → r.off < r.bytes.length →
      let x := wordAt r.bytes r.off
      decodeCmd x.1 x.2 = some (.put a.toNat ws) → r.auth = false → c.critical x.1 x.2 = true → c.waived x.1 = false →
      72 + r.records.length ≤ r.origin.limit →
      exec (.put k a ws) s = .next (s.done ((c.setRun k (some { r with denied := true })).wordEnd now k Code.DENIED []))) ∧
    (∀ (a : BitVec 40) (n : BitVec 32), turn → (c.cmdCtx k).run = some r → c.cmdRuns = true → r.wait = .none → r.off < r.bytes.length →
      let x := wordAt r.bytes r.off
      decodeCmd x.1 x.2 = some (.get a.toNat n.toNat) → (r.auth = true ∨ c.critical x.1 x.2 = false) → c.modeTakes (.get a.toNat n.toNat) = true →
      r.origin.limit < 72 + r.records.length + n.toNat →
      exec (.get k a n) s = .next (s.done ((c.setRun k (some { r with
        status := if r.status = Code.OK then Code.RESULT_FULL else r.status, off := r.bytes.length })).cmdNext now k))) ∧
    (∀ (e : EpNo), turn → (c.cmdCtx k).run = some r → c.cmdRuns = true → r.wait = .none → r.off < r.bytes.length →
      let x := wordAt r.bytes r.off
      decodeCmd x.1 x.2 = some (.sluiceRelease e) → r.auth = true → c.modeTakes (.sluiceRelease e) = false → 72 + r.records.length ≤ r.origin.limit →
      exec (.sluiceRelease k e) s = s.ended k Code.MODE_REFUSED [] c) ∧
    (∀ (d : Chip) (st : Status) (body : List Byte), (d.cmdCtx k).run = some r →
      let w := wordAt r.bytes r.off
      d.wordEnd now k st body = (d.setRun k (some { r with
        records := r.records ++ leBytes 8 (getBits w.1 0 8 + st % 65536 * 2 ^ 16 + body.length * 2 ^ 32) ++ body
        nrun := r.nrun + 1
        status := if r.status = Code.OK then st else r.status
        off := if st = Code.OK ∨ r.cont = true then r.off + 8 + w.2.length else r.bytes.length
        wait := .none })).cmdNext now k))

/-- R407, R417, R421, R425, R426: image sessions. BEGIN passes its checks and opens a session, DATA takes the next bytes in order, END makes the
target's final check, ABORT and 60 s without a word close the session. What is written to the flash waits for it, and a write that fails leaves the
session as it stood; so wait KEY_ROLL, a JOURNAL_READ of entries in the flash, and WAIT_UNTIL for its time. -/
def Obligations.ImageSessions : Prop :=
  ∀ (s : State) (k : CtxNo) (r : RunPkt) (i : Fin 8) (bs : List Byte),
    let f := s.found
    let c : Chip := { f with cmd := { f.cmd with wordAt := k } }
    let now := s.time
    let takes (w : CmdWord) : Prop := f.wordTurn k = true ∧ c.takesWord k r w = true
    (∀ (t : BitVec 8) (idx : BitVec 16) (total : Word), takes (.imageBegin i t.toNat idx.toNat total.toNat bs) →
      let st := c.beginCheck now i t.toNat idx.toNat total.toNat bs
      let d := c.beginOpen now i t.toNat idx.toNat total.toNat
      let q := d.imageAdd now i ⟨t.toNat, idx.toNat, total.toNat, [], now⟩ ((imageTake ⟨t.toNat, idx.toNat, total.toNat, [], now⟩ bs).getD [])
      let run := exec (.loadImageBegin k i t idx total bs) s
      (st ≠ Code.OK → run = s.ended k st [] c) ∧
      (st = Code.OK → 4 ≤ t.toNat → run = s.waitsFor k r (.image i 0) q.2) ∧
      (st = Code.OK → t.toNat < 4 → run = s.ended k q.1 [] q.2)) ∧
    (∀ (off : Word), takes (.imageData i off.toNat bs) →
      let run := exec (.loadImageData k i off bs) s
      (c.session i = none → run = s.ended k Code.NO_SESSION [] c) ∧
      (∀ x, c.session i = some x →
        let d := c.setSession i (some { x with last := now })
        (off.toNat ≠ x.bytes.length → run = s.ended k Code.OUT_OF_ORDER [] d) ∧
        (off.toNat = x.bytes.length → imageTake x bs = none → run = s.ended k Code.IMAGE_BAD [] d) ∧
        (∀ take, off.toNat = x.bytes.length → imageTake x bs = some take →
          (4 ≤ x.target → run = s.waitsFor k r (.image i off.toNat) (d.imageAdd now i x take).2) ∧
          (x.target < 4 → run = s.ended k (d.imageAdd now i x take).1 [] (d.imageAdd now i x take).2)))) ∧
    (takes (.imageEnd i) →
      let run := exec (.loadImageEnd k i) s
      (c.session i = none → run = s.ended k Code.NO_SESSION (leBytes 8 Code.NO_SESSION) c) ∧
      (∀ x, c.session i = some x → x.target < 4 → (x.target = 2 → c.up 23 = true) →
        let st := if c.imageFinal x then Code.OK else badImage x.target
        let d := if c.imageFinal x then c.imageGood now x else c
        run = s.ended k st (leBytes 8 st) ((d.setSession i none).noteImage now x true st)) ∧
      (∀ x, c.session i = some x → x.target = 2 → c.up 23 = false → run = s.ended k Code.ABSENT (leBytes 8 Code.ABSENT) c) ∧
      (∀ x, c.session i = some x → 4 ≤ x.target → run = s.waitsFor k r (.image i x.bytes.length) c)) ∧
    (takes (.imageAbort i) →
      (c.session i = none → exec (.loadImageAbort k i) s = s.ended k Code.NO_SESSION [] c) ∧
      (∀ x, c.session i = some x →
        exec (.loadImageAbort k i) s = s.ended k Code.OK [] ((c.setSession i none).noteImage now x false 0))) ∧
    (∀ x, f.session i = some x → x.last + ns 60000000000 ≤ now →
      exec (.sessionTimeout i) s = .next (s.done ((f.setSession i none).noteImage now x false 0))) ∧
    (f.cmdRuns = true →
      (∀ t, f.waiting k = .untilT t → t ≤ now → exec (.waitUntilDone k) s = s.ended k Code.OK [] f) ∧
      (∀ (n : Nat) key gen remove ok, f.waiting k = .keyRoll n key gen remove →
        let stale := remove = false ∧ gen ≤ (f.rd (A.CP_KEY n + 8)).toNat
        (ok = true → f.flash.present = true → ¬stale → exec (.keyRollDone k ok) s = s.ended k Code.OK [] (f.rollApply now n key gen remove)) ∧
        (ok = true → f.flash.present = true → stale → exec (.keyRollDone k ok) s = s.ended k Code.GENERATION [] f) ∧
        ((ok = false ∨ f.flash.present = false) → exec (.keyRollDone k ok) s = s.ended k Code.FLASH_FAIL [] f)) ∧
      (∀ q n, f.waiting k = .journal q n →
        let es := f.journalEntries (BitVec.ofNat 64 q) n
        exec (.journalFlashReadDone k) s = s.ended k Code.OK (journalBody (BitVec.ofNat 64 q) es) f) ∧
      (∀ (n o : Nat) x, f.waiting k = .image n o → f.session n = some x → f.flash.present = true →
        (f.atEnd k = (true, false) → exec (.imageFlashWriteDone k true) s =
          s.ended k (f.imageEnd now n x).1 (leBytes 8 (f.imageEnd now n x).1) (f.imageEnd now n x).2) ∧
        ((f.atEnd k).1 = false → exec (.imageFlashWriteDone k true) s = s.ended k Code.OK [] f) ∧
        (f.atEnd k = (false, true) → exec (.imageFlashWriteDone k false) s = s.ended k Code.FLASH_FAIL [] (f.setSession n none)) ∧
        (f.atEnd k = (false, false) → exec (.imageFlashWriteDone k false) s =
          s.ended k Code.FLASH_FAIL [] (f.setSession n (some { x with bytes := x.bytes.take o })))))

/-! ### Device time and the Scheduled Action Table (spec/02_device_time.md) -/

/-- R53, R54, R177: the writes of one entry. A live entry takes only STATE = 5, and only while PENDING; everything else ends ENTRY_BUSY. An entry
that is not live takes its words freely, becomes FREE, or, where the checks of R53 pass, PENDING with the action its words then name.
R53, R176, R183, R287: the codes with which an action is refused, in their order; what a PENDING entry then holds.
R56-R58, R178, R353, R420, R499: what entries do. A keyed entry arms at T less FT_ARM_LEAD with its new state delivered to every target, or to
none; it is DONE once T has come and nothing is left to be written. A group whose items are to be written at T writes them once no other such
group comes before it by T and index, and ends with the first code. A plain entry runs once T has come, in the order of time and index, and ends
with its code. -/
def Obligations.ScheduledActions : Prop :=
  (∀ (s : State) (n : SatNo) (v : Word),
    let c := s.found
    let now := s.time
    let a := A.FT_SAT n
    let live := c.satState n = 1 ∨ c.satState n = 2
    let q : SatReq := satReq (c.rd a) (setBits v 24 3 1) (c.rd (a + 16)) (c.rd (a + 24))
    let st := c.satCheck now q false
    s.writable a = true →
    (live → exec (.satPending n v) s = s.wrote Code.ENTRY_BUSY c ∧ exec (.satFree n v) s = s.wrote Code.ENTRY_BUSY c ∧
      ∀ k, exec (.satWordWrite n k v) s = s.wrote Code.ENTRY_BUSY c) ∧
    (c.satState n = 2 → exec (.satCancel n v) s = s.wrote Code.ENTRY_BUSY c) ∧
    (c.satState n = 1 → exec (.satCancel n v) s = s.wrote Code.OK (c.satCancel now n)) ∧
    (¬live → st = Code.OK → exec (.satPending n v) s = s.wrote Code.OK (c.satPend n q)) ∧
    (¬live → st ≠ Code.OK → exec (.satPending n v) s = s.wrote st c) ∧
    (¬live → exec (.satCancel n v) s = s.wrote Code.BAD_ARGUMENT c) ∧
    (¬live → exec (.satFree n v) s =
      s.wrote Code.OK (c.wr (a + 8) (setBits (c.rd (a + 8)) 0 27 (getBits (setBits v 24 3 0) 0 27)))) ∧
    (¬live → exec (.satWordWrite n 0 v) s = s.wrote Code.OK (c.wr a v) ∧ exec (.satWordWrite n 1 v) s = s.wrote Code.OK (c.wr (a + 16) v) ∧
      exec (.satWordWrite n 2 v) s = s.wrote Code.OK (c.wr (a + 24) v))) ∧
  (∀ (c : Chip) (now n : Nat) (q : SatReq),
    let a := A.FT_SAT n
    let soon := q.t < now + ns (c.rd A.FT_ARM_LEAD).toNat
    (q.frac % 8192 ≠ 0 ∨ satArgs q.kind q.arg0 q.arg1 = false ∨ q.kind = 3 → c.satCheck now q false = Code.BAD_ARGUMENT) ∧
    (c.satInRange now q false = true → soon → c.satCheck now q false = Code.TOO_LATE) ∧
    (c.satInRange now q false = true → ¬soon → c.satDisorder q = true → c.satCheck now q false = Code.ORDER) ∧
    (c.satInRange now q false = true → ¬soon → c.satDisorder q = false → 0x10 ≤ q.kind → c.satCheck now q false = Code.OK) ∧
    (c.satInRange now q false = true → ¬soon → c.satDisorder q = false → q.kind = 5 →
      c.satCheck now q false = if c.prickLoading = true then Code.PRICKING_BUSY
        else if c.peReady (1 - c.peActive now) = false then Code.NO_STANDBY else Code.OK) ∧
    (q.dt < 2 ^ 64 → q.frac < 2 ^ 16 → q.kind < 2 ^ 8 → q.kind ≠ 1 → q.kind ≠ 2 → n < 1024 →
      (c.satPend n q).satState n = 1 ∧ (c.satPend n q).satT n = q.t ∧ (c.satPend n q).satKind n = q.kind ∧
      ∀ b, b ≠ a → b ≠ a + 8 → b ≠ a + 16 → b ≠ a + 24 → (c.satPend n q).rd b = c.rd b)) ∧
  (∀ (s : State) (n : SatNo),
    let c := s.found
    let now := s.time
    let d : Chip := { c with ft := { c.ft with armState := mset 0 c.ft.armState n (c.get A.FT_STATUS F.FT_STATUS_STATE) } }
    let armed := (d.satDeliver now n).set (A.FT_SAT n) F.FT_SAT_STATE 2
    let arms := c.satState n = 1 ∧ c.satKeyed n = true ∧ c.satT n ≤ now + ns (c.rd A.FT_ARM_LEAD).toNat
    let xs := c.satWrites n
    let w := Chip.writeItems now xs Code.OK c
    let first := ∀ m, m < 1024 → c.satState m = 2 → c.satWrites m ≠ [] → c.satBefore m n = false
    let late := w.2.setFlag (A.FT_SAT n) F.FT_SAT_LATE (w.2.satLate now n (ns (2000 + 10 * xs.length)))
    let ran := c.put now (c.satArg0 n) [c.rd (A.FT_SAT n + 24)]
    let turned := c.modeRequest now (c.satArg0 n)
    let pin := c.satArg0 n % 16
    let mark := c.satArg1 n
    (arms → c.satKind n ≠ 1 → c.up 23 = true → exec (.satArm n) s = .next (s.done armed)) ∧
    (arms → c.satKind n ≠ 1 → c.up 23 = false → exec (.satArm n) s = .next (s.done (d.satKeyedFail now n Code.ABSENT))) ∧
    (arms → c.satKind n = 1 → (∀ x ∈ d.stageItems (d.satArg0 n), d.itemCheck now x = Code.OK) →
      exec (.satArm n) s = .next (s.done armed)) ∧
    (∀ ys x zs, arms → c.satKind n = 1 → d.stageItems (d.satArg0 n) = ys ++ x :: zs → (∀ y ∈ ys, d.itemCheck now y = Code.OK) →
      d.itemCheck now x ≠ Code.OK → exec (.satArm n) s = .next (s.done (d.satKeyedFail now n (d.itemCheck now x)))) ∧
    (c.satState n = 2 → c.satT n ≤ now → xs = [] → exec (.satKeyedDone n) s = .next (s.done (c.satKeyedEnd now n))) ∧
    (c.satState n = 2 → c.satT n ≤ now → xs ≠ [] → first → w.1 = Code.OK →
      exec (.stageWriteApply n) s = .next (s.done (late.satKeyedEnd now n))) ∧
    (c.satState n = 2 → c.satT n ≤ now → xs ≠ [] → first → w.1 ≠ Code.OK → exec (.stageWriteApply n) s =
      .next (s.done ((((late.satFail n 4 w.1).noteSat now n w.1 0 (late.armWord n)).liveVers n).raise now Flt.FT_ACTION_FAILED 24 63 0 0))) ∧
    (c.plainDue now n 0x10 = true → exec (.satPut64 n) s = .next (s.done (ran.2.plainEnd now n ran.1 0))) ∧
    (c.plainDue now n 0x11 = true → exec (.satMode n) s = .next (s.done (turned.2.2.plainEnd now n turned.1 0))) ∧
    (c.plainDue now n 0x12 = true → natBits (c.get A.CP_GPIO F.CP_GPIO_DIR) pin 1 = 1 → exec (.satGpio n) s =
      .next (s.done ((c.set A.CP_GPIO ⟨0, 16 + pin, 1⟩ (c.satArg0 n / 256 % 2)).plainEnd now n Code.OK 0))) ∧
    (c.plainDue now n 0x12 = true → natBits (c.get A.CP_GPIO F.CP_GPIO_DIR) pin 1 = 0 → exec (.satGpio n) s =
      .next (s.done (c.plainEnd now n Code.BAD_ARGUMENT 0))) ∧
    (c.plainDue now n 0x13 = true → exec (.satSignal n) s =
      .next (s.done ((if mark / 256 % 2 = 1 then c.fireMsg now 0 (mark % 8) else c).plainEnd now n Code.OK (c.satArg0 n)))))

/-- R55: the entry that COMMIT_AT and RESIZE_SLICE take: the lowest-numbered FREE one, else the finished one that finished earliest, else none,
which ends SAT_FULL; SAT_LIVE shows the number of live entries. -/
def Obligations.EntriesTaken : Prop :=
  (∀ (c : Chip) (n : Nat), n < 1024 → c.satState n = 0 → (∀ k, k < n → c.satState k ≠ 0) → c.satTake = some n) ∧
  (∀ (c : Chip) (n : Nat), n < 1024 → (∀ k, k < 1024 → c.satState k ≠ 0) → 3 ≤ c.satState n →
    (∀ k, k < 1024 → k ≠ n → 3 ≤ c.satState k → mget 0 c.ft.finOrder n < mget 0 c.ft.finOrder k) → c.satTake = some n) ∧
  (∀ (c : Chip) (n st r : Nat), mget 0 (c.satFail n st r).ft.finOrder n = c.ft.finSeq + 1 ∧ (c.satFail n st r).ft.finSeq = c.ft.finSeq + 1) ∧
  (∀ (c : Chip), (∀ k, k < 1024 → c.satState k = 1 ∨ c.satState k = 2) → c.satTake = none) ∧
  (∀ (c : Chip) (now : Nat) (q : SatReq) (own : Bool), c.satTake = none → c.satCheck now q own ≠ Code.BAD_ARGUMENT →
    c.satCheck now q own ≠ Code.TOO_LATE → c.satCommit now q own = (Code.SAT_FULL, 0, c)) ∧
  (∀ (c : Chip) (now : Nat) (q : SatReq) (own : Bool) (n : Nat), c.satTake = some n → c.satCheck now q own = Code.OK →
    c.satCommit now q own = (Code.OK, n, c.satPend n q)) ∧
  (∀ (c : Chip) (now : Nat) (q : SatReq), c.commitAt now q = c.satCommit now q false) ∧
  (∀ (c : Chip) (now s mask dt frac : Nat) (quotas rate : Word),
    let x := c.resizeSlice now s mask quotas rate dt frac
    (x.1 = Code.OK → c.satTake = some x.2.2.1) ∧
    (c.satTake = none → x.1 = Code.BAD_ARGUMENT ∨ x.1 = Code.ABSENT ∨ x.1 = Code.RESIZE_FULL ∨ x.1 = Code.TOO_LATE ∨ x.1 = Code.SAT_FULL)) ∧
  (∀ (c : Chip) (now : Nat), getBits (c.getUnit now A.FT_STATUS).1 16 11 = ((List.range 1024).filter c.satLive).length)

/-- R46: a step of device time is refused outside the range of DT:frac and where the mode or a live keyed entry forbids it; otherwise device time
moves to its target. The firmware makes the request in Boot, which runs no command word (entry 180).
R47, R48, R464: a synchronisation word shows a replica's error. FT_SKEW_MAX takes the largest (it holds at its largest value: entry 175); an
error beyond 0.75 ns raises FT_REPLICA_SKEW against the island; a boundary that is Opening counts the words within bound one after the other.
R42, R44, R49, R62: a PPS_IN edge is stamped, less its delay, and where it is the source the servo takes its distance from the whole second; a
measurement shows in FT_OFFSET, its rate stays within FT_SLEW_MAX, HOLDOVER ends with it, and LOCKED where it is beyond 100 ns. A source without
input for 10 s is lost; an offset held within 100 ns for 10 s locks. PPS_OUT rises. The rate a servo takes is free (entry 176). -/
def Obligations.DeviceTimeEvents : Prop :=
  (∀ (s : State),
    let c := s.found
    let now := s.time
    let d := c.filled now A.FT_STEP_CTRL [1]
    let t := d.stepTarget now
    let held := ∃ n, n < 1024 ∧ c.satLive n = true ∧ c.satKeyed n = true
    s.writable A.FT_STEP_CTRL = true ∨ (c.mode = Mode.boot ∧ c.pwr.fwRuns = true) →
    (t < 0 ∨ 2 ^ 80 ≤ t → exec .timeStep s = s.wrote Code.BAD_ARGUMENT d) ∧
    (0 ≤ t → t < 2 ^ 80 → stepAdmitted c.mode now t.toNat = false → exec .timeStep s = s.wrote Code.TIME_LOCKED d) ∧
    (0 ≤ t → t < 2 ^ 80 → t < now → stepAdmitted c.mode now t.toNat = true → held → exec .timeStep s = s.wrote Code.TIME_LOCKED d) ∧
    (0 ≤ t → t < 2 ^ 80 → stepAdmitted c.mode now t.toNat = true → ¬(t < now ∧ held) →
      exec .timeStep s = s.wrote Code.OK { d with ft := { d.ft with stepTo := some t.toNat } } ∧
      (s.chip.calm = true → ∃ u, exec .timeStep s = .next u ∧ u.time = t.toNat))) ∧
  (∀ (s : State) (i : Fin 25) (dt : Word) (frac : BitVec 16) (err : BitVec 32), i.val < 24 →
    let c := s.found
    let u := s.reach (ns dt.toNat + frac.toNat)
    let b := c.bound i
    let m := c.get A.FT_SKEW_MAX ⟨0, 0, 16⟩
    let shown := (c.replicaSet u.time i err.toNat).set A.FT_SKEW_MAX ⟨0, 0, 16⟩ (min 0xFFFF (max err.toNat m))
    let counted := shown.setBound i { b with good := if skewBound < err.toNat then 0 else b.good + 1 }
    let run := exec (.timeSyncWord i dt frac err) s
    (((c.replicaSet u.time i err.toNat).replica i).err.natAbs = err.toNat) ∧
    (b.st = 0 → c.pwrState (targetDomain i) = 2 → err.toNat ≤ skewBound → run = .next (u.done shown)) ∧
    (b.st = 0 → c.pwrState (targetDomain i) = 2 → skewBound < err.toNat →
      run = .next (u.done (shown.raise u.time Flt.FT_REPLICA_SKEW i 63 0 0))) ∧
    (b.st = 3 → err.toNat ≤ skewBound → run = .next (u.done counted)) ∧
    (b.st = 3 → skewBound < err.toNat → run = .next (u.done (counted.raise u.time Flt.FT_REPLICA_SKEW i 63 0 0))) ∧
    (b.st = 2 → c.pwrState (targetDomain i) = 1 → run = .next (u.done counted))) ∧
  ((∀ (s : State),
    let c := s.found
    let now := s.time
    let st := stamp now - 0x2000 * (c.rd A.FT_PPS_IN_DELAY).toNat
    let d := c.wr A.FT_PPS_IN_STAMP (dtWord st)
    let state := c.get A.FT_STATUS F.FT_STATUS_STATE
    let lost : Chip := { c with ft := { c.ft with within := none } }
    (c.source ≠ 3 → c.source ≠ 5 → exec .ppsInEdge s = .next (s.done d)) ∧
    (c.source = 3 ∨ c.source = 5 → exec .ppsInEdge s = .next (s.done (d.servoInput now (secondOffset st)))) ∧
    (c.flag A.FT_CTRL F.FT_CTRL_PPS_OUT_EN = true → c.pwr.ppsDue < c.ppsTime now →
      exec .ppsOutEdge s = .next (s.done { c with pwr := { c.pwr with ppsOut := true, ppsDue := c.ppsTime now } })) ∧
    (c.source ≠ 0 → state ≠ 3 → c.ft.srcSince + ns 10000000000 ≤ now →
      exec .sourceLossTimeout s = .next (s.done ((lost.timeState now 3).raise now Flt.FT_SOURCE_LOST 24 63 0 0))) ∧
    (c.source ≠ 0 → state ≠ 3 → now < c.ft.srcSince + ns 10000000000 → exec .sourceLossTimeout s = .next (s.done c)) ∧
    (∀ t, c.ft.within = some t → c.source ≠ 0 → state = 1 → t + ns 10000000000 ≤ now →
      exec .servoLock s = .next (s.done (c.timeState now 2))) ∧
    (∀ t, c.ft.within = some t → now < t + ns 10000000000 → exec .servoLock s = .next (s.done c))) ∧
  (∀ (c : Chip) (now : Nat) (o : Int),
    let d := c.servoInput now o
    let state := c.get A.FT_STATUS F.FT_STATUS_STATE
    d.rd A.FT_OFFSET = BitVec.ofInt 64 o ∧ d.ft.srcSince = now ∧ d.ft.rate.natAbs ≤ c.slewMax ∧
    (o.natAbs ≤ ns 100 → d.ft.within = some (c.ft.within.getD now)) ∧ (ns 100 < o.natAbs → d.ft.within = none) ∧
    d.get A.FT_STATUS F.FT_STATUS_STATE = if state = 3 ∨ (state = 2 ∧ ns 100 < o.natAbs) then 1 else state) ∧
  (∀ (c : Chip) (now st : Nat), st < 4 → (c.timeState now st).get A.FT_STATUS F.FT_STATUS_STATE = st))

/-! ### The Memory Complex (spec/14_memory_complex.md) -/

/-- R384, R386, R387: decoding a word by the four syndromes of what its check symbols differ by. All zero is clean, the poison mark is marked,
and the syndromes of an error of value `v` in the one symbol of coefficient position `pos` correct exactly that symbol; the mark's syndromes
are those of no such error.
R394: the channel and the channel word of an engine's word; consecutive words of a group of four, and words 4
apart, lie on different channels, and the channel and channel word name one word.
R386, R389, R390, R397: what a read of a word of a channel or of an on-die array delivers and leaves. A clean word is delivered as it stands;
a corrected one is counted and written back clean; one that bears the mark is poisoned and counted; an uncorrectable one is logged, marked and
counted, and raises its deferred fault against the slice; another word's difference never changes. -/
def Obligations.StitchCode : Prop :=
  ((∀ (r : BitVec 32) (pos v : Nat), pos < 36 → 0 < v → v < 256 → (∀ i, i < 4 → syndrome r i = gfMul v (gfPow (i * pos))) →
    decodeWord r = .corrected pos v) ∧
  (∀ (pos v : Nat), pos < 36 → 0 < v → v < 256 → ¬∀ i, i < 4 → syndrome poisonMark i = gfMul v (gfPow (i * pos))) ∧
  (∀ (r : BitVec 32), (∀ i, i < 4 → syndrome r i = 0) → decodeWord r = .clean) ∧
  (∀ (r : BitVec 32) (pos v : Nat), decodeWord r = .corrected pos v → pos < 36 ∧ v = syndrome r 0 ∧
    ∀ i, i < 4 → syndrome r i = gfMul v (gfPow (i * pos))) ∧
  decodeWord poisonMark = .marked) ∧
  ((∀ (e w : Nat), w < 2 ^ 23 → qdrChannel e w = 4 * e + ((w % 4) ^^^ (w / 4 % 4)) ∧ qdrChannelWord w = w / 4) ∧
  (∀ (e w : Nat), e < 2 → w < 2 ^ 23 → qdrChannel e w < 8 ∧ qdrChannel e w / 4 = e ∧ qdrChannelWord w < 2 ^ 21 ∧
    qdrWordOf (qdrChannel e w) (qdrChannelWord w) = w) ∧
  (∀ (e w : Nat), (w % 4 ≠ 3 → qdrChannel e (w + 1) ≠ qdrChannel e w) ∧ qdrChannel e (w + 4) ≠ qdrChannel e w) ∧
  (∀ (e w v : Nat), w < 2 ^ 23 → v < 2 ^ 23 → qdrChannel e w = qdrChannel e v → qdrChannelWord w = qdrChannelWord v → w = v)) ∧
  (∀ (c : Chip) (now ch cw a w source slice : Nat),
    let q := c.readChan now ch cw source slice
    let m := c.readSram now a w source slice
    (decodeWord (c.qres ch cw) = .clean → q = (false, c)) ∧
    (decodeWord (c.qres ch cw) = .marked → q = (true, c.inc (A.MC_POISON_SEEN ch))) ∧
    (∀ pos v, decodeWord (c.qres ch cw) = .corrected pos v → q.1 = false ∧ q.2.qres ch cw = 0 ∧
      rdByte q.2.mem.qdr (qdrByte (ch / 4) (qdrWordOf ch cw) + (pos - 4)) =
        rdByte c.mem.qdr (qdrByte (ch / 4) (qdrWordOf ch cw) + (pos - 4)) ^^^ (if pos < 4 then 0 else BitVec.ofNat 8 v)) ∧
    (decodeWord (c.qres ch cw) = .uncorrectable → q = (true,
      (((((c.logQdr now ch cw (c.qPort ch) source (c.qres ch cw)).setQres ch cw poisonMark).inc (A.MC_UNCORRECTED ch)).inc
        (A.MC_WRITEBACKS ch)).raise now Flt.MC_QDR_UE 22 (40 + ch) slice 0))) ∧
    (∀ k x, (k ≠ ch ∨ x ≠ cw) → x < 2 ^ 21 → cw < 2 ^ 21 → q.2.qres k x = c.qres k x) ∧
    (decodeWord (c.sram a w) = .clean → m = (false, c)) ∧
    (decodeWord (c.sram a w) = .marked → m = (true, c.inc (A.MC_SRAM_ARRAY a + 16))) ∧
    (∀ pos v, decodeWord (c.sram a w) = .corrected pos v → m.1 = false ∧ m.2.sram a w = 0) ∧
    (decodeWord (c.sram a w) = .uncorrectable → m = (true,
      (((((c.logSram now a w source (c.sram a w)).setSram a w poisonMark).inc (A.MC_SRAM_ARRAY a + 8)).inc
        (A.MC_SRAM_ARRAY a + 24)).raise now Flt.MC_SRAM_UE (arrayIsland a) (arrayDomain a) slice 0))) ∧
    (∀ b x, (b ≠ a ∨ x ≠ w) → x < 2 ^ 24 → w < 2 ^ 24 → m.2.sram b x = c.sram b x))

/-- R396-R398, R400, R403: training that ends makes a channel READY, its words zeroed unless its edge alone was reset, its ports in service but
for a DISABLED one (with both DISABLED it does not end: entry 218); a retrain that finds less than
15 ps of margin takes its port out of service; a port that trains alone returns, or is DISABLED after three attempts, and with it, where the
other is DISABLED already, the channel fails; a scrubber reads its next word; a channel's settings are written outside READY. -/
def Obligations.MemoryEvents : Prop :=
  ∀ (s : State) (ch : QdrNo) (port : Fin 2) (pin : Fin 128) (ps : BitVec 8) (fails : Fin 4) (upset : BitVec 32) (v : Word),
    let c := s.found
    let now := s.time
    let st := A.MC_STATUS ch
    let state := c.get st F.MC_STATUS_STATE
    let up (d : Chip) (p : Nat) : Chip := if d.portDisabled ch p = true then d else d.setQPort ch p true 0
    (state = 1 → c.get (A.CP_PWR_STATUS (40 + ch)) F.CP_PWR_STATUS_STATE ≠ 0 → ¬(c.portDisabled ch 0 = true ∧ c.portDisabled ch 1 = true) →
      let d := if c.keepsData ch then c else c.zeroChannelBytes ch
      let e := ((d.setKeep ch false).set st F.MC_STATUS_STATE 2).showMargin ch port pin ps.toNat
      exec (.channelTrained ch port pin ps) s =
        .next (s.done ((up (up e 0) 1).wr (A.MC_SCRUB_POS ch) 0))) ∧
    (c.qReady ch = true → c.portUp ch port = true →
      let d := (c.showMargin ch port pin ps.toNat).inc (A.MC_RETRAINS ch)
      exec (.qdrRetrain ch port pin ps) s = .next (s.done (if ps.toNat < 15 then d.portOut ch port else d))) ∧
    (mget 0 c.mem.qtrain (2 * ch.val + port.val) = 1 → state = 2 →
      let d := c.add (A.MC_RETRAIN_FAILS ch) fails
      let out := (d.setQPort ch port false 2).raise now Flt.MC_PORT_DOWN 22 (40 + ch) 0 (BitVec.ofNat 64 (pin.val + 128 * port.val))
      (fails.val < 3 → exec (.portTrainingEnd ch port fails pin ps) s =
        .next (s.done (((d.setQPort ch port true 0).showMargin ch port pin ps.toNat).inc (A.MC_RETRAINS ch)))) ∧
      (fails.val = 3 → mget 0 c.mem.qtrain (2 * ch.val + (1 - port.val)) ≠ 2 →
        exec (.portTrainingEnd ch port fails pin ps) s = .next (s.done out)) ∧
      (fails.val = 3 → mget 0 c.mem.qtrain (2 * ch.val + (1 - port.val)) = 2 →
        exec (.portTrainingEnd ch port fails pin ps) s = .next (s.done (out.raise now Flt.MC_CHANNEL_FAIL 22 (40 + ch) 0 0)))) ∧
    (c.qReady ch = true →
      let w := c.get (A.MC_SCRUB_POS ch) F.MC_SCRUB_POS_WORD
      let d := (((c.setQres ch w (c.qres ch w ^^^ upset)).readChan now ch w 1 0).2.inc (A.MC_SCRUB_READS ch)).set (A.MC_SCRUB_POS ch)
        F.MC_SCRUB_POS_WORD ((w + 1) % 2 ^ 21)
      (w ≠ 2 ^ 21 - 1 → exec (.qdrScrub ch upset) s = .next (s.done d)) ∧
      (w = 2 ^ 21 - 1 → exec (.qdrScrub ch upset) s =
        .next (s.done (d.set st F.MC_STATUS_SCRUB_PASSES (d.get st F.MC_STATUS_SCRUB_PASSES + 1))))) ∧
    (let p := A.MC_SRAM_SCRUB_POS
     let a := c.get p F.MC_SRAM_SCRUB_POS_ARRAY
     let w := c.get p F.MC_SRAM_SCRUB_POS_WORD
     c.scrubbed a = true → a < 80 →
     let d := ((c.setSram a w (c.sram a w ^^^ upset)).readSram now a w 1 0).2
     (w + 1 < arrayWords a → exec (.sramScrub upset) s =
       .next (s.done ((d.set p F.MC_SRAM_SCRUB_POS_ARRAY a).set p F.MC_SRAM_SCRUB_POS_WORD (w + 1)))) ∧
     (arrayWords a ≤ w + 1 → exec (.sramScrub upset) s =
       .next (s.done ((d.set p F.MC_SRAM_SCRUB_POS_ARRAY ((a + 1) % 80)).set p F.MC_SRAM_SCRUB_POS_WORD 0)))) ∧
    (s.writable (A.MC_CFG ch) = true →
      let a := A.MC_CFG ch
      let d := c.filled now a [v]
      let ok := 5 ≤ d.get a F.MC_CFG_RD_LAT ∧ d.get a F.MC_CFG_RD_LAT ≤ 12 ∧ 3 ≤ d.get a F.MC_CFG_WR_LAT ∧ d.get a F.MC_CFG_WR_LAT ≤ 8 ∧
        10 ≤ d.get a F.MC_CFG_RETRAIN_MS ∧ d.get a F.MC_CFG_RETRAIN_MS ≤ 10000 ∧ 60 ≤ d.get a F.MC_CFG_SCRUB_S ∧ d.get a F.MC_CFG_CE_STORM ≠ 0
      let same := getBits (c.rd a) 0 9 = getBits (d.rd a) 0 9
      (¬ok → exec (.qdrCfgWrite ch v) s = s.wrote Code.BAD_ARGUMENT c) ∧
      (ok → same → exec (.qdrCfgWrite ch v) s = s.wrote Code.OK d) ∧
      (ok → ¬same → state = 2 → exec (.qdrCfgWrite ch v) s = s.wrote Code.CHANNEL_READY c) ∧
      (ok → ¬same → state = 1 → exec (.qdrCfgWrite ch v) s = s.wrote Code.OK (d.trainStart ch)) ∧
      (ok → ¬same → state ≠ 1 → state ≠ 2 → exec (.qdrCfgWrite ch v) s = s.wrote Code.OK d))

/-! ### The Sampler, billing, telemetry (spec/16_counters_billing.md) -/

/-- R433, R434, R436: a stamped count reaches the Sampler, once the windows that are due have closed: a port's count enters the bandwidth window it is
stamped in, or the open one as LATE; a slice's count enters its billing minute likewise.
R433-R440: the windows that are due close and their records enter the stream; a window or a minute that is not due changes nothing; a minute
writes 8,192 records, or, with no room for them in its ring, is merged with the next, counted, and raises CP_BILL_MERGE; PERIOD_MS of the stream
brings a state word.
R431, R439: the writes of the Sampler's registers. A TAIL moves only over records written; CP_SMP_MODE gives a dedicated counter that exists its
mode, or shows it, with the code of R431. -/
def Obligations.Records : Prop :=
  (∀ (s : State) (r : Report) (rs : List Report),
    let now := s.time
    let d := s.found.bwWindowClose now |>.billMinuteClose now
    let c : Chip := { d with smp := { d.smp with reports := rs } }
    let at_ := dtOf r.stamp
    let x := c.smp
    let late := at_ < (c.rd A.CP_BILL_OPEN).toNat
    let acc (b : Bool) (y : BillAcc) : BillAcc := { y.add r.kind r.n with late := y.late || b }
    s.found.smp.reports = r :: rs →
    (r.kind ≤ 1 → exec .countReport s = .next (s.done (c.bwCount (r.kind == 0) r.key r.n at_))) ∧
    (r.kind ≤ 1 → bwOn x.bwCfg = true → natBits (bwMask x.bwCfg) r.key 1 = 1 → x.bwZero ≤ at_ →
      (x.bwFrom ≤ at_ → at_ < c.bwEnd → c.bwCount (r.kind == 0) r.key r.n at_ = { c with smp := { x with
        bwAcc := mset BwAcc.init x.bwAcc r.key ((mget BwAcc.init x.bwAcc r.key).add (r.kind == 0) r.n) } }) ∧
      (x.bwFrom ≤ at_ → c.bwEnd ≤ at_ → c.bwCount (r.kind == 0) r.key r.n at_ = { c with smp := { x with
        bwAcc := mset BwAcc.init x.bwAcc (r.key + 16) ((mget BwAcc.init x.bwAcc (r.key + 16)).add (r.kind == 0) r.n) } }) ∧
      (at_ < x.bwFrom → (c.bwCount (r.kind == 0) r.key r.n at_).smp.bwAcc = mset BwAcc.init x.bwAcc r.key
        { (mget BwAcc.init x.bwAcc r.key).add (r.kind == 0) r.n with late := true })) ∧
    (2 ≤ r.kind → ¬late → x.billEnd ≤ at_ → exec .countReport s = .next (s.done
      { c with smp := { x with billNext := mupd BillAcc.init x.billNext r.key fun y => y.add r.kind r.n } })) ∧
    (2 ≤ r.kind → ¬late → at_ < x.billEnd → exec .countReport s = .next (s.done
      { c with smp := { x with bill := mupd BillAcc.init x.bill r.key (acc false) } })) ∧
    (2 ≤ r.kind → late → exec .countReport s = .next (s.done
      (let u := c.inc A.CP_BILL_LATE
       { u with smp := { u.smp with bill := mupd BillAcc.init u.smp.bill r.key (acc true) } })))) ∧
  (∀ (s : State),
    let c := s.found
    let now := s.time
    let x := c.smp
    let t := dtOf now
    exec .bwWindowClose s = .next (s.done ((Chip.bwCloseDue t 16400 c).tlmSend now)) ∧
    (bwOn x.bwCfg = true → t < c.bwEnd + 100000 → Chip.bwCloseDue t 16400 c = c) ∧
    (bwOn x.bwCfg = true → c.bwEnd + 100000 ≤ t → t < c.bwEnd + bwPeriod x.bwCfg + 100000 → x.bwTeff = 0 →
      Chip.bwCloseDue t 16400 c = c.bwClose ∧
      (∀ p, bwPorts x.bwCfg = [p] → (c.get A.CP_BW_HEAD F.CP_BW_HEAD_V + 1) % 16384 ≠ c.get A.CP_BW_TAIL F.CP_BW_TAIL_V →
        c.bwClose.get A.CP_BW_HEAD F.CP_BW_HEAD_V = (c.get A.CP_BW_HEAD F.CP_BW_HEAD_V + 1) % 16384)) ∧
    (c.billing = true → exec .billMinuteClose s = .next (s.done ((Chip.billCloseDue now 70000 c).tlmSend now))) ∧
    (t < x.billEnd + 100000 → Chip.billCloseDue now 70000 c = c) ∧
    (x.billEnd + 100000 ≤ t → t < x.billEnd + minuteNs + 100000 → Chip.billCloseDue now 70000 c = Chip.billClose now c) ∧
    (c.billFree < 8192 → Chip.billClose now c =
      (let d := (c.billFold.inc A.CP_BILL_MERGES).raise now Flt.CP_BILL_MERGE 24 63 0 0
       { d with smp := { d.smp with billEnd := x.billEnd + minuteNs } })) ∧
    (8192 ≤ c.billFree → (Chip.billClose now c).smp.recSeq = x.recSeq + 8192 ∧ (Chip.billClose now c).smp.billNext = [] ∧
      (Chip.billClose now c).smp.billEnd = x.billEnd + minuteNs ∧ (Chip.billClose now c).rd A.CP_BILL_OPEN = BitVec.ofNat 64 x.billEnd) ∧
    (c.flag A.CP_TLM_CFG F.CP_TLM_CFG_ENABLE = true → 4 ≤ c.get A.CP_TLM_CFG F.CP_TLM_CFG_CONTENT → x.stateAt ≤ now →
      let w := c.stateWord now
      let d : Chip := { w.2 with smp := { w.2.smp with
        stateAt := now + ns (1000000 * c.get A.CP_TLM_CFG F.CP_TLM_CFG_PERIOD_MS) } }
      exec .telemetryStatePeriod s = .next (s.done ((d.tlmItem 3 w.1).tlmSend now)))) ∧
  (∀ (s : State) (v : Word) (addr : BitVec 40) (edge : Bool),
    let c := s.found
    let now := s.time
    let st (set : Bool) := smpCheck addr.toNat set
    let shown (e : Bool) (st : Status) : Word := BitVec.ofNat 64 (addr.toNat + (if e then 1 else 0) * 2 ^ 40 + st * 2 ^ 48)
    (s.writable A.CP_BW_TAIL = true →
      let ok := tailOk 16384 (c.get A.CP_BW_HEAD F.CP_BW_HEAD_V) (c.get A.CP_BW_TAIL F.CP_BW_TAIL_V) (getBits v 0 14)
      (ok = true → exec (.bwTailWrite v) s = s.wrote Code.OK (c.filled now A.CP_BW_TAIL [v])) ∧
      (ok = false → exec (.bwTailWrite v) s = s.wrote Code.BAD_ARGUMENT c)) ∧
    (s.writable A.CP_BILL_TAIL = true →
      let ok := tailOk 32768 (c.get A.CP_BILL_HEAD F.CP_BILL_HEAD_V) (c.get A.CP_BILL_TAIL F.CP_BILL_TAIL_V) (getBits v 0 15)
      (ok = true → exec (.billTailWrite v) s = s.wrote Code.OK (c.filled now A.CP_BILL_TAIL [v])) ∧
      (ok = false → exec (.billTailWrite v) s = s.wrote Code.BAD_ARGUMENT c)) ∧
    (s.writable A.CP_SMP_MODE = true →
      (st edge = Code.OK → exec (.smpModeSet addr edge) s = s.wrote Code.OK
        (({ c with smp := { c.smp with edge := mset false c.smp.edge addr.toNat edge } } : Chip).wr A.CP_SMP_MODE (shown edge Code.OK))) ∧
      (st edge ≠ Code.OK → exec (.smpModeSet addr edge) s = s.wrote Code.OK (c.wr A.CP_SMP_MODE (shown edge (st edge)))) ∧
      (st false = Code.OK → exec (.smpModeLoad addr) s = s.wrote Code.OK
        (c.wr A.CP_SMP_MODE (shown (mget false c.smp.edge addr.toNat) Code.OK))) ∧
      (st false ≠ Code.OK → exec (.smpModeLoad addr) s = s.wrote Code.OK (c.wr A.CP_SMP_MODE (shown false (st false))))))

/-! ### Modes, lifecycle, power, faults (spec/17_modes_lifecycle.md, spec/18_reset_power_faults.md) -/

/-- R444, R449, R450, Table 17-5: what a MODE word asks for: BAD_ARGUMENT for no mode, OK for the mode the adapter is in, MODE_REFUSED for what Table
17-5 does not list (nothing leaves Off, Held, Boot or Recovery so), else the mode entered: Degraded Service for Service while a fatal-island
fence holds, Recovery for what leaves Quarantine after a fatal-device fault. Standby is waited for, at most 100 ms.
R453, R454: Drain is done when no packet of a selected source remains, or forced at TIMEOUT_MS with what remains journaled; the wait for Standby
ends at 100 ms; one millisecond after Standby every domain but AO's and the keepalive group's powers down; a state word is sent every
KEEPALIVE_MS; an edge of WAKE_GPIO wakes.
R427, R451, R454, R455, R461, R487: firmware that verifies starts, the preferred copy first, and powers the adapter; a VDD_CORE regulator in
neither format raises CP_SUPPLY_FAULT, a watchdog reset CP_WATCHDOG; with neither copy sound the adapter stays in Boot. Self-test ends once the
channels that passed are READY and every island that opens has its 16 synchronisation words: it opens what passed and enters Provision, from Boot
unless AO or MR failed, and reports what failed. ACTIVATE restarts the Control Plane; a restart ends with the copy that verifies.
R427, R457: the security version only rises and never above that of the copy that runs; key 0 is revoked only while key 1 signs it; a state dump of
at most 1 MiB starts in Recovery or Diagnostic. -/
def Obligations.Lifecycle : Prop :=
  (∀ (c : Chip) (now m : Nat),
    (∀ k, k = Mode.off ∨ k = Mode.held ∨ k = Mode.boot ∨ k = Mode.recovery → c.mode = k → m ≠ k → 1 ≤ m → m ≤ 12 →
      c.modeRequest now m = (Code.MODE_REFUSED, false, c)) ∧
    (m = 0 ∨ 13 ≤ m → c.modeRequest now m = (Code.BAD_ARGUMENT, false, c)) ∧
    (1 ≤ m → m ≤ 12 → m = c.mode → c.modeRequest now m = (Code.OK, false, c)) ∧
    (c.mode = Mode.provision → c.loading = false → c.faultFenced = false →
      c.modeRequest now Mode.service = (Code.OK, false, c.enterMode now Mode.service)) ∧
    (c.mode = Mode.provision → c.loading = false → c.faultFenced = true →
      c.modeRequest now Mode.service = (Code.OK, false, c.enterMode now Mode.degraded)) ∧
    (c.mode = Mode.provision → c.loading = true → c.modeRequest now Mode.service = (Code.MODE_REFUSED, false, c)) ∧
    (c.mode = Mode.service → c.get A.CP_DRAIN_CFG F.CP_DRAIN_CFG_SOURCES ≠ 0 →
      c.modeRequest now Mode.drain = (Code.OK, false, c.enterMode now Mode.drain)) ∧
    (c.mode = Mode.service → c.modeRequest now Mode.provision = (Code.MODE_REFUSED, false, c) ∧
      c.modeRequest now Mode.standby = (Code.MODE_REFUSED, false, c)) ∧
    (c.mode = Mode.quarantine → c.flag A.CP_MODE F.CP_MODE_DEVICE_FAULT = true →
      c.modeRequest now Mode.service = (Code.OK, false, c.enterMode now Mode.recovery)) ∧
    (c.mode = Mode.quarantine → c.flag A.CP_MODE F.CP_MODE_DEVICE_FAULT = false →
      c.modeRequest now Mode.provision = (Code.OK, false, c.enterMode now Mode.provision)) ∧
    (c.mode = Mode.service ∨ c.mode = Mode.degraded → c.modeRequest now Mode.update = (Code.OK, false, c.enterMode now Mode.update)) ∧
    (c.mode = Mode.provision ∨ c.mode = Mode.service ∨ c.mode = Mode.degraded ∨ c.mode = Mode.drain ∨ c.mode = Mode.update ∨
      c.mode = Mode.diagnostic → c.modeRequest now Mode.quarantine = (Code.OK, false, c.enterMode now Mode.quarantine)) ∧
    (c.mode = Mode.diagnostic → c.modeRequest now Mode.provision = (Code.OK, false, c.enterMode now Mode.provision)) ∧
    (c.mode = Mode.provision → c.standbyOk = true → c.pwr.standby = none → c.modeRequest now Mode.standby =
      (Code.OK, true, ({ c with pwr := { c.pwr with standby := some (now + ns 100000000) } } : Chip).standbyEnter now)) ∧
    (c.mode = Mode.provision → c.standbyOk = false → c.modeRequest now Mode.standby = (Code.MODE_REFUSED, false, c))) ∧
  (∀ (s : State) (v : Word) (level : Bool),
    let c := s.found
    let now := s.time
    let a := A.CP_DRAIN_STATUS
    (s.writable A.CP_DRAIN_CFG = true →
      let d := c.filled now A.CP_DRAIN_CFG [v]
      let ms := d.get A.CP_DRAIN_CFG F.CP_DRAIN_CFG_TIMEOUT_MS
      (ms = 0 → exec (.drainCfgWrite v) s = s.wrote Code.BAD_ARGUMENT c) ∧
      (ms ≠ 0 → c.mode = Mode.drain → exec (.drainCfgWrite v) s = s.wrote Code.MODE_REFUSED c) ∧
      (ms ≠ 0 → c.mode ≠ Mode.drain → exec (.drainCfgWrite v) s = s.wrote Code.OK d)) ∧
    (c.mode = Mode.drain → c.drainLeft = 0 →
      exec .drained s = .next (s.done (c.setFlag a F.CP_DRAIN_STATUS_DRAINED true))) ∧
    (c.mode = Mode.drain → c.drainLeft ≠ 0 → exec .drained s = .next (s.done c)) ∧
    (let ms := c.get A.CP_DRAIN_CFG F.CP_DRAIN_CFG_TIMEOUT_MS
     c.mode = Mode.drain → c.flag a F.CP_DRAIN_STATUS_DRAINED = false → c.pwr.drainAt + ns (1000000 * ms) ≤ now →
     exec .drainTimeout s = .next (s.done
       ((((c.setFlag a F.CP_DRAIN_STATUS_DRAINED true).setFlag a F.CP_DRAIN_STATUS_FORCED true).set a F.CP_DRAIN_STATUS_LEFT c.drainLeft).journal
         now { JEvent.base with event := 0x10, level := 0, a0 := BitVec.ofNat 64 c.drainLeft, a1 := BitVec.ofNat 64 ms,
                                w4 := BitVec.ofNat 64 (c.get A.CP_DRAIN_CFG F.CP_DRAIN_CFG_SOURCES) }))) ∧
    (∀ t, c.pwr.standby = some t → t ≤ now → exec .standbyWorkTimeout s = .next (s.done
      (({ c with pwr := { c.pwr with standby := none }, due := [Due.modeEnd Code.MODE_REFUSED] } : Chip).pump now))) ∧
    (∀ t, c.pwr.standbyDown = some t → t ≤ now → c.mode = Mode.standby →
      let d := (offOrder.filter fun d => d != 34 + c.get A.CP_STANDBY_CFG F.CP_STANDBY_CFG_GROUP).foldl (Chip.cutOff now) c
      exec .standbyPowerDown s = .next (s.done { d with pwr := { d.pwr with standbyDown := none, rampQ := [] } })) ∧
    (c.mode = Mode.standby → c.pwr.keepAt ≤ now →
      let g := c.get A.CP_STANDBY_CFG F.CP_STANDBY_CFG_GROUP
      let d : Chip := { c with pwr := { c.pwr with keepAt := now + ns (1000000 * c.get A.CP_STANDBY_CFG F.CP_STANDBY_CFG_KEEPALIVE_MS) } }
      ((∀ k, k < 4 → c.link (4 * g + k) = false) → exec .keepalive s = .next (s.done d)) ∧
      (∀ k, k < 4 → c.link (4 * g + k) = true → (∀ j, j < k → c.link (4 * g + j) = false) →
        exec .keepalive s = .next (s.done ((d.stateWord now).2.tlmFrame now (4 * g + k) [(3, (d.stateWord now).1)])))) ∧
    (let n := c.get A.CP_STANDBY_CFG F.CP_STANDBY_CFG_WAKE_GPIO
     let d : Chip := { c with pwr := { c.pwr with
       gpioIn := if level then c.pwr.gpioIn ||| 2 ^ n else c.pwr.gpioIn &&& (65535 - 2 ^ n) } }
     let wakes := natBits c.pwr.gpioIn n 1 ≠ level.toNat ∧ c.flag A.CP_STANDBY_CFG F.CP_STANDBY_CFG_WAKE_EN = true
       ∧ c.flag A.CP_STANDBY_CFG F.CP_STANDBY_CFG_WAKE_LEVEL = level
     (wakes → exec (.wakeGpio level) s = .next (s.done d.wake)) ∧ (¬wakes → exec (.wakeGpio level) s = .next (s.done d)))) ∧
  (∀ (s : State) (isl : BitVec 25) (qdr : BitVec 8) (eng : BitVec 2),
    let c := s.found
    let now := s.time
    let b := c.bootStart now
    let preferred := b.verifies b.flash.pref
    let other := b.verifies (1 - b.flash.pref)
    let starts (k : Nat) : Chip := (b.fwStart now k).powerUp
    let volts (e : Chip) : Chip := if c.pwr.vout = 0 ∨ c.pwr.vout = 2 then e else e.raise now Flt.CP_SUPPLY_FAULT 24 63 0 0
    let runs (k : Nat) : Chip :=
      let e := volts (starts k)
      if e.pwr.wdogDue then ({ e with pwr := { e.pwr with wdogDue := false } } : Chip).raise now Flt.CP_WATCHDOG 24 63 0 0 else e
    let fresh := b.pwr.warmBoot = false ∨ b.pwr.fwStale = true
    (c.mode = Mode.boot → c.pwr.fwRuns = false →
      (fresh → preferred = true → exec .firmwareStart s = .next (s.done (runs b.flash.pref))) ∧
      (fresh → preferred = false → other = true → exec .firmwareStart s = .next (s.done (runs (1 - b.flash.pref)))) ∧
      (fresh → preferred = false → other = false → exec .firmwareStart s = .next (s.done (b.bootFailed now))) ∧
      (¬fresh → exec .firmwareStart s = .next (s.done (runs (b.get A.CP_BOOT F.CP_BOOT_COPY))))) ∧
    (c.pwr.testing = true →
      (∀ k, k < 8 → c.pwrState (40 + k) = 2 → natBits qdr.toNat k 1 = 0 → c.get (A.MC_STATUS k) F.MC_STATUS_STATE = 2) →
      (∀ t, t < 24 → c.testOpens isl.toNat qdr.toNat eng.toNat t = true → 16 ≤ (c.bound t).good) →
      let d : Chip := { c with pwr := { c.pwr with testing := false, warmBoot := false } }
      let e := ((d.set A.CP_SELFTEST F.CP_SELFTEST_FAILED isl.toNat).set A.CP_SELFTEST F.CP_SELFTEST_QDR_FAILED qdr.toNat).set A.CP_SELFTEST
        F.CP_SELFTEST_ENGINE_FAILED eng.toNat
      let opened := fenceTargets.foldl (fun (c : Chip) t =>
        if c.testOpens isl.toNat qdr.toNat eng.toNat t = true then c.openNow now t else c) e
      let entered := opened.enterMode now Mode.provision
      let woken : Chip := { entered with due := entered.due ++ [Due.modeEnd Code.OK] }
      let ends (f : Chip) : Prop := exec (.selfTestEnd isl qdr eng) s = .next (s.done (f.testFailures now isl.toNat qdr.toNat eng.toNat))
      (natBits isl.toNat 23 1 = 0 → natBits isl.toNat 24 1 = 0 → opened.mode = Mode.boot → ends entered) ∧
      (natBits isl.toNat 23 1 = 1 ∨ natBits isl.toNat 24 1 = 1 → opened.mode = Mode.boot → ends opened) ∧
      (opened.mode = Mode.standby → ends woken)) ∧
    (s.writable A.CP_FW_CTRL = true →
      let d := c.filled now A.CP_FW_CTRL [1]
      let admits := c.mode = Mode.provision ∨ c.mode = Mode.update ∨ c.mode = Mode.diagnostic
      (admits → exec .activate s = s.wrote Code.OK
        { d.setFlag A.CP_FW_CTRL F.CP_FW_CTRL_FW_BUSY true with pwr := { d.pwr with fwRuns := false } }) ∧
      (¬admits → exec .activate s = s.wrote Code.MODE_REFUSED c)) ∧
    (c.flag A.CP_FW_CTRL F.CP_FW_CTRL_FW_BUSY = true →
      let d := c.setFlag A.CP_FW_CTRL F.CP_FW_CTRL_FW_BUSY false
      (∀ k, d.pickCopy = some k → exec .fwRestartEnd s =
        .next (s.done ((((d.fwStart now k).bwWindowClose now).billMinuteClose now).pump now))) ∧
      (d.pickCopy = none → exec .fwRestartEnd s =
        .next (s.done (({ d with pwr := { d.pwr with fwRuns := true } } : Chip).bootFailed now))))) ∧
  (∀ (s : State) (v : BitVec 8) (e : EpNo),
    let c := s.found
    let now := s.time
    (s.writable A.CP_BOOT = true →
      let d := c.filled now A.CP_BOOT [v.zeroExtend 64 <<< 32]
      let k := c.filled now A.CP_BOOT [1 <<< 40]
      let shown (x : Chip) : Chip := x.setFlag A.CP_BOOT F.CP_BOOT_OTHER_VALID (x.verifies (1 - x.get A.CP_BOOT F.CP_BOOT_COPY))
      let raised := d.set A.CP_BOOT F.CP_BOOT_SVN_MIN (max v.toNat (d.get A.CP_BOOT F.CP_BOOT_SVN_MIN))
      let same := k.set A.CP_BOOT F.CP_BOOT_SVN_MIN (k.get A.CP_BOOT F.CP_BOOT_SVN_MIN)
      (v.toNat ≤ d.get A.CP_BOOT F.CP_BOOT_SVN → exec (.raiseSvn v) s = s.wrote Code.OK (shown raised)) ∧
      (d.get A.CP_BOOT F.CP_BOOT_SVN < v.toNat → exec (.raiseSvn v) s = s.wrote Code.BAD_ARGUMENT c) ∧
      (c.pwr.fwKey = 1 → exec .revokeKey0 s = s.wrote Code.OK (shown (same.setFlag A.CP_BOOT F.CP_BOOT_KEY0_REVOKED true))) ∧
      (c.pwr.fwKey ≠ 1 → exec .revokeKey0 s = s.wrote Code.BAD_ARGUMENT c)) ∧
    (s.writable A.CP_DUMP_CTRL = true →
      let d := c.filled now A.CP_DUMP_CTRL [BitVec.ofNat 64 (1 + 2 * e.val)]
      let admits := c.mode = Mode.recovery ∨ c.mode = Mode.diagnostic
      (d.dumpLen ≤ 2 ^ 20 → admits → exec (.dumpGo e) s = s.wrote Code.OK (d.setFlag A.CP_DUMP_CTRL F.CP_DUMP_CTRL_BUSY true)) ∧
      (d.dumpLen ≤ 2 ^ 20 → ¬admits → exec (.dumpGo e) s = s.wrote Code.MODE_REFUSED c) ∧
      (2 ^ 20 < d.dumpLen → exec (.dumpGo e) s = s.wrote Code.BAD_ARGUMENT c)))

/-- R449, R451, R460, R461, R483, R486, R491: the resets. A supply lost, restored, or a reset pin leaves the adapter in Off or Held with every register at
its Reset value, the cause recorded, device time 0, and fuses and flash kept; the release of reset enters Boot. A warm reset enters Boot again,
counted; the watchdog, which only a write of CP_WDOG holds off, causes one. -/
def Obligations.Resets : Prop :=
  ∀ (s : State) (pin : ResetPin) (v : Word),
    let c := s.found
    let now := s.time
    let zero (d : Chip) : Host.Outcome State Fault Refusal := .next { s.done d with time := 0 }
    exec .suppliesRemoved s =
      zero (({ c with tap := TapSt.init, pwr := { c.pwr with supplyOk := false, pwrOk := false } } : Chip).cold Mode.off 1) ∧
    (c.mode = Mode.off → exec .suppliesInRange s =
      zero (({ c with pwr := { c.pwr with supplyOk := true, rstN := false, pwrOk := false } } : Chip).cold Mode.held 1)) ∧
    (c.mode ≠ Mode.off →
      let p : PwrSt := { c.pwr with
        rstN := c.pwr.rstN && pin.cause != 2, pwrOk := c.pwr.pwrOk && pin.cause != 3, testMode := c.pwr.testMode || pin.cause == 6 }
      exec (.coldReset pin) s = zero (({ c with pwr := p } : Chip).cold Mode.held pin.cause)) ∧
    (∀ (m k : Nat), m < 16 → k < 16 → (c.cold m k).mode = m ∧ (c.cold m k).get A.CP_RESET_CAUSE F.CP_RESET_CAUSE_CAUSE = k ∧
      (c.cold m k).flash = c.flash ∧ (c.cold m k).mem = MemSt.init ∧ (c.cold m k).mills = [] ∧
      (∀ a, a ≠ A.CP_BOOT → a ≠ A.CP_MODE → a ≠ A.CP_RESET_CAUSE → (c.cold m k).rd a = Chip.init.rd a)) ∧
    (c.mode = Mode.held → c.pwr.supplyOk = true →
      let d : Chip := { c with pwr := { c.pwr with rstN := true, pwrOk := true, testMode := false } }
      exec .resetRelease s = .next (s.done
        (((d.set A.CP_MODE F.CP_MODE_PREVIOUS Mode.held).set A.CP_MODE F.CP_MODE_CURRENT Mode.boot).bootStart now))) ∧
    (Mode.held < c.mode → c.pwr.pwrOk = true → exec .supplyRangeExit s = .next (s.done (c.raise now Flt.CP_SUPPLY_FAULT 24 63 0 0))) ∧
    (s.writable A.CP_RESET_CTRL = true → exec .warmReset s = s.wrote Code.OK ((c.filled now A.CP_RESET_CTRL [1]).warmReset now 4)) ∧
    (s.writable A.CP_WDOG = true →
      let d := c.filled now A.CP_WDOG [v]
      let ms := d.get A.CP_WDOG F.CP_WDOG_TIMEOUT_MS
      (100 ≤ ms → ms ≤ 60000 → exec (.wdogWrite v) s =
        s.wrote Code.OK { d with pwr := { d.pwr with wdogAt := now + ns (1000000 * ms) } }) ∧
      ((ms < 100 ∨ 60000 < ms) → exec (.wdogWrite v) s = s.wrote Code.BAD_ARGUMENT c)) ∧
    (c.pwr.fwRuns = true → c.flag A.CP_WDOG F.CP_WDOG_ENABLE = true → c.pwr.wdogAt ≤ now →
      exec .watchdogExpiry s = .next (s.done { c.warmReset now 5 with pwr := { (c.warmReset now 5).pwr with wdogDue := true } }))

/-- R462-R467, R476: fences, island resets, power domains. FENCE begins a fence, RESET asks for a reset, of the targets that R462 admits; Fenced pays
what is owed, loses what Table 18-3 lists, switches a stopping domain off and performs a reset that waits; Opening ends in Open, and a ramp with
it; a rail without power good is switched off; a domain's request while it changes is kept; AUTO_REOPEN resets 10 ms after the fault.
R469-R474: clocks, voltage, temperature, the fault ring. A Mill's new clock stops its cores until it is in force; a voltage step moves a segment by
5 mV between 650 and 850 mV, at most one in 10 µs, at the limit lowering the Mill's clock; the thresholds throttle the Mills and trip; a PLL that loses lock raises its
unit's fault; FAULT_TAIL moves only over records written. -/
def Obligations.PowerAndClocks : Prop :=
  (∀ (s : State) (t d : Fin 64),
    let c := s.found
    let now := s.time
    let known := t.val < 24 ∨ (32 ≤ t.val ∧ t.val ≤ 41)
    let x := c.bound t
    let dom := targetDomain t
    (s.writable A.CP_ISLAND_CTRL = true →
      let f := c.filled now A.CP_ISLAND_CTRL [BitVec.ofNat 64 (t.val + 2 ^ 8)]
      let r := c.filled now A.CP_ISLAND_CTRL [BitVec.ofNat 64 (t.val + 2 * 2 ^ 8)]
      let freed := r.setBound t { x with held := false }
      let host := t.val = 20 ∨ t.val = 21
      (known → exec (.islandFence t) s = s.wrote Code.OK (f.fenceBegin now t)) ∧
      (¬known → exec (.islandFence t) s = s.wrote Code.BAD_ARGUMENT f ∧ exec (.islandReset t) s = s.wrote Code.BAD_ARGUMENT r) ∧
      (known → ¬host → t.val ≠ 23 → exec (.islandReset t) s = s.wrote Code.OK (freed.resetAsk now t)) ∧
      (host → c.sluiced (t.val - 20) = false → exec (.islandReset t) s = s.wrote Code.BAD_ARGUMENT r) ∧
      (host → c.sluiced (t.val - 20) = true → exec (.islandReset t) s = s.wrote Code.OK (freed.resetAsk now t)) ∧
      (t.val = 23 → c.mode = Mode.recovery ∨ c.mode = Mode.diagnostic → exec (.islandReset t) s = s.wrote Code.OK (freed.resetAsk now t)) ∧
      (t.val = 23 → c.mode ≠ Mode.recovery → c.mode ≠ Mode.diagnostic → exec (.islandReset t) s = s.wrote Code.MODE_REFUSED r)) ∧
    (x.st = 1 →
      let e := c.fenceDone now t
      let half := 3 + 2 * t.val
      (e.pwrState dom = 3 → 2 ≤ dom → exec (.fencedReached t) s = .next (s.done ((e.switchOpen now dom).pwrNext now dom))) ∧
      (¬(e.pwrState dom = 3 ∧ 2 ≤ dom) → t.val < 16 → e.pwrState half = 3 → exec (.fencedReached t) s =
        .next (s.done (((e.switchOpen now half).resetNow now t).pwrNext now half))) ∧
      (¬(e.pwrState dom = 3 ∧ 2 ≤ dom) → ¬(t.val < 16 ∧ e.pwrState half = 3) → exec (.fencedReached t) s =
        .next (s.done (if (e.bound t).reset = true then e.resetNow now t else e)))) ∧
    (x.st ≠ 1 → exec (.fencedReached t) s = .next (s.done c)) ∧
    (c.mayOpen t = true → exec (.boundaryOpen t) s = .next (s.done ((c.openNow now t).pwrNext now dom))) ∧
    (c.mayOpen t = false → t.val < 16 → c.pwr.rampQ.head? = some (3 + 2 * t.val) → exec (.boundaryOpen t) s =
      .next (s.done (((c.setPwr (3 + 2 * t.val) 2).rampEnd (3 + 2 * t.val)).pwrNext now (3 + 2 * t.val)))) ∧
    (∀ u, x.reopen = some u → u ≤ now → x.held = false → x.st ≠ 0 → x.st ≠ 3 → c.flag A.CP_FAULT_CFG F.CP_FAULT_CFG_AUTO_REOPEN = true →
      exec (.autoReopen t) s = .next (s.done (c.resetAsk now t))) ∧
    (s.writable A.CP_PWR_REQ = true →
      let a := A.CP_PWR_STATUS d
      let on := c.filled now A.CP_PWR_REQ [BitVec.ofNat 64 (d.val + 2 ^ 8)]
      let off := c.filled now A.CP_PWR_REQ [BitVec.ofNat 64 d.val]
      let kept (e : Chip) (b : Bool) : Chip := (e.setFlag a F.CP_PWR_STATUS_QUEUED true).setFlag a F.CP_PWR_STATUS_QUEUED_ON b
      let named := 2 ≤ d.val ∧ d.val < 50
      let runs := c.mode ≠ Mode.boot ∧ c.mode ≠ Mode.standby
      let still := c.pwrState d = 0 ∨ c.pwrState d = 2
      (named → c.pwrAllowed d true = true → runs → still → exec (.domainPowerOn d) s =
        s.wrote Code.OK (if c.pwrState d = 0 then on.switchClose d else on)) ∧
      (named → c.pwrAllowed d true = true → runs → ¬still → exec (.domainPowerOn d) s = s.wrote Code.OK (kept on true)) ∧
      (named → c.pwrAllowed d false = true → runs → c.pwrState d = 2 → exec (.domainPowerOff d) s = s.wrote Code.OK
        (if (c.bound (domainTarget d)).st = 2 then off.switchOpen now d else (off.setPwr d 3).fenceBegin now (domainTarget d))) ∧
      (named → c.pwrAllowed d false = true → runs → c.pwrState d = 0 → exec (.domainPowerOff d) s = s.wrote Code.OK off) ∧
      (named → c.pwrAllowed d false = true → runs → ¬still → exec (.domainPowerOff d) s = s.wrote Code.OK (kept off false)) ∧
      (named → ¬runs →
        (c.pwrAllowed d true = true → exec (.domainPowerOn d) s = s.wrote Code.MODE_REFUSED on) ∧
        (c.pwrAllowed d false = true → exec (.domainPowerOff d) s = s.wrote Code.MODE_REFUSED off)) ∧
      (¬named ∨ c.pwrAllowed d true = false → exec (.domainPowerOn d) s = s.wrote Code.BAD_ARGUMENT on) ∧
      (¬named ∨ c.pwrAllowed d false = false → exec (.domainPowerOff d) s = s.wrote Code.BAD_ARGUMENT off)) ∧
    (c.pwr.rampQ.head? = some d.val →
      let u := domainTarget d
      let e := c.switchOpen now d
      let isl := if u < 25 then u else if u < 40 then 22 else 23
      exec (.powerGoodTimeout d) s =
        .next (s.done ((e.raise now Flt.CP_POWER_FAIL isl (if u < 25 then 63 else d.val) 0 0).pwrNext now d)))) ∧
  (∀ (s : State) (m : MillNo) (mhz : BitVec 12) (n : Fin 25) (temp : Int) (g : GroupNo) (e : EpNo) (v : Word),
    let c := s.found
    let now := s.time
    (s.writable (A.CP_CLK_MILL m) = true →
      let d := c.filled now (A.CP_CLK_MILL m) [mhz.zeroExtend 64]
      let f := d.get (A.CP_CLK_MILL m) F.CP_CLK_MILL_MHZ_SET
      let ok := 800 ≤ f ∧ f ≤ 2200 ∧ f % 100 = 0
      (ok → exec (.millClockWrite m mhz) s = s.wrote Code.OK (if memNat m c.pwr.clkBusy = true then d
        else { d.setMill m { d.mill m with clkAt := c.stampIn m now } with pwr := { d.pwr with clkBusy := m.val :: d.pwr.clkBusy } })) ∧
      (¬ok → exec (.millClockWrite m mhz) s = s.wrote Code.BAD_ARGUMENT c)) ∧
    (memNat m c.pwr.clkBusy = true →
      let d : Chip := { c with pwr := { c.pwr with clkBusy := c.pwr.clkBusy.filter fun k => k != m.val } }
      let x := d.mill m
      let gone := c.stampIn m now - x.clkAt
      let ts := x.threads.map fun y => (y.1, if y.2.wait = .none then y.2 else { y.2 with since := y.2.since + gone })
      exec (.millClockChangeDone m) s =
        .next (s.done ((d.setMill m { x with stall := x.stall.map (· + gone), threads := ts, clkAt := 0 }).showMhz m))) ∧
    (let a := A.CP_AVS n
     let mv := c.get a F.CP_AVS_MV
     let cut := mget 0 c.pwr.avsCut n.val + 1
     let last := mget none c.pwr.avsAt n.val
     let waits := ∃ t, last = some t ∧ t ≤ now ∧ now < t + ns 10000
     let b : Chip := { c with pwr := { c.pwr with avsAt := mset none c.pwr.avsAt n.val (some now) } }
     (waits → ∀ up, exec (.avsStep n up) s = .next (s.done c)) ∧
     (¬waits → mv < 850 → exec (.avsStep n true) s =
       .next (s.done ((b.set a F.CP_AVS_MV (mv + 5)).setFlag a F.CP_AVS_AT_LIMIT (decide (850 ≤ mv + 5))))) ∧
     (¬waits → 850 ≤ mv → n.val < 16 → exec (.avsStep n true) s = .next (s.done
       ((({ b with pwr := { b.pwr with avsCut := mset 0 c.pwr.avsCut n.val cut } } : Chip).showMhz n).raise now Flt.CP_AVS_LIMIT n 63 0 0))) ∧
     (¬waits → 850 ≤ mv → 16 ≤ n.val → exec (.avsStep n true) s = .next (s.done (b.raise now Flt.CP_ISLAND_CLOCK n 63 0 0))) ∧
     (¬waits → 650 < mv → exec (.avsStep n false) s =
       .next (s.done ((b.set a F.CP_AVS_MV (mv - 5)).setFlag a F.CP_AVS_AT_LIMIT false))) ∧
     (¬waits → mv ≤ 650 → exec (.avsStep n false) s = .next (s.done b))) ∧
    (let thr : Int := 16 * (c.get A.CP_THERMAL F.CP_THERMAL_THROTTLE_C : Nat)
     let trip : Int := 16 * (c.get A.CP_THERMAL F.CP_THERMAL_TRIP_C : Nat)
     let shows (b : Bool) : Chip :=
       (List.range 16).foldl (fun (c : Chip) m => c.showMhz m) { c with pwr := { c.pwr with throttled := b } }
     let tripped (d : Chip) : Chip :=
       ((offOrder.filter fun d => decide (d < 38) && decide (2 ≤ d) || decide (48 ≤ d)).foldl (Chip.cutOff now) d).raise now
         Flt.CP_THERMAL_TRIP 24 63 0 0
     let hot := (shows true).raise now Flt.CP_THERMAL_THROTTLE 24 63 0 0
     (thr ≤ temp → c.pwr.throttled = false → exec (.thermalThreshold temp) s = .next (s.done (if trip ≤ temp then tripped hot else hot))) ∧
     (temp < thr - 80 → temp < trip → c.pwr.throttled = true → exec (.thermalThreshold temp) s = .next (s.done (shows false))) ∧
     (thr - 80 ≤ temp → c.pwr.throttled = true → exec (.thermalThreshold temp) s = .next (s.done (if trip ≤ temp then tripped c else c)))) ∧
    (Mode.held < c.mode → exec (.pllLockLoss .fantail) s = .next (s.done (c.raise now Flt.FT_TIME_PLL_FAIL 24 63 0 0))) ∧
    (c.open1 (16 + g) = true → exec (.pllLockLoss (.lane g)) s = .next (s.done (c.raise now Flt.PX_LANE_PLL_FAIL (16 + g) 63 0 0))) ∧
    (c.open1 (20 + e) = true → exec (.pllLockLoss (.link e)) s = .next (s.done (c.raise now Flt.HE_LINK_PLL_FAIL (20 + e) 63 0 0))) ∧
    (Mode.held < c.mode → c.open1 n = true →
      exec (.pllLockLoss (.island n)) s = .next (s.done (c.raise now Flt.CP_ISLAND_CLOCK n 63 0 0))) ∧
    (s.writable A.CP_FAULT_TAIL = true →
      let ok := tailOk 512 (c.get A.CP_FAULT_HEAD ⟨0, 0, 9⟩) (c.get A.CP_FAULT_TAIL ⟨0, 0, 9⟩) (getBits v 0 9)
      (ok = true → exec (.faultTailWrite v) s = s.wrote Code.OK (c.filled now A.CP_FAULT_TAIL [v])) ∧
      (ok = false → exec (.faultTailWrite v) s = s.wrote Code.BAD_ARGUMENT c)))

/-- R422, R450, R473-R476: a fault that does not coalesce takes the record at HEAD, with its class, target and time, and the SEQ of its journal entry;
a full ring loses its oldest record; only a fatal class is acted on. A fatal-island fault fences its target and moves Service, Update and Drain to
Degraded Service; a fatal-device fault moves to Recovery. A journal entry takes the next SEQ, carries the chain and waits to be mirrored.
R424: the oldest journal entry that waits for the flash is mirrored to the block being filled, within the budget that critical entries may
overdraw; with no token for it, with no flash or no good block, or once it has left the ring it is passed over; a block that fails is retired. -/
def Obligations.FaultsAndJournal : Prop :=
  (∀ (c : Chip) (now : Nat) (f : FaultKind) (isl dom slice : Nat) (detail : Word) (e : JEvent),
    let h := c.get A.CP_FAULT_HEAD F.CP_FAULT_HEAD_V
    let t := c.get A.CP_FAULT_TAIL F.CP_FAULT_TAIL_V
    let esc : Bool := f.cls == 2 && (faultTarget isl dom == none || faultTarget isl dom == some 23 || faultTarget isl dom == some 24)
    let cls := if esc then 3 else f.cls
    let d := c.raise1 now f isl dom slice detail
    let n := (c.rd A.CP_JOURNAL_NEXT).toNat
    let j := c.journal now e
    ((cls ≠ 0 ∨ c.coalesces now f.code isl slice = none) → cls ≤ 3 →
      d.rd (faultAddr h) = faultWord0 f.code cls esc isl dom slice 1 ∧ d.rd (faultAddr h + 8) = dtWord (stamp now) ∧
      d.rd (faultAddr h + 16) = detail ∧ d.rd (faultAddr h + 24) = c.rd A.CP_JOURNAL_NEXT ∧
      d.get A.CP_FAULT_HEAD F.CP_FAULT_HEAD_V = (h + 1) % 512 ∧
      d.get A.CP_FAULT_TAIL F.CP_FAULT_TAIL_V = (if (h + 1) % 512 = t then (t + 1) % 512 else t) ∧
      d.due = c.due ++ (if 2 ≤ cls then [Due.fault cls (faultTarget isl dom) f.code] else [])) ∧
    (∀ i, f.cls = 0 → c.coalesces now f.code isl slice = some i → d.due = c.due ∧
      d.get A.CP_FAULT_HEAD F.CP_FAULT_HEAD_V = h ∧ d.get A.CP_FAULT_TAIL F.CP_FAULT_TAIL_V = t) ∧
    (∀ k, k < 20 → f.code ≠ Flt.MA_MILL_DEADLOCK.code →
      c.classAct now 2 (some k) f.code = (let x := ((c.msix now 0 10).msix now 1 10).noteFatal now k
        (x.fenceBegin now k).degrade now)) ∧
    (c.mode = Mode.service ∨ c.mode = Mode.update → c.degrade now = (c.abortSessions now fun _ => true).enterMode now Mode.degraded) ∧
    (c.mode ≠ Mode.service → c.mode ≠ Mode.update → c.mode ≠ Mode.drain → c.degrade now = c) ∧
    (c.mode = Mode.service → c.deviceFault now = c.enterMode now Mode.recovery) ∧
    (c.mode = Mode.recovery ∨ c.mode = Mode.off ∨ c.mode = Mode.held → c.deviceFault now = c) ∧
    (∃ entry, j.cmd.ring = mset [] c.cmd.ring (n % 4096) entry ∧ entry.length = 8 ∧ j.cmd.prev = entry ∧
      nth 0 entry 0 = c.rd A.CP_JOURNAL_NEXT ∧ nth 0 entry 1 = dtWord (stamp now) ∧ nth 0 entry 5 = e.a0 ∧ nth 0 entry 6 = e.a1 ∧
      nth 0 entry 7 = chainWord c.cmd.prev (entry.take 7 ++ [0])) ∧
    j.cmd.unmir = c.cmd.unmir ++ [n] ∧ j.rd A.CP_JOURNAL_NEXT = BitVec.ofNat 64 (n / 2 ^ 40 * 2 ^ 40 + (n + 1) % 2 ^ 40)) ∧
  (∀ (s : State) (n : Nat) (ns' : List Nat) (ok : Bool),
    let c := s.found
    let now := s.time
    let e := mget [] c.cmd.ring (n % 4096)
    let tok := c.mirrorTokens now
    let d : Chip := { c with cmd := { c.cmd with tokens := tok, tokensAt := now } }
    let run := exec (.journalMirror ok) s
    let ready := e ≠ [] ∧ (nth 0 e 0).toNat = n ∧ c.cmd.stopped = false ∧ c.flash.present = true
    let paid := entryLevel e = 0 ∨ mirrorToken ≤ tok
    c.cmd.unmir = n :: ns' →
    (¬ready → run = .next (s.done (d.mirrorSkip n))) ∧
    (ready → ¬paid → run = .next (s.done (d.mirrorSkip n))) ∧
    (ready → paid → d.mirrorBlock = none → run = .next (s.done (d.mirrorSkip n))) ∧
    (∀ b, ready → paid → d.mirrorBlock = some b → ok = true → run = .next (s.done
      (({ d with cmd := { d.cmd with tokens := if tok < mirrorToken then tok else tok - mirrorToken } } : Chip).mirrorWrite now b e))) ∧
    (∀ b, ready → paid → d.mirrorBlock = some b → ok = false → run = .next (s.done (d.mirrorRetire now b))) ∧
    (d.mirrorSkip n).cmd.unmir = ns' ∧ (d.mirrorSkip n).cmd.gapCount = c.cmd.gapCount + 1)
end

