-- ==== Sys2Proof/Laws/Map.lean ====
section
/-! SUPPORT. What reading a sparse array gives after a write of it, and that every operation keeps the canonical form. -/

namespace Sys2Proof.Machine

variable {α : Type}

@[simp] theorem mget_nil (d : α) (k : Nat) : mget d [] k = d := rfl

/-- Entries at or above `lo`, rising strictly. -/
def rising (lo : Nat) : SMap α → Prop
  | [] => True
  | (i, _) :: m => lo ≤ i ∧ rising (i + 1) m

theorem rising_mono {lo hi : Nat} (h : lo ≤ hi) : ∀ {m : SMap α}, rising hi m → rising lo m
  | [], _ => trivial
  | (_, _) :: _, ⟨h1, h2⟩ => ⟨Nat.le_trans h h1, h2⟩

/-- The canonical form is rising order without a default. -/
theorem mwfFrom_rising [DecidableEq α] {d : Nat → α} : ∀ {lo : Nat} {m : SMap α}, mwfFrom d lo m = true → rising lo m
  | _, [], _ => trivial
  | _, (_, _) :: _, h => by
    simp only [mwfFrom, Bool.and_eq_true, decide_eq_true_eq] at h
    exact ⟨h.1.1, mwfFrom_rising h.2⟩

theorem mwfFrom_mono [DecidableEq α] {d : Nat → α} {lo hi : Nat} (h : lo ≤ hi) : ∀ {m : SMap α}, mwfFrom d hi m = true → mwfFrom d lo m = true
  | [], _ => rfl
  | (_, _) :: _, h' => by
    simp only [mwfFrom, Bool.and_eq_true, decide_eq_true_eq] at h' ⊢
    exact ⟨⟨Nat.le_trans h h'.1.1, h'.1.2⟩, h'.2⟩

/-- An index below every entry reads as the default. -/
theorem mget_below (d : α) {k : Nat} : ∀ {lo : Nat} {m : SMap α}, rising lo m → k < lo → mget d m k = d
  | _, [], _, _ => rfl
  | lo, (i, v) :: m, ⟨h1, h2⟩, h => by
    simp only [mget, if_neg (show ¬ k = i by omega)]
    exact mget_below d h2 (by omega)

theorem mget_mdel_self (d : α) (k : Nat) : ∀ m : SMap α, mget d (mdel m k) k = d
  | [] => rfl
  | (i, w) :: m => by
    by_cases h : k = i
    · simp only [mdel, if_pos h]; exact mget_mdel_self d k m
    · simp only [mdel, if_neg h, mget]; exact mget_mdel_self d k m

theorem mget_mdel_ne (d : α) {j k : Nat} (hj : j ≠ k) : ∀ m : SMap α, mget d (mdel m k) j = mget d m j
  | [] => rfl
  | (i, w) :: m => by
    by_cases h : k = i
    · subst h; simp only [mdel, if_true, mget, if_neg hj]; exact mget_mdel_ne d hj m
    · simp only [mdel, if_neg h, mget, mget_mdel_ne d hj m]

theorem mget_mput_self (d : α) (k : Nat) (v : α) : ∀ m : SMap α, mget d (mput m k v) k = v
  | [] => by simp [mput, mget]
  | (i, w) :: m => by
    by_cases h : k < i
    · simp [mput, if_pos h, mget]
    · by_cases e : k = i
      · simp [mput, e, mget]
      · simp only [mput, if_neg h, if_neg e, mget]; exact mget_mput_self d k v m

theorem mget_mput_ne (d : α) {j k : Nat} (v : α) (hj : j ≠ k) : ∀ m : SMap α, mget d (mput m k v) j = mget d m j
  | [] => by simp [mput, mget, hj]
  | (i, w) :: m => by
    by_cases h : k < i
    · simp [mput, if_pos h, mget, hj]
    · by_cases e : k = i
      · subst e; simp [mput, mget, hj]
      · simp only [mput, if_neg h, if_neg e, mget, mget_mput_ne d v hj m]

/-- Reading the index just set gives the value set. -/
@[simp] theorem mget_mset_self [DecidableEq α] (d : α) (m : SMap α) (k : Nat) (v : α) : mget d (mset d m k v) k = v := by
  unfold mset; split
  · next h => rw [mget_mdel_self, h]
  · exact mget_mput_self d k v m

/-- Setting one index leaves every other as it was, whatever default it reads by. -/
theorem mget_mset_ne' [DecidableEq α] (e d : α) {j k : Nat} (m : SMap α) (v : α) (hj : j ≠ k) :
    mget e (mset d m k v) j = mget e m j := by
  unfold mset; split
  · exact mget_mdel_ne e hj m
  · exact mget_mput_ne e v hj m

/-- Setting one index leaves every other as it was. -/
theorem mget_mset_ne [DecidableEq α] (d : α) {j k : Nat} (m : SMap α) (v : α) (hj : j ≠ k) :
    mget d (mset d m k v) j = mget d m j := mget_mset_ne' d d m v hj

/-- What any index reads as after a write. -/
theorem mget_mset [DecidableEq α] (d : α) (m : SMap α) (j k : Nat) (v : α) :
    mget d (mset d m k v) j = if j = k then v else mget d m j := by
  split
  · next h => rw [h, mget_mset_self]
  · next h => exact mget_mset_ne d m v h

theorem mdel_wfFrom [DecidableEq α] (d : Nat → α) (k : Nat) :
    ∀ {lo : Nat} {m : SMap α}, mwfFrom d lo m = true → mwfFrom d lo (mdel m k) = true
  | _, [], _ => rfl
  | lo, (i, w) :: m, hm => by
    simp only [mwfFrom, Bool.and_eq_true, decide_eq_true_eq] at hm
    obtain ⟨⟨h1, h2⟩, h3⟩ := hm
    by_cases he : k = i
    · simp only [mdel, if_pos he]; exact mwfFrom_mono (by omega) (mdel_wfFrom d k h3)
    · simp only [mdel, if_neg he, mwfFrom, Bool.and_eq_true, decide_eq_true_eq]
      exact ⟨⟨h1, h2⟩, mdel_wfFrom d k h3⟩

theorem mput_wfFrom [DecidableEq α] (d : Nat → α) (k : Nat) (v : α) (hv : v ≠ d k) :
    ∀ {lo : Nat} {m : SMap α}, mwfFrom d lo m = true → lo ≤ k → mwfFrom d lo (mput m k v) = true
  | _, [], _, hlo => by simp [mput, mwfFrom, hlo, hv]
  | lo, (i, w) :: m, hm, hlo => by
    simp only [mwfFrom, Bool.and_eq_true, decide_eq_true_eq] at hm
    obtain ⟨⟨h1, h2⟩, h3⟩ := hm
    by_cases hk : k < i
    · simp only [mput, if_pos hk, mwfFrom, Bool.and_eq_true, decide_eq_true_eq]
      exact ⟨⟨hlo, hv⟩, ⟨by omega, h2⟩, h3⟩
    · by_cases he : k = i
      · subst he; simp [mput, mwfFrom, h1, hv, h3]
      · simp only [mput, if_neg hk, if_neg he, mwfFrom, Bool.and_eq_true, decide_eq_true_eq]
        exact ⟨⟨h1, h2⟩, mput_wfFrom d k v hv h3 (by omega)⟩

/-- A write keeps the canonical form. -/
theorem mset_wfFrom [DecidableEq α] (d : Nat → α) (k : Nat) (v : α) {lo : Nat} {m : SMap α} (h : mwfFrom d lo m = true)
    (hlo : lo ≤ k) : mwfFrom d lo (mset (d k) m k v) = true := by
  unfold mset; split
  · exact mdel_wfFrom d k h
  · next hv => exact mput_wfFrom d k v hv h hlo

theorem mset_wf [DecidableEq α] (d : Nat → α) (k : Nat) (v : α) {m : SMap α} (h : mwf d m = true) : mwf d (mset (d k) m k v) = true :=
  mset_wfFrom d k v h (Nat.zero_le k)

theorem mclear_wfFrom [DecidableEq α] (d : Nat → α) (a b : Nat) : ∀ {lo : Nat} {m : SMap α}, mwfFrom d lo m = true → mwfFrom d lo (mclear m a b) = true
  | _, [], _ => rfl
  | lo, (i, w) :: m, hm => by
    simp only [mwfFrom, Bool.and_eq_true, decide_eq_true_eq] at hm
    obtain ⟨⟨h1, h2⟩, h3⟩ := hm
    have ih := mclear_wfFrom d a b h3
    simp only [mclear, List.filter_cons] at ih ⊢
    split
    · simp only [mwfFrom, Bool.and_eq_true, decide_eq_true_eq]
      exact ⟨⟨h1, h2⟩, ih⟩
    · exact mwfFrom_mono (by omega) ih

/-- Emptying a range keeps the canonical form. -/
theorem mclear_wf [DecidableEq α] (d : Nat → α) (a b : Nat) {m : SMap α} (h : mwf d m = true) : mwf d (mclear m a b) = true :=
  mclear_wfFrom d a b h

/-- Two arrays in canonical form that read alike are the same list: equal memories are equal data. -/
theorem mwf_ext [DecidableEq α] (d : α) : ∀ {lo : Nat} {m m' : SMap α}, mwfFrom (fun _ => d) lo m = true → mwfFrom (fun _ => d) lo m' = true →
    (∀ k, mget d m k = mget d m' k) → m = m'
  | _, [], [], _, _, _ => rfl
  | _, [], (i, v) :: m', _, h', he => by
    simp only [mwfFrom, Bool.and_eq_true, decide_eq_true_eq] at h'
    have := he i
    simp only [mget, if_true] at this
    exact absurd this.symm h'.1.2
  | _, (i, v) :: m, [], h, _, he => by
    simp only [mwfFrom, Bool.and_eq_true, decide_eq_true_eq] at h
    have := he i
    simp only [mget, if_true] at this
    exact absurd this h.1.2
  | lo, (i, v) :: m, (j, w) :: m', h, h', he => by
    simp only [mwfFrom, Bool.and_eq_true, decide_eq_true_eq] at h h'
    have hij : i = j := by
      rcases Nat.lt_trichotomy i j with hl | hl | hl
      · have e := he i
        simp only [mget, if_true, if_neg (show ¬ i = j by omega)] at e
        rw [mget_below d (mwfFrom_rising h'.2) (by omega)] at e
        exact absurd e h.1.2
      · exact hl
      · have e := he j
        simp only [mget, if_true, if_neg (show ¬ j = i by omega)] at e
        rw [mget_below d (mwfFrom_rising h.2) (by omega)] at e
        exact absurd e.symm h'.1.2
    subst hij
    have hv : v = w := by
      have e := he i
      simpa only [mget, if_true] using e
    subst hv
    rw [mwf_ext d h.2 h'.2 fun k => ?_]
    have e := he k
    simp only [mget] at e
    by_cases hk : k = i
    · subst hk
      rw [mget_below d (mwfFrom_rising h.2) (by omega), mget_below d (mwfFrom_rising h'.2) (by omega)]
    · simpa only [if_neg hk] using e

/-! ### Byte memories -/

/-- Writing bytes keeps the canonical form. -/
theorem wrBytes_wf : ∀ (bs : List Byte) (a : Nat) {m : Mem}, m.wf = true → (wrBytes m a bs).wf = true
  | [], _, _, h => h
  | b :: bs, a, _, h => wrBytes_wf bs (a + 1) (mset_wf (fun _ => 0) a b h)

/-- A byte outside those written is as it was. -/
theorem rdByte_wrBytes_out {k : Nat} : ∀ (bs : List Byte) (a : Nat) {m : Mem}, k < a ∨ a + bs.length ≤ k →
    rdByte (wrBytes m a bs) k = rdByte m k
  | [], _, _, _ => rfl
  | b :: bs, a, m, h => by
    simp only [List.length_cons] at h
    rw [wrBytes, rdByte_wrBytes_out bs (a + 1) (by omega), rdByte, rdByte, mget_mset_ne]
    omega

/-- Reading back the bytes just written. -/
theorem rdByte_wrBytes_in {k : Nat} : ∀ (bs : List Byte) (a : Nat) {m : Mem}, k < bs.length →
    rdByte (wrBytes m a bs) (a + k) = bs.getD k 0
  | [], _, _, h => by simp at h
  | b :: bs, a, m, h => by
    cases k with
    | zero =>
      rw [wrBytes, rdByte_wrBytes_out bs (a + 1) (by omega), rdByte, Nat.add_zero, mget_mset_self]
      rfl
    | succ k =>
      simp only [List.length_cons] at h
      have e := rdByte_wrBytes_in bs (a + 1) (k := k) (m := mset 0 m a b) (by omega)
      rw [wrBytes, show a + (k + 1) = a + 1 + k by omega, e]
      rfl

end Sys2Proof.Machine
end

