-- ==== Sys2Proof/Laws/State.lean ====
section
/-! SUPPORT. What reading a field of the state gives after an update of it, and what registers and threads read as after a write. -/

namespace Sys2Proof.Machine

/-! ### wr -/

@[simp] theorem Chip.wr_free (c : Chip) (a : Nat) (v : Word) : (c.wr a v).free = c.free := rfl
@[simp] theorem Chip.wr_due (c : Chip) (a : Nat) (v : Word) : (c.wr a v).due = c.due := rfl
@[simp] theorem Chip.wr_ft (c : Chip) (a : Nat) (v : Word) : (c.wr a v).ft = c.ft := rfl
@[simp] theorem Chip.wr_pwr (c : Chip) (a : Nat) (v : Word) : (c.wr a v).pwr = c.pwr := rfl
@[simp] theorem Chip.wr_cmd (c : Chip) (a : Nat) (v : Word) : (c.wr a v).cmd = c.cmd := rfl
@[simp] theorem Chip.wr_flash (c : Chip) (a : Nat) (v : Word) : (c.wr a v).flash = c.flash := rfl
@[simp] theorem Chip.wr_mem (c : Chip) (a : Nat) (v : Word) : (c.wr a v).mem = c.mem := rfl
@[simp] theorem Chip.wr_mills (c : Chip) (a : Nat) (v : Word) : (c.wr a v).mills = c.mills := rfl
@[simp] theorem Chip.wr_xmsgs (c : Chip) (a : Nat) (v : Word) : (c.wr a v).xmsgs = c.xmsgs := rfl
@[simp] theorem Chip.wr_xcreds (c : Chip) (a : Nat) (v : Word) : (c.wr a v).xcreds = c.xcreds := rfl
@[simp] theorem Chip.wr_reqs (c : Chip) (a : Nat) (v : Word) : (c.wr a v).reqs = c.reqs := rfl
@[simp] theorem Chip.wr_reps (c : Chip) (a : Nat) (v : Word) : (c.wr a v).reps = c.reps := rfl
@[simp] theorem Chip.wr_disp (c : Chip) (a : Nat) (v : Word) : (c.wr a v).disp = c.disp := rfl
@[simp] theorem Chip.wr_bind (c : Chip) (a : Nat) (v : Word) : (c.wr a v).bind = c.bind := rfl
@[simp] theorem Chip.wr_bobSlice (c : Chip) (a : Nat) (v : Word) : (c.wr a v).bobSlice = c.bobSlice := rfl
@[simp] theorem Chip.wr_smp (c : Chip) (a : Nat) (v : Word) : (c.wr a v).smp = c.smp := rfl
@[simp] theorem Chip.wr_cl (c : Chip) (a : Nat) (v : Word) : (c.wr a v).cl = c.cl := rfl
@[simp] theorem Chip.wr_net (c : Chip) (a : Nat) (v : Word) : (c.wr a v).net = c.net := rfl
@[simp] theorem Chip.wr_tm (c : Chip) (a : Nat) (v : Word) : (c.wr a v).tm = c.tm := rfl
@[simp] theorem Chip.wr_host (c : Chip) (a : Nat) (v : Word) : (c.wr a v).host = c.host := rfl
@[simp] theorem Chip.wr_de (c : Chip) (a : Nat) (v : Word) : (c.wr a v).de = c.de := rfl
@[simp] theorem Chip.wr_te (c : Chip) (a : Nat) (v : Word) : (c.wr a v).te = c.te := rfl
@[simp] theorem Chip.wr_ce (c : Chip) (a : Nat) (v : Word) : (c.wr a v).ce = c.ce := rfl
@[simp] theorem Chip.wr_sto (c : Chip) (a : Nat) (v : Word) : (c.wr a v).sto = c.sto := rfl
@[simp] theorem Chip.wr_tap (c : Chip) (a : Nat) (v : Word) : (c.wr a v).tap = c.tap := rfl

/-! ### set -/

@[simp] theorem Chip.set_free (c : Chip) (a : Nat) (f : Fld) (v : Nat) : (c.set a f v).free = c.free := rfl
@[simp] theorem Chip.set_due (c : Chip) (a : Nat) (f : Fld) (v : Nat) : (c.set a f v).due = c.due := rfl
@[simp] theorem Chip.set_ft (c : Chip) (a : Nat) (f : Fld) (v : Nat) : (c.set a f v).ft = c.ft := rfl
@[simp] theorem Chip.set_pwr (c : Chip) (a : Nat) (f : Fld) (v : Nat) : (c.set a f v).pwr = c.pwr := rfl
@[simp] theorem Chip.set_cmd (c : Chip) (a : Nat) (f : Fld) (v : Nat) : (c.set a f v).cmd = c.cmd := rfl
@[simp] theorem Chip.set_flash (c : Chip) (a : Nat) (f : Fld) (v : Nat) : (c.set a f v).flash = c.flash := rfl
@[simp] theorem Chip.set_mem (c : Chip) (a : Nat) (f : Fld) (v : Nat) : (c.set a f v).mem = c.mem := rfl
@[simp] theorem Chip.set_mills (c : Chip) (a : Nat) (f : Fld) (v : Nat) : (c.set a f v).mills = c.mills := rfl
@[simp] theorem Chip.set_xmsgs (c : Chip) (a : Nat) (f : Fld) (v : Nat) : (c.set a f v).xmsgs = c.xmsgs := rfl
@[simp] theorem Chip.set_xcreds (c : Chip) (a : Nat) (f : Fld) (v : Nat) : (c.set a f v).xcreds = c.xcreds := rfl
@[simp] theorem Chip.set_reqs (c : Chip) (a : Nat) (f : Fld) (v : Nat) : (c.set a f v).reqs = c.reqs := rfl
@[simp] theorem Chip.set_reps (c : Chip) (a : Nat) (f : Fld) (v : Nat) : (c.set a f v).reps = c.reps := rfl
@[simp] theorem Chip.set_disp (c : Chip) (a : Nat) (f : Fld) (v : Nat) : (c.set a f v).disp = c.disp := rfl
@[simp] theorem Chip.set_bind (c : Chip) (a : Nat) (f : Fld) (v : Nat) : (c.set a f v).bind = c.bind := rfl
@[simp] theorem Chip.set_bobSlice (c : Chip) (a : Nat) (f : Fld) (v : Nat) : (c.set a f v).bobSlice = c.bobSlice := rfl
@[simp] theorem Chip.set_smp (c : Chip) (a : Nat) (f : Fld) (v : Nat) : (c.set a f v).smp = c.smp := rfl
@[simp] theorem Chip.set_cl (c : Chip) (a : Nat) (f : Fld) (v : Nat) : (c.set a f v).cl = c.cl := rfl
@[simp] theorem Chip.set_net (c : Chip) (a : Nat) (f : Fld) (v : Nat) : (c.set a f v).net = c.net := rfl
@[simp] theorem Chip.set_tm (c : Chip) (a : Nat) (f : Fld) (v : Nat) : (c.set a f v).tm = c.tm := rfl
@[simp] theorem Chip.set_host (c : Chip) (a : Nat) (f : Fld) (v : Nat) : (c.set a f v).host = c.host := rfl
@[simp] theorem Chip.set_de (c : Chip) (a : Nat) (f : Fld) (v : Nat) : (c.set a f v).de = c.de := rfl
@[simp] theorem Chip.set_te (c : Chip) (a : Nat) (f : Fld) (v : Nat) : (c.set a f v).te = c.te := rfl
@[simp] theorem Chip.set_ce (c : Chip) (a : Nat) (f : Fld) (v : Nat) : (c.set a f v).ce = c.ce := rfl
@[simp] theorem Chip.set_sto (c : Chip) (a : Nat) (f : Fld) (v : Nat) : (c.set a f v).sto = c.sto := rfl
@[simp] theorem Chip.set_tap (c : Chip) (a : Nat) (f : Fld) (v : Nat) : (c.set a f v).tap = c.tap := rfl

/-! ### setFlag -/

@[simp] theorem Chip.setFlag_free (c : Chip) (a : Nat) (f : Fld) (b : Bool) : (c.setFlag a f b).free = c.free := rfl
@[simp] theorem Chip.setFlag_due (c : Chip) (a : Nat) (f : Fld) (b : Bool) : (c.setFlag a f b).due = c.due := rfl
@[simp] theorem Chip.setFlag_ft (c : Chip) (a : Nat) (f : Fld) (b : Bool) : (c.setFlag a f b).ft = c.ft := rfl
@[simp] theorem Chip.setFlag_pwr (c : Chip) (a : Nat) (f : Fld) (b : Bool) : (c.setFlag a f b).pwr = c.pwr := rfl
@[simp] theorem Chip.setFlag_cmd (c : Chip) (a : Nat) (f : Fld) (b : Bool) : (c.setFlag a f b).cmd = c.cmd := rfl
@[simp] theorem Chip.setFlag_flash (c : Chip) (a : Nat) (f : Fld) (b : Bool) : (c.setFlag a f b).flash = c.flash := rfl
@[simp] theorem Chip.setFlag_mem (c : Chip) (a : Nat) (f : Fld) (b : Bool) : (c.setFlag a f b).mem = c.mem := rfl
@[simp] theorem Chip.setFlag_mills (c : Chip) (a : Nat) (f : Fld) (b : Bool) : (c.setFlag a f b).mills = c.mills := rfl
@[simp] theorem Chip.setFlag_xmsgs (c : Chip) (a : Nat) (f : Fld) (b : Bool) : (c.setFlag a f b).xmsgs = c.xmsgs := rfl
@[simp] theorem Chip.setFlag_xcreds (c : Chip) (a : Nat) (f : Fld) (b : Bool) : (c.setFlag a f b).xcreds = c.xcreds := rfl
@[simp] theorem Chip.setFlag_reqs (c : Chip) (a : Nat) (f : Fld) (b : Bool) : (c.setFlag a f b).reqs = c.reqs := rfl
@[simp] theorem Chip.setFlag_reps (c : Chip) (a : Nat) (f : Fld) (b : Bool) : (c.setFlag a f b).reps = c.reps := rfl
@[simp] theorem Chip.setFlag_disp (c : Chip) (a : Nat) (f : Fld) (b : Bool) : (c.setFlag a f b).disp = c.disp := rfl
@[simp] theorem Chip.setFlag_bind (c : Chip) (a : Nat) (f : Fld) (b : Bool) : (c.setFlag a f b).bind = c.bind := rfl
@[simp] theorem Chip.setFlag_bobSlice (c : Chip) (a : Nat) (f : Fld) (b : Bool) : (c.setFlag a f b).bobSlice = c.bobSlice := rfl
@[simp] theorem Chip.setFlag_smp (c : Chip) (a : Nat) (f : Fld) (b : Bool) : (c.setFlag a f b).smp = c.smp := rfl
@[simp] theorem Chip.setFlag_cl (c : Chip) (a : Nat) (f : Fld) (b : Bool) : (c.setFlag a f b).cl = c.cl := rfl
@[simp] theorem Chip.setFlag_net (c : Chip) (a : Nat) (f : Fld) (b : Bool) : (c.setFlag a f b).net = c.net := rfl
@[simp] theorem Chip.setFlag_tm (c : Chip) (a : Nat) (f : Fld) (b : Bool) : (c.setFlag a f b).tm = c.tm := rfl
@[simp] theorem Chip.setFlag_host (c : Chip) (a : Nat) (f : Fld) (b : Bool) : (c.setFlag a f b).host = c.host := rfl
@[simp] theorem Chip.setFlag_de (c : Chip) (a : Nat) (f : Fld) (b : Bool) : (c.setFlag a f b).de = c.de := rfl
@[simp] theorem Chip.setFlag_te (c : Chip) (a : Nat) (f : Fld) (b : Bool) : (c.setFlag a f b).te = c.te := rfl
@[simp] theorem Chip.setFlag_ce (c : Chip) (a : Nat) (f : Fld) (b : Bool) : (c.setFlag a f b).ce = c.ce := rfl
@[simp] theorem Chip.setFlag_sto (c : Chip) (a : Nat) (f : Fld) (b : Bool) : (c.setFlag a f b).sto = c.sto := rfl
@[simp] theorem Chip.setFlag_tap (c : Chip) (a : Nat) (f : Fld) (b : Bool) : (c.setFlag a f b).tap = c.tap := rfl

/-! ### add -/

@[simp] theorem Chip.add_free (c : Chip) (a n : Nat) : (c.add a n).free = c.free := rfl
@[simp] theorem Chip.add_due (c : Chip) (a n : Nat) : (c.add a n).due = c.due := rfl
@[simp] theorem Chip.add_ft (c : Chip) (a n : Nat) : (c.add a n).ft = c.ft := rfl
@[simp] theorem Chip.add_pwr (c : Chip) (a n : Nat) : (c.add a n).pwr = c.pwr := rfl
@[simp] theorem Chip.add_cmd (c : Chip) (a n : Nat) : (c.add a n).cmd = c.cmd := rfl
@[simp] theorem Chip.add_flash (c : Chip) (a n : Nat) : (c.add a n).flash = c.flash := rfl
@[simp] theorem Chip.add_mem (c : Chip) (a n : Nat) : (c.add a n).mem = c.mem := rfl
@[simp] theorem Chip.add_mills (c : Chip) (a n : Nat) : (c.add a n).mills = c.mills := rfl
@[simp] theorem Chip.add_xmsgs (c : Chip) (a n : Nat) : (c.add a n).xmsgs = c.xmsgs := rfl
@[simp] theorem Chip.add_xcreds (c : Chip) (a n : Nat) : (c.add a n).xcreds = c.xcreds := rfl
@[simp] theorem Chip.add_reqs (c : Chip) (a n : Nat) : (c.add a n).reqs = c.reqs := rfl
@[simp] theorem Chip.add_reps (c : Chip) (a n : Nat) : (c.add a n).reps = c.reps := rfl
@[simp] theorem Chip.add_disp (c : Chip) (a n : Nat) : (c.add a n).disp = c.disp := rfl
@[simp] theorem Chip.add_bind (c : Chip) (a n : Nat) : (c.add a n).bind = c.bind := rfl
@[simp] theorem Chip.add_bobSlice (c : Chip) (a n : Nat) : (c.add a n).bobSlice = c.bobSlice := rfl
@[simp] theorem Chip.add_smp (c : Chip) (a n : Nat) : (c.add a n).smp = c.smp := rfl
@[simp] theorem Chip.add_cl (c : Chip) (a n : Nat) : (c.add a n).cl = c.cl := rfl
@[simp] theorem Chip.add_net (c : Chip) (a n : Nat) : (c.add a n).net = c.net := rfl
@[simp] theorem Chip.add_tm (c : Chip) (a n : Nat) : (c.add a n).tm = c.tm := rfl
@[simp] theorem Chip.add_host (c : Chip) (a n : Nat) : (c.add a n).host = c.host := rfl
@[simp] theorem Chip.add_de (c : Chip) (a n : Nat) : (c.add a n).de = c.de := rfl
@[simp] theorem Chip.add_te (c : Chip) (a n : Nat) : (c.add a n).te = c.te := rfl
@[simp] theorem Chip.add_ce (c : Chip) (a n : Nat) : (c.add a n).ce = c.ce := rfl
@[simp] theorem Chip.add_sto (c : Chip) (a n : Nat) : (c.add a n).sto = c.sto := rfl
@[simp] theorem Chip.add_tap (c : Chip) (a n : Nat) : (c.add a n).tap = c.tap := rfl

/-! ### inc -/

@[simp] theorem Chip.inc_free (c : Chip) (a : Nat) : (c.inc a).free = c.free := rfl
@[simp] theorem Chip.inc_due (c : Chip) (a : Nat) : (c.inc a).due = c.due := rfl
@[simp] theorem Chip.inc_ft (c : Chip) (a : Nat) : (c.inc a).ft = c.ft := rfl
@[simp] theorem Chip.inc_pwr (c : Chip) (a : Nat) : (c.inc a).pwr = c.pwr := rfl
@[simp] theorem Chip.inc_cmd (c : Chip) (a : Nat) : (c.inc a).cmd = c.cmd := rfl
@[simp] theorem Chip.inc_flash (c : Chip) (a : Nat) : (c.inc a).flash = c.flash := rfl
@[simp] theorem Chip.inc_mem (c : Chip) (a : Nat) : (c.inc a).mem = c.mem := rfl
@[simp] theorem Chip.inc_mills (c : Chip) (a : Nat) : (c.inc a).mills = c.mills := rfl
@[simp] theorem Chip.inc_xmsgs (c : Chip) (a : Nat) : (c.inc a).xmsgs = c.xmsgs := rfl
@[simp] theorem Chip.inc_xcreds (c : Chip) (a : Nat) : (c.inc a).xcreds = c.xcreds := rfl
@[simp] theorem Chip.inc_reqs (c : Chip) (a : Nat) : (c.inc a).reqs = c.reqs := rfl
@[simp] theorem Chip.inc_reps (c : Chip) (a : Nat) : (c.inc a).reps = c.reps := rfl
@[simp] theorem Chip.inc_disp (c : Chip) (a : Nat) : (c.inc a).disp = c.disp := rfl
@[simp] theorem Chip.inc_bind (c : Chip) (a : Nat) : (c.inc a).bind = c.bind := rfl
@[simp] theorem Chip.inc_bobSlice (c : Chip) (a : Nat) : (c.inc a).bobSlice = c.bobSlice := rfl
@[simp] theorem Chip.inc_smp (c : Chip) (a : Nat) : (c.inc a).smp = c.smp := rfl
@[simp] theorem Chip.inc_cl (c : Chip) (a : Nat) : (c.inc a).cl = c.cl := rfl
@[simp] theorem Chip.inc_net (c : Chip) (a : Nat) : (c.inc a).net = c.net := rfl
@[simp] theorem Chip.inc_tm (c : Chip) (a : Nat) : (c.inc a).tm = c.tm := rfl
@[simp] theorem Chip.inc_host (c : Chip) (a : Nat) : (c.inc a).host = c.host := rfl
@[simp] theorem Chip.inc_de (c : Chip) (a : Nat) : (c.inc a).de = c.de := rfl
@[simp] theorem Chip.inc_te (c : Chip) (a : Nat) : (c.inc a).te = c.te := rfl
@[simp] theorem Chip.inc_ce (c : Chip) (a : Nat) : (c.inc a).ce = c.ce := rfl
@[simp] theorem Chip.inc_sto (c : Chip) (a : Nat) : (c.inc a).sto = c.sto := rfl
@[simp] theorem Chip.inc_tap (c : Chip) (a : Nat) : (c.inc a).tap = c.tap := rfl

/-! ### setMill -/

@[simp] theorem Chip.setMill_free (c : Chip) (m : Nat) (x : Mill) : (c.setMill m x).free = c.free := rfl
@[simp] theorem Chip.setMill_regs (c : Chip) (m : Nat) (x : Mill) : (c.setMill m x).regs = c.regs := rfl
@[simp] theorem Chip.setMill_due (c : Chip) (m : Nat) (x : Mill) : (c.setMill m x).due = c.due := rfl
@[simp] theorem Chip.setMill_ft (c : Chip) (m : Nat) (x : Mill) : (c.setMill m x).ft = c.ft := rfl
@[simp] theorem Chip.setMill_pwr (c : Chip) (m : Nat) (x : Mill) : (c.setMill m x).pwr = c.pwr := rfl
@[simp] theorem Chip.setMill_cmd (c : Chip) (m : Nat) (x : Mill) : (c.setMill m x).cmd = c.cmd := rfl
@[simp] theorem Chip.setMill_flash (c : Chip) (m : Nat) (x : Mill) : (c.setMill m x).flash = c.flash := rfl
@[simp] theorem Chip.setMill_mem (c : Chip) (m : Nat) (x : Mill) : (c.setMill m x).mem = c.mem := rfl
@[simp] theorem Chip.setMill_xmsgs (c : Chip) (m : Nat) (x : Mill) : (c.setMill m x).xmsgs = c.xmsgs := rfl
@[simp] theorem Chip.setMill_xcreds (c : Chip) (m : Nat) (x : Mill) : (c.setMill m x).xcreds = c.xcreds := rfl
@[simp] theorem Chip.setMill_reqs (c : Chip) (m : Nat) (x : Mill) : (c.setMill m x).reqs = c.reqs := rfl
@[simp] theorem Chip.setMill_reps (c : Chip) (m : Nat) (x : Mill) : (c.setMill m x).reps = c.reps := rfl
@[simp] theorem Chip.setMill_disp (c : Chip) (m : Nat) (x : Mill) : (c.setMill m x).disp = c.disp := rfl
@[simp] theorem Chip.setMill_bind (c : Chip) (m : Nat) (x : Mill) : (c.setMill m x).bind = c.bind := rfl
@[simp] theorem Chip.setMill_bobSlice (c : Chip) (m : Nat) (x : Mill) : (c.setMill m x).bobSlice = c.bobSlice := rfl
@[simp] theorem Chip.setMill_smp (c : Chip) (m : Nat) (x : Mill) : (c.setMill m x).smp = c.smp := rfl
@[simp] theorem Chip.setMill_cl (c : Chip) (m : Nat) (x : Mill) : (c.setMill m x).cl = c.cl := rfl
@[simp] theorem Chip.setMill_net (c : Chip) (m : Nat) (x : Mill) : (c.setMill m x).net = c.net := rfl
@[simp] theorem Chip.setMill_tm (c : Chip) (m : Nat) (x : Mill) : (c.setMill m x).tm = c.tm := rfl
@[simp] theorem Chip.setMill_host (c : Chip) (m : Nat) (x : Mill) : (c.setMill m x).host = c.host := rfl
@[simp] theorem Chip.setMill_de (c : Chip) (m : Nat) (x : Mill) : (c.setMill m x).de = c.de := rfl
@[simp] theorem Chip.setMill_te (c : Chip) (m : Nat) (x : Mill) : (c.setMill m x).te = c.te := rfl
@[simp] theorem Chip.setMill_ce (c : Chip) (m : Nat) (x : Mill) : (c.setMill m x).ce = c.ce := rfl
@[simp] theorem Chip.setMill_sto (c : Chip) (m : Nat) (x : Mill) : (c.setMill m x).sto = c.sto := rfl
@[simp] theorem Chip.setMill_tap (c : Chip) (m : Nat) (x : Mill) : (c.setMill m x).tap = c.tap := rfl

/-! ### setTh -/

@[simp] theorem Chip.setTh_free (c : Chip) (m t : Nat) (x : Thread) : (c.setTh m t x).free = c.free := rfl
@[simp] theorem Chip.setTh_regs (c : Chip) (m t : Nat) (x : Thread) : (c.setTh m t x).regs = c.regs := rfl
@[simp] theorem Chip.setTh_due (c : Chip) (m t : Nat) (x : Thread) : (c.setTh m t x).due = c.due := rfl
@[simp] theorem Chip.setTh_ft (c : Chip) (m t : Nat) (x : Thread) : (c.setTh m t x).ft = c.ft := rfl
@[simp] theorem Chip.setTh_pwr (c : Chip) (m t : Nat) (x : Thread) : (c.setTh m t x).pwr = c.pwr := rfl
@[simp] theorem Chip.setTh_cmd (c : Chip) (m t : Nat) (x : Thread) : (c.setTh m t x).cmd = c.cmd := rfl
@[simp] theorem Chip.setTh_flash (c : Chip) (m t : Nat) (x : Thread) : (c.setTh m t x).flash = c.flash := rfl
@[simp] theorem Chip.setTh_mem (c : Chip) (m t : Nat) (x : Thread) : (c.setTh m t x).mem = c.mem := rfl
@[simp] theorem Chip.setTh_xmsgs (c : Chip) (m t : Nat) (x : Thread) : (c.setTh m t x).xmsgs = c.xmsgs := rfl
@[simp] theorem Chip.setTh_xcreds (c : Chip) (m t : Nat) (x : Thread) : (c.setTh m t x).xcreds = c.xcreds := rfl
@[simp] theorem Chip.setTh_reqs (c : Chip) (m t : Nat) (x : Thread) : (c.setTh m t x).reqs = c.reqs := rfl
@[simp] theorem Chip.setTh_reps (c : Chip) (m t : Nat) (x : Thread) : (c.setTh m t x).reps = c.reps := rfl
@[simp] theorem Chip.setTh_disp (c : Chip) (m t : Nat) (x : Thread) : (c.setTh m t x).disp = c.disp := rfl
@[simp] theorem Chip.setTh_bind (c : Chip) (m t : Nat) (x : Thread) : (c.setTh m t x).bind = c.bind := rfl
@[simp] theorem Chip.setTh_bobSlice (c : Chip) (m t : Nat) (x : Thread) : (c.setTh m t x).bobSlice = c.bobSlice := rfl
@[simp] theorem Chip.setTh_smp (c : Chip) (m t : Nat) (x : Thread) : (c.setTh m t x).smp = c.smp := rfl
@[simp] theorem Chip.setTh_cl (c : Chip) (m t : Nat) (x : Thread) : (c.setTh m t x).cl = c.cl := rfl
@[simp] theorem Chip.setTh_net (c : Chip) (m t : Nat) (x : Thread) : (c.setTh m t x).net = c.net := rfl
@[simp] theorem Chip.setTh_tm (c : Chip) (m t : Nat) (x : Thread) : (c.setTh m t x).tm = c.tm := rfl
@[simp] theorem Chip.setTh_host (c : Chip) (m t : Nat) (x : Thread) : (c.setTh m t x).host = c.host := rfl
@[simp] theorem Chip.setTh_de (c : Chip) (m t : Nat) (x : Thread) : (c.setTh m t x).de = c.de := rfl
@[simp] theorem Chip.setTh_te (c : Chip) (m t : Nat) (x : Thread) : (c.setTh m t x).te = c.te := rfl
@[simp] theorem Chip.setTh_ce (c : Chip) (m t : Nat) (x : Thread) : (c.setTh m t x).ce = c.ce := rfl
@[simp] theorem Chip.setTh_sto (c : Chip) (m t : Nat) (x : Thread) : (c.setTh m t x).sto = c.sto := rfl
@[simp] theorem Chip.setTh_tap (c : Chip) (m t : Nat) (x : Thread) : (c.setTh m t x).tap = c.tap := rfl

/-! ### setQueued -/

@[simp] theorem Chip.setQueued_free (c : Chip) (m ch : Nat) (q : List (Nat × List Word)) : (c.setQueued m ch q).free = c.free := rfl
@[simp] theorem Chip.setQueued_regs (c : Chip) (m ch : Nat) (q : List (Nat × List Word)) : (c.setQueued m ch q).regs = c.regs := rfl
@[simp] theorem Chip.setQueued_due (c : Chip) (m ch : Nat) (q : List (Nat × List Word)) : (c.setQueued m ch q).due = c.due := rfl
@[simp] theorem Chip.setQueued_ft (c : Chip) (m ch : Nat) (q : List (Nat × List Word)) : (c.setQueued m ch q).ft = c.ft := rfl
@[simp] theorem Chip.setQueued_pwr (c : Chip) (m ch : Nat) (q : List (Nat × List Word)) : (c.setQueued m ch q).pwr = c.pwr := rfl
@[simp] theorem Chip.setQueued_cmd (c : Chip) (m ch : Nat) (q : List (Nat × List Word)) : (c.setQueued m ch q).cmd = c.cmd := rfl
@[simp] theorem Chip.setQueued_flash (c : Chip) (m ch : Nat) (q : List (Nat × List Word)) : (c.setQueued m ch q).flash = c.flash := rfl
@[simp] theorem Chip.setQueued_mem (c : Chip) (m ch : Nat) (q : List (Nat × List Word)) : (c.setQueued m ch q).mem = c.mem := rfl
@[simp] theorem Chip.setQueued_xmsgs (c : Chip) (m ch : Nat) (q : List (Nat × List Word)) : (c.setQueued m ch q).xmsgs = c.xmsgs := rfl
@[simp] theorem Chip.setQueued_xcreds (c : Chip) (m ch : Nat) (q : List (Nat × List Word)) : (c.setQueued m ch q).xcreds = c.xcreds := rfl
@[simp] theorem Chip.setQueued_reqs (c : Chip) (m ch : Nat) (q : List (Nat × List Word)) : (c.setQueued m ch q).reqs = c.reqs := rfl
@[simp] theorem Chip.setQueued_reps (c : Chip) (m ch : Nat) (q : List (Nat × List Word)) : (c.setQueued m ch q).reps = c.reps := rfl
@[simp] theorem Chip.setQueued_disp (c : Chip) (m ch : Nat) (q : List (Nat × List Word)) : (c.setQueued m ch q).disp = c.disp := rfl
@[simp] theorem Chip.setQueued_bind (c : Chip) (m ch : Nat) (q : List (Nat × List Word)) : (c.setQueued m ch q).bind = c.bind := rfl
@[simp] theorem Chip.setQueued_bobSlice (c : Chip) (m ch : Nat) (q : List (Nat × List Word)) : (c.setQueued m ch q).bobSlice = c.bobSlice := rfl
@[simp] theorem Chip.setQueued_smp (c : Chip) (m ch : Nat) (q : List (Nat × List Word)) : (c.setQueued m ch q).smp = c.smp := rfl
@[simp] theorem Chip.setQueued_cl (c : Chip) (m ch : Nat) (q : List (Nat × List Word)) : (c.setQueued m ch q).cl = c.cl := rfl
@[simp] theorem Chip.setQueued_net (c : Chip) (m ch : Nat) (q : List (Nat × List Word)) : (c.setQueued m ch q).net = c.net := rfl
@[simp] theorem Chip.setQueued_tm (c : Chip) (m ch : Nat) (q : List (Nat × List Word)) : (c.setQueued m ch q).tm = c.tm := rfl
@[simp] theorem Chip.setQueued_host (c : Chip) (m ch : Nat) (q : List (Nat × List Word)) : (c.setQueued m ch q).host = c.host := rfl
@[simp] theorem Chip.setQueued_de (c : Chip) (m ch : Nat) (q : List (Nat × List Word)) : (c.setQueued m ch q).de = c.de := rfl
@[simp] theorem Chip.setQueued_te (c : Chip) (m ch : Nat) (q : List (Nat × List Word)) : (c.setQueued m ch q).te = c.te := rfl
@[simp] theorem Chip.setQueued_ce (c : Chip) (m ch : Nat) (q : List (Nat × List Word)) : (c.setQueued m ch q).ce = c.ce := rfl
@[simp] theorem Chip.setQueued_sto (c : Chip) (m ch : Nat) (q : List (Nat × List Word)) : (c.setQueued m ch q).sto = c.sto := rfl
@[simp] theorem Chip.setQueued_tap (c : Chip) (m ch : Nat) (q : List (Nat × List Word)) : (c.setQueued m ch q).tap = c.tap := rfl

/-! ### setSram -/

@[simp] theorem Chip.setSram_free (c : Chip) (a w : Nat) (r : BitVec 32) : (c.setSram a w r).free = c.free := rfl
@[simp] theorem Chip.setSram_regs (c : Chip) (a w : Nat) (r : BitVec 32) : (c.setSram a w r).regs = c.regs := rfl
@[simp] theorem Chip.setSram_due (c : Chip) (a w : Nat) (r : BitVec 32) : (c.setSram a w r).due = c.due := rfl
@[simp] theorem Chip.setSram_ft (c : Chip) (a w : Nat) (r : BitVec 32) : (c.setSram a w r).ft = c.ft := rfl
@[simp] theorem Chip.setSram_pwr (c : Chip) (a w : Nat) (r : BitVec 32) : (c.setSram a w r).pwr = c.pwr := rfl
@[simp] theorem Chip.setSram_cmd (c : Chip) (a w : Nat) (r : BitVec 32) : (c.setSram a w r).cmd = c.cmd := rfl
@[simp] theorem Chip.setSram_flash (c : Chip) (a w : Nat) (r : BitVec 32) : (c.setSram a w r).flash = c.flash := rfl
@[simp] theorem Chip.setSram_mills (c : Chip) (a w : Nat) (r : BitVec 32) : (c.setSram a w r).mills = c.mills := rfl
@[simp] theorem Chip.setSram_xmsgs (c : Chip) (a w : Nat) (r : BitVec 32) : (c.setSram a w r).xmsgs = c.xmsgs := rfl
@[simp] theorem Chip.setSram_xcreds (c : Chip) (a w : Nat) (r : BitVec 32) : (c.setSram a w r).xcreds = c.xcreds := rfl
@[simp] theorem Chip.setSram_reqs (c : Chip) (a w : Nat) (r : BitVec 32) : (c.setSram a w r).reqs = c.reqs := rfl
@[simp] theorem Chip.setSram_reps (c : Chip) (a w : Nat) (r : BitVec 32) : (c.setSram a w r).reps = c.reps := rfl
@[simp] theorem Chip.setSram_disp (c : Chip) (a w : Nat) (r : BitVec 32) : (c.setSram a w r).disp = c.disp := rfl
@[simp] theorem Chip.setSram_bind (c : Chip) (a w : Nat) (r : BitVec 32) : (c.setSram a w r).bind = c.bind := rfl
@[simp] theorem Chip.setSram_bobSlice (c : Chip) (a w : Nat) (r : BitVec 32) : (c.setSram a w r).bobSlice = c.bobSlice := rfl
@[simp] theorem Chip.setSram_smp (c : Chip) (a w : Nat) (r : BitVec 32) : (c.setSram a w r).smp = c.smp := rfl
@[simp] theorem Chip.setSram_cl (c : Chip) (a w : Nat) (r : BitVec 32) : (c.setSram a w r).cl = c.cl := rfl
@[simp] theorem Chip.setSram_net (c : Chip) (a w : Nat) (r : BitVec 32) : (c.setSram a w r).net = c.net := rfl
@[simp] theorem Chip.setSram_tm (c : Chip) (a w : Nat) (r : BitVec 32) : (c.setSram a w r).tm = c.tm := rfl
@[simp] theorem Chip.setSram_host (c : Chip) (a w : Nat) (r : BitVec 32) : (c.setSram a w r).host = c.host := rfl
@[simp] theorem Chip.setSram_de (c : Chip) (a w : Nat) (r : BitVec 32) : (c.setSram a w r).de = c.de := rfl
@[simp] theorem Chip.setSram_te (c : Chip) (a w : Nat) (r : BitVec 32) : (c.setSram a w r).te = c.te := rfl
@[simp] theorem Chip.setSram_ce (c : Chip) (a w : Nat) (r : BitVec 32) : (c.setSram a w r).ce = c.ce := rfl
@[simp] theorem Chip.setSram_sto (c : Chip) (a w : Nat) (r : BitVec 32) : (c.setSram a w r).sto = c.sto := rfl
@[simp] theorem Chip.setSram_tap (c : Chip) (a w : Nat) (r : BitVec 32) : (c.setSram a w r).tap = c.tap := rfl

/-! ### setBound -/

@[simp] theorem Chip.setBound_free (c : Chip) (t : Nat) (b : Bound) : (c.setBound t b).free = c.free := rfl
@[simp] theorem Chip.setBound_regs (c : Chip) (t : Nat) (b : Bound) : (c.setBound t b).regs = c.regs := rfl
@[simp] theorem Chip.setBound_due (c : Chip) (t : Nat) (b : Bound) : (c.setBound t b).due = c.due := rfl
@[simp] theorem Chip.setBound_ft (c : Chip) (t : Nat) (b : Bound) : (c.setBound t b).ft = c.ft := rfl
@[simp] theorem Chip.setBound_cmd (c : Chip) (t : Nat) (b : Bound) : (c.setBound t b).cmd = c.cmd := rfl
@[simp] theorem Chip.setBound_flash (c : Chip) (t : Nat) (b : Bound) : (c.setBound t b).flash = c.flash := rfl
@[simp] theorem Chip.setBound_mem (c : Chip) (t : Nat) (b : Bound) : (c.setBound t b).mem = c.mem := rfl
@[simp] theorem Chip.setBound_mills (c : Chip) (t : Nat) (b : Bound) : (c.setBound t b).mills = c.mills := rfl
@[simp] theorem Chip.setBound_xmsgs (c : Chip) (t : Nat) (b : Bound) : (c.setBound t b).xmsgs = c.xmsgs := rfl
@[simp] theorem Chip.setBound_xcreds (c : Chip) (t : Nat) (b : Bound) : (c.setBound t b).xcreds = c.xcreds := rfl
@[simp] theorem Chip.setBound_reqs (c : Chip) (t : Nat) (b : Bound) : (c.setBound t b).reqs = c.reqs := rfl
@[simp] theorem Chip.setBound_reps (c : Chip) (t : Nat) (b : Bound) : (c.setBound t b).reps = c.reps := rfl
@[simp] theorem Chip.setBound_disp (c : Chip) (t : Nat) (b : Bound) : (c.setBound t b).disp = c.disp := rfl
@[simp] theorem Chip.setBound_bind (c : Chip) (t : Nat) (b : Bound) : (c.setBound t b).bind = c.bind := rfl
@[simp] theorem Chip.setBound_bobSlice (c : Chip) (t : Nat) (b : Bound) : (c.setBound t b).bobSlice = c.bobSlice := rfl
@[simp] theorem Chip.setBound_smp (c : Chip) (t : Nat) (b : Bound) : (c.setBound t b).smp = c.smp := rfl
@[simp] theorem Chip.setBound_cl (c : Chip) (t : Nat) (b : Bound) : (c.setBound t b).cl = c.cl := rfl
@[simp] theorem Chip.setBound_net (c : Chip) (t : Nat) (b : Bound) : (c.setBound t b).net = c.net := rfl
@[simp] theorem Chip.setBound_tm (c : Chip) (t : Nat) (b : Bound) : (c.setBound t b).tm = c.tm := rfl
@[simp] theorem Chip.setBound_host (c : Chip) (t : Nat) (b : Bound) : (c.setBound t b).host = c.host := rfl
@[simp] theorem Chip.setBound_de (c : Chip) (t : Nat) (b : Bound) : (c.setBound t b).de = c.de := rfl
@[simp] theorem Chip.setBound_te (c : Chip) (t : Nat) (b : Bound) : (c.setBound t b).te = c.te := rfl
@[simp] theorem Chip.setBound_ce (c : Chip) (t : Nat) (b : Bound) : (c.setBound t b).ce = c.ce := rfl
@[simp] theorem Chip.setBound_sto (c : Chip) (t : Nat) (b : Bound) : (c.setBound t b).sto = c.sto := rfl
@[simp] theorem Chip.setBound_tap (c : Chip) (t : Nat) (b : Bound) : (c.setBound t b).tap = c.tap := rfl

/-! ### report -/

@[simp] theorem Chip.report_free (c : Chip) (kind key n stamp : Nat) : (c.report kind key n stamp).free = c.free := rfl
@[simp] theorem Chip.report_regs (c : Chip) (kind key n stamp : Nat) : (c.report kind key n stamp).regs = c.regs := rfl
@[simp] theorem Chip.report_due (c : Chip) (kind key n stamp : Nat) : (c.report kind key n stamp).due = c.due := rfl
@[simp] theorem Chip.report_ft (c : Chip) (kind key n stamp : Nat) : (c.report kind key n stamp).ft = c.ft := rfl
@[simp] theorem Chip.report_pwr (c : Chip) (kind key n stamp : Nat) : (c.report kind key n stamp).pwr = c.pwr := rfl
@[simp] theorem Chip.report_cmd (c : Chip) (kind key n stamp : Nat) : (c.report kind key n stamp).cmd = c.cmd := rfl
@[simp] theorem Chip.report_flash (c : Chip) (kind key n stamp : Nat) : (c.report kind key n stamp).flash = c.flash := rfl
@[simp] theorem Chip.report_mem (c : Chip) (kind key n stamp : Nat) : (c.report kind key n stamp).mem = c.mem := rfl
@[simp] theorem Chip.report_mills (c : Chip) (kind key n stamp : Nat) : (c.report kind key n stamp).mills = c.mills := rfl
@[simp] theorem Chip.report_xmsgs (c : Chip) (kind key n stamp : Nat) : (c.report kind key n stamp).xmsgs = c.xmsgs := rfl
@[simp] theorem Chip.report_xcreds (c : Chip) (kind key n stamp : Nat) : (c.report kind key n stamp).xcreds = c.xcreds := rfl
@[simp] theorem Chip.report_reqs (c : Chip) (kind key n stamp : Nat) : (c.report kind key n stamp).reqs = c.reqs := rfl
@[simp] theorem Chip.report_reps (c : Chip) (kind key n stamp : Nat) : (c.report kind key n stamp).reps = c.reps := rfl
@[simp] theorem Chip.report_disp (c : Chip) (kind key n stamp : Nat) : (c.report kind key n stamp).disp = c.disp := rfl
@[simp] theorem Chip.report_bind (c : Chip) (kind key n stamp : Nat) : (c.report kind key n stamp).bind = c.bind := rfl
@[simp] theorem Chip.report_bobSlice (c : Chip) (kind key n stamp : Nat) : (c.report kind key n stamp).bobSlice = c.bobSlice := rfl
@[simp] theorem Chip.report_cl (c : Chip) (kind key n stamp : Nat) : (c.report kind key n stamp).cl = c.cl := rfl
@[simp] theorem Chip.report_net (c : Chip) (kind key n stamp : Nat) : (c.report kind key n stamp).net = c.net := rfl
@[simp] theorem Chip.report_tm (c : Chip) (kind key n stamp : Nat) : (c.report kind key n stamp).tm = c.tm := rfl
@[simp] theorem Chip.report_host (c : Chip) (kind key n stamp : Nat) : (c.report kind key n stamp).host = c.host := rfl
@[simp] theorem Chip.report_de (c : Chip) (kind key n stamp : Nat) : (c.report kind key n stamp).de = c.de := rfl
@[simp] theorem Chip.report_te (c : Chip) (kind key n stamp : Nat) : (c.report kind key n stamp).te = c.te := rfl
@[simp] theorem Chip.report_ce (c : Chip) (kind key n stamp : Nat) : (c.report kind key n stamp).ce = c.ce := rfl
@[simp] theorem Chip.report_sto (c : Chip) (kind key n stamp : Nat) : (c.report kind key n stamp).sto = c.sto := rfl
@[simp] theorem Chip.report_tap (c : Chip) (kind key n stamp : Nat) : (c.report kind key n stamp).tap = c.tap := rfl

/-! ### Registers -/

@[simp] theorem Chip.rd_wr_self (c : Chip) (a : Nat) (v : Word) : (c.wr a v).rd a = v := by simp [Chip.rd, Chip.wr]

theorem Chip.rd_wr_ne (c : Chip) {a b : Nat} (v : Word) (h : b ≠ a) : (c.wr a v).rd b = c.rd b :=
  mget_mset_ne' _ _ _ _ h

theorem Chip.rd_set_ne (c : Chip) {a b : Nat} (f : Fld) (v : Nat) (h : b ≠ a + 8 * f.word) : (c.set a f v).rd b = c.rd b :=
  c.rd_wr_ne _ h

/-! ### Mills and threads -/

@[simp] theorem Chip.mill_setMill_self (c : Chip) (m : Nat) (x : Mill) : (c.setMill m x).mill m = x := by
  simp [Chip.mill, Chip.setMill]

theorem Chip.mill_setMill (c : Chip) (m k : Nat) (x : Mill) : (c.setMill m x).mill k = if k = m then x else c.mill k := by
  simp [Chip.mill, Chip.setMill, mget_mset]

@[simp] theorem Chip.th_setTh_self (c : Chip) (m t : Nat) (x : Thread) : (c.setTh m t x).th m t = x := by
  simp [Chip.th, Chip.setTh]

/-- A thread's state belongs to it alone (R66): another thread is as it was. -/
theorem Chip.th_setTh_ne (c : Chip) {m t m' t' : Nat} (x : Thread) (h : ¬ (m' = m ∧ t' = t)) : (c.setTh m t x).th m' t' = c.th m' t' := by
  unfold Chip.th Chip.setTh
  rw [Chip.mill_setMill]
  by_cases hm : m' = m
  · subst hm
    simp only [if_true]
    exact mget_mset_ne _ _ _ fun e => h ⟨rfl, e⟩
  · rw [if_neg hm]

@[simp] theorem Thread.reg_zero (x : Thread) : x.reg 0 = 0 := rfl

/-- A write of g0 is discarded (R77). -/
@[simp] theorem Thread.setReg_zero (x : Thread) (v : Word) : x.setReg 0 v = x := rfl

/-- A register just written reads as the value written, g0 as 0 (R66, R77). -/
theorem Thread.reg_setReg (x : Thread) (n k : Nat) (v : Word) :
    (x.setReg n v).reg k = if k = 0 then 0 else if k = n then v else x.reg k := by
  unfold Thread.reg Thread.setReg
  by_cases hk : k = 0
  · simp [hk]
  · by_cases hn : n = 0
    · simp only [hk, hn, if_true, if_false]
    · simp only [hk, hn, if_false, mget_mset]

@[simp] theorem Thread.reg_next (x : Thread) (n : Nat) : x.next.reg n = x.reg n := rfl

/-! ### The whole state -/

@[simp] theorem State.tick_pending (s : State) : s.tick.pending = s.pending := by
  unfold State.tick; split <;> rfl

/-- The passing of time changes nothing of the adapter but what of the rate has not yet made a unit of time. -/
theorem State.tick_chip (s : State) : s.tick.chip = { s.chip with ft := { s.chip.ft with resid := s.tick.chip.ft.resid } } := by
  unfold State.tick; split <;> rfl

/-- The passing of time never takes it back (R41, R45). -/
theorem State.tick_time (s : State) : s.time ≤ s.tick.time := by
  unfold State.tick; split
  · exact Nat.le_add_right _ _
  · exact Nat.le_refl _

@[simp] theorem State.reach_pending (s : State) (t : Nat) : (s.reach t).pending = s.pending := by
  unfold State.reach; split <;> rfl

@[simp] theorem State.reach_chip (s : State) (t : Nat) : (s.reach t).chip = s.chip := by
  unfold State.reach; split <;> rfl

/-- Reaching a time never goes back (R41, R45). -/
theorem State.reach_time (s : State) (t : Nat) : s.time ≤ (s.reach t).time := by
  unfold State.reach; split
  · exact Nat.le_max_left _ _
  · exact Nat.le_refl _

end Sys2Proof.Machine
end

