-- ==== Sys2Proof/Laws/Settle.lean ====
section
/-! SUPPORT. What every command's step has in common: its outcome, the queue, what is left over, the stall measurement, the time. -/

namespace Sys2Proof.Machine

/-! ### The outcome -/

theorem State.on_done (s : State) (f : Nat → Chip → Chip) : s.on f = .next (s.done (f s.time s.found)) := rfl

theorem State.restarted_done (s : State) (f : Chip → Chip) : s.restarted f = .next { s.done (f s.found) with time := 0 } := rfl

@[simp] theorem State.reach_found (s : State) (t : Nat) : (s.reach t).found = s.found := by
  unfold State.found; rw [State.reach_chip]

@[simp] theorem State.done_pending (s : State) (c : Chip) : (s.done c).pending = s.pending := by
  unfold State.done State.stepped; split
  · rfl
  · split <;> rfl

/-! ### The stall measurement (R124) -/

/-- A change of `stall` alone leaves the threads and channels of every Mill as they were. -/
theorem Chip.mill_measure (c : Chip) (now k m : Nat) :
    ((c.measure now k).mill m).threads = (c.mill m).threads ∧ ((c.measure now k).mill m).chans = (c.mill m).chans
      ∧ ((c.measure now k).mill m).imem = (c.mill m).imem ∧ ((c.measure now k).mill m).pond = (c.mill m).pond
      ∧ ((c.measure now k).mill m).poll = (c.mill m).poll ∧ ((c.measure now k).mill m).clkAt = (c.mill m).clkAt := by
  unfold Chip.measure
  rw [Chip.mill_setMill]
  split
  · next h => subst h; exact ⟨rfl, rfl, rfl, rfl, rfl, rfl⟩
  · exact ⟨rfl, rfl, rfl, rfl, rfl, rfl⟩

@[simp] theorem Chip.mill_threads_measure (c : Chip) (now k m : Nat) : ((c.measure now k).mill m).threads = (c.mill m).threads :=
  (c.mill_measure now k m).1

@[simp] theorem Chip.mill_chans_measure (c : Chip) (now k m : Nat) : ((c.measure now k).mill m).chans = (c.mill m).chans :=
  (c.mill_measure now k m).2.1

/-- The measurement of one Mill leaves the adapter but for the Mills as it was. -/
theorem Chip.measure_mills (c : Chip) (now k : Nat) : c.measure now k = { c with mills := (c.measure now k).mills } := rfl

/-- The stall condition reads nothing that a measurement writes. -/
@[simp] theorem Chip.stalled_measure (c : Chip) (now k m : Nat) : (c.measure now k).stalled m = c.stalled m := by
  have hk : ∀ a b, (c.measure now k).chanKind a b = c.chanKind a b := fun _ _ => rfl
  have hq : ∀ a b, (c.measure now k).queued a b = c.queued a b := fun a b => by simp [Chip.queued]
  have hc : ∀ a b, (c.measure now k).credits a b = c.credits a b := fun a b => by
    unfold Chip.credits; rw [hq]; rfl
  have hf : ∀ a, (c.measure now k).freeCount a = c.freeCount a := fun a => by
    unfold Chip.freeCount; simp only [Chip.mill_threads_measure]; rfl
  have he : ∀ a b x, (c.measure now k).engCredit a b x = c.engCredit a b x := fun _ _ _ => rfl
  have hl : ∀ a x, (c.measure now k).liveFor a x = c.liveFor a x := fun _ _ => rfl
  have ho : ∀ a x, (c.measure now k).waitsOut a x = c.waitsOut a x := fun _ _ => rfl
  have hw : ∀ a t x, (c.measure now k).wakeable a t x = c.wakeable a t x := fun a t x => by
    unfold Chip.wakeable
    simp only [hk, hq, hc, hf, he]
    rfl
  unfold Chip.stalled Chip.quiescent
  simp only [Chip.mill_threads_measure, hl, ho, hw]

/-- Folding the measurement over a list of Mills. -/
theorem Chip.measures_spec (now : Nat) : ∀ (ms : List Nat) (c : Chip),
    let d := ms.foldl (fun (c : Chip) m => c.measure now m) c
    (∀ m, d.stalled m = c.stalled m) ∧ d = { c with mills := d.mills }
      ∧ (∀ m, (d.mill m).threads = (c.mill m).threads ∧ (d.mill m).chans = (c.mill m).chans ∧ (d.mill m).imem = (c.mill m).imem
          ∧ (d.mill m).pond = (c.mill m).pond ∧ (d.mill m).poll = (c.mill m).poll ∧ (d.mill m).clkAt = (c.mill m).clkAt)
      ∧ (∀ m, m ∉ ms → d.mill m = c.mill m)
      ∧ (∀ m ∈ ms, (d.mill m).stall.isSome = c.stalled m)
  | [], c => ⟨fun _ => rfl, rfl, fun _ => ⟨rfl, rfl, rfl, rfl, rfl, rfl⟩, fun _ _ => rfl, fun _ h => by simp at h⟩
  | k :: ms, c => by
    obtain ⟨h1, h2, h3, h4, h5⟩ := Chip.measures_spec now ms (c.measure now k)
    simp only [List.foldl_cons]
    refine ⟨fun m => by rw [h1, Chip.stalled_measure], ?_, fun m => ?_, fun m hm => ?_, fun m hm => ?_⟩
    · rw [h2]; rfl
    · obtain ⟨a, b, e, f, g, i⟩ := h3 m
      obtain ⟨a', b', e', f', g', i'⟩ := c.mill_measure now k m
      exact ⟨a.trans a', b.trans b', e.trans e', f.trans f', g.trans g', i.trans i'⟩
    · simp only [List.mem_cons, not_or] at hm
      rw [h4 m hm.2]
      unfold Chip.measure
      rw [Chip.mill_setMill, if_neg hm.1]
    · by_cases hin : m ∈ ms
      · rw [h5 m hin, Chip.stalled_measure]
      · have : m = k := by simpa [hin] using hm
        subst this
        rw [h4 m hin]
        unfold Chip.measure
        rw [Chip.mill_setMill_self]
        split <;> simp [*]

/-- All that keeping the stall measurement does. -/
theorem Chip.measureAll_spec (c : Chip) (now : Nat) :
    (c.measureAll now) = { c with mills := (c.measureAll now).mills }
      ∧ (∀ m, ((c.measureAll now).mill m).threads = (c.mill m).threads ∧ ((c.measureAll now).mill m).chans = (c.mill m).chans
          ∧ ((c.measureAll now).mill m).imem = (c.mill m).imem ∧ ((c.measureAll now).mill m).pond = (c.mill m).pond
          ∧ ((c.measureAll now).mill m).poll = (c.mill m).poll ∧ ((c.measureAll now).mill m).clkAt = (c.mill m).clkAt)
      ∧ (∀ m, (c.measureAll now).stalled m = c.stalled m)
      ∧ (c.measureAll now).measured = true := by
  obtain ⟨h1, h2, h3, h4, h5⟩ := Chip.measures_spec now (List.range 16) c
  refine ⟨h2, h3, h1, ?_⟩
  simp only [Chip.measured, List.all_eq_true, List.mem_range, beq_iff_eq]
  intro m hm
  rw [show (c.measureAll now).stalled m = c.stalled m from h1 m]
  exact h5 m (List.mem_range.mpr hm)

@[simp] theorem Chip.measureAll_th (c : Chip) (now m t : Nat) : (c.measureAll now).th m t = c.th m t := by
  unfold Chip.th; rw [((c.measureAll_spec now).2.1 m).1]

@[simp] theorem Chip.measureAll_regs (c : Chip) (now : Nat) : (c.measureAll now).regs = c.regs := by
  rw [(c.measureAll_spec now).1]

@[simp] theorem Chip.measureAll_due (c : Chip) (now : Nat) : (c.measureAll now).due = c.due := by
  rw [(c.measureAll_spec now).1]

@[simp] theorem Chip.measureAll_ft (c : Chip) (now : Nat) : (c.measureAll now).ft = c.ft := by
  rw [(c.measureAll_spec now).1]

/-! ### What a step leaves -/

@[simp] theorem Chip.settle_due (c : Chip) (now : Nat) : (c.settle now).due = [] := by
  unfold Chip.settle; rw [Chip.measureAll_due]

@[simp] theorem Chip.settle_measured (c : Chip) (now : Nat) : (c.settle now).measured = true := by
  unfold Chip.settle; exact (Chip.measureAll_spec _ _).2.2.2

/-- The stall condition does not read the time service. -/
theorem Chip.stalled_ft (c : Chip) (f : TimeSt) (m : Nat) : ({ c with ft := f } : Chip).stalled m = c.stalled m := by
  have hk : ∀ a b, ({ c with ft := f } : Chip).chanKind a b = c.chanKind a b := fun _ _ => rfl
  have hq : ∀ a b, ({ c with ft := f } : Chip).queued a b = c.queued a b := fun _ _ => rfl
  have hc : ∀ a b, ({ c with ft := f } : Chip).credits a b = c.credits a b := fun _ _ => rfl
  have hf : ∀ a, ({ c with ft := f } : Chip).freeCount a = c.freeCount a := fun _ => rfl
  have he : ∀ a b x, ({ c with ft := f } : Chip).engCredit a b x = c.engCredit a b x := fun _ _ _ => rfl
  have hl : ∀ a x, ({ c with ft := f } : Chip).liveFor a x = c.liveFor a x := fun _ _ => rfl
  have ho : ∀ a x, ({ c with ft := f } : Chip).waitsOut a x = c.waitsOut a x := fun _ _ => rfl
  have hm : ∀ a, ({ c with ft := f } : Chip).mill a = c.mill a := fun _ => rfl
  have hw : ∀ a t x, ({ c with ft := f } : Chip).wakeable a t x = c.wakeable a t x := fun a t x => by
    unfold Chip.wakeable
    simp only [hk, hq, hc, hf, he]
  unfold Chip.stalled Chip.quiescent
  simp only [hm, hl, ho, hw]

theorem Chip.measured_ft (c : Chip) (f : TimeSt) : ({ c with ft := f } : Chip).measured = c.measured := by
  unfold Chip.measured
  simp only [Chip.stalled_ft]
  rfl

/-- The three ways a command's step can end: no step of device time, one that is taken, one that the mode refuses. -/
theorem State.stepped_cases (s : State) (c : Chip) :
    (c.ft.stepTo = none ∧ s.stepped c = { s with chip := c })
    ∨ (∃ t, c.ft.stepTo = some t ∧ stepAdmitted s.chip.mode s.time t = true ∧
        ∃ d : Chip, d.due = [] ∧ d.measured = true ∧ s.stepped c = { s with time := t, chip := { d with ft := { d.ft with stepTo := none } } })
    ∨ (∃ t, c.ft.stepTo = some t ∧ stepAdmitted s.chip.mode s.time t = false
        ∧ s.stepped c = { s with chip := { c with ft := { c.ft with stepTo := none } } }) := by
  unfold State.stepped
  rcases h : c.ft.stepTo with _ | t
  · exact .inl ⟨rfl, rfl⟩
  · by_cases ha : stepAdmitted s.chip.mode s.time t = true
    · exact .inr (.inl ⟨t, rfl, ha, (c.stepTime s.time t).settle t, Chip.settle_due _ _, Chip.settle_measured _ _,
        if_pos ha⟩)
    · exact .inr (.inr ⟨t, rfl, by simpa using ha, if_neg ha⟩)

/-- After every command nothing is left over (entry 48). -/
theorem State.stepped_settled (s : State) (e : Chip) (hc : e.due = []) : (s.stepped e).chip.settled = true := by
  rcases s.stepped_cases e with ⟨hn, h⟩ | ⟨t, _, _, d, hd, _, h⟩ | ⟨t, _, _, h⟩ <;> rw [h] <;> unfold Chip.settled
  · rw [hc, hn]; rfl
  · show (d.due.isEmpty && true) = true
    rw [hd]; rfl
  · show (e.due.isEmpty && true) = true
    rw [hc]; rfl

theorem State.done_settled (s : State) (c : Chip) : (s.done c).chip.settled = true :=
  s.stepped_settled _ (Chip.settle_due c s.time)

/-- After every command each stall measurement runs exactly while its condition holds (R124). -/
theorem State.stepped_measured (s : State) (e : Chip) (hc : e.measured = true) : (s.stepped e).chip.measured = true := by
  rcases s.stepped_cases e with ⟨_, h⟩ | ⟨t, _, _, d, _, hd, h⟩ | ⟨t, _, _, h⟩ <;> rw [h]
  · exact hc
  · exact (Chip.measured_ft _ _).trans hd
  · exact (Chip.measured_ft _ _).trans hc

theorem State.done_measured (s : State) (c : Chip) : (s.done c).chip.measured = true :=
  s.stepped_measured _ (Chip.settle_measured c s.time)

/-- In the steady modes no command's step takes device time backward (R45, R46). -/
theorem State.stepped_time (s : State) (e : Chip) (h : s.chip.steady = true) : s.time ≤ (s.stepped e).time := by
  rcases s.stepped_cases e with ⟨_, h'⟩ | ⟨t, _, ha, d, _, _, h'⟩ | ⟨t, _, _, h'⟩
  · simp only [h', Nat.le_refl]
  · simp only [h']
    unfold Chip.steady at h
    simp only [stepAdmitted, stepFree, stepForward, Bool.or_eq_true, Bool.and_eq_true, beq_iff_eq, decide_eq_true_eq] at ha h
    rcases ha with ha | ha
    · rcases h with ((h | h) | h) | h <;> rw [h] at ha <;> simp [Mode.service, Mode.degraded, Mode.drain, Mode.update, Mode.boot,
        Mode.provision, Mode.standby, Mode.diagnostic] at ha
    · exact ha.2
  · simp only [h', Nat.le_refl]

theorem State.done_time (s : State) (c : Chip) (h : s.chip.steady = true) : s.time ≤ (s.done c).time := s.stepped_time _ h

/-- Where nothing else moves, what follows a command within its step is the stall measurement alone. -/
theorem Chip.settle_calm (c : Chip) (now : Nat) (h : c.calm = true) : c.settle now = c.measureAll now := by
  simp only [Chip.calm, Chip.settled, Bool.and_eq_true, Bool.not_eq_true', List.isEmpty_iff, Option.isNone_iff_eq_none,
    List.all_eq_true, List.mem_range] at h
  obtain ⟨⟨⟨⟨hd, _⟩, hf⟩, hs⟩, hw⟩ := h
  have hdue : ∀ n, Chip.dueAll now n c = c := fun n => by cases n <;> simp [Chip.dueAll, hd]
  have hmw : ∀ st, c.modeWordsEnd now st = c := fun st => by
    unfold Chip.modeWordsEnd
    have : ∀ (l : List Nat), (∀ k ∈ l, k < 21) → l.foldl (fun (c : Chip) k => if c.waiting k = .mode then c.wordEnd now k st [] else c) c = c := by
      intro l
      induction l with
      | nil => intro _; rfl
      | cons k l ih =>
        intro hl
        have : ¬ c.waiting k = .mode := by
          have := hw k (hl k (by simp))
          simpa using this
        simp only [List.foldl_cons, if_neg this]
        exact ih fun j hj => hl j (by simp [hj])
    exact this _ fun k hk => List.mem_range.mp hk
  have hse : c.standbyEnter now = c := by unfold Chip.standbyEnter; simp [hs]
  have hdr : c.dumpRun now = c := by unfold Chip.dumpRun; simp [hf]
  unfold Chip.settle Chip.waitsEnd
  simp only [hdue, hse, hmw, ite_self, hdr]
  rw [show ({ c with due := [] } : Chip) = c by rw [← hd]]

/-- Where nothing else moves, the state a command leaves is its own effect and the stall measurement. -/
theorem State.stepped_none (s : State) (e : Chip) (h : e.ft.stepTo = none) : s.stepped e = { s with chip := e } := by
  unfold State.stepped; rw [h]

theorem State.done_calm (s : State) (c : Chip) (h : c.calm = true) : s.done c = { s with chip := c.measureAll s.time } := by
  have hft : c.ft.stepTo = none := by
    simp only [Chip.calm, Chip.settled, Bool.and_eq_true, Option.isNone_iff_eq_none] at h; exact h.1.1.1.2
  unfold State.done
  rw [c.settle_calm s.time h]
  exact s.stepped_none _ (by rw [c.measureAll_ft, hft])

end Sys2Proof.Machine
end

