-- ==== Sys2Proof/Laws/Access.lean ====
section
/-! SUPPORT. What a write of one register does: a PUT that covers one register element is the write of that element, and a register-write
command ends with the status and adapter that the element's rule answers. -/

namespace Sys2Proof.Machine

/-- A PUT of one piece is the write of that piece. -/
theorem Chip.piecesPut_one (now : Nat) (c : Chip) (p : Piece) :
    Chip.piecesPut now [p] Code.OK c = ((c.piecePut now p).1, if (c.piecePut now p).1 = Code.OK then (c.piecePut now p).2 else c) := by
  simp [Chip.piecesPut, firstCode]

/-- A PUT that covers one register element is the write of that element. -/
theorem Chip.put_elem (c : Chip) (now a : Nat) (vs : List Word) (e : Elem) (hs : inSat a = false) (ha : a % 8 = 0)
    (hc : c.cut a vs = some [.elem e]) : c.put now a vs = c.elemPut now e := by
  have h1 : c.put now a vs = c.putPlain now a vs := by simp [Chip.put, hs]
  rw [h1]
  simp only [Chip.putPlain, ha, hc, Chip.piecesPut_one]
  simp only [List.find?, Chip.piecePut]
  by_cases h : (c.elemPut now e).1 = Code.OK
  · simp [h, Prod.ext_iff]
  · simp [h]

/-- A register write of one element whose rule answers `r`. -/
theorem State.wrote_elem (s : State) (a : Nat) (vs : List Word) (e : Elem) (r : Status × Chip) (hw : s.writable a = true)
    (hs : inSat a = false) (ha : a % 8 = 0) (hc : s.found.cut a vs = some [.elem e]) (hb : s.found.regUp e.base = true)
    (hr : s.found.hook (s.found.filled s.time a vs) s.time e = r) :
    State.on s (fun now c => c.regWrite now a vs) = s.wrote r.1 r.2 := by
  rw [State.on_done]
  have h2 : s.found.elemPut s.time e = r := by
    rw [← hr]
    simp [Chip.elemPut, hb, Chip.filled, hc]
  simp only [State.writable, Bool.and_eq_true] at hw
  simp only [Chip.regWrite, hw.1.1, hw.1.2, Bool.and_self, if_true, Chip.put_elem _ _ _ _ _ hs ha hc, h2]
  rfl

end Sys2Proof.Machine
end

