-- ==== Sys2Proof/Laws/Fecia.lean ====
section
/-! SUPPORT. What the operations of Mills do, said once: issue, core events, exceptions. -/

namespace Sys2Proof.Machine

/-- Folding a step that keeps a field keeps it. -/
theorem foldl_keep {α β γ : Type} (g : α → γ) (f : α → β → α) (h : ∀ a b, g (f a b) = g a) : ∀ (l : List β) (a : α), g (l.foldl f a) = g a
  | [], _ => rfl
  | b :: l, a => (foldl_keep g f h l (f a b)).trans (h a b)

/-- Core events write counters alone (R96). -/
theorem Chip.events_eq (c : Chip) (m t prio : Nat) (evs : List Nat) :
    c.events m t prio evs = { c with regs := (c.events m t prio evs).regs } := by
  unfold Chip.events
  generalize List.range 8 = l
  induction l generalizing c with
  | nil => rfl
  | cons k l ih =>
    simp only [List.foldl_cons]
    rw [ih]
    split <;> rfl

@[simp] theorem Chip.events_th (c : Chip) (m t prio : Nat) (evs : List Nat) (m' t' : Nat) : (c.events m t prio evs).th m' t' = c.th m' t' := by
  rw [Chip.events_eq]; rfl

@[simp] theorem Chip.events_mem (c : Chip) (m t prio : Nat) (evs : List Nat) : (c.events m t prio evs).mem = c.mem := by
  rw [Chip.events_eq]

@[simp] theorem Chip.events_mills (c : Chip) (m t prio : Nat) (evs : List Nat) : (c.events m t prio evs).mills = c.mills := by
  rw [Chip.events_eq]

/-- Core events leave every register but the eight counters of the core as it was. -/
theorem Chip.events_rd (c : Chip) (m t prio a : Nat) (evs : List Nat) (h : ∀ k < 8, a ≠ A.MA_CNT m (8 * (t / 16) + k)) :
    (c.events m t prio evs).rd a = c.rd a := by
  unfold Chip.events
  have : ∀ (l : List Nat) (c : Chip), (∀ k ∈ l, k < 8) → (l.foldl (fun c k =>
      let i := 8 * (t / 16) + k
      let sel := A.MA_CNTSEL m i
      let e := c.get sel F.MA_CNTSEL_EVENT
      let n := (evs.filter (· == e)).length
      if n = 0 ∨ e = 0 ∨ natBits (c.get sel F.MA_CNTSEL_PRIO_MASK) prio 1 = 0 then c
      else c.add (A.MA_CNT m i) (if c.flag sel F.MA_CNTSEL_MODE then 1 else n)) c).rd a = c.rd a := by
    intro l
    induction l with
    | nil => intro c _; rfl
    | cons k l ih =>
      intro c hl
      simp only [List.foldl_cons]
      rw [ih _ fun j hj => hl j (List.mem_cons_of_mem _ hj)]
      split
      · rfl
      · exact Chip.rd_set_ne _ _ _ (by simpa using h k (hl k (List.mem_cons_self ..)))
  exact this _ c fun k hk => List.mem_range.mp hk

/-- An instruction that its thread can issue, with every field that must be 0 at 0, has its effect on the adapter as issued (R76, R78). -/
theorem Chip.issue_of_issues (c : Chip) (now m t w : Nat) (regs : List Nat) (k : Chip → Chip) (h : c.issues now m t w regs = true) :
    c.issue now m t w 0 regs k = k (c.issued now m t) := by
  unfold Chip.issues Chip.fetches at h
  simp only [Bool.and_eq_true, Bool.not_eq_true', decide_eq_true_eq] at h
  obtain ⟨⟨⟨⟨h1, h2⟩, h3⟩, h4⟩, h5⟩ := h
  unfold Chip.issue Chip.issued
  simp only [h1, h2, h3, h4, h5, Bool.not_true, Bool.or_false, Bool.false_eq_true, if_false, ne_eq, not_true_eq_false, false_and,
    false_or]

/-- The outcome of an instruction that its thread can issue, with every field that must be 0 at 0. -/
theorem State.on_issue (s : State) (m t w : Nat) (regs : List Nat) (k : Nat → Chip → Chip) (h : s.found.issues s.time m t w regs = true) :
    s.on (fun now c => c.issue now m t w 0 regs (k now)) = .next (s.done (k s.time (s.found.issued s.time m t))) := by
  rw [State.on_done, Chip.issue_of_issues _ _ _ _ _ _ _ h]

/-- With a field that must be 0 holding another value, the instruction is illegal once it issues (R76). -/
theorem Chip.issue_illegal (c : Chip) (now m t w mbz : Nat) (regs : List Nat) (k : Chip → Chip) (h : c.issues now m t w regs = true)
    (hz : mbz ≠ 0) : c.issue now m t w mbz regs k = (c.issued now m t).exception now m t Code.EXC_ILLEGAL := by
  unfold Chip.issues Chip.fetches at h
  simp only [Bool.and_eq_true, Bool.not_eq_true', decide_eq_true_eq] at h
  obtain ⟨⟨⟨⟨h1, h2⟩, h3⟩, h4⟩, h5⟩ := h
  unfold Chip.issue Chip.issued
  simp only [h1, h2, h3, h4, h5, Bool.not_true, Bool.or_false, Bool.false_eq_true, if_false, hz, ne_eq, not_false_eq_true, if_true,
    not_true_eq_false, false_and, or_true]

/-- A word that Tables 3-5 to 3-10 do not list is illegal once it issues, whichever instruction was to run (R76). -/
theorem Chip.issue_unlisted (c : Chip) (now m t w mbz : Nat) (regs : List Nat) (k : Chip → Chip) (h : c.fetches now m t regs = true)
    (hw : c.codeWord m (c.th m t).pc ≠ w) (hl : wordListed (c.codeWord m (c.th m t).pc) = false) :
    c.issue now m t w mbz regs k = (c.issued now m t).exception now m t Code.EXC_ILLEGAL := by
  unfold Chip.fetches at h
  simp only [Bool.and_eq_true, Bool.not_eq_true'] at h
  obtain ⟨⟨⟨h1, h2⟩, h3⟩, h4⟩ := h
  unfold Chip.issue Chip.issued
  simp only [h1, h2, h3, h4, hw, hl, Bool.not_true, Bool.or_false, Bool.false_eq_true, if_false, ne_eq, not_false_eq_true, and_false,
    true_or, if_true]

/-- A thread that is not ready issues nothing (R78). -/
theorem Chip.issue_of_not_ready (c : Chip) (now m t w mbz : Nat) (regs : List Nat) (k : Chip → Chip)
    (h : (c.issuing m && (c.th m t).ready && !regs.any (c.th m t).busyReg) = false) : c.issue now m t w mbz regs k = c := by
  unfold Chip.issue
  rw [if_pos]
  cases h1 : c.issuing m <;> cases h2 : (c.th m t).ready <;> cases h3 : regs.any (c.th m t).busyReg <;> simp_all

end Sys2Proof.Machine
end

