-- ==== Sys2Proof/Machine/Package.lean ====
section
/-! DEFINITION. The package (R480-R483, Tables 19-1 to 19-3): the names of balls, and what each holds. No command depends on it. -/

namespace Sys2Proof.Machine

/-- The row letters L of R480. -/
def ballLetters : List String := ["A", "B", "C", "D", "E", "F", "G", "H", "J", "K", "L", "M", "N", "P", "T", "U", "V", "W", "Y"]

/-- The name of row `i`, 1 to 69 (R480). -/
def rowName (i : Nat) : String :=
  nth "" ["", "A", "B", "C"] ((i - 1) / 19) ++ nth "" ballLetters ((i - 1) % 19)

/-- A ball by its row and column, each 1 to 69. -/
structure Ball where
  row : Nat
  col : Nat
  deriving DecidableEq, Repr

/-- The name of a ball (R480). -/
def Ball.name (b : Ball) : String := rowName b.row ++ toString b.col

/-- A signal of one QDR port. -/
inductive QdrPin where
  | d (n : Nat)
  | addr (n : Nat)
  | ap
  | ckP
  | ckN
  | dkP (j : Nat)
  | dkN (j : Nat)
  | qkP (j : Nat)
  | qkN (j : Nat)
  | ldN
  | rwN
  | peN
  deriving DecidableEq, Repr

/-- The signals of a port in the order of R482. -/
def qdrPins : List QdrPin :=
  (List.range 72).map QdrPin.d ++ (List.range 25).map QdrPin.addr ++ [.ap, .ckP, .ckN]
    ++ (List.range 4).flatMap (fun j => [QdrPin.dkP j, .dkN j]) ++ (List.range 4).flatMap (fun j => [QdrPin.qkP j, .qkN j])
    ++ [.ldN, .rwN, .peN]

/-- A management pin (Table 19-2). -/
inductive MgmtPin where
  | refclkPcie (e : Nat) (neg : Bool)
  | perst (e : Nat)
  | rstN
  | pwrOk
  | sysclkIn
  | tck
  | tms
  | tdi
  | tdo
  | trstN
  | spiClk
  | spiCsN
  | spiIo (n : Nat)
  | i2cScl
  | i2cSda
  | smbAlertN
  | avsScl
  | avsSda
  | ppsIn
  | ppsOut
  | tclkIn
  | thermDp
  | thermDn
  | testMode
  | gpio (n : Nat)
  deriving DecidableEq, Repr

/-- The management pins in the order of Table 19-2. -/
def mgmtPins : List MgmtPin :=
  [.refclkPcie 0 false, .refclkPcie 0 true, .refclkPcie 1 false, .refclkPcie 1 true, .perst 0, .perst 1, .rstN, .pwrOk, .sysclkIn,
    .tck, .tms, .tdi, .tdo, .trstN, .spiClk, .spiCsN] ++ (List.range 4).map MgmtPin.spiIo
    ++ [.i2cScl, .i2cSda, .smbAlertN, .avsScl, .avsSda, .ppsIn, .ppsOut, .tclkIn, .thermDp, .thermDn, .testMode]
    ++ (List.range 16).map MgmtPin.gpio

/-- A supply (Table 19-5). -/
inductive Supply where
  | core
  | sram
  | aon
  | eth075
  | eth12
  | pcie075
  | pcie12
  | qdr
  | io
  deriving DecidableEq, Repr

/-- What a ball holds. -/
inductive BallUse where
  | eth (lane : Nat) (rx neg : Bool)
  | refclkEth (g : Nat) (neg : Bool)
  | pcie (e lane : Nat) (rx neg : Bool)
  | qdrPort (ch : Nat) (b : Bool) (pin : QdrPin)
  | qdrRstN (ch : Nat)
  | qdrZq (ch : Nat)
  | mgmt (pin : MgmtPin)
  | supply (s : Supply)
  | vss
  deriving DecidableEq, Repr

/-- The signal of a channel at ordinal `k` of its 240 signal balls (R482). -/
def qdrSignal (ch k : Nat) : BallUse :=
  if k < 119 then .qdrPort ch false (nth .ap qdrPins k)
  else if k = 119 then .qdrRstN ch
  else if k < 239 then .qdrPort ch true (nth .ap qdrPins (k - 120))
  else .qdrZq ch

/-- What channel `ch` holds at local row `r` and local column `c` of its block (R482). -/
def qdrBlock (ch r c : Nat) : BallUse :=
  if c % 6 = 0 then (if r % 2 = 1 then .supply .qdr else .vss)
  else if r = 13 then .vss
  else qdrSignal ch (20 * (r - 1) + (c - 1 - c / 6))

/-- One lane of a row of pairs that starts at column `c0`: the lane and the half of the pair at column `c`. -/
def pairAt (c0 c : Nat) : Option (Nat × Bool) :=
  if c0 ≤ c ∧ c < c0 + 64 ∧ (c - c0) % 4 < 2 then some ((c - c0) / 4, (c - c0) % 4 == 1) else none

/-- A row of lane pairs with what else it holds. -/
def pairRow (c0 c : Nat) (use : Nat → Bool → BallUse) : BallUse :=
  match pairAt c0 c with
  | some (n, neg) => use n neg
  | none => .vss

/-- What an even column from 2 to `last` of a supply row holds. -/
def evenCols (first last c : Nat) (s : Supply) : BallUse :=
  if first ≤ c ∧ c ≤ last ∧ c % 2 = 0 then .supply s else .vss

/-- What a ball holds (R481, R482, Table 19-2). -/
def Ball.use (b : Ball) : BallUse :=
  let i := b.row
  let c := b.col
  if i = 2 then pairRow 4 c fun n neg => .eth n false neg
  else if i = 4 then (if 4 ≤ c ∧ c ≤ 67 then .supply .eth075 else .vss)
  else if i = 5 then pairRow 4 c fun n neg => .eth n true neg
  else if i = 7 then (if 10 ≤ c ∧ c < 74 ∧ (c - 10) % 16 < 2 then .refclkEth ((c - 10) / 16) ((c - 10) % 16 == 1) else .vss)
  else if i = 8 then evenCols 4 66 c .eth12
  else if i < 9 then .vss
  else if i ≤ 61 then
    if c ≤ 24 then (if i = 61 then .vss else qdrBlock ((i - 9) / 13) ((i - 9) % 13 + 1) c)
    else if 46 ≤ c then (if i = 61 then .vss else qdrBlock (4 + (i - 9) / 13) ((i - 9) % 13 + 1) (70 - c))
    else if (i + c) % 2 = 0 then .vss
    else if 60 ≤ i then .supply .aon
    else if i ≤ 18 ∨ 50 ≤ i then .supply .sram
    else .supply .core
  else if i = 62 then
    if 2 ≤ c ∧ c ≤ 48 then .mgmt (nth .rstN mgmtPins (c - 2))
    else if 50 ≤ c ∧ c ≤ 61 then .supply .io
    else .vss
  else if i = 69 then pairRow 2 c fun n neg => .pcie 0 n false neg
  else if i = 67 then pairRow 2 c fun n neg => .pcie 0 n true neg
  else if i = 65 then pairRow 2 c fun n neg => .pcie 1 n false neg
  else if i = 63 then pairRow 2 c fun n neg => .pcie 1 n true neg
  else if i = 68 ∨ i = 64 then evenCols 2 64 c .pcie075
  else if i = 66 then evenCols 2 64 c .pcie12
  else .vss

/-- The ball of signal `k` of channel `ch` (R482). -/
def qdrBall (ch k : Nat) : Ball :=
  let j := k % 20
  let c := j + 1 + j / 5
  ⟨8 + 13 * (ch % 4) + k / 20 + 1, if ch < 4 then c else 70 - c⟩

/-- Whether the boundary scan chain covers a ball: every signal ball but the lanes, which IEEE 1149.6 covers, and the analog ones (R495). -/
def Ball.scanned (b : Ball) : Bool :=
  match b.use with
  | .eth _ _ _ | .pcie _ _ _ _ | .qdrZq _ | .mgmt .thermDp | .mgmt .thermDn | .supply _ | .vss => false
  | _ => true

end Sys2Proof.Machine
end

