-- ==== Sys2Proof/Tests/Slice0.lean ====
section
/-! SUPPORT. The model's own tests: an ill-formed command for each check of WellFormed, a state and operands that meet the hypotheses of
each statement together (named `met_<statement>`), and one-step tests whose expected values are worked out from the spec's own words and
examples (named `test_<what>`). -/

namespace Sys2Proof.Tests

set_option Elab.async false

open Sys2Proof.Machine

/-! ### The small states of the tests -/

/-- The adapter with every power domain ON, the command processor running, in mode `m`. -/
def chip (m : Nat) : Chip :=
  { Chip.init with
    regs := (A.CP_MODE, BitVec.ofNat 64 (0x20 + m)) :: (List.range 50).map fun d => (A.CP_PWR_STATUS d, 2)
    pwr := { PwrSt.init with fwRuns := true } }

/-- A state between steps with adapter `c` and device time 1 ms. -/
def state (c : Chip) : State := { pending := [], time := 0xF4240 * 0x10000, chip := c }

/-- An ACTIVE thread of nothing. -/
def active : Thread := { Thread.free with st := 2 }

/-- A state in Service whose thread 0 of Mill 0 is `x`. -/
def running (x : Thread) : State := state ((chip 6).setTh 0 0 x)

theorem test_reset_sound : State.reset.sound = true := by decide +kernel

/-- The state an outcome goes on with. -/
def after : Host.Outcome State Fault Refusal → Option State
  | .next u => some u
  | _ => none

/-- A request of thread 0 of Mill 0 on channel `ch`, of no packet. -/
def req (ch : Nat) (ws : List Word) : EngReq :=
  { mill := 0, tid := 0, chan := ch, words := ws, pk := none, pkt := 0, valid := false, plen := 0, slice := 0, istamp := 0, ver0 := 0,
    ver1 := 0, system := true, sent := 0, owed := false }

/-- Adapter `c` with the one request `r` waiting. -/
def asked (c : Chip) (r : EngReq) : State := state { c with reqs := [r] }

/-- State `s` with the word of instruction `i` at the pc of thread 0 of Mill 0. -/
def fetching (s : State) (i : Instr) : State :=
  let y := s.chip.mill 0
  { s with chip := s.chip.setMill 0 { y with imem := wrBytes y.imem (4 * (s.chip.th 0 0).pc) (leBytes 4 (feciaWord i)) } }

/-- Thread 0 of Mill 0 can issue `i`, whose word stands at its pc, in state `s`. -/
def ready (s : State) (i : Instr) : Bool :=
  match issuer i with
  | some (m, t, regs) => (fetching s i).found.issues (fetching s i).time m t (feciaWord i) regs
  | none => false

/-- What follows once an instruction has issued in state `s`. -/
def issuedBy (s : State) : Chip := s.found.issued s.time 0 0

/-! ### The block as a whole -/

theorem met_StepRunsFront : ({ running active with pending := [.threadStart 0 0] }).pending = [Instr.threadStart 0 0] ∧
    3 ≤ State.reset.chip.mode ∧ (Chip.init.set A.CP_MODE F.CP_MODE_CURRENT 2).mode < 3 := by decide +kernel

theorem met_StepKeepsSettled : (State.reset.chip.settled && State.reset.chip.measured) = true ∧
    after (step State.reset) = some { State.reset with time := 0x2000 } := by decide +kernel

theorem met_StepKeepsMeasured : (running active).chip.measured = true ∧ (after (step (running active))).isSome = true := by decide +kernel

theorem met_DeviceTimeNeverBack : (state (chip 6)).chip.steady = true ∧
    after (step (state (chip 6))) = some { state (chip 6) with time := (state (chip 6)).time + 0x2000 } := by decide +kernel

theorem met_MemoryKeepsForm : Mem.wf (wrBytes [] 7 [1, 2]) = true ∧ (chip 6).canonical = true := by decide +kernel

theorem met_FieldsTakeTheirWrite : (findRow (regionRows A.CP_DRAIN_CFG) A.CP_DRAIN_CFG).isSome = true ∧ A.CP_DRAIN_CFG % 8 = 0 ∧
    (chip 6).reserved A.CP_DRAIN_CFG = false ∧ (chip 6).place A.CP_DRAIN_CFG = none ∧ millOffset A.CP_DRAIN_CFG = none ∧
    (chip 6).ft.armed = [] := by decide +kernel

/-! ### Fecia -/

theorem met_RegisterAluResults : [Instr.add 0 0 1 2 31, .sub 0 0 1 2 31, .and 0 0 1 2 31, .or 0 0 1 2 31, .xor 0 0 1 2 31, .andn 0 0 1 2 31,
    .sll 0 0 1 2 31, .srl 0 0 1 2 31, .sra 0 0 1 2 31, .rol 0 0 1 2 31, .min 0 0 1 2 31, .max 0 0 1 2 31, .minu 0 0 1 2 31, .maxu 0 0 1 2 31,
    .slt 0 0 1 2 31, .sltu 0 0 1 2 31, .seq 0 0 1 2 31, .mul 0 0 1 2 31, .mulhu 0 0 1 2 31, .csum 0 0 1 2 31, .crc 0 0 1 2 31, .bswap16 0 0 31 1 0,
    .bswap32 0 0 31 1 0, .bswap64 0 0 31 1 0, .clz 0 0 31 1 0, .ctz 0 0 31 1 0, .popc 0 0 31 1 0].all (ready (running active)) = true ∧
    (5 : Word) ≠ 0 := by decide +kernel

theorem met_ImmediateResults : [Instr.addi 0 0 1 2 (-1), .andi 0 0 1 2 3, .ori 0 0 1 2 3, .xori 0 0 1 2 3, .slli 0 0 1 2 63 0, .srli 0 0 1 2 63 0,
    .srai 0 0 1 2 63 0, .roli 0 0 1 2 63 0, .seqi 0 0 1 2 3, .sltiu 0 0 1 2 3, .movz 0 0 1 3 5 0, .movk 0 0 1 3 5 0, .bext 0 0 1 2 59 4 0,
    .bins 0 0 1 2 0 63 0].all (ready (running active)) = true ∧ 59 + (4 + 1) ≤ 64 ∧ 0 + (63 + 1) ≤ 64 ∧ (3 : Nat) + 5 ≤ 64 := by decide +kernel

/-- A thread at pc 3 of Mill 0 whose instruction word is `w`. -/
def wordAt3 (w : Nat) : State :=
  let c := (chip 6).setTh 0 0 { active with pc := 3 }
  state (c.setMill 0 { c.mill 0 with imem := wrBytes [] 12 (leBytes 4 w) })

theorem met_IssueRefused :
    [Instr.clz 0 0 1 2 3, .bext 0 0 1 2 60 4 0, .jmp 0 0 7 1, .ld 0 0 1 2 2 3 true 0, .st 0 0 1 2 2 0 true 0].all
      (fun i => ready (running active) i && mustBeZero i != 0) = true ∧
    (issuer (.add 0 0 1 2 3) = some (0, 0, [1, 2, 3]) ∧ (wordAt3 0x04000015).found.fetches 0 0 0 [1, 2, 3] = true ∧
      (wordAt3 0x04000015).found.codeWord 0 3 = 0x04000015 ∧ 0x04000015 ≠ feciaWord (.add 0 0 1 2 3) ∧ wordListed 0x04000015 = false) ∧
    ((running Thread.free).found.issuing 0 && ((running Thread.free).found.th 0 0).ready &&
      !([1, 2, 3].any ((running Thread.free).found.th 0 0).busyReg)) = false ∧ (running Thread.free).found.calm = true ∧
    issuer (.add 0 0 1 2 3) ≠ none := by decide +kernel

theorem met_RegisterInstructionFrame :
    let s := fetching (running active) (.add 0 0 1 2 3)
    after (exec (.add 0 0 1 2 3) s) = after (s.writes 0 0 1 fun x => x.reg 2 + x.reg 3) ∧ (after (exec (.add 0 0 1 2 3) s)).isSome = true ∧ s.found.calm = true ∧ (s.found.th 0 0).st = 2 ∧
    s.found.sram (48 + 0) ((s.found.th 0 0).pc / 8) = 0 := by decide +kernel

/-- A thread whose g1 is 0x40 and whose packet has 64 bytes. -/
def loaded : Thread := { active with g := [(1, 0x40)], pk := some 0, valid := true, plen := 64 }

/-- What a thread that loads has outstanding. -/
def outstanding : PktLoad := ⟨2, 0, 8, false, 0, false⟩

theorem met_LoadResults :
    let s := running loaded
    let c := issuedBy s
    [Instr.ld 0 0 2 1 0 3 false (-8), .ld 0 0 2 1 1 3 false 0, .ld 0 0 2 1 2 2 true 0, .ld 0 0 2 1 4 3 false (-48), .ld 0 0 2 1 3 3 false (-8)].all
      (ready s) = true ∧
    [(0, 56), (1, 0x40), (2, 0x40), (4, 0x10), (3, 56)].all (fun x => accessCheck loaded x.1 x.2 8 false false == Code.OK) = true ∧
    (let w := spaceWords 0 0 2 0x40 8; (Chip.readSrams s.time w.1 0 0 w.2.2 w.2.1 c).1) = false ∧
    (c.readSram s.time 1 (2 * c.bobSlot loaded.pkt + 0x10 / 32) 0 0).1 = false ∧ loaded.loads.length < 4 := by decide +kernel

theorem met_LoadResults_return :
    let x : Thread := { loaded with loads := [outstanding] }
    let c := (running x).found.setTh 0 0 { x with loads := [] }
    let d := { c with mem := { c.mem with stitchS := [(c.bobBase x.pkt / 32, poisonMark)] } }
    x.loads = outstanding :: [] ∧ c.open1 23 = true ∧ (c.bobRead 0 (c.bobBase x.pkt + 0) 8 0).1 = false ∧ d.open1 23 = true ∧
    (d.bobRead 0 (d.bobBase x.pkt + 0) 8 0).1 = true ∧ (c.setBound 23 { Bound.init with st := 2 }).open1 23 = false := by decide +kernel

theorem met_LoadResults_checks :
    (spaceSize loaded 3 < 60 + 8 ∧ 4 + 8 ≤ spaceSize loaded 2 ∧ 4 % 8 ≠ 0 ∧ 60 + 8 ≤ spaceSize loaded 0 ∧
      (if loaded.valid then loaded.plen else 0) < 60 + 8) ∧
    [Instr.ld 0 0 2 1 5 0 false 0, .ld 0 0 2 1 3 0 false 0, .st 0 0 2 1 3 0 false 0, .aadd 0 0 2 3 1, .aswp 0 0 2 3 1, .acas 0 0 2 3 1,
      .amaxu 0 0 2 3 1].all (ready (running { loaded with g := [(1, 0x40), (3, 4)] })) = true ∧
    accessCheck loaded 5 0x40 1 false false ≠ Code.OK ∧ accessCheck loaded 3 0x40 1 false false ≠ Code.OK ∧
    accessCheck loaded 3 0x40 1 true false ≠ Code.OK ∧ accessCheck loaded 2 4 8 false true ≠ Code.OK ∧ loaded.loads.length < 4 := by decide +kernel

theorem met_WriteOfG0Discarded :
    let s := running loaded
    [Instr.add 0 0 0 1 2, .addi 0 0 0 1 9, .clz 0 0 0 1 0, .ld 0 0 0 1 1 3 false 0, .ld 0 0 0 1 0 3 false 0].all (ready s) = true ∧
    accessCheck loaded 1 0x40 8 false false = Code.OK ∧
    (let w := spaceWords 0 0 1 0x40 8; (Chip.readSrams s.time w.1 0 0 w.2.2 w.2.1 (issuedBy s)).1) = false ∧
    accessCheck loaded 0 0x40 8 false false ≠ Code.OK := by decide +kernel

theorem met_StoreResults :
    let s := running loaded
    let c := issuedBy s
    let d := { c with mem := { c.mem with stitchS := [(2 ^ 24 * 32 + 2, poisonMark)] } }
    [Instr.st 0 0 2 1 2 3 false 0, .st 0 0 2 1 0 3 false (-8), .aadd 0 0 2 1 3, .aswp 0 0 2 1 3, .acas 0 0 2 1 3, .amaxu 0 0 2 1 3].all
      (ready s) = true ∧
    accessCheck loaded 2 0x40 8 true false = Code.OK ∧ accessCheck loaded 0 56 8 true false = Code.OK ∧
    (let w := spaceWords 0 0 2 0x40 8; (Chip.readSrams s.time w.1 2 0 w.2.2 w.2.1 c).1) = false ∧
    (let w := spaceWords 0 0 2 0x40 8; (Chip.readSrams s.time w.1 2 0 w.2.2 w.2.1 d).1) = true ∧
    accessCheck loaded 2 0x40 8 false true = Code.OK ∧ ((c.events 0 0 0 [0x0E]).readSram s.time 32 2 0 0).1 = false ∧
    leWord (rdBytes (c.mill 0).pond 0x40 8) = loaded.reg 2 ∧ leWord (rdBytes (c.mill 0).pond 0x40 8) ≠ loaded.reg 1 := by decide +kernel

/-- A thread with eight return addresses. -/
def deep : Thread := { active with rs := [1, 2, 3, 4, 5, 6, 7, 8] }

theorem met_ControlResults :
    [Instr.beq 0 0 1 2 7, .bne 0 0 1 2 7, .blt 0 0 1 2 7, .bge 0 0 1 2 7, .bltu 0 0 1 2 7, .bgeu 0 0 1 2 7, .jmp 0 0 7 0, .jr 0 0 1 0,
      .call 0 0 7 0, .ret 0 0 0].all (fun i => ready (running active) i && ready (running deep) i) = true ∧ active.rs.length < 8 ∧
    8 ≤ deep.rs.length ∧ deep.rs = [1, 2, 3, 4, 5, 6, 7] ++ [8] ∧ active.rs = [] := by decide +kernel

theorem met_ControlResults_special :
    ((List.range 17).all fun k => ready (running active) (.mfs 0 0 1 (Fin.ofNat 32 k) 0)) = true ∧
    [Instr.mfs 0 0 1 17 0, .mfs 0 0 1 31 0, .mfi 0 0 1 7 0, .mts 0 0 3 1 0, .mts 0 0 3 2 0, .mts 0 0 12 1 0, .mts 0 0 0 1 0, .mto 0 0 7 1 0].all
      (ready (running loaded)) = true ∧ 3 < (loaded.reg 1).toNat ∧ (loaded.reg 2).toNat ≤ 3 ∧
    (let s := running loaded
     let u := s.reach (s.time + 0x2000)
     ready u (.time 0 0 1 2 0) = true ∧ ready u (.time 0 0 1 1 0) = true ∧ 3 ≤ s.chip.mode) := by decide +kernel

/-- A thread all of whose join slots are filled; helper 1 has ended with status 9, helper 2 lives. -/
def joined : Thread := { active with
  g := [(1, 0x101), (2, 2), (3, 0x800)]
  joins := [⟨2, true, false, false, 0⟩, ⟨1, true, true, false, 9⟩] ++ List.replicate 6 ⟨3, true, false, false, 0⟩ }

/-- Every thread of Mill 0 is ACTIVE. -/
def full : State := state ((chip 6).setMill 0 { Mill.init with threads := (List.range 256).map fun t => (t, active) })

theorem met_ForkAndJoin :
    [Instr.fork 0 0 1 64 0, .forkw 0 0 1 64 0].all (fun i => ready (running active) i && ready (running joined) i) = true ∧
    active.emptySlot = some 0 ∧ ((issuedBy (running active)).spareThread 0 (some 0)).isSome = true ∧ joined.emptySlot = none ∧ (0 : Nat) ≠ 1 ∧
    (∀ k, some 0 = some k → k < (issuedBy (running active)).poolSize 0 / 16) := by decide +kernel

theorem met_ForkAndJoin_empty : [Instr.fork 0 0 1 64 0, .forkw 0 0 1 64 0].all (ready full) = true ∧
    (issuedBy full).spareThread 0 (some 0) = none := by decide +kernel

theorem met_ForkAndJoin_join :
    [Instr.join 0 0 4 1 0, .join 0 0 4 2 0, .join 0 0 4 3 0].all (ready (running joined)) = true ∧ 2048 ≤ (joined.reg 3).toNat ∧
    ((joined.reg 1).toNat < 2048 ∧ (nth JoinSlot.empty joined.joins ((joined.reg 1).toNat / 256 % 8)).filled = true ∧
      (nth JoinSlot.empty joined.joins ((joined.reg 1).toNat / 256 % 8)).tid = (joined.reg 1).toNat % 256 ∧
      (nth JoinSlot.empty joined.joins ((joined.reg 1).toNat / 256 % 8)).ended = true) ∧
    ((joined.reg 2).toNat < 2048 ∧ (nth JoinSlot.empty joined.joins ((joined.reg 2).toNat / 256 % 8)).filled = true ∧
      (nth JoinSlot.empty joined.joins ((joined.reg 2).toNat / 256 % 8)).tid = (joined.reg 2).toNat % 256 ∧
      (nth JoinSlot.empty joined.joins ((joined.reg 2).toNat / 256 % 8)).ended = false) := by decide +kernel

/-- A helper of thread 5. -/
def helper : Thread := { active with parent := 5 }

theorem met_EndingResults :
    [Instr.exit 0 0 1 0, .verd 0 0 1 2 0, .malf 0 0 0, .brk 0 0 9 0].all
      (fun i => ready (running active) i && ready (running { active with root := true }) i) = true ∧
    (issuedBy (running active)).flag (A.MA_DBG_CTRL 0) F.MA_DBG_CTRL_ENABLE = false ∧
    (let s := state (((chip 6).setFlag (A.MA_DBG_CTRL 0) F.MA_DBG_CTRL_ENABLE true).setTh 0 0 active)
     ready s (.brk 0 0 9 0) = true ∧ (issuedBy s).flag (A.MA_DBG_CTRL 0) F.MA_DBG_CTRL_ENABLE = true) ∧
    (helper.root = false ∧ helper.joins = List.replicate 8 JoinSlot.empty ∧ helper.res = none ∧ helper.pk = none ∧ helper.parent ≠ 0 ∧
      helper.parent ≠ 0xFFFF ∧ helper.reqs = 0 ∧ ({ helper with reqs := 1 }).reqs ≠ 0) ∧
    ((chip 6).setFlag (A.MA_EXC_LOG 0) F.MA_EXC_LOG_VALID true).flag (A.MA_EXC_LOG 0) F.MA_EXC_LOG_VALID = true ∧
    (chip 6).flag (A.MA_EXC_LOG 0) F.MA_EXC_LOG_VALID = false := by decide +kernel

/-- Channel 5 of Mill 0 is a LOCAL channel of two credits with a message of one word. -/
def local5 : Chip :=
  let c := ((chip 6).set (A.MA_CHAN 0 5) F.MA_CHAN_KIND 1).set (A.MA_CHAN 0 5) F.MA_CHAN_DEPTH 2
  (c.setQueued 0 5 [(16, [7])]).setTh 0 0 active

/-- Channel 9 of Mill 0 leads to channel 5 of Mill 3, a LOCAL channel, open to other Mills where `x`. -/
def remote9 (x : Bool) : Chip :=
  let c := (local5.set (A.MA_CHAN 3 5) F.MA_CHAN_KIND 1).setFlag (A.MA_CHAN 3 5) F.MA_CHAN_EXTERNAL x
  ((c.set (A.MA_CHAN 0 9) F.MA_CHAN_KIND 2).set (A.MA_CHAN 0 9) F.MA_CHAN_TARGET_MILL 3).set (A.MA_CHAN 0 9) F.MA_CHAN_TARGET_CHAN 5

theorem met_ChannelResults :
    let c := issuedBy (state local5)
    [Instr.send 0 0 0 5 0 0, .sendt 0 0 0 5 0 0, .recv 0 0 0 5 0, .recvt 0 0 0 5 0].all (ready (state local5)) = true ∧ c.chanKind 0 5 = .local_ ∧
    (c.blockedSenders 0 5).length < c.credits 0 5 ∧ (c.blockedReceivers 0 5).length = ([] : List (Nat × List Word)).length ∧
    c.queued 0 5 = [] ++ (16, [7]) :: [] ∧
    (let d := c.setQueued 0 5 [(16, [7]), (16, [8]), (16, [9])]; d.credits 0 5 ≤ (d.blockedSenders 0 5).length) ∧
    ((c.setQueued 0 5 []).queued 0 5).length ≤ (c.blockedReceivers 0 5).length := by decide +kernel

theorem met_ChannelResults_remote :
    [true, false].all (fun x => [Instr.send 0 0 0 9 0 0, .sendt 0 0 0 9 0 0].all (ready (state (remote9 x)))) = true ∧
    (let c := issuedBy (state (remote9 true))
     c.chanKind 0 9 = .remote 3 5 ∧ c.open1 3 = true ∧ c.chanKind 3 5 = .local_ ∧ c.flag (A.MA_CHAN 3 5) F.MA_CHAN_EXTERNAL = true ∧
     (c.blockedSenders 3 5).length < c.credits 3 5 ∧
     (let d := c.setQueued 3 5 (List.replicate 64 (0, [7])); d.credits 3 5 ≤ (d.blockedSenders 3 5).length) ∧
     (c.setBound 3 { Bound.init with st := 2 }).open1 3 = false) ∧
    (let c := issuedBy (state (remote9 false))
     c.chanKind 0 9 = .remote 3 5 ∧ c.flag (A.MA_CHAN 3 5) F.MA_CHAN_EXTERNAL = false) := by decide +kernel

theorem met_ChannelResults_engine :
    let c := issuedBy (running active)
    [Instr.send 0 0 0 512 0 0, .sendt 0 0 0 512 0 0, .recv 0 0 0 768 0, .recvt 0 0 0 768 0, .send 0 0 0 6 0 0].all (ready (running active)) = true ∧
    c.chanKind 0 512 = .engine ∧ c.spareCredit 0 512 active = true ∧ c.spareCredit 0 512 { active with reqs := 4 } = false ∧
    c.chanKind 0 6 = .unused ∧ ((c.setTh 0 0 { active with reqs := 1 }).epoch 0).up (engineTarget 512) = true ∧
    ((c.setBound 23 { Bound.init with st := 2 }).epoch 0).up (engineTarget 512) = false ∧ c.reqs.all (fun q => !q.owed) = true ∧
    ({ active with replies := [[1]] }).replies = [1] :: [] := by decide +kernel

/-! ### Threads and channels -/

theorem met_ThreadStarts : ((running { active with st := 1 }).found.th 0 0).st = 1 ∧ (running { active with st := 1 }).found.issuing 0 = true := by
  decide +kernel

/-- Thread 0 of Mill 0 waits as `w` says. -/
def blocked (w : Wait) : Thread := { active with st := match w with | .recv _ => 3 | .send _ _ => 4 | .forkw .. => 5 | _ => 6, wait := w }

theorem met_WaitersServed :
    (let c := local5.setTh 0 0 (blocked (.recv 5))
     c.firstServed ((c.blockedReceivers 0 5).map fun r => (0, r)) = some (0, 0) ∧ c.queued 0 5 = (16, [7]) :: []) ∧
    (let x := { blocked (.recv 768) with replies := [[1]] }; x.wait = .recv 768 ∧ x.replies = [1] :: []) ∧
    (let c := local5.setTh 0 0 (blocked (.send 5 [1]))
     c.chanKind 0 5 = .local_ ∧ 0 < c.credits 0 5 ∧ c.firstServed (c.blockedSenders 0 5) = some (0, 0)) ∧
    (let c := (chip 6).setTh 0 0 (blocked (.send 512 [1])); c.firstServed (c.ableSenders 0 512) = some (0, 0)) := by decide +kernel

theorem met_FirstServedIsFirst :
    let c := ((chip 6).setTh 0 0 { active with since := 5 }).setTh 0 1 { active with prio := 3, since := 9 }
    (∀ r ∈ [(0, 0), (0, 1)], (c.th r.1 r.2).prio ≤ 3 ∧ (c.th r.1 r.2).since < 2 ^ 80) ∧ c.firstServed [(0, 0), (0, 1)] = some (0, 1) ∧
    (0, 0) ∈ [(0, 0), (0, 1)] := by decide +kernel

theorem met_ForkwAndJoinWake :
    (let c := (chip 6).setTh 0 0 (blocked (.forkw 1 64 [] 0))
     c.firstServed (c.forkWaiters 0) = some (0, 0) ∧ (c.th 0 0).emptySlot = some 0 ∧ (c.pickThread 0 (some 0)).isSome = true) ∧
    (let x := { joined with st := 6, wait := .join 4 1 }; x.wait = .join 4 1 ∧ (nth JoinSlot.empty x.joins 1).ended = true) := by decide +kernel

/-- The wait limit of Mill 0 is 100 us. -/
def limited : Chip := (chip 6).wr (A.MA_WAIT_CFG 0) 100000

theorem met_WaitLimitEnds :
    (limited.rd (A.MA_WAIT_CFG 0)).toNat % 2 ^ 32 ≠ 0 ∧ memNat 0 limited.pwr.clkBusy = false ∧
    [Wait.recv 5, .send 5 [1], .forkw 1 64 [] 0, .join 1 0].all (fun w => !limited.idleWait 0 (blocked w)) = true ∧
    0 + 100000 * 0x10000 ≤ (state limited).time / 0x2000 * 0x2000 := by decide +kernel

/-- Channel 5 of Mill 0 takes messages of other Mills; one of Mill 3 is on its way, and a credit of Mill 0 to Mill 3. -/
def remote5 : Chip :=
  { local5.setFlag (A.MA_CHAN 0 5) F.MA_CHAN_EXTERNAL true with xmsgs := [⟨3, 0, 5, [1]⟩], xcreds := [⟨3, 0, 5⟩] }

theorem met_RemoteTraffic :
    remote5.xmsgs = [] ++ ⟨3, 0, 5, [1]⟩ :: [] ∧ (∀ y ∈ ([] : List XMsg), ¬ (y.src = 3 ∧ y.dst = 0)) ∧ remote5.open1 0 = true ∧
    (remote5.epoch 0).chanKind 0 5 = .local_ ∧ (remote5.epoch 0).flag (A.MA_CHAN 0 5) F.MA_CHAN_EXTERNAL = true ∧
    ((remote5.epoch 0).queued 0 5).length < (remote5.epoch 0).get (A.MA_CHAN 0 5) F.MA_CHAN_DEPTH + 1 ∧
    (local5.epoch 0).flag (A.MA_CHAN 0 5) F.MA_CHAN_EXTERNAL = false ∧ (remote5.setBound 0 { Bound.init with st := 2 }).open1 0 = false ∧
    remote5.xcreds = [] ++ ⟨3, 0, 5⟩ :: [] := by decide +kernel

theorem met_EngineReplies :
    ({ chip 6 with reps := [⟨0, 0, 512, [1]⟩] }).reps = [] ++ ⟨0, 0, 512, [1]⟩ :: [] ∧ active.st ≠ 9 ∧ active.replies.length < 4 ∧
    4 ≤ ({ active with replies := [[1], [2], [3], [4]] }).replies.length ∧ ({ active with st := 9, reqs := 2 }).reqs - 1 ≠ 0 ∧
    ({ active with st := 9, reqs := 1 }).reqs - 1 = 0 := by decide +kernel

/-- Thread 0 of Mill 0 waits for itself alone, measured since device time 0. -/
def stuck (action : Nat) : Chip :=
  let c := (chip 6).setTh 0 0 (blocked (.recv 5))
  let d := (c.set (A.MA_STALL_CFG 0) F.MA_STALL_CFG_ACTION action).set (A.MA_STALL_CFG 0) F.MA_STALL_CFG_STALL_LIMIT 10000
  d.setMill 0 { d.mill 0 with stall := some 0 }

theorem met_StallActions : (∀ a, a < 2 → ((stuck a).mill 0).stall = some 0 ∧
      0 + (stuck a).get (A.MA_STALL_CFG 0) F.MA_STALL_CFG_STALL_LIMIT * 0x10000 ≤ (stuck a).stampIn 0 (state (stuck a)).time ∧
      (stuck a).stalled 0 = true ∧ memNat 0 (stuck a).pwr.clkBusy = false ∧
      (stuck a).get (A.MA_STALL_CFG 0) F.MA_STALL_CFG_ACTION = a) ∧
    (((stuck 0).inc (A.MA_STALL_COUNT 0)).youngest 0).isSome = true := by decide +kernel

/-- Thread 0 of Mill 0 waits as at the poll before. -/
def polled : Chip := (stuck 0).setMill 0 { (stuck 0).mill 0 with poll := some (true, 0) }

/-- The Mills a poll of `c` finds Open, not stopped and quiescent with the epoch of the poll before. -/
def sameAgain (c : Chip) : List Nat :=
  let ep (m : Nat) := c.get (A.MA_STALL_STATUS m) F.MA_STALL_STATUS_MSG_EPOCH
  let reading (m : Nat) : Option (Bool × Nat) := if c.open1 m then some (c.quiescent m, ep m) else none
  (List.range 16).filter fun m => !c.millHalted m && (reading m == some (true, ep m)) && ((c.mill m).poll == some (true, ep m))

theorem met_CrossMillPoll : ((chip 6).setFlag A.MA_XSTALL_CTRL F.MA_XSTALL_CTRL_ENABLE false).flag A.MA_XSTALL_CTRL F.MA_XSTALL_CTRL_ENABLE = false ∧
    (chip 6).flag A.MA_XSTALL_CTRL F.MA_XSTALL_CTRL_ENABLE = true ∧ (chip 6).cmd.polled = none ∧
    (chip 6).youngestOf (closedSet (chip 6).extMask 16 (sameAgain (chip 6))) = none ∧
    polled.flag A.MA_XSTALL_CTRL F.MA_XSTALL_CTRL_ENABLE = true ∧
    polled.youngestOf (closedSet polled.extMask 16 (sameAgain polled)) = some (0, 0) ∧
    ¬ (stamp (state polled).time + 1000 * polled.get A.MA_XSTALL_CTRL F.MA_XSTALL_CTRL_POLL_US * 0x10000 ≤ stamp (state polled).time ∨
      stamp (state polled).time < stamp (state polled).time) := by decide +kernel

theorem met_ClosedSetLargest :
    let mask (m : Nat) : Nat := if m = 3 then 2 else 1
    (∀ m ∈ [0, 3], m < 16) ∧ [0, 3].Nodup ∧ closedSet mask 16 [0, 3] = [0] ∧
    (∀ m ∈ [0], m ∈ [0, 3]) ∧ ∀ m ∈ [0], ∀ k < 16, (mask m).testBit k = true → k ∈ [0] := by decide +kernel

/-- Diagnostic mode with the debugger of Mill 0 enabled; thread 0 is `x`. -/
def debugged (x : Thread) : Chip := ((chip 10).setFlag (A.MA_DBG_CTRL 0) F.MA_DBG_CTRL_ENABLE true).setTh 0 0 x

theorem met_DebugOperations : (chip 10).dbgOn 0 = false ∧ (debugged active).dbgOn 0 = true ∧ active.st ≠ 0 ∧ active.st ≠ 7 ∧ active.st ≠ 9 ∧
    (debugged active).millHalted 0 = false ∧
    ((debugged active).setFlag (A.MA_STALL_STATUS 0) F.MA_STALL_STATUS_MILL_HALTED true).millHalted 0 = true ∧
    ((debugged { active with st := 7 }).th 0 0).st = 7 ∧
    (let x : Thread := { active with st := 8, stepped := true }
     x.st = 8 ∧ x.stepped = true ∧ x.wait = .none ∧ (x.loads.all fun l => !l.step) = true) := by decide +kernel

theorem met_MillWrites : (state (debugged active)).writable (A.MA_DBG_CMD 0) = true ∧ (debugged active).debugMode = true ∧
    (running active).writable (A.MA_DBG_CMD 0) = true ∧ (running active).found.debugMode = false ∧
    (running active).writable (A.MA_DBG_CTRL 0) = true ∧ (running active).writable (A.MA_RESIDENT 0 15) = true ∧
    (running active).found.flag (A.MA_RESIDENT 0 15) F.MA_RESIDENT_LIVE = false ∧
    (let d := (running active).found.filled 0 (A.MA_RESIDENT 0 15) [2 ^ 18]; (d.spareThread 0 none).isSome = true) ∧
    (let d := full.found.filled 0 (A.MA_RESIDENT 0 15) [2 ^ 18]; d.spareThread 0 none = none) ∧
    ((chip 6).setFlag (A.MA_RESIDENT 0 15) F.MA_RESIDENT_LIVE true).flag (A.MA_RESIDENT 0 15) F.MA_RESIDENT_LIVE = true ∧
    (running active).writable (A.MA_CHAN 0 511) = true ∧ local5.chanFree 0 5 = false ∧ (chip 6).chanFree 0 511 = true ∧
    (local5.filled 0 (A.MA_CHAN 0 5) [3]).get (A.MA_CHAN 0 5) F.MA_CHAN_KIND = 3 ∧
    (local5.filled 0 (A.MA_CHAN 0 5) [1]).get (A.MA_CHAN 0 5) F.MA_CHAN_KIND ≠ 3 := by decide +kernel

theorem met_MillWrites_able :
    (∀ x ∈ [active, { active with st := 7 }], ∀ op ∈ [1, 2, 3, 4, 5, 6],
      (let d := (debugged x).filled 0 (A.MA_DBG_CMD 0) [BitVec.ofNat 64 op]
       d.dbgOn 0 = true ∧ d.millHalted 0 = false ∧ (d.th 0 0).st = x.st)) ∧
    (state (debugged active)).writable (A.MA_DBG_CMD 0) = true ∧ (state (debugged active)).writable (A.MA_DBG_CTRL 0) = true := by decide +kernel

/-! ### Frames, Dispatch, Prelook -/

/-- A frame of 60 bytes and its FCS, EtherType `t`. -/
def frame (t : Nat) : List Byte :=
  let b := List.replicate 12 1 ++ beBytes 2 t ++ List.replicate 46 0
  b ++ fcsOf b

/-- Port 0 present, enabled and with its link up, in mode `m`. -/
def linked (m : Nat) : Chip :=
  let c := (chip m).setFlag (A.PX_STATUS 0) F.PX_STATUS_LINK true
  c.setFlag (A.PX_CFG 0) F.PX_CFG_ENABLE true

/-- The adapter as frameReceive at port 0 classifies a frame, in mode `m`. -/
def heard (m : Nat) : Chip := ((state (linked m)).found.add (A.PX_FEC_CORRECTED 0) 0).add (A.PX_FEC_UNCORRECTED 0) 0

/-- The adapter after the frame has been counted as good. -/
def counted (c : Chip) (bs : List Byte) : Chip :=
  ((c.inc (A.PX_RX_FRAMES 0)).add (A.PX_RX_BYTES 0) bs.length).report 0 0 bs.length 7

/-- The receive buffer of port group 0 is full. -/
def crowded (c : Chip) : Chip :=
  let f : RxFrame := { port := 0, bytes := List.replicate 1024 0, frameLen := 1028, err := 0, prio := 0, stamp := 0 }
  { c with net := { c.net with rx := List.replicate 1024 f } }

/-- A good PFC frame that names priority 3, with its FCS. -/
def pfc : List Byte :=
  let b := bytesAt (pauseFrame (List.replicate 6 2) 1) 0 14 ++ beBytes 2 0x0101 ++ beBytes 2 8 ++ List.replicate 42 1
  b ++ fcsOf b

theorem met_FramesReceived :
    (state (linked 6)).found.receives 0 = true ∧ (heard 6).loopback 0 = 0 ∧ rxFlags (frame 0x1234) ((heard 6).maxFrame 0) false = 0 ∧
    isMacCtrl ((frame 0x1234).take 60) = false ∧
    (let g := counted (heard 6) (frame 0x1234)
     let d := g.clockFrame 0 0 ((frame 0x1234).take 60) 7
     g.isCmdFrame ((frame 0x1234).take 60) = false ∧ g.rxFull 0 = false ∧ d.loopback 0 = 0 ∧ d.admitsPort 0 = true) ∧
    (let d := (counted (heard 5) (frame 0x1234)).clockFrame 0 0 ((frame 0x1234).take 60) 7
     (state (linked 5)).found.receives 0 = true ∧ d.loopback 0 = 0 ∧ d.admitsPort 0 = false) ∧
    ptpEvent ((frame 0x1234).take 60) true true = none ∧
    (let e := (heard 6).get A.CP_CMD_CFG F.CP_CMD_CFG_ETYPE
     rxFlags (frame e) ((heard 6).maxFrame 0) false = 0 ∧ isMacCtrl ((frame e).take 60) = false ∧
     (counted (heard 6) (frame e)).isCmdFrame ((frame e).take 60) = true ∧ (state (linked 6)).found.isCmdFrame (frame e) = true) ∧
    isMacCtrl (pauseFrame (List.replicate 6 2) 1) = true ∧ rxFlags pfc ((heard 6).maxFrame 0) false = 0 := by decide +kernel

theorem met_FramesReceived_full :
    let g := counted (crowded (heard 6)) (frame 0x1234)
    g.rxFull 0 = true ∧ g.isCmdFrame ((frame 0x1234).take 60) = false ∧ (crowded (linked 6)).receives 0 = true := by decide +kernel

theorem met_FramesReceived_bad :
    let z := List.replicate 64 0
    let d (c : Chip) : Chip := (c.inc (rxRow 0 1)).add (A.PX_RX_BAD_BYTES 0) 64
    let e := (heard 6).setFlag (A.PX_CFG 0) F.PX_CFG_DELIVER_BAD true
    rxFlags z ((heard 6).maxFrame 0) false = 1 ∧ isMacCtrl (z.take 60) = false ∧ (d (heard 6)).rxFull 0 = false ∧
    (d (heard 6)).flag (A.PX_CFG 0) F.PX_CFG_DELIVER_BAD = false ∧ (d (crowded (heard 6))).rxFull 0 = true ∧ (d e).rxFull 0 = false ∧
    (d e).flag (A.PX_CFG 0) F.PX_CFG_DELIVER_BAD = true ∧ ((d e).inc (A.PX_RX_BAD_DELIVERED 0)).admitsPort 0 = true := by decide +kernel

/-- The first fragment and the last of the frame of 0x1234, as the wire carries them. -/
def fragments : List Byte × List Byte :=
  let bs := (List.replicate 12 1 ++ beBytes 2 0x1234 ++ List.replicate 110 0)
  let all := bs ++ fcsOf bs
  (all.take 60 ++ mcrcOf (all.take 60), all.drop 60)

/-- Port 0 assembles a frame of which 60 bytes have arrived. -/
def assembling : Asm := ⟨2, 3, fragments.1.take 60, 7, false⟩

theorem met_FragmentsReceived :
    (let bs := fragments.1
     64 ≤ bs.length ∧ bs.drop (bs.length - 4) = mcrcOf (bs.take (bs.length - 4))) ∧
    ((linked 6).port 0).asm = none ∧ (((linked 6).setAsm 0 (some assembling)).port 0).asm = some assembling ∧
    assembling.no ≠ 1 ∧ assembling.next ≠ 0 ∧
    (let bs := fragments.2
     4 ≤ bs.length ∧ bs.drop (bs.length - 4) ≠ mcrcOf (assembling.bytes ++ bs.take (bs.length - 4)) ∧
     bs.drop (bs.length - 4) = fcsOf (assembling.bytes ++ bs.take (bs.length - 4))) := by decide +kernel

theorem met_FragmentsReceived_bad :
    (∀ n ∈ [40, 60], let b : List Byte := List.replicate n 1
      4 ≤ (b ++ mcrcOf b).length ∧ ((b ++ mcrcOf b).length < 64 ↔ n = 40) ∧ (b ++ mcrcOf b).drop n = mcrcOf b ∧
      (b ++ mcrcOf (assembling.bytes ++ b)).drop n = mcrcOf (assembling.bytes ++ b)) ∧
    (let z : List Byte := List.replicate 64 0
     z.drop 60 ≠ mcrcOf (z.take 60) ∧ z.drop 60 ≠ mcrcOf (assembling.bytes ++ z.take 60) ∧ z.drop 60 ≠ fcsOf (assembling.bytes ++ z.take 60)) := by
  decide +kernel

theorem met_FramesConsumed :
    (let g := (counted (heard 6) pfc).inc (A.PX_RX_PAUSE 0)
     isMacCtrl pfc = true ∧ isMacCtrl (pfc.take (pfc.length - 4)) = true ∧ u16At (pfc.take 60) 14 = 0x0101 ∧
     u16At (pauseFrame (List.replicate 6 2) 1) 14 = 1 ∧
     (g.set (A.PX_WEIR_CFG 0) F.PX_WEIR_CFG_MODE 2).get (A.PX_WEIR_CFG 0) F.PX_WEIR_CFG_MODE = 2 ∧
     (g.set (A.PX_WEIR_CFG 0) F.PX_WEIR_CFG_MODE 1).get (A.PX_WEIR_CFG 0) F.PX_WEIR_CFG_MODE = 1) ∧
    (let bs := frame ((heard 6).get A.CP_CMD_CFG F.CP_CMD_CFG_ETYPE)
     let g := counted (heard 6) bs
     let sixteen (c : Chip) : Chip := (List.range 16).foldl (fun (c : Chip) _ => c.cmdFrame 0 (bs.take 60)) c
     let on := (heard 6).set A.CP_CMD_CFG F.CP_CMD_CFG_PORT_EN 1
     bs.length ≤ (heard 6).maxFrame 0 ∧ g.framesHeld < 16 ∧ natBits ((counted on bs).get A.CP_CMD_CFG F.CP_CMD_CFG_PORT_EN) 0 1 = 1 ∧
     16 ≤ (sixteen on).framesHeld ∧ natBits ((heard 6).get A.CP_CMD_CFG F.CP_CMD_CFG_PORT_EN) 0 1 ≠ 1) := by decide +kernel

/-- The adapter in Service; pool 0 holds bobbins of 2,048 bytes. -/
def pooled : Chip := chip 6

/-- Every bobbin pool off. -/
def noBobbins : Chip := (List.range 8).foldl (fun (c : Chip) p => c.setFlag (A.BP_POOL p) F.BP_POOL_ENABLE false) (chip 6)

/-- A frame of port 0 in the receive buffer. -/
def waiting : RxFrame := { port := 0, bytes := List.replicate 60 1, frameLen := 64, err := 0, prio := 0, stamp := 0 }

theorem met_FramesBuffered :
    takeFirst (fun f : RxFrame => f.port / 4 == 0) [waiting] = some (waiting, []) ∧ pooled.open1 16 = true ∧ pooled.open1 23 = true ∧
    (pooled.alloc 0 60 ⟨false, 0, true, false, 0, 0, 0, 0⟩).1.isSome = true ∧
    (noBobbins.alloc 0 60 ⟨false, 0, true, false, 0, 0, 0, 0⟩).1 = none ∧
    (noBobbins.alloc 0 60 ⟨false, 0, true, false, 0, 0, 0, 0⟩).2.present 0 = true := by decide +kernel

theorem met_SmallestPoolServes : (pooled.alloc 0 60 ⟨false, 0, true, false, 0, 0, 0, 0⟩).1.isSome = true ∧
    (pooled.poolFits 60 0 = true ∨ pooled.poolFits 60 0 = false) := by decide +kernel

/-- A packet of port 0 that waits for Dispatch. -/
def packet : Packet := { Packet.none with plen := 60, frameLen := 64 }

/-- Steering entry 0 leads to Mill 3 where `v`; one packet waits. -/
def steered (v : Bool) : Chip :=
  let c := (pooled.setFlag (A.MA_STEER 0) F.MA_STEER_VALID v).set (A.MA_STEER 0) F.MA_STEER_MILL 3
  c.addPacket packet

/-- The adapter with every Mill of the west side off. -/
def noMills (c : Chip) : Chip := (List.range 8).foldl (fun (c : Chip) m => (c.setPwr (2 + 2 * m) 0).setPwr (3 + 2 * m) 0) c

/-- Adapter `c` with word 0 of the metadata array poisoned. -/
def metaPoisoned (c : Chip) : Chip := { c with mem := { c.mem with stitchS := [(2 ^ 24, poisonMark)] } }

theorem met_DispatchServes :
    (steered true).open1 23 = true ∧ (steered true).dispatchPick.isSome = true ∧
    ((steered true).steer packet).valid = true ∧ (steered true).servingMill 3 = some 3 ∧ (noMills (steered true)).servingMill 3 = none ∧
    (Chip.readSrams 0 1 0 0 2 0 (steered true)).1 = false ∧ ((steered false).steer packet).valid = false ∧
    (Chip.readSrams 0 1 0 0 2 0 (metaPoisoned (steered true))).1 = true := by decide +kernel

/-- A verdict passed on to the order stage. -/
def heldOne : Held :=
  { mill := 0, src := 0, txq := 0, steer := 0, seq := 0,
    req := ⟨1, none, 60, none, 0, 0, 0, 0, 0, 0, 0, 0, 0, 0, 0, false, 0⟩ }

/-- A packet in the dispatch queue of Mill 0, and a verdict in its order stage. -/
def queued : Chip :=
  let c := (pooled.setPkt 1 (some { packet with stage := 1, seq := 1 })).setDq 0 [1]
  { c with disp := { c.disp with held := [heldOne] } }

theorem met_ThreadTakenAndVerdictPassed :
    queued.open1 0 = true ∧ queued.open1 23 = true ∧ memNat 0 queued.pwr.clkBusy = false ∧ queued.forkWaits 0 = false ∧
    queued.forkReserve 0 < queued.freeCount 0 ∧ queued.dq 0 = [1] ∧ (queued.pkt 1).isSome = true ∧ (queued.pickThread 0 none).isSome = true ∧
    leastBy Held.seq (queued.disp.held.filter fun h => h.mill == 0 && !queued.heldBack h) = some heldOne := by decide +kernel

/-- A tentative request of packet 1 on channel `ch`, completed where `d`. -/
def tent (ch : Nat) (d : Bool) (deps : List Nat) : Tent := ⟨1, ch, [7], 0, 0, d, [1], deps, 0⟩

/-- Packet 1 of Mill 0, with one tentative request on channel `ch`, completed where `d`. -/
def tentative (ch : Nat) (d : Bool) : Chip :=
  let c := pooled.setPkt 1 (some { packet with stage := 2 })
  { c with disp := { c.disp with tents := [tent ch d (c.tentDeps 0 ch 0)] } }

theorem met_PrelookAdopts :
    let p : Packet := { packet with stage := 2 }
    let gone : Chip := pooled.setPkt 1 (some { p with asked := [512] })
    (tentative 512 true).pkt 1 = some p ∧ memNat 512 p.asked = false ∧ memNat 512 ({ p with asked := [512] }).asked = true ∧
    (tentative 512 true).disp.tents.find? (fun t : Tent => t.pk == 1 && t.chan == 512) = some (tent 512 true (gone.tentDeps p.mill 512 p.istamp)) ∧
    (tentative 512 false).disp.tents.find? (fun t : Tent => t.pk == 1 && t.chan == 512) = some (tent 512 false (gone.tentDeps p.mill 512 p.istamp)) ∧
    ({ gone with cl := { gone.cl with gens := [(0, 1)] } }).tentDeps p.mill 512 p.istamp ≠ gone.tentDeps p.mill 512 p.istamp ∧
    pooled.disp.tents.find? (fun t : Tent => t.pk == 1 && t.chan == 512) = none ∧ [(7 : Word)] ≠ [8] := by
  decide +kernel

theorem met_TentativeRequests : ∀ ch ∈ [512, 519, 528, 544, 575, 577, 584],
    ((tentative ch false).pkt 1).isSome = true ∧
    ((tentative ch false).disp.tents.find? (fun t : Tent => t.pk == 1 && t.chan == ch && !t.done)).isSome = true := by decide +kernel

/-- What the writes of steering state need of adapter `d` for a recipe. -/
def recipeOk (d : Chip) (ws : List Word) : Bool :=
  let a := A.MA_PL_RECIPE 63
  decide (512 ≤ d.getAt 0 a F.MA_PL_RECIPE_CHAN ∧ d.getAt 0 a F.MA_PL_RECIPE_CHAN ≤ 607 ∧ d.getAt 0 a F.MA_PL_RECIPE_WORDS ≤ 4) &&
    (List.range 5).all fun k => nth 0 ws (k + 1) &&& 0x8080808080808080 == 0

theorem met_SteeringWrites :
    let s := state (chip 6)
    s.writable (A.MA_STEER 4095) = true ∧ s.writable (A.MA_PROFILE 63) = true ∧ s.writable (A.MA_PL_RECIPE 63) = true ∧
    s.writable A.MA_PL_CTRL = true ∧
    (let d := (chip 6).filled 0 (A.MA_PROFILE 63) [0]
     d.getAt 0 (A.MA_PROFILE 63) F.MA_PROFILE_SIZE_LOG2 ≤ 12 ∧ d.getAt 0 (A.MA_PROFILE 63) F.MA_PROFILE_HASH_SEL ≤ 4 ∧
       d.getAt 0 (A.MA_PROFILE 63) F.MA_PROFILE_BASE + 2 ^ d.getAt 0 (A.MA_PROFILE 63) F.MA_PROFILE_SIZE_LOG2 ≤ 4096) ∧
    12 < ((chip 6).filled 0 (A.MA_PROFILE 63) [-1]).getAt 0 (A.MA_PROFILE 63) F.MA_PROFILE_SIZE_LOG2 ∧
    recipeOk ((chip 6).filled 0 (A.MA_PL_RECIPE 63) [0x200]) [0x200] = true ∧ recipeOk ((chip 6).filled 0 (A.MA_PL_RECIPE 63) [0x25F]) [0x25F] = true ∧
    recipeOk ((chip 6).filled 0 (A.MA_PL_RECIPE 63) [0]) [0] = false ∧
    (let d := (chip 6).filled 0 A.MA_PL_CTRL [setBits ((chip 6).rd A.MA_PL_CTRL) 3 1 1]
     d.getAt 0 A.MA_PL_CTRL F.MA_PL_CTRL_CONF_MIN ≠ 0 ∧ 100 ≤ d.getAt 0 A.MA_PL_CTRL F.MA_PL_CTRL_HOLD_NS) ∧
    ((chip 6).filled 0 A.MA_PL_CTRL [8]).getAt 0 A.MA_PL_CTRL F.MA_PL_CTRL_CONF_MIN = 0 := by decide +kernel

/-! ### The Classifier -/

/-- Rule 0 of bank 0 is valid and matches every key. -/
def ruled : Chip := ((chip 6).set (A.CL_RULE 0) F.CL_RULE_VALID 1)

theorem met_WinnerIsBest : mwf resetWord (chip 6).regs = true ∧ ((chip 6).ruleWrite 0 0 [(4, -1)]).1 = Code.OK ∧
    ((chip 6).lookup 0 0 0 [0] 0).1 = .miss ∧ (chip 6).schemeV 0 = false ∧
    (ruled.lookup 0 0 0 [0] 0).1 = .hit 0 := by decide +kernel

theorem met_LookupReplies :
    ((asked ruled (req 519 [0])).found.front 519 (fun _ => true)).isSome = true ∧ (req 519 [0]).pk = none ∧
    (0 < (req 519 [0]).words.length ∧ (req 519 [0]).words.length ≤ 5) ∧ ¬ (req 519 [0, 0, 0, 0, 0, 0]).words.length ≤ 5 ∧
    (ruled.lookup 0 0 (verIn 0 0 0) [0] 0).1 = .hit 0 ∧ (ruled.lookup 0 7 (verIn 0 0 7) [0] 0).1 = .miss ∧
    ((ruled.setSram 8 (ruleWord 0) poisonMark).lookup 0 0 (verIn 0 0 0) [0] 0).1 = .poisoned 0 := by decide +kernel

theorem met_LookupReplies_adopt :
    let p : Packet := { packet with stage := 2 }
    let r : EngReq := { req 512 [7] with pk := some 1 }
    let serve (c : Chip) := c.adopt r (fun c => c.lookupServe 0 r) (fun ws c => c.lookupTaken 0 r ws)
    (tentative 512 true).pkt 1 = some p ∧ (serve (tentative 512 true)).isSome = true ∧ serve (tentative 512 false) = none ∧
    ({ tentative 512 true with reqs := [r] }).front 512 (fun _ => true) = some (r, []) := by decide +kernel

theorem met_LookupTaken : 7 < 8 ∧ 8191 < 8192 ∧ (req 519 []).chan = 512 + 7 ∧
    [Code.OK, Code.NOT_FOUND].all (fun st => nth 0 [lookupWord st 7 8191, 1, 2, 0] 0 == lookupWord st 7 8191) = true := by decide +kernel

/-- A scan of the first 8 bytes of a packet of 60. -/
def scan : EngReq := { req 528 [0x80000] with valid := true, plen := 60 }

theorem met_ScanReplies :
    ((asked (chip 6) scan).found.front 528 (fun _ => true)).isSome = true ∧ scan.pk = none ∧
    (scan.words.length = 1 ∧ scan.valid = true ∧ getBits (nth 0 scan.words 0) 33 31 = 0 ∧ 0 < scan.plen) ∧
    (({ chip 6 with mem := { (chip 6).mem with stitchS := [((chip 6).bobBase 0 / 32, poisonMark)] } }).bobRead 0 ((chip 6).bobBase 0 + 0) 8 0).1 = true ∧
    8 ≤ (chip 6).get A.CL_PE_CFG F.CL_PE_CFG_MAX_DEPTH ∧ ((chip 6).bobRead 0 ((chip 6).bobBase 0 + 0) 8 0).1 = false ∧
    ((chip 6).peReady 0) = false ∧ (req 528 []).words.length ≠ 1 := by decide +kernel

/-- A pattern that ends at bytes 2 and 4 of `abab`, and one that ends at byte 4. -/
def patterns : List Config.Pattern := [⟨3, 0, [0x61, 0x62], false, none⟩, ⟨7, 0, [0x62, 0x61, 0x62], false, none⟩]

theorem met_MatchesFound :
    (matchesIn patterns [0x61, 0x62, 0x61, 0x62] 0).map (fun x => (x.1, x.2.id)) = [(2, 3), (4, 3), (4, 7)] ∧
    patterns.all (fun p => patternOk p && !p.fold && p.window == none && patternEnds p [0x61, 0x62, 0x61, 0x62] 0 4) = true ∧
    (firstOnly true (matchesIn patterns [0x61, 0x62, 0x61, 0x62] 0)).map (·.1) = [2] ∧ 4 ≤ 0 + [0x61, 0x62, 0x61, 0x62].length := by decide +kernel

/-- Bank 7 under scheme V with versions 1 and 2 live in slots 0 and 1, CLEANING as said. -/
def versions (cleaning : Bool) : Chip :=
  let c := (chip 6).setFlag (A.CL_BANK_CFG 7) F.CL_BANK_CFG_SCHEME true
  let c := (c.wr (A.CL_VER 7 0 + 8) 0x200010000).wr (A.CL_VER 7 1 + 8) 0x200020000
  (c.set (A.CL_BANK_VSTAT 7) F.CL_BANK_VSTAT_BUILDING 3).setFlag (A.CL_BANK_VSTAT 7) F.CL_BANK_VSTAT_CLEANING cleaning

theorem met_RuleWrites :
    (state (chip 6)).writable (A.CL_RULE 65535) = true ∧ 15 + 1 ≤ 16 ∧ 0 + 13 ≤ 16 ∧
    ([(10, (0x300 : Word))].any fun w => w.1 == 10 && getBits w.2 8 2 == 3) = true ∧
    ([(10, (0x200 : Word))].any fun w => w.1 == 10 && getBits w.2 8 2 == 3) = false ∧
    (∀ j < 4, (chip 6).sram 8 (ruleWord 65535 + j) = 0) ∧ (chip 6).schemeV 7 = false ∧ (chip 6).rule 65535 F.CL_RULE_VALID ≠ 1 ∧
    ruled.rule 0 F.CL_RULE_VALID = 1 ∧ codeBad (((chip 6).setSram 8 (ruleWord 65535) poisonMark).sram 8 (ruleWord 65535)) = true ∧
    (state (chip 6)).writable (A.CL_BANK_CFG 7) = true ∧ (chip 6).get (A.CL_BANK_CFG 7) F.CL_BANK_CFG_SCHEME = 0 ∧
    (chip 6).validRules 7 = [] ∧ (chip 6).verSlots 7 1 = [] ∧ ruled.validRules 0 ≠ [] := by decide +kernel

theorem met_RuleWrites_versions :
    let c := versions false
    let live := (c.set (A.CL_RULE 65535) F.CL_RULE_VALID 1).set (A.CL_RULE 65535) F.CL_RULE_VFROM 1
    (state c).writable (A.CL_RULE 65535) = true ∧ c.schemeV 7 = true ∧ (∀ j < 4, c.sram 8 (ruleWord 65535 + j) = 0) ∧
    c.rule 65535 F.CL_RULE_VALID ≠ 1 ∧ (live.rule 65535 F.CL_RULE_VALID = 1 ∧ live.rule 65535 F.CL_RULE_VFROM ≠ live.building 7) ∧
    getBits (0x300010000 : Word) 16 1 = 1 ∧ getBits (0x300010000 : Word) 32 16 = c.building 7 ∧ getBits (0x300010000 : Word) 48 16 = 0 ∧
    getBits (0x1000300010000 : Word) 48 16 ≠ 0 ∧ getBits (0x1000300010000 : Word) 48 16 ≠ c.building 7 := by decide +kernel

theorem met_ScanReplies_ready :
    let c := (chip 6).set (A.CL_PE_SLOT 0) F.CL_PE_SLOT_PATTERNS 1
    c.peActive 0 = 0 ∧ c.peReady 0 = true ∧ c.pePoisoned 0 = [] ∧ (c.bobRead 0 (c.bobBase 0 + 0) 8 0).1 = false := by decide +kernel

theorem met_VersionsRetire :
    (versions false).open1 23 = true ∧ (versions false).schemeV 7 = true ∧ (versions false).flag (A.CL_BANK_VSTAT 7) F.CL_BANK_VSTAT_CLEANING = false ∧
    (versions false).oldestLive 7 = some 0 ∧ (versions false).verSlot 7 (nextVer ((versions false).verGet 7 0 F.CL_VER_VERSION)) = some 1 ∧
    (versions false).verGet 7 1 F.CL_VER_STATE = 2 ∧ (versions false).verGet 7 0 F.CL_VER_INFLIGHT = 0 ∧
    (versions false).heldBefore ((versions false).verT 7 1) = false ∧
    (versions true).flag (A.CL_BANK_VSTAT 7) F.CL_BANK_VSTAT_CLEANING = true ∧
    (let d := (versions true).setFlag (A.CL_BANK_VSTAT 7) F.CL_BANK_VSTAT_CLEANING false; d.oldestLive 7 = some 0) ∧
    (let c := (chip 6).setFlag (A.CL_BANK_VSTAT 7) F.CL_BANK_VSTAT_CLEANING true
     (c.setFlag (A.CL_BANK_VSTAT 7) F.CL_BANK_VSTAT_CLEANING false).oldestLive 7 = none) := by decide +kernel

/-! ### Tables -/

/-- Engine A with its channels trained and table 15 enabled: buckets of 2^4, keys of 8 bytes, learning, ageing. -/
def tables : Chip :=
  let c := (List.range 4).foldl (fun (c : Chip) k => c.set (A.MC_STATUS k) F.MC_STATUS_STATE 2) (chip 6)
  let c := c.wr (A.TE_EMT 0 15) (BitVec.ofNat 64 (4 * 2 ^ 23 + 8 * 2 ^ 28 + 2 ^ 33 + 2 ^ 34 + 2 ^ 37 + 100 * 2 ^ 40))
  c.wr (A.TE_EMT 0 15 + 8) 8

/-- The key of the tests and what the engine makes of it. -/
def key : List Byte := leBytes 8 5
def search (c : Chip) : Status × TeHit × Chip :=
  let h := c.teHashOf 0 15 key
  c.teSearch 0 0 15 (leNat key) h.1 h.2.1 h.2.2 0

/-- The key inserted with data 7; the key in the overflow store instead. -/
def inserted : Chip := (tables.teWriteOp 0 0 15 0 key 7 false 0).2
def overflown : Chip := (tables.wr (A.TE_OVF 0 0) 5).wr (A.TE_OVF 0 0 + 32) 0x1F

def isSlot : TeHit → Bool | .slot _ _ _ _ _ => true | _ => false
def isOvf : TeHit → Bool | .ovf _ => true | _ => false
def isMiss : TeHit → Bool | .miss _ _ => true | _ => false

theorem met_TableRequests :
    let mine : EngReq → Bool := fun r => teOf r.mill == 0
    ((asked tables (req 559 [5])).found.front 559 mine).isSome = true ∧ ((asked tables (req 575 [5, 7])).found.front 575 mine).isSome = true ∧
    (tables.emt 0 15 F.TE_EMT_KEY_BYTES + 7) / 8 = 1 ∧ tables.emtOn 0 15 = true ∧ tables.emtOn 0 14 = false ∧
    (tables.teLookup 0 0 15 (tables.teKey 0 15 [5] (some 0)) none 0 false).1.st = Code.NOT_FOUND ∧
    ((tables.set (A.MC_STATUS 0) F.MC_STATUS_STATE 0).set (A.MC_STATUS 1) F.MC_STATUS_STATE 0 |>.set (A.MC_STATUS 2) F.MC_STATUS_STATE 0
      |>.set (A.MC_STATUS 3) F.MC_STATUS_STATE 0 |>.teLookup 0 0 15 (tables.teKey 0 15 [5] (some 0)) none 0 false).1.st = Code.ABSENT ∧
    ((asked tables (req 584 [5])).found.front 584 mine).isSome = true ∧ ((asked tables (req 585 [5, 0])).found.front 585 mine).isSome = true := by
  decide +kernel

theorem met_TableWriteRows :
    let w (o : Nat) : Word := BitVec.ofNat 64 (7 + 16 * o + 8 * 2 ^ 8)
    let ws (o : Nat) : List Word := [w o, 0x0A000000, 0, 0, 9]
    let x : Word := BitVec.ofNat 64 15
    (∀ o < 7, ((asked tables (req 576 (ws o))).found.front 576 (fun r => teOf r.mill == 0)).isSome = true ∧ (ws o).length = 5 ∧
      getBits (w o) 16 48 = 0 ∧ getBits (w o) 4 3 = o ∧ getBits (w o) 0 4 = 7 ∧ getBits (w o) 8 8 ≤ 32) ∧
    tables.emtOn 0 15 = true ∧ getBits x 0 4 = 15 ∧ tables.emtOn 0 7 = false ∧ tables.lpm6 0 7 = false ∧
    getBits (0x0A000000 : Word) 32 32 = 0 ∧ tables.up 22 = true ∧
    (let c := (tables.wr (A.TE_LPM 0 7) 1).setFlag (A.TE_LPM_STORE 0) F.TE_LPM_STORE_ENABLE true
     c.lpmOn 0 7 = true ∧ c.lpm6 0 7 = false) ∧
    ((tables.setEng 0 { tables.eng 0 with op := ws 6 }).eng 0).op.length = 5 := by decide +kernel

theorem met_PrefixWrites :
    let c := (tables.wr (A.TE_LPM 0 7) 1).setFlag (A.TE_LPM_STORE 0) F.TE_LPM_STORE_ENABLE true
    let d := (c.setEng 0 { c.eng 0 with lpm := [(7, [⟨8, 0x0A000000, 9⟩])] }).set (A.TE_LPM_STAT 0) F.TE_LPM_STAT_UNITS 1
    let same (p : Prefix) : Bool := p.len == 8 && p.addr == lpmAddr false 0x0A010203 0 / 2 ^ (32 - 8) * 2 ^ (32 - 8)
    (c.prefixes 0 7).any same = false ∧ (d.prefixes 0 7).any same = true ∧ (d.lpmWords 0 16).1 = true ∧
    (let f := c.set (A.TE_LPM_STORE 0) F.TE_LPM_STORE_PFX_WORDS 0
     f.get (A.TE_LPM_STORE 0) F.TE_LPM_STORE_PFX_WORDS < f.get (A.TE_LPM_STAT 0) F.TE_LPM_STAT_UNITS + 1) ∧
    (let f := c
     f.get (A.TE_LPM_STAT 0) F.TE_LPM_STAT_UNITS + 1 ≤ f.get (A.TE_LPM_STORE 0) F.TE_LPM_STORE_PFX_WORDS ∧ (f.lpmWords 0 16).1 = true) := by
  decide +kernel

theorem met_LookupByWhatIsFound : tables.emt 0 15 F.TE_EMT_FC_EN = 0 ∧
    ((search inserted).1 = Code.OK ∧ isSlot (search inserted).2.1 = true) ∧ ((search overflown).1 = Code.OK ∧ isOvf (search overflown).2.1 = true) ∧
    ((search tables).1 = Code.OK ∧ isMiss (search tables).2.1 = true) ∧ (search (tables.set (A.MC_STATUS 0) F.MC_STATUS_STATE 0)).1 ≠ Code.OK ∧
    tables.emt 0 15 F.TE_EMT_LEARN_EN = 1 ∧
    (let h := tables.teHashOf 0 15 key; tables.teInsert 0 0 15 5 h.1 h.2.1 h.2.2 0 0 0 7 false).1.st = Code.OK := by decide +kernel

theorem met_TableWritesByWhatIsFound :
    (search tables).1 = Code.OK ∧ isMiss (search tables).2.1 = true ∧ isSlot (search inserted).2.1 = true ∧ isOvf (search overflown).2.1 = true ∧
    (∀ op ∈ [0, 1, 2, 3], (tables.teWriteOp 0 0 15 op key 7 false 0).1.st = if op ≤ 1 then Code.OK else Code.NOT_FOUND) ∧
    (∀ op ∈ [0, 1, 2, 3], (inserted.teWriteOp 0 0 15 op key 7 false 0).1.st = if op = 0 then Code.EXISTS else Code.OK) ∧
    (search (tables.set (A.MC_STATUS 0) F.MC_STATUS_STATE 0)).1 ≠ Code.OK := by decide +kernel

theorem met_LongestPrefixAndCounts :
    let c := (tables.wr (A.TE_LPM 0 7) 1).setFlag (A.TE_LPM_STORE 0) F.TE_LPM_STORE_ENABLE true
    let p : Prefix := ⟨8, 0x0A000000, 9⟩
    let d := c.setEng 0 { c.eng 0 with lpm := [(7, [p])] }
    (teOf 0 = 0 ∧ d.lpm6 0 7 = false ∧ getBits (0x0A010203 : Word) 32 32 = 0 ∧ d.lpmOn 0 7 = true ∧
      (d.prefixes 0 7 = [p] ∧ p.len ≤ 128 ∧ p.matches 32 0x0A010203 = true ∧ p.matches 32 0x0B000000 = false)) ∧
    (let e := (tables.setFlag (A.TE_CNT_STORE 0) F.TE_CNT_STORE_ENABLE true).set (A.TE_CNT_STORE 0) F.TE_CNT_STORE_COUNT 2
     e.flag (A.TE_CNT_STORE 0) F.TE_CNT_STORE_ENABLE = true ∧ getBits (1 : Word) 24 40 = 0 ∧ 1 < e.get (A.TE_CNT_STORE 0) F.TE_CNT_STORE_COUNT ∧
       (e.ccLine 0 0 0 0).1 = Code.OK) := by decide +kernel

/-- Bucket 0 of table 15 holds a STALE entry in slot 1, one without HIT in slot 2 and one with HIT in slot 3; slot `p` is swept next. -/
def swept (p : Nat) : Chip :=
  let c := tables.writeQdr 0 0 (leBytes 32 (2 ^ 48 * (2 ^ 40 + 2 ^ 42) + 2 ^ 96 * 2 ^ 40 + 2 ^ 144 * (2 ^ 40 + 2 ^ 41)))
  c.setSweep 0 15 { Sweep.init with pos := p }

def isOk : QdrRead → Bool | .ok _ => true | _ => false

/-- The words that enable table 14, and those that give it 0 bytes of key. -/
def enable14 : List Word := [BitVec.ofNat 64 (1024 + 4 * 2 ^ 23 + 8 * 2 ^ 28 + 2 ^ 33 + 2048 * 2 ^ 40), 8]

theorem met_TableUpkeep :
    (state tables).writable (A.TE_CNT_CTRL 0) = true ∧ tables.up 22 = true ∧ tables.pwr.fwRuns = true ∧ 4 ≤ tables.mode ∧
    (state tables).writable (A.TE_OP_CTRL 0) = true ∧ (tables.filled 0 (A.TE_OP_CTRL 0) [1]).opBusy 0 = false ∧
    (tables.setEng 0 { tables.eng 0 with op := [0, 0, 0, 0, 0] }).opBusy 0 = true ∧
    getBits (0 : Word) 33 1 = 0 ∧ tables.emtOn 0 14 = false ∧ getBits (nth 0 enable14 0) 33 1 = 1 ∧
    (tables.put 0 (A.TE_EMT 0 14) enable14).1 = Code.OK ∧
    (let st := (tables.put 0 (A.TE_EMT 0 14) [2 ^ 33, 8]).1; st ≠ Code.OK ∧ st ≠ Code.BAD_IMAGE ∧ st ≠ Code.POISONED) ∧
    (let d := (tables.filled 0 (A.TE_EMT 0 15) [tables.rd (A.TE_EMT 0 15)])
     d.emtCheck 0 15 (tables.rd (A.TE_EMT 0 15)) (tables.rd (A.TE_EMT 0 15 + 8)) = Code.OK) ∧
    (let d := (tables.filled 0 (A.TE_EMT 0 15) [2 ^ 33])
     d.emtCheck 0 15 (tables.rd (A.TE_EMT 0 15)) (tables.rd (A.TE_EMT 0 15 + 8)) ≠ Code.OK) ∧
    (state tables).writable (A.TE_EMT 0 14) = true := by decide +kernel

theorem met_TableUpkeep_scan :
    let d := tables.setEng 0 { tables.eng 0 with scan := mset [] (tables.eng 0).scan 14 [] }
    let f := d.filled 0 (A.TE_EMT 0 14) enable14
    f.emtCheck 0 14 (d.rd (A.TE_EMT 0 14)) (d.rd (A.TE_EMT 0 14 + 8)) = Code.OK ∧ (f.tableScan 0 0 14).1 = Code.OK ∧
    ((f.writeQdr 0 (f.bucketAt 0 14 0) (leBytes 32 (2 ^ 40 + 4095))).tableScan 0 0 14).1 ≠ Code.OK := by decide +kernel

theorem met_TableUpkeep_sweep :
    (∀ p ∈ [1, 2, 3], (swept p).emt 0 15 F.TE_EMT_AGE_EN = 1 ∧ ((swept p).sweeper 0 15).pos = p ∧ ((swept p).sweeper 0 15).wrote = false ∧
      p < 4 * 2 ^ (swept p).emt 0 15 F.TE_EMT_BUCKET_LOG2 ∧ isOk ((swept p).readQdr 0 0 ((swept p).bucketAt 0 15 0) 0).1 = true ∧
      (swept p).lineHit 0 15 0 0 p = false ∧
      (swept p).sweepDue 0 0 15 (4 * 2 ^ (swept p).emt 0 15 F.TE_EMT_BUCKET_LOG2 + ((swept p).ovfOf 0 15).length) p = true) ∧
    (let w := leNat (rdBytes (swept 1).mem.qdr (qdrByte 0 ((swept 1).bucketAt 0 15 0)) 32)
     let d := swept 1
     (slotValid (slotOf w 1) = true ∧ slotStale (slotOf w 1) = true ∧ slotHit (slotOf w 1) = false ∧ slotStatic (slotOf w 1) = false ∧
       (d.teDelete 0 15 0 w 1 (slotRec (slotOf w 1))).qdrWords 0 ≠ d.qdrWords 0) ∧
     (slotValid (slotOf w 2) = true ∧ slotStale (slotOf w 2) = false ∧ slotHit (slotOf w 2) = false ∧
       (d.teWrite 0 (d.bucketAt 0 15 0) w).qdrWords 0 ≠ d.qdrWords 0) ∧
     (slotValid (slotOf w 3) = true ∧ slotHit (slotOf w 3) = true)) := by decide +kernel

/-! ### Bobbins and the Traffic Manager -/

/-- Slice 5 with a quota of 8 bobbins; a request of one of its threads. -/
def sliced : Chip := (chip 6).wr (A.SM_SLICE 5 + 8) (8 * 2 ^ 17)
def mine5 (ch : Nat) (ws : List Word) : EngReq := { req ch ws with slice := 5, system := false }

/-- What ALLOC grants it; bobbin 0 and then bobbins 0 to 3 of pool 0 HELD by slice 5, bound to that thread. -/
def grant5 : Grant := ⟨false, 5, false, false, 31, 0, (mine5 0 []).key, 5⟩
def word5 : Word := BitVec.ofNat 64 (1 + 5 * 2 ^ 2 + 2 ^ 16 + 2 ^ 24 + 31 * 2 ^ 34 + 2 ^ 42)
def held5 : Chip := { sliced.wr (A.BP_STATE (sliced.bobSlot 0)) word5 with bind := [(0, grant5.key)], bobSlice := [(0, 5)] }
def held4 : Chip :=
  { (List.range 4).foldl (fun (c : Chip) i => c.wr (A.BP_STATE (sliced.bobSlot i)) word5) sliced with
    bind := (List.range 4).map fun i => (i, grant5.key) }

theorem met_BobbinRequests :
    let all : EngReq → Bool := fun _ => true
    (∀ ch ∈ [608, 609, 610, 611], ((asked held5 (mine5 ch [100])).found.front ch all).isSome = true) ∧
    (let r := mine5 608 [100]
     bpForm r 1 15 = true ∧ 100 ≤ sliced.largest ∧ sliced.overQuota 0 r = false ∧ (chip 6).overQuota 0 r = true ∧
       sliced.allocsOf r.key < 4 ∧ 4 ≤ held4.allocsOf r.key ∧ (sliced.alloc 0 100 grant5).1.isSome = true ∧
       (noBobbins.alloc 0 100 grant5).1 = none ∧ bpForm (mine5 608 [0x8000]) 1 15 = false) ∧
    (let r := mine5 609 [BitVec.ofNat 64 0]
     bpForm r 1 37 = true ∧ bpForm (mine5 609 []) 1 37 = false ∧ (held5.share 0 0 5 r.agent).1 = Code.OK ∧
       (sliced.share 0 0 5 r.agent).1 ≠ Code.OK) ∧
    (let r := mine5 610 [BitVec.ofNat 64 0]
     bpForm r 1 24 = true ∧ bpForm (mine5 610 []) 1 24 = false ∧ (held5.release 0 0 r.agent).1 = Code.OK ∧
       (sliced.release 0 0 r.agent).1 ≠ Code.OK) ∧
    (let r := mine5 611 [BitVec.ofNat 64 (0 + 56 * 2 ^ 38), 1, 2, 3, 4, 5, 6, 7]
     bpForm r (1 + (56 + 7) / 8) 44 = true ∧ bpForm (mine5 611 []) 1 44 = false ∧ (held5.bobCheck 0 0 r.agent false).1 = Code.OK ∧
       (sliced.bobCheck 0 0 r.agent false).1 ≠ Code.OK ∧ (held5.bobCheck 0 0 r.agent false).2.boundTo_ r true 0 = true ∧
       held5.boundTo_ { r with tid := 1 } true 0 = false ∧ 0 + 56 ≤ held5.bobSize 0 ∧ held5.bobSize 0 < 2040 + 56) := by decide +kernel

theorem met_BobbinRequests_done :
    let r := mine5 609 [0]
    let two := held5.bobSet 0 F.BP_STATE_REF 2
    r.system = false ∧ (held5.bobCheck 0 0 r.agent false).1 = Code.OK ∧ (held5.bobCheck 0 0 r.agent false).2.bobGet 0 F.BP_STATE_REF = 1 ∧
    (held5.bobCheck 0 0 r.agent true).1 = Code.OK ∧ (held5.bobCheck 0 0 r.agent true).2.bobGet 0 F.BP_STATE_REF = 1 ∧
    (two.bobCheck 0 0 r.agent true).1 = Code.OK ∧ 1 < (two.bobCheck 0 0 r.agent true).2.bobGet 0 F.BP_STATE_REF ∧
    (held5.bobStore 0 (held5.bobBase 0 + 0) (writeBytes [0, 1, 2, 3, 4, 5, 6, 7] 56) 5).1 = true ∧
    (let c := { held5 with mem := { held5.mem with stitchS := [(held5.bobBase 0 / 32 + 1, poisonMark)] } }
     (c.bobStore 0 (c.bobBase 0 + 0) (writeBytes [0, 1, 2, 3, 4, 5, 6, 7] 56) 5).1 = false) := by decide +kernel

theorem met_BobbinStores :
    let c := { held5 with mem := { held5.mem with stitchS := [(1, poisonMark)] } }
    (Chip.readParts 0 0 5 (partWords 0 56) c).1 = true ∧ (Chip.readParts 0 0 5 (partWords 0 56) held5).1 = false ∧
    (Chip.readParts 0 0 5 (partWords 0 64) c).1 = false ∧ 0 ≤ 32 * 1 ∧ 32 * 1 + 32 ≤ 0 + 64 := by decide +kernel

theorem met_ReferencesCount :
    let ag : Agent := (mine5 0 []).agent
    (chip 6).bobNamed (2 ^ 24 - 1) = false ∧ held5.bobNamed 0 = true ∧ (held5.readState 0 0).1 = false ∧
    sliced.bobGet 0 F.BP_STATE_STATE ≠ 1 ∧ held5.bobGet 0 F.BP_STATE_STATE = 1 ∧ held5.foreign 0 ag = false ∧
    held5.foreign 0 (.tenant 6 0) = true ∧ held5.unbound 0 (.tenant 5 0) = true ∧ held5.unbound 0 ag = false ∧
    (held5.bobCheck 0 0 ag true).1 = Code.OK ∧ (ag == .system) = false ∧
    1 < (held5.bobSet 0 F.BP_STATE_REF 2).bobGet 0 F.BP_STATE_REF ∧ (held5.bobCheck 0 0 .system true).1 = Code.OK ∧
    held5.bobGet 0 F.BP_STATE_REF ≤ held5.bobGet 0 F.BP_STATE_BREF ∧
    (let d := held5.bobSet 0 F.BP_STATE_BREF 0
     d.bobGet 0 F.BP_STATE_BREF < d.bobGet 0 F.BP_STATE_REF ∧ d.bobGet 0 F.BP_STATE_REF = 1) ∧
    (let d := held5.bobSet 0 F.BP_STATE_REF 255; (d.bobCheck 0 0 ag false).1 = Code.OK ∧ d.bobGet 0 F.BP_STATE_REF = 255) := by
  decide +kernel

/-- Queue 65536 enabled, owned by slice 5, mapped to port 0, with limits of 1,000 bytes; its port is enabled. -/
def queues (lim : Nat) : Chip :=
  let q := A.TM_QUEUE 0
  let c := ((chip 6).set q F.TM_QUEUE_ENABLE 1).set q F.TM_QUEUE_OWNER 5
  let c := ((c.set q F.TM_QUEUE_LIMIT_G lim).set q F.TM_QUEUE_LIMIT_Y lim).set q F.TM_QUEUE_LIMIT_R lim
  (c.set q F.TM_QUEUE_RED_DROP 1).setFlag (A.PX_CFG 0) F.PX_CFG_ENABLE true

/-- A request of slice `sl` for queue 65536, of the colour `col`. -/
def enq (sl col : Nat) : EnqReq := ⟨0, none, 60, none, 0, 0, 0, 65536, col, 0, sl, sl, 0, 0, 0, false, 0⟩

/-- The first `n` entries of the Traffic Manager taken. -/
def entries (n : Nat) : Chip :=
  { chip 6 with tm := { (chip 6).tm with queues := [(65537, (List.range n).map fun k => ⟨k, enq 5 0, 64, false⟩)] } }

theorem memNat_range (k n : Nat) (h : k < n) : memNat k (List.range n) = true := by
  suffices ∀ (l : List Nat), k ∈ l → memNat k l = true from this _ (List.mem_range.2 h)
  intro l
  induction l with
  | nil => intro h; cases h
  | cons x xs ih =>
    intro h
    simp only [memNat, Bool.or_eq_true, decide_eq_true_eq]
    rcases List.mem_cons.1 h with rfl | h
    · exact .inl rfl
    · exact .inr (ih h)

theorem firstFrom_none (p : Nat → Bool) (n k : Nat) (h : ∀ i, k ≤ i → i < k + n → p i = false) : firstFrom p n k = none := by
  induction n generalizing k with
  | zero => rfl
  | succ n ih =>
    simp only [firstFrom, h k (Nat.le_refl _) (by omega)]
    exact ih (k + 1) fun i h1 h2 => h i (by omega) (by omega)

theorem noEntry (n : Nat) : firstFrom (fun k => !memNat k ((entries n).tmEntries.map (·.slot))) n 0 = none := by
  apply firstFrom_none
  intro i _ hi
  have : (entries n).tmEntries.map (·.slot) = List.range n := by simp [Chip.tmEntries, entries, Function.comp_def]
  rw [this, memNat_range i n (by omega)]
  rfl


theorem met_EnqueueJudged_noEntry : (entries 65536).freeEntry = none := noEntry 65536

theorem met_EnqueueJudged :
    let c := queues 1000
    let d := { c with disp := { c.disp with enq := [enq 5 0] } }
    d.open1 23 = true ∧ d.disp.enq = enq 5 0 :: [] ∧
    (c.readSram 0 10 (queueWord 65536) 0 5).1 = false ∧
    ((c.setSram 10 (queueWord 65536) poisonMark).readSram 0 10 (queueWord 65536) 0 5).1 = true ∧
    (chip 6).tmEnabled 0 65536 = false ∧ c.tmEnabled 0 65536 = true ∧ c.tmAccess 0 0 65536 5 false = true ∧ c.tmAccess 0 0 65536 6 false = false ∧
    c.tmDest 0 65536 = Code.OK ∧ (c.setFlag (A.PX_CFG 0) F.PX_CFG_ENABLE false).tmDest 0 65536 ≠ Code.OK ∧
    (let pol := Chip.readPolicers 0 5 [0, 0] c
     let len := pol.2.charged 0 (enq 5 0)
     pol.1 = false ∧ (pol.2.meter 0 0 0 0 len []).1 = 0 ∧ (pol.2.meter 0 0 0 2 len []).1 = 2 ∧ pol.2.tmRedDrop 0 65536 = true ∧
       units (pol.2.tmBytes 65536) + units len ≤ (pol.2.tmLimit 0 65536 0 : Int) ∧ pol.2.freeEntry = some 0 ∧
       ((queues 0).tmLimit 0 65536 0 : Int) < units ((queues 0).tmBytes 65536) + units len) ∧
    ((asked c (req 624 [])).found.front 624 (fun _ => true)).isSome = true ∧
    ((asked c (req 625 [])).found.front 625 (fun _ => true)).isSome = true := by decide +kernel

theorem met_EnqueueJudged_copy :
    let c := { held5.setPkt 1 (some packet) with bind := [(0, bindPacket (2 ^ 20 - 1))] }
    let r : EngReq := { mine5 624 [65536 + 2 ^ 28, BitVec.ofNat 64 (2 ^ 24), 0] with pk := some 1, pkt := 2 ^ 20 - 1, valid := true, plen := 60 }
    let h : EngReq := { r with words := [65536, BitVec.ofNat 64 (2 ^ 24 + 64 * 2 ^ 25), 0] }
    c.copyBad { r with words := [] } = true ∧ c.copyBad h = false ∧ (c.readState 0 0).1 = false ∧ (c.readState 0 0).2.boundTo_ h true 0 = true ∧
    held5.boundTo_ h true 0 = false ∧ getBits (65536 : Word) 28 1 ≠ 1 ∧ h.pk.isSome = true ∧
    ((c.setSram 1 (c.stateWordIndex 0) poisonMark).readState 0 0).1 = true := by decide +kernel

theorem met_EnqueueJudged_depth :
    let r := mine5 625 [65536]
    let c := queues 1000
    r.words.length = 1 ∧ getBits (nth 0 r.words 0) 17 47 = 0 ∧ (req 625 []).words.length ≠ 1 ∧
    (c.readSram 0 10 (queueWord 65536) 0 5).1 = false ∧ c.tmAccess 0 (c.mrNow 0) 65536 5 false = true ∧
    c.tmAccess 0 (c.mrNow 0) 65536 6 false = false ∧ ((c.setSram 10 (queueWord 65536) poisonMark).readSram 0 10 (queueWord 65536) 0 5).1 = true := by
  decide +kernel

theorem met_PolicerColours :
    let a := A.TM_POLICER 1
    let c := (chip 6).set a F.TM_POLICER_ENABLE 1
    let p := c.buckets (c.mrNow 0) 1
    (1 ≠ 0 ∧ c.getAt 0 a F.TM_POLICER_ENABLE ≠ 0) ∧ (chip 6).getAt 0 a F.TM_POLICER_ENABLE = 0 ∧ (p.tp : Int) < (p.tp + 1) * tokenUnit ∧
    ¬(p.tp : Int) < 0 * tokenUnit ∧ ¬(p.tc : Int) < 0 * tokenUnit ∧
    (let d := ((c.set a F.TM_POLICER_PBS 1000000).setBuckets 1 { p with tp := 100 * tokenUnit, tc := 0 })
     let q := d.buckets (d.mrNow 0) 1
     ¬(q.tp : Int) < 64 * tokenUnit ∧ (q.tc : Int) < 64 * tokenUnit) := by decide +kernel

theorem met_PoolWrites :
    let c := chip 6
    let a := A.BP_POOL 0
    let w := c.rd a
    let d (v : Word) := c.filled 0 a [v]
    (state c).writable a = true ∧ (state c).writable (A.BP_POOL 7) = true ∧ c.pool 0 F.BP_POOL_ENABLE = 1 ∧
    (d w).poolsOk = true ∧ (d (setBits w 0 7 0)).poolsOk = false ∧ (d w).pool 0 F.BP_POOL_ENABLE = 1 ∧
    (let u := d (setBits w 32 16 1); u.poolsOk = true ∧ u.pool 0 F.BP_POOL_COUNT ≠ c.pool 0 F.BP_POOL_COUNT) ∧
    c.pool 0 F.BP_POOL_HELD = 0 ∧ c.pool 0 F.BP_POOL_RESERVED = 0 ∧ held5.pool 0 F.BP_POOL_HELD = 0 ∧
    (c.set a F.BP_POOL_HELD 1).pool 0 F.BP_POOL_HELD ≠ 0 ∧
    (let u := d (setBits w 7 1 0); u.poolsOk = true ∧ u.pool 0 F.BP_POOL_ENABLE ≠ 1) ∧
    (let e := c.setFlag a F.BP_POOL_ENABLE false; let u := e.filled 0 a [w]; e.pool 0 F.BP_POOL_ENABLE ≠ 1 ∧ u.poolsOk = true ∧ u.pool 0 F.BP_POOL_ENABLE = 1) := by decide +kernel

/-- An entry of queue 65536 for port 0. -/
def entry : TmEnt := ⟨0, { enq 5 0 with bob := some 0 }, 64, false⟩

/-- Port 0 with link, and queue 65536 with that entry. -/
def selling : Chip :=
  let c := (queues 1000).setFlag (A.PX_STATUS 0) F.PX_STATUS_LINK true
  c.setTmq 65536 [entry]

theorem met_PortSelection :
    let now := (state selling).time
    selling.open1 23 = true ∧ selling.portOn 0 = true ∧ selling.link 0 = true ∧ selling.mode ≠ Mode.quarantine ∧
    (let c := (List.range 8).foldl (fun (c : Chip) k => c.gateDrop now 0 k) selling
     let exp (k : Nat) : Bool := c.getAt (c.mrNow now) (A.TM_PORTQ (8 * 0 + k)) F.TM_PORTQ_EXPRESS == 1
     c.preActive 0 = false ∧ ((c.port 0).mac true).isSome = false ∧ (c.port 0).pre.isSome = false ∧
     (let g := Chip.gated now 0 exp ((List.range 8).filter fun k => (true || false) && c.pqReady now 0 k) c
      g.1 = [0] ∧ (g.2.level2 now 0 g.1).map (·.1) = some 0 ∧ (g.2.level1 now 0 0).map (·.1) = some 65536 ∧ g.2.tmq 65536 = [entry] ∧
      (g.2.takeEntry now 65536 entry |>.entryPoison now 65536 entry).1 = false ∧
      ((g.2.setSram 10 0 poisonMark).entryPoison now 65536 entry).1 = true) ∧
     (chip 6).level2 now 0 [] = none) := by decide +kernel

theorem met_StrictFirst :
    [(0 : Nat), 7].Pairwise (· < ·) ∧ 7 ∈ [0, 7] ∧
    (let c := (chip 6).set (A.TM_PORTQ 7) F.TM_PORTQ_STRICT 1
     c.getAt (c.mrNow 0) (A.TM_PORTQ (8 * 0 + 7)) F.TM_PORTQ_STRICT = 1 ∧ c.level2 0 0 [0, 7] = some (7, [])) ∧
    drr [3, 5] 0 (fun _ => 0) (fun _ => 64) (fun _ => 256) = some (3, [(3, 256), (5, 0)]) := by decide +kernel

theorem met_TrafficWrites :
    let s := state (chip 6)
    s.writable A.TM_FLUSH = true ∧ s.writable (A.TM_QUEUE 65535) = true ∧ s.writable (A.TM_POLICER 16383) = true ∧
    s.writable (A.TM_GCL 15 1 255) = true ∧ s.writable (A.TM_GCL_HDR 15 1) = true ∧
    isShaped 65536 = true ∧ (queues 1).qf (stamp 0) 65536 F.TM_QUEUE_ENABLE = 1 ∧ (chip 6).qf (stamp 0) 65536 F.TM_QUEUE_ENABLE ≠ 1 ∧
    (let c := chip 6
     let st (w : Word) := let d := c.filled 0 (A.TM_QUEUE 65535 + 8 * 0) [w]; d.queueCheck 131071 (c.rdAt 0 (A.TM_QUEUE 65535)) (d.rdAt 0 (A.TM_QUEUE 65535))
     st (2 ^ 48) = Code.OK ∧ st 0 ≠ Code.OK) ∧
    (let st (v w : Word) := let d := (chip 6).filled 0 (A.TM_POLICER 16383) [v, w]
       d.policerCheck 16383 (d.rdAt 0 (A.TM_POLICER 16383)) (d.rdAt 0 (A.TM_POLICER 16383 + 8))
     st 0 (BitVec.ofNat 64 (16128 + 16128 * 2 ^ 24)) = Code.OK ∧ st 1 0 ≠ Code.OK) ∧
    (chip 6).gclBusy 0 15 0 = true ∧ (chip 6).gclBusy 0 15 1 = false ∧
    (let a := A.TM_GCL_HDR 15 1
     let ok (d : Chip) : Bool := d.getAt 0 a F.TM_GCL_HDR_LENGTH ≤ 256 ∧ 1000 ≤ d.getAt 0 a F.TM_GCL_HDR_CYCLE_NS
       ∧ d.getAt 0 a F.TM_GCL_HDR_CYCLE_NS ≤ 1000000000 ∧ d.getAt 0 a F.TM_GCL_HDR_BASE_FRAC % 2 ^ 13 = 0
     ok ((chip 6).filled 0 a [0, 0x100000000, 1000]) = true ∧ ok ((chip 6).filled 0 a [0, 0x101000000, 1000]) = false ∧
       ok ((chip 6).filled 0 a [0, 0, 999]) = false) ∧
    (chip 6).link 15 = false ∧
    (let c := ((chip 6).setFlag (A.TM_PORT 15) F.TM_PORT_DROP_STATE false).set (A.TM_PORT 15) F.TM_PORT_LINKDOWN_US 1
     c.flag (A.TM_PORT 15) F.TM_PORT_DROP_STATE = false ∧
       (c.port 15).downAt + ns (1000 * c.get (A.TM_PORT 15) F.TM_PORT_LINKDOWN_US) ≤ (state c).time) := by decide +kernel

/-! ### Ports -/

def txFrame : TxFrame := { bytes := List.replicate 60 0, poison := false }

/-- One frame of that entry, begun or not. -/
def txJob (run : Option TxRun) : TxJob := ⟨65536, entry, some [txFrame], run⟩

/-- Port 0 transmits by a MAC what is said. -/
def sending (express : Bool) (j : TxJob) : Chip := selling.setMac 0 express (some j)

/-- The preemptable MAC of port 0 has had a frame of 2,000 bytes under way since 40 ns ago. -/
def longRun : TxRun := ⟨5, some 1, 64, 1, some ((state selling).time - 40 * 65536)⟩
def longJob : TxJob := ⟨65536, entry, some [{ txFrame with bytes := List.replicate 2000 0 }], some longRun⟩

theorem met_FramesTransmitted :
    let now := (state selling).time
    let j := txJob none
    let c := ((sending true j).gateCut now 0).ownGo now 0
    let d := (c.buildJob now 0 j).2
    (c.port 0).mac true = some j ∧ c.portOn 0 = true ∧ c.link 0 = true ∧ macGoing (some j) = false ∧ c.open1 23 = true ∧ (c.port 0).own = [] ∧
    nth 0 (c.port 0).paused (c.jobPq j) = 0 ∧ (c.buildJob now 0 j).1 = some [txFrame] ∧ (Chip.screen now 0 5 [txFrame] d).1 = [txFrame] ∧
    d.gateAdmits 0 (c.jobPq j) (d.txStamp now 0) (60 + 4) true = true ∧ ((d.setMac 0 true (some j)).lineFor now 0 true).isSome = true ∧
    ((d.setMac 0 false (some (txJob (some ⟨5, none, 0, 0, some now⟩)))).lineFor now 0 true).isSome = false ∧ d.preActive 0 = false ∧
    (Chip.screen now 0 5 [{ txFrame with bytes := List.replicate 16200 0 }] d).1 = [] ∧
    (let e := (d.setFlag (A.TM_PORT 0) F.TM_PORT_GATE_EN true).set (A.TM_GCL_HDR 0 0) F.TM_GCL_HDR_INIT_STATE 0
     e.gateAdmits 0 (c.jobPq j) (e.txStamp now 0) (60 + 4) true = false) := by decide +kernel

theorem met_FramesTransmitted_segments :
    let now := (state selling).time
    let v : EnqReq := { entry.req with plen := 100, wordB := BitVec.ofNat 64 (1 + 100 * 2 ^ 32) }
    let j : TxJob := ⟨65536, { entry with req := v }, none, none⟩
    let c := ((sending false j).gateCut now 0).ownGo now 0
    (c.buildJob now 0 j).1 = none ∧ (c.port 0).mac false = some j ∧ j.run = none ∧
    ((sending false (txJob none)).setFlag (A.PX_PREEMPT_STAT 0) F.PX_PREEMPT_STAT_ACTIVE true).preActive 0 = true := by decide +kernel

theorem met_FramesTransmitted_end :
    let now := (state selling).time
    let r : TxRun := ⟨5, none, 0, 0, some 5⟩
    let j := txJob (some r)
    let c := (sending true j).gateCut now 0
    (c.port 0).mac true = some j ∧ j.run = some r ∧ j.frames = some (txFrame :: []) ∧ r.since.isSome = true ∧
    (let u := (c.countTx 0 (txFrame.bytes.length + 4) r.stamp (some j.ent.req.acct)).leave now 0 true j
     u.loopback 0 = 0 ∧ u.flag (A.PX_CFG 0) F.PX_CFG_ENABLE = true) ∧
    (let u := ((c.setFlag (A.PX_CFG 0) F.PX_CFG_ENABLE false).countTx 0 64 5 none).leave now 0 true j
     u.loopback 0 = 0 ∧ u.flag (A.PX_CFG 0) F.PX_CFG_ENABLE = false) := by decide +kernel

theorem met_FramesInterrupted :
    let c := sending false longJob
    let now := (state selling).time
    let least := 64 * (1 + c.get (A.PX_PREEMPT 0) F.PX_PREEMPT_ADD_FRAG)
    let n (t : Nat) := (now - t) * c.rate 0 / (8 * 65536)
    (c.port 0).pre = some longJob ∧ longJob.run = some longRun ∧ longRun.since = some (now - 40 * 65536) ∧ longRun.no = some 1 ∧ c.loopback 0 = 0 ∧
    least ≤ n (now - 40 * 65536) + 4 ∧ 64 + n (now - 40 * 65536) + 60 ≤ 2000 ∧ n now + 4 < least := by decide +kernel

theorem met_PortEvents :
    let now := (state selling).time
    let c := selling
    ((queues 1).portOn 0 = true ∧ (queues 1).link 0 = false) ∧ c.link 0 = true ∧
    (let d := ((((c.setFlag (A.PX_STATUS 0) F.PX_STATUS_LINK false).linkNote now 0 false).loseTx now 0).verifyRestart now 0)
     d.get (A.TM_PORT 0) F.TM_PORT_LINKDOWN_US ≠ 0 ∧ (d.set (A.TM_PORT 0) F.TM_PORT_LINKDOWN_US 0).get (A.TM_PORT 0) F.TM_PORT_LINKDOWN_US = 0) ∧
    (let x : PortSt := { PortSt.init with paused := [1, 0, 0, 0, 0, 0, 0, 0] }; nth 0 x.paused 0 ≠ 0 ∧ nth 0 x.paused 0 ≤ now) ∧
    ((c.set (A.PX_STATUS 0) F.PX_STATUS_XOFF 1).get (A.PX_STATUS 0) F.PX_STATUS_XOFF ≠ 0 ∧
      (c.set (A.PX_WEIR_CFG 0) F.PX_WEIR_CFG_MODE 1).get (A.PX_WEIR_CFG 0) F.PX_WEIR_CFG_MODE ≠ 0 ∧ (c.port 0).refresh ≤ now) ∧ c.open1 16 = true ∧
    (let d := c.setFlag (A.PX_PREEMPT 0) F.PX_PREEMPT_ENABLE true
     d.flag (A.PX_PREEMPT 0) F.PX_PREEMPT_ENABLE = true ∧ d.get (A.PX_PREEMPT_STAT 0) F.PX_PREEMPT_STAT_VERIFY_STATUS < 2 ∧
       (d.port 0).verifyAt ≤ now ∧ (d.port 0).verifies < 3 ∧ 3 ≤ ({ d.port 0 with verifies := 3 }).verifies ∧ d.receives 0 = true ∧ d.loopback 0 = 0 ∧
       (d.set (A.PX_PREEMPT_STAT 0) F.PX_PREEMPT_STAT_VERIFY_STATUS 1).get (A.PX_PREEMPT_STAT 0) F.PX_PREEMPT_STAT_VERIFY_STATUS = 1) := by
  decide +kernel

theorem met_PortWrites :
    let c := chip 6
    let e := c.setFlag (A.PX_CFG 0) F.PX_CFG_ENABLE true
    let a := A.PX_CFG 0
    let w := c.rd a
    let on (c : Chip) (v : Word) := c.filled 0 a [setBits v 0 1 1]
    let ok (d : Chip) : Bool := 1518 ≤ d.get a F.PX_CFG_MAX_FRAME ∧ d.get a F.PX_CFG_MAX_FRAME ≤ 16128
      ∧ d.get a F.PX_CFG_MAX_FRAME = c.get a F.PX_CFG_MAX_FRAME ∧ d.get a F.PX_CFG_LOOPBACK = 0
    (state c).writable a = true ∧ c.present 0 = true ∧ c.flag a F.PX_CFG_ENABLE = false ∧ (on c w).flag a F.PX_CFG_ENABLE = true ∧ ok (on c w) = true ∧
    e.flag a F.PX_CFG_ENABLE = true ∧
    (let off := e.filled 0 a [setBits w 0 1 0]
     off.flag a F.PX_CFG_ENABLE = false ∧ ok off = true ∧ off.get a F.PX_CFG_AN_EN = e.get a F.PX_CFG_AN_EN ∧
       off.get a F.PX_CFG_MAX_FRAME = e.get a F.PX_CFG_MAX_FRAME) ∧
    (let v := setBits w 3 1 (1 - c.get a F.PX_CFG_AN_EN); ok (on e v) = true ∧ (on e v).get a F.PX_CFG_AN_EN ≠ e.get a F.PX_CFG_AN_EN) ∧
    (state c).writable (A.PX_MODE 3) = true ∧ (List.range 4).all (fun k => !c.flag (A.PX_CFG (4 * 3 + k)) F.PX_CFG_ENABLE) = true ∧
    e.flag (A.PX_CFG (4 * 0 + 0)) F.PX_CFG_ENABLE = true ∧
    (c.filled 0 (A.PX_MODE 3) [2]).rd (A.PX_MODE 3) ≠ c.rd (A.PX_MODE 3) ∧ (c.filled 0 (A.PX_MODE 3) [c.rd (A.PX_MODE 3)]).rd (A.PX_MODE 3) = c.rd (A.PX_MODE 3) ∧
    (state c).writable (A.PX_TS_TAIL 3) = true ∧ tailOk 64 5 3 5 = true ∧ tailOk 64 5 3 3 = true ∧ tailOk 64 5 3 6 = false := by decide +kernel

/-! ### The Cipher Engine and the Storage Transport Engine -/

/-- A cached context 0 of slice 5 with zero keys: its suite, whether it opens, its SEQ, whether its state was lost. -/
def line (suite : Nat) (opens : Bool) (seq : Nat) (lost : Bool) : CeLine :=
  ⟨0, 0, BitVec.ofNat 64 (suite + 16 + (if opens then 32 else 0) + 5 * 64 + 4 * 2 ^ 20), 1, List.replicate 32 0, List.replicate 32 0, seq, 0,
   some 100, lost⟩

/-- The engine with that context and bobbin 0 of slice 5. -/
def cipher (l : CeLine) : Chip :=
  let c := (held5.setFlag (A.TE_CE_AREA 0) F.TE_CE_AREA_ENABLE true).set (A.TE_CE_AREA 0) F.TE_CE_AREA_WORDS 4
  c.setCe { c.ce with cache := [l] }

/-- A job on `n` bytes of the packet in bobbin 0, its output from byte 128 of the bobbin on. -/
def job (ch n : Nat) : EngReq :=
  { mine5 ch [0, BitVec.ofNat 64 (n * 2 ^ 16 + 128 * 2 ^ 32), 0, 0] with valid := true, plen := 128 }

/-- What a job with context `l` needs before its context is looked at. -/
def jobReady (ch n : Nat) (l : CeLine) : Bool :=
  let r := job ch n
  let c := cipher l
  let g := c.ctxGet 0 0 5
  ((asked c r).found.front ch (fun _ => true)).isSome && !ceBad r none && c.ceSrcFits r && g.1 == Code.OK && g.2.1 == some l
    && !ceBad r (some l) && g.2.2.ceDstFits r ((l.outLen n).getD 0) && !(g.2.2.ceRead 0 r).1 && (g.2.2.ceRead 0 r).2.2.ceBound r
    && r.slice == hdrOwner l.hdr

theorem met_CipherJobs :
    jobReady 640 60 (line 3 false 5 false) = true ∧ jobReady 641 0 (line 8 false 0 false) = true ∧ jobReady 640 0 (line 8 false 0 false) = true ∧
    ceBad (mine5 640 []) none = true ∧ (cipher (line 3 false 5 false)).ceSrcFits { job 640 60 with plen := 59 } = false ∧
    (cipher (line 3 false 5 false)).ceBound { job 640 60 with tid := 1 } = false ∧ hdrOwner (line 3 false 5 false).hdr ≠ 6 ∧
    jobReady 640 60 (line 3 false 5 true) = true ∧ suiteXts 3 = false ∧
    jobReady 640 60 (line 3 false (2 ^ 32) false) = true ∧ seqMax (line 3 false (2 ^ 32) false).hdr < 2 ^ 32 ∧
    (Chip.advance (line 3 false 5 false) (line 3 false 6 false) 5 (cipher (line 3 false 5 false))).isSome = true ∧
    ((cipher (line 3 false 5 false)).bobStore 0 ((cipher (line 3 false 5 false)).bobBase 0 + 128) (List.replicate 84 0) 5).1 = true := by
  decide +kernel

/-- The source an OPEN accepts: what the SEAL of number 6 with the same keys makes of 14 bytes. -/
def sealedSrc : List Byte := (line 3 false 6 false).sealed 6 0 (List.replicate 14 0)

theorem met_CipherJobs_opens :
    jobReady 640 60 (line 3 true 5 false) = true ∧ (line 3 true 5 false).opened [] = .parse ∧
    (line 3 true 5 false).opened (sealedSrc.take 36 ++ [0, 0]) = .bad ∧ (line 3 true 5 false).opened sealedSrc = .ok (List.replicate 14 0) 0 6 ∧
    (line 3 true 5 false).replayed 6 = false ∧ (line 3 true 5 false).replayed 1 = true ∧
    (cipher (line 3 true 5 false)).ceDstFits (job 640 60) 14 = true ∧
    (Chip.advance (line 3 true 5 false) ((line 3 true 5 false).accept 6) 6 (cipher (line 3 true 5 false))).isSome = true := by decide +kernel

/-- The engine with the words of context 0 in QDR and its removal under way. -/
def removing : Chip :=
  let c := (List.range 4).foldl (fun (c : Chip) k => c.set (A.MC_STATUS k) F.MC_STATUS_STATE 2) (cipher (line 3 false 5 false))
  c.setCe { c.ce with removes := [(0, 7)] }

theorem met_SequenceState :
    let l := line 3 false 5 false
    let c := removing
    l.bound = some 100 ∧ (5 : Nat) < 100 ∧ (100 : Nat) ≤ 200 ∧ (∀ p, ({ l with bound := none }).bound = some p → p ≤ 200) ∧
    (∃ e, c.ctxWord l.ctx = some (0, e) ∧ c.qReady (qdrChannel 0 (e + 3)) = true) ∧ (chip 6).qReady (qdrChannel 0 3) = false ∧
    1 ≤ hdrWin (line 3 true 5 false).hdr ∧ hdrWin (0 : Word) = 0 := by
  refine ⟨by decide +kernel, by decide +kernel, by decide +kernel, fun _ h => (nomatch h), ⟨removing.get (A.TE_CE_AREA 0) F.TE_CE_AREA_BASE, ?_⟩, ?_⟩ <;>
    decide +kernel

/-- The key-transport key 0 of zeros, and context 0 staged for slice 5, with 64 bytes of zeros wrapped under that key. -/
def staging : Chip :=
  let c := removing
  let c := { c with cmd := { c.cmd with keys := mset [] c.cmd.keys 16 (List.replicate 32 0) } }
  let blob : List Word := [0xbe9f5840553b8ed3, 0x4c76fa26334cb46e, 0x436f6e0e50702fed, 0x070da497d0033fa5, 0xf85739b07fd4f084,
    0xe273a53ecbc75155, 0x6649512bd691ac18, 0x77420d603222853a, 0xd51999c3a36040af]
  let c := ((c.wr A.CE_CTX_HDR (line 3 true 0 false).hdr).wr A.CE_CTX_ID 1).wr A.CE_CTX_SEQ 1
  (List.range 9).foldl (fun (c : Chip) i => c.wr (A.CE_CTX_BLOB i) (nth 0 blob i)) c

theorem met_ContextCommands_unwrap :
    keyUnwrap (List.replicate 32 0) (ofWords ((List.range 9).map fun i => staging.rd (A.CE_CTX_BLOB i))) = some (List.replicate 64 0) := by
  decide +kernel

theorem met_ContextCommands_install :
    let d := staging.filled 0 A.CE_CTX_CMD [2 ^ 20]
    let w := d.get (A.TE_CE_AREA 0) F.TE_CE_AREA_BASE
    let valid (c : Chip) : Option Nat := match Chip.readQdrs 0 0 0 4 w c with
      | (.ok bs, _) => some (getBits (leWord bs) 4 1)
      | _ => none
    (state (chip 6)).writable A.CE_CTX_CMD = true ∧
    stagedBad (d.rd A.CE_CTX_HDR) (d.rd A.CE_CTX_ID) (d.rd A.CE_CTX_SEQ).toNat = false ∧ d.ctxWord 0 = some (0, w) ∧ d.ctxReady 0 w = true ∧
    mget [] d.cmd.keys 16 = List.replicate 32 0 ∧ (List.range 9).map (fun i => d.rd (A.CE_CTX_BLOB i)) = (List.range 9).map (fun i => staging.rd (A.CE_CTX_BLOB i)) ∧
    (mget [] d.cmd.keys 17).length ≠ 32 ∧ stagedBad 0xFFFFFFFFFFFFFFFF 0 0 = true ∧ d.ctxWord 4095 = none ∧
    mget 0 d.ce.bad 0 ≠ 2 ∧ valid d = some 0 ∧ valid (d.writeQdr 0 w (leBytes 32 16)) = some 1 := by
  decide +kernel

theorem met_ContextCommands :
    Code.BAD_ARGUMENT < 2 ^ 16 ∧ removing.ce.removes.find? (fun p => p.1 == 0) = some (0, 7) ∧ removing.up 40 = true ∧
    ({ removing with reqs := [job 640 60] }).ctxJobs 0 7 = true ∧ removing.ctxJobs 0 7 = false ∧
    (let u := removing.setCe { removing.ce with removes := removing.ce.removes.filter fun q => q.1 != 0, cache := removing.ce.cache.filter fun l => l.ctx != 0 }
     let w := u.get (A.TE_CE_AREA 0) F.TE_CE_AREA_BASE
     u.ctxWord 0 = some (0, w) ∧ u.ctxReady 0 w = true ∧ isOk (u.readQdr 0 0 w 0).1 = true ∧ isOk (u.readQdr 0 0 (w + 3) 0).1 = true ∧
     u.ce.cache.find? (fun l => l.ctx == 0) = none ∧ u.ce.cache = []) ∧
    removing.ce.cache = [line 3 false 5 false] ∧ suiteXts (hdrSuite (line 3 false 5 false).hdr) = false ∧ (line 3 false 5 false).lost = false := by
  decide +kernel

/-- Adapter `c` with slice 5 bound, both links up and both functions of both endpoints answering and mastering. -/
def hosted (c : Chip) : Chip :=
  let c := (c.setFlag (A.SM_SLICE 5) F.SM_SLICE_BOUND true).setFlag (A.HE_LINK_STATUS 0) F.HE_LINK_STATUS_UP true
  [(0, 0), (0, 1), (1, 0), (1, 1)].foldl (fun (c : Chip) k => c.setFn k.1 k.2 ((c.fn k.1 k.2).wr 0x04 6))
    (c.setFlag (A.HE_LINK_STATUS 1) F.HE_LINK_STATUS_UP true)

/-- Connection 9 of slice 5, valid, at HEADER with EXP_SEQ 100, its ring of 16 slots on endpoint A; the slice is bound and the endpoint may
issue requests. -/
def conn9 : Chip :=
  let a := A.ST_CONN 9
  let c := ((held5.set a F.ST_CONN_VALID 1).set a F.ST_CONN_OWNER 5).set a F.ST_CONN_EXP_SEQ 100
  let c := ((c.set a F.ST_CONN_RING_LOG2 4).setStState 9 stHeader).setConn 9 { StConn.init with first := 100 }
  hosted c

/-- A receive request of `n` bytes at stream byte `seq`. -/
def rx (seq n : Nat) : EngReq :=
  { mine5 672 [BitVec.ofNat 64 (9 + n * 2 ^ 32), BitVec.ofNat 64 seq] with valid := true, plen := 128 }

/-- One PDU: a header alone of 8 bytes. -/
def pdu : List Byte := [6, 0, 8, 0] ++ leBytes 4 8

theorem met_StorageReceives :
    let c := conn9
    let d := c.bobFill (c.bobBase 0) pdu
    let s := asked d (rx 100 8)
    (s.found.front 672 (fun _ => true)).isSome = true ∧ (s.found.stReceive 0 (rx 100 8)).2.2 = none ∧
    ((rx 100 8).words.length = 2 ∧ (0 : Nat) + 8 ≤ (rx 100 8).plen) ∧ (mine5 672 []).words.length ≠ 2 ∧
    c.sc 9 F.ST_CONN_VALID ≠ 0 ∧ (chip 6).sc 9 F.ST_CONN_VALID = 0 ∧ c.sc 9 F.ST_CONN_OWNER = 5 ∧ c.stState 9 ≠ stLost ∧
    (c.setStState 9 stLost).stState 9 = stLost ∧ c.sc 9 F.ST_CONN_EXP_SEQ = 100 ∧ c.stHost 9 128 ≠ some .wait ∧
    (let ahead := (101 + 2 ^ 32 - 100) % 2 ^ 32; 0 < ahead ∧ ahead < 2 ^ 31) ∧
    (let behind := (100 + 2 ^ 32 - 90) % 2 ^ 32; 8 ≤ behind ∧ ¬(8 : Nat) ≤ (100 + 2 ^ 32 - 100) % 2 ^ 32) ∧
    (c.readSram 0 12 9 0 5).1 = false ∧ d.bobNamed 0 = true ∧ (d.bobRead 0 (d.bobBase 0 + 0) 8 5).1 = false ∧
    (d.bobRead 0 (d.bobBase 0 + 0) 8 5).2.1 = pdu ∧
    (StRun.follow 0 9 9 pdu ⟨d, d.conn 9, 0, 0, none⟩).stop = none ∧
    (StRun.follow 0 9 9 [6, 0, 7, 0, 7, 0, 0, 0] ⟨d, d.conn 9, 0, 0, none⟩).stop = some (.lost lossPdu Code.LOST) := by decide +kernel

/-- The host of slice 5 is not to be had for the moment: a sluiced endpoint; and the placement of connection 9 is on. -/
def noLink : Chip := conn9.setFlag (A.HE_LINK_STATUS 0) F.HE_LINK_STATUS_UP false
def placing : Chip := (((conn9.set (A.ST_CONN 9) F.ST_CONN_PLACE 1).set (A.ST_CONN 9) F.ST_CONN_PLACE_LOG2 4).set (A.ST_CONN 9) F.ST_CONN_RING_LOG2 4)

/-- A data PDU of the type a connection of role 0 places, with 4 bytes of data. -/
def dataPdu : List Byte := [7, 0, 24, 24] ++ leBytes 4 28 ++ List.replicate 20 0

theorem met_StorageReceives_waits :
    let d := placing.bobFill (placing.bobBase 0) dataPdu
    (d.stReceive 0 (rx 100 28)).2.2 = some (.entry 0) ∧
    (((noLink.bobFill (noLink.bobBase 0) pdu).stReceive 0 (rx 100 8)).2.2).isSome = true := by decide +kernel

theorem met_StreamFollowed :
    let h : List Byte := [6, 1, 8, 0] ++ leBytes 4 12
    let c := conn9
    pduHd (h ++ [0, 0, 0, 0]) = true ∧ digestOf ((h ++ [0, 0, 0, 0]).take (pduHlen (h ++ [0, 0, 0, 0]))) ≠ ((h ++ [0, 0, 0, 0]).drop (pduHlen (h ++ [0, 0, 0, 0]))).take 4 ∧
    (8 ≤ ([] ++ h).length ∧ pduBad (c.sc 9 F.ST_CONN_HDGST == 1) (c.sc 9 F.ST_CONN_DDGST == 1) ([] ++ h) = true) ∧
    getBits (nth 0 [0, (2 ^ 48 : Word)] 1) 49 1 = 0 ∧ getBits (nth 0 [0, (2 ^ 48 : Word)] 1) 48 1 = 1 ∧ c.stHost 9 4 = none ∧
    (c.conn 9).buf = [] ∧ (c.conn 9).hdr = [] ∧
    (let d := c.set (A.ST_CONN 9) F.ST_CONN_TAIL 2; (d.sc 9 F.ST_CONN_HEAD + 2) % d.stSize 9 = d.sc 9 F.ST_CONN_TAIL) ∧
    (let d := c.set (A.ST_CONN 9) F.ST_CONN_TAIL 1; (d.sc 9 F.ST_CONN_HEAD + 1) % d.stSize 9 = d.sc 9 F.ST_CONN_TAIL) ∧
    (c.sc 9 F.ST_CONN_HEAD + 1) % c.stSize 9 ≠ c.sc 9 F.ST_CONN_TAIL ∧ c.jobStatus (c.sc 9 F.ST_CONN_OWNER) (c.stEp 9) = Code.OK := by decide +kernel

/-- A transmit request of `n` bytes of the packet, its output from byte 128 of bobbin 0 on. -/
def tx (n : Nat) : EngReq :=
  { mine5 673 [BitVec.ofNat 64 (9 + n * 2 ^ 32), 128 * 2 ^ 24] with valid := true, plen := 128 }

theorem met_StorageTransmits :
    let c := conn9.bobFill (conn9.bobBase 0) pdu
    ((asked c (tx 8)).found.front 673 (fun _ => true)).isSome = true ∧ (c.stTransmit 0 (tx 8)).2.2 = none ∧
    ((tx 8).words.length = 2 ∧ (8 : Nat) ≤ (tx 8).plen ∧ c.bobNamed 0 = true ∧ 128 + 8 ≤ c.bobSize 0) ∧ (mine5 673 []).words.length ≠ 2 ∧
    (c.bobRead 0 (c.bobBase 0 + 0) 8 5).1 = false ∧ (chip 6).sc 9 F.ST_CONN_VALID = 0 ∧ c.sc 9 F.ST_CONN_VALID ≠ 0 ∧ c.sc 9 F.ST_CONN_OWNER = 5 ∧
    c.boundTo_ (tx 8) true 0 = true ∧ c.boundTo_ { tx 8 with tid := 1 } true 0 = false ∧
    cutPdus 9 pdu = some [pdu] ∧ cutPdus 8 [6, 0, 8, 0, 8, 0, 0] = none ∧
    (match (Chip.sendPdus 0 9 [pdu] c).1 with | .ok out => out == pdu | _ => false) = true ∧
    (c.bobStore 0 (c.bobBase 0 + 128) pdu 5).1 = true ∧ c.sc 9 F.ST_CONN_PLACE = 0 := by decide +kernel

theorem met_StorageTransmits_waits :
    let d := (placing.set (A.ST_CONN 9) F.ST_CONN_ROLE 1).bobFill (placing.bobBase 0) dataPdu
    let failed : Chip := { d with sto := { d.sto with failed := [((9, 0), Code.POISONED)] } }
    let e := d.setFlag (A.HE_LINK_STATUS 0) F.HE_LINK_STATUS_UP false
    (d.stTransmit 0 (tx 28)).2.2 = some (.entry 0) ∧ cutPdus 29 dataPdu = some [dataPdu] ∧
    (match (Chip.sendPdus 0 9 [dataPdu] failed).1 with | .error (.lost _ _) => true | _ => false) = true ∧
    (e.stTransmit 0 (tx 28)).2.2.isSome = true := by decide +kernel

theorem met_ConnectionWrites :
    let c := conn9
    (state (chip 6)).writable (A.ST_CONN 32767) = true ∧
    (let d := c.filled 0 (A.ST_CONN 9 + 8 * 0) [setBits (c.rd (A.ST_CONN 9)) 32 32 7]
     (4 ≤ d.sc 9 F.ST_CONN_RING_LOG2 ∧ d.sc 9 F.ST_CONN_PLACE_LOG2 ≤ 12 ∧ d.sc 9 F.ST_CONN_RING_ADDR % 128 = 0 ∧
       d.sc 9 F.ST_CONN_PLACE_ADDR % 32 = 0 ∧ d.sc 9 F.ST_CONN_TAIL < d.stSize 9) ∧ getBits (c.rd (A.ST_CONN 9)) 0 1 = 1 ∧
       setBits (d.rd (A.ST_CONN 9)) 32 32 0 = setBits (c.rd (A.ST_CONN 9)) 32 32 0 ∧ d.sc 9 F.ST_CONN_EXP_SEQ ≠ 100) ∧
    (c.filled 0 (A.ST_CONN 9 + 8 * 0) [c.rd (A.ST_CONN 9)]).sc 9 F.ST_CONN_EXP_SEQ = 100 ∧
    (let d := c.filled 0 (A.ST_CONN 9 + 8 * 0) [1]; setBits (d.rd (A.ST_CONN 9)) 32 32 0 ≠ setBits (c.rd (A.ST_CONN 9)) 32 32 0) ∧
    ¬4 ≤ ((chip 6).filled 0 (A.ST_CONN 9 + 8 * 2) [0]).sc 9 F.ST_CONN_RING_LOG2 ∧
    (let e := c.set (A.ST_CONN 9) F.ST_CONN_VALID 0
     let u := e.filled 0 (A.ST_CONN 9 + 8 * 0) [c.rd (A.ST_CONN 9)]
     let d := (e.wr (A.SM_SLICE 5 + 8) (2 ^ 33)).filled 0 (A.ST_CONN 9 + 8 * 0) [c.rd (A.ST_CONN 9)]
     getBits (e.rd (A.ST_CONN 9)) 0 1 = 0 ∧ (e.filled 0 (A.ST_CONN 9 + 8 * 0) [5 * 2]).sc 9 F.ST_CONN_VALID = 0 ∧
     u.sc 9 F.ST_CONN_VALID = 1 ∧ u.sc 9 F.ST_CONN_OWNER = 5 ∧
     ¬u.get (A.SM_SLICE 5) F.SM_SLICE_ST_USED < getBits (u.rdAt (stamp 0) (A.SM_SLICE 5 + 8)) 33 16 ∧
     d.get (A.SM_SLICE 5) F.SM_SLICE_ST_USED < getBits (d.rdAt (stamp 0) (A.SM_SLICE 5 + 8)) 33 16 ∧ d.drains 5 F.SM_RESIZE_REL_ST = false) := by
  decide +kernel

/-! ### Doorbells, queue pairs, the DMA Engine -/

/-- Queue pair 9 of slice 5 in state `st`: rings of 64 entries, buffers of 2,048 bytes, four transmit descriptors to fetch. -/
def paired (st : Nat) : Chip :=
  let a := A.DE_QP 9
  let c := (hosted held5).wr a (BitVec.ofNat 64 ((if st = 0 then 0 else 1) + 4 * st + 5 * 16 + 6 * 2 ^ 27 + 6 * 2 ^ 31 + 6 * 2 ^ 35 + 16 * 2 ^ 55))
  let c := (c.setQpf 9 F.DE_QP_TX_TAIL 4).setQpf 9 F.DE_QP_RX_BUF 8
  (c.set (A.SM_SLICE 5) F.SM_SLICE_QP_MAX 4).setQpf 9 F.DE_QP_RX_TAIL 4

/-- The same without its slice's binding. -/
def unbound : Chip := (paired 1).setFlag (A.SM_SLICE 5) F.SM_SLICE_BOUND false

theorem met_Doorbells :
    let c := paired 1
    (c.epUp 0 = true ∧ c.open1 20 = true ∧ (chip 6).epUp 0 = false ∧ c.sluiced 0 = false ∧ c.decodes 0 1 = true ∧ c.open1 23 = true) ∧
    (c.setFn 0 1 FnSt.init).decodes 0 1 = false ∧
    (c.setFlag 0x20000018 ⟨0, 0, 1⟩ true).sluiced 0 = true ∧ c.qpSlice 9 = 5 ∧ c.twin = false ∧ c.qpf 9 F.DE_QP_ENDPOINT = 0 ∧ c.qpState 9 = 1 ∧
    (paired 2).qpState 9 = 2 ∧ (paired 3).qpState 9 = 3 ∧
    (63 < ringSize (c.qpf 9 F.DE_QP_TX_LOG2) ∧ 63 < ringSize (c.qpf 9 F.DE_QP_RX_LOG2) ∧ ringSize (c.qpf 9 F.DE_QP_CQ_LOG2) ≤ 64) ∧
    (let d := hosted conn9; d.epUp 0 = true ∧ d.sc 9 F.ST_CONN_OWNER = 5 ∧ d.stEp 9 = 0 ∧ d.sc 9 F.ST_CONN_VALID = 1 ∧ 15 < d.stSize 9 ∧ d.up 41 = true) := by
  decide +kernel

/-- A descriptor of a send of 64 bytes, and queue pair 9 with it in its cache. -/
def desc : TxDesc := ⟨0, [0x1000, BitVec.ofNat 64 (64 + 2 ^ 19), 0, 0]⟩
def sends : Chip := (paired 1).setQp 9 { QpSt.init with tx := [desc], txNext := 1 }

/-- A transmit job of queue pair 9 whose one packet waits for its count point. -/
def txPkt : TxPkt := ⟨0, 64, 0, 0, 0, Xfer.init, none⟩
def sendJob (more : Bool) (ps : List TxPkt) : Job :=
  ⟨1, 9, 0, 64, 1, 0, .tx ([desc] :: if more then [[desc]] else []) { TxSend.init with ready := true, pkts := txPkt :: ps }, [], false⟩

theorem met_DescriptorFetches :
    let c := (paired 1).setQp 9 { QpSt.init with gen := 1 }
    let now := (state c).time
    let d : Chip := { c with de := { c.de with turn := [(0, 19)] } }
    (∀ b ∈ [false, true], (c.ring now 9 b).wants = true) ∧ ((c.setQp 9 { c.qp 9 with txFly := 1 }).ring now 9 false).wants = false ∧
    c.open1 23 = true ∧ c.jobStatus 5 (c.qpHome 9) = Code.OK ∧ c.jobCan 5 (c.qpHome 9) = true ∧ c.ringTurn now 9 false = true ∧
    c.ringTurn now 9 true = false ∧ d.ringTurn now 9 true = true ∧ (c.issueRead now (c.stripe 0 0) 1 none 0 128 (.desc 9 false 0 0 4)).1.isSome = true ∧
    (unbound.ring now 9 false).wants = true ∧ unbound.jobStatus 5 0 ≠ Code.OK ∧ unbound.jobStatus 5 0 ≠ Code.MASTER_OFF ∧
    ((sends.setQp 9 { sends.qp 9 with tx := [⟨0, [0, 64, 0, 0]⟩] }).qp 9).lacksEop = true ∧ (c.qp 9).lacksEop = false := by decide +kernel

theorem met_TransmitSide :
    (let d := sends
     let now := (state d).time
     (takeSends 16 (d.qp 9).tx).1 = [[desc]] ∧ 1 ≤ d.cqRoom 9 ∧ d.de.jobs = [] ∧ (d.qp 9).starved = none ∧ d.open1 23 = true ∧ d.qpState 9 = 1 ∧
       d.overlapped = true ∧ (1, 64) = ([[desc]].foldl (fun (r : Nat × Nat) ds => if r.2 + sendLen ds ≤ 2 ^ 20 then (r.1 + 1, r.2 + sendLen ds) else (r.1, 2 ^ 20 + 1)) (0, 0)) ∧ d.txHeld now 9 = false ∧ d.admitsHost 5 (d.qpHome 9) = true ∧ d.moverFree (d.qpHome 9) 64 = true ∧
       d.jobStatus 5 (d.qpHome 9) = Code.OK ∧ d.jobCan 5 (d.qpHome 9) = true) ∧
    ({ QpSt.init with starved := some 64 }).starved.isSome = true := by decide +kernel

theorem met_TransmitSide_count :
    let d (more : Bool) (ps : List TxPkt) : Chip := (paired 1).setJobs [sendJob more ps]
    (d false []).de.jobs = [] ++ sendJob false [] :: [] ∧ (sendJob false []).done = false ∧ txPkt.xfer.segs = [] ∧ txPkt.xfer.out = 0 ∧
    (d false []).open1 23 = true ∧ (d false []).jobCan 5 0 = true ∧ (d true []).jobCan 5 0 = true ∧ (d true [txPkt]).jobCan 5 0 = true ∧
    (let c := d false []
     let cur : TxSend := { TxSend.init with ready := true, made := 1, stamp := some 0 }
     let q := c.sendCqe 9 Code.OK [desc] cur
     ((q.2.jobCqe 0 (sendJob false []) q.1).job 1).isSome = true) := by decide +kernel

/-- A send of 4,000 bytes, to be cut into pieces of 1,000 behind a header of 54 where `tso`. -/
def longSend (tso : Bool) : List TxDesc :=
  [⟨0, [0x1000, BitVec.ofNat 64 (4000 + 2 ^ 19), BitVec.ofNat 64 ((if tso then 1 else 0) + 1000 * 2 ^ 32 + 54 * 2 ^ 46), BitVec.ofNat 64 (14 * 2 ^ 32 + 34 * 2 ^ 40)]⟩]

/-- The header of that send: IPv4 at byte 14, TCP. -/
def longHead : List Byte := List.replicate 14 0 ++ [0x45] ++ List.replicate 8 0 ++ [6] ++ List.replicate 30 0

theorem met_SendsStart :
    let c := paired 1
    let z := 2048
    sendBad 1 [⟨0, [0, 64, 0, 0]⟩] = true ∧ sendBad 1 [desc] = false ∧ sendLen [desc] ≤ z ∧ (∀ b, sendBad 1 (longSend b) = false) ∧
    z < sendLen (longSend false) ∧ sendTso (longSend false) = false ∧ sendTso (longSend true) = true ∧ cutBad z (longSend true) = false ∧
    cutBad 64 (longSend true) = true ∧ 64 < sendLen (longSend true) ∧ cutHeadOk (longSend true) longHead = true ∧
    (z - sendHdr (longSend true)) / sendMss (longSend true) * sendMss (longSend true) ≠ 0 ∧ swapUnit (c.qpf 9 F.DE_QP_TX_PSWAP) = 1 ∧
    (match (Chip.allocPkts 0 5 [(0, 0, 64, 0, none)] [] { noBobbins with regs := (A.SM_SLICE 5 + 8, 8 * 2 ^ 17) :: noBobbins.regs }).1 with
      | .inl _ => true | .inr _ => false) = true := by decide +kernel

/-- An entry of host receive queue 9, of `n` bytes; queue pair 9 with it and one buffer. -/
def rxEntry (n : Nat) : TmEnt := ⟨0, { enq 5 0 with bob := some 0, queue := 9 }, n, false⟩
def receives (n : Nat) : Chip := ((paired 1).setQp 9 { QpSt.init with rx := [(0, 0x2000)], rxNext := 1 }).setTmq 9 [rxEntry n]
def rxJob : Job := ⟨1, 9, 0, 64, 1, 0, .rx (rxEntry 60) [0x2000] 0, [], false⟩

theorem met_ReceiveSide :
    let pick (c : Chip) := drr ((c.tm.queues.map (·.1)).filter fun q => !isShaped q && c.rxReady q 0) (c.turn 144) (fun q => (c.shape q).deficit)
      c.headCharge (fun q => 256 * c.getAt (c.mrNow 0) (A.TM_HRXQ q) F.TM_HRXQ_WEIGHT)
    (pick (receives 60)).map (·.1) = some 9 ∧ (pick (receives 40000)).map (·.1) = some 9 ∧ (receives 60).tmq 9 = rxEntry 60 :: [] ∧
    (((receives 60).takeEntry 0 9 (rxEntry 60)).entryPoison 0 9 (rxEntry 60)).1 = false ∧ (receives 60).buffersFor 9 (rxEntry 60) ≤ 16 ∧
    16 < (receives 40000).buffersFor 9 (rxEntry 40000) ∧
    (let c := (paired 1).setJobs [rxJob]
     c.de.jobs = [] ++ rxJob :: [] ∧ c.open1 23 = true ∧ c.jobStatus (c.qpSlice 9) 0 = Code.OK ∧ c.jobCan (c.qpSlice 9) 0 = true ∧
       (unbound.setJobs [rxJob]).jobStatus 5 0 ≠ Code.OK ∧ ((c.jobCqe 0 rxJob ⟨[0, 0, 0, 0], none, false⟩).job 1).isSome = true) ∧
    (let c := ((paired 1).setQpf 9 F.DE_QP_ARMED 1).setQpf 9 F.DE_QP_CQ_TAIL 1
     c.qpf 9 F.DE_QP_ARMED = 1 ∧ c.qpf 9 F.DE_QP_CQ_TAIL ≠ c.qpf 9 F.DE_QP_CQ_HEAD ∧ (c.qp 9).fired = none ∧
       7 + ns (1000 * c.qpf 9 F.DE_QP_COAL_US) ≤ (state c).time) ∧
    (let c := ((chip 6).set A.DE_STATUS ⟨0, 1, 1⟩ 1); c.switching = true ∧ c.de.jobs = [] ∧ c.fetchJobs 0 = 0 ∧ c.fetchJobs 1 = 0) := by decide +kernel

theorem met_QueuePairWrites :
    let c := paired 0
    let a := A.DE_QP 9
    let w := c.rd a
    (state c).writable a = true ∧ (state c).writable (A.DE_QP 65535) = true ∧ c.qpf 9 F.DE_QP_ENABLE = 0 ∧ c.qpState 9 = 0 ∧
    (c.filled 0 a [setBits (setBits w 1 1 0) 0 1 1]).qpCheck 0 9 = Code.OK ∧ (c.filled 0 a [1]).qpCheck 0 9 ≠ Code.OK ∧
    (c.setQpf 9 F.DE_QP_STATE 3).qpState 9 ≠ 0 ∧
    (let d := paired 1
     let words (d : Chip) := (List.range 8).map fun k => d.rd (a + 8 * k)
     let u := d.filled 0 a [setBits (setBits (d.rd a) 1 1 0) 0 1 0]
     let r := d.filled 0 a [setBits (d.rd a) 1 1 1]
     d.qpf 9 F.DE_QP_ENABLE = 1 ∧ qpKept (words d) (words u) = true ∧ qpKept (words d) (words (d.filled 0 a [0])) = false ∧ u.qpState 9 = 1 ∧ getBits (d.rd a) 0 1 = 1 ∧
       (d.setQpf 9 F.DE_QP_STATE 3).qpBusy 9 = false ∧ ((d.setQpf 9 F.DE_QP_STATE 3).setJobs [sendJob false []]).qpBusy 9 = true ∧ d.de.jobs = [] ∧
       r.qpf 9 F.DE_QP_LOW < r.qpf 9 F.DE_QP_HIGH ∧ r.qpf 9 F.DE_QP_HIGH ≤ 16 ∧ qpKept (words d) (words r) = true ∧ r.qpState 9 ≠ 2 ∧
       ((paired 2).filled 0 a [setBits ((paired 2).rd a) 1 1 1]).qpState 9 = 2) ∧
    (state c).writable (A.SM_SLICE 8191) = true ∧
    (let b := A.SM_SLICE 5
     let d (w1 w2 : Word) := c.filled 0 (b + 8) [w1, w2]
     let ok (d : Chip) : Bool := d.getAt 0 b F.SM_SLICE_QP_MAX ≤ 65536 ∧ d.getAt 0 b F.SM_SLICE_BOBBIN_MAX ≤ 40960 ∧
       d.getAt 0 b F.SM_SLICE_ST_MAX ≤ 32768 ∧ d.getAt 0 b F.SM_SLICE_TX_MBPS ≤ 800000
     ok (d 65536 800000) = true ∧ ok (d 65537 0) = false ∧ ok (d 0 800001) = false ∧ c.flag b F.SM_SLICE_BOUND = true ∧
       (chip 6).flag b F.SM_SLICE_BOUND = false) := by decide +kernel

/-! ### Host endpoints -/

/-- A request of 64 bytes issued at device time 0, `quar` and `dead` as said. -/
def hostReq (use : ReqUse) (quar dead : Bool) : HostReq :=
  { fn := 1, len := 64, got := 0, data := [], marks := [], at_ := 0, cto := 50000, use := use, quar := quar, dead := dead }

/-- Endpoint A in L0 with that request outstanding under tag 7. -/
def tagged (use : ReqUse) (quar dead : Bool) : Chip := (hosted (chip 6)).setHreq 0 7 (some (hostReq use quar dead))

/-- Window 0 of the active bank of endpoint A: `kind`, 4,096 bytes from offset 0 of BAR4, open to reads and writes, slice 5. -/
def windowed (kind : Nat) : Chip :=
  let c := hosted conn9
  c.wr (A.HE_PEER_WIN 0 (c.get (A.HE_PEER_CTRL 0) F.HE_PEER_CTRL_ACTIVE) 0) (BitVec.ofNat 64 (1 + kind * 2 + 8 + 16 + 12 * 2 ^ 5 + 5 * 2 ^ 11))

theorem met_TagsComplete :
    let c := tagged .flush false false
    c.epUp 0 = true ∧ c.open1 20 = true ∧ c.hreq 0 8 = none ∧
    ([ReqUse.desc 9 true 0 0 4, .desc 9 false 0 0 2, .payload 1 0 0, .header 1 0, .entry 0, .packet 0 0, .place 9 0, .flush].all fun u =>
      (tagged u false false).hreq 0 7 == some (hostReq u false false) && (tagged u false true).hreq 0 7 == some (hostReq u false true)) = true ∧
    (tagged .flush true false).hreq 0 7 = some (hostReq .flush true false) ∧ (0 : Nat) + 0 + [(1 : Byte)].length < 64 ∧
    64 ≤ (0 : Nat) + (List.replicate 64 (1 : Byte)).length ∧ 0 + ns 50000 ≤ (state c).time ∧ 0 < 0 + ns 50000 ∧
    (let d := (((c.setHreq 0 7 none).aerLog 0 1 Aer.timeout false).inc (A.HE_CTO 0)).reqFail 0 0 7 Code.TIMEOUT (hostReq .flush false false)
     let w := ns (1000 * d.get (A.HE_CTO_CFG 0) F.HE_CTO_CFG_STORM_WINDOW_US)
     (d.storm 0 (Storm.timeouts 0) w fun k => decide (d.get (A.HE_CTO_CFG 0) F.HE_CTO_CFG_STORM_COUNT ≤ k)).1 = false ∧
     (let e := d.set (A.HE_CTO_CFG 0) F.HE_CTO_CFG_STORM_COUNT 1
      (e.storm 0 (Storm.timeouts 0) w fun k => decide (e.get (A.HE_CTO_CFG 0) F.HE_CTO_CFG_STORM_COUNT ≤ k)).1 = true)) ∧
    (paired 1).qpState 9 = 1 ∧ ((paired 1).qp 9).gen = 0 := by decide +kernel

theorem met_PeerRequests :
    let c := windowed 1
    (chip 6).epUp 0 = false ∧ c.epUp 0 = true ∧ c.open1 20 = true ∧ c.sluiced 0 = false ∧ c.decodes 0 1 = true ∧
    (c.setFlag 0x20000018 ⟨0, 0, 1⟩ true).sluiced 0 = true ∧ (c.setFn 0 1 FnSt.init).decodes 0 1 = false ∧
    (0 + 8 ≤ 2 ^ (c.ep 0).barLog2 ∧ 2 ^ (c.ep 0).barLog2 < 2 ^ 30 - 4 + 8) ∧ (hosted conn9).peerWin 0 0 8 = none ∧
    (let d := c
     let ro := d.wr (A.HE_PEER_WIN 0 (d.get (A.HE_PEER_CTRL 0) F.HE_PEER_CTRL_ACTIVE) 0) (BitVec.ofNat 64 (1 + 2 + 12 * 2 ^ 5))
     d.peerWin 0 4088 8 = some 0 ∧ d.peerWin 0 4089 8 = none ∧ d.win 0 0 F.HE_PEER_WIN_KIND = 1 ∧ d.win 0 0 F.HE_PEER_WIN_READ_EN = 1 ∧
       d.win 0 0 F.HE_PEER_WIN_WRITE_EN = 1 ∧ d.win 0 0 F.HE_PEER_WIN_TARGET + (4088 - d.win 0 0 F.HE_PEER_WIN_BAR_OFF) + 8 ≤ 96 * 2 ^ 20 ∧
       d.open1 23 = true ∧ ro.peerWin 0 0 8 = some 0 ∧ ro.win 0 0 F.HE_PEER_WIN_KIND = 1 ∧ ro.win 0 0 F.HE_PEER_WIN_READ_EN = 0 ∧
       ro.win 0 0 F.HE_PEER_WIN_WRITE_EN = 0) := by decide +kernel

theorem met_PeerRequests_kinds :
    (let d := windowed 2
     d.sluiced 0 = false ∧ d.decodes 0 1 = true ∧ d.peerWin 0 72 8 = some 0 ∧ d.win 0 0 F.HE_PEER_WIN_KIND = 2 ∧
       (72 - d.win 0 0 F.HE_PEER_WIN_BAR_OFF) % 8 = 0 ∧ d.win 0 0 F.HE_PEER_WIN_TARGET + (72 - d.win 0 0 F.HE_PEER_WIN_BAR_OFF) / 8 = 9 ∧
       d.up 41 = true ∧ d.stEp 9 = 0 ∧ d.sc 9 F.ST_CONN_VALID = 1 ∧ 7 < d.stSize 9) ∧
    (let d := windowed 3
     let a := 256 * d.pool 0 F.BP_POOL_BASE
     d.peerWin 0 0 8 = some 0 ∧ d.win 0 0 F.HE_PEER_WIN_KIND = 3 ∧ d.win 0 0 F.HE_PEER_WIN_TARGET + (0 - d.win 0 0 F.HE_PEER_WIN_BAR_OFF) = a ∧
       d.win 0 0 F.HE_PEER_WIN_SLICE = 5 ∧ d.open1 23 = true ∧ a + 8 ≤ 96 * 2 ^ 20 ∧
       ((List.range 8).all fun k => d.heldBy (a + k) 5) = true ∧ ((List.range 8).all fun k => d.heldBy (a + k) 6) = false) := by decide +kernel

theorem met_HostSpaces :
    let c := hosted (chip 6)
    let rom := c.setFn 0 1 ((c.fn 0 1).wr 0x30 1)
    c.epUp 0 = true ∧ c.open1 20 = true ∧ c.sluiced 0 = false ∧ c.decodes 0 0 = true ∧ c.decodes 0 1 = true ∧
    (0 < 4 ∧ 4 % 4 + 4 ≤ 4 ∧ 4 + 4 ≤ 4096) ∧ (BitVec.ofNat 32 (2 ^ 15)).getLsbD 15 = true ∧ (BitVec.ofNat 32 0).getLsbD 15 = false ∧
    (BitVec.ofNat 32 3).toNat % 4 = 3 ∧ inMbox 0x200000 4 = false ∧ inMbox 0x100000 8 = true ∧ 0x100000 % 4 = 0 ∧
    (c.hostRegRead 0 0 0 8).isSome = true ∧ c.hostRegRead 0 0 3 8 = none ∧ c.hostRegRead 0 1 4 5 = none ∧
    (c.ep 0).mboxBusy = false ∧ ((c.setEp 0 { c.ep 0 with mboxBusy := true }).ep 0).mboxBusy = true ∧
    (c.fn 0 1).romOn = false ∧ (rom.fn 0 1).romOn = true ∧ rom.flash.present = true ∧ rom.decodes 0 1 = true := by decide +kernel

theorem met_EndpointEvents :
    let c := hosted (chip 6)
    let off := chip 6
    let open_ := c.setFn 0 0 ((c.fn 0 0).wr 0xB0 0x80000000)
    let shown (d : Chip) : Chip := d.setEp 0 { d.ep 0 with table := [(5, ⟨0x1000, 7, false⟩)] }
    ((off.setFlag (A.HE_CTRL 0) F.HE_CTRL_ENABLE true).flag (A.HE_CTRL 0) F.HE_CTRL_ENABLE = true ∧ mget false off.pwr.perst 0 = false ∧
      off.open1 20 = true ∧ off.epUp 0 = false ∧ 1 ≤ off.get (A.HE_CTRL 0) F.HE_CTRL_MAX_RATE ∧ 0 ≤ off.get (A.HE_CTRL 0) F.HE_CTRL_MAX_WIDTH) ∧
    (c.epUp 0 = true ∧ c.open1 20 = true ∧ c.sluiced 0 = false ∧ c.decodes 0 0 = true ∧ (c.fn 0 0).bme = true) ∧ (c.vector 0 5).mask = true ∧
    natBits (c.ep 0).pend 5 1 ≠ 1 ∧ natBits ({ c.ep 0 with pend := 32 }).pend 5 1 = 1 ∧
    ((shown open_).masked 0 5 = false ∧ (shown open_).canIssue 0 0 = true ∧ (shown open_).canIssue ((shown open_).home0 0) 0 = true) ∧
    c.masked 0 5 = true ∧ (shown open_).masked 0 4 = true ∧
    ((c.setFn 0 1 ((c.fn 0 1).wr 0x44 3)).fn 0 1).d3 = true ∧ (c.fn 0 1).d3 = false ∧ (c.fn 0 1).bme = true ∧ (off.fn 0 1).bme = false ∧
    (c.ep 0).mboxBusy = false ∧ ((c.setEp 0 { c.ep 0 with mboxBusy := true }).ep 0).mboxBusy = true ∧
    (let d := (c.set (A.HE_CMDQ 0 7) F.HE_CMDQ_ENABLE 1).set (A.HE_CMDQ 0 7) F.HE_CMDQ_SIZE_LOG2 4
     8 = 8 ∧ d.flag (A.HE_CMDQ 0 7) F.HE_CMDQ_ENABLE = true ∧ 15 < 2 ^ d.get (A.HE_CMDQ 0 7) F.HE_CMDQ_SIZE_LOG2 ∧
       ¬16 < 2 ^ d.get (A.HE_CMDQ 0 7) F.HE_CMDQ_SIZE_LOG2) := by decide +kernel

theorem met_EndpointWrites :
    let c := chip 6
    let a := A.HE_CTRL 1
    let ok (d : Chip) : Bool := d.get a F.HE_CTRL_MAX_RATE ≠ 7 ∧ d.get a F.HE_CTRL_MAX_WIDTH ≤ 4 ∧ 28 ≤ d.get a F.HE_CTRL_PEER_BAR_LOG2
      ∧ d.get a F.HE_CTRL_PEER_BAR_LOG2 ≤ 36
    (state c).writable a = true ∧ ok (c.filled 0 a [setBits (c.rd a) 0 1 1]) = true ∧ (c.filled 0 a [setBits (c.rd a) 0 1 1]).flag a F.HE_CTRL_ENABLE = true ∧
    ok (c.filled 0 a [setBits (c.rd a) 0 1 0]) = true ∧ (c.filled 0 a [setBits (c.rd a) 0 1 0]).flag a F.HE_CTRL_ENABLE = false ∧
    ok (c.filled 0 a [14]) = false ∧ (state c).writable A.HE_TOPOLOGY = true ∧ c.mode ≠ Mode.provision ∧
    (chip 5).mode = Mode.provision ∧ (chip 5).de.qps = [] ∧ getBits (0 : Word) 0 1 = 0 ∧
    (let d := ((chip 5).setFlag (A.HE_CTRL 0) F.HE_CTRL_ENABLE true).setFlag (A.HE_CTRL 1) F.HE_CTRL_ENABLE true
     getBits (1 : Word) 0 1 = 1 ∧ d.flag (A.HE_CTRL 0) F.HE_CTRL_ENABLE = true ∧ d.flag (A.HE_CTRL 1) F.HE_CTRL_ENABLE = true) ∧
    (state c).writable (A.HE_PEER_CTRL 1) = true ∧ (state c).writable (A.HE_PEER_WIN 1 1 63) = true ∧
    c.get (A.HE_PEER_CTRL 1) F.HE_PEER_CTRL_ACTIVE = 0 ∧
    (let w := A.HE_PEER_WIN 1 1 63
     let fits (d : Chip) : Bool := let l := d.get w F.HE_PEER_WIN_SIZE_LOG2
       12 ≤ l ∧ l ≤ 36 ∧ ¬(d.get w F.HE_PEER_WIN_VALID = 1 ∧ d.get w F.HE_PEER_WIN_KIND = 0) ∧ d.get w F.HE_PEER_WIN_BAR_OFF % 2 ^ l = 0
     fits (c.filled 0 w [BitVec.ofNat 64 (36 * 32)]) = true ∧ fits (c.filled 0 w [BitVec.ofNat 64 (37 * 32)]) = false ∧
       fits (c.filled 0 w [BitVec.ofNat 64 (1 + 12 * 32)]) = false) := by decide +kernel

/-! ### Command packets -/

/-- The origin of a packet of the debug port. -/
def debugPort : Origin := { source := 7, detail := 0, limit := 65536, resAddr := 0, sa := [], tags := [], pre := Code.OK, gen := 0 }

/-- A command word: its opcode and body. -/
def cmdWord (op : Nat) (body : List Word) : List Byte := leBytes 8 (op + 8 * body.length * 2 ^ 32) ++ body.flatMap fun w => leBytes 8 w.toNat

/-- A request packet of those words for any station: FLAGS, key slot 3, counter. -/
def request (flags counter : Nat) (ws : List Byte) : List Byte :=
  leBytes 8 (0x01444D434B + flags * 2 ^ 40) ++ leBytes 8 (64 + ws.length + 3 * 2 ^ 48) ++ leBytes 8 counter ++ leBytes 8 (2 ^ 16)
    ++ List.replicate 32 0 ++ ws

/-- Adapter `c` whose context 20 has the packet waiting. -/
def waits (c : Chip) (bs : List Byte) : Chip := c.setCmdCtx 20 ⟨[(bs, debugPort)], none⟩

/-- A GET of CP_MODE. -/
def getMode : List Byte := cmdWord 2 [BitVec.ofNat 64 A.CP_MODE, 8]

/-- The packet under the check of a key of 32 zero bytes in slot 3. -/
def signed (counter : Nat) : List Byte :=
  let bs := request 1 counter getMode
  bs.take 32 ++ checkBytes (List.replicate 32 0) bs ++ bs.drop 48

/-- The adapter with that key in slot 3, its LAST_COUNTER 7. -/
def keyed : Chip :=
  let c := (chip 6).wr (A.CP_KEY 3) 7
  { c with cmd := { c.cmd with keys := [(3, List.replicate 32 0)] } }

theorem met_PacketsStart :
    let c := waits (chip 6) (request 0 0 getMode)
    let bs := request 0 0 getMode
    (c.cmdCtx 20).queue = (bs, debugPort) :: [] ∧ (c.cmdCtx 20).run = none ∧ c.cmdRuns = true ∧ c.cmdTurn 20 = true ∧ packetBytes debugPort bs = bs ∧
    debugPort.pre = Code.OK ∧ ({ debugPort with pre := Code.DENIED }).pre ≠ Code.OK ∧ framed debugPort bs = true ∧ framed debugPort [] = false ∧
    c.mine bs = true ∧ (c.set A.CP_STATION F.CP_STATION_STATION 9).mine (bs.take 24 ++ List.replicate 8 0 ++ bs.drop 32) = false ∧
    c.bootRefuses 20 = false ∧ (chip 3).bootRefuses 19 = true ∧ getBits (hdr bs 0) 40 1 = 0 ∧
    keyed.slotKey 3 ≠ [] ∧ (chip 6).slotKey 3 = [] := by decide +kernel

theorem met_PacketsStart_keyed :
    let bs := signed 8
    getBits (hdr bs 1) 48 4 = 3 ∧ getBits (hdr bs 0) 40 1 = 1 ∧ framed debugPort bs = true ∧ keyed.mine bs = true ∧
    checkBytes (keyed.slotKey 3) bs = (bs.drop 32).take 16 ∧ (hdr bs 2).toNat = 8 ∧ (keyed.rd (A.CP_KEY 3)).toNat < 8 ∧
    ¬(keyed.rd (A.CP_KEY 3)).toNat < 7 ∧ (hdr (signed 7) 2).toNat = 7 := by decide +kernel

/-- Adapter `c` whose context 20 runs an authenticated (where `auth`) packet at the command word `w`, and that packet. -/
def pkt (auth : Bool) (w : List Byte) : RunPkt :=
  { bytes := List.replicate 64 0 ++ w, off := 64, origin := debugPort, auth := auth, key := 0, cont := false, records := [], nrun := 0,
    status := Code.OK, denied := false, sign := [], wait := .none }
def at_ (c : Chip) (w : List Byte) : Chip := c.setRun 20 (some (pkt true w))

/-- Whether context 20 of adapter `c` has its turn and takes the word `x` where its packet has the bytes `w`. -/
def taken (c : Chip) (w : List Byte) (x : CmdWord) : Bool :=
  let d := at_ c w
  d.wordTurn 20 && ({ d with cmd := { d.cmd with wordAt := 20 } } : Chip).takesWord 20 (pkt true w) x

theorem met_PutAndGet :
    let c := chip 6
    let a := A.CP_CMD_CFG
    let b := A.SM_SLICE 5
    let sole (d : Chip) (x : Nat) (up ok : Bool) : Bool := match d.cut x [7] with
      | some [.elem e] => d.regUp e.base == up && (ok || (d.hook (d.storeElem 0 e) 0 e).1 != Code.BAD_ARGUMENT)
      | _ => false
    let off := c.setPwr 1 0
    inSat a = false ∧ a % 8 = 0 ∧ c.reserved 0x800 = true ∧ inSat 0x800 = false ∧ sole c a true true = true ∧ sole off b false false = true ∧
    c.regUp a = true ∧ off.regUp b = false ∧ inSat b = false ∧ b % 8 = 0 ∧
    (∀ x ∈ [a, b], c.reserved x = false ∧ c.place x = none ∧ regCode x = none ∧ millOffset x = none ∧ (findRow (regionRows x) x).isSome = true) ∧
    off.reserved b = false ∧ off.place b = none := by decide +kernel

theorem met_CommandWords :
    let c := chip 6
    taken c (cmdWord 1 [0x5000, 7]) (.put 0x5000 [7]) = true ∧
    taken c (cmdWord 2 [0x5000, 8]) (.get 0x5000 8) = true ∧ taken c (cmdWord 2 [0x5000, 7]) (.get 0x5000 7) = true ∧
    taken c (cmdWord 3 [0x5000, 8, 7]) (.fill 0x5000 8 7) = true ∧ taken c (cmdWord 3 [0x5000, 9, 7]) (.fill 0x5000 9 7) = true ∧
    taken c (cmdWord 5 [0x10101, 0x5000, 7]) (.stage 1 true [⟨0x5000, 0, 7⟩]) = true ∧
    taken c (cmdWord 6 [5, 0x10002, 3, 4]) (.commitAt ⟨5, 2, 1, 3, 4⟩) = true ∧
    taken c (cmdWord 7 [5, 2]) (.waitUntil 5 2) = true ∧
    (ns 5 + 2 ≤ (state c).time ∧ (state c).time < ns 2000000 ∧ ns 2000000 ≤ (state c).time + ns 60000000000 ∧
      (state c).time + ns 60000000000 < ns 70000000000) ∧
    taken c (cmdWord 8 [0x30005, 6, 7, 8, 9]) (.resizeSlice 5 3 6 7 8 9) = true ∧
    taken c (cmdWord 9 [0x700010005]) (.bind 5 1 7) = true ∧ (c.bindSlice 0 5 1 7).1 = Code.OK ∧ c.up 23 = true ∧
    (c.setPwr 1 0).up 23 = false ∧ ((c.setPwr 1 0).bindSlice 0 5 1 7).1 ≠ Code.BAD_ARGUMENT ∧
    taken c (cmdWord 10 [5]) (.unbind 5) = true ∧ (c.unbindSlice 0 5).1 ≠ Code.BAD_ARGUMENT ∧
    taken (c.setPwr 1 0) (cmdWord 9 [0x700010005]) (.bind 5 1 7) = true ∧ taken (c.setPwr 1 0) (cmdWord 10 [5]) (.unbind 5) = true ∧
    ((c.setPwr 1 0).unbindSlice 0 5).1 ≠ Code.BAD_ARGUMENT := by decide +kernel

theorem met_CommandWords_more :
    let c := chip 6
    taken c (cmdWord 11 [1]) (.sluiceRelease 1) = true ∧ c.sluiced 1 = false ∧
    (let d := c.setFlag 0x28000018 ⟨0, 0, 1⟩ true
     d.sluiced 1 = true ∧ d.epUp 1 = false ∧ d.twin = false ∧ d.mode ≠ Mode.quarantine ∧
       (d.setFlag (A.HE_LINK_STATUS 1) F.HE_LINK_STATUS_UP true).epUp 1 = true) ∧
    taken c (cmdWord 12 [12]) (.mode 12) = true ∧ (c.modeRequest 0 12).2.1 = false ∧
    (((chip 5).setFlag (A.PX_CFG 0) F.PX_CFG_ENABLE true).modeRequest 0 4).2.1 = true ∧
    taken (chip 5) (cmdWord 12 [4]) (.mode 4) = true ∧
    taken c (cmdWord 13 [0x102]) (.keyRoll 2 true []) = true ∧ taken c (cmdWord 13 [2, 0, 0, 0, 0, 0, 0]) (.keyRoll 2 false (List.replicate 48 0)) = true ∧
    (c.rollCheck 24 []).1 ≠ Code.OK ∧
    taken (chip 10) (cmdWord 15 [0x20003]) (.debug 3 0 2 false) = true ∧ taken (chip 10) (cmdWord 15 [0x20703]) (.debug 3 7 2 false) = true ∧
    taken (chip 10) (cmdWord 15 [0x20103]) (.debug 3 1 2 false) = true ∧ (chip 10).reach 3 = true ∧
    (let d := ((chip 10).setPwr 8 0).setPwr 9 0; d.reach 3 = false ∧ taken d (cmdWord 15 [0x20103]) (.debug 3 1 2 false) = true) ∧
    (let w := cmdWord 1 [BitVec.ofNat 64 A.CP_CMD_CFG, 7]
     let d := c.setRun 20 (some (pkt false w))
     let x := wordAt (pkt false w).bytes 64
     d.wordTurn 20 = true ∧ (d.cmdCtx 20).run = some (pkt false w) ∧ d.cmdRuns = true ∧ 64 < (pkt false w).bytes.length ∧ decodeCmd x.1 x.2 = some (.put A.CP_CMD_CFG [7]) ∧
       d.critical x.1 x.2 = true ∧ d.waived x.1 = false) ∧
    (let w := cmdWord 11 [1]
     let d := at_ (chip 4) w
     let x := wordAt (pkt true w).bytes 64
     d.wordTurn 20 = true ∧ (d.cmdCtx 20).run = some (pkt true w) ∧ d.cmdRuns = true ∧ decodeCmd x.1 x.2 = some (.sluiceRelease 1) ∧ d.modeTakes (.sluiceRelease 1) = false) ∧
    (let w := cmdWord 2 [0x5000, 65536]
     let d := at_ c w
     let x := wordAt (pkt true w).bytes 64
     d.wordTurn 20 = true ∧ decodeCmd x.1 x.2 = some (.get 0x5000 65536) ∧ d.modeTakes (.get 0x5000 65536) = true ∧ 65536 < 72 + 0 + 65536) := by
  decide +kernel

theorem met_JournalRead :
    let c := chip 6
    let d := { c with flash := { c.flash with blocks := [(0, ⟨0, false, [[5, 0, 0, 0, 0, 0, 0, 0]]⟩)] } }
    taken c (cmdWord 14 [0, 4096]) (.journalRead 0 4096) = true ∧ taken c (cmdWord 14 [0, 0]) (.journalRead 0 0) = true ∧
    taken c (cmdWord 14 [0, 4097]) (.journalRead 0 4097) = true ∧ c.needsFlash (c.journalEntries 0 1) = false ∧
    d.needsFlash (d.journalEntries 0 1) = true := by decide +kernel

/-- An image session of target 3 (table 0) with 8 of 16 bytes. -/
def session3 : Chip := (chip 5).setSession 7 (some ⟨3, 0, 16, List.replicate 8 0, 0⟩)

/-- A session of the flash target 5. -/
def session5 : Chip := (chip 5).setSession 7 (some ⟨5, 0, 16, List.replicate 8 0, 0⟩)

/-- Adapter `c` whose context 20 waits as `w` says at the command word `bs`. -/
def held (c : Chip) (bs : List Byte) (w : CmdWait) : Chip := c.setRun 20 (some { pkt true bs with wait := w })

/-- The header of an image of a Mill with no code, Millpond bytes or entries. -/
def millImage : List Byte := leBytes 8 0x00014C494D4B ++ List.replicate 24 0

theorem met_ImageSessions :
    let c := chip 5
    taken c (cmdWord 4 [0x107, 16, 0]) (.imageBegin 7 1 0 16 (List.replicate 8 0)) = true ∧ c.beginCheck 0 7 1 0 16 (List.replicate 8 0) ≠ Code.OK ∧
    taken c (cmdWord 4 [0x10107, 32, 0x00014C494D4B, 0, 0, 0]) (.imageBegin 7 1 1 32 millImage) = true ∧ c.beginCheck (state c).time 7 1 1 32 millImage = Code.OK ∧
    taken c (cmdWord 4 [0x507, 64, 0]) (.imageBegin 7 5 0 64 (List.replicate 8 0)) = true ∧
    taken c (cmdWord 4 [0x317, 8, 0]) (.imageData 7 8 (List.replicate 8 0)) = true ∧ c.session 7 = none ∧
    session3.session 7 = some ⟨3, 0, 16, List.replicate 8 0, 0⟩ ∧ imageTake ⟨3, 0, 16, List.replicate 8 0, 0⟩ (List.replicate 8 0) = some (List.replicate 8 0) ∧
    imageTake ⟨3, 0, 16, List.replicate 8 0, 0⟩ (List.replicate 16 0) = none ∧
    (session5.session 7).map (·.target) = some 5 ∧
    taken c (cmdWord 4 [0x327]) (.imageEnd 7) = true ∧ taken c (cmdWord 4 [0x337]) (.imageAbort 7) = true ∧
    0 + ns 60000000000 ≤ ns 60000000001 ∧
    (chip 5).cmdRuns = true ∧ (held c [] (.untilT 5)).waiting 20 = .untilT 5 ∧ 5 ≤ (state c).time ∧
    (held c [] (.keyRoll 2 [] 0 true)).waiting 20 = .keyRoll 2 [] 0 true ∧ c.flash.present = true ∧
    (held c [] (.journal 0 1)).waiting 20 = .journal 0 1 ∧
    c.beginCheck (state c).time 7 5 0 64 (List.replicate 8 0) = Code.OK ∧ (session3.session 7).map (·.target) = some 3 ∧
    ((c.setSession 7 (some ⟨2, 0, 64, [], 0⟩)).session 7).map (·.target) = some 2 ∧ c.up 23 = true ∧ (c.setPwr 1 0).up 23 = false ∧
    taken (c.setPwr 1 0) (cmdWord 4 [0x327]) (.imageEnd 7) = true ∧ (c.rd (A.CP_KEY 2 + 8)).toNat < 1 ∧
    (let w := CmdWait.image 7 0
     (held session5 (cmdWord 4 [0x517, 8, 0]) w).waiting 20 = w ∧ (held session5 (cmdWord 4 [0x517, 8, 0]) w).atEnd 20 = (false, false) ∧
       (held session5 (cmdWord 4 [0x527]) w).atEnd 20 = (true, false) ∧ (held session5 (cmdWord 4 [0x507, 16, 0]) w).atEnd 20 = (false, true)) := by
  decide +kernel

theorem met_AccessPoints :
    let c := (chip 6).setFlag A.CP_CMD_CFG F.CP_CMD_CFG_I2C_EN true
    c.flag A.CP_CMD_CFG F.CP_CMD_CFG_I2C_EN = true ∧ 3 ≤ c.mode ∧ c.cmd.i2cBuf.length + 32 ≤ 4096 ∧ (c.cmdCtx 19).queue = [] ∧
    (c.cmdCtx 19).run = none ∧ ((c.setCmdCtx 19 ⟨[([], debugPort)], none⟩).cmdCtx 19).queue ≠ [] ∧ (1 : BitVec 8).toNat = 1 ∧ (2 : BitVec 8).toNat ≠ 1 ∧
    c.mode ≠ Mode.off ∧ (c.cmdCtx 20).queue = [] ∧ (c.cmdCtx 20).run = none ∧ c.cmd.dbgBuf.length + 8 ≤ 65536 ∧
    (c.setFlag A.CP_CMD_CFG F.CP_CMD_CFG_DEBUG_EN true).flag A.CP_CMD_CFG F.CP_CMD_CFG_DEBUG_EN = true ∧
    (c.setFlag A.CP_CMD_CFG F.CP_CMD_CFG_DEBUG_EN false).flag A.CP_CMD_CFG F.CP_CMD_CFG_DEBUG_EN = false := by decide +kernel

/-! ### Device time and the Scheduled Action Table -/

/-- Adapter `c` with entry 9: its STATE, KIND, arguments, its T in ns. -/
def entry9 (c : Chip) (st kind a0 a1 t : Nat) : Chip :=
  let a := A.FT_SAT 9
  ((((c.wr a (BitVec.ofNat 64 t)).wr (a + 8) (BitVec.ofNat 64 (kind * 2 ^ 16 + st * 2 ^ 24))).wr (a + 16) (BitVec.ofNat 64 a0)).wr (a + 24)
    (BitVec.ofNat 64 a1))

theorem met_ScheduleWrites :
    let now := (state (chip 6)).time
    (state (chip 6)).writable (A.FT_SAT 1023) = true ∧ (entry9 (chip 6) 1 0x10 0x5000 0 0).satState 9 = 1 ∧
    (entry9 (chip 6) 2 2 0 0 0).satState 9 = 2 ∧ (chip 6).satState 9 = 0 ∧
    (let c := entry9 (chip 6) 0 0x10 0x5000 0 2000000
     c.satCheck now (satReq (c.rd (A.FT_SAT 9)) (setBits (BitVec.ofNat 64 (0x10 * 2 ^ 16)) 24 3 1) (c.rd (A.FT_SAT 9 + 16)) (c.rd (A.FT_SAT 9 + 24))) false
       = Code.OK) ∧
    (chip 6).satCheck now (satReq 0 (setBits 0 24 3 1) 0 0) false ≠ Code.OK := by decide +kernel

theorem met_ScheduleChecks :
    let c := chip 6
    let now := (state c).time
    let put (t : Nat) : SatReq := ⟨t, 0, 0x10, 0x5000, 7⟩
    (8191 % 8192 ≠ 0 ∧ satArgs 6 0 0 = false) ∧ c.satInRange now (put 0) false = true ∧ (put 0).t < now + ns (c.rd A.FT_ARM_LEAD).toNat ∧
    ¬(put 2000000).t < now + ns (c.rd A.FT_ARM_LEAD).toNat ∧ c.satDisorder (put 2000000) = false ∧
    (let q : SatReq := ⟨2000000, 0, 5, 0, 0⟩
     let d := entry9 c 1 5 0 0 3000000
     c.satInRange now q false = true ∧ c.satDisorder q = false ∧ d.satInRange now q false = true ∧ d.satDisorder q = true) := by decide +kernel

/-- The words [TIME_FRAC:KIND:STATE] of entries 0 to `n` - 1, STATE 1 but for entry 1023, which has `st`, before other registers. -/
def liveWords (st : Nat) (m : SMap Word) : Nat → SMap Word
  | 0 => m
  | n + 1 => (A.FT_SAT n + 8, BitVec.ofNat 64 ((if n = 1023 then st else 1) * 2 ^ 24)) :: liveWords st m n

/-- The adapter whose entries all have STATE 1, but for the last, which has `st`. -/
def allLive (st : Nat) : Chip := { chip 6 with regs := liveWords st (chip 6).regs 1024 }

theorem liveWords_get (st : Nat) (m : SMap Word) (d : Word) (k : Nat) :
    ∀ n, k < n → mget d (liveWords st m n) (A.FT_SAT k + 8) = BitVec.ofNat 64 ((if k = 1023 then st else 1) * 2 ^ 24)
  | 0, h => by omega
  | n + 1, h => by
    simp only [liveWords, mget]
    by_cases e : k = n
    · simp [e]
    · rw [if_neg (by simp only [A.FT_SAT]; omega), liveWords_get st m d k n (by omega)]

theorem allLive_state (st k : Nat) (hk : k < 1024) (hs : st < 8) : (allLive st).satState k = if k = 1023 then st else 1 := by
  have h : (allLive st).rd (A.FT_SAT k + 8 * F.FT_SAT_STATE.word) = BitVec.ofNat 64 ((if k = 1023 then st else 1) * 2 ^ 24) :=
    liveWords_get st _ _ k 1024 hk
  simp only [Chip.satState, Chip.get, h]
  split <;> simp only [getBits, F.FT_SAT_STATE, BitVec.toNat_ofNat] <;> simp only [Nat.shiftRight_eq_div_pow] <;> omega

theorem met_EntriesTaken :
    ((chip 6).satState 0 = 0 ∧ (chip 6).satTake = some 0 ∧ (chip 6).satCheck 0 ⟨2000000, 0, 0x10, 0x5000, 7⟩ true = Code.OK) ∧
    ((∀ k, k < 1024 → (allLive 3).satState k ≠ 0) ∧ (allLive 3).satState 1023 = 3 ∧
      ∀ k, k < 1024 → k ≠ 1023 → ¬3 ≤ (allLive 3).satState k) ∧
    (∀ k, k < 1024 → (allLive 1).satState k = 1) ∧
    ((allLive 1).satCheck 0 ⟨2000000, 0, 0x10, 0x5000, 7⟩ true = Code.OK ∧
     (chip 6).satCheck 0 ⟨2000000, 0, 0x10, 0x5000, 7⟩ false = Code.OK) ∧
    ((held5.resizeSlice 0 5 0 0 0 2000000 0).1 = Code.OK) := by
  refine ⟨by decide +kernel, ⟨fun k hk => ?_, ?_, fun k hk hn => ?_⟩, fun k hk => ?_, by decide +kernel, by decide +kernel⟩
  · rw [allLive_state 3 k hk (by omega)]
    split <;> omega
  · rw [allLive_state 3 1023 (by omega) (by omega)]
    rfl
  · rw [allLive_state 3 k hk (by omega), if_neg hn]
    omega
  · rw [allLive_state 1 k hk (by omega)]
    split <;> rfl

theorem firstBelow_none (p : Nat → Bool) : ∀ n, (∀ k, k < n → p k = false) → firstBelow p n = none
  | 0, _ => rfl
  | n + 1, h => by simp [firstBelow, firstBelow_none p n fun k hk => h k (by omega), h n (by omega)]

theorem satTake_none (c : Chip) (h : ∀ k, k < 1024 → c.satState k = 1) : c.satTake = none := by
  have g : ∀ k, k < 1024 → (c.satState k == 0) = false := fun k hk => by
    have e := h k hk
    simp [e]
  have f := firstBelow_none (fun n => c.satState n == 0) 1024 g
  have e : (List.range 1024).filter (fun n => decide (3 ≤ c.satState n)) = [] := List.filter_eq_nil_iff.2 fun k hk => by
    have e := h k (List.mem_range.1 hk)
    simp [e]
  unfold Chip.satTake
  rw [f, e]
  rfl

theorem met_EntriesTaken_none : (allLive 1).satTake = none := satTake_none _ fun k hk => by
  rw [allLive_state 1 k hk (by omega)]
  split <;> rfl

theorem met_ScheduledActions :
    let now := (state (chip 6)).time
    let group (xs : List StageItem) : Chip := { chip 6 with cmd := { (chip 6).cmd with stage := [(7, xs)] } }
    let arms (c : Chip) : Bool :=
      decide (c.satState 9 = 1) && c.satKeyed 9 && decide (c.satT 9 ≤ now + ns (c.rd A.FT_ARM_LEAD).toNat)
    let version := entry9 (chip 6) 1 2 0 0 1000100
    let keyed := entry9 (group [⟨0, 1, 0⟩]) 1 1 7 0 1000100
    let lost := keyed.setPwr 1 0
    let done := entry9 (chip 6) 2 2 0 0 999000
    let writes (a : Nat) := entry9 (group [⟨a, 0, 5⟩]) 2 1 7 0 999000
    let pin := entry9 (chip 6) 1 0x12 0x103 0 999000
    (arms version = true ∧ version.satKind 9 ≠ 1 ∧ version.up 23 = true) ∧ ((version.setPwr 1 0).up 23 = false ∧ arms (version.setPwr 1 0) = true) ∧
    (arms keyed = true ∧ keyed.satKind 9 = 1 ∧ keyed.stageItems (keyed.satArg0 9) = [⟨0, 1, 0⟩] ∧
      (keyed.stageItems (keyed.satArg0 9)).all (fun x => keyed.itemCheck now x == Code.OK) = true) ∧
    (arms lost = true ∧ lost.itemCheck now ⟨0, 1, 0⟩ ≠ Code.OK) ∧ (done.satState 9 = 2 ∧ done.satT 9 ≤ now ∧ done.satWrites 9 = []) ∧
    ((writes A.FT_STEP_NS).satState 9 = 2 ∧ (writes A.FT_STEP_NS).satWrites 9 = [⟨A.FT_STEP_NS, 0, 5⟩] ∧
      (Chip.writeItems now [⟨A.FT_STEP_NS, 0, 5⟩] Code.OK (writes A.FT_STEP_NS)).1 = Code.OK) ∧
    (writes A.FT_STEP_NS).satT 9 ≤ now ∧
    (∀ m, m < 1024 → (writes A.FT_STEP_NS).satState m = 2 → (writes A.FT_STEP_NS).satWrites m ≠ [] → (writes A.FT_STEP_NS).satBefore m 9 = false) ∧
    ((writes 0x10000004).satState 9 = 2 ∧ (writes 0x10000004).satWrites 9 = [⟨0x10000004, 0, 5⟩]) ∧
    (Chip.writeItems now [⟨0x10000004, 0, 5⟩] Code.OK (writes 0x10000004)).1 ≠ Code.OK ∧
    natBits (pin.get A.CP_GPIO F.CP_GPIO_DIR) (pin.satArg0 9 % 16) 1 = 0 ∧
    natBits ((pin.set A.CP_GPIO F.CP_GPIO_DIR 8).get A.CP_GPIO F.CP_GPIO_DIR) (pin.satArg0 9 % 16) 1 = 1 := by decide +kernel

theorem met_ScheduledActions_plain :
    let c : Chip := { Chip.init with regs := [(A.CP_MODE, 0x26)], pwr := { PwrSt.init with fwRuns := true } }
    (∀ k ∈ [0x10, 0x11, 0x12, 0x13], (entry9 c 1 k 0x5000 0 999000).plainDue (state c).time 9 k = true) := by decide +kernel

theorem met_TimeSteps :
    let steps (m : Nat) (n : Int) := ((chip m).wr A.FT_STEP_NS (BitVec.ofInt 64 n)).filled 0x0F4240_0000 A.FT_STEP_CTRL [1]
    let now := (state (chip 6)).time
    let c := chip 6
    let boot : Chip := { chip 3 with pwr := { (chip 3).pwr with fwRuns := true } }
    (state c).writable A.FT_STEP_CTRL = true ∧ (boot.mode = Mode.boot ∧ boot.pwr.fwRuns = true) ∧ (steps 4 (-2000000)).stepTarget now < 0 ∧
    ((steps 6 (-5)).stepTarget now = now - 5 * 65536 ∧ stepAdmitted 6 now (now - 5 * 65536) = false) ∧
    stepAdmitted 5 now (now - 5 * 65536) = true ∧ ((entry9 c 1 2 0 0 0).satLive 9 = true ∧ (entry9 c 1 2 0 0 0).satKeyed 9 = true) ∧
    stepAdmitted 6 now (now + 5) = true ∧ (state c).chip.calm = true := by decide +kernel

theorem met_ReplicasWatched :
    let c := chip 6
    let of (st : Nat) := (c.setBound 3 { c.bound 3 with st := st }).bound 3
    ((c.bound 3).st = 0 ∧ c.pwrState (targetDomain 3) = 2 ∧ (100 : BitVec 32).toNat ≤ skewBound ∧ skewBound < (0xC001 : BitVec 32).toNat) ∧
    (of 3).st = 3 ∧ (of 2).st = 2 ∧ (c.setPwr (targetDomain 3) 1).pwrState (targetDomain 3) = 1 := by decide +kernel

theorem met_TimeSource :
    let c := chip 6
    let src (k st : Nat) := (c.set A.FT_CTRL F.FT_CTRL_SOURCE k).set A.FT_STATUS F.FT_STATUS_STATE st
    let near : Chip := { src 3 1 with ft := { (src 3 1).ft with within := some 0 } }
    (c.source ≠ 3 ∧ c.source ≠ 5) ∧ (src 3 3).source = 3 ∧ (src 5 3).source = 5 ∧
    (let d := c.setFlag A.FT_CTRL F.FT_CTRL_PPS_OUT_EN true
     d.flag A.FT_CTRL F.FT_CTRL_PPS_OUT_EN = true ∧ d.pwr.ppsDue < d.ppsTime (ns 1000000000)) ∧
    ((src 3 2).source ≠ 0 ∧ (src 3 2).get A.FT_STATUS F.FT_STATUS_STATE ≠ 3 ∧ (src 3 2).ft.srcSince + ns 10000000000 ≤ ns 20000000000) ∧
    (near.ft.within = some 0 ∧ near.source ≠ 0 ∧ near.get A.FT_STATUS F.FT_STATUS_STATE = 1) := by decide +kernel

/-! ### The Memory Complex -/

/-- Adapter in Service whose word `w` of channel `ch` and word `w` of array 8 differ from their check symbols by `r`. -/
def upset (ch w : Nat) (r : BitVec 32) : Chip := ((chip 6).setQres ch w r).setSram 8 w r

/-- Adapter in Service whose channel 3 has `STATE` st, ports A and B in service, port 1 of training cause `k`. -/
def channel (st k : Nat) : Chip := (((chip 6).set (A.MC_STATUS 3) F.MC_STATUS_STATE st).setQPort 3 0 true 0).setQPort 3 1 true k

theorem met_StitchDecodes :
    (∀ i ∈ List.range 4, syndrome 0x5A i = gfMul 0x5A (gfPow (i * 0))) ∧
    (∀ i ∈ List.range 4, syndrome 0x73C510FC i = gfMul 0x5A (gfPow (i * 35))) ∧ decodeWord 0x73C510FC = .corrected 35 0x5A ∧
    (∀ i ∈ List.range 4, syndrome 0 i = 0) := by decide +kernel

theorem met_WordsOverChannels :
    (8388607 < 2 ^ 23 ∧ (1 : Nat) < 2 ∧ 8388606 % 4 ≠ 3) ∧ qdrChannel 1 7 = qdrChannel 1 7 ∧ qdrChannelWord 7 = qdrChannelWord 7 := by decide +kernel

theorem met_StitchReads :
    decodeWord ((upset 7 2097151 0).qres 7 2097151) = .clean ∧ decodeWord ((upset 0 0 poisonMark).qres 0 0) = .marked ∧
    decodeWord ((upset 3 9 0x73C510FC).qres 3 9) = .corrected 35 0x5A ∧ decodeWord ((upset 3 9 0x101).qres 3 9) = .uncorrectable ∧
    decodeWord ((upset 3 9 0).sram 8 9) = .clean ∧ decodeWord ((upset 3 9 poisonMark).sram 8 9) = .marked ∧
    decodeWord ((upset 3 9 0x5A).sram 8 9) = .corrected 0 0x5A ∧ decodeWord ((upset 3 9 0x101).sram 8 9) = .uncorrectable := by decide +kernel

theorem met_MemoryEvents :
    ((channel 1 0).get (A.MC_STATUS 3) F.MC_STATUS_STATE = 1 ∧ (channel 1 0).get (A.CP_PWR_STATUS 43) F.CP_PWR_STATUS_STATE ≠ 0 ∧
      ¬((channel 1 0).portDisabled 3 0 = true ∧ (channel 1 0).portDisabled 3 1 = true)) ∧
    ((channel 2 0).qReady 3 = true ∧ (channel 2 0).portUp 3 1 = true) ∧
    (mget 0 (channel 2 1).mem.qtrain 7 = 1 ∧ mget 0 (channel 2 1).mem.qtrain 6 ≠ 2 ∧
      mget 0 ((channel 2 1).setQPort 3 0 false 2).mem.qtrain 6 = 2 ∧ (channel 2 1).get (A.MC_STATUS 3) F.MC_STATUS_STATE = 2) ∧
    ((channel 2 0).get (A.MC_SCRUB_POS 3) F.MC_SCRUB_POS_WORD ≠ 2 ^ 21 - 1 ∧
      ((channel 2 0).wr (A.MC_SCRUB_POS 3) 0x1FFFFF).get (A.MC_SCRUB_POS 3) F.MC_SCRUB_POS_WORD = 2 ^ 21 - 1) ∧
    ((chip 6).scrubbed ((chip 6).get A.MC_SRAM_SCRUB_POS F.MC_SRAM_SCRUB_POS_ARRAY) = true ∧
      (chip 6).get A.MC_SRAM_SCRUB_POS F.MC_SRAM_SCRUB_POS_WORD + 1 < arrayWords 0) ∧
    (let c := ((chip 6).set A.MC_SRAM_SCRUB_POS F.MC_SRAM_SCRUB_POS_ARRAY 79).set A.MC_SRAM_SCRUB_POS F.MC_SRAM_SCRUB_POS_WORD 6143
     c.scrubbed (c.get A.MC_SRAM_SCRUB_POS F.MC_SRAM_SCRUB_POS_ARRAY) = true ∧
      arrayWords 79 ≤ c.get A.MC_SRAM_SCRUB_POS F.MC_SRAM_SCRUB_POS_WORD + 1) := by decide +kernel

theorem met_MemoryEvents_settings :
    let now := (state (chip 6)).time
    let a := A.MC_CFG 3
    let good : Word := 12 + 8 * 2 ^ 4 + 10000 * 2 ^ 16 + 60 * 2 ^ 32 + 1 * 2 ^ 48
    let ok (c : Chip) (v : Word) : Bool :=
      let d := c.filled now a [v]
      decide (5 ≤ d.get a F.MC_CFG_RD_LAT ∧ d.get a F.MC_CFG_RD_LAT ≤ 12 ∧ 3 ≤ d.get a F.MC_CFG_WR_LAT ∧ d.get a F.MC_CFG_WR_LAT ≤ 8 ∧
        10 ≤ d.get a F.MC_CFG_RETRAIN_MS ∧ d.get a F.MC_CFG_RETRAIN_MS ≤ 10000 ∧ 60 ≤ d.get a F.MC_CFG_SCRUB_S ∧ d.get a F.MC_CFG_CE_STORM ≠ 0)
    (state (chip 6)).writable a = true ∧ ok (chip 6) (good - 10 * 2 ^ 32) = false ∧
    (ok (channel 2 0) good = true ∧ ok (channel 1 0) good = true ∧ ok (chip 6) good = true) ∧
    getBits ((channel 2 0).rd a) 0 9 ≠ getBits ((channel 2 0 |>.filled now a [good]).rd a) 0 9 ∧
    (let c := (channel 2 0).filled now a [good]
     getBits (c.rd a) 0 9 = getBits ((c.filled now a [good]).rd a) 0 9) := by decide +kernel

/-! ### The journal's mirror and the Sampler -/

/-- Adapter in Service whose journal entry 5 waits for the flash, of LEVEL `lv`. -/
def mirroring (lv : Nat) : Chip :=
  { chip 6 with cmd := { (chip 6).cmd with unmir := [5], ring := [(5, [5, 0, BitVec.ofNat 64 (lv * 2 ^ 32), 0, 0, 0, 0, 0])] } }

/-- Adapter in Service whose port 3 is counted in windows of 1 ms, with a billing minute that ends at `b`. -/
def counting (from_ b : Nat) : Chip :=
  { chip 6 with smp := { (chip 6).smp with bwCfg := 1 + 1 * 2 + 8 * 2 ^ 32, bwFrom := from_, billEnd := b } }

theorem met_JournalMirror :
    let now := (state (chip 6)).time
    let c := mirroring 2
    let ready (c : Chip) : Bool :=
      let e := mget [] c.cmd.ring 5
      e != [] && (nth 0 e 0).toNat == 5 && !c.cmd.stopped && c.flash.present
    (c.cmd.unmir = [5] ∧ ready c = true ∧ mirrorToken ≤ c.mirrorTokens now ∧ c.mirrorBlock = some 0) ∧
    ready { c with cmd := { c.cmd with stopped := true } } = false ∧
    (let d : Chip := { c with cmd := { c.cmd with tokens := 0, tokensAt := now } }
     ready d = true ∧ entryLevel (mget [] d.cmd.ring 5) ≠ 0 ∧ ¬mirrorToken ≤ d.mirrorTokens now) ∧
    entryLevel (mget [] (mirroring 0).cmd.ring 5) = 0 ∧
    (let d : Chip := { c with flash := { c.flash with blocks := (List.range 192).map fun b => (b, ⟨0, true, []⟩) } }
     ready d = true ∧ d.mirrorBlock = none) := by decide +kernel

theorem met_CountReports :
    let now := (state (chip 6)).time
    let told (c : Chip) (r : Report) : Chip := { c with smp := { c.smp with reports := [r] } }
    let ready (c : Chip) (r : Report) : Option (Chip × Nat) :=
      if (told c r).smp.reports = [r] then some (((told c r).bwWindowClose now).billMinuteClose now, dtOf r.stamp) else none
    (∀ x ∈ ready (counting 0 60000000000) ⟨0, 3, 64, ns 500000⟩, bwOn x.1.smp.bwCfg = true ∧ natBits (bwMask x.1.smp.bwCfg) 3 1 = 1 ∧
      x.1.smp.bwZero ≤ x.2 ∧ x.1.smp.bwFrom ≤ x.2 ∧ x.2 < x.1.bwEnd) ∧
    (∀ x ∈ ready (counting 0 60000000000) ⟨1, 3, 64, ns 1000000⟩, x.1.smp.bwFrom ≤ x.2 ∧ x.1.bwEnd ≤ x.2) ∧
    (∀ x ∈ ready (counting 200000 60000000000) ⟨1, 3, 64, ns 100⟩, x.1.smp.bwZero ≤ x.2 ∧ x.2 < x.1.smp.bwFrom) ∧
    (∀ x ∈ ready (counting 0 950000) ⟨2, 3, 64, ns 1000000⟩, ¬x.2 < (x.1.rd A.CP_BILL_OPEN).toNat ∧ x.1.smp.billEnd ≤ x.2) ∧
    (∀ x ∈ ready (counting 0 950000) ⟨3, 3, 64, ns 900000⟩, ¬x.2 < (x.1.rd A.CP_BILL_OPEN).toNat ∧ x.2 < x.1.smp.billEnd) ∧
    (∀ x ∈ ready ((counting 0 950000).wr A.CP_BILL_OPEN 1000) ⟨2, 3, 64, ns 999⟩, x.2 < (x.1.rd A.CP_BILL_OPEN).toNat) ∧
    (ready (counting 0 950000) ⟨2, 3, 64, ns 999⟩).isSome = true := by decide +kernel

theorem met_WindowsClose :
    let c := counting 0 60000000000
    (bwOn c.smp.bwCfg = true ∧ 1099999 < c.bwEnd + 100000) ∧
    (c.bwEnd + 100000 ≤ 1100000 ∧ 1100000 < c.bwEnd + bwPeriod c.smp.bwCfg + 100000 ∧ c.smp.bwTeff = 0 ∧ bwPorts c.smp.bwCfg = [3] ∧
      (c.get A.CP_BW_HEAD F.CP_BW_HEAD_V + 1) % 16384 ≠ c.get A.CP_BW_TAIL F.CP_BW_TAIL_V) ∧
    c.billing = true ∧ 1000000 < c.smp.billEnd + 100000 ∧
    ((counting 0 900000).smp.billEnd + 100000 ≤ 1000000 ∧ 1000000 < (counting 0 900000).smp.billEnd + minuteNs + 100000) ∧
    (c.wr A.CP_BILL_HEAD 30000).billFree < 8192 ∧ 8192 ≤ c.billFree ∧
    (let d := (c.setFlag A.CP_TLM_CFG F.CP_TLM_CFG_ENABLE true).set A.CP_TLM_CFG F.CP_TLM_CFG_CONTENT 4
     d.flag A.CP_TLM_CFG F.CP_TLM_CFG_ENABLE = true ∧ 4 ≤ d.get A.CP_TLM_CFG F.CP_TLM_CFG_CONTENT ∧ d.smp.stateAt ≤ (state d).time) := by
  decide +kernel

theorem met_SamplerWrites :
    let c := chip 6
    let ahead := (c.wr A.CP_BW_HEAD 5).wr A.CP_BILL_HEAD 32767
    ((state c).writable A.CP_BW_TAIL = true ∧ (state c).writable A.CP_BILL_TAIL = true ∧ (state c).writable A.CP_SMP_MODE = true) ∧
    (tailOk 16384 (ahead.get A.CP_BW_HEAD F.CP_BW_HEAD_V) 0 5 = true ∧ tailOk 16384 (ahead.get A.CP_BW_HEAD F.CP_BW_HEAD_V) 0 6 = false) ∧
    (tailOk 32768 (ahead.get A.CP_BILL_HEAD F.CP_BILL_HEAD_V) 0 32767 = true ∧ tailOk 32768 (c.get A.CP_BILL_HEAD F.CP_BILL_HEAD_V) 0 1 = false) ∧
    (smpCheck (A.CL_RULE_HITS 0) true = Code.OK ∧ smpCheck (A.PX_RX_BYTES 0) true = Code.BAD_ARGUMENT ∧ smpCheck (A.PX_RX_BYTES 0) false = Code.OK ∧
      smpCheck 3 false = Code.NOT_FOUND) := by decide +kernel

/-! ### Modes and lifecycle -/

theorem met_ModeTransitions :
    let loads (m : Nat) : Chip := { chip m with cmd := { (chip m).cmd with sessions := [(0, some ⟨2, 0, 8, [], 0⟩)] } }
    let fenced (m : Nat) : Chip := (chip m).setBound 5 { Bound.init with st := 2, byFault := true }
    (∀ m ∈ [Mode.off, Mode.held, Mode.boot, Mode.recovery, Mode.provision, Mode.service, Mode.quarantine], (chip m).mode = m) ∧
    ((chip 5).loading = false ∧ (chip 5).faultFenced = false) ∧ ((fenced 5).mode = 5 ∧ (fenced 5).loading = false ∧ (fenced 5).faultFenced = true) ∧
    ((loads 5).mode = 5 ∧ (loads 5).loading = true) ∧
    ((chip 6).set A.CP_DRAIN_CFG F.CP_DRAIN_CFG_SOURCES 1).get A.CP_DRAIN_CFG F.CP_DRAIN_CFG_SOURCES ≠ 0 ∧
    (let d := (chip 12).setFlag A.CP_MODE F.CP_MODE_DEVICE_FAULT true
     d.mode = 12 ∧ d.flag A.CP_MODE F.CP_MODE_DEVICE_FAULT = true) ∧ (chip 12).flag A.CP_MODE F.CP_MODE_DEVICE_FAULT = false ∧
    (let p := (chip 5).setFlag (A.PX_CFG 0) F.PX_CFG_ENABLE true
     p.mode = Mode.provision ∧ p.standbyOk = true ∧ p.pwr.standby = none) ∧ (chip 5).standbyOk = false := by decide +kernel

theorem met_DrainAndStandby :
    let c := chip Mode.drain
    let b := chip Mode.standby
    let now := (state c).time
    let waiting : Chip := { c.set A.CP_DRAIN_CFG F.CP_DRAIN_CFG_SOURCES 1 with net := { c.net with rx := [⟨0, [], 0, 0, 0, 0⟩] } }
    let ms (v : Word) : Nat := (c.filled now A.CP_DRAIN_CFG [v]).get A.CP_DRAIN_CFG F.CP_DRAIN_CFG_TIMEOUT_MS
    let woken : Chip := (b.setFlag A.CP_STANDBY_CFG F.CP_STANDBY_CFG_WAKE_EN true).setFlag A.CP_STANDBY_CFG F.CP_STANDBY_CFG_WAKE_LEVEL true
    (state c).writable A.CP_DRAIN_CFG = true ∧ ms 1 = 0 ∧ ms (1 + 1 * 2 ^ 32) ≠ 0 ∧ c.mode = Mode.drain ∧ (chip 6).mode ≠ Mode.drain ∧
    c.drainLeft = 0 ∧ (waiting.mode = Mode.drain ∧ waiting.drainLeft ≠ 0) ∧ c.flag A.CP_DRAIN_STATUS F.CP_DRAIN_STATUS_DRAINED = false ∧
    c.pwr.drainAt + ns (1000000 * c.get A.CP_DRAIN_CFG F.CP_DRAIN_CFG_TIMEOUT_MS) ≤ ns 20000000000 ∧
    (let d : Chip := { b with pwr := { b.pwr with standby := some 5, standbyDown := some now } }
     d.pwr.standbyDown = some now ∧ d.pwr.standby = some 5 ∧ 5 ≤ now) ∧
    b.mode = Mode.standby ∧ b.pwr.keepAt ≤ now ∧ (∀ k ∈ List.range 4, b.link (4 * b.get A.CP_STANDBY_CFG F.CP_STANDBY_CFG_GROUP + k) = false) ∧
    (let l := b.setFlag (A.PX_STATUS 1) F.PX_STATUS_LINK true
     l.get A.CP_STANDBY_CFG F.CP_STANDBY_CFG_GROUP = 0 ∧ l.link 1 = true ∧ l.link 0 = false ∧ l.pwr.keepAt ≤ now) ∧
    (natBits woken.pwr.gpioIn 0 1 ≠ true.toNat ∧ woken.flag A.CP_STANDBY_CFG F.CP_STANDBY_CFG_WAKE_EN = true ∧
      woken.flag A.CP_STANDBY_CFG F.CP_STANDBY_CFG_WAKE_LEVEL = true) ∧ natBits b.pwr.gpioIn 0 1 = false.toNat := by decide +kernel

theorem met_BootAndFirmware :
    let now := (state (chip 3)).time
    let boots (fw : List FwCopy) (warm : Bool) : Chip := { chip 3 with
      flash := { (chip 3).flash with fw := fw }, pwr := { (chip 3).pwr with fwRuns := false, warmBoot := warm } }
    let shown (fw : List FwCopy) (warm : Bool) : Bool × Bool × Bool :=
      let b := (boots fw warm).bootStart now
      (decide (b.pwr.warmBoot = false ∨ b.pwr.fwStale = true), b.verifies b.flash.pref, b.verifies (1 - b.flash.pref))
    ((boots [] true).mode = Mode.boot ∧ (boots [] true).pwr.fwRuns = false) ∧ shown [⟨true, 0, 0⟩, ⟨true, 0, 0⟩] false = (true, true, true) ∧
    shown [⟨false, 0, 0⟩, ⟨true, 1, 9⟩] false = (true, false, true) ∧ shown [⟨false, 0, 0⟩, ⟨true, 2, 9⟩] false = (true, false, false) ∧
    (shown [⟨true, 0, 0⟩, ⟨false, 0, 0⟩] true).1 = false ∧
    (state (chip 5)).writable A.CP_FW_CTRL = true ∧ (chip 5).mode = Mode.provision ∧
    ((state (chip 6)).writable A.CP_FW_CTRL = true ∧ (chip 6).mode = Mode.service) ∧
    (let c := (chip 5).setFlag A.CP_FW_CTRL F.CP_FW_CTRL_FW_BUSY true
     c.flag A.CP_FW_CTRL F.CP_FW_CTRL_FW_BUSY = true ∧ (c.setFlag A.CP_FW_CTRL F.CP_FW_CTRL_FW_BUSY false).pickCopy = some 0 ∧
     (({ c with flash := { c.flash with fw := [] } } : Chip).setFlag A.CP_FW_CTRL F.CP_FW_CTRL_FW_BUSY false).pickCopy = none) := by decide +kernel

theorem met_BootAndFirmware_selfTest :
    let of (m : Nat) : Chip := ({ chip m with pwr := { (chip m).pwr with testing := true } } : Chip).setBound 3 { Bound.init with st := 2, good := 16 }
    let c := of 3
    let d : Chip := { c with pwr := { c.pwr with testing := false, warmBoot := false } }
    let opened (c d : Chip) (isl qdr eng : Nat) : Chip :=
      let e := ((d.set A.CP_SELFTEST F.CP_SELFTEST_FAILED isl).set A.CP_SELFTEST F.CP_SELFTEST_QDR_FAILED qdr).set A.CP_SELFTEST
        F.CP_SELFTEST_ENGINE_FAILED eng
      fenceTargets.foldl (fun (x : Chip) t => if x.testOpens isl qdr eng t = true then x.openNow (state c).time t else x) e
    let b := of Mode.standby
    let u : Chip := { b with pwr := { b.pwr with testing := false, warmBoot := false } }
    (c.pwr.testing = true ∧ c.mode = Mode.boot) ∧ (∀ k ∈ List.range 8, natBits (255 : BitVec 8).toNat k 1 ≠ 0) ∧
    c.testOpens 5 255 3 3 = true ∧ (∀ t ∈ List.range 24, c.testOpens 5 255 3 t = true → 16 ≤ (c.bound t).good) ∧
    (natBits (5 : BitVec 25).toNat 23 1 = 0 ∧ natBits (5 : BitVec 25).toNat 24 1 = 0 ∧ (opened c d 5 255 3).mode = Mode.boot) ∧
    (natBits (0x800000 : BitVec 25).toNat 23 1 = 1 ∧ (opened c d 0x800000 255 0).mode = Mode.boot) ∧
    b.pwr.testing = true ∧ (opened b u 5 255 3).mode = Mode.standby := by decide +kernel

theorem met_FusesAndDumps :
    let now := (state (chip 6)).time
    let svn (v : BitVec 8) : Nat := ((chip 6).filled now A.CP_BOOT [v.zeroExtend 64 <<< 32]).get A.CP_BOOT F.CP_BOOT_SVN
    let other : Chip := { chip 6 with pwr := { (chip 6).pwr with fwKey := 1 } }
    let d (c : Chip) : Chip := c.filled now A.CP_DUMP_CTRL [BitVec.ofNat 64 (1 + 2 * 1)]
    ((state (chip 6)).writable A.CP_BOOT = true ∧ (0 : BitVec 8).toNat ≤ svn 0 ∧ svn 1 < (1 : BitVec 8).toNat) ∧
    (other.pwr.fwKey = 1 ∧ (chip 6).pwr.fwKey ≠ 1) ∧ (state (chip 10)).writable A.CP_DUMP_CTRL = true ∧
    ((d (chip 10)).dumpLen ≤ 2 ^ 20 ∧ (chip 10).mode = Mode.diagnostic) ∧ ((d (chip 6)).dumpLen ≤ 2 ^ 20 ∧ (chip 6).mode = Mode.service) ∧
    (let c := ((chip 10).setFlag (A.CP_DUMP_LIST 0) F.CP_DUMP_LIST_VALID true).set (A.CP_DUMP_LIST 0) F.CP_DUMP_LIST_LEN (2 ^ 20)
     2 ^ 20 < (d c).dumpLen) := by decide +kernel

/-! ### Resets, power, fences, clocks -/

theorem met_Resets :
    let now := (state (chip 6)).time
    let ms (v : Word) : Nat := ((chip 6).filled now A.CP_WDOG [v]).get A.CP_WDOG F.CP_WDOG_TIMEOUT_MS
    (chip 1).mode = Mode.off ∧ (chip 6).mode ≠ Mode.off ∧ ((chip 2).mode = Mode.held ∧ (chip 2).pwr.supplyOk = true) ∧
    (Mode.held < (chip 6).mode ∧ (chip 6).pwr.pwrOk = true) ∧
    ((state (chip 6)).writable A.CP_RESET_CTRL = true ∧ (state (chip 6)).writable A.CP_WDOG = true) ∧ (ms 100 = 100 ∧ ms 60000 = 60000) ∧
    (ms 99 < 100 ∧ 60000 < ms 60001) ∧
    (let c := (chip 6).setFlag A.CP_WDOG F.CP_WDOG_ENABLE true
     c.pwr.fwRuns = true ∧ c.flag A.CP_WDOG F.CP_WDOG_ENABLE = true ∧ c.pwr.wdogAt ≤ now) := by decide +kernel

theorem met_FencesAndDomains :
    let c := chip 6
    let now := (state c).time
    let reached (d : Chip) : Nat × Nat × Nat := ((d.bound 5).st, (d.fenceDone now 5).pwrState (targetDomain 5), (d.fenceDone now 5).pwrState 13)
    let fencing := c.setBound 5 { Bound.init with st := 1 }
    let opening := c.setBound 5 { Bound.init with st := 3, good := 16 }
    let again := (c.setBound 5 { Bound.init with st := 2, reopen := some 7 }).setFlag A.CP_FAULT_CFG F.CP_FAULT_CFG_AUTO_REOPEN true
    let ramping : Chip := { c.setPwr 13 1 with pwr := { (c.setPwr 13 1).pwr with rampQ := [13] } }
    (state c).writable A.CP_ISLAND_CTRL = true ∧ (state c).writable A.CP_PWR_REQ = true ∧
    (c.sluiced 0 = false ∧ (c.setFlag 0x20000018 ⟨0, 0, 1⟩ true).sluiced 0 = true) ∧ ((chip 10).mode = Mode.diagnostic ∧ c.mode = Mode.service) ∧
    (reached (fencing.setPwr 12 3) = (1, 3, 2) ∧ targetDomain 5 = 12) ∧ reached (fencing.setPwr 13 3) = (1, 2, 3) ∧ reached fencing = (1, 2, 2) ∧
    (c.bound 5).st ≠ 1 ∧ opening.mayOpen 5 = true ∧ (ramping.mayOpen 5 = false ∧ ramping.pwr.rampQ.head? = some (3 + 2 * 5)) ∧
    ((again.bound 5).reopen = some 7 ∧ 7 ≤ now ∧ (again.bound 5).held = false ∧ (again.bound 5).st = 2 ∧
      again.flag A.CP_FAULT_CFG F.CP_FAULT_CFG_AUTO_REOPEN = true) := by decide +kernel

theorem met_FencesAndDomains_power :
    let c := chip 6
    (c.pwrAllowed 13 true = true ∧ c.mode ≠ Mode.boot ∧ c.mode ≠ Mode.standby ∧ c.pwrState 13 = 2) ∧
    ((c.setPwr 13 0).pwrAllowed 13 true = true ∧ (c.setPwr 13 0).pwrState 13 = 0) ∧
    ((c.setPwr 13 1).pwrAllowed 13 true = true ∧ (c.setPwr 13 1).pwrAllowed 13 false = true ∧ (c.setPwr 13 1).pwrState 13 = 1) ∧
    (c.pwrAllowed 13 false = true ∧ (c.setPwr 13 0).pwrAllowed 13 false = true) ∧
    (c.pwrAllowed 49 false = true ∧ c.pwrState 49 = 2 ∧ ((c.setBound 41 { Bound.init with st := 2 }).bound (domainTarget 49)).st = 2) ∧
    (((c.setPwr 13 0).setPwr 12 0).pwrAllowed 13 true = false ∧ c.pwrAllowed 12 false = false) := by decide +kernel

theorem met_ClocksAndThresholds :
    let c := chip 6
    let mhz (v : BitVec 12) : Nat := (c.filled (state c).time (A.CP_CLK_MILL 15) [v.zeroExtend 64]).get (A.CP_CLK_MILL 15) F.CP_CLK_MILL_MHZ_SET
    let volts (n mv : Nat) : Nat := (c.set (A.CP_AVS n) F.CP_AVS_MV mv).get (A.CP_AVS n) F.CP_AVS_MV
    let busy : Chip := { c with pwr := { c.pwr with clkBusy := [15], throttled := true } }
    let thr : Int := 16 * (c.get A.CP_THERMAL F.CP_THERMAL_THROTTLE_C : Nat)
    let trip : Int := 16 * (c.get A.CP_THERMAL F.CP_THERMAL_TRIP_C : Nat)
    let ring := (c.wr A.CP_FAULT_HEAD 3).wr A.CP_FAULT_TAIL 510
    ((state c).writable (A.CP_CLK_MILL 15) = true ∧ mhz 800 = 800 ∧ mhz 2200 = 2200 ∧ 2200 % 100 = 0 ∧ mhz 2250 % 100 ≠ 0 ∧ ¬800 ≤ mhz 700) ∧
    (let d : Chip := { c with pwr := { c.pwr with avsAt := [(3, some (ns 999999))] } }
     mget none d.pwr.avsAt 3 = some (ns 999999) ∧ ns 999999 ≤ (state d).time ∧ (state d).time < ns 999999 + ns 10000 ∧ mget none c.pwr.avsAt 3 = none) ∧
    memNat 15 busy.pwr.clkBusy = true ∧ (volts 3 845 < 850 ∧ 850 ≤ volts 3 850 ∧ 850 ≤ volts 16 850 ∧ 650 < volts 3 655 ∧ volts 3 650 ≤ 650) ∧
    (thr ≤ thr ∧ c.pwr.throttled = false ∧ thr ≤ trip ∧ trip ≤ trip) ∧ (thr - 81 < thr - 80 ∧ thr - 81 < trip ∧ busy.pwr.throttled = true) ∧
    thr - 80 ≤ thr - 80 ∧ Mode.held < c.mode ∧ (c.open1 16 = true ∧ c.open1 21 = true ∧ c.open1 24 = true) ∧
    (state c).writable A.CP_FAULT_TAIL = true ∧
    (tailOk 512 (ring.get A.CP_FAULT_HEAD ⟨0, 0, 9⟩) (ring.get A.CP_FAULT_TAIL ⟨0, 0, 9⟩) 3 = true ∧
      tailOk 512 (ring.get A.CP_FAULT_HEAD ⟨0, 0, 9⟩) (ring.get A.CP_FAULT_TAIL ⟨0, 0, 9⟩) 4 = false) := by decide +kernel

/-! ### Faults and the journal -/

theorem met_FaultsAndJournal :
    let c := chip 6
    let now := (state c).time
    let f : FaultKind := Flt.MC_SRAM_UE
    let soft : FaultKind := ⟨0x0900, 0⟩
    let once := c.raise1 now soft 22 63 0 0
    (f.cls ≠ 0 ∧ f.cls ≤ 3) ∧ (soft.cls = 0 ∧ c.coalesces now soft.code 22 0 = none) ∧
    (once.coalesces (now + ns 999999) soft.code 22 0).isSome = true ∧ f.code ≠ Flt.MA_MILL_DEADLOCK.code ∧
    (c.mode = Mode.service ∧ (chip 9).mode = Mode.update) ∧
    ((chip 10).mode ≠ Mode.service ∧ (chip 10).mode ≠ Mode.update ∧ (chip 10).mode ≠ Mode.drain) ∧
    ((chip 1).mode = Mode.off ∧ (chip 2).mode = Mode.held) := by decide +kernel

/-! ### Ill-formed commands are refused -/

theorem wf_bytes :
    (∀ i ∈ [Instr.frameReceive 0 .express [] true 0 0, .commandFrame 0 [], .pauseFrameReceive 0 [], .i2cBlockWrite [],
      .i2cBlockWrite (List.replicate 33 0), .loadImageBegin 0 0 0 0 8 (List.replicate 7 0), .loadImageData 0 0 0 (List.replicate 9 0),
      .keyRoll 0 0 true [0], .keyRoll 0 0 false (List.replicate 47 0), .pcieCompletion 0 0 0 true (List.replicate 4097 0) false],
      i.wf = false) ∧
    (∀ i ∈ [Instr.i2cBlockWrite (List.replicate 32 0), .loadImageData 0 0 0 (List.replicate 8 0), .keyRoll 0 0 false (List.replicate 48 0),
      .keyRoll 0 0 true [], .pcieCompletion 0 0 16383 true (List.replicate 4096 0) false], i.wf = true) := by decide +kernel

theorem wf_mboxGo (n : Nat) (h : 1048576 < n) : (Instr.mboxGo 0 (List.replicate n 0) 8 false false false).wf = false := by
  simp only [Instr.wf, List.length_replicate, Bool.and_eq_false_imp, decide_eq_true_eq]
  omega

theorem wf_numbers :
    (∀ i ∈ [Instr.cmdqDoorbell 0 0 0 false false 0, .cmdqDoorbell 0 0 1 false false 256, .pcieCompletion 0 0 16384 true [] false,
      .completionTimeout 0 16384, .tagQuarantineExpiry 0 16384, .peerRequest 0 .bar4 true 0 0 [] false false,
      .peerRequest 0 .bar4 true 0 0 (List.replicate 4097 0) false false, .peerRequest 0 .rom false 0 0 [] false false,
      .peerRequest 0 (.config 1) false 0 4097 [] false false, .mboxGo 0 [0, 0] 8 false false false], i.wf = false) ∧
    (∀ i ∈ [Instr.cmdqDoorbell 0 0 1 false false 255, .completionTimeout 0 16383, .tagQuarantineExpiry 0 16383,
      .peerRequest 0 .bar4 false 0 4096 [] false false, .mboxGo 0 [] 8 false false false], i.wf = true) := by decide +kernel

theorem wf_words :
    (∀ i ∈ [Instr.put 0 0 [], .stage 0 0 false (List.replicate 8192 (0, 0, 0)), .ruleWrite 0 0 [], .ruleWrite 0 9 (List.replicate 8 0), .emtWrite 0 0 [],
      .emtWrite 0 0 (List.replicate 5 0), .poolWrite 0 [], .poolWrite 0 (List.replicate 5 0), .queueWrite 0 0 [], .queueWrite 0 3 [0, 0],
      .policerWrite 0 [], .policerWrite 0 (List.replicate 5 0), .connWrite 0 0 [], .connWrite 0 2 [0, 0, 0], .gclWrite 0 0 none [],
      .gclWrite 0 0 none (List.replicate 5 0), .gclWrite 0 0 (some 255) [0, 0], .peerWindowWrite 0 0 0 [],
      .peerWindowWrite 0 0 0 (List.replicate 5 0), .steerWrite (.inl 0) [], .steerWrite (.inl 4095) [0, 0], .steerWrite (.inr 0) (List.replicate 5 0),
      .recipeWrite 0 [], .recipeWrite 0 (List.replicate 9 0)], i.wf = false) ∧
    (∀ i ∈ [Instr.put 0 0 [0], .ruleWrite 0 8 (List.replicate 8 0), .queueWrite 0 3 [0], .connWrite 0 1 [0, 0, 0], .gclWrite 0 0 (some 255) [0],
      .steerWrite (.inl 4095) [0], .recipeWrite 0 (List.replicate 8 0)], i.wf = true) := by decide +kernel

/-! ### Worked examples of the spec -/

/-- g1 to g3 of the thread after one instruction of a thread whose registers are `g`. -/
def regs3 (o : Host.Outcome State Fault Refusal) : Option (List Word) :=
  (after o).map fun u => [1, 2, 3].map (u.chip.th 0 0).reg

/-- spec/03_fecia_isa.md, the example under R69: the head window holds 0x08 at offset 12 and 0x00 at 13; ldh.h g1, [g0+12]. -/
theorem test_ldh_example :
    (let i : Instr := .ld 0 0 1 0 0 1 false 12
     regs3 (exec i (fetching (running { active with head := [(12, 0x08)], pk := some 0, valid := true, plen := 60 }) i))) = some [0x0800, 0, 0] := by
  decide +kernel

/-- R82: the end-around carry of a ones'-complement sum. -/
theorem test_csum_carries :
    (let i : Instr := .csum 0 0 1 2 3
     regs3 (exec i (fetching (running { active with g := [(2, 0xFFFF), (3, 0xFFFF00000000_0002)] }) i))) = some [2, 0xFFFF, 0xFFFF00000000_0002] := by decide +kernel

/-- RFC 3720's CRC32C of 32 zero bytes, by R82's step. -/
theorem test_crc32c : crc32c (List.replicate 32 0) = 0x8A9136AA := by decide +kernel

/-- R79, R80: an addition wraps, and the shift counts of a register are taken modulo 64. -/
theorem test_add_wraps :
    (let i : Instr := .add 0 0 1 2 2
     regs3 (exec i (fetching (running { active with g := [(2, 0x8000000000000001)] }) i))) = some [2, 0x8000000000000001, 0] := by
  decide +kernel

/-- A source that is also the destination; the immediate is sign-extended (R83). -/
theorem test_addi_same :
    (let i : Instr := .addi 0 0 3 3 0xFFF8
     regs3 (exec i (fetching (running { active with g := [(3, 5)] }) i))) = some [0, 0, 0xFFFFFFFFFFFFFFFD] := by decide +kernel

/-- spec/08_bobbins.md, the example under R226: bobbin 0x20_1A3C after a cold reset. -/
theorem test_bobbin_example : (chip 6).bobBase 0x201A3C = 0x0131E000 ∧ (chip 6).bobSlot 0x201A3C = 31292 := by decide +kernel

/-- spec/14_memory_complex.md, the example under R394: word 0x0A_5B37 of West and of East. -/
theorem test_qdr_example :
    qdrChannel 0 0x0A5B37 = 2 ∧ qdrChannelWord 0x0A5B37 = 0x296CD ∧ qdrChannel 1 0x0A5B37 = 6 ∧ qdrByte 0 0x0A5B37 = 0x014B66E0 ∧
    qdrByte 1 0x0A5B37 = 0x114B66E0 := by decide +kernel

/-- spec/09_ports.md, the example under R269: the Weir of port 2. -/
theorem test_weir_example :
    let c := ((((chip 6).set (A.PX_MODE 0) F.PX_MODE_MODE 1).setFlag (A.PX_WEIR_CFG 2) F.PX_WEIR_CFG_AUTO true).set (A.PX_WEIR_CFG 2)
      F.PX_WEIR_CFG_RESP_NS 1200).set (A.PX_WEIR_CFG 2) F.PX_WEIR_CFG_HYST 64
    let d := (c.set (A.PX_CFG 2) F.PX_CFG_MAX_FRAME 9216).set (A.PX_WEIR_LIMIT 2 3) F.PX_WEIR_LIMIT_V 1024
    let e := (d.setPort 2 { d.port 2 with delays := [12, 50, 7] }).weirAuto 2
    e.get (A.PX_WEIR 2 3) F.PX_WEIR_HIGH = 697 ∧ e.get (A.PX_WEIR 2 3) F.PX_WEIR_LOW = 633 := by decide +kernel

/-- spec/09_ports.md, the example under R251: 63 bytes are a runt, 64 are not. -/
theorem test_runt_example :
    let b := List.replicate 59 0xA5
    rxFlags (b ++ fcsOf b) 9216 false = 2 ∧ rxFlags ((b ++ [0]) ++ fcsOf (b ++ [0])) 9216 false = 0 := by decide +kernel

/-- spec/12_host_endpoints.md: Completion Timeout Value 0b0110 gives 200 ms. -/
theorem test_completion_timeout : ctoNs 6 = 200000000 := by decide +kernel

/-- spec/18_reset_power_faults.md, the examples of fault codes under R472. -/
theorem test_fault_codes :
    [Flt.BP_DOUBLE_FREE, Flt.FT_TIME_PLL_FAIL, Flt.MA_META_POISON, Flt.ST_FOREIGN_CONN, Flt.CP_SELFTEST_FAIL].map FaultKind.code =
      [0x0800, 0x0203, 0x0905, 0x0D00, 0x0106] := by decide +kernel

/-- R495: the TAP's IDCODE, least significant byte first. -/
theorem test_idcode :
    (after (exec .idcode (state (chip 6)))).map (fun u => u.chip.cmd.answer) = some [0x6B, 0x65, 0x81, 0x19] := by decide +kernel

/-- R461: supplies in range leave the adapter Held, its time 0. -/
theorem test_supplies :
    (after (exec .suppliesInRange (state (chip 1)))).map (fun u => (u.chip.mode, u.time)) = some (Mode.held, 0) := by decide +kernel

/-- spec/03_fecia_isa.md, the examples of encoding after the instruction tables. -/
theorem test_encoding_examples :
    feciaWord (.or 0 0 0 0 0) = 0x04000003 ∧ feciaWord (.addi 0 0 3 4 0xFFF8) = 0x0864FFF8 ∧ feciaWord (.ld 0 0 1 0 0 1 false 12) = 0x4020080C ∧
    feciaWord (.beq 0 0 5 0 0x0123) = 0x60A00123 := by decide +kernel

/-- spec/19_pins_electrical.md: the names of rows 9, 61 and 69, and the example of QA2_D[13]. -/
theorem test_ball_examples :
    rowName 9 = "J" ∧ rowName 61 = "CD" ∧ rowName 69 = "CM" ∧ rowName 35 = "AU" ∧ qdrBall 2 13 = ⟨35, 16⟩ ∧
    (⟨35, 16⟩ : Ball).scanned = true := by decide +kernel

end Sys2Proof.Tests
end

/-! PROOFS. The state after reset, and the immediate instructions of Fecia (R9, R83). -/

namespace Sys2Proof.Machine

/-! ### The state after reset -/

/-- Settles O3: every part of the reset state is a literal of the model. -/
theorem resetState : Obligations.ResetState := by
  have sound : State.reset.sound = true := by decide +kernel
  refine ⟨⟨fun _ => rfl, rfl, rfl, fun _ _ => rfl, ?boot, fun _ _ => rfl, fun _ => rfl⟩, sound⟩
  case boot => decide +kernel

/-! ### Immediate instructions -/

/-- An instruction that only changes its own thread, with every field that must be 0 at 0, has that effect and goes on. -/
theorem State.does_local {s : State} {m : MillNo} {t : ThreadNo} {regs : List Nat} {i : Instr} {mbz : Nat} {f : Thread → Thread}
    (h : exec i s = s.on fun now c => c.local_ now m t (feciaWord i) mbz regs f) (hz : mbz = 0) :
    s.does m t regs i (s.goesOn m t f) := fun hi => by
  subst hz
  rw [h]
  exact s.on_issue m t _ regs (fun _ c => c.setTh m t (f (c.th m t)).next) hi

/-- An immediate instruction, with every field that must be 0 at 0, writes its register (R83). -/
theorem State.does_immed {s : State} {m : MillNo} {t : ThreadNo} {rd ra mbz : Nat} {i : Instr} (f : Word → Word)
    (h : exec i s = s.on fun now c => c.immed now m t (feciaWord i) mbz rd ra f) (hz : mbz = 0) :
    s.does m t [rd, ra] i (s.writes m t rd fun x => f (x.reg ra)) :=
  State.does_local (f := fun x => x.setReg rd (f (x.reg ra))) h hz

/-- What a test for equality writes. -/
theorem truth_beq (a b : Word) : truth (a == b) = if a = b then 1 else 0 := by
  simp [truth]

/-- What an unsigned comparison writes. -/
theorem truth_ult (a b : Word) : truth (a.ult b) = if a.toNat < b.toNat then 1 else 0 := by
  simp [truth, BitVec.ult]

/-- A bit field within 64 bits leaves nothing that must be 0 (R83). -/
theorem fieldMbz_zero {lsb w1 : BitVec 6} (h : lsb.toNat + (w1.toNat + 1) ≤ 64) : fieldMbz lsb w1 0 = 0 := by
  have : ¬ 63 < lsb.toNat + w1.toNat := by omega
  simp [fieldMbz, this]

/-- The field of a bext, as a quotient and a remainder. -/
theorem bext_eq (a : Word) (lsb width : Nat) : bext a lsb width = BitVec.ofNat 64 (a.toNat / 2 ^ lsb % 2 ^ width) := by
  rw [bext, getBits, Nat.shiftRight_eq_div_pow]

/-- Setting a field changes its bits alone. -/
theorem getLsbD_setBits (w : Word) {lo n v i : Nat} (hi : i < 64) :
    (setBits w lo n v).getLsbD i = if lo ≤ i ∧ i < lo + n then v.testBit (i - lo) else w.getLsbD i := by
  have within : i - lo < 64 := by omega
  simp only [setBits, BitVec.getLsbD_or, BitVec.getLsbD_and, BitVec.getLsbD_not, BitVec.getLsbD_shiftLeft, BitVec.getLsbD_ofNat,
    Nat.testBit_two_pow_sub_one, Nat.testBit_mod_two_pow, hi, within]
  by_cases h1 : i < lo
  · simp [h1, Nat.not_le.mpr h1]
  · have inside : i - lo < n ↔ i < lo + n := by omega
    by_cases h2 : i < lo + n
    · simp [h1, h2, inside, Nat.not_lt.mp h1]
    · simp [h1, h2, inside]

section
variable (s : State) (m : MillNo) (t : ThreadNo) (rd ra : RegNo) (imm : BitVec 16)

/-- seqi compares for equality with the sign-extended immediate (R83). -/
theorem State.does_seqi : s.does m t [rd, ra] (.seqi m t rd ra imm)
    (s.writes m t rd fun x => if x.reg ra = imm.signExtend 64 then 1 else 0) := by
  have h := State.does_immed (s := s) (m := m) (t := t) (rd := rd) (ra := ra) (i := .seqi m t rd ra imm)
    (fun a => truth (a == imm.signExtend 64)) rfl rfl
  simpa only [truth_beq] using h

/-- sltiu compares unsigned with the zero-extended immediate (R83). -/
theorem State.does_sltiu : s.does m t [rd, ra] (.sltiu m t rd ra imm)
    (s.writes m t rd fun x => if (x.reg ra).toNat < imm.toNat then 1 else 0) := by
  have h := State.does_immed (s := s) (m := m) (t := t) (rd := rd) (ra := ra) (i := .sltiu m t rd ra imm)
    (fun a => truth (a.ult (imm.zeroExtend 64))) rfl rfl
  have wide : (imm.zeroExtend 64).toNat = imm.toNat := BitVec.toNat_setWidth_of_le (by omega)
  simpa only [truth_ult, wide] using h

/-- bext writes the field, where it lies within 64 bits (R83). -/
theorem State.does_bext {lsb w1 : BitVec 6} (hw : lsb.toNat + (w1.toNat + 1) ≤ 64) :
    s.does m t [rd, ra] (.bext m t rd ra lsb w1 0)
      (s.writes m t rd fun x => BitVec.ofNat 64 ((x.reg ra).toNat / 2 ^ lsb.toNat % 2 ^ (w1.toNat + 1))) := by
  have h := State.does_immed (s := s) (m := m) (t := t) (rd := rd) (ra := ra) (i := .bext m t rd ra lsb w1 0)
    (fun a => bext a lsb.toNat (w1.toNat + 1)) rfl (fieldMbz_zero hw)
  simpa only [bext_eq] using h

/-- bins sets the field, where it lies within 64 bits (R83). -/
theorem State.does_bins {lsb w1 : BitVec 6} (hw : lsb.toNat + (w1.toNat + 1) ≤ 64) :
    s.does m t [rd, ra] (.bins m t rd ra lsb w1 0)
      (s.writes m t rd fun x => setBits (x.reg rd) lsb.toNat (w1.toNat + 1) (x.reg ra).toNat) :=
  State.does_local (i := .bins m t rd ra lsb w1 0) rfl (fieldMbz_zero hw)

end

/-- Settles O10, each instruction by its operation. -/
theorem immediateResults : Obligations.ImmediateResults :=
  ⟨fun s m t rd ra imm n =>
    ⟨State.does_immed (fun a => a + imm.signExtend 64) rfl rfl, State.does_immed (fun a => a &&& imm.zeroExtend 64) rfl rfl,
      State.does_immed (fun a => a ||| imm.zeroExtend 64) rfl rfl, State.does_immed (fun a => a ^^^ imm.zeroExtend 64) rfl rfl,
      State.does_immed (fun a => a <<< n.toNat) rfl rfl, State.does_immed (fun a => a >>> n.toNat) rfl rfl,
      State.does_immed (fun a => a.sshiftRight n.toNat) rfl rfl, State.does_immed (fun a => a.rotateLeft n.toNat) rfl rfl,
      s.does_seqi m t rd ra imm, s.does_sltiu m t rd ra imm⟩,
    fun s m t rd ra imm h _ _ =>
    ⟨State.does_immed (fun _ => imm.zeroExtend 64 <<< (16 * h.val)) rfl rfl,
      State.does_immed (fun a => setBits a (16 * h.val) 16 imm.toNat) rfl rfl,
      fun hw => ⟨s.does_bext m t rd ra hw, s.does_bins m t rd ra hw⟩⟩,
    fun w _ _ _ _ _ hi => getLsbD_setBits w hi⟩

end Sys2Proof.Machine

/-! PROOFS. What a write makes of the fields of a register (R10, Table 0-3). -/

namespace Sys2Proof.Machine

/-! ### Fields of a register (R10, Table 0-3) -/

/-- What a write makes of one bit of a field: `old` the bit that stands, `new` the one written, `kept` as in `fieldPut`. -/
def Access.bit (kept : Bool) : Access → Bool → Bool → Bool
  | .rw, _, new => new
  | .wo, old, new => if kept then new else old
  | .w1c, old, new => old && !new
  | .w1s, old, new => old || new
  | .ro, old, _ => old
  | .roc, old, _ => old

/-- Whether a field holds bit `i` of its word. -/
def FieldRow.holds (f : FieldRow) (i : Nat) : Prop := f.lo ≤ i ∧ i < f.lo + f.width

/-- Whether two fields share no bit. -/
def FieldRow.apart (f g : FieldRow) : Bool := decide (f.word = g.word → f.lo + f.width ≤ g.lo ∨ g.lo + g.width ≤ f.lo)

/-- Of two fields of a word that are apart, one holds a bit only where the other does not. -/
theorem FieldRow.apart_holds {f g : FieldRow} (h : f.apart g = true) (hw : f.word = g.word) {i : Nat} (hf : f.holds i) : ¬ g.holds i := by
  have := of_decide_eq_true h hw
  unfold FieldRow.holds at *
  omega

/-- No two fields of a register share a bit: a fact of the register tables (R9). -/
theorem regionRows_apart (a : Nat) {r : RegRow} (h : r ∈ regionRows a) : r.fields.Pairwise fun f g => f.apart g = true := by
  have all : (regionRows a).all (fun r => decide (r.fields.Pairwise fun f g => f.apart g = true)) = true := by
    unfold regionRows
    split <;> decide +kernel
  exact of_decide_eq_true (List.all_eq_true.mp all r h)

/-- Two words that agree in the bits of a field agree in the field. -/
theorem getBits_congr {v w : Word} {lo n : Nat} (h : ∀ i, i < 64 → lo ≤ i → i < lo + n → v.getLsbD i = w.getLsbD i) :
    getBits v lo n = getBits w lo n := by
  refine Nat.eq_of_testBit_eq fun j => ?_
  simp only [getBits, Nat.testBit_mod_two_pow, Nat.testBit_shiftRight, ← BitVec.getLsbD.eq_1]
  by_cases hj : j < n
  · by_cases hi : lo + j < 64
    · rw [h (lo + j) hi (Nat.le_add_right ..) (by omega)]
    · rw [BitVec.getLsbD_of_ge _ _ (by omega), BitVec.getLsbD_of_ge _ _ (by omega)]
  · simp [hj]

/-- A bit of a field read back. -/
theorem testBit_getBits (w : Word) {lo n i : Nat} (h1 : lo ≤ i) (h2 : i < lo + n) : (getBits w lo n).testBit (i - lo) = w.getLsbD i := by
  have : i - lo < n := by omega
  simp [getBits, Nat.testBit_mod_two_pow, Nat.testBit_shiftRight, this, h1, BitVec.getLsbD]

/-- Storing a field of another word takes that word's bits there. -/
theorem getLsbD_setBits_getBits (acc w : Word) {lo n i : Nat} (hi : i < 64) :
    (setBits acc lo n (getBits w lo n)).getLsbD i = if lo ≤ i ∧ i < lo + n then w.getLsbD i else acc.getLsbD i := by
  rw [getLsbD_setBits acc hi]
  split
  next h => exact testBit_getBits w h.1 h.2
  next => rfl

/-- What a write makes of one field, bit by bit. -/
theorem getLsbD_fieldPut (kept : Bool) (new acc : Word) (f : FieldRow) {i : Nat} (hi : i < 64) :
    (fieldPut kept new acc f).getLsbD i = if f.lo ≤ i ∧ i < f.lo + f.width then f.access.bit kept (acc.getLsbD i) (new.getLsbD i)
      else acc.getLsbD i := by
  have hn (w : Word) : (~~~w).getLsbD i = !w.getLsbD i := by simp [hi]
  rcases hf : f.access with _ | _ | _ | _ | _ | _ <;> simp only [fieldPut, hf, Access.bit]
  case rw => exact getLsbD_setBits_getBits _ _ hi
  case wo =>
    cases kept
    · simp
    · exact getLsbD_setBits_getBits _ _ hi
  case w1c => rw [getLsbD_setBits_getBits _ _ hi, BitVec.getLsbD_and, hn]
  case w1s => rw [getLsbD_setBits_getBits _ _ hi, BitVec.getLsbD_or]
  case ro => simp
  case roc => simp

/-- Fields that do not hold a bit leave it. -/
theorem getLsbD_foldl_fieldPut_out (kept : Bool) (new : Word) {i : Nat} (hi : i < 64) : ∀ (fs : List FieldRow) (acc : Word),
    (∀ f ∈ fs, ¬ f.holds i) → (fs.foldl (fieldPut kept new) acc).getLsbD i = acc.getLsbD i
  | [], _, _ => rfl
  | f :: fs, acc, h => by
    rw [List.foldl_cons, getLsbD_foldl_fieldPut_out kept new hi fs _ fun g hg => h g (.tail _ hg), getLsbD_fieldPut _ _ _ _ hi]
    exact if_neg (h f (.head _))

/-- Of fields apart, the one that holds a bit makes of it what its access code says. -/
theorem getLsbD_foldl_fieldPut_in (kept : Bool) (new : Word) {i : Nat} (hi : i < 64) {f : FieldRow} (hf : f.holds i) :
    ∀ (fs : List FieldRow) (acc : Word), (fs.Pairwise fun f g => f.apart g = true) → (∀ g ∈ fs, g.word = f.word) → f ∈ fs →
    (fs.foldl (fieldPut kept new) acc).getLsbD i = f.access.bit kept (acc.getLsbD i) (new.getLsbD i)
  | [], _, _, _, hm => absurd hm List.not_mem_nil
  | g :: fs, acc, hp, hw, hm => by
    obtain ⟨hg, hp⟩ := List.pairwise_cons.mp hp
    have same : ∀ e ∈ fs, g.word = e.word := fun e he => (hw g (.head _)).trans (hw e (.tail _ he)).symm
    rw [List.foldl_cons]
    rcases List.mem_cons.mp hm with rfl | hm
    · rw [getLsbD_foldl_fieldPut_out kept new hi fs _ fun e he => FieldRow.apart_holds (hg e he) (same e he) hf,
        getLsbD_fieldPut _ _ _ _ hi]
      exact if_pos hf
    · have other : ¬ (g.lo ≤ i ∧ i < g.lo + g.width) := fun h => FieldRow.apart_holds (hg f hm) (same f hm) h hf
      rw [getLsbD_foldl_fieldPut_in kept new hi hf fs _ hp (fun e he => hw e (.tail _ he)) hm, getLsbD_fieldPut _ _ _ _ hi, if_neg other]

/-! ### The register an address names -/

theorem elementOffset_le : ∀ {ds : List (Nat × Nat)} {a off : Nat}, elementOffset ds a = some off → off ≤ a
  | [], _, _, h => by
    cases h
    exact Nat.le_refl _
  | (_, stride) :: ds, a, off, h => by
    simp only [elementOffset] at h
    split at h
    · exact Nat.le_trans (elementOffset_le h) (Nat.mod_le a stride)
    · cases h

theorem RegRow.wordAt_le {r : RegRow} {a k : Nat} (h : r.wordAt a = some k) : 8 * k ≤ a := by
  unfold RegRow.wordAt at h
  split at h
  · cases h
  · split at h
    · cases h
    next off ho =>
      split at h
      · cases h
        have := elementOffset_le ho
        omega
      · cases h

theorem findRow_spec : ∀ {rs : List RegRow} {a : Nat} {r : RegRow} {k : Nat}, findRow rs a = some (r, k) → r ∈ rs ∧ r.wordAt a = some k
  | [], _, _, _, h => by cases h
  | q :: rs, a, r, k, h => by
    simp only [findRow] at h
    split at h
    next w hw =>
      cases h
      exact ⟨.head _, hw⟩
    next =>
      obtain ⟨hm, hw⟩ := findRow_spec h
      exact ⟨.tail _ hm, hw⟩

/-- The unit at a register's address is a piece of its element. -/
theorem Chip.pieceOf_register {c : Chip} {a k : Nat} {r : RegRow} (v : Word) (hr : findRow (regionRows a) a = some (r, k))
    (hp : c.place a = none) (hm : ∀ m o, millOffset a = some (m, o) → inThreadWindow o = false) :
    c.pieceOf a v = some (.elem ⟨r, a - 8 * k, [(k, v)]⟩) := by
  unfold Chip.pieceOf
  rw [hp, hr]
  rcases h : millOffset a with _ | ⟨m, o⟩
  · rfl
  · simp [hm m o h]

/-- The one unit at a register's address is cut as that piece. -/
theorem Chip.cut_unit {c : Chip} {a k : Nat} {r : RegRow} (v : Word) (hr : findRow (regionRows a) a = some (r, k))
    (hres : c.reserved a = false) (hp : c.place a = none) (hm : ∀ m o, millOffset a = some (m, o) → inThreadWindow o = false) :
    c.cut a [v] = some [.elem ⟨r, a - 8 * k, [(k, v)]⟩] := by
  simp [Chip.cut, hres, Chip.pieceOf_register v hr hp hm, joinPiece]

/-- With no keyed value armed, a write of one unit stores what its fields make of it, and nothing else. -/
theorem Chip.filled_unit {c : Chip} {now a k : Nat} {r : RegRow} (v : Word) (hr : findRow (regionRows a) a = some (r, k))
    (hres : c.reserved a = false) (hp : c.place a = none) (hm : ∀ m o, millOffset a = some (m, o) → inThreadWindow o = false)
    (harm : c.ft.armed = []) :
    c.filled now a [v] = c.wr a ((r.fields.filter fun f => f.word == k).foldl (fieldPut (r.base == A.CE_CTX_BLOB 0) v) (c.rd a)) := by
  have at_ : a - 8 * k + 8 * k = a := Nat.sub_add_cancel (RegRow.wordAt_le (findRow_spec hr).2)
  have same : ({ c with ft := { c.ft with armed := [] } } : Chip) = c := by rw [← harm]
  simp [Chip.filled, Chip.cut_unit v hr hres hp hm, Chip.storeElem, at_, Chip.wrNow, Chip.rdAt, harm, same]

/-- Settles O8: bit by bit, since no two fields share one. -/
theorem fieldsTakeTheirWrite : Obligations.FieldsTakeTheirWrite := by
  intro c now a v r k hr _ hres hp hm harm
  rw [Chip.filled_unit v hr hres hp hm harm]
  refine ⟨fun f hf hk => ?_, fun b hb => c.rd_wr_ne _ hb⟩
  rw [Chip.rd_wr_self]
  subst hk
  have bit (i : Nat) (hi : i < 64) (h1 : f.lo ≤ i) (h2 : i < f.lo + f.width) :
      ((r.fields.filter fun g => g.word == f.word).foldl (fieldPut (r.base == A.CE_CTX_BLOB 0) v) (c.rd a)).getLsbD i =
        f.access.bit (r.base == A.CE_CTX_BLOB 0) ((c.rd a).getLsbD i) (v.getLsbD i) :=
    getLsbD_foldl_fieldPut_in _ v hi ⟨h1, h2⟩ _ _ ((regionRows_apart a (findRow_spec hr).1).filter _)
      (fun g hg => by simpa using (List.mem_filter.mp hg).2) (List.mem_filter.mpr ⟨hf, by simp⟩)
  refine ⟨fun h => ?rw, fun h => ?w1c, fun h => ?w1s, fun h => ?ro, fun h => ?wo⟩
  case rw => exact getBits_congr fun i hi h1 h2 => by rw [bit i hi h1 h2, h]; rfl
  case w1c => exact getBits_congr fun i hi h1 h2 => by rw [bit i hi h1 h2, h]; simp [Access.bit, hi]
  case w1s => exact getBits_congr fun i hi h1 h2 => by rw [bit i hi h1 h2, h]; simp [Access.bit]
  case ro => exact getBits_congr fun i hi h1 h2 => by rw [bit i hi h1 h2]; rcases h with h | h <;> rw [h] <;> rfl
  case wo =>
    split
    next hb => exact getBits_congr fun i hi h1 h2 => by rw [bit i hi h1 h2, h, hb]; simp [Access.bit]
    next hb => exact getBits_congr fun i hi h1 h2 => by rw [bit i hi h1 h2, h]; simp [Access.bit, hb]

end Sys2Proof.Machine

/-! PROOFS. PUT and GET on registers, and the command words (R31, R405-R411). -/

namespace Sys2Proof.Machine

/-! ### PUT and GET on registers (R16, R31) -/

/-- A range that holds a reserved unit is not cut. -/
theorem Chip.cut_reserved (c : Chip) : ∀ (vs : List Word) (a i : Nat), i < vs.length → c.reserved (a + 8 * i) = true → c.cut a vs = none
  | [], _, _, hi, _ => absurd hi (Nat.not_lt_zero _)
  | v :: vs, a, 0, _, h => by
    have here : c.reserved a = true := h
    simp [Chip.cut, here]
  | v :: vs, a, i + 1, hi, h => by
    have rest := c.cut_reserved vs (a + 8) i (Nat.lt_of_succ_lt_succ hi) (by rwa [show a + 8 + 8 * i = a + 8 * (i + 1) by omega])
    simp only [Chip.cut, rest]
    split
    · rfl
    · cases c.pieceOf a v <;> rfl

/-- A PUT that is not aligned, or outside the Scheduled Action Table touches a reserved address, does nothing (R31). -/
theorem Chip.put_badArgument (c : Chip) (now a : Nat) (vs : List Word)
    (h : a % 8 ≠ 0 ∨ (inSat a = false ∧ ∃ i, i < vs.length ∧ c.reserved (a + 8 * i) = true)) : c.put now a vs = (Code.BAD_ARGUMENT, c) := by
  rcases h with h | ⟨hs, i, hi, hr⟩
  · simp [Chip.put, Chip.putPlain, h]
  · simp [Chip.put, Chip.putPlain, hs, c.cut_reserved vs a i hi hr]

/-- Every code but DENIED comes with BAD_ARGUMENT or after it (R16). -/
theorem codeRank_badArgument_le {st : Status} (h : st ≠ Code.DENIED) : codeRank Code.BAD_ARGUMENT ≤ codeRank st := by
  show 1 ≤ codeRank st
  rw [codeRank, if_neg h]
  repeat' split
  all_goals decide

/-- Of those, none but BAD_ARGUMENT stands at its place (R16). -/
theorem eq_badArgument_of_codeRank_le {st : Status} (h : st ≠ Code.DENIED) (hr : codeRank st ≤ codeRank Code.BAD_ARGUMENT) :
    st = Code.BAD_ARGUMENT := by
  refine Decidable.byContradiction fun hb => ?_
  have later : 2 ≤ codeRank st := by
    rw [codeRank, if_neg h, if_neg hb]
    repeat' split
    all_goals decide
  exact absurd (Nat.le_trans later hr) (by decide)

/-- What is found with BAD_ARGUMENT ends BAD_ARGUMENT, DENIED apart (R16). -/
theorem firstCode_badArgument {st : Status} (h : st ≠ Code.DENIED) : firstCode st Code.BAD_ARGUMENT = Code.BAD_ARGUMENT := by
  unfold firstCode
  split
  next => rfl
  next =>
    rw [if_neg (show ¬ Code.BAD_ARGUMENT = Code.OK by decide)]
    split
    next => rfl
    next hr => exact eq_badArgument_of_codeRank_le h (Nat.not_lt.mp hr)

theorem badArgument_firstCode {st : Status} (h : st ≠ Code.DENIED) : firstCode Code.BAD_ARGUMENT st = Code.BAD_ARGUMENT := by
  rw [firstCode, if_neg (show ¬ Code.BAD_ARGUMENT = Code.OK by decide), if_neg (Nat.not_lt.mpr (codeRank_badArgument_le h))]
  exact ite_self _

/-- The code R16 reports is one of the two found. -/
theorem firstCode_cases (s t : Status) : firstCode s t = s ∨ firstCode s t = t := by
  unfold firstCode
  split
  · exact .inr rfl
  · split
    · exact .inl rfl
    · split
      · exact .inr rfl
      · exact .inl rfl

theorem Chip.windowCheck_ne_denied (c : Chip) (m o : Nat) (write : Bool) : c.windowCheck m o write ≠ Code.DENIED := by
  unfold Chip.windowCheck
  repeat' split
  all_goals decide

/-- No unit of a GET is found DENIED: that is judged of the command word before it runs (R411). -/
theorem Chip.getCheck_ne_denied (c : Chip) (a : Nat) : c.getCheck a ≠ Code.DENIED := by
  unfold Chip.getCheck
  split
  next p =>
    split
    · decide
    · split
      · exact c.windowCheck_ne_denied _ _ _
      · exact c.windowCheck_ne_denied _ _ _
      · decide
  next =>
    split
    · decide
    · split
      · split
        · exact c.windowCheck_ne_denied _ _ _
        · decide
      · decide

/-- What the units of a GET are found to be, from a code that is not DENIED. -/
theorem Chip.getChecks_reserved (c : Chip) : ∀ (n a : Nat) (st : Status), st ≠ Code.DENIED →
    (st = Code.BAD_ARGUMENT ∨ ∃ i, i < n ∧ c.reserved (a + 8 * i) = true) → c.getChecks n a st = Code.BAD_ARGUMENT
  | 0, _, _, _, h => h.resolve_right fun ⟨_, hi, _⟩ => Nat.not_lt_zero _ hi
  | n + 1, a, st, hst, h => by
    have found : ∀ x, x ≠ Code.DENIED → firstCode st x ≠ Code.DENIED := fun x hx => by
      rcases firstCode_cases st x with e | e <;> rw [e] <;> assumption
    simp only [Chip.getChecks]
    split
    next hr =>
      exact c.getChecks_reserved n (a + 8) _ (found _ (by decide)) (.inl (firstCode_badArgument hst))
    next hr =>
      refine c.getChecks_reserved n (a + 8) _ (found _ (c.getCheck_ne_denied a)) ?_
      rcases h with rfl | ⟨i, hi, h⟩
      · exact .inl (badArgument_firstCode (c.getCheck_ne_denied a))
      · obtain _ | i := i
        · exact absurd h hr
        · exact .inr ⟨i, Nat.lt_of_succ_lt_succ hi, by rwa [show a + 8 + 8 * i = a + 8 * (i + 1) by omega]⟩

/-- A GET that is not aligned, or touches a reserved address, does nothing (R31). -/
theorem Chip.getRange_badArgument (c : Chip) (now a n : Nat) (h : a % 8 ≠ 0 ∨ ∃ i, i < n ∧ c.reserved (a + 8 * i) = true) :
    c.getRange now a n = (Code.BAD_ARGUMENT, [], c) := by
  have code : (if a % 8 ≠ 0 then Code.BAD_ARGUMENT else c.getChecks n a Code.OK) = Code.BAD_ARGUMENT := by
    split
    next => rfl
    next ha => exact c.getChecks_reserved n a _ (by decide) (.inr (h.resolve_left ha))
  simp [Chip.getRange, code]

/-- A GET of one register outside every window: what its register shows where its unit answers, else ABSENT (R13, R31). -/
theorem Chip.getRange_register {c : Chip} {now a k : Nat} {r : RegRow} (ha : a % 8 = 0) (hres : c.reserved a = false)
    (hp : c.place a = none) (hw : regCode a = none) (hm : millOffset a = none) (hr : findRow (regionRows a) a = some (r, k)) :
    c.getRange now a 1 = if c.regUp a = true then (Code.OK, [c.shows now a r k], c.afterRead now a r k) else (Code.ABSENT, [], c) := by
  have checks : c.getChecks 1 a Code.OK = if c.regUp a = true then Code.OK else Code.ABSENT := by
    cases hu : c.regUp a <;> simp [Chip.getChecks, Chip.getCheck, firstCode, hres, hp, hm, hu]
  have reads : Chip.getReads c now a 1 none none c = (false, c) := by simp [Chip.getReads, hp, hw]
  have unit : c.getUnit now a = (c.shows now a r k, c.afterRead now a r k) := by
    simp [Chip.getUnit, Chip.getUnit.regGet, hp, hm, hr]
  have ok : ¬ (Code.OK = Code.BAD_ARGUMENT ∨ Code.OK = Code.ABSENT) := by decide
  unfold Chip.getRange
  cases hu : c.regUp a <;> simp [ha, hu, checks, reads, Chip.getUnits, unit, ok]

/-- A write of an element whose unit does not answer ends ABSENT, BAD_ARGUMENT apart (R16, R31). -/
theorem Chip.elemPut_absent {c : Chip} {now : Nat} {e : Elem} (hu : c.regUp e.base = false)
    (hb : (c.hook (c.storeElem now e) now e).1 ≠ Code.BAD_ARGUMENT) : c.elemPut now e = (Code.ABSENT, c) := by
  simp [Chip.elemPut, hu, hb]

/-! ### Command words run (R405-R407, R411, R447) -/

/-- The command processor at context `k`'s word, as R407's rotation remembers it. -/
def Chip.atWord (c : Chip) (k : Nat) : Chip := { c with cmd := { c.cmd with wordAt := k } }

/-- What becomes of a word whose turn it is, in the order of the checks on it. -/
theorem Chip.cmdWord_turn {c : Chip} {now k : Nat} {r : RunPkt} {w : CmdWord} (turn : c.wordTurn k = true)
    (hr : (c.cmdCtx k).run = some r) (hc : c.cmdRuns = true) (hw : r.wait = .none) (ho : r.off < r.bytes.length)
    (hd : decodeCmd (wordAt r.bytes r.off).1 (wordAt r.bytes r.off).2 = some w) :
    c.cmdWord now k w =
      let x := wordAt r.bytes r.off
      let d := c.atWord k
      if r.full 0 then (d.setRun k (some r.overflow)).cmdNext now k
      else if !r.auth && d.critical x.1 x.2 && !d.waived x.1 then
        (d.setRun k (some { r with denied := true })).wordEnd now k Code.DENIED []
      else if !d.modeTakes w then d.wordEnd now k Code.MODE_REFUSED []
      else if r.full (d.bodyLen w) then (d.setRun k (some r.overflow)).cmdNext now k
      else
        match d.runWord now w with
        | (.now st body, d) => d.wordEnd now k st body
        | (.later wt, d) => d.setRun k (some { r with wait := wt }) := by
  have able : c.runnable k = true := by simp [Chip.runnable, hr, hw, ho]
  unfold Chip.cmdWord
  rw [hr]
  dsimp only
  rw [if_neg (by simp [hc, able, turn, hd])]
  rfl

/-- A record with a shorter body needs no more room. -/
theorem RunPkt.full_mono {r : RunPkt} {m n : Nat} (h : m ≤ n) (hn : r.full n = false) : r.full m = false := by
  simp only [RunPkt.full, decide_eq_false_iff_not] at hn ⊢
  omega

/-- A word that its context takes runs. -/
theorem Chip.cmdWord_takes {c : Chip} {now k : Nat} {r : RunPkt} {w : CmdWord} (turn : c.wordTurn k = true)
    (takes : (c.atWord k).takesWord k r w = true) :
    c.cmdWord now k w = match (c.atWord k).runWord now w with
      | (.now st body, d) => d.wordEnd now k st body
      | (.later wt, d) => d.setRun k (some { r with wait := wt }) := by
  simp only [Chip.takesWord, Bool.and_eq_true, decide_eq_true_eq] at takes
  obtain ⟨⟨⟨⟨⟨⟨⟨hr, hc⟩, hw⟩, ho⟩, hd⟩, hauth⟩, hmode⟩, hroom⟩ := takes
  have room : r.full ((c.atWord k).bodyLen w) = false := by
    simp only [RunPkt.full, decide_eq_false_iff_not]
    omega
  have clear : (!r.auth && (c.atWord k).critical (wordAt r.bytes r.off).1 (wordAt r.bytes r.off).2 &&
      !(c.atWord k).waived (wordAt r.bytes r.off).1) = false := by
    rw [← Bool.not_eq_true', Bool.not_and, Bool.not_and, Bool.not_not, Bool.not_not]
    exact hauth
  rw [Chip.cmdWord_turn turn hr hc hw ho hd]
  simp [RunPkt.full_mono (Nat.zero_le _) room, clear, hmode, room]

section
variable {s : State} {k : CtxNo} {r : RunPkt} {w : CmdWord} {i : Instr}

/-- A command word that runs to its end. -/
theorem State.ended_of_runWord {st : Status} {body : List Byte} {d : Chip} (h : exec i s = s.on fun now c => c.cmdWord now k w)
    (takes : s.found.wordTurn k = true ∧ (s.found.atWord k).takesWord k r w = true)
    (run : (s.found.atWord k).runWord s.time w = (.now st body, d)) : exec i s = s.ended k st body d := by
  rw [h, State.on_done, Chip.cmdWord_takes takes.1 takes.2, run]
  rfl

/-- A command word that waits. -/
theorem State.waitsFor_of_runWord {wt : CmdWait} {d : Chip} (h : exec i s = s.on fun now c => c.cmdWord now k w)
    (takes : s.found.wordTurn k = true ∧ (s.found.atWord k).takesWord k r w = true)
    (run : (s.found.atWord k).runWord s.time w = (.later wt, d)) : exec i s = s.waitsFor k r wt d := by
  rw [h, State.on_done, Chip.cmdWord_takes takes.1 takes.2, run]
  rfl

end

/-! ### What each word comes to -/

section
variable (c : Chip) (now : Nat)

theorem Chip.runWait_past {dt frac : Nat} (h : ns dt + frac ≤ now) : c.runWait now dt frac = (.now Code.OK [], c) := by
  simp only [Chip.runWait]
  rw [if_neg (by omega), if_pos h]

theorem Chip.runWait_future {dt frac : Nat} (h : now < ns dt + frac) (near : ns dt + frac ≤ now + ns 60000000000) :
    c.runWait now dt frac = (.later (.untilT (ns dt + frac)), c) := by
  simp only [Chip.runWait]
  rw [if_neg (by omega), if_neg (by omega)]

theorem Chip.runWait_far {dt frac : Nat} (far : now + ns 60000000000 < ns dt + frac) :
    c.runWait now dt frac = (.now Code.BAD_ARGUMENT [], c) := by
  simp [Chip.runWait, far]

/-- A word of the Slice Manager runs where MR answers, or ends BAD_ARGUMENT before that is asked (R16, R31). -/
theorem Chip.inMr_runs {r : Status × Chip} (h : r.1 = Code.BAD_ARGUMENT ∨ c.up 23 = true) : c.inMr r = (.now r.1 [], r.2) := by
  unfold Chip.inMr
  rw [if_neg fun ⟨h1, h2⟩ => h.elim h1 fun h => by simp [h] at h2]
  rfl

theorem Chip.inMr_absent {r : Status × Chip} (h : r.1 ≠ Code.BAD_ARGUMENT) (hu : c.up 23 = false) :
    c.inMr r = (.now Code.ABSENT [], c) := by
  simp [Chip.inMr, h, hu]

theorem Chip.sluiceRelease_clear {e : Nat} (h : c.sluiced e = false) : c.sluiceRelease now e = (Code.OK, c) := by
  simp [Chip.sluiceRelease, h]

theorem Chip.sluiceRelease_held {e : Nat} (h : c.sluiced e = true)
    (hold : c.epUp e = false ∨ (c.twin = true ∧ c.epUp (1 - e) = false) ∨ c.mode = Mode.quarantine) :
    c.sluiceRelease now e = (Code.SLUICE_HELD, c) := by
  unfold Chip.sluiceRelease
  rw [if_neg (by simp [h]), if_pos]
  rcases hold with h | ⟨h1, h2⟩ | h <;> simp [*]

theorem Chip.sluiceRelease_lifts {e : Nat} (h : c.sluiced e = true) (up : c.epUp e = true)
    (twin : c.twin = true → c.epUp (1 - e) = true) (hm : c.mode ≠ Mode.quarantine) :
    c.sluiceRelease now e =
      (Code.OK, if (c.sluiceLift now e).twin = true then (c.sluiceLift now e).sluiceLift now (1 - e) else c.sluiceLift now e) := by
  unfold Chip.sluiceRelease
  rw [if_neg (by simp [h]), if_neg]
  cases ht : c.twin <;> simp_all

theorem Chip.runDebug_absent {m op t : Nat} (h7 : op ≠ 7) (hr : c.reach m = false) : c.runDebug now m op t false = (.now Code.ABSENT [], c) := by
  simp [Chip.runDebug, h7, hr]

/-- A DEBUG word without READ_STATE and without an operation does nothing (R130). -/
theorem Chip.runDebug_nothing {m op t : Nat} (h0 : op = 0) (hr : c.reach m = true) :
    c.runDebug now m op t false = (.now Code.OK [], c) := by
  simp [Chip.runDebug, h0, hr, plainEnd_]

/-- A DEBUG word without READ_STATE ends as its operation does (R127-R130). -/
theorem Chip.runDebug_operates {m op t : Nat} (h7 : op ≠ 7) (h0 : op ≠ 0) (hr : c.reach m = true) :
    c.runDebug now m op t false = (.now (c.debugOp now m op t).1 [], (c.debugOp now m op t).2) := by
  simp [Chip.runDebug, h7, h0, hr, plainEnd_]

theorem Chip.runMode_ends {m : Nat} (h : (c.modeRequest now m).2.1 = false) :
    c.runMode now m = (.now (c.modeRequest now m).1 [], (c.modeRequest now m).2.2) := by
  simp [Chip.runMode, h]

theorem Chip.runMode_waits {m : Nat} (h : (c.modeRequest now m).2.1 = true) : c.runMode now m = (.later .mode, (c.modeRequest now m).2.2) := by
  simp [Chip.runMode, h]

theorem Chip.runRoll_removes {n : Nat} (blob : List Byte) (h : n < 24) : c.runRoll n true blob = (.later (.keyRoll n [] 0 true), c) := by
  simp [Chip.runRoll, Nat.not_le.mpr h]

theorem Chip.runRoll_installs {n : Nat} {blob : List Byte} (h : (c.rollCheck n blob).1 = Code.OK) :
    c.runRoll n false blob = (.later (.keyRoll n (c.rollCheck n blob).2.1 (c.rollCheck n blob).2.2 false), c) := by
  simp [Chip.runRoll, h]

theorem Chip.runRoll_refused {n : Nat} {blob : List Byte} (h : (c.rollCheck n blob).1 ≠ Code.OK) :
    c.runRoll n false blob = (.now (c.rollCheck n blob).1 [], c) := by
  simp [Chip.runRoll, h]

theorem Chip.runJournal_badCount {f : Word} {n : Nat} (h : n = 0 ∨ 4096 < n) : c.runJournal f n = (.now Code.BAD_ARGUMENT [], c) :=
  if_pos h

theorem Chip.runJournal_entries {f : Word} {n : Nat} (h1 : 1 ≤ n) (h2 : n ≤ 4096) :
    c.runJournal f n = if c.needsFlash (c.journalEntries f n) = true then (.later (.journal f.toNat (c.journalEntries f n).length), c)
      else (.now Code.OK (journalBody f (c.journalEntries f n)), c) :=
  if_neg (by omega)

end

/-- What ending a word does to the packet that runs (R405, R406). -/
theorem Chip.wordEnd_run {d : Chip} {now k : Nat} {r : RunPkt} (st : Status) (body : List Byte) (h : (d.cmdCtx k).run = some r) :
    d.wordEnd now k st body = (d.setRun k (some (r.record st body))).cmdNext now k := by
  rw [Chip.wordEnd, h]

/-- Where the result has room for eight bytes more, it has room for the record of a word without a body. -/
theorem RunPkt.full_zero {r : RunPkt} (h : 72 + r.records.length ≤ r.origin.limit) : r.full 0 = false := by
  simp only [RunPkt.full, decide_eq_false_iff_not]
  omega

section
variable {c : Chip} {now k : Nat} {r : RunPkt} {w : CmdWord} (turn : c.wordTurn k = true)
    (hr : (c.cmdCtx k).run = some r) (hc : c.cmdRuns = true) (hw : r.wait = .none) (ho : r.off < r.bytes.length)
    (hd : decodeCmd (wordAt r.bytes r.off).1 (wordAt r.bytes r.off).2 = some w)
include turn hr hc hw ho hd

/-- An unkeyed critical word ends DENIED (R411). -/
theorem Chip.cmdWord_denied (hauth : r.auth = false)
    (crit : (c.atWord k).critical (wordAt r.bytes r.off).1 (wordAt r.bytes r.off).2 = true)
    (waived : (c.atWord k).waived (wordAt r.bytes r.off).1 = false) (room : 72 + r.records.length ≤ r.origin.limit) :
    c.cmdWord now k w = ((c.atWord k).setRun k (some { r with denied := true })).wordEnd now k Code.DENIED [] := by
  rw [Chip.cmdWord_turn turn hr hc hw ho hd]
  simp [RunPkt.full_zero room, hauth, crit, waived]

/-- A word whose record would carry the result beyond its limit ends the packet (R406). -/
theorem Chip.cmdWord_overflows (hauth : r.auth = true ∨ (c.atWord k).critical (wordAt r.bytes r.off).1 (wordAt r.bytes r.off).2 = false)
    (hm : (c.atWord k).modeTakes w = true) (full : r.full ((c.atWord k).bodyLen w) = true) :
    c.cmdWord now k w = ((c.atWord k).setRun k (some r.overflow)).cmdNext now k := by
  rw [Chip.cmdWord_turn turn hr hc hw ho hd]
  rcases hauth with h | h <;> simp [h, hm, full]

/-- A word that the mode does not take ends MODE_REFUSED (R447). -/
theorem Chip.cmdWord_refused (hauth : r.auth = true)
    (hm : (c.atWord k).modeTakes w = false) (room : 72 + r.records.length ≤ r.origin.limit) :
    c.cmdWord now k w = (c.atWord k).wordEnd now k Code.MODE_REFUSED [] := by
  rw [Chip.cmdWord_turn turn hr hc hw ho hd]
  simp [RunPkt.full_zero room, hauth, hm]

end

/-- Settles O49: R31's checks on ranges, and each word by what it comes to. -/
theorem commandWords : Obligations.CommandWords := by
  refine ⟨fun c now a => ⟨fun vs h => c.put_badArgument now a vs h, fun vs e ha hs hc => ?put, fun n h => c.getRange_badArgument now a n h,
    fun r k ha hres hp hw hm hr => ?get⟩, fun s k r => ?words⟩
  case put =>
    rw [Chip.put_elem c now a vs e hs ha hc]
    exact ⟨fun hu => by simp [Chip.elemPut, hu], Chip.elemPut_absent⟩
  case get =>
    rw [Chip.getRange_register ha hres hp hw hm hr]
    exact ⟨fun hu => by simp [hu], fun hu => by simp [hu]⟩
  case words =>
    refine ⟨fun a ws t => State.ended_of_runWord rfl t rfl, fun a n t => ?getWord, fun a n v t => ?fill,
      fun g reset items t => State.ended_of_runWord rfl t rfl, fun dt frac kind a0 a1 t => State.ended_of_runWord rfl t rfl,
      fun dt frac t => ?waitUntil, fun sl mask quotas rate dt frac t => State.ended_of_runWord rfl t rfl, fun sl e pasid t => ?bind,
      fun sl t => ?unbind, fun e t => ?sluiceRelease, fun m t => ?mode, fun slot blob => ?keyRoll, fun f n t => ?journalRead,
      fun m op th t => ?debug, fun a ws turn hr hc hw ho hd hauth crit waived room => ?denied,
      fun a n turn hr hc hw ho hd hauth hm full => ?overflows, fun e turn hr hc hw ho hd hauth hm room => ?refused,
      fun d st body h => Chip.wordEnd_run st body h⟩
    case getWord =>
      exact ⟨fun h8 hn => State.ended_of_runWord rfl t (if_neg (by omega)), fun h => State.ended_of_runWord rfl t (if_pos h)⟩
    case fill =>
      exact ⟨fun h => State.ended_of_runWord rfl t (if_neg fun hn => hn h), fun h => State.ended_of_runWord rfl t (if_pos h)⟩
    case waitUntil =>
      exact ⟨fun h => State.ended_of_runWord rfl t (Chip.runWait_past _ _ h),
        fun h near => State.waitsFor_of_runWord rfl t (Chip.runWait_future _ _ h near),
        fun far => State.ended_of_runWord rfl t (Chip.runWait_far _ _ far)⟩
    case bind =>
      exact ⟨fun h => State.ended_of_runWord rfl t (Chip.inMr_runs _ h), fun h hu => State.ended_of_runWord rfl t (Chip.inMr_absent _ h hu)⟩
    case unbind =>
      exact ⟨fun h => State.ended_of_runWord rfl t (Chip.inMr_runs _ h), fun h hu => State.ended_of_runWord rfl t (Chip.inMr_absent _ h hu)⟩
    case sluiceRelease =>
      exact ⟨fun h => State.ended_of_runWord rfl t (congrArg plainEnd_ (Chip.sluiceRelease_clear _ _ h)),
        fun h hold => State.ended_of_runWord rfl t (congrArg plainEnd_ (Chip.sluiceRelease_held _ _ h hold)),
        fun h up twin hm => State.ended_of_runWord rfl t (congrArg plainEnd_ (Chip.sluiceRelease_lifts _ _ h up twin hm))⟩
    case mode =>
      exact ⟨fun h => State.ended_of_runWord rfl t (Chip.runMode_ends _ _ h), fun h => State.waitsFor_of_runWord rfl t (Chip.runMode_waits _ _ h)⟩
    case keyRoll =>
      exact ⟨fun t h => State.waitsFor_of_runWord rfl t (Chip.runRoll_removes _ blob h),
        fun t h => State.waitsFor_of_runWord rfl t (Chip.runRoll_installs _ h),
        fun t h => State.ended_of_runWord rfl t (Chip.runRoll_refused _ h)⟩
    case journalRead =>
      exact ⟨fun h => State.ended_of_runWord rfl t (Chip.runJournal_badCount _ h),
        fun h1 h2 flash => State.waitsFor_of_runWord rfl t ((Chip.runJournal_entries _ h1 h2).trans (if_pos flash)),
        fun h1 h2 ring => State.ended_of_runWord rfl t ((Chip.runJournal_entries _ h1 h2).trans (if_neg (Bool.eq_false_iff.mp ring)))⟩
    case debug =>
      exact ⟨fun h => State.ended_of_runWord rfl t (if_pos h),
        fun _ h0 hr => State.ended_of_runWord rfl t (Chip.runDebug_nothing _ _ h0 hr),
        fun h7 hr => State.ended_of_runWord rfl t (Chip.runDebug_absent _ _ h7 hr),
        fun h7 h0 hr => State.ended_of_runWord rfl t (Chip.runDebug_operates _ _ h7 h0 hr)⟩
    case denied =>
      exact congrArg (fun c => Host.Outcome.next (s.done c)) (Chip.cmdWord_denied turn hr hc hw ho hd hauth crit waived room)
    case overflows =>
      exact congrArg (fun c => Host.Outcome.next (s.done c)) (Chip.cmdWord_overflows turn hr hc hw ho hd hauth hm (decide_eq_true (by
        show _ < 64 + _ + 8 + n.toNat
        omega)))
    case refused =>
      exact congrArg (fun c => Host.Outcome.next (s.done c)) (Chip.cmdWord_refused turn hr hc hw ho hd hauth hm room)

end Sys2Proof.Machine

/-! PROOFS. Requests of the Storage Transport Engine and the writes of its connections (R311-R318). -/

namespace Sys2Proof.Machine

/-! ### Requests of the Storage Transport Engine (R312, R316) -/

/-- The first element taken is the one found. -/
theorem find?_of_takeFirst {α : Type} {p : α → Bool} {x : α} : ∀ {l rest : List α}, takeFirst p l = some (x, rest) → l.find? p = some x
  | [], _, h => by cases h
  | y :: l, rest, h => by
    by_cases hy : p y = true
    · simp only [takeFirst, hy, if_true, Option.some.injEq, Prod.mk.injEq] at h
      rw [List.find?_cons_of_pos hy, h.1]
    · rw [takeFirst, if_neg hy, Option.map_eq_some_iff] at h
      obtain ⟨⟨z, rest'⟩, h, e⟩ := h
      cases e
      rw [List.find?_cons_of_neg hy]
      exact find?_of_takeFirst h

section
variable {c : Chip} {now ch : Nat} {r : EngReq} {rest : List EngReq} {run : EngReq → Chip → List Word × Chip × Option StStop}

theorem Chip.front_find (hf : c.front ch (fun _ => true) = some (r, rest)) :
    c.up (engineTarget ch) = true ∧ takeFirst (fun r : EngReq => r.chan == ch && !r.owed && true) c.reqs = some (r, rest) ∧
      c.reqs.find? (fun r => r.chan == ch && !r.owed) = some r := by
  unfold Chip.front at hf
  split at hf
  next hu =>
    have := find?_of_takeFirst hf
    simp only [Bool.and_true] at this
    exact ⟨hu, hf, this⟩
  next => cases hf

/-- A request that need not wait is answered, and the failed reads of its connection are forgotten. -/
theorem Chip.stServe_answers (hf : c.front ch (fun _ => true) = some (r, rest)) (hw : (run r c).2.2 = none) :
    c.stServe now ch run = ((run r { c with reqs := rest }).2.1.entryForget (getBits (nth 0 r.words 0) 0 15)).answer r
      (run r { c with reqs := rest }).1 := by
  obtain ⟨hu, ht, hx⟩ := Chip.front_find hf
  simp only [Chip.stServe, hx, hw, Chip.serve, Chip.serveIf, hu, ht]
  rfl

/-- A request that needs a placement entry has it read. -/
theorem Chip.stServe_reads {i : Nat} (hf : c.front ch (fun _ => true) = some (r, rest)) (hw : (run r c).2.2 = some (.entry i)) :
    c.stServe now ch run = c.entryRead now (getBits (nth 0 r.words 0) 0 15) i := by
  obtain ⟨hu, _, hx⟩ := Chip.front_find hf
  simp only [Chip.stServe, hx, hw, hu, if_true]

/-- A request whose host access must wait stays. -/
theorem Chip.stServe_waits (hf : c.front ch (fun _ => true) = some (r, rest)) (hw : (run r c).2.2 = some .wait) :
    c.stServe now ch run = c := by
  obtain ⟨_, _, hx⟩ := Chip.front_find hf
  simp only [Chip.stServe, hx, hw]

end

/-! ### Receive requests (R312) -/

/-- The connection a request names. -/
def EngReq.conn (r : EngReq) : Nat := getBits (nth 0 r.words 0) 0 15

/-- The offset of a request's segment in its payload, and its length. -/
def EngReq.segOff (r : EngReq) : Nat := getBits (nth 0 r.words 0) 16 16
def EngReq.segLen (r : EngReq) : Nat := getBits (nth 0 r.words 0) 32 16

/-- By how many bytes a segment starts after EXP_SEQ, and before it, modulo 2^32. -/
def Chip.segAhead (u : Chip) (r : EngReq) : Nat := (getBits (nth 0 r.words 1) 0 32 + 2 ^ 32 - u.sc r.conn F.ST_CONN_EXP_SEQ) % 2 ^ 32
def Chip.segBehind (u : Chip) (r : EngReq) : Nat := (u.sc r.conn F.ST_CONN_EXP_SEQ + 2 ^ 32 - getBits (nth 0 r.words 1) 0 32) % 2 ^ 32

/-- Whether a segment leaves a gap. -/
def Chip.segGap (u : Chip) (r : EngReq) : Bool := decide (0 < u.segAhead r) && decide (u.segAhead r < 2 ^ 31)

theorem Chip.segGap_iff (u : Chip) (r : EngReq) : u.segGap r = true ↔ 0 < u.segAhead r ∧ u.segAhead r < 2 ^ 31 := by
  simp [Chip.segGap]

/-- A receive request whose words and segment are well formed. -/
def EngReq.rxForm (r : EngReq) : Prop :=
  r.words.length = 2 ∧ getBits (nth 0 r.words 0) 15 1 = 0 ∧ getBits (nth 0 r.words 0) 48 16 = 0 ∧ getBits (nth 0 r.words 1) 32 32 = 0
    ∧ r.segOff + r.segLen ≤ (if r.valid then r.plen else 0)

/-- What becomes of a receive request once its connection's state and its bytes `bs` are read without poison (R312, R315). -/
def Chip.stJudge (u : Chip) (now : Nat) (r : EngReq) (bs : List Byte) : List Word × Chip × Option StStop :=
  if (u.stCheck now r r.conn).1 ≠ Code.OK then ends ((u.stCheck now r r.conn).2.stReply r r.conn (u.stCheck now r r.conn).1 0 0)
  else if u.stState r.conn = stLost then ends (u.stReply r r.conn Code.LOST 0 0)
  else if u.segGap r = false ∧ r.segLen ≤ u.segBehind r then ends (u.stReply r r.conn Code.OLD 0 0)
  else if u.segGap r = true ∧ u.stHost r.conn 128 = some .wait then ([], u, some .wait)
  else if u.segGap r = true then
    ends (u.stLose now r r.conn (u.sc r.conn F.ST_CONN_EXP_SEQ) lossGap Code.GAP 0 0)
  else u.stSegment now r r.conn (bs.drop (u.segBehind r))

/-- A malformed receive request ends BAD_ARGUMENT. -/
theorem Chip.stReceive_malformed {c : Chip} {now : Nat} {r : EngReq} (h : ¬ r.rxForm) :
    c.stReceive now r = ends ((c.inc A.ST_RX_SEGS).stReply r r.conn Code.BAD_ARGUMENT 0 0) := by
  unfold Chip.stReceive
  refine if_pos ?_
  unfold EngReq.rxForm EngReq.segOff EngReq.segLen at h
  omega

/-- A well-formed receive request over clean words and bytes is judged by its connection. -/
theorem Chip.stReceive_judged {c d u : Chip} {now : Nat} {r : EngReq} {bs : List Byte} (h : r.rxForm)
    (hs : (c.inc A.ST_RX_SEGS).readSram now 12 r.conn 0 ((c.inc A.ST_RX_SEGS).sc r.conn F.ST_CONN_OWNER) = (false, d))
    (hn : d.bobNamed r.pkt = true) (hb : d.bobRead now (d.bobBase r.pkt + r.segOff) r.segLen r.slice = (false, bs, u)) :
    c.stReceive now r = u.stJudge now r bs := by
  unfold EngReq.rxForm at h
  unfold EngReq.conn at hs
  unfold EngReq.segOff EngReq.segLen at h hb
  unfold Chip.stReceive Chip.stJudge Chip.segGap Chip.segAhead Chip.segBehind EngReq.conn EngReq.segLen
  rw [if_neg (by omega)]
  simp only [hs, hn, hb, if_true]
  generalize (_ && decide ((getBits (nth 0 r.words 1) 0 32 + 2 ^ 32 - _) % 2 ^ 32 < 2 ^ 31)) = gap
  simp

section
variable {u : Chip} {now : Nat} {r : EngReq} {n : Nat}

theorem Chip.stCheck_invalid (h : u.sc n F.ST_CONN_VALID = 0) : u.stCheck now r n = (Code.CONN_INVALID, u) :=
  if_pos h

theorem Chip.stCheck_foreign (h : u.sc n F.ST_CONN_VALID ≠ 0) (hs : r.system = false) (ho : u.sc n F.ST_CONN_OWNER ≠ r.slice) :
    u.stCheck now r n = (Code.FOREIGN_CONN, u.raise now Flt.ST_FOREIGN_CONN 23 49 r.slice 0) := by
  simp [Chip.stCheck, h, hs, ho]

theorem Chip.stCheck_mine (h : u.sc n F.ST_CONN_VALID ≠ 0 ∧ (r.system = true ∨ u.sc n F.ST_CONN_OWNER = r.slice)) :
    u.stCheck now r n = (Code.OK, u) := by
  obtain ⟨hv, ho | ho⟩ := h <;> simp [Chip.stCheck, hv, ho]

end

section
variable {u : Chip} {now : Nat} {r : EngReq} {bs : List Byte}

theorem Chip.stJudge_invalid (h : u.sc r.conn F.ST_CONN_VALID = 0) :
    u.stJudge now r bs = ends (u.stReply r r.conn Code.CONN_INVALID 0 0) := by
  rw [Chip.stJudge, Chip.stCheck_invalid h, if_pos (show Code.CONN_INVALID ≠ Code.OK by decide)]

theorem Chip.stJudge_foreign (h : u.sc r.conn F.ST_CONN_VALID ≠ 0) (hs : r.system = false) (ho : u.sc r.conn F.ST_CONN_OWNER ≠ r.slice) :
    u.stJudge now r bs = ends ((u.raise now Flt.ST_FOREIGN_CONN 23 49 r.slice 0).stReply r r.conn Code.FOREIGN_CONN 0 0) := by
  rw [Chip.stJudge, Chip.stCheck_foreign h hs ho, if_pos (show Code.FOREIGN_CONN ≠ Code.OK by decide)]

variable (mine : u.sc r.conn F.ST_CONN_VALID ≠ 0 ∧ (r.system = true ∨ u.sc r.conn F.ST_CONN_OWNER = r.slice))
include mine

theorem Chip.stJudge_lost (hl : u.stState r.conn = stLost) : u.stJudge now r bs = ends (u.stReply r r.conn Code.LOST 0 0) := by
  rw [Chip.stJudge, Chip.stCheck_mine mine, if_neg fun hn => hn rfl, if_pos hl]

variable (live : ¬ u.stState r.conn = stLost)
include live

theorem Chip.stJudge_gap (hg : u.segGap r = true) (hh : u.stHost r.conn 128 ≠ some .wait) :
    u.stJudge now r bs = ends (u.stLose now r r.conn (u.sc r.conn F.ST_CONN_EXP_SEQ) lossGap Code.GAP 0 0) := by
  rw [Chip.stJudge, Chip.stCheck_mine mine, if_neg fun hn => hn rfl, if_neg live,
    if_neg fun h => Bool.false_ne_true (h.1.symm.trans hg), if_neg fun h => hh h.2, if_pos hg]

theorem Chip.stJudge_old (hg : u.segGap r = false) (ho : r.segLen ≤ u.segBehind r) :
    u.stJudge now r bs = ends (u.stReply r r.conn Code.OLD 0 0) := by
  rw [Chip.stJudge, Chip.stCheck_mine mine, if_neg fun hn => hn rfl, if_neg live, if_pos ⟨hg, ho⟩]

theorem Chip.stJudge_follows (hg : u.segGap r = false) (ho : u.segBehind r < r.segLen) :
    u.stJudge now r bs = u.stSegment now r r.conn (bs.drop (u.segBehind r)) := by
  rw [Chip.stJudge, Chip.stCheck_mine mine, if_neg fun hn => hn rfl, if_neg live,
    if_neg fun h => Nat.not_le.mpr ho h.2, if_neg fun h => Bool.false_ne_true (hg.symm.trans h.1), if_neg (Bool.eq_false_iff.mp hg)]

end

/-- The run of a segment's bytes from EXP_SEQ on. -/
def Chip.segRun (u : Chip) (now n : Nat) (bs : List Byte) : StRun := StRun.follow now n (bs.length + 1) bs ⟨u, u.conn n, 0, 0, none⟩

section
variable {u : Chip} {now n : Nat} {r : EngReq} {bs : List Byte}

/-- A segment taken to its end: EXP_SEQ advances and the state shown is that of the stream. -/
theorem Chip.stSegment_taken (h : (u.segRun now n bs).stop = none) :
    let f := u.segRun now n bs
    u.stSegment now r n bs = ends ((((f.chip.setConn n f.x).set (A.ST_CONN n) F.ST_CONN_EXP_SEQ ((f.x.first + f.x.pos) % 2 ^ 32)).setStState n
      f.x.shown).stReply r n Code.OK f.placed f.ended) := by
  unfold Chip.segRun at h ⊢
  simp only [Chip.stSegment, h]

/-- A segment in which the connection is lost. -/
theorem Chip.stSegment_lost {reason : Nat} {st : Status} (h : (u.segRun now n bs).stop = some (.lost reason st)) :
    let f := u.segRun now n bs
    u.stSegment now r n bs =
      ends ((f.chip.setConn n f.x).stLose now r n ((f.x.first + f.x.pos) % 2 ^ 32) reason st f.placed f.ended) := by
  unfold Chip.segRun at h ⊢
  simp only [Chip.stSegment, h]

end

section
variable {s : State} {r : EngReq} {rest : List EngReq}

/-- A receive request that ends, with its reply. -/
theorem State.stReceive_ends {d : Chip} {st : Status} {placed ended : Nat} (hf : s.found.front 672 (fun _ => true) = some (r, rest))
    (hw : (s.found.stReceive s.time r).2.2 = none)
    (hx : ({ s.found with reqs := rest } : Chip).stReceive s.time r = ends (d.stReply r r.conn st placed ended)) :
    exec .stReceive s = s.replied r [replyWord st (if ended = 0 then 0 else 1) r.chan placed,
      BitVec.ofNat 64 (d.sc r.conn F.ST_CONN_EXP_SEQ + ended % 2 ^ 16 * 2 ^ 32)] (d.entryForget r.conn) := by
  have step : s.found.stRx s.time = _ := Chip.stServe_answers hf hw
  rw [show exec .stReceive s = _ from s.on_done fun now c => c.stRx now, step, hx]
  rfl

end

/-! ### The stream of a connection (R313-R315) -/

/-- A wrong header digest loses the connection. -/
theorem StRun.headed_badDigest {r : StRun} {now n : Nat} (h : pduHd r.x.hdr = true)
    (hd : digestOf (r.x.hdr.take (pduHlen r.x.hdr)) ≠ (r.x.hdr.drop (pduHlen r.x.hdr)).take 4) :
    r.headed now n = { r with stop := some (.lost lossHdgst Code.LOST) } :=
  if_pos ⟨h, hd⟩

/-- An inconsistent common header loses the connection. -/
theorem StRun.take_badHeader {r : StRun} {now n : Nat} {bs : List Byte} (hl : 8 ≤ (r.x.hdr ++ bs).length)
    (hb : pduBad (r.chip.sc n F.ST_CONN_HDGST == 1) (r.chip.sc n F.ST_CONN_DDGST == 1) (r.x.hdr ++ bs) = true) :
    (r.take now n .common bs).stop = some (.lost lossPdu Code.LOST) := by
  simp only [StRun.take]
  rw [if_neg (Nat.not_lt.mpr hl), if_pos hb]

/-- A bit of a word is 0 or 1. -/
theorem getBits_one (w : Word) (lo : Nat) : getBits w lo 1 = 0 ∨ getBits w lo 1 = 1 := by
  have : getBits w lo 1 < 2 := Nat.mod_lt _ (by decide)
  omega

/-- Where the data of a PDU goes that asks for no XTS. -/
theorem Chip.destOf_plain (c : Chip) (now n : Nat) (h : List Byte) {ws : List Word} (hx : getBits (nth 0 ws 1) 49 1 = 0) :
    (c.destOf now n h ws).1 = if getBits (nth 0 ws 1) 48 1 = 1 ∧ getBits (nth 0 ws 1) 32 16 = pduCid h
        ∧ pduDatao h + pduDatal h ≤ getBits (nth 0 ws 1) 0 32 then some ⟨(nth 0 ws 0).toNat + pduDatao h, none⟩ else none := by
  have bit := getBits_one (nth 0 ws 1) 48
  simp only [Chip.destOf, hx, if_true]
  by_cases fits : getBits (nth 0 ws 1) 48 1 = 1 ∧ getBits (nth 0 ws 1) 32 16 = pduCid h
      ∧ pduDatao h + pduDatal h ≤ getBits (nth 0 ws 1) 0 32
  · rw [if_pos fits, if_neg (by omega)]
  · rw [if_neg fits, if_pos (by omega)]

/-- Bytes placed where the endpoint takes them. -/
theorem StRun.put_taken {r : StRun} {n a : Nat} {bs : List Byte} (h : r.chip.stHost n bs.length = none) :
    let f := r.chip.sliceFn (r.chip.sc n F.ST_CONN_OWNER)
    (r.put n a bs).chip = (r.chip.writeData (r.chip.stEp n) f.1 f.2 a bs (bs.map fun _ => false)).add A.ST_PLACED_BYTES bs.length ∧
    (r.put n a bs).placed = r.placed + bs.length ∧ (r.put n a bs).stop = r.stop := by
  simp [StRun.put, h]

/-- A PDU that ends with room for the kept slot alone loses the connection. -/
theorem StRun.close_full {r : StRun} {now n : Nat} (hb : r.x.buf = [])
    (hf : (r.chip.sc n F.ST_CONN_HEAD + 2) % r.chip.stSize n = r.chip.sc n F.ST_CONN_TAIL) :
    r.close now n = { r with stop := some (.lost lossFull Code.LOST) } := by
  simp [StRun.close, hb, hf]

/-- A PDU's end writes its entry at HEAD, which advances; INTR fires where the ring was empty (R315). -/
theorem Chip.ringPut_eq (c : Chip) (now n seq plen flags hlen placed : Nat) (hdr : List Byte) :
    let x := c.conn n
    let head := c.sc n F.ST_CONN_HEAD
    let own := c.sc n F.ST_CONN_OWNER
    let d := c.writeOrdered now (c.stHome n) (c.sliceFn own).1 (c.sliceFn own).2 (c.sc n F.ST_CONN_RING_ADDR + 128 * head)
      (ringEntry seq plen (flags + if x.phase then 1 else 0) hlen placed hdr)
    let next := (head + 1) % c.stSize n
    let u := (d.set (A.ST_CONN n) F.ST_CONN_HEAD next).setConn n { x with phase := if next = 0 then !x.phase else x.phase }
    c.ringPut now n seq plen flags hlen placed hdr =
      if head = c.sc n F.ST_CONN_TAIL then u.fireMsg now own (u.sc n F.ST_CONN_INTR) else u := by
  simp only [Chip.ringPut, beq_iff_eq]

/-- A connection that is lost: LOST with its reason and EXP_SEQ (R315). -/
def Chip.lostAt (c : Chip) (n seq reason : Nat) : Chip :=
  (((c.inc A.ST_LOST).setStState n stLost).set (A.ST_CONN_STAT n) F.ST_CONN_STAT_REASON reason).set (A.ST_CONN n) F.ST_CONN_EXP_SEQ seq

/-- A loss whose ring has no slot left writes no entry. -/
theorem Chip.lose_full {c : Chip} {now n seq reason : Nat} (h : ((c.lostAt n seq reason).sc n F.ST_CONN_HEAD + 1) %
      (c.lostAt n seq reason).stSize n = (c.lostAt n seq reason).sc n F.ST_CONN_TAIL) : c.lose now n seq reason = c.lostAt n seq reason := by
  unfold Chip.lostAt at h ⊢
  simp [Chip.lose, h]

/-- A loss between PDUs writes an entry that names its reason, where a slot is left and the endpoint takes it. -/
theorem Chip.lose_between {c : Chip} {now n seq reason : Nat} (h : ¬ ((c.lostAt n seq reason).sc n F.ST_CONN_HEAD + 1) %
      (c.lostAt n seq reason).stSize n = (c.lostAt n seq reason).sc n F.ST_CONN_TAIL)
    (hj : (c.lostAt n seq reason).jobStatus ((c.lostAt n seq reason).sc n F.ST_CONN_OWNER) ((c.lostAt n seq reason).stEp n) = Code.OK)
    (hh : (c.conn n).hdr = []) :
    c.lose now n seq reason = (c.lostAt n seq reason).ringPut now n seq 0
      ((c.conn n).flags + 64 + 256 * reason + (if reason = lossHdgst then 2 else 0)) 0 (c.conn n).placed [] := by
  unfold Chip.lostAt at h hj ⊢
  simp [Chip.lose, h, hj, hh]

/-! ### Transmit requests (R316) -/

/-- A consistent header announces a PDU at least as long as itself (R313). -/
theorem le_pduLen_of_pduBad {hd dd : Bool} {h : List Byte} (hb : pduBad hd dd h = false) : 8 ≤ pduLen h := by
  simp only [pduBad, Bool.or_eq_false_iff, decide_eq_false_iff_not, Nat.not_lt] at hb
  obtain ⟨⟨⟨⟨h1, h2⟩, _⟩, _⟩, _⟩ := hb
  exact Nat.le_trans h1 (Nat.le_trans (Nat.le_add_right _ _) h2)

/-- The length a PDU says stands in its first eight bytes. -/
theorem pduLen_take {bs : List Byte} {k : Nat} (h : 8 ≤ k) : pduLen (bs.take k) = pduLen bs := by
  rw [pduLen, pduLen, List.drop_take, List.take_take, Nat.min_eq_left (by omega)]

/-- A payload cut into PDUs is those PDUs in a row, each as long as it says. -/
theorem cutPdus_spec : ∀ {f : Nat} {bs : List Byte} {ps : List (List Byte)}, cutPdus f bs = some ps →
    ps.flatten = bs ∧ ∀ p, p ∈ ps → p.length = pduLen p ∧ 8 ≤ p.length
  | 0, _, _, h => by cases h
  | f + 1, bs, ps, h => by
    simp only [cutPdus] at h
    split at h
    next he =>
      cases h
      simpa using he.symm
    next =>
      split at h
      · cases h
      next hc =>
        obtain ⟨qs, hq, rfl⟩ := Option.map_eq_some_iff.mp h
        obtain ⟨hf, hl⟩ := cutPdus_spec hq
        simp only [Bool.or_eq_true, decide_eq_true_eq, not_or, Nat.not_lt, Bool.not_eq_true] at hc
        obtain ⟨⟨⟨_, hb⟩, _⟩, hlen⟩ := hc
        have long := le_pduLen_of_pduBad hb
        have first : (bs.take (pduLen bs)).length = pduLen bs := List.length_take_of_le hlen
        refine ⟨by rw [List.flatten_cons, hf, List.take_append_drop], fun p hp => ?_⟩
        rcases List.mem_cons.mp hp with rfl | hp
        · rw [pduLen_take long, first]
          exact ⟨rfl, long⟩
        · exact hl p hp

/-- The bobbin a transmit request names as DST, and the offset in it. -/
def EngReq.dst (r : EngReq) : Nat := getBits (nth 0 r.words 1) 0 24
def EngReq.dstOff (r : EngReq) : Nat := getBits (nth 0 r.words 1) 24 16

/-- A transmit request whose words, segment and DST are well formed. -/
def Chip.txForm (c : Chip) (r : EngReq) : Prop :=
  r.words.length = 2 ∧ getBits (nth 0 r.words 0) 15 1 = 0 ∧ getBits (nth 0 r.words 0) 48 16 = 0 ∧ getBits (nth 0 r.words 1) 40 24 = 0
    ∧ r.segOff + r.segLen ≤ (if r.valid then r.plen else 0) ∧ (c.bobNamed r.dst = true → r.dstOff + r.segLen ≤ c.bobSize r.dst)

/-- What becomes of a transmit request once its payload `bs` is read without poison (R316). -/
def Chip.stSend (c : Chip) (now : Nat) (r : EngReq) (bs : List Byte) : List Word × Chip × Option StStop :=
  let (st, c) := c.stCheck now r r.conn
  if st ≠ Code.OK then ([replyWord st 0 r.chan 0], c, none)
  else if !c.boundTo_ r true r.dst then ([replyWord Code.NOT_BOUND 0 r.chan 0], c, none)
  else
    match cutPdus (r.segLen + 1) bs with
    | none => ([replyWord Code.PARTIAL_PDU 0 r.chan 0], c, none)
    | some ps =>
      match Chip.sendPdus now r.conn ps c with
      | (.error (.lost reason st), c) => ([replyWord st 0 r.chan 0], c.lose now r.conn (c.sc r.conn F.ST_CONN_EXP_SEQ) reason, none)
      | (.error why, c) => ([], c, some why)
      | (.ok out, c) =>
        let (ok, c) := c.bobStore now (c.bobBase r.dst + r.dstOff) out r.slice
        if ok then ([replyWord Code.OK 0 r.chan r.segLen], c.report 7 (c.sc r.conn F.ST_CONN_OWNER) ps.length (stamp now), none)
        else ([replyWord Code.POISONED 0 r.chan 0], c, none)

/-- A malformed transmit request ends BAD_ARGUMENT. -/
theorem Chip.stTransmit_malformed {c : Chip} {now : Nat} {r : EngReq} (h : ¬ (c.inc A.ST_TX_SEGS).txForm r) :
    c.stTransmit now r = ([replyWord Code.BAD_ARGUMENT 0 r.chan 0], c.inc A.ST_TX_SEGS, none) := by
  unfold Chip.stTransmit
  refine if_pos ?_
  unfold Chip.txForm EngReq.segOff EngReq.segLen EngReq.dst EngReq.dstOff at h
  refine Decidable.byContradiction fun hn => h ?_
  simpa only [ne_eq, not_or, not_and, Nat.not_lt, Decidable.not_not] using hn

/-- A well-formed transmit request over a clean payload goes by its connection. -/
theorem Chip.stTransmit_sends {c d : Chip} {now : Nat} {r : EngReq} {bs : List Byte} (h : (c.inc A.ST_TX_SEGS).txForm r)
    (hn : (c.inc A.ST_TX_SEGS).bobNamed r.pkt = true)
    (hb : (c.inc A.ST_TX_SEGS).bobRead now ((c.inc A.ST_TX_SEGS).bobBase r.pkt + r.segOff) r.segLen r.slice = (false, bs, d)) :
    c.stTransmit now r = d.stSend now r bs := by
  unfold Chip.txForm EngReq.segOff EngReq.segLen EngReq.dst EngReq.dstOff at h
  unfold EngReq.segOff EngReq.segLen at hb
  unfold Chip.stTransmit
  rw [if_neg (by simpa only [ne_eq, not_or, not_and, Nat.not_lt, Decidable.not_not] using h)]
  simp only [hn, hb, if_true]
  rfl

section
variable {d : Chip} {now : Nat} {r : EngReq} {bs : List Byte}

theorem Chip.stSend_invalid (h : d.sc r.conn F.ST_CONN_VALID = 0) :
    d.stSend now r bs = ([replyWord Code.CONN_INVALID 0 r.chan 0], d, none) := by
  rw [Chip.stSend, Chip.stCheck_invalid h]
  rfl

theorem Chip.stSend_foreign (h : d.sc r.conn F.ST_CONN_VALID ≠ 0) (hs : r.system = false) (ho : d.sc r.conn F.ST_CONN_OWNER ≠ r.slice) :
    d.stSend now r bs = ([replyWord Code.FOREIGN_CONN 0 r.chan 0], d.raise now Flt.ST_FOREIGN_CONN 23 49 r.slice 0, none) := by
  rw [Chip.stSend, Chip.stCheck_foreign h hs ho]
  rfl

variable (mine : d.sc r.conn F.ST_CONN_VALID ≠ 0 ∧ (r.system = true ∨ d.sc r.conn F.ST_CONN_OWNER = r.slice))
include mine

theorem Chip.stSend_notBound (hb : d.boundTo_ r true r.dst = false) :
    d.stSend now r bs = ([replyWord Code.NOT_BOUND 0 r.chan 0], d, none) := by
  simp [Chip.stSend, Chip.stCheck_mine mine, hb]

variable (bound : d.boundTo_ r true r.dst = true)
include bound

theorem Chip.stSend_partial (hc : cutPdus (r.segLen + 1) bs = none) :
    d.stSend now r bs = ([replyWord Code.PARTIAL_PDU 0 r.chan 0], d, none) := by
  simp [Chip.stSend, Chip.stCheck_mine mine, bound, hc]

theorem Chip.stSend_sent {ps : List (List Byte)} {out : List Byte} {u v : Chip} (hc : cutPdus (r.segLen + 1) bs = some ps)
    (hp : Chip.sendPdus now r.conn ps d = (.ok out, u)) (hs : u.bobStore now (u.bobBase r.dst + r.dstOff) out r.slice = (true, v)) :
    d.stSend now r bs =
      ([replyWord Code.OK 0 r.chan r.segLen], v.report 7 (v.sc r.conn F.ST_CONN_OWNER) ps.length (stamp now), none) := by
  simp [Chip.stSend, Chip.stCheck_mine mine, bound, hc, hp, hs]

theorem Chip.stSend_lost {ps : List (List Byte)} {reason : Nat} {st : Status} {u : Chip} (hc : cutPdus (r.segLen + 1) bs = some ps)
    (hp : Chip.sendPdus now r.conn ps d = (.error (.lost reason st), u)) :
    d.stSend now r bs = ([replyWord st 0 r.chan 0], u.lose now r.conn (u.sc r.conn F.ST_CONN_EXP_SEQ) reason, none) := by
  simp [Chip.stSend, Chip.stCheck_mine mine, bound, hc, hp]

end

/-- A transmit request that ends, with its reply. -/
theorem State.stTransmit_ends {s : State} {r : EngReq} {rest : List EngReq} {ws : List Word} {d : Chip}
    (hf : s.found.front 673 (fun _ => true) = some (r, rest)) (hw : (s.found.stTransmit s.time r).2.2 = none)
    (hx : ({ s.found with reqs := rest } : Chip).stTransmit s.time r = (ws, d, none)) :
    exec .stTransmit s = s.replied r ws (d.entryForget r.conn) := by
  have step : s.found.stTx s.time = _ := Chip.stServe_answers hf hw
  rw [show exec .stTransmit s = _ from s.on_done fun now c => c.stTx now, step, hx]
  rfl

/-! ### A write of several units of one register element (R31) -/

/-- Units of one element in a row are one piece. -/
theorem Chip.cut_element {c : Chip} {r : RegRow} {base : Nat} (hu : ∀ j < r.words,
      findRow (regionRows (base + 8 * j)) (base + 8 * j) = some (r, j) ∧ c.reserved (base + 8 * j) = false ∧
      c.place (base + 8 * j) = none ∧ millOffset (base + 8 * j) = none) :
    ∀ (ws : List Word) (j : Nat), ws ≠ [] → j + ws.length ≤ r.words → ∃ us, c.cut (base + 8 * j) ws = some [.elem ⟨r, base, us⟩]
  | [], _, h, _ => absurd rfl h
  | [v], j, _, hl => by
    obtain ⟨hr, hres, hp, hm⟩ := hu j hl
    exact ⟨[(j, v)], by rw [Chip.cut_unit v hr hres hp fun m o h => by simp [hm] at h, Nat.add_sub_cancel]⟩
  | v :: w :: ws, j, _, hl => by
    simp only [List.length_cons] at hl
    obtain ⟨us, hus⟩ := Chip.cut_element hu (w :: ws) (j + 1) (List.cons_ne_nil _ _) (by simp only [List.length_cons]; omega)
    obtain ⟨hr, hres, hp, hm⟩ := hu j (by omega)
    have piece := Chip.pieceOf_register v hr hp fun m o h => by simp [hm] at h
    rw [Nat.add_sub_cancel] at piece
    refine ⟨(j, v) :: us, ?_⟩
    rw [Chip.cut, hres, piece, show base + 8 * j + 8 = base + 8 * (j + 1) by omega, hus]
    simp [joinPiece]

/-! ### Writes of ST_CONN (R311, R351) -/

/-- Unit `j` of element `i` of a register array of one dimension is its word `j`. -/
theorem RegRow.wordAt_array {r : RegRow} {count stride i j : Nat} (hd : r.dims = [(count, stride)]) (hs : 8 * r.words ≤ stride) (hi : i < count)
    (hj : j < r.words) : r.wordAt (r.base + stride * i + 8 * j) = some j := by
  have offset : elementOffset r.dims (r.base + stride * i + 8 * j - r.base) = some (8 * j) := by
    rw [hd, Nat.add_assoc, Nat.add_sub_cancel_left, elementOffset, Nat.mul_add_div (by omega), Nat.div_eq_of_lt (by omega),
      Nat.mul_add_mod, Nat.mod_eq_of_lt (by omega)]
    exact if_pos hi
  rw [RegRow.wordAt, if_neg (by omega), offset]
  simp [hj]

/-- The row of ST_CONN in the register table. -/
def stConnRow : RegRow := nth ⟨0, [], 0, []⟩ stRows 0

theorem stConn_region (n j : Nat) : A.ST_CONN n + 8 * j = 0xC0100000 + (32 * n + 8 * j) := Nat.add_assoc ..

theorem findRow_stConn {n j : Nat} (hn : n < 32768) (hj : j < 4) :
    findRow (regionRows (A.ST_CONN n + 8 * j)) (A.ST_CONN n + 8 * j) = some (stConnRow, j) := by
  have region : (A.ST_CONN n + 8 * j) / 0x10000000 = 12 := by
    rw [stConn_region]
    omega
  have rows : regionRows (A.ST_CONN n + 8 * j) = stConnRow :: stRows.tail := by
    rw [regionRows, region]
    rfl
  have word : stConnRow.wordAt (A.ST_CONN n + 8 * j) = some j := RegRow.wordAt_array (r := stConnRow) rfl (by decide) hn hj
  rw [rows, findRow, word]

theorem stConn_no_window (c : Chip) {n j : Nat} (hn : n < 32768) (hj : j < 4) :
    c.reserved (A.ST_CONN n + 8 * j) = false ∧ c.place (A.ST_CONN n + 8 * j) = none ∧ millOffset (A.ST_CONN n + 8 * j) = none := by
  have region : A.ST_CONN n + 8 * j = 0xC0100000 + (32 * n + 8 * j) := Nat.add_assoc ..
  have mill : millOffset (A.ST_CONN n + 8 * j) = none := if_neg (by omega)
  have place : c.place (A.ST_CONN n + 8 * j) = none := by
    rw [Chip.place, if_neg (by omega), if_neg (by omega), mill]
  refine ⟨?_, place, mill⟩
  have beyond : ¬ A.ST_CONN n + 8 * j < 0x60100020 := by omega
  simp [Chip.reserved, place, mill, findRow_stConn hn hj, beyond]

section
variable {d : Chip} {now n : Nat} {old : List Word}

/-- Whether the fields of ST_CONN(n) lie in their ranges. -/
def Chip.connInRange (d : Chip) (n : Nat) : Prop :=
  4 ≤ d.sc n F.ST_CONN_RING_LOG2 ∧ d.sc n F.ST_CONN_PLACE_LOG2 ≤ 12 ∧ d.sc n F.ST_CONN_RING_ADDR % 128 = 0
    ∧ d.sc n F.ST_CONN_PLACE_ADDR % 32 = 0 ∧ d.sc n F.ST_CONN_TAIL < d.stSize n

/-- Whether ST_CONN(n) holds what it held, EXP_SEQ and TAIL apart. -/
def Chip.connSame (d : Chip) (n : Nat) (old : List Word) : Prop :=
  setBits (d.rd (A.ST_CONN n)) 32 32 0 = setBits (nth 0 old 0) 32 32 0 ∧ d.rd (A.ST_CONN n + 8) = nth 0 old 1
    ∧ d.rd (A.ST_CONN n + 24) = nth 0 old 3 ∧ setBits (d.rd (A.ST_CONN n + 16)) 32 16 0 = setBits (nth 0 old 2) 32 16 0

/-- Whether the quota of the owner of connection `n` has room for it (R351). -/
def Chip.connRoom (d : Chip) (now n : Nat) : Prop :=
  d.sc n F.ST_CONN_OWNER = 0 ∨
    (d.get (A.SM_SLICE (d.sc n F.ST_CONN_OWNER)) F.SM_SLICE_ST_USED <
        getBits (d.rdAt (stamp now) (A.SM_SLICE (d.sc n F.ST_CONN_OWNER) + 8)) 33 16
      ∧ d.drains (d.sc n F.ST_CONN_OWNER) F.SM_RESIZE_REL_ST = false)

theorem Chip.connCheck_outOfRange (h : ¬ d.connInRange n) : d.connCheck now n old = Code.BAD_ARGUMENT := by
  refine if_pos ?_
  unfold Chip.connInRange at h
  omega

variable (range : d.connInRange n)
include range

/-- What ST_CONN's check comes to once its fields are in range. -/
theorem Chip.connCheck_inRange : d.connCheck now n old =
    if getBits (nth 0 old 0) 0 1 = 1 then
      if setBits (d.rd (A.ST_CONN n)) 32 32 0 = setBits (nth 0 old 0) 32 32 0 ∧ d.rd (A.ST_CONN n + 8) = nth 0 old 1
        ∧ d.rd (A.ST_CONN n + 24) = nth 0 old 3 ∧ setBits (d.rd (A.ST_CONN n + 16)) 32 16 0 = setBits (nth 0 old 2) 32 16 0
      then Code.OK else Code.CONN_BUSY
    else if d.sc n F.ST_CONN_VALID = 1 ∧ d.sc n F.ST_CONN_OWNER ≠ 0 ∧
        (getBits (d.rdAt (stamp now) (A.SM_SLICE (d.sc n F.ST_CONN_OWNER) + 8)) 33 16 <
            d.get (A.SM_SLICE (d.sc n F.ST_CONN_OWNER)) F.SM_SLICE_ST_USED + 1
          ∨ d.drains (d.sc n F.ST_CONN_OWNER) F.SM_RESIZE_REL_ST = true) then Code.QUOTA
    else Code.OK := by
  obtain ⟨h1, h2, h3, h4, h5⟩ := range
  have inside : ¬ (d.sc n F.ST_CONN_RING_LOG2 < 4 ∨ 12 < d.sc n F.ST_CONN_PLACE_LOG2 ∨ d.sc n F.ST_CONN_RING_ADDR % 128 ≠ 0
      ∨ d.sc n F.ST_CONN_PLACE_ADDR % 32 ≠ 0 ∨ d.stSize n ≤ d.sc n F.ST_CONN_TAIL) := by omega
  unfold Chip.connCheck
  simp only [if_neg inside, beq_iff_eq, Bool.and_eq_true, and_assoc, Nat.mul_zero, Nat.mul_one, Nat.add_zero, Nat.reduceMul]

section
variable (was : getBits (nth 0 old 0) 0 1 = 1)
include was

theorem Chip.connCheck_same (h : d.connSame n old) : d.connCheck now n old = Code.OK := by
  rw [Chip.connCheck_inRange range, if_pos was]
  exact if_pos h

theorem Chip.connCheck_busy (h : ¬ d.connSame n old) : d.connCheck now n old = Code.CONN_BUSY := by
  rw [Chip.connCheck_inRange range, if_pos was]
  exact if_neg h

end

section
variable (was : ¬ getBits (nth 0 old 0) 0 1 = 1)
include was

theorem Chip.connCheck_idle (h : d.sc n F.ST_CONN_VALID = 0) : d.connCheck now n old = Code.OK := by
  rw [Chip.connCheck_inRange range, if_neg was]
  exact if_neg fun h' => by omega

theorem Chip.connCheck_quota (hv : d.sc n F.ST_CONN_VALID = 1) (h : ¬ d.connRoom now n) : d.connCheck now n old = Code.QUOTA := by
  rw [Chip.connCheck_inRange range, if_neg was]
  refine if_pos ⟨hv, fun h0 => h (.inl h0), ?_⟩
  refine Decidable.byContradiction fun hn => ?_
  obtain ⟨h1, h2⟩ := not_or.mp hn
  exact h (.inr ⟨by omega, Bool.eq_false_iff.mpr h2⟩)

theorem Chip.connCheck_room (h : d.connRoom now n) : d.connCheck now n old = Code.OK := by
  rw [Chip.connCheck_inRange range, if_neg was]
  refine if_neg ?_
  rintro ⟨_, owned, full | drains⟩ <;> rcases h with h | ⟨h1, h2⟩
  · exact owned h
  · omega
  · exact owned h
  · exact Bool.false_ne_true (h2.symm.trans drains)

end
end

section
variable {d : Chip} {n : Nat} {old : List Word}

/-- TAIL alone leaves a valid connection as it is. -/
theorem Chip.connPut_tail (was : getBits (nth 0 old 0) 0 1 = 1) (h : d.sc n F.ST_CONN_EXP_SEQ = getBits (nth 0 old 0) 32 32) :
    d.connPut n old = d := by
  simp only [Chip.connPut, beq_iff_eq]
  rw [if_pos was, if_pos h.symm]

/-- A connection at the start of its stream, at HEADER. -/
def Chip.connStart (d : Chip) (n : Nat) (phase : Bool) : Chip :=
  (d.setConn n { StConn.init with first := d.sc n F.ST_CONN_EXP_SEQ, phase := phase }).setStState n stHeader

theorem Chip.connPut_resync (was : getBits (nth 0 old 0) 0 1 = 1) (h : d.sc n F.ST_CONN_EXP_SEQ ≠ getBits (nth 0 old 0) 32 32) :
    d.connPut n old = (d.connStart n (d.conn n).phase).setSram 12 n 0 := by
  simp only [Chip.connPut, beq_iff_eq]
  rw [if_pos was, if_neg h.symm]
  rfl

theorem Chip.connPut_idle (was : ¬ getBits (nth 0 old 0) 0 1 = 1) (h : d.sc n F.ST_CONN_VALID = 0) : d.connPut n old = d := by
  simp only [Chip.connPut, beq_iff_eq]
  rw [if_neg was, if_neg (by omega)]

/-- Whether an outstanding read is one of an entry of the placement table of connection `n`. -/
def HostReq.placing (n : Nat) (r : HostReq) : Bool :=
  match r.use with
  | .place m _ => m == n
  | _ => false

/-- A connection that becomes valid: it starts with an empty ring, what was read for it is forgotten, its slice counts it (R311, R351). -/
theorem Chip.connPut_valid (was : ¬ getBits (nth 0 old 0) 0 1 = 1) (h : d.sc n F.ST_CONN_VALID = 1) :
    let u := ((d.connStart n true).set (A.ST_CONN n) F.ST_CONN_HEAD 0).deadReqs (HostReq.placing n)
    let v : Chip := { u with sto := { u.sto with cache := u.sto.cache.filter fun p => p.1.1 != n,
                                                 failed := u.sto.failed.filter fun p => p.1.1 != n } }
    d.connPut n old = (v.setSram 12 n 0).stUsed ((v.setSram 12 n 0).sc n F.ST_CONN_OWNER) true := by
  simp only [Chip.connPut, beq_iff_eq]
  rw [if_neg was, if_pos h]
  rfl

end

/-- The words of ST_CONN(n). -/
def Chip.connWords (c : Chip) (n : Nat) : List Word := (List.range 4).map fun j => c.rd (A.ST_CONN n + 8 * j)

/-- The index of an element of a register array of one dimension. -/
theorem Elem.i_array {e : Elem} {count stride i : Nat} (hd : e.row.dims = [(count, stride)]) (hb : e.base = e.row.base + stride * i)
    (hs : 0 < stride) : e.i = i := by
  simp only [Elem.i, hd, hb, Nat.add_sub_cancel_left, Nat.mul_div_cancel_left _ hs]

theorem regUp_stConn (c : Chip) {n j : Nat} (hn : n < 32768) (hj : j < 4) : c.regUp (A.ST_CONN n + 8 * j) = c.up 41 := by
  have region : (A.ST_CONN n + 8 * j) / 0x10000000 = 12 := by
    rw [stConn_region]
    omega
  rw [Chip.regUp, region]
  rfl

/-- The rule of a write of ST_CONN(n). -/
theorem Chip.hook_stConn (c d : Chip) (now : Nat) {n : Nat} (hn : n < 32768) (us : List (Nat × Word)) :
    c.hook d now ⟨stConnRow, A.ST_CONN n, us⟩ =
      (d.connCheck now n (c.connWords n), if d.connCheck now n (c.connWords n) = Code.OK then d.connPut n (c.connWords n) else c) := by
  have region : A.ST_CONN n / 0x10000000 = 12 := by
    have := stConn_region n 0
    omega
  have row : stConnRow.base = A.ST_CONN 0 := rfl
  have index : (⟨stConnRow, A.ST_CONN n, us⟩ : Elem).i = n := Elem.i_array (count := 32768) (stride := 0x20) rfl rfl (by decide)
  have rule : c.hook d now ⟨stConnRow, A.ST_CONN n, us⟩ = c.stHook d now ⟨stConnRow, A.ST_CONN n, us⟩ := by
    rw [Chip.hook, region]
    rfl
  rw [rule, Chip.stHook, if_pos row, index]
  by_cases h : d.connCheck now n (c.connWords n) = Code.OK
  · rw [if_pos h]
    exact if_pos h
  · rw [if_neg h]
    exact if_neg h

/-- A write of ST_CONN(n) ends as its check says, and where that is OK does what an accepted write does. -/
theorem State.connWrite_wrote {s : State} {n : Fin 32768} {k : Fin 4} {ws : List Word} (hw : s.writable (A.ST_CONN n) = true) (hne : ws ≠ [])
    (hl : k.val + ws.length ≤ 4) :
    let d := s.found.filled s.time (A.ST_CONN n + 8 * k.val) ws
    let st := d.connCheck s.time n (s.found.connWords n)
    exec (.connWrite n k ws) s = s.wrote st (if st = Code.OK then d.connPut n (s.found.connWords n) else s.found) := by
  have region := stConn_region n k
  obtain ⟨us, hc⟩ := Chip.cut_element (c := s.found) (r := stConnRow) (base := A.ST_CONN n)
    (fun j hj => ⟨findRow_stConn n.isLt hj, stConn_no_window _ n.isLt hj⟩) ws k hne hl
  have up0 : s.found.regUp (A.ST_CONN n) = s.found.up 41 := regUp_stConn s.found n.isLt (j := 0) (by decide)
  have here : s.writable (A.ST_CONN n + 8 * k.val) = true := by
    rw [State.writable, regUp_stConn s.found n.isLt k.isLt, ← up0]
    exact hw
  have up : s.found.regUp (A.ST_CONN n) = true := by
    rw [State.writable, Bool.and_eq_true] at hw
    exact hw.2
  have plain : inSat (A.ST_CONN n + 8 * k.val) = false := by
    have : ¬ A.ST_CONN n + 8 * k.val < A.FT_SAT 1024 := by
      rw [region, A.FT_SAT]
      omega
    simp [inSat, this]
  have aligned : (A.ST_CONN n + 8 * k.val) % 8 = 0 := by omega
  have wrote := s.wrote_elem _ ws _ _ here plain aligned hc up (s.found.hook_stConn _ s.time n.isLt us)
  exact wrote

section
variable {s : State} {n : Fin 32768} {k : Fin 4} {ws : List Word} (hw : s.writable (A.ST_CONN n) = true) (hne : ws ≠ [])
  (hl : k.val + ws.length ≤ 4)
include hw hne hl

theorem State.connWrite_refused {st : Status} (hs : st ≠ Code.OK)
    (hc : (s.found.filled s.time (A.ST_CONN n + 8 * k.val) ws).connCheck s.time n (s.found.connWords n) = st) :
    exec (.connWrite n k ws) s = s.wrote st s.found := by
  have wrote := State.connWrite_wrote hw hne hl
  simp only [hc, if_neg hs] at wrote
  exact wrote

theorem State.connWrite_accepted {d : Chip}
    (hc : (s.found.filled s.time (A.ST_CONN n + 8 * k.val) ws).connCheck s.time n (s.found.connWords n) = Code.OK)
    (hd : (s.found.filled s.time (A.ST_CONN n + 8 * k.val) ws).connPut n (s.found.connWords n) = d) :
    exec (.connWrite n k ws) s = s.wrote Code.OK d := by
  have wrote := State.connWrite_wrote hw hne hl
  simp only [hc, if_true, hd] at wrote
  exact wrote

end

/-- Settles O41: requests by what their connection says of them, writes of ST_CONN by its check. -/
theorem storageTransport : Obligations.StorageTransport := by
  refine ⟨fun s r rest hf => ?receive, ⟨fun r now n hd hb => ?headed, fun r now n bs hl hb => StRun.take_badHeader hl hb,
      fun c now n h ws hx => c.destOf_plain now n h hx, fun r n a bs h => StRun.put_taken h, fun r now n hb hf => ?close,
      fun c now n seq plen flags hlen placed hdr => c.ringPut_eq now n seq plen flags hlen placed hdr,
      fun c now n seq reason => ⟨fun h => Chip.lose_full h, fun h hj hh => Chip.lose_between h hj hh⟩⟩,
    ⟨fun s r rest hf => ?transmit, fun f bs ps h => cutPdus_spec h, fun c now n p h => if_pos (.inl h)⟩,
    fun s n k ws hw hne hl => ?write⟩
  case headed =>
    rw [StRun.headed_badDigest hd hb]
    exact ⟨rfl, rfl⟩
  case close =>
    rw [StRun.close_full hb hf]
    exact ⟨rfl, rfl⟩
  case receive =>
    have serve : exec .stReceive s = .next (s.done (s.found.stRx s.time)) := s.on_done fun now c => c.stRx now
    have malformed {h : _} : (s.found.stReceive s.time r).2.2 = none := congrArg (fun x => x.2.2) (Chip.stReceive_malformed (c := s.found) h)
    refine ⟨fun h => State.stReceive_ends hf (malformed (h := h)) (Chip.stReceive_malformed h), fun h => ?waits, fun i h => ?reads,
      fun d u bs h hw hs hn hb => ?judged⟩
    case waits => rw [serve, Chip.stRx, Chip.stServe_waits hf h]
    case reads => rw [serve, Chip.stRx, Chip.stServe_reads hf h]
    case judged =>
      have judged := Chip.stReceive_judged (c := { s.found with reqs := rest }) h hs hn hb
      exact ⟨fun hv => State.stReceive_ends hf hw (judged.trans (Chip.stJudge_invalid (Decidable.not_not.mp hv))),
        fun hv hy ho => State.stReceive_ends hf hw (judged.trans (Chip.stJudge_foreign hv hy ho)),
        fun mine hl => State.stReceive_ends hf hw (judged.trans (Chip.stJudge_lost mine hl)),
        fun mine hl hg hh => State.stReceive_ends hf hw (judged.trans (Chip.stJudge_gap mine hl ((u.segGap_iff r).mpr hg) hh)),
        fun mine hl hg ho => State.stReceive_ends hf hw
          (judged.trans (Chip.stJudge_old mine hl (Bool.eq_false_iff.mpr (hg ∘ (u.segGap_iff r).mp)) ho)),
        fun mine hl hg ho =>
          have follows := judged.trans (Chip.stJudge_follows mine hl (Bool.eq_false_iff.mpr (hg ∘ (u.segGap_iff r).mp)) ho)
          ⟨fun ht => State.stReceive_ends hf hw (follows.trans (Chip.stSegment_taken ht)),
            fun _ _ ht => State.stReceive_ends hf hw (follows.trans (Chip.stSegment_lost ht))⟩⟩
  case transmit =>
    have serve : exec .stTransmit s = .next (s.done (s.found.stTx s.time)) := s.on_done fun now c => c.stTx now
    have malformed {h : _} : (s.found.stTransmit s.time r).2.2 = none := congrArg (fun x => x.2.2) (Chip.stTransmit_malformed (c := s.found) h)
    refine ⟨fun h => State.stTransmit_ends hf (malformed (h := h)) (Chip.stTransmit_malformed h), fun h => ?waits, fun i h => ?reads,
      fun bs d h hw hn hb => ?sends⟩
    case waits => rw [serve, Chip.stTx, Chip.stServe_waits hf h]
    case reads => rw [serve, Chip.stTx, Chip.stServe_reads hf h]
    case sends =>
      have sends := Chip.stTransmit_sends (c := { s.found with reqs := rest }) h hn hb
      exact ⟨fun hv => State.stTransmit_ends hf hw (sends.trans (Chip.stSend_invalid hv)),
        fun hv hy ho => State.stTransmit_ends hf hw (sends.trans (Chip.stSend_foreign hv hy ho)),
        fun mine hb => State.stTransmit_ends hf hw (sends.trans (Chip.stSend_notBound mine hb)),
        fun mine hb hc => State.stTransmit_ends hf hw (sends.trans (Chip.stSend_partial mine hb hc)),
        fun _ _ _ _ mine hb hc hp hs => State.stTransmit_ends hf hw (sends.trans (Chip.stSend_sent mine hb hc hp hs)),
        fun _ _ _ _ mine hb hc hp => State.stTransmit_ends hf hw (sends.trans (Chip.stSend_lost mine hb hc hp))⟩
  case write =>
    exact ⟨fun h => State.connWrite_refused hw hne hl (by decide) (Chip.connCheck_outOfRange h),
      fun h was hs => State.connWrite_refused hw hne hl (by decide) (Chip.connCheck_busy h was hs),
      fun h was hs hq => State.connWrite_accepted hw hne hl (Chip.connCheck_same h was hs) (Chip.connPut_tail was hq),
      fun h was hs hq => State.connWrite_accepted hw hne hl (Chip.connCheck_same h was hs) (Chip.connPut_resync was hq),
      fun h was hv => State.connWrite_accepted hw hne hl (Chip.connCheck_idle h was hv) (Chip.connPut_idle was hv),
      fun h was hv hr => State.connWrite_refused hw hne hl (by decide) (Chip.connCheck_quota h was hv hr),
      fun h was hv hr => State.connWrite_accepted hw hne hl (Chip.connCheck_room h was hr) (Chip.connPut_valid was hv)⟩

end Sys2Proof.Machine

/-! PROOFS. The sparse memories: their canonical form, and what a read gives after a write (R1, R32). -/

namespace Sys2Proof.Machine

/-! ### Byte memories and registers (R1, R32) -/

/-- The model's element of a list is the library's. -/
theorem nth_eq_getD {α : Type} (d : α) : ∀ (l : List α) (k : Nat), nth d l k = l.getD k d
  | [], _ => rfl
  | _ :: _, 0 => rfl
  | _ :: l, k + 1 => nth_eq_getD d l k

/-- What an index reads as once a range has been emptied. -/
theorem mget_mclear {α : Type} (d : α) (a b k : Nat) : ∀ m : SMap α, mget d (mclear m a b) k = if a ≤ k ∧ k < b then d else mget d m k
  | [] => (ite_self d).symm
  | (i, v) :: m => by
    have ih := mget_mclear d a b k m
    simp only [mclear, List.filter_cons] at ih ⊢
    by_cases hi : i < a ∨ b ≤ i
    · rw [if_pos (by simpa using hi), mget, mget, ih]
      by_cases hk : k = i
      · rw [if_pos hk, if_neg (by omega), if_pos hk]
      · rw [if_neg hk, if_neg hk]
    · rw [if_neg (by simpa using hi), ih, mget]
      by_cases hk : k = i
      · rw [if_pos (by omega), if_pos (by omega)]
      · rw [if_neg hk]

/-- What any register reads as after a write of one. -/
theorem Chip.rd_wr (c : Chip) (a b : Nat) (v : Word) : (c.wr a v).rd b = if b = a then v else c.rd b := by
  split
  next h => rw [h, Chip.rd_wr_self]
  next h => exact c.rd_wr_ne v h

/-- A register write keeps the canonical form. -/
theorem Chip.wr_canonical (c : Chip) (a : Nat) (v : Word) (h : c.canonical = true) : (c.wr a v).canonical = true := by
  simp only [Chip.canonical, Bool.and_eq_true, Chip.wr_mem, Chip.wr_mills] at h ⊢
  obtain ⟨⟨⟨regs, bob⟩, qdr⟩, mills⟩ := h
  exact ⟨⟨⟨mset_wf resetWord a v regs, bob⟩, qdr⟩, mills⟩

/-- Settles O7, by the rules of the sparse arrays. -/
theorem memoryKeepsForm : Obligations.MemoryKeepsForm :=
  ⟨fun _ a bs h => wrBytes_wf bs a h, fun _ a k bs h => (rdByte_wrBytes_in bs a h).trans (nth_eq_getD 0 bs k).symm,
    fun _ a _ bs h => rdByte_wrBytes_out bs a h, Chip.rd_wr, Chip.wr_canonical, fun _ a b h => mclear_wf _ a b h,
    fun m a b k => mget_mclear 0 a b k m⟩

end Sys2Proof.Machine

/-! PROOFS. Dispatch, threads taken, verdicts passed, and the writes of the steering state (R35, R37, R101, R135-R140, R151, R158). -/

namespace Sys2Proof.Machine

/-! ### The packet Dispatch serves next (R135-R140, R158) -/

/-- The metadata of the packet served next, read with the round robin at `w`: whether a word is poisoned, and the adapter after it (R140). -/
def Chip.metaRead (c : Chip) (now w : Nat) (p : Packet) : Bool × Chip :=
  let c : Chip := { c with disp := { c.disp with wrr := w } }
  Chip.readSrams now 1 0 0 2 (2 * c.bobSlot p.bob) c

section
variable {c d : Chip} {now pk w : Nat} {p : Packet} (up : c.open1 23 = true) (pick : c.dispatchPick = some (pk, p, w))
include up pick

theorem Chip.dispatch_poisoned (read : c.metaRead now w p = (true, d)) :
    c.dispatch now = (((d.inc A.MA_DISPATCH_POISON).raise now Flt.MA_META_POISON 23 63 0 0).billIn p.src (preSlice p) p.frameLen
      p.istamp).discardPkt now pk p := by
  simp only [Chip.metaRead] at read
  simp [Chip.dispatch, up, pick, read]

section
variable (read : c.metaRead now w p = (false, d))
include read

theorem Chip.dispatch_invalid (invalid : (d.steer p).valid = false) :
    let e := d.steer p
    c.dispatch now = d.invalidEntry now pk { p with profile := e.profile, slice := e.slice, steer := e.steer, hash := e.hash } := by
  simp only [Chip.metaRead] at read
  simp [Chip.dispatch, up, pick, read, invalid]

variable (valid : (d.steer p).valid = true)
include valid

theorem Chip.dispatch_served {m : Nat} (mill : d.servingMill (d.steer p).mill = some m) :
    c.dispatch now = d.enterQueue now pk m p (d.steer p) := by
  simp only [Chip.metaRead] at read
  simp [Chip.dispatch, up, pick, read, valid, mill]

theorem Chip.dispatch_unserved (mill : d.servingMill (d.steer p).mill = none) :
    c.dispatch now = ((d.inc A.MA_DISPATCH_NO_MILL).billIn p.src (preSlice p) p.frameLen p.istamp).discardPkt now pk p := by
  simp only [Chip.metaRead] at read
  simp [Chip.dispatch, up, pick, read, valid, mill]

end
end

/-! ### Threads taken, verdicts passed (R37, R101, R138) -/

theorem leastBy_mem {α : Type} {f : α → Nat} {x : α} : ∀ {l : List α}, leastBy f l = some x → x ∈ l
  | [], h => by cases h
  | y :: l, h => by
    rw [leastBy] at h
    rcases hl : leastBy f l with _ | z <;> rw [hl] at h <;> dsimp only at h
    case none =>
      cases h
      exact .head _
    case some =>
      split at h <;> cases h
      · exact .head _
      · exact .tail _ (leastBy_mem hl)

/-- A Mill with threads to spare takes one for the oldest packet of its dispatch queue. -/
theorem Chip.takeThread_takes {c : Chip} {now m pk t : Nat} {rest : List Nat} {p : Packet} (hm : c.open1 m = true) (up : c.open1 23 = true)
    (clock : memNat m c.pwr.clkBusy = false) (waits : c.forkWaits m = false) (spare : c.forkReserve m < c.freeCount m)
    (queue : c.dq m = pk :: rest) (hp : c.pkt pk = some p) (ht : c.pickThread m none = some t) :
    c.takeThread now m = ((((c.setDq m rest).setPkt pk (some { p with stage := 2 })).cleanWindows m t).setTh m t
      (rootOf (c.stampIn m now) pk p)).fillHead now m t p := by
  rw [Chip.takeThread, if_neg (by simp [hm, up, clock, waits, spare]), queue]
  dsimp only
  rw [hp, ht]
  rfl

/-- The order stage passes the oldest verdict that nothing holds back. -/
theorem Chip.orderRelease_passes {c : Chip} {m : Nat} {h : Held} (hm : c.open1 m = true) (up : c.open1 23 = true)
    (oldest : leastBy Held.seq (c.disp.held.filter fun h => h.mill == m && !c.heldBack h) = some h) :
    c.orderRelease m = { c with disp := { c.disp with held := c.disp.held.filter (fun g => g.seq != h.seq), enq := c.disp.enq ++ [h.req] } } := by
  rw [Chip.orderRelease, if_neg (by simp [hm, up]), oldest]

/-! ### Registers of the dispatcher (R31) -/

/-- The words of a write from word `j` of a register up, with their indices. -/
def numbered (j : Nat) (ws : List Word) : List (Nat × Word) := (ws.zipIdx j).map Prod.swap

theorem numbered_cons (j : Nat) (v : Word) (ws : List Word) : numbered j (v :: ws) = (j, v) :: numbered (j + 1) ws := by
  simp [numbered]

/-- A write within one register is one piece, which holds its words with their indices. -/
theorem Chip.cut_words {c : Chip} {r : RegRow} {base : Nat} (hu : ∀ j < r.words,
      findRow (regionRows (base + 8 * j)) (base + 8 * j) = some (r, j) ∧ c.reserved (base + 8 * j) = false ∧
      c.place (base + 8 * j) = none ∧ millOffset (base + 8 * j) = none) :
    ∀ (ws : List Word) (j : Nat), ws ≠ [] → j + ws.length ≤ r.words → c.cut (base + 8 * j) ws = some [.elem ⟨r, base, numbered j ws⟩]
  | [], _, h, _ => absurd rfl h
  | [v], j, _, hl => by
    obtain ⟨row, res, place, mill⟩ := hu j hl
    rw [Chip.cut_unit v row res place fun m o h => by simp [mill] at h, Nat.add_sub_cancel]
    rfl
  | v :: w :: ws, j, _, hl => by
    simp only [List.length_cons] at hl
    have rest := Chip.cut_words hu (w :: ws) (j + 1) (List.cons_ne_nil _ _) (by simp only [List.length_cons]; omega)
    obtain ⟨row, res, place, mill⟩ := hu j (by omega)
    have piece := Chip.pieceOf_register v row place fun m o h => by simp [mill] at h
    rw [Nat.add_sub_cancel] at piece
    rw [Chip.cut, res, piece, show base + 8 * j + 8 = base + 8 * (j + 1) by omega, rest]
    simp [joinPiece, numbered_cons]

/-- A word of a write, by its index. -/
theorem find_numbered : ∀ (ws : List Word) (j k : Nat), (((numbered j ws).find? fun w => w.1 == j + k).map (·.2)).getD 0 = nth 0 ws k
  | [], _, _ => rfl
  | v :: ws, j, 0 => by
    rw [numbered_cons, List.find?_cons_of_pos (by simp)]
    rfl
  | v :: ws, j, k + 1 => by
    rw [numbered_cons, List.find?_cons_of_neg (by simp), show j + (k + 1) = j + 1 + k by omega, find_numbered ws (j + 1) k]
    rfl

theorem Elem.raw_numbered (r : RegRow) (a : Nat) (ws : List Word) (k : Nat) : (⟨r, a, numbered 0 ws⟩ : Elem).raw k = nth 0 ws k := by
  simpa [Elem.raw] using find_numbered ws 0 k

theorem Elem.covers_first {ws : List Word} (r : RegRow) (a : Nat) (h : ws ≠ []) : (⟨r, a, numbered 0 ws⟩ : Elem).covers 0 = true := by
  obtain ⟨v, vs, rfl⟩ := List.exists_cons_of_ne_nil h
  rfl

/-- How far the last element of a register array lies behind its first. -/
def dimsSpan : List (Nat × Nat) → Nat
  | [] => 0
  | (count, stride) :: ds => (count - 1) * stride + dimsSpan ds

theorem elementOffset_span : ∀ {ds : List (Nat × Nat)} {a off : Nat}, elementOffset ds a = some off → a ≤ dimsSpan ds + off
  | [], _, _, h => by
    cases h
    exact Nat.le_add_left ..
  | (count, stride) :: ds, a, off, h => by
    rw [elementOffset] at h
    split at h
    · next hi =>
      have inner := elementOffset_span h
      have outer : stride * (a / stride) ≤ (count - 1) * stride := by
        rw [Nat.mul_comm]
        exact Nat.mul_le_mul_right stride (by omega)
      have whole := Nat.div_add_mod a stride
      rw [dimsSpan]
      omega
    · cases h

/-- Whether a register, with all its elements, keeps out of the addresses from `lo` to `hi`. -/
def RegRow.past (r : RegRow) (lo hi : Nat) : Bool := decide (hi ≤ r.base) || decide (r.base + dimsSpan r.dims + 8 * r.words ≤ lo)

theorem RegRow.wordAt_past {r : RegRow} {lo hi a : Nat} (h : r.past lo hi = true) (h1 : lo ≤ a) (h2 : a < hi) : r.wordAt a = none := by
  simp only [RegRow.past, Bool.or_eq_true, decide_eq_true_eq] at h
  rw [RegRow.wordAt]
  split
  · rfl
  · split
    · rfl
    · next off ho =>
      have := elementOffset_span ho
      exact if_neg (by omega)

/-- Rows that keep out of an address are passed over. -/
theorem findRow_past {lo hi a : Nat} (h1 : lo ≤ a) (h2 : a < hi) (rest : List RegRow) : ∀ {rs : List RegRow},
    (rs.all fun r => r.past lo hi) = true → findRow (rs ++ rest) a = findRow rest a
  | [], _ => rfl
  | r :: rs, h => by
    rw [List.all_cons, Bool.and_eq_true] at h
    rw [List.cons_append, findRow, RegRow.wordAt_past h.1 h1 h2]
    exact findRow_past h1 h2 rest h.2

/-- Register `r` stands at `a`, in the part of the MA region that the dispatcher holds. -/
structure RegRow.DispAt (r : RegRow) (a : Nat) : Prop where
  aligned : a % 8 = 0
  low : 0x88000000 ≤ a
  high : a + 8 * r.words < 0x90000000
  words : ∀ j < r.words, findRow maRows (a + 8 * j) = some (r, j)

/-- Row `k` of the MA region, an array of one dimension among the dispatcher's registers. -/
theorem RegRow.dispAt_array {r : RegRow} {k count stride i : Nat} (rows : maRows = maRows.take k ++ r :: maRows.drop (k + 1))
    (others : ((maRows.take k).all fun q => q.past r.base (r.base + count * stride)) = true) (dims : r.dims = [(count, stride)])
    (range : r.base % 8 = 0 ∧ stride % 8 = 0 ∧ 8 * r.words ≤ stride ∧ 0x88000000 ≤ r.base ∧ r.base + count * stride < 0x90000000)
    (hi : i < count) : r.DispAt (r.base + stride * i) := by
  obtain ⟨base8, stride8, fits, low, high⟩ := range
  have inside : stride * i + stride ≤ count * stride := by
    rw [Nat.mul_comm count, ← Nat.mul_succ]
    exact Nat.mul_le_mul_left stride hi
  refine ⟨by rw [Nat.add_mod, base8, Nat.mul_mod, stride8]; simp, by omega, by omega, fun j hj => ?_⟩
  have word := RegRow.wordAt_array dims fits hi hj
  rw [rows, findRow_past (by omega) (by omega) _ others, findRow, word]

section
variable {r : RegRow} {a : Nat} (h : r.DispAt a)
include h

theorem RegRow.DispAt.region {j : Nat} (hj : j ≤ r.words) : (a + 8 * j) / 0x10000000 = 8 := by
  have low := h.low
  have high := h.high
  omega

/-- No window lies among the dispatcher's registers. -/
theorem RegRow.DispAt.unit (c : Chip) {j : Nat} (hj : j < r.words) :
    findRow (regionRows (a + 8 * j)) (a + 8 * j) = some (r, j) ∧ c.reserved (a + 8 * j) = false ∧
      c.place (a + 8 * j) = none ∧ millOffset (a + 8 * j) = none := by
  have low := h.low
  have high := h.high
  have row : findRow (regionRows (a + 8 * j)) (a + 8 * j) = some (r, j) := by
    rw [regionRows, h.region (Nat.le_of_lt hj)]
    exact h.words j hj
  have mill : millOffset (a + 8 * j) = none := if_neg (by omega)
  have place : c.place (a + 8 * j) = none := by rw [Chip.place, if_neg (by omega), if_neg (by omega), mill]
  have beyond : ¬ a + 8 * j < 0x60100020 := by omega
  exact ⟨row, by simp [Chip.reserved, place, mill, row, beyond], place, mill⟩

/-- A write of a register of the dispatcher ends as the dispatcher's rule says. -/
theorem State.wrote_disp {s : State} {ws : List Word} (hw : s.writable a = true) (hne : ws ≠ []) (hl : ws.length ≤ r.words) :
    let out := s.found.dispHook (s.found.filled s.time a ws) s.time ⟨r, a, numbered 0 ws⟩
    State.on s (fun now c => c.regWrite now a ws) = s.wrote out.1 out.2 := by
  have low := h.low
  have cut : s.found.cut a ws = some [.elem ⟨r, a, numbered 0 ws⟩] :=
    Chip.cut_words (fun j hj => h.unit s.found hj) ws 0 hne (by omega)
  have plain : inSat a = false := by
    have : ¬ a < A.FT_SAT 1024 := by
      rw [A.FT_SAT]
      omega
    simp [inSat, this]
  have up : s.found.regUp a = true := by
    rw [State.writable, Bool.and_eq_true] at hw
    exact hw.2
  refine s.wrote_elem a ws _ _ hw plain h.aligned cut up ?_
  have region : a / 0x10000000 = 8 := h.region (j := 0) (Nat.zero_le _)
  rw [Chip.hook, region]
  exact if_neg (Nat.not_lt.mpr low)

end

/-- The rows of MA_PL_CTRL, MA_PROFILE, MA_PL_RECIPE and MA_STEER in the register table. -/
def plCtrlRow : RegRow := nth ⟨0, [], 0, []⟩ maRows 20
def profileRow : RegRow := nth ⟨0, [], 0, []⟩ maRows 23
def recipeRow : RegRow := nth ⟨0, [], 0, []⟩ maRows 24
def steerRow : RegRow := nth ⟨0, [], 0, []⟩ maRows 25

theorem plCtrlRow_at : plCtrlRow.DispAt A.MA_PL_CTRL :=
  ⟨by decide, by decide, by decide, fun j hj => by
    obtain rfl : j = 0 := Nat.lt_one_iff.mp hj
    decide +kernel⟩

theorem profileRow_at (k : Fin 64) : profileRow.DispAt (A.MA_PROFILE k) :=
  RegRow.dispAt_array (r := profileRow) (k := 23) (count := 64) (stride := 32) rfl (by decide +kernel) rfl (by decide) k.isLt

theorem recipeRow_at (r : Fin 64) : recipeRow.DispAt (A.MA_PL_RECIPE r) :=
  RegRow.dispAt_array (r := recipeRow) (k := 24) (count := 64) (stride := 64) rfl (by decide +kernel) rfl (by decide) r.isLt

theorem steerRow_at (n : Fin 4096) : steerRow.DispAt (A.MA_STEER n) :=
  RegRow.dispAt_array (r := steerRow) (k := 25) (count := 4096) (stride := 8) rfl (by decide +kernel) rfl (by decide) n.isLt

/-- A bit set reads as 1. -/
theorem getBits_setBits_one (v : Word) {lo : Nat} (h : lo < 64) : getBits (setBits v lo 1 1) lo 1 = 1 :=
  (getBits_one (setBits v lo 1 1) lo).resolve_left fun clear => by
    have bit := testBit_getBits (setBits v lo 1 1) (n := 1) (Nat.le_refl lo) (Nat.lt_succ_self lo)
    rw [clear, getLsbD_setBits v h] at bit
    simp at bit

/-! ### Writes of the steering state (R135, R137, R151) -/

/-- MA_STEER_GEN has advanced (R137). -/
def Chip.steerGenUp (c : Chip) : Chip := c.set A.MA_STEER_GEN F.MA_STEER_GEN_GEN (c.get A.MA_STEER_GEN F.MA_STEER_GEN_GEN + 1)

/-- Whether a profile written is in range (R135). -/
def Chip.profileInRange (d : Chip) (now a : Nat) : Prop :=
  d.getAt now a F.MA_PROFILE_SIZE_LOG2 ≤ 12 ∧ d.getAt now a F.MA_PROFILE_HASH_SEL ≤ 4 ∧
    d.getAt now a F.MA_PROFILE_BASE + 2 ^ d.getAt now a F.MA_PROFILE_SIZE_LOG2 ≤ 4096

/-- Whether a recipe written is in range (R151): its channel, its words and its byte map. -/
def Chip.recipeInRange (d : Chip) (now a : Nat) (ws : List Word) : Prop :=
  512 ≤ d.getAt now a F.MA_PL_RECIPE_CHAN ∧ d.getAt now a F.MA_PL_RECIPE_CHAN ≤ 607 ∧ d.getAt now a F.MA_PL_RECIPE_WORDS ≤ 4 ∧
    ∀ k, k < 5 → nth 0 ws (k + 1) &&& 0x8080808080808080 = 0

/-- Whether MA_PL_CTRL as written is in range (R151). -/
def Chip.plCtrlInRange (d : Chip) (now : Nat) : Prop :=
  d.getAt now A.MA_PL_CTRL F.MA_PL_CTRL_CONF_MIN ≠ 0 ∧ 100 ≤ d.getAt now A.MA_PL_CTRL F.MA_PL_CTRL_HOLD_NS

section
variable (c d : Chip) (now a : Nat) (us : List (Nat × Word))

theorem Chip.dispHook_steer : c.dispHook d now ⟨steerRow, a, us⟩ = (Code.OK, d.steerGenUp) := by
  simp only [Chip.dispHook]
  rw [if_neg (by decide), if_neg (by decide), if_neg (by decide), if_neg (by decide), if_neg (by decide), if_pos (by decide)]
  rfl

theorem Chip.dispHook_profile : c.dispHook d now ⟨profileRow, a, us⟩ =
    if 12 < d.getAt now a F.MA_PROFILE_SIZE_LOG2 ∨ 4 < d.getAt now a F.MA_PROFILE_HASH_SEL ∨
        4096 < d.getAt now a F.MA_PROFILE_BASE + 2 ^ d.getAt now a F.MA_PROFILE_SIZE_LOG2 then (Code.BAD_ARGUMENT, c)
    else (Code.OK, d.steerGenUp) := by
  simp only [Chip.dispHook]
  rw [if_neg (by decide), if_neg (by decide), if_neg (by decide), if_neg (by decide), if_pos (by decide)]
  rfl

theorem Chip.dispHook_recipe : c.dispHook d now ⟨recipeRow, a, us⟩ =
    let e : Elem := ⟨recipeRow, a, us⟩
    if ((!e.covers 0 || (within 512 607 (d.getAt now a F.MA_PL_RECIPE_CHAN) && decide (d.getAt now a F.MA_PL_RECIPE_WORDS ≤ 4))) &&
        (List.range 5).all fun k => (e.raw (k + 1) &&& 0x8080808080808080) == 0) = true then (Code.OK, d.forgetRecipe e.i)
    else (Code.BAD_ARGUMENT, c) := by
  simp only [Chip.dispHook]
  rw [if_neg (by decide), if_neg (by decide), if_neg (by decide), if_neg (by decide), if_neg (by decide), if_neg (by decide),
    if_pos (by decide)]

theorem Chip.dispHook_plCtrl : c.dispHook d now ⟨plCtrlRow, a, us⟩ =
    if d.getAt now a F.MA_PL_CTRL_CONF_MIN = 0 ∨ d.getAt now a F.MA_PL_CTRL_HOLD_NS < 100 then (Code.BAD_ARGUMENT, c)
    else (Code.OK, if getBits ((⟨plCtrlRow, a, us⟩ : Elem).raw 0) 3 1 = 1 then { d with disp := { d.disp with sigs := [] } } else d) := by
  simp only [Chip.dispHook]
  rw [if_neg (by decide), if_neg (by decide), if_pos (by decide)]

end

section
variable {c d : Chip} {now a : Nat} {us : List (Nat × Word)}

theorem Chip.dispHook_profile_ok (h : d.profileInRange now a) : c.dispHook d now ⟨profileRow, a, us⟩ = (Code.OK, d.steerGenUp) := by
  unfold Chip.profileInRange at h
  exact (c.dispHook_profile d now a us).trans (if_neg (by omega))

theorem Chip.dispHook_profile_bad (h : ¬ d.profileInRange now a) : c.dispHook d now ⟨profileRow, a, us⟩ = (Code.BAD_ARGUMENT, c) := by
  unfold Chip.profileInRange at h
  exact (c.dispHook_profile d now a us).trans (if_pos (by omega))

theorem Chip.dispHook_plCtrl_ok {v : Word} (h : d.plCtrlInRange now) :
    c.dispHook d now ⟨plCtrlRow, A.MA_PL_CTRL, numbered 0 [setBits v 3 1 1]⟩ = (Code.OK, { d with disp := { d.disp with sigs := [] } }) := by
  unfold Chip.plCtrlInRange at h
  rw [Chip.dispHook_plCtrl, if_neg (by omega), Elem.raw_numbered]
  exact congrArg _ (if_pos (getBits_setBits_one v (by decide)))

theorem Chip.dispHook_plCtrl_bad (h : ¬ d.plCtrlInRange now) :
    c.dispHook d now ⟨plCtrlRow, A.MA_PL_CTRL, us⟩ = (Code.BAD_ARGUMENT, c) := by
  unfold Chip.plCtrlInRange at h
  rw [Chip.dispHook_plCtrl, if_pos (by omega)]

variable {r : Fin 64} {ws : List Word} (hne : ws ≠ [])
include hne

/-- The rule of a recipe written judges its range, since its first word is among those written (R151). -/
theorem Chip.recipeInRange_iff :
    let e : Elem := ⟨recipeRow, a, numbered 0 ws⟩
    ((!e.covers 0 || (within 512 607 (d.getAt now a F.MA_PL_RECIPE_CHAN) && decide (d.getAt now a F.MA_PL_RECIPE_WORDS ≤ 4))) &&
      (List.range 5).all fun k => (e.raw (k + 1) &&& 0x8080808080808080) == 0) = true ↔ d.recipeInRange now a ws := by
  simp [Elem.covers_first _ _ hne, Elem.raw_numbered, within, Chip.recipeInRange, and_assoc]

theorem Chip.dispHook_recipe_ok (h : d.recipeInRange now (A.MA_PL_RECIPE r) ws) :
    c.dispHook d now ⟨recipeRow, A.MA_PL_RECIPE r, numbered 0 ws⟩ = (Code.OK, d.forgetRecipe r) := by
  have index : (⟨recipeRow, A.MA_PL_RECIPE r, numbered 0 ws⟩ : Elem).i = r := Elem.i_array (count := 64) (stride := 64) rfl rfl (by decide)
  rw [Chip.dispHook_recipe]
  refine (if_pos ((Chip.recipeInRange_iff hne).mpr h)).trans ?_
  rw [index]

theorem Chip.dispHook_recipe_bad (h : ¬ d.recipeInRange now a ws) :
    c.dispHook d now ⟨recipeRow, a, numbered 0 ws⟩ = (Code.BAD_ARGUMENT, c) := by
  rw [Chip.dispHook_recipe]
  exact if_neg (h ∘ (Chip.recipeInRange_iff hne).mp)

end

/-- A command that PUTs the words of a register of the dispatcher ends as the dispatcher's rule says. -/
theorem State.exec_disp {s : State} {i : Instr} {r : RegRow} {a : Nat} {ws : List Word} {st : Status} {d : Chip}
    (run : exec i s = State.on s fun now c => c.regWrite now a ws) (h : r.DispAt a) (hw : s.writable a = true) (hne : ws ≠ [])
    (hl : ws.length ≤ r.words) (rule : s.found.dispHook (s.found.filled s.time a ws) s.time ⟨r, a, numbered 0 ws⟩ = (st, d)) :
    exec i s = s.wrote st d := by
  rw [run, State.wrote_disp h hw hne hl, rule]

/-- A PUT while register writes run ends with its own code. -/
theorem State.on_regWrite {s : State} {a b : Nat} {ws : List Word} (hw : s.writable b = true) :
    State.on s (fun now c => c.regWrite now a ws) = s.wrote (s.found.put s.time a ws).1 (s.found.put s.time a ws).2 := by
  simp only [State.writable, Bool.and_eq_true] at hw
  obtain ⟨⟨fw, mode⟩, _⟩ := hw
  rw [State.on_done, Chip.regWrite, fw, mode]
  rfl

/-- Settles O26: the packet served by what its metadata and its steering entry say, writes by the dispatcher's rule. -/
theorem dispatchServes : Obligations.DispatchServes := by
  refine ⟨fun s pk p w up pick => ?serve, fun s m => ?mill, fun s v ws => ?write⟩
  case serve =>
    have run : exec .dispatch s = .next (s.done (s.found.dispatch s.time)) := s.on_done fun now c => c.dispatch now
    have read {bad : Bool} (h : (s.found.metaRead s.time w p).1 = bad) : s.found.metaRead s.time w p = (bad, (s.found.metaRead s.time w p).2) :=
      Prod.ext h rfl
    have ends {d : Chip} (h : s.found.dispatch s.time = d) : exec .dispatch s = .next (s.done d) := by rw [run, h]
    exact ⟨fun m clean valid mill => ends (Chip.dispatch_served up pick (read clean) valid mill),
      fun clean valid mill => ends (Chip.dispatch_unserved up pick (read clean) valid mill),
      fun clean invalid => ends (Chip.dispatch_invalid up pick (read clean) invalid),
      fun bad => ends (Chip.dispatch_poisoned up pick (read bad))⟩
  case mill =>
    refine ⟨fun pk rest p t hm up clock waits spare queue hp ht => ?take, fun h hm up oldest => ?pass⟩
    case take =>
      have run : exec (.dispatchThreadTake m) s = .next (s.done (s.found.takeThread s.time m)) := s.on_done fun now c => c.takeThread now m
      rw [run, Chip.takeThread_takes hm up clock waits spare queue hp ht]
    case pass =>
      have run : exec (.orderStageRelease m) s = .next (s.done (s.found.orderRelease m)) := s.on_done fun _ c => c.orderRelease m
      have free := List.mem_filter.mp (leastBy_mem oldest)
      simp only [Bool.and_eq_true, Bool.not_eq_true'] at free
      obtain ⟨held, _, clear⟩ := free
      exact ⟨clear, held, by rw [run, Chip.orderRelease_passes hm up oldest]⟩
  case write =>
    refine ⟨fun n hw => ⟨?steer, State.on_regWrite hw⟩, fun k hw h1 hl => ?profile, fun r hw h1 hl => ?recipe, fun hw => ?plCtrl⟩
    case steer => exact State.exec_disp rfl (steerRow_at n) hw (List.cons_ne_nil _ _) (Nat.le_refl 1) (Chip.dispHook_steer ..)
    case profile =>
      have put {st : Status} {d : Chip} := State.exec_disp (st := st) (d := d) (i := .steerWrite (.inr k) ws) rfl (profileRow_at k) hw
        (List.length_pos_iff.mp h1) hl
      exact ⟨fun ok => put (Chip.dispHook_profile_ok ok), fun bad => put (Chip.dispHook_profile_bad bad)⟩
    case recipe =>
      have put {st : Status} {d : Chip} := State.exec_disp (st := st) (d := d) (i := .recipeWrite r ws) rfl (recipeRow_at r) hw
        (List.length_pos_iff.mp h1) hl
      exact ⟨fun ok => put (Chip.dispHook_recipe_ok (List.length_pos_iff.mp h1) ok),
        fun bad => put (Chip.dispHook_recipe_bad (List.length_pos_iff.mp h1) bad)⟩
    case plCtrl =>
      have put {st : Status} {d : Chip} := State.exec_disp (st := st) (d := d) (i := .invalidate v) rfl plCtrlRow_at hw (List.cons_ne_nil _ _)
        (Nat.le_refl 1)
      exact ⟨fun ok => put (Chip.dispHook_plCtrl_ok ok), fun bad => put (Chip.dispHook_plCtrl_bad bad)⟩

end Sys2Proof.Machine

/-! PROOFS. Frames transmitted, whole and in fragments (R256-R258, R260, R262-R265, R271). -/

namespace Sys2Proof.Machine

/-! ### A frame starts (R256, R262, R263, R265, R271) -/

/-- Whether a MAC of a port can start the next frame of its packet `j`, its gate and the line apart. -/
def Chip.mayStart (c : Chip) (p : Nat) (express : Bool) (j : TxJob) : Prop :=
  (c.port p).mac express = some j ∧ c.portOn p = true ∧ c.link p = true ∧ macGoing (some j) = false ∧ c.open1 23 = true ∧
    (c.port p).own = [] ∧ nth 0 (c.port p).paused (c.jobPq j) = 0

section
variable {c e d u : Chip} {now p : Nat} {express : Bool} {j : TxJob} {f : TxFrame} {fs gs : List TxFrame}
  (found : (c.gateCut now p).ownGo now p = e) (may : e.mayStart p express j) (fresh : j.run = none)
include found may fresh

/-- A packet that cannot be segmented leaves at once. -/
theorem Chip.txStart_unsegmented (built : e.buildJob now p j = (none, d)) :
    c.txStart now p express = (d.inc (A.PX_TX_SEG_ERR p)).leave now p express j := by
  obtain ⟨mac, on, link, idle, up, own, paused⟩ := may
  simp [Chip.txStart, found, mac, on, link, idle, up, own, paused, fresh, built]

section
variable (built : e.buildJob now p j = (some fs, d))
include built

/-- A packet of which no frame passes leaves at once. -/
theorem Chip.txStart_screened (passed : Chip.screen now p j.ent.req.slice fs d = ([], u)) :
    c.txStart now p express = u.leave now p express j := by
  obtain ⟨mac, on, link, idle, up, own, paused⟩ := may
  simp [Chip.txStart, found, mac, on, link, idle, up, own, paused, fresh, built, passed]

variable (passed : Chip.screen now p j.ent.req.slice fs d = (f :: gs, u))
include passed

/-- A closed gate holds the frame, which is counted once. -/
theorem Chip.txStart_held (gate : u.gateAdmits p (e.jobPq j) (u.txStamp now p) ((padFrame f.bytes).length + 4) express = false) :
    let hold := !j.ent.held && u.guardHolds p (e.jobPq j) (u.txStamp now p) ((padFrame f.bytes).length + 4) express
    c.txStart now p express = (if hold then u.inc (A.TM_PORT_GATE_HOLD p) else u).setMac p express
      (some { j with frames := some (f :: gs), ent := { j.ent with held := j.ent.held || hold } }) := by
  obtain ⟨mac, on, link, idle, up, own, paused⟩ := may
  simp [Chip.txStart, found, mac, on, link, idle, up, own, paused, fresh, built, passed, gate]

variable (gate : u.gateAdmits p (e.jobPq j) (u.txStamp now p) ((padFrame f.bytes).length + 4) express = true)
include gate

theorem Chip.txStart_lineBusy (line : (u.setMac p express (some { j with frames := some (f :: gs) })).lineFor now p express = none) :
    c.txStart now p express = u.setMac p express (some { j with frames := some (f :: gs) }) := by
  obtain ⟨mac, on, link, idle, up, own, paused⟩ := may
  rw [fresh] at line
  simp [Chip.txStart, found, mac, on, link, idle, up, own, paused, fresh, built, passed, gate, line]

variable {w : Chip} (line : (u.setMac p express (some { j with frames := some (f :: gs) })).lineFor now p express = some w)
include line

/-- A frame goes whole by the express MAC, and by the preemptable one while preemption is not active. -/
theorem Chip.txStart_whole (whole : express = true ∨ (w.ptpTx p (u.txStamp now p) (padFrame f.bytes)).2.preActive p = false) :
    let st := u.txStamp now p
    let x := w.ptpTx p st (padFrame f.bytes)
    c.txStart now p express = x.2.setMac p express
      (some { j with frames := some ({ f with bytes := x.1 } :: gs), run := some ⟨st, none, 0, 0, some st⟩ }) := by
  obtain ⟨mac, on, link, idle, up, own, paused⟩ := may
  rw [fresh] at line
  have plain : (!express && (w.ptpTx p (u.txStamp now p) (padFrame f.bytes)).2.preActive p) = false := by
    rcases whole with h | h <;> simp [h]
  simp [Chip.txStart, found, mac, on, link, idle, up, own, paused, fresh, built, passed, gate, line, plain]

/-- A preemptable frame takes the next frame number of its port. -/
theorem Chip.txStart_preemptable (slow : express = false) (pre : (w.ptpTx p (u.txStamp now p) (padFrame f.bytes)).2.preActive p = true) :
    let st := u.txStamp now p
    let x := w.ptpTx p st (padFrame f.bytes)
    let e := x.2.setMac p express
      (some { j with frames := some ({ f with bytes := x.1 } :: gs), run := some ⟨st, some (x.2.port p).txNo, 0, 0, some st⟩ })
    c.txStart now p express = e.setPort p { e.port p with txNo := (x.2.port p).txNo + 1 } := by
  obtain ⟨mac, on, link, idle, up, own, paused⟩ := may
  rw [fresh] at line
  subst slow
  simp [Chip.txStart, found, mac, on, link, idle, up, own, paused, fresh, built, passed, gate, line, pre]

end
end

/-! ### A frame ends (R38, R257, R264) -/

/-- Without a loopback the bytes leave by the line. -/
theorem Chip.wireOut_line {c : Chip} {now p : Nat} {smd : Smd} {bs : List Byte} {st : Nat} (h : c.loopback p = 0) :
    c.wireOut now p smd bs st = { c with net := { c.net with sent := c.net.sent ++ [⟨p, bs, st, smd⟩] } } := by
  simp [Chip.wireOut, h]

/-- What a MAC holds does not change how its port is looped back. -/
theorem Chip.loopback_setMac (c : Chip) (p : Nat) (express : Bool) (j : Option TxJob) : (c.setMac p express j).loopback p = c.loopback p := rfl

/-- The adapter once the frame that ends has been counted, with PX_TX_POISON where a word of it was poisoned. -/
def Chip.txCounted (c : Chip) (now p : Nat) (j : TxJob) (r : TxRun) (f : TxFrame) : Chip :=
  let d := c.countTx p (f.bytes.length + 4) r.stamp (some j.ent.req.acct)
  if f.poison then (d.inc (A.PX_TX_STOMPED p)).raise now Flt.PX_TX_POISON (16 + p / 4) 63 0 0 else d

/-- The packet leaves its MAC after its last frame, and otherwise stays for the next. -/
def Chip.txNext (c : Chip) (now p : Nat) (express : Bool) (j : TxJob) (fs : List TxFrame) : Chip :=
  if fs.isEmpty then c.leave now p express j
  else c.setMac p express (some { j with frames := some fs, run := none, ent := { j.ent with held := false } })

/-- The bytes of a frame still to go leave with its FCS (stomped where a word was poisoned), and the port's own frames are due. -/
def Chip.txSent (c : Chip) (now p : Nat) (r : TxRun) (f : TxFrame) : Chip :=
  let d := c.wireOut now p r.smd (f.bytes.drop r.done ++ if f.poison then stompedFcs f.bytes else fcsOf f.bytes) r.stamp
  { d with due := d.due ++ [.own p] }

theorem Chip.txSent_line {c : Chip} {now p : Nat} {r : TxRun} {f : TxFrame} (h : c.loopback p = 0) :
    c.txSent now p r f = { c with
      net := { c.net with sent := c.net.sent ++
        [⟨p, f.bytes.drop r.done ++ if f.poison then stompedFcs f.bytes else fcsOf f.bytes, r.stamp, r.smd⟩] },
      due := c.due ++ [.own p] } := by
  rw [Chip.txSent, Chip.wireOut_line h]

/-- What ends a frame in transmission comes to; a port disabled meanwhile halts. -/
theorem Chip.txEnd_sent {c e w : Chip} {now p : Nat} {express : Bool} {j : TxJob} {r : TxRun} {f : TxFrame} {fs : List TxFrame}
    (found : c.gateCut now p = e) (mac : (e.port p).mac express = some j) (run : j.run = some r) (frames : j.frames = some (f :: fs))
    (since : r.since.isSome = true) (sent : ((e.txCounted now p j r f).txNext now p express j fs).txSent now p r f = w) :
    c.txEnd now p express false = if w.flag (A.PX_CFG p) F.PX_CFG_ENABLE then w else w.portHalt now p := by
  have going : r.since.isNone = false := by simp [since]
  subst sent
  simp [Chip.txEnd, found, mac, run, frames, going, Chip.txCounted, Chip.txNext, Chip.txSent]

/-! ### A preemptable frame interrupted (R260) -/

section
variable {c : Chip} {now st p : Nat} {j : TxJob} {r : TxRun} {f : TxFrame} {fs : List TxFrame} {t : Nat} {no : Fin 4}
  (mac : (c.port p).pre = some j) (run : j.run = some r) (frames : j.frames = some (f :: fs)) (since : r.since = some t)
include mac run frames since

/-- Neither part of a frame cut in two may be too short. -/
theorem Chip.cutPre_short (short : c.bytesIn p t st + 4 < 64 * (1 + c.get (A.PX_PREEMPT p) F.PX_PREEMPT_ADD_FRAG) ∨
      f.bytes.length < r.done + c.bytesIn p t st + 60) : c.cutPre now p st = none := by
  simp only [Chip.cutPre, mac, run, frames, since]
  exact if_neg (by omega)

theorem Chip.cutPre_cuts (preemptable : r.no = some no) (line : c.loopback p = 0)
    (first : 64 * (1 + c.get (A.PX_PREEMPT p) F.PX_PREEMPT_ADD_FRAG) ≤ c.bytesIn p t st + 4)
    (rest : r.done + c.bytesIn p t st + 60 ≤ f.bytes.length) :
    let n := c.bytesIn p t st
    let d := c.setMac p false (some { j with run := some { r with done := r.done + n, count := r.count + 1, since := none } })
    c.cutPre now p st = some { d with net := { d.net with sent := d.net.sent ++
      [⟨p, (f.bytes.take (r.done + n)).drop r.done ++ mcrcOf (f.bytes.take (r.done + n)), r.stamp, r.smd⟩] } } := by
  have parts : r.no.isSome = true ∧ 64 * (1 + c.get (A.PX_PREEMPT p) F.PX_PREEMPT_ADD_FRAG) ≤ c.bytesIn p t st + 4 ∧
      r.done + c.bytesIn p t st + 60 ≤ f.bytes.length := ⟨by rw [preemptable]; rfl, first, rest⟩
  simp only [Chip.cutPre, mac, run, frames, since]
  rw [if_pos parts, Chip.wireOut_line ((c.loopback_setMac p false _).trans line)]

end

/-- Settles O37: each attempt to start a frame by what stands in its way, an end by what is left of the packet, a cut by its two parts. -/
theorem framesTransmitted : Obligations.FramesTransmitted := by
  refine ⟨fun s p express j => ⟨?start, fun r f fs mac run frames since line => ?finish⟩,
    fun c now st p j r f fs t no mac run frames since preemptable line => ⟨fun short => Chip.cutPre_short mac run frames since short,
      fun first rest => Chip.cutPre_cuts mac run frames since preemptable line first rest⟩⟩
  case start =>
    have ends {d : Chip} (h : s.found.txStart s.time p express = d) : exec (.txFrameStart p express) s = .next (s.done d) := by
      rw [← h]
      exact s.on_done fun now c => c.txStart now p express
    refine ⟨fun d may fresh built => ends (Chip.txStart_unsegmented rfl may fresh built),
      fun fs d u may fresh built passed => ends (Chip.txStart_screened rfl may fresh built passed),
      fun fs d f gs u may fresh built passed => ⟨fun w gate line =>
          ⟨fun whole => ends (Chip.txStart_whole rfl may fresh built passed gate line whole),
            fun slow pre => ends (Chip.txStart_preemptable rfl may fresh built passed gate line slow pre)⟩,
        fun gate line => ends (Chip.txStart_lineBusy rfl may fresh built passed gate line),
        fun gate => ends (Chip.txStart_held rfl may fresh built passed gate)⟩⟩
  case finish =>
    have ends {d : Chip} (h : s.found.txEnd s.time p express false = d) : exec (.txFrameEnd p express) s = .next (s.done d) := by
      rw [← h]
      exact s.on_done fun now c => c.txEnd now p express false
    have sent := Chip.txEnd_sent rfl mac run frames since (Chip.txSent_line line)
    exact ⟨fun on => ends (sent.trans (if_pos on)), fun off => ends (sent.trans (if_neg (Bool.eq_false_iff.mp off)))⟩

end Sys2Proof.Machine

/-! PROOFS. The stall condition and its measurement (R124). -/

namespace Sys2Proof.Machine

/-! ### The parts of the stall condition (R124) -/

theorem Thread.isBlocked_iff (x : Thread) : x.isBlocked = true ↔ x.st = 3 ∨ x.st = 4 ∨ x.st = 5 ∨ x.st = 6 := by
  simp only [Thread.isBlocked, Bool.and_eq_true, decide_eq_true_eq]
  omega

theorem Chip.liveFor_iff (c : Chip) (m : Nat) (x : Thread) : c.liveFor m x = true ↔
    x.st ≠ 0 ∧ ∀ ch, x.wait = .recv ch → ch < 512 → c.flag (A.MA_CHAN m ch) F.MA_CHAN_SERVER = false := by
  rcases hw : x.wait with _ | ch | _ | _ | _
  case recv => by_cases inMill : ch < 512 <;> simp [Chip.liveFor, hw, inMill]
  all_goals simp [Chip.liveFor, hw]

theorem Chip.waitsOut_iff (c : Chip) (m : Nat) (x : Thread) : c.waitsOut m x = true ↔
    (∃ ch ws m' k, x.wait = .send ch ws ∧ c.chanKind m ch = .remote m' k) ∨
      ∃ ch, x.wait = .recv ch ∧ ch < 512 ∧ c.flag (A.MA_CHAN m ch) F.MA_CHAN_EXTERNAL = true := by
  rcases hw : x.wait with _ | ch | ⟨ch, ws⟩ | _ | _
  case send => rcases hk : c.chanKind m ch <;> simp [Chip.waitsOut, hw, hk]
  all_goals simp [Chip.waitsOut, hw]

theorem Chip.stalled_iff (c : Chip) (m : Nat) : c.stalled m = true ↔
    (∃ e ∈ (c.mill m).threads, c.liveFor m e.2 = true) ∧
    (∀ e ∈ (c.mill m).threads, c.liveFor m e.2 = true → e.2.isBlocked = true ∧ c.wakeable m e.1 e.2 = false ∧ c.waitsOut m e.2 = false) ∧
    ∀ e ∈ (c.mill m).threads, e.2.reqs = 0 ∧ e.2.st ≠ 7 ∧ e.2.st ≠ 8 := by
  have whenLive (p q : Bool) : (!p || q) = true ↔ (p = true → q = true) := by cases p <;> simp
  simp only [Chip.stalled, Chip.quiescent, Bool.and_eq_true, List.any_eq_true, List.all_eq_true, whenLive, beq_iff_eq, bne_iff_ne,
    Bool.not_eq_true']
  constructor
  · rintro ⟨⟨⟨⟨⟨live, blocked⟩, still⟩, idle⟩, runs⟩, here⟩
    exact ⟨live, fun e he l => ⟨blocked e he l, still e he l, here e he l⟩, fun e he => ⟨idle e he, runs e he⟩⟩
  · rintro ⟨live, waits, rest⟩
    exact ⟨⟨⟨⟨⟨live, fun e he l => (waits e he l).1⟩, fun e he l => (waits e he l).2.1⟩, fun e he => (rest e he).1⟩,
      fun e he => (rest e he).2⟩, fun e he l => (waits e he l).2.2⟩

/-! ### The measurement after every step (R124) -/

/-- Every next state of an outcome has its stall measurements running exactly while their conditions hold. -/
def measures (o : Host.Outcome State Fault Refusal) : Prop := ∀ t, o = .next t → t.chip.measured = true

theorem State.on_measures (s : State) (f : Nat → Chip → Chip) : measures (s.on f) := by
  rintro t ⟨⟩
  exact s.done_measured (f s.time s.found)

theorem State.restarted_measures (s : State) (f : Chip → Chip) : measures (s.restarted f) := by
  rintro t ⟨⟩
  exact s.done_measured (f s.found)

/-- Each command acts on the state it finds, on one that device time has reached, or resets the device time. -/
theorem exec_measures (i : Instr) (s : State) : measures (exec i s) := by
  cases i
  case time => exact State.on_measures _ _
  case timeSyncWord => exact State.on_measures _ _
  case suppliesRemoved => exact s.restarted_measures _
  case suppliesInRange => exact s.restarted_measures _
  case coldReset => exact s.restarted_measures _
  all_goals exact s.on_measures _

theorem State.tick_measured (s : State) : s.tick.chip.measured = s.chip.measured := by
  rw [s.tick_chip]
  exact s.chip.measured_ft _

theorem step_measured {s t : State} (hs : s.chip.measured = true) (h : step s = .next t) : t.chip.measured = true := by
  rw [step] at h
  split at h
  next =>
    cases h
    rw [s.tick_measured, hs]
  next i rest _ => exact exec_measures i _ t h

/-- Settles O5: the condition part by part; the measurement since every command ends with it and the passing of time leaves it. -/
theorem stepKeepsMeasured : Obligations.StepKeepsMeasured :=
  ⟨Thread.isBlocked_iff, Chip.liveFor_iff, Chip.waitsOut_iff, Chip.stalled_iff, fun _ _ => step_measured⟩

end Sys2Proof.Machine

/-! PROOFS. Fork and join (R101-R107). -/

namespace Sys2Proof.Machine

/-! ### Instructions issued -/

/-- An instruction that its thread issues, with every field that must be 0 at 0, has its effect on the adapter as issued. -/
theorem State.does_issue {s : State} {m : MillNo} {t : ThreadNo} {regs : List Nat} {i : Instr} {mbz : Nat} {k : Nat → Chip → Chip} {d : Chip}
    (run : exec i s = s.on fun now c => c.issue now m t (feciaWord i) mbz regs (k now)) (hz : mbz = 0)
    (effect : k s.time (s.found.issued s.time m t) = d) : s.does m t regs i (.next (s.done d)) := fun issues => by
  subst hz
  rw [run, s.on_issue m t _ regs k issues, effect]

/-! ### The least and the first of a list -/

theorem leastBy_eq_none {α : Type} {f : α → Nat} : ∀ {l : List α}, leastBy f l = none → l = []
  | [], _ => rfl
  | x :: l, h => by
    rw [leastBy] at h
    split at h
    · cases h
    · split at h <;> cases h

theorem leastBy_le {α : Type} {f : α → Nat} {x : α} : ∀ {l : List α}, leastBy f l = some x → ∀ y ∈ l, f x ≤ f y
  | [], h, _, _ => by cases h
  | z :: l, h, y, hy => by
    rw [leastBy] at h
    rcases hl : leastBy f l with _ | w <;> rw [hl] at h <;> dsimp only at h
    case none =>
      cases h
      rw [leastBy_eq_none hl, List.mem_singleton] at hy
      exact Nat.le_of_eq (congrArg f hy.symm)
    case some =>
      have rest := leastBy_le hl
      split at h <;> cases h <;> rcases List.mem_cons.mp hy with rfl | hy
      · exact Nat.le_refl _
      · exact Nat.le_trans ‹_› (rest y hy)
      · omega
      · exact rest y hy

theorem firstFrom_some {p : Nat → Bool} {x : Nat} : ∀ {n k : Nat}, firstFrom p n k = some x →
    k ≤ x ∧ x < k + n ∧ p x = true ∧ ∀ j, k ≤ j → j < x → p j = false
  | 0, _, h => by cases h
  | n + 1, k, h => by
    rw [firstFrom] at h
    split at h
    next hk =>
      cases h
      exact ⟨Nat.le_refl _, by omega, hk, fun j h1 h2 => absurd h2 (Nat.not_lt.mpr h1)⟩
    next hk =>
      obtain ⟨low, high, here, before⟩ := firstFrom_some h
      refine ⟨by omega, by omega, here, fun j h1 h2 => ?_⟩
      rcases Nat.eq_or_lt_of_le h1 with rfl | h1
      · exact Bool.eq_false_iff.mpr hk
      · exact before j h1 h2

theorem firstFrom_eq_none {p : Nat → Bool} : ∀ {n k : Nat}, firstFrom p n k = none → ∀ j, k ≤ j → j < k + n → p j = false
  | 0, _, _, j, h1, h2 => by omega
  | n + 1, k, h, j, h1, h2 => by
    rw [firstFrom] at h
    split at h
    next => cases h
    next hk =>
      rcases Nat.eq_or_lt_of_le h1 with rfl | h1
      · exact Bool.eq_false_iff.mpr hk
      · exact firstFrom_eq_none h j h1 (by omega)

/-! ### The thread a request takes (R101, R102) -/

section
variable {c : Chip} {m k h : Nat}

theorem Chip.lowestOn_some (low : c.lowestOn m k = some h) :
    h / 16 = k ∧ c.isFree m h = true ∧ ∀ j, h / 16 * 16 ≤ j → j < h → c.isFree m j = false := by
  obtain ⟨above, below, free, before⟩ := firstFrom_some low
  exact ⟨by omega, free, fun j hj => before j (by omega)⟩

theorem Chip.lowestOn_none (low : c.lowestOn m k = none) : c.freeOnCore m k = 0 := by
  refine List.length_eq_zero_iff.mpr (List.filter_eq_nil_iff.mpr fun j hj => Bool.not_eq_true _ ▸ ?_)
  have := List.mem_range.mp hj
  exact firstFrom_eq_none low _ (by omega) (by omega)

/-- A core has 16 threads. -/
theorem Chip.freeOnCore_le (c : Chip) (m k : Nat) : c.freeOnCore m k ≤ 16 :=
  Nat.le_trans (List.length_filter_le _ _) (Nat.le_of_eq List.length_range)

/-- No core of the pool has more FREE threads than the one with the most. -/
theorem Chip.freestCore_most (most : c.freestCore m = some k) {j : Nat} (hj : j < c.poolSize m / 16) :
    c.freeOnCore m j ≤ c.freeOnCore m k := by
  have least := leastBy_le most j (List.mem_range.mpr hj)
  have := c.freeOnCore_le m j
  omega

/-- The thread taken is the lowest of its own core, or where that core has none, the lowest of the core with the most. -/
theorem Chip.pickThread_cases {own : Option Nat} (pick : c.pickThread m own = some h) :
    (∃ k, own = some k ∧ c.lowestOn m k = some h) ∨
      (∀ k, own = some k → c.lowestOn m k = none) ∧ ∃ k, c.freestCore m = some k ∧ c.lowestOn m k = some h := by
  rw [Chip.pickThread] at pick
  split at pick
  next mine =>
    cases pick
    exact .inl (Option.bind_eq_some_iff.mp mine)
  next mine => exact .inr ⟨Option.bind_eq_none_iff.mp mine, Option.bind_eq_some_iff.mp pick⟩

theorem Chip.spareThread_some {own : Option Nat} (spare : c.spareThread m own = some h) :
    (c.forkWaiters m).length < c.freeCount m ∧ c.pickThread m own = some h := by
  rw [Chip.spareThread] at spare
  split at spare
  next more => exact ⟨more, spare⟩
  next => cases spare

/-- A request that does not wait takes the lowest FREE thread of its own core, or of a core that has as many as any (R101, R102). -/
theorem Chip.spareThread_spec {own : Option Nat} (spare : c.spareThread m own = some h) :
    (c.forkWaiters m).length < c.freeCount m ∧ c.isFree m h = true ∧
    (∀ j, h / 16 * 16 ≤ j → j < h → c.isFree m j = false) ∧
    (∀ k, own = some k → h / 16 ≠ k → c.freeOnCore m k = 0) ∧
    (∀ k, own ≠ some (h / 16) → k < c.poolSize m / 16 → c.freeOnCore m k ≤ c.freeOnCore m (h / 16)) := by
  obtain ⟨more, pick⟩ := Chip.spareThread_some spare
  rcases Chip.pickThread_cases pick with ⟨k, rfl, low⟩ | ⟨noneOwn, k, most, low⟩ <;> obtain ⟨core, free, lowest⟩ := Chip.lowestOn_some low
  · exact ⟨more, free, lowest, fun j hj other => absurd (core.trans (Option.some.inj hj)) other,
      fun _ other => absurd (congrArg some core.symm) other⟩
  · exact ⟨more, free, lowest, fun j hj _ => Chip.lowestOn_none (noneOwn j hj), fun j _ hj => core.symm ▸ Chip.freestCore_most most hj⟩

end

/-! ### The helper and its parent (R104, R105) -/

/-- A register write leaves the rest of the thread. -/
theorem Thread.setReg_eq (x : Thread) (n : Nat) (v : Word) : x.setReg n v = { x with g := (x.setReg n v).g } := by
  unfold Thread.setReg
  split <;> rfl

theorem Chip.copyMarks_th (c : Chip) (m t h m' t' : Nat) : (c.copyMarks m t h).th m' t' = c.th m' t' := by
  rw [Chip.copyMarks]
  refine (foldl_keep (fun d : Chip => d.th m' t') _ ?_ _ (c.cleanWindows m h)).trans rfl
  exact fun _ _ => rfl

section
variable (c : Chip) {m t h : Nat} (k rd target start : Nat) (g : SMap Word)

theorem Chip.startHelper_parent : (c.startHelper m t h k rd target g start).th m t =
    { ({ c.th m t with joins := setNth (c.th m t).joins k { JoinSlot.empty with tid := h, filled := true } } : Thread).setReg rd
        (BitVec.ofNat 64 (h + 256 * k)) with cs := csWord Code.OK 0 0 } := by
  rw [Chip.startHelper, Chip.events_th, Chip.th_setTh_self]

theorem Chip.startHelper_helper (apart : t ≠ h) :
    (c.startHelper m t h k rd target g start).th m h = helperOf start t target g (c.th m t) := by
  rw [Chip.startHelper, Chip.events_th, Chip.th_setTh_ne _ _ fun e => apart e.2.symm, Chip.th_setTh_self]

/-- What the parent of a helper started reads as (R103, R105). -/
theorem Chip.startHelper_parent_reads :
    let x := c.th m t
    let y := (c.startHelper m t h k rd target g start).th m t
    y.cs = csWord Code.OK 0 0 ∧ (rd ≠ 0 → y.reg rd = BitVec.ofNat 64 (h + 256 * k)) ∧ y.pc = x.pc ∧
      y.joins = setNth x.joins k { JoinSlot.empty with tid := h, filled := true } := by
  dsimp only
  rw [c.startHelper_parent k rd target start g]
  refine ⟨rfl, fun hrd => ?_, ?_, ?_⟩
  · exact (Thread.reg_setReg _ rd rd _).trans (by rw [if_neg hrd, if_pos rfl])
  · rw [Thread.setReg_eq]
  · rw [Thread.setReg_eq]

end

/-! ### fork, forkw and join (R103, R107) -/

/-- Settles O17: fork by its join slots and the threads to spare, join by the slot its value names. -/
theorem forkAndJoin : Obligations.ForkAndJoin := by
  refine ⟨fun s m t rd target => ⟨fun full => ?full, fun k h slot spare => ?starts, fun k slot scarce => ?waits⟩,
    fun c m h own _ spare => Chip.spareThread_spec spare, fun c m t h k rd target start g apart => ?inherits, fun s m t rd ra => ?join⟩
  case full =>
    constructor <;> exact State.does_issue rfl rfl (by simp [full])
  case starts =>
    constructor <;> exact State.does_issue rfl rfl (by simp [slot, spare])
  case waits =>
    constructor <;> exact State.does_issue rfl rfl (by simp [slot, scarce])
  case inherits =>
    dsimp only
    rw [c.startHelper_helper k rd target start g apart]
    exact ⟨rfl, rfl, rfl, rfl, rfl, rfl, rfl, rfl, rfl, rfl, rfl, rfl, rfl, c.startHelper_parent_reads k rd target start g⟩
  case join =>
    refine ⟨fun bad => State.does_issue rfl rfl (if_pos (by simpa using bad)), fun small filled named => ?ended, fun small filled named => ?live⟩
    case ended =>
      intro ended
      exact State.does_issue rfl rfl ((if_neg (by simp [filled, named, small])).trans (if_pos ended))
    case live =>
      intro live
      exact State.does_issue rfl rfl ((if_neg (by simp [filled, named, small])).trans (if_neg (Bool.eq_false_iff.mp live)))

end Sys2Proof.Machine

/-! PROOFS. send and recv on channels between threads and towards the engines (R112-R122). -/

namespace Sys2Proof.Machine

/-! ### send (R112, R115-R120) -/

/-- A thread whose send has published: it goes on with CS = OK, and the publication is counted (R116). -/
def Chip.sent (c : Chip) (m t ch : Nat) : Chip :=
  (c.setTh m t { (c.th m t).next with cs := csWord Code.OK 0 ch }).events m t (c.th m t).prio [0x10]

theorem Chip.sendDone_sent (c : Chip) (m t ch : Nat) : c.sendDone m t ch false = c.sent m t ch := rfl

/-- A message published within the Mill joins the queue of its channel. -/
theorem Chip.publish_here (c : Chip) (m ch : Nat) (ws : List Word) :
    c.publish m m ch false ws = c.setQueued m ch (c.queued m ch ++ [(16, ws)]) := rfl

/-- A message published towards another Mill is on its way, and MSG_EPOCH has advanced. -/
theorem Chip.publish_away (c : Chip) (m m' k : Nat) (ws : List Word) :
    c.publish m m' k true ws = ({ c with xmsgs := c.xmsgs ++ [XMsg.mk m m' k ws] }).epoch m := rfl

/-- A thread goes on with a status for channel `ch` in CS, and nothing sent or received. -/
def Chip.ends (c : Chip) (m t st ch : Nat) : Chip := c.setTh m t ({ c.th m t with cs := csWord st 0 ch } : Thread).next

theorem Chip.sendEnd_ends (c : Chip) (m t st ch : Nat) : c.setTh m t ((c.th m t).sendEnd st ch false) = c.ends m t st ch := rfl

/-- What a send without a credit does: it waits, or it ends with NO_CREDIT (R115). -/
def Chip.creditless (c : Chip) (now m t ch : Nat) (ws : List Word) (wait : Bool) : Chip :=
  if wait then c.setTh m t ((c.th m t).block (c.stampIn m now) (.send ch ws)) else c.ends m t Code.NO_CREDIT ch

section
variable {c : Chip} {now m t ch : Nat} {ws : List Word} {wait : Bool}

theorem Chip.send_unused (kind : c.chanKind m ch = .unused) :
    c.send now m t ch ws wait = c.ends m t Code.BAD_CHANNEL ch := by
  rw [Chip.send, kind, ← Chip.sendEnd_ends]

theorem Chip.send_local_room (kind : c.chanKind m ch = .local_) (room : (c.blockedSenders m ch).length < c.credits m ch) :
    c.send now m t ch ws wait = (c.setQueued m ch (c.queued m ch ++ [(16, ws)])).sent m t ch := by
  rw [Chip.send, kind, ← Chip.publish_here, ← Chip.sendDone_sent]
  exact if_pos room

theorem Chip.send_local_full (kind : c.chanKind m ch = .local_) (full : c.credits m ch ≤ (c.blockedSenders m ch).length) :
    c.send now m t ch ws wait = c.creditless now m t ch ws wait := by
  rw [Chip.send, kind, Chip.creditless, ← Chip.sendEnd_ends]
  exact if_neg (Nat.not_lt.mpr full)

theorem Chip.send_engine_full (kind : c.chanKind m ch = .engine) (credit : c.spareCredit m ch (c.th m t) = false) :
    c.send now m t ch ws wait = c.creditless now m t ch ws wait := by
  rw [Chip.send, kind, Chip.creditless, ← Chip.sendEnd_ends]
  exact if_neg (Bool.eq_false_iff.mp credit)

section
variable {m' k : Nat} (kind : c.chanKind m ch = .remote m' k)
include kind

theorem Chip.send_remote_closed (closed : c.open1 m' = false) :
    c.send now m t ch ws wait = c.ends m t Code.ABSENT ch := by
  rw [Chip.send, kind, ← Chip.sendEnd_ends]
  exact if_pos (by simp [closed])

variable (up : c.open1 m' = true)
include up

theorem Chip.send_remote_untargeted
    (target : c.chanKind m' k ≠ .local_ ∨ 512 ≤ k ∨ c.flag (A.MA_CHAN m' k) F.MA_CHAN_EXTERNAL = false) :
    c.send now m t ch ws wait = c.ends m t Code.BAD_CHANNEL ch := by
  rw [Chip.send, kind, ← Chip.sendEnd_ends]
  refine (if_neg (by simp [up])).trans (if_neg ?_)
  simp only [Bool.and_eq_true, beq_iff_eq, decide_eq_true_eq]
  rintro ⟨⟨local_, low⟩, external⟩
  rcases target with h | h | h
  · exact h local_
  · exact Nat.not_lt.mpr h low
  · exact Bool.false_ne_true (h.symm.trans external)

section
variable (target : c.chanKind m' k = .local_) (low : k < 512) (external : c.flag (A.MA_CHAN m' k) F.MA_CHAN_EXTERNAL = true)
include target low external

theorem Chip.send_remote_room (room : (c.blockedSenders m' k).length < c.credits m' k) :
    c.send now m t ch ws wait = (({ c with xmsgs := c.xmsgs ++ [XMsg.mk m m' k ws] }).epoch m).sent m t ch := by
  rw [Chip.send, kind, ← Chip.publish_away, ← Chip.sendDone_sent]
  exact (if_neg (by simp [up])).trans ((if_pos (by simp [target, low, external])).trans (if_pos room))

theorem Chip.send_remote_full (full : c.credits m' k ≤ (c.blockedSenders m' k).length) :
    c.send now m t ch ws wait = c.creditless now m t ch ws wait := by
  rw [Chip.send, kind, Chip.creditless, ← Chip.sendEnd_ends]
  exact (if_neg (by simp [up])).trans ((if_pos (by simp [target, low, external])).trans (if_neg (Nat.not_lt.mpr full)))

end
end
end

/-! ### Requests to the engines (R119-R122) -/

/-- A thread has sent one more request to an engine, and MSG_EPOCH of its Mill has advanced (R120, R126). -/
def Chip.asked (c : Chip) (m t : Nat) : Chip := (c.setTh m t { c.th m t with reqs := (c.th m t).reqs + 1 }).epoch m

/-- The request of thread `x`, with what its Mill attaches (R119). -/
def Thread.engReq (x : Thread) (now m t ch : Nat) (ws : List Word) : EngReq :=
  { mill := m, tid := t, chan := ch, words := ws, pk := x.pk, pkt := x.pkt, valid := x.valid, plen := x.plen,
    slice := x.slice, istamp := x.istamp, ver0 := x.ver0, ver1 := x.ver1, system := x.slice == 0, sent := stamp now, owed := false }

section
variable {c : Chip} {now m t ch : Nat} {ws : List Word}

theorem Chip.request_handed (up : (c.asked m t).up (engineTarget ch) = true) :
    c.request now m t ch ws = { c.asked m t with reqs := (c.asked m t).reqs ++ [(c.th m t).engReq now m t ch ws] } :=
  if_pos up

/-- Where the engine's boundary does not answer and owes nothing, the request is answered ABSENT at once (R122). -/
theorem Chip.request_absent (down : (c.asked m t).up (engineTarget ch) = false) (owes : (c.asked m t).reqs.all (fun q => !q.owed) = true) :
    c.request now m t ch ws =
      { c.asked m t with reps := (c.asked m t).reps ++ [EngRep.mk m t ch [replyWord Code.ABSENT 0 ch 0]] } := by
  refine (if_neg (Bool.eq_false_iff.mp down)).trans (if_neg ?_)
  simp only [List.all_eq_true, Bool.not_eq_true'] at owes
  simp only [List.any_eq_true, not_exists, not_and]
  intro q hq
  simp [owes q hq]

section
variable {wait : Bool} (kind : c.chanKind m ch = .engine) (credit : c.spareCredit m ch (c.th m t) = true)
include kind credit

theorem Chip.send_engine : c.send now m t ch ws wait = (c.request now m t ch ws).sent m t ch := by
  rw [Chip.send, kind, ← Chip.sendDone_sent]
  exact if_pos credit

theorem Chip.send_engine_handed (up : (c.asked m t).up (engineTarget ch) = true) : c.send now m t ch ws wait =
    ({ c.asked m t with reqs := (c.asked m t).reqs ++ [(c.th m t).engReq now m t ch ws] } : Chip).sent m t ch := by
  rw [Chip.send_engine kind credit, Chip.request_handed up]

theorem Chip.send_engine_absent (down : (c.asked m t).up (engineTarget ch) = false)
    (owes : (c.asked m t).reqs.all (fun q => !q.owed) = true) : c.send now m t ch ws wait =
    ({ c.asked m t with reps := (c.asked m t).reps ++ [EngRep.mk m t ch [replyWord Code.ABSENT 0 ch 0]] } : Chip).sent m t ch := by
  rw [Chip.send_engine kind credit, Chip.request_absent down owes]

end
end

/-! ### recv (R112, R117) -/

/-- A thread that has received a message: it goes on with the words in its inbox, and the receipt is counted (R117). -/
def Chip.got (c : Chip) (m t ch : Nat) (ws : List Word) : Chip :=
  (c.setTh m t { (c.th m t).next with inb := inboxOf ws, cs := csWord Code.OK ws.length ch }).events m t (c.th m t).prio [0x11]

theorem Chip.receive_got (c : Chip) (m t ch : Nat) (ws : List Word) : c.receive m t ch ws false = c.got m t ch ws := rfl

/-- What a recv without a message does: it waits, or it ends with NO_MESSAGE (R117). -/
def Chip.messageless (c : Chip) (now m t ch : Nat) (wait : Bool) : Chip :=
  if wait then c.setTh m t ((c.th m t).block (c.stampIn m now) (.recv ch))
  else c.ends m t Code.NO_MESSAGE ch

theorem Chip.recvEnd_ends (c : Chip) (m t st ch : Nat) : c.setTh m t { (c.th m t).next with cs := csWord st 0 ch } = c.ends m t st ch := rfl

section
variable {c : Chip} {now m t ch : Nat} {wait : Bool}

theorem Chip.recv_unused (kind : c.chanKind m ch = .unused) :
    c.recv now m t ch wait = c.ends m t Code.BAD_CHANNEL ch := by
  rw [Chip.recv, kind, ← Chip.recvEnd_ends]

/-- The messages promised to waiting receivers stay, the next is received (R117). -/
theorem Chip.recv_local_message (kind : c.chanKind m ch = .local_) {src : Nat} {msg : List Word} {a b : List (Nat × List Word)}
    (promised : (c.blockedReceivers m ch).length = a.length) (queue : c.queued m ch = a ++ (src, msg) :: b) :
    c.recv now m t ch wait = ((c.setQueued m ch (a ++ b)).creditBack m ch src).got m t ch msg := by
  have taken : (c.queued m ch)[a.length]? = some (src, msg) := by simp [queue]
  have kept : (c.queued m ch).take a.length ++ (c.queued m ch).drop (a.length + 1) = a ++ b := by
    simp [queue, List.drop_append, List.drop_of_length_le]
  rw [Chip.recv, kind]
  simp only [promised, taken, kept, Chip.receive_got]

theorem Chip.recv_local_empty (kind : c.chanKind m ch = .local_) (short : (c.queued m ch).length ≤ (c.blockedReceivers m ch).length) :
    c.recv now m t ch wait = c.messageless now m t ch wait := by
  rw [Chip.recv, kind]
  simp only [List.getElem?_eq_none short]
  rfl

theorem Chip.recv_reply (kind : c.chanKind m ch = .reply) {msg : List Word} {rest : List (List Word)}
    (replies : (c.th m t).replies = msg :: rest) :
    c.recv now m t ch wait = (c.setTh m t { c.th m t with replies := rest }).got m t ch msg := by
  rw [Chip.recv, kind]
  simp only [replies, Chip.receive_got]

theorem Chip.recv_replyless (kind : c.chanKind m ch = .reply) (replies : (c.th m t).replies = []) :
    c.recv now m t ch wait = c.messageless now m t ch wait := by
  rw [Chip.recv, kind]
  simp only [replies]
  rfl

end

/-- Channel 768 of every Mill is the reply channel (Table 4-3). -/
theorem Chip.chanKind_768 (c : Chip) (m : Nat) : c.chanKind m 768 = .reply := rfl

/-! ### The instructions -/

section
variable {s : State} {m : MillNo} {t : ThreadNo} {ra : RegNo} {chan : BitVec 10}

theorem State.does_send {n1 : Fin 8} {a b : Chip}
    (waiting : let c := s.found.issued s.time m t
      c.send s.time m t ((((c.th m t).reg ra).toNat + chan.toNat) % 1024) ((c.th m t).outb.take (n1 + 1)) true = a)
    (trying : let c := s.found.issued s.time m t
      c.send s.time m t ((((c.th m t).reg ra).toNat + chan.toNat) % 1024) ((c.th m t).outb.take (n1 + 1)) false = b) :
    s.does m t [ra] (.send m t ra chan n1 0) (.next (s.done a)) ∧ s.does m t [ra] (.sendt m t ra chan n1 0) (.next (s.done b)) :=
  ⟨State.does_issue rfl rfl waiting, State.does_issue rfl rfl trying⟩

/-- Where nothing is to be waited for, send and sendt do the same. -/
theorem State.does_send_alike {n1 : Fin 8} {a : Chip}
    (effect : let c := s.found.issued s.time m t
      ∀ wait, c.send s.time m t ((((c.th m t).reg ra).toNat + chan.toNat) % 1024) ((c.th m t).outb.take (n1 + 1)) wait = a) :
    s.does m t [ra] (.send m t ra chan n1 0) (.next (s.done a)) ∧ s.does m t [ra] (.sendt m t ra chan n1 0) (.next (s.done a)) :=
  State.does_send (effect true) (effect false)

theorem State.does_recv {a b : Chip}
    (waiting : let c := s.found.issued s.time m t
      c.recv s.time m t ((((c.th m t).reg ra).toNat + chan.toNat) % 1024) true = a)
    (trying : let c := s.found.issued s.time m t
      c.recv s.time m t ((((c.th m t).reg ra).toNat + chan.toNat) % 1024) false = b) :
    s.does m t [ra] (.recv m t ra chan 0) (.next (s.done a)) ∧ s.does m t [ra] (.recvt m t ra chan 0) (.next (s.done b)) :=
  ⟨State.does_issue rfl rfl waiting, State.does_issue rfl rfl trying⟩

/-- Where nothing is to be waited for, recv and recvt do the same. -/
theorem State.does_recv_alike {a : Chip}
    (effect : let c := s.found.issued s.time m t
      ∀ wait, c.recv s.time m t ((((c.th m t).reg ra).toNat + chan.toNat) % 1024) wait = a) :
    s.does m t [ra] (.recv m t ra chan 0) (.next (s.done a)) ∧ s.does m t [ra] (.recvt m t ra chan 0) (.next (s.done a)) :=
  State.does_recv (effect true) (effect false)

end

/-- Settles O19: by the kind of the channel and by its credits, messages and replies. -/
theorem channelResults : Obligations.ChannelResults := by
  refine ⟨fun s m t ra chan n1 => ?threads, fun s m t ra chan n1 => ?engines⟩
  case threads =>
    exact ⟨fun kind room => State.does_send_alike fun _ => Chip.send_local_room kind room,
      fun kind full => State.does_send (Chip.send_local_full kind full) (Chip.send_local_full kind full),
      fun m' k kind closed => State.does_send_alike fun _ => Chip.send_remote_closed kind closed,
      fun m' k kind up => ⟨fun target => State.does_send_alike fun _ => Chip.send_remote_untargeted kind up target,
        fun target low external => ⟨fun room => State.does_send_alike fun _ => Chip.send_remote_room kind up target low external room,
          fun full => State.does_send (Chip.send_remote_full kind up target low external full)
            (Chip.send_remote_full kind up target low external full)⟩⟩,
      fun kind => ⟨State.does_send_alike fun _ => Chip.send_unused kind, State.does_recv_alike fun _ => Chip.recv_unused kind⟩,
      fun kind src msg a b promised queue => State.does_recv_alike fun _ => Chip.recv_local_message kind promised queue,
      fun kind short => State.does_recv (Chip.recv_local_empty kind short) (Chip.recv_local_empty kind short)⟩
  case engines =>
    have reply {ch : Nat} (h : ch = 768) : (s.found.issued s.time m t).chanKind m ch = .reply := h ▸ Chip.chanKind_768 _ _
    exact ⟨fun kind credit up => State.does_send_alike fun _ => Chip.send_engine_handed kind credit up,
      fun kind credit down owes => State.does_send_alike fun _ => Chip.send_engine_absent kind credit down owes,
      fun kind full => State.does_send (Chip.send_engine_full kind full) (Chip.send_engine_full kind full),
      fun ch msg rest replies => State.does_recv_alike fun _ => Chip.recv_reply (reply ch) replies,
      fun ch replies => State.does_recv (Chip.recv_replyless (reply ch) replies) (Chip.recv_replyless (reply ch) replies)⟩

end Sys2Proof.Machine

/-! PROOFS. Waiting threads served in order, messages between Mills, replies of the engines (R101, R109, R113-R121, R126). -/

namespace Sys2Proof.Machine

/-! ### Waiting threads served (R101, R115, R117, R120) -/

section
variable {c : Chip} {m : Nat}

theorem Chip.deliver_queued {m' r ch t src : Nat} {ws : List Word} {rest : List (Nat × List Word)} (other : ch ≠ 768)
    (first : c.firstServed ((c.blockedReceivers m ch).map fun r => (m, r)) = some (m', r)) (queue : c.queued m ch = (src, ws) :: rest) :
    c.deliver m ch t = ((c.setQueued m ch rest).creditBack m ch src).receive m r ch ws true := by
  rw [Chip.deliver, if_neg other, first, queue]

theorem Chip.deliver_reply {t : Nat} {ws : List Word} {rest : List (List Word)} (waits : (c.th m t).wait = .recv 768)
    (replies : (c.th m t).replies = ws :: rest) :
    c.deliver m 768 t = (c.setTh m t { c.th m t with replies := rest }).receive m t 768 ws true := by
  have mine : ((c.th m t).wait == Wait.recv 768) = true := by simp [waits]
  rw [Chip.deliver, if_pos rfl]
  simp only [mine, replies]

variable {now ch m' t' : Nat}

theorem Chip.grantCredit_local {ch' : Nat} {ws : List Word} (low : ch < 512) (kind : c.chanKind m ch = .local_) (free : 0 < c.credits m ch)
    (first : c.firstServed (c.blockedSenders m ch) = some (m', t')) (waits : (c.th m' t').wait = .send ch' ws) :
    c.grantCredit now m ch = (c.publish m' m ch (c.chanKind m' ch' != .local_) ws).sendDone m' t' ch' true := by
  rw [Chip.grantCredit, if_pos low, if_pos (by simp [kind, free]), first]
  simp only [waits]

theorem Chip.grantCredit_engine {ch' : Nat} {ws : List Word} (high : 512 ≤ ch) (first : c.firstServed (c.ableSenders m ch) = some (m', t'))
    (waits : (c.th m t').wait = .send ch' ws) : c.grantCredit now m ch = (c.request now m t' ch ws).sendDone m t' ch true := by
  rw [Chip.grantCredit, if_neg (Nat.not_lt.mpr high), first]
  simp only [waits]

end

/-- Of waiting threads the one served has the highest priority, and of its priority none has waited longer (R101, R117). -/
theorem Chip.firstServed_first {c : Chip} {ts : List (Nat × Nat)} {p q : Nat × Nat}
    (bounds : ∀ r ∈ ts, (c.th r.1 r.2).prio ≤ 3 ∧ (c.th r.1 r.2).since < 2 ^ 80) (first : c.firstServed ts = some p) (hq : q ∈ ts) :
    p ∈ ts ∧ ((c.th q.1 q.2).prio < (c.th p.1 p.2).prio ∨
      (c.th q.1 q.2).prio = (c.th p.1 p.2).prio ∧ (c.th p.1 p.2).since ≤ (c.th q.1 q.2).since) := by
  have hp := leastBy_mem first
  have least := leastBy_le first q hq
  obtain ⟨pPrio, pSince⟩ := bounds p hp
  obtain ⟨qPrio, qSince⟩ := bounds q hq
  exact ⟨hp, by omega⟩

/-! ### Between Mills (R113-R115, R118, R126) -/

/-- The first that passes is taken, the rest stays in its order. -/
theorem takeFirst_split {α : Type} {p : α → Bool} {x : α} (b : List α) (hx : p x = true) : ∀ {a : List α}, (∀ y ∈ a, p y = false) →
    takeFirst p (a ++ x :: b) = some (x, a ++ b)
  | [], _ => if_pos hx
  | y :: a, ha => by
    rw [List.cons_append, takeFirst, ha y (.head _), takeFirst_split b hx fun z hz => ha z (.tail _ hz)]
    rfl

section
variable {c : Chip} {src dst : Nat}

section
variable {a b : List XMsg} {x : XMsg} (queue : c.xmsgs = a ++ x :: b) (hs : x.src = src) (hd : x.dst = dst)
  (older : ∀ y ∈ a, ¬ (y.src = src ∧ y.dst = dst))
include queue hs hd older

theorem Chip.takeFirst_message : takeFirst (fun y : XMsg => y.src == src && y.dst == dst) c.xmsgs = some (x, a ++ b) := by
  rw [queue]
  exact takeFirst_split b (by simp [hs, hd]) fun y hy => by simpa using older y hy

theorem Chip.remoteArrival_closed (closed : c.open1 dst = false) : c.remoteArrival src dst = { c with xmsgs := a ++ b } := by
  rw [Chip.remoteArrival, Chip.takeFirst_message queue hs hd older]
  exact if_pos (by rw [Bool.not_eq_true']; exact closed)

/-- A message that reaches an Open Mill joins the queue of its channel where that takes it, and else is discarded and counted (R113, R114). -/
theorem Chip.remoteArrival_open (up : c.open1 dst = true) :
    let d := ({ c with xmsgs := a ++ b } : Chip).epoch dst
    let room : Prop := d.chanKind dst x.chan = .local_ ∧ d.flag (A.MA_CHAN dst x.chan) F.MA_CHAN_EXTERNAL = true ∧
      (d.queued dst x.chan).length < d.get (A.MA_CHAN dst x.chan) F.MA_CHAN_DEPTH + 1
    (room → c.remoteArrival src dst = d.setQueued dst x.chan (d.queued dst x.chan ++ [(src, x.words)])) ∧
      (¬ room → c.remoteArrival src dst = d.inc (A.MA_CHAN_DISCARD dst)) := by
  have isUp : ¬ (!({ c with xmsgs := a ++ b } : Chip).open1 dst) = true := by
    rw [Bool.not_eq_true', Bool.not_eq_false]
    exact up
  rw [Chip.remoteArrival, Chip.takeFirst_message queue hs hd older]
  exact ⟨fun room => (if_neg isUp).trans (if_pos (by simpa [and_assoc] using room)),
    fun full => (if_neg isUp).trans (if_neg (by simpa [and_assoc] using full))⟩

end

theorem Chip.remoteCredit_returns {a b : List XCred} {x : XCred} (ways : c.xcreds = a ++ x :: b) (hs : x.src = src) (hd : x.dst = dst)
    (older : ∀ y ∈ a, ¬ (y.src = src ∧ y.dst = dst)) : c.remoteCredit src dst = ({ c with xcreds := a ++ b } : Chip).epoch src := by
  have first : takeFirst (fun y : XCred => y.src == src && y.dst == dst) c.xcreds = some (x, a ++ b) := by
    rw [ways]
    exact takeFirst_split b (by simp [hs, hd]) fun y hy => by simpa using older y hy
  rw [Chip.remoteCredit, first]

end

/-! ### Replies of the engines (R109, R120, R121) -/

section
variable {c : Chip} {now m t ch : Nat} {a b : List EngRep} {r : EngRep} (ways : c.reps = a ++ r :: b)
  (hm : r.mill = m) (ht : r.tid = t) (hch : r.chan = ch) (older : ∀ q ∈ a, ¬ (q.mill = m ∧ q.tid = t ∧ q.chan = ch))
include ways hm ht hch older

theorem Chip.takeFirst_reply :
    takeFirst (fun q : EngRep => q.mill == m && q.tid == t && q.chan == ch) c.reps = some (r, a ++ b) := by
  rw [ways]
  exact takeFirst_split b (by simp [hm, ht, hch]) fun q hq => by simpa [and_assoc] using older q hq

theorem Chip.engineReply_full (live : (c.th m t).st ≠ 9) (full : 4 ≤ (c.th m t).replies.length) : c.engineReply now m t ch = c := by
  rw [Chip.engineReply, Chip.takeFirst_reply ways hm ht hch older]
  exact if_pos ⟨live, full⟩

/-- The adapter once the reply has reached its Mill. -/
def Chip.replyTaken (c : Chip) (m : Nat) (rest : List EngRep) : Chip := ({ c with reps := rest } : Chip).epoch m

/-- A thread with one request less outstanding. -/
def Thread.answered (x : Thread) : Thread := { x with reqs := x.reqs - 1 }

theorem Chip.engineReply_delivered (live : (c.th m t).st ≠ 9) (room : (c.th m t).replies.length < 4) :
    c.engineReply now m t ch = (c.replyTaken m (a ++ b)).setTh m t
      { (c.th m t).answered with replies := (c.th m t).replies ++ [r.words] } := by
  rw [Chip.engineReply, Chip.takeFirst_reply ways hm ht hch older]
  exact (if_neg fun full => by omega).trans (if_neg live)

variable (ending : (c.th m t).st = 9)
include ending

theorem Chip.engineReply_discarded (more : (c.th m t).answered.reqs ≠ 0) :
    c.engineReply now m t ch = ((c.replyTaken m (a ++ b)).inc (A.MA_REPLY_DISCARD m)).setTh m t (c.th m t).answered := by
  rw [Chip.engineReply, Chip.takeFirst_reply ways hm ht hch older]
  exact (if_neg fun full => full.1 ending).trans ((if_pos ending).trans (if_neg more))

theorem Chip.engineReply_last (last : (c.th m t).answered.reqs = 0) :
    c.engineReply now m t ch = (((c.replyTaken m (a ++ b)).inc (A.MA_REPLY_DISCARD m)).setTh m t Thread.free).afterFree now m t
      (c.th m t).answered := by
  rw [Chip.engineReply, Chip.takeFirst_reply ways hm ht hch older]
  exact (if_neg fun full => full.1 ending).trans ((if_pos ending).trans (if_pos last))

end

/-- A command that acts on the adapter it finds. -/
theorem State.exec_on {s : State} {i : Instr} {f : Nat → Chip → Chip} {d : Chip} (run : exec i s = s.on f) (effect : f s.time s.found = d) :
    exec i s = .next (s.done d) := by
  rw [run, s.on_done, effect]

/-- Settles O21: what each event takes, and to whom it gives it. -/
theorem waitersServed : Obligations.WaitersServed := by
  refine ⟨fun s m ch t => ⟨fun m' r src ws rest other first queue => ?message, fun ws rest waits replies => ?reply,
      fun m' t' ch' ws low kind free first waits => ?credit, fun m' t' ch' ws high first waits => ?engine⟩,
    fun c ts p q bounds first hq => Chip.firstServed_first bounds first hq,
    fun s src dst => ⟨fun a x b queue hs hd older => ?arrival, fun a x b ways hs hd older => ?homeward⟩,
    fun s m t ch a b r ways hm ht hch older => ?answer⟩
  case message => exact State.exec_on rfl (Chip.deliver_queued other first queue)
  case reply => exact State.exec_on rfl (Chip.deliver_reply waits replies)
  case credit => exact State.exec_on rfl (Chip.grantCredit_local low kind free first waits)
  case engine => exact State.exec_on rfl (Chip.grantCredit_engine high first waits)
  case arrival =>
    exact ⟨fun up room => State.exec_on rfl ((Chip.remoteArrival_open queue hs hd older up).1 room),
      fun up full => State.exec_on rfl ((Chip.remoteArrival_open queue hs hd older up).2 full),
      fun closed => State.exec_on rfl (Chip.remoteArrival_closed queue hs hd older closed)⟩
  case homeward => exact State.exec_on rfl (Chip.remoteCredit_returns ways hs hd older)
  case answer =>
    exact ⟨fun live room => State.exec_on rfl (Chip.engineReply_delivered ways hm ht hch older live room),
      fun live full => State.exec_on rfl (Chip.engineReply_full ways hm ht hch older live full),
      fun ending more => State.exec_on rfl (Chip.engineReply_discarded ways hm ht hch older ending more),
      fun ending last => State.exec_on rfl (Chip.engineReply_last ways hm ht hch older ending last)⟩

end Sys2Proof.Machine

/-! PROOFS. What a stall that lasts leads to, in one Mill and across Mills (R125, R126). -/

namespace Sys2Proof.Machine

/-! ### A stall that has lasted STALL_LIMIT (R125) -/

section
variable {c : Chip} {now m since : Nat} (measured : (c.mill m).stall = some since)
  (lasted : since + c.get (A.MA_STALL_CFG m) F.MA_STALL_CFG_STALL_LIMIT * 0x10000 ≤ c.stampIn m now)
  (stall : c.stalled m = true) (clock : memNat m c.pwr.clkBusy = false)
include measured lasted stall clock

/-- The action is one of two, by ACTION. -/
theorem Chip.stallExpiry_acts :
    let d := c.inc (A.MA_STALL_COUNT m)
    let entry (a0 a1 : Word) : JEvent := { JEvent.base with event := 0x0A, level := 1, island := m, detail := m, a0 := a0, a1 := a1 }
    (c.get (A.MA_STALL_CFG m) F.MA_STALL_CFG_ACTION = 1 → c.stallExpiry now m =
      (((d.journal now (entry 0 1)).haltAll m).setFlag (A.MA_STALL_STATUS m) F.MA_STALL_STATUS_MILL_HALTED true).raise now
        Flt.MA_MILL_DEADLOCK m 63 0 0) ∧
    (∀ t x, c.get (A.MA_STALL_CFG m) F.MA_STALL_CFG_ACTION ≠ 1 → d.youngest m = some (t, x) → c.stallExpiry now m =
      let e := (d.journal now (entry (BitVec.ofNat 64 t) 0)).endThread now m t Code.DEADLOCK true .deflt
      e.setMill m { e.mill m with stall := none }) := by
  have acts : ¬ (c.stampIn m now < since + ns (c.get (A.MA_STALL_CFG m) F.MA_STALL_CFG_STALL_LIMIT) ∨ c.stalled m = false ∨
      memNat m c.pwr.clkBusy = true) := by
    rw [stall, clock, ns]
    simpa using lasted
  refine ⟨fun halt => ?halt, fun t x abort young => ?abort⟩ <;> rw [Chip.stallExpiry, measured]
  case halt => exact (if_neg acts).trans (if_pos halt)
  case abort =>
    refine (if_neg acts).trans ((if_neg abort).trans ?_)
    simp only [young]

end

/-! ### The set a poll resolves (R126) -/

theorem memNat_iff {k : Nat} : ∀ {l : List Nat}, memNat k l = true ↔ k ∈ l
  | [] => by simp [memNat]
  | x :: l => by simp [memNat, memNat_iff (l := l)]

/-- The Mills of `s` that wait on Mills of `s` alone. -/
def closedIn (mask : Nat → Nat) (s : List Nat) : List Nat :=
  s.filter fun m => (List.range 16).all fun k => natBits (mask m) k 1 == 0 || memNat k s

theorem closedSet_succ (mask : Nat → Nat) (n : Nat) (s : List Nat) : closedSet mask (n + 1) s = closedSet mask n (closedIn mask s) := rfl

theorem natBits_eq_zero (v k : Nat) : natBits v k 1 = 0 ↔ v.testBit k = false := by
  rw [natBits, Nat.testBit_eq_decide_div_mod_eq, Nat.shiftRight_eq_div_pow]
  simp

theorem mem_closedIn {mask : Nat → Nat} {s : List Nat} {m : Nat} :
    m ∈ closedIn mask s ↔ m ∈ s ∧ ∀ k < 16, (mask m).testBit k = true → k ∈ s := by
  have waits (k : Nat) : (natBits (mask m) k 1 == 0 || memNat k s) = true ↔ ((mask m).testBit k = true → k ∈ s) := by
    rw [Bool.or_eq_true, beq_iff_eq, natBits_eq_zero, memNat_iff, ← Bool.not_eq_true, Decidable.imp_iff_not_or]
  simp only [closedIn, List.mem_filter, List.all_eq_true, List.mem_range, waits]

theorem mem_of_mem_closedSet {mask : Nat → Nat} {m : Nat} : ∀ {n : Nat} {s : List Nat}, m ∈ closedSet mask n s → m ∈ s
  | 0, _, h => h
  | n + 1, _, h => (mem_closedIn.mp (mem_of_mem_closedSet (n := n) h)).1

/-- Every closed set within `s` stays within each round, and so within the set found. -/
theorem closedSet_largest {mask : Nat → Nat} {l : List Nat} (closed : ∀ m ∈ l, ∀ k < 16, (mask m).testBit k = true → k ∈ l) :
    ∀ (n : Nat) {s : List Nat}, (∀ m ∈ l, m ∈ s) → ∀ m ∈ l, m ∈ closedSet mask n s
  | 0, _, inside => inside
  | n + 1, _, inside => closedSet_largest closed n fun m hm =>
      mem_closedIn.mpr ⟨inside m hm, fun k hk waits => inside k (closed m hm k hk waits)⟩

/-- A round that takes no Mill away has found a closed set, and no later round changes it. -/
theorem closedSet_of_closedIn {mask : Nat → Nat} {s : List Nat} (h : closedIn mask s = s) : ∀ n, closedSet mask n s = s
  | 0 => rfl
  | n + 1 => by rw [closedSet_succ, h, closedSet_of_closedIn h n]

/-- As many rounds as Mills are enough: each takes one away or is the last. -/
theorem closedSet_closed {mask : Nat → Nat} : ∀ {n : Nat} {s : List Nat}, s.length ≤ n →
    closedIn mask (closedSet mask n s) = closedSet mask n s
  | 0, s, h => by
    obtain rfl := List.length_eq_zero_iff.mp (Nat.le_zero.mp h)
    rfl
  | n + 1, s, h => by
    by_cases same : closedIn mask s = s
    · rw [closedSet_of_closedIn same, same]
    · have shorter : (closedIn mask s).length < s.length :=
        Nat.lt_of_le_of_ne (List.length_filter_le _ _) fun e => same (List.filter_sublist.eq_of_length e)
      exact closedSet_closed (n := n) (Nat.le_of_lt_succ (Nat.lt_of_lt_of_le shorter h))

/-- The set found lies within the candidates, waits on none but its own, and holds every such set. -/
theorem closedSet_spec (mask : Nat → Nat) {cand : List Nat} (mills : ∀ m ∈ cand, m < 16) (once : cand.Nodup) :
    let s := closedSet mask 16 cand
    (∀ m ∈ s, m ∈ cand) ∧ (∀ m ∈ s, ∀ k < 16, (mask m).testBit k = true → k ∈ s) ∧
      (∀ l : List Nat, (∀ m ∈ l, m ∈ cand) → (∀ m ∈ l, ∀ k < 16, (mask m).testBit k = true → k ∈ l) →
        ∀ m ∈ l, m ∈ s) := by
  have few : cand.length ≤ 16 := by
    rw [← List.length_range (n := 16)]
    exact once.length_le_of_subset fun m hm => List.mem_range.mpr (mills m hm)
  refine ⟨fun m => mem_of_mem_closedSet, fun m hm => ?_, fun l inside closed => closedSet_largest closed 16 inside⟩
  rw [← closedSet_closed few] at hm
  exact (mem_closedIn.mp hm).2

/-! ### A poll across Mills (R126) -/

theorem Chip.pollDue_iff (c : Chip) (now : Nat) : c.pollDue now = true ↔ ∀ t, c.cmd.polled = some t →
    t + 1000 * c.get A.MA_XSTALL_CTRL F.MA_XSTALL_CTRL_POLL_US * 0x10000 ≤ stamp now ∨ stamp now < t := by
  rw [Chip.pollDue]
  rcases c.cmd.polled with _ | t
  case none => simp
  case some =>
    simp only [Bool.or_eq_true, decide_eq_true_eq, Option.some.injEq, forall_eq']
    exact Iff.rfl

/-- A Mill's stall status as a poll reads it: its quiescence and MSG_EPOCH, nothing where it is not Open. -/
def Chip.pollReading (c : Chip) (m : Nat) : Option (Bool × Nat) :=
  if c.open1 m then some (c.quiescent m, c.get (A.MA_STALL_STATUS m) F.MA_STALL_STATUS_MSG_EPOCH) else none

/-- The Mills that qualify: not halted, quiescent at this poll and the last with no message between. -/
def Chip.pollCandidates (c : Chip) : List Nat :=
  let ep (m : Nat) := c.get (A.MA_STALL_STATUS m) F.MA_STALL_STATUS_MSG_EPOCH
  (List.range 16).filter fun m =>
    !c.millHalted m && (c.pollReading m == some (true, ep m)) && ((c.mill m).poll == some (true, ep m))

/-- The Mills of the deadlock a poll resolves. -/
def Chip.pollSet (c : Chip) : List Nat := closedSet c.extMask 16 c.pollCandidates

/-- The adapter at a poll. -/
def Chip.polledAt (c : Chip) (now : Nat) : Chip := { c with cmd := { c.cmd with polled := some (stamp now) } }

/-- The time of the last poll is not part of what a poll looks at. -/
theorem Chip.youngestOf_polledAt (c : Chip) (now : Nat) : (c.polledAt now).youngestOf (c.polledAt now).pollSet = c.youngestOf c.pollSet := rfl

section
variable {c : Chip} {now : Nat}

theorem Chip.xstallPoll_idle (idle : c.flag A.MA_XSTALL_CTRL F.MA_XSTALL_CTRL_ENABLE = false ∨ ¬ c.pollDue now = true) : c.xstallPoll now = c := by
  rw [Chip.xstallPoll, if_pos]
  rcases idle with h | h <;> simp [h]

variable (enabled : c.flag A.MA_XSTALL_CTRL F.MA_XSTALL_CTRL_ENABLE = true) (due : c.pollDue now = true)
include enabled due

theorem Chip.xstallPoll_quiet (quiet : c.youngestOf c.pollSet = none) : c.xstallPoll now =
    (List.range 16).foldl (fun (d : Chip) j => d.setMill j { d.mill j with poll := c.pollReading j }) (c.polledAt now) := by
  rw [Chip.xstallPoll, if_neg (by simp [enabled, due])]
  dsimp only
  split
  next found => cases quiet.symm.trans ((c.youngestOf_polledAt now).symm.trans found)
  next => rfl

theorem Chip.xstallPoll_resolves {m t : Nat} (young : c.youngestOf c.pollSet = some (m, t)) : c.xstallPoll now =
    let e := ((c.polledAt now).inc A.MA_XSTALL_COUNT).raise now Flt.MA_XMILL_DEADLOCK 31 63 (c.th m t).slice 0
    let entry : JEvent := { JEvent.base with event := 0x0A, level := 1, island := m, detail := m,
                                              a0 := BitVec.ofNat 64 (c.pollSet.foldl (fun k j => k ||| 2 ^ j) 0),
                                              a1 := BitVec.ofNat 64 Code.DEADLOCK }
    let e := (e.journal now entry).endThread now m t Code.DEADLOCK true .deflt
    (List.range 16).foldl (fun c j => c.setMill j { c.mill j with poll := none }) e := by
  rw [Chip.xstallPoll, if_neg (by simp [enabled, due])]
  dsimp only
  split
  next found =>
    cases young.symm.trans ((c.youngestOf_polledAt now).symm.trans found)
    rfl
  next found => cases young.symm.trans ((c.youngestOf_polledAt now).symm.trans found)

end

/-- Settles O22: the actions by ACTION, the poll by what it finds, the set by the rounds that leave it. -/
theorem stallActions : Obligations.StallActions := by
  refine ⟨fun s m since measured lasted stall clock => ?lasts, fun s => ?poll, fun mask cand mills once => closedSet_spec mask mills once⟩
  case lasts =>
    have acts := Chip.stallExpiry_acts measured lasted stall clock
    exact ⟨fun halt => State.exec_on rfl (acts.1 halt), fun t x abort young => State.exec_on rfl (acts.2 t x abort young)⟩
  case poll =>
    exact ⟨fun idle => State.exec_on rfl (Chip.xstallPoll_idle (idle.imp_right (mt (s.found.pollDue_iff s.time).mp))),
      fun enabled due quiet => State.exec_on rfl (Chip.xstallPoll_quiet enabled ((s.found.pollDue_iff s.time).mpr due) quiet),
      fun enabled due m t young => State.exec_on rfl (Chip.xstallPoll_resolves enabled ((s.found.pollDue_iff s.time).mpr due) young)⟩

end Sys2Proof.Machine

/-! PROOFS. The start of a resident thread (R111) where a keyed value is armed for its register. Commands arm values
for keyed state alone (`keyedBases`, SM_SLICE); the statement speaks of every state, and so of those where one is armed elsewhere too. -/

namespace Sys2Proof.Machine

/-- A state in Service in which resident thread 0 of Mill 0 is live as its register is stored, while a keyed value armed for that register
and in force reads its LIVE as 0. -/
def residentOverArmed : State :=
  let c := ((Chip.init.set A.CP_MODE F.CP_MODE_CURRENT Mode.service).set (A.CP_PWR_STATUS (targetDomain 0)) F.CP_PWR_STATUS_STATE 2).setFlag
    (A.MA_RESIDENT 0 0) F.MA_RESIDENT_LIVE true
  { pending := [], time := 0,
    chip := { c with pwr := { c.pwr with fwRuns := true }, ft := { c.ft with armed := [⟨A.MA_RESIDENT 0 0, 0, 2 ^ 19, 0, 0⟩] } } }

/-- The code of the last register write in the state an outcome goes on with. -/
def lastCode : Host.Outcome State Fault Refusal → Option Status
  | .next u => some u.chip.cmd.lastStatus
  | _ => none

theorem residentOverArmed_sound : residentOverArmed.sound = true := by decide +kernel

/-- The write judges LIVE as it is in force, and so starts the thread once more. -/
theorem residentOverArmed_starts : lastCode (exec (.residentStart 0 0 0 0) residentOverArmed) = some Code.OK := by decide +kernel

theorem lastCode_refused :
    lastCode (residentOverArmed.wrote Code.BAD_ARGUMENT residentOverArmed.found) = some Code.BAD_ARGUMENT := by decide +kernel

/-- Refutes O23: a start of a live resident thread is not refused where a keyed value armed for its register reads LIVE as 0. -/
theorem not_debugOperations : ¬ Obligations.DebugOperations := by
  rintro ⟨_, writes⟩
  obtain ⟨_, _, _, _, _, _, _, _, _, _, resident, _⟩ := writes residentOverArmed 0 0 0
  have writable : residentOverArmed.writable (A.MA_RESIDENT 0 0) = true := by decide +kernel
  have live : residentOverArmed.found.flag (A.MA_RESIDENT 0 0) F.MA_RESIDENT_LIVE = true := by decide +kernel
  obtain ⟨refused, _⟩ := resident 0 0 0 writable
  have codes := (congrArg lastCode (refused live)).symm.trans residentOverArmed_starts
  exact absurd (lastCode_refused.symm.trans codes) (by decide)

end Sys2Proof.Machine

/-! PROOFS. What Prelook has anticipated: requests that adopt it, tentative results that complete, and HOLD_NS (R147-R151). -/

namespace Sys2Proof.Machine

/-! ### Adoption (R149-R151) -/

/-- A request that Prelook cannot have anticipated simply runs. -/
theorem Chip.adopt_plain {c : Chip} {r : EngReq} (run : Chip → List Word × Chip) (taken : List Word → Chip → List Word × Chip)
    (h : c.plain r) : c.adopt r run taken = some (run c) := by
  unfold Chip.adopt
  split
  next pk p sent packet =>
    have asked := h pk p sent (by rwa [sent] at packet)
    exact if_pos asked
  next => rfl

/-- Packet `pk` has made its first request on channel `ch`. -/
def Chip.asks (c : Chip) (pk : Nat) (p : Packet) (ch : Nat) : Chip := c.setPkt pk (some { p with asked := p.asked ++ [ch] })

/-- That first request takes the tentative result of the channel away. -/
def Chip.asksTent (c : Chip) (pk : Nat) (p : Packet) (ch : Nat) : Chip :=
  let d := c.asks pk p ch
  { d with disp := { d.disp with tents := d.disp.tents.filter fun t => !(t.pk == pk && t.chan == ch) } }

/-- The reply and the adapter of a request of packet `p` that adopts the result of a recipe, of what that result gives: it counts, and the
recipe gains confidence. -/
def Packet.adopts (p : Packet) (r : EngReq) (recipe : Nat) (q : List Word × Chip) : List Word × Chip :=
  (q.1, (q.2.inc A.MA_PL_ADOPTED).learnSig p r.chan r.words (some (recipe, true)))

section
variable {c : Chip} {r : EngReq} {run : Chip → List Word × Chip} {taken : List Word → Chip → List Word × Chip} {pk : Nat} {p : Packet}
  (sent : r.pk = some pk) (packet : c.pkt pk = some p) (first : memNat r.chan p.asked = false)
include sent packet first

theorem Chip.adopt_unanticipated (found : c.disp.tents.find? (fun t : Tent => t.pk == pk && t.chan == r.chan) = none) :
    c.adopt r run taken =
      some ((run (c.asks pk p r.chan)).1, (run (c.asks pk p r.chan)).2.learnSig p r.chan r.words none) := by
  simp only [Chip.adopt, sent, Option.bind_some, packet, first, found]
  rfl

section
variable {t : Tent} (found : c.disp.tents.find? (fun t : Tent => t.pk == pk && t.chan == r.chan) = some t)
include found

theorem Chip.adopt_waits (same : t.words = r.words) (running : t.done = false) : c.adopt r run taken = none := by
  simp only [Chip.adopt, sent, Option.bind_some, packet, first, found, same, running]
  rfl

/-- A tentative result that has completed is adopted: taken where it stands, made afresh where not. -/
theorem Chip.adopt_completed (same : t.words = r.words) (completed : t.done = true) :
    let d := c.asksTent pk p r.chan
    c.adopt r run taken =
      some (p.adopts r t.recipe (if t.deps = d.tentDeps p.mill r.chan p.istamp then taken t.reply d else run d)) := by
  simp only [Chip.adopt, sent, Option.bind_some, packet, first, found, same, completed]
  rfl

theorem Chip.adopt_stands (same : t.words = r.words) (completed : t.done = true)
    (stands : t.deps = (c.asksTent pk p r.chan).tentDeps p.mill r.chan p.istamp) :
    c.adopt r run taken = some (p.adopts r t.recipe (taken t.reply (c.asksTent pk p r.chan))) :=
  (Chip.adopt_completed sent packet first found same completed).trans (congrArg (fun q => some (p.adopts r t.recipe q)) (if_pos stands))

theorem Chip.adopt_afresh (same : t.words = r.words) (completed : t.done = true)
    (falls : t.deps ≠ (c.asksTent pk p r.chan).tentDeps p.mill r.chan p.istamp) :
    c.adopt r run taken = some (p.adopts r t.recipe (run (c.asksTent pk p r.chan))) :=
  (Chip.adopt_completed sent packet first found same completed).trans (congrArg (fun q => some (p.adopts r t.recipe q)) (if_neg falls))

theorem Chip.adopt_other (other : t.words ≠ r.words) :
    let q := run ((c.asksTent pk p r.chan).inc A.MA_PL_DISCARDED)
    c.adopt r run taken = some (q.1, q.2.learnSig p r.chan r.words (some (t.recipe, false))) := by
  simp only [Chip.adopt, sent, Option.bind_some, packet, first, found, other]
  rfl

end
end

/-! ### Completion and expiry (R147-R151) -/

/-- Adapter `c` once the tentative result of packet `pk` on channel `ch` has completed with reply `ws`. -/
def Chip.tentKept (c : Chip) (pk ch : Nat) (ws : List Word) : Chip :=
  { c with disp := { c.disp with tents := c.disp.tents.map fun x =>
      if x.pk == pk && x.chan == ch then { x with done := true, reply := ws } else x } }

/-- A tentative result that is outstanding completes: its reply is kept, and only what `spend` lets through stands. -/
theorem Chip.tentDone_keeps {c : Chip} {pk ch : Nat} {p : Packet} {t : Tent} (run : EngReq → Chip → List Word × Chip)
    (spend : Nat → Chip → Chip → Chip) (packet : c.pkt pk = some p)
    (found : c.disp.tents.find? (fun t : Tent => t.pk == pk && t.chan == ch && !t.done) = some t) :
    c.tentDone pk ch run spend =
      (spend p.mill c (run (p.tentReq pk t) c).2).tentKept pk ch (run (p.tentReq pk t) c).1 := by
  simp only [Chip.tentDone, packet, found]
  rfl

section
variable (c : Chip) (now pk : Nat) {ch : Nat}

theorem Chip.tentativeComplete_bank (lo : 512 ≤ ch) (hi : ch < 520) :
    c.tentativeComplete now pk ch = c.tentDone pk ch (fun r c => c.lookupServe now r) fun _ c d => { c with free := d.free } :=
  if_pos ⟨lo, hi⟩

theorem Chip.tentativeComplete_scan (h : ch = 528) :
    c.tentativeComplete now pk ch = c.tentDone pk ch (fun r c => c.scan now r.words r) fun _ c d => { c with free := d.free } := by
  rw [Chip.tentativeComplete, if_neg (by omega), if_pos h]

theorem Chip.tentativeComplete_exact (lo : 544 ≤ ch) (hi : ch < 576) :
    c.tentativeComplete now pk ch = c.tentDone pk ch (fun r c => c.teServe now r true) fun m c d => c.tentSpent m d := by
  rw [Chip.tentativeComplete, if_neg (by omega), if_neg (by omega), if_pos ⟨lo, hi⟩]

theorem Chip.tentativeComplete_lpm (lo : 577 ≤ ch) (hi : ch < 585) :
    c.tentativeComplete now pk ch = c.tentDone pk ch (fun r c => c.lpmServe now r true) fun m c d => c.tentSpent m d := by
  rw [Chip.tentativeComplete, if_neg (by omega), if_neg (by omega), if_neg (by omega), if_pos ⟨lo, hi⟩]

end

/-- Discarding the tentative results that `gone` names counts them. -/
theorem Chip.discardTents_not (c : Chip) (gone : Tent → Bool) :
    c.discardTents (fun t => !gone t) =
      { c.add A.MA_PL_DISCARDED (c.disp.tents.filter gone).length with
        disp := { c.disp with tents := c.disp.tents.filter fun t => !gone t } } := by
  simp only [Chip.discardTents, Bool.not_not]

/-- Settles O27: a request by what Prelook holds for it, a tentative result by the engine of its channel. -/
theorem prelookAdopts : Obligations.PrelookAdopts := by
  refine ⟨fun c r run taken pk p t => ⟨fun unsent => ?unsent, fun sent packet asked => ?later, fun sent packet first => ?first⟩,
    fun s pk p t ch packet found => ⟨fun lo hi => ?bank, fun scan => ?scan, fun lo hi => ?exact, fun lo hi => ?lpm, ?expiry⟩⟩
  case unsent => exact Chip.adopt_plain run taken fun pk _ sent => nomatch unsent.symm.trans sent
  case later =>
    refine Chip.adopt_plain run taken fun pk' p' sent' packet' => ?_
    cases sent.symm.trans sent'
    cases packet.symm.trans packet'
    exact asked
  case first =>
    exact ⟨fun found => Chip.adopt_unanticipated sent packet first found, fun found =>
      ⟨fun same running => Chip.adopt_waits sent packet first found same running,
        fun same completed stands => Chip.adopt_stands sent packet first found same completed stands,
        fun same completed falls => Chip.adopt_afresh sent packet first found same completed falls,
        fun other => Chip.adopt_other sent packet first found other⟩⟩
  case bank => exact State.exec_on rfl ((s.found.tentativeComplete_bank s.time pk lo hi).trans (Chip.tentDone_keeps _ _ packet found))
  case scan => exact State.exec_on rfl ((s.found.tentativeComplete_scan s.time pk scan).trans (Chip.tentDone_keeps _ _ packet found))
  case exact => exact State.exec_on rfl ((s.found.tentativeComplete_exact s.time pk lo hi).trans (Chip.tentDone_keeps _ _ packet found))
  case lpm => exact State.exec_on rfl ((s.found.tentativeComplete_lpm s.time pk lo hi).trans (Chip.tentDone_keeps _ _ packet found))
  case expiry => exact State.exec_on rfl (s.found.discardTents_not _)

end Sys2Proof.Machine

/-! PROOFS. The channels that Prelook may anticipate, the lookups of the rule banks and the scans of the pattern engine
(R149, R162, R165, R167, R168, R174, R180, R181, R184-R187). -/

namespace Sys2Proof.Machine

/-! ### The oldest request of a channel that recipes may name (R149) -/

section
variable {c d : Chip} {ch : Nat} {p : EngReq → Bool} {after : EngReq → EngReq → Bool} {run : EngReq → Chip → List Word × Chip}
  {taken : EngReq → List Word → Chip → List Word × Chip} {r : EngReq} {rest : List EngReq} {ws : List Word}

/-- Where no request may be served, the adapter stays as it is. -/
theorem Chip.serveAdopt_none (h : ∀ q, p q = false) : ∀ (rs pre : List EngReq), Chip.serveAdopt ch after run taken p pre rs c = c
  | [], _ => rfl
  | q :: rs, pre => by
    rw [Chip.serveAdopt, if_neg (by simp [h q])]
    exact Chip.serveAdopt_none h rs (q :: pre)

/-- The oldest request decides what a channel does: it is answered, or passed over. -/
theorem Chip.serveAdopt_oldest {rs : List EngReq} (pre : List EngReq)
    (h : takeFirst (fun q : EngReq => q.chan == ch && !q.owed && p q) rs = some (r, rest)) :
    (∀ ws d, ({ c with reqs := pre.reverse ++ rest }).adopt r (run r) (taken r) = some (ws, d) →
      Chip.serveAdopt ch after run taken p pre rs c = d.answer r ws) ∧
    (({ c with reqs := pre.reverse ++ rest }).adopt r (run r) (taken r) = none →
      ∃ pre' rs', Chip.serveAdopt ch after run taken p pre rs c =
        Chip.serveAdopt ch after run taken (fun q => p q && !after r q) pre' rs' c) := by
  induction rs generalizing rest pre with
  | nil => cases h
  | cons q rs ih =>
    by_cases mine : (q.chan == ch && !q.owed && p q) = true
    · simp only [takeFirst, mine, if_true, Option.some.injEq, Prod.mk.injEq] at h
      obtain ⟨rfl, rfl⟩ := h
      have served : q.chan = ch ∧ q.owed = false ∧ p q = true := by simpa [and_assoc] using mine
      rw [Chip.serveAdopt, if_pos served]
      exact ⟨fun ws d adopted => by rw [adopted], fun waits => by rw [waits]; exact ⟨_, _, rfl⟩⟩
    · rw [takeFirst, if_neg mine, Option.map_eq_some_iff] at h
      obtain ⟨⟨r', rest'⟩, h, e⟩ := h
      cases e
      have other : ¬ (q.chan = ch ∧ q.owed = false ∧ p q = true) := by simpa [and_assoc] using mine
      have same : pre.reverse ++ q :: rest' = (q :: pre).reverse ++ rest' := by simp
      rw [Chip.serveAdopt, if_neg other, same]
      exact ih (q :: pre) h

theorem Chip.front_spec (hf : c.front ch p = some (r, rest)) :
    c.up (engineTarget ch) = true ∧ takeFirst (fun q : EngReq => q.chan == ch && !q.owed && p q) c.reqs = some (r, rest) :=
  (Option.ite_none_right_eq_some).mp hf

/-- The request served is one of its channel. -/
theorem Chip.front_chan (hf : c.front ch p = some (r, rest)) : r.chan = ch := by
  have mine := List.find?_some (find?_of_takeFirst (Chip.front_spec hf).2)
  simp only [Bool.and_eq_true, beq_iff_eq] at mine
  exact mine.1.1

theorem Chip.serveTent_answers (hf : c.front ch p = some (r, rest))
    (adopted : ({ c with reqs := rest }).adopt r (run r) (taken r) = some (ws, d)) :
    c.serveTent ch p after run taken = d.answer r ws := by
  obtain ⟨up, oldest⟩ := Chip.front_spec hf
  rw [Chip.serveTent, if_pos up]
  exact (Chip.serveAdopt_oldest [] oldest).1 ws d adopted

/-- A queue served strictly in order waits with its oldest request. -/
theorem Chip.serveTent_waits (hf : c.front ch p = some (r, rest)) (waits : ({ c with reqs := rest }).adopt r (run r) (taken r) = none) :
    c.serveTent ch p EngReq.inOrder run taken = c := by
  obtain ⟨up, oldest⟩ := Chip.front_spec hf
  obtain ⟨pre, rs, passed⟩ := (Chip.serveAdopt_oldest (after := EngReq.inOrder) [] oldest).2 waits
  rw [Chip.serveTent, if_pos up, passed]
  exact Chip.serveAdopt_none (fun q => by simp [EngReq.inOrder]) rs pre

/-- A request that Prelook cannot have anticipated is answered as it runs. -/
theorem Chip.serveTent_plain (hf : c.front ch p = some (r, rest)) (plain : ({ c with reqs := rest }).plain r)
    (ran : run r { c with reqs := rest } = (ws, d)) : c.serveTent ch p after run taken = d.answer r ws :=
  Chip.serveTent_answers hf ((Chip.adopt_plain _ _ plain).trans (congrArg some ran))

end

/-! ### LOOKUP (R162, R165, R167, R168, R174, R180, R181) -/

section
variable {c : Chip} {now b ver slice n : Nat} {ws : List Word}

theorem Chip.lookupReply_hit (found : (c.lookup now b ver ws slice).1 = .hit n) :
    let l := c.lookup now b ver ws slice
    let d := l.2.2.inc (A.CL_BANK_LOOKUPS b)
    c.lookupReply now b ver ws slice =
      ([lookupWord Code.OK b n, d.rd (A.CL_RULE (8192 * b + n) + 80), d.rd (A.CL_RULE (8192 * b + n) + 88), BitVec.ofNat 64 l.2.1],
        d.inc (A.CL_RULE_HITS (8192 * b + n))) := by
  simp only [Chip.lookupReply, found]

theorem Chip.lookupReply_miss (found : (c.lookup now b ver ws slice).1 = .miss) :
    let l := c.lookup now b ver ws slice
    let d := l.2.2.inc (A.CL_BANK_LOOKUPS b)
    c.lookupReply now b ver ws slice =
      ([lookupWord Code.NOT_FOUND b 0, d.rd (A.CL_BANK_MISS b), 0, BitVec.ofNat 64 l.2.1], d.inc (A.CL_BANK_MISSES b)) := by
  simp only [Chip.lookupReply, found]

theorem Chip.lookupReply_poisoned (found : (c.lookup now b ver ws slice).1 = .poisoned n) :
    let l := c.lookup now b ver ws slice
    let d := l.2.2.inc (A.CL_BANK_LOOKUPS b)
    c.lookupReply now b ver ws slice =
      ([lookupWord Code.POISONED b 0, 0, 0, BitVec.ofNat 64 l.2.1],
        d.raise now Flt.CL_RULE_POISON 23 63 slice (BitVec.ofNat 64 (8192 * b + n))) := by
  simp only [Chip.lookupReply, found]

end

section
variable {c : Chip} {now b : Nat} {r : EngReq}

/-- A request of a length that Table 6-1 gives is a lookup under the version stamp it carries. -/
theorem Chip.lookupServe_lookup (chan : r.chan = 512 + b) (least : 0 < r.words.length) (most : r.words.length ≤ 5) :
    c.lookupServe now r = c.lookupReply now b (verIn r.ver0 r.ver1 b) r.words r.slice := by
  rw [Chip.lookupServe, if_neg (by omega), chan, Nat.add_sub_cancel_left]

theorem Chip.lookupServe_badArgument (chan : r.chan = 512 + b) (len : ¬ (0 < r.words.length ∧ r.words.length ≤ 5)) :
    c.lookupServe now r = ([lookupWord Code.BAD_ARGUMENT b 0, 0, 0, 0], c) := by
  rw [Chip.lookupServe, if_pos (by omega), chan, Nat.add_sub_cancel_left]

end

/-- A reply word as a number (Table 4-5). -/
theorem replyWord_toNat (st flags chan value : Nat) :
    (replyWord st flags chan value).toNat =
      st % 2 ^ 16 + flags % 2 ^ 8 * 2 ^ 16 + chan % 1024 * 2 ^ 30 + value % 2 ^ 24 * 2 ^ 40 := by
  rw [replyWord, BitVec.toNat_ofNat]
  omega

/-- The status of a reply word. -/
theorem getBits_replyWord_status {st : Nat} (flags chan value : Nat) (h : st < 2 ^ 16) : getBits (replyWord st flags chan value) 0 16 = st := by
  rw [getBits, replyWord_toNat, Nat.shiftRight_eq_div_pow]
  omega

/-- The value of a reply word, in a field of 13 bits. -/
theorem getBits_replyWord_value (st flags chan : Nat) {value : Nat} (h : value < 2 ^ 13) :
    getBits (replyWord st flags chan value) 40 13 = value := by
  rw [getBits, replyWord_toNat, Nat.shiftRight_eq_div_pow]
  omega

section
variable {c : Chip} {now b n : Nat} {r : EngReq} {reply : List Word} (chan : r.chan = 512 + b)
include chan

/-- A tentative hit that stands is delivered and counted as a hit (R180). -/
theorem Chip.lookupTaken_hit (hn : n < 8192) (word : nth 0 reply 0 = lookupWord Code.OK b n) :
    c.lookupTaken now r reply = (reply, (c.inc (A.CL_BANK_LOOKUPS b)).inc (A.CL_RULE_HITS (8192 * b + n))) := by
  have status : getBits (lookupWord Code.OK b n) 0 16 = Code.OK := getBits_replyWord_status _ _ _ (by decide)
  have rule : getBits (lookupWord Code.OK b n) 40 13 = n := by
    rw [lookupWord, Nat.mod_eq_of_lt (b := 2 ^ 13) hn, getBits_replyWord_value _ _ _ hn]
  simp only [Chip.lookupTaken, word, status, rule, chan, if_true, Nat.add_sub_cancel_left]

/-- A tentative miss that stands is delivered and counted as a miss (R180). -/
theorem Chip.lookupTaken_miss (word : nth 0 reply 0 = lookupWord Code.NOT_FOUND b n) :
    c.lookupTaken now r reply = (reply, (c.inc (A.CL_BANK_LOOKUPS b)).inc (A.CL_BANK_MISSES b)) := by
  have status : getBits (lookupWord Code.NOT_FOUND b n) 0 16 = Code.NOT_FOUND := getBits_replyWord_status _ _ _ (by decide)
  have miss : Code.NOT_FOUND ≠ Code.OK := by decide
  simp only [Chip.lookupTaken, word, status, miss, chan, if_true, if_false, Nat.add_sub_cancel_left]

end

/-! ### SCAN (R184-R187) -/

/-- A SCAN request as Table 6-6 forms it: one word, its reserved bits 0, START within a packet. -/
def EngReq.scanForm (r : EngReq) : Prop :=
  r.words.length = 1 ∧ r.valid = true ∧ getBits (nth 0 r.words 0) 33 31 = 0 ∧ getBits (nth 0 r.words 0) 0 16 < r.plen

/-- The flag TRUNCATED of a scan: MAX_DEPTH shortens its range (R185). -/
def Chip.scanTrunc (c : Chip) (w : Word) (plen : Nat) : Nat :=
  if c.get A.CL_PE_CFG F.CL_PE_CFG_MAX_DEPTH < scanEnd0 w plen then 2 else 0

/-- The bytes a scan reads: whether one is poisoned, the bytes, the adapter after it. -/
def Chip.scanRead (c : Chip) (now : Nat) (r : EngReq) : Bool × List Byte × Chip :=
  let w := nth 0 r.words 0
  let len := c.scanLen w r.plen
  if len = 0 then (false, [], c) else c.bobRead now (c.bobBase r.pkt + getBits w 0 16) len r.slice

/-- The adapter on which a scan is judged: its bytes have been read and a free value used. -/
def Chip.scanned (c : Chip) (now : Nat) (r : EngReq) : Chip := (c.scanRead now r).2.2.fresh.2

/-- The check a scan makes of its request is that of its form. -/
theorem EngReq.scanForm_iff {r : EngReq} : r.scanForm ↔
    ¬ (r.words.length ≠ 1 ∨ !r.valid ∨ getBits (nth 0 r.words 0) 33 31 ≠ 0 ∨ r.plen ≤ getBits (nth 0 r.words 0) 0 16) := by
  simp [EngReq.scanForm]

section
variable {c : Chip} {now : Nat} {r : EngReq}

theorem Chip.scan_badArgument (form : ¬ r.scanForm) : c.scan now r.words r = ([replyWord Code.BAD_ARGUMENT 0 528 0], c) :=
  if_pos (Decidable.not_not.mp (mt EngReq.scanForm_iff.mpr form))

section
variable (form : r.scanForm)
include form

theorem Chip.scan_poisoned (bad : (c.scanRead now r).1 = true) :
    c.scan now r.words r =
      ([replyWord Code.POISONED (c.scanTrunc (nth 0 r.words 0) r.plen) 528 (c.peActive r.istamp * 2 ^ 16)],
        (c.scanned now r).scanCount (c.scanLen (nth 0 r.words 0) r.plen) 0) := by
  rw [Chip.scan, if_neg (EngReq.scanForm_iff.mp form)]
  unfold Chip.scanned
  rcases read : c.scanRead now r with ⟨p, bs, d⟩
  obtain rfl : p = true := by rwa [read] at bad
  unfold Chip.scanRead at read
  simp only [read, Chip.scanTrunc, if_true, Nat.zero_mod, Nat.zero_add]

section
variable (clean : (c.scanRead now r).1 = false)
include clean

theorem Chip.scan_noPricking (unready : (c.scanned now r).peReady (c.peActive r.istamp) = false) :
    c.scan now r.words r =
      ([replyWord Code.NO_PRICKING (c.scanTrunc (nth 0 r.words 0) r.plen) 528 (c.peActive r.istamp * 2 ^ 16)], c.scanned now r) := by
  rw [Chip.scan, if_neg (EngReq.scanForm_iff.mp form)]
  unfold Chip.scanned at unready ⊢
  rcases read : c.scanRead now r with ⟨p, bs, d⟩
  rw [read] at clean unready
  obtain rfl : p = false := clean
  unfold Chip.scanRead at read
  simp only [read, unready, Chip.scanTrunc, Bool.false_and, Bool.false_eq_true, if_false, Bool.not_false, if_true, Nat.zero_mod, Nat.zero_add]

theorem Chip.scan_matches (ready : (c.scanned now r).peReady (c.peActive r.istamp) = true)
    (whole : (c.scanned now r).pePoisoned (c.peActive r.istamp) = []) :
    let w := nth 0 r.words 0
    let slot := c.peActive r.istamp
    let ms := firstOnly (getBits w 32 1 == 1) (matchesIn ((c.scanned now r).patterns slot) (c.scanRead now r).2.1 (getBits w 0 16))
    let n := min 65535 ms.length
    c.scan now r.words r =
      (replyWord Code.OK (c.scanTrunc w r.plen + if 7 < n then 1 else 0) 528 (n % 2 ^ 16 + slot * 2 ^ 16) :: (ms.take 7).map matchWord,
        (c.scanned now r).scanCount (c.scanLen w r.plen) n) := by
  rw [Chip.scan, if_neg (EngReq.scanForm_iff.mp form)]
  unfold Chip.scanned at ready whole ⊢
  rcases read : c.scanRead now r with ⟨p, bs, d⟩
  rw [read] at clean ready whole
  obtain rfl : p = false := clean
  unfold Chip.scanRead at read
  simp only [read, ready, whole, Chip.scanTrunc, List.isEmpty_nil, Bool.not_true, Bool.and_false, Bool.false_and, Bool.false_eq_true, if_false]

end
end
end

/-! ### What the pattern engine finds (R185, R186) -/

theorem mem_insertPattern {p x : Config.Pattern} : ∀ {qs : List Config.Pattern}, x ∈ insertPattern p qs ↔ x = p ∨ x ∈ qs
  | [] => by simp [insertPattern]
  | q :: qs => by
    unfold insertPattern
    split
    · rw [List.mem_cons, mem_insertPattern, List.mem_cons, or_left_comm]
    · rw [List.mem_cons]

theorem pairwise_insertPattern (p : Config.Pattern) : ∀ {qs : List Config.Pattern}, qs.Pairwise (fun x y => x.id ≤ y.id) →
    (insertPattern p qs).Pairwise fun x y => x.id ≤ y.id
  | [], _ => List.pairwise_singleton _ _
  | q :: qs, h => by
    obtain ⟨least, rises⟩ := List.pairwise_cons.mp h
    unfold insertPattern
    split
    next le =>
      refine List.pairwise_cons.mpr ⟨fun x hx => ?_, pairwise_insertPattern p rises⟩
      rcases mem_insertPattern.mp hx with rfl | hx
      · exact le
      · exact least x hx
    next gt =>
      refine List.pairwise_cons.mpr ⟨fun x hx => ?_, h⟩
      rcases List.mem_cons.mp hx with rfl | hx
      · omega
      · have := least x hx
        omega

theorem mem_foldl_insertPattern {x : Config.Pattern} : ∀ {ps qs : List Config.Pattern},
    x ∈ ps.foldl (fun ps p => insertPattern p ps) qs ↔ x ∈ ps ∨ x ∈ qs
  | [], _ => by simp
  | p :: ps, qs => by
    rw [List.foldl_cons, mem_foldl_insertPattern, mem_insertPattern, List.mem_cons, or_left_comm, or_assoc]

theorem pairwise_foldl_insertPattern : ∀ (ps : List Config.Pattern) {qs : List Config.Pattern}, qs.Pairwise (fun x y => x.id ≤ y.id) →
    (ps.foldl (fun ps p => insertPattern p ps) qs).Pairwise fun x y => x.id ≤ y.id
  | [], _, h => h
  | p :: ps, _, h => pairwise_foldl_insertPattern ps (pairwise_insertPattern p h)

/-- The patterns of a slot are those of its image that have a pattern's form. -/
theorem Chip.mem_patterns {c : Chip} {slot : Nat} {p : Config.Pattern} :
    p ∈ c.patterns slot ↔ p ∈ Config.pricking (mget [] c.cl.img slot) ∧ patternOk p = true := by
  rw [Chip.patterns, mem_foldl_insertPattern, List.mem_filter]
  simp

theorem Chip.pairwise_patterns (c : Chip) (slot : Nat) : (c.patterns slot).Pairwise fun x y => x.id ≤ y.id :=
  pairwise_foldl_insertPattern _ .nil

/-- A match is a pattern of the list that ends at a byte of the range. -/
theorem mem_matchesIn {ps : List Config.Pattern} {bs : List Byte} {start : Nat} {x : Nat × Config.Pattern} :
    x ∈ matchesIn ps bs start ↔ (start < x.1 ∧ x.1 ≤ start + bs.length) ∧ x.2 ∈ ps ∧ patternEnds x.2 bs start x.1 = true := by
  simp only [matchesIn, List.mem_flatMap, List.mem_range, List.mem_map, List.mem_filter]
  constructor
  · rintro ⟨k, hk, p, hp, rfl⟩
    exact ⟨⟨by omega, by omega⟩, hp⟩
  · rintro ⟨⟨lo, hi⟩, hp⟩
    have fin : start + (x.1 - start - 1) + 1 = x.1 := by omega
    exact ⟨x.1 - start - 1, by omega, x.2, by rwa [fin], by rw [fin]⟩

/-- Matches rise by END and at one END as the patterns do. -/
theorem pairwise_matchesIn {ps : List Config.Pattern} (bs : List Byte) (start : Nat) (h : ps.Pairwise fun x y => x.id ≤ y.id) :
    (matchesIn ps bs start).Pairwise fun x y => x.1 < y.1 ∨ (x.1 = y.1 ∧ x.2.id ≤ y.2.id) := by
  refine List.pairwise_flatMap.mpr ⟨fun k _ => ?same, List.pairwise_lt_range.imp fun {j k} lt => ?later⟩
  case same => exact List.pairwise_map.mpr ((h.filter _).imp fun le => .inr ⟨rfl, le⟩)
  case later =>
    intro x hx y hy
    obtain ⟨_, _, rfl⟩ := List.mem_map.mp hx
    obtain ⟨_, _, rfl⟩ := List.mem_map.mp hy
    exact .inl (by simpa using lt)

/-- An element within a list does not depend on the default. -/
theorem nth_eq_getElem {α : Type} (d : α) : ∀ (l : List α) {k : Nat} (h : k < l.length), nth d l k = l[k]
  | [], _, h => absurd h (Nat.not_lt_zero _)
  | _ :: _, 0, _ => rfl
  | _ :: l, _ + 1, h => nth_eq_getElem d l (Nat.lt_of_succ_lt_succ h)

/-- Bytes that agree one by one with those from `i` up are the sublist there. -/
theorem all_nth_iff_take_drop (xs bs : List Byte) (i : Nat) (h : i + xs.length ≤ bs.length) :
    ((List.range xs.length).all fun k => nth 0 xs k == nth 0 bs (i + k)) = true ↔ (bs.drop i).take xs.length = xs := by
  have len : ((bs.drop i).take xs.length).length = xs.length := by
    rw [List.length_take, List.length_drop]
    omega
  rw [List.all_eq_true]
  constructor
  · intro same
    refine List.ext_getElem len fun k hk hx => ?_
    have := same k (List.mem_range.mpr hx)
    rw [beq_iff_eq, nth_eq_getElem _ _ hx, nth_eq_getElem _ _ (by omega)] at this
    rw [List.getElem_take, List.getElem_drop, this]
  · intro eq k hk
    have hx := List.mem_range.mp hk
    have := List.getElem_of_eq eq (i := k) (by omega)
    rw [List.getElem_take, List.getElem_drop] at this
    rw [beq_iff_eq, nth_eq_getElem _ _ hx, nth_eq_getElem _ _ (by omega), this]

/-- A pattern without folding or window ends where its bytes stand just before. -/
theorem patternEnds_plain {p : Config.Pattern} {bs : List Byte} {start fin : Nat} (within : fin ≤ start + bs.length) (fold : p.fold = false)
    (window : p.window = none) :
    patternEnds p bs start fin = true ↔
      start + p.bytes.length ≤ fin ∧ (bs.drop (fin - p.bytes.length - start)).take p.bytes.length = p.bytes := by
  simp only [patternEnds, fold, window, Bool.and_true, Bool.and_eq_true, decide_eq_true_eq]
  exact and_congr_right fun fits => all_nth_iff_take_drop p.bytes bs _ (by omega)

/-- FIRST keeps matches, and those at the smallest END where they rise by END. -/
theorem firstOnly_true_least {ms : List (Nat × Config.Pattern)} {x : Nat × Config.Pattern} (hx : x ∈ firstOnly true ms) :
    x ∈ ms ∧ ((ms.Pairwise fun x y => x.1 ≤ y.1) → ∀ y ∈ ms, x.1 ≤ y.1) := by
  cases ms with
  | nil => cases hx
  | cons m ms =>
    obtain ⟨mem, end_⟩ := List.mem_filter.mp hx
    refine ⟨mem, fun rises y hy => ?_⟩
    rw [beq_iff_eq.mp end_]
    rcases List.mem_cons.mp hy with rfl | hy
    · exact Nat.le_refl _
    · exact (List.pairwise_cons.mp rises).1 y hy

/-- Settles O29: a request by what its engine answers, a tentative reply by the word it reports, the matches by how they are listed. -/
theorem classifierReplies : Obligations.ClassifierReplies := by
  refine ⟨fun s b r rest hf => ?lookup, fun c now r b n reply _ hn chan =>
      ⟨Chip.lookupTaken_hit chan hn, Chip.lookupTaken_miss chan⟩, fun s r rest hf plain => ?scan,
    fun c slot start bs x => ?found, fun c slot start bs => pairwise_matchesIn bs start (c.pairwise_patterns slot),
    fun p bs start fin => patternEnds_plain, fun ms => ⟨rfl, fun x => firstOnly_true_least⟩⟩
  case lookup =>
    have chan := Chip.front_chan hf
    have answers {ws d} (plain : Chip.plain { s.found with reqs := rest } r)
        (ran : Chip.lookupServe { s.found with reqs := rest } s.time r = (ws, d)) : exec (.clLookup b) s = s.replied r ws d :=
      State.exec_on rfl (Chip.serveTent_plain hf plain ran)
    exact ⟨fun n plain len hit => answers plain ((Chip.lookupServe_lookup chan len.1 len.2).trans (Chip.lookupReply_hit hit)),
      fun plain len miss => answers plain ((Chip.lookupServe_lookup chan len.1 len.2).trans (Chip.lookupReply_miss miss)),
      fun n plain len bad => answers plain ((Chip.lookupServe_lookup chan len.1 len.2).trans (Chip.lookupReply_poisoned bad)),
      fun plain len => answers plain (Chip.lookupServe_badArgument chan len),
      fun ws d adopted => State.exec_on rfl (Chip.serveTent_answers hf adopted),
      fun waits => State.exec_on rfl (Chip.serveTent_waits hf waits)⟩
  case scan =>
    have answers {ws d} (ran : Chip.scan { s.found with reqs := rest } s.time r.words r = (ws, d)) : exec .scan s = s.replied r ws d :=
      State.exec_on rfl (Chip.serveTent_plain hf plain ran)
    exact ⟨fun form => answers (Chip.scan_badArgument form), fun form clean unready => answers (Chip.scan_noPricking form clean unready),
      fun form bad => answers (Chip.scan_poisoned form bad), fun form clean ready whole => answers (Chip.scan_matches form clean ready whole)⟩
  case found => rw [mem_matchesIn, Chip.mem_patterns, and_assoc (a := _ ∈ _)]

end Sys2Proof.Machine

/-! PROOFS. Which rule wins a lookup, the writes of rules and of a bank's scheme, and versions retired (R165, R170, R171, R175, R179, R181). -/

namespace Sys2Proof.Machine

/-! ### Which rule matches (R165) -/

/-- Two words agree wherever a mask marks a bit. -/
theorem xor_and_eq_zero_iff {w : Nat} (x y mask : BitVec w) :
    (x ^^^ y) &&& mask = 0 ↔ ∀ j < w, mask.getLsbD j = false ∨ x.getLsbD j = y.getLsbD j := by
  have bits : (x ^^^ y) &&& mask = 0 ↔ ∀ j < w, ((x ^^^ y) &&& mask).getLsbD j = (0 : BitVec w).getLsbD j :=
    ⟨fun e j _ => by rw [e], BitVec.eq_of_getLsbD_eq⟩
  rw [bits]
  refine forall₂_congr fun j _ => ?_
  cases hx : x.getLsbD j <;> cases hy : y.getLsbD j <;> simp [hx, hy]

/-- A bit of a word of a key. -/
theorem getLsbD_keyWord (key w : Nat) {j : Nat} (hj : j < 64) :
    (BitVec.ofNat 64 (key / 2 ^ (64 * w))).getLsbD j = key.testBit (64 * w + j) := by
  rw [BitVec.getLsbD_ofNat, Nat.testBit_div_two_pow, Nat.add_comm, decide_eq_true hj, Bool.true_and]

theorem Chip.ruleMatches_iff (c : Chip) (n key : Nat) : c.ruleMatches n key = true ↔ ∀ i, i < 320 →
    (c.rd (A.CL_RULE n + 40 + 8 * (i / 64))).getLsbD (i % 64) = false ∨
      key.testBit i = (c.rd (A.CL_RULE n + 8 * (i / 64))).getLsbD (i % 64) := by
  simp only [Chip.ruleMatches, List.all_eq_true, List.mem_range, beq_iff_eq, xor_and_eq_zero_iff]
  constructor
  · intro words i hi
    have bit := words (i / 64) (by omega) (i % 64) (Nat.mod_lt _ (by decide))
    rwa [getLsbD_keyWord _ _ (Nat.mod_lt _ (by decide)), Nat.div_add_mod] at bit
  · intro bits w hw j hj
    have bit := bits (64 * w + j) (by omega)
    rwa [show (64 * w + j) / 64 = w by omega, show (64 * w + j) % 64 = j by omega, ← getLsbD_keyWord key w hj] at bit

/-! ### The winner of a lookup (R165) -/

theorem rising_pairwise {α : Type} : ∀ {lo : Nat} {m : SMap α}, rising lo m → (∀ e ∈ m, lo ≤ e.1) ∧ m.Pairwise fun x y => x.1 < y.1
  | _, [], _ => ⟨fun _ h => (nomatch h), .nil⟩
  | lo, (i, v) :: m, ⟨low, rest⟩ => by
    obtain ⟨above, apart⟩ := rising_pairwise rest
    refine ⟨fun e he => ?_, List.pairwise_cons.mpr ⟨above, apart⟩⟩
    rcases List.mem_cons.mp he with rfl | he
    · exact low
    · have := above e he
      omega

/-- The valid rules of a bank stand in the order of their indices. -/
theorem Chip.validRules_pairwise {c : Chip} (b : Nat) (h : mwf resetWord c.regs = true) : (c.validRules b).Pairwise (· < ·) := by
  refine (rising_pairwise (mwfFrom_rising h)).2.filterMap _ fun x y before i hi j hj => ?_
  rw [Option.ite_none_right_eq_some] at hi hj
  obtain ⟨⟨low, _, control, _⟩, hi⟩ := hi
  obtain ⟨⟨_, _, control', _⟩, hj⟩ := hj
  simp only [A.CL_RULE, Option.some.injEq] at *
  omega

/-- Of the least elements the first is taken. -/
theorem leastBy_first {f : Nat → Nat} {x : Nat} : ∀ {l : List Nat}, l.Pairwise (· < ·) → leastBy f l = some x →
    ∀ y ∈ l, f x < f y ∨ (f x = f y ∧ x ≤ y)
  | [], _, h, _, _ => by cases h
  | z :: l, rises, h, y, hy => by
    obtain ⟨before, rises⟩ := List.pairwise_cons.mp rises
    rw [leastBy] at h
    rcases hl : leastBy f l with _ | w <;> rw [hl] at h <;> dsimp only at h
    case none =>
      cases h
      rw [leastBy_eq_none hl, List.mem_singleton] at hy
      exact .inr ⟨congrArg f hy.symm, Nat.le_of_eq hy.symm⟩
    case some =>
      have rest := leastBy_first rises hl
      have := before w (leastBy_mem hl)
      rcases List.mem_cons.mp hy with rfl | hy
      · split at h <;> cases h <;> omega
      · have := before y hy
        have := rest y hy
        split at h <;> cases h <;> omega

/-- The rules among which a lookup in bank `b` under version `v` chooses: valid and live as `c` finds them, matching as `d` reads them. -/
def Chip.candidates (c d : Chip) (b v key : Nat) : List Nat :=
  ((c.validRules b).filter fun r => c.ruleLive b (8192 * b + r) v).filter fun r => d.ruleMatches (8192 * b + r) key

theorem Chip.mem_candidates {c d : Chip} {b v key r : Nat} : r ∈ c.candidates d b v key ↔
    r ∈ c.validRules b ∧ c.ruleLive b (8192 * b + r) v = true ∧ d.ruleMatches (8192 * b + r) key = true := by
  simp only [Chip.candidates, List.mem_filter, and_assoc]

/-- The winner has the highest priority of the candidates, and of those the lowest index. -/
theorem Chip.bestRule_candidates {c d : Chip} {b v key n : Nat} (h : mwf resetWord c.regs = true)
    (best : d.bestRule b (c.candidates d b v key) = some n) : n ∈ c.candidates d b v key ∧ ∀ r ∈ c.candidates d b v key,
      d.rule (8192 * b + r) F.CL_RULE_PRIORITY < d.rule (8192 * b + n) F.CL_RULE_PRIORITY ∨
        (d.rule (8192 * b + r) F.CL_RULE_PRIORITY = d.rule (8192 * b + n) F.CL_RULE_PRIORITY ∧ n ≤ r) := by
  refine ⟨leastBy_mem best, fun r hr => ?_⟩
  have first := leastBy_first (((c.validRules_pairwise b h).filter _).filter _) best r hr
  have bounded (m : Nat) : d.rule m F.CL_RULE_PRIORITY < 2 ^ 16 := Nat.mod_lt _ (by decide)
  have := bounded (8192 * b + r)
  have := bounded (8192 * b + n)
  omega

/-- A hit is the best candidate; a miss under a version, or in a bank without versions, says that there is none. -/
theorem Chip.lookup_best (c : Chip) (now b ver : Nat) (ws : List Word) (slice : Nat) :
    let l := c.lookup now b ver ws slice
    let rs := c.candidates l.2.2 b l.2.1 (lookupKey (l.2.2.flag (A.CL_BANK_CFG b) F.CL_BANK_CFG_INSERT_SLICE) ws slice)
    (∀ n, l.1 = .hit n → l.2.2.bestRule b rs = some n) ∧
    (l.1 = .miss → c.schemeV b = false ∨ l.2.1 ≠ 0 → l.2.2.bestRule b rs = none) := by
  intro l
  generalize ran : l = found
  unfold l Chip.lookup at ran
  extract_lets v at ran
  clear_value v
  split at ran
  case isTrue unversioned =>
    rw [Bool.and_eq_true] at unversioned
    subst ran
    exact ⟨nofun, fun _ versioned => by simp [unversioned.1] at versioned⟩
  case isFalse =>
    dsimp only at ran
    split at ran
    case h_1 =>
      subst ran
      exact ⟨nofun, nofun⟩
    case h_2 =>
      split at ran
      case h_1 best =>
        subst ran
        exact ⟨fun n hit => by cases hit; exact best, nofun⟩
      case h_2 best =>
        subst ran
        exact ⟨nofun, fun _ _ => best⟩

/-! ### What a write of a rule comes to (R171, R175, R181) -/

/-- Whether one of the words written gives COLOUR 3. -/
def badColour (ws : List (Nat × Word)) : Bool := ws.any fun w => w.1 == 10 && getBits w.2 8 2 == 3

/-- Whether a write covers all of words 0 to 12. -/
def coversRule (ws : List (Nat × Word)) : Bool := (List.range 13).all fun i => ws.any fun w => w.1 == i

/-- What a rule entry stores of a word written: its reserved bits stay 0 (Table 6-2). -/
def ruleKept (w : Nat × Word) : Word :=
  if w.1 = 10 then BitVec.ofNat 64 (getBits w.2 0 30)
  else if w.1 = 12 then w.2 &&& 0xFFFFFFFF0001FFFF else if 13 ≤ w.1 then 0 else w.2

/-- The words written to rule `n` are stored. -/
def Chip.ruleStored (c : Chip) (n : Nat) (ws : List (Nat × Word)) : Chip :=
  ws.foldl (fun (d : Chip) w => d.wr (A.CL_RULE n + 8 * w.1) (ruleKept w)) (c.ruleWritten n)

/-- Whether a code word of rule `n` is poisoned. -/
def Chip.rulePoisoned (c : Chip) (n : Nat) : Bool := (List.range 4).any fun k => codeBad (c.sram 8 (ruleWord n + k))

/-- Rule `n` is valid and not one of the building version: under scheme V most writes of it are refused (R175). -/
def Chip.ruleLocked (c : Chip) (n : Nat) : Prop := c.rule n F.CL_RULE_VALID = 1 ∧ c.rule n F.CL_RULE_VFROM ≠ c.building (n / 8192)

section
variable {c : Chip} {now n : Nat} {ws : List (Nat × Word)}

theorem Chip.ruleWrite_badColour (h : badColour ws = true) : c.ruleWrite now n ws = (Code.BAD_ARGUMENT, c) := if_pos h

section
variable (colour : badColour ws = false)
include colour

theorem Chip.ruleWrite_replaces (bad : c.rulePoisoned n = true) (whole : coversRule ws = true) : c.ruleWrite now n ws =
    (Code.OK, ((List.range 4).foldl (fun (d : Chip) j => d.setSram 8 (ruleWord n + j) 0) (c.ruleStored n ws)).noteRule now n) :=
  (if_neg (Bool.eq_false_iff.mp colour)).trans ((if_pos bad).trans (if_pos whole))

theorem Chip.ruleWrite_poisoned (bad : c.rulePoisoned n = true) (whole : coversRule ws = false) : c.ruleWrite now n ws =
    (Code.POISONED, (Chip.readSrams now 8 2 0 4 (ruleWord n) c).2) := by
  simp only [Chip.ruleWrite]
  exact (if_neg (Bool.eq_false_iff.mp colour)).trans ((if_pos bad).trans (if_neg (Bool.eq_false_iff.mp whole)))

theorem Chip.ruleWrite_sound (sound : c.rulePoisoned n = false) : c.ruleWrite now n ws =
    if c.ruleWriteCheck n ws ≠ Code.OK then (c.ruleWriteCheck n ws, c) else (Code.OK, c.ruleStored n ws) :=
  (if_neg (Bool.eq_false_iff.mp colour)).trans (if_neg (Bool.eq_false_iff.mp sound))

end

/-- A word of VALUE or CARE that is accepted reads back as written (R165). -/
theorem Chip.ruleWrite_readsBack {k : Nat} {w : Word} (hk : k < 10) (ok : (c.ruleWrite now n [(k, w)]).1 = Code.OK) :
    (c.ruleWrite now n [(k, w)]).2.rd (A.CL_RULE n + 8 * k) = w := by
  have colour : badColour [(k, w)] = false := by
    have : k ≠ 10 := by omega
    simp [badColour, this]
  have part : coversRule [(k, w)] = false := Bool.eq_false_iff.mpr fun whole => by
    have covers := List.all_eq_true.mp whole
    have first : k = 0 := by simpa using covers 0 (by decide)
    have second : k = 1 := by simpa using covers 1 (by decide)
    omega
  cases sound : c.rulePoisoned n
  case true =>
    rw [Chip.ruleWrite_poisoned colour sound part] at ok
    exact absurd (show Code.POISONED = Code.OK from ok) (by decide)
  case false =>
    rw [Chip.ruleWrite_sound colour sound] at ok ⊢
    split at ok
    next refused => exact absurd ok refused
    next accepted =>
      have kept : ruleKept (k, w) = w := by rw [ruleKept, if_neg (by omega), if_neg (by omega), if_neg (by omega)]
      rw [if_neg accepted]
      exact (Chip.rd_wr_self _ _ _).trans kept

end

/-- Settles O28: matching bit by bit, the winner as the first of the best candidates. -/
theorem winnerIsBest : Obligations.WinnerIsBest := by
  refine ⟨Chip.ruleMatches_iff, fun c now n k w hk ok => Chip.ruleWrite_readsBack (by omega) ok, fun c now b ver slice ws wf => ?_⟩
  obtain ⟨hit, miss⟩ := c.lookup_best now b ver ws slice
  refine ⟨fun n found => ?_, fun found versioned r meets => ?_⟩
  · obtain ⟨candidate, best⟩ := Chip.bestRule_candidates wf (hit n found)
    exact ⟨Chip.mem_candidates.mp candidate, fun r meets => best r (Chip.mem_candidates.mpr meets)⟩
  · have empty := leastBy_eq_none (miss found versioned)
    exact List.not_mem_nil (empty ▸ Chip.mem_candidates.mpr meets)

/-! ### Registers of the Classifier (R31) -/

/-- Register `r` of the Classifier stands at `a`. -/
structure RegRow.ClAt (r : RegRow) (a : Nat) : Prop where
  aligned : a % 8 = 0
  low : 0x90000000 ≤ a
  high : a + 8 * r.words < 0xA0000000
  words : ∀ j < r.words, findRow clRows (a + 8 * j) = some (r, j)

section
variable {r : RegRow} {a : Nat} (h : r.ClAt a) {j : Nat}
include h

theorem RegRow.ClAt.region (hj : j ≤ r.words) : (a + 8 * j) / 0x10000000 = 9 := by
  have low := h.low
  have high := h.high
  omega

theorem RegRow.ClAt.regUp (hj : j ≤ r.words) (c : Chip) : c.regUp (a + 8 * j) = c.up 23 := by
  rw [Chip.regUp, h.region hj]
  rfl

/-- No window lies among the registers of the Classifier. -/
theorem RegRow.ClAt.unit (c : Chip) (hj : j < r.words) :
    findRow (regionRows (a + 8 * j)) (a + 8 * j) = some (r, j) ∧ c.reserved (a + 8 * j) = false ∧
      c.place (a + 8 * j) = none ∧ millOffset (a + 8 * j) = none := by
  have low := h.low
  have high := h.high
  have row : findRow (regionRows (a + 8 * j)) (a + 8 * j) = some (r, j) := by
    rw [regionRows, h.region (Nat.le_of_lt hj)]
    exact h.words j hj
  have mill : millOffset (a + 8 * j) = none := if_neg (by omega)
  have place : c.place (a + 8 * j) = none := by rw [Chip.place, if_neg (by omega), if_neg (by omega), mill]
  have beyond : ¬ a + 8 * j < 0x60100020 := by omega
  exact ⟨row, by simp [Chip.reserved, place, mill, row, beyond], place, mill⟩

/-- A command that PUTs words of a register of the Classifier ends as the Classifier's rule says. -/
theorem State.exec_cl {s : State} {i : Instr} {ws : List Word} {st : Status} {d : Chip} (hj : j ≤ r.words)
    (run : exec i s = State.on s fun now c => c.regWrite now (a + 8 * j) ws) (hw : s.writable a = true) (hne : ws ≠ [])
    (hl : j + ws.length ≤ r.words)
    (rule : s.found.clHook (s.found.filled s.time (a + 8 * j) ws) s.time ⟨r, a, numbered j ws⟩ = (st, d)) : exec i s = s.wrote st d := by
  have low := h.low
  have first : s.found.regUp a = s.found.up 23 := h.regUp (Nat.zero_le _) s.found
  have up : s.found.regUp a = true := by
    rw [State.writable, Bool.and_eq_true] at hw
    exact hw.2
  have here : s.writable (a + 8 * j) = true := by
    rw [State.writable, h.regUp hj, ← first]
    exact hw
  have plain : inSat (a + 8 * j) = false := by
    have : ¬ a + 8 * j < A.FT_SAT 1024 := by
      rw [A.FT_SAT]
      omega
    simp [inSat, this]
  have aligned : (a + 8 * j) % 8 = 0 := by
    have := h.aligned
    omega
  rw [run, s.wrote_elem (a + 8 * j) ws _ (st, d) here plain aligned (Chip.cut_words (fun k hk => h.unit s.found hk) ws j hne hl) up]
  have region : a / 0x10000000 = 9 := h.region (Nat.zero_le _)
  rw [Chip.hook, region]
  exact rule

end

/-- Row `k` of the Classifier's region, an array of one dimension. -/
theorem RegRow.clAt_array {r : RegRow} {k count stride i : Nat} (rows : clRows = clRows.take k ++ r :: clRows.drop (k + 1))
    (others : ((clRows.take k).all fun q => q.past r.base (r.base + count * stride)) = true) (dims : r.dims = [(count, stride)])
    (range : r.base % 8 = 0 ∧ stride % 8 = 0 ∧ 8 * r.words ≤ stride ∧ 0x90000000 ≤ r.base ∧ r.base + count * stride < 0xA0000000)
    (hi : i < count) : r.ClAt (r.base + stride * i) := by
  obtain ⟨base8, stride8, fits, low, high⟩ := range
  have inside : stride * i + stride ≤ count * stride := by
    rw [Nat.mul_comm count, ← Nat.mul_succ]
    exact Nat.mul_le_mul_left stride hi
  refine ⟨by rw [Nat.add_mod, base8, Nat.mul_mod, stride8]; simp, by omega, by omega, fun j hj => ?_⟩
  have word := RegRow.wordAt_array dims fits hi hj
  rw [rows, findRow_past (by omega) (by omega) _ others, findRow, word]

/-- The rows of CL_RULE and CL_BANK_CFG in the register table. -/
def ruleRow : RegRow := nth ⟨0, [], 0, []⟩ clRows 0
def bankCfgRow : RegRow := nth ⟨0, [], 0, []⟩ clRows 1

theorem ruleRow_at (n : Fin 65536) : ruleRow.ClAt (A.CL_RULE n) :=
  RegRow.clAt_array (r := ruleRow) (k := 0) (count := 65536) (stride := 128) rfl rfl rfl (by decide) n.isLt

theorem bankCfgRow_at (b : Fin 8) : bankCfgRow.ClAt (A.CL_BANK_CFG b) :=
  RegRow.clAt_array (r := bankCfgRow) (k := 1) (count := 8) (stride := 256) rfl (by decide) rfl (by decide) b.isLt

theorem Chip.clHook_rule (c d : Chip) (now n : Nat) (us : List (Nat × Word)) :
    c.clHook d now ⟨ruleRow, A.CL_RULE n, us⟩ = c.ruleWrite now n us := by
  have index : (⟨ruleRow, A.CL_RULE n, us⟩ : Elem).i = n := Elem.i_array (count := 65536) (stride := 128) rfl rfl (by decide)
  rw [Chip.clHook, index]
  exact if_pos rfl

theorem Chip.clHook_bankCfg (c d : Chip) (now b : Nat) (v : Word) :
    c.clHook d now ⟨bankCfgRow, A.CL_BANK_CFG b, numbered 0 [v]⟩ = c.schemeWrite b v := by
  have index : (⟨bankCfgRow, A.CL_BANK_CFG b, numbered 0 [v]⟩ : Elem).i = b := Elem.i_array (count := 8) (stride := 256) rfl rfl (by decide)
  rw [Chip.clHook, index, Elem.raw_numbered]
  exact (if_neg (show bankCfgRow.base ≠ A.CL_RULE 0 by decide)).trans (if_pos rfl)

/-- The words of a write of a rule from word `k` up, with their indices, as the statements list them. -/
def ruleItems (k : Nat) (ws : List Word) : List (Nat × Word) := (List.range ws.length).map fun i => (k + i, nth 0 ws i)

theorem numbered_eq_ruleItems : ∀ (ws : List Word) (k : Nat), numbered k ws = ruleItems k ws
  | [], _ => rfl
  | v :: ws, k => by
    rw [numbered_cons, numbered_eq_ruleItems ws (k + 1), ruleItems, ruleItems, List.length_cons, List.range_succ_eq_map, List.map_cons,
      List.map_map]
    refine congrArg _ (List.map_congr_left fun i _ => ?_)
    rw [Function.comp_apply, Nat.succ_eq_add_one, show k + (i + 1) = k + 1 + i by omega]
    rfl

/-- A write of a rule ends as the rule's own rules say. -/
theorem State.exec_ruleWrite {s : State} {n : Fin 65536} {k : Fin 16} {ws : List Word} {st : Status} {d : Chip}
    (hw : s.writable (A.CL_RULE n) = true) (hne : ws ≠ []) (hl : k.val + ws.length ≤ 16)
    (rule : s.found.ruleWrite s.time n (ruleItems k ws) = (st, d)) :
    exec (.ruleWrite n k ws) s = s.wrote st d :=
  State.exec_cl (ruleRow_at n) (Nat.le_of_lt k.isLt) rfl hw hne hl (by rw [Chip.clHook_rule, numbered_eq_ruleItems, rule])

/-- A write of CL_BANK_CFG(b) ends as the rules of its scheme say. -/
theorem State.exec_schemeWrite {s : State} {b : Fin 8} {v : Word} {st : Status} {d : Chip} (hw : s.writable (A.CL_BANK_CFG b) = true)
    (rule : s.found.schemeWrite b v = (st, d)) : exec (.schemeWrite b v) s = s.wrote st d :=
  State.exec_cl (j := 0) (bankCfgRow_at b) (Nat.zero_le _) rfl hw (List.cons_ne_nil _ _) (Nat.le_refl 1) (by rw [Chip.clHook_bankCfg, rule])

/-! ### Which writes of a rule are refused (R171, R175) -/

section
variable {c : Chip} {n : Nat} {ws : List (Nat × Word)}

theorem Chip.ruleWriteCheck_valid (e : c.schemeV (n / 8192) = false) (valid : c.rule n F.CL_RULE_VALID = 1)
    (words : (ws.any fun w => decide (w.1 ≤ 11)) = true) : c.ruleWriteCheck n ws = Code.RULE_LIVE := by
  simp only [Chip.ruleWriteCheck, e, valid, words]
  rfl

theorem Chip.ruleWriteCheck_free (e : c.schemeV (n / 8192) = false)
    (free : c.rule n F.CL_RULE_VALID ≠ 1 ∨ (ws.any fun w => decide (w.1 ≤ 11)) = false) : c.ruleWriteCheck n ws = Code.OK := by
  simp only [Chip.ruleWriteCheck, e]
  refine (if_pos rfl).trans (if_neg ?_)
  rcases free with invalid | control
  · simp [invalid]
  · simp [control]

theorem Chip.not_ruleLocked_iff : ¬ c.ruleLocked n ↔
    (!(c.rule n F.CL_RULE_VALID == 1) || c.rule n F.CL_RULE_VFROM == c.building (n / 8192)) = true := by
  simp [Chip.ruleLocked, Decidable.imp_iff_not_or]

/-- Without the control word nothing of a write depends on what is written. -/
theorem any_control_and {p : Nat × Word → Bool} (words : (ws.any fun w => w.1 == 12) = false) : (ws.any fun w => w.1 == 12 && p w) = false := by
  rw [List.any_eq_false] at words ⊢
  exact fun w hw both => words w hw (Bool.and_eq_true _ _ ▸ both).1

section
variable (v : c.schemeV (n / 8192) = true)
include v

theorem Chip.ruleWriteCheck_words (words : (ws.any fun w => w.1 == 12) = false) (free : ¬ c.ruleLocked n) :
    c.ruleWriteCheck n ws = Code.OK := by
  simp only [Chip.ruleWriteCheck, v, Bool.and_assoc, any_control_and words, Chip.not_ruleLocked_iff.mp free]
  rfl

theorem Chip.ruleWriteCheck_locked (words : (ws.any fun w => w.1 == 12) = false) (locked : c.ruleLocked n) :
    c.ruleWriteCheck n ws = Code.RULE_LIVE := by
  have held := Bool.eq_false_iff.mpr fun free => Chip.not_ruleLocked_iff.mpr free locked
  simp only [Chip.ruleWriteCheck, v, Bool.and_assoc, any_control_and words, held, words]
  rfl

/-- A control word that makes a free entry valid names BUILDING as VFROM and 0 or BUILDING as VTO. -/
theorem Chip.ruleWriteCheck_control {w : Word} (free : ¬ c.ruleLocked n) (valid : getBits w 16 1 = 1) : c.ruleWriteCheck n [(12, w)] =
    if getBits w 32 16 = c.building (n / 8192) ∧ (getBits w 48 16 = 0 ∨ getBits w 48 16 = c.building (n / 8192)) then Code.OK
    else Code.BAD_ARGUMENT := by
  simp only [Chip.ruleWriteCheck, v, Chip.not_ruleLocked_iff.mp free]
  by_cases first : getBits w 32 16 = c.building (n / 8192)
  · by_cases last : getBits w 48 16 = 0 ∨ getBits w 48 16 = c.building (n / 8192)
    · rcases last with last | last <;> simp [first, last, valid]
    · simp [first, valid, not_or.mp last]
  · simp [first, valid]

end
end

/-! ### Writes of a rule, whole or in part (R181) -/

theorem ruleItems_any {k i : Nat} {ws : List Word} : ((ruleItems k ws).any fun w => w.1 == i) = true ↔ k ≤ i ∧ i < k + ws.length := by
  simp only [ruleItems, List.any_map, List.any_eq_true, List.mem_range, Function.comp_apply, beq_iff_eq]
  exact ⟨fun ⟨j, hj, e⟩ => by omega, fun h => ⟨i - k, by omega, by omega⟩⟩

theorem coversRule_items {k : Nat} {ws : List Word} : coversRule (ruleItems k ws) = true ↔ k = 0 ∧ 13 ≤ ws.length := by
  simp only [coversRule, List.all_eq_true, List.mem_range, ruleItems_any]
  refine ⟨fun all => ?_, fun h i hi => by omega⟩
  have first := all 0 (by decide)
  have last := all 12 (by decide)
  omega

theorem ruleItems_high {k : Nat} (ws : List Word) (h : 12 ≤ k) : ((ruleItems k ws).any fun w => decide (w.1 ≤ 11)) = false := by
  simp only [ruleItems, List.any_map, List.any_eq_false, List.mem_range, Function.comp_apply, decide_eq_true_eq]
  omega

theorem Chip.rulePoisoned_clean {c : Chip} {n : Nat} (clean : ∀ j < 4, c.sram 8 (ruleWord n + j) = 0) : c.rulePoisoned n = false := by
  simp only [Chip.rulePoisoned, List.any_eq_false, List.mem_range]
  intro j hj
  rw [clean j hj]
  decide

theorem Chip.rulePoisoned_first {c : Chip} {n : Nat} (bad : codeBad (c.sram 8 (ruleWord n)) = true) : c.rulePoisoned n = true :=
  List.any_eq_true.mpr ⟨0, by decide, bad⟩

/-! ### Changes of scheme, and versions retired (R170, R179) -/

section
variable {c : Chip} {b : Nat} {v : Word}

theorem Chip.schemeWrite_same (same : getBits v 0 1 = c.get (A.CL_BANK_CFG b) F.CL_BANK_CFG_SCHEME) :
    c.schemeWrite b v = (Code.OK, c.wr (A.CL_BANK_CFG b) (BitVec.ofNat 64 (getBits v 0 2))) := if_pos same

variable (change : getBits v 0 1 ≠ c.get (A.CL_BANK_CFG b) F.CL_BANK_CFG_SCHEME)
include change

theorem Chip.schemeWrite_busy (busy : c.validRules b ≠ [] ∨ c.verSlots b 1 ≠ []) : c.schemeWrite b v = (Code.BANK_BUSY, c) :=
  (if_neg change).trans (if_pos (by simpa using busy))

theorem Chip.schemeWrite_changes (rules : c.validRules b = []) (versions : c.verSlots b 1 = []) : c.schemeWrite b v = (Code.OK,
    ((List.range 4).foldl (fun (c : Chip) k => c.dropVer b k) (c.wr (A.CL_BANK_CFG b) (BitVec.ofNat 64 (getBits v 0 2)))).wr
      (A.CL_BANK_VSTAT b) (resetWord (A.CL_BANK_VSTAT b))) :=
  (if_neg change).trans (if_neg (by simp [rules, versions]))

end

section
variable {c : Chip} {b k j now : Nat} (up : c.open1 23 = true)
include up

theorem Chip.versionRetire_retires (scheme : c.schemeV b = true) (idle : c.flag (A.CL_BANK_VSTAT b) F.CL_BANK_VSTAT_CLEANING = false)
    (oldest : c.oldestLive b = some k) (next : c.verSlot b (nextVer (c.verGet b k F.CL_VER_VERSION)) = some j)
    (live : c.verGet b j F.CL_VER_STATE = 2) (flight : c.verGet b k F.CL_VER_INFLIGHT = 0) (held : c.heldBefore (c.verT b j) = false) :
    c.versionRetire b = ((c.dropVer b k).setFlag (A.CL_BANK_VSTAT b) F.CL_BANK_VSTAT_CLEANING true).verStat b := by
  simp [Chip.versionRetire, oldest, next, up, scheme, idle, live, flight, held]

variable (cleaning : c.flag (A.CL_BANK_VSTAT b) F.CL_BANK_VSTAT_CLEANING = true)
include cleaning

theorem Chip.passEnd_cleans :
    let d := c.setFlag (A.CL_BANK_VSTAT b) F.CL_BANK_VSTAT_CLEANING false
    d.oldestLive b = some k →
      c.passEnd now b = d.cleanBank now b (prevVer (d.verGet b k F.CL_VER_VERSION)) (d.verGet b k F.CL_VER_VERSION) := by
  intro d oldest
  simp [Chip.passEnd, up, cleaning, d, oldest]

theorem Chip.passEnd_noneLive :
    let d := c.setFlag (A.CL_BANK_VSTAT b) F.CL_BANK_VSTAT_CLEANING false
    d.oldestLive b = none → c.passEnd now b = d := by
  intro d oldest
  simp [Chip.passEnd, up, cleaning, d, oldest]

end

/-- Settles O30: a rule by its poison, its scheme and its state, a scheme by what its bank holds, a version by what still needs it. -/
theorem ruleWrites : Obligations.RuleWrites := by
  refine ⟨fun s => ⟨fun n k ws hw hne hl => ?rule, fun b v hw => ?scheme⟩, fun s b k => ?versions⟩
  case rule =>
    intro c b items kept stored ends colour clean live ctrl
    have write {st : Status} {d : Chip} (rule : c.ruleWrite s.time n items = (st, d)) : ends st d := State.exec_ruleWrite hw hne hl rule
    have stores (sound : clean) (check : c.ruleWriteCheck n items = Code.OK) : ends Code.OK stored :=
      write ((Chip.ruleWrite_sound sound.1 (Chip.rulePoisoned_clean sound.2)).trans (if_neg (fun refused => refused check)))
    have refuses {st : Status} (sound : clean) (check : c.ruleWriteCheck n items = st) (code : st ≠ Code.OK) : ends st c := by
      subst check
      exact write ((Chip.ruleWrite_sound sound.1 (Chip.rulePoisoned_clean sound.2)).trans (if_pos code))
    refine ⟨fun bad => write (Chip.ruleWrite_badColour bad),
      fun sound e valid words => refuses sound (Chip.ruleWriteCheck_valid e valid words) (by decide),
      fun sound e free => stores sound (Chip.ruleWriteCheck_free e (free.imp_right (ruleItems_high ws))),
      fun sound v words free => stores sound (Chip.ruleWriteCheck_words v words free),
      fun sound v words locked => refuses sound (Chip.ruleWriteCheck_locked v words locked) (by decide),
      fun w sound v free one valid => ?control, fun colour bad => ⟨fun first whole => ?replaces, fun part => ?poisoned⟩⟩
    case control =>
      have check := Chip.ruleWriteCheck_control v free valid
      rw [← one] at check
      exact ⟨fun first last => stores sound (check.trans (if_pos ⟨first, last⟩)),
        fun out => refuses sound (check.trans (if_neg fun ⟨first, last⟩ =>
          out.elim (absurd first) fun ⟨closed, other⟩ => last.elim closed other)) (by decide)⟩
    case replaces =>
      exact write (Chip.ruleWrite_replaces colour (Chip.rulePoisoned_first bad) (coversRule_items.mpr ⟨first, whole⟩))
    case poisoned =>
      refine write (Chip.ruleWrite_poisoned colour (Chip.rulePoisoned_first bad) (Bool.eq_false_iff.mpr fun whole => ?_))
      have := coversRule_items.mp whole
      omega
  case scheme =>
    exact ⟨fun same => State.exec_schemeWrite hw (Chip.schemeWrite_same (Decidable.not_not.mp same)),
      fun change busy => State.exec_schemeWrite hw (Chip.schemeWrite_busy change busy),
      fun change rules versions => State.exec_schemeWrite hw (Chip.schemeWrite_changes change rules versions)⟩
  case versions =>
    exact ⟨fun j up scheme idle oldest next live flight held =>
        State.exec_on rfl (Chip.versionRetire_retires up scheme idle oldest next live flight held),
      fun up cleaning => ⟨fun oldest => State.exec_on rfl (Chip.passEnd_cleans up cleaning oldest),
        fun oldest => State.exec_on rfl (Chip.passEnd_noneLive up cleaning oldest)⟩⟩

end Sys2Proof.Machine

/-! PROOFS. The requests to the Table Engines, of programs and of the operator (R192, R197-R199, R204-R207, R213-R215, R222). -/

namespace Sys2Proof.Machine

/-! ### The oldest request of an engine's side (R197) -/

section
variable {c d : Chip} {ch e : Nat} {r : EngReq} {rest : List EngReq} {ws : List Word}
  (hf : c.front ch (fun r => teOf r.mill == e) = some (r, rest))
include hf

/-- The request served comes from the engine's own side. -/
theorem Chip.front_side : teOf r.mill = e := by
  have mine := List.find?_some (find?_of_takeFirst (Chip.front_spec hf).2)
  rw [Bool.and_eq_true, beq_iff_eq] at mine
  exact mine.2

variable {run : EngReq → Chip → List Word × Chip} {taken : EngReq → List Word → Chip → List Word × Chip}

theorem Chip.serveSide_plain (plain : ({ c with reqs := rest }).plain r) (ran : run r { c with reqs := rest } = (ws, d)) :
    c.serveSide ch e run taken = d.answer r ws :=
  Chip.serveTent_plain hf plain ran

theorem Chip.serveSide_adopts (adopted : ({ c with reqs := rest }).adopt r (run r) (taken r) = some (ws, d)) :
    c.serveSide ch e run taken = d.answer r ws :=
  Chip.serveTent_answers hf adopted

end

/-! ### LOOKUP and LOOKUP_LEARN (R192, R197-R199) -/

/-- KW, the key words of a request to table `t` (R192). -/
def Chip.keyWords (c : Chip) (e t : Nat) : Nat := (c.emt e t F.TE_EMT_KEY_BYTES + 7) / 8

/-- The reply to a lookup on channel `ch` (R198): one word where a word of the search is absent. -/
def TeAns.words (a : TeAns) (ch : Nat) : List Word :=
  if a.st = Code.ABSENT then [replyWord Code.ABSENT 0 ch 0] else [replyWord a.st a.flags ch a.value, a.data]

section
variable {c : Chip} {r : EngReq} {now e t : Nat} {tent learn : Bool} (side : teOf r.mill = e) (table : r.chan % 16 = t)
  (kind : decide (560 ≤ r.chan) = learn)
include side table kind

theorem Chip.teServe_badArgument (len : r.words.length ≠ c.keyWords e t + if learn then 1 else 0) :
    c.teServe now r tent = ([replyWord Code.BAD_ARGUMENT 0 r.chan 0, 0], c) := by
  subst side table kind
  exact if_pos len

variable (len : r.words.length = c.keyWords e t + if learn then 1 else 0)
include len

theorem Chip.teServe_tableOff (off : c.emtOn e t = false) : c.teServe now r tent = ([replyWord Code.TABLE_OFF 0 r.chan 0, 0], c) := by
  subst side table kind
  exact (if_neg (not_not_intro len)).trans (if_pos (by rw [off]; rfl))

/-- A request of its table's form answers what the lookup answers. -/
theorem Chip.teServe_lookup {data : Option Word} (carried : (if learn then some (nth 0 r.words (c.keyWords e t)) else none) = data)
    (on : c.emtOn e t = true) :
    let a := c.teLookup now e t (c.teKey e t (r.words.take (c.keyWords e t)) (some r.slice)) data r.slice tent
    c.teServe now r tent = (a.1.words r.chan, a.2) := by
  subst side table kind carried
  intro a
  refine (if_neg (not_not_intro len)).trans ((if_neg (by rw [on]; decide)).trans ?_)
  by_cases absent : a.1.st = Code.ABSENT
  · rw [TeAns.words, if_pos absent]
    exact if_pos absent
  · rw [TeAns.words, if_neg absent]
    exact if_neg absent

end

/-- A command that serves the lookups of table `t` on channel `ch`: each request by its length and the state of the table, unless Prelook's
result is adopted. -/
theorem State.exec_lookup {s : State} {i : Instr} {ch e t : Nat} {learn : Bool} {r : EngReq} {rest : List EngReq} {data : Option Word}
    (run : exec i s = s.on fun now c => c.serveSide ch e (fun r c => c.teServe now r false) fun r ws c => c.teTaken now r ws)
    (hf : s.found.front ch (fun r => teOf r.mill == e) = some (r, rest)) (table : ch % 16 = t) (kind : decide (560 ≤ ch) = learn)
    (carried : (if learn then some (nth 0 r.words (Chip.keyWords { s.found with reqs := rest } e t)) else none) = data) :
    let c : Chip := { s.found with reqs := rest }
    let n := c.keyWords e t
    let a := c.teLookup s.time e t (c.teKey e t (r.words.take n) (some r.slice)) data r.slice false
    (c.plain r → r.words.length ≠ n + (if learn then 1 else 0) → exec i s = s.replied r [replyWord Code.BAD_ARGUMENT 0 r.chan 0, 0] c) ∧
    (c.plain r → r.words.length = n + (if learn then 1 else 0) → c.emtOn e t = false →
      exec i s = s.replied r [replyWord Code.TABLE_OFF 0 r.chan 0, 0] c) ∧
    (c.plain r → r.words.length = n + (if learn then 1 else 0) → c.emtOn e t = true → exec i s = s.replied r (a.1.words r.chan) a.2) ∧
    (∀ ws d, c.adopt r (fun c => c.teServe s.time r false) (fun ws c => c.teTaken s.time r ws) = some (ws, d) →
      exec i s = s.replied r ws d) := by
  intro c n a
  obtain rfl := Chip.front_chan hf
  have side := Chip.front_side hf
  have answers {ws d} (plain : c.plain r) (ran : c.teServe s.time r false = (ws, d)) : exec i s = s.replied r ws d :=
    State.exec_on run (Chip.serveSide_plain hf plain ran)
  exact ⟨fun plain len => answers plain (Chip.teServe_badArgument side table kind len),
    fun plain len off => answers plain (Chip.teServe_tableOff side table kind len off),
    fun plain len on => answers plain (Chip.teServe_lookup side table kind len carried on),
    fun ws d adopted => State.exec_on run (Chip.serveSide_adopts hf adopted)⟩

/-! ### WRITE requests by their layout (R204, R206, R207, R213) -/

/-- A WRITE request of Table 7-8 whose op is `op`. -/
def writeForm (ws : List Word) (op : Nat) : Prop := ws.length = 5 ∧ getBits (nth 0 ws 0) 16 48 = 0 ∧ getBits (nth 0 ws 0) 4 3 = op

/-- The table a WRITE request names. -/
def writeTable (ws : List Word) : Nat := getBits (nth 0 ws 0) 0 4

/-- The form in which a WRITE request names addresses by their first bits, in one of the eight LPM tables (R213). -/
def Chip.lpmWriteForm (c : Chip) (e : Nat) (ws : List Word) : Prop :=
  writeTable ws < 8 ∧ getBits (nth 0 ws 0) 8 8 ≤ (if c.lpm6 e (writeTable ws) then 128 else 32) ∧ nth 0 ws 3 = 0 ∧
    (c.lpm6 e (writeTable ws) = false → getBits (nth 0 ws 1) 32 32 = 0)

/-- A disabled target is out of reach of a program alone (R204). -/
theorem not_tableOff {oper on : Bool} (h : oper = true ∨ on = true) : ¬ (!oper && !on) = true := by
  rcases h with rfl | rfl <;> simp

section
variable {c : Chip} {now e n : Nat} {ws : List Word} {slice : Option Nat}

theorem Chip.teRequest_badLength (len : ws.length ≠ 5) : c.teRequest now e ws slice = (TeAns.no Code.BAD_ARGUMENT, c) := if_pos (.inl len)

/-- A request of the layout is judged by its op. -/
theorem Chip.teRequest_form (form : writeForm ws n) (op : n ≠ 7) :
    ¬ (ws.length ≠ 5 ∨ getBits (nth 0 ws 0) 16 48 ≠ 0 ∨ getBits (nth 0 ws 0) 4 3 = 7) := by
  obtain ⟨len, zero, kind⟩ := form
  rintro (other | other | reserved)
  · exact other len
  · exact other zero
  · exact op (kind.symm.trans reserved)

theorem Chip.teRequest_clear (form : writeForm ws 6) :
    c.teRequest now e ws slice =
      if slice.isNone then (⟨Code.OK, 0, 0, 0⟩, c.ovfClear e (writeTable ws)) else (TeAns.no Code.BAD_ARGUMENT, c) :=
  (if_neg (Chip.teRequest_form form (by decide))).trans (if_pos form.2.2)

section
variable (form : writeForm ws n) (exact : n ≤ 3)
include form exact

theorem Chip.teRequest_exact (on : slice.isNone = true ∨ c.emtOn e (writeTable ws) = true) :
    c.teRequest now e ws slice = c.teWriteOp now e (writeTable ws) n (c.teKey e (writeTable ws) ((ws.drop 1).take 3) slice) (nth 0 ws 4)
      (getBits (nth 0 ws 0) 7 1 == 1) (slice.getD 0) := by
  have layout := Chip.teRequest_form form (by omega)
  obtain ⟨_, _, rfl⟩ := form
  exact (if_neg layout).trans ((if_neg (by omega)).trans ((if_neg (by omega)).trans (if_neg (not_tableOff on))))

theorem Chip.teRequest_exactOff (program : slice.isNone = false) (off : c.emtOn e (writeTable ws) = false) :
    c.teRequest now e ws slice = (TeAns.no Code.TABLE_OFF, c) := by
  have layout := Chip.teRequest_form form (by omega)
  obtain ⟨_, _, rfl⟩ := form
  unfold writeTable at off
  exact (if_neg layout).trans ((if_neg (by omega)).trans ((if_neg (by omega)).trans (if_pos (by rw [program, off]; rfl))))

end

/-- LPM_ADD and LPM_DEL in the form of R213; the word of the data is judged for LPM_ADD alone. -/
theorem Chip.teRequest_lpm {add : Bool} (form : writeForm ws (if add then 4 else 5)) (pfx : c.lpmWriteForm e ws)
    (data : add = true → getBits (nth 0 ws 4) 32 32 = 0) (on : slice.isNone = true ∨ c.lpmOn e (writeTable ws) = true) :
    c.teRequest now e ws slice =
      c.lpmWrite e (writeTable ws) add (getBits (nth 0 ws 0) 8 8) (nth 0 ws 1) (nth 0 ws 2) (nth 0 ws 4) := by
  have layout := Chip.teRequest_form form (by cases add <;> decide)
  obtain ⟨_, _, op⟩ := form
  obtain ⟨table, len, zero, v4⟩ := pfx
  have adds : (getBits (nth 0 ws 0) 4 3 == 4) = add := by
    rw [op]
    cases add <;> rfl
  have lpm : getBits (nth 0 ws 0) 4 3 = 4 ∨ getBits (nth 0 ws 0) 4 3 = 5 := by
    rw [op]
    cases add <;> decide
  unfold writeTable at *
  refine (if_neg layout).trans ((if_neg (by omega)).trans ((if_pos lpm).trans ((if_neg ?_).trans ((if_neg (not_tableOff on)).trans
    (by rw [adds])))))
  rw [adds]
  simp only [Bool.or_eq_true, Bool.and_eq_true, decide_eq_true_eq, bne_iff_ne, Bool.not_eq_true']
  rintro ((((high | long) | other) | wide) | wide)
  · exact absurd table (Nat.not_lt.mpr high)
  · exact absurd len (Nat.not_le.mpr long)
  · exact other zero
  · exact wide.2 (data wide.1)
  · exact wide.2 (v4 wide.1)

/-- The kinds that `tableOp` tells apart. -/
theorem writeForm_kind (form : writeForm ws n) (op : n ≤ 6) : min 6 (getBits (nth 0 ws 0) 4 3) = n := by
  obtain ⟨_, _, rfl⟩ := form
  exact Nat.min_eq_right op

end

section
variable {c : Chip} {now e op : Nat} {q : TeAns × Chip}

/-- The oldest WRITE request of a program of the engine's side, where its kind is the one asked for. -/
theorem Chip.tableOp_program {r : EngReq} {rest : List EngReq} (hf : c.front 576 (fun r => teOf r.mill == e) = some (r, rest))
    (plain : ({ c with reqs := rest }).plain r) (kind : min 6 (getBits (nth 0 r.words 0) 4 3) = op)
    (ran : ({ c with reqs := rest }).teRequest now e r.words (some r.slice) = q) :
    c.tableOp now e false op =
      q.2.answer r [if q.1.st = Code.ABSENT then replyWord Code.ABSENT 0 576 0 else replyWord q.1.st q.1.flags 576 q.1.value] := by
  have oldest := find?_of_takeFirst (Chip.front_spec hf).2
  simp only [Chip.tableOp, oldest, kind, if_true, Bool.false_eq_true, if_false]
  refine Chip.serveSide_plain hf plain ?_
  rw [Chip.teWriteServe, Chip.front_side hf, Chip.front_chan hf, ran]

/-- The op the operator has started. -/
theorem Chip.tableOp_operator (up : c.up 22 = true) (five : (c.eng e).op.length = 5)
    (kind : min 6 (getBits (nth 0 (c.eng e).op 0) 4 3) = op) (ran : c.teRequest now e (c.eng e).op none = q) :
    c.tableOp now e true op = q.2.opEnd e q.1 := by
  have busy : c.opBusy e = true := by
    rw [Chip.opBusy, Bool.not_eq_true', List.isEmpty_eq_false_iff, ← List.length_pos_iff, five]
    decide
  simp only [Chip.tableOp, up, kind, beq_self_eq_true, Bool.and_self, if_true, Chip.teOperator, busy, ran]

end

/-- Settles O31: a request by its form and its table's state, an op by who asked for it. -/
theorem tableRequests : Obligations.TableRequests := by
  refine ⟨fun s e r rest => ⟨fun t hf => ?lookup, fun t hf => ?learn, fun l hf plain => ?lpm, fun hf plain => ?count⟩,
    fun s e => ⟨fun r rest hf => ?program, ?operator⟩⟩
  case lookup => exact State.exec_lookup rfl hf (by omega) (decide_eq_false (by omega)) rfl
  case learn => exact State.exec_lookup rfl hf (by omega) (decide_eq_true (by omega)) rfl
  case lpm => exact State.exec_on rfl (Chip.serveSide_plain hf plain rfl)
  case count => exact State.exec_on rfl (Chip.serveSide_plain hf plain rfl)
  case program =>
    intro c w t len op lpm ends form prefixOk
    have answers {i : Instr} {n : Nat} {q : TeAns × Chip} (run : exec i s = s.on fun now c => c.tableOp now e false n)
        (plain : c.plain r) (kind : min 6 (getBits (nth 0 r.words 0) 4 3) = n) (ran : c.teRequest s.time e r.words (some r.slice) = q) :
        ends i q := State.exec_on run (Chip.tableOp_program hf plain kind ran)
    have asks {i : Instr} {n : Nat} {q : TeAns × Chip} (run : exec i s = s.on fun now c => c.tableOp now e false n) (op : n ≤ 6)
        (f : form n) (ran : writeForm r.words n → c.teRequest s.time e r.words (some r.slice) = q) : ends i q :=
      answers run f.1 (writeForm_kind f.2 op) (ran f.2)
    exact ⟨fun f on => asks rfl (by decide) f fun f => Chip.teRequest_exact f (by decide) (.inr on),
      fun f on => asks rfl (by decide) f fun f => Chip.teRequest_exact f (by decide) (.inr on),
      fun f on => asks rfl (by decide) f fun f => Chip.teRequest_exact f (by decide) (.inr on),
      fun f on => asks rfl (by decide) f fun f => Chip.teRequest_exact f (by decide) (.inr on),
      fun f off => asks rfl (by decide) f fun f => Chip.teRequest_exactOff f (by decide) rfl off,
      fun f pfx data on => asks rfl (by decide) f fun f => Chip.teRequest_lpm (add := true) f pfx (fun _ => data) (.inr on),
      fun f pfx on => asks rfl (by decide) f fun f => Chip.teRequest_lpm (add := false) f pfx nofun (.inr on),
      fun f => asks rfl (by decide) f Chip.teRequest_clear,
      fun plain len op => answers rfl plain (by rw [op]; rfl) (Chip.teRequest_badLength len)⟩
  case operator =>
    intro c ws w t len op lpm ends form prefixOk
    have asks {i : Instr} {n : Nat} {q : TeAns × Chip} (run : exec i s = s.on fun now c => c.tableOp now e true n) (op : n ≤ 6)
        (f : form n) (ran : writeForm ws n → c.teRequest s.time e ws none = q) : ends i q :=
      State.exec_on run (Chip.tableOp_operator f.1 f.2.1 (writeForm_kind f.2 op) (ran f.2))
    exact ⟨fun f => asks rfl (by decide) f fun f => Chip.teRequest_exact f (by decide) (.inl rfl),
      fun f => asks rfl (by decide) f fun f => Chip.teRequest_exact f (by decide) (.inl rfl),
      fun f => asks rfl (by decide) f fun f => Chip.teRequest_exact f (by decide) (.inl rfl),
      fun f => asks rfl (by decide) f fun f => Chip.teRequest_exact f (by decide) (.inl rfl),
      fun f pfx data => asks rfl (by decide) f fun f => Chip.teRequest_lpm (add := true) f pfx (fun _ => data) (.inl rfl),
      fun f pfx => asks rfl (by decide) f fun f => Chip.teRequest_lpm (add := false) f pfx nofun (.inl rfl),
      fun f => asks rfl (by decide) f Chip.teRequest_clear⟩

end Sys2Proof.Machine

/-! PROOFS. What an exact-match lookup and an exact-match op make of what the search finds (R194, R195, R199, R204-R207). -/

namespace Sys2Proof.Machine

/-! ### Lookups past the flow cache (R199, R205) -/

section
variable {c d : Chip} {now e t slice a b sig : Nat} {key : List Byte} {learn : Option Word} {st : Status} {hit : TeHit}
  (off : c.emt e t F.TE_EMT_FC_EN = 0) (hash : c.teHashOf e t key = (a, b, sig))
include off hash

theorem Chip.teLookup_failed (search : c.teSearch now e t (leNat key) a b sig slice = (st, hit, d)) (failed : st ≠ Code.OK) :
    c.teLookup now e t key learn slice false = (TeAns.no st, d.inc (A.TE_EMT_LOOKUPS e t)) := by
  simp [Chip.teLookup, off, hash, search, failed]

theorem Chip.teLookup_slot {bucket w j r : Nat} {data : Word}
    (search : c.teSearch now e t (leNat key) a b sig slice = (Code.OK, .slot bucket w j r data, d)) :
    c.teLookup now e t key learn slice false =
      (⟨Code.OK, if slotStatic (slotOf w j) then 32 else 0, r, data⟩,
        if slotHit (slotOf w j) then d.teCounts e t false true
        else (d.teCounts e t false true).teWrite e ((d.teCounts e t false true).bucketAt e t bucket) (setNatBits w (48 * j + 41) 1 1)) := by
  simp [Chip.teLookup, off, hash, search, teFlag]

theorem Chip.teLookup_ovf {i : Nat} (search : c.teSearch now e t (leNat key) a b sig slice = (Code.OK, .ovf i, d)) :
    (c.teLookup now e t key learn slice false).1 =
      ⟨Code.OK, if d.flag (A.TE_OVF e i) F.TE_OVF_STATIC then 34 else 2, i, d.rd (A.TE_OVF e i + 24)⟩ := by
  cases static : d.flag (A.TE_OVF e i) F.TE_OVF_STATIC <;> simp [Chip.teLookup, off, hash, search, teFlag, static]

section
variable {ca cb : Nat} (search : c.teSearch now e t (leNat key) a b sig slice = (Code.OK, .miss ca cb, d))
include search

theorem Chip.teLookup_miss : c.teLookup now e t key none slice false =
    (⟨Code.NOT_FOUND, 0, 0, d.rd (A.TE_EMT e t + 16)⟩, d.teCounts e t false false) := by
  simp [Chip.teLookup, off, hash, search]

section
variable {data : Word} {put : TeAns × Chip} (learning : (d.teCounts e t false false).emt e t F.TE_EMT_LEARN_EN = 1)
  (inserted : (d.teCounts e t false false).teInsert now e t (leNat key) a b sig ca cb slice data false = put)
include learning inserted

theorem Chip.teLookup_learned (stored : put.1.st = Code.OK) : c.teLookup now e t key (some data) slice false =
    (⟨Code.NOT_FOUND, put.1.flags + 4, put.1.value, d.rd (A.TE_EMT e t + 16)⟩, put.2) := by
  simp [Chip.teLookup, off, hash, search, learning, inserted, stored]

theorem Chip.teLookup_tableFull (full : put.1.st = Code.TABLE_FULL) : c.teLookup now e t key (some data) slice false =
    (⟨Code.NOT_FOUND, 0, 0, d.rd (A.TE_EMT e t + 16)⟩, put.2) := by
  have failed : Code.TABLE_FULL ≠ Code.OK := by decide
  simp [Chip.teLookup, off, hash, search, learning, inserted, full, failed]

/-- A word that the insertion needs cannot be had. -/
theorem Chip.teLookup_notLearned (failed : put.1.st ≠ Code.OK) (room : put.1.st ≠ Code.TABLE_FULL) :
    c.teLookup now e t key (some data) slice false = (TeAns.no put.1.st, put.2.inc (A.TE_EMT_FULL e t)) := by
  simp [Chip.teLookup, off, hash, search, learning, inserted, failed, room]

end
end
end

/-! ### Exact-match ops (R204, R206, R207) -/

section
variable {c d : Chip} {now e t op slice a b sig : Nat} {key : List Byte} {data : Word} {static : Bool} {st : Status} {hit : TeHit}
  (hash : c.teHashOf e t key = (a, b, sig))
include hash

theorem Chip.teWriteOp_failed (search : c.teSearch now e t (leNat key) a b sig slice = (st, hit, d)) (failed : st ≠ Code.OK) :
    c.teWriteOp now e t op key data static slice = (TeAns.no st, d) := by
  simp [Chip.teWriteOp, hash, search, failed]

theorem Chip.teWriteOp_miss {ca cb : Nat} (search : c.teSearch now e t (leNat key) a b sig slice = (Code.OK, .miss ca cb, d)) :
    c.teWriteOp now e t op key data static slice =
      if op ≤ 1 then d.teInsert now e t (leNat key) a b sig ca cb slice data static else (TeAns.no Code.NOT_FOUND, d) := by
  simp [Chip.teWriteOp, hash, search, Nat.le_one_iff_eq_zero_or_eq_one]

section
variable {bucket w j r : Nat} {old : Word} (search : c.teSearch now e t (leNat key) a b sig slice = (Code.OK, .slot bucket w j r old, d))
include search

theorem Chip.teWriteOp_slot_insert : c.teWriteOp now e t 0 key data static slice =
    (⟨Code.EXISTS, if slotStatic (slotOf w j) then 32 else 0, r, old⟩, d) := by
  simp [Chip.teWriteOp, hash, search, teFlag]

theorem Chip.teWriteOp_slot_delete : c.teWriteOp now e t 3 key data static slice =
    (⟨Code.OK, if slotStatic (slotOf w j) then 32 else 0, r, old⟩, d.teDelete e t bucket w j r) := by
  simp [Chip.teWriteOp, hash, search, teFlag]

/-- UPDATE keeps STATIC, so that the bucket word is not written. -/
theorem Chip.teWriteOp_slot_update : c.teWriteOp now e t 2 key data static slice =
    (⟨Code.OK, if slotStatic (slotOf w j) then 32 else 0, r, data⟩,
      ((d.teWrite e (d.recordAt e t r) (leNat key + data.toNat * 2 ^ 192)).fcChange e t sig bucket j
        (fun l => some { l with data := data, static := slotStatic (slotOf w j) })).nextGen e t) := by
  simp [Chip.teWriteOp, hash, search, teFlag]

theorem Chip.teWriteOp_slot_upsert : (c.teWriteOp now e t 1 key data static slice).1 =
    ⟨Code.OK, (if slotStatic (slotOf w j) then 32 else 0) + 16, r, data⟩ := by
  simp [Chip.teWriteOp, hash, search, teFlag, Nat.add_comm]

end

section
variable {i : Nat} (search : c.teSearch now e t (leNat key) a b sig slice = (Code.OK, .ovf i, d))
include search

theorem Chip.teWriteOp_ovf_insert : c.teWriteOp now e t 0 key data static slice =
    (⟨Code.EXISTS, if d.flag (A.TE_OVF e i) F.TE_OVF_STATIC then 34 else 2, i, 0⟩, d) := by
  cases kept : d.flag (A.TE_OVF e i) F.TE_OVF_STATIC <;> simp [Chip.teWriteOp, hash, search, teFlag, kept]

theorem Chip.teWriteOp_ovf_delete : c.teWriteOp now e t 3 key data static slice =
    (⟨Code.OK, if d.flag (A.TE_OVF e i) F.TE_OVF_STATIC then 34 else 2, i, 0⟩, (d.ovfFree e t i).nextGen e t) := by
  cases kept : d.flag (A.TE_OVF e i) F.TE_OVF_STATIC <;> simp [Chip.teWriteOp, hash, search, teFlag, kept]

theorem Chip.teWriteOp_ovf_update : c.teWriteOp now e t 2 key data static slice =
    (⟨Code.OK, if d.flag (A.TE_OVF e i) F.TE_OVF_STATIC then 34 else 2, i, data⟩, (d.wr (A.TE_OVF e i + 24) data).nextGen e t) := by
  cases kept : d.flag (A.TE_OVF e i) F.TE_OVF_STATIC <;> simp [Chip.teWriteOp, hash, search, teFlag, kept]

end
end

/-- Settles O32: a lookup and an op by what the search finds, an insertion on a miss by what it answers. -/
theorem exactMatchByWhatIsFound : Obligations.ExactMatchByWhatIsFound := by
  refine ⟨fun c now e t slice key learn => ?lookup, fun c now e t slice op key data static => ?write⟩
  case lookup =>
    intro k h found d counted run off
    have hash : c.teHashOf e t key = (h.1, h.2.1, h.2.2) := rfl
    have searched {hit : TeHit} (ok : found.1 = Code.OK) (what : found.2.1 = hit) :
        c.teSearch now e t k h.1 h.2.1 h.2.2 slice = (Code.OK, hit, d) := Prod.ext ok (Prod.ext what rfl)
    refine ⟨fun failed => Chip.teLookup_failed off hash rfl failed, fun bucket w j r data ok slot => ?slot,
      fun i ok ovf => Chip.teLookup_ovf off hash (searched ok ovf), fun ca cb ok miss plain => ?miss,
      fun ca cb data ok miss carried learning => ?learn⟩
    case slot =>
      have ran : run = _ := Chip.teLookup_slot off hash (searched ok slot)
      exact ⟨congrArg Prod.fst ran, congrArg Prod.snd ran⟩
    case miss =>
      subst plain
      exact Chip.teLookup_miss off hash (searched ok miss)
    case learn =>
      subst carried
      intro put
      refine ⟨fun stored => Chip.teLookup_learned off hash (searched ok miss) learning rfl stored,
        fun full => Chip.teLookup_tableFull off hash (searched ok miss) learning rfl full,
        fun unread => Chip.teLookup_notLearned off hash (searched ok miss) learning rfl ?_ ?_⟩
      all_goals rcases unread with code | code <;> rw [code] <;> decide
  case write =>
    intro k h found d run _
    have hash : c.teHashOf e t key = (h.1, h.2.1, h.2.2) := rfl
    have searched {hit : TeHit} (ok : found.1 = Code.OK) (what : found.2.1 = hit) :
        c.teSearch now e t k h.1 h.2.1 h.2.2 slice = (Code.OK, hit, d) := Prod.ext ok (Prod.ext what rfl)
    refine ⟨fun failed => Chip.teWriteOp_failed hash rfl failed, fun ca cb ok miss => ?miss, fun bucket w j r old ok slot => ?slot,
      fun i ok ovf => ?ovf⟩
    case miss =>
      have ran : run = _ := Chip.teWriteOp_miss hash (searched ok miss)
      exact ⟨fun low => ran.trans (if_pos low), fun high => ran.trans (if_neg (Nat.not_le.mpr high))⟩
    case slot =>
      refine ⟨?_, ?_, ?_, ?_⟩ <;> rintro rfl
      · exact Chip.teWriteOp_slot_insert hash (searched ok slot)
      · exact Chip.teWriteOp_slot_delete hash (searched ok slot)
      · exact Chip.teWriteOp_slot_update hash (searched ok slot)
      · exact Chip.teWriteOp_slot_upsert hash (searched ok slot)
    case ovf =>
      refine ⟨?_, ?_, ?_⟩ <;> rintro rfl
      · exact Chip.teWriteOp_ovf_insert hash (searched ok ovf)
      · exact Chip.teWriteOp_ovf_delete hash (searched ok ovf)
      · exact Chip.teWriteOp_ovf_update hash (searched ok ovf)

end Sys2Proof.Machine

/-! PROOFS. The LPM tables and the counter store, and what changes a table or a store without a request (R210, R213, R214, R218, R219, R222). -/

namespace Sys2Proof.Machine

/-! ### The longest match in an LPM table (R213) -/

/-- The bits of an address of an LPM table. -/
def lpmWidth (v6 : Bool) : Nat := if v6 then 128 else 32

/-- What a lookup of address `a` takes of the prefixes of LPM table `l`. -/
def Chip.lpmBest (c : Chip) (e l : Nat) (v6 : Bool) (a : Nat) : Option Prefix :=
  leastBy (fun p : Prefix => 128 - p.len) ((c.prefixes e l).filter fun p => p.matches (lpmWidth v6) a)

section
variable {c : Chip} {e l a : Nat} {v6 : Bool}

/-- Of the prefixes that match, the one taken has the greatest length. -/
theorem Chip.lpmBest_longest {q : Prefix} (bound : ∀ x ∈ c.prefixes e l, x.len ≤ 128) (best : c.lpmBest e l v6 a = some q) :
    q ∈ c.prefixes e l ∧ q.matches (lpmWidth v6) a = true ∧ ∀ x ∈ c.prefixes e l, x.matches (lpmWidth v6) a = true → x.len ≤ q.len := by
  obtain ⟨mem, holds⟩ := List.mem_filter.mp (leastBy_mem best)
  refine ⟨mem, holds, fun x hx hp => ?_⟩
  have least := leastBy_le best x (List.mem_filter.mpr ⟨hx, hp⟩)
  have := bound x hx
  have := bound q mem
  omega

theorem Chip.lpmBest_none (none : ∀ x ∈ c.prefixes e l, x.matches (lpmWidth v6) a = false) : c.lpmBest e l v6 a = .none := by
  rw [Chip.lpmBest, List.filter_eq_nil_iff.mpr fun x hx => by rw [none x hx]; decide]
  rfl

/-- Where one of the prefixes matches, one is taken. -/
theorem Chip.lpmBest_some {p : Prefix} (hp : p ∈ c.prefixes e l) (matching : p.matches (lpmWidth v6) a = true) :
    ∃ q, c.lpmBest e l v6 a = some q := by
  refine Option.ne_none_iff_exists'.mp fun none => ?_
  have mem : p ∈ (c.prefixes e l).filter fun p => p.matches (lpmWidth v6) a := List.mem_filter.mpr ⟨hp, matching⟩
  rw [leastBy_eq_none none] at mem
  exact List.not_mem_nil mem

end

/-- A request of the form of R213 is not refused for it. -/
theorem lpmForm_ok {v6 : Bool} {ws : List Word} (len : ws.length = if v6 then 2 else 1) (zero : v6 = false → getBits (nth 0 ws 0) 32 32 = 0) :
    (decide (ws.length ≠ if v6 then 2 else 1) || (!v6 && getBits (nth 0 ws 0) 32 32 != 0)) = false := by
  rw [decide_eq_false (not_not_intro len), Bool.false_or]
  cases v6
  · rw [zero rfl]
    rfl
  · rfl

section
variable {c d : Chip} {now e l : Nat} {r : EngReq} {v6 : Bool} (side : teOf r.mill = e) (table : r.chan - 577 = l) (family : c.lpm6 e l = v6)
  (len : r.words.length = if v6 then 2 else 1) (zero : v6 = false → getBits (nth 0 r.words 0) 32 32 = 0) (on : c.lpmOn e l = true)
  (words : c.lpmWords e (if v6 then 4 else 2) = (true, d))
include side table family len zero on words

theorem Chip.lpmServe_hit {q : Prefix}
    (best : (d.inc (A.TE_LPM_LOOKUPS e l)).lpmBest e l v6 (lpmAddr v6 (nth 0 r.words 0) (nth 0 r.words 1)) = some q) :
    c.lpmServe now r false = ([replyWord Code.OK 0 r.chan q.len, BitVec.ofNat 64 q.data], d.inc (A.TE_LPM_LOOKUPS e l)) := by
  have formed := lpmForm_ok len zero
  unfold Chip.lpmBest lpmWidth at best
  simp only [Chip.lpmServe, side, table, family, formed, on, words, best, Bool.not_true, Bool.false_eq_true, if_false]

theorem Chip.lpmServe_miss
    (best : (d.inc (A.TE_LPM_LOOKUPS e l)).lpmBest e l v6 (lpmAddr v6 (nth 0 r.words 0) (nth 0 r.words 1)) = none) :
    c.lpmServe now r false =
      ([replyWord Code.NOT_FOUND 0 r.chan 0, BitVec.ofNat 64 ((d.inc (A.TE_LPM_LOOKUPS e l)).get (A.TE_LPM e l) F.TE_LPM_DEFAULT)],
        d.inc (A.TE_LPM_LOOKUPS e l)) := by
  have formed := lpmForm_ok len zero
  unfold Chip.lpmBest lpmWidth at best
  simp only [Chip.lpmServe, side, table, family, formed, on, words, best, Bool.not_true, Bool.false_eq_true, if_false]

end

/-! ### LPM_ADD and LPM_DEL (R213) -/

/-- Whether an entry is the one of length `len` and address `a`. -/
def Prefix.named (p : Prefix) (len a : Nat) : Bool := p.len == len && p.addr == a

/-- The address that a request to LPM table `l` names, its bits behind the first `len` cleared. -/
def Chip.lpmNamed (c : Chip) (e l len : Nat) (w0 w1 : Word) : Nat :=
  lpmAddr (c.lpm6 e l) w0 w1 / 2 ^ (lpmWidth (c.lpm6 e l) - len) * 2 ^ (lpmWidth (c.lpm6 e l) - len)

/-- The units an entry of LPM table `l` takes. -/
def Chip.lpmCost (c : Chip) (e l : Nat) : Nat := if c.lpm6 e l then 2 else 1

/-- The units of the store in use. -/
def Chip.lpmUnits (c : Chip) (e : Nat) : Nat := c.get (A.TE_LPM_STAT e) F.TE_LPM_STAT_UNITS

/-- LPM table `l` holds the prefixes `ps`, the store `u` units, by a completed write. -/
def Chip.lpmPut (c : Chip) (e l : Nat) (ps : List Prefix) (u : Nat) : Chip :=
  ((c.setEng e { c.eng e with lpm := mset [] (c.eng e).lpm l ps }).set (A.TE_LPM_STAT e) F.TE_LPM_STAT_UNITS u).nextGen e (16 + l)

section
variable {c d : Chip} {e l len : Nat} {w0 w1 data : Word}

section
variable (absent : ((c.prefixes e l).any fun p => p.named len (c.lpmNamed e l len w0 w1)) = false)
include absent

theorem Chip.lpmWrite_notFound : c.lpmWrite e l false len w0 w1 data = (TeAns.no Code.NOT_FOUND, c) := by
  unfold Prefix.named Chip.lpmNamed lpmWidth at absent
  simp only [Chip.lpmWrite, absent, Bool.not_false, Bool.and_self, if_true]

theorem Chip.lpmWrite_full (full : c.get (A.TE_LPM_STORE e) F.TE_LPM_STORE_PFX_WORDS < c.lpmUnits e + c.lpmCost e l) :
    c.lpmWrite e l true len w0 w1 data = (TeAns.no Code.LPM_FULL, c) := by
  unfold Prefix.named Chip.lpmNamed lpmWidth at absent
  unfold Chip.lpmUnits Chip.lpmCost at full
  simp only [Chip.lpmWrite, absent, full, Bool.not_false, Bool.not_true, Bool.and_self, Bool.false_and, decide_true, if_true, if_false,
    Bool.false_eq_true]

end

section
variable (words : c.lpmWords e 16 = (true, d))
include words

theorem Chip.lpmWrite_adds (absent : ((c.prefixes e l).any fun p => p.named len (c.lpmNamed e l len w0 w1)) = false)
    (room : c.lpmUnits e + c.lpmCost e l ≤ c.get (A.TE_LPM_STORE e) F.TE_LPM_STORE_PFX_WORDS) :
    c.lpmWrite e l true len w0 w1 data = (⟨Code.OK, 0, len, 0⟩,
      d.lpmPut e l (((c.prefixes e l).filter fun p => !p.named len (c.lpmNamed e l len w0 w1)) ++
        [⟨len, c.lpmNamed e l len w0 w1, data.toNat % 2 ^ 32⟩]) (c.lpmUnits e + c.lpmCost e l)) := by
  unfold Prefix.named Chip.lpmNamed lpmWidth at absent
  unfold Chip.lpmUnits Chip.lpmCost at room
  simp only [Chip.lpmWrite, absent, Nat.not_lt.mpr room, words, Bool.not_false, Bool.not_true, Bool.and_self, Bool.false_and, decide_false,
    if_true, if_false, Bool.false_eq_true, Bool.and_false]
  rfl

variable (present : ((c.prefixes e l).any fun p => p.named len (c.lpmNamed e l len w0 w1)) = true)
include present

theorem Chip.lpmWrite_replaces : c.lpmWrite e l true len w0 w1 data = (⟨Code.OK, 0, len, 0⟩,
    d.lpmPut e l (((c.prefixes e l).filter fun p => !p.named len (c.lpmNamed e l len w0 w1)) ++
      [⟨len, c.lpmNamed e l len w0 w1, data.toNat % 2 ^ 32⟩]) (c.lpmUnits e)) := by
  unfold Prefix.named Chip.lpmNamed lpmWidth at present
  simp only [Chip.lpmWrite, present, words, Bool.not_true, Bool.and_false, Bool.false_and, if_true, if_false, Bool.false_eq_true]
  rfl

theorem Chip.lpmWrite_deletes : c.lpmWrite e l false len w0 w1 data = (⟨Code.OK, 0, len, 0⟩,
    d.lpmPut e l ((c.prefixes e l).filter fun p => !p.named len (c.lpmNamed e l len w0 w1)) (c.lpmUnits e - c.lpmCost e l)) := by
  unfold Prefix.named Chip.lpmNamed lpmWidth at present
  simp only [Chip.lpmWrite, present, words, Bool.not_true, Bool.and_false, Bool.false_and, if_false, Bool.false_eq_true]
  rfl

end
end

/-! ### COUNT (R214) -/

section
variable {c d : Chip} {now : Nat} {r : EngReq} {l : CcLine}

/-- The line of a counter with bytes and packets added to the two numbers of entry `i`. -/
def CcLine.counted (l : CcLine) (i : Nat) (w : Word) : CcLine :=
  let k := 2 * (i % 2)
  let x := setNth l.data k (nth 0 l.data k + BitVec.ofNat 64 (getBits w 0 48))
  { l with data := setNth x (k + 1) (nth 0 x (k + 1) + BitVec.ofNat 64 (getBits w 48 16)), dirty := true }

theorem Chip.teCount_adds {e i : Nat} (side : teOf r.mill = e) (entry : getBits (nth 0 r.words 0) 0 24 = i) (len : r.words.length = 2)
    (zero : getBits (nth 0 r.words 0) 24 40 = 0) (on : c.flag (A.TE_CNT_STORE e) F.TE_CNT_STORE_ENABLE = true)
    (inside : i < c.get (A.TE_CNT_STORE e) F.TE_CNT_STORE_COUNT) (line : c.ccLine now e (i / 2) r.slice = (Code.OK, l, d)) :
    c.teCount now r = ([replyWord Code.OK 0 r.chan 0],
      (d.setEng e { d.eng e with cc := l.counted i (nth 0 r.words 1) :: (d.eng e).cc }).inc (A.TE_CNT_ADDS e)) := by
  subst side entry
  have formed : ¬ (getBits (nth 0 r.words 0) 24 40 ≠ 0 ∨
      c.get (A.TE_CNT_STORE (teOf r.mill)) F.TE_CNT_STORE_COUNT ≤ getBits (nth 0 r.words 0) 0 24) := by omega
  rw [Chip.teCount, if_neg (not_not_intro len), if_neg formed, if_neg (by rw [on]; decide), line]
  rfl

end


/-! ### Registers of the Table Engines (R31) -/

/-- Register `r` of the Table Engines stands at `a`. -/
structure RegRow.TeAt (r : RegRow) (a : Nat) : Prop where
  aligned : a % 8 = 0
  low : 0xA0000000 ≤ a
  high : a + 8 * r.words < 0xB0000000
  words : ∀ j < r.words, findRow teRows (a + 8 * j) = some (r, j)

section
variable {r : RegRow} {a : Nat} (h : r.TeAt a)
include h

/-- No window lies among the registers of the Table Engines. -/
theorem RegRow.TeAt.unit (c : Chip) {j : Nat} (hj : j < r.words) :
    findRow (regionRows (a + 8 * j)) (a + 8 * j) = some (r, j) ∧ c.reserved (a + 8 * j) = false ∧
      c.place (a + 8 * j) = none ∧ millOffset (a + 8 * j) = none := by
  have low := h.low
  have high := h.high
  have region : (a + 8 * j) / 0x10000000 = 10 := by omega
  have row : findRow (regionRows (a + 8 * j)) (a + 8 * j) = some (r, j) := by
    rw [regionRows, region]
    exact h.words j hj
  have mill : millOffset (a + 8 * j) = none := if_neg (by omega)
  have place : c.place (a + 8 * j) = none := by rw [Chip.place, if_neg (by omega), if_neg (by omega), mill]
  have beyond : ¬ a + 8 * j < 0x60100020 := by omega
  exact ⟨row, by simp [Chip.reserved, place, mill, row, beyond], place, mill⟩

variable {ws : List Word} (hne : ws ≠ []) (hl : ws.length ≤ r.words)
include hne hl

theorem RegRow.TeAt.cut (c : Chip) : c.cut a ws = some [.elem ⟨r, a, numbered 0 ws⟩] :=
  Chip.cut_words (fun _ hj => h.unit c hj) ws 0 hne (by omega)

theorem RegRow.TeAt.filled (c : Chip) (now : Nat) : c.filled now a ws = c.storeElem now ⟨r, a, numbered 0 ws⟩ := by
  rw [Chip.filled, h.cut hne hl]

/-- A PUT of words of a register of the Table Engines ends as their rule says. -/
theorem RegRow.TeAt.put {c : Chip} (now : Nat) (up : c.regUp a = true) :
    c.put now a ws = c.teHook (c.filled now a ws) now ⟨r, a, numbered 0 ws⟩ := by
  have low := h.low
  have high := h.high
  have plain : inSat a = false := by
    have : ¬ a < A.FT_SAT 1024 := by
      rw [A.FT_SAT]
      omega
    simp [inSat, this]
  have region : a / 0x10000000 = 10 := by omega
  rw [Chip.put_elem c now a ws _ plain h.aligned (h.cut hne hl c), h.filled hne hl, Chip.elemPut, up, Chip.hook, region]
  rfl

end

/-- A register write while the command processor runs ends with the code of its PUT. -/
theorem Chip.regWrite_put {c d : Chip} {now a : Nat} {ws : List Word} {st : Status} (fw : c.pwr.fwRuns = true) (mode : 4 ≤ c.mode)
    (put : c.put now a ws = (st, d)) : c.regWrite now a ws = { d with cmd := { d.cmd with lastStatus := st } } := by
  rw [Chip.regWrite, fw, decide_eq_true mode, put]
  rfl

theorem State.writable_iff {s : State} {a : Nat} :
    s.writable a = true ↔ s.found.pwr.fwRuns = true ∧ 4 ≤ s.found.mode ∧ s.found.regUp a = true := by
  rw [State.writable, Bool.and_eq_true, Bool.and_eq_true, decide_eq_true_eq, and_assoc]

/-- The rows of TE_x_EMT, TE_x_OP_CTRL and TE_x_CNT_CTRL in the register table. -/
def emtRow : RegRow := nth ⟨0, [], 0, []⟩ teRows 2
def opCtrlRow : RegRow := nth ⟨0, [], 0, []⟩ teRows 5
def cntCtrlRow : RegRow := nth ⟨0, [], 0, []⟩ teRows 11

theorem emtRow_at (e : EpNo) (t : Fin 16) : emtRow.TeAt (A.TE_EMT e t) :=
  ⟨by revert e t; decide, by revert e t; decide, by revert e t; decide, by revert e t; decide +kernel⟩

theorem opCtrlRow_at (e : EpNo) : opCtrlRow.TeAt (A.TE_OP_CTRL e) :=
  ⟨by revert e; decide, by revert e; decide, by revert e; decide, by revert e; decide +kernel⟩

theorem cntCtrlRow_at (e : EpNo) : cntCtrlRow.TeAt (A.TE_CNT_CTRL e) :=
  ⟨by revert e; decide, by revert e; decide, by revert e; decide, by revert e; decide +kernel⟩

/-! ### What a write of one of them does (R204, R214, R218, R219) -/

section
variable (c d : Chip) (now e : Nat)

/-- GO starts the op where none runs (R222). -/
theorem Chip.teHook_go : c.teHook d now ⟨opCtrlRow, A.TE_OP_CTRL e, numbered 0 [1]⟩ =
    if d.opBusy e then (Code.OP_BUSY, c) else (Code.OK, d.teGo e) := by
  have index : (⟨opCtrlRow, A.TE_OP_CTRL e, numbered 0 [1]⟩ : Elem).i = e := Elem.i_array (count := 2) (stride := 0x8000000) rfl rfl (by decide)
  simp only [Chip.teHook, index, Elem.raw_numbered]
  rw [if_neg (by decide), if_neg (by decide), if_pos (by decide), if_neg (by decide)]

/-- FLUSH = 1 starts a flush. -/
theorem Chip.teHook_flush : c.teHook d now ⟨cntCtrlRow, A.TE_CNT_CTRL e, numbered 0 [1]⟩ = (Code.OK, d.ccFlush e) := by
  have index : (⟨cntCtrlRow, A.TE_CNT_CTRL e, numbered 0 [1]⟩ : Elem).i = e := Elem.i_array (count := 2) (stride := 0x8000000) rfl rfl (by decide)
  simp only [Chip.teHook, index, Elem.raw_numbered]
  rw [if_neg (by decide), if_neg (by decide), if_neg (by decide), if_neg (by decide), if_neg (by decide), if_neg (by decide),
    if_neg (by decide), if_pos (by decide), if_pos (by decide)]

end

/-- The element of TE_x_EMT(t) that a PUT of `ws` covers. -/
def emtElem (e t : Nat) (ws : List Word) : Elem := ⟨emtRow, A.TE_EMT e t, numbered 0 ws⟩

section
variable {c d : Chip} {now e t : Nat} {ws : List Word}

theorem emtElem_index (ht : t < 16) : (emtElem e t ws).i = e ∧ (emtElem e t ws).j = t := by
  have offset : A.TE_EMT e t - emtRow.base = 0x8000000 * e + 32 * t := by
    have : emtRow.base = 0xA0001000 := rfl
    simp only [A.TE_EMT]
    omega
  have i : (emtElem e t ws).i = (0x8000000 * e + 32 * t) / 0x8000000 := congrArg (· / 0x8000000) offset
  have j : (emtElem e t ws).j = (0x8000000 * e + 32 * t) % 0x8000000 / 32 := congrArg (· % 0x8000000 / 32) offset
  omega

theorem Chip.teHook_emt : c.teHook d now (emtElem e t ws) = c.emtHook d now (emtElem e t ws) := by
  have base : (emtElem e t ws).row.base = A.TE_EMT 0 0 := rfl
  simp only [Chip.teHook, base]
  rw [if_neg (by decide), if_pos trivial]

variable (ht : t < 16)
include ht

theorem Chip.emtHook_refused {st : Status} (check : d.emtCheck e t (c.rd (A.TE_EMT e t)) (c.rd (A.TE_EMT e t + 8)) = st)
    (refused : st ≠ Code.OK) : c.emtHook d now (emtElem e t ws) = (st, c) := by
  obtain ⟨i, j⟩ := emtElem_index (e := e) (ws := ws) ht
  have base : (emtElem e t ws).base = A.TE_EMT e t := rfl
  simp only [Chip.emtHook, i, j, base, check]
  exact if_pos refused

section
variable (check : d.emtCheck e t (c.rd (A.TE_EMT e t)) (c.rd (A.TE_EMT e t + 8)) = Code.OK)
include check

theorem Chip.emtHook_keeps (keeps : ¬ (getBits (c.rd (A.TE_EMT e t)) 33 1 = 0 ∧ getBits (d.rd (A.TE_EMT e t)) 33 1 = 1)) :
    c.emtHook d now (emtElem e t ws) = (Code.OK, d.emtPut now e t (c.rd (A.TE_EMT e t))) := by
  obtain ⟨i, j⟩ := emtElem_index (e := e) (ws := ws) ht
  have base : (emtElem e t ws).base = A.TE_EMT e t := rfl
  simp only [Chip.emtHook, i, j, base, check]
  exact (if_neg (fun bad => bad rfl)).trans (if_neg keeps)

/-- A write that enables the table scans it; a scan that fails leaves the words as they were (R218). -/
theorem Chip.emtHook_enables (off : getBits (c.rd (A.TE_EMT e t)) 33 1 = 0) (on : getBits (d.rd (A.TE_EMT e t)) 33 1 = 1) :
    c.emtHook d now (emtElem e t ws) = ((d.tableScan now e t).1,
      if (d.tableScan now e t).1 = Code.OK then (d.tableScan now e t).2
      else (List.range 4).foldl (fun (d : Chip) k => d.wr (A.TE_EMT e t + 8 * k) (c.rd (A.TE_EMT e t + 8 * k))) (d.tableScan now e t).2) := by
  obtain ⟨i, j⟩ := emtElem_index (e := e) (ws := ws) ht
  have base : (emtElem e t ws).base = A.TE_EMT e t := rfl
  simp only [Chip.emtHook, i, j, base, check]
  refine (if_neg (fun bad => bad rfl)).trans ((if_pos ⟨off, on⟩).trans ?_)
  split <;> rfl

end
end

/-! ### What a write makes of the first word of a register (R10, Table 0-3) -/

section
variable {r : RegRow} {a now : Nat}

theorem Chip.rd_wrNow (c : Chip) (a b : Nat) (v : Word) : (c.wrNow now a v).rd b = if b = a then v else c.rd b := Chip.rd_wr _ a b v

/-- Words behind the first leave it. -/
theorem Chip.rd_storeElem_behind : ∀ (ws : List Word) (k : Nat) (c : Chip), 0 < k → (c.storeElem now ⟨r, a, numbered k ws⟩).rd a = c.rd a
  | [], _, _, _ => rfl
  | v :: ws, k, c, hk => by
    rw [numbered_cons]
    refine (Chip.rd_storeElem_behind ws (k + 1) _ (Nat.succ_pos k)).trans ?_
    rw [Chip.rd_wrNow]
    exact if_neg (show a ≠ a + 8 * k by omega)

/-- The first word takes what its fields make of the word written. -/
theorem Chip.rd_storeElem_first (c : Chip) (v : Word) (ws : List Word) :
    (c.storeElem now ⟨r, a, numbered 0 (v :: ws)⟩).rd a =
      (r.fields.filter fun f => f.word == 0).foldl (fieldPut (r.base == A.CE_CTX_BLOB 0) v) (c.rdAt now a) := by
  rw [numbered_cons]
  refine (Chip.rd_storeElem_behind ws 1 _ Nat.one_pos).trans ?_
  rw [Chip.rd_wrNow]
  exact if_pos rfl

end

/-- A read-write field reads back as written. -/
theorem getBits_foldl_fieldPut {kept : Bool} {new acc : Word} {fs : List FieldRow} {f : FieldRow} (apart : fs.Pairwise fun f g => f.apart g = true)
    (word : ∀ g ∈ fs, g.word = f.word) (hf : f ∈ fs) (rw_ : f.access = .rw) :
    getBits (fs.foldl (fieldPut kept new) acc) f.lo f.width = getBits new f.lo f.width :=
  getBits_congr fun i hi low high => by
    rw [getLsbD_foldl_fieldPut_in kept new hi ⟨low, high⟩ fs acc apart word hf, rw_]
    rfl

/-- ENABLE of TE_x_EMT(t) as a write leaves it. -/
theorem Chip.filled_emtEnable (c : Chip) (now : Nat) (e : EpNo) (t : Fin 16) {ws : List Word} (hne : ws ≠ []) (hl : ws.length ≤ 4) :
    getBits ((c.filled now (A.TE_EMT e t) ws).rd (A.TE_EMT e t)) 33 1 = getBits (nth 0 ws 0) 33 1 := by
  rw [(emtRow_at e t).filled hne hl]
  obtain ⟨v, vs, rfl⟩ := List.exists_cons_of_ne_nil hne
  rw [Chip.rd_storeElem_first]
  exact getBits_foldl_fieldPut (f := ⟨0, 33, 1, .rw, 0, true⟩) (by decide) (by decide) (by decide) rfl

theorem Chip.emtOn_iff {c : Chip} {e t : Nat} : c.emtOn e t = true ↔ getBits (c.rd (A.TE_EMT e t)) 33 1 = 1 := beq_iff_eq

theorem Chip.emtOn_eq_false {c : Chip} {e t : Nat} : c.emtOn e t = false ↔ getBits (c.rd (A.TE_EMT e t)) 33 1 = 0 := by
  rw [← Bool.not_eq_true, Chip.emtOn_iff]
  have := getBits_one (c.rd (A.TE_EMT e t)) 33
  omega

/-! ### Writes of TE_x_EMT(t) and the end of a scan (R218, R219) -/

section
variable {c : Chip} {now : Nat} {e : EpNo} {t : Fin 16} {ws : List Word}

/-- A write that may enable the table, by an adapter whose processor runs. -/
theorem Chip.emtWrite_scans (fw : c.pwr.fwRuns = true) (mode : 4 ≤ c.mode) (off : c.emtOn e t = false) (on : getBits (nth 0 ws 0) 33 1 = 1) :
    c.emtWrite now e t ws =
      if (c.put now (A.TE_EMT e t) ws).1 = Code.OK ∨ (c.put now (A.TE_EMT e t) ws).1 = Code.BAD_IMAGE ∨
          (c.put now (A.TE_EMT e t) ws).1 = Code.POISONED then
        c.setEng e { c.eng e with scan := mset [] (c.eng e).scan t ws }
      else { c with cmd := { c.cmd with lastStatus := (c.put now (A.TE_EMT e t) ws).1 } } :=
  if_pos (by rw [fw, decide_eq_true mode, off, on]; rfl)

theorem Chip.emtWrite_plain (keeps : ¬ (c.emtOn e t = false ∧ getBits (nth 0 ws 0) 33 1 = 1)) :
    c.emtWrite now e t ws = c.regWrite now (A.TE_EMT e t) ws :=
  if_neg (by simpa using fun _ _ => not_and.mp keeps)

/-- The end of a scan performs the write that asked for it. -/
theorem Chip.scanEnd_writes (scan : mget [] (c.eng e).scan t = ws) (hne : ws ≠ []) :
    c.scanEnd now e t = (c.setEng e { c.eng e with scan := mset [] (c.eng e).scan t [] }).regWrite now (A.TE_EMT e t) ws := by
  obtain ⟨v, vs, rfl⟩ := List.exists_cons_of_ne_nil hne
  rw [Chip.scanEnd, scan]

/-- A PUT of TE_x_EMT(t) ends as the rule of its row says. -/
theorem Chip.put_emt (up : c.regUp (A.TE_EMT e t) = true) (hne : ws ≠ []) (hl : ws.length ≤ 4) :
    c.put now (A.TE_EMT e t) ws = c.emtHook (c.filled now (A.TE_EMT e t) ws) now (emtElem e t ws) :=
  ((emtRow_at e t).put hne hl now up).trans Chip.teHook_emt

end

/-! ### The sweeper (R210) -/

theorem setNatBits_zero_le (v lo n : Nat) : setNatBits v lo n 0 ≤ v := by
  simp [setNatBits]

/-- Clearing a bit that is set lowers a number. -/
theorem setNatBits_zero_lt {v lo : Nat} (h : natBits v lo 1 = 1) : setNatBits v lo 1 0 < v := by
  have set : v.testBit lo = true := by
    rw [← Bool.not_eq_false, ← natBits_eq_zero, h]
    decide
  have high := Nat.ge_two_pow_of_testBit set
  have pos := Nat.two_pow_pos lo
  rw [setNatBits, h]
  omega

section
variable {c d : Chip} {now e t i w k : Nat}

/-- The sweeper's visit, once it is due, of a slot behind the first of a bucket that can be read. -/
theorem Chip.sweepVisit_reads {bs : List Byte} (up : c.up 22 = true) (on : c.emtOn e t = true) (age : c.emt e t F.TE_EMT_AGE_EN = 1)
    (inside : (c.sweeper e t).pos < 4 * 2 ^ c.emt e t F.TE_EMT_BUCKET_LOG2) (behind : (c.sweeper e t).pos % 4 ≠ 0)
    (due : c.sweepDue now e t (4 * 2 ^ c.emt e t F.TE_EMT_BUCKET_LOG2 + (c.ovfOf e t).length) (c.sweeper e t).pos = true)
    (read : c.readQdr now e (c.bucketAt e t ((c.sweeper e t).pos / 4)) 0 = (.ok bs, d)) :
    c.sweepVisit now e t = d.sweepBucket e t ((c.sweeper e t).pos / 4) (leNat bs) ((c.sweeper e t).pos % 4) (c.sweeper e t) := by
  have started : (c.sweeper e t).pos ≠ 0 := fun zero => behind (by rw [zero])
  simp [Chip.sweepVisit, up, on, age, inside, behind, due, read, started]

/-- The first word written at a bucket in a pass is counted. -/
theorem Chip.sweepBucket_first {v : Sweep} {wrote : Bool} (quiet : v.wrote = false) (slot : c.sweepSlot e t i w k = d)
    (counted : (d.qdrWords e != c.qdrWords e) = wrote) :
    c.sweepBucket e t i w k v = d.setSweep e t { v with pos := 4 * i + k + 1, wrote := wrote && k != 3 } := by
  simp [Chip.sweepBucket, quiet, slot, counted]

theorem Chip.sweepSlot_stays (kept : slotValid (slotOf w k) = false ∨ slotStatic (slotOf w k) = true) : c.sweepSlot e t i w k = c :=
  if_pos (by rcases kept with kept | kept <;> simp [kept])

section
variable (valid : slotValid (slotOf w k) = true) (moves : slotStatic (slotOf w k) = false)
include valid moves

section
variable (idle : slotHit (slotOf w k) = false) (cold : c.lineHit e t (slotSig (slotOf w k)) i k = false)
include idle cold

theorem Chip.sweepSlot_removes (stale : slotStale (slotOf w k) = true) :
    c.sweepSlot e t i w k = (c.teDelete e t i w k (slotRec (slotOf w k))).inc (A.TE_EMT_AGED e t) := by
  simp [Chip.sweepSlot, valid, moves, idle, cold, stale]

theorem Chip.sweepSlot_marks (fresh : slotStale (slotOf w k) = false) :
    c.sweepSlot e t i w k = c.teWrite e (c.bucketAt e t i) (putSlot w k (setNatBits (slotOf w k) 42 1 1) (slotSeq w k)) := by
  simp [Chip.sweepSlot, valid, moves, idle, cold, fresh]

end

/-- An entry with HIT loses HIT and STALE: its bucket word changes and is written. -/
theorem Chip.sweepSlot_clears {y : Nat} (hit : slotHit (slotOf w k) = true) (cleared : setNatBits (setNatBits (slotOf w k) 41 1 0) 42 1 0 = y) :
    c.sweepSlot e t i w k = (c.teWrite e (c.bucketAt e t i) (putSlot w k y (slotSeq w k))).fcChange e t (slotSig (slotOf w k)) i k
      fun l => some { l with hit := false, slotHit := false } := by
  have changed : y ≠ slotOf w k := by
    rw [← cleared]
    exact Nat.ne_of_lt (Nat.lt_of_le_of_lt (setNatBits_zero_le _ 42 1) (setNatBits_zero_lt (beq_iff_eq.mp hit)))
  simp [Chip.sweepSlot, valid, moves, hit, cleared, changed]

end

/-- TE_x_EMT_AGED is a register apart from TE_x_QDR_WORDS. -/
theorem Chip.qdrWords_inc_aged (c : Chip) (e : EpNo) (t : Fin 16) : (c.inc (A.TE_EMT_AGED e t)).qdrWords e = c.qdrWords e :=
  congrArg BitVec.toNat (Chip.rd_set_ne _ _ _ (by simp only [A.TE_EMT_AGED, A.TE_QDR_WORDS]; omega))

end

/-- Settles O33: a lookup by the prefixes that match, an op by the prefixes held, a write by its register's rule, a visit by the slot it finds. -/
theorem longestPrefixAndCounts : Obligations.LongestPrefixAndCounts := by
  refine ⟨fun c now r => ⟨fun p => ?lookup, ?count⟩, fun c e l len w0 w1 data => ?write, fun s e t ws => ?upkeep⟩
  case lookup =>
    intro l v6 width w d a run len zero on ok bound
    have words : c.lpmWords (teOf r.mill) (if v6 then 4 else 2) = (true, w.2) := Prod.ext ok rfl
    refine ⟨fun hp matching => ?_, fun none => ?_⟩
    · obtain ⟨q, best⟩ := Chip.lpmBest_some (v6 := v6) hp matching
      obtain ⟨mem, holds, longest⟩ := Chip.lpmBest_longest bound best
      exact ⟨q, mem, holds, longest, Chip.lpmServe_hit rfl rfl rfl len zero on words best⟩
    · exact Chip.lpmServe_miss rfl rfl rfl len zero on words (Chip.lpmBest_none none)
  case count =>
    intro i k got bytes packets x len on zero inside ok
    exact Chip.teCount_adds rfl rfl len zero on inside (Prod.ext ok rfl)
  case write =>
    intro v6 width a cost same units rest d put
    have words (ok : (c.lpmWords e 16).1 = true) : c.lpmWords e 16 = (true, d) := Prod.ext ok rfl
    exact ⟨fun absent => Chip.lpmWrite_notFound absent,
      fun present ok => ⟨Chip.lpmWrite_deletes (words ok) present, Chip.lpmWrite_replaces (words ok) present⟩,
      fun absent => ⟨fun full => Chip.lpmWrite_full absent full, fun room ok => Chip.lpmWrite_adds (words ok) absent room⟩⟩
  case upkeep =>
    intro c a put runs on
    refine ⟨fun hw => ?flush, fun up => ?flushed, fun hw => ?go, fun hw h1 hl keeps => ?put, fun hr off on accepted => ?scan,
      fun hr off on ok image poison => ?refused, fun hw h1 hl on scan off => ?scanned, fun bs d up on age => ?sweep⟩
    case flush =>
      obtain ⟨fw, mode, up⟩ := State.writable_iff.mp hw
      exact State.exec_on rfl (Chip.regWrite_put fw mode
        (((cntCtrlRow_at e).put (List.cons_ne_nil 1 []) (Nat.le_refl 1) s.time up).trans (Chip.teHook_flush ..)))
    case flushed => exact State.exec_on rfl (if_pos up)
    case go =>
      intro d
      obtain ⟨_, _, up⟩ := State.writable_iff.mp hw
      have ran := ((opCtrlRow_at e).put (List.cons_ne_nil 1 []) (Nat.le_refl 1) s.time up).trans (Chip.teHook_go c d s.time e)
      exact ⟨fun busy => ran.trans (if_pos busy), fun idle => ran.trans (if_neg (by rw [idle]; decide))⟩
    case put =>
      intro d st
      obtain ⟨fw, mode, up⟩ := State.writable_iff.mp hw
      have hne : ws ≠ [] := List.length_pos_iff.mp h1
      have write : c.put s.time a ws = c.emtHook d s.time (emtElem e t ws) := Chip.put_emt up hne (by omega)
      have ends {code : Status} {f : Chip} (rule : c.emtHook d s.time (emtElem e t ws) = (code, f)) : exec (.emtWrite e t ws) s = s.wrote code f :=
        State.exec_on rfl ((Chip.emtWrite_plain keeps).trans (Chip.regWrite_put fw mode (write.trans rule)))
      refine ⟨fun ok => ends (Chip.emtHook_keeps t.isLt ok ?_), fun refused => ends (Chip.emtHook_refused t.isLt rfl refused)⟩
      rw [Chip.filled_emtEnable s.found s.time e t hne (by omega), ← Chip.emtOn_eq_false]
      exact keeps
    case scan => exact State.exec_on rfl ((Chip.emtWrite_scans hr.1 hr.2 off on).trans (if_pos accepted))
    case refused =>
      exact State.exec_on rfl ((Chip.emtWrite_scans hr.1 hr.2 off on).trans (if_neg fun accepted =>
        accepted.elim ok fun bad => bad.elim image poison))
    case scanned =>
      intro d f scanned back check
      obtain ⟨fw, mode, up⟩ := State.writable_iff.mp hw
      have hne : ws ≠ [] := List.length_pos_iff.mp h1
      have enabled : getBits (f.rd a) 33 1 = 1 := (d.filled_emtEnable s.time e t hne (by omega)).trans on
      have rule : d.put s.time a ws = _ := (Chip.put_emt (c := d) up hne (by omega)).trans
        (Chip.emtHook_enables t.isLt check (Chip.emtOn_eq_false.mp off) enabled)
      have ends {code : Status} {g : Chip} (rule : d.put s.time a ws = (code, g)) : exec (.tableScanEnd e t) s = s.wrote code g :=
        State.exec_on rfl ((Chip.scanEnd_writes scan hne).trans (Chip.regWrite_put (c := d) fw mode rule))
      exact ⟨fun ok => ends (rule.trans (Prod.ext ok (if_pos ok))), fun bad => ends (rule.trans (Prod.ext rfl (if_neg bad)))⟩
    case sweep =>
      intro v slots inside behind quiet due read w i k x at_ next
      have visit {f : Chip} {wrote : Bool} (slot : d.sweepSlot e t i w k = f) (counted : (f.qdrWords e != d.qdrWords e) = wrote) :
          exec (.sweepVisit e t) s = .next (next f wrote) := by
        refine State.exec_on rfl ((Chip.sweepVisit_reads up on age inside behind due read).trans
          ((Chip.sweepBucket_first quiet slot counted).trans ?_))
        rw [Nat.div_add_mod]
      refine ⟨fun kept => visit (Chip.sweepSlot_stays kept) (by simp), fun valid moves idle cold => ⟨fun stale counted => ?_, fun fresh => ?_⟩,
        fun valid moves hit => ?_⟩
      · refine visit (Chip.sweepSlot_removes valid moves idle cold stale) ?_
        rw [Chip.qdrWords_inc_aged]
        exact bne_iff_ne.mpr counted
      · exact fun counted => visit (Chip.sweepSlot_marks valid moves idle cold fresh) (bne_iff_ne.mpr counted)
      · exact fun counted => visit (Chip.sweepSlot_clears valid moves hit rfl) (bne_iff_ne.mpr counted)

end Sys2Proof.Machine

/-! PROOFS. Which pool serves a request for a bobbin, and that no allocation changes how the pools are carved (R229, R231). -/

namespace Sys2Proof.Machine

/-! ### What keeps the pools as they are carved

Word 0 of BP_POOL(p) holds SIZE, ENABLE and COUNT in its low 48 bits. A corrected fault that coalesces writes the bits above them
of whatever word the newest record names (R474), so only those 48 are kept at every state. -/

/-- `d` has SIZE, ENABLE and COUNT of every pool as `c` has them. -/
def Chip.KeepsPools (c d : Chip) : Prop := ∀ p < 8, ∀ i < 48, (d.rd (A.BP_POOL p)).getLsbD i = (c.rd (A.BP_POOL p)).getLsbD i

section
variable {c d : Chip}

theorem Chip.KeepsPools.refl (c : Chip) : c.KeepsPools c := fun _ _ _ _ => rfl

theorem Chip.KeepsPools.trans {e : Chip} (h : c.KeepsPools d) (k : d.KeepsPools e) : c.KeepsPools e :=
  fun p hp i hi => (k p hp i hi).trans (h p hp i hi)

/-- A field of the low 48 bits of word 0. -/
theorem Chip.KeepsPools.pool (h : c.KeepsPools d) {p : Nat} (hp : p < 8) {f : Fld} (word : f.word = 0) (low : f.lo + f.width ≤ 48) :
    d.pool p f = c.pool p f := by
  rw [Chip.pool, Chip.pool, Chip.get, Chip.get, word]
  exact getBits_congr fun i _ _ hi => h p hp i (by omega)

theorem Chip.KeepsPools.poolFits (h : c.KeepsPools d) {p : Nat} (hp : p < 8) (n : Nat) : d.poolFits n p = c.poolFits n p := by
  rw [Chip.poolFits, Chip.poolFits, h.pool hp rfl (by decide), h.pool hp rfl (by decide)]

/-- Whatever leaves the registers leaves the pools. -/
theorem Chip.KeepsPools.of_regs {e : Chip} (h : c.KeepsPools d) (same : e.regs = d.regs) : c.KeepsPools e :=
  h.trans fun p _ i _ => by rw [Chip.rd, Chip.rd, same]

theorem Chip.KeepsPools.due (h : c.KeepsPools d) (xs : List Due) : c.KeepsPools { d with due := xs } := h

theorem Chip.KeepsPools.bind (h : c.KeepsPools d) (m : SMap Nat) : c.KeepsPools { d with bind := m } := h

theorem Chip.KeepsPools.pwr (h : c.KeepsPools d) (x : PwrSt) : c.KeepsPools { d with pwr := x } := h

theorem Chip.KeepsPools.setSram (h : c.KeepsPools d) (a w : Nat) (r : BitVec 32) : c.KeepsPools (d.setSram a w r) := h

theorem Chip.KeepsPools.storm (h : c.KeepsPools d) {e : Chip} {now id window : Nat} {meets : Nat → Bool} {hit : Bool}
    (counted : d.storm now id window meets = (hit, e)) : c.KeepsPools e :=
  h.of_regs (congrArg (·.2.regs) counted).symm

/-! #### Registers -/

section
variable (h : c.KeepsPools d)
include h

theorem Chip.KeepsPools.wr {a : Nat} (v : Word) (off : ∀ p < 8, a ≠ A.BP_POOL p) : c.KeepsPools (d.wr a v) :=
  h.trans fun p hp _ _ => by rw [d.rd_wr_ne v (off p hp).symm]

theorem Chip.KeepsPools.set {a : Nat} {f : Fld} (v : Nat) (off : ∀ p < 8, a + 8 * f.word ≠ A.BP_POOL p) : c.KeepsPools (d.set a f v) :=
  h.wr _ off

theorem Chip.KeepsPools.inc {a : Nat} (off : ∀ p < 8, a ≠ A.BP_POOL p) : c.KeepsPools (d.inc a) := h.set _ off

/-- A field above the 48 bits may be written wherever it lies. -/
theorem Chip.KeepsPools.set_high {a : Nat} {f : Fld} (v : Nat) (high : 48 ≤ f.lo) : c.KeepsPools (d.set a f v) :=
  h.trans fun p _ i hi => by
    rw [Chip.set, Chip.rd_wr]
    split
    next e => rw [getLsbD_setBits _ (by omega), if_neg (by omega), e]
    next => rfl

end

/-! #### Faults (R473-R475, R500) -/

theorem Chip.keepsPools_journal (c : Chip) (now : Nat) (e : JEvent) : c.KeepsPools (c.journal now e) :=
  ((Chip.KeepsPools.refl c).of_regs (e := { c with cmd := _ }) rfl).wr _ (by decide)

theorem Chip.keepsPools_record (c : Chip) (now code : Nat) {cls : Nat} (esc : Bool) (isl dom slice : Nat) (detail : Word) (hc : cls ≤ 3) :
    c.KeepsPools (c.record now code cls esc isl dom slice detail) := by
  have head : c.get A.CP_FAULT_HEAD F.CP_FAULT_HEAD_V < 512 := Nat.mod_lt _ (by decide)
  have log : ∀ k < 32, ∀ p < 8, faultAddr (c.get A.CP_FAULT_HEAD F.CP_FAULT_HEAD_V) + k ≠ A.BP_POOL p := fun k _ p _ => by
    simp only [faultAddr, A.CP_FAULT_LOG, A.BP_POOL]
    omega
  have count : ∀ p < 8, A.CP_FAULT_COUNT cls ≠ A.BP_POOL p := fun p _ => by
    simp only [A.CP_FAULT_COUNT, A.BP_POOL]
    omega
  unfold Chip.record
  extract_lets h t room w0 seq base journaled a written
  have space : c.KeepsPools room := by
    unfold room
    split
    · exact ((Chip.KeepsPools.refl c).set _ (by decide)).inc (by decide)
    · exact .refl c
  have entry : c.KeepsPools written := ((((space.trans (room.keepsPools_journal now _)).wr w0 (log 0 (by decide))).wr _
    (log 8 (by decide))).wr _ (log 16 (by decide))).wr _ (log 24 (by decide))
  exact ((entry.set _ (by decide)).inc count).pwr _

theorem Chip.keepsPools_raise1 (c : Chip) (now : Nat) {f : FaultKind} (isl dom slice : Nat) (detail : Word) (hf : f.cls ≤ 3) :
    c.KeepsPools (c.raise1 now f isl dom slice detail) := by
  unfold Chip.raise1
  extract_lets target esc cls
  have class_le : cls ≤ 3 := by
    unfold cls
    split
    · exact Nat.le_refl 3
    · exact hf
  split
  · exact (Chip.KeepsPools.refl c).set_high _ (by decide)
  · have recorded := c.keepsPools_record now f.code esc isl dom slice detail class_le
    split
    · exact recorded.due _
    · exact recorded

theorem Chip.keepsPools_raise (c : Chip) (now : Nat) {f : FaultKind} (isl dom slice : Nat) (detail : Word) (hf : f.cls ≤ 3) :
    c.KeepsPools (c.raise now f isl dom slice detail) := by
  have raised := c.keepsPools_raise1 now isl dom slice detail hf
  unfold Chip.raise
  extract_lets r limit
  split
  · split
    next hit d storm =>
      have counted : c.KeepsPools d := raised.storm storm
      split
      · exact counted.trans (d.keepsPools_raise1 now isl 63 0 0 (by decide))
      · exact counted
  · exact raised

/-! #### Reads of stored words (R386-R390, R401) -/

theorem Chip.keepsPools_logSram (c : Chip) (now a w source : Nat) (r : BitVec 32) : c.KeepsPools (c.logSram now a w source r) := by
  unfold Chip.logSram
  split
  · exact (Chip.KeepsPools.refl c).set _ (by decide)
  · exact (((((((Chip.KeepsPools.refl c).set _ (by decide)).set _ (by decide)).set _ (by decide)).set _ (by decide)).wr _ (by decide)).wr _
      (by decide))

theorem Chip.fixSram_regs (c : Chip) (a w k v : Nat) : (c.fixSram a w k v).regs = c.regs := by
  unfold Chip.fixSram
  dsimp only
  split
  · rfl
  · split
    · rfl
    · split
      · rfl
      · split
        · rfl
        · rfl

theorem Chip.keepsPools_readSram (c : Chip) (now a w source slice : Nat) : c.KeepsPools (c.readSram now a w source slice).2 := by
  have counter : ∀ k, ∀ p < 8, A.MC_SRAM_ARRAY a + k ≠ A.BP_POOL p := fun k p _ => by
    simp only [A.MC_SRAM_ARRAY, A.BP_POOL]
    omega
  unfold Chip.readSram
  extract_lets r cnt
  split
  next => exact .refl c
  next => exact (Chip.KeepsPools.refl c).inc (counter 16)
  next pos v _ =>
    extract_lets fixed mended
    have bytes : c.KeepsPools fixed := by
      refine (Chip.KeepsPools.refl c).of_regs ?_
      unfold fixed
      split
      · rfl
      · exact c.fixSram_regs a w (pos - 4) v
    have counted : c.KeepsPools mended := ((bytes.setSram a w 0).inc (counter 0)).inc (counter 24)
    split
    next hit d storm =>
      have stormed : c.KeepsPools d := counted.storm storm
      dsimp only
      split
      · exact stormed.trans (d.keepsPools_raise now _ _ _ _ (by decide))
      · exact stormed
  next =>
    have logged : c.KeepsPools ((c.logSram now a w source r).setSram a w poisonMark) := (c.keepsPools_logSram now a w source r).setSram _ _ _
    exact ((logged.inc (counter 8)).inc (counter 24)).trans (Chip.keepsPools_raise _ now _ _ _ _ (by decide))

end

/-! #### Bobbins (R227, R234, R238, R241) -/

section
variable {c d : Chip} (h : c.KeepsPools d)
include h

theorem Chip.KeepsPools.bobSet (id : Nat) (f : Fld) (v : Nat) : c.KeepsPools (d.bobSet id f v) :=
  h.set v fun p _ => by
    simp only [A.BP_STATE, A.BP_POOL]
    omega

/-- The counts of a pool stand in its word 2. -/
theorem Chip.KeepsPools.poolCount (p st v : Nat) : c.KeepsPools (d.set (A.BP_POOL p) (poolCount st) v) := by
  have word : (Machine.poolCount st).word = 2 := by
    unfold Machine.poolCount
    split <;> rfl
  refine h.set v fun q _ => ?_
  simp only [word, A.BP_POOL]
  omega

theorem Chip.KeepsPools.bobMove (id st : Nat) : c.KeepsPools (d.bobMove id st) := ((h.poolCount _ _ _).poolCount _ _ _).bobSet _ _ _

theorem Chip.KeepsPools.bobBind (id key : Nat) : c.KeepsPools (d.bobBind id key) :=
  ((h.bobSet id F.BP_STATE_BOUND_THREAD _).bobSet id F.BP_STATE_BOUND_ID _).bind _

theorem Chip.KeepsPools.occupy (id : Nat) {f : Fld} (up : Bool) (word : f.word = 0) : c.KeepsPools (d.occupy id f up) := by
  unfold Chip.occupy
  extract_lets port a u counted
  split
  · have off : ∀ p < 8, a + 8 * f.word ≠ A.BP_POOL p := fun p _ => by
      simp only [a, word, A.BP_OCC, A.BP_POOL]
      omega
    exact (h.set _ off).due _
  · exact h

theorem Chip.KeepsPools.uncharge (id : Nat) : c.KeepsPools (d.uncharge id) := by
  unfold Chip.uncharge
  refine Chip.KeepsPools.bobSet (Chip.KeepsPools.bobSet ?_ _ _ _) _ _ _
  split
  · exact h.occupy id false rfl
  · split
    · exact h.occupy id false rfl
    · exact h

/-- BOBBIN_USED stands in word 3 of its slice, whichever slice the bobbin counts against. -/
theorem Chip.KeepsPools.quotaBack (id : Nat) : c.KeepsPools (d.quotaBack id) := by
  unfold Chip.quotaBack
  extract_lets m s
  split
  · exact h
  · refine h.set _ fun p _ => ?_
    simp only [A.SM_SLICE, F.SM_SLICE_BOBBIN_USED, A.BP_POOL]
    omega

theorem Chip.KeepsPools.quarantine (id : Nat) : c.KeepsPools (d.quarantine id) := (((h.uncharge id).quotaBack id).bobMove id 3).bobBind id 0

end

theorem Chip.keepsPools_readState (c : Chip) (now id : Nat) : c.KeepsPools (c.readState now id).2 := by
  unfold Chip.readState
  split
  · exact .refl c
  · have read := c.keepsPools_readSram now 1 (c.stateWordIndex id) 0 0
    dsimp only
    split
    · exact (read.quarantine id).trans (Chip.keepsPools_raise _ now _ _ _ _ (by decide))
    · exact read

/-- Steps that keep the pools keep them together. -/
theorem Chip.KeepsPools.foldl {α : Type} {c : Chip} {f : Chip → α → Chip} (step : ∀ d x, c.KeepsPools d → c.KeepsPools (f d x)) :
    ∀ (l : List α) {d : Chip}, c.KeepsPools d → c.KeepsPools (l.foldl f d)
  | [], _, h => h
  | x :: l, d, h => Chip.KeepsPools.foldl step l (step d x h)

theorem Chip.keepsPools_readList (c : Chip) (now id : Nat) : c.KeepsPools (c.readList now id).2 := by
  unfold Chip.readList
  extract_lets w
  have read := c.keepsPools_readSram now 1 w 0 0
  dsimp only
  split
  · refine (Chip.KeepsPools.setSram (.foldl (fun e k held => ?_) _ read) 1 w 0).trans (Chip.keepsPools_raise _ now _ _ _ _ (by decide))
    split
    · exact held.quarantine k
    · exact held
  · exact read

/-! ### The bobbin taken from a pool (entry 7) -/

theorem bobPool_bobId {p i : Nat} (hp : p < 8) (hi : i < 2 ^ 21) : bobPool (bobId p i) = p := by
  simp only [bobPool, bobId]
  omega

theorem bobIndex_bobId {i : Nat} (p : Nat) (hi : i < 2 ^ 21) : bobIndex (bobId p i) = i := by
  simp only [bobIndex, bobId]
  omega

/-- The bobbin taken is one of the `n` from index `k` up, and the pools stay as they are carved. -/
theorem Chip.takeFree_spec (now p : Nat) : ∀ (n k : Nat) (c : Chip),
    c.KeepsPools (Chip.takeFree now p n k c).2 ∧
      ∀ id, (Chip.takeFree now p n k c).1 = some id → ∃ i, k ≤ i ∧ i < k + n ∧ id = bobId p i
  | 0, _, c => ⟨.refl c, fun _ h => nomatch h⟩
  | n + 1, k, c => by
    have next (d : Chip) (kept : c.KeepsPools d) : c.KeepsPools (Chip.takeFree now p n (k + 1) d).2 ∧
        ∀ id, (Chip.takeFree now p n (k + 1) d).1 = some id → ∃ i, k ≤ i ∧ i < k + (n + 1) ∧ id = bobId p i := by
      obtain ⟨keeps, among⟩ := Chip.takeFree_spec now p n (k + 1) d
      refine ⟨kept.trans keeps, fun id taken => ?_⟩
      obtain ⟨i, low, high, e⟩ := among id taken
      exact ⟨i, by omega, by omega, e⟩
    have listed := c.keepsPools_readList now (bobId p k)
    rw [Chip.takeFree]
    dsimp only
    split
    · split
      · exact next _ listed
      · have sound := listed.trans (Chip.keepsPools_readState _ now (bobId p k))
        split
        · exact next _ sound
        · exact ⟨sound, fun id taken => ⟨k, Nat.le_refl k, by omega, (Option.some.inj taken).symm⟩⟩
    · exact next c (.refl c)

/-! ### The pools in their order (R229) -/

/-- What one pool gives a request that it fits: its bobbin, where it has a sound one. -/
def Chip.tryPool (c : Chip) (now p : Nat) : Option Nat × Chip :=
  if c.pool p F.BP_POOL_FREE = 0 then (none, c) else Chip.takeFree now p (c.pool p F.BP_POOL_COUNT) 0 c

theorem Chip.keepsPools_tryPool (c : Chip) (now p : Nat) : c.KeepsPools (c.tryPool now p).2 := by
  unfold Chip.tryPool
  split
  · exact .refl c
  · exact (Chip.takeFree_spec now p _ 0 c).1

/-- A pool gives a bobbin of its own. -/
theorem Chip.tryPool_named {c : Chip} {now p id : Nat} (hp : p < 8) (taken : (c.tryPool now p).1 = some id) :
    bobPool id = p ∧ bobIndex id < c.pool p F.BP_POOL_COUNT := by
  unfold Chip.tryPool at taken
  split at taken
  · cases taken
  · obtain ⟨i, _, high, rfl⟩ := (Chip.takeFree_spec now p _ 0 c).2 id taken
    have count : c.pool p F.BP_POOL_COUNT < 2 ^ 16 := Nat.mod_lt _ (by decide)
    have range : i < 2 ^ 21 := by omega
    rw [bobPool_bobId hp range, bobIndex_bobId p range]
    omega

section
variable {c d : Chip} {now n : Nat} {g : Grant} {k p : Nat} {fell : Bool}

theorem Chip.allocLoop_passes (small : c.poolFits n p = false) :
    Chip.allocLoop now n g (k + 1) p fell c = Chip.allocLoop now n g k (p + 1) fell c := by
  rw [Chip.allocLoop, if_neg (by rw [small]; decide)]

section
variable (fits : c.poolFits n p = true)
include fits

theorem Chip.allocLoop_grants {id : Nat} (got : c.tryPool now p = (some id, d)) :
    Chip.allocLoop now n g (k + 1) p fell c = (some (id, fell), d.grant id g) := by
  unfold Chip.tryPool at got
  rw [Chip.allocLoop, if_pos fits, got]

theorem Chip.allocLoop_fallsBack (got : c.tryPool now p = (none, d)) (later : d.laterFits n k (p + 1) = true) :
    Chip.allocLoop now n g (k + 1) p fell c = Chip.allocLoop now n g k (p + 1) true (d.inc (A.BP_POOL_FALLBACK p)) := by
  unfold Chip.tryPool at got
  rw [Chip.allocLoop, if_pos fits, got]
  exact if_pos later

theorem Chip.allocLoop_empty (got : c.tryPool now p = (none, d)) (last : d.laterFits n k (p + 1) = false) :
    Chip.allocLoop now n g (k + 1) p fell c = (none, d.inc (A.BP_POOL_EMPTY p)) := by
  unfold Chip.tryPool at got
  rw [Chip.allocLoop, if_pos fits, got]
  exact if_neg (by rw [last]; decide)

end
end

/-- A pool of number from `p` up and below `q` fits a request of `n` bytes. -/
def Chip.fitsBetween (c : Chip) (n p q : Nat) : Prop := ∃ x, p ≤ x ∧ x < q ∧ c.poolFits n x = true

/-- What a grant says of a search of the pools from `p` up: the bobbin belongs to a pool there that fits, and it fell back where the search
had done so before or passed over a pool that fits. -/
def Chip.granted (c : Chip) (n p : Nat) (before : Bool) (id : Nat) (fell : Bool) : Prop :=
  p ≤ bobPool id ∧ bobPool id < 8 ∧ c.poolFits n (bobPool id) = true ∧ bobIndex id < c.pool (bobPool id) F.BP_POOL_COUNT ∧
    (fell = true ↔ before = true ∨ c.fitsBetween n p (bobPool id))

/-- The search goes on from pool `p`, which fits exactly where it says to have fallen back. -/
theorem Chip.granted_succ {c d : Chip} {n p id : Nat} {before fell after : Bool} (kept : c.KeepsPools d)
    (here : after = true ↔ before = true ∨ c.poolFits n p = true) (h : d.granted n (p + 1) after id fell) : c.granted n p before id fell := by
  obtain ⟨low, high, fits, index, fallen⟩ := h
  have between : d.fitsBetween n (p + 1) (bobPool id) ↔ c.fitsBetween n (p + 1) (bobPool id) :=
    exists_congr fun x => and_congr_right fun _ => and_congr_right fun below => by rw [kept.poolFits (by omega)]
  have first : c.fitsBetween n p (bobPool id) ↔ c.poolFits n p = true ∨ c.fitsBetween n (p + 1) (bobPool id) := by
    constructor
    · rintro ⟨x, from_, below, holds⟩
      rcases Nat.eq_or_lt_of_le from_ with rfl | beyond
      · exact .inl holds
      · exact .inr ⟨x, beyond, below, holds⟩
    · rintro (holds | ⟨x, from_, below, holds⟩)
      · exact ⟨p, Nat.le_refl p, by omega, holds⟩
      · exact ⟨x, by omega, below, holds⟩
  refine ⟨by omega, high, ?_, ?_, ?_⟩
  · rw [← kept.poolFits high, fits]
  · rw [← kept.pool high rfl (by decide)]
    exact index
  · rw [fallen, here, between, first, or_assoc]

theorem Chip.allocLoop_granted (now n : Nat) (g : Grant) {id : Nat} {fell : Bool} : ∀ (k p : Nat) (before : Bool) (c : Chip), p + k = 8 →
    (Chip.allocLoop now n g k p before c).1 = some (id, fell) → c.granted n p before id fell
  | 0, _, _, _, _, h => nomatch h
  | k + 1, p, before, c, last, h => by
    cases fits : c.poolFits n p
    case false =>
      rw [Chip.allocLoop_passes fits] at h
      exact Chip.granted_succ (.refl c) (by simp [fits]) (Chip.allocLoop_granted now n g k (p + 1) before c (by omega) h)
    case true =>
      rcases got : c.tryPool now p with ⟨_ | taken, d⟩
      · have kept : c.KeepsPools d := by simpa only [got] using c.keepsPools_tryPool now p
        cases later : d.laterFits n k (p + 1)
        case false =>
          rw [Chip.allocLoop_empty fits got later] at h
          cases h
        case true =>
          rw [Chip.allocLoop_fallsBack fits got later] at h
          have counted : c.KeepsPools (d.inc (A.BP_POOL_FALLBACK p)) := kept.inc fun q _ => by
            simp only [A.BP_POOL_FALLBACK, A.BP_POOL]
            omega
          exact Chip.granted_succ counted (by simp [fits]) (Chip.allocLoop_granted now n g k (p + 1) true _ (by omega) h)
      · rw [Chip.allocLoop_grants fits got] at h
        cases h
        obtain ⟨rfl, index⟩ := Chip.tryPool_named (c := c) (now := now) (p := p) (by omega) (congrArg Prod.fst got)
        have none_between : ¬ c.fitsBetween n (bobPool id) (bobPool id) := fun ⟨_, low, below, _⟩ => absurd low (by omega)
        exact ⟨Nat.le_refl _, by omega, fits, index, by simp [none_between]⟩

/-- Settles O25, by the search of the pools from 0 up: no pool tried on the way changes how any pool is carved. -/
theorem smallestPoolServes : Obligations.SmallestPoolServes := by
  intro c now n id g fell h
  obtain ⟨_, high, fits, index, fallen⟩ := Chip.allocLoop_granted now n g 8 0 false c rfl h
  have passed : fell = true ↔ c.fitsBetween n 0 (bobPool id) := by simpa using fallen
  refine ⟨fits, index, high, fun p below holds => passed.mpr ⟨p, Nat.zero_le p, below, holds⟩, fun none => ?_⟩
  exact Bool.eq_false_iff.mpr fun fell => by
    obtain ⟨p, _, below, holds⟩ := passed.mp fell
    rw [none p below] at holds
    cases holds

end Sys2Proof.Machine

/-! PROOFS. The write of a pool (R224) where a keyed value is armed for its counts. Commands arm values for keyed state
alone (`keyedBases`, SM_SLICE); the statement speaks of every state, and so of those where one is armed elsewhere too. -/

namespace Sys2Proof.Machine

/-- A state in Service in which pool 0 has one bobbin HELD as its register is stored, while a keyed value armed for that register
and in force reads its HELD as 0. -/
def heldOverArmed : State :=
  let c := ((Chip.init.set A.CP_MODE F.CP_MODE_CURRENT Mode.service).set (A.CP_PWR_STATUS (targetDomain 23)) F.CP_PWR_STATUS_STATE 2).set
    (A.BP_POOL 0) F.BP_POOL_HELD 1
  { pending := [], time := 0,
    chip := { c with pwr := { c.pwr with fwRuns := true }, ft := { c.ft with armed := [⟨A.BP_POOL 0 + 16, 0, 0xFFFF0000, 0, 0⟩] } } }

/-- A write of all the words of pool 0 with values that disables it and keeps where it is carved. -/
def disablesPool : List Word := [0x600000000001, 0, 0]

theorem heldOverArmed_sound : heldOverArmed.sound = true := by decide +kernel

/-- The write judges HELD as it is in force, and so disables the pool. -/
theorem heldOverArmed_disables : lastCode (exec (.poolWrite 0 disablesPool) heldOverArmed) = some Code.OK := by decide +kernel

theorem lastCode_poolBusy : lastCode (heldOverArmed.wrote Code.POOL_BUSY heldOverArmed.found) = some Code.POOL_BUSY := by decide +kernel

/-- Refutes O34: a write that disables a pool with a bobbin held is not refused where a keyed value armed for its counts reads HELD as 0. -/
theorem not_bobbinRequests : ¬ Obligations.BobbinRequests := by
  rintro ⟨_, _, _, writes⟩
  have writable : heldOverArmed.writable (A.BP_POOL 0) = true := by decide +kernel
  obtain ⟨_, _, busy, _⟩ := writes heldOverArmed 0 disablesPool writable (by decide) (by decide)
  have sound : (heldOverArmed.found.filled heldOverArmed.time (A.BP_POOL 0) disablesPool).poolsOk = true := by decide +kernel
  have was : heldOverArmed.found.pool 0 F.BP_POOL_ENABLE = 1 := by decide +kernel
  have off : ¬ (heldOverArmed.found.filled heldOverArmed.time (A.BP_POOL 0) disablesPool).pool 0 F.BP_POOL_ENABLE = 1 := by decide +kernel
  have held : heldOverArmed.found.pool 0 F.BP_POOL_HELD ≠ 0 := by decide +kernel
  have codes := (congrArg lastCode (busy sound was off (.inl held))).symm.trans heldOverArmed_disables
  exact absurd (lastCode_poolBusy.symm.trans codes) (by decide)

end Sys2Proof.Machine

/-! PROOFS. The events of a port: LINK, pauses received and sent, peer delay, and 802.3br verification (R249, R258, R259, R267-R269, R288). -/

namespace Sys2Proof.Machine

/-! ### LINK rises and falls (R249, R258, R288) -/

/-- Port `p` once LINK has been cleared: noted, what it transmits lost, verification started anew, the time kept. -/
def Chip.linkCleared (c : Chip) (now p : Nat) : Chip :=
  let d := (((c.setFlag (A.PX_STATUS p) F.PX_STATUS_LINK false).linkNote now p false).loseTx now p).verifyRestart now p
  d.setPort p { d.port p with downAt := now }

section
variable {c : Chip} {now p : Nat}

theorem Chip.linkRise_rises (on : c.portOn p = true) (down : c.link p = false) :
    let d := ((c.setFlag (A.PX_STATUS p) F.PX_STATUS_LINK true).setFlag (A.PX_STATUS p) F.PX_STATUS_TRAINING false).setFlag (A.PX_STATUS p)
      F.PX_STATUS_AN_DONE (c.flag (A.PX_CFG p) F.PX_CFG_AN_EN)
    c.linkRise now p = ((d.setFlag (A.TM_PORT p) F.TM_PORT_DROP_STATE false).linkNote now p true).verifyRestart now p := by
  rw [Chip.linkRise, if_neg (by simp [on, down])]

section
variable (link : c.link p = true)
include link

theorem Chip.linkClear_clears : c.linkClear now p =
    if (c.linkCleared now p).get (A.TM_PORT p) F.TM_PORT_LINKDOWN_US = 0 then (c.linkCleared now p).portDrop now p
    else c.linkCleared now p := by
  rw [Chip.linkClear, if_neg (by simp [link])]
  rfl

theorem Chip.linkFall_drops (atOnce : (c.linkCleared now p).get (A.TM_PORT p) F.TM_PORT_LINKDOWN_US = 0) :
    c.linkFall now p = ((c.linkCleared now p).portDrop now p).asmBreak now p true := by
  rw [Chip.linkFall, if_neg (by simp [link]), Chip.linkClear_clears link, if_pos atOnce]

theorem Chip.linkFall_waits (later : (c.linkCleared now p).get (A.TM_PORT p) F.TM_PORT_LINKDOWN_US ≠ 0) :
    c.linkFall now p = (c.linkCleared now p).asmBreak now p true := by
  rw [Chip.linkFall, if_neg (by simp [link]), Chip.linkClear_clears link, if_neg later]

end

/-! ### Pauses, and the peer delay (R267-R269) -/

/-- The priorities of port `p` whose pause has run out, as a mask. -/
def Chip.pausesOver (c : Chip) (now p : Nat) : Nat :=
  (List.range 8).foldl (fun m k => if nth 0 (c.port p).paused k ≠ 0 ∧ nth 0 (c.port p).paused k ≤ now then m + 2 ^ k else m) 0

theorem Chip.pauseExpiry_ends (expired : c.pausesOver now p ≠ 0) :
    c.pauseExpiry now p = c.pausePrios now p (c.pausesOver now p) fun _ => 0 := if_neg expired

theorem Chip.weirRefresh_repeats (xoff : c.get (A.PX_STATUS p) F.PX_STATUS_XOFF ≠ 0)
    (mode : c.get (A.PX_WEIR_CFG p) F.PX_WEIR_CFG_MODE ≠ 0) (due : (c.port p).refresh ≤ now) :
    c.weirRefresh now p = c.weirFrame now p (c.get (A.PX_STATUS p) F.PX_STATUS_XOFF) 0 :=
  if_neg fun idle => idle.elim xoff fun idle => idle.elim mode (Nat.not_lt.mpr due)

theorem Chip.peerDelay_taken {delay : Nat} (link : c.link p = true) (up : c.open1 (16 + p / 4) = true) :
    let ds := ((c.port p).delays ++ [delay]).drop ((c.port p).delays.length + 1 - 8)
    c.peerDelay p delay =
      ((c.setPort p { c.port p with delays := ds }).set (A.PX_DELAY p) F.PX_DELAY_MEASURED_NS (ds.foldl max 0)).weirAuto p := by
  rw [Chip.peerDelay, if_neg (by simp [link, up])]
  simp only [List.length_append, List.length_singleton]

/-! ### 802.3br verification (R259) -/

/-- VERIFY_MS has passed for port `p`, whose verification has neither succeeded nor failed. -/
def Chip.verifying (c : Chip) (now p : Nat) : Prop :=
  c.portOn p = true ∧ c.link p = true ∧ c.flag (A.PX_PREEMPT p) F.PX_PREEMPT_ENABLE = true ∧
    c.get (A.PX_PREEMPT_STAT p) F.PX_PREEMPT_STAT_VERIFY_STATUS < 2 ∧ (c.port p).verifyAt ≤ now

section
variable (h : c.verifying now p)
include h

theorem Chip.verifyTimer_runs : c.verifyTimer now p =
    if 3 ≤ (c.port p).verifies then c.set (A.PX_PREEMPT_STAT p) F.PX_PREEMPT_STAT_VERIFY_STATUS 3
    else
      let d := (c.set (A.PX_PREEMPT_STAT p) F.PX_PREEMPT_STAT_VERIFY_STATUS 1).own p (.mpacket .verify)
      d.setPort p { d.port p with
        verifies := (c.port p).verifies + 1,
        verifyAt := now + ns (1000000 * d.get (A.PX_PREEMPT p) F.PX_PREEMPT_VERIFY_MS) } := by
  obtain ⟨on, link, enabled, open_, passed⟩ := h
  exact if_neg (by simp [on, link, enabled, open_, passed])

theorem Chip.verifyTimer_fails (three : 3 ≤ (c.port p).verifies) :
    c.verifyTimer now p = c.set (A.PX_PREEMPT_STAT p) F.PX_PREEMPT_STAT_VERIFY_STATUS 3 := by
  rw [Chip.verifyTimer_runs h, if_pos three]

theorem Chip.verifyTimer_sends (fewer : (c.port p).verifies < 3) :
    let d := (c.set (A.PX_PREEMPT_STAT p) F.PX_PREEMPT_STAT_VERIFY_STATUS 1).own p (.mpacket .verify)
    c.verifyTimer now p = d.setPort p { d.port p with
      verifies := (c.port p).verifies + 1,
      verifyAt := now + ns (1000000 * d.get (A.PX_PREEMPT p) F.PX_PREEMPT_VERIFY_MS) } := by
  rw [Chip.verifyTimer_runs h, if_neg (Nat.not_le.mpr fewer)]

end

/-- Port `p` as an mPacket without RS-FEC corrections finds it. -/
def Chip.fecCounted (c : Chip) (p : Nat) : Chip := (c.add (A.PX_FEC_CORRECTED p) 0).add (A.PX_FEC_UNCORRECTED p) 0

/-- What was in reception when ENABLE was cleared is over unless a frame is still under reassembly (R249). -/
def Chip.tailOver (c : Chip) (p : Nat) : Chip :=
  if (c.port p).asm.isSome then c else c.setPort p { c.port p with tail := none }

section
variable (receives : c.receives p = true) (line : (c.fecCounted p).loopback p = 0)
include receives line

/-- A port out of loopback that receives takes an mPacket in and answers nothing else by it. -/
theorem Chip.frameReceive_takes (smd : Smd) (bs : List Byte) :
    c.frameReceive now p smd bs false 0 0 = ((c.fecCounted p).rxIn now p smd bs false).tailOver p := by
  have other : ¬ (c.fecCounted p).loopback p = 4 := by rw [line]; decide
  rw [Chip.frameReceive, if_neg (by simp [receives])]
  exact if_neg other

variable (enabled : (c.fecCounted p).flag (A.PX_PREEMPT p) F.PX_PREEMPT_ENABLE = true)
include enabled

theorem Chip.verifyReceive_answers :
    c.verifyReceive now p = ((c.fecCounted p).own p (.mpacket .respond)).tailOver p := by
  rw [Chip.verifyReceive, Chip.frameReceive_takes receives line, Chip.rxIn, Chip.verifyIn, if_pos enabled]

theorem Chip.respondReceive_succeeds
    (pending : (c.fecCounted p).get (A.PX_PREEMPT_STAT p) F.PX_PREEMPT_STAT_VERIFY_STATUS = 1) :
    c.respondReceive now p = (((c.fecCounted p).set (A.PX_PREEMPT_STAT p) F.PX_PREEMPT_STAT_VERIFY_STATUS 2).setFlag (A.PX_PREEMPT_STAT p)
      F.PX_PREEMPT_STAT_ACTIVE true).tailOver p := by
  rw [Chip.respondReceive, Chip.frameReceive_takes receives line, Chip.rxIn, Chip.respondIn]
  exact congrArg (Chip.tailOver · p) (if_pos (by simp [enabled, pending]))

end
end

/-- Settles O38: each event by the state of its port. -/
theorem portEvents : Obligations.PortEvents := by
  intro s p c now a vs x
  refine ⟨fun on down => State.exec_on rfl (Chip.linkRise_rises on down),
    fun link => ⟨fun atOnce => State.exec_on rfl (Chip.linkFall_drops link atOnce),
      fun later => State.exec_on rfl (Chip.linkFall_waits link later)⟩,
    fun expired => State.exec_on rfl (Chip.pauseExpiry_ends expired),
    fun xoff mode due => State.exec_on rfl (Chip.weirRefresh_repeats xoff mode due),
    fun delay link up => State.exec_on rfl (Chip.peerDelay_taken link up),
    fun on link enabled unsettled passed => ?verify,
    fun receives line enabled => ?mpackets⟩
  case verify =>
    have h : c.verifying now p := ⟨on, link, enabled, unsettled, passed⟩
    exact ⟨fun three => State.exec_on rfl (Chip.verifyTimer_fails h three),
      fun fewer => State.exec_on rfl (Chip.verifyTimer_sends h fewer)⟩
  case mpackets =>
    exact ⟨State.exec_on rfl (Chip.verifyReceive_answers receives line enabled),
      fun pending => State.exec_on rfl (Chip.respondReceive_succeeds receives line enabled pending)⟩

end Sys2Proof.Machine

/-! PROOFS. Writes of the registers of port groups and of the Traffic Manager (R246, R249, R272, R273, R276, R282, R287, R288, R294). -/

namespace Sys2Proof.Machine

/-! ### Registers of port groups and of the Traffic Manager (R31) -/

theorem Chip.regUp_px {c : Chip} {a : Nat} (region : a / 0x10000000 = 5) : c.regUp a = c.up (16 + a % 0x10000000 / 0x1000000) := by
  rw [Chip.regUp, region]
  rfl

theorem Chip.regUp_tm {c : Chip} {a : Nat} (region : a / 0x10000000 = 6) : c.regUp a = c.up 23 := by
  rw [Chip.regUp, region]
  rfl

/-- Register `r` of a port group or of the Traffic Manager stands at `a`, apart from TM_POLICER(0), which is reserved (R281). -/
structure RegRow.NetAt (r : RegRow) (a : Nat) : Prop where
  aligned : a % 8 = 0
  region : a / 0x10000000 = 5 ∨ a / 0x10000000 = 6
  block : a % 0x1000000 + 8 * r.words ≤ 0x1000000
  apart : a + 8 * r.words ≤ 0x60100000 ∨ 0x60100020 ≤ a
  words : ∀ j < r.words, findRow (regionRows (a + 8 * j)) (a + 8 * j) = some (r, j)

section
variable {r : RegRow} {a : Nat} (h : r.NetAt a)
include h

/-- No window lies among these registers. -/
theorem RegRow.NetAt.unit (c : Chip) {j : Nat} (hj : j < r.words) :
    findRow (regionRows (a + 8 * j)) (a + 8 * j) = some (r, j) ∧ c.reserved (a + 8 * j) = false ∧
      c.place (a + 8 * j) = none ∧ millOffset (a + 8 * j) = none := by
  have region := h.region
  have block := h.block
  have apart := h.apart
  have row := h.words j hj
  have mill : millOffset (a + 8 * j) = none := if_neg (by omega)
  have place : c.place (a + 8 * j) = none := by rw [Chip.place, if_neg (by omega), if_neg (by omega), mill]
  have beyond : 0x60100000 ≤ a + 8 * j → ¬ a + 8 * j < 0x60100020 := by omega
  exact ⟨row, by simpa [Chip.reserved, place, mill, row] using beyond, place, mill⟩

/-- All words of a register answer alike. -/
theorem RegRow.NetAt.regUp (c : Chip) {j : Nat} (hj : j < r.words) : c.regUp (a + 8 * j) = c.regUp a := by
  have block := h.block
  have region : (a + 8 * j) / 0x10000000 = a / 0x10000000 := by omega
  have group : (a + 8 * j) % 0x10000000 / 0x1000000 = a % 0x10000000 / 0x1000000 := by omega
  rcases h.region with px | tm
  · rw [Chip.regUp_px (region.trans px), Chip.regUp_px px, group]
  · rw [Chip.regUp_tm (region.trans tm), Chip.regUp_tm tm]

/-- A command that PUTs words of such a register ends as the rule of the register says. -/
theorem State.exec_net {s : State} {i : Instr} {j : Nat} {ws : List Word} {st : Status} {d : Chip}
    (run : exec i s = State.on s fun now c => c.regWrite now (a + 8 * j) ws) (hw : s.writable a = true) (hne : ws ≠ [])
    (hl : j + ws.length ≤ r.words)
    (rule : s.found.hook (s.found.filled s.time (a + 8 * j) ws) s.time ⟨r, a, numbered j ws⟩ = (st, d)) : exec i s = s.wrote st d := by
  have hj : j < r.words := by
    have := List.length_pos_iff.mpr hne
    omega
  obtain ⟨fw, mode, up⟩ := State.writable_iff.mp hw
  have here : s.writable (a + 8 * j) = true := State.writable_iff.mpr ⟨fw, mode, (h.regUp s.found hj).trans up⟩
  have plain : inSat (a + 8 * j) = false := by
    have region := h.region
    have : ¬ a + 8 * j < A.FT_SAT 1024 := by
      rw [A.FT_SAT]
      omega
    simp [inSat, this]
  have aligned : (a + 8 * j) % 8 = 0 := by
    have := h.aligned
    omega
  rw [run, s.wrote_elem (a + 8 * j) ws _ (st, d) here plain aligned (Chip.cut_words (fun k hk => h.unit s.found hk) ws j hne hl) up rule]

end

theorem Chip.hook_px {c d : Chip} {now : Nat} {e : Elem} (region : e.base / 0x10000000 = 5) : c.hook d now e = c.pxHook d now e := by
  rw [Chip.hook, region]
  rfl

theorem Chip.hook_tm {c d : Chip} {now : Nat} {e : Elem} (region : e.base / 0x10000000 = 6) : c.hook d now e = c.tmHook d now e := by
  rw [Chip.hook, region]
  rfl

/-- The stamps of a write are those from before it: what it stores leaves the replicas. -/
theorem Chip.mrNow_filled (c : Chip) (now a t : Nat) (ws : List Word) : (c.filled now a ws).mrNow t = c.mrNow t := by
  have replica : (c.filled now a ws).ft.replica = c.ft.replica := by
    unfold Chip.filled
    split
    · next e _ =>
      unfold Chip.storeElem
      refine foldl_keep (fun d : Chip => d.ft.replica) _ ?_ e.ws c
      exact fun _ _ => rfl
    · rfl
  unfold Chip.mrNow Chip.stampIn Chip.replica
  rw [replica]

/-! ### Where they stand -/

/-- The offset of an element of an array lies in the array's element of the first dimension. -/
theorem elementOffset_inner {ds : List (Nat × Nat)} {count stride i off : Nat} (hi : i < count) (ho : off < stride) :
    elementOffset ((count, stride) :: ds) (stride * i + off) = elementOffset ds off := by
  rw [elementOffset, Nat.mul_add_div (by omega), Nat.div_eq_of_lt ho, Nat.mul_add_mod, Nat.mod_eq_of_lt ho]
  exact if_pos hi

theorem RegRow.wordAt_offset {r : RegRow} {off j : Nat} (offset : elementOffset r.dims off = some (8 * j)) (hj : j < r.words) :
    r.wordAt (r.base + off) = some j := by
  rw [RegRow.wordAt, if_neg (by omega), Nat.add_sub_cancel_left, offset]
  simp [hj]

/-- The indices of an element of a register array of two dimensions or more. -/
theorem Elem.ij_array {e : Elem} {ds : List (Nat × Nat)} {count stride count' stride' i off : Nat}
    (hd : e.row.dims = (count, stride) :: (count', stride') :: ds) (hb : e.base = e.row.base + (stride * i + off)) (ho : off < stride) :
    e.i = i ∧ e.j = off / stride' := by
  have first : (stride * i + off) / stride = i := by rw [Nat.mul_add_div (Nat.zero_lt_of_lt ho), Nat.div_eq_of_lt ho, Nat.add_zero]
  have second : (stride * i + off) % stride = off := by rw [Nat.mul_add_mod, Nat.mod_eq_of_lt ho]
  simp only [Elem.i, Elem.j, hd, hb, Nat.add_sub_cancel_left, first, second, and_self]

/-- Row `k` of the TM region stands at `a`, where the rows before it keep out of the addresses from `lo` to `hi`. -/
theorem RegRow.netAt_tm {r : RegRow} {k lo hi a : Nat} (rows : tmRows = tmRows.take k ++ r :: tmRows.drop (k + 1))
    (others : ((tmRows.take k).all fun q => q.past lo hi) = true) (low : 0x60000000 ≤ lo) (high : hi ≤ 0x61000000)
    (clear : hi ≤ 0x60100000 ∨ 0x60100020 ≤ lo) (aligned : a % 8 = 0) (inside : lo ≤ a ∧ a + 8 * r.words ≤ hi)
    (word : ∀ j < r.words, r.wordAt (a + 8 * j) = some j) (nonempty : 0 < r.words) : r.NetAt a := by
  refine ⟨aligned, by omega, by omega, by omega, fun j hj => ?_⟩
  have region : (a + 8 * j) / 0x10000000 = 6 := by omega
  rw [regionRows, region]
  exact (congrArg (findRow · _) rows).trans (by rw [findRow_past (by omega) (by omega) _ others, findRow, word j hj])

/-- The rows of PX_MODE, PX_CFG and PX_TS_TAIL in the register table. -/
def portModeRow : RegRow := nth ⟨0, [], 0, []⟩ pxRows 0
def portCfgRow : RegRow := nth ⟨0, [], 0, []⟩ pxRows 2
def tsTailRow : RegRow := nth ⟨0, [], 0, []⟩ pxRows 6

theorem portModeRow_at (g : GroupNo) : portModeRow.NetAt (A.PX_MODE g) :=
  ⟨by revert g; decide, by revert g; decide, by revert g; decide, by revert g; decide, by revert g; decide +kernel⟩

theorem portCfgRow_at (p : PortNo) : portCfgRow.NetAt (A.PX_CFG p) :=
  ⟨by revert p; decide, by revert p; decide, by revert p; decide, by revert p; decide, by revert p; decide +kernel⟩

theorem tsTailRow_at (g : GroupNo) : tsTailRow.NetAt (A.PX_TS_TAIL g) :=
  ⟨by revert g; decide, by revert g; decide, by revert g; decide, by revert g; decide, by revert g; decide +kernel⟩

/-- The rows of TM_GCL_HDR, TM_GCL, TM_POLICER, TM_QUEUE and TM_FLUSH in the register table. -/
def gclHdrRow : RegRow := nth ⟨0, [], 0, []⟩ tmRows 3
def gclRow : RegRow := nth ⟨0, [], 0, []⟩ tmRows 4
def policerRow : RegRow := nth ⟨0, [], 0, []⟩ tmRows 6
def queueRow : RegRow := nth ⟨0, [], 0, []⟩ tmRows 7
def flushRow : RegRow := nth ⟨0, [], 0, []⟩ tmRows 11

theorem gclHdr_addr (p l : Nat) : A.TM_GCL_HDR p l = gclHdrRow.base + (64 * p + 32 * l) := Nat.add_assoc ..

theorem gcl_addr (p l k : Nat) : A.TM_GCL p l k = gclRow.base + (0x1000 * p + (0x800 * l + 8 * k)) := by
  rw [← Nat.add_assoc, ← Nat.add_assoc]
  rfl

theorem policer_addr {i : Nat} (hi : i ≠ 0) : A.TM_POLICER i = policerRow.base + 32 * (i - 1) := by
  have base : policerRow.base = 0x60100020 := rfl
  rw [base, A.TM_POLICER]
  omega

theorem gclHdrRow_at (p : PortNo) (l : Fin 2) : gclHdrRow.NetAt (A.TM_GCL_HDR p l) := by
  have words : gclHdrRow.words = 4 := rfl
  refine RegRow.netAt_tm (k := 3) (lo := 0x60004000) (hi := 0x60004400) rfl (by decide) (by decide) (by decide) (by decide)
    (by rw [A.TM_GCL_HDR]; omega) (by rw [words, A.TM_GCL_HDR]; omega) (fun j hj => ?_) (by decide)
  rw [gclHdr_addr, Nat.add_assoc, Nat.add_assoc]
  refine RegRow.wordAt_offset ?_ hj
  exact (elementOffset_inner p.isLt (by omega)).trans (elementOffset_inner l.isLt (by omega))

theorem gclRow_at (p : PortNo) (l : Fin 2) (k : Fin 256) : gclRow.NetAt (A.TM_GCL p l k) := by
  have words : gclRow.words = 1 := rfl
  refine RegRow.netAt_tm (k := 4) (lo := 0x60010000) (hi := 0x60020000) rfl (by decide) (by decide) (by decide) (by decide)
    (by rw [A.TM_GCL]; omega) (by rw [words, A.TM_GCL]; omega) (fun j hj => ?_) (by decide)
  obtain rfl : j = 0 := Nat.lt_one_iff.mp hj
  rw [gcl_addr]
  refine RegRow.wordAt_offset (off := 0x1000 * p + (0x800 * l + (8 * k + 0))) ?_ hj
  exact (elementOffset_inner p.isLt (by omega)).trans ((elementOffset_inner l.isLt (by omega)).trans (elementOffset_inner k.isLt (by decide)))

theorem policerRow_at {i : Fin 16384} (hi : i.val ≠ 0) : policerRow.NetAt (A.TM_POLICER i) := by
  have words : policerRow.words = 4 := rfl
  refine RegRow.netAt_tm (k := 6) (lo := 0x60100020) (hi := 0x60180000) rfl (by decide) (by decide) (by decide) (by decide)
    (by rw [A.TM_POLICER]; omega) (by rw [words, A.TM_POLICER]; omega) (fun j hj => ?_) (by decide)
  rw [policer_addr hi]
  exact RegRow.wordAt_array (count := 16383) rfl (by decide) (by omega) hj

theorem queueRow_at (n : QpNo) : queueRow.NetAt (A.TM_QUEUE n) := by
  have words : queueRow.words = 4 := rfl
  refine RegRow.netAt_tm (k := 7) (lo := 0x60200000) (hi := 0x60400000) rfl (by decide) (by decide) (by decide) (by decide)
    (by rw [A.TM_QUEUE]; omega) (by rw [words, A.TM_QUEUE]; omega) (fun j hj => ?_) (by decide)
  exact RegRow.wordAt_array (r := queueRow) (count := 65536) rfl (by decide) n.isLt hj

theorem flushRow_at : flushRow.NetAt A.TM_FLUSH :=
  RegRow.netAt_tm (k := 11) (lo := A.TM_FLUSH) (hi := A.TM_FLUSH + 8) rfl (by decide) (by decide) (by decide) (by decide) (by decide)
    (by decide) (by decide +kernel) (by decide)

/-! ### Writes of PX_CFG (R223, R249, R273) -/

/-- Whether PX_CFG of port `p` as `d` holds it may replace what `c` holds: MAX_FRAME in range and, where it moves, within the largest bobbin;
a LOOPBACK of R273 in Diagnostic alone. -/
def Chip.portCfgOk (c d : Chip) (p : Nat) : Prop :=
  1518 ≤ d.get (A.PX_CFG p) F.PX_CFG_MAX_FRAME ∧ d.get (A.PX_CFG p) F.PX_CFG_MAX_FRAME ≤ 16128
    ∧ (d.get (A.PX_CFG p) F.PX_CFG_MAX_FRAME = c.get (A.PX_CFG p) F.PX_CFG_MAX_FRAME
      ∨ d.get (A.PX_CFG p) F.PX_CFG_MAX_FRAME ≤ d.largestBobbin)
    ∧ (d.get (A.PX_CFG p) F.PX_CFG_LOOPBACK = 0 ∨ (d.get (A.PX_CFG p) F.PX_CFG_LOOPBACK ≤ 4 ∧ d.mode = Mode.diagnostic))

/-- Whether MAX_FRAME or AN_EN of port `p` moves from `c` to `d`. -/
def Chip.portCfgMoves (c d : Chip) (p : Nat) : Bool :=
  d.get (A.PX_CFG p) F.PX_CFG_MAX_FRAME != c.get (A.PX_CFG p) F.PX_CFG_MAX_FRAME
    || d.get (A.PX_CFG p) F.PX_CFG_AN_EN != c.get (A.PX_CFG p) F.PX_CFG_AN_EN

section
variable {c d : Chip} {now p : Nat}

theorem Chip.portCfgMoves_false (frame : d.get (A.PX_CFG p) F.PX_CFG_MAX_FRAME = c.get (A.PX_CFG p) F.PX_CFG_MAX_FRAME)
    (an : d.get (A.PX_CFG p) F.PX_CFG_AN_EN = c.get (A.PX_CFG p) F.PX_CFG_AN_EN) : c.portCfgMoves d p = false := by
  simp [Chip.portCfgMoves, frame, an]

theorem Chip.portCfgMoves_autoneg (an : d.get (A.PX_CFG p) F.PX_CFG_AN_EN ≠ c.get (A.PX_CFG p) F.PX_CFG_AN_EN) :
    c.portCfgMoves d p = true := by
  simp [Chip.portCfgMoves, an]

variable (ok : c.portCfgOk d p)
include ok

/-- A configuration that may be held is refused only for what moves while the port is enabled. -/
theorem Chip.portCfgHook_ok : c.portCfgHook d now p =
    if c.flag (A.PX_CFG p) F.PX_CFG_ENABLE && c.portCfgMoves d p then (Code.PORT_ENABLED, c)
    else (Code.OK,
      if d.flag (A.PX_CFG p) F.PX_CFG_ENABLE && !c.flag (A.PX_CFG p) F.PX_CFG_ENABLE then d.portEnable p
      else if c.flag (A.PX_CFG p) F.PX_CFG_ENABLE && !d.flag (A.PX_CFG p) F.PX_CFG_ENABLE then d.portStop now p
      else if d.get (A.PX_CFG p) F.PX_CFG_MAX_FRAME != c.get (A.PX_CFG p) F.PX_CFG_MAX_FRAME then d.weirAuto p else d) := by
  obtain ⟨low, high, fits, loop⟩ := ok
  have inRange : (!within 1518 16128 (d.get (A.PX_CFG p) F.PX_CFG_MAX_FRAME)
      || (d.get (A.PX_CFG p) F.PX_CFG_MAX_FRAME != c.get (A.PX_CFG p) F.PX_CFG_MAX_FRAME
        && decide (d.largestBobbin < d.get (A.PX_CFG p) F.PX_CFG_MAX_FRAME))
      || decide (5 ≤ d.get (A.PX_CFG p) F.PX_CFG_LOOPBACK)) = false := by
    have loop4 : d.get (A.PX_CFG p) F.PX_CFG_LOOPBACK < 5 := by omega
    simp only [within, low, high, decide_true, Bool.and_self, Bool.not_true, Bool.false_or, Nat.not_le.mpr loop4, decide_false,
      Bool.or_false, Bool.and_eq_false_iff, bne_eq_false_iff_eq, decide_eq_false_iff_not, Nat.not_lt]
    exact fits
  have looped : ¬ (d.get (A.PX_CFG p) F.PX_CFG_LOOPBACK ≠ 0 ∧ d.mode ≠ Mode.diagnostic) :=
    fun ⟨set, other⟩ => loop.elim set fun diagnostic => other diagnostic.2
  unfold Chip.portCfgHook
  refine (if_neg (Bool.eq_false_iff.mp inRange)).trans (congrArg _ (if_neg looped))

theorem Chip.portCfgHook_starts (was : c.flag (A.PX_CFG p) F.PX_CFG_ENABLE = false) (on : d.flag (A.PX_CFG p) F.PX_CFG_ENABLE = true) :
    c.portCfgHook d now p = (Code.OK, d.portEnable p) := by
  simp [Chip.portCfgHook_ok ok, was, on]

variable (was : c.flag (A.PX_CFG p) F.PX_CFG_ENABLE = true)
include was

theorem Chip.portCfgHook_stops (off : d.flag (A.PX_CFG p) F.PX_CFG_ENABLE = false) (still : c.portCfgMoves d p = false) :
    c.portCfgHook d now p = (Code.OK, d.portStop now p) := by
  simp [Chip.portCfgHook_ok ok, was, off, still]

theorem Chip.portCfgHook_refused (moves : c.portCfgMoves d p = true) : c.portCfgHook d now p = (Code.PORT_ENABLED, c) := by
  simp [Chip.portCfgHook_ok ok, was, moves]

end

/-! ### The rules of a port group's registers (R246, R249, R272) -/

/-- Some port of group `g` has ENABLE = 1. -/
def Chip.groupBusy (c : Chip) (g : Nat) : Prop := ∃ k, k < 4 ∧ c.flag (A.PX_CFG (4 * g + k)) F.PX_CFG_ENABLE = true

theorem Chip.groupBusy_iff {c : Chip} {g : Nat} :
    ((List.range 4).any fun k => c.flag (A.PX_CFG (4 * g + k)) F.PX_CFG_ENABLE) = true ↔ c.groupBusy g := by
  simp only [List.any_eq_true, List.mem_range, Chip.groupBusy]

section
variable (c d : Chip) (now : Nat)

theorem Chip.pxHook_cfg {p : Nat} (us : List (Nat × Word)) (present : c.present p = true) :
    c.pxHook d now ⟨portCfgRow, A.PX_CFG p, us⟩ = c.portCfgHook d now p := by
  obtain ⟨i, j⟩ := Elem.ij_array (e := ⟨portCfgRow, A.PX_CFG p, us⟩) (i := p / 4) (off := 0x1000 * (p % 4)) rfl (Nat.add_assoc ..) (by omega)
  have port : 4 * (p / 4) + 0x1000 * (p % 4) / 0x1000 = p := by omega
  simp only [Chip.pxHook, i, j, port]
  rw [if_neg (by decide), if_neg (by decide), if_pos (by decide), if_pos present]

theorem Chip.pxHook_mode (g : Nat) (us : List (Nat × Word)) : c.pxHook d now ⟨portModeRow, A.PX_MODE g, us⟩ =
    if (List.range 4).any fun k => c.flag (A.PX_CFG (4 * g + k)) F.PX_CFG_ENABLE then (Code.PORT_ENABLED, c)
    else if d.rd (A.PX_MODE g) = c.rd (A.PX_MODE g) then (Code.OK, d)
    else (Code.OK, (List.range 4).foldl (fun (c : Chip) k => c.weirAuto (4 * g + k)) (d.groupRetrain now g)) := by
  have index : (⟨portModeRow, A.PX_MODE g, us⟩ : Elem).i = g := Elem.i_array (count := 4) (stride := 0x1000000) rfl rfl (by decide)
  simp only [Chip.pxHook, index]
  rw [if_pos (by decide)]

/-- A write of PX_TS_TAIL is judged by the entries of the ring (R272). -/
theorem Chip.pxHook_tsTail (g : Nat) (v : Word) : c.pxHook d now ⟨tsTailRow, A.PX_TS_TAIL g, numbered 0 [v]⟩ =
    judge c d (tailOk 64 (c.get (A.PX_TS_HEAD g) ⟨0, 0, 6⟩) (c.get (A.PX_TS_TAIL g) ⟨0, 0, 6⟩) (getBits v 0 6)) := by
  have index : (⟨tsTailRow, A.PX_TS_TAIL g, numbered 0 [v]⟩ : Elem).i = g := Elem.i_array (count := 4) (stride := 0x1000000) rfl rfl (by decide)
  simp only [Chip.pxHook, index, Elem.raw_numbered]
  rw [if_neg (by decide), if_pos (by decide)]
  rfl

end

section
variable {c d : Chip} {now g : Nat} {us : List (Nat × Word)}

theorem Chip.pxHook_mode_refused (busy : c.groupBusy g) : c.pxHook d now ⟨portModeRow, A.PX_MODE g, us⟩ = (Code.PORT_ENABLED, c) := by
  rw [Chip.pxHook_mode, if_pos (Chip.groupBusy_iff.mpr busy)]

section
variable (idle : ¬ c.groupBusy g)
include idle

theorem Chip.pxHook_mode_retrains (change : d.rd (A.PX_MODE g) ≠ c.rd (A.PX_MODE g)) :
    c.pxHook d now ⟨portModeRow, A.PX_MODE g, us⟩ =
      (Code.OK, (List.range 4).foldl (fun (c : Chip) k => c.weirAuto (4 * g + k)) (d.groupRetrain now g)) := by
  rw [Chip.pxHook_mode, if_neg (idle ∘ Chip.groupBusy_iff.mp), if_neg change]

theorem Chip.pxHook_mode_same (same : d.rd (A.PX_MODE g) = c.rd (A.PX_MODE g)) :
    c.pxHook d now ⟨portModeRow, A.PX_MODE g, us⟩ = (Code.OK, d) := by
  rw [Chip.pxHook_mode, if_neg (idle ∘ Chip.groupBusy_iff.mp), if_pos same]

end
end

/-! ### The rules of the Traffic Manager's registers (R276, R282, R287, R294) -/

/-- Whether a gate list's header at `a` is in range (R287, R298). -/
def Chip.gclHdrOk (d : Chip) (now a : Nat) : Prop :=
  d.getAt now a F.TM_GCL_HDR_LENGTH ≤ 256 ∧ 1000 ≤ d.getAt now a F.TM_GCL_HDR_CYCLE_NS
    ∧ d.getAt now a F.TM_GCL_HDR_CYCLE_NS ≤ 1000000000 ∧ d.getAt now a F.TM_GCL_HDR_BASE_FRAC % 2 ^ 13 = 0

/-- The rule's own check of a header. -/
def Chip.gclHdrCheck (d : Chip) (now a : Nat) : Bool :=
  decide (d.getAt now a F.TM_GCL_HDR_LENGTH ≤ 256) && within 1000 1000000000 (d.getAt now a F.TM_GCL_HDR_CYCLE_NS)
    && d.getAt now a F.TM_GCL_HDR_BASE_FRAC % 2 ^ 13 == 0

theorem Chip.gclHdrCheck_iff {d : Chip} {now a : Nat} : d.gclHdrCheck now a = true ↔ d.gclHdrOk now a := by
  simp [Chip.gclHdrCheck, within, Chip.gclHdrOk, and_assoc]

/-- A write in range to list `l` of port `p`: refused while the list is in use (R287). -/
def Chip.gclJudge (c d : Chip) (now p l : Nat) : Status × Chip := if c.gclBusy now p l then (Code.LIST_ACTIVE, c) else (Code.OK, d)

section
variable (c d : Chip) (now : Nat)

theorem Chip.tmHook_flush (q : BitVec 17) : c.tmHook d now ⟨flushRow, A.TM_FLUSH, numbered 0 [q.zeroExtend 64]⟩ = d.tmFlush now q.toNat := by
  have queue : getBits (q.zeroExtend 64) 0 17 = q.toNat := by
    have := q.isLt
    simp only [getBits, BitVec.truncate_eq_setWidth, BitVec.toNat_setWidth, Nat.shiftRight_zero]
    omega
  have raw : (⟨flushRow, A.TM_FLUSH, numbered 0 [q.zeroExtend 64]⟩ : Elem).raw 0 = q.zeroExtend 64 := Elem.raw_numbered ..
  simp only [Chip.tmHook, raw, queue]
  rw [if_pos (by decide)]

theorem Chip.tmHook_gcl {p l k : Nat} (hl : l < 2) (hk : k < 256) (us : List (Nat × Word)) :
    c.tmHook d now ⟨gclRow, A.TM_GCL p l k, us⟩ = c.gclJudge d now p l := by
  obtain ⟨i, j⟩ := Elem.ij_array (e := ⟨gclRow, A.TM_GCL p l k, us⟩) rfl (gcl_addr p l k) (by omega)
  have list : (0x800 * l + 8 * k) / 0x800 = l := by omega
  simp only [Chip.tmHook, i, j, list]
  rw [if_neg (by decide), if_neg (by decide), if_neg (by decide), if_pos (by decide)]
  rfl

section
variable {c d now} {p l : Nat} (hl : l < 2) {us : List (Nat × Word)}

include hl

theorem Chip.tmHook_gclHdr : c.tmHook d now ⟨gclHdrRow, A.TM_GCL_HDR p l, us⟩ =
    if !d.gclHdrCheck now (A.TM_GCL_HDR p l) then (Code.BAD_ARGUMENT, c) else c.gclJudge d now p l := by
  obtain ⟨i, j⟩ := Elem.ij_array (e := ⟨gclHdrRow, A.TM_GCL_HDR p l, us⟩) rfl (gclHdr_addr p l) (by omega)
  have list : 32 * l / 32 = l := by omega
  simp only [Chip.tmHook, i, j, list]
  rw [if_neg (by decide), if_neg (by decide), if_pos (by decide)]
  rfl

theorem Chip.tmHook_gclHdr_bad (bad : ¬ d.gclHdrOk now (A.TM_GCL_HDR p l)) :
    c.tmHook d now ⟨gclHdrRow, A.TM_GCL_HDR p l, us⟩ = (Code.BAD_ARGUMENT, c) := by
  rw [Chip.tmHook_gclHdr hl, Bool.eq_false_iff.mpr (bad ∘ Chip.gclHdrCheck_iff.mp)]
  rfl

theorem Chip.tmHook_gclHdr_ok (ok : d.gclHdrOk now (A.TM_GCL_HDR p l)) :
    c.tmHook d now ⟨gclHdrRow, A.TM_GCL_HDR p l, us⟩ = c.gclJudge d now p l := by
  rw [Chip.tmHook_gclHdr hl, Chip.gclHdrCheck_iff.mpr ok]
  rfl

end

/-- A write of a queue context ends as its check says, and a queue's credits become those of the new rates (R276, R294). -/
theorem Chip.tmHook_queue (n : Nat) (us : List (Nat × Word)) :
    let st := d.queueCheck (65536 + n) (c.rdAt now (A.TM_QUEUE n)) (d.rdAt now (A.TM_QUEUE n))
    c.tmHook d now ⟨queueRow, A.TM_QUEUE n, us⟩ =
      if st = Code.OK then
        (st, (d.setSram 10 (queueWord (65536 + n)) 0).setShape (65536 + n) (c.credit (d.mrNow now) (65536 + n)))
      else (st, c) := by
  intro st
  have index : (⟨queueRow, A.TM_QUEUE n, us⟩ : Elem).i = n := Elem.i_array (count := 65536) (stride := 32) rfl rfl (by decide)
  simp only [Chip.tmHook, index]
  rw [if_neg (by decide), if_neg (by decide), if_neg (by decide), if_neg (by decide), if_neg (by decide), if_pos (by decide)]
  by_cases check : st = Code.OK
  · rw [if_pos check, if_pos check, if_pos check]
  · rw [if_neg check, if_neg check, if_neg check]

/-- A write of a policer ends as its check says, and the buckets follow it (R282). -/
theorem Chip.tmHook_policer {i : Nat} (hi : i ≠ 0) (us : List (Nat × Word)) :
    let st := d.policerCheck i (d.rdAt now (A.TM_POLICER i)) (d.rdAt now (A.TM_POLICER i + 8))
    c.tmHook d now ⟨policerRow, A.TM_POLICER i, us⟩ =
      if st = Code.OK then
        (st, (d.policerPut (d.mrNow now) i (c.buckets (d.mrNow now) i) (c.getAt now (A.TM_POLICER i) F.TM_POLICER_ENABLE == 1)).setSram 10
          (policerWord i) 0)
      else (st, c) := by
  intro st
  have index : (⟨policerRow, A.TM_POLICER i, us⟩ : Elem).i = i - 1 :=
    Elem.i_array (count := 16383) (stride := 32) rfl (policer_addr hi) (by decide)
  have above : i - 1 + 1 = i := Nat.sub_add_cancel (Nat.pos_of_ne_zero hi)
  simp only [Chip.tmHook, index, above]
  rw [if_neg (by decide), if_neg (by decide), if_neg (by decide), if_neg (by decide), if_pos (by decide)]

end

section
variable {c d : Chip} {now p l q : Nat}

theorem Chip.gclJudge_active (busy : c.gclBusy now p l = true) : c.gclJudge d now p l = (Code.LIST_ACTIVE, c) := if_pos busy

theorem Chip.gclJudge_free (free : c.gclBusy now p l = false) : c.gclJudge d now p l = (Code.OK, d) :=
  if_neg (Bool.eq_false_iff.mp free)

/-- ENABLE of queue `q` as it is in force: a shaped queue's, or a host receive queue's. -/
def Chip.queueOn (d : Chip) (now q : Nat) : Nat :=
  if isShaped q then d.qf (d.mrNow now) q F.TM_QUEUE_ENABLE else d.getAt (d.mrNow now) (A.TM_HRXQ q) F.TM_HRXQ_ENABLE

theorem Chip.tmFlush_busy (on : d.queueOn now q = 1) : d.tmFlush now q = (Code.QUEUE_BUSY, d) := if_pos on

theorem Chip.tmFlush_drops (off : d.queueOn now q ≠ 1) : d.tmFlush now q = (Code.OK, d.dropQueue now q (A.TM_DROP q)) := if_neg off

theorem Chip.linkdownExpiry_drops (down : c.link p = false) (before : c.flag (A.TM_PORT p) F.TM_PORT_DROP_STATE = false)
    (long : (c.port p).downAt + ns (1000 * c.get (A.TM_PORT p) F.TM_PORT_LINKDOWN_US) ≤ now) :
    c.linkdownExpiry now p = c.portDrop now p :=
  if_neg (by simp [down, before, long])

end

/-! ### The commands that write them -/

section
variable {s : State} {i : Instr} {r : RegRow} {a j : Nat} {ws : List Word} {st : Status} {d : Chip} (h : r.NetAt a)
  (run : exec i s = State.on s fun now c => c.regWrite now (a + 8 * j) ws) (hw : s.writable a = true) (hne : ws ≠ [])
  (hl : j + ws.length ≤ r.words)
include h run hw hne hl

/-- A command that PUTs words of a register of a port group ends as their rule says. -/
theorem State.exec_px (region : a / 0x10000000 = 5)
    (rule : s.found.pxHook (s.found.filled s.time (a + 8 * j) ws) s.time ⟨r, a, numbered j ws⟩ = (st, d)) : exec i s = s.wrote st d :=
  State.exec_net h run hw hne hl ((Chip.hook_px region).trans rule)

/-- A command that PUTs words of a register of the Traffic Manager ends as their rule says. -/
theorem State.exec_tm (region : a / 0x10000000 = 6)
    (rule : s.found.tmHook (s.found.filled s.time (a + 8 * j) ws) s.time ⟨r, a, numbered j ws⟩ = (st, d)) : exec i s = s.wrote st d :=
  State.exec_net h run hw hne hl ((Chip.hook_tm region).trans rule)

end

section
variable {s : State} {i : Instr} {p : PortNo} {g : GroupNo} {l : Fin 2} {n : QpNo} {ws : List Word} {st : Status} {d : Chip}

theorem State.exec_portCfg {v : Word} (run : exec i s = State.on s fun now c => c.regWrite now (A.PX_CFG p) [v])
    (hw : s.writable (A.PX_CFG p) = true) (present : s.found.present p = true)
    (rule : s.found.portCfgHook (s.found.filled s.time (A.PX_CFG p) [v]) s.time p = (st, d)) : exec i s = s.wrote st d :=
  State.exec_px (j := 0) (portCfgRow_at p) run hw (List.cons_ne_nil _ _) (Nat.le_refl 1) (by rw [A.PX_CFG]; omega)
    ((Chip.pxHook_cfg _ _ _ _ present).trans rule)

theorem State.exec_groupModeWrite {v : Word} (hw : s.writable (A.PX_MODE g) = true)
    (rule : s.found.pxHook (s.found.filled s.time (A.PX_MODE g) [v]) s.time ⟨portModeRow, A.PX_MODE g, numbered 0 [v]⟩ = (st, d)) :
    exec (.groupModeWrite g v) s = s.wrote st d :=
  State.exec_px (j := 0) (portModeRow_at g) rfl hw (List.cons_ne_nil _ _) (Nat.le_refl 1) (by rw [A.PX_MODE]; omega) rule

theorem State.exec_tsTailWrite {v : Word} (hw : s.writable (A.PX_TS_TAIL g) = true) {ok : Bool}
    (tail : tailOk 64 (s.found.get (A.PX_TS_HEAD g) ⟨0, 0, 6⟩) (s.found.get (A.PX_TS_TAIL g) ⟨0, 0, 6⟩) (getBits v 0 6) = ok)
    (rule : judge s.found (s.found.filled s.time (A.PX_TS_TAIL g) [v]) ok = (st, d)) : exec (.tsTailWrite g v) s = s.wrote st d :=
  State.exec_px (j := 0) (tsTailRow_at g) rfl hw (List.cons_ne_nil _ _) (Nat.le_refl 1) (by rw [A.PX_TS_TAIL]; omega)
    ((Chip.pxHook_tsTail ..).trans (by rw [tail]; exact rule))

theorem State.exec_tmFlush {q : BitVec 17} (hw : s.writable A.TM_FLUSH = true)
    (rule : (s.found.filled s.time A.TM_FLUSH [q.zeroExtend 64]).tmFlush s.time q.toNat = (st, d)) : exec (.tmFlush q) s = s.wrote st d :=
  State.exec_tm (j := 0) flushRow_at rfl hw (List.cons_ne_nil _ _) (Nat.le_refl 1) (by decide) ((Chip.tmHook_flush ..).trans rule)

theorem State.exec_gclEntry {k : Fin 256} {v : Word} (hw : s.writable (A.TM_GCL p l k) = true)
    (rule : s.found.gclJudge (s.found.filled s.time (A.TM_GCL p l k) [v]) s.time p l = (st, d)) :
    exec (.gclWrite p l (some k) [v]) s = s.wrote st d :=
  State.exec_tm (j := 0) (gclRow_at p l k) rfl hw (List.cons_ne_nil _ _) (Nat.le_refl 1) (by rw [A.TM_GCL]; omega)
    ((Chip.tmHook_gcl _ _ _ l.isLt k.isLt _).trans rule)

section
variable (hne : ws ≠ [])
include hne

theorem State.exec_gclHdr (hw : s.writable (A.TM_GCL_HDR p l) = true) (hl : ws.length ≤ 4)
    (rule : s.found.tmHook (s.found.filled s.time (A.TM_GCL_HDR p l) ws) s.time ⟨gclHdrRow, A.TM_GCL_HDR p l, numbered 0 ws⟩ = (st, d)) :
    exec (.gclWrite p l none ws) s = s.wrote st d :=
  State.exec_tm (j := 0) (gclHdrRow_at p l) rfl hw hne (Nat.le_trans (Nat.le_of_eq (Nat.zero_add _)) hl) (by rw [A.TM_GCL_HDR]; omega) rule

/-- A write of a queue context ends as its check says, and a queue's credits become those of the new rates (R276, R294). -/
theorem State.exec_queueWrite {k : Fin 4} (hw : s.writable (A.TM_QUEUE n) = true) (hl : k.val + ws.length ≤ 4) :
    let c := s.found
    let d := c.filled s.time (A.TM_QUEUE n + 8 * k.val) ws
    let st := d.queueCheck (65536 + n.val) (c.rdAt s.time (A.TM_QUEUE n)) (d.rdAt s.time (A.TM_QUEUE n))
    exec (.queueWrite n k ws) s = s.wrote st (if st = Code.OK then
      (d.setSram 10 (queueWord (65536 + n.val)) 0).setShape (65536 + n.val) (c.credit (c.mrNow s.time) (65536 + n.val)) else c) := by
  intro c d st
  refine State.exec_tm (queueRow_at n) rfl hw hne hl (by rw [A.TM_QUEUE]; omega) ((Chip.tmHook_queue ..).trans ?_)
  rw [Chip.mrNow_filled]
  exact (apply_ite (Prod.mk st) ..).symm

/-- A write of a policer ends as its check says, and the buckets follow it (R282). -/
theorem State.exec_policerWrite {i : Fin 16384} (hi : i.val ≠ 0) (hw : s.writable (A.TM_POLICER i) = true) (hl : ws.length ≤ 2) :
    let c := s.found
    let a := A.TM_POLICER i
    let d := c.filled s.time a ws
    let st := d.policerCheck i (d.rdAt s.time a) (d.rdAt s.time (a + 8))
    exec (.policerWrite i ws) s = s.wrote st (if st = Code.OK then
      (d.policerPut (c.mrNow s.time) i (c.buckets (c.mrNow s.time) i) (c.getAt s.time a F.TM_POLICER_ENABLE == 1)).setSram 10 (policerWord i) 0
      else c) := by
  intro c a d st
  have fits : 0 + ws.length ≤ policerRow.words := by
    have words : policerRow.words = 4 := rfl
    omega
  refine State.exec_tm (j := 0) (policerRow_at hi) rfl hw hne fits (by rw [A.TM_POLICER]; omega) ((Chip.tmHook_policer _ _ _ hi _).trans ?_)
  rw [Chip.mrNow_filled]
  exact (apply_ite (Prod.mk st) ..).symm

end
end

/-- Settles O39: PX_CFG by what moves and what starts, each other register by its own rule. -/
theorem portWrites : Obligations.PortWrites := by
  refine ⟨fun s p g v => ⟨fun hw present => ?cfg, fun hw => ?mode, fun hw => ?tail⟩, fun s => ⟨fun q hw => ?flush,
    fun n k ws hw hne hl => ?queue, fun i ws hi hw hne hl => ?policer, fun p l k v hw => ?entry, fun p l ws hw hne hl => ?header,
    fun p down before long => State.exec_on rfl (Chip.linkdownExpiry_drops down before long)⟩⟩
  case cfg =>
    exact ⟨fun was on ok => State.exec_portCfg rfl hw present (Chip.portCfgHook_starts ok was on),
      fun was off ok frame an => State.exec_portCfg rfl hw present (Chip.portCfgHook_stops ok was off (Chip.portCfgMoves_false frame an)),
      fun was ok an => State.exec_portCfg rfl hw present (Chip.portCfgHook_refused ok was (Chip.portCfgMoves_autoneg an))⟩
  case mode =>
    exact ⟨fun busy => State.exec_groupModeWrite hw (Chip.pxHook_mode_refused busy),
      fun idle change => State.exec_groupModeWrite hw (Chip.pxHook_mode_retrains idle change),
      fun idle same => State.exec_groupModeWrite hw (Chip.pxHook_mode_same idle same)⟩
  case tail => exact ⟨fun ok => State.exec_tsTailWrite hw ok rfl, fun bad => State.exec_tsTailWrite hw bad rfl⟩
  case flush =>
    exact ⟨fun on => State.exec_tmFlush hw (Chip.tmFlush_busy on), fun off => State.exec_tmFlush hw (Chip.tmFlush_drops off)⟩
  case queue =>
    intro a d st
    have wrote : exec (.queueWrite n k ws) s = s.wrote st _ := State.exec_queueWrite hne hw hl
    exact ⟨fun ok => by rw [wrote, if_pos ok, ok], fun refused => by rw [wrote, if_neg refused]⟩
  case policer =>
    intro a d st
    have wrote : exec (.policerWrite i ws) s = s.wrote st _ := State.exec_policerWrite hne hi hw hl
    exact ⟨fun ok => by rw [wrote, if_pos ok, ok], fun refused => by rw [wrote, if_neg refused]⟩
  case entry =>
    exact ⟨fun busy => State.exec_gclEntry hw (Chip.gclJudge_active busy), fun free => State.exec_gclEntry hw (Chip.gclJudge_free free)⟩
  case header =>
    have put {st : Status} {d : Chip} := State.exec_gclHdr (st := st) (d := d) hne hw hl
    exact ⟨fun bad => put (Chip.tmHook_gclHdr_bad l.isLt bad),
      fun ok busy => put ((Chip.tmHook_gclHdr_ok l.isLt ok).trans (Chip.gclJudge_active busy)),
      fun ok free => put ((Chip.tmHook_gclHdr_ok l.isLt ok).trans (Chip.gclJudge_free free))⟩

end Sys2Proof.Machine

/-! PROOFS. Admission to the queues of the Traffic Manager: enqueue requests, COPY, QDEPTH, policers (R276-R281, R288, R292, R293). -/

namespace Sys2Proof.Machine

/-! ### The judgement of an enqueue request (R279) -/

/-- The checks of R279 that follow policing, which came to `two`: the colour after it, and the buckets it takes from. -/
def Chip.tmFill (c : Chip) (now : Nat) (r : EnqReq) (len : Int) (two : Nat × List (Nat × PolSt)) : Status × Nat × Chip :=
  let drop (st : Status) : Status × Nat × Chip := (st, two.1, c.tmRefuse now r st (two.1 == 2))
  if two.1 = 2 ∧ c.tmRedDrop r.istamp r.queue = true then drop Code.POLICED
  else if (c.tmLimit r.istamp r.queue two.1 : Int) < units (c.tmBytes r.queue) + units len then drop Code.QUEUE_FULL
  else match c.freeEntry with
    | none => drop Code.NO_ENTRY
    | some slot => (Code.OK, two.1, c.tmAdmit r slot two.1 len two.2)

section
variable {c d e : Chip} {now : Nat} {r : EnqReq}

theorem Chip.tmEnqueueNext_judges {es : List EnqReq} (up : c.open1 23 = true) (oldest : c.disp.enq = r :: es) :
    c.tmEnqueueNext now = (({ c with disp := { c.disp with enq := es } } : Chip).tmEnqueue now r).2.2 := by
  simp only [Chip.tmEnqueueNext, up, oldest, Bool.not_true, Bool.false_eq_true, if_false]

theorem Chip.tmEnqueue_poisoned (read : c.readSram now 10 (queueWord r.queue) 0 r.slice = (true, d)) :
    c.tmEnqueue now r = (Code.POISONED, r.colour, d.tmRefuse now r Code.POISONED false) := by
  simp only [Chip.tmEnqueue, read, if_true]

section
variable (read : c.readSram now 10 (queueWord r.queue) 0 r.slice = (false, d))
include read

theorem Chip.tmEnqueue_disabled (off : d.tmEnabled now r.queue = false) :
    c.tmEnqueue now r = (Code.NO_QUEUE, r.colour, d.tmRefuse now r Code.NO_QUEUE false) := by
  simp [Chip.tmEnqueue, read, off]

variable (on : d.tmEnabled now r.queue = true)
include on

theorem Chip.tmEnqueue_foreign (foreign : d.tmAccess now r.istamp r.queue r.slice r.system = false) :
    c.tmEnqueue now r = (Code.FOREIGN_QUEUE, r.colour,
      (d.raise now Flt.TM_FOREIGN_QUEUE 23 63 r.slice 0).tmRefuse now r Code.FOREIGN_QUEUE false) := by
  simp [Chip.tmEnqueue, read, on, foreign]

variable (mine : d.tmAccess now r.istamp r.queue r.slice r.system = true)
include mine

theorem Chip.tmEnqueue_closed (closed : d.tmDest now r.queue ≠ Code.OK) :
    c.tmEnqueue now r = (d.tmDest now r.queue, r.colour, d.tmRefuse now r (d.tmDest now r.queue) false) := by
  simp [Chip.tmEnqueue, read, on, mine, closed]

variable (dest : d.tmDest now r.queue = Code.OK)
include dest

theorem Chip.tmEnqueue_policerPoisoned
    (contexts : Chip.readPolicers now r.slice [d.getAt r.istamp (A.TM_CLASS r.cls) F.TM_CLASS_POLICER, d.tmPolicer r.istamp r.queue] d = (true, e)) :
    c.tmEnqueue now r = (Code.POISONED, r.colour, e.tmRefuse now r Code.POISONED false) := by
  simp [Chip.tmEnqueue, read, on, mine, dest, contexts]

/-- A request that passes the first three checks is policed by its class's policer, then by its queue's. -/
theorem Chip.tmEnqueue_policed {i j : Nat} (hi : d.getAt r.istamp (A.TM_CLASS r.cls) F.TM_CLASS_POLICER = i) (hj : d.tmPolicer r.istamp r.queue = j)
    (contexts : Chip.readPolicers now r.slice [i, j] d = (false, e)) :
    let one := e.meter now r.istamp i r.colour (e.charged now r) []
    c.tmEnqueue now r = e.tmFill now r (e.charged now r) (e.meter now r.istamp j one.1 (e.charged now r) one.2) := by
  simp only [Chip.tmEnqueue, read, on, mine, dest, hi, hj, contexts, Bool.not_true, Bool.false_eq_true, if_false, ne_eq, not_true_eq_false]
  rfl

end

section
variable {len : Int} {two : Nat × List (Nat × PolSt)}

theorem Chip.tmFill_policed (policed : two.1 = 2 ∧ c.tmRedDrop r.istamp r.queue = true) :
    c.tmFill now r len two = (Code.POLICED, two.1, c.tmRefuse now r Code.POLICED (two.1 == 2)) := if_pos policed

variable (passed : ¬ (two.1 = 2 ∧ c.tmRedDrop r.istamp r.queue = true))
include passed

theorem Chip.tmFill_full (above : (c.tmLimit r.istamp r.queue two.1 : Int) < units (c.tmBytes r.queue) + units len) :
    c.tmFill now r len two = (Code.QUEUE_FULL, two.1, c.tmRefuse now r Code.QUEUE_FULL (two.1 == 2)) :=
  (if_neg passed).trans (if_pos above)

variable (fits : ¬ (c.tmLimit r.istamp r.queue two.1 : Int) < units (c.tmBytes r.queue) + units len)
include fits

theorem Chip.tmFill_noEntry (used : c.freeEntry = none) :
    c.tmFill now r len two = (Code.NO_ENTRY, two.1, c.tmRefuse now r Code.NO_ENTRY (two.1 == 2)) := by
  rw [Chip.tmFill, if_neg passed, if_neg fits, used]

theorem Chip.tmFill_admits {slot : Nat} (free : c.freeEntry = some slot) :
    c.tmFill now r len two = (Code.OK, two.1, c.tmAdmit r slot two.1 len two.2) := by
  rw [Chip.tmFill, if_neg passed, if_neg fits, free]

end
end

/-! ### COPY and QDEPTH (R292, R293) -/

/-- The oldest request of a channel is answered as it runs. -/
theorem Chip.serve_answers {c d : Chip} {ch : Nat} {r : EngReq} {rest : List EngReq} {run : EngReq → Chip → List Word × Chip} {ws : List Word}
    (hf : c.front ch (fun _ => true) = some (r, rest)) (ran : run r { c with reqs := rest } = (ws, d)) : c.serve ch run = d.answer r ws := by
  obtain ⟨up, oldest⟩ := Chip.front_spec hf
  simp only [Chip.serve, Chip.serveIf, up, oldest, ran, Bool.not_true, Bool.false_eq_true, if_false]

/-- The enqueue request that a COPY sent by a packet makes, the adapter being `c`. -/
def Chip.copied (c : Chip) (r : EngReq) : EnqReq :=
  let w0 := nth 0 r.words 0
  let w1 := nth 0 r.words 1
  let p := (r.pk.bind c.pkt).getD Packet.none
  { pk := r.pk.getD 0, bob := if getBits w0 28 1 = 1 then some r.pkt else none, plen := if getBits w0 28 1 = 1 then r.plen else 0,
    hdr := if getBits w1 24 1 = 1 then some (getBits w1 0 24) else none, cut := if getBits w0 28 1 = 1 then getBits w0 32 9 else 0,
    new := if getBits w1 24 1 = 1 then getBits w1 25 15 else 0, wordB := nth 0 r.words 2, queue := getBits w0 0 17, colour := getBits w0 18 2,
    cls := getBits w0 20 8, slice := r.slice, acct := if getBits w0 63 1 = 1 then getBits w0 50 13 else r.slice, src := p.src, txq := p.txq,
    istamp := r.istamp, system := r.system, mill := r.mill }

/-- The bobbins that a COPY names are bound to its sender. -/
def Chip.copyBound (c : Chip) (r : EngReq) : Prop :=
  (getBits (nth 0 r.words 1) 24 1 = 1 → c.boundTo_ r true (getBits (nth 0 r.words 1) 0 24) = true) ∧
    (getBits (nth 0 r.words 0) 28 1 = 1 → c.boundTo_ r false r.pkt = true)

theorem Chip.not_copyBound {c : Chip} {r : EngReq} : ¬ c.copyBound r ↔
    (getBits (nth 0 r.words 1) 24 1 = 1 ∧ c.boundTo_ r true (getBits (nth 0 r.words 1) 0 24) = false) ∨
      (getBits (nth 0 r.words 0) 28 1 = 1 ∧ c.boundTo_ r false r.pkt = false) := by
  rw [Chip.copyBound, not_and_or, Classical.not_imp, Classical.not_imp, Bool.not_eq_true, Bool.not_eq_true]

section
variable {c b d : Chip} {now : Nat} {r : EngReq}

theorem Chip.copy_badArgument (bad : c.copyBad r = true) : c.copy now r = ([replyWord Code.BAD_ARGUMENT 0 624 0], c) := if_pos bad

section
variable {x y : Bool} (good : c.copyBad r = false)
  (header : (if getBits (nth 0 r.words 1) 24 1 = 1 then c.readState now (getBits (nth 0 r.words 1) 0 24) else (false, c)) = (x, b))
  (data : (if getBits (nth 0 r.words 0) 28 1 = 1 then b.readState now r.pkt else (false, b)) = (y, d))
include good header data

theorem Chip.copy_poisoned (poison : x = true ∨ y = true) : c.copy now r = ([replyWord Code.POISONED 0 624 0], d) := by
  simp only [Chip.copy, good, header, data, poison, beq_iff_eq, Bool.or_eq_true, Bool.false_eq_true, if_false, if_true]

variable (clean : x = false ∧ y = false)
include clean

theorem Chip.copy_unbound (unbound : ¬ d.copyBound r) : c.copy now r = ([replyWord Code.NOT_BOUND 0 624 0], d) := by
  obtain ⟨rfl, rfl⟩ := clean
  simp only [Chip.copy, good, header, data, Chip.not_copyBound.mp unbound, beq_iff_eq, Bool.or_self, Bool.or_eq_true, Bool.and_eq_true, Bool.not_eq_true',
    Bool.false_eq_true, if_false, if_true]

/-- A COPY of bound bobbins hands their references over and is judged as an enqueue request. -/
theorem Chip.copy_enqueues (bound : d.copyBound r) (packet : r.pk.isSome = true) :
    let e := if getBits (nth 0 r.words 1) 24 1 = 1 then d.handOver now (getBits (nth 0 r.words 1) 0 24) else d
    let u := if getBits (nth 0 r.words 0) 28 1 = 1 then e.handOver now r.pkt else e
    let job := u.tmEnqueue now (u.copied r)
    c.copy now r = ([replyWord job.1 job.2.1 624 0], job.2.2) := by
  obtain ⟨rfl, rfl⟩ := clean
  have handed := mt Chip.not_copyBound.mpr (not_not.mpr bound)
  simp only [Chip.copy, good, header, data, packet, beq_iff_eq, Bool.or_self, Bool.or_eq_true, Bool.and_eq_true, Bool.not_eq_true', handed,
    Bool.false_eq_true, if_false, if_true]
  rfl

end

theorem Chip.qdepth_badArgument (bad : ¬ (r.words.length = 1 ∧ getBits (nth 0 r.words 0) 17 47 = 0)) :
    c.qdepth now r = ([replyWord Code.BAD_ARGUMENT 0 625 0], c) := if_pos (not_and_or.mp bad)

section
variable {x : Bool} (form : r.words.length = 1 ∧ getBits (nth 0 r.words 0) 17 47 = 0)
  (read : c.readSram now 10 (queueWord (getBits (nth 0 r.words 0) 0 17)) 0 r.slice = (x, d))
include form read

theorem Chip.qdepth_poisoned (poison : x = true) : c.qdepth now r = ([replyWord Code.POISONED 0 625 0], d) := by
  simp only [Chip.qdepth, form, read, poison, ne_eq, not_true_eq_false, or_self, if_false, if_true]

variable (clean : x = false)
include clean

theorem Chip.qdepth_foreign
    (foreign : d.tmAccess now (if r.pk.isSome then r.istamp else d.mrNow now) (getBits (nth 0 r.words 0) 0 17) r.slice r.system = false) :
    c.qdepth now r = ([replyWord Code.FOREIGN_QUEUE 0 625 0], d) := by
  simp only [Chip.qdepth, form, read, clean, foreign, ne_eq, not_true_eq_false, or_self, Bool.false_eq_true, Bool.not_false, if_false, if_true]

theorem Chip.qdepth_answers
    (mine : d.tmAccess now (if r.pk.isSome then r.istamp else d.mrNow now) (getBits (nth 0 r.words 0) 0 17) r.slice r.system = true) :
    let q := getBits (nth 0 r.words 0) 0 17
    c.qdepth now r = ([replyWord Code.OK (if d.tmEnabled now q then 1 else 0) 625 (units (d.tmBytes q) % 2 ^ 24).toNat], d) := by
  simp only [Chip.qdepth, form, read, clean, mine, ne_eq, not_true_eq_false, or_self, Bool.false_eq_true, Bool.not_true, if_false]

end
end

/-! ### The queue of an admitted request (R276, R277) -/

theorem Chip.tmq_of_tm {c d : Chip} (same : d.tm.queues = c.tm.queues) (q : Nat) : d.tmq q = c.tmq q := congrArg (mget [] · q) same

theorem Chip.tmq_setTmq (c : Chip) (q j : Nat) (es : List TmEnt) : (c.setTmq q es).tmq j = if j = q then es else c.tmq j :=
  mget_mset [] c.tm.queues j q es

theorem Chip.addInt_tm (c : Chip) (a : Nat) (n : Int) : (c.addInt a n).tm = c.tm := by
  unfold Chip.addInt
  split <;> rfl

/-- The buckets that a request takes from are no queues. -/
theorem Chip.setBuckets_foldl_queues : ∀ (xs : List (Nat × PolSt)) (c : Chip),
    (xs.foldl (fun (c : Chip) x => c.setBuckets x.1 x.2) c).tm.queues = c.tm.queues
  | [], _ => rfl
  | x :: xs, c => setBuckets_foldl_queues xs (c.setBuckets x.1 x.2)

/-- An admitted request joins the tail of its own queue. -/
theorem Chip.tmAdmit_tmq (c : Chip) (r : EnqReq) (slot colour : Nat) (b : Int) (pend : List (Nat × PolSt)) (q : Nat) :
    (c.tmAdmit r slot colour b pend).tmq q =
      if q = r.queue then c.tmq r.queue ++ [⟨slot, { r with colour := colour }, b, false⟩] else c.tmq q := by
  have buckets (j : Nat) := Chip.tmq_of_tm (Chip.setBuckets_foldl_queues pend.reverse c) j
  have counted (d : Chip) : (if colour = 2 then d.inc (A.TM_RED r.queue) else d).tm = d.tm := by split <;> rfl
  unfold Chip.tmAdmit
  rw [Chip.tmq_of_tm (congrArg TmSt.queues ((counted _).trans (Chip.addInt_tm ..))), ← buckets, ← buckets]
  exact Chip.tmq_setTmq ..

/-! ### Policers (R281) -/

section
variable {c : Chip} {now st i colour : Nat} {b : Int}

theorem Chip.meter_off (off : ¬ (i ≠ 0 ∧ c.getAt st (A.TM_POLICER i) F.TM_POLICER_ENABLE ≠ 0)) : c.meter now st i colour b [] = (colour, []) :=
  if_pos (by simpa only [not_and_or, ne_eq, not_not] using off)

section
variable (on : i ≠ 0 ∧ c.getAt st (A.TM_POLICER i) F.TM_POLICER_ENABLE ≠ 0) {col : Nat} {p : PolSt}
  (sees : (if c.getAt st (A.TM_POLICER i) F.TM_POLICER_COLOUR_BLIND = 1 then 0 else colour) = col) (holds : c.buckets (c.mrNow now) i = p)
include on sees holds

theorem Chip.meter_red (red : col = 2 ∨ (p.tp : Int) < b * tokenUnit) : c.meter now st i colour b [] = (2, [(i, p)]) := by
  simp [Chip.meter, on, sees, holds, red]

variable (peak : ¬ (col = 2 ∨ (p.tp : Int) < b * tokenUnit))
include peak

theorem Chip.meter_yellow (yellow : col = 1 ∨ (p.tc : Int) < b * tokenUnit) :
    c.meter now st i colour b [] = (1, [(i, { p with tp := ((p.tp : Int) - b * tokenUnit).toNat })]) := by
  simp [Chip.meter, on, sees, holds, peak, yellow]

theorem Chip.meter_green (green : ¬ (col = 1 ∨ (p.tc : Int) < b * tokenUnit)) :
    c.meter now st i colour b [] =
      (0, [(i, { p with tp := ((p.tp : Int) - b * tokenUnit).toNat, tc := ((p.tc : Int) - b * tokenUnit).toNat })]) := by
  simp [Chip.meter, on, sees, holds, peak, green]

end
end

/-- Settles O35: each check of an enqueue request in its turn, COPY and QDEPTH by their conditions, and what an admission and a policer change. -/
theorem admission : Obligations.Admission := by
  refine ⟨fun s => ⟨fun r es up oldest => ?enqueue, fun r rest hf => ?copy, fun r rest hf => ?depth⟩, fun c r slot colour b pend => ?admitted,
    fun c now st i colour b => ?policer⟩
  case enqueue =>
    intro now c q lists d ends may
    have judged {st : Status} {col : Nat} {e : Chip} (h : c.tmEnqueue now r = (st, col, e)) : ends e :=
      State.exec_on rfl ((Chip.tmEnqueueNext_judges up oldest).trans (congrArg (·.2.2) h))
    refine ⟨fun bad => judged (Chip.tmEnqueue_poisoned (Prod.ext bad rfl)), fun clean off => judged (Chip.tmEnqueue_disabled (Prod.ext clean rfl) off),
      fun clean on foreign => judged (Chip.tmEnqueue_foreign (Prod.ext clean rfl) on foreign),
      fun ⟨clean, on, mine⟩ closed => judged (Chip.tmEnqueue_closed (Prod.ext clean rfl) on mine closed), fun ⟨clean, on, mine⟩ dest => ?_⟩
    intro i j pol e len one two drop above policed
    have read : c.readSram now 10 (queueWord r.queue) 0 r.slice = (false, d) := Prod.ext clean rfl
    have fill (h : pol.1 = false) : c.tmEnqueue now r = e.tmFill now r len two :=
      Chip.tmEnqueue_policed read on mine dest rfl rfl (Prod.ext h rfl)
    exact ⟨fun bad => judged (Chip.tmEnqueue_policerPoisoned read on mine dest (Prod.ext bad rfl)),
      fun ok red => judged ((fill ok).trans (Chip.tmFill_policed red)),
      fun ok passed full => judged ((fill ok).trans (Chip.tmFill_full passed full)),
      fun ok passed fits none => judged ((fill ok).trans (Chip.tmFill_noEntry passed fits none)),
      fun slot ok passed fits free => judged ((fill ok).trans (Chip.tmFill_admits passed fits free))⟩
  case copy =>
    have served {ws : List Word} {d : Chip} (h : ({ s.found with reqs := rest } : Chip).copy s.time r = (ws, d)) :
        exec .copy s = s.replied r ws d := State.exec_on rfl (Chip.serve_answers hf h)
    exact ⟨fun bad => served (Chip.copy_badArgument bad), fun good poison => served (Chip.copy_poisoned good rfl rfl poison),
      fun good x y unbound => served (Chip.copy_unbound good rfl rfl ⟨x, y⟩ unbound),
      fun good x y bound packet => served (Chip.copy_enqueues good rfl rfl ⟨x, y⟩ bound packet)⟩
  case depth =>
    have served {ws : List Word} {d : Chip} (h : ({ s.found with reqs := rest } : Chip).qdepth s.time r = (ws, d)) :
        exec .qdepth s = s.replied r ws d := State.exec_on rfl (Chip.serve_answers hf h)
    exact ⟨fun bad => served (Chip.qdepth_badArgument bad), fun form poison => served (Chip.qdepth_poisoned form rfl poison),
      fun form clean foreign => served (Chip.qdepth_foreign form rfl clean foreign),
      fun form clean mine => served (Chip.qdepth_answers form rfl clean mine)⟩
  case admitted =>
    intro d
    have own : d.tmq r.queue = c.tmq r.queue ++ [⟨slot, { r with colour := colour }, b, false⟩] := (Chip.tmAdmit_tmq ..).trans (if_pos rfl)
    exact ⟨own, fun q other => (Chip.tmAdmit_tmq ..).trans (if_neg other), by rw [Chip.tmBytes, own, List.foldl_append]; rfl⟩
  case policer =>
    exact ⟨fun off => Chip.meter_off off, fun on red => Chip.meter_red on rfl rfl red,
      fun on peak yellow => Chip.meter_yellow on rfl rfl peak yellow, fun on peak green => Chip.meter_green on rfl rfl peak green⟩

end Sys2Proof.Machine

/-! PROOFS. Which frame a port sends next: EXPRESS heads that can never fit, the gates, the three scheduling levels (R283, R284, R286, R288, R296). -/

namespace Sys2Proof.Machine

/-! ### The port asks (R283, R286, R288, R296) -/

/-- The port queues of port `p` whose head may go to the MAC that asks, their gates included. -/
def Chip.portOffers (c : Chip) (now p : Nat) (express : Bool) : List Nat × Chip :=
  let exp (k : Nat) : Bool := c.getAt (c.mrNow now) (A.TM_PORTQ (8 * p + k)) F.TM_PORTQ_EXPRESS == 1
  Chip.gated now p exp ((List.range 8).filter fun k => (!c.preActive p || exp k == express) && c.pqReady now p k) c

/-- The adapter once port `p` has taken entry `e` of queue `q` by its port queue `k`, where the round robins gain `adds2` and `adds1`. -/
def Chip.portTakes (c : Chip) (now p k q : Nat) (adds2 adds1 : List (Nat × Int)) (e : TmEnt) : Chip :=
  let u := adds2.foldl (fun (c : Chip) x =>
    c.setPqShape (8 * p + x.1) { c.pqShape (8 * p + x.1) with deficit := (c.pqShape (8 * p + x.1)).deficit + x.2 }) c
  let u := if adds2.isEmpty then u else u.setTurn (128 + p) k
  (((u.gain adds1).setTurn (8 * p + k) q).takeEntry now q e).chargePq now p k e.len

/-- Of the port queues `ks` one sends its head by a MAC of port `p`, where there is one. -/
def Chip.portSends (c : Chip) (now p : Nat) (mac : Bool) (ks : List Nat) : Chip :=
  match c.level2 now p ks with
  | none => c
  | some (k, adds2) =>
    match c.level1 now p k with
    | none => c
    | some (q, adds1) =>
      match c.tmq q with
      | [] => c
      | e :: _ =>
        let x := (c.portTakes now p k q adds2 adds1 e).entryPoison now q e
        if x.1 then x.2 else (x.2.inc (A.TM_DEQ_FRAMES q)).setMac p mac (some ⟨q, e, none, none⟩)

/-- A free MAC of a port with link is offered what is left of the heads once those that can never fit have gone. -/
theorem Chip.selectPort_offers {c d : Chip} {now p : Nat} {express : Bool} (up : c.open1 23 = true) (on : c.portOn p = true) (link : c.link p = true)
    (serving : c.mode ≠ Mode.quarantine) (dropped : (List.range 8).foldl (fun (c : Chip) k => c.gateDrop now p k) c = d)
    (idle : ((d.port p).mac (express || !d.preActive p)).isSome = false) (alone : d.preActive p = true ∨ (d.port p).pre.isSome = false) :
    let g := d.portOffers now p express
    c.selectPort now p express = g.2.portSends now p (express || !d.preActive p) g.1 := by
  subst dropped
  have asks : ¬ (!c.open1 23 || !c.portOn p || !c.link p || c.mode == Mode.quarantine) = true := by simp [up, on, link, serving]
  rw [Chip.selectPort, if_neg asks]
  refine (if_neg ?_).trans ?_
  · simpa [idle, or_iff_not_imp_left] using alone
  · rfl

section
variable {c : Chip} {now p : Nat} {mac : Bool} {ks : List Nat}

theorem Chip.portSends_none (none : c.level2 now p ks = none) : c.portSends now p mac ks = c := by
  rw [Chip.portSends, none]

theorem Chip.portSends_takes {k q : Nat} {adds2 adds1 : List (Nat × Int)} {e : TmEnt} {es : List TmEnt} (second : c.level2 now p ks = some (k, adds2))
    (first : c.level1 now p k = some (q, adds1)) (head : c.tmq q = e :: es) :
    let x := (c.portTakes now p k q adds2 adds1 e).entryPoison now q e
    c.portSends now p mac ks = if x.1 then x.2 else (x.2.inc (A.TM_DEQ_FRAMES q)).setMac p mac (some ⟨q, e, none, none⟩) := by
  simp only [Chip.portSends, second, first, head]

end

/-! ### Strict port queues (R283) -/

/-- Of the strict port queues of a rising list the highest is chosen, whatever the others hold. -/
theorem Chip.level2_strict {c : Chip} {now p j k : Nat} {ks : List Nat} {adds : List (Nat × Int)} (rising : ks.Pairwise (· < ·)) (hj : j ∈ ks)
    (strict : c.getAt (c.mrNow now) (A.TM_PORTQ (8 * p + j)) F.TM_PORTQ_STRICT = 1) (chosen : c.level2 now p ks = some (k, adds)) :
    k ∈ ks ∧ j ≤ k ∧ c.getAt (c.mrNow now) (A.TM_PORTQ (8 * p + k)) F.TM_PORTQ_STRICT = 1 ∧ adds = [] := by
  have here : j ∈ ks.filter fun k => c.getAt (c.mrNow now) (A.TM_PORTQ (8 * p + k)) F.TM_PORTQ_STRICT == 1 :=
    List.mem_filter.mpr ⟨hj, beq_iff_eq.mpr strict⟩
  have last := List.getLast?_eq_some_getLast (List.ne_nil_of_mem here)
  simp only [Chip.level2, last, Option.some.injEq, Prod.mk.injEq] at chosen
  obtain ⟨rfl, rfl⟩ := chosen
  obtain ⟨member, highest⟩ := List.mem_filter.mp (List.getLast_mem (List.ne_nil_of_mem here))
  exact ⟨member, ((rising.imp Nat.le_of_lt).filter _).rel_getLast here, beq_iff_eq.mp highest, rfl⟩

/-! ### Deficit round robin (R283, R284) -/

section
variable {qs : List Nat} {last q : Nat} {deficit need : Nat → Int} {quantum : Nat → Nat} {adds : List (Nat × Int)}

/-- A round goes through every queue that may send. -/
theorem mem_round {x : Nat} : x ∈ (qs.filter fun q => decide (last ≤ q)) ++ qs.filter (fun q => decide (q < last)) ↔ x ∈ qs := by
  simp only [List.mem_append, List.mem_filter, decide_eq_true_eq]
  have := Nat.lt_or_ge x last
  tauto

/-- The queue chosen may send, and where a round was gone through none needs fewer visits. -/
theorem drr_fewestVisits (chosen : drr qs last deficit need quantum = some (q, adds)) :
    q ∈ qs ∧ (adds ≠ [] → ∀ x ∈ qs, visits (deficit q) (need q) (quantum q) ≤ visits (deficit x) (need x) (quantum x)) := by
  rw [drr] at chosen
  split at chosen
  next again =>
    cases chosen
    exact ⟨memNat_iff.mp again.2.1, fun gains => absurd rfl gains⟩
  next =>
    dsimp only at chosen
    split at chosen
    next => cases chosen
    next least =>
      cases chosen
      exact ⟨mem_round.mp (leastBy_mem least), fun _ x hx => leastBy_le least x (mem_round.mpr hx)⟩

end

/-- Settles O36: the port takes what its three levels choose; of strict port queues the highest goes first, of the rest the one of fewest visits. -/
theorem portSelection : Obligations.PortSelection := by
  refine ⟨fun s d express k q adds1 adds2 e es => ?asks, fun c now p j k ks adds rising hj strict chosen => Chip.level2_strict rising hj strict chosen,
    fun qs last q deficit need quantum adds chosen => drr_fewestVisits chosen⟩
  case asks =>
    intro now port up on link serving c pre mac idle alone exp g
    have ends {u : Chip} (h : g.2.portSends now d mac g.1 = u) : exec (.tmSelect d express) s = .next (s.done u) :=
      State.exec_on rfl ((if_pos port).trans ((Chip.selectPort_offers up on link serving rfl idle alone).trans h))
    refine ⟨fun none => ends (Chip.portSends_none none), fun second first head => ?_⟩
    have takes := Chip.portSends_takes (mac := mac) second first head
    exact ⟨fun bad => ends (takes.trans (if_pos bad)), fun clean => ends (takes.trans (if_neg (Bool.eq_false_iff.mp clean)))⟩

end Sys2Proof.Machine

/-! PROOFS. Receive jobs, the firings that wait for COAL_US, and the switch of the DMA mode (R284, R296, R364-R367, R371, R375). -/

namespace Sys2Proof.Machine

/-! ### The queue an endpoint takes from (R284, R296, R371) -/

/-- The ring entries that the receive jobs of queue pair `n` hold. -/
def Chip.ringHeld (c : Chip) (n : Nat) : Nat := c.de.jobs.foldl (fun t j => if j.qp = n then t + j.buffers else t) 0

/-- A receive job starts on endpoint `e` for entry `h` of host receive queue `n`, with the buffers it needs. -/
def Chip.rxBegin (c : Chip) (n e : Nat) (h : TmEnt) : Chip :=
  let k := c.buffersFor n h
  let x := c.qp n
  let job : Job := ⟨c.de.nextJob, n, e, h.len.toNat, 1, 0,
    .rx h ((x.rx.take k).map (·.2)) ((c.qpf n F.DE_QP_RX_HEAD + c.ringHeld n) % ringSize (c.qpf n F.DE_QP_RX_LOG2)), [], false⟩
  let d := c.setQp n { x with rx := x.rx.drop k }
  { d with de := { d.de with jobs := d.de.jobs ++ [job], nextJob := c.de.nextJob + 1 } }

/-- Entry `h` of host receive queue `n` needs too many buffers and leaves at once. -/
def Chip.rxTooLong (c : Chip) (now n : Nat) (h : TmEnt) : Chip :=
  let z := c.rxCqe Code.TOO_LONG 0 (c.qpf n F.DE_QP_RX_HEAD) h 0 none
  (((z.2.inc A.DE_RX_TOO_LONG).inc (A.TM_DEQ_FRAMES n)).writeCqe now n z.1).dropReq now h.req

/-- The entry taken for an endpoint starts a job, or leaves at once where it needs more than 16 buffers. -/
theorem Chip.selectHost_takes {c u : Chip} {now e n : Nat} {adds : List (Nat × Int)} {h : TmEnt} {hs : List TmEnt} (up : c.open1 23 = true)
    (chosen : drr ((c.tm.queues.map (·.1)).filter fun q => !isShaped q && c.rxReady q e) (c.turn (144 + e)) (fun q => (c.shape q).deficit)
      c.headCharge (fun q => 256 * c.getAt (c.mrNow now) (A.TM_HRXQ q) F.TM_HRXQ_WEIGHT) = some (n, adds))
    (head : c.tmq n = h :: hs) (clean : (((c.gain adds).setTurn (144 + e) n).takeEntry now n h).entryPoison now n h = (false, u)) :
    c.selectHost now e = if 16 < u.buffersFor n h then u.rxTooLong now n h else u.rxBegin n e h := by
  simp only [Chip.selectHost, up, chosen, head, clean, Bool.not_true, Bool.false_eq_true, if_false]
  rfl

/-! ### Receive jobs (R364, R371) -/

/-- A job that a receive of queue pair `n` may take up: one of its receive jobs that has not run. -/
def Job.awaitsRx (n : Nat) (j : Job) : Bool :=
  j.qp == n && !j.done && (match j.kind with
    | .rx _ _ _ => true
    | .tx _ _ => false)

/-- The oldest such job, where those before it are of another queue pair, done, or transmit jobs. -/
theorem Job.find?_awaitsRx {n : Nat} {j : Job} {ent : TmEnt} {bufs : List Nat} {first : Nat} {before after : List Job}
    (others : ∀ i ∈ before, i.qp ≠ n ∨ i.done = true ∨ ∃ ss q, i.kind = .tx ss q) (own : j.qp = n) (runs : j.done = false)
    (kind : j.kind = .rx ent bufs first) : (before ++ j :: after).find? (Job.awaitsRx n) = some j := by
  have none : before.find? (Job.awaitsRx n) = none := List.find?_eq_none.mpr fun i hi => by
    rcases others i hi with other | ended | ⟨ss, q, sends⟩ <;> simp [Job.awaitsRx, *]
  rw [List.find?_append, none, List.find?_cons_of_pos (by simp [Job.awaitsRx, own, runs, kind])]
  rfl

/-- Receive job `j` of queue pair `n` runs: the packet written, its bobbin released, the completion written, the billing done. -/
def Chip.rxRuns (c : Chip) (now n : Nat) (j : Job) (ent : TmEnt) (bufs : List Nat) (first : Nat) : Chip :=
  let f := c.sliceFn (c.qpSlice n)
  let x := c.departBytes now ent.req
  let d := Chip.fillBufs j.ep f.1 f.2 (x.2.2.qpf n F.DE_QP_RX_PSWAP) (256 * x.2.2.qpf n F.DE_QP_RX_BUF) bufs x.1 x.2.1 x.2.2
  let q := d.rxCqe (if x.2.1.any (fun b => b) then Code.POISONED else Code.OK) bufs.length first ent x.1.length
    (some (false, (first + bufs.length) % ringSize (d.qpf n F.DE_QP_RX_LOG2)))
  let u := ((((q.2.inc (A.TM_DEQ_FRAMES n)).dropReq now ent.req).inc A.DE_RX_PACKETS).add A.DE_RX_BYTES x.1.length).report 5
    ent.req.acct (x.1.length + 4) (stamp now)
  u.jobCqe now j q.1

section
variable {c : Chip} {now n : Nat} {j : Job} {ent : TmEnt} {bufs : List Nat} {first : Nat}
  (oldest : c.de.jobs.find? (Job.awaitsRx n) = some j) (kind : j.kind = .rx ent bufs first) (up : c.open1 23 = true)
include oldest kind up

/-- The oldest receive job fails, waits or runs. -/
theorem Chip.rxJob_oldest : c.rxJob now n =
    if c.jobStatus (c.qpSlice n) j.ep ≠ Code.OK then c.jobFail now (c.jobStatus (c.qpSlice n) j.ep) j
    else if !c.jobCan (c.qpSlice n) j.ep then c
    else match (c.rxRuns now n j ent bufs first).job j.id with
      | some i => (c.rxRuns now n j ent bufs first).jobDone now i
      | none => c.rxRuns now n j ent bufs first := by
  unfold Chip.rxJob
  split
  next none => cases oldest.symm.trans none
  next i found =>
    cases oldest.symm.trans found
    simp only [kind, up, Bool.not_true, Bool.false_eq_true, if_false]
    rfl

theorem Chip.rxJob_fails (failed : c.jobStatus (c.qpSlice n) j.ep ≠ Code.OK) :
    c.rxJob now n = c.jobFail now (c.jobStatus (c.qpSlice n) j.ep) j :=
  (Chip.rxJob_oldest oldest kind up).trans (if_pos failed)

theorem Chip.rxJob_ends {d : Chip} {i : Job} (ran : c.rxRuns now n j ent bufs first = d)
    (ok : c.jobStatus (c.qpSlice n) j.ep = Code.OK) (can : c.jobCan (c.qpSlice n) j.ep = true) (done : d.job j.id = some i) : c.rxJob now n = d.jobDone now i := by
  simp only [Chip.rxJob_oldest oldest kind up, ran, ok, can, done, ne_eq, not_true_eq_false, Bool.not_true, Bool.false_eq_true, if_false]

end

/-! ### Firings, and the DMA mode (R367, R375) -/

/-- A firing that waits for COAL_US is issued once it has passed since the last one. -/
theorem Chip.holdoffExpiry_fires {c : Chip} {now n t : Nat} (up : c.open1 23 = true) (armed : c.qpf n F.DE_QP_ARMED = 1)
    (entries : c.qpf n F.DE_QP_CQ_TAIL ≠ c.qpf n F.DE_QP_CQ_HEAD)
    (passed : (c.qp n).fired = none ∨ ((c.qp n).fired = some t ∧ t + ns (1000 * c.qpf n F.DE_QP_COAL_US) ≤ now)) :
    let d := c.setQpf n F.DE_QP_ARMED 0
    let e := d.setQp n { d.qp n with fired := some now }
    c.holdoffExpiry now n = e.fireMsg now (e.qpSlice n) (e.qpf n F.DE_QP_IRQ) := by
  rw [Chip.holdoffExpiry, if_pos up]
  refine if_pos ⟨armed, entries, ?_⟩
  rcases passed with first | ⟨last, passed⟩
  · rw [first]
  · rw [last]
    exact decide_eq_true passed

theorem Chip.dmaSwitch_switches {c : Chip} (under : c.switching = true) (none : c.de.jobs = []) (fetch0 : c.fetchJobs 0 = 0)
    (fetch1 : c.fetchJobs 1 = 0) :
    c.dmaSwitch = (c.set A.DE_STATUS ⟨0, 0, 1⟩ (if c.overlapped then 0 else 1)).set A.DE_STATUS ⟨0, 1, 1⟩ 0 :=
  if_pos (by rw [under, none, fetch0, fetch1]; rfl)

/-- Settles O44: the entry an endpoint takes, the receive job's failure and its end, the firing, the switch. -/
theorem hostReceives : Obligations.HostReceives := by
  refine fun s n => ⟨fun d express q adds h hs u host up chosen head clean => ?takes,
    fun j ent bufs first before after bs ms d jobs others own runs kind up => ?job,
    fun t up armed entries passed => State.exec_on rfl (Chip.holdoffExpiry_fires up armed entries passed),
    fun under none fetch0 fetch1 => State.exec_on rfl (Chip.dmaSwitch_switches under none fetch0 fetch1)⟩
  case takes =>
    have ends {v : Chip} (h : s.found.selectHost s.time (d.val - 16) = v) : exec (.tmSelect d express) s = .next (s.done v) :=
      State.exec_on rfl ((if_neg (Nat.not_lt.mpr host)).trans h)
    have taken := Chip.selectHost_takes up chosen head clean
    exact ⟨fun few => ends (taken.trans (if_neg (Nat.not_lt.mpr few))), fun many => ends (taken.trans (if_pos many))⟩
  case job =>
    have oldest : s.found.de.jobs.find? (Job.awaitsRx n) = some j := by
      rw [jobs]
      exact Job.find?_awaitsRx others own runs kind
    refine ⟨fun failed => State.exec_on rfl (Chip.rxJob_fails oldest kind up failed), fun ok can bytes => ?_⟩
    intro f d size q u v i done
    have ran : s.found.rxRuns s.time n j ent bufs first = v := by
      unfold Chip.rxRuns
      rw [bytes]
    exact State.exec_on rfl (Chip.rxJob_ends oldest kind up ran ok can done)

end Sys2Proof.Machine

/-! PROOFS. How every command ends, and that nothing is left over after a step (R46, R450, R475). -/

namespace Sys2Proof.Machine

/-! ### How a command ends -/

/-- The outcome is the state `s` or one that device time has reached from it, with a command's effect and what follows it done, the
device time left standing, moved or set back to 0. -/
def endsDone (s : State) (o : Host.Outcome State Fault Refusal) : Prop :=
  ∃ (t : Nat) (c : Chip) (t' : Nat), o = .next { (s.reach t).done c with time := t' }

theorem State.on_endsDone (s : State) (t : Nat) (f : Nat → Chip → Chip) : endsDone s ((s.reach t).on f) :=
  ⟨t, f (s.reach t).time (s.reach t).found, _, (s.reach t).on_done f⟩

/-- A state has reached its own time. -/
theorem State.reach_self (s : State) : s.reach s.time = s := by
  unfold State.reach
  rw [Nat.max_self, ite_self]

theorem State.on_endsDone_here (s : State) (f : Nat → Chip → Chip) : endsDone s (s.on f) := by
  have h := s.on_endsDone s.time f
  rwa [s.reach_self] at h

theorem State.restarted_endsDone (s : State) (f : Chip → Chip) : endsDone s (s.restarted f) :=
  ⟨s.time, f s.found, 0, by rw [s.reach_self, s.restarted_done]⟩

/-- Each command acts on the state it finds, on one that device time has reached, or resets the device time. -/
theorem exec_endsDone (i : Instr) (s : State) : endsDone s (exec i s) := by
  cases i
  case time => exact s.on_endsDone _ _
  case timeSyncWord => exact s.on_endsDone _ _
  case suppliesRemoved => exact s.restarted_endsDone _
  case suppliesInRange => exact s.restarted_endsDone _
  case coldReset => exact s.restarted_endsDone _
  all_goals exact s.on_endsDone_here _

/-- Settles O2: a command that ends with what follows it done leaves the queue. -/
theorem everyCommandAnswersNext : Obligations.EveryCommandAnswersNext := fun i s => by
  obtain ⟨t, c, t', h⟩ := exec_endsDone i s
  exact ⟨_, h, ((s.reach t).done_pending c).trans (s.reach_pending t)⟩

/-- The passing of time leaves over what was left over. -/
theorem State.tick_settled (s : State) : s.tick.chip.settled = s.chip.settled := by
  unfold State.tick
  split <;> rfl

/-- Settles O4: a command ends with what it makes due done, and the passing of time makes nothing due. -/
theorem stepKeepsSettled : Obligations.StepKeepsSettled := fun s t settled h => by
  rw [step] at h
  split at h
  next =>
    cases h
    rw [s.tick_settled, settled]
  next i rest _ =>
    obtain ⟨t', c, u, ends⟩ := exec_endsDone i { s with pending := rest }
    rw [ends] at h
    cases h
    exact State.done_settled _ c

end Sys2Proof.Machine

/-! PROOFS. Doorbells (R320, R337, R339, R357-R359, R367). -/

namespace Sys2Proof.Machine

/-! ### What a posted write meets (R325, R337, R339) -/

/-- The adapter once the PASID of a write has been counted (R333). -/
def Chip.prefixed (c : Chip) (e : Nat) (pasid : Bool) : Chip := if pasid then c.inc (A.HE_PASID_IN e) else c

section
variable {c : Chip} {e f : Nat} {poison pasid : Bool}

theorem Chip.posted_notUp (down : ¬(c.epUp e = true ∧ c.open1 (20 + e) = true)) : c.posted e f poison pasid = (false, c) := by
  refine if_pos ?_
  rwa [← Bool.not_and, Bool.not_eq_true', ← Bool.not_eq_true, Bool.and_eq_true]

section
variable (up : c.epUp e = true ∧ c.open1 (20 + e) = true)
include up

theorem Chip.posted_sluiced (held : (c.prefixed e pasid).sluiced e = true) :
    c.posted e f poison pasid = (false, (c.prefixed e pasid).inc (A.HE_SLUICE_DROP e)) :=
  (if_neg (by simp [up])).trans (if_pos held)

section
variable (clear : (c.prefixed e pasid).sluiced e = false)
include clear

theorem Chip.posted_undecoded (off : (c.prefixed e pasid).decodes e f = false) :
    c.posted e f poison pasid = (false, (c.prefixed e pasid).aerLog e f Aer.unsupported false) :=
  (if_neg (by simp [up])).trans <| (if_neg (Bool.eq_false_iff.mp clear)).trans (if_pos (by rw [Bool.not_eq_true']; exact off))

/-- What is decoded is dropped only where it is poisoned. -/
theorem Chip.posted_decoded (decodes : (c.prefixed e pasid).decodes e f = true) :
    c.posted e f poison pasid =
      if poison then (false, ((c.prefixed e pasid).aerLog e f Aer.poisoned true).inc (A.HE_POISON_RX e)) else (true, c.prefixed e pasid) :=
  (if_neg (by simp [up])).trans <| (if_neg (Bool.eq_false_iff.mp clear)).trans <|
    if_neg (by rw [Bool.not_eq_true', Bool.not_eq_false]; exact decodes)

end
end

end

/-! ### The checks on a doorbell (R358) -/

section
variable {c : Chip} {now e s owner home size v : Nat} {live : Bool}

theorem Chip.dbOk_foreign (foreign : owner ≠ s) :
    c.dbOk now e s owner home live size v = (false, (c.inc A.DE_DB_DROP).raise now Flt.SM_DB_FOREIGN 23 63 s 0) :=
  if_pos foreign

theorem Chip.dbOk_dropped (own : owner = s) (bad : (c.twin = false ∧ home ≠ e) ∨ ¬live = true ∨ size ≤ v) :
    c.dbOk now e s owner home live size v = (false, c.inc A.DE_DB_DROP) := by
  refine (if_neg (not_not.mpr own)).trans (if_pos ?_)
  rcases bad with ⟨split, far⟩ | dead | beyond
  · simp [split, far]
  · simp [dead]
  · simp [beyond]

theorem Chip.dbOk_ok (own : owner = s) (here : c.twin = true ∨ home = e) (alive : live = true) (within : v < size) :
    c.dbOk now e s owner home live size v = (true, c) := by
  refine (if_neg (not_not.mpr own)).trans (if_neg ?_)
  have some_ : size ≠ 0 := Nat.ne_of_gt (Nat.zero_lt_of_lt within)
  rcases here with h | h <;> simp [h, alive, some_, within]

end

/-! ### A doorbell write as a whole -/

/-- What a doorbell write comes to: `after` is what the doorbell does once the write is taken whole. -/
def Chip.rung (c : Chip) (e : Nat) (whole poison pasid : Bool) (after : Chip → Chip) : Chip :=
  let r := c.posted e 1 poison pasid
  if !r.1 then r.2 else if !whole then r.2.inc (A.HE_BAR_DROP e) else after r.2

/-- What a doorbell taken whole does: `absent` says that it names no object. -/
def Chip.bell (d : Chip) (now e s : Nat) (absent : Prop) [Decidable absent] (owner home : Nat) (live : Bool) (size v : Nat)
    (act : Chip → Chip) : Chip :=
  if absent then d
  else
    let r := d.dbOk now e s owner home live size v
    if r.1 then act r.2 else r.2

section
variable {s : State} {e : EpNo} {sl : SliceNo} {whole poison pasid : Bool} {v rsv : Nat}

/-- The outcomes of a doorbell write, as the statement of doorbells lists them. -/
def State.belled (s : State) (e : EpNo) (sl : SliceNo) (whole poison pasid : Bool) (v rsv : Nat) (run : Host.Outcome State Fault Refusal)
    (there live : Prop) (owner home size : Nat) (act : Chip) : Prop :=
  let c := s.found
  let d := c.prefixed e pasid
  let up := c.epUp e = true ∧ c.open1 (20 + e.val) = true
  let clear := up ∧ d.sluiced e = false
  let taken := clear ∧ d.decodes e 1 = true ∧ poison = false
  let named := taken ∧ whole = true ∧ rsv = 0 ∧ there
  (¬up → run = .next (s.done c)) ∧
  (up → d.sluiced e = true → run = .next (s.done (d.inc (A.HE_SLUICE_DROP e)))) ∧
  (clear → d.decodes e 1 = false → run = .next (s.done (d.aerLog e 1 Aer.unsupported false))) ∧
  (clear → d.decodes e 1 = true → poison = true → run = .next (s.done ((d.aerLog e 1 Aer.poisoned true).inc (A.HE_POISON_RX e)))) ∧
  (taken → whole = false → run = .next (s.done (d.inc (A.HE_BAR_DROP e)))) ∧
  (taken → whole = true → ¬(rsv = 0 ∧ there) → run = .next (s.done d)) ∧
  (named → owner ≠ sl.val → run = .next (s.done ((d.inc A.DE_DB_DROP).raise s.time Flt.SM_DB_FOREIGN 23 63 sl 0))) ∧
  (named → owner = sl.val → ((d.twin = false ∧ home ≠ e.val) ∨ ¬live ∨ size ≤ v) → run = .next (s.done (d.inc A.DE_DB_DROP))) ∧
  (named → owner = sl.val → (d.twin = true ∨ home = e.val) → live → v < size → run = .next (s.done act))

theorem State.belled_of_rung {run : Host.Outcome State Fault Refusal} {there live : Prop} {owner home size : Nat} {act : Chip → Chip}
    {absent : Prop} [Decidable absent] {alive : Bool} (after : Chip → Chip)
    (h : run = .next (s.done (s.found.rung e whole poison pasid after)))
    (ha : after (s.found.prefixed e pasid) = (s.found.prefixed e pasid).bell s.time e sl absent owner home alive size v act)
    (named : absent ↔ ¬(rsv = 0 ∧ there)) (lives : alive = true ↔ live) :
    s.belled e sl whole poison pasid v rsv run there live owner home size (act (s.found.prefixed e pasid)) := by
  subst h
  have drops {u : Chip} (posted : s.found.posted e 1 poison pasid = (false, u)) : s.found.rung e whole poison pasid after = u := by
    rw [Chip.rung, posted]
    rfl
  have takes (clear : (s.found.epUp e = true ∧ s.found.open1 (20 + e.val) = true) ∧ (s.found.prefixed e pasid).sluiced e = false)
      (taken : (s.found.prefixed e pasid).decodes e 1 = true ∧ poison = false) : s.found.rung e whole poison pasid after =
        if whole then after (s.found.prefixed e pasid) else (s.found.prefixed e pasid).inc (A.HE_BAR_DROP e) := by
    obtain ⟨decodes, clean⟩ := taken
    rw [Chip.rung, (Chip.posted_decoded clear.1 clear.2 decodes).trans (if_neg (Bool.eq_false_iff.mp clean))]
    cases whole <;> rfl
  have rings {r : Bool × Chip} (there : rsv = 0 ∧ there) (hr : (s.found.prefixed e pasid).dbOk s.time e sl owner home alive size v = r) :
      after (s.found.prefixed e pasid) = if r.1 then act r.2 else r.2 := by
    rw [ha, Chip.bell, if_neg fun no => named.mp no there, hr]
  have ends {c u : Chip} (h : c = u) : (.next (s.done c) : Host.Outcome State Fault Refusal) = .next (s.done u) := by rw [h]
  refine ⟨fun down => ends (drops (Chip.posted_notUp down)), fun up held => ends (drops (Chip.posted_sluiced up held)),
    fun ⟨up, clear⟩ off => ends (drops (Chip.posted_undecoded up clear off)),
    fun ⟨up, clear⟩ decodes bad => ends (drops ((Chip.posted_decoded up clear decodes).trans (if_pos bad))),
    fun ⟨clear, taken⟩ part => ends ((takes clear taken).trans (if_neg (Bool.eq_false_iff.mp part))),
    fun ⟨clear, taken⟩ whole no => ends ((takes clear taken).trans ((if_pos whole).trans (ha.trans (if_pos (named.mpr no))))),
    fun ⟨⟨clear, taken⟩, whole, there⟩ foreign => ends ((takes clear taken).trans ((if_pos whole).trans
      (rings there (Chip.dbOk_foreign foreign)))),
    fun ⟨⟨clear, taken⟩, whole, there⟩ own bad => ends ((takes clear taken).trans ((if_pos whole).trans
      (rings there (Chip.dbOk_dropped own (by rwa [lives]))))),
    fun ⟨⟨clear, taken⟩, whole, there⟩ own here alive within => ends ((takes clear taken).trans ((if_pos whole).trans
      (rings there (Chip.dbOk_ok own here (lives.mpr alive) within))))⟩

end

/-! ### The doorbells of queue pairs and connections -/

section
variable (s : State) (e : EpNo) (sl : SliceNo) (whole poison pasid : Bool) (v n rsv : Nat)

/-- A doorbell of a queue pair, which takes them in RUN and HALTED (R358, R359). -/
theorem State.qpDoorbell_belled (log : Fld) (act : Chip → Chip) :
    let d := s.found.prefixed e pasid
    s.belled e sl whole poison pasid v rsv (s.on fun now c => c.qpDoorbell now e sl whole poison pasid v n rsv log act)
      (d.open1 23 = true) (d.qpState n = 1 ∨ d.qpState n = 2) (d.qpSlice n) (d.qpf n F.DE_QP_ENDPOINT) (ringSize (d.qpf n log)) (act d) := by
  refine State.belled_of_rung (fun d => d.bell s.time e sl (rsv ≠ 0 ∨ d.open1 23 = false) (d.qpSlice n) (d.qpf n F.DE_QP_ENDPOINT)
    (d.qpState n == 1 || d.qpState n == 2) (ringSize (d.qpf n log)) v act) rfl rfl ?_ ?_
  · rw [not_and_or, Bool.not_eq_true]
  · rw [Bool.or_eq_true, beq_iff_eq, beq_iff_eq]

/-- A doorbell of a connection (R358, R359). -/
theorem State.stDoorbell_belled :
    let d := s.found.prefixed e pasid
    s.belled e sl whole poison pasid v rsv (s.on fun now c => c.stDoorbell now e sl whole poison pasid v n rsv)
      (n < 32768 ∧ d.up 41 = true) (d.sc n F.ST_CONN_VALID = 1) (d.sc n F.ST_CONN_OWNER) (d.stEp n) (d.stSize n)
      (d.set (A.ST_CONN n) F.ST_CONN_TAIL v) := by
  refine State.belled_of_rung (act := fun d => d.set (A.ST_CONN n) F.ST_CONN_TAIL v)
    (fun d => d.bell s.time e sl (rsv ≠ 0 ∨ 32768 ≤ n ∨ d.up 41 = false) (d.sc n F.ST_CONN_OWNER) (d.stEp n)
      (d.sc n F.ST_CONN_VALID == 1) (d.stSize n) v fun d => d.set (A.ST_CONN n) F.ST_CONN_TAIL v) rfl rfl ?_ beq_iff_eq
  rw [not_and_or, not_and_or, Bool.not_eq_true, Nat.not_lt]

end

/-- Settles O42: each doorbell is one of a queue pair or of a connection. -/
theorem doorbells : Obligations.Doorbells := fun s e sl whole poison pasid _ _ _ =>
  ⟨s.qpDoorbell_belled e sl whole poison pasid _ _ _ _ _, s.qpDoorbell_belled e sl whole poison pasid _ _ _ _ _,
    s.qpDoorbell_belled e sl whole poison pasid _ _ _ _ _, s.qpDoorbell_belled e sl whole poison pasid _ _ _ _ _,
    s.stDoorbell_belled e sl whole poison pasid _ _ _⟩

end Sys2Proof.Machine

/-! PROOFS. The field of the Stitch code, and what its four syndromes say of a word (R384, R386, R387). -/

namespace Sys2Proof.Machine

/-! ### The smallest index that passes a test -/

theorem firstBelow_spec {p : Nat → Bool} : ∀ {n k : Nat}, firstBelow p n = some k → k < n ∧ p k = true ∧ ∀ j, j < k → p j = false
  | n + 1, k, h => by
    simp only [firstBelow] at h
    split at h
    next j found =>
      obtain ⟨below, holds, least⟩ := firstBelow_spec found
      cases h
      exact ⟨Nat.lt_succ_of_lt below, holds, least⟩
    next none_ =>
      split at h
      next holds =>
        cases h
        exact ⟨Nat.lt_succ_self n, holds, firstBelow_eq_none none_⟩
      next => cases h
where
  /-- Where none is found, none below the bound passes. -/
  firstBelow_eq_none {p : Nat → Bool} : ∀ {n : Nat}, firstBelow p n = none → ∀ j, j < n → p j = false
  | n + 1, h, j, hj => by
    simp only [firstBelow] at h
    split at h
    next => cases h
    next none_ =>
      split at h
      next => cases h
      next fails =>
        rcases Nat.lt_succ_iff_lt_or_eq.mp hj with below | rfl
        · exact firstBelow_eq_none none_ j below
        · exact Bool.eq_false_iff.mpr fails

/-- The one index that passes is the one found. -/
theorem firstBelow_of_unique {p : Nat → Bool} {n k : Nat} (below : k < n) (holds : p k = true) (unique : ∀ j, j < n → p j = true → j = k) :
    firstBelow p n = some k := by
  rcases found : firstBelow p n with _ | j
  · rw [firstBelow_spec.firstBelow_eq_none found k below] at holds
    cases holds
  · obtain ⟨hj, passes, _⟩ := firstBelow_spec found
    rw [unique j hj passes]

/-! ### Sums of bytes (R384) -/

/-- A map of bytes that takes sums to sums. -/
def additive (f : Nat → Nat) : Prop := ∀ a b, a < 256 → b < 256 → f (a ^^^ b) = f a ^^^ f b

theorem additive.zero {f : Nat → Nat} (h : additive f) : f 0 = 0 := by
  have := h 0 0 (by decide) (by decide)
  rwa [Nat.xor_self, Nat.xor_self] at this

/-- Taking the top bit off a number. -/
theorem xor_two_pow_lt {n a : Nat} (top : 2 ^ n ≤ a) (h : a < 2 ^ (n + 1)) : a ^^^ 2 ^ n < 2 ^ n := by
  refine Nat.lt_pow_two_of_testBit _ fun i hi => ?_
  rw [Nat.testBit_xor, Nat.testBit_two_pow]
  rcases Nat.eq_or_lt_of_le hi with rfl | hi
  · rw [Nat.testBit_of_two_pow_le_and_two_pow_add_one_gt top h]
    simp
  · rw [Nat.testBit_lt_two_pow (Nat.lt_of_lt_of_le h (Nat.pow_le_pow_right (by decide) hi))]
    simp [Nat.ne_of_lt hi]

/-- Two additive maps that agree on the eight bits of a byte agree on every byte. -/
theorem additive.ext {f g : Nat → Nat} (hf : additive f) (hg : additive g) (h : ∀ i, i < 8 → f (2 ^ i) = g (2 ^ i)) :
    ∀ n, n ≤ 8 → ∀ a, a < 2 ^ n → f a = g a
  | 0, _, a, ha => by
    rw [Nat.lt_one_iff.mp ha, hf.zero, hg.zero]
  | n + 1, hn, a, ha => by
    rcases Nat.lt_or_ge a (2 ^ n) with low | top
    · exact additive.ext hf hg h n (Nat.le_of_succ_le hn) a low
    · have le : 2 ^ n ≤ 2 ^ 7 := Nat.pow_le_pow_right (by decide) (by omega)
      have rest := xor_two_pow_lt top ha
      rw [← Nat.xor_xor_cancel_right a (2 ^ n), hf _ _ (by omega) (by omega), hg _ _ (by omega) (by omega),
        additive.ext hf hg h n (Nat.le_of_succ_le hn) _ rest, h n (by omega)]

/-! ### The product in GF(2^8) (R384) -/

/-- A byte times α. -/
def gfTwice (a : Nat) : Nat := if a < 128 then 2 * a else (2 * a) ^^^ 0x11D

theorem gfTwice_lt {a : Nat} (h : a < 256) : gfTwice a < 256 := by
  have all : ∀ a < 256, gfTwice a < 256 := by decide +kernel
  exact all a h

theorem lt_128_iff {a : Nat} (h : a < 256) : a < 128 ↔ a.testBit 7 = false := by
  have all : ∀ a < 256, (a < 128 ↔ a.testBit 7 = false) := by decide +kernel
  exact all a h

theorem gfTwice_additive : additive gfTwice := fun a b ha hb => by
  have hab : a ^^^ b < 256 := Nat.xor_lt_two_pow (n := 8) ha hb
  have double : 2 * (a ^^^ b) = 2 * a ^^^ 2 * b := by
    simpa only [Nat.shiftLeft_eq, Nat.pow_one, Nat.mul_comm] using Nat.shiftLeft_xor_distrib (a := a) (b := b) (i := 1)
  simp only [gfTwice, lt_128_iff ha, lt_128_iff hb, lt_128_iff hab, Nat.testBit_xor, double]
  cases a.testBit 7 <;> cases b.testBit 7
  case true.true =>
    rw [if_pos (by decide), if_neg (by decide), if_neg (by decide), ← Nat.xor_assoc, Nat.xor_right_comm (2 * a), Nat.xor_xor_cancel_right]
  case false.false => rfl
  case false.true => exact Nat.xor_assoc _ _ _
  case true.false => exact Nat.xor_right_comm _ _ _

theorem gfMulLoop_additive : ∀ (n y : Nat) {a b d e : Nat}, a < 256 → b < 256 →
    gfMulLoop n (a ^^^ b) y (d ^^^ e) = gfMulLoop n a y d ^^^ gfMulLoop n b y e
  | 0, _, _, _, _, _, _, _ => rfl
  | n + 1, y, a, b, d, e, ha, hb => by
    have taken : (if y % 2 = 1 then (d ^^^ e) ^^^ (a ^^^ b) else d ^^^ e) =
        (if y % 2 = 1 then d ^^^ a else d) ^^^ (if y % 2 = 1 then e ^^^ b else e) := by
      split
      · ac_rfl
      · rfl
    have h := gfMulLoop_additive n (y / 2) (d := if y % 2 = 1 then d ^^^ a else d) (e := if y % 2 = 1 then e ^^^ b else e)
      (gfTwice_lt ha) (gfTwice_lt hb)
    rw [← gfTwice_additive a b ha hb, ← taken] at h
    exact h

/-- The product is additive in its first factor. -/
theorem gfMul_additive (y : Nat) : additive fun a => gfMul a y := fun _ _ ha hb => gfMulLoop_additive 8 y (d := 0) (e := 0) ha hb

@[simp] theorem gfMul_zero_left (y : Nat) : gfMul 0 y = 0 := (gfMul_additive y).zero

theorem gfMulLoop_lt : ∀ (n y : Nat) {a d : Nat}, a < 256 → d < 256 → gfMulLoop n a y d < 256
  | 0, _, _, _, _, hd => hd
  | n + 1, y, a, d, ha, hd => by
    refine gfMulLoop_lt n (y / 2) (gfTwice_lt ha) ?_
    split
    · exact Nat.xor_lt_two_pow (n := 8) hd ha
    · exact hd

theorem gfMul_lt {a : Nat} (y : Nat) (h : a < 256) : gfMul a y < 256 := gfMulLoop_lt 8 y h (by decide)

@[simp] theorem gfMul_one (a : Nat) : gfMul a 1 = a := by
  simp [gfMul, gfMulLoop]

theorem gfPow_lt : ∀ n, gfPow n < 256
  | 0 => by decide
  | n + 1 => gfMul_lt 2 (gfPow_lt n)

theorem gfMul_gfMul_two {a y : Nat} (ha : a < 256) (hy : y < 256) : gfMul a (gfMul y 2) = gfMul (gfMul a y) 2 := by
  have bits : ∀ y < 256, ∀ i < 8, gfMul (2 ^ i) (gfMul y 2) = gfMul (gfMul (2 ^ i) y) 2 := by decide +kernel
  refine additive.ext (g := fun a => gfMul (gfMul a y) 2) (gfMul_additive _) (fun a b ha hb => ?_) (bits y hy) 8 (Nat.le_refl 8) a ha
  exact (congrArg (gfMul · 2) (gfMul_additive y a b ha hb)).trans (gfMul_additive 2 _ _ (gfMul_lt y ha) (gfMul_lt y hb))

/-- Factors that are powers of α multiply by adding their exponents. -/
theorem gfMul_gfPow_add {v : Nat} (hv : v < 256) (m : Nat) : ∀ n, gfMul (gfMul v (gfPow m)) (gfPow n) = gfMul v (gfPow (m + n))
  | 0 => gfMul_one _
  | n + 1 => by
    have step (w k : Nat) (hw : w < 256) : gfMul w (gfPow (k + 1)) = gfMul (gfMul w (gfPow k)) 2 := gfMul_gfMul_two hw (gfPow_lt k)
    rw [step _ n (gfMul_lt _ hv), gfMul_gfPow_add hv m n, ← Nat.add_assoc, step v _ hv]

theorem gfMul_gfPow_ne_zero {v : Nat} (hv : v < 256) (h : v ≠ 0) : ∀ n, gfMul v (gfPow n) ≠ 0
  | 0 => by rwa [gfPow, gfMul_one]
  | n + 1 => by
    have twice : ∀ w < 256, w ≠ 0 → gfMul w 2 ≠ 0 := by decide +kernel
    rw [gfPow, gfMul_gfMul_two hv (gfPow_lt n)]
    exact twice _ (gfMul_lt _ hv) (gfMul_gfPow_ne_zero hv h n)

/-- The first 36 powers of α differ, whatever they are multiplied with. -/
theorem gfMul_gfPow_inj {v p q : Nat} (hv : v < 256) (h : v ≠ 0) (hp : p < 36) (hq : q < 36)
    (same : gfMul v (gfPow p) = gfMul v (gfPow q)) : p = q := by
  have moves : ∀ w < 256, w ≠ 0 → ∀ k < 36, k ≠ 0 → gfMul w (gfPow k) ≠ w := by decide +kernel
  have apart {p q : Nat} (lt : p < q) (hq : q < 36) : gfMul v (gfPow p) ≠ gfMul v (gfPow q) := fun same => by
    refine moves _ (gfMul_lt (gfPow p) hv) (gfMul_gfPow_ne_zero hv h p) (q - p) (by omega) (by omega) ?_
    rw [gfMul_gfPow_add hv, Nat.add_sub_cancel' (Nat.le_of_lt lt), same]
  rcases Nat.lt_trichotomy p q with lt | rfl | lt
  · exact absurd same (apart lt hq)
  · rfl
  · exact absurd same.symm (apart lt hp)

/-! ### The syndromes of a word (R386) -/

theorem symbolOf_lt (r : BitVec 32) (j : Nat) : symbolOf r j < 256 := Nat.mod_lt _ (by decide)

theorem syndrome_eq (r : BitVec 32) (i : Nat) : syndrome r i =
    gfMul (symbolOf r 0) (gfPow (i * 0)) ^^^ gfMul (symbolOf r 1) (gfPow (i * 1)) ^^^ gfMul (symbolOf r 2) (gfPow (i * 2))
      ^^^ gfMul (symbolOf r 3) (gfPow (i * 3)) := by
  simp [syndrome, List.range_succ]

theorem syndrome_lt (r : BitVec 32) (i : Nat) : syndrome r i < 256 := by
  have term (j : Nat) : gfMul (symbolOf r j) (gfPow (i * j)) < 2 ^ 8 := gfMul_lt _ (symbolOf_lt r j)
  rw [syndrome_eq]
  exact Nat.xor_lt_two_pow (Nat.xor_lt_two_pow (Nat.xor_lt_two_pow (term 0) (term 1)) (term 2)) (term 3)

/-- The syndromes are those of an error of value `v` in the one symbol of coefficient position `pos`. -/
def loneError (r : BitVec 32) (pos v : Nat) : Prop := ∀ i, i < 4 → syndrome r i = gfMul v (gfPow (i * pos))

theorem loneError.value {r : BitVec 32} {pos v : Nat} (h : loneError r pos v) : v = syndrome r 0 := by
  rw [h 0 (by decide), Nat.zero_mul, gfPow, gfMul_one]

/-- What the decoder tests of a position is that the error lies there. -/
theorem loneError_iff (r : BitVec 32) (pos : Nat) : loneError r pos (syndrome r 0) ↔
    syndrome r 1 = gfMul (syndrome r 0) (gfPow pos) ∧ syndrome r 2 = gfMul (syndrome r 1) (gfPow pos) ∧
      syndrome r 3 = gfMul (syndrome r 2) (gfPow pos) := by
  have next (i : Nat) : gfMul (gfMul (syndrome r 0) (gfPow (i * pos))) (gfPow pos) = gfMul (syndrome r 0) (gfPow ((i + 1) * pos)) := by
    rw [gfMul_gfPow_add (syndrome_lt r 0), Nat.succ_mul]
  constructor
  · intro h
    refine ⟨?_, ?_, ?_⟩
    · rw [h 1 (by decide), Nat.one_mul]
    · rw [h 2 (by decide), h 1 (by decide), next]
    · rw [h 3 (by decide), h 2 (by decide), next]
  · rintro ⟨one, two, three⟩ i hi
    have one' : syndrome r 1 = gfMul (syndrome r 0) (gfPow (1 * pos)) := by rw [one, Nat.one_mul]
    have two' : syndrome r 2 = gfMul (syndrome r 0) (gfPow (2 * pos)) := by rw [two, one', next]
    match i with
    | 0 => rw [Nat.zero_mul, gfPow, gfMul_one]
    | 1 => exact one'
    | 2 => exact two'
    | 3 => rw [three, two', next]

theorem singleError_of_loneError {r : BitVec 32} {pos v : Nat} (hp : pos < 36) (hv : v ≠ 0) (h : loneError r pos v) :
    singleError r = some (pos, v) := by
  obtain rfl := h.value
  have found : firstBelow (fun p => decide (syndrome r 1 = gfMul (syndrome r 0) (gfPow p)) && decide (syndrome r 2 =
      gfMul (syndrome r 1) (gfPow p)) && decide (syndrome r 3 = gfMul (syndrome r 2) (gfPow p))) 36 = some pos := by
    refine firstBelow_of_unique hp ?_ fun q hq other => ?_
    · simpa [and_assoc] using (loneError_iff r pos).mp h
    · have one : syndrome r 1 = gfMul (syndrome r 0) (gfPow q) := by
        simp only [Bool.and_eq_true, decide_eq_true_eq] at other
        exact other.1.1
      exact gfMul_gfPow_inj (syndrome_lt r 0) hv hq hp (one.symm.trans ((loneError_iff r pos).mp h).1)
  simp only [singleError, if_neg hv, found]

theorem loneError_of_singleError {r : BitVec 32} {pos v : Nat} (h : singleError r = some (pos, v)) :
    pos < 36 ∧ v = syndrome r 0 ∧ loneError r pos v := by
  simp only [singleError] at h
  split at h
  next => cases h
  next =>
    split at h
    next found =>
      cases h
      obtain ⟨below, holds, _⟩ := firstBelow_spec found
      refine ⟨below, rfl, (loneError_iff r pos).mpr ?_⟩
      simpa [and_assoc] using holds
    next => cases h

/-! ### Words without an error (R386) -/

/-- The coefficients that give back check symbol `j` from the syndromes: the inverse of the matrix of the powers of α. -/
def unsyndrome (j i : Nat) : Nat :=
  nth 0 (nth [] [[43, 183, 228, 121], [183, 33, 4, 146], [228, 4, 169, 73], [121, 146, 73, 162]] j) i

/-- What the coefficients of symbol `j` make of the syndromes. -/
def resolved (j : Nat) (s : Nat → Nat) : Nat :=
  gfMul (s 0) (unsyndrome j 0) ^^^ gfMul (s 1) (unsyndrome j 1) ^^^ gfMul (s 2) (unsyndrome j 2) ^^^ gfMul (s 3) (unsyndrome j 3)

theorem resolved_xor (j : Nat) {s t : Nat → Nat} (hs : ∀ i, s i < 256) (ht : ∀ i, t i < 256) :
    resolved j (fun i => s i ^^^ t i) = resolved j s ^^^ resolved j t := by
  simp only [resolved, fun i => gfMul_additive (unsyndrome j i) (s i) (t i) (hs i) (ht i)]
  ac_rfl

/-- Of the syndromes of one check symbol, the coefficients give back that symbol in its place and nothing elsewhere. -/
theorem resolved_symbol {j k a : Nat} (hj : j < 4) (hk : k < 4) (ha : a < 256) :
    resolved j (fun i => gfMul a (gfPow (i * k))) = if j = k then a else 0 := by
  have bits : ∀ j < 4, ∀ k < 4, ∀ i < 8, resolved j (fun n => gfMul (2 ^ i) (gfPow (n * k))) = if j = k then 2 ^ i else 0 := by
    decide +kernel
  refine additive.ext (f := fun a => resolved j fun i => gfMul a (gfPow (i * k))) (g := fun a => if j = k then a else 0)
    (fun a b ha hb => ?_) (fun a b _ _ => ?_) (bits j hj k hk) 8 (Nat.le_refl 8) a ha
  · simp only [fun i => gfMul_additive (gfPow (i * k)) a b ha hb]
    exact resolved_xor j (fun i => gfMul_lt _ ha) fun i => gfMul_lt _ hb
  · split
    · rfl
    · exact (Nat.xor_self 0).symm

/-- The syndromes determine the check symbols. -/
theorem resolved_syndrome (r : BitVec 32) {j : Nat} (hj : j < 4) : resolved j (syndrome r) = symbolOf r j := by
  have byte (k i : Nat) : gfMul (symbolOf r k) (gfPow (i * k)) < 2 ^ 8 := gfMul_lt _ (symbolOf_lt r k)
  have two (i : Nat) := Nat.xor_lt_two_pow (byte 0 i) (byte 1 i)
  have three (i : Nat) := Nat.xor_lt_two_pow (two i) (byte 2 i)
  rw [funext (syndrome_eq r), resolved_xor j three (byte 3), resolved_xor j two (byte 2), resolved_xor j (byte 0) (byte 1)]
  simp only [resolved_symbol hj (show 0 < 4 by decide) (symbolOf_lt r 0), resolved_symbol hj (show 1 < 4 by decide) (symbolOf_lt r 1),
    resolved_symbol hj (show 2 < 4 by decide) (symbolOf_lt r 2), resolved_symbol hj (show 3 < 4 by decide) (symbolOf_lt r 3)]
  match j, hj with
  | 0, _ => simp
  | 1, _ => simp
  | 2, _ => simp
  | 3, _ => simp

/-- A word whose syndromes are all zero has its check symbols as its data calls for. -/
theorem eq_zero_of_syndrome {r : BitVec 32} (h : ∀ i, i < 4 → syndrome r i = 0) : r = 0 := by
  have symbol {j : Nat} (hj : j < 4) : symbolOf r j = 0 := by
    rw [← resolved_syndrome r hj, resolved, h 0 (by decide), h 1 (by decide), h 2 (by decide), h 3 (by decide)]
    simp
  refine BitVec.eq_of_toNat_eq ?_
  have h0 := symbol (j := 0) (by decide)
  have h1 := symbol (j := 1) (by decide)
  have h2 := symbol (j := 2) (by decide)
  have h3 := symbol (j := 3) (by decide)
  have lt := r.isLt
  simp only [symbolOf, Nat.shiftRight_eq_div_pow] at h0 h1 h2 h3
  show r.toNat = 0
  omega

/-! ### What decoding says (R386, R387) -/

theorem not_loneError_poisonMark {pos : Nat} (hp : pos < 36) (v : Nat) : ¬loneError poisonMark pos v := fun h => by
  have none_ : ∀ pos < 36, syndrome poisonMark 1 ≠ gfMul (syndrome poisonMark 0) (gfPow pos) := by decide +kernel
  refine none_ pos hp ?_
  have := h 1 (by decide)
  rwa [Nat.one_mul, h.value] at this

theorem decodeWord_corrects {r : BitVec 32} {pos v : Nat} (hp : pos < 36) (hv : v ≠ 0) (h : loneError r pos v) :
    decodeWord r = .corrected pos v := by
  have dirty : r ≠ 0 := by
    rintro rfl
    exact hv (h.value.trans (by decide))
  have unmarked : r ≠ poisonMark := by
    rintro rfl
    exact not_loneError_poisonMark hp v h
  rw [decodeWord, if_neg dirty, if_neg unmarked, singleError_of_loneError hp hv h]

theorem loneError_of_decodeWord {r : BitVec 32} {pos v : Nat} (h : decodeWord r = .corrected pos v) :
    pos < 36 ∧ v = syndrome r 0 ∧ loneError r pos v := by
  unfold decodeWord at h
  split at h
  next => cases h
  next =>
    split at h
    next => cases h
    next =>
      split at h
      next found =>
        cases h
        exact loneError_of_singleError found
      next => cases h

end Sys2Proof.Machine

/-! PROOFS. What a fault leaves as it was, the words of the channels, and the reads of channels and on-die arrays (R386-R397, R472-R475). -/

namespace Sys2Proof.Machine

/-! ### Faults write registers, the power state and the journal, and say what is due (R472-R475) -/

/-- The adapter `d` is `c` but for its registers, what the power state and the command processor keep, and what is due. -/
def Chip.LogsOnly (c d : Chip) : Prop :=
  ∃ regs pwr cmd due, d = { c with regs := regs, pwr := pwr, cmd := cmd, due := due }

section
variable {c d : Chip}

theorem Chip.LogsOnly.refl (c : Chip) : c.LogsOnly c := ⟨c.regs, c.pwr, c.cmd, c.due, rfl⟩

theorem Chip.LogsOnly.trans {e : Chip} (h : c.LogsOnly d) (h' : d.LogsOnly e) : c.LogsOnly e := by
  obtain ⟨_, _, _, _, rfl⟩ := h
  obtain ⟨r, p, m, u, rfl⟩ := h'
  exact ⟨r, p, m, u, rfl⟩

theorem Chip.LogsOnly.mem (h : c.LogsOnly d) : d.mem = c.mem := by
  obtain ⟨_, _, _, _, rfl⟩ := h
  rfl

section
variable (h : c.LogsOnly d)
include h

theorem Chip.LogsOnly.wr (a : Nat) (v : Word) : c.LogsOnly (d.wr a v) := h.trans ⟨_, d.pwr, d.cmd, d.due, rfl⟩

theorem Chip.LogsOnly.set (a : Nat) (f : Fld) (v : Nat) : c.LogsOnly (d.set a f v) := h.wr _ _

theorem Chip.LogsOnly.inc (a : Nat) : c.LogsOnly (d.inc a) := h.set _ _ _

theorem Chip.LogsOnly.pwr (x : PwrSt) : c.LogsOnly { d with pwr := x } := h.trans ⟨d.regs, x, d.cmd, d.due, rfl⟩

theorem Chip.LogsOnly.cmd (x : CmdSt) : c.LogsOnly { d with cmd := x } := h.trans ⟨d.regs, d.pwr, x, d.due, rfl⟩

theorem Chip.LogsOnly.due (x : List Due) : c.LogsOnly { d with due := x } := h.trans ⟨d.regs, d.pwr, d.cmd, x, rfl⟩

theorem Chip.LogsOnly.journal (now : Nat) (e : JEvent) : c.LogsOnly (d.journal now e) := (h.cmd _).wr _ _

theorem Chip.LogsOnly.storm (now id window : Nat) (meets : Nat → Bool) : c.LogsOnly (d.storm now id window meets).2 := h.pwr _

theorem Chip.LogsOnly.record (now code cls : Nat) (esc : Bool) (isl dom slice : Nat) (detail : Word) :
    c.LogsOnly (d.record now code cls esc isl dom slice detail) := by
  unfold Chip.record
  extract_lets head tail room w0 seq base journaled a written
  have space : c.LogsOnly room := by
    unfold room
    split
    · exact (h.set _ _ _).inc _
    · exact h
  have entry : c.LogsOnly written := ((((space.journal now _).wr a w0).wr _ _).wr _ _).wr _ _
  exact ((entry.set _ _ _).inc _).pwr _

theorem Chip.LogsOnly.raise1 (now : Nat) (f : FaultKind) (isl dom slice : Nat) (detail : Word) :
    c.LogsOnly (d.raise1 now f isl dom slice detail) := by
  unfold Chip.raise1
  extract_lets target esc cls
  split
  · exact h.set _ _ _
  · have recorded := h.record now f.code cls esc isl dom slice detail
    split
    · exact recorded.due _
    · exact recorded

theorem Chip.LogsOnly.raise (now : Nat) (f : FaultKind) (isl dom slice : Nat) (detail : Word) :
    c.LogsOnly (d.raise now f isl dom slice detail) := by
  unfold Chip.raise
  extract_lets raised limit
  have once : c.LogsOnly raised := h.raise1 now f isl dom slice detail
  split
  · have counted : c.LogsOnly (raised.storm now (Storm.deferred isl) (ns 1000000000) fun n => decide (limit < n)).2 := once.storm ..
    split
    next hit e storm =>
      rw [storm] at counted
      split
      · exact counted.raise1 ..
      · exact counted
  · exact once

theorem Chip.LogsOnly.logQdr (now ch cw port source : Nat) (r : BitVec 32) : c.LogsOnly (d.logQdr now ch cw port source r) := by
  unfold Chip.logQdr
  extract_lets a word logged
  split
  · exact h.set _ _ _
  · have word : c.LogsOnly word := ((h.set _ _ _).set _ _ _).set _ _ _
    exact ((word.set _ _ _).set _ _ _).wr _ _

theorem Chip.LogsOnly.logSram (now a w source : Nat) (r : BitVec 32) : c.LogsOnly (d.logSram now a w source r) := by
  unfold Chip.logSram
  extract_lets word logged
  split
  · exact h.set _ _ _
  · have word : c.LogsOnly word := ((h.set _ _ _).set _ _ _).set _ _ _
    exact ((word.set _ _ _).wr _ _).wr _ _

end
end

@[simp] theorem Chip.storm_mem (c : Chip) (now id window : Nat) (meets : Nat → Bool) : (c.storm now id window meets).2.mem = c.mem := rfl

@[simp] theorem Chip.raise_mem (c : Chip) (now : Nat) (f : FaultKind) (isl dom slice : Nat) (detail : Word) :
    (c.raise now f isl dom slice detail).mem = c.mem := ((Chip.LogsOnly.refl c).raise ..).mem

/-- A fault raised or not leaves the memories. -/
theorem Chip.raise_if_mem (c : Chip) (hit : Bool) (now : Nat) (f : FaultKind) (isl dom slice : Nat) (detail : Word) :
    (if hit then c.raise now f isl dom slice detail else c).mem = c.mem := by
  split
  · exact c.raise_mem ..
  · rfl

@[simp] theorem Chip.logQdr_mem (c : Chip) (now ch cw port source : Nat) (r : BitVec 32) : (c.logQdr now ch cw port source r).mem = c.mem :=
  ((Chip.LogsOnly.refl c).logQdr ..).mem

@[simp] theorem Chip.logSram_mem (c : Chip) (now a w source : Nat) (r : BitVec 32) : (c.logSram now a w source r).mem = c.mem :=
  ((Chip.LogsOnly.refl c).logSram ..).mem

/-! ### The words of an engine and of its channels (R394) -/

/-- Two numbers below 4, combined as R394 combines them, stay below 4. -/
theorem xor_mod_lt (x y : Nat) : (x % 4) ^^^ (y % 4) < 4 :=
  Nat.xor_lt_two_pow (n := 2) (Nat.mod_lt _ (by decide)) (Nat.mod_lt _ (by decide))

theorem qdrChannelWord_eq {w : Nat} (h : w < 2 ^ 23) : qdrChannelWord w = w / 4 := Nat.mod_eq_of_lt (by omega)

theorem qdrChannel_mod (e w : Nat) : qdrChannel e w % 4 = (w % 4) ^^^ (w / 4 % 4) := by
  have := xor_mod_lt w (w / 4)
  unfold qdrChannel
  omega

theorem qdrChannel_div (e w : Nat) : qdrChannel e w / 4 = e := by
  have := xor_mod_lt w (w / 4)
  unfold qdrChannel
  omega

/-- A channel and a channel word name the word that lies there. -/
theorem qdrWordOf_qdrChannel (e : Nat) {w : Nat} (h : w < 2 ^ 23) : qdrWordOf (qdrChannel e w) (qdrChannelWord w) = w := by
  rw [qdrWordOf, qdrChannelWord_eq h, qdrChannel_mod, Nat.xor_xor_cancel_right]
  omega

theorem qdrChannel_succ_ne (e : Nat) {w : Nat} (h : w % 4 ≠ 3) : qdrChannel e (w + 1) ≠ qdrChannel e w := fun same => by
  have same' := congrArg (· % 4) same
  simp only [qdrChannel_mod, show (w + 1) / 4 = w / 4 by omega] at same'
  have := Nat.xor_left_inj.mp same'
  omega

theorem qdrChannel_add_four_ne (e w : Nat) : qdrChannel e (w + 4) ≠ qdrChannel e w := fun same => by
  have same' := congrArg (· % 4) same
  simp only [qdrChannel_mod, show (w + 4) % 4 = w % 4 by omega] at same'
  have := Nat.xor_right_inj.mp same'
  omega

/-! ### Reads of a channel (R386, R389, R390, R397) -/

/-- What the differences stored for channel words are. -/
theorem Chip.qres_congr {c d : Chip} (h : d.mem.stitchQ = c.mem.stitchQ) (ch cw : Nat) : d.qres ch cw = c.qres ch cw := by
  rw [Chip.qres, h, Chip.qres]

@[simp] theorem Chip.qres_setQres_self (c : Chip) (ch cw : Nat) (r : BitVec 32) : (c.setQres ch cw r).qres ch cw = r := mget_mset_self ..

theorem Chip.qres_setQres_ne (c : Chip) {ch cw k x : Nat} (r : BitVec 32) (other : k ≠ ch ∨ x ≠ cw) (hx : x < 2 ^ 21) (hw : cw < 2 ^ 21) :
    (c.setQres ch cw r).qres k x = c.qres k x := mget_mset_ne _ _ _ (by omega)

@[simp] theorem Chip.portOut_stitchQ (c : Chip) (ch p : Nat) : (c.portOut ch p).mem.stitchQ = c.mem.stitchQ := by
  unfold Chip.portOut
  split <;> rfl

@[simp] theorem Chip.portOut_qdr (c : Chip) (ch p : Nat) : (c.portOut ch p).mem.qdr = c.mem.qdr := by
  unfold Chip.portOut
  split <;> rfl

section
variable {c : Chip} {now ch cw source slice : Nat}

theorem Chip.readChan_clean (h : decodeWord (c.qres ch cw) = .clean) : c.readChan now ch cw source slice = (false, c) := by
  rw [Chip.readChan, h]

theorem Chip.readChan_marked (h : decodeWord (c.qres ch cw) = .marked) :
    c.readChan now ch cw source slice = (true, c.inc (A.MC_POISON_SEEN ch)) := by
  rw [Chip.readChan, h]

theorem Chip.readChan_uncorrectable (h : decodeWord (c.qres ch cw) = .uncorrectable) :
    c.readChan now ch cw source slice = (true,
      (((((c.logQdr now ch cw (c.qPort ch) source (c.qres ch cw)).setQres ch cw poisonMark).inc (A.MC_UNCORRECTED ch)).inc
        (A.MC_WRITEBACKS ch)).raise now Flt.MC_QDR_UE 22 (40 + ch) slice 0)) := by
  rw [Chip.readChan, h]

/-- The byte that an error of a channel word's data symbol lies in. -/
def qdrSymbolByte (ch cw pos : Nat) : Nat := qdrByte (ch / 4) (qdrWordOf ch cw) + (pos - 4)

/-- A corrected word is delivered; its difference is cleared, and its data symbol, where the error lay in one, is put right. -/
theorem Chip.readChan_corrected {pos v : Nat} (h : decodeWord (c.qres ch cw) = .corrected pos v) :
    (c.readChan now ch cw source slice).1 = false ∧
    (c.readChan now ch cw source slice).2.mem.stitchQ = (c.setQres ch cw 0).mem.stitchQ ∧
    (c.readChan now ch cw source slice).2.mem.qdr = if pos < 4 then c.mem.qdr
      else mset 0 c.mem.qdr (qdrSymbolByte ch cw pos) (rdByte c.mem.qdr (qdrSymbolByte ch cw pos) ^^^ BitVec.ofNat 8 v) := by
  rw [Chip.readChan, h]
  dsimp only
  refine ⟨rfl, ?_, ?_⟩
  · split <;> split <;> simp only [Chip.portOut_stitchQ, Chip.raise_mem, Chip.storm_mem] <;> rfl
  · split <;> split <;> simp only [Chip.portOut_qdr, Chip.raise_mem, Chip.storm_mem] <;> rfl

theorem Chip.readChan_symbol {pos v : Nat} (h : decodeWord (c.qres ch cw) = .corrected pos v) :
    rdByte (c.readChan now ch cw source slice).2.mem.qdr (qdrSymbolByte ch cw pos) =
      rdByte c.mem.qdr (qdrSymbolByte ch cw pos) ^^^ (if pos < 4 then 0 else BitVec.ofNat 8 v) := by
  rw [(Chip.readChan_corrected h).2.2]
  split
  · exact (BitVec.xor_zero).symm
  · exact mget_mset_self _ _ _ _

/-- A read changes the difference of no other word. -/
theorem Chip.readChan_other {k x : Nat} (other : k ≠ ch ∨ x ≠ cw) (hx : x < 2 ^ 21) (hw : cw < 2 ^ 21) :
    (c.readChan now ch cw source slice).2.qres k x = c.qres k x := by
  have keeps (r : BitVec 32) := c.qres_setQres_ne r other hx hw
  rcases h : decodeWord (c.qres ch cw) with _ | _ | ⟨pos, v⟩ | _
  · rw [Chip.readChan_clean h]
  · rw [Chip.readChan_marked h]
    rfl
  · rw [← keeps 0]
    exact Chip.qres_congr (Chip.readChan_corrected h).2.1 k x
  · rw [Chip.readChan_uncorrectable h, ← keeps poisonMark]
    refine Chip.qres_congr ?_ k x
    simp [Chip.setQres]

end

/-! ### Reads of an on-die array (R386, R389, R390) -/

theorem Chip.sram_congr {c d : Chip} (h : d.mem.stitchS = c.mem.stitchS) (a w : Nat) : d.sram a w = c.sram a w := by
  rw [Chip.sram, h, Chip.sram]

@[simp] theorem Chip.sram_setSram_self (c : Chip) (a w : Nat) (r : BitVec 32) : (c.setSram a w r).sram a w = r := mget_mset_self ..

theorem Chip.sram_setSram_ne (c : Chip) {a w b x : Nat} (r : BitVec 32) (other : b ≠ a ∨ x ≠ w) (hx : x < 2 ^ 24) (hw : w < 2 ^ 24) :
    (c.setSram a w r).sram b x = c.sram b x := mget_mset_ne _ _ _ (by omega)

@[simp] theorem Chip.fixSram_stitchS (c : Chip) (a w k v : Nat) : (c.fixSram a w k v).mem.stitchS = c.mem.stitchS := by
  unfold Chip.fixSram
  dsimp only
  split_ifs <;> rfl

section
variable {c : Chip} {now a w source slice : Nat}

theorem Chip.readSram_clean (h : decodeWord (c.sram a w) = .clean) : c.readSram now a w source slice = (false, c) := by
  rw [Chip.readSram, h]

theorem Chip.readSram_marked (h : decodeWord (c.sram a w) = .marked) :
    c.readSram now a w source slice = (true, c.inc (A.MC_SRAM_ARRAY a + 16)) := by
  rw [Chip.readSram, h]

theorem Chip.readSram_uncorrectable (h : decodeWord (c.sram a w) = .uncorrectable) :
    c.readSram now a w source slice = (true,
      (((((c.logSram now a w source (c.sram a w)).setSram a w poisonMark).inc (A.MC_SRAM_ARRAY a + 8)).inc
        (A.MC_SRAM_ARRAY a + 24)).raise now Flt.MC_SRAM_UE (arrayIsland a) (arrayDomain a) slice 0)) := by
  rw [Chip.readSram, h]

/-- A corrected word is delivered and its difference cleared. -/
theorem Chip.readSram_corrected {pos v : Nat} (h : decodeWord (c.sram a w) = .corrected pos v) :
    (c.readSram now a w source slice).1 = false ∧ (c.readSram now a w source slice).2.mem.stitchS = (c.setSram a w 0).mem.stitchS := by
  rw [Chip.readSram, h]
  dsimp only
  have mended : (if pos < 4 then c else c.fixSram a w (pos - 4) v).mem.stitchS = c.mem.stitchS := by
    split
    · rfl
    · exact Chip.fixSram_stitchS ..
  have cleared : ((if pos < 4 then c else c.fixSram a w (pos - 4) v).setSram a w 0).mem.stitchS = (c.setSram a w 0).mem.stitchS :=
    congrArg (fun m => mset 0 m (2 ^ 24 * a + w) 0) mended
  exact ⟨rfl, (congrArg MemSt.stitchS (Chip.raise_if_mem ..)).trans cleared⟩

/-- A read changes the difference of no other word. -/
theorem Chip.readSram_other {b x : Nat} (other : b ≠ a ∨ x ≠ w) (hx : x < 2 ^ 24) (hw : w < 2 ^ 24) :
    (c.readSram now a w source slice).2.sram b x = c.sram b x := by
  have keeps (r : BitVec 32) := c.sram_setSram_ne r other hx hw
  rcases h : decodeWord (c.sram a w) with _ | _ | ⟨pos, v⟩ | _
  · rw [Chip.readSram_clean h]
  · rw [Chip.readSram_marked h]
    rfl
  · rw [← keeps 0]
    exact Chip.sram_congr (Chip.readSram_corrected h).2 b x
  · rw [Chip.readSram_uncorrectable h, ← keeps poisonMark]
    refine Chip.sram_congr ?_ b x
    simp [Chip.setSram]

end

/-- Settles O54: the decoder by the field of R384, the channels by R394's formula, the reads by what the decoder says. -/
theorem stitchCode : Obligations.StitchCode := by
  refine ⟨⟨fun r pos v hp hv _ h => decodeWord_corrects hp (Nat.ne_of_gt hv) h, fun pos v hp _ _ => not_loneError_poisonMark hp v,
      fun r h => by rw [eq_zero_of_syndrome h]; rfl, fun r pos v h => loneError_of_decodeWord h, rfl⟩,
    ⟨fun e w h => ⟨rfl, qdrChannelWord_eq h⟩, fun e w he hw => ⟨?_, qdrChannel_div e w, ?_, qdrWordOf_qdrChannel e hw⟩,
      fun e w => ⟨qdrChannel_succ_ne e, qdrChannel_add_four_ne e w⟩, fun e w v hw hv channel word => ?_⟩,
    fun c now ch cw a w source slice => ⟨Chip.readChan_clean, Chip.readChan_marked, fun pos v h => ?_, Chip.readChan_uncorrectable,
      fun k x => Chip.readChan_other, Chip.readSram_clean, Chip.readSram_marked, fun pos v h => ?_, Chip.readSram_uncorrectable,
      fun b x => Chip.readSram_other⟩⟩
  · have := qdrChannel_div e w
    omega
  · rw [qdrChannelWord_eq hw]
    omega
  · rw [← qdrWordOf_qdrChannel e hw, channel, word, qdrWordOf_qdrChannel e hv]
  · exact ⟨(Chip.readChan_corrected h).1, (Chip.qres_congr (Chip.readChan_corrected h).2.1 ch cw).trans (c.qres_setQres_self ch cw 0),
      Chip.readChan_symbol h⟩
  · exact ⟨(Chip.readSram_corrected h).1, (Chip.sram_congr (Chip.readSram_corrected h).2 a w).trans (c.sram_setSram_self a w 0)⟩

end Sys2Proof.Machine

/-! PROOFS. A command that PUTs words of one register, wherever it stands outside Mills, windows and the Scheduled Action Table (R31). -/

namespace Sys2Proof.Machine

/-! ### What storing an element changes -/

theorem mem_numbered {j : Nat} {ws : List Word} {w : Nat × Word} (h : w ∈ numbered j ws) : j ≤ w.1 ∧ w.1 < j + ws.length := by
  obtain ⟨x, hx, rfl⟩ := List.mem_map.mp h
  have := List.mem_zipIdx hx
  exact ⟨this.1, this.2.1⟩

/-- Storing an element writes registers and replaces armed values, and nothing else. -/
theorem Chip.storeElem_eq (c : Chip) (now : Nat) (e : Elem) :
    ∃ regs armed, c.storeElem now e = { c with regs := regs, ft := { c.ft with armed := armed } } := by
  unfold Chip.storeElem
  induction e.ws generalizing c with
  | nil => exact ⟨c.regs, c.ft.armed, rfl⟩
  | cons w ws ih =>
    rw [List.foldl_cons]
    obtain ⟨regs, armed, h⟩ := ih (c.wrNow now (e.base + 8 * w.1) (((e.row.fields.filter fun f => f.word == w.1).foldl
      (fieldPut (e.row.base == A.CE_CTX_BLOB 0) w.2) (c.rdAt now (e.base + 8 * w.1)))))
    exact ⟨regs, armed, h⟩

/-- What the fields of a register take changes registers and armed values, and nothing else. -/
theorem Chip.filled_eq (c : Chip) (now a : Nat) (ws : List Word) :
    ∃ regs armed, c.filled now a ws = { c with regs := regs, ft := { c.ft with armed := armed } } := by
  unfold Chip.filled
  split
  · exact c.storeElem_eq now _
  · exact ⟨c.regs, c.ft.armed, rfl⟩

theorem Chip.rd_storeElem_ne {e : Elem} {b : Nat} (other : ∀ w ∈ e.ws, b ≠ e.base + 8 * w.1) (c : Chip) (now : Nat) :
    (c.storeElem now e).rd b = c.rd b := by
  unfold Chip.storeElem
  revert other
  induction e.ws generalizing c with
  | nil => exact fun _ => rfl
  | cons w ws ih =>
    intro other
    rw [List.foldl_cons, ih _ fun x hx => other x (.tail _ hx)]
    exact Chip.rd_wr_ne _ _ (other w (.head _))

/-! ### Where registers stand -/

/-- All units of one block of 16 MiB outside the Mills answer alike. -/
theorem Chip.regUp_block (c : Chip) {a b : Nat} (same : a / 0x1000000 = b / 0x1000000) (outside : a / 0x10000000 ≠ 8) :
    c.regUp a = c.regUp b := by
  have region : a / 0x10000000 = b / 0x10000000 := by omega
  have endpoint : a % 0x10000000 / 0x8000000 = b % 0x10000000 / 0x8000000 := by omega
  have group : a % 0x10000000 / 0x1000000 = b % 0x10000000 / 0x1000000 := by omega
  have lower : a < 0xD8000000 ↔ b < 0xD8000000 := by omega
  unfold Chip.regUp
  rw [region, endpoint, group, if_congr lower rfl rfl]
  split
  case h_5 mills => exact absurd (region.trans mills) outside
  all_goals rfl

/-- Register `r` stands at `a`, outside the Mills, the Traffic Manager, the windows and the Scheduled Action Table. -/
structure RegRow.Stands (r : RegRow) (a : Nat) : Prop where
  aligned : a % 8 = 0
  region : a / 0x10000000 ≠ 6 ∧ a / 0x10000000 ≠ 8 ∧ a < 0xE0000000
  block : a % 0x1000000 + 8 * r.words ≤ 0x1000000
  plain : a + 8 * r.words ≤ A.FT_SAT 0 ∨ A.FT_SAT 1024 ≤ a
  words : ∀ j < r.words, findRow (regionRows (a + 8 * j)) (a + 8 * j) = some (r, j)

section
variable {r : RegRow} {a : Nat} (h : r.Stands a)
include h

/-- No window lies among these registers, and none is reserved. -/
theorem RegRow.Stands.unit (c : Chip) {j : Nat} (hj : j < r.words) :
    findRow (regionRows (a + 8 * j)) (a + 8 * j) = some (r, j) ∧ c.reserved (a + 8 * j) = false ∧
      c.place (a + 8 * j) = none ∧ millOffset (a + 8 * j) = none := by
  obtain ⟨notTm, notMill, low⟩ := h.region
  have block := h.block
  have row := h.words j hj
  have mill : millOffset (a + 8 * j) = none := if_neg (by omega)
  have place : c.place (a + 8 * j) = none := by rw [Chip.place, if_neg (by omega), if_neg (by omega), mill]
  have beyond : 0x60100000 ≤ a + 8 * j → ¬ a + 8 * j < 0x60100020 := by omega
  exact ⟨row, by simpa [Chip.reserved, place, mill, row] using beyond, place, mill⟩

/-- A PUT of words of the register from word `j` up is one write of that element. -/
theorem RegRow.Stands.cut (c : Chip) {j : Nat} {ws : List Word} (hne : ws ≠ []) (hl : j + ws.length ≤ r.words) :
    c.cut (a + 8 * j) ws = some [.elem ⟨r, a, numbered j ws⟩] := Chip.cut_words (fun _ hk => h.unit c hk) ws j hne hl

/-- What the register's fields have taken. -/
theorem RegRow.Stands.filled (c : Chip) (now : Nat) {j : Nat} {ws : List Word} (hne : ws ≠ []) (hl : j + ws.length ≤ r.words) :
    c.filled now (a + 8 * j) ws = c.storeElem now ⟨r, a, numbered j ws⟩ := by
  rw [Chip.filled, h.cut c hne hl]

/-- A write of the register leaves every other unit. -/
theorem RegRow.Stands.rd_filled (c : Chip) (now : Nat) {j b : Nat} {ws : List Word} (hne : ws ≠ []) (hl : j + ws.length ≤ r.words)
    (other : b < a ∨ a + 8 * r.words ≤ b) : (c.filled now (a + 8 * j) ws).rd b = c.rd b := by
  rw [h.filled c now hne hl]
  refine Chip.rd_storeElem_ne (fun w hw => ?_) c now
  have := mem_numbered hw
  dsimp only
  omega

/-- A write of the register leaves every field outside it. -/
theorem RegRow.Stands.get_filled (c : Chip) (now : Nat) {j b : Nat} {f : Fld} {ws : List Word} (hne : ws ≠ []) (hl : j + ws.length ≤ r.words)
    (other : b + 8 * f.word < a ∨ a + 8 * r.words ≤ b + 8 * f.word) : (c.filled now (a + 8 * j) ws).get b f = c.get b f :=
  congrArg (getBits · f.lo f.width) (h.rd_filled c now hne hl other)

/-- A command that PUTs words of such a register ends as the rule of the register says. -/
theorem State.exec_stands {s : State} {i : Instr} {j : Nat} {ws : List Word} {st : Status} {d : Chip}
    (run : exec i s = State.on s fun now c => c.regWrite now (a + 8 * j) ws) (hw : s.writable a = true) (hne : ws ≠ [])
    (hl : j + ws.length ≤ r.words)
    (rule : s.found.hook (s.found.filled s.time (a + 8 * j) ws) s.time ⟨r, a, numbered j ws⟩ = (st, d)) : exec i s = s.wrote st d := by
  have hj : j < r.words := by
    have := List.length_pos_iff.mpr hne
    omega
  obtain ⟨notTm, notMill, low⟩ := h.region
  have block := h.block
  obtain ⟨fw, mode, up⟩ := State.writable_iff.mp hw
  have here : s.writable (a + 8 * j) = true :=
    State.writable_iff.mpr ⟨fw, mode, (s.found.regUp_block (a := a + 8 * j) (b := a) (by omega) (by omega)).trans up⟩
  have plain : inSat (a + 8 * j) = false := by
    have := h.plain
    rw [inSat, Bool.and_eq_false_iff, decide_eq_false_iff_not, decide_eq_false_iff_not]
    omega
  have aligned : (a + 8 * j) % 8 = 0 := by
    have := h.aligned
    omega
  rw [run, s.wrote_elem (a + 8 * j) ws _ (st, d) here plain aligned (h.cut s.found hne hl) up rule]

end

/-! ### The rule of a register by its region (Table 1-6) -/

section
variable {c d : Chip} {now : Nat} {e : Elem}

theorem Chip.hook_he (region : e.base / 0x10000000 = 2) : c.hook d now e = c.heHook d now e := by
  rw [Chip.hook, region]
  rfl

theorem Chip.hook_sm (region : e.base / 0x10000000 = 3) : c.hook d now e = c.smHook d now e := by
  rw [Chip.hook, region]
  rfl

theorem Chip.hook_de (region : e.base / 0x10000000 = 4) : c.hook d now e = c.deHook d now e := by
  rw [Chip.hook, region]
  rfl

theorem Chip.hook_ce (region : e.base / 0x10000000 = 11) : c.hook d now e = c.ceHook d now e := by
  rw [Chip.hook, region]
  rfl

theorem Chip.hook_mc (region : e.base / 0x10000000 = 13) : c.hook d now e = c.mcHook d e := by
  rw [Chip.hook, region]
  rfl

theorem Chip.hook_cp (region : e.base / 0x10000000 = 0) :
    c.hook d now e = if within 0x6000 0x7FFF e.base then c.aoHook d now e else c.cpHook d now e := by
  rw [Chip.hook, region]
  rfl

end

end Sys2Proof.Machine

/-! PROOFS. Training, retraining, scrubbing and the settings of the QDR channels, scrubbing of the on-die arrays (R396-R398, R400, R403). -/

namespace Sys2Proof.Machine

/-! ### Training and retraining (R396, R397) -/

section
variable {c : Chip} {now ch port fails pin ps : Nat}

theorem Chip.channelTrained_ready (trains : c.get (A.MC_STATUS ch) F.MC_STATUS_STATE = 1)
    (powered : c.get (A.CP_PWR_STATUS (40 + ch)) F.CP_PWR_STATUS_STATE ≠ 0)
    (ports : ¬(c.portDisabled ch 0 = true ∧ c.portDisabled ch 1 = true)) :
    c.channelTrained ch port pin ps =
      let up (d : Chip) (p : Nat) : Chip := if d.portDisabled ch p then d else d.setQPort ch p true 0
      let d := if c.keepsData ch then c else c.zeroChannelBytes ch
      let e := ((d.setKeep ch false).set (A.MC_STATUS ch) F.MC_STATUS_STATE 2).showMargin ch port pin ps
      (up (up e 0) 1).wr (A.MC_SCRUB_POS ch) 0 := by
  rw [← Bool.and_eq_true] at ports
  unfold Chip.channelTrained
  exact (if_neg (not_or.mpr ⟨not_not.mpr trains, powered⟩)).trans (if_neg ports)

theorem Chip.retrain_runs (ready : c.qReady ch = true) (up : c.portUp ch port = true) :
    c.retrain ch port pin ps =
      let d := (c.showMargin ch port pin ps).inc (A.MC_RETRAINS ch)
      if ps < 15 then d.portOut ch port else d :=
  if_neg (by simp [ready, up])

section
variable (alone : mget 0 c.mem.qtrain (2 * ch + port) = 1) (ready : c.get (A.MC_STATUS ch) F.MC_STATUS_STATE = 2)
include alone ready

theorem Chip.portTrained_returns (few : fails < 3) : c.portTrained now ch port fails pin ps =
    (((c.add (A.MC_RETRAIN_FAILS ch) fails).setQPort ch port true 0).showMargin ch port pin ps).inc (A.MC_RETRAINS ch) := by
  unfold Chip.portTrained
  exact (if_neg (not_or.mpr ⟨not_not.mpr alone, not_not.mpr ready⟩)).trans (if_pos few)

/-- A port that fails for good takes the channel with it where the other port is DISABLED already: a fault leaves what the ports are. -/
theorem Chip.portTrained_fails (all : ¬fails < 3) (hp : port < 2) (hpin : pin < 128) : c.portTrained now ch port fails pin ps =
    let d := ((c.add (A.MC_RETRAIN_FAILS ch) fails).setQPort ch port false 2).raise now Flt.MC_PORT_DOWN 22 (40 + ch) 0
      (BitVec.ofNat 64 (pin + 128 * port))
    if mget 0 c.mem.qtrain (2 * ch + (1 - port)) = 2 then d.raise now Flt.MC_CHANNEL_FAIL 22 (40 + ch) 0 0 else d := by
  have apart : 2 * ch + (1 - port) ≠ 2 * ch + port := by omega
  have other (f : FaultKind) (isl dom slice : Nat) (detail : Word) :
      mget 0 (((c.add (A.MC_RETRAIN_FAILS ch) fails).setQPort ch port false 2).raise now f isl dom slice detail).mem.qtrain (2 * ch + (1 - port))
        = mget 0 c.mem.qtrain (2 * ch + (1 - port)) := by
    rw [Chip.raise_mem]
    exact mget_mset_ne 0 c.mem.qtrain 2 apart
  unfold Chip.portTrained
  refine ((if_neg (not_or.mpr ⟨not_not.mpr alone, not_not.mpr ready⟩)).trans (if_neg all)).trans ?_
  rw [Nat.mod_eq_of_lt hpin, Nat.mod_eq_of_lt hp]
  exact if_congr (by rw [other]) rfl rfl

end

/-! ### Scrubbing (R398, R400) -/

theorem Chip.qdrScrub_reads (upset : BitVec 32) (ready : c.qReady ch = true) :
    c.qdrScrub now ch upset =
      let w := c.get (A.MC_SCRUB_POS ch) F.MC_SCRUB_POS_WORD
      let d := (((c.setQres ch w (c.qres ch w ^^^ upset)).readChan now ch w 1 0).2.inc (A.MC_SCRUB_READS ch)).set (A.MC_SCRUB_POS ch)
        F.MC_SCRUB_POS_WORD ((w + 1) % 2 ^ 21)
      if w = 2 ^ 21 - 1 then d.set (A.MC_STATUS ch) F.MC_STATUS_SCRUB_PASSES (d.get (A.MC_STATUS ch) F.MC_STATUS_SCRUB_PASSES + 1) else d := by
  have lt : c.get (A.MC_SCRUB_POS ch) F.MC_SCRUB_POS_WORD < 2 ^ 21 := Nat.mod_lt _ (by decide)
  have last : (c.get (A.MC_SCRUB_POS ch) F.MC_SCRUB_POS_WORD + 1) % 2 ^ 21 = 0 ↔ c.get (A.MC_SCRUB_POS ch) F.MC_SCRUB_POS_WORD = 2 ^ 21 - 1 := by
    omega
  unfold Chip.qdrScrub
  exact (if_neg (by rw [ready]; decide)).trans (if_congr last rfl rfl)

theorem Chip.sramScrub_reads (upset : BitVec 32) (powered : c.scrubbed (c.get A.MC_SRAM_SCRUB_POS F.MC_SRAM_SCRUB_POS_ARRAY) = true)
    (listed : c.get A.MC_SRAM_SCRUB_POS F.MC_SRAM_SCRUB_POS_ARRAY < 80) :
    c.sramScrub now upset =
      let p := A.MC_SRAM_SCRUB_POS
      let a := c.get p F.MC_SRAM_SCRUB_POS_ARRAY
      let w := c.get p F.MC_SRAM_SCRUB_POS_WORD
      let d := ((c.setSram a w (c.sram a w ^^^ upset)).readSram now a w 1 0).2
      let next := if w + 1 < arrayWords a then (a, w + 1) else ((a + 1) % 80, 0)
      (d.set p F.MC_SRAM_SCRUB_POS_ARRAY next.1).set p F.MC_SRAM_SCRUB_POS_WORD next.2 := by
  have here := Nat.mod_eq_of_lt listed
  have found : firstFrom (fun k => c.scrubbed (k % 80)) 80 (c.get A.MC_SRAM_SCRUB_POS F.MC_SRAM_SCRUB_POS_ARRAY)
      = some (c.get A.MC_SRAM_SCRUB_POS F.MC_SRAM_SCRUB_POS_ARRAY) := if_pos ((congrArg c.scrubbed here).trans powered)
  simp only [Chip.sramScrub, found, here, if_true]

end

/-! ### The settings of a channel (R403) -/

/-- The row of MC_Qc_CFG in the register table. -/
def mcCfgRow : RegRow := nth ⟨0, [], 0, []⟩ mcRows 0

theorem mcCfgRow_stands (ch : QdrNo) : mcCfgRow.Stands (A.MC_CFG ch) :=
  ⟨by revert ch; decide, by revert ch; decide, by revert ch; decide, by revert ch; decide, by revert ch; decide +kernel⟩

/-- The settings of channel `ch` lie in their ranges. -/
def Chip.qdrCfgOk (d : Chip) (ch : Nat) : Prop :=
  let a := A.MC_CFG ch
  5 ≤ d.get a F.MC_CFG_RD_LAT ∧ d.get a F.MC_CFG_RD_LAT ≤ 12 ∧ 3 ≤ d.get a F.MC_CFG_WR_LAT ∧ d.get a F.MC_CFG_WR_LAT ≤ 8 ∧
    10 ≤ d.get a F.MC_CFG_RETRAIN_MS ∧ d.get a F.MC_CFG_RETRAIN_MS ≤ 10000 ∧ 60 ≤ d.get a F.MC_CFG_SCRUB_S ∧ d.get a F.MC_CFG_CE_STORM ≠ 0

theorem Chip.hook_mcCfg (c d : Chip) (now : Nat) (ch : QdrNo) (us : List (Nat × Word)) [Decidable (d.qdrCfgOk ch)] :
    c.hook d now ⟨mcCfgRow, A.MC_CFG ch, us⟩ =
      if d.qdrCfgOk ch then
        (if (d.qdrCfg ch (c.rd (A.MC_CFG ch))).1 = Code.OK then d.qdrCfg ch (c.rd (A.MC_CFG ch))
          else ((d.qdrCfg ch (c.rd (A.MC_CFG ch))).1, c))
      else (Code.BAD_ARGUMENT, c) := by
  have index : (⟨mcCfgRow, A.MC_CFG ch, us⟩ : Elem).i = ch := Elem.i_array (count := 8) (stride := 0x1000000) rfl rfl (by decide)
  have ranges : (within 5 12 (d.get (A.MC_CFG ch) F.MC_CFG_RD_LAT) && within 3 8 (d.get (A.MC_CFG ch) F.MC_CFG_WR_LAT) &&
      within 10 10000 (d.get (A.MC_CFG ch) F.MC_CFG_RETRAIN_MS) && decide (60 ≤ d.get (A.MC_CFG ch) F.MC_CFG_SCRUB_S) &&
      d.get (A.MC_CFG ch) F.MC_CFG_CE_STORM != 0) = true ↔ d.qdrCfgOk ch := by
    simp only [within, Bool.and_eq_true, decide_eq_true_eq, bne_iff_ne, Chip.qdrCfgOk, and_assoc]
  have region : (⟨mcCfgRow, A.MC_CFG ch, us⟩ : Elem).base / 0x10000000 = 13 := by
    show (0xD0000000 + 0x1000000 * ch.val) / 0x10000000 = 13
    omega
  rw [Chip.hook_mc region, Chip.mcHook, index]
  exact (if_pos rfl).trans (if_congr ranges rfl rfl)

section
variable {s : State} {ch : QdrNo} {v : Word} (hw : s.writable (A.MC_CFG ch) = true)
include hw

theorem State.qdrCfgWrite_refused (bad : ¬(s.found.filled s.time (A.MC_CFG ch) [v]).qdrCfgOk ch) :
    exec (.qdrCfgWrite ch v) s = s.wrote Code.BAD_ARGUMENT s.found := by
  classical
  exact State.exec_stands (mcCfgRow_stands ch) (j := 0) rfl hw (List.cons_ne_nil _ _) (Nat.le_refl 1)
    ((Chip.hook_mcCfg ..).trans (if_neg bad))

theorem State.qdrCfgWrite_judged {st : Status} {d : Chip} (ok : (s.found.filled s.time (A.MC_CFG ch) [v]).qdrCfgOk ch)
    (rule : (s.found.filled s.time (A.MC_CFG ch) [v]).qdrCfg ch (s.found.rd (A.MC_CFG ch)) = (st, d)) :
    exec (.qdrCfgWrite ch v) s = s.wrote st (if st = Code.OK then d else s.found) := by
  classical
  refine State.exec_stands (mcCfgRow_stands ch) (j := 0) rfl hw (List.cons_ne_nil _ _) (Nat.le_refl 1)
    ((Chip.hook_mcCfg ..).trans ((if_pos ok).trans ?_))
  have filled : s.found.filled s.time (A.MC_CFG ch + 8 * 0) [v] = s.found.filled s.time (A.MC_CFG ch) [v] := rfl
  rw [filled, rule]
  split <;> rfl

end

/-- What a change of a channel's settings meets by the channel's state. -/
theorem Chip.qdrCfg_changed {d : Chip} {ch : Nat} {old : Word} (changed : ¬getBits old 0 9 = getBits (d.rd (A.MC_CFG ch)) 0 9) :
    d.qdrCfg ch old =
      if d.get (A.MC_STATUS ch) F.MC_STATUS_STATE = 2 then (Code.CHANNEL_READY, d)
      else if d.get (A.MC_STATUS ch) F.MC_STATUS_STATE = 1 then (Code.OK, d.trainStart ch) else (Code.OK, d) := by
  simp only [Chip.qdrCfg, bne_iff_ne.mpr changed, Bool.not_true, Bool.false_eq_true, if_false]

theorem Chip.qdrCfg_same {d : Chip} {ch : Nat} {old : Word} (same : getBits old 0 9 = getBits (d.rd (A.MC_CFG ch)) 0 9) :
    d.qdrCfg ch old = (Code.OK, d) := by
  simp [Chip.qdrCfg, same]

/-- Settles O55: each event by its operation; a write of the settings leaves the channel's state. -/
theorem memoryEvents : Obligations.MemoryEvents := by
  refine fun s ch port pin ps fails upset v => ⟨fun trains powered ports => State.exec_on rfl (Chip.channelTrained_ready trains powered ports),
    fun ready up => State.exec_on rfl (Chip.retrain_runs ready up), fun alone ready => ?port, fun ready => ?scrub, fun powered listed => ?sram,
    fun hw => ?cfg⟩
  case port =>
    refine ⟨fun few => State.exec_on rfl (Chip.portTrained_returns alone ready few), fun all one => ?_, fun all both => ?_⟩
    · exact State.exec_on rfl ((Chip.portTrained_fails alone ready (by omega) port.isLt pin.isLt).trans (if_neg one))
    · exact State.exec_on rfl ((Chip.portTrained_fails alone ready (by omega) port.isLt pin.isLt).trans (if_pos both))
  case scrub =>
    exact ⟨fun more => State.exec_on rfl ((Chip.qdrScrub_reads upset ready).trans (if_neg more)),
      fun last => State.exec_on rfl ((Chip.qdrScrub_reads upset ready).trans (if_pos last))⟩
  case sram =>
    refine ⟨fun more => State.exec_on rfl ((Chip.sramScrub_reads upset powered listed).trans ?_),
      fun last => State.exec_on rfl ((Chip.sramScrub_reads upset powered listed).trans ?_)⟩
    · simp only [if_pos more]
    · simp only [if_neg (Nat.not_lt.mpr last)]
  case cfg =>
    have state : (s.found.filled s.time (A.MC_CFG ch) [v]).get (A.MC_STATUS ch) F.MC_STATUS_STATE =
        s.found.get (A.MC_STATUS ch) F.MC_STATUS_STATE :=
      (mcCfgRow_stands ch).get_filled s.found s.time (j := 0) (List.cons_ne_nil _ _) (Nat.le_refl 1) (.inr (Nat.le_of_eq (Nat.add_right_comm ..)))
    refine ⟨fun bad => State.qdrCfgWrite_refused hw bad, fun ok same => State.qdrCfgWrite_judged hw ok (Chip.qdrCfg_same same),
      fun ok changed ready => State.qdrCfgWrite_judged hw ok ((Chip.qdrCfg_changed changed).trans (if_pos (state.trans ready))),
      fun ok changed trains => ?_, fun ok changed not1 not2 => ?_⟩
    all_goals refine State.qdrCfgWrite_judged hw ok ((Chip.qdrCfg_changed changed).trans ((if_neg ?_).trans ?_))
    · rw [state, trains]
      decide
    · exact if_pos (state.trans trains)
    · rwa [state]
    · exact if_neg (by rwa [state])

end Sys2Proof.Machine

/-! PROOFS. Fields of the registers read back; resets, supplies, the watchdog (R449, R451, R460, R461, R483, R486, R491). -/

namespace Sys2Proof.Machine

/-! ### Fields read back -/

/-- A field reads as the number set, less what is too wide for it. -/
theorem getBits_setBits (w : Word) {lo n v : Nat} (h : lo + n ≤ 64) : getBits (setBits w lo n v) lo n = v % 2 ^ n := by
  refine Nat.eq_of_testBit_eq fun j => ?_
  rw [Nat.testBit_mod_two_pow]
  by_cases hj : j < n
  · have bit := testBit_getBits (setBits w lo n v) (n := n) (Nat.le_add_right lo j) (by omega)
    rw [getLsbD_setBits w (by omega), if_pos (by omega), Nat.add_sub_cancel_left] at bit
    rw [bit, decide_eq_true hj, Bool.true_and]
  · rw [getBits, Nat.testBit_mod_two_pow, decide_eq_false hj, Bool.false_and, Bool.false_and]

/-- Setting a field leaves one that shares no bit with it. -/
theorem getBits_setBits_apart (w : Word) {lo n v lo' n' : Nat} (h : lo' + n' ≤ lo ∨ lo + n ≤ lo') :
    getBits (setBits w lo n v) lo' n' = getBits w lo' n' :=
  getBits_congr fun i hi low high => by rw [getLsbD_setBits w hi, if_neg (by omega)]

theorem Chip.get_set_self (c : Chip) (a : Nat) {f : Fld} (v : Nat) (h : f.lo + f.width ≤ 64) : (c.set a f v).get a f = v % 2 ^ f.width := by
  rw [Chip.get, Chip.set, Chip.rd_wr_self, getBits_setBits _ h]

/-- Setting a field leaves one of another unit, or of other bits of its unit. -/
theorem Chip.get_set_apart (c : Chip) {a b : Nat} {f g : Fld} (v : Nat)
    (h : b + 8 * g.word = a + 8 * f.word → g.lo + g.width ≤ f.lo ∨ f.lo + f.width ≤ g.lo) : (c.set a f v).get b g = c.get b g := by
  by_cases same : b + 8 * g.word = a + 8 * f.word
  · rw [Chip.get, Chip.get, Chip.set, same, Chip.rd_wr_self, getBits_setBits_apart _ (h same)]
  · rw [Chip.get, Chip.get, Chip.rd_set_ne c f v same]

/-! ### The adapter after a cold reset (R460) -/

section
variable (c : Chip) {m k : Nat}

theorem Chip.cold_mode (hm : m < 16) : (c.cold m k).mode = m := by
  unfold Chip.cold Chip.mode
  rw [Chip.get_set_apart _ _ (by decide), Chip.get_set_self _ _ _ (by decide)]
  exact Nat.mod_eq_of_lt hm

theorem Chip.cold_cause (hk : k < 16) : (c.cold m k).get A.CP_RESET_CAUSE F.CP_RESET_CAUSE_CAUSE = k :=
  (Chip.get_set_self _ _ _ (by decide)).trans (Nat.mod_eq_of_lt hk)

/-- Every other register takes its Reset value. -/
theorem Chip.rd_cold {a : Nat} (boot : a ≠ A.CP_BOOT) (mode : a ≠ A.CP_MODE) (cause : a ≠ A.CP_RESET_CAUSE) :
    (c.cold m k).rd a = Chip.init.rd a :=
  (Chip.rd_set_ne _ _ _ cause).trans <| (Chip.rd_set_ne _ _ _ mode).trans <| (Chip.rd_set_ne _ _ _ boot).trans <|
    (Chip.rd_set_ne _ _ _ boot).trans rfl

end

/-! ### Reset registers -/

/-- The row of CP_RESET_CTRL in the register table. -/
def cpResetRow : RegRow := nth ⟨0, [], 0, []⟩ cpRows 35

/-- The row of CP_WDOG in the register table. -/
def cpWdogRow : RegRow := nth ⟨0, [], 0, []⟩ cpRows 36

theorem cpResetRow_stands : cpResetRow.Stands A.CP_RESET_CTRL := ⟨by decide, by decide, by decide, by decide, by decide +kernel⟩

theorem cpWdogRow_stands : cpWdogRow.Stands A.CP_WDOG := ⟨by decide, by decide, by decide, by decide, by decide +kernel⟩

section
variable {c d : Chip} {now : Nat} {e : Elem}

theorem Chip.hook_ao (low : 0x6000 ≤ e.base) (high : e.base < 0x8000) : c.hook d now e = c.aoHook d now e :=
  (Chip.hook_cp (by omega)).trans (if_pos (by simpa [within] using And.intro low (Nat.le_of_lt_succ high)))

theorem Chip.hook_cpLow (low : e.base < 0x6000) : c.hook d now e = c.cpHook d now e :=
  (Chip.hook_cp (by omega)).trans (if_neg (by simp [within, low]))

end

section
variable {c d : Chip} {now : Nat} {us : List (Nat × Word)}

theorem Chip.hook_resetCtrl : c.hook d now ⟨cpResetRow, A.CP_RESET_CTRL, [(0, 1)]⟩ = (Code.OK, d.warmReset now 4) :=
  (Chip.hook_ao (by decide) (by decide)).trans rfl

theorem Chip.hook_wdog : c.hook d now ⟨cpWdogRow, A.CP_WDOG, us⟩ =
    if within 100 60000 (d.get A.CP_WDOG F.CP_WDOG_TIMEOUT_MS) then
      (Code.OK, { d with pwr := { d.pwr with wdogAt := now + ns (1000000 * d.get A.CP_WDOG F.CP_WDOG_TIMEOUT_MS) } })
    else (Code.BAD_ARGUMENT, c) :=
  (Chip.hook_ao (Nat.le_of_ble_eq_true rfl) (Nat.le_of_ble_eq_true rfl)).trans rfl

end

/-- Settles O58: each reset by its operation. -/
theorem resets : Obligations.Resets := by
  refine fun s pin v => ⟨s.restarted_done _, fun off => ?on, fun up => ?pin, fun m k hm hk => ?cold, fun held supply => ?release,
    fun runs good => ?range, fun hw => ?warm, fun hw => ?wdog, fun fw on due => ?expiry⟩
  case on =>
    refine (s.restarted_done _).trans ?_
    rw [Chip.supplyOn, if_neg (not_not.mpr off)]
  case pin =>
    refine (s.restarted_done _).trans ?_
    rw [Chip.coldReset, if_neg up]
  case cold => exact ⟨Chip.cold_mode _ hm, Chip.cold_cause _ hk, rfl, rfl, rfl, fun a => Chip.rd_cold _⟩
  case release =>
    have boot : s.found.mode ≠ Mode.boot := by
      rw [held]
      decide
    exact State.exec_on rfl ((if_neg boot).trans (if_neg (by simp [held, supply])))
  case range => exact State.exec_on rfl (if_neg (not_or.mpr ⟨Nat.not_le.mpr runs, by simp [good]⟩))
  case warm =>
    exact State.exec_stands cpResetRow_stands (j := 0) rfl hw (List.cons_ne_nil _ _) (Nat.le_refl 1) Chip.hook_resetCtrl
  case wdog =>
    refine ⟨fun low high => ?_, fun bad => ?_⟩
    all_goals refine State.exec_stands cpWdogRow_stands (j := 0) rfl hw (List.cons_ne_nil _ _) (Nat.le_refl 1) (Chip.hook_wdog.trans ?_)
    · exact if_pos (by simpa [within] using And.intro low high)
    · exact if_neg (by simpa [within, Nat.not_le, imp_iff_not_or] using bad)
  case expiry => exact State.exec_on rfl (if_pos (by simp [fw, on, due]))

end Sys2Proof.Machine

/-! PROOFS. Faults recorded and acted on, journal entries and their mirror (R422, R424, R450, R473-R476). -/

namespace Sys2Proof.Machine

/-! ### What counters, the journal and the fault log write -/

theorem Chip.get_lt (c : Chip) (a : Nat) (f : Fld) : c.get a f < 2 ^ f.width := Nat.mod_lt _ (Nat.two_pow_pos _)

theorem Chip.rd_inc_ne (c : Chip) {a b : Nat} (h : b ≠ a) : (c.inc a).rd b = c.rd b := Chip.rd_set_ne c _ _ h

theorem Chip.rd_journal_ne (c : Chip) {b : Nat} (now : Nat) (e : JEvent) (h : b ≠ A.CP_JOURNAL_NEXT) : (c.journal now e).rd b = c.rd b :=
  Chip.rd_wr_ne _ _ h

@[simp] theorem Chip.journal_due (c : Chip) (now : Nat) (e : JEvent) : (c.journal now e).due = c.due := by
  unfold Chip.journal
  exact Chip.wr_due ..

/-- The entry of event `e` that is written now (R422). -/
def Chip.journalEntry (c : Chip) (now : Nat) (e : JEvent) : List Word :=
  let s := stamp now
  let w2 := BitVec.ofNat 64 (fracOf s + e.event % 2 ^ 16 * 2 ^ 16 + e.level % 4 * 2 ^ 32 + e.source % 8 * 2 ^ 40
    + e.island % 32 * 2 ^ 43 + e.result % 2 ^ 16 * 2 ^ 48)
  let w3 := BitVec.ofNat 64 (e.slice % 2 ^ 13 + e.detail % 2 ^ 16 * 2 ^ 16 + e.key % 32 * 2 ^ 32)
  let ws := [c.rd A.CP_JOURNAL_NEXT, dtWord s, w2, w3, e.w4, e.a0, e.a1]
  ws ++ [chainWord c.cmd.prev (ws ++ [0])]

theorem Chip.journal_cmd (c : Chip) (now : Nat) (e : JEvent) : (c.journal now e).cmd =
    { c.cmd with ring := mset [] c.cmd.ring ((c.rd A.CP_JOURNAL_NEXT).toNat % 4096) (c.journalEntry now e), prev := c.journalEntry now e,
                 unmir := c.cmd.unmir ++ [(c.rd A.CP_JOURNAL_NEXT).toNat] } := by
  unfold Chip.journal
  exact Chip.wr_cmd ..

theorem Chip.rd_journal_next (c : Chip) (now : Nat) (e : JEvent) : (c.journal now e).rd A.CP_JOURNAL_NEXT =
    BitVec.ofNat 64 ((c.rd A.CP_JOURNAL_NEXT).toNat / 2 ^ 40 * 2 ^ 40 + ((c.rd A.CP_JOURNAL_NEXT).toNat + 1) % 2 ^ 40) := by
  unfold Chip.journal
  exact Chip.rd_wr_self ..

/-- A full fault log loses its oldest record. -/
def Chip.faultRoom (c : Chip) : Chip :=
  let t := c.get A.CP_FAULT_TAIL F.CP_FAULT_TAIL_V
  if (c.get A.CP_FAULT_HEAD F.CP_FAULT_HEAD_V + 1) % 512 = t then
    (c.set A.CP_FAULT_TAIL F.CP_FAULT_TAIL_V ((t + 1) % 512)).inc A.CP_FAULT_OVERWRITE
  else c

theorem Chip.rd_faultRoom (c : Chip) {b : Nat} (tail : b ≠ A.CP_FAULT_TAIL) (count : b ≠ A.CP_FAULT_OVERWRITE) : c.faultRoom.rd b = c.rd b := by
  unfold Chip.faultRoom
  dsimp only
  split
  · exact (Chip.rd_inc_ne _ count).trans (Chip.rd_set_ne _ _ _ tail)
  · rfl

theorem Chip.faultRoom_due (c : Chip) : c.faultRoom.due = c.due := by
  unfold Chip.faultRoom
  dsimp only
  split <;> rfl

theorem Chip.get_faultRoom_tail (c : Chip) : c.faultRoom.get A.CP_FAULT_TAIL F.CP_FAULT_TAIL_V =
    let t := c.get A.CP_FAULT_TAIL F.CP_FAULT_TAIL_V
    if (c.get A.CP_FAULT_HEAD F.CP_FAULT_HEAD_V + 1) % 512 = t then (t + 1) % 512 else t := by
  unfold Chip.faultRoom
  dsimp only
  split
  · refine (congrArg (getBits · 0 9) (Chip.rd_inc_ne _ (by decide))).trans ((Chip.get_set_self _ _ _ (by decide)).trans ?_)
    exact Nat.mod_mod _ _
  · rfl

/-- The record of a fault and its journal entry are written at HEAD. -/
def Chip.faultWritten (c : Chip) (now code cls : Nat) (esc : Bool) (isl dom slice : Nat) (detail : Word) : Chip :=
  let a := faultAddr (c.get A.CP_FAULT_HEAD F.CP_FAULT_HEAD_V)
  let w0 := faultWord0 code cls esc isl dom slice 1
  let c := c.faultRoom
  let d := c.journal now { JEvent.base with event := 3, level := if cls ≥ 2 then 0 else 1, island := isl, slice := slice,
                                             detail := cls, a0 := w0, a1 := dtWord (stamp now) }
  (((d.wr a w0).wr (a + 8) (dtWord (stamp now))).wr (a + 16) detail).wr (a + 24) (c.rd A.CP_JOURNAL_NEXT)

section
variable {c : Chip} {now code cls isl dom slice b : Nat} {esc : Bool} {detail : Word}

theorem Chip.record_eq : ∃ p : PwrSt, c.record now code cls esc isl dom slice detail =
    { ((c.faultWritten now code cls esc isl dom slice detail).set A.CP_FAULT_HEAD F.CP_FAULT_HEAD_V
      ((c.get A.CP_FAULT_HEAD F.CP_FAULT_HEAD_V + 1) % 512)).inc (A.CP_FAULT_COUNT cls) with pwr := p } := ⟨_, rfl⟩

theorem Chip.due_of_pwr {c d : Chip} {p : PwrSt} (h : d = { c with pwr := p }) : d.due = c.due := by
  subst h
  rfl

theorem Chip.rd_of_due {c d : Chip} {us : List Due} (h : d = { c with due := us }) (b : Nat) : d.rd b = c.rd b := by
  subst h
  rfl

theorem Chip.get_of_due {c d : Chip} {us : List Due} (h : d = { c with due := us }) (a : Nat) (f : Fld) : d.get a f = c.get a f := by
  subst h
  rfl

theorem Chip.due_of_due {c d : Chip} {us : List Due} (h : d = { c with due := us }) : d.due = us := by
  subst h
  rfl

theorem Chip.rd_pwr (c : Chip) (p : PwrSt) (b : Nat) : ({ c with pwr := p } : Chip).rd b = c.rd b := rfl

theorem Chip.rd_record_ne (head : b ≠ A.CP_FAULT_HEAD) (count : b ≠ A.CP_FAULT_COUNT cls) :
    (c.record now code cls esc isl dom slice detail).rd b = (c.faultWritten now code cls esc isl dom slice detail).rd b := by
  obtain ⟨p, recorded⟩ := Chip.record_eq (c := c) (now := now) (code := code) (cls := cls) (esc := esc) (isl := isl) (dom := dom) (slice := slice)
    (detail := detail)
  rw [recorded, Chip.rd_pwr, Chip.rd_inc_ne _ count, Chip.rd_set_ne _ _ _ head]

/-- The four words of the record at HEAD. -/
theorem Chip.rd_record_log (known : cls ≤ 3) :
    let a := faultAddr (c.get A.CP_FAULT_HEAD F.CP_FAULT_HEAD_V)
    let d := c.record now code cls esc isl dom slice detail
    d.rd a = faultWord0 code cls esc isl dom slice 1 ∧ d.rd (a + 8) = dtWord (stamp now) ∧ d.rd (a + 16) = detail ∧
      d.rd (a + 24) = c.rd A.CP_JOURNAL_NEXT := by
  intro a d
  have high : 0x80000 ≤ a := Nat.le_add_right ..
  have written {b : Nat} (hb : 0x80000 ≤ b) : d.rd b = (c.faultWritten now code cls esc isl dom slice detail).rd b := by
    refine Chip.rd_record_ne ?_ ?_
    · unfold A.CP_FAULT_HEAD
      omega
    · unfold A.CP_FAULT_COUNT
      omega
  have next : c.faultRoom.rd A.CP_JOURNAL_NEXT = c.rd A.CP_JOURNAL_NEXT := Chip.rd_faultRoom c (by decide) (by decide)
  rw [written high, written (by omega), written (by omega), written (by omega)]
  unfold Chip.faultWritten
  refine ⟨?_, ?_, ?_, (Chip.rd_wr_self ..).trans next⟩
  · exact (Chip.rd_wr_ne _ _ (by omega)).trans ((Chip.rd_wr_ne _ _ (by omega)).trans ((Chip.rd_wr_ne _ _ (by omega)).trans (Chip.rd_wr_self ..)))
  · exact (Chip.rd_wr_ne _ _ (by omega)).trans ((Chip.rd_wr_ne _ _ (by omega)).trans (Chip.rd_wr_self ..))
  · exact (Chip.rd_wr_ne _ _ (by omega)).trans (Chip.rd_wr_self ..)

theorem Chip.get_record_head (known : cls ≤ 3) : (c.record now code cls esc isl dom slice detail).get A.CP_FAULT_HEAD F.CP_FAULT_HEAD_V =
    (c.get A.CP_FAULT_HEAD F.CP_FAULT_HEAD_V + 1) % 512 := by
  have count : A.CP_FAULT_HEAD ≠ A.CP_FAULT_COUNT cls := by
    unfold A.CP_FAULT_HEAD A.CP_FAULT_COUNT
    omega
  have head : (c.record now code cls esc isl dom slice detail).rd A.CP_FAULT_HEAD = ((c.faultWritten now code cls esc isl dom slice detail).set
      A.CP_FAULT_HEAD F.CP_FAULT_HEAD_V ((c.get A.CP_FAULT_HEAD F.CP_FAULT_HEAD_V + 1) % 512)).rd A.CP_FAULT_HEAD := by
    obtain ⟨p, recorded⟩ := Chip.record_eq (c := c) (now := now) (code := code) (cls := cls) (esc := esc) (isl := isl) (dom := dom)
      (slice := slice) (detail := detail)
    rw [recorded, Chip.rd_pwr, Chip.rd_inc_ne _ count]
  exact (congrArg (getBits · 0 9) head).trans ((Chip.get_set_self _ _ _ (by decide)).trans (Nat.mod_mod _ _))

theorem Chip.get_record_tail : (c.record now code cls esc isl dom slice detail).get A.CP_FAULT_TAIL F.CP_FAULT_TAIL_V =
    let t := c.get A.CP_FAULT_TAIL F.CP_FAULT_TAIL_V
    if (c.get A.CP_FAULT_HEAD F.CP_FAULT_HEAD_V + 1) % 512 = t then (t + 1) % 512 else t := by
  have apart {i : Nat} : A.CP_FAULT_TAIL ≠ faultAddr (c.get A.CP_FAULT_HEAD F.CP_FAULT_HEAD_V) + i := by
    unfold A.CP_FAULT_TAIL faultAddr A.CP_FAULT_LOG
    omega
  have count : A.CP_FAULT_TAIL ≠ A.CP_FAULT_COUNT cls := by
    unfold A.CP_FAULT_TAIL A.CP_FAULT_COUNT
    omega
  refine Eq.trans (congrArg (getBits · 0 9) ((Chip.rd_record_ne (by decide) count).trans ?_)) c.get_faultRoom_tail
  exact (Chip.rd_wr_ne _ _ apart).trans ((Chip.rd_wr_ne _ _ apart).trans ((Chip.rd_wr_ne _ _ apart).trans
    ((Chip.rd_wr_ne _ _ (apart (i := 0))).trans (Chip.rd_journal_ne _ now _ (by decide)))))

theorem Chip.faultWritten_due : (c.faultWritten now code cls esc isl dom slice detail).due = c.due := by
  unfold Chip.faultWritten
  exact (Chip.wr_due ..).trans <| (Chip.wr_due ..).trans <| (Chip.wr_due ..).trans <| (Chip.wr_due ..).trans <|
    (Chip.journal_due ..).trans c.faultRoom_due

theorem Chip.record_due : (c.record now code cls esc isl dom slice detail).due = c.due := by
  obtain ⟨p, recorded⟩ := Chip.record_eq (c := c) (now := now) (code := code) (cls := cls) (esc := esc) (isl := isl) (dom := dom) (slice := slice)
    (detail := detail)
  exact (Chip.due_of_pwr recorded).trans ((Chip.inc_due ..).trans ((Chip.set_due ..).trans Chip.faultWritten_due))

end

/-! ### A fault raised (R473-R475) -/

section
variable {c : Chip} {now isl dom slice : Nat} {f : FaultKind} {detail : Word}

/-- Whether a fatal-island fault has no target of its own to fence. -/
def raisedEscapes (f : FaultKind) (isl dom : Nat) : Bool :=
  f.cls == 2 && (faultTarget isl dom == none || faultTarget isl dom == some 23 || faultTarget isl dom == some 24)

/-- The class of a fault: a fatal-island fault that escapes is one of the device. -/
def raisedClass (f : FaultKind) (isl dom : Nat) : Nat := if raisedEscapes f isl dom then 3 else f.cls

/-- What is due is appended to, or not. -/
theorem Chip.due_append_if {us vs : List Due} {p : Prop} [Decidable p] (d : Chip) (h : d.due = us) :
    (if p then { d with due := d.due ++ vs } else d) = { d with due := us ++ if p then vs else [] } := by
  subst h
  split
  · rfl
  · rw [List.append_nil]

theorem Chip.raise1_records (apart : raisedClass f isl dom ≠ 0 ∨ c.coalesces now f.code isl slice = none) :
    c.raise1 now f isl dom slice detail =
      let d := c.record now f.code (raisedClass f isl dom) (raisedEscapes f isl dom) isl dom slice detail
      { d with due := c.due ++ if 2 ≤ raisedClass f isl dom then [.fault (raisedClass f isl dom) (faultTarget isl dom) f.code] else [] } := by
  have new : (if raisedClass f isl dom = 0 then c.coalesces now f.code isl slice else none) = none := by
    split
    next zero => exact apart.resolve_left (not_not.mpr zero)
    next => rfl
  rw [← Chip.due_append_if _ Chip.record_due]
  unfold raisedClass raisedEscapes at *
  rw [Chip.raise1, new]

theorem Chip.raise1_coalesces {i : Nat} (corrected : f.cls = 0) (newest : c.coalesces now f.code isl slice = some i) :
    c.raise1 now f isl dom slice detail =
      c.set (faultAddr i) F.CP_FAULT_LOG_COUNT (min 65535 (c.get (faultAddr i) F.CP_FAULT_LOG_COUNT + 1)) := by
  simp [Chip.raise1, corrected, newest]

end

/-! ### The class action of a fault (R450, R475, R476) -/

section
variable {c : Chip} {now : Nat}

theorem Chip.classAct_island {k code : Nat} (hk : k < 20) (other : code ≠ Flt.MA_MILL_DEADLOCK.code) :
    c.classAct now 2 (some k) code = let x := ((c.msix now 0 10).msix now 1 10).noteFatal now k
      (x.fenceBegin now k).degrade now := by
  have mill : ¬(True ∧ 20 ≤ k ∧ k < 22) := by omega
  simp only [Chip.classAct, if_true, if_neg other, if_neg mill, show ¬2 = 3 by decide, if_false]

theorem Chip.degrade_serving (h : c.mode = Mode.service ∨ c.mode = Mode.update) :
    c.degrade now = (c.abortSessions now fun _ => true).enterMode now Mode.degraded := by
  have kept : c.mode ≠ Mode.drain := by
    rcases h with h | h <;> rw [h] <;> decide
  unfold Chip.degrade
  simp only [if_pos (h.imp_right Or.inl), if_neg kept]

theorem Chip.degrade_other (service : c.mode ≠ Mode.service) (update : c.mode ≠ Mode.update) (drain : c.mode ≠ Mode.drain) : c.degrade now = c :=
  if_neg (by simp [service, update, drain])

theorem Chip.deviceFault_service (h : c.mode = Mode.service) : c.deviceFault now = c.enterMode now Mode.recovery := by
  unfold Chip.deviceFault
  rw [h]
  exact (if_neg (by decide)).trans (if_neg (by simp [Mode.service, Mode.recovery, Mode.held, Mode.boot]))

theorem Chip.deviceFault_stays (h : c.mode = Mode.recovery ∨ c.mode = Mode.off ∨ c.mode = Mode.held) : c.deviceFault now = c := by
  unfold Chip.deviceFault
  rcases h with h | h | h <;> rw [h] <;> exact (if_neg (by decide)).trans (if_pos (by simp [Mode.off, Mode.held, Mode.recovery]))

end

/-! ### The mirror of the journal (R424) -/

section
variable {c : Chip} {now n : Nat} {ns : List Nat}

/-- The entry that waits can be mirrored: the ring still holds it, and the flash takes it. -/
def Chip.mirrorReady (c : Chip) (n : Nat) : Prop :=
  let e := mget [] c.cmd.ring (n % 4096)
  e ≠ [] ∧ (nth 0 e 0).toNat = n ∧ c.cmd.stopped = false ∧ c.flash.present = true

/-- The mirror's bucket brought up to now. -/
def Chip.mirrorFilled (c : Chip) (now : Nat) : Chip := { c with cmd := { c.cmd with tokens := c.mirrorTokens now, tokensAt := now } }

theorem Chip.mirrorSkip_cmd : (c.mirrorSkip n).cmd =
    { c.cmd with unmir := c.cmd.unmir.drop 1, gapFirst := if c.cmd.gapCount = 0 then n else c.cmd.gapFirst, gapCount := c.cmd.gapCount + 1 } := by
  unfold Chip.mirrorSkip Chip.mirrorNext
  exact (Chip.wr_cmd ..).trans (Chip.inc_cmd ..)

theorem Chip.mirrorSkip_gapCount : (c.mirrorSkip n).cmd.gapCount = c.cmd.gapCount + 1 := by
  rw [Chip.mirrorSkip_cmd]

/-- A token of the bucket is taken, where there is one. -/
def Chip.mirrorPaid (c : Chip) : Chip :=
  { c with cmd := { c.cmd with tokens := if c.cmd.tokens < mirrorToken then c.cmd.tokens else c.cmd.tokens - mirrorToken } }

section
variable (waits : c.cmd.unmir = n :: ns)
include waits

theorem Chip.journalMirror_waits [Decidable (c.mirrorReady n)] (ok : Bool) : c.journalMirror now ok =
    let d := c.mirrorFilled now
    let e := mget [] c.cmd.ring (n % 4096)
    if c.mirrorReady n then
      if entryLevel e = 0 ∨ mirrorToken ≤ d.cmd.tokens then
        match d.mirrorBlock with
        | none => d.mirrorSkip n
        | some b => if ok then d.mirrorPaid.mirrorWrite now b e else d.mirrorRetire now b
      else d.mirrorSkip n
    else d.mirrorSkip n := by
  have ready : (!((nth 0 (mget [] c.cmd.ring (n % 4096)) 0).toNat == n && !(mget [] c.cmd.ring (n % 4096)).isEmpty) || c.cmd.stopped ||
      !c.flash.present) = true ↔ ¬c.mirrorReady n := by
    simp only [Chip.mirrorReady, Bool.or_eq_true, Bool.not_eq_true', Bool.and_eq_false_iff, beq_eq_false_iff_ne, Bool.not_eq_false',
      List.isEmpty_iff]
    grind
  have paid : (entryLevel (mget [] c.cmd.ring (n % 4096)) ≠ 0 ∧ c.mirrorTokens now < mirrorToken) ↔
      ¬(entryLevel (mget [] c.cmd.ring (n % 4096)) = 0 ∨ mirrorToken ≤ (c.mirrorFilled now).cmd.tokens) := by
    rw [not_or, Nat.not_le]
    rfl
  rw [Chip.journalMirror, waits]
  refine (if_congr ready rfl (if_congr paid rfl rfl)).trans ?_
  rw [ite_not, ite_not]
  rfl

section
variable (ready : c.mirrorReady n)

theorem Chip.journalMirror_notReady (gone : ¬c.mirrorReady n) (ok : Bool) : c.journalMirror now ok = (c.mirrorFilled now).mirrorSkip n := by
  classical
  exact (Chip.journalMirror_waits waits ok).trans (if_neg gone)

include ready

theorem Chip.journalMirror_unpaid (unpaid : ¬(entryLevel (mget [] c.cmd.ring (n % 4096)) = 0 ∨ mirrorToken ≤ (c.mirrorFilled now).cmd.tokens))
    (ok : Bool) : c.journalMirror now ok = (c.mirrorFilled now).mirrorSkip n := by
  classical
  exact (Chip.journalMirror_waits waits ok).trans ((if_pos ready).trans (if_neg unpaid))

variable (paid : entryLevel (mget [] c.cmd.ring (n % 4096)) = 0 ∨ mirrorToken ≤ (c.mirrorFilled now).cmd.tokens)
include paid

theorem Chip.journalMirror_full (full : (c.mirrorFilled now).mirrorBlock = none) (ok : Bool) :
    c.journalMirror now ok = (c.mirrorFilled now).mirrorSkip n := by
  classical
  refine (Chip.journalMirror_waits waits ok).trans ((if_pos ready).trans ((if_pos paid).trans ?_))
  rw [full]

theorem Chip.journalMirror_writes {b : Nat} (block : (c.mirrorFilled now).mirrorBlock = some b) : c.journalMirror now true =
    (c.mirrorFilled now).mirrorPaid.mirrorWrite now b (mget [] c.cmd.ring (n % 4096)) := by
  classical
  refine (Chip.journalMirror_waits waits true).trans ((if_pos ready).trans ((if_pos paid).trans ?_))
  rw [block]
  exact if_pos rfl

theorem Chip.journalMirror_retires {b : Nat} (block : (c.mirrorFilled now).mirrorBlock = some b) :
    c.journalMirror now false = (c.mirrorFilled now).mirrorRetire now b := by
  classical
  refine (Chip.journalMirror_waits waits false).trans ((if_pos ready).trans ((if_pos paid).trans ?_))
  rw [block]
  exact if_neg Bool.false_ne_true

end

theorem Chip.mirrorSkip_unmir : (c.mirrorSkip n).cmd.unmir = ns := by
  rw [Chip.mirrorSkip_cmd]
  exact congrArg (List.drop 1) waits

end

end

/-- Settles O60: the record that a fault writes at HEAD, the class action, the journal entry, and the mirror of the oldest entry that waits. -/
theorem faultsAndJournal : Obligations.FaultsAndJournal := by
  refine ⟨fun c now f isl dom slice detail e => ⟨fun apart known => ?records, fun i corrected newest => ?coalesced,
      fun k hk other => Chip.classAct_island hk other, Chip.degrade_serving, Chip.degrade_other, Chip.deviceFault_service,
      Chip.deviceFault_stays, ?entry, ?waiting, c.rd_journal_next now e⟩,
    fun s n ns ok waits => ?mirror⟩
  case records =>
    obtain ⟨w0, w1, w2, w3⟩ := Chip.rd_record_log (c := c) (now := now) (code := f.code) (isl := isl) (dom := dom) (slice := slice)
      (detail := detail) (esc := raisedEscapes f isl dom) known
    have made := Chip.raise1_records (dom := dom) (detail := detail) apart
    exact ⟨(Chip.rd_of_due made _).trans w0, (Chip.rd_of_due made _).trans w1, (Chip.rd_of_due made _).trans w2, (Chip.rd_of_due made _).trans w3,
      (Chip.get_of_due made _ _).trans (Chip.get_record_head known), (Chip.get_of_due made _ _).trans Chip.get_record_tail,
      Chip.due_of_due made⟩
  case coalesced =>
    rw [Chip.raise1_coalesces corrected newest]
    exact ⟨Chip.set_due .., Chip.get_set_apart _ _ fun _ => .inl (by decide), Chip.get_set_apart _ _ fun _ => .inl (by decide)⟩
  case entry =>
    rw [Chip.journal_cmd]
    exact ⟨c.journalEntry now e, rfl, rfl, rfl, rfl, rfl, rfl, rfl, rfl⟩
  case waiting => exact congrArg CmdSt.unmir (c.journal_cmd now e)
  case mirror =>
    refine ⟨fun gone => State.exec_on rfl (Chip.journalMirror_notReady waits gone ok),
      fun ready unpaid => State.exec_on rfl (Chip.journalMirror_unpaid waits ready unpaid ok),
      fun ready paid full => State.exec_on rfl (Chip.journalMirror_full waits ready paid full ok), fun b ready paid block flash => ?_,
      fun b ready paid block flash => ?_, Chip.mirrorSkip_unmir (c := s.found.mirrorFilled s.time) waits,
      Chip.mirrorSkip_gapCount (c := s.found.mirrorFilled s.time)⟩
    all_goals subst flash
    · exact State.exec_on rfl (Chip.journalMirror_writes waits ready paid block)
    · exact State.exec_on rfl (Chip.journalMirror_retires waits ready paid block)

end Sys2Proof.Machine

/-! PROOFS. Fences, island resets, power domains, clocks, voltage, temperature (R462-R467, R469-R474, R476). -/

namespace Sys2Proof.Machine

/-! ### What a register write leaves -/

section
variable (c : Chip) (now a : Nat) (ws : List Word)

theorem Chip.filled_pwr : (c.filled now a ws).pwr = c.pwr := by
  obtain ⟨_, _, h⟩ := c.filled_eq now a ws
  rw [h]

theorem Chip.bound_filled (t : Nat) : (c.filled now a ws).bound t = c.bound t := 
  congrArg (fun p : PwrSt => mget Bound.init p.bound t) (c.filled_pwr now a ws)

theorem Chip.mill_filled (m : Nat) : (c.filled now a ws).mill m = c.mill m := by
  obtain ⟨_, _, h⟩ := c.filled_eq now a ws
  rw [h]
  rfl

theorem Chip.stampIn_filled (i n : Nat) : (c.filled now a ws).stampIn i n = c.stampIn i n := by
  obtain ⟨_, _, h⟩ := c.filled_eq now a ws
  rw [h]
  rfl

end

section
variable {r : RegRow} {a : Nat} (h : r.Stands a)
include h

theorem RegRow.Stands.mode_filled (c : Chip) (now : Nat) {ws : List Word} (hne : ws ≠ []) (hl : ws.length ≤ r.words)
    (other : A.CP_MODE < a ∨ a + 8 * r.words ≤ A.CP_MODE) : (c.filled now a ws).mode = c.mode :=
  h.get_filled c now (j := 0) hne (by omega) other

end

/-! ### CP_ISLAND_CTRL (R462) -/

/-- The targets of CP_ISLAND_CTRL. -/
def islandKnown (t : Nat) : Prop := t < 24 ∨ (32 ≤ t ∧ t ≤ 41)

section
variable {c : Chip} {now t : Nat}

theorem islandKnown_iff : (decide (t < 24) || (decide (32 ≤ t) && decide (t ≤ 41))) = true ↔ islandKnown t := by
  simp [islandKnown]

theorem Chip.islandCtrl_unknown (unknown : ¬islandKnown t) (op : Nat) : c.islandCtrl now t op = (Code.BAD_ARGUMENT, c) := by
  have no := Bool.eq_false_iff.mpr (islandKnown_iff.not.mpr unknown)
  simp [Chip.islandCtrl, no]

theorem Chip.islandCtrl_fence (known : islandKnown t) : c.islandCtrl now t 1 = (Code.OK, c.fenceBegin now t) := by
  simp [Chip.islandCtrl, islandKnown_iff.mpr known]

theorem Chip.islandCtrl_connected (host : t = 20 ∨ t = 21) (open_ : c.sluiced (t - 20) = false) :
    c.islandCtrl now t 2 = (Code.BAD_ARGUMENT, c) := by
  have range : 20 ≤ t ∧ t < 22 := by omega
  simp [Chip.islandCtrl, range, open_]

theorem Chip.islandCtrl_reset (known : islandKnown t) (shut : t = 20 ∨ t = 21 → c.sluiced (t - 20) = true)
    (mode : t = 23 → c.mode = Mode.recovery ∨ c.mode = Mode.diagnostic) :
    c.islandCtrl now t 2 = (Code.OK, (c.setBound t { c.bound t with held := false }).resetAsk now t) := by
  have admitted : ¬((!(decide (t < 24) || (decide (32 ≤ t) && decide (t ≤ 41))) || (2 != 1 && 2 != 2) ||
      (2 == 2 && decide (20 ≤ t) && decide (t < 22) && !c.sluiced (t - 20))) = true) := by
    rw [islandKnown_iff.mpr known]
    by_cases host : t = 20 ∨ t = 21
    · simp [shut host]
    · simp
      omega
  exact (if_neg admitted).trans ((if_neg (by decide)).trans (if_neg (by grind)))

theorem Chip.islandCtrl_mode (mr : t = 23) (recovery : c.mode ≠ Mode.recovery) (diagnostic : c.mode ≠ Mode.diagnostic) :
    c.islandCtrl now t 2 = (Code.MODE_REFUSED, c) := by
  subst mr
  unfold Chip.islandCtrl
  exact (if_neg (by simp)).trans ((if_neg (by decide)).trans (if_pos ⟨rfl, recovery, diagnostic⟩))

end

/-- The row of CP_ISLAND_CTRL in the register table. -/
def cpIslandRow : RegRow := nth ⟨0, [], 0, []⟩ cpRows 38

theorem cpIslandRow_stands : cpIslandRow.Stands A.CP_ISLAND_CTRL := ⟨by decide, by decide, by decide, by decide, by decide +kernel⟩

theorem Chip.hook_islandCtrl (c d : Chip) (now : Nat) (us : List (Nat × Word)) :
    c.hook d now ⟨cpIslandRow, A.CP_ISLAND_CTRL, us⟩ =
      d.islandCtrl now (getBits ((⟨cpIslandRow, A.CP_ISLAND_CTRL, us⟩ : Elem).raw 0) 0 6)
        (getBits ((⟨cpIslandRow, A.CP_ISLAND_CTRL, us⟩ : Elem).raw 0) 8 2) :=
  (Chip.hook_ao (Nat.le_of_ble_eq_true rfl) (Nat.le_of_ble_eq_true rfl)).trans rfl

/-- The fields of a number below 64 with an operation above it. -/
theorem getBits_targetOp (t : Fin 64) (op : Fin 4) :
    getBits (BitVec.ofNat 64 (t.val + op.val * 2 ^ 8)) 0 6 = t.val ∧ getBits (BitVec.ofNat 64 (t.val + op.val * 2 ^ 8)) 8 2 = op.val := by
  have : (BitVec.ofNat 64 (t.val + op.val * 2 ^ 8)).toNat = t.val + op.val * 2 ^ 8 := by
    rw [BitVec.toNat_ofNat]
    omega
  rw [getBits, getBits, this, Nat.shiftRight_eq_div_pow, Nat.shiftRight_eq_div_pow]
  omega

section
variable {s : State} (t : Fin 64) (hw : s.writable A.CP_ISLAND_CTRL = true)
include hw

theorem State.exec_islandFence {st : Status} {d : Chip}
    (rule : (s.found.filled s.time A.CP_ISLAND_CTRL [BitVec.ofNat 64 (t.val + 2 ^ 8)]).islandCtrl s.time t 1 = (st, d)) :
    exec (.islandFence t) s = s.wrote st d := by
  obtain ⟨target, op⟩ := getBits_targetOp t 1
  refine State.exec_stands cpIslandRow_stands (j := 0) rfl hw (List.cons_ne_nil _ _) (Nat.le_refl 1) ((Chip.hook_islandCtrl ..).trans ?_)
  exact (congrArg₂ _ target op).trans rule

theorem State.exec_islandReset {st : Status} {d : Chip}
    (rule : (s.found.filled s.time A.CP_ISLAND_CTRL [BitVec.ofNat 64 (t.val + 2 * 2 ^ 8)]).islandCtrl s.time t 2 = (st, d)) :
    exec (.islandReset t) s = s.wrote st d := by
  obtain ⟨target, op⟩ := getBits_targetOp t 2
  refine State.exec_stands cpIslandRow_stands (j := 0) rfl hw (List.cons_ne_nil _ _) (Nat.le_refl 1) ((Chip.hook_islandCtrl ..).trans ?_)
  exact (congrArg₂ _ target op).trans rule

end

/-! ### Fenced, Opening, AUTO_REOPEN (R464, R467, R476) -/

section
variable {c : Chip} {now t : Nat}

theorem Chip.fencedReached_fencing (fencing : (c.bound t).st = 1) : c.fencedReached now t =
    let e := c.fenceDone now t
    let d := targetDomain t
    if e.pwrState d = 3 ∧ 2 ≤ d then (e.switchOpen now d).pwrNext now d
    else if t < 16 ∧ e.pwrState (3 + 2 * t) = 3 then ((e.switchOpen now (3 + 2 * t)).resetNow now t).pwrNext now (3 + 2 * t)
    else if (e.bound t).reset then e.resetNow now t
    else e := if_neg (not_not.mpr fencing)

theorem Chip.autoReopen_due {u : Nat} (reopen : (c.bound t).reopen = some u) (due : u ≤ now) (free : (c.bound t).held = false)
    (shut : (c.bound t).st ≠ 0) (still : (c.bound t).st ≠ 3) (on : c.flag A.CP_FAULT_CFG F.CP_FAULT_CFG_AUTO_REOPEN = true) :
    c.autoReopen now t = c.resetAsk now t := by
  simp only [Chip.autoReopen, reopen]
  exact if_neg (by simp [free, shut, still, on, Nat.not_lt.mpr due])

end

/-! ### CP_PWR_REQ (R466) -/

section
variable {c : Chip} {now d : Nat}

/-- The adapter switches domains at a request. -/
def Chip.switches (c : Chip) : Prop := c.mode ≠ Mode.boot ∧ c.mode ≠ Mode.standby

theorem Chip.pwrReq_badArgument {on : Bool} (bad : ¬(2 ≤ d ∧ d < 50) ∨ c.pwrAllowed d on = false) :
    c.pwrReq now d on = (Code.BAD_ARGUMENT, c) :=
  if_pos (bad.elim (fun h => by omega) fun h => .inr (.inr h))

section
variable {on : Bool} (named : 2 ≤ d ∧ d < 50) (allowed : c.pwrAllowed d on = true)
include named allowed

theorem Chip.pwrReq_admits : ¬(d < 2 ∨ 50 ≤ d ∨ c.pwrAllowed d on = false) := by
  rw [allowed]
  simp
  omega

theorem Chip.pwrReq_modeRefused (mode : ¬c.switches) : c.pwrReq now d on = (Code.MODE_REFUSED, c) :=
  (if_neg (Chip.pwrReq_admits named allowed)).trans (if_pos (by unfold Chip.switches at mode; tauto))

theorem Chip.pwrReq_kept (mode : c.switches) (busy : c.pwrState d % 2 = 1) : c.pwrReq now d on =
    (Code.OK, (c.setFlag (A.CP_PWR_STATUS d) F.CP_PWR_STATUS_QUEUED true).setFlag (A.CP_PWR_STATUS d) F.CP_PWR_STATUS_QUEUED_ON on) :=
  (if_neg (Chip.pwrReq_admits named allowed)).trans ((if_neg (not_or.mpr mode)).trans (if_pos busy))

theorem Chip.pwrReq_done (mode : c.switches) (still : ¬c.pwrState d % 2 = 1) : c.pwrReq now d on = (Code.OK, c.pwrDo now d on) :=
  (if_neg (Chip.pwrReq_admits named allowed)).trans ((if_neg (not_or.mpr mode)).trans (if_neg still))

end

theorem Chip.pwrDo_on : c.pwrDo now d true = if c.pwrState d = 0 then c.switchClose d else c := rfl

theorem Chip.pwrDo_off (on : c.pwrState d = 2) : c.pwrDo now d false =
    if (c.bound (domainTarget d)).st = 2 then c.switchOpen now d else (c.setPwr d 3).fenceBegin now (domainTarget d) := if_neg (not_not.mpr on)

theorem Chip.pwrDo_off_already (off : c.pwrState d ≠ 2) : c.pwrDo now d false = c := if_pos off

/-- Between requests a domain is on or off. -/
theorem Chip.pwrState_odd : c.pwrState d % 2 = 1 ↔ ¬(c.pwrState d = 0 ∨ c.pwrState d = 2) := by
  have : c.pwrState d < 4 := c.get_lt ..
  omega

end

/-- The row of CP_PWR_REQ in the register table. -/
def cpPwrRow : RegRow := nth ⟨0, [], 0, []⟩ cpRows 40

theorem cpPwrRow_stands : cpPwrRow.Stands A.CP_PWR_REQ := ⟨by decide, by decide, by decide, by decide, by decide +kernel⟩

theorem Chip.hook_pwrReq (c d : Chip) (now : Nat) (us : List (Nat × Word)) :
    c.hook d now ⟨cpPwrRow, A.CP_PWR_REQ, us⟩ =
      d.pwrReq now (getBits ((⟨cpPwrRow, A.CP_PWR_REQ, us⟩ : Elem).raw 0) 0 6)
        (getBits ((⟨cpPwrRow, A.CP_PWR_REQ, us⟩ : Elem).raw 0) 8 1 == 1) :=
  (Chip.hook_ao (Nat.le_of_ble_eq_true rfl) (Nat.le_of_ble_eq_true rfl)).trans rfl

/-- The fields of a request for a domain. -/
theorem getBits_domainOn (d : Fin 64) (on : Fin 2) :
    getBits (BitVec.ofNat 64 (d.val + on.val * 2 ^ 8)) 0 6 = d.val ∧ getBits (BitVec.ofNat 64 (d.val + on.val * 2 ^ 8)) 8 1 = on.val := by
  have : (BitVec.ofNat 64 (d.val + on.val * 2 ^ 8)).toNat = d.val + on.val * 2 ^ 8 := by
    rw [BitVec.toNat_ofNat]
    omega
  rw [getBits, getBits, this, Nat.shiftRight_eq_div_pow, Nat.shiftRight_eq_div_pow]
  omega

section
variable {s : State} (d : Fin 64) (hw : s.writable A.CP_PWR_REQ = true)
include hw

theorem State.exec_domainPowerOn {st : Status} {e : Chip}
    (rule : (s.found.filled s.time A.CP_PWR_REQ [BitVec.ofNat 64 (d.val + 2 ^ 8)]).pwrReq s.time d true = (st, e)) :
    exec (.domainPowerOn d) s = s.wrote st e := by
  obtain ⟨domain, on⟩ := getBits_domainOn d 1
  refine State.exec_stands cpPwrRow_stands (j := 0) rfl hw (List.cons_ne_nil _ _) (Nat.le_refl 1) ((Chip.hook_pwrReq ..).trans ?_)
  exact (congrArg₂ _ domain (congrArg (· == 1) on)).trans rule

theorem State.exec_domainPowerOff {st : Status} {e : Chip}
    (rule : (s.found.filled s.time A.CP_PWR_REQ [BitVec.ofNat 64 d.val]).pwrReq s.time d false = (st, e)) :
    exec (.domainPowerOff d) s = s.wrote st e := by
  obtain ⟨domain, off⟩ := getBits_domainOn d 0
  refine State.exec_stands cpPwrRow_stands (j := 0) rfl hw (List.cons_ne_nil _ _) (Nat.le_refl 1) ((Chip.hook_pwrReq ..).trans ?_)
  exact (congrArg₂ _ domain (congrArg (· == 1) off)).trans rule

end

/-! ### What a request to CP_PWR_REQ finds -/

section
variable (c : Chip) (now : Nat) (v : Word) (d : Nat)

theorem Chip.pwrState_filled : (c.filled now A.CP_PWR_REQ [v]).pwrState d = c.pwrState d :=
  cpPwrRow_stands.get_filled c now (j := 0) (List.cons_ne_nil _ _) (Nat.le_refl 1) (.inr (Nat.le_add_right_of_le (Nat.le_add_right_of_le (by decide))))

theorem Chip.pwrAllowed_filled (on : Bool) : (c.filled now A.CP_PWR_REQ [v]).pwrAllowed d on = c.pwrAllowed d on := by
  simp only [Chip.pwrAllowed, Chip.pwrState_filled]

theorem Chip.switches_filled : (c.filled now A.CP_PWR_REQ [v]).switches ↔ c.switches := by
  rw [Chip.switches, cpPwrRow_stands.mode_filled c now (ws := [v]) (List.cons_ne_nil _ _) (Nat.le_refl 1) (.inl (by decide)), Chip.switches]

end

end Sys2Proof.Machine

/-! PROOFS. Clocks, voltage, temperature, PLLs, the fault ring; the power obligations together (R462-R474, R476). -/

namespace Sys2Proof.Machine

/-! ### Mill clocks (R469) -/

/-- The row of CP_CLK_MILL in the register table. -/
def cpClkRow : RegRow := nth ⟨0, [], 0, []⟩ cpRows 43

theorem cpClkRow_stands (m : MillNo) : cpClkRow.Stands (A.CP_CLK_MILL m) :=
  ⟨by revert m; decide, by revert m; decide, by revert m; decide, by revert m; decide, by revert m; decide +kernel⟩

theorem Chip.hook_clkMill (c d : Chip) (now : Nat) (m : MillNo) (us : List (Nat × Word)) :
    c.hook d now ⟨cpClkRow, A.CP_CLK_MILL m, us⟩ =
      if mhzOk (d.get (A.CP_CLK_MILL m) F.CP_CLK_MILL_MHZ_SET) then (Code.OK, d.clkWrite now m) else (Code.BAD_ARGUMENT, c) := by
  have index : (⟨cpClkRow, A.CP_CLK_MILL m, us⟩ : Elem).i = m := Elem.i_array (count := 16) (stride := 8) rfl rfl (by decide)
  have low : 0x6000 ≤ A.CP_CLK_MILL m := Nat.le_add_right_of_le (by decide)
  have high : A.CP_CLK_MILL m < 0x8000 := by
    unfold A.CP_CLK_MILL
    omega
  rw [Chip.hook_ao low high, Chip.aoHook, index]
  rfl

theorem mhzOk_iff {f : Nat} : mhzOk f = true ↔ 800 ≤ f ∧ f ≤ 2200 ∧ f % 100 = 0 := by
  simp [mhzOk, within, and_assoc]

section
variable {s : State} {m : MillNo} {mhz : BitVec 12} (hw : s.writable (A.CP_CLK_MILL m) = true)
include hw

theorem State.exec_millClockWrite {st : Status} {d : Chip}
    (rule : (if mhzOk ((s.found.filled s.time (A.CP_CLK_MILL m) [mhz.zeroExtend 64]).get (A.CP_CLK_MILL m) F.CP_CLK_MILL_MHZ_SET) then
      (Code.OK, (s.found.filled s.time (A.CP_CLK_MILL m) [mhz.zeroExtend 64]).clkWrite s.time m) else (Code.BAD_ARGUMENT, s.found)) = (st, d)) :
    exec (.millClockWrite m mhz) s = s.wrote st d :=
  State.exec_stands (cpClkRow_stands m) (j := 0) rfl hw (List.cons_ne_nil _ _) (Nat.le_refl 1) ((Chip.hook_clkMill ..).trans rule)

end

section
variable {c : Chip} {now m : Nat}

theorem Chip.clkDone_busy (busy : memNat m c.pwr.clkBusy = true) : c.clkDone now m =
    let d : Chip := { c with pwr := { c.pwr with clkBusy := c.pwr.clkBusy.filter fun k => k != m } }
    let x := d.mill m
    let gone := c.stampIn m now - x.clkAt
    let ts := x.threads.map fun y => (y.1, if y.2.wait = .none then y.2 else { y.2 with since := y.2.since + gone })
    (d.setMill m { x with stall := x.stall.map (· + gone), threads := ts, clkAt := 0 }).showMhz m :=
  if_neg (by simp [busy])

end

/-! ### Voltage (R470) -/

section
variable {c : Chip} {now n : Nat}

theorem Chip.avsWaits_iff : c.avsWaits now n = true ↔ ∃ t, mget none c.pwr.avsAt n = some t ∧ t ≤ now ∧ now < t + ns 10000 := by
  unfold Chip.avsWaits
  cases mget none c.pwr.avsAt n <;> simp

theorem Chip.avsStep_waits (waits : c.avsWaits now n = true) (up : Bool) : c.avsStep now n up = c := by
  unfold Chip.avsStep
  rw [waits]
  rfl

/-- The time of a step is noted. -/
def Chip.avsNoted (c : Chip) (now n : Nat) : Chip := { c with pwr := { c.pwr with avsAt := mset none c.pwr.avsAt n (some now) } }

theorem Chip.avsStep_steps (free : ¬c.avsWaits now n = true) (up : Bool) : c.avsStep now n up =
    let a := A.CP_AVS n
    let mv := c.get a F.CP_AVS_MV
    let b := c.avsNoted now n
    if up then
      if 850 ≤ mv then
        if n < 16 then
          (({ b with pwr := { b.pwr with avsCut := mset 0 c.pwr.avsCut n (mget 0 c.pwr.avsCut n + 1) } } : Chip).showMhz n).raise now
            Flt.CP_AVS_LIMIT n 63 0 0
        else b.raise now Flt.CP_ISLAND_CLOCK n 63 0 0
      else (b.set a F.CP_AVS_MV (mv + 5)).setFlag a F.CP_AVS_AT_LIMIT (decide (850 ≤ mv + 5))
    else if 650 < mv then (b.set a F.CP_AVS_MV (mv - 5)).setFlag a F.CP_AVS_AT_LIMIT false
    else b := by
  unfold Chip.avsStep
  rw [Bool.not_eq_true] at free
  rw [free]
  rfl

end

/-! ### Temperature (R471) -/

section
variable {c : Chip} {now : Nat} {temp : Int}

/-- The temperature, in sixteenths of a degree, from which the Mills throttle. -/
def Chip.throttleAt (c : Chip) : Int := 16 * (c.get A.CP_THERMAL F.CP_THERMAL_THROTTLE_C : Nat)

/-- The temperature from which the adapter trips. -/
def Chip.tripAt (c : Chip) : Int := 16 * (c.get A.CP_THERMAL F.CP_THERMAL_TRIP_C : Nat)

/-- The Mills throttle, or no longer; their clocks follow. -/
def Chip.throttles (c : Chip) (b : Bool) : Chip :=
  (List.range 16).foldl (fun (c : Chip) m => c.showMhz m) { c with pwr := { c.pwr with throttled := b } }

/-- What a trip leaves. -/
def Chip.tripped (c : Chip) (now : Nat) : Chip :=
  ((offOrder.filter fun d => decide (d < 38) && decide (2 ≤ d) || decide (48 ≤ d)).foldl (Chip.cutOff now) c).raise now
    Flt.CP_THERMAL_TRIP 24 63 0 0

/-- The Mills after a reading of the hottest sensor. -/
def Chip.heated (c : Chip) (now : Nat) (temp : Int) : Chip :=
  if c.throttleAt ≤ temp ∧ c.pwr.throttled = false then (c.throttles true).raise now Flt.CP_THERMAL_THROTTLE 24 63 0 0
  else if temp < c.throttleAt - 80 ∧ c.pwr.throttled = true then c.throttles false else c

theorem Chip.thermal_eq : c.thermal now temp = if c.tripAt ≤ temp then (c.heated now temp).tripped now else c.heated now temp := rfl

theorem Chip.heated_hot (hot : c.throttleAt ≤ temp) (free : c.pwr.throttled = false) :
    c.heated now temp = (c.throttles true).raise now Flt.CP_THERMAL_THROTTLE 24 63 0 0 := if_pos ⟨hot, free⟩

theorem Chip.heated_cool (cool : temp < c.throttleAt - 80) (on : c.pwr.throttled = true) : c.heated now temp = c.throttles false :=
  (if_neg (by simp [on])).trans (if_pos ⟨cool, on⟩)

theorem Chip.heated_warm (warm : c.throttleAt - 80 ≤ temp) (on : c.pwr.throttled = true) : c.heated now temp = c :=
  (if_neg (by simp [on])).trans (if_neg fun h => Int.not_le.mpr h.1 warm)

end

/-! ### The fault ring (R474) -/

/-- The row of CP_FAULT_TAIL in the register table. -/
def cpFaultTailRow : RegRow := nth ⟨0, [], 0, []⟩ cpRows 48

theorem cpFaultTailRow_stands : cpFaultTailRow.Stands A.CP_FAULT_TAIL := ⟨by decide, by decide, by decide, by decide, by decide +kernel⟩

theorem Chip.hook_faultTail (c d : Chip) (now : Nat) (v : Word) :
    c.hook d now ⟨cpFaultTailRow, A.CP_FAULT_TAIL, [(0, v)]⟩ =
      judge c d (tailOk 512 (c.get A.CP_FAULT_HEAD ⟨0, 0, 9⟩) (c.get A.CP_FAULT_TAIL ⟨0, 0, 9⟩) (getBits v 0 9)) :=
  (Chip.hook_ao (Nat.le_of_ble_eq_true rfl) (Nat.le_of_ble_eq_true rfl)).trans rfl

theorem State.exec_faultTailWrite {s : State} {v : Word} {st : Status} {d : Chip} (hw : s.writable A.CP_FAULT_TAIL = true)
    (rule : judge s.found (s.found.filled s.time A.CP_FAULT_TAIL [v]) (tailOk 512 (s.found.get A.CP_FAULT_HEAD ⟨0, 0, 9⟩)
      (s.found.get A.CP_FAULT_TAIL ⟨0, 0, 9⟩) (getBits v 0 9)) = (st, d)) : exec (.faultTailWrite v) s = s.wrote st d :=
  State.exec_stands cpFaultTailRow_stands (j := 0) rfl hw (List.cons_ne_nil _ _) (Nat.le_refl 1) ((Chip.hook_faultTail ..).trans rule)

/-! ### The obligation -/

section
variable (s : State) (t d : Fin 64)

/-- What CP_ISLAND_CTRL asks for, by target, mode and Sluice. -/
theorem State.islandCtrl_writes (hw : s.writable A.CP_ISLAND_CTRL = true) :
    let c := s.found
    let now := s.time
    let known := islandKnown t
    let f := c.filled now A.CP_ISLAND_CTRL [BitVec.ofNat 64 (t.val + 2 ^ 8)]
    let r := c.filled now A.CP_ISLAND_CTRL [BitVec.ofNat 64 (t.val + 2 * 2 ^ 8)]
    let freed := r.setBound t { c.bound t with held := false }
    let host := t.val = 20 ∨ t.val = 21
    (known → exec (.islandFence t) s = s.wrote Code.OK (f.fenceBegin now t)) ∧
    (¬known → exec (.islandFence t) s = s.wrote Code.BAD_ARGUMENT f ∧ exec (.islandReset t) s = s.wrote Code.BAD_ARGUMENT r) ∧
    (known → ¬host → t.val ≠ 23 → exec (.islandReset t) s = s.wrote Code.OK (freed.resetAsk now t)) ∧
    (host → c.sluiced (t.val - 20) = false → exec (.islandReset t) s = s.wrote Code.BAD_ARGUMENT r) ∧
    (host → c.sluiced (t.val - 20) = true → exec (.islandReset t) s = s.wrote Code.OK (freed.resetAsk now t)) ∧
    (t.val = 23 → c.mode = Mode.recovery ∨ c.mode = Mode.diagnostic → exec (.islandReset t) s = s.wrote Code.OK (freed.resetAsk now t)) ∧
    (t.val = 23 → c.mode ≠ Mode.recovery → c.mode ≠ Mode.diagnostic → exec (.islandReset t) s = s.wrote Code.MODE_REFUSED r) := by
  intro c now known f r freed host
  have mode : r.mode = c.mode := cpIslandRow_stands.mode_filled c now (List.cons_ne_nil _ _) (Nat.le_refl 1) (.inl (by decide))
  have sluiced (x : Nat) : r.sluiced x = c.sluiced x := congrArg (· == 1) (cpIslandRow_stands.get_filled c now (j := 0) (b := 0x20000018 + 0x8000000 * x)
    (f := ⟨0, 0, 1⟩) (List.cons_ne_nil _ _) (Nat.le_refl 1) (.inr (Nat.le_add_right_of_le (Nat.le_add_right_of_le (by decide)))))
  have reset (known : islandKnown t) (shut : host → c.sluiced (t.val - 20) = true)
      (mr : t.val = 23 → c.mode = Mode.recovery ∨ c.mode = Mode.diagnostic) : exec (.islandReset t) s = s.wrote Code.OK (freed.resetAsk now t) := by
    refine State.exec_islandReset t hw ((Chip.islandCtrl_reset known (fun h => (sluiced _).trans (shut h)) fun h => ?_).trans ?_)
    · rw [mode]
      exact mr h
    · rw [Chip.bound_filled]
  refine ⟨fun known => State.exec_islandFence t hw (Chip.islandCtrl_fence known),
    fun unknown => ⟨State.exec_islandFence t hw (Chip.islandCtrl_unknown unknown 1), State.exec_islandReset t hw (Chip.islandCtrl_unknown unknown 2)⟩,
    fun known other notMr => reset known (fun h => absurd h other) fun h => absurd h notMr,
    fun host open_ => State.exec_islandReset t hw (Chip.islandCtrl_connected host ((sluiced _).trans open_)),
    fun host shut => reset (.inl (by omega)) (fun _ => shut) (by omega), fun mr ok => reset (.inl (by omega)) (by omega) fun _ => ok,
    fun mr recovery diagnostic => State.exec_islandReset t hw (Chip.islandCtrl_mode mr (by rwa [mode]) (by rwa [mode]))⟩

/-- What CP_PWR_REQ asks for, by the domain's state and the mode. -/
theorem State.pwrReq_writes (hw : s.writable A.CP_PWR_REQ = true) :
    let c := s.found
    let now := s.time
    let a := A.CP_PWR_STATUS d
    let on := c.filled now A.CP_PWR_REQ [BitVec.ofNat 64 (d.val + 2 ^ 8)]
    let off := c.filled now A.CP_PWR_REQ [BitVec.ofNat 64 d.val]
    let kept (e : Chip) (b : Bool) : Chip := (e.setFlag a F.CP_PWR_STATUS_QUEUED true).setFlag a F.CP_PWR_STATUS_QUEUED_ON b
    let named := 2 ≤ d.val ∧ d.val < 50
    let runs := c.mode ≠ Mode.boot ∧ c.mode ≠ Mode.standby
    let still := c.pwrState d = 0 ∨ c.pwrState d = 2
    (named → c.pwrAllowed d true = true → runs → still → exec (.domainPowerOn d) s =
      s.wrote Code.OK (if c.pwrState d = 0 then on.switchClose d else on)) ∧
    (named → c.pwrAllowed d true = true → runs → ¬still → exec (.domainPowerOn d) s = s.wrote Code.OK (kept on true)) ∧
    (named → c.pwrAllowed d false = true → runs → c.pwrState d = 2 → exec (.domainPowerOff d) s = s.wrote Code.OK
      (if (c.bound (domainTarget d)).st = 2 then off.switchOpen now d else (off.setPwr d 3).fenceBegin now (domainTarget d))) ∧
    (named → c.pwrAllowed d false = true → runs → c.pwrState d = 0 → exec (.domainPowerOff d) s = s.wrote Code.OK off) ∧
    (named → c.pwrAllowed d false = true → runs → ¬still → exec (.domainPowerOff d) s = s.wrote Code.OK (kept off false)) ∧
    (named → ¬runs →
      (c.pwrAllowed d true = true → exec (.domainPowerOn d) s = s.wrote Code.MODE_REFUSED on) ∧
      (c.pwrAllowed d false = true → exec (.domainPowerOff d) s = s.wrote Code.MODE_REFUSED off)) ∧
    (¬named ∨ c.pwrAllowed d true = false → exec (.domainPowerOn d) s = s.wrote Code.BAD_ARGUMENT on) ∧
    (¬named ∨ c.pwrAllowed d false = false → exec (.domainPowerOff d) s = s.wrote Code.BAD_ARGUMENT off) := by
  intro c now a on off kept named runs still
  have allowed (v : Word) (b : Bool) : (c.filled now A.CP_PWR_REQ [v]).pwrAllowed d b = c.pwrAllowed d b := c.pwrAllowed_filled now v d b
  have switches (v : Word) : (c.filled now A.CP_PWR_REQ [v]).switches ↔ runs := c.switches_filled now v
  have state (v : Word) : (c.filled now A.CP_PWR_REQ [v]).pwrState d = c.pwrState d := c.pwrState_filled now v d
  have odd (v : Word) : (c.filled now A.CP_PWR_REQ [v]).pwrState d % 2 = 1 ↔ ¬still := by
    rw [state]
    exact Chip.pwrState_odd
  refine ⟨fun n ok r still => ?on, fun n ok r busy => ?keptOn, fun n ok r two => ?off, fun n ok r zero => ?offOff, fun n ok r busy => ?keptOff,
    fun n stopped => ⟨fun ok => ?modeOn, fun ok => ?modeOff⟩, fun bad => ?badOn, fun bad => ?badOff⟩
  case on =>
    refine State.exec_domainPowerOn d hw ((Chip.pwrReq_done n ((allowed ..).trans ok) ((switches _).mpr r) ((odd _).not.mpr (not_not.mpr still))).trans ?_)
    rw [Chip.pwrDo_on, state]
  case keptOn => exact State.exec_domainPowerOn d hw (Chip.pwrReq_kept n ((allowed ..).trans ok) ((switches _).mpr r) ((odd _).mpr busy))
  case off =>
    refine State.exec_domainPowerOff d hw ((Chip.pwrReq_done n ((allowed ..).trans ok) ((switches _).mpr r)
      ((odd _).not.mpr (not_not.mpr (.inr two)))).trans ?_)
    rw [Chip.pwrDo_off ((state _).trans two), Chip.bound_filled]
  case offOff =>
    refine State.exec_domainPowerOff d hw ((Chip.pwrReq_done n ((allowed ..).trans ok) ((switches _).mpr r)
      ((odd _).not.mpr (not_not.mpr (.inl zero)))).trans ?_)
    rw [Chip.pwrDo_off_already (by rw [state, zero]; decide)]
  case keptOff => exact State.exec_domainPowerOff d hw (Chip.pwrReq_kept n ((allowed ..).trans ok) ((switches _).mpr r) ((odd _).mpr busy))
  case modeOn => exact State.exec_domainPowerOn d hw (Chip.pwrReq_modeRefused n ((allowed ..).trans ok) ((switches _).not.mpr stopped))
  case modeOff => exact State.exec_domainPowerOff d hw (Chip.pwrReq_modeRefused n ((allowed ..).trans ok) ((switches _).not.mpr stopped))
  case badOn => exact State.exec_domainPowerOn d hw (Chip.pwrReq_badArgument (bad.imp_right (allowed ..).trans))
  case badOff => exact State.exec_domainPowerOff d hw (Chip.pwrReq_badArgument (bad.imp_right (allowed ..).trans))

end

/-- Settles O59: each event by its operation; what a write finds of modes, domains and boundaries stands as it did. -/
theorem powerAndClocks : Obligations.PowerAndClocks := by
  refine ⟨fun s t d => ⟨State.islandCtrl_writes s t, fun fencing => ⟨?stops, ?halfB, ?fenced⟩, fun other => ?none, fun opens => ?opens,
      fun shut low ramp => ?ramp, fun u reopen due free shut still on => State.exec_on rfl (Chip.autoReopen_due reopen due free shut still on),
      State.pwrReq_writes s d, fun ramp => State.exec_on rfl (if_neg (not_not.mpr ramp))⟩,
    fun s m mhz n temp g e v => ⟨fun hw => ⟨fun ok => ?clk, fun bad => ?clkBad⟩, fun busy => State.exec_on rfl (Chip.clkDone_busy busy), ?avs, ?thermal,
      fun runs => State.exec_on rfl (if_neg (Nat.not_le.mpr runs)), fun up => State.exec_on rfl (if_pos up), fun up => State.exec_on rfl (if_pos up),
      fun runs up => State.exec_on rfl (if_neg ?island), fun hw => ⟨fun ok => ?tail, fun bad => ?tailBad⟩⟩⟩
  case stops => exact fun three named => State.exec_on rfl ((Chip.fencedReached_fencing fencing).trans (if_pos ⟨three, named⟩))
  case halfB => exact fun keeps low three => State.exec_on rfl ((Chip.fencedReached_fencing fencing).trans ((if_neg keeps).trans (if_pos ⟨low, three⟩)))
  case fenced => exact fun keeps half => State.exec_on rfl ((Chip.fencedReached_fencing fencing).trans ((if_neg keeps).trans (if_neg half)))
  case none => exact State.exec_on rfl (if_pos other)
  case opens => exact State.exec_on rfl (if_pos opens)
  case ramp => exact State.exec_on rfl ((if_neg (Bool.eq_false_iff.mp shut)).trans (if_pos ⟨low, ramp⟩))
  case clk =>
    refine State.exec_millClockWrite hw ((if_pos (mhzOk_iff.mpr ok)).trans (congrArg (Prod.mk Code.OK) ?_))
    unfold Chip.clkWrite
    rw [Chip.filled_pwr, Chip.stampIn_filled]
  case clkBad => exact State.exec_millClockWrite hw (if_neg (mhzOk_iff.not.mpr bad))
  case avs =>
    refine ⟨fun waits up => State.exec_on rfl (Chip.avsStep_waits (Chip.avsWaits_iff.mpr waits) up), fun free low => ?_, fun free top mill => ?_,
      fun free top island => ?_, fun free above => ?_, fun free floor => ?_⟩
    all_goals refine State.exec_on rfl ((Chip.avsStep_steps (Chip.avsWaits_iff.not.mpr free) _).trans ?_)
    · exact (if_pos rfl).trans (if_neg (Nat.not_le.mpr low))
    · exact (if_pos rfl).trans ((if_pos top).trans (if_pos mill))
    · exact (if_pos rfl).trans ((if_pos top).trans (if_neg (Nat.not_lt.mpr island)))
    · exact (if_neg Bool.false_ne_true).trans (if_pos above)
    · exact (if_neg Bool.false_ne_true).trans (if_neg (Nat.not_lt.mpr floor))
  case thermal =>
    refine ⟨fun hot free => ?_, fun cool below on => ?_, fun warm on => ?_⟩
    all_goals refine State.exec_on rfl (Chip.thermal_eq.trans ?_)
    · rw [Chip.heated_hot hot free]
      rfl
    · rw [Chip.heated_cool cool on]
      exact if_neg (Int.not_le.mpr below)
    · rw [Chip.heated_warm warm on]
      rfl
  case island => simp [up, Nat.not_le.mpr runs]
  case tail => exact State.exec_faultTailWrite hw (if_pos ok)
  case tailBad => exact State.exec_faultTailWrite hw (if_neg (Bool.eq_false_iff.mp bad))

end Sys2Proof.Machine

/-! PROOFS. Mode transitions, Drain, Standby, boot and firmware, dumps (R427, R444, R449-R457, R461, R487). -/

namespace Sys2Proof.Machine

/-! ### What a MODE word asks for (R449, Table 17-5) -/

section
variable {c : Chip} {now m : Nat}

/-- Leaving Quarantine after a fatal-device fault. -/
def Chip.leavesFaulty (c : Chip) (m : Nat) : Prop :=
  c.mode = Mode.quarantine ∧ (m = Mode.provision ∨ m = Mode.service) ∧ c.flag A.CP_MODE F.CP_MODE_DEVICE_FAULT = true

theorem Chip.modeRequest_badArgument (bad : m = 0 ∨ 13 ≤ m) : c.modeRequest now m = (Code.BAD_ARGUMENT, false, c) := if_pos bad

section
variable (low : 1 ≤ m) (high : m ≤ 12)
include low high

theorem Chip.modeRequest_same (same : m = c.mode) : c.modeRequest now m = (Code.OK, false, c) := (if_neg (by omega)).trans (if_pos same)

variable (other : m ≠ c.mode)
include other

theorem Chip.modeRequest_faulty (faulty : c.leavesFaulty m) : c.modeRequest now m = (Code.OK, false, c.enterMode now Mode.recovery) :=
  (if_neg (by omega)).trans ((if_neg other).trans (if_pos faulty))

variable (sound : ¬c.leavesFaulty m)
include sound

theorem Chip.modeRequest_refused (unlisted : c.modeListed m = false) : c.modeRequest now m = (Code.MODE_REFUSED, false, c) :=
  (if_neg (by omega)).trans ((if_neg other).trans ((if_neg sound).trans (if_pos (by simp [unlisted]))))

variable (listed : c.modeListed m = true)
include listed

theorem Chip.modeRequest_standby (standby : m = Mode.standby) : c.modeRequest now m =
    (Code.OK, true, ({ c with pwr := { c.pwr with standby := some (c.pwr.standby.getD (now + ns 100000000)) } } : Chip).standbyEnter now) :=
  (if_neg (by omega)).trans ((if_neg other).trans ((if_neg sound).trans ((if_neg (by simp [listed])).trans (if_pos standby))))

theorem Chip.modeRequest_enters (up : m ≠ Mode.standby) (awake : c.mode ≠ Mode.standby) :
    c.modeRequest now m = (Code.OK, false, c.enterTarget now m) :=
  (if_neg (by omega)).trans ((if_neg other).trans ((if_neg sound).trans ((if_neg (by simp [listed])).trans ((if_neg up).trans (if_neg awake)))))

end

theorem Chip.enterTarget_of_ne (other : m ≠ Mode.service) : c.enterTarget now m = c.enterMode now m := by
  rw [Chip.enterTarget, if_neg (fun h => other h.1)]

theorem Chip.not_leavesFaulty (other : c.mode ≠ Mode.quarantine) : ¬c.leavesFaulty m := fun h => other h.1

/-- A mode that Table 17-5 lists, Standby and Service apart, is entered as it stands. -/
theorem Chip.modeRequest_lists (range : 1 ≤ m ∧ m ≤ 12) (other : m ≠ c.mode) (sound : ¬c.leavesFaulty m) (listed : c.modeListed m = true)
    (up : m ≠ Mode.standby ∧ m ≠ Mode.service) (awake : c.mode ≠ Mode.standby) : c.modeRequest now m = (Code.OK, false, c.enterMode now m) := by
  rw [Chip.modeRequest_enters range.1 range.2 other sound listed up.1 awake, Chip.enterTarget_of_ne up.2]

/-! ### The modes that Table 17-5 lists -/

theorem Chip.modeListed_none {k : Nat} (closed : k = Mode.off ∨ k = Mode.held ∨ k = Mode.boot ∨ k = Mode.recovery) (mode : c.mode = k) :
    c.modeListed m = false := by
  unfold Chip.modeListed
  rw [mode]
  rcases closed with rfl | rfl | rfl | rfl <;> rfl

theorem Chip.modeListed_provision (mode : c.mode = Mode.provision) : c.modeListed m =
    ((m == Mode.service && !c.loading) || m == Mode.diagnostic || (m == Mode.standby && c.standbyOk) || m == Mode.quarantine) := by
  unfold Chip.modeListed
  exact if_pos mode

theorem Chip.modeListed_serving (mode : c.mode = Mode.service ∨ c.mode = Mode.degraded) : c.modeListed m =
    ((m == Mode.drain && c.get A.CP_DRAIN_CFG F.CP_DRAIN_CFG_SOURCES != 0) || m == Mode.update || m == Mode.quarantine) := by
  have other : c.mode ≠ Mode.provision := by
    rcases mode with h | h <;> rw [h] <;> decide
  unfold Chip.modeListed
  exact (if_neg other).trans (if_pos mode)

theorem Chip.modeListed_diagnostic (mode : c.mode = Mode.diagnostic) : c.modeListed m = (m == Mode.provision || m == Mode.quarantine) := by
  unfold Chip.modeListed
  rw [mode]
  rfl

theorem Chip.modeListed_quarantine (mode : c.mode = Mode.quarantine) : c.modeListed m = (m == Mode.provision || m == Mode.service) := by
  unfold Chip.modeListed
  rw [mode]
  rfl

/-- The modes that work may be done in list Quarantine. -/
theorem Chip.modeListed_toQuarantine (mode : c.mode = Mode.provision ∨ c.mode = Mode.service ∨ c.mode = Mode.degraded ∨ c.mode = Mode.drain ∨
    c.mode = Mode.update ∨ c.mode = Mode.diagnostic) : c.modeListed Mode.quarantine = true := by
  unfold Chip.modeListed
  rcases mode with h | h | h | h | h | h <;> rw [h] <;> simp [Mode.provision, Mode.service, Mode.degraded, Mode.drain, Mode.update, Mode.diagnostic]

end

end Sys2Proof.Machine

/-! PROOFS. Firmware and self-test: what boot and the start of firmware leave of the supplies (R427, R451, R461, R487). -/

namespace Sys2Proof.Machine

/-! ### The format of the VDD_CORE regulator stands (R487) -/

/-- The VDD_CORE regulator reports to `d` the format that it reports to `c`. -/
def Chip.SameVout (c d : Chip) : Prop := d.pwr.vout = c.pwr.vout

section
variable {c d : Chip}

theorem Chip.SameVout.refl (c : Chip) : c.SameVout c := rfl

section
variable (h : c.SameVout d)
include h

theorem Chip.SameVout.trans {e : Chip} (h' : d.SameVout e) : c.SameVout e := Eq.trans h' h

/-- Every change that leaves the power state. -/
theorem Chip.SameVout.keep {e : Chip} (kept : e.pwr = d.pwr) : c.SameVout e := (congrArg PwrSt.vout kept).trans h

theorem Chip.SameVout.wr (a : Nat) (v : Word) : c.SameVout (d.wr a v) := h.keep (Chip.wr_pwr ..)

theorem Chip.SameVout.set (a : Nat) (f : Fld) (v : Nat) : c.SameVout (d.set a f v) := h.keep (Chip.set_pwr ..)

theorem Chip.SameVout.setFlag (a : Nat) (f : Fld) (b : Bool) : c.SameVout (d.setFlag a f b) := h.keep (Chip.setFlag_pwr ..)

theorem Chip.SameVout.inc (a : Nat) : c.SameVout (d.inc a) := h.keep (Chip.inc_pwr ..)

theorem Chip.SameVout.pwr {x : PwrSt} (kept : x.vout = d.pwr.vout) : c.SameVout { d with pwr := x } := kept.trans h

theorem Chip.SameVout.setPwr (n x : Nat) : c.SameVout (d.setPwr n x) := h.set _ _ _

theorem Chip.SameVout.newest (i : Option Nat) : c.SameVout { d with pwr := { d.pwr with newest := i } } := h

theorem Chip.SameVout.dues (us : List Due) : c.SameVout { d with due := us } := h

theorem Chip.SameVout.cmds (x : CmdSt) : c.SameVout { d with cmd := x } := h

theorem Chip.SameVout.flashed (x : FlashSt) : c.SameVout { d with flash := x } := h

theorem Chip.SameVout.setBound (t : Nat) (b : Bound) : c.SameVout (d.setBound t b) := h.pwr rfl

theorem Chip.SameVout.journal (now : Nat) (e : JEvent) : c.SameVout (d.journal now e) := by
  refine h.keep ?_
  unfold Chip.journal
  exact Chip.wr_pwr ..

theorem Chip.SameVout.foldl {α : Type} {f : Chip → α → Chip} (step : ∀ d x, Chip.SameVout d (f d x)) (l : List α) : c.SameVout (l.foldl f d) :=
  (foldl_keep (fun c : Chip => c.pwr.vout) f step l d).trans h

theorem Chip.SameVout.record (now code cls : Nat) (esc : Bool) (isl dom slice : Nat) (detail : Word) :
    c.SameVout (d.record now code cls esc isl dom slice detail) := by
  unfold Chip.record
  extract_lets head tail room w0 seq base journaled a written
  have space : c.SameVout room := by
    unfold room
    split
    · exact (h.set _ _ _).inc _
    · exact h
  have entry : c.SameVout written := ((((space.journal now _).wr a w0).wr _ _).wr _ _).wr _ _
  exact ((entry.set _ _ _).inc _).newest _

theorem Chip.SameVout.raise1 (now : Nat) (f : FaultKind) (isl dom slice : Nat) (detail : Word) :
    c.SameVout (d.raise1 now f isl dom slice detail) := by
  unfold Chip.raise1
  extract_lets target esc cls
  split
  · exact h.set _ _ _
  · have recorded := h.record now f.code cls esc isl dom slice detail
    split
    · exact recorded.dues _
    · exact recorded

theorem Chip.SameVout.raise (now : Nat) (f : FaultKind) (isl dom slice : Nat) (detail : Word) :
    c.SameVout (d.raise now f isl dom slice detail) := by
  unfold Chip.raise
  extract_lets raised limit
  have once : c.SameVout raised := h.raise1 now f isl dom slice detail
  split
  · have counted : c.SameVout (raised.storm now (Storm.deferred isl) (ns 1000000000) fun n => decide (limit < n)).2 := once.pwr rfl
    split
    next hit e storm =>
      rw [storm] at counted
      split
      · exact counted.raise1 ..
      · exact counted
  · exact once

theorem Chip.SameVout.journalStart (now : Nat) : c.SameVout (d.journalStart now) := by
  unfold Chip.journalStart
  extract_lets last epoch next mirrored chain linked a0
  have start : c.SameVout linked := ((h.wr _ _).wr _ _).cmds _
  split
  · exact (start.flashed _).journal _ _
  · exact (start.journal _ _).raise ..

theorem Chip.SameVout.readKeys (now : Nat) : c.SameVout (d.readKeys now) := by
  unfold Chip.readKeys
  extract_lets copy
  clear_value copy
  cases copy with
  | none => exact h.raise ..
  | some ks =>
    refine h.foldl (fun d x => ?_) _
    exact ((((Chip.SameVout.refl d).cmds _).wr _ _).wr _ _).setFlag _ _ _

theorem Chip.SameVout.bootStart (now : Nat) : c.SameVout (d.bootStart now) := by
  unfold Chip.bootStart
  split
  · exact h
  · have rom : c.SameVout { d with pwr := { d.pwr with bootRom := true } } := h.pwr rfl
    have log := ((rom.setFlag A.CP_FLASH_STATUS F.CP_FLASH_STATUS_PRESENT d.flash.present).journalStart now).journal now
      { JEvent.base with event := 2, level := 0, detail := Mode.boot, a0 := BitVec.ofNat 64 Mode.held }
    have fenced := ((((log.readKeys now).setPwr 0 2).setPwr 1 1).setBound 22 { Bound.init with st := 2 }).setBound 23 { Bound.init with st := 2 }
    exact (fenced.setPwr 38 2).setPwr 39 2

theorem Chip.SameVout.fwStart (now k : Nat) : c.SameVout (d.fwStart now k) := by
  unfold Chip.fwStart
  exact (((((h.set _ _ _).setFlag _ _ _).set _ _ _).set _ _ _).journal _ _).pwr rfl

theorem Chip.SameVout.mems (x : MemSt) : c.SameVout { d with mem := x } := h

theorem Chip.SameVout.setQPort (ch p : Nat) (up : Bool) (why : Nat) : c.SameVout (d.setQPort ch p up why) := by
  unfold Chip.setQPort
  exact (h.setFlag _ _ _).mems _

theorem Chip.SameVout.trainStart (ch : Nat) : c.SameVout (d.trainStart ch) := by
  unfold Chip.trainStart
  exact ((h.set _ _ _).setQPort _ _ _ _).setQPort _ _ _ _

theorem Chip.SameVout.tested (b : Bool) (q : List Nat) : c.SameVout { d with pwr := { d.pwr with testing := b, rampQ := q } } := h

theorem Chip.SameVout.powerUp : c.SameVout d.powerUp := by
  unfold Chip.powerUp
  extract_lets on off init powered
  have offs : c.SameVout off := h.foldl (fun d x => by
    split
    · rfl
    · exact (Chip.SameVout.refl d).setPwr _ _) _
  refine Chip.SameVout.tested (d := powered) (offs.foldl (fun d x => ?_) _) _ _
  split
  · rfl
  extract_lets up fenced both
  have on : d.SameVout up := (Chip.SameVout.refl d).setPwr _ _
  split
  · exact on
  have both : d.SameVout both := by
    unfold both
    split
    · exact (on.setBound _ _).setBound _ _
    · exact on.setBound _ _
  split
  · exact both.trainStart _
  · exact both

end

end

/-! ### Firmware starts (R427, R461, R487) -/

section
variable {c : Chip} {now k : Nat}

/-- The boot ROM verifies the firmware again, but for a warm reset with the preferred copy unchanged. -/
def Chip.verifiesAgain (c : Chip) : Prop := c.pwr.warmBoot = false ∨ c.pwr.fwStale = true

/-- What a fault of the regulator's format and of the watchdog adds as firmware runs. -/
def Chip.fwFaults (c : Chip) (now : Nat) (format : Prop) [Decidable format] : Chip :=
  let e := if format then c else c.raise now Flt.CP_SUPPLY_FAULT 24 63 0 0
  if e.pwr.wdogDue then ({ e with pwr := { e.pwr with wdogDue := false } } : Chip).raise now Flt.CP_WATCHDOG 24 63 0 0 else e

theorem Chip.fwFaults_congr {p q : Prop} [Decidable p] [Decidable q] (h : p ↔ q) : c.fwFaults now p = c.fwFaults now q := by
  unfold Chip.fwFaults
  rw [if_congr h rfl rfl]

section
variable (boot : c.mode = Mode.boot) (idle : c.pwr.fwRuns = false)
include boot idle

theorem Chip.firmwareStart_eq : c.firmwareStart now =
    match (if (c.bootStart now).pwr.warmBoot && !(c.bootStart now).pwr.fwStale then some ((c.bootStart now).get A.CP_BOOT F.CP_BOOT_COPY)
      else (c.bootStart now).pickCopy) with
    | none => (c.bootStart now).bootFailed now
    | some k => (((c.bootStart now).fwStart now k).powerUp).fwFaults now (c.pwr.vout = 0 ∨ c.pwr.vout = 2) := by
  have runs : ¬(c.mode ≠ Mode.boot ∨ c.pwr.fwRuns = true) := by simp [boot, idle]
  refine (if_neg runs).trans ?_
  dsimp only
  generalize (if ((c.bootStart now).pwr.warmBoot && !(c.bootStart now).pwr.fwStale) = true then
    some ((c.bootStart now).get A.CP_BOOT F.CP_BOOT_COPY) else (c.bootStart now).pickCopy) = pick
  cases pick with
  | none => rfl
  | some k =>
    have kept : (((c.bootStart now).fwStart now k).powerUp).pwr.vout = c.pwr.vout := (((Chip.SameVout.refl c).bootStart now).fwStart now k).powerUp
    refine Eq.trans ?_ (Chip.fwFaults_congr (p := (((c.bootStart now).fwStart now k).powerUp).vddFormat = true) ?_)
    · rfl
    · rw [Chip.vddFormat, kept, Bool.or_eq_true, beq_iff_eq, beq_iff_eq]

theorem Chip.firmwareStart_kept (kept : ¬(c.bootStart now).verifiesAgain) : c.firmwareStart now =
    (((c.bootStart now).fwStart now ((c.bootStart now).get A.CP_BOOT F.CP_BOOT_COPY)).powerUp).fwFaults now (c.pwr.vout = 0 ∨ c.pwr.vout = 2) := by
  have keep : ((c.bootStart now).pwr.warmBoot && !(c.bootStart now).pwr.fwStale) = true := by
    unfold Chip.verifiesAgain at kept
    simpa using kept
  rw [Chip.firmwareStart_eq boot idle, keep]
  rfl

variable (fresh : (c.bootStart now).verifiesAgain)
include fresh

theorem Chip.firmwareStart_fresh : c.firmwareStart now =
    match (c.bootStart now).pickCopy with
    | none => (c.bootStart now).bootFailed now
    | some k => (((c.bootStart now).fwStart now k).powerUp).fwFaults now (c.pwr.vout = 0 ∨ c.pwr.vout = 2) := by
  have keep : ((c.bootStart now).pwr.warmBoot && !(c.bootStart now).pwr.fwStale) = false := by
    rcases fresh with h | h <;> simp [h]
  rw [Chip.firmwareStart_eq boot idle, keep]
  rfl

theorem Chip.firmwareStart_runs (pick : (c.bootStart now).pickCopy = some k) : c.firmwareStart now =
    (((c.bootStart now).fwStart now k).powerUp).fwFaults now (c.pwr.vout = 0 ∨ c.pwr.vout = 2) := by
  rw [Chip.firmwareStart_fresh boot idle fresh, pick]

theorem Chip.firmwareStart_fails (none_ : (c.bootStart now).pickCopy = none) : c.firmwareStart now = (c.bootStart now).bootFailed now := by
  rw [Chip.firmwareStart_fresh boot idle fresh, none_]

end

theorem Chip.pickCopy_preferred (preferred : c.verifies c.flash.pref = true) : c.pickCopy = some c.flash.pref := if_pos preferred

section
variable (preferred : c.verifies c.flash.pref = false)
include preferred

theorem Chip.pickCopy_other (other : c.verifies (1 - c.flash.pref) = true) : c.pickCopy = some (1 - c.flash.pref) :=
  (if_neg (Bool.eq_false_iff.mp preferred)).trans (if_pos other)

theorem Chip.pickCopy_none (other : c.verifies (1 - c.flash.pref) = false) : c.pickCopy = none :=
  (if_neg (Bool.eq_false_iff.mp preferred)).trans (if_neg (Bool.eq_false_iff.mp other))

end

end

/-! ### Self-test ends (R451) -/

section
variable {c : Chip} {now isl qdr eng : Nat}

/-- The channels that passed are READY, and what opens is synchronised. -/
def Chip.testSettled (c : Chip) (isl qdr eng : Nat) : Prop :=
  (∀ k, k < 8 → c.pwrState (40 + k) = 2 → natBits qdr k 1 = 0 → c.get (A.MC_STATUS k) F.MC_STATUS_STATE = 2) ∧
    ∀ t, t < 24 → c.testOpens isl qdr eng t = true → 16 ≤ (c.bound t).good

/-- Self-test has ended: its masks are shown and what passed opens. -/
def Chip.testOpened (c : Chip) (now isl qdr eng : Nat) : Chip :=
  let d : Chip := { c with pwr := { c.pwr with testing := false, warmBoot := false } }
  let e := ((d.set A.CP_SELFTEST F.CP_SELFTEST_FAILED isl).set A.CP_SELFTEST F.CP_SELFTEST_QDR_FAILED qdr).set A.CP_SELFTEST
    F.CP_SELFTEST_ENGINE_FAILED eng
  fenceTargets.foldl (fun (c : Chip) t => if c.testOpens isl qdr eng t = true then c.openNow now t else c) e

theorem Chip.selfTestEnd_eq (testing : c.pwr.testing = true) (settled : c.testSettled isl qdr eng) : c.selfTestEnd now isl qdr eng =
    let d := c.testOpened now isl qdr eng
    (if d.mode = Mode.boot ∧ natBits isl 23 1 = 0 ∧ natBits isl 24 1 = 0 then d.enterMode now Mode.provision
      else if d.mode = Mode.standby then
        { d.enterMode now Mode.provision with due := (d.enterMode now Mode.provision).due ++ [Due.modeEnd Code.OK] }
      else d).testFailures now isl qdr eng := by
  obtain ⟨ready, synced⟩ := settled
  have waits : ((List.range 8).any fun k => c.pwrState (40 + k) == 2 && natBits qdr k 1 == 0
      && c.get (A.MC_STATUS k) F.MC_STATUS_STATE != 2) = false := by
    rw [List.any_eq_false]
    intro k hk
    have := ready k (List.mem_range.mp hk)
    simp only [Bool.and_eq_true, beq_iff_eq, bne_iff_ne, ne_eq]
    tauto
  have unsynced : ((List.range 24).any fun t => c.testOpens isl qdr eng t && decide ((c.bound t).good < 16)) = false := by
    rw [List.any_eq_false]
    intro t ht
    have := synced t (List.mem_range.mp ht)
    simp only [Bool.and_eq_true, decide_eq_true_eq, not_and, Nat.not_lt]
    exact this
  unfold Chip.selfTestEnd
  rw [waits, unsynced, testing]
  rfl

section
variable (testing : c.pwr.testing = true) (settled : c.testSettled isl qdr eng)
include testing settled

theorem Chip.selfTestEnd_entered (boot : (c.testOpened now isl qdr eng).mode = Mode.boot) (mr : natBits isl 23 1 = 0) (ao : natBits isl 24 1 = 0) :
    c.selfTestEnd now isl qdr eng = ((c.testOpened now isl qdr eng).enterMode now Mode.provision).testFailures now isl qdr eng := by
  rw [Chip.selfTestEnd_eq testing settled]
  dsimp only
  rw [if_pos ⟨boot, mr, ao⟩]

theorem Chip.selfTestEnd_failed (boot : (c.testOpened now isl qdr eng).mode = Mode.boot) (fails : natBits isl 23 1 = 1 ∨ natBits isl 24 1 = 1) :
    c.selfTestEnd now isl qdr eng = (c.testOpened now isl qdr eng).testFailures now isl qdr eng := by
  have awake : ¬(c.testOpened now isl qdr eng).mode = Mode.standby := by
    rw [boot]
    decide
  rw [Chip.selfTestEnd_eq testing settled]
  dsimp only
  rw [if_neg (by omega), if_neg awake]

theorem Chip.selfTestEnd_woken (standby : (c.testOpened now isl qdr eng).mode = Mode.standby) : c.selfTestEnd now isl qdr eng =
    Chip.testFailures { (c.testOpened now isl qdr eng).enterMode now Mode.provision with
      due := ((c.testOpened now isl qdr eng).enterMode now Mode.provision).due ++ [Due.modeEnd Code.OK] } now isl qdr eng := by
  have notBoot : ¬((c.testOpened now isl qdr eng).mode = Mode.boot ∧ natBits isl 23 1 = 0 ∧ natBits isl 24 1 = 0) := by
    rw [standby]
    exact fun h => absurd h.1 (by decide)
  rw [Chip.selfTestEnd_eq testing settled]
  dsimp only
  rw [if_neg notBoot, if_pos standby]

end

end

end Sys2Proof.Machine

/-! PROOFS. Drain, Standby, CP_BOOT, CP_FW_CTRL, state dumps; the lifecycle obligation (R427, R449-R457). -/

namespace Sys2Proof.Machine

/-! ### Drain, Standby, keepalive and wake (R453, R454) -/

section
variable {c : Chip} {now : Nat}

theorem Chip.drainDone_of_drain (drain : c.mode = Mode.drain) : c.drainDone =
    if c.drainLeft = 0 then c.setFlag A.CP_DRAIN_STATUS F.CP_DRAIN_STATUS_DRAINED true else c :=
  if_congr (and_iff_right drain) rfl rfl

theorem Chip.drainTimeout_forced (drain : c.mode = Mode.drain) (waits : c.flag A.CP_DRAIN_STATUS F.CP_DRAIN_STATUS_DRAINED = false)
    (due : c.pwr.drainAt + ns (1000000 * c.get A.CP_DRAIN_CFG F.CP_DRAIN_CFG_TIMEOUT_MS) ≤ now) : c.drainTimeout now =
    let a := A.CP_DRAIN_STATUS
    let d := ((c.setFlag a F.CP_DRAIN_STATUS_DRAINED true).setFlag a F.CP_DRAIN_STATUS_FORCED true).set a F.CP_DRAIN_STATUS_LEFT c.drainLeft
    d.journal now { JEvent.base with event := 0x10, level := 0, a0 := BitVec.ofNat 64 c.drainLeft,
                                     a1 := BitVec.ofNat 64 (c.get A.CP_DRAIN_CFG F.CP_DRAIN_CFG_TIMEOUT_MS),
                                     w4 := BitVec.ofNat 64 (d.get A.CP_DRAIN_CFG F.CP_DRAIN_CFG_SOURCES) } :=
  if_neg (by simp [drain, waits, Nat.not_lt.mpr due])

/-- The settings of Drain stand while its status changes. -/
theorem Chip.drainSources_kept (c : Chip) (b b' : Bool) (n : Nat) :
    (((c.setFlag A.CP_DRAIN_STATUS F.CP_DRAIN_STATUS_DRAINED b).setFlag A.CP_DRAIN_STATUS F.CP_DRAIN_STATUS_FORCED b').set A.CP_DRAIN_STATUS
      F.CP_DRAIN_STATUS_LEFT n).get A.CP_DRAIN_CFG F.CP_DRAIN_CFG_SOURCES = c.get A.CP_DRAIN_CFG F.CP_DRAIN_CFG_SOURCES :=
  (Chip.get_set_apart _ _ (by decide)).trans ((Chip.get_set_apart _ _ (by decide)).trans (Chip.get_set_apart _ _ (by decide)))

theorem Chip.standbyTimeout_due {t : Nat} (waits : c.pwr.standby = some t) (due : t ≤ now) : c.standbyTimeout now =
    ({ c with pwr := { c.pwr with standby := none }, due := c.due ++ [Due.modeEnd Code.MODE_REFUSED] } : Chip).pump now := by
  rw [Chip.standbyTimeout, waits]
  exact if_neg (Nat.not_lt.mpr due)

theorem Chip.standbyOff_due {t : Nat} (waits : c.pwr.standbyDown = some t) (due : t ≤ now) (mode : c.mode = Mode.standby) : c.standbyOff now =
    let d := (offOrder.filter fun d => d != 34 + c.get A.CP_STANDBY_CFG F.CP_STANDBY_CFG_GROUP).foldl (Chip.cutOff now) c
    { d with pwr := { d.pwr with standbyDown := none, rampQ := [] } } := by
  rw [Chip.standbyOff, waits]
  exact if_neg (by simp [mode, Nat.not_lt.mpr due])

/-- KEEPALIVE_MS starts anew. -/
def Chip.keptAlive (c : Chip) (now : Nat) : Chip :=
  { c with pwr := { c.pwr with keepAt := now + ns (1000000 * c.get A.CP_STANDBY_CFG F.CP_STANDBY_CFG_KEEPALIVE_MS) } }

theorem Chip.keepalive_due (mode : c.mode = Mode.standby) (due : c.pwr.keepAt ≤ now) : c.keepalive now =
    match ((List.range 4).map (4 * c.get A.CP_STANDBY_CFG F.CP_STANDBY_CFG_GROUP + ·)).find? c.link with
    | none => c.keptAlive now
    | some p => ((c.keptAlive now).stateWord now).2.tlmFrame now p [(3, ((c.keptAlive now).stateWord now).1)] :=
  if_neg (by simp [mode, Nat.not_lt.mpr due])

/-- A group with no port that passes the test. -/
theorem find?_port_none {f : Nat → Bool} {g : Nat} (no : ∀ k, k < 4 → f (4 * g + k) = false) :
    ((List.range 4).map (4 * g + ·)).find? f = none := by
  simp only [List.find?_eq_none, List.mem_map, List.mem_range]
  rintro _ ⟨k, hk, rfl⟩
  simp [no k hk]

/-- The lowest port of a group that passes the test. -/
theorem find?_port_some {f : Nat → Bool} {g k : Nat} (hk : k < 4) (yes : f (4 * g + k) = true) (below : ∀ j, j < k → f (4 * g + j) = false) :
    ((List.range 4).map (4 * g + ·)).find? f = some (4 * g + k) := by
  have first : (List.range 4).find? (f ∘ (4 * g + ·)) = some k :=
    List.find?_range_eq_some.mpr ⟨yes, List.mem_range.mpr hk, fun j hj => by simp [below j hj]⟩
  rw [List.find?_map, first]
  rfl

/-- The level of GPIO `n` is kept. -/
def Chip.gpioKept (c : Chip) (n : Nat) (level : Bool) : Chip :=
  { c with pwr := { c.pwr with gpioIn := if level then c.pwr.gpioIn ||| 2 ^ n else c.pwr.gpioIn &&& (65535 - 2 ^ n) } }

/-- The edge of GPIO `n` to `level` is the one that wakes. -/
def Chip.gpioWakes (c : Chip) (n : Nat) (level : Bool) : Prop :=
  natBits c.pwr.gpioIn n 1 ≠ level.toNat ∧ c.flag A.CP_STANDBY_CFG F.CP_STANDBY_CFG_WAKE_EN = true ∧
    c.flag A.CP_STANDBY_CFG F.CP_STANDBY_CFG_WAKE_LEVEL = level

theorem natBits_one_ne {v n : Nat} {level : Bool} : (natBits v n 1 == 1) ≠ level ↔ natBits v n 1 ≠ level.toNat := by
  have : natBits v n 1 < 2 ^ 1 := Nat.mod_lt _ (by decide)
  cases level <;> simp
  omega

theorem Chip.gpioEdge_wake (level : Bool) [Decidable (c.gpioWakes (c.get A.CP_STANDBY_CFG F.CP_STANDBY_CFG_WAKE_GPIO) level)] :
    let n := c.get A.CP_STANDBY_CFG F.CP_STANDBY_CFG_WAKE_GPIO
    c.gpioEdge n level = if c.gpioWakes n level then (c.gpioKept n level).wake else c.gpioKept n level := by
  intro n
  have named : (c.gpioKept n level).get A.CP_STANDBY_CFG F.CP_STANDBY_CFG_WAKE_GPIO = n := rfl
  refine if_congr ?_ rfl rfl
  rw [natBits_one_ne]
  exact and_congr_right fun _ => and_congr_right fun _ => and_iff_right named

end

/-! ### Firmware restart (R455) -/

section
variable {c : Chip} {now : Nat} (busy : c.flag A.CP_FW_CTRL F.CP_FW_CTRL_FW_BUSY = true)
include busy

theorem Chip.restartEnd_busy : c.restartEnd now =
    match (c.setFlag A.CP_FW_CTRL F.CP_FW_CTRL_FW_BUSY false).pickCopy with
    | some k => ((((c.setFlag A.CP_FW_CTRL F.CP_FW_CTRL_FW_BUSY false).fwStart now k).bwWindowClose now).billMinuteClose now).pump now
    | none => ({ c.setFlag A.CP_FW_CTRL F.CP_FW_CTRL_FW_BUSY false with
        pwr := { (c.setFlag A.CP_FW_CTRL F.CP_FW_CTRL_FW_BUSY false).pwr with fwRuns := true } } : Chip).bootFailed now :=
  if_neg (by simp [busy])

theorem Chip.restartEnd_picks {k : Nat} (pick : (c.setFlag A.CP_FW_CTRL F.CP_FW_CTRL_FW_BUSY false).pickCopy = some k) : c.restartEnd now =
    ((((c.setFlag A.CP_FW_CTRL F.CP_FW_CTRL_FW_BUSY false).fwStart now k).bwWindowClose now).billMinuteClose now).pump now := by
  rw [Chip.restartEnd_busy busy, pick]

theorem Chip.restartEnd_fails (pick : (c.setFlag A.CP_FW_CTRL F.CP_FW_CTRL_FW_BUSY false).pickCopy = none) : c.restartEnd now =
    ({ c.setFlag A.CP_FW_CTRL F.CP_FW_CTRL_FW_BUSY false with
        pwr := { (c.setFlag A.CP_FW_CTRL F.CP_FW_CTRL_FW_BUSY false).pwr with fwRuns := true } } : Chip).bootFailed now := by
  rw [Chip.restartEnd_busy busy, pick]

end

/-! ### The registers of the lifecycle -/

/-- The row of CP_DRAIN_CFG in the register table. -/
def cpDrainRow : RegRow := nth ⟨0, [], 0, []⟩ cpRows 28

/-- The row of CP_FW_CTRL. -/
def cpFwRow : RegRow := nth ⟨0, [], 0, []⟩ cpRows 31

/-- The row of CP_BOOT. -/
def cpBootRow : RegRow := nth ⟨0, [], 0, []⟩ cpRows 5

/-- The row of CP_DUMP_CTRL. -/
def cpDumpRow : RegRow := nth ⟨0, [], 0, []⟩ cpRows 32

theorem cpDrainRow_stands : cpDrainRow.Stands A.CP_DRAIN_CFG := ⟨by decide, by decide, by decide, by decide, by decide +kernel⟩

theorem cpFwRow_stands : cpFwRow.Stands A.CP_FW_CTRL := ⟨by decide, by decide, by decide, by decide, by decide +kernel⟩

theorem cpBootRow_stands : cpBootRow.Stands A.CP_BOOT := ⟨by decide, by decide, by decide, by decide, by decide +kernel⟩

theorem cpDumpRow_stands : cpDumpRow.Stands A.CP_DUMP_CTRL := ⟨by decide, by decide, by decide, by decide, by decide +kernel⟩

section
variable (c d : Chip) (now : Nat) (v : Word)

theorem Chip.hook_drainCfg : c.hook d now ⟨cpDrainRow, A.CP_DRAIN_CFG, [(0, v)]⟩ =
    if d.get A.CP_DRAIN_CFG F.CP_DRAIN_CFG_TIMEOUT_MS = 0 then (Code.BAD_ARGUMENT, c)
    else if d.mode = Mode.drain then (Code.MODE_REFUSED, c) else (Code.OK, d) := (Chip.hook_cpLow (Nat.le_of_ble_eq_true rfl)).trans rfl

theorem Chip.hook_fwCtrl : c.hook d now ⟨cpFwRow, A.CP_FW_CTRL, [(0, 1)]⟩ =
    if d.mode = Mode.provision ∨ d.mode = Mode.update ∨ d.mode = Mode.diagnostic then (Code.OK, d.activate) else (Code.MODE_REFUSED, c) :=
  (Chip.hook_cpLow (Nat.le_of_ble_eq_true rfl)).trans rfl

theorem Chip.hook_boot : c.hook d now ⟨cpBootRow, A.CP_BOOT, [(0, v)]⟩ = c.bootPut d v := (Chip.hook_cpLow (Nat.le_of_ble_eq_true rfl)).trans rfl

theorem Chip.hook_dumpCtrl (go : getBits v 0 1 ≠ 0) : c.hook d now ⟨cpDumpRow, A.CP_DUMP_CTRL, [(0, v)]⟩ =
    if 2 ^ 20 < d.dumpLen then (Code.BAD_ARGUMENT, c)
    else if d.mode = Mode.recovery ∨ d.mode = Mode.diagnostic then (Code.OK, d.setFlag A.CP_DUMP_CTRL F.CP_DUMP_CTRL_BUSY true)
    else (Code.MODE_REFUSED, c) := (Chip.hook_cpLow (Nat.le_of_ble_eq_true rfl)).trans (if_neg go)

end

theorem getBits_dumpGo (e : EpNo) : getBits (BitVec.ofNat 64 (1 + 2 * e.val)) 0 1 ≠ 0 := by
  revert e
  decide

section
variable {s : State} {v : Word} {st : Status} {d : Chip}

theorem State.exec_drainCfgWrite (hw : s.writable A.CP_DRAIN_CFG = true)
    (rule : (if (s.found.filled s.time A.CP_DRAIN_CFG [v]).get A.CP_DRAIN_CFG F.CP_DRAIN_CFG_TIMEOUT_MS = 0 then (Code.BAD_ARGUMENT, s.found)
      else if (s.found.filled s.time A.CP_DRAIN_CFG [v]).mode = Mode.drain then (Code.MODE_REFUSED, s.found)
      else (Code.OK, s.found.filled s.time A.CP_DRAIN_CFG [v])) = (st, d)) : exec (.drainCfgWrite v) s = s.wrote st d :=
  State.exec_stands cpDrainRow_stands (j := 0) rfl hw (List.cons_ne_nil _ _) (Nat.le_refl 1) ((Chip.hook_drainCfg ..).trans rule)

theorem State.exec_activate (hw : s.writable A.CP_FW_CTRL = true)
    (rule : (if (s.found.filled s.time A.CP_FW_CTRL [1]).mode = Mode.provision ∨ (s.found.filled s.time A.CP_FW_CTRL [1]).mode = Mode.update ∨
        (s.found.filled s.time A.CP_FW_CTRL [1]).mode = Mode.diagnostic then (Code.OK, (s.found.filled s.time A.CP_FW_CTRL [1]).activate)
      else (Code.MODE_REFUSED, s.found)) = (st, d)) : exec .activate s = s.wrote st d :=
  State.exec_stands cpFwRow_stands (j := 0) rfl hw (List.cons_ne_nil _ _) (Nat.le_refl 1) ((Chip.hook_fwCtrl ..).trans rule)

theorem State.exec_raiseSvn {v : BitVec 8} (hw : s.writable A.CP_BOOT = true)
    (rule : s.found.bootPut (s.found.filled s.time A.CP_BOOT [v.zeroExtend 64 <<< 32]) (v.zeroExtend 64 <<< 32) = (st, d)) :
    exec (.raiseSvn v) s = s.wrote st d :=
  State.exec_stands cpBootRow_stands (j := 0) rfl hw (List.cons_ne_nil _ _) (Nat.le_of_ble_eq_true rfl) ((Chip.hook_boot ..).trans rule)

theorem State.exec_revokeKey0 (hw : s.writable A.CP_BOOT = true)
    (rule : s.found.bootPut (s.found.filled s.time A.CP_BOOT [1 <<< 40]) (1 <<< 40) = (st, d)) : exec .revokeKey0 s = s.wrote st d :=
  State.exec_stands cpBootRow_stands (j := 0) rfl hw (List.cons_ne_nil _ _) (Nat.le_of_ble_eq_true rfl) ((Chip.hook_boot ..).trans rule)

theorem State.exec_dumpGo {e : EpNo} (hw : s.writable A.CP_DUMP_CTRL = true)
    (rule : (if 2 ^ 20 < (s.found.filled s.time A.CP_DUMP_CTRL [BitVec.ofNat 64 (1 + 2 * e.val)]).dumpLen then (Code.BAD_ARGUMENT, s.found)
      else if (s.found.filled s.time A.CP_DUMP_CTRL [BitVec.ofNat 64 (1 + 2 * e.val)]).mode = Mode.recovery ∨
          (s.found.filled s.time A.CP_DUMP_CTRL [BitVec.ofNat 64 (1 + 2 * e.val)]).mode = Mode.diagnostic then
        (Code.OK, (s.found.filled s.time A.CP_DUMP_CTRL [BitVec.ofNat 64 (1 + 2 * e.val)]).setFlag A.CP_DUMP_CTRL F.CP_DUMP_CTRL_BUSY true)
      else (Code.MODE_REFUSED, s.found)) = (st, d)) : exec (.dumpGo e) s = s.wrote st d :=
  State.exec_stands cpDumpRow_stands (j := 0) rfl hw (List.cons_ne_nil _ _) (Nat.le_of_ble_eq_true rfl)
    ((Chip.hook_dumpCtrl _ _ _ _ (getBits_dumpGo e)).trans rule)

end

/-- A write of one word of a register of the Control Plane below CP_MODE, or above it, leaves the mode. -/
theorem RegRow.Stands.mode_write {r : RegRow} {a : Nat} (h : r.Stands a) (c : Chip) (now : Nat) (v : Word) (one : 1 ≤ r.words := by decide)
    (other : A.CP_MODE < a ∨ a + 8 * r.words ≤ A.CP_MODE := by decide) : (c.filled now a [v]).mode = c.mode :=
  h.mode_filled c now (List.cons_ne_nil _ _) one other

/-! ### CP_BOOT (R427) -/

section
variable {c d : Chip} {v : Word}

/-- Whether the other copy verifies is shown again. -/
def Chip.bootShown (c : Chip) : Chip := c.setFlag A.CP_BOOT F.CP_BOOT_OTHER_VALID (c.verifies (1 - c.get A.CP_BOOT F.CP_BOOT_COPY))

theorem Chip.bootPut_refused (bad : d.get A.CP_BOOT F.CP_BOOT_SVN < getBits v 32 8 ∨ (getBits v 40 1 = 1 ∧ d.pwr.fwKey ≠ 1)) :
    c.bootPut d v = (Code.BAD_ARGUMENT, c) := if_pos (bad.imp_right fun h => ⟨beq_iff_eq.mpr h.1, h.2⟩)

theorem Chip.bootPut_raises (fits : getBits v 32 8 ≤ d.get A.CP_BOOT F.CP_BOOT_SVN) (keeps : getBits v 40 1 = 0) : c.bootPut d v =
    (Code.OK, (d.set A.CP_BOOT F.CP_BOOT_SVN_MIN (max (getBits v 32 8) (d.get A.CP_BOOT F.CP_BOOT_SVN_MIN))).bootShown) := by
  unfold Chip.bootPut
  rw [keeps]
  exact if_neg (by simpa using fits)

theorem Chip.bootPut_revokes (svn : getBits v 32 8 = 0) (revokes : getBits v 40 1 = 1) (key : d.pwr.fwKey = 1) : c.bootPut d v =
    (Code.OK, ((d.set A.CP_BOOT F.CP_BOOT_SVN_MIN (d.get A.CP_BOOT F.CP_BOOT_SVN_MIN)).setFlag A.CP_BOOT F.CP_BOOT_KEY0_REVOKED true).bootShown) := by
  unfold Chip.bootPut
  rw [svn, revokes]
  refine (if_neg (by simp [key])).trans ?_
  rw [Nat.zero_max]
  rfl

/-- The fields of a write of RAISE_SVN. -/
theorem getBits_raiseSvn (v : BitVec 8) : getBits (v.zeroExtend 64 <<< 32) 32 8 = v.toNat ∧ getBits (v.zeroExtend 64 <<< 32) 40 1 = 0 := by
  have val : (v.zeroExtend 64 <<< 32).toNat = v.toNat * 2 ^ 32 := by
    have wide : (v.zeroExtend 64).toNat = v.toNat := BitVec.toNat_setWidth_of_le (by omega)
    rw [BitVec.toNat_shiftLeft, wide, Nat.shiftLeft_eq]
    omega
  rw [getBits, getBits, val, Nat.shiftRight_eq_div_pow, Nat.shiftRight_eq_div_pow]
  omega

end

/-! ### The obligation -/

/-- Every transition of Table 17-5 that the obligation names. -/
theorem Chip.modeRequest_table (c : Chip) (now : Nat) :
    (c.mode = Mode.provision → c.loading = false → c.faultFenced = false →
      c.modeRequest now Mode.service = (Code.OK, false, c.enterMode now Mode.service)) ∧
    (c.mode = Mode.provision → c.loading = false → c.faultFenced = true →
      c.modeRequest now Mode.service = (Code.OK, false, c.enterMode now Mode.degraded)) ∧
    (c.mode = Mode.provision → c.loading = true → c.modeRequest now Mode.service = (Code.MODE_REFUSED, false, c)) ∧
    (c.mode = Mode.service → c.get A.CP_DRAIN_CFG F.CP_DRAIN_CFG_SOURCES ≠ 0 →
      c.modeRequest now Mode.drain = (Code.OK, false, c.enterMode now Mode.drain)) ∧
    (c.mode = Mode.service → c.modeRequest now Mode.provision = (Code.MODE_REFUSED, false, c) ∧
      c.modeRequest now Mode.standby = (Code.MODE_REFUSED, false, c)) ∧
    (c.mode = Mode.quarantine → c.flag A.CP_MODE F.CP_MODE_DEVICE_FAULT = true →
      c.modeRequest now Mode.service = (Code.OK, false, c.enterMode now Mode.recovery)) ∧
    (c.mode = Mode.quarantine → c.flag A.CP_MODE F.CP_MODE_DEVICE_FAULT = false →
      c.modeRequest now Mode.provision = (Code.OK, false, c.enterMode now Mode.provision)) ∧
    (c.mode = Mode.service ∨ c.mode = Mode.degraded → c.modeRequest now Mode.update = (Code.OK, false, c.enterMode now Mode.update)) ∧
    (c.mode = Mode.provision ∨ c.mode = Mode.service ∨ c.mode = Mode.degraded ∨ c.mode = Mode.drain ∨ c.mode = Mode.update ∨
      c.mode = Mode.diagnostic → c.modeRequest now Mode.quarantine = (Code.OK, false, c.enterMode now Mode.quarantine)) ∧
    (c.mode = Mode.diagnostic → c.modeRequest now Mode.provision = (Code.OK, false, c.enterMode now Mode.provision)) ∧
    (c.mode = Mode.provision → c.standbyOk = true → c.pwr.standby = none → c.modeRequest now Mode.standby =
      (Code.OK, true, ({ c with pwr := { c.pwr with standby := some (now + ns 100000000) } } : Chip).standbyEnter now)) ∧
    (c.mode = Mode.provision → c.standbyOk = false → c.modeRequest now Mode.standby = (Code.MODE_REFUSED, false, c)) := by
  have moves {m k : Nat} (h : c.mode = k) (other : m ≠ k) : m ≠ c.mode := h ▸ other
  have away {k : Nat} (h : c.mode = k) (other : k ≠ Mode.quarantine) (m : Nat) : ¬c.leavesFaulty m := Chip.not_leavesFaulty (h ▸ other)
  have service (mode : c.mode = Mode.provision) (closed : c.loading = false) : c.modeRequest now Mode.service =
      (Code.OK, false, c.enterTarget now Mode.service) :=
    Chip.modeRequest_enters (by decide) (by decide) (moves mode (by decide)) (away mode (by decide) _)
      (by rw [Chip.modeListed_provision mode, closed]; rfl) (by decide) (by rw [mode]; decide)
  refine ⟨fun mode closed whole => ?_, fun mode closed fenced => ?_, fun mode loads => ?_, fun mode sources => ?_, fun mode => ⟨?_, ?_⟩,
    fun mode faulty => ?_, fun mode sound => ?_, fun mode => ?_, fun mode => ?_, fun mode => ?_, fun mode ok idle => ?_, fun mode bad => ?_⟩
  · rw [service mode closed, Chip.enterTarget, whole]
    rfl
  · rw [service mode closed, Chip.enterTarget, fenced]
    rfl
  · exact Chip.modeRequest_refused (by decide) (by decide) (moves mode (by decide)) (away mode (by decide) _)
      (by rw [Chip.modeListed_provision mode, loads]; rfl)
  · exact Chip.modeRequest_lists (by decide) (moves mode (by decide)) (away mode (by decide) _)
      (by rw [Chip.modeListed_serving (.inl mode)]; simp [sources]) (by decide) (by rw [mode]; decide)
  · exact Chip.modeRequest_refused (by decide) (by decide) (moves mode (by decide)) (away mode (by decide) _) (Chip.modeListed_serving (.inl mode))
  · exact Chip.modeRequest_refused (by decide) (by decide) (moves mode (by decide)) (away mode (by decide) _) (Chip.modeListed_serving (.inl mode))
  · exact Chip.modeRequest_faulty (by decide) (by decide) (moves mode (by decide)) ⟨mode, .inr rfl, faulty⟩
  · exact Chip.modeRequest_lists (by decide) (moves mode (by decide)) (fun ⟨_, _, faulty⟩ => Bool.false_ne_true (sound.symm.trans faulty)) (Chip.modeListed_quarantine mode)
      (by decide) (by rw [mode]; decide)
  · have other : Mode.update ≠ c.mode ∧ c.mode ≠ Mode.quarantine ∧ c.mode ≠ Mode.standby := by
      rcases mode with h | h <;> rw [h] <;> decide
    obtain ⟨stays, leaves, awake⟩ := other
    exact Chip.modeRequest_lists (by decide) stays (Chip.not_leavesFaulty leaves) (by rw [Chip.modeListed_serving mode]; simp) (by decide) awake
  · have other : Mode.quarantine ≠ c.mode ∧ c.mode ≠ Mode.quarantine ∧ c.mode ≠ Mode.standby := by
      rcases mode with h | h | h | h | h | h <;> rw [h] <;> decide
    obtain ⟨stays, leaves, awake⟩ := other
    exact Chip.modeRequest_lists (by decide) stays (Chip.not_leavesFaulty leaves) (Chip.modeListed_toQuarantine mode) (by decide) awake
  · exact Chip.modeRequest_lists (by decide) (moves mode (by decide)) (away mode (by decide) _) (Chip.modeListed_diagnostic mode) (by decide)
      (by rw [mode]; decide)
  · rw [Chip.modeRequest_standby (by decide) (by decide) (moves mode (by decide)) (away mode (by decide) _)
      (by rw [Chip.modeListed_provision mode, ok]; rfl) rfl, idle]
    rfl
  · exact Chip.modeRequest_refused (by decide) (by decide) (moves mode (by decide)) (away mode (by decide) _)
      (by rw [Chip.modeListed_provision mode, bad]; rfl)

/-- Settles O57: Table 17-5 mode by mode, and each event by its operation. -/
theorem lifecycle : Obligations.Lifecycle := by
  classical
  refine ⟨fun c now m => ⟨fun k closed mode other low high => Chip.modeRequest_refused low high (mode ▸ other) ?stays
      (Chip.modeListed_none closed mode), Chip.modeRequest_badArgument, Chip.modeRequest_same, c.modeRequest_table now⟩,
    fun s v level => ⟨fun hw => ⟨fun zero => ?drainZero, fun set drain => ?drainMode, fun set other => ?drainSet⟩, fun mode none => ?drained,
      fun mode left => ?left, fun mode waits due => ?forced, fun t waits due => State.exec_on rfl (Chip.standbyTimeout_due waits due),
      fun t waits due mode => State.exec_on rfl (Chip.standbyOff_due waits due mode), fun mode due => ⟨fun dark => ?dark, fun k hk lit below => ?lit⟩,
      fun wakes => State.exec_on rfl ((Chip.gpioEdge_wake level).trans (if_pos wakes)),
      fun sleeps => State.exec_on rfl ((Chip.gpioEdge_wake level).trans (if_neg sleeps))⟩,
    fun s isl qdr eng => ⟨fun boot idle => ⟨fun fresh preferred => ?preferred, fun fresh bad other => ?other, fun fresh bad bad' => ?neither,
        fun kept => State.exec_on rfl (Chip.firmwareStart_kept boot idle kept)⟩,
      fun testing ready synced => ⟨fun mr ao boot => ?entered, fun fails boot => ?opened, fun standby => ?woken⟩,
      fun hw => ⟨fun admits => ?activates, fun bars => ?barred⟩, fun busy => ⟨fun k pick => State.exec_on rfl (Chip.restartEnd_picks busy pick),
        fun pick => State.exec_on rfl (Chip.restartEnd_fails busy pick)⟩⟩,
    fun s v e => ⟨fun hw => ⟨fun fits => ?raises, fun beyond => ?beyond, fun key => ?revokes, fun key => ?key⟩,
      fun hw => ⟨fun fits admits => ?dumps, fun fits bars => ?dumpMode, fun long => ?dumpLong⟩⟩⟩
  case stays => exact Chip.not_leavesFaulty (by rcases closed with rfl | rfl | rfl | rfl <;> rw [mode] <;> decide)
  case drainZero => exact State.exec_drainCfgWrite hw (if_pos zero)
  case drainMode => exact State.exec_drainCfgWrite hw ((if_neg set).trans (if_pos ((cpDrainRow_stands.mode_write ..).trans drain)))
  case drainSet => exact State.exec_drainCfgWrite hw ((if_neg set).trans (if_neg ((cpDrainRow_stands.mode_write ..).symm ▸ other)))
  case drained => exact State.exec_on rfl ((Chip.drainDone_of_drain mode).trans (if_pos none))
  case left => exact State.exec_on rfl ((Chip.drainDone_of_drain mode).trans (if_neg left))
  case forced =>
    refine State.exec_on rfl ((Chip.drainTimeout_forced mode waits due).trans ?_)
    dsimp only
    rw [Chip.drainSources_kept]
  case dark =>
    refine State.exec_on rfl ((Chip.keepalive_due mode due).trans ?_)
    rw [find?_port_none dark]
    rfl
  case lit =>
    refine State.exec_on rfl ((Chip.keepalive_due mode due).trans ?_)
    rw [find?_port_some hk lit below]
    rfl
  case preferred => exact State.exec_on rfl (Chip.firmwareStart_runs boot idle fresh (Chip.pickCopy_preferred preferred))
  case other => exact State.exec_on rfl (Chip.firmwareStart_runs boot idle fresh (Chip.pickCopy_other bad other))
  case neither => exact State.exec_on rfl (Chip.firmwareStart_fails boot idle fresh (Chip.pickCopy_none bad bad'))
  case entered => exact State.exec_on rfl (Chip.selfTestEnd_entered testing ⟨ready, synced⟩ boot mr ao)
  case opened => exact State.exec_on rfl (Chip.selfTestEnd_failed testing ⟨ready, synced⟩ boot fails)
  case woken => exact State.exec_on rfl (Chip.selfTestEnd_woken testing ⟨ready, synced⟩ standby)
  case activates => exact State.exec_activate hw (if_pos ((cpFwRow_stands.mode_write ..).symm ▸ admits))
  case barred => exact State.exec_activate hw (if_neg ((cpFwRow_stands.mode_write ..).symm ▸ bars))
  case raises =>
    obtain ⟨svn, revoke⟩ := getBits_raiseSvn v
    have put := Chip.bootPut_raises (c := s.found) (d := s.found.filled s.time A.CP_BOOT [v.zeroExtend 64 <<< 32]) (svn.symm ▸ fits) revoke
    rw [svn] at put
    exact State.exec_raiseSvn hw put
  case beyond => exact State.exec_raiseSvn hw (Chip.bootPut_refused (.inl ((getBits_raiseSvn v).1.symm ▸ beyond)))
  case revokes => exact State.exec_revokeKey0 hw (Chip.bootPut_revokes (by decide) (by decide) ((congrArg PwrSt.fwKey (Chip.filled_pwr ..)).trans key))
  case key => exact State.exec_revokeKey0 hw (Chip.bootPut_refused (.inr ⟨by decide, (congrArg PwrSt.fwKey (Chip.filled_pwr ..)).symm ▸ key⟩))
  case dumps =>
    exact State.exec_dumpGo hw ((if_neg (Nat.not_lt.mpr fits)).trans (if_pos ((cpDumpRow_stands.mode_write ..).symm ▸ admits)))
  case dumpMode =>
    exact State.exec_dumpGo hw ((if_neg (Nat.not_lt.mpr fits)).trans (if_neg ((cpDumpRow_stands.mode_write ..).symm ▸ bars)))
  case dumpLong => exact State.exec_dumpGo hw (if_pos long)

end Sys2Proof.Machine

/-! PROOFS. Counts, windows, billing minutes and the registers of the Sampler (R431-R440). -/

namespace Sys2Proof.Machine

/-! ### A count enters its window (R433, R434, R436) -/

section
variable {c : Chip} {now : Nat} {r : Report} {rs : List Report}

/-- The Sampler as the oldest report finds it: what is due has closed. -/
def Chip.reportFound (c : Chip) (now : Nat) (rs : List Report) : Chip :=
  let d := c.bwWindowClose now |>.billMinuteClose now
  { d with smp := { d.smp with reports := rs } }

theorem Chip.countReport_waits (waits : c.smp.reports = r :: rs) : c.countReport now =
    if r.kind ≤ 1 then (c.reportFound now rs).bwCount (r.kind == 0) r.key r.n (dtOf r.stamp)
    else (c.reportFound now rs).billCount r.kind r.key r.n (dtOf r.stamp) := by
  rw [Chip.countReport, waits]
  rfl

end

section
variable {c : Chip} {rx : Bool} {p n d : Nat}

/-- The count of port `p` enters window `k`: the open one, or the next from index 16 on. -/
def Chip.bwInto (c : Chip) (rx : Bool) (n k : Nat) (late : Bool) : Chip :=
  let x := (mget BwAcc.init c.smp.bwAcc k).add rx n
  { c with smp := { c.smp with bwAcc := mset BwAcc.init c.smp.bwAcc k { x with late := x.late || late } } }

section
variable (on : bwOn c.smp.bwCfg = true) (counted : natBits (bwMask c.smp.bwCfg) p 1 = 1) (after : c.smp.bwZero ≤ d)
include on counted after

theorem Chip.bwCount_counted : c.bwCount rx p n d =
    (if decide (d < c.smp.bwFrom) then c.inc A.CP_BW_LATE else c).bwInto rx n
      (if !decide (d < c.smp.bwFrom) && decide (c.bwEnd ≤ d) then p + 16 else p) (decide (d < c.smp.bwFrom)) := by
  unfold Chip.bwCount
  refine (if_neg (by simp [on, counted, Nat.not_lt.mpr after])).trans ?_
  dsimp only
  split <;> rfl

theorem Chip.bwCount_open (from_ : c.smp.bwFrom ≤ d) (before : d < c.bwEnd) : c.bwCount rx p n d =
    { c with smp := { c.smp with bwAcc := mset BwAcc.init c.smp.bwAcc p ((mget BwAcc.init c.smp.bwAcc p).add rx n) } } := by
  rw [Chip.bwCount_counted on counted after, decide_eq_false (Nat.not_lt.mpr from_), decide_eq_false (Nat.not_le.mpr before)]
  simp [Chip.bwInto]

theorem Chip.bwCount_next (from_ : c.smp.bwFrom ≤ d) (past : c.bwEnd ≤ d) : c.bwCount rx p n d =
    { c with smp := { c.smp with bwAcc := mset BwAcc.init c.smp.bwAcc (p + 16) ((mget BwAcc.init c.smp.bwAcc (p + 16)).add rx n) } } := by
  rw [Chip.bwCount_counted on counted after, decide_eq_false (Nat.not_lt.mpr from_), decide_eq_true past]
  simp [Chip.bwInto]

theorem Chip.bwCount_late (late : d < c.smp.bwFrom) : (c.bwCount rx p n d).smp.bwAcc =
    mset BwAcc.init c.smp.bwAcc p { (mget BwAcc.init c.smp.bwAcc p).add rx n with late := true } := by
  rw [Chip.bwCount_counted on counted after, decide_eq_true late]
  simp [Chip.bwInto]

end

section
variable {kind s : Nat}

theorem Chip.billCount_late (late : d < (c.rd A.CP_BILL_OPEN).toNat) : c.billCount kind s n d =
    let u := c.inc A.CP_BILL_LATE
    { u with smp := { u.smp with bill := mupd BillAcc.init u.smp.bill s fun x => { x.add kind n with late := x.late || true } } } := by
  unfold Chip.billCount
  rw [decide_eq_true late]
  rfl

variable (timely : ¬d < (c.rd A.CP_BILL_OPEN).toNat)
include timely

theorem Chip.billCount_next (past : c.smp.billEnd ≤ d) : c.billCount kind s n d =
    { c with smp := { c.smp with billNext := mupd BillAcc.init c.smp.billNext s fun x => x.add kind n } } := by
  unfold Chip.billCount
  rw [decide_eq_false timely, decide_eq_true past]
  rfl

theorem Chip.billCount_open (before : d < c.smp.billEnd) : c.billCount kind s n d =
    { c with smp := { c.smp with bill := mupd BillAcc.init c.smp.bill s fun x => { x.add kind n with late := x.late || false } } } := by
  unfold Chip.billCount
  rw [decide_eq_false timely, decide_eq_false (Nat.not_le.mpr before)]
  rfl

end

end

/-! ### Bandwidth windows close (R433-R435) -/

section
variable {c : Chip} {d n : Nat}

theorem Chip.bwCloseDue_succ : Chip.bwCloseDue d (n + 1) c =
    if bwOn c.smp.bwCfg && decide (c.bwEnd + 100000 ≤ d) then Chip.bwCloseDue d n c.bwClose else c := rfl

theorem Chip.bwCloseDue_waits (early : d < c.bwEnd + 100000) : Chip.bwCloseDue d (n + 1) c = c :=
  Chip.bwCloseDue_succ.trans (if_neg (by simp [Nat.not_le.mpr early]))

/-- An item of the stream is noted in the Sampler alone. -/
theorem Chip.tlmItem_eq (c : Chip) (kind : Nat) (bs : List Byte) :
    ∃ items, c.tlmItem kind bs = { c with smp := { c.smp with items := items } } := by
  unfold Chip.tlmItem
  split
  · exact ⟨_, rfl⟩
  · exact ⟨c.smp.items, rfl⟩

theorem Chip.tlmItem_smp (c : Chip) (kind : Nat) (bs : List Byte) : ∃ items, (c.tlmItem kind bs).smp = { c.smp with items := items } := by
  obtain ⟨items, eq⟩ := c.tlmItem_eq kind bs
  exact ⟨items, congrArg Chip.smp eq⟩

theorem Chip.get_tlmItem (c : Chip) (kind : Nat) (bs : List Byte) (a : Nat) (f : Fld) : (c.tlmItem kind bs).get a f = c.get a f := by
  obtain ⟨items, eq⟩ := c.tlmItem_eq kind bs
  rw [eq]
  rfl

/-- Writing words one after the other leaves the Sampler. -/
theorem Chip.wrs_smp (c : Chip) (a : Nat) (ws : List (Word × Nat)) : (List.foldl (fun (c : Chip) (x : Word × Nat) => c.wr (a + 8 * x.2) x.1) c ws).smp = c.smp :=
  foldl_keep Chip.smp _ (fun _ _ => Chip.wr_smp ..) ws c

/-- A bandwidth record changes of the Sampler the stream alone. -/
theorem Chip.bwRecord_smp (partl : Bool) (c : Chip) (p : Nat) : ∃ items, (c.bwRecord partl p).smp = { c.smp with items := items } := by
  unfold Chip.bwRecord
  extract_lets h x w1 ws written
  split
  · exact ⟨c.smp.items, Chip.inc_smp ..⟩
  · have kept : written.smp = c.smp := Chip.wrs_smp ..
    clear_value written
    obtain ⟨items, eq⟩ := (written.set A.CP_BW_HEAD F.CP_BW_HEAD_V ((h + 1) % 16384)).tlmItem_smp 1 (ofWords ws)
    exact ⟨items, eq.trans (by rw [Chip.set_smp, kept])⟩

theorem Chip.bwWrite_bwCfg (c : Chip) (partl : Bool) : (c.bwWrite partl).smp.bwCfg = c.smp.bwCfg := by
  refine foldl_keep (fun c : Chip => c.smp.bwCfg) (Chip.bwRecord partl) (fun c p => ?_) (bwPorts c.smp.bwCfg) c
  obtain ⟨items, eq⟩ := c.bwRecord_smp partl p
  rw [eq]

/-- The next windows open at `e`, the configuration as it stands. -/
def Chip.bwOpened (c : Chip) (e : Nat) : Chip := { c with smp := { c.smp with bwStart := e, bwFrom := e, bwPart := false } }

theorem Chip.bwOpened_bwEnd (c : Chip) (e : Nat) : (c.bwOpened e).bwEnd = e + bwPeriod c.smp.bwCfg := rfl

theorem Chip.get_bwOpened (c : Chip) (e a : Nat) (f : Fld) : (c.bwOpened e).get a f = c.get a f := rfl

/-- The windows that follow those that end at `e`, under the written configuration where its boundary has come. -/
def Chip.bwTurned (c : Chip) (e : Nat) (sw : Bool) : Chip :=
  if sw then
    let v := c.rd A.CP_BW_CFG
    { c with smp := { c.smp with bwCfg := v, bwStart := e / bwPeriod v * bwPeriod v, bwFrom := e, bwPart := true, bwTeff := 0 } }
  else c.bwOpened e

theorem Chip.bwClose_eq : c.bwClose =
    (c.bwWrite (c.smp.bwPart || (c.smp.bwTeff != 0 && decide (c.smp.bwTeff ≤ c.bwEnd)))).bwTurned c.bwEnd
      (c.smp.bwTeff != 0 && decide (c.smp.bwTeff ≤ c.bwEnd)) := rfl

theorem Chip.bwClose_stays (no : c.smp.bwTeff = 0) : c.bwClose = (c.bwWrite c.smp.bwPart).bwOpened c.bwEnd := by
  have stays : (c.smp.bwTeff != 0 && decide (c.smp.bwTeff ≤ c.bwEnd)) = false := by simp [no]
  rw [Chip.bwClose_eq, stays, Bool.or_false]
  exact if_neg Bool.false_ne_true

theorem Chip.bwCloseDue_one (on : bwOn c.smp.bwCfg = true) (due : c.bwEnd + 100000 ≤ d) (once : d < c.bwEnd + bwPeriod c.smp.bwCfg + 100000)
    (no : c.smp.bwTeff = 0) : Chip.bwCloseDue d (n + 2) c = c.bwClose := by
  have next : c.bwClose.bwEnd = c.bwEnd + bwPeriod c.smp.bwCfg := by
    rw [Chip.bwClose_stays no, Chip.bwOpened_bwEnd, Chip.bwWrite_bwCfg]
  rw [Chip.bwCloseDue_succ, if_pos (by simp [on, due])]
  exact Chip.bwCloseDue_waits (by omega)

/-- The windows' accumulators are those of the next windows. -/
def Chip.bwShifted (c : Chip) : Chip := { c with smp := { c.smp with bwSeq := c.smp.bwSeq + 1, bwAcc := bwShift c.smp.bwAcc } }

theorem Chip.get_bwShifted (c : Chip) (a : Nat) (f : Fld) : c.bwShifted.get a f = c.get a f := rfl

theorem Chip.bwWrite_eq (partl : Bool) : c.bwWrite partl = ((bwPorts c.smp.bwCfg).foldl (Chip.bwRecord partl) c).bwShifted := rfl

/-- A record that finds room moves HEAD. -/
theorem Chip.bwRecord_head {partl : Bool} {p : Nat}
    (room : (c.get A.CP_BW_HEAD F.CP_BW_HEAD_V + 1) % 16384 ≠ c.get A.CP_BW_TAIL F.CP_BW_TAIL_V) :
    (c.bwRecord partl p).get A.CP_BW_HEAD F.CP_BW_HEAD_V = (c.get A.CP_BW_HEAD F.CP_BW_HEAD_V + 1) % 16384 := by
  unfold Chip.bwRecord
  extract_lets h x w1 ws written
  clear_value written
  rw [if_neg room, Chip.get_tlmItem, Chip.get_set_self _ _ _ (by decide)]
  exact Nat.mod_mod _ _

/-- The record of the one port counted moves HEAD. -/
theorem Chip.bwClose_head {p : Nat} (no : c.smp.bwTeff = 0) (one : bwPorts c.smp.bwCfg = [p])
    (room : (c.get A.CP_BW_HEAD F.CP_BW_HEAD_V + 1) % 16384 ≠ c.get A.CP_BW_TAIL F.CP_BW_TAIL_V) :
    c.bwClose.get A.CP_BW_HEAD F.CP_BW_HEAD_V = (c.get A.CP_BW_HEAD F.CP_BW_HEAD_V + 1) % 16384 := by
  rw [Chip.bwClose_stays no, Chip.get_bwOpened, Chip.bwWrite_eq, one, Chip.get_bwShifted, List.foldl_cons, List.foldl_nil]
  exact Chip.bwRecord_head room

end

/-! ### Billing minutes close (R436-R438) -/

section
variable {c : Chip} {now n : Nat}

theorem Chip.billCloseDue_succ : Chip.billCloseDue now (n + 1) c =
    if c.smp.billEnd + 100000 ≤ dtOf now then Chip.billCloseDue now n (c.billClose now) else c := rfl

theorem Chip.billCloseDue_waits (early : dtOf now < c.smp.billEnd + 100000) : Chip.billCloseDue now (n + 1) c = c :=
  Chip.billCloseDue_succ.trans (if_neg (Nat.not_le.mpr early))

/-- The minute's records are written, or it is merged with the next (R437). -/
def Chip.billClosed (c : Chip) (now : Nat) : Chip :=
  if c.billFree < 8192 then (c.billFold.inc A.CP_BILL_MERGES).raise now Flt.CP_BILL_MERGE 24 63 0 0
  else
    let d := (c.billWrite c.smp.billEnd c.smp.billPart).wr A.CP_BILL_OPEN (BitVec.ofNat 64 c.smp.billEnd)
    { d with smp := { d.smp with billPart := false } }

/-- The next minute ends at `e`. -/
def Chip.billNextEnds (c : Chip) (e : Nat) : Chip := { c with smp := { c.smp with billEnd := e } }

theorem Chip.billClose_eq : c.billClose now = (c.billClosed now).billNextEnds (c.smp.billEnd + minuteNs) := rfl

theorem Chip.billNextEnds_billEnd (c : Chip) (e : Nat) : (c.billNextEnds e).smp.billEnd = e := rfl

theorem Chip.billClose_billEnd : (c.billClose now).smp.billEnd = c.smp.billEnd + minuteNs := by
  rw [Chip.billClose_eq, Chip.billNextEnds_billEnd]

theorem Chip.billCloseDue_one (due : c.smp.billEnd + 100000 ≤ dtOf now) (once : dtOf now < c.smp.billEnd + minuteNs + 100000) :
    Chip.billCloseDue now (n + 2) c = Chip.billClose now c := by
  rw [Chip.billCloseDue_succ, if_pos due]
  exact Chip.billCloseDue_waits (by rwa [Chip.billClose_billEnd])

/-- A billing record is words of its ring, a new HEAD, an item of the stream and the next number. -/
theorem Chip.billRecord_eq (e : Nat) (partl : Bool) (c : Chip) (s : Nat) : ∃ a ws h bs, c.billRecord e partl s =
    let d := ((List.foldl (fun (c : Chip) (x : Word × Nat) => c.wr (a + 8 * x.2) x.1) c ws).set A.CP_BILL_HEAD F.CP_BILL_HEAD_V h).tlmItem 2 bs
    { d with smp := { d.smp with recSeq := d.smp.recSeq + 1 } } := ⟨_, _, _, _, rfl⟩

theorem Chip.billRecord_recSeq (e : Nat) (partl : Bool) (c : Chip) (s : Nat) : (c.billRecord e partl s).smp.recSeq = c.smp.recSeq + 1 := by
  obtain ⟨a, ws, h, bs, eq⟩ := c.billRecord_eq e partl s
  have kept := c.wrs_smp a ws
  generalize List.foldl (fun (c : Chip) (x : Word × Nat) => c.wr (a + 8 * x.2) x.1) c ws = d at eq kept
  obtain ⟨items, noted⟩ := (d.set A.CP_BILL_HEAD F.CP_BILL_HEAD_V h).tlmItem_smp 2 bs
  have number : ((d.set A.CP_BILL_HEAD F.CP_BILL_HEAD_V h).tlmItem 2 bs).smp.recSeq = c.smp.recSeq := by
    rw [noted, Chip.set_smp, kept]
  rw [eq]
  exact congrArg (· + 1) number

theorem Chip.billRecords_recSeq (e : Nat) (partl : Bool) (l : List Nat) (c : Chip) :
    (l.foldl (Chip.billRecord e partl) c).smp.recSeq = c.smp.recSeq + l.length := by
  induction l generalizing c with
  | nil => rfl
  | cons s l ih => rw [List.foldl_cons, ih, Chip.billRecord_recSeq, List.length_cons, Nat.add_assoc, Nat.add_comm 1]

theorem Chip.billClose_merges (full : c.billFree < 8192) : Chip.billClose now c =
    ((c.billFold.inc A.CP_BILL_MERGES).raise now Flt.CP_BILL_MERGE 24 63 0 0).billNextEnds (c.smp.billEnd + minuteNs) := by
  rw [Chip.billClose_eq, Chip.billClosed, if_pos full]

/-- The open window is emptied into the next. -/
def Chip.billEmptied (c : Chip) : Chip := { c with smp := { c.smp with bill := c.smp.billNext, billNext := [], billMerged := false } }

theorem Chip.billWrite_eq (e : Nat) (partl : Bool) : c.billWrite e partl = ((List.range 8192).foldl (Chip.billRecord e partl) c).billEmptied := rfl

/-- What has been written as the open window ends at `e`. -/
def Chip.billOpened (c : Chip) (e : Nat) : Chip :=
  let d := c.billEmptied.wr A.CP_BILL_OPEN (BitVec.ofNat 64 e)
  { d with smp := { d.smp with billPart := false } }

theorem Chip.billOpened_recSeq (c : Chip) (e next : Nat) : ((c.billOpened e).billNextEnds next).smp.recSeq = c.smp.recSeq := rfl

theorem Chip.billOpened_billNext (c : Chip) (e next : Nat) : ((c.billOpened e).billNextEnds next).smp.billNext = [] := rfl

theorem Chip.rd_billOpened (c : Chip) (e next : Nat) : ((c.billOpened e).billNextEnds next).rd A.CP_BILL_OPEN = BitVec.ofNat 64 e :=
  c.billEmptied.rd_wr_self A.CP_BILL_OPEN _

theorem Chip.billClose_writes (room : 8192 ≤ c.billFree) : Chip.billClose now c =
    (((List.range 8192).foldl (Chip.billRecord c.smp.billEnd c.smp.billPart) c).billOpened c.smp.billEnd).billNextEnds (c.smp.billEnd + minuteNs) := by
  rw [Chip.billClose_eq, Chip.billClosed, if_neg (Nat.not_lt.mpr room), Chip.billWrite_eq, Chip.billOpened]

/-- With room for its records the minute leaves 8,192 of them, an empty next window, and the window it opens. -/
theorem Chip.billClose_room (room : 8192 ≤ c.billFree) : (Chip.billClose now c).smp.recSeq = c.smp.recSeq + 8192 ∧
    (Chip.billClose now c).smp.billNext = [] ∧ (Chip.billClose now c).smp.billEnd = c.smp.billEnd + minuteNs ∧
    (Chip.billClose now c).rd A.CP_BILL_OPEN = BitVec.ofNat 64 c.smp.billEnd := by
  refine ⟨?_, ?_, Chip.billClose_billEnd, ?_⟩ <;> rw [Chip.billClose_writes room]
  · rw [Chip.billOpened_recSeq, Chip.billRecords_recSeq, List.length_range]
  · rw [Chip.billOpened_billNext]
  · rw [Chip.rd_billOpened]

end

/-! ### The stream and the registers of the Sampler (R431, R439, R440) -/

/-- The row of CP_SMP_MODE in the register table. -/
def cpSmpModeRow : RegRow := nth ⟨0, [], 0, []⟩ cpRows 8

/-- The row of CP_BW_TAIL. -/
def cpBwTailRow : RegRow := nth ⟨0, [], 0, []⟩ cpRows 18

/-- The row of CP_BILL_TAIL. -/
def cpBillTailRow : RegRow := nth ⟨0, [], 0, []⟩ cpRows 21

theorem cpSmpModeRow_stands : cpSmpModeRow.Stands A.CP_SMP_MODE := ⟨by decide, by decide, by decide, by decide, by decide +kernel⟩

theorem cpBwTailRow_stands : cpBwTailRow.Stands A.CP_BW_TAIL := ⟨by decide, by decide, by decide, by decide, by decide +kernel⟩

theorem cpBillTailRow_stands : cpBillTailRow.Stands A.CP_BILL_TAIL := ⟨by decide, by decide, by decide, by decide, by decide +kernel⟩

theorem Chip.hook_smp {c d : Chip} {now a : Nat} {r : RegRow} {us : List (Nat × Word)} (low : 0x8000 ≤ a) (high : a < 0x10000000) :
    c.hook d now ⟨r, a, us⟩ = c.cpHook d now ⟨r, a, us⟩ :=
  (Chip.hook_cp (Nat.div_eq_of_lt high)).trans (if_neg (by simp [within, Nat.lt_of_lt_of_le (by decide : 0x7FFF < 0x8000) low]))

section
variable (c d : Chip) (now : Nat) (v : Word)

theorem Chip.hook_smpMode : c.hook d now ⟨cpSmpModeRow, A.CP_SMP_MODE, [(0, v)]⟩ = (Code.OK, c.smpMode v) :=
  (Chip.hook_smp (by decide) (by decide)).trans rfl

theorem Chip.hook_bwTail : c.hook d now ⟨cpBwTailRow, A.CP_BW_TAIL, [(0, v)]⟩ =
    judge c d (tailOk 16384 (c.get A.CP_BW_HEAD F.CP_BW_HEAD_V) (c.get A.CP_BW_TAIL F.CP_BW_TAIL_V) (getBits v 0 14)) :=
  (Chip.hook_smp (by decide) (by decide)).trans rfl

theorem Chip.hook_billTail : c.hook d now ⟨cpBillTailRow, A.CP_BILL_TAIL, [(0, v)]⟩ =
    judge c d (tailOk 32768 (c.get A.CP_BILL_HEAD F.CP_BILL_HEAD_V) (c.get A.CP_BILL_TAIL F.CP_BILL_TAIL_V) (getBits v 0 15)) :=
  (Chip.hook_smp (by decide) (by decide)).trans rfl

end

/-- What CP_SMP_MODE shows of a counter. -/
def smpShown (a : Nat) (edge : Bool) (st : Status) : Word := BitVec.ofNat 64 (a + (if edge then 1 else 0) * 2 ^ 40 + st * 2 ^ 48)

section
variable {c : Chip} {v : Word} {a : Nat} {edge : Bool} (addr : getBits v 0 40 = a)
include addr

section
variable (mode : (getBits v 40 1 == 1) = edge) (set : (getBits v 41 1 == 1) = true)
include mode set

theorem Chip.smpMode_sets (ok : smpCheck a edge = Code.OK) : c.smpMode v =
    ({ c with smp := { c.smp with edge := mset false c.smp.edge a edge } } : Chip).wr A.CP_SMP_MODE (smpShown a edge Code.OK) := by
  simp [Chip.smpMode, addr, mode, set, ok, smpShown]

theorem Chip.smpMode_bad (bad : smpCheck a edge ≠ Code.OK) : c.smpMode v = c.wr A.CP_SMP_MODE (smpShown a edge (smpCheck a edge)) := by
  simp [Chip.smpMode, addr, mode, set, bad, smpShown]

end

section
variable (mode : (getBits v 40 1 == 1) = false) (load : (getBits v 41 1 == 1) = false)
include mode load

theorem Chip.smpMode_loads (ok : smpCheck a false = Code.OK) : c.smpMode v =
    c.wr A.CP_SMP_MODE (smpShown a (mget false c.smp.edge a) Code.OK) := by
  simp [Chip.smpMode, addr, mode, load, ok, smpShown]

theorem Chip.smpMode_loadBad (bad : smpCheck a false ≠ Code.OK) : c.smpMode v = c.wr A.CP_SMP_MODE (smpShown a false (smpCheck a false)) := by
  simp [Chip.smpMode, addr, mode, load, bad, smpShown]

end

end

/-- The fields of a write of CP_SMP_MODE. -/
theorem getBits_smpMode (addr : BitVec 40) (edge set : Bool) :
    getBits (BitVec.ofNat 64 (addr.toNat + edge.toNat * 2 ^ 40 + set.toNat * 2 ^ 41)) 0 40 = addr.toNat ∧
    (getBits (BitVec.ofNat 64 (addr.toNat + edge.toNat * 2 ^ 40 + set.toNat * 2 ^ 41)) 40 1 == 1) = edge ∧
    (getBits (BitVec.ofNat 64 (addr.toNat + edge.toNat * 2 ^ 40 + set.toNat * 2 ^ 41)) 41 1 == 1) = set := by
  have e := edge.toNat_lt
  have s := set.toNat_lt
  have val : (BitVec.ofNat 64 (addr.toNat + edge.toNat * 2 ^ 40 + set.toNat * 2 ^ 41)).toNat = addr.toNat + edge.toNat * 2 ^ 40 + set.toNat * 2 ^ 41 := by
    rw [BitVec.toNat_ofNat]
    omega
  have bit (b : Bool) : (b.toNat == 1) = b := by cases b <;> rfl
  have low : addr.toNat < 2 ^ 40 := addr.isLt
  rw [getBits, getBits, getBits, val, Nat.shiftRight_eq_div_pow, Nat.shiftRight_eq_div_pow, Nat.shiftRight_eq_div_pow]
  refine ⟨by omega, ?_, ?_⟩
  · rw [show (addr.toNat + edge.toNat * 2 ^ 40 + set.toNat * 2 ^ 41) / 2 ^ 40 % 2 ^ 1 = edge.toNat by omega, bit]
  · rw [show (addr.toNat + edge.toNat * 2 ^ 40 + set.toNat * 2 ^ 41) / 2 ^ 41 % 2 ^ 1 = set.toNat by omega, bit]

theorem Chip.tlmState_due {c : Chip} {now : Nat} (on : c.flag A.CP_TLM_CFG F.CP_TLM_CFG_ENABLE = true)
    (content : 4 ≤ c.get A.CP_TLM_CFG F.CP_TLM_CFG_CONTENT) (due : c.smp.stateAt ≤ now) : c.tlmState now =
    let w := c.stateWord now
    let d : Chip := { w.2 with smp := { w.2.smp with stateAt := now + ns (1000000 * c.get A.CP_TLM_CFG F.CP_TLM_CFG_PERIOD_MS) } }
    (d.tlmItem 3 w.1).tlmSend now := if_pos (by simp [on, content, due])

section
variable {s : State}

theorem State.exec_bwTailWrite {v : Word} {st : Status} {d : Chip} (hw : s.writable A.CP_BW_TAIL = true)
    (rule : judge s.found (s.found.filled s.time A.CP_BW_TAIL [v]) (tailOk 16384 (s.found.get A.CP_BW_HEAD F.CP_BW_HEAD_V)
      (s.found.get A.CP_BW_TAIL F.CP_BW_TAIL_V) (getBits v 0 14)) = (st, d)) : exec (.bwTailWrite v) s = s.wrote st d :=
  State.exec_stands cpBwTailRow_stands (j := 0) rfl hw (List.cons_ne_nil _ _) (Nat.le_refl 1) ((Chip.hook_bwTail ..).trans rule)

theorem State.exec_billTailWrite {v : Word} {st : Status} {d : Chip} (hw : s.writable A.CP_BILL_TAIL = true)
    (rule : judge s.found (s.found.filled s.time A.CP_BILL_TAIL [v]) (tailOk 32768 (s.found.get A.CP_BILL_HEAD F.CP_BILL_HEAD_V)
      (s.found.get A.CP_BILL_TAIL F.CP_BILL_TAIL_V) (getBits v 0 15)) = (st, d)) : exec (.billTailWrite v) s = s.wrote st d :=
  State.exec_stands cpBillTailRow_stands (j := 0) rfl hw (List.cons_ne_nil _ _) (Nat.le_refl 1) ((Chip.hook_billTail ..).trans rule)

section
variable {addr : BitVec 40} (hw : s.writable A.CP_SMP_MODE = true)
include hw

theorem State.exec_smpModeSet {edge : Bool} :
    exec (.smpModeSet addr edge) s = s.wrote Code.OK (s.found.smpMode (BitVec.ofNat 64 (addr.toNat + edge.toNat * 2 ^ 40 + 2 ^ 41))) :=
  State.exec_stands cpSmpModeRow_stands (j := 0) rfl hw (List.cons_ne_nil _ _) (Nat.le_refl 1) (Chip.hook_smpMode ..)

theorem State.exec_smpModeLoad : exec (.smpModeLoad addr) s = s.wrote Code.OK (s.found.smpMode (BitVec.ofNat 64 addr.toNat)) :=
  State.exec_stands cpSmpModeRow_stands (j := 0) rfl hw (List.cons_ne_nil _ _) (Nat.le_refl 1) (Chip.hook_smpMode ..)

end

end

/-- Settles O56: where a count goes, when windows and minutes close, and what the Sampler's registers take. -/
theorem records : Obligations.Records := by
  refine ⟨fun s r rs => ?counts, fun s => ?closing, fun s v addr edge => ?registers⟩
  case counts =>
    intro now d c at_ x late acc waits
    have run : exec .countReport s = .next (s.done (s.found.countReport s.time)) := s.on_done _
    rw [Chip.countReport_waits waits] at run
    have bills (kind : 2 ≤ r.kind) {e : Chip} (rule : c.billCount r.kind r.key r.n at_ = e) : exec .countReport s = .next (s.done e) := by
      rw [if_neg (by omega)] at run
      exact rule ▸ run
    refine ⟨fun kind => ?_, fun kind on counted after => ⟨fun from_ before => Chip.bwCount_open on counted after from_ before,
      fun from_ past => Chip.bwCount_next on counted after from_ past, fun late => Chip.bwCount_late on counted after late⟩,
      fun kind timely past => bills kind (Chip.billCount_next timely past), fun kind timely before => bills kind (Chip.billCount_open timely before),
      fun kind late => bills kind (Chip.billCount_late late)⟩
    rw [if_pos kind] at run
    exact run
  case closing =>
    exact ⟨s.on_done _, fun _ early => Chip.bwCloseDue_waits (n := 16399) early,
      fun on due once no => ⟨Chip.bwCloseDue_one (n := 16398) on due once no, fun p one room => Chip.bwClose_head no one room⟩,
      fun billing => State.exec_on rfl (if_pos billing), fun early => Chip.billCloseDue_waits (n := 69999) early,
      fun due once => Chip.billCloseDue_one (n := 69998) due once, Chip.billClose_merges, Chip.billClose_room,
      fun on content due => State.exec_on rfl (Chip.tlmState_due on content due)⟩
  case registers =>
    refine ⟨fun hw => ⟨fun ok => State.exec_bwTailWrite hw (if_pos ok), fun bad => State.exec_bwTailWrite hw (if_neg (Bool.eq_false_iff.mp bad))⟩,
      fun hw => ⟨fun ok => State.exec_billTailWrite hw (if_pos ok), fun bad => State.exec_billTailWrite hw (if_neg (Bool.eq_false_iff.mp bad))⟩,
      fun hw => ?_⟩
    obtain ⟨a, mode, set⟩ := getBits_smpMode addr edge true
    obtain ⟨b, none, load⟩ := getBits_smpMode addr false false
    exact ⟨fun ok => (State.exec_smpModeSet hw).trans (congrArg (s.wrote _) (Chip.smpMode_sets a mode set ok)),
      fun bad => (State.exec_smpModeSet hw).trans (congrArg (s.wrote _) (Chip.smpMode_bad a mode set bad)),
      fun ok => (State.exec_smpModeLoad hw).trans (congrArg (s.wrote _) (Chip.smpMode_loads b none load ok)),
      fun bad => (State.exec_smpModeLoad hw).trans (congrArg (s.wrote _) (Chip.smpMode_loadBad b none load bad))⟩

end Sys2Proof.Machine

/-! PROOFS. Image sessions and the words that wait (R407, R417, R421, R425, R426). -/

namespace Sys2Proof.Machine

/-! ### What each word of a session comes to (R421) -/

section
variable {c : Chip} {now i t idx total o : Nat} {bs take : List Byte} {x : Session}

theorem Chip.runBegin_refused (bad : c.beginCheck now i t idx total bs ≠ Code.OK) :
    c.runBegin now i t idx total bs = (.now (c.beginCheck now i t idx total bs) [], c) := if_pos bad

theorem Chip.runBegin_opens (ok : c.beginCheck now i t idx total bs = Code.OK) : c.runBegin now i t idx total bs =
    let q := (c.beginOpen now i t idx total).imageAdd now i ⟨t, idx, total, [], now⟩ ((imageTake ⟨t, idx, total, [], now⟩ bs).getD [])
    if toFlash t then (.later (.image i 0), q.2) else plainEnd_ q := if_neg (not_not.mpr ok)

theorem toFlash_pos (flash : 4 ≤ t) : toFlash t = true := decide_eq_true flash

theorem toFlash_neg (direct : t < 4) : ¬toFlash t = true := by simp [toFlash, direct]

theorem Chip.runData_none (closed : c.session i = none) : c.runData now i o bs = (.now Code.NO_SESSION [], c) := by
  rw [Chip.runData, closed]

section
variable (session : c.session i = some x)
include session

theorem Chip.runData_outOfOrder (other : o ≠ x.bytes.length) : c.runData now i o bs =
    (.now Code.OUT_OF_ORDER [], c.setSession i (some { x with last := now })) := by
  rw [Chip.runData, session]
  exact if_pos other

theorem Chip.runData_bad (next : o = x.bytes.length) (bad : imageTake x bs = none) : c.runData now i o bs =
    (.now Code.IMAGE_BAD [], c.setSession i (some { x with last := now })) := by
  rw [Chip.runData, session]
  refine (if_neg (not_not.mpr next)).trans ?_
  rw [bad]

theorem Chip.runData_takes (next : o = x.bytes.length) (takes : imageTake x bs = some take) : c.runData now i o bs =
    let q := (c.setSession i (some { x with last := now })).imageAdd now i x take
    if toFlash x.target then (.later (.image i o), q.2) else plainEnd_ q := by
  rw [Chip.runData, session]
  refine (if_neg (not_not.mpr next)).trans ?_
  rw [takes]

theorem Chip.runEnd_flash (flash : 4 ≤ x.target) : c.runEnd now i = (.later (.image i x.bytes.length), c) := by
  rw [Chip.runEnd, session]
  exact if_pos (toFlash_pos flash)

theorem Chip.runEnd_absent (pricking : x.target = 2) (down : c.up 23 = false) : c.runEnd now i = (.now Code.ABSENT (body1 Code.ABSENT), c) := by
  rw [Chip.runEnd, session]
  exact (if_neg (toFlash_neg (by omega))).trans (if_pos ⟨pricking, down⟩)

theorem Chip.runEnd_ends (direct : x.target < 4) (up : x.target = 2 → c.up 23 = true) : c.runEnd now i =
    (.now (c.imageEnd now i x).1 (body1 (c.imageEnd now i x).1), (c.imageEnd now i x).2) := by
  rw [Chip.runEnd, session]
  exact (if_neg (toFlash_neg direct)).trans (if_neg fun ⟨pricking, down⟩ => by simp [up pricking] at down)

theorem Chip.abortSession_open : c.abortSession now i = (c.setSession i none).noteImage now x false 0 := by
  rw [Chip.abortSession, session]

theorem Chip.runAbort_open : c.runAbort now i = (.now Code.OK [], (c.setSession i none).noteImage now x false 0) := by
  rw [Chip.runAbort, session, ← Chip.abortSession_open session]

theorem Chip.sessionTimeout_due (due : x.last + ns 60000000000 ≤ now) :
    c.sessionTimeout now i = (c.setSession i none).noteImage now x false 0 := by
  rw [Chip.sessionTimeout, session]
  exact (if_pos due).trans (Chip.abortSession_open session)

end

theorem Chip.runEnd_none (closed : c.session i = none) : c.runEnd now i = (.now Code.NO_SESSION (body1 Code.NO_SESSION), c) := by
  rw [Chip.runEnd, closed]

theorem Chip.runAbort_none (closed : c.session i = none) : c.runAbort now i = (.now Code.NO_SESSION [], c) := by
  rw [Chip.runAbort, closed]

theorem badImage_ne_ok (t : Nat) : badImage t ≠ Code.OK := by
  unfold badImage
  split
  · decide
  split <;> decide

/-- The end of an image that the flash does not hold. -/
theorem Chip.imageEnd_direct (direct : x.target < 4) : c.imageEnd now i x =
    let st := if c.imageFinal x then Code.OK else badImage x.target
    (st, ((if c.imageFinal x then c.imageGood now x else c).setSession i none).noteImage now x true st) := by
  have notFirmware : ¬(x.target = 4 ∧ x.bytes.length ≠ x.total) := by omega
  unfold Chip.imageEnd
  rw [if_neg notFirmware]
  cases c.imageFinal x
  · simp [badImage_ne_ok]
  · rfl

end

/-! ### The words that wait (R407) -/

section
variable {c : Chip} {now k n o : Nat} {x : Session} (runs : c.cmdRuns = true)
include runs

theorem Chip.resumes_runs : c.resumes k = c.waiting k := if_pos runs

theorem Chip.waitDone_due {t : Nat} (waits : c.waiting k = .untilT t) (due : t ≤ now) : c.waitDone now k = c.wordEnd now k Code.OK [] := by
  rw [Chip.waitDone, Chip.resumes_runs runs, waits]
  exact if_pos due

theorem Chip.journalReadDone_waits {q : Nat} (waits : c.waiting k = .journal q n) : c.journalReadDone now k =
    c.wordEnd now k Code.OK (journalBody (BitVec.ofNat 64 q) (c.journalEntries (BitVec.ofNat 64 q) n)) := by
  rw [Chip.journalReadDone, Chip.resumes_runs runs, waits]

section
variable {key : List Byte} {gen : Nat} {remove ok : Bool} (waits : c.waiting k = .keyRoll n key gen remove)
include waits

theorem Chip.keyRollDone_failed (failed : ok = false ∨ c.flash.present = false) : c.keyRollDone now k ok = c.wordEnd now k Code.FLASH_FAIL [] := by
  rw [Chip.keyRollDone, Chip.resumes_runs runs, waits]
  exact if_pos (by rcases failed with h | h <;> simp [h])

variable (done : ok = true) (present : c.flash.present = true)
include done present

theorem Chip.keyRollDone_stale (stale : remove = false ∧ gen ≤ (c.rd (A.CP_KEY n + 8)).toNat) :
    c.keyRollDone now k ok = c.wordEnd now k Code.GENERATION [] := by
  rw [Chip.keyRollDone, Chip.resumes_runs runs, waits]
  exact (if_neg (by simp [done, present])).trans (if_pos (by simp [stale.1, stale.2]))

theorem Chip.keyRollDone_applies (fresh : ¬(remove = false ∧ gen ≤ (c.rd (A.CP_KEY n + 8)).toNat)) :
    c.keyRollDone now k ok = (c.rollApply now n key gen remove).wordEnd now k Code.OK [] := by
  rw [Chip.keyRollDone, Chip.resumes_runs runs, waits]
  exact (if_neg (by simp [done, present])).trans (if_neg (by simpa using fresh))

end

section
variable (waits : c.waiting k = .image n o) (session : c.session n = some x)
include waits session

theorem Chip.imageWriteDone_session (ok : Bool) : c.imageWriteDone now k ok =
    if !(ok && c.flash.present) then
      (c.setSession n (if (c.atEnd k).2 then none else some { x with bytes := x.bytes.take o })).wordEnd now k Code.FLASH_FAIL
        (if (c.atEnd k).1 then body1 Code.FLASH_FAIL else [])
    else if (c.atEnd k).1 then (c.imageEnd now n x).2.wordEnd now k (c.imageEnd now n x).1 (body1 (c.imageEnd now n x).1)
    else c.wordEnd now k Code.OK [] := by
  rw [Chip.imageWriteDone, Chip.resumes_runs runs, waits]
  dsimp only
  rw [session]

theorem Chip.imageWriteDone_failed : c.imageWriteDone now k false =
    (c.setSession n (if (c.atEnd k).2 then none else some { x with bytes := x.bytes.take o })).wordEnd now k Code.FLASH_FAIL
      (if (c.atEnd k).1 then body1 Code.FLASH_FAIL else []) :=
  (Chip.imageWriteDone_session runs waits session false).trans (if_pos rfl)

variable (present : c.flash.present = true)
include present

theorem Chip.imageWriteDone_end (last : (c.atEnd k).1 = true) : c.imageWriteDone now k true =
    (c.imageEnd now n x).2.wordEnd now k (c.imageEnd now n x).1 (body1 (c.imageEnd now n x).1) :=
  (Chip.imageWriteDone_session runs waits session true).trans ((if_neg (by simp [present])).trans (if_pos last))

theorem Chip.imageWriteDone_more (more : (c.atEnd k).1 = false) : c.imageWriteDone now k true = c.wordEnd now k Code.OK [] :=
  (Chip.imageWriteDone_session runs waits session true).trans ((if_neg (by simp [present])).trans (if_neg (Bool.eq_false_iff.mp more)))

end

end

/-- Settles O50: each word of a session by what it comes to, and each wait by what ends it. -/
theorem imageSessions : Obligations.ImageSessions := by
  refine fun s k r i bs => ⟨fun t idx total takes => ?begin_, fun off takes => ?data, fun takes => ?end_, fun takes => ?abort,
    fun x session due => State.exec_on rfl (Chip.sessionTimeout_due session due), fun runs => ⟨fun t waits due => ?untilT,
      fun n key gen remove ok waits => ?roll, fun q n waits => ?journal, fun n o x waits session present => ?image⟩⟩
  case begin_ =>
    refine ⟨fun bad => State.ended_of_runWord rfl takes (Chip.runBegin_refused bad), fun ok flash => ?_, fun ok direct => ?_⟩
    · exact State.waitsFor_of_runWord rfl takes ((Chip.runBegin_opens ok).trans (if_pos (toFlash_pos flash)))
    · exact State.ended_of_runWord rfl takes ((Chip.runBegin_opens ok).trans (if_neg (toFlash_neg direct)))
  case data =>
    refine ⟨fun closed => State.ended_of_runWord rfl takes (Chip.runData_none closed), fun x session =>
      ⟨fun other => State.ended_of_runWord rfl takes (Chip.runData_outOfOrder session other),
        fun next bad => State.ended_of_runWord rfl takes (Chip.runData_bad session next bad), fun take next fits => ⟨fun flash => ?_, fun direct => ?_⟩⟩⟩
    · exact State.waitsFor_of_runWord rfl takes ((Chip.runData_takes session next fits).trans (if_pos (toFlash_pos flash)))
    · exact State.ended_of_runWord rfl takes ((Chip.runData_takes session next fits).trans (if_neg (toFlash_neg direct)))
  case end_ =>
    refine ⟨fun closed => State.ended_of_runWord rfl takes (Chip.runEnd_none closed), fun x session direct up => ?_,
      fun x session pricking down => State.ended_of_runWord rfl takes (Chip.runEnd_absent session pricking down),
      fun x session flash => State.waitsFor_of_runWord rfl takes (Chip.runEnd_flash session flash)⟩
    refine State.ended_of_runWord rfl takes ((Chip.runEnd_ends session direct up).trans ?_)
    rw [Chip.imageEnd_direct direct]
    rfl
  case abort =>
    exact ⟨fun closed => State.ended_of_runWord rfl takes (Chip.runAbort_none closed),
      fun x session => State.ended_of_runWord rfl takes (Chip.runAbort_open session)⟩
  case untilT => exact State.exec_on rfl (Chip.waitDone_due runs waits due)
  case roll =>
    exact ⟨fun done present fresh => State.exec_on rfl (Chip.keyRollDone_applies runs waits done present fresh),
      fun done present stale => State.exec_on rfl (Chip.keyRollDone_stale runs waits done present stale),
      fun failed => State.exec_on rfl (Chip.keyRollDone_failed runs waits failed)⟩
  case journal => exact State.exec_on rfl (Chip.journalReadDone_waits runs waits)
  case image =>
    refine ⟨fun last => State.exec_on rfl (Chip.imageWriteDone_end runs waits session present (congrArg Prod.fst last)),
      fun more => State.exec_on rfl (Chip.imageWriteDone_more runs waits session present more), fun first => ?_, fun middle => ?_⟩
    · refine State.exec_on rfl ((Chip.imageWriteDone_failed runs waits session).trans ?_)
      rw [first]
      rfl
    · refine State.exec_on rfl ((Chip.imageWriteDone_failed runs waits session).trans ?_)
      rw [middle]
      rfl

end Sys2Proof.Machine

/-! PROOFS. Packets that start, the I2C target and the test access port (R404-R408, R410, R413, R414, R489, R495, R496). -/

namespace Sys2Proof.Machine

/-! ### A context that waits or runs -/

theorem Chip.ctxBusy_iff {c : Chip} {k : Nat} :
    c.ctxBusy k = true ↔ ¬((c.cmdCtx k).queue = [] ∧ (c.cmdCtx k).run = none) := by
  unfold Chip.ctxBusy
  cases (c.cmdCtx k).queue <;> cases (c.cmdCtx k).run <;> simp

theorem Chip.ctxBusy_of_free {c : Chip} {k : Nat} (free : (c.cmdCtx k).queue = [] ∧ (c.cmdCtx k).run = none) :
    c.ctxBusy k = false :=
  Bool.eq_false_iff.2 fun busy => Chip.ctxBusy_iff.1 busy free

/-- BUSY as the access points show it. -/
theorem Chip.ctxBusy_bit (c : Chip) (k : Nat) :
    (if c.ctxBusy k then 1 else 0) = if (c.cmdCtx k).queue = [] ∧ (c.cmdCtx k).run = none then 0 else 1 := by
  by_cases free : (c.cmdCtx k).queue = [] ∧ (c.cmdCtx k).run = none
  · rw [if_pos free, Chip.ctxBusy_of_free free]; rfl
  · rw [if_neg free, if_pos (Chip.ctxBusy_iff.2 free)]

/-! ### The start of a packet (R405, R407, R413) -/

/-- The chip once context `k` has taken its oldest packet. -/
def Chip.taken (c : Chip) (k : Nat) (rest : List (List Byte × Origin)) : Chip :=
  let d := c.setCmdCtx k { c.cmdCtx k with queue := rest }
  if 2 ≤ k ∧ k < 18 then { d with cmd := { d.cmd with turn := k - 2 } } else d

/-- The packet of bytes `bs` of context `k` begins at its first word. -/
def Chip.begun (c : Chip) (now k : Nat) (bs : List Byte) (o : Origin) (auth : Bool) (sign : List Byte) : Chip :=
  (c.setRun k (some
    { bytes := bs, off := 64, origin := o, auth := auth, key := getBits (hdr bs 1) 48 4, cont := getBits (hdr bs 0) 41 1 == 1,
      records := [], nrun := 0, status := Code.OK, denied := false, sign := sign, wait := .none })).cmdNext now k

/-- What becomes of a taken packet that is a request of this station. -/
def Chip.judged (c : Chip) (now k : Nat) (bs : List Byte) (o : Origin) : Chip :=
  if c.bootRefuses k then c.refusePacket now k o bs Code.MODE_REFUSED false true
  else
    let keyed := getBits (hdr bs 0) 40 1 == 1
    let a := if keyed then c.authenticate bs else Code.OK
    if a ≠ Code.OK then
      (c.inc (if a = Code.DENIED then A.CP_CMD_DENIED else A.CP_CMD_STALE)).refusePacket now k o bs a true true
    else
      let slot := getBits (hdr bs 1) 48 4
      let c := if keyed then (c.wr (A.CP_KEY slot) (hdr bs 2)).keySave else c
      c.begun now k bs o keyed (if keyed then c.slotKey slot else [])

/-- What becomes of a taken packet. -/
def Chip.received (c : Chip) (now k : Nat) (bs : List Byte) (o : Origin) : Chip :=
  let st := c.notRequest o bs
  if o.pre ≠ Code.OK then c.refusePacket now k o bs st false true
  else if st = Code.BAD_PACKET then (c.inc A.CP_CMD_BAD_PACKET).refusePacket now k o bs st false (k != 18)
  else
    let u := c.inc A.CP_CMD_PACKETS
    if st ≠ Code.OK then (u.inc A.CP_CMD_NOT_MINE).refusePacket now k o bs st false (k != 18)
    else u.judged now k bs o

section
variable {c : Chip} {now k : Nat} {bs raw : List Byte} {o : Origin} {rest : List (List Byte × Origin)}

theorem Chip.packetStart_eq (queue : (c.cmdCtx k).queue = (raw, o) :: rest) (run : (c.cmdCtx k).run = none)
    (runs : c.cmdRuns = true) (turn : c.cmdTurn k = true) :
    c.packetStart now k = (c.taken k rest).received now k (packetBytes o raw) o := by
  unfold Chip.packetStart
  dsimp only
  split
  next head _ =>
    rw [queue] at head
    injection head with same others
    injection same with raw' origin
    subst raw' origin others
    exact if_neg (by simp [runs, turn])
  next other => exact absurd run (other raw o rest queue)

theorem Chip.received_refused (pre : o.pre ≠ Code.OK) :
    c.received now k bs o = c.refusePacket now k o bs o.pre false true := by
  have st : c.notRequest o bs = o.pre := if_pos pre
  rw [Chip.received, st]
  exact if_pos pre

theorem Chip.received_unframed (pre : o.pre = Code.OK) (bad : framed o bs = false) :
    c.received now k bs o = (c.inc A.CP_CMD_BAD_PACKET).refusePacket now k o bs Code.BAD_PACKET false (k != 18) := by
  have st : c.notRequest o bs = Code.BAD_PACKET := by simp [Chip.notRequest, pre, bad]
  rw [Chip.received, st]
  exact (if_neg (not_not_intro pre)).trans (if_pos rfl)

theorem Chip.received_foreign (pre : o.pre = Code.OK) (good : framed o bs = true) (foreign : c.mine bs = false) :
    c.received now k bs o
      = ((c.inc A.CP_CMD_PACKETS).inc A.CP_CMD_NOT_MINE).refusePacket now k o bs Code.WRONG_STATION false (k != 18) := by
  have st : c.notRequest o bs = Code.WRONG_STATION := by simp [Chip.notRequest, pre, good, foreign]
  rw [Chip.received, st]
  exact (if_neg (not_not_intro pre)).trans <| (if_neg (by decide)).trans (if_pos (by decide))

theorem Chip.received_request (pre : o.pre = Code.OK) (good : framed o bs = true) (mine : c.mine bs = true) :
    c.received now k bs o = (c.inc A.CP_CMD_PACKETS).judged now k bs o := by
  have st : c.notRequest o bs = Code.OK := by simp [Chip.notRequest, pre, good, mine]
  rw [Chip.received, st]
  exact (if_neg (not_not_intro pre)).trans <| (if_neg (by decide)).trans (if_neg (by decide))

theorem Chip.judged_boot (boot : c.bootRefuses k = true) :
    c.judged now k bs o = c.refusePacket now k o bs Code.MODE_REFUSED false true :=
  if_pos boot

theorem Chip.judged_plain (boot : c.bootRefuses k = false) (plain : ¬getBits (hdr bs 0) 40 1 = 1) :
    c.judged now k bs o = c.begun now k bs o false [] := by
  have keyed : (getBits (hdr bs 0) 40 1 == 1) = false := beq_false_of_ne plain
  rw [Chip.judged, keyed, boot]
  rfl

theorem Chip.judged_refused {st : Status} (boot : c.bootRefuses k = false) (keyed : getBits (hdr bs 0) 40 1 = 1)
    (auth : c.authenticate bs = st) (refused : st ≠ Code.OK) :
    c.judged now k bs o
      = (c.inc (if st = Code.DENIED then A.CP_CMD_DENIED else A.CP_CMD_STALE)).refusePacket now k o bs st true true := by
  have keyed : (getBits (hdr bs 0) 40 1 == 1) = true := beq_iff_eq.2 keyed
  rw [Chip.judged, keyed, boot, auth]
  exact if_pos refused

theorem Chip.judged_keyed (boot : c.bootRefuses k = false) (keyed : getBits (hdr bs 0) 40 1 = 1)
    (auth : c.authenticate bs = Code.OK) :
    let e := (c.wr (A.CP_KEY (getBits (hdr bs 1) 48 4)) (hdr bs 2)).keySave
    c.judged now k bs o = e.begun now k bs o true (e.slotKey (getBits (hdr bs 1) 48 4)) := by
  have keyed : (getBits (hdr bs 0) 40 1 == 1) = true := beq_iff_eq.2 keyed
  rw [Chip.judged, keyed, boot, auth]
  rfl

/-! ### The keyed check (R413, R414) -/

/-- The check of a packet verifies under the key of its slot. -/
def Chip.keyChecks (c : Chip) (bs : List Byte) : Prop :=
  let key := c.slotKey (getBits (hdr bs 1) 48 4)
  key ≠ [] ∧ checkBytes key bs = (bs.drop 32).take 16

theorem Chip.authenticate_denied (bad : ¬c.keyChecks bs) : c.authenticate bs = Code.DENIED := by
  refine if_pos ?_
  by_contra pass
  exact bad (by simpa [Chip.keyChecks] using pass)

theorem Chip.authenticate_verified (good : c.keyChecks bs) :
    c.authenticate bs
      = if (hdr bs 2).toNat ≤ (c.rd (A.CP_KEY (getBits (hdr bs 1) 48 4))).toNat then Code.STALE_COUNTER else Code.OK := by
  obtain ⟨key, check⟩ := good
  refine if_neg ?_
  simp [key, check]

section
variable (boot : c.bootRefuses k = false) (keyed : getBits (hdr bs 0) 40 1 = 1)
include boot keyed

theorem Chip.judged_denied (bad : ¬c.keyChecks bs) :
    c.judged now k bs o = (c.inc A.CP_CMD_DENIED).refusePacket now k o bs Code.DENIED true true := by
  rw [Chip.judged_refused boot keyed (Chip.authenticate_denied bad) (by decide), if_pos rfl]

theorem Chip.judged_stale (good : c.keyChecks bs)
    (old : (hdr bs 2).toNat ≤ (c.rd (A.CP_KEY (getBits (hdr bs 1) 48 4))).toNat) :
    c.judged now k bs o = (c.inc A.CP_CMD_STALE).refusePacket now k o bs Code.STALE_COUNTER true true := by
  rw [Chip.judged_refused boot keyed ((Chip.authenticate_verified good).trans (if_pos old)) (by decide), if_neg (by decide)]

end

end

/-! ### The I2C target (R410, R441) -/

theorem Chip.i2cOn_intro {c : Chip} (en : c.flag A.CP_CMD_CFG F.CP_CMD_CFG_I2C_EN = true) (mode : 3 ≤ c.mode) :
    c.i2cOn = true := by
  simp [Chip.i2cOn, en, mode]

section
variable {c : Chip} (on : c.i2cOn = true)
include on

theorem Chip.i2cWrite_taken {bs : List Byte} (short : bs.length ≤ 32) (room : c.cmd.i2cBuf.length + bs.length ≤ 4096)
    (free : (c.cmdCtx 19).queue = [] ∧ (c.cmdCtx 19).run = none) :
    c.i2cWrite bs = { c with cmd := { c.cmd with i2cBuf := c.cmd.i2cBuf ++ bs } } :=
  if_neg (by simp [on, Chip.ctxBusy_of_free free, short, room])

theorem Chip.i2cSubmit_one (free : (c.cmdCtx 19).queue = [] ∧ (c.cmdCtx 19).run = none) :
    c.i2cSubmit 1 = ({ c with cmd := { c.cmd with i2cBuf := [], i2cRes := [], i2cDone := false } } : Chip).cmdSubmit 19 c.cmd.i2cBuf
      { source := 6, detail := 0, limit := 4096, resAddr := 0, sa := [], tags := [], pre := Code.OK, gen := 0 } :=
  if_neg (by simp [on, Chip.ctxBusy_of_free free])

theorem Chip.i2cStatus_eq :
    c.i2cStatus = { c with cmd := { c.cmd with answer := [BitVec.ofNat 8
      ((if (c.cmdCtx 19).queue = [] ∧ (c.cmdCtx 19).run = none then 0 else 1) + if c.cmd.i2cDone then 2 else 0)] } } :=
  (if_neg (by simp [on])).trans (congrArg (fun b => c.answers [BitVec.ofNat 8 (b + _)]) (c.ctxBusy_bit 19))

end

theorem Chip.i2cWrite_busy {c : Chip} {bs : List Byte} (busy : ¬((c.cmdCtx 19).queue = [] ∧ (c.cmdCtx 19).run = none)) :
    c.i2cWrite bs = c :=
  if_pos (by simp [Chip.ctxBusy_iff.2 busy])

theorem Chip.i2cSubmit_other {c : Chip} {v : Nat} (other : v ≠ 1) : c.i2cSubmit v = c :=
  if_pos (by simp [other])

/-! ### The test access port (R495, R496) -/

section
variable {c : Chip} (on : c.mode ≠ Mode.off)
include on

theorem Chip.tapLoad_eq (n : Nat) : c.tapLoad n = { c with tap := { c.tap with ir := n } } := if_neg on

theorem Chip.tapIdcode_eq :
    c.tapIdcode = ({ c with tap := { c.tap with ir := 1 } } : Chip).answers (leBytes 4 0x1981656B) :=
  (if_neg on).trans (congrArg (Chip.answers · _) (Chip.tapLoad_eq on 1))

theorem Chip.tapSample_eq (pins : List Byte) (value : Nat) :
    c.tapSample pins value
      = { c with tap := { c.tap with ir := 2, bsr := value }, cmd := { c.cmd with answer := pins } } := by
  refine (if_neg on).trans ?_
  rw [Chip.tapLoad_eq on]
  rfl

theorem Chip.tapStatus_eq :
    c.tapStatus = ({ c with tap := { c.tap with ir := 0x21 } } : Chip).answers [BitVec.ofNat 8
      ((if (c.cmdCtx 20).queue = [] ∧ (c.cmdCtx 20).run = none then 0 else 1) + (if c.cmd.dbgDone then 2 else 0)
        + (if c.cmd.dbgRefused then 4 else 0))] := by
  refine (if_neg on).trans ?_
  rw [Chip.tapLoad_eq on, c.ctxBusy_bit 20]

theorem Chip.tapCapture_eq :
    c.tapCapture = { c with tap := { c.tap with ir := 0x20 },
                            cmd := { c.cmd with dbgRes := c.cmd.dbgRes.drop 8, answer := c.cmd.dbgRes.take 8 } } := by
  refine (if_neg on).trans ?_
  rw [Chip.tapLoad_eq on]
  rfl

/-- The chip once CMD_DATA has appended 8 bytes. -/
theorem Chip.tapData_eq {v : Word} {last : Bool} (free : (c.cmdCtx 20).queue = [] ∧ (c.cmdCtx 20).run = none)
    (room : c.cmd.dbgBuf.length + 8 ≤ 65536) :
    let d : Chip := { c with tap := { c.tap with ir := 0x20 }, cmd := { c.cmd with dbgBuf := c.cmd.dbgBuf ++ leBytes 8 v.toNat } }
    c.tapData v true last = if last then d.debugSubmit else d := by
  refine (if_neg on).trans ?_
  rw [Chip.tapLoad_eq on]
  refine if_neg ?_
  have idle : Chip.ctxBusy { c with tap := { c.tap with ir := 0x20 } } 20 = false := Chip.ctxBusy_of_free free
  simp [idle, room]

end

/-- The debug port's registers once its buffer has been submitted. -/
def Chip.dbgSent (c : Chip) : Chip :=
  { c with cmd := { c.cmd with dbgBuf := [], dbgRes := [], dbgDone := false, dbgRefused := false } }

theorem Chip.debugSubmit_on {c : Chip} (en : c.flag A.CP_CMD_CFG F.CP_CMD_CFG_DEBUG_EN = true) :
    c.debugSubmit = c.dbgSent.cmdSubmit 20 c.cmd.dbgBuf
      { source := 7, detail := 0, limit := 65536, resAddr := 0, sa := [], tags := [], pre := Code.OK, gen := 0 } :=
  if_pos en

theorem Chip.debugSubmit_off {c : Chip} (en : c.flag A.CP_CMD_CFG F.CP_CMD_CFG_DEBUG_EN = false) :
    c.debugSubmit = { c.dbgSent with cmd := { c.dbgSent.cmd with
      dbgRes := c.dbgSent.resultOf c.cmd.dbgBuf [] [] Code.DENIED 0 (-1), dbgDone := true, dbgRefused := true } } :=
  if_neg (Bool.eq_false_iff.1 en)

/-- Settles O48: each outcome of a packet's start, of an access of the I2C target and of a TAP instruction is a branch of its operation. -/
theorem commandTransports : Obligations.CommandTransports := by
  refine ⟨?_, fun s => ⟨?_, ?_, ?_⟩⟩
  · intro s k raw o rest c now x queue idle runs turn run bs popped d u reply slot key keyed good checked begun
    have start {r : Chip} (h : d.received now k bs o = r) : run = .next (s.done r) :=
      State.exec_on rfl ((Chip.packetStart_eq queue idle runs turn).trans h)
    clear_value run d bs
    have request (h : good) {r : Chip} (judged : u.judged now k bs o = r) : run = .next (s.done r) := by
      obtain ⟨pre, framed, mine, _⟩ := h
      exact start ((Chip.received_request pre framed mine).trans judged)
    refine ⟨fun pre => start (Chip.received_refused pre), fun pre bad => start (Chip.received_unframed pre bad),
      fun pre framed foreign => start (Chip.received_foreign pre framed foreign),
      fun pre framed mine boot => start ((Chip.received_request pre framed mine).trans (Chip.judged_boot boot)),
      fun h keyed bad => request h (Chip.judged_denied h.2.2.2 keyed bad),
      fun h keyed check old => request h (Chip.judged_stale h.2.2.2 keyed check old),
      fun h keyed check new => request h
        (Chip.judged_keyed h.2.2.2 keyed ((Chip.authenticate_verified check).trans (if_neg (Nat.not_le.2 new)))),
      fun h plain => request h (Chip.judged_plain h.2.2.2 plain)⟩
  · intro en mode
    have on := Chip.i2cOn_intro en mode
    refine ⟨fun bs short room => ⟨fun free => State.exec_on rfl (Chip.i2cWrite_taken on short room free),
      fun busy => State.exec_on rfl (Chip.i2cWrite_busy busy)⟩, fun v free => ⟨fun one => ?_, fun other => ?_⟩, ?_, ?_, ?_⟩
    · exact State.exec_on rfl ((congrArg s.found.i2cSubmit one).trans (Chip.i2cSubmit_one on free))
    · exact State.exec_on rfl (Chip.i2cSubmit_other other)
    · exact State.exec_on rfl (if_neg (by simp [on]))
    · exact State.exec_on rfl (Chip.i2cStatus_eq on)
    · exact State.exec_on rfl (if_neg (by simp [on]))
  · intro on
    refine ⟨State.exec_on rfl (Chip.tapLoad_eq on _), State.exec_on rfl (Chip.tapLoad_eq on _),
      State.exec_on rfl (Chip.tapLoad_eq on _), State.exec_on rfl (Chip.tapLoad_eq on _),
      State.exec_on rfl (Chip.tapLoad_eq on _), State.exec_on rfl (Chip.tapLoad_eq on _),
      State.exec_on rfl (Chip.tapIdcode_eq on), fun pins value => State.exec_on rfl (Chip.tapSample_eq on pins value),
      State.exec_on rfl (Chip.tapStatus_eq on), fun v free room => ⟨?_, fun en => ?_, fun en => ?_⟩,
      State.exec_on rfl (Chip.tapCapture_eq on)⟩
    · exact State.exec_on rfl (Chip.tapData_eq on free room)
    · exact State.exec_on rfl ((Chip.tapData_eq on free room).trans (Chip.debugSubmit_on en))
    · exact State.exec_on rfl ((Chip.tapData_eq on free room).trans (Chip.debugSubmit_off en))
  · exact State.exec_on rfl rfl

end Sys2Proof.Machine

/-! PROOFS. Writes of queue pairs, slices' quotas and endpoints (R321, R334, R344, R351, R355, R356, R380). -/

namespace Sys2Proof.Machine

/-- An element of an array of one dimension stands where its index says, in a region whose rows before it keep out of the array. -/
theorem RegRow.stands_array {rs : List RegRow} {r : RegRow} {k count stride i : Nat} (rows : rs = rs.take k ++ r :: rs.drop (k + 1))
    (others : ((rs.take k).all fun q => q.past r.base (r.base + count * stride)) = true) (dims : r.dims = [(count, stride)])
    (range : r.base % 8 = 0 ∧ stride % 8 = 0 ∧ 8 * r.words ≤ stride ∧ r.base + count * stride < 0xE0000000)
    (block : r.base % 0x1000000 + count * stride ≤ 0x1000000 ∨ 0x1000000 % stride = 0 ∧ r.base % stride = 0)
    (region : ∀ b, r.base ≤ b → b < r.base + count * stride → b / 0x10000000 ≠ 6 ∧ b / 0x10000000 ≠ 8 ∧ regionRows b = rs)
    (plain : A.FT_SAT 1024 ≤ r.base) (hi : i < count) (nonempty : 0 < r.words) : r.Stands (r.base + stride * i) := by
  obtain ⟨base8, stride8, fits, high⟩ := range
  have inside : stride * i + stride ≤ count * stride := by
    rw [Nat.mul_comm count, ← Nat.mul_succ]
    exact Nat.mul_le_mul_left stride hi
  obtain ⟨notTm, notMill, -⟩ := region (r.base + stride * i) (by omega) (by omega)
  refine ⟨by rw [Nat.add_mod, base8, Nat.mul_mod, stride8]; simp, ⟨notTm, notMill, by omega⟩, ?_, .inr (by omega), fun j hj => ?_⟩
  · obtain whole | ⟨block0, base0⟩ := block
    · omega
    · obtain ⟨q, hq⟩ := Nat.dvd_of_mod_eq_zero block0
      have start : (r.base + stride * i) % 0x1000000 % stride = 0 := by
        rw [Nat.mod_mod_of_dvd _ (Nat.dvd_of_mod_eq_zero block0), Nat.add_mul_mod_self_left, base0]
      obtain ⟨p, hp⟩ := Nat.dvd_of_mod_eq_zero start
      have below : stride * p < stride * q := by
        rw [← hp, ← hq]
        exact Nat.mod_lt _ (by decide)
      have := Nat.mul_le_mul_left stride (Nat.succ_le_of_lt (Nat.lt_of_mul_lt_mul_left below))
      rw [Nat.mul_succ] at this
      omega
  · rw [(region (r.base + stride * i + 8 * j) (by omega) (by omega)).2.2]
    exact (congrArg (findRow · _) rows).trans
      (by rw [findRow_past (by omega) (by omega) _ others, findRow, RegRow.wordAt_array dims fits hi hj])

/-- A read-write field of the first word of a register reads back as written. -/
theorem RegRow.Stands.field_filled {r : RegRow} {a : Nat} (h : r.Stands a) (c : Chip) (now : Nat) {v : Word} {vs : List Word} {f : FieldRow}
    (fits : (v :: vs).length ≤ r.words) (fields : r.fields.Pairwise fun f g => f.apart g = true) (hf : f ∈ r.fields)
    (first : f.word = 0) (rw_ : f.access = .rw) :
    getBits ((c.filled now a (v :: vs)).rd a) f.lo f.width = getBits v f.lo f.width := by
  have stored : c.filled now a (v :: vs) = c.storeElem now ⟨r, a, numbered 0 (v :: vs)⟩ :=
    h.filled c now (j := 0) (List.cons_ne_nil v vs) (by omega)
  rw [stored, Chip.rd_storeElem_first]
  refine getBits_foldl_fieldPut (fields.filter _) (fun g hg => ?_) (List.mem_filter.2 ⟨hf, by simp [first]⟩) rw_
  rw [first]
  simpa using (List.mem_filter.1 hg).2

/-! ### Queue pairs (R355, R356, R380) -/

/-- The row of DE_QP in the register table. -/
def qpRow : RegRow := nth ⟨0, [], 0, []⟩ deRows 1

theorem deRows_region {b : Nat} (low : qpRow.base ≤ b) (high : b < qpRow.base + 65536 * 0x40) :
    b / 0x10000000 ≠ 6 ∧ b / 0x10000000 ≠ 8 ∧ regionRows b = deRows := by
  have base : qpRow.base = 0x41000000 := rfl
  have region : b / 0x10000000 = 4 := by omega
  rw [regionRows, region]
  exact ⟨by decide, by decide, rfl⟩

theorem qpRow_stands (n : QpNo) : qpRow.Stands (A.DE_QP n) :=
  RegRow.stands_array (r := qpRow) (rs := deRows) (k := 1) (count := 65536) (stride := 0x40) rfl (by decide +kernel) rfl (by decide)
    (.inl (by decide)) (fun _ => deRows_region) (by decide) n.isLt (by decide)

/-- The eight words of a queue pair's context. -/
def Chip.qpWords (c : Chip) (n : Nat) : List Word := (List.range 8).map fun k => c.rd (A.DE_QP n + 8 * k)

/-- What a write of a queue pair's context does, RESTART apart; `c0` is the adapter before the write, `c` after it. -/
def Chip.qpWrite (c0 c : Chip) (now n : Nat) : Status × Chip :=
  let marks := decide (c.qpf n F.DE_QP_LOW < c.qpf n F.DE_QP_HIGH) && decide (c.qpf n F.DE_QP_HIGH ≤ 16)
  if getBits (c0.rd (A.DE_QP n)) 0 1 == 1 then
    if getBits (c.rd (A.DE_QP n)) 0 1 == 1 && !marks then (Code.BAD_ARGUMENT, c0)
    else if !qpKept (c0.qpWords n) (c.qpWords n) then (Code.QP_BUSY, c0)
    else if getBits (c.rd (A.DE_QP n)) 0 1 == 1 then (Code.OK, c)
    else (Code.OK, c.qpStop now n)
  else if getBits (c.rd (A.DE_QP n)) 0 1 == 1 then
    if c.qpCheck now n ≠ Code.OK then (c.qpCheck now n, c0)
    else if c0.qpState n ≠ 0 then (Code.QP_BUSY, c0)
    else (Code.OK, c.qpStart n)
  else (Code.OK, c)

section
variable {c d : Chip} {now : Nat} {n : QpNo} {w : Word}

theorem Chip.hook_qp :
    c.hook d now ⟨qpRow, A.DE_QP n, numbered 0 [w]⟩ =
      if (c.qpWrite d now n).1 = Code.OK ∧ getBits w 1 1 = 1 then
        (if ((c.qpWrite d now n).2.qpRestart now n).1 = Code.OK then (c.qpWrite d now n).2.qpRestart now n
          else (((c.qpWrite d now n).2.qpRestart now n).1, c))
      else c.qpWrite d now n := by
  have region : (⟨qpRow, A.DE_QP n, numbered 0 [w]⟩ : Elem).base / 0x10000000 = 4 := by
    show (0x41000000 + 64 * n.val) / 0x10000000 = 4
    omega
  have index : (⟨qpRow, A.DE_QP n, numbered 0 [w]⟩ : Elem).i = n := Elem.i_array (count := 65536) (stride := 64) rfl rfl (by decide)
  rw [Chip.hook_de region, Chip.deHook, index]
  exact if_pos rfl

theorem Chip.hook_qp_plain (plain : getBits w 1 1 = 0) :
    c.hook d now ⟨qpRow, A.DE_QP n, numbered 0 [w]⟩ = c.qpWrite d now n :=
  Chip.hook_qp.trans (if_neg (by simp [plain]))

section
variable (off : c.qpf n F.DE_QP_ENABLE = 0) (on : getBits (d.rd (A.DE_QP n)) 0 1 = 1)
include off on

theorem Chip.qpWrite_enables :
    c.qpWrite d now n = if d.qpCheck now n ≠ Code.OK then (d.qpCheck now n, c)
      else if c.qpState n ≠ 0 then (Code.QP_BUSY, c) else (Code.OK, d.qpStart n) := by
  have was : (getBits (c.rd (A.DE_QP n)) 0 1 == 1) = false := by
    refine beq_false_of_ne fun one => ?_
    exact Nat.zero_ne_one (off.symm.trans one)
  have is : (getBits (d.rd (A.DE_QP n)) 0 1 == 1) = true := beq_iff_eq.2 on
  rw [Chip.qpWrite, was, is]
  rfl

end

section
variable (was : c.qpf n F.DE_QP_ENABLE = 1)
include was

theorem Chip.qpWrite_disables (off : getBits (d.rd (A.DE_QP n)) 0 1 = 0) :
    c.qpWrite d now n = if qpKept (c.qpWords n) (d.qpWords n) = false then (Code.QP_BUSY, c) else (Code.OK, d.qpStop now n) := by
  have was : (getBits (c.rd (A.DE_QP n)) 0 1 == 1) = true := beq_iff_eq.2 was
  have is : (getBits (d.rd (A.DE_QP n)) 0 1 == 1) = false := by simp [off]
  rw [Chip.qpWrite, was, is]
  exact (if_pos rfl).trans <| (if_neg (show ¬false = true by decide)).trans <|
    if_congr (Bool.not_eq_true' _).to_iff rfl rfl

theorem Chip.qpWrite_keeps (on : getBits (d.rd (A.DE_QP n)) 0 1 = 1) (marks : d.qpf n F.DE_QP_LOW < d.qpf n F.DE_QP_HIGH)
    (top : d.qpf n F.DE_QP_HIGH ≤ 16) (kept : qpKept (c.qpWords n) (d.qpWords n) = true) : c.qpWrite d now n = (Code.OK, d) := by
  have was : (getBits (c.rd (A.DE_QP n)) 0 1 == 1) = true := beq_iff_eq.2 was
  have is : (getBits (d.rd (A.DE_QP n)) 0 1 == 1) = true := beq_iff_eq.2 on
  rw [Chip.qpWrite, was, is, kept, decide_eq_true marks, decide_eq_true top]
  rfl

end

/-- A RESTART that the write leaves to the queue pair. -/
theorem Chip.hook_qp_restart (restart : getBits w 1 1 = 1) (kept : c.qpWrite d now n = (Code.OK, d)) :
    c.hook d now ⟨qpRow, A.DE_QP n, numbered 0 [w]⟩ =
      if d.qpState n = 2 then (Code.OK, ((d.setQpf n F.DE_QP_STATE 1).recache n).qpFire now n) else (Code.NOT_HALTED, c) := by
  rw [Chip.hook_qp, kept]
  refine (if_pos ⟨rfl, restart⟩).trans ?_
  unfold Chip.qpRestart
  split
  · exact if_pos rfl
  · exact if_neg (show ¬Code.NOT_HALTED = Code.OK by decide)

end

/-- What the first word written holds in ENABLE. -/
theorem Chip.enable_filled (c : Chip) (now : Nat) (n : QpNo) (w : Word) :
    getBits ((c.filled now (A.DE_QP n) [w]).rd (A.DE_QP n)) 0 1 = getBits w 0 1 :=
  (qpRow_stands n).field_filled c now (f := ⟨0, 0, 1, .rw, 0, true⟩) (Nat.le_of_ble_eq_true rfl) (by decide +kernel) (by decide) rfl rfl

/-- Word 0 of a write of ENABLE names no RESTART. -/
theorem getBits_enableWord (v : Word) {b : Nat} (hb : b ≤ 1) :
    getBits (setBits (setBits v 1 1 0) 0 1 b) 1 1 = 0 ∧ getBits (setBits (setBits v 1 1 0) 0 1 b) 0 1 = b := by
  constructor
  · rw [getBits_setBits_apart _ (by decide), getBits_setBits _ (by decide)]
    rfl
  · rw [getBits_setBits _ (by decide)]
    omega

theorem Chip.qpStop_run {c : Chip} {now n : Nat} (run : c.qpState n = 1) :
    c.qpStop now n = (((c.setQpf n F.DE_QP_STATE 3).dropQueue now n (A.TM_DROP n)).recache n).qpDrained n := by
  simp only [Chip.qpStop, run]
  rfl

theorem Chip.qpStop_halted {c : Chip} {now n : Nat} (halted : c.qpState n = 2) :
    c.qpStop now n = ((c.setQpf n F.DE_QP_STATE 3).recache n).qpDrained n := by
  simp only [Chip.qpStop, halted]
  rfl

theorem Chip.qpStop_draining {c : Chip} {now n : Nat} (draining : c.qpState n = 3) : c.qpStop now n = c :=
  if_pos (.inr draining)

/-- A queue pair that drains comes to DISABLED once it has no job. -/
theorem Chip.qpState_qpDrained {d : Chip} {n : Nat} (draining : d.qpState n = 3) (idle : d.qpBusy n = false) :
    (d.qpDrained n).qpState n = 0 := by
  have slice := d.get_lt (A.DE_QP n) F.DE_QP_SLICE
  have used : (A.DE_QP n + 8 * F.DE_QP_STATE.word) ≠ A.SM_SLICE (d.qpSlice n) + 8 * F.SM_SLICE_QP_USED.word := by
    show 0x41000000 + 64 * n + 8 * 0 ≠ 0x30100000 + 32 * (d.get (A.DE_QP n) F.DE_QP_SLICE) + 8 * 3
    have : (2 : Nat) ^ F.DE_QP_SLICE.width = 8192 := rfl
    omega
  rw [Chip.qpDrained, if_pos ⟨draining, idle⟩]
  refine (Chip.get_set_apart (d.setQpf n F.DE_QP_STATE 0) _ fun same => absurd same used).trans ?_
  exact Chip.get_set_self d _ 0 (by decide)

/-- Without a job of its own a queue pair fetches its rings again from their heads. -/
theorem Chip.recache_idle {d : Chip} {n : Nat} (idle : ∀ j ∈ d.de.jobs, j.qp ≠ n) :
    (d.recache n).qp n = { d.qp n with
      tx := [], rx := [], txFly := 0, rxFly := 0, txFill := false, rxFill := false, gen := (d.qp n).gen + 1, starved := none, retry := false,
      txNext := d.qpf n F.DE_QP_TX_HEAD % max 1 (ringSize (d.qpf n F.DE_QP_TX_LOG2)),
      rxNext := d.qpf n F.DE_QP_RX_HEAD % max 1 (ringSize (d.qpf n F.DE_QP_RX_LOG2)) } := by
  have none : (d.de.jobs.filter fun j => j.qp == n && !j.done) = [] :=
    List.filter_eq_nil_iff.2 fun j hj => by simp [idle j hj]
  unfold Chip.recache
  rw [none]
  exact mget_mset_self ..

theorem State.queuePairWrites (s : State) (n : QpNo) (v : Word) (hw : s.writable (A.DE_QP n) = true) :
    let c := s.found
    let now := s.time
    (let d := c.filled now (A.DE_QP n) [setBits (setBits v 1 1 0) 0 1 1]
     c.qpf n F.DE_QP_ENABLE = 0 → exec (.qpEnable n v) s =
       if d.qpCheck now n ≠ Code.OK then s.wrote (d.qpCheck now n) c
       else if c.qpState n ≠ 0 then s.wrote Code.QP_BUSY c else s.wrote Code.OK (d.qpStart n)) ∧
    (let d := c.filled now (A.DE_QP n) [setBits (setBits v 1 1 0) 0 1 0]
     c.qpf n F.DE_QP_ENABLE = 1 → exec (.qpDisable n v) s =
       if qpKept (c.qpWords n) (d.qpWords n) = false then s.wrote Code.QP_BUSY c else s.wrote Code.OK (d.qpStop now n)) ∧
    (let d := c.filled now (A.DE_QP n) [setBits v 1 1 1]
     c.qpf n F.DE_QP_ENABLE = 1 → getBits v 0 1 = 1 → d.qpf n F.DE_QP_LOW < d.qpf n F.DE_QP_HIGH → d.qpf n F.DE_QP_HIGH ≤ 16 →
     qpKept (c.qpWords n) (d.qpWords n) = true → exec (.restart n v) s =
       if d.qpState n = 2 then s.wrote Code.OK (((d.setQpf n F.DE_QP_STATE 1).recache n).qpFire now n)
       else s.wrote Code.NOT_HALTED c) := by
  refine ⟨fun off => ?_, fun was => ?_, fun was on marks top kept => ?_⟩
  · obtain ⟨plain, on⟩ := getBits_enableWord v (b := 1) (Nat.le_refl 1)
    have rule := (Chip.hook_qp_plain plain).trans
      (Chip.qpWrite_enables (now := s.time) off ((s.found.enable_filled s.time n _).trans on))
    have run {st : Status} {d : Chip} := State.exec_stands (st := st) (d := d) (qpRow_stands n) (i := .qpEnable n v) (j := 0) rfl hw
      (List.cons_ne_nil _ _) (Nat.le_of_ble_eq_true rfl)
    split
    next bad => exact run (rule.trans (if_pos bad))
    next ok =>
      split
      next busy => exact run (rule.trans ((if_neg ok).trans (if_pos busy)))
      next free => exact run (rule.trans ((if_neg ok).trans (if_neg free)))
  · obtain ⟨plain, off⟩ := getBits_enableWord v (b := 0) (Nat.zero_le 1)
    have rule := (Chip.hook_qp_plain plain).trans
      (Chip.qpWrite_disables (now := s.time) was ((s.found.enable_filled s.time n _).trans off))
    have run {st : Status} {d : Chip} := State.exec_stands (st := st) (d := d) (qpRow_stands n) (i := .qpDisable n v) (j := 0) rfl hw
      (List.cons_ne_nil _ _) (Nat.le_of_ble_eq_true rfl)
    split
    next other => exact run (rule.trans (if_pos other))
    next same => exact run (rule.trans (if_neg same))
  · have bit : getBits (setBits v 1 1 1) 0 1 = 1 := (getBits_setBits_apart _ (by decide)).trans on
    have rule := Chip.hook_qp_restart (getBits_setBits_one v (by decide))
      (Chip.qpWrite_keeps (now := s.time) was ((s.found.enable_filled s.time n _).trans bit) marks top kept)
    have run {st : Status} {d : Chip} := State.exec_stands (st := st) (d := d) (qpRow_stands n) (i := .restart n v) (j := 0) rfl hw
      (List.cons_ne_nil _ _) (Nat.le_of_ble_eq_true rfl)
    split
    next halted => exact run (rule.trans (if_pos halted))
    next other => exact run (rule.trans (if_neg other))

/-! ### Quotas (R351) -/

/-- The row of SM_SLICE in the register table. -/
def sliceRow : RegRow := nth ⟨0, [], 0, []⟩ smRows 0

theorem smRows_region {b : Nat} (low : sliceRow.base ≤ b) (high : b < sliceRow.base + 8192 * 0x20) :
    b / 0x10000000 ≠ 6 ∧ b / 0x10000000 ≠ 8 ∧ regionRows b = smRows := by
  have base : sliceRow.base = 0x30100000 := rfl
  have region : b / 0x10000000 = 3 := by omega
  rw [regionRows, region]
  exact ⟨by decide, by decide, rfl⟩

theorem sliceRow_stands (n : SliceNo) : sliceRow.Stands (A.SM_SLICE n) :=
  RegRow.stands_array (r := sliceRow) (rs := smRows) (k := 0) (count := 8192) (stride := 0x20) rfl (by decide +kernel) rfl (by decide)
    (.inl (by decide)) (fun _ => smRows_region) (by decide) n.isLt (by decide)

/-- The quotas of slice `n` at device time `now` lie in their ranges. -/
def Chip.quotasOk (d : Chip) (now n : Nat) : Prop :=
  d.getAt now (A.SM_SLICE n) F.SM_SLICE_QP_MAX ≤ 65536 ∧ d.getAt now (A.SM_SLICE n) F.SM_SLICE_BOBBIN_MAX ≤ 40960 ∧
    d.getAt now (A.SM_SLICE n) F.SM_SLICE_ST_MAX ≤ 32768 ∧ d.getAt now (A.SM_SLICE n) F.SM_SLICE_TX_MBPS ≤ 800000

theorem Chip.hook_quota {c d : Chip} {now : Nat} {n : SliceNo} {w1 w2 : Word} [Decidable (d.quotasOk now n)] :
    c.hook d now ⟨sliceRow, A.SM_SLICE n, numbered 1 [w1, w2]⟩ =
      if d.quotasOk now n then (if c.flag (A.SM_SLICE n) F.SM_SLICE_BOUND = true then (Code.SLICE_BUSY, c) else (Code.OK, d))
      else (Code.BAD_ARGUMENT, c) := by
  have region : (⟨sliceRow, A.SM_SLICE n, numbered 1 [w1, w2]⟩ : Elem).base / 0x10000000 = 3 := by
    show (0x30100000 + 32 * n.val) / 0x10000000 = 3
    omega
  rw [Chip.hook_sm region, Chip.smHook]
  refine (if_pos rfl).trans <| (if_neg (show ¬false = true by decide)).trans <| Eq.symm ?_
  refine (ite_not ..).symm.trans (if_congr ?_ rfl rfl)
  simp only [Chip.quotasOk, not_and_or, Nat.not_le]

/-! ### Endpoints (R321, R334, R344) -/

/-- The rows of HE_CTRL, HE_TOPOLOGY, HE_PEER_CTRL and HE_PEER_WIN in the register table. -/
def heCtrlRow : RegRow := nth ⟨0, [], 0, []⟩ heRows 0
def topologyRow : RegRow := nth ⟨0, [], 0, []⟩ heRows 7
def peerCtrlRow : RegRow := nth ⟨0, [], 0, []⟩ heRows 8
def peerWinRow : RegRow := nth ⟨0, [], 0, []⟩ heRows 9

theorem heCtrlRow_stands (e : EpNo) : heCtrlRow.Stands (A.HE_CTRL e) :=
  ⟨by revert e; decide, by revert e; decide, by revert e; decide, by revert e; decide, by revert e; decide +kernel⟩

theorem topologyRow_stands : topologyRow.Stands A.HE_TOPOLOGY := ⟨by decide, by decide, by decide, by decide, by decide +kernel⟩

theorem peerCtrlRow_stands (e : EpNo) : peerCtrlRow.Stands (A.HE_PEER_CTRL e) :=
  ⟨by revert e; decide, by revert e; decide, by revert e; decide, by revert e; decide, by revert e; decide +kernel⟩

theorem peerWin_addr (e b i : Nat) : A.HE_PEER_WIN e b i = peerWinRow.base + (0x8000000 * e + (0x800 * b + 0x20 * i)) := by
  rw [← Nat.add_assoc, ← Nat.add_assoc]
  rfl

theorem peerWinRow_stands (e : EpNo) (b : Fin 2) (i : Fin 64) : peerWinRow.Stands (A.HE_PEER_WIN e b i) := by
  have addr : A.HE_PEER_WIN e b i = 0x20001000 + 0x8000000 * e + 2048 * b + 32 * i := rfl
  have words : peerWinRow.words = 4 := rfl
  refine ⟨by omega, ⟨by omega, by omega, by omega⟩, by omega, .inr (by rw [A.FT_SAT]; omega), fun j hj => ?_⟩
  have region : (A.HE_PEER_WIN e b i + 8 * j) / 0x10000000 = 2 := by omega
  rw [regionRows, region]
  revert e b i j
  decide +kernel

theorem Elem.peerWin (e : EpNo) (b : Fin 2) (i : Fin 64) (us : List (Nat × Word)) :
    (⟨peerWinRow, A.HE_PEER_WIN e b i, us⟩ : Elem).i = e ∧ (⟨peerWinRow, A.HE_PEER_WIN e b i, us⟩ : Elem).j = b := by
  obtain ⟨first, second⟩ := Elem.ij_array (e := ⟨peerWinRow, A.HE_PEER_WIN e b i, us⟩) (count := 2) (stride := 0x8000000) (count' := 2)
    (stride' := 0x800) (ds := [(64, 0x20)]) rfl (peerWin_addr e b i) (by omega)
  exact ⟨first, second.trans (by omega)⟩

/-- What HE_x_CTRL holds lies in its ranges. -/
def Chip.heCtrlOk (d : Chip) (a : Nat) : Prop :=
  d.get a F.HE_CTRL_MAX_RATE ≠ 7 ∧ d.get a F.HE_CTRL_MAX_WIDTH ≤ 4 ∧ 28 ≤ d.get a F.HE_CTRL_PEER_BAR_LOG2 ∧
    d.get a F.HE_CTRL_PEER_BAR_LOG2 ≤ 36

/-- What a peer window holds can be used. -/
def Chip.peerWinOk (d : Chip) (a : Nat) : Prop :=
  12 ≤ d.get a F.HE_PEER_WIN_SIZE_LOG2 ∧ d.get a F.HE_PEER_WIN_SIZE_LOG2 ≤ 36 ∧
    ¬(d.get a F.HE_PEER_WIN_VALID = 1 ∧ d.get a F.HE_PEER_WIN_KIND = 0) ∧
    d.get a F.HE_PEER_WIN_BAR_OFF % 2 ^ d.get a F.HE_PEER_WIN_SIZE_LOG2 = 0

section
variable {c d : Chip} {now : Nat} {e : EpNo} {us : List (Nat × Word)}

theorem Chip.hook_heCtrl [Decidable (d.heCtrlOk (A.HE_CTRL e))] :
    c.hook d now ⟨heCtrlRow, A.HE_CTRL e, us⟩ =
      if d.heCtrlOk (A.HE_CTRL e) then (Code.OK, d.epCtrl now e) else (Code.BAD_ARGUMENT, c) := by
  have region : (⟨heCtrlRow, A.HE_CTRL e, us⟩ : Elem).base / 0x10000000 = 2 := by
    show (0x20000000 + 0x8000000 * e.val) / 0x10000000 = 2
    omega
  have index : (⟨heCtrlRow, A.HE_CTRL e, us⟩ : Elem).i = e := Elem.i_array (count := 2) (stride := 0x8000000) rfl rfl (by decide)
  rw [Chip.hook_he region, Chip.heHook, index]
  refine (if_pos rfl).trans <| Eq.symm <| (ite_not ..).symm.trans (if_congr ?_ rfl rfl)
  simp only [Chip.heCtrlOk, within, Bool.and_eq_false_iff, decide_eq_false_iff_not, not_and_or, Nat.not_le, not_not]

theorem Chip.hook_topology {v : Word} :
    c.hook d now ⟨topologyRow, A.HE_TOPOLOGY, numbered 0 [v]⟩ =
      if c.topologyCheck (getBits v 0 1 == 1) = Code.OK then (Code.OK, d) else (c.topologyCheck (getBits v 0 1 == 1), c) := by
  rw [Chip.hook_he (show A.HE_TOPOLOGY / 0x10000000 = 2 by decide), Chip.heHook]
  refine (if_neg (show ¬topologyRow.base = A.HE_CTRL 0 by decide)).trans <|
    (if_neg (show ¬topologyRow.base = A.HE_CTO_CFG 0 by decide)).trans <| (if_pos rfl).trans ?_
  show (if c.topologyCheck (getBits v 0 1 == 1) = Code.OK then (c.topologyCheck (getBits v 0 1 == 1), d) else _) = _
  split
  next ok => rw [ok]
  next => rfl

theorem Chip.hook_peerSwitch : c.hook d now ⟨peerCtrlRow, A.HE_PEER_CTRL e, numbered 0 [2]⟩ = (Code.OK, d.peerSwitch e) := by
  have region : (⟨peerCtrlRow, A.HE_PEER_CTRL e, numbered 0 [2]⟩ : Elem).base / 0x10000000 = 2 := by
    show (0x20000100 + 0x8000000 * e.val) / 0x10000000 = 2
    omega
  have index : (⟨peerCtrlRow, A.HE_PEER_CTRL e, numbered 0 [2]⟩ : Elem).i = e :=
    Elem.i_array (count := 2) (stride := 0x8000000) rfl rfl (by decide)
  rw [Chip.hook_he region, Chip.heHook, index]
  exact (if_neg (show ¬peerCtrlRow.base = A.HE_CTRL 0 by decide)).trans <|
    (if_neg (show ¬peerCtrlRow.base = A.HE_CTO_CFG 0 by decide)).trans <|
    (if_neg (show ¬peerCtrlRow.base = A.HE_TOPOLOGY by decide)).trans <|
    (if_pos rfl).trans (congrArg (Prod.mk Code.OK) (if_pos (show getBits (2 : Word) 1 1 = 1 by decide)))

theorem Chip.hook_peerWin {b : Fin 2} {i : Fin 64} [Decidable (d.peerWinOk (A.HE_PEER_WIN e b i))] :
    c.hook d now ⟨peerWinRow, A.HE_PEER_WIN e b i, us⟩ =
      if d.peerWinOk (A.HE_PEER_WIN e b i) then
        (if c.get (A.HE_PEER_CTRL e) F.HE_PEER_CTRL_ACTIVE = b then (Code.PEER_BANK_ACTIVE, c) else (Code.OK, d))
      else (Code.BAD_ARGUMENT, c) := by
  have region : (⟨peerWinRow, A.HE_PEER_WIN e b i, us⟩ : Elem).base / 0x10000000 = 2 := by
    show (0x20001000 + 0x8000000 * e.val + 2048 * b.val + 32 * i.val) / 0x10000000 = 2
    omega
  obtain ⟨endpoint, bank⟩ := Elem.peerWin e b i us
  rw [Chip.hook_he region, Chip.heHook, endpoint, bank]
  refine (if_neg (show ¬peerWinRow.base = A.HE_CTRL 0 by decide)).trans <|
    (if_neg (show ¬peerWinRow.base = A.HE_CTO_CFG 0 by decide)).trans <|
    (if_neg (show ¬peerWinRow.base = A.HE_TOPOLOGY by decide)).trans <|
    (if_neg (show ¬peerWinRow.base = A.HE_PEER_CTRL 0 by decide)).trans <| (if_pos rfl).trans <| Eq.symm <| (ite_not ..).symm.trans (if_congr ?_ rfl rfl)
  simp only [Chip.peerWinOk, within, Bool.or_eq_true, Bool.not_eq_true', Bool.and_eq_false_iff, decide_eq_false_iff_not, Bool.and_eq_true,
    beq_iff_eq, bne_iff_ne, ne_eq, not_and_or, not_not, or_assoc, not_or]

end

theorem Chip.topologyCheck_eq (c : Chip) (v : Word) [Decidable (c.mode = Mode.provision ∧ (∀ n ∈ c.de.qps.map (·.1), c.qpState n = 0) ∧
      (getBits v 0 1 = 1 → c.flag (A.HE_CTRL 0) F.HE_CTRL_ENABLE = true ∧ c.flag (A.HE_CTRL 1) F.HE_CTRL_ENABLE = true))] :
    c.topologyCheck (getBits v 0 1 == 1) =
      if c.mode = Mode.provision ∧ (∀ n ∈ c.de.qps.map (·.1), c.qpState n = 0) ∧
        (getBits v 0 1 = 1 → c.flag (A.HE_CTRL 0) F.HE_CTRL_ENABLE = true ∧ c.flag (A.HE_CTRL 1) F.HE_CTRL_ENABLE = true)
      then Code.OK else Code.TOPOLOGY_BUSY := by
  have here : (decide (c.mode ≠ Mode.provision) || (c.de.qps.map (·.1)).any fun n => c.qpState n != 0) = true ↔
      ¬(c.mode = Mode.provision ∧ ∀ n ∈ c.de.qps.map (·.1), c.qpState n = 0) := by
    rw [Bool.or_eq_true, decide_eq_true_eq, List.any_eq_true, not_and_or]
    refine or_congr_right ⟨fun ⟨n, hn, busy⟩ idle => ?_, fun busy => ?_⟩
    · exact bne_iff_ne.1 busy (idle n hn)
    · by_contra none
      exact busy fun n hn => by
        by_contra other
        exact none ⟨n, hn, bne_iff_ne.2 other⟩
  have twin : ((getBits v 0 1 == 1) && !(c.flag (A.HE_CTRL 0) F.HE_CTRL_ENABLE && c.flag (A.HE_CTRL 1) F.HE_CTRL_ENABLE)) = true ↔
      ¬(getBits v 0 1 = 1 → c.flag (A.HE_CTRL 0) F.HE_CTRL_ENABLE = true ∧ c.flag (A.HE_CTRL 1) F.HE_CTRL_ENABLE = true) := by
    rw [Bool.and_eq_true, beq_iff_eq, Bool.not_eq_true', ← Bool.not_eq_true, Bool.and_eq_true, Classical.not_imp]
  unfold Chip.topologyCheck
  by_cases idle : c.mode = Mode.provision ∧ ∀ n ∈ c.de.qps.map (·.1), c.qpState n = 0
  · refine (if_neg (mt here.1 (not_not_intro idle))).trans ?_
    by_cases both : getBits v 0 1 = 1 → c.flag (A.HE_CTRL 0) F.HE_CTRL_ENABLE = true ∧ c.flag (A.HE_CTRL 1) F.HE_CTRL_ENABLE = true
    · rw [if_neg (mt twin.1 (not_not_intro both)), if_pos ⟨idle.1, idle.2, both⟩]
    · rw [if_pos (twin.2 both), if_neg fun h => both h.2.2]
  · rw [if_pos (here.2 idle), if_neg fun h => idle ⟨h.1, h.2.1⟩]

theorem Chip.qpUsed_up (c : Chip) (s : Nat) :
    c.qpUsed s true = c.set (A.SM_SLICE s) F.SM_SLICE_QP_USED (c.get (A.SM_SLICE s) F.SM_SLICE_QP_USED + 1) := rfl

theorem Chip.qpSlice_setQp (c : Chip) (n m : Nat) (x : QpSt) : (c.setQp m x).qpSlice n = c.qpSlice n := rfl

/-- A queue pair as its enable leaves it (R355). -/
theorem Chip.qpStart_eq (d : Chip) (n : Nat) :
    let w := ((((d.setQpf n F.DE_QP_STATE 1).wr (A.DE_QP n + 32) 0).setQpf n F.DE_QP_CQ_TAIL 0).setQpf n F.DE_QP_CQ_HEAD 0).setQpf n F.DE_QP_ARMED 0
    let u := w.setQp n { QpSt.init with gen := (w.qp n).gen + 1 }
    d.qpStart n = u.set (A.SM_SLICE (u.qpSlice n)) F.SM_SLICE_QP_USED (u.get (A.SM_SLICE (u.qpSlice n)) F.SM_SLICE_QP_USED + 1) := by
  intro w u
  rw [← Chip.qpUsed_up, Chip.qpSlice_setQp]
  rfl

/-- Settles O47: each write ends as the rule of its register says. -/
theorem hostWrites : Obligations.HostWrites := by
  classical
  refine ⟨fun s n v => ⟨fun hw => ?_, fun d draining => ?_, fun d idle => ?_, fun sl w1 w2 hw => ?_⟩,
    fun s e v => ⟨fun hw => ?_, fun hw => ?_, fun hw => ?_, fun b win ws hw hne hl => ?_⟩⟩
  · obtain ⟨enable, disable, restart⟩ := s.queuePairWrites n v hw
    refine ⟨fun off => ⟨fun ok idle => ?_, fun ok busy => ?_, fun bad => ?_⟩, fun was => ⟨fun other => ?_, fun kept => ⟨?_, ?_, ?_⟩⟩,
      fun was on marks top kept => ⟨fun halted => ?_, fun other => ?_⟩⟩
    · exact (enable off).trans <| (if_neg (not_not_intro ok)).trans <| (if_neg (not_not_intro idle)).trans
        (congrArg (s.wrote Code.OK) (Chip.qpStart_eq _ _))
    · exact (enable off).trans <| (if_neg (not_not_intro ok)).trans (if_pos busy)
    · exact (enable off).trans (if_pos bad)
    · exact (disable was).trans (if_pos other)
    · exact fun run => (disable was).trans <| (if_neg (Bool.not_eq_false _ |>.mpr kept)).trans
        (congrArg (s.wrote Code.OK) (Chip.qpStop_run run))
    · exact fun halted => (disable was).trans <| (if_neg (Bool.not_eq_false _ |>.mpr kept)).trans
        (congrArg (s.wrote Code.OK) (Chip.qpStop_halted halted))
    · exact fun draining => (disable was).trans <| (if_neg (Bool.not_eq_false _ |>.mpr kept)).trans
        (congrArg (s.wrote Code.OK) (Chip.qpStop_draining draining))
    · exact (restart was on marks top kept).trans (if_pos halted)
    · exact (restart was on marks top kept).trans (if_neg other)
  · exact ⟨fun busy => if_neg (by simp [busy]), fun idle => Chip.qpState_qpDrained draining idle⟩
  · rw [Chip.recache_idle idle]
    exact ⟨rfl, rfl, rfl, rfl, rfl⟩
  · have run {st : Status} {d : Chip} := State.exec_stands (st := st) (d := d) (sliceRow_stands sl) (i := .quotaWrite sl w1 w2) (j := 1) rfl hw
      (List.cons_ne_nil _ _) (Nat.le_of_ble_eq_true rfl)
    exact ⟨fun bad => run (Chip.hook_quota.trans (if_neg bad)),
      fun ok bound => run (Chip.hook_quota.trans ((if_pos ok).trans (if_pos bound))),
      fun ok free => run (Chip.hook_quota.trans ((if_pos ok).trans (if_neg (Bool.eq_false_iff.1 free))))⟩
  · have run {st : Status} {d : Chip} := State.exec_stands (st := st) (d := d) (heCtrlRow_stands e) (i := .epCtrlWrite e v) (j := 0) rfl hw
      (List.cons_ne_nil _ _) (Nat.le_refl 1)
    exact ⟨fun bad => run (Chip.hook_heCtrl.trans (if_neg bad)),
      fun ok on => run (Chip.hook_heCtrl.trans ((if_pos ok).trans (congrArg (Prod.mk Code.OK) (if_pos on)))),
      fun ok off => run (Chip.hook_heCtrl.trans
        ((if_pos ok).trans (congrArg (Prod.mk Code.OK) (if_neg (Bool.eq_false_iff.1 off)))))⟩
  · have run {st : Status} {d : Chip} := State.exec_stands (st := st) (d := d) topologyRow_stands (i := .topologyWrite v) (j := 0) rfl hw
      (List.cons_ne_nil _ _) (Nat.le_refl 1)
    refine ⟨fun free => run (Chip.hook_topology.trans ?_), fun busy => run (Chip.hook_topology.trans ?_)⟩
    · rw [Chip.topologyCheck_eq, if_pos free]
      exact if_pos rfl
    · rw [Chip.topologyCheck_eq, if_neg busy]
      exact if_neg (by decide)
  · exact State.exec_stands (peerCtrlRow_stands e) (j := 0) rfl hw (List.cons_ne_nil _ _) (Nat.le_refl 1) Chip.hook_peerSwitch
  · have run {st : Status} {d : Chip} := State.exec_stands (st := st) (d := d) (peerWinRow_stands e b win)
      (i := .peerWindowWrite e b win ws) (j := 0) rfl hw hne (show 0 + ws.length ≤ 4 by omega)
    exact ⟨fun bad => run (Chip.hook_peerWin.trans (if_neg bad)),
      fun ok active => run (Chip.hook_peerWin.trans ((if_pos ok).trans (if_pos active))),
      fun ok other => run (Chip.hook_peerWin.trans ((if_pos ok).trans (if_neg other)))⟩

end Sys2Proof.Machine

/-! PROOFS. The host's requests to the spaces of an endpoint (R324-R331, R337, R339, R343, R344). -/

namespace Sys2Proof.Machine

/-! ### What an AER log changes (R322, R338) -/

/-- An AER log changes the endpoint's configuration space, and takes free values. -/
theorem Chip.aerLog_eq (c : Chip) (e f bit : Nat) (adv : Bool) :
    ∃ host free, c.aerLog e f bit adv = { c with host := host, free := free } := by
  unfold Chip.aerLog
  dsimp only
  split
  · exact ⟨_, c.free, rfl⟩
  · split
    · exact ⟨_, c.free, rfl⟩
    · exact ⟨_, _, rfl⟩

theorem Chip.rd_aerLog (c : Chip) (e f bit : Nat) (adv : Bool) (a : Nat) : (c.aerLog e f bit adv).rd a = c.rd a := by
  obtain ⟨host, free, h⟩ := c.aerLog_eq e f bit adv
  rw [h]
  rfl

/-- The adapter once a poisoned write to BAR4 has been logged and counted (R337). -/
def Chip.poisonLogged (c : Chip) (e : Nat) : Chip := (c.aerLog e 1 Aer.poisoned true).inc (A.HE_POISON_RX e)

theorem Chip.rd_poisonLogged (c : Chip) (e : Nat) {a : Nat} (other : a ≠ A.HE_POISON_RX e) : (c.poisonLogged e).rd a = c.rd a :=
  (Chip.rd_inc_ne _ other).trans (c.rd_aerLog ..)

theorem Chip.open1_poisonLogged (c : Chip) (e : EpNo) : (c.poisonLogged e).open1 23 = c.open1 23 := by
  have bound : (c.poisonLogged e).bound 23 = c.bound 23 := by
    obtain ⟨host, free, h⟩ := c.aerLog_eq e 1 Aer.poisoned true
    rw [Chip.poisonLogged, h]
    rfl
  have domain : (c.poisonLogged e).domOn (targetDomain 23) = c.domOn (targetDomain 23) := by
    refine congrArg (getBits · _ _ == 2) (c.rd_poisonLogged e ?_)
    show 0x6200 + 8 * 1 + 8 * 0 ≠ 0x20000820 + 0x8000000 * e.val
    omega
  rw [Chip.open1, Chip.open1, bound, domain]

theorem Chip.win_poisonLogged (c : Chip) (e i : Nat) (f : Fld) : (c.poisonLogged e).win e i f = c.win e i f := by
  have bank : (c.poisonLogged e).get (A.HE_PEER_CTRL e) F.HE_PEER_CTRL_ACTIVE = c.get (A.HE_PEER_CTRL e) F.HE_PEER_CTRL_ACTIVE := by
    refine congrArg (getBits · _ _) (c.rd_poisonLogged e ?_)
    show 0x20000100 + 0x8000000 * e + 8 * 0 ≠ 0x20000820 + 0x8000000 * e
    omega
  rw [Chip.win, Chip.win, bank]
  refine congrArg (getBits · _ _) (c.rd_poisonLogged e ?_)
  rw [A.HE_PEER_WIN, A.HE_POISON_RX]
  omega

theorem Chip.peerWin_poisonLogged (c : Chip) (e off n : Nat) : (c.poisonLogged e).peerWin e off n = c.peerWin e off n := by
  have fields : (c.poisonLogged e).win e = c.win e := funext fun i => funext fun f => c.win_poisonLogged e i f
  unfold Chip.peerWin
  rw [fields]

/-! ### Requests to BAR4 (R343) -/

/-- What a request to BAR4 does that lies in window `i`. -/
def Chip.throughWin (c : Chip) (now e : Nat) (write : Bool) (off n : Nat) (data : List Byte) (poison : Bool) (i : Nat) : Chip :=
  let o := off - c.win e i F.HE_PEER_WIN_BAR_OFF
  let t := c.win e i F.HE_PEER_WIN_TARGET + o
  let kind := c.win e i F.HE_PEER_WIN_KIND
  let inside := decide (t + n ≤ 96 * 2 ^ 20) && c.open1 23
  if kind = 1 then
    if !inside || !(if write then c.win e i F.HE_PEER_WIN_WRITE_EN == 1 else c.win e i F.HE_PEER_WIN_READ_EN == 1) then c.peerMiss e write
    else if write then c.peerStore now t data poison
    else c.peerAnswer now e t off n
  else if kind = 2 then
    if !write || n ≠ 8 || o % 8 ≠ 0 then c.peerMiss e write
    else if poison then c
    else
      let k := c.win e i F.HE_PEER_WIN_TARGET + o / 8
      if 32768 ≤ k ∨ c.up 41 = false then c.peerMiss e true
      else c.stTail now e (c.sc k F.ST_CONN_OWNER) k (getBits (leWord data) 0 16)
  else if kind = 3 then
    if !write || !inside then c.peerMiss e write
    else if poison then c
    else if (List.range n).all fun k => c.heldBy (t + k) (c.win e i F.HE_PEER_WIN_SLICE) then c.peerStore now t data false
    else c.inc (A.HE_PEER_MISS e)
  else c.peerMiss e write

section
variable {c : Chip} {now e i off n : Nat} {data : List Byte} {poison write : Bool}

theorem Chip.bar4Request_missed (none_ : c.peerWin e off n = none) : c.bar4Request now e write off n data poison = c.peerMiss e write := by
  unfold Chip.bar4Request
  rw [none_]

theorem Chip.bar4Request_through (hit : c.peerWin e off n = some i) :
    c.bar4Request now e write off n data poison = c.throughWin now e write off n data poison i := by
  unfold Chip.bar4Request
  rw [hit]
  rfl

section
variable (kind : c.win e i F.HE_PEER_WIN_KIND = 1)
include kind

theorem Chip.throughWin_reads (en : c.win e i F.HE_PEER_WIN_READ_EN = 1)
    (within : c.win e i F.HE_PEER_WIN_TARGET + (off - c.win e i F.HE_PEER_WIN_BAR_OFF) + n ≤ 96 * 2 ^ 20) (up : c.open1 23 = true) :
    c.throughWin now e false off n data poison i =
      c.peerAnswer now e (c.win e i F.HE_PEER_WIN_TARGET + (off - c.win e i F.HE_PEER_WIN_BAR_OFF)) off n :=
  (if_pos kind).trans <| (if_neg (by simp only [decide_eq_true within, up, en]; simp)).trans (if_neg Bool.false_ne_true)

theorem Chip.throughWin_stores (en : c.win e i F.HE_PEER_WIN_WRITE_EN = 1)
    (within : c.win e i F.HE_PEER_WIN_TARGET + (off - c.win e i F.HE_PEER_WIN_BAR_OFF) + n ≤ 96 * 2 ^ 20) (up : c.open1 23 = true) :
    c.throughWin now e true off n data poison i =
      c.peerStore now (c.win e i F.HE_PEER_WIN_TARGET + (off - c.win e i F.HE_PEER_WIN_BAR_OFF)) data poison :=
  (if_pos kind).trans <| (if_neg (by simp only [decide_eq_true within, up, en]; simp)).trans (if_pos rfl)

/-- The window does not allow the direction. -/
theorem Chip.throughWin_shut
    (shut : (if write then c.win e i F.HE_PEER_WIN_WRITE_EN else c.win e i F.HE_PEER_WIN_READ_EN) = 0) :
    c.throughWin now e write off n data poison i = c.peerMiss e write := by
  refine (if_pos kind).trans (if_pos ?_)
  have off : (if write then c.win e i F.HE_PEER_WIN_WRITE_EN == 1 else c.win e i F.HE_PEER_WIN_READ_EN == 1) = false := by
    cases write
    · exact beq_false_of_ne fun one => Nat.zero_ne_one (shut.symm.trans one)
    · exact beq_false_of_ne fun one => Nat.zero_ne_one (shut.symm.trans one)
  rw [off]
  simp

end

/-- A doorbell of a connection through a window of kind 2 (R343, R357). -/
theorem Chip.throughWin_rings (kind : c.win e i F.HE_PEER_WIN_KIND = 2) (whole : n = 8)
    (aligned : (off - c.win e i F.HE_PEER_WIN_BAR_OFF) % 8 = 0) :
    let k := c.win e i F.HE_PEER_WIN_TARGET + (off - c.win e i F.HE_PEER_WIN_BAR_OFF) / 8
    let v := getBits (leWord data) 0 16
    k < 32768 → c.up 41 = true → (c.twin = true ∨ c.stEp k = e) → c.sc k F.ST_CONN_VALID = 1 → v < c.stSize k →
    c.throughWin now e true off n data false i = c.set (A.ST_CONN k) F.ST_CONN_TAIL v := by
  intro k v known up home valid room
  have ok : c.dbOk now e (c.sc k F.ST_CONN_OWNER) (c.sc k F.ST_CONN_OWNER) (c.stEp k) (c.sc k F.ST_CONN_VALID == 1) (c.stSize k) v = (true, c) :=
    Chip.dbOk_ok rfl home (beq_iff_eq.2 valid) room
  refine (if_neg (by rw [kind]; decide)).trans <| (if_pos kind).trans <| (if_neg ?_).trans <|
    (if_neg Bool.false_ne_true).trans <| (if_neg ?_).trans ?_
  · simp [whole, aligned]
  · rintro (far | down)
    · exact Nat.not_lt.2 far known
    · exact Bool.false_ne_true (down.symm.trans up)
  · show c.stTail now e (c.sc k F.ST_CONN_OWNER) k v = _
    rw [Chip.stTail, ok]
    rfl

section
variable (kind : c.win e i F.HE_PEER_WIN_KIND = 3)
  (within : c.win e i F.HE_PEER_WIN_TARGET + (off - c.win e i F.HE_PEER_WIN_BAR_OFF) + n ≤ 96 * 2 ^ 20) (up : c.open1 23 = true)
include kind within up

theorem Chip.throughWin_slice :
    c.throughWin now e true off n data false i =
      if (List.range n).all fun k => c.heldBy (c.win e i F.HE_PEER_WIN_TARGET + (off - c.win e i F.HE_PEER_WIN_BAR_OFF) + k)
          (c.win e i F.HE_PEER_WIN_SLICE) then
        c.peerStore now (c.win e i F.HE_PEER_WIN_TARGET + (off - c.win e i F.HE_PEER_WIN_BAR_OFF)) data false
      else c.inc (A.HE_PEER_MISS e) :=
  (if_neg (by rw [kind]; decide)).trans <| (if_neg (by rw [kind]; decide)).trans <| (if_pos kind).trans <|
    (if_neg (by simp only [within, up]; decide)).trans (if_neg Bool.false_ne_true)

end

theorem Chip.peerStore_clean (c : Chip) (now a : Nat) (bs : List Byte) : c.peerStore now a bs false = (c.bobStore now a bs 0).2 :=
  if_neg (by simp)

end

/-! ### What a request meets before its space takes it (R325, R333, R337, R339) -/

section
variable {c : Chip} {now e off len n : Nat} {t : HostSpace} {bs : List Byte} {write poison pasid : Bool}

theorem Chip.hostRequest_down (down : ¬(c.epUp e = true ∧ c.open1 (20 + e) = true)) :
    c.hostRequest now e t write off len bs poison pasid = c := by
  refine if_pos ?_
  rw [Bool.or_eq_true, ← Bool.not_and, Bool.not_eq_true', ← Bool.not_eq_true, Bool.and_eq_true]
  exact .inl down

theorem Chip.hostRequest_beyond (beyond : (c.spaceOf e t).2 < off + if write then bs.length else len) :
    c.hostRequest now e t write off len bs poison pasid = c :=
  if_pos (by simp only [decide_eq_true beyond, Bool.or_true])

/-- No request of a link that is up and lies in its space is lost. -/
theorem Chip.requestLost_false (up : c.epUp e = true ∧ c.open1 (20 + e) = true) (within : off + n ≤ (c.spaceOf e t).2) :
    ¬(!c.epUp e || !c.open1 (20 + e) || decide ((c.spaceOf e t).2 < off + n)) = true := by
  simp [up.1, up.2, within]

/-- A request to BAR4, BAR2 of function 1 or the expansion ROM is a memory request. -/
theorem Chip.hostRequest_mem (memory : t = .bar4 ∨ t = .f1bar2 ∨ t = .rom) (up : c.epUp e = true ∧ c.open1 (20 + e) = true)
    (size : (if write then bs.length else len) = n) (within : off + n ≤ (c.spaceOf e t).2) :
    c.hostRequest now e t write off len bs poison pasid = c.memRequest now e t write off n bs poison pasid := by
  subst size
  refine (if_neg (Chip.requestLost_false up within)).trans ?_
  obtain rfl | rfl | rfl := memory <;> rfl

/-- A read of BAR0 of function 0 is a memory request. -/
theorem Chip.hostRequest_read0 (up : c.epUp e = true ∧ c.open1 (20 + e) = true) (within : off + len ≤ 2 ^ 24) :
    c.hostRequest now e .f0bar0 false off len bs poison pasid = c.memRequest now e .f0bar0 false off len bs poison pasid :=
  (if_neg (Chip.requestLost_false (n := len) (t := .f0bar0) up within)).trans (if_neg (by simp))

/-- A write below the doorbells of the command queues is a memory request. -/
theorem Chip.hostRequest_write0 (up : c.epUp e = true ∧ c.open1 (20 + e) = true) (within : off + bs.length ≤ 2 ^ 24) (low : off < 0x200000) :
    c.hostRequest now e .f0bar0 true off len bs poison pasid = c.memRequest now e .f0bar0 true off bs.length bs poison pasid :=
  (if_neg (Chip.requestLost_false (n := bs.length) (t := .f0bar0) up within)).trans (if_neg (by simp [Nat.not_le.2 low]))

section
variable (plain : t ≠ .f0bar0) (held : (c.prefixed e pasid).sluiced e = true)
include plain held

theorem Chip.memRequest_sluiced :
    c.memRequest now e t write off n bs poison pasid =
      if write then (c.prefixed e pasid).inc (A.HE_SLUICE_DROP e) else (c.prefixed e pasid).refuseRead e (c.spaceOf e t).1 :=
  if_pos (by rw [Bool.and_eq_true]; exact ⟨held, by simp [plain]⟩)

end

section
variable (passes : (c.prefixed e pasid).sluiced e = false ∨ t = .f0bar0 ∧ (write = true → mailWrite off n = true))
include passes

theorem Chip.not_sluicedAway :
    ¬((c.prefixed e pasid).sluiced e && !(t == .f0bar0 && (!write || mailWrite off n))) = true := by
  obtain clear | ⟨rfl, mail⟩ := passes
  · simp [clear]
  · cases write
    · simp
    · simp [mail rfl]

theorem Chip.memRequest_undecoded (off_ : (c.prefixed e pasid).decodes e (c.spaceOf e t).1 = false) :
    c.memRequest now e t write off n bs poison pasid =
      if write then (c.prefixed e pasid).aerLog e (c.spaceOf e t).1 Aer.unsupported false
      else (c.prefixed e pasid).refuseRead e (c.spaceOf e t).1 :=
  (if_neg (Chip.not_sluicedAway passes)).trans (if_pos (by rw [Bool.not_eq_true']; exact off_))

theorem Chip.memRequest_taken (takes : (c.prefixed e pasid).decodes e (c.spaceOf e t).1 = true) :
    c.memRequest now e t write off n bs poison pasid =
      if write then (c.prefixed e pasid).memWrite now e off bs poison t else (c.prefixed e pasid).memRead now e off n t :=
  (if_neg (Chip.not_sluicedAway passes)).trans (if_neg (by rw [Bool.not_eq_true', Bool.not_eq_false]; exact takes))

end

end

end Sys2Proof.Machine

/-! PROOFS. Configuration requests, the registers, the mailbox buffer and the expansion ROM (R324-R331, R337). -/

namespace Sys2Proof.Machine

/-! ### Configuration space (R320-R326, R341, R342) -/

section
variable {c : Chip} {now e off len : Nat} {f : Fin 2} {bs : List Byte} {poison pasid : Bool}

theorem Chip.hostRequest_configRead (up : c.epUp e = true ∧ c.open1 (20 + e) = true) (some_ : 0 < len) (one : off % 4 + len ≤ 4)
    (within : off + len ≤ 4096) :
    c.hostRequest now e (.config f) false off len bs poison pasid =
      c.answerRead e f off (((leBytes 4 (c.configRead e f (off / 4 * 4)).toNat).drop (off % 4)).take len) fun _ _ => false :=
  (if_neg (Chip.requestLost_false (n := len) (t := .config f) up within)).trans <|
    (if_neg (show ¬(len = 0 ∨ 4 < off % 4 + len) by omega)).trans (if_neg Bool.false_ne_true)

theorem Chip.hostRequest_configWrite (up : c.epUp e = true ∧ c.open1 (20 + e) = true) (dword : bs.length = 4) (aligned : off % 4 = 0)
    (within : off + 4 ≤ 4096) :
    c.hostRequest now e (.config f) true off len bs poison pasid = c.configWrite now e f off bs := by
  have within : off + bs.length ≤ 4096 := by omega
  exact (if_neg (Chip.requestLost_false (n := bs.length) (t := .config f) up within)).trans <|
    (if_neg (show ¬(bs.length = 0 ∨ 4 < off % 4 + bs.length) by omega)).trans (if_pos rfl)

/-- A function after a write of the whole dword at `off`. -/
def FnSt.written (x : FnSt) (f log2 off : Nat) (v : BitVec 32) : FnSt :=
  let m := cfgMask f log2 off
  x.wr off (((x.rd off &&& ~~~m) ||| (v &&& m)) &&& ~~~(v &&& cfgClear off))

theorem FnSt.put_whole (x : FnSt) (f log2 off : Nat) (v : BitVec 32) :
    x.put f log2 off v (BitVec.allOnes 32) = x.written f log2 off v := by
  rw [FnSt.put, FnSt.written, BitVec.and_allOnes, BitVec.and_allOnes]

/-- What a write of the whole dword at `off` does. -/
theorem Chip.configWrite_dword (dword : bs.length = 4) (aligned : off % 4 = 0) :
    let v : BitVec 32 := BitVec.ofNat 32 (leNat bs)
    let y := (c.fn e f).written f (c.ep e).barLog2 off v
    c.configWrite now e f off bs =
      if off = 0x04 then
        (let d := c.setFn e f (y.wr off ((y.rd off &&& ~~~4) ||| ((c.fn e f).rd off &&& 4)))
         if y.bme = (c.fn e f).bme then d else if y.bme then d.bmeSet now e f else d.bmeClear now e f)
      else if off = 0x44 then
        if v.toNat % 4 = 0 then c.powerState now e f false else if v.toNat % 4 = 3 then c.powerState now e f true else c
      else
        if off = 0x58 ∧ v.getLsbD 15 = true then (c.setFn e f y).flr now e f
        else if off = 0xB0 ∧ f.val = 0 then (c.setFn e f y).msixRetry now e else c.setFn e f y := by
  intro v y
  have offset : off / 4 * 4 = off := by omega
  have value : (BitVec.ofNat 32 (leNat bs * 2 ^ (8 * (off % 4))) : BitVec 32) = v := by rw [aligned]; simp [v]
  have bytes : (BitVec.ofNat 32 ((2 ^ (8 * bs.length) - 1) * 2 ^ (8 * (off % 4))) : BitVec 32) = BitVec.allOnes 32 := by
    rw [aligned, dword]
    decide
  have none_ : (v &&& BitVec.allOnes 32) ||| ((c.fn e f).rd off &&& ~~~BitVec.allOnes 32) = v := by
    rw [BitVec.not_allOnes, BitVec.and_zero, BitVec.or_zero, BitVec.and_allOnes]
  unfold Chip.configWrite
  dsimp only
  rw [offset, value, bytes, FnSt.put_whole, none_, BitVec.and_allOnes]

end

/-- The identity a configuration read shows (R324, R326). -/
theorem Chip.configRead_identity (c : Chip) (e : Nat) (f : Fin 2) :
    c.configRead e f 0 = BitVec.ofNat 32 (0x98160000 + 0x10000 * f.val + 0x1C6E) ∧
      c.configRead e f 8 = BitVec.ofNat 32 (256 * (if f = 0 then 0x088000 else 0x020000) + Config.revision.toNat % 256) ∧
      c.configRead e f 0x150 = BitVec.ofNat 32 (Config.serial.toNat / 2 ^ 32) := by
  refine ⟨?_, ?_, rfl⟩
  · show BitVec.ofNat 32 (0x1C6E + 0x10000 * (0x9816 + f.val)) = _
    exact congrArg (BitVec.ofNat 32) (by omega)
  · show BitVec.ofNat 32 (256 * (if f.val = 0 then 0x088000 else 0x020000) + Config.revision.toNat % 256) = _
    rw [if_congr (Fin.ext_iff (a := f) (b := 0)) rfl rfl]
    rfl

/-! ### Registers, the mailbox buffer, the ROM (R327, R328, R331, R337) -/

section
variable {c : Chip} {now e f off n : Nat} {bs : List Byte}

theorem Chip.regsRead_register (outside : f = 0 → inMbox off n = false) :
    c.regsRead e f off n = match c.hostRegRead e f off n with
      | some out => c.answerRead e f off out fun _ _ => false
      | none => c.refuseRead e f :=
  if_neg fun ⟨zero, inside⟩ => Bool.false_ne_true ((outside zero).symm.trans inside)

theorem Chip.regsRead_found {out : List Byte} (outside : f = 0 → inMbox off n = false) (found : c.hostRegRead e f off n = some out) :
    c.regsRead e f off n = c.answerRead e f off out fun _ _ => false := by
  rw [Chip.regsRead_register outside, found]

theorem Chip.regsRead_missing (outside : f = 0 → inMbox off n = false) (missing : c.hostRegRead e f off n = none) :
    c.regsRead e f off n = c.refuseRead e f := by
  rw [Chip.regsRead_register outside, missing]

/-- The words of the mailbox buffer. -/
theorem Chip.regsRead_mailbox (inside : inMbox off n = true) (some_ : 0 < n) (aligned : off % 4 = 0 ∧ n % 4 = 0) :
    c.regsRead e 0 off n =
      c.answerRead e 0 off (rdBytes (c.ep e).mbox (off - 0x100000) n) fun k m =>
        (c.ep e).mboxBad.any fun p => decide ((off - 0x100000 + k) / 4 ≤ p.1) && decide (4 * p.1 < off - 0x100000 + k + m) :=
  (if_pos ⟨rfl, inside⟩).trans (if_neg (by omega))

theorem Chip.regsWrite_mailbox (inside : inMbox off bs.length = true) (some_ : 0 < bs.length)
    (aligned : off % 4 = 0 ∧ bs.length % 4 = 0) :
    c.regsWrite now e off bs false = c.mboxWrite e (off - 0x100000) bs false :=
  (if_pos inside).trans (if_neg (by omega))

theorem Chip.romRead_off (off_ : (c.fn e 1).romOn = false) : c.romRead e off n = c.refuseRead e 1 :=
  if_pos (by simp [off_])

theorem Chip.romRead_bytes (some_ : 0 < n) (on : (c.fn e 1).romOn = true) (flash : c.flash.present = true) :
    c.romRead e off n = c.answerRead e 1 off (c.romBytes off n) fun _ _ => false :=
  if_neg (by simp [on, flash, Nat.ne_of_gt some_])

theorem Chip.hostRegRead_status : c.hostRegRead e 0 0 8 = some (leBytes 8 (c.hostStatus e).toNat) := rfl

end

/-- The mailbox buffer lies below the doorbells of the command queues. -/
theorem inMbox_below {off n : Nat} (inside : inMbox off n = true) : 0x100000 ≤ off ∧ off + n ≤ 0x200000 := by
  simpa [inMbox] using inside

/-! ### The obligation -/

section
variable {c : Chip} {now e off len : Nat} {bs : List Byte} {poison pasid : Bool} (live : c.epUp e = true ∧ c.open1 (20 + e) = true)
include live

section
variable (within : off + len ≤ 2 ^ (c.ep e).barLog2)
include within

theorem Chip.barFour_read_sluiced (held : (c.prefixed e pasid).sluiced e = true) :
    c.hostRequest now e .bar4 false off len bs poison pasid = (c.prefixed e pasid).refuseRead e 1 := by
  rw [Chip.hostRequest_mem (.inl rfl) live rfl within, Chip.memRequest_sluiced (by decide) held]
  rfl

theorem Chip.barFour_read_undecoded (clear : (c.prefixed e pasid).sluiced e = false) (off_ : (c.prefixed e pasid).decodes e 1 = false) :
    c.hostRequest now e .bar4 false off len bs poison pasid = (c.prefixed e pasid).refuseRead e 1 := by
  rw [Chip.hostRequest_mem (.inl rfl) live rfl within, Chip.memRequest_undecoded (t := .bar4) (.inl clear) off_]
  rfl

theorem Chip.barFour_read (clear : (c.prefixed e pasid).sluiced e = false) (takes : (c.prefixed e pasid).decodes e 1 = true) :
    c.hostRequest now e .bar4 false off len bs poison pasid = (c.prefixed e pasid).bar4Request now e false off len [] false := by
  rw [Chip.hostRequest_mem (.inl rfl) live rfl within, Chip.memRequest_taken (t := .bar4) (.inl clear) takes]
  rfl

end

section
variable (within : off + bs.length ≤ 2 ^ (c.ep e).barLog2)
include within

theorem Chip.barFour_write_sluiced (held : (c.prefixed e pasid).sluiced e = true) :
    c.hostRequest now e .bar4 true off len bs poison pasid = (c.prefixed e pasid).inc (A.HE_SLUICE_DROP e) := by
  rw [Chip.hostRequest_mem (.inl rfl) live rfl within, Chip.memRequest_sluiced (by decide) held]
  rfl

theorem Chip.barFour_write_undecoded (clear : (c.prefixed e pasid).sluiced e = false) (off_ : (c.prefixed e pasid).decodes e 1 = false) :
    c.hostRequest now e .bar4 true off len bs poison pasid = (c.prefixed e pasid).aerLog e 1 Aer.unsupported false := by
  rw [Chip.hostRequest_mem (.inl rfl) live rfl within, Chip.memRequest_undecoded (t := .bar4) (.inl clear) off_]
  rfl

theorem Chip.barFour_write (clear : (c.prefixed e pasid).sluiced e = false) (takes : (c.prefixed e pasid).decodes e 1 = true) :
    c.hostRequest now e .bar4 true off len bs poison pasid =
      (if poison then (c.prefixed e pasid).poisonLogged e else c.prefixed e pasid).bar4Request now e true off bs.length bs poison := by
  rw [Chip.hostRequest_mem (.inl rfl) live rfl within, Chip.memRequest_taken (t := .bar4) (.inl clear) takes]
  rfl

end

end

section
variable {c : Chip} {now e off len : Nat} {bs : List Byte} (live : c.epUp e = true ∧ c.open1 (20 + e) = true)
include live

theorem Chip.hostRequest_regs0 (within : off + len ≤ 2 ^ 24) (takes : c.decodes e 0 = true) :
    c.hostRequest now e .f0bar0 false off len bs false false = c.regsRead e 0 off len := by
  rw [Chip.hostRequest_read0 live within,
    Chip.memRequest_taken (t := .f0bar0) (pasid := false) (.inr ⟨rfl, fun h => absurd h Bool.false_ne_true⟩) takes]
  rfl

theorem Chip.hostRequest_mailWrite (inside : inMbox off bs.length = true) (some_ : 0 < bs.length) (takes : c.decodes e 0 = true) :
    c.hostRequest now e .f0bar0 true off len bs false false = c.regsWrite now e off bs false := by
  obtain ⟨low, high⟩ := inMbox_below inside
  have mail : mailWrite off bs.length = true := by rw [mailWrite, inside]; rfl
  rw [Chip.hostRequest_write0 live (by omega) (by omega),
    Chip.memRequest_taken (t := .f0bar0) (pasid := false) (.inr ⟨rfl, fun _ => mail⟩) takes]
  rfl

section
variable (clear : c.sluiced e = false) (takes : c.decodes e 1 = true)
include clear takes

theorem Chip.hostRequest_regs1 (within : off + len ≤ 2 ^ 20) :
    c.hostRequest now e .f1bar2 false off len bs false false = c.regsRead e 1 off len := by
  rw [Chip.hostRequest_mem (.inr (.inl rfl)) live rfl within, Chip.memRequest_taken (t := .f1bar2) (pasid := false) (.inl clear) takes]
  rfl

theorem Chip.hostRequest_rom (within : off + len ≤ 2 ^ 20) :
    c.hostRequest now e .rom false off len bs false false = c.romRead e off len := by
  rw [Chip.hostRequest_mem (.inr (.inr rfl)) live rfl within, Chip.memRequest_taken (t := .rom) (pasid := false) (.inl clear) takes]
  rfl

theorem Chip.hostRequest_regs1Write (within : off + bs.length ≤ 2 ^ 20) :
    c.hostRequest now e .f1bar2 true off len bs false false = c.inc (A.HE_BAR_DROP e) := by
  rw [Chip.hostRequest_mem (.inr (.inl rfl)) live rfl within, Chip.memRequest_taken (t := .f1bar2) (pasid := false) (.inl clear) takes]
  rfl

theorem Chip.hostRequest_romWrite (within : off + bs.length ≤ 2 ^ 20) :
    c.hostRequest now e .rom true off len bs false false = c.inc (A.HE_BAR_DROP e) := by
  rw [Chip.hostRequest_mem (.inr (.inr rfl)) live rfl within, Chip.memRequest_taken (t := .rom) (pasid := false) (.inl clear) takes]
  rfl

end

end

/-- Where every byte is held for the slice, the window takes all of them. -/
theorem all_heldBy {c : Chip} {t n sl : Nat} :
    ((List.range n).all fun k => c.heldBy (t + k) sl) = true ↔ ∀ k, k < n → c.heldBy (t + k) sl = true := by
  simp [List.all_eq_true]

/-- R327, R337, R339, R343: the outcomes of a request to BAR4. -/
theorem State.barFourRequests (s : State) (e : EpNo) (off len : Nat) (bs : List Byte) (pasid : Bool)
    (live : s.found.epUp e = true ∧ s.found.open1 (20 + e) = true) (inRead : off + len ≤ 2 ^ (s.found.ep e).barLog2)
    (inWrite : off + bs.length ≤ 2 ^ (s.found.ep e).barLog2) (clear : (s.found.prefixed e pasid).sluiced e = false)
    (takes : (s.found.prefixed e pasid).decodes e 1 = true) :
    (∀ {r}, (s.found.prefixed e pasid).bar4Request s.time e false off len [] false = r →
      exec (.peerRequest e .bar4 false off len bs false pasid) s = .next (s.done r)) ∧
    (∀ {r}, (s.found.prefixed e pasid).bar4Request s.time e true off bs.length bs false = r →
      exec (.peerRequest e .bar4 true off len bs false pasid) s = .next (s.done r)) ∧
    (∀ {r}, ((s.found.prefixed e pasid).poisonLogged e).bar4Request s.time e true off bs.length bs true = r →
      exec (.peerRequest e .bar4 true off len bs true pasid) s = .next (s.done r)) :=
  ⟨fun h => State.exec_on rfl ((Chip.barFour_read live inRead clear takes).trans h),
    fun h => State.exec_on rfl ((Chip.barFour_write live inWrite clear takes).trans h),
    fun h => State.exec_on rfl ((Chip.barFour_write live inWrite clear takes).trans h)⟩

/-- A poisoned write through a window on bobbin memory. -/
theorem Chip.bar4Request_poisoned {d : Chip} {now i off : Nat} {e : EpNo} {bs : List Byte} (hit : d.peerWin e off bs.length = some i)
    (kind : d.win e i F.HE_PEER_WIN_KIND = 1) (en : d.win e i F.HE_PEER_WIN_WRITE_EN = 1)
    (within : d.win e i F.HE_PEER_WIN_TARGET + (off - d.win e i F.HE_PEER_WIN_BAR_OFF) + bs.length ≤ 96 * 2 ^ 20) (up : d.open1 23 = true) :
    (d.poisonLogged e).bar4Request now e true off bs.length bs true =
      (d.poisonLogged e).peerStore now (d.win e i F.HE_PEER_WIN_TARGET + (off - d.win e i F.HE_PEER_WIN_BAR_OFF)) bs true := by
  rw [← d.win_poisonLogged e i] at kind en
  rw [← d.win_poisonLogged e i F.HE_PEER_WIN_TARGET, ← d.win_poisonLogged e i F.HE_PEER_WIN_BAR_OFF] at within ⊢
  exact (Chip.bar4Request_through ((d.peerWin_poisonLogged e off bs.length).trans hit)).trans
    (Chip.throughWin_stores kind en within ((d.open1_poisonLogged e).trans up))

theorem State.configRequests (s : State) (e : EpNo) (off : Nat) (bs : List Byte) (f : Fin 2)
    (live : s.found.epUp e = true ∧ s.found.open1 (20 + e) = true) (aligned : off % 4 = 0) (within : off + 4 ≤ 4096) (dword : bs.length = 4) {r : Chip}
    (h : s.found.configWrite s.time e f off bs = r) {n : Nat} :
    exec (.peerRequest e (.config f) true off n bs false false) s = .next (s.done r) :=
  State.exec_on rfl ((Chip.hostRequest_configWrite live dword aligned within).trans h)

/-- Settles O46: each request ends as the space it names, the endpoint's state and, for BAR4, the window it lies in say. -/
theorem hostRequestsAnswered : Obligations.HostRequestsAnswered := by
  refine ⟨fun s e off len bs pasid => ?_, fun s e off n bs => ?_⟩
  · refine ⟨fun down => ⟨State.exec_on rfl (Chip.hostRequest_down down), State.exec_on rfl (Chip.hostRequest_down down)⟩,
      fun beyond => State.exec_on rfl (Chip.hostRequest_beyond beyond), fun beyond => State.exec_on rfl (Chip.hostRequest_beyond beyond),
      fun live inRead inWrite => ?_⟩
    have open_ := s.barFourRequests e off len bs pasid live inRead inWrite
    refine ⟨fun held => ⟨State.exec_on rfl (Chip.barFour_read_sluiced live inRead held),
        State.exec_on rfl (Chip.barFour_write_sluiced live inWrite held)⟩,
      fun clear off_ => ⟨State.exec_on rfl (Chip.barFour_read_undecoded live inRead clear off_),
        State.exec_on rfl (Chip.barFour_write_undecoded live inWrite clear off_)⟩,
      fun ⟨clear, takes⟩ none_ => (open_ clear takes).1 (Chip.bar4Request_missed none_),
      fun ⟨clear, takes⟩ none_ => (open_ clear takes).2.1 (Chip.bar4Request_missed none_), fun i ⟨clear, takes⟩ kind => ?_,
      fun i ⟨clear, takes⟩ hit kind whole aligned => ?_, fun i ⟨clear, takes⟩ hit kind up => ?_⟩
    · obtain ⟨reads, writes, poisoned⟩ := open_ clear takes
      exact ⟨fun hit => ⟨fun en within up => reads ((Chip.bar4Request_through hit).trans (Chip.throughWin_reads kind en within up)),
          fun shut => reads ((Chip.bar4Request_through hit).trans (Chip.throughWin_shut kind shut))⟩,
        fun hit => ⟨fun en within up => ⟨writes ((Chip.bar4Request_through hit).trans
            ((Chip.throughWin_stores kind en within up).trans (Chip.peerStore_clean ..))),
          poisoned (Chip.bar4Request_poisoned hit kind en within up)⟩,
          fun shut => writes ((Chip.bar4Request_through hit).trans (Chip.throughWin_shut kind shut))⟩⟩
    · intro k v known up home valid room
      exact (open_ clear takes).2.1 ((Chip.bar4Request_through hit).trans (Chip.throughWin_rings kind whole aligned known up home valid room))
    · intro t within
      have slice := (Chip.bar4Request_through (now := s.time) (data := bs) (write := true) (poison := false) hit).trans
        (Chip.throughWin_slice kind within up)
      exact ⟨fun held => (open_ clear takes).2.1 (slice.trans ((if_pos (all_heldBy.2 held)).trans (Chip.peerStore_clean ..))),
        fun free => (open_ clear takes).2.1 (slice.trans (if_neg (mt all_heldBy.1 free)))⟩
  · refine ⟨fun f live some_ one within => State.exec_on rfl (Chip.hostRequest_configRead live some_ one within),
      fun f o live offset within dword => ?_, fun f => Chip.configRead_identity _ e f, fun f live clear takes => ?_, Chip.hostRegRead_status,
      fun live takes inside some_ a0 a1 => ?_, fun live takes inside some_ a0 a1 => ?_, fun live clear takes within => ⟨?_, ?_⟩,
      fun live clear takes within => ⟨State.exec_on rfl (Chip.hostRequest_romWrite live clear takes within),
        State.exec_on rfl (Chip.hostRequest_regs1Write live clear takes within)⟩⟩
    · intro v x m y
      have run {r : Chip} := s.configRequests (r := r) (n := n) e off bs f live (by omega) within dword
      have whole := Chip.configWrite_dword (c := s.found) (now := s.time) (e := e) (f := f) dword (by omega : off % 4 = 0)
      refine ⟨fun n1 n2 n3 n4 => run (whole.trans ?_), fun at_ clear => run (whole.trans ?_), fun at_ set => run (whole.trans ?_),
        fun at_ d3 => run (whole.trans ?_), fun at_ d0 => run (whole.trans ?_)⟩
      · exact (if_neg n1).trans <| (if_neg n2).trans <| (if_neg fun h => n3 h.1).trans (if_neg fun h => n4 h.1)
      · exact (if_neg (by omega)).trans <| (if_neg (by omega)).trans <|
          (if_neg fun h => Bool.false_ne_true (clear.symm.trans h.2)).trans (if_neg (by omega))
      · exact (if_neg (by omega)).trans <| (if_neg (by omega)).trans (if_pos ⟨at_, set⟩)
      · exact (if_neg (by omega)).trans <| (if_pos at_).trans <| (if_neg (by rw [d3]; decide)).trans (if_pos d3)
      · exact (if_neg (by omega)).trans <| (if_pos at_).trans (if_pos d0)
    · have f01 : f = 0 ∨ f = 1 := by omega
      obtain rfl | rfl := f01
      · intro t within outside
        exact ⟨fun out found => State.exec_on rfl ((Chip.hostRequest_regs0 live within takes).trans
            (Chip.regsRead_found (fun _ => outside rfl) found)),
          fun missing => State.exec_on rfl ((Chip.hostRequest_regs0 live within takes).trans
            (Chip.regsRead_missing (fun _ => outside rfl) missing))⟩
      · intro t within outside
        exact ⟨fun out found => State.exec_on rfl ((Chip.hostRequest_regs1 live clear takes within).trans
            (Chip.regsRead_found (fun h => absurd h Nat.one_ne_zero) found)),
          fun missing => State.exec_on rfl ((Chip.hostRequest_regs1 live clear takes within).trans
            (Chip.regsRead_missing (fun h => absurd h Nat.one_ne_zero) missing))⟩
    · exact State.exec_on rfl ((Chip.hostRequest_regs0 live (by have := inMbox_below inside; omega) takes).trans
        (Chip.regsRead_mailbox inside some_ ⟨a0, a1⟩))
    · have write := (Chip.hostRequest_mailWrite (now := s.time) (len := n) live inside some_ takes).trans
        (Chip.regsWrite_mailbox inside some_ ⟨a0, a1⟩)
      exact ⟨fun busy => State.exec_on rfl (write.trans (if_pos busy)),
        fun idle => State.exec_on rfl (write.trans (if_neg (Bool.eq_false_iff.1 idle)))⟩
    · exact fun some_ on flash => State.exec_on rfl ((Chip.hostRequest_rom live clear takes within).trans (Chip.romRead_bytes some_ on flash))
    · exact fun off_ => State.exec_on rfl ((Chip.hostRequest_rom live clear takes within).trans (Chip.romRead_off off_))

end Sys2Proof.Machine

/-! PROOFS. Completions, timeouts and quarantined tags (R322, R323, R337, R342). -/

namespace Sys2Proof.Machine

/-! ### A completion that arrives -/

/-- A request once a completion has brought bytes. -/
def HostReq.brought (r : HostReq) (bs : List Byte) (poison : Bool) : HostReq :=
  { r with got := r.got + bs.length, data := r.data ++ bs, marks := r.marks ++ bs.map fun _ => poison }

/-- The adapter once a completion of request `r` has been logged where it is poisoned (R337). -/
def Chip.cplLogged (c : Chip) (e : Nat) (r : HostReq) (poison : Bool) : Chip :=
  if poison then (c.aerLog e r.fn Aer.poisoned true).inc (A.HE_POISON_RX e) else c

section
variable {c : Chip} {now e f t : Nat} {ok poison : Bool} {bs : List Byte} {r : HostReq}

section
variable (live : c.epUp e = true ∧ c.open1 (20 + e) = true)
include live

theorem Chip.pcieCompletion_unknown (unknown : c.hreq e t = none) :
    c.pcieCompletion now e f t ok bs poison = (c.aerLog e f Aer.unexpected true).inc (A.HE_UNEXP_CPL e) := by
  unfold Chip.pcieCompletion
  rw [if_neg (by simp [live]), unknown]

/-- What a completion for a request does. -/
theorem Chip.pcieCompletion_known (known : c.hreq e t = some r) :
    c.pcieCompletion now e f t ok bs poison =
      if r.quar then c.inc (A.HE_LATE_CPL e)
      else if ok && decide ((r.brought bs poison).got < r.len) then (c.cplLogged e r poison).setHreq e t (some (r.brought bs poison))
      else
        if r.dead then ((c.cplLogged e r poison).setHreq e t none).pump now
        else if ok then ((c.cplLogged e r poison).setHreq e t none).reqDone now e t { r.brought bs poison with
          data := (r.brought bs poison).data.take r.len, marks := (r.brought bs poison).marks.take r.len }
        else ((c.cplLogged e r poison).setHreq e t none).reqFail now e t Code.HOST_ERROR (r.brought bs poison) := by
  unfold Chip.pcieCompletion
  rw [if_neg (by simp [live]), known]
  rfl

section
variable (known : c.hreq e t = some r)
include known

theorem Chip.pcieCompletion_late (quar : r.quar = true) : c.pcieCompletion now e f t ok bs poison = c.inc (A.HE_LATE_CPL e) :=
  (Chip.pcieCompletion_known live known).trans (if_pos quar)

variable (current : r.quar = false)
include current

theorem Chip.pcieCompletion_part (good : ok = true) (part : r.got + bs.length < r.len) :
    c.pcieCompletion now e f t ok bs poison = (c.cplLogged e r poison).setHreq e t (some (r.brought bs poison)) :=
  (Chip.pcieCompletion_known live known).trans <| (if_neg (Bool.eq_false_iff.1 current)).trans
    (if_pos (by rw [good, decide_eq_true (show (r.brought bs poison).got < r.len from part)]; rfl))

/-- The last completion of a request, or a failed one. -/
theorem Chip.pcieCompletion_last (last : ok = false ∨ r.len ≤ r.got + bs.length) :
    c.pcieCompletion now e f t ok bs poison =
      if r.dead then ((c.cplLogged e r poison).setHreq e t none).pump now
      else if ok then ((c.cplLogged e r poison).setHreq e t none).reqDone now e t { r.brought bs poison with
        data := (r.brought bs poison).data.take r.len, marks := (r.brought bs poison).marks.take r.len }
      else ((c.cplLogged e r poison).setHreq e t none).reqFail now e t Code.HOST_ERROR (r.brought bs poison) := by
  refine (Chip.pcieCompletion_known live known).trans <| (if_neg (Bool.eq_false_iff.1 current)).trans (if_neg ?_)
  obtain failed | whole := last
  · simp [failed]
  · have whole : ¬(r.brought bs poison).got < r.len := Nat.not_lt.2 whole
    simp [whole]

end

end

/-! ### Timeouts and the end of quarantine -/

theorem Chip.quarantineExpiry_frees (known : c.hreq e t = some r) (quar : r.quar = true) (due : r.at_ + ns r.cto ≤ now) :
    c.quarantineExpiry now e t = (c.setHreq e t none).pump now := by
  unfold Chip.quarantineExpiry
  rw [known]
  exact if_pos (by simp [quar, due])

theorem Chip.quarantineExpiry_early (known : c.hreq e t = some r) (early : now < r.at_ + ns r.cto) : c.quarantineExpiry now e t = c := by
  unfold Chip.quarantineExpiry
  rw [known]
  exact if_neg (by simp [Nat.not_le.2 early])

theorem Chip.completionTimeout_early (known : c.hreq e t = some r) (early : now < r.at_ + ns r.cto) : c.completionTimeout now e t = c := by
  unfold Chip.completionTimeout
  rw [known]
  exact if_pos (by simp [early])

/-- The adapter once request `r` has timed out, before the storm is looked at. -/
def Chip.timedOut (c : Chip) (now e t : Nat) (r : HostReq) : Chip :=
  let d := ((c.setHreq e t none).aerLog e r.fn Aer.timeout false).inc (A.HE_CTO e)
  if r.dead then d.pump now else d.reqFail now e t Code.TIMEOUT r

/-- Whether a timeout brings a storm, and the adapter with the timeout noted (R322, R500). -/
def Chip.timeoutStorm (d : Chip) (now e : Nat) : Bool × Chip :=
  d.storm now (Storm.timeouts e) (ns (1000 * d.get (A.HE_CTO_CFG e) F.HE_CTO_CFG_STORM_WINDOW_US))
    fun k => decide (d.get (A.HE_CTO_CFG e) F.HE_CTO_CFG_STORM_COUNT ≤ k)

theorem Chip.completionTimeout_due (known : c.hreq e t = some r) (due : r.at_ + ns r.cto ≤ now) (current : r.quar = false)
    (up : c.open1 (20 + e) = true) :
    c.completionTimeout now e t =
      if ((c.timedOut now e t r).timeoutStorm now e).1 then ((c.timedOut now e t r).timeoutStorm now e).2.sluice now e 4
      else ((c.timedOut now e t r).timeoutStorm now e).2 := by
  unfold Chip.completionTimeout
  rw [known]
  exact if_neg (by simp [current, Nat.not_lt.2 due, up])

end

/-! ### Descriptors that were fetched (R376) -/

section
variable {d : Chip} {now n gen first count : Nat} {bs : List Byte} {rx : Bool} (run : d.qpState n = 1) (same : (d.qp n).gen = gen)
include run same

/-- The queue pair once its fetch read has ended. -/
theorem Chip.descData_current {bad : Bool} :
    d.descData now n rx gen first count bs bad =
      let r := d.setQp n (if rx then { d.qp n with rxFly := 0 } else { d.qp n with txFly := 0 })
      if bad then (r.raise now Flt.DE_DESC_POISON 23 63 (r.qpSlice n) 0).qpHalt now n Code.POISONED
      else
        let ws := toWords (swapped (r.qpf n (if rx then F.DE_QP_RX_DSWAP else F.DE_QP_TX_DSWAP)) bs)
        if rx then r.setQp n { r.qp n with rx := (r.qp n).rx ++ (List.range count).map fun i => (first + i, (nth 0 ws i).toNat) }
        else r.setQp n { r.qp n with tx := (r.qp n).tx ++ txDescs first (ringSize (r.qpf n F.DE_QP_TX_LOG2)) ws count } :=
  if_neg (by simp [run, same])

end

/-! ### The outcomes of a tag -/

theorem State.completions (s : State) (e : EpNo) (f : Fin 2) (tag : Nat) (ok : Bool) (bs : List Byte) (poison : Bool)
    (live : s.found.epUp e = true ∧ s.found.open1 (20 + e.val) = true) {r : HostReq} (known : s.found.hreq e tag = some r) (current : r.quar = false)
    (last : ok = false ∨ r.len ≤ r.got + bs.length) {out : Chip}
    (h : (if r.dead then ((s.found.cplLogged e r poison).setHreq e tag none).pump s.time
      else if ok then ((s.found.cplLogged e r poison).setHreq e tag none).reqDone s.time e tag { r.brought bs poison with
        data := (r.brought bs poison).data.take r.len, marks := (r.brought bs poison).marks.take r.len }
      else ((s.found.cplLogged e r poison).setHreq e tag none).reqFail s.time e tag Code.HOST_ERROR (r.brought bs poison)) = out) :
    exec (.pcieCompletion e f tag ok bs poison) s = .next (s.done out) :=
  State.exec_on rfl ((Chip.pcieCompletion_last live known current last).trans h)

/-- R322, R323, R337, R342: what a completion does, for every use of its request. -/
theorem State.completion_outcomes (s : State) (e : EpNo) (f : Fin 2) (tag : Nat) (ok : Bool) (bs : List Byte) (poison : Bool)
    (live : s.found.epUp e = true ∧ s.found.open1 (20 + e.val) = true) {r : HostReq} (known : s.found.hreq e tag = some r)
    (current : r.quar = false) (good : ok = true) (whole : r.len ≤ r.got + bs.length) (alive : r.dead = false) {out : Chip}
    (h : ((s.found.cplLogged e r poison).setHreq e tag none).reqDone s.time e tag { r.brought bs poison with
        data := (r.brought bs poison).data.take r.len, marks := (r.brought bs poison).marks.take r.len } = out) :
    exec (.pcieCompletion e f tag ok bs poison) s = .next (s.done out) :=
  s.completions e f tag ok bs poison live known current (.inr whole)
    ((if_neg (Bool.eq_false_iff.1 alive)).trans ((if_pos good).trans h))

/-! ### The end of a request, by its use -/

section
variable {c : Chip} {now e t code : Nat} {r : HostReq}

theorem Chip.reqDone_desc {n gen first count : Nat} {rx : Bool} (use : r.use = .desc n rx gen first count) :
    c.reqDone now e t r = (c.descData now n rx gen first count r.data (r.marks.any fun b => b)).pump now := by
  unfold Chip.reqDone
  rw [use]

theorem Chip.reqDone_payload {j b off : Nat} (use : r.use = .payload j b off) :
    c.reqDone now e t r = (c.txData now j (some b) off r.data r.marks).pump now := by
  unfold Chip.reqDone
  rw [use]

theorem Chip.reqDone_header {j off : Nat} (use : r.use = .header j off) :
    c.reqDone now e t r = (c.txData now j none off r.data r.marks).pump now := by
  unfold Chip.reqDone
  rw [use]

theorem Chip.reqDone_entry {i : Nat} (use : r.use = .entry i) :
    c.reqDone now e t r = c.cmdqEntry now i r.data (r.marks.any fun b => b) := by
  unfold Chip.reqDone
  rw [use]

theorem Chip.reqDone_packet {i off : Nat} (use : r.use = .packet i off) :
    c.reqDone now e t r = c.cmdqData now i off r.data (r.marks.any fun b => b) := by
  unfold Chip.reqDone
  rw [use]

theorem Chip.reqDone_place {n i : Nat} (use : r.use = .place n i) :
    c.reqDone now e t r =
      (if (r.marks.any fun b => b) then c.entryFail n i Code.POISONED else c.entryKeep n i (toWords r.data)).pump now := by
  unfold Chip.reqDone
  rw [use]

theorem Chip.reqDone_flush (use : r.use = .flush) : c.reqDone now e t r = (c.flushDone now e t).pump now := by
  unfold Chip.reqDone
  rw [use]

theorem Chip.reqFail_desc {n gen first count : Nat} {rx : Bool} (use : r.use = .desc n rx gen first count) (same : (c.qp n).gen = gen) :
    c.reqFail now e t code r = (c.qpHalt now n code).pump now := by
  unfold Chip.reqFail
  rw [use]
  exact congrArg (Chip.pump · now) (if_pos same)

theorem Chip.reqFail_place {n i : Nat} (use : r.use = .place n i) : c.reqFail now e t code r = (c.entryFail n i code).pump now := by
  unfold Chip.reqFail
  rw [use]

end

end Sys2Proof.Machine

/-! PROOFS. The events of an endpoint and its functions (R321, R325, R328-R330, R338-R342, R460). -/

namespace Sys2Proof.Machine

/-! ### Endpoints and functions -/

theorem Chip.ep_setEp_self (c : Chip) (e : Nat) (x : HostEp) : (c.setEp e x).ep e = x := mget_mset_self ..

theorem Chip.fn_setFn_self (c : Chip) (e f : Nat) (x : FnSt) : (c.setFn e f x).fn e f = x := by
  rw [Chip.fn, Chip.setFn, Chip.ep_setEp_self]
  exact mget_mset_self ..

/-- An endpoint's functions stand where its other parts change. -/
theorem Chip.fn_setEp (c : Chip) {e : Nat} (f : Nat) {x : HostEp} (same : x.fns = (c.ep e).fns) : (c.setEp e x).fn e f = c.fn e f := by
  rw [Chip.fn, Chip.ep_setEp_self, same]
  rfl

theorem Chip.rd_prefixed (c : Chip) (e : Nat) (pasid : Bool) {a : Nat} (other : a ≠ A.HE_PASID_IN e) : (c.prefixed e pasid).rd a = c.rd a := by
  cases pasid
  · rfl
  · exact Chip.rd_inc_ne c other

theorem Chip.host_prefixed (c : Chip) (e : Nat) (pasid : Bool) : (c.prefixed e pasid).host = c.host := by
  cases pasid <;> rfl

theorem Chip.ep_prefixed (c : Chip) (e : Nat) (pasid : Bool) (x : Nat) : (c.prefixed e pasid).ep x = c.ep x :=
  congrArg (fun h : HostSt => mget HostEp.init h.eps x) (c.host_prefixed e pasid)

theorem Chip.bound_prefixed (c : Chip) (e : Nat) (pasid : Bool) (t : Nat) : (c.prefixed e pasid).bound t = c.bound t := by
  cases pasid <;> rfl

/-- Function 0 of endpoint `e` takes the host's memory requests. -/
structure Chip.Reaches (c : Chip) (e : Nat) : Prop where
  up : c.epUp e = true
  island : c.open1 (20 + e) = true
  decodes : c.decodes e 0 = true

theorem Chip.Reaches.prefixed {c : Chip} {e : EpNo} (h : c.Reaches e) (pasid : Bool) : (c.prefixed e pasid).Reaches e := by
  refine ⟨?_, ?_, ?_⟩
  · refine (congrArg (getBits · _ _ == 1) (c.rd_prefixed e pasid ?_)).trans h.up
    show 0x20000008 + 0x8000000 * e.val + 8 * 0 ≠ _
    rw [A.HE_PASID_IN]
    omega
  · have domain : (c.prefixed e pasid).domOn (targetDomain (20 + e)) = c.domOn (targetDomain (20 + e)) := by
      refine congrArg (getBits · _ _ == 2) (c.rd_prefixed e pasid ?_)
      have far : ∀ e : EpNo, A.CP_PWR_STATUS (targetDomain (20 + e)) + 8 * F.CP_PWR_STATUS_STATE.word ≠ A.HE_PASID_IN e := by decide
      exact far e
    rw [← h.island, Chip.open1, Chip.open1, Chip.bound_prefixed, domain]
  · have function : (c.prefixed e pasid).fn e 0 = c.fn e 0 := congrArg (fun x : HostEp => mget FnSt.init x.fns 0) (c.ep_prefixed e pasid e)
    rw [← h.decodes, Chip.decodes, Chip.decodes, function]

theorem Chip.Reaches.setEp {c : Chip} {e : Nat} (h : c.Reaches e) {x : HostEp} (same : x.fns = (c.ep e).fns) : (c.setEp e x).Reaches e := by
  refine ⟨h.up, h.island, ?_⟩
  rw [← h.decodes, Chip.decodes, Chip.decodes, Chip.fn_setEp c 0 same]

theorem Chip.sluiced_prefixed (c : Chip) (e : EpNo) (pasid : Bool) : (c.prefixed e pasid).sluiced e = c.sluiced e := by
  refine congrArg (getBits · _ _ == 1) (c.rd_prefixed e pasid ?_)
  revert e
  decide

/-! ### Little-endian numbers -/

theorem leNat_leBytes : ∀ n v : Nat, leNat (leBytes n v) = v % 256 ^ n
  | 0, v => by rw [Nat.pow_zero, Nat.mod_one]; rfl
  | n + 1, v => by
    rw [leBytes, leNat, leNat_leBytes n (v / 256), Nat.pow_succ', Nat.mod_mul]
    simp

theorem length_leBytes : ∀ n v : Nat, (leBytes n v).length = n
  | 0, _ => rfl
  | n + 1, v => congrArg (· + 1) (length_leBytes n (v / 256))

/-! ### Writes to BAR0 of function 0 (R327, R328, R330) -/

section
variable {c : Chip} {now e off : Nat} {bs : List Byte} {pasid : Bool}

/-- A write that names no doorbell of a command queue and that Sluice does not hold back. -/
theorem Chip.hostRequest_regsWrite (live : c.Reaches e) (takes : (c.prefixed e pasid).decodes e 0 = true)
    (within : off + bs.length ≤ 2 ^ 24) (plain : off < 0x200000 ∨ 0x208000 ≤ off)
    (passes : (c.prefixed e pasid).sluiced e = false ∨ mailWrite off bs.length = true) :
    c.hostRequest now e .f0bar0 true off 0 bs false pasid = (c.prefixed e pasid).regsWrite now e off bs false := by
  have doorbell : ¬(true && decide (0x200000 ≤ off) && decide ((off - 0x200000) / 4096 < 8) && off % 4096 == 0) = true := by
    have far : ¬(0x200000 ≤ off ∧ (off - 0x200000) / 4096 < 8) := by omega
    simp only [Bool.true_and, Bool.and_eq_true, decide_eq_true_eq]
    exact fun h => far h.1
  refine (if_neg (Chip.requestLost_false (n := bs.length) (t := .f0bar0) ⟨live.up, live.island⟩ within)).trans <| (if_neg doorbell).trans ?_
  exact (Chip.memRequest_taken (t := .f0bar0) (passes.imp_right fun h => ⟨rfl, fun _ => h⟩) takes).trans (if_pos rfl)

/-- MBOX_CTRL written whole. -/
theorem Chip.regsWrite_mboxCtrl (whole : bs.length = 8) :
    c.regsWrite now e 0x2000 bs false = c.mboxCtrl e (some (leNat bs % 2 ^ 21)) (leNat bs / 2 ^ 63 == 1) := by
  have access : regAccess 0x2000 bs.length = true := by rw [whole]; rfl
  have outside : ¬inMbox 0x2000 bs.length = true := by rw [whole]; decide
  unfold Chip.regsWrite
  dsimp only
  rw [if_neg Bool.false_ne_true, if_neg outside, if_neg Bool.false_ne_true, access, whole]
  rfl

/-- A half of an entry of the MSI-X table. -/
theorem Chip.regsWrite_table {o : Nat} (whole : bs.length = 8) (aligned : o % 8 = 0) (inside : o + 8 ≤ 256) :
    c.regsWrite now e (0x300000 + o) bs false = c.msixWrite now e o bs := by
  have access : regAccess (0x300000 + o) bs.length = true := by
    have : (0x300000 + o) % 8 = 0 := by omega
    rw [whole, regAccess, this]
    rfl
  have outside : ¬inMbox (0x300000 + o) bs.length = true := by
    rw [inMbox, Bool.and_eq_true, decide_eq_true_eq, decide_eq_true_eq]
    omega
  unfold Chip.regsWrite
  dsimp only
  rw [if_neg Bool.false_ne_true, if_neg outside, if_neg Bool.false_ne_true, access]
  refine (if_neg (by decide)).trans <| (if_neg (by omega)).trans <| (if_neg (by omega)).trans <| (if_pos (by omega)).trans ?_
  rw [Nat.add_sub_cancel_left]

end

/-- Replaces vector `v` of endpoint `e`. -/
def Chip.setVector (c : Chip) (e v : Nat) (y : MsixVec) : Chip :=
  c.setEp e { c.ep e with table := mset MsixVec.init (c.ep e).table v y }

/-- Sends the message of vector `v` where one pends on it. -/
def Chip.sendPending (c : Chip) (now e v : Nat) : Chip := if natBits (c.ep e).pend v 1 = 1 then c.msix now e v else c

/-- The 16 bytes of a vector in the MSI-X table, and the vector they are (R330). -/
def MsixVec.bytes (x : MsixVec) : List Byte := leBytes 8 x.addr ++ (leBytes 4 x.data ++ leBytes 4 (if x.mask then 1 else 0))

def MsixVec.ofBytes (bs : List Byte) : MsixVec :=
  ⟨leNat (bs.take 8), leNat ((bs.drop 8).take 4), leNat ((bs.drop 12).take 4) % 2 == 1⟩

theorem Chip.msixWrite_eq (c : Chip) (now e v k : Nat) (bs : List Byte) (half : k < 16) :
    c.msixWrite now e (16 * v + k) bs =
      (c.setVector e v (.ofBytes ((c.vector e v).bytes.take k ++ bs ++ (c.vector e v).bytes.drop (k + bs.length)))).sendPending now e v := by
  have index : (16 * v + k) / 16 = v := by omega
  have offset : (16 * v + k) % 16 = k := by omega
  have held : leBytes 8 (c.vector e v).addr ++ leBytes 4 (c.vector e v).data ++ leBytes 4 (if (c.vector e v).mask then 1 else 0) =
      (c.vector e v).bytes := List.append_assoc ..
  unfold Chip.msixWrite
  dsimp only
  rw [index, offset, held]
  rfl

theorem MsixVec.ofBytes_append {a d m : List Byte} (ha : a.length = 8) (hd : d.length = 4) (hm : m.length = 4) :
    MsixVec.ofBytes (a ++ (d ++ m)) = ⟨leNat a, leNat d, leNat m % 2 == 1⟩ := by
  have upper : (a ++ (d ++ m)).drop 8 = d ++ m := List.drop_left' ha
  have last : (a ++ (d ++ m)).drop 12 = m := by
    rw [show 12 = 8 + 4 from rfl, ← List.drop_drop, upper, List.drop_left' hd]
  rw [MsixVec.ofBytes, last, upper, List.take_left' ha, List.take_left' hd, List.take_of_length_le (Nat.le_of_eq hm)]

/-- The lower half of an entry of the MSI-X table is its address. -/
theorem Chip.msixWrite_low {c : Chip} {now e v : Nat} {bs : List Byte} (whole : bs.length = 8) :
    c.msixWrite now e (16 * v) bs =
      (c.setVector e v ⟨leNat bs, (c.vector e v).data % 2 ^ 32, (c.vector e v).mask⟩).sendPending now e v := by
  have mask : (leNat (leBytes 4 (if (c.vector e v).mask then 1 else 0)) % 2 == 1) = (c.vector e v).mask := by
    cases (c.vector e v).mask <;> rfl
  have rest : (c.vector e v).bytes.drop (0 + bs.length) = leBytes 4 (c.vector e v).data ++ leBytes 4 (if (c.vector e v).mask then 1 else 0) := by
    rw [whole]
    exact List.drop_left' (length_leBytes 8 _)
  refine (c.msixWrite_eq now e v 0 bs (by decide)).trans ?_
  rw [rest, List.take_zero, List.nil_append, MsixVec.ofBytes_append whole (length_leBytes ..) (length_leBytes ..), leNat_leBytes 4, mask]
  rfl

/-- The upper half is its data and its mask. -/
theorem Chip.msixWrite_high {c : Chip} {now e v n : Nat} (small : n < 2 ^ 32) :
    c.msixWrite now e (16 * v + 8) (leBytes 8 n) =
      (c.setVector e v ⟨(c.vector e v).addr % 2 ^ 64, n, false⟩).sendPending now e v := by
  have halves : leBytes 8 n = leBytes 4 n ++ leBytes 4 (n / 256 / 256 / 256 / 256) := rfl
  have upper : n / 256 / 256 / 256 / 256 = 0 := by omega
  have low : leNat (leBytes 4 n) = n := by rw [leNat_leBytes]; exact Nat.mod_eq_of_lt small
  have first : (c.vector e v).bytes.take 8 = leBytes 8 (c.vector e v).addr := List.take_left' (length_leBytes 8 _)
  have rest : (c.vector e v).bytes.drop (8 + (leBytes 8 n).length) = [] :=
    List.drop_eq_nil_of_le (by simp [MsixVec.bytes, length_leBytes])
  refine (c.msixWrite_eq now e v 8 _ (by decide)).trans ?_
  rw [first, rest, List.append_nil, halves, upper, MsixVec.ofBytes_append (length_leBytes ..) (length_leBytes ..) (length_leBytes ..), low,
    leNat_leBytes 8]
  rfl

theorem Chip.vector_setVector (c : Chip) (e v : Nat) (y : MsixVec) : (c.setVector e v y).vector e v = y := by
  rw [Chip.vector, Chip.setVector, Chip.ep_setEp_self]
  exact mget_mset_self ..

/-- A masked vector pends (R330). -/
theorem Chip.msix_pends {c : Chip} {now e v : Nat} (shut : c.masked e v = true ∨ c.canIssue e 0 = false) :
    c.msix now e v = c.setEp e { c.ep e with pend := (c.ep e).pend ||| 2 ^ v } :=
  if_pos (by obtain h | h := shut <;> simp [h])

/-- A message that may go out (R330). -/
theorem Chip.msix_sends {c : Chip} {now e v : Nat} (clear : c.masked e v = false) (here : c.canIssue e 0 = true)
    (home : c.canIssue (c.home0 e) 0 = true) :
    c.msix now e v = (c.setEp e { c.ep e with pend := (c.ep e).pend &&& (65535 - 2 ^ v) }).writeOrdered now
      (c.home0 e) 0 none (c.vector e v).addr (leBytes 4 (c.vector e v).data) := by
  have go : ¬(c.masked e v || !c.canIssue e 0 || !c.canIssue (c.home0 e) 0) = true := by simp [clear, here, home]
  refine (if_neg go).trans ?_
  rfl

/-- A masked vector's message leaves the functions and the table. -/
theorem Chip.Reaches.sendPending {c : Chip} {now e v : Nat} (h : c.Reaches e) (masked : (c.vector e v).mask = true) :
    (c.sendPending now e v).Reaches e ∧ (c.sendPending now e v).vector e v = c.vector e v ∧
      (c.sendPending now e v).sluiced e = c.sluiced e := by
  have shut : c.masked e v = true := by rw [Chip.masked, masked]; rfl
  unfold Chip.sendPending
  split
  · rw [Chip.msix_pends (.inl shut)]
    refine ⟨h.setEp rfl, ?_, rfl⟩
    rw [Chip.vector, Chip.ep_setEp_self]
    rfl
  · exact ⟨h, rfl, rfl⟩

/-- MSIX_UNMASK: the two halves of an entry, one after the other (R330). -/
theorem Chip.msixUnmask {c : Chip} {now : Nat} {e : EpNo} {v : Fin 16} {addr : Word} {data : BitVec 32} {pasid : Bool} (live : c.Reaches e)
    (clear : c.sluiced e = false) (masked : (c.vector e v).mask = true) :
    let d := c.prefixed e pasid
    let d := ((d.setVector e v ⟨addr.toNat, (d.vector e v).data % 2 ^ 32, true⟩).sendPending now e v).prefixed e pasid
    (c.hostRequest now e .f0bar0 true (0x300000 + 16 * v) 0 (leBytes 8 addr.toNat) false pasid).hostRequest now e .f0bar0 true
      (0x300008 + 16 * v) 0 (leBytes 8 data.toNat) false pasid =
      (d.setVector e v ⟨addr.toNat, data.toNat, false⟩).sendPending now e v := by
  intro d d'
  have address : leNat (leBytes 8 addr.toNat) = addr.toNat := by
    rw [leNat_leBytes]
    exact Nat.mod_eq_of_lt addr.isLt
  have dmask : (d.vector e v).mask = true := by
    rw [← masked, Chip.vector, Chip.vector, Chip.ep_prefixed]
  have first : c.hostRequest now e .f0bar0 true (0x300000 + 16 * v) 0 (leBytes 8 addr.toNat) false pasid =
      (d.setVector e v ⟨addr.toNat, (d.vector e v).data % 2 ^ 32, true⟩).sendPending now e v := by
    rw [Chip.hostRequest_regsWrite live (live.prefixed pasid).decodes (by rw [length_leBytes]; omega) (.inr (by omega))
      (.inl ((Chip.sluiced_prefixed ..).trans clear)), Chip.regsWrite_table (length_leBytes ..) (by omega) (by omega),
      Chip.msixWrite_low (length_leBytes ..), address]
    rw [show (c.prefixed e pasid).vector e v = d.vector e v from rfl, dmask]
  obtain ⟨live', vector, sluiced⟩ := Chip.Reaches.sendPending (now := now) (v := v)
    ((live.prefixed pasid).setEp (x := { d.ep e with table := mset MsixVec.init (d.ep e).table v ⟨addr.toNat, (d.vector e v).data % 2 ^ 32, true⟩ })
      rfl) (congrArg MsixVec.mask (Chip.vector_setVector d e v ⟨addr.toNat, (d.vector e v).data % 2 ^ 32, true⟩))
  have held : d'.vector e v = ⟨addr.toNat, (d.vector e v).data % 2 ^ 32, true⟩ := by
    refine Eq.trans ?_ (vector.trans (Chip.vector_setVector d e v _))
    rw [Chip.vector, Chip.ep_prefixed]
    rfl
  have clear' : d'.sluiced e = false :=
    (Chip.sluiced_prefixed ..).trans <| sluiced.trans <| (Chip.sluiced_prefixed c e pasid).trans clear
  have offset : 0x300008 + 16 * v.val = 0x300000 + (16 * v.val + 8) := by omega
  have small : addr.toNat % 2 ^ 64 = addr.toNat := Nat.mod_eq_of_lt addr.isLt
  rw [first, offset]
  refine (Chip.hostRequest_regsWrite live' (live'.prefixed pasid).decodes (by rw [length_leBytes]; omega) (.inr (by omega)) (.inl clear')).trans ?_
  refine (Chip.regsWrite_table (length_leBytes ..) (by omega) (by omega)).trans <| (Chip.msixWrite_high data.isLt).trans ?_
  show (d'.setVector e v ⟨(d'.vector e v).addr % 2 ^ 64, data.toNat, false⟩).sendPending now e v = _
  rw [held, small]

/-! ### The mailbox and the command queues (R328, R329) -/

/-- Words of the mailbox buffer that MBOX_GO writes first. -/
theorem Chip.hostRequest_mailbox {c : Chip} {now : Nat} {e : EpNo} {bs : List Byte} {pasid : Bool} (live : c.Reaches e)
    (idle : (c.ep e).mboxBusy = false) (some_ : bs ≠ []) (words : bs.length % 4 = 0) (fits : bs.length ≤ 2 ^ 20) :
    c.hostRequest now e .f0bar0 true 0x100000 0 bs false pasid =
      let u := c.prefixed e pasid
      u.setEp e { u.ep e with mbox := wrBytes (u.ep e).mbox 0 bs, mboxBad := markBox (u.ep e).mboxBad 0 bs.length false } := by
  have length := List.length_pos_iff.2 some_
  have inside : inMbox 0x100000 bs.length = true := by
    rw [inMbox, Bool.and_eq_true, decide_eq_true_eq, decide_eq_true_eq]
    omega
  have mail : mailWrite 0x100000 bs.length = true := by rw [mailWrite, inside]; rfl
  have free : ((c.prefixed e pasid).ep e).mboxBusy = false := by rw [Chip.ep_prefixed, idle]
  rw [Chip.hostRequest_regsWrite live (live.prefixed pasid).decodes (by omega) (.inl (by decide)) (.inr mail),
    Chip.regsWrite_mailbox inside length ⟨by decide, words⟩]
  exact if_neg (Bool.eq_false_iff.1 free)

/-- MBOX_CTRL with GO (R328). -/
theorem Chip.hostRequest_mboxGo {c : Chip} {now : Nat} {e : EpNo} {len : BitVec 21} {pasid : Bool} (live : c.Reaches e) :
    c.hostRequest now e .f0bar0 true 0x2000 0 (leBytes 8 (len.toNat + 2 ^ 63)) false pasid =
      (c.prefixed e pasid).mboxCtrl e (some len.toNat) true := by
  have small := len.isLt
  have value : leNat (leBytes 8 (len.toNat + 2 ^ 63)) = len.toNat + 2 ^ 63 := by
    rw [leNat_leBytes]
    omega
  have length : (len.toNat + 2 ^ 63) % 2 ^ 21 = len.toNat := by omega
  have go : (len.toNat + 2 ^ 63) / 2 ^ 63 = 1 := by omega
  rw [Chip.hostRequest_regsWrite live (live.prefixed pasid).decodes (by rw [length_leBytes]; decide) (.inl (by decide))
    (.inr (by rw [length_leBytes]; rfl)), Chip.regsWrite_mboxCtrl (length_leBytes ..), value, length, go]
  rfl

theorem Chip.mboxCtrl_busy {c : Chip} {e : Nat} {len : Option Nat} (busy : (c.ep e).mboxBusy = true) :
    c.mboxCtrl e len true = c.inc (A.HE_MBOX_DROP e) := if_pos (by simp [busy])

/-- The packet of the mailbox is submitted (R328). -/
theorem Chip.mboxCtrl_go {c : Chip} {e n : Nat} (idle : (c.ep e).mboxBusy = false) :
    let x := c.ep e
    let st := if n = 0 ∨ 2 ^ 20 < n ∨ n % 8 ≠ 0 then Code.BAD_ARGUMENT else if x.mboxBad.any (fun p => decide (4 * p.1 < n)) then Code.POISONED
      else Code.OK
    c.mboxCtrl e (some n) true =
      (c.setEp e { x with mboxLen := n, mboxBusy := true, mboxDone := false }).cmdSubmit e
        (if st = Code.BAD_ARGUMENT then [] else rdBytes x.mbox 0 n)
        { source := 1 + e, detail := 0, limit := 2 ^ 20, resAddr := 0, sa := [], tags := [], pre := st, gen := x.mboxGen } :=
  (if_neg (by simp [idle])).trans (if_neg (by simp))

theorem Chip.cmdqDoorbell_posted {c : Chip} {now e k n v : Nat} {pasid : Bool} (live : c.Reaches e) (clear : (c.prefixed e pasid).sluiced e = false)
    (takes : (c.prefixed e pasid).decodes e 0 = true) :
    c.cmdqDoorbell now e k n false pasid v =
      let d := c.prefixed e pasid
      let a := A.HE_CMDQ e k
      if n = 8 ∧ d.flag a F.HE_CMDQ_ENABLE = true ∧ v % 2 ^ 16 < 2 ^ d.get a F.HE_CMDQ_SIZE_LOG2 then
        (d.set a F.HE_CMDQ_TAIL (v % 2 ^ 16)).kickAll now
      else d.inc (A.HE_BAR_DROP e) := by
  have posted : c.posted e 0 false pasid = (true, c.prefixed e pasid) :=
    (Chip.posted_decoded ⟨live.up, live.island⟩ clear takes).trans (if_neg Bool.false_ne_true)
  have tail : natBits v 0 16 = v % 2 ^ 16 := rfl
  rw [Chip.cmdqDoorbell, posted, tail]
  refine (if_neg (by decide)).trans <| (ite_not ..).symm.trans (if_congr ?_ rfl rfl)
  simp only [Bool.or_eq_true, decide_eq_true_eq, Bool.not_eq_true', not_or, ne_eq, not_not, Bool.not_eq_false, Nat.not_le, and_assoc]

/-! ### Resets (R342, R460) -/

/-- What a step of an endpoint's ordered writes and reads keeps: power, and each endpoint's functions and table. -/
structure Chip.SameTables (c d : Chip) : Prop where
  pwr : d.pwr = c.pwr
  table : ∀ e, (d.ep e).table = (c.ep e).table
  fns : ∀ e, (d.ep e).fns = (c.ep e).fns

theorem Chip.SameTables.rfl' (c : Chip) : c.SameTables c := ⟨rfl, fun _ => rfl, fun _ => rfl⟩

theorem Chip.SameTables.trans {c d u : Chip} (h : c.SameTables d) (k : d.SameTables u) : c.SameTables u :=
  ⟨k.pwr.trans h.pwr, fun e => (k.table e).trans (h.table e), fun e => (k.fns e).trans (h.fns e)⟩

theorem Chip.ep_setEp (c : Chip) (e k : Nat) (x : HostEp) : (c.setEp e x).ep k = if k = e then x else c.ep k := mget_mset ..

section
variable {c d : Chip} (h : c.SameTables d)
include h

theorem Chip.SameTables.setEp (e : Nat) {x : HostEp} (table : x.table = (d.ep e).table) (fns : x.fns = (d.ep e).fns) :
    c.SameTables (d.setEp e x) := by
  refine ⟨h.pwr, fun k => (Eq.trans ?_ (h.table k)), fun k => (Eq.trans ?_ (h.fns k))⟩ <;> rw [Chip.ep_setEp] <;> split
  · next same => rw [table, same]
  · rfl
  · next same => rw [fns, same]
  · rfl

theorem Chip.SameTables.of_eps {u : Chip} (pwr : u.pwr = d.pwr) (eps : u.host.eps = d.host.eps) : c.SameTables u :=
  have ep (e : Nat) : u.ep e = d.ep e := congrArg (mget HostEp.init · e) eps
  ⟨pwr.trans h.pwr, fun e => (congrArg HostEp.table (ep e)).trans (h.table e), fun e => (congrArg HostEp.fns (ep e)).trans (h.fns e)⟩

theorem Chip.SameTables.inc (a : Nat) : c.SameTables (d.inc a) := h.of_eps rfl rfl

theorem Chip.SameTables.handTlp (t : Tlp) : c.SameTables (d.handTlp t) := by
  have handed : c.SameTables { d with host := { d.host with tlps := d.host.tlps ++ [t] } } := h.of_eps rfl rfl
  unfold Chip.handTlp
  dsimp only
  split <;> split
  · exact (handed.inc _).setEp _ rfl rfl
  · exact handed.setEp _ rfl rfl
  · exact handed.inc _
  · exact handed

theorem Chip.SameTables.setHreq (e t : Nat) (r : Option HostReq) : c.SameTables (d.setHreq e t r) := by
  have stored : c.SameTables (d.setEp e { d.ep e with reqs := mset none (d.ep e).reqs t r }) := h.setEp e rfl rfl
  exact stored.of_eps rfl rfl

theorem Chip.SameTables.issueRead (now e f : Nat) (pasid : Option Nat) (a n : Nat) (use : ReqUse) :
    c.SameTables (d.issueRead now e f pasid a n use).2 := by
  unfold Chip.issueRead
  split
  · exact h
  · split
    · exact h
    · next t _ =>
      dsimp only
      refine Chip.SameTables.handTlp (Chip.SameTables.setEp (h.setHreq ..) e ?_ ?_) _
      · rfl
      · rfl

end

theorem Chip.SameTables.pumpOrdered (now : Nat) : ∀ (n : Nat) {c d : Chip}, c.SameTables d → c.SameTables (Chip.pumpOrdered now n d)
  | 0, _, _, h => h
  | n + 1, c, d, h => by
    unfold Chip.pumpOrdered
    split
    · exact h
    · next o rest _ =>
      dsimp only
      split
      · have popped : c.SameTables { d with host := { d.host with ordered := rest } } := h.of_eps rfl rfl
        exact Chip.SameTables.pumpOrdered now n (popped.handTlp o.tlp)
      · have issue := h.issueRead now (1 - o.tlp.ep) o.tlp.fn o.tlp.pasid o.tlp.addr 0 .flush
        split
        · split
          · next u issued => rwa [issued] at issue
          · next t u issued =>
            rw [issued] at issue
            have flushed : c.SameTables (u.setEp (1 - o.tlp.ep) { u.ep (1 - o.tlp.ep) with dirty := false }) := issue.setEp _ rfl rfl
            exact (flushed.inc (A.HE_FLUSH (1 - o.tlp.ep))).of_eps rfl rfl
        · split
          · exact h
          · exact h.of_eps rfl rfl

theorem Chip.ep_of_host {c d : Chip} (same : d.host = c.host) (e : Nat) : d.ep e = c.ep e :=
  congrArg (fun h : HostSt => mget HostEp.init h.eps e) same

/-- Endpoint `e` is put in PERST, and the ordered writes go that may. -/
def Chip.holdPerst (c : Chip) (e : Nat) : Chip := { c with pwr := { c.pwr with perst := mset false c.pwr.perst e true } }

theorem Chip.perst_holdPerst (c : Chip) (e : Nat) : mget false (c.holdPerst e).pwr.perst e = true := by
  show mget false (mset false c.pwr.perst e true) e = true
  exact mget_mset_self ..

/-- The command queues' indices at reset. -/
def Chip.cmdqZero (c : Chip) (e k : Nat) : Chip := (c.set (A.HE_CMDQ e k) F.HE_CMDQ_HEAD 0).set (A.HE_CMDQ e k) F.HE_CMDQ_TAIL 0

def Chip.cmdqsZero (c : Chip) (e : Nat) : Chip := (List.range 8).foldl (fun (c : Chip) k => c.cmdqZero e k) c

theorem Chip.host_cmdqsZero (c : Chip) (e : Nat) : (c.cmdqsZero e).host = c.host :=
  foldl_keep Chip.host (fun (c : Chip) k => c.cmdqZero e k) (fun _ _ => rfl) _ c

/-- The command queues of an endpoint, disabled. -/
def Chip.cmdqsOff (c : Chip) (e : Nat) : Chip :=
  (List.range 8).foldl (fun (c : Chip) k => c.setFlag (A.HE_CMDQ e k) F.HE_CMDQ_ENABLE false) c

theorem Chip.host_cmdqsOff (c : Chip) (e : Nat) : (c.cmdqsOff e).host = c.host :=
  foldl_keep Chip.host (fun (c : Chip) k => c.setFlag (A.HE_CMDQ e k) F.HE_CMDQ_ENABLE false) (fun _ _ => rfl) _ c

/-- The last step of a fundamental reset, from any adapter whose endpoint has been reset. -/
theorem Chip.holdPerst_clears (c : Chip) (now e : Nat) {x : HostEp} (ep : c.ep e = x) (table : x.table = []) (fns : x.fns = []) :
    mget false ((c.holdPerst e).goOrdered now).pwr.perst e = true ∧ (((c.holdPerst e).goOrdered now).ep e).table = [] ∧
      (((c.holdPerst e).goOrdered now).ep e).fns = [] := by
  have same : (c.holdPerst e).SameTables ((c.holdPerst e).goOrdered now) :=
    Chip.SameTables.pumpOrdered now _ (Chip.SameTables.rfl' (c.holdPerst e))
  have held : (c.holdPerst e).ep e = x := ep
  refine ⟨?_, (same.table e).trans ?_, (same.fns e).trans ?_⟩
  · rw [same.pwr]
    exact c.perst_holdPerst e
  · rw [held, table]
  · rw [held, fns]

/-- An endpoint at a fundamental reset. -/
def HostEp.atPerst (x : HostEp) (barLog2 : Nat) : HostEp :=
  { x with fns := [], last := HostEp.init.last, table := [], pend := 0, dirty := false, barLog2 := barLog2 }

theorem Chip.fundamental_eq (c : Chip) (now e : Nat) :
    ∃ d x l, c.fundamental now e = (((Chip.setEp d e (HostEp.atPerst x l)).cmdqsZero e).holdPerst e).goOrdered now :=
  ⟨_, _, _, rfl⟩

/-- A fundamental reset holds the endpoint in PERST, its table and its functions at reset (R460). -/
theorem Chip.fundamental_clears (c : Chip) (now e : Nat) :
    mget false (c.fundamental now e).pwr.perst e = true ∧ ((c.fundamental now e).ep e).table = [] ∧ ((c.fundamental now e).ep e).fns = [] := by
  obtain ⟨d, x, l, h⟩ := c.fundamental_eq now e
  rw [h]
  exact Chip.holdPerst_clears _ now e ((Chip.ep_of_host (Chip.host_cmdqsZero _ e) e).trans (Chip.ep_setEp_self ..)) rfl rfl

theorem Chip.flr_eq (c : Chip) (now e : Nat) : ∃ d, c.flr now e 0 = ((Chip.setFn d e 0 FnSt.init).mboxReset e).cmdqsOff e := by
  unfold Chip.flr
  exact ⟨_, if_pos rfl⟩

theorem Chip.fn_mboxReset (c : Chip) (e f : Nat) : (c.mboxReset e).fn e f = c.fn e f := Chip.fn_setEp c f rfl

theorem Chip.mboxBusy_mboxReset (c : Chip) (e : Nat) : ((c.mboxReset e).ep e).mboxBusy = false := by
  rw [Chip.mboxReset, Chip.ep_setEp_self]

/-- A function-level reset of function 0 resets its configuration space and empties the mailbox (R342). -/
theorem Chip.flr_clears (c : Chip) (now e : Nat) : (c.flr now e 0).fn e 0 = FnSt.init ∧ ((c.flr now e 0).ep e).mboxBusy = false := by
  obtain ⟨d, h⟩ := c.flr_eq now e
  have ep := Chip.ep_of_host (Chip.host_cmdqsOff ((d.setFn e 0 FnSt.init).mboxReset e) e) e
  rw [h]
  refine ⟨?_, (congrArg HostEp.mboxBusy ep).trans (Chip.mboxBusy_mboxReset ..)⟩
  exact (congrArg (fun x : HostEp => mget FnSt.init x.fns 0) ep).trans ((Chip.fn_mboxReset ..).trans (d.fn_setFn_self e 0 FnSt.init))

end Sys2Proof.Machine

/-! PROOFS. What an endpoint and its functions meet, event by event (R321-R323, R325, R328-R330, R337-R342, R460). -/

namespace Sys2Proof.Machine

section
variable {c : Chip} {now e f : Nat}

theorem Chip.epTrain_trains {rate width : Nat} (enabled : c.flag (A.HE_CTRL e) F.HE_CTRL_ENABLE = true)
    (perst : mget false c.pwr.perst e = false) (up : c.open1 (20 + e) = true) (down : c.epUp e = false)
    (slow : rate ≤ c.get (A.HE_CTRL e) F.HE_CTRL_MAX_RATE) (narrow : width ≤ c.get (A.HE_CTRL e) F.HE_CTRL_MAX_WIDTH) :
    c.epTrain now e rate width = ((c.wr (A.HE_LINK_STATUS e) (BitVec.ofNat 64
        (1 + 2 * rate + 16 * 2 ^ width + (if 5 ≤ rate then 512 else 0)))).epLink now e true).retryAll now :=
  if_neg (by simp [enabled, perst, up, down, slow, narrow])

theorem Chip.epDown_up (up : c.epUp e = true) : c.epDown now e = (c.wr (A.HE_LINK_STATUS e) 0).epLink now e false := if_pos up

theorem Chip.surpriseDown_up (up : c.epUp e = true) :
    c.surpriseDown now e = ((c.wr (A.HE_LINK_STATUS e) 0).epLink now e false).sluice now e 3 :=
  (if_pos up).trans (congrArg (Chip.sluice · now e 3) (Chip.epDown_up up))

theorem Chip.malformed_up (up : c.epUp e = true) (open_ : c.open1 (20 + e) = true) :
    c.malformed now e f = ((c.aerLog e f Aer.malformed false).inc (A.HE_MALFORMED e)).sluice now e 2 :=
  if_pos (by simp [up, open_])

theorem Chip.bmeSet_up (up : c.epUp e = true) :
    c.bmeSet now e f = ((c.setFn e f ((c.fn e f).raise 0x04 2)).retryAll now).pump now :=
  if_neg (by simp [up])

section
variable {d3 : Bool}

theorem Chip.powerState_d0 (held : (c.fn e f).d3 = true) :
    c.powerState now e f false = ((c.setFn e f ((c.fn e f).wr 0x44 0)).retryAll now).pump now :=
  (if_neg (by simp [held])).trans (if_neg Bool.false_ne_true)

theorem Chip.powerState_d3 (on : (c.fn e f).d3 = false) :
    c.powerState now e f true =
      if (c.fn e f).bme then (c.setFn e f ((c.fn e f).wr 0x44 3)).masterOff now e f else c.setFn e f ((c.fn e f).wr 0x44 3) :=
  (if_neg (by simp [on])).trans (if_pos rfl)

end

end

/-- MBOX_GO: the packet's words, then MBOX_CTRL (R328). -/
theorem Chip.mboxGo_submits {c : Chip} {now : Nat} {e : EpNo} {bs : List Byte} {len : BitVec 21} {pasid : Bool} (live : c.Reaches e)
    (idle : (c.ep e).mboxBusy = false) (words : bs.length % 4 = 0) (fits : bs.length ≤ 2 ^ 20) :
    let d := if bs = [] then c else
      let u := c.prefixed e pasid
      u.setEp e { u.ep e with mbox := wrBytes (u.ep e).mbox 0 bs, mboxBad := markBox (u.ep e).mboxBad 0 bs.length false }
    (if bs.isEmpty then c else c.hostRequest now e .f0bar0 true 0x100000 0 bs false pasid).hostRequest now e .f0bar0 true 0x2000 0
      (leBytes 8 (len.toNat + 2 ^ 63)) false pasid = (d.prefixed e pasid).mboxCtrl e (some len.toNat) true ∧
    ((d.prefixed e pasid).ep e).mboxBusy = false := by
  intro d
  have first : (if bs.isEmpty then c else c.hostRequest now e .f0bar0 true 0x100000 0 bs false pasid) = d := by
    by_cases none_ : bs = []
    · rw [if_pos (List.isEmpty_iff.2 none_)]
      exact (if_pos none_).symm
    · rw [if_neg (mt List.isEmpty_iff.1 none_), Chip.hostRequest_mailbox live idle none_ words fits]
      exact (if_neg none_).symm
  have kept : d.Reaches e ∧ (d.ep e).mboxBusy = false := by
    by_cases none_ : bs = []
    · rw [show d = c from if_pos none_]
      exact ⟨live, idle⟩
    · rw [show d = _ from if_neg none_]
      refine ⟨(live.prefixed pasid).setEp rfl, ?_⟩
      rw [Chip.ep_setEp_self]
      exact (congrArg HostEp.mboxBusy (c.ep_prefixed e pasid e)).trans idle
  obtain ⟨live', idle'⟩ := kept
  rw [first]
  exact ⟨Chip.hostRequest_mboxGo live', (congrArg HostEp.mboxBusy (d.ep_prefixed e pasid e)).trans idle'⟩

/-- Settles O45: each event of a tag, an endpoint or a function ends as its state says. -/
theorem endpointEvents : Obligations.EndpointEvents := by
  refine ⟨?_, ?_⟩
  · intro s e f tag c now
    refine ⟨?_, fun r known due => ⟨fun quar => ?_, fun current up => ?_⟩, fun r known early => ⟨?_, ?_⟩, fun d x k => ⟨?_, ?_⟩,
      fun d n gen first count bs run same => ⟨?_, ?_, ?_⟩⟩
    · intro ok bs poison up open_ run
      have live : s.found.epUp e = true ∧ s.found.open1 (20 + e.val) = true := ⟨up, open_⟩
      refine ⟨fun unknown => State.exec_on rfl (Chip.pcieCompletion_unknown live unknown), ?_⟩
      intro r known d data marks r' u bad
      refine ⟨fun quar => State.exec_on rfl (Chip.pcieCompletion_late live known quar),
        fun current good part => State.exec_on rfl (Chip.pcieCompletion_part live known current good part),
        fun current last dead => s.completions e f tag ok bs poison live known current last (if_pos dead),
        fun current good whole alive => ?_,
        fun current failed alive => s.completions e f tag ok bs poison live known current (.inl failed)
          ((if_neg (Bool.eq_false_iff.1 alive)).trans (if_neg (Bool.eq_false_iff.1 failed)))⟩
      have done {out : Chip} := s.completion_outcomes (out := out) e f tag ok bs poison live known current good whole alive
      exact ⟨fun n rx gen first count use => done (Chip.reqDone_desc use), fun j b off use => done (Chip.reqDone_payload use),
        fun j off use => done (Chip.reqDone_header use), fun i use => done (Chip.reqDone_entry use),
        fun i off use => done (Chip.reqDone_packet use), fun n i use => done (Chip.reqDone_place use),
        fun use => done (Chip.reqDone_flush use)⟩
    · exact State.exec_on rfl (Chip.quarantineExpiry_frees known quar due)
    · have timeout := Chip.completionTimeout_due known due current up
      exact ⟨fun calm => State.exec_on rfl (timeout.trans (if_neg (Bool.eq_false_iff.1 calm))),
        fun storm => State.exec_on rfl (timeout.trans (if_pos storm))⟩
    · exact State.exec_on rfl (Chip.quarantineExpiry_early known early)
    · exact State.exec_on rfl (Chip.completionTimeout_early known early)
    · exact fun n rx gen first count use _ same => Chip.reqFail_desc use same
    · exact fun n i use => Chip.reqFail_place use
    · exact Chip.descData_current (rx := true) run same
    · exact Chip.descData_current (rx := false) run same
    · exact Chip.descData_current (rx := true) run same
  · intro s e f c now ctrl pre
    refine ⟨fun rate width enabled perst up down slow narrow =>
        State.exec_on rfl (Chip.epTrain_trains enabled perst up down slow narrow), fun up => ?_,
      fun v => ⟨fun clear here home => Chip.msix_sends clear here home, Chip.msix_pends⟩, fun bme => State.exec_on rfl (if_pos bme),
      fun up => State.exec_on rfl (if_pos up), ⟨State.exec_on rfl rfl, Chip.flr_clears ..⟩,
      fun held => State.exec_on rfl (Chip.powerState_d0 held),
      fun on bme => State.exec_on rfl ((Chip.powerState_d3 on).trans (if_pos bme)),
      fun on off => State.exec_on rfl ((Chip.powerState_d3 on).trans (if_neg (Bool.eq_false_iff.1 off))),
      ⟨State.exec_on rfl rfl, Chip.fundamental_clears ..⟩, State.exec_on rfl rfl, ?_, ?_, ?_⟩
    · refine ⟨State.exec_on rfl (Chip.epDown_up up), State.exec_on rfl (Chip.surpriseDown_up up), State.exec_on rfl (if_pos up),
        fun open_ => ⟨State.exec_on rfl (Chip.malformed_up up open_), ?_⟩, State.exec_on rfl (Chip.bmeSet_up up)⟩
      intro v addr data pasid clear takes masked d1 d2 d3 d4
      have unmask := Chip.msixUnmask (now := s.time) (addr := addr) (data := data) (pasid := pasid) ⟨up, open_, takes⟩ clear masked
      exact ⟨fun pends => State.exec_on rfl (unmask.trans (if_pos pends)), fun quiet => State.exec_on rfl (unmask.trans (if_neg quiet))⟩
    · intro bs len pasid up open_ takes idle words fits d1 d2 x n st
      obtain ⟨written, free⟩ := Chip.mboxGo_submits (now := s.time) (len := len) (pasid := pasid) ⟨up, open_, takes⟩ idle words fits
      exact State.exec_on rfl (written.trans (Chip.mboxCtrl_go free))
    · intro len pasid up open_ takes busy
      have held : ((s.found.prefixed e pasid).ep e).mboxBusy = true := (congrArg HostEp.mboxBusy (s.found.ep_prefixed e pasid e)).trans busy
      exact State.exec_on rfl ((Chip.hostRequest_mboxGo ⟨up, open_, takes⟩).trans (Chip.mboxCtrl_busy held))
    · intro k n value pasid up open_ clear takes d a v good
      have live : s.found.Reaches e := ⟨up, open_, takes⟩
      have rung := Chip.cmdqDoorbell_posted (now := s.time) (k := k.val) (n := n) (v := value) (pasid := pasid) live
        ((s.found.sluiced_prefixed e pasid).trans clear) (live.prefixed pasid).decodes
      exact ⟨fun yes => State.exec_on rfl (rung.trans (if_pos yes)), fun no => State.exec_on rfl (rung.trans (if_neg no))⟩

end Sys2Proof.Machine

/-! PROOFS. Descriptor fetches and transmit jobs of queue pairs (R360-R363, R368-R370, R376, R377). -/

namespace Sys2Proof.Machine

/-! ### A ring as its pacing sees it (R376) -/

/-- Whether fetching goes on to 16 entries: the head packet needs more buffers than are cached, or the last send cached is not whole. -/
def Chip.ringRaised (c : Chip) (n : Nat) (rx : Bool) : Bool :=
  if rx then (match c.tmq n with
    | e :: _ => decide ((c.qp n).rx.length < c.buffersFor n e)
    | [] => false) else (c.qp n).lacksEop

theorem Chip.ringRaised_rx (c : Chip) (n : Nat) :
    c.ringRaised n true = true ↔ ∃ h hs, c.tmq n = h :: hs ∧ (c.qp n).rx.length < c.buffersFor n h := by
  show (match c.tmq n with
    | e :: _ => decide ((c.qp n).rx.length < c.buffersFor n e)
    | [] => false) = true ↔ _
  cases c.tmq n with
  | nil => simp
  | cons h hs => simp

section
variable (c : Chip) (now n : Nat) (rx : Bool)

theorem Chip.ring_stop : (c.ring now n rx).stop = if c.ringRaised n rx then 16 else c.qpf n F.DE_QP_HIGH := by
  cases rx <;> rfl

theorem Chip.ring_wants :
    (c.ring now n rx).wants = true ↔ c.qpState n = 1 ∧ (c.ring now n rx).size ≠ 0 ∧ (if rx then (c.qp n).rxFly else (c.qp n).txFly) = 0 ∧
      (c.ring now n rx).avail ≠ 0 ∧ (c.ring now n rx).cached < (c.ring now n rx).stop ∧
      ((if rx then (c.qp n).rxFill else (c.qp n).txFill) = true ∨ c.ringRaised n rx = true ∨
        (c.ring now n rx).cached ≤ c.qpf n F.DE_QP_LOW) ∧ (rx = true ∨ c.txHeld now n = false) := by
  have shape : (c.ring now n rx).wants =
      (c.qpState n == 1 && (c.ring now n rx).size != 0 && (if rx then (c.qp n).rxFly else (c.qp n).txFly) == 0 && (c.ring now n rx).avail != 0
        && decide ((c.ring now n rx).cached < (c.ring now n rx).stop)
        && ((if rx then (c.qp n).rxFill else (c.qp n).txFill) || c.ringRaised n rx || decide ((c.ring now n rx).cached ≤ c.qpf n F.DE_QP_LOW))
        && (rx || !c.txHeld now n)) := by
    cases rx <;> rfl
  rw [shape]
  simp only [Bool.and_eq_true, Bool.or_eq_true, beq_iff_eq, bne_iff_ne, decide_eq_true_eq, Bool.not_eq_true', and_assoc, or_assoc]

end

/-! ### A fetch read (R376, R377) -/

section
variable {c : Chip} {now n : Nat} {rx : Bool}

theorem Chip.descFetch_idle (idle : (c.ring now n rx).wants = false) : c.descFetch now n rx = c :=
  if_pos (by simp [idle])

section
variable (up : c.open1 23 = true) (wants : (c.ring now n rx).wants = true)
include up wants

theorem Chip.descFetch_halts (bad : c.jobStatus (c.qpSlice n) (c.qpHome n) ≠ Code.OK)
    (other : c.jobStatus (c.qpSlice n) (c.qpHome n) ≠ Code.MASTER_OFF) :
    c.descFetch now n rx = c.qpHalt now n (c.jobStatus (c.qpSlice n) (c.qpHome n)) :=
  (if_neg (by simp [up, wants])).trans (if_pos ⟨bad, other⟩)

variable (ok : c.jobStatus (c.qpSlice n) (c.qpHome n) = Code.OK)
include ok

theorem Chip.descFetch_waits (turn : c.ringTurn now n rx = false) : c.descFetch now n rx = c :=
  (if_neg (by simp [up, wants])).trans <| (if_neg fun h => h.1 ok).trans (if_pos (by simp [turn]))

/-- The length of a fetch read in entries, and where it begins. -/
def Chip.fetchBase (c : Chip) (now n : Nat) (rx : Bool) : Nat :=
  c.qpf n (if rx then F.DE_QP_RX_BASE else F.DE_QP_TX_BASE) + (if rx then 8 else 32) * (c.ring now n rx).next

def Chip.fetchCount (c : Chip) (now n : Nat) (rx : Bool) : Nat :=
  let r := c.ring now n rx
  let lim := max 1 (min 4096 (c.fn (c.qpHome n) (c.sliceFn (c.qpSlice n)).1).mrrs)
  max 1 (min (min (r.stop - r.cached) r.avail) (min (r.size - r.next) ((lim - c.fetchBase now n rx % lim) / if rx then 8 else 32)))

theorem Chip.descFetch_reads {t : Nat} {d : Chip} (can : c.jobCan (c.qpSlice n) (c.qpHome n) = true) (turn : c.ringTurn now n rx = true)
    (issued : c.issueRead now (c.stripe (c.qpHome n) (c.fetchBase now n rx)) (c.sliceFn (c.qpSlice n)).1 (c.sliceFn (c.qpSlice n)).2
      (c.fetchBase now n rx) ((if rx then 8 else 32) * c.fetchCount now n rx)
      (.desc n rx (c.qp n).gen (c.ring now n rx).next (c.fetchCount now n rx)) = (some t, d)) :
    let r := c.ring now n rx
    let k := c.fetchCount now n rx
    let more := decide (r.cached + k < r.stop) && decide (k < r.avail)
    c.descFetch now n rx =
      ({ d with de := { d.de with turn := mset 0 d.de.turn (c.qpHome n) (2 * n + if rx then 2 else 1) } } : Chip).setQp n
        (if rx then { c.qp n with rxNext := (r.next + k) % r.size, rxFly := k, rxFill := more }
         else { c.qp n with txNext := (r.next + k) % r.size, txFly := k, txFill := more }) := by
  intro r k more
  refine (if_neg (by simp [up, wants])).trans <| (if_neg fun h => h.1 ok).trans <| (if_neg (by simp [can, turn])).trans ?_
  dsimp only
  have same := issued
  unfold Chip.fetchCount Chip.fetchBase at same
  dsimp only at same
  rw [same]
  rfl

end

/-- Where a ring has its turn, no ring that asks and can issue comes before it. -/
theorem Chip.ringTurn_first {m : Nat} {q : Bool} (turn : c.ringTurn now n rx = true) (known : m ∈ c.de.qps.map (·.1))
    (home : c.qpHome m = c.qpHome n) (wants : (c.ring now m q).wants = true) (can : c.jobCan (c.qpSlice m) (c.qpHome n) = true) :
    (2 * n + (if rx then 2 else 1) + 131072 - mget 0 c.de.turn (c.qpHome n)) % 131073 ≤
      (2 * m + (if q then 2 else 1) + 131072 - mget 0 c.de.turn (c.qpHome n)) % 131073 := by
  obtain ⟨p, hp, rfl⟩ := List.mem_map.1 known
  have all := List.all_eq_true.1 turn p hp
  have ring := List.all_eq_true.1 all q (by cases q <;> simp)
  rw [home, wants, can, Bool.not_eq_true', beq_self_eq_true, Bool.true_and, Bool.and_true, Bool.and_true, decide_eq_false_iff_not] at ring
  exact Nat.not_lt.1 ring

end

/-! ### A transmit job (R368, R376) -/

/-- The sends of a queue pair that may go in one job. -/
def Chip.sendsReady (c : Chip) (n : Nat) : List (List TxDesc) := (takeSends 16 (c.qp n).tx).1

/-- How many of them the next job takes. -/
def Chip.sendCount (c : Chip) (n : Nat) : Nat :=
  let fits := if c.overlapped then
      ((c.sendsReady n).foldl (fun (r : Nat × Nat) ds =>
        if r.2 + sendLen ds ≤ 2 ^ 20 then (r.1 + 1, r.2 + sendLen ds) else (r.1, 2 ^ 20 + 1)) (0, 0)).1
    else (c.sendsReady n).length
  min (min (c.sendsReady n).length (c.cqRoom n)) fits

/-- The bytes of these sends. -/
def Chip.sendBytes (c : Chip) (n : Nat) : Nat := ((c.sendsReady n).take (c.sendCount n)).foldl (fun t ds => t + sendLen ds) 0

section
variable {c : Chip} {now n : Nat}

theorem Chip.txJob_starved (starved : (c.qp n).starved.isSome = true) : c.txJob now n = c :=
  if_pos (by simp only [starved, Bool.or_true, Bool.true_or])

/-- No other transmit job of the queue pair is in flight. -/
theorem no_txJob {js : List Job} (none_ : ∀ j ∈ js, j.qp = n → j.done = true ∨ ∃ h b i, j.kind = .rx h b i) :
    (js.any fun j => j.qp == n && !j.done && (match j.kind with
      | .tx _ _ => true
      | .rx _ _ _ => false)) = false := by
  rw [List.any_eq_false]
  intro j hj busy
  simp only [Bool.and_eq_true, beq_iff_eq, Bool.not_eq_true'] at busy
  obtain ⟨⟨own, running⟩, kind⟩ := busy
  obtain finished | ⟨h, b, i, rx⟩ := none_ j hj own
  · exact Bool.false_ne_true (running.symm.trans finished)
  · rw [rx] at kind
    exact Bool.false_ne_true kind

/-- The adapter once the sends of a job of queue pair `n` have been taken and charged. -/
def Chip.sendsTaken (c : Chip) (now n : Nat) : Chip :=
  let x := c.qp n
  let own := c.qpSlice n
  let d := if x.retry then c.inc A.DE_EMPTY_RETRY else c
  let d := d.setQp n { x with tx := (takeSends (c.sendCount n) x.tx).2, retry := false }
  let b := d.txBucket (d.mrNow now) own
  if own = 0 ∨ getBits (d.rdAt (d.mrNow now) (A.SM_SLICE own + 16)) 0 20 = 0 then d
  else d.setTxBucket own { b with used := b.used + (c.sendBytes n * tokenUnit : Nat) }

/-- The job of these sends. -/
def Chip.txJobOf (c : Chip) (now n : Nat) (sends : List (List TxDesc)) : Job :=
  ⟨(c.sendsTaken now n).de.nextJob, n, c.qpHome n, c.sendBytes n, c.sendCount n, (c.sendsTaken now n).largest, .tx sends TxSend.init, [], false⟩

/-- The adapter with a job at the end of the list. -/
def Chip.queueJob (d : Chip) (j : Job) : Chip := { d with de := { d.de with jobs := d.de.jobs ++ [j], nextJob := d.de.nextJob + 1 } }

theorem Chip.txJob_eq (c : Chip) (now n : Nat) :
    c.txJob now n =
      if !c.open1 23 || decide (c.qpState n ≠ 1) || decide (c.sendCount n = 0) || (c.qp n).starved.isSome ||
          (c.de.jobs.any fun j => j.qp == n && !j.done && (match j.kind with
            | .tx _ _ => true
            | .rx _ _ _ => false)) || c.txHeld now n || !c.admitsHost (c.qpSlice n) (c.qpHome n) ||
          !c.moverFree (c.qpHome n) (c.sendBytes n) then c
      else if c.jobStatus (c.qpSlice n) (c.qpHome n) ≠ Code.OK ∧ c.jobStatus (c.qpSlice n) (c.qpHome n) ≠ Code.MASTER_OFF then
        c.qpHalt now n (c.jobStatus (c.qpSlice n) (c.qpHome n))
      else if !c.jobCan (c.qpSlice n) (c.qpHome n) then c
      else
        match (c.sendsReady n).take (c.sendCount n) with
        | [] => (c.sendsTaken now n).queueJob (c.txJobOf now n ((c.sendsReady n).take (c.sendCount n)))
        | ds :: rest => (((c.sendsTaken now n).queueJob (c.txJobOf now n ((c.sendsReady n).take (c.sendCount n)))).startSend now
            (c.txJobOf now n ((c.sendsReady n).take (c.sendCount n))) ds rest).pumpJobs now := rfl

/-- A transmit job starts with the first of its sends. -/
theorem Chip.txJob_starts {ds : List TxDesc} {rest : List (List TxDesc)} (up : c.open1 23 = true) (run : c.qpState n = 1)
    (sends : (c.sendsReady n).take (c.sendCount n) = ds :: rest) (fresh : (c.qp n).starved = none)
    (alone : ∀ j ∈ c.de.jobs, j.qp = n → j.done = true ∨ ∃ h b i, j.kind = .rx h b i) (free : c.txHeld now n = false)
    (admits : c.admitsHost (c.qpSlice n) (c.qpHome n) = true) (mover : c.moverFree (c.qpHome n) (c.sendBytes n) = true)
    (ok : c.jobStatus (c.qpSlice n) (c.qpHome n) = Code.OK) (can : c.jobCan (c.qpSlice n) (c.qpHome n) = true) :
    c.txJob now n = (((c.sendsTaken now n).queueJob (c.txJobOf now n (ds :: rest))).startSend now
      (c.txJobOf now n (ds :: rest)) ds rest).pumpJobs now := by
  have some_ : c.sendCount n ≠ 0 := fun zero => by
    rw [zero, List.take_zero] at sends
    exact List.cons_ne_nil _ _ sends.symm
  rw [Chip.txJob_eq, no_txJob alone, up, fresh, free, admits, mover, decide_eq_false (not_not_intro run), decide_eq_false some_]
  refine (if_neg (by decide)).trans <| (if_neg fun h => h.1 ok).trans <| (if_neg (by simp [can])).trans ?_
  rw [sends]

end

end Sys2Proof.Machine

/-! PROOFS. The count point of a packet, and the mover's turn to a send (R361-R363, R368-R370). -/

namespace Sys2Proof.Machine

/-! ### The count point (R368) -/

/-- Whether the head send of a job of queue pair `n` has its packets. -/
def Job.countsFor (n : Nat) (j : Job) : Bool :=
  j.qp == n && !j.done && (match j.kind with
    | .tx _ cur => cur.ready
    | .rx _ _ _ => false)

theorem find?_countsFor {n : Nat} {js before after : List Job} {j : Job} {sends : List (List TxDesc)} {cur : TxSend}
    (split : js = before ++ j :: after)
    (none_ : ∀ i ∈ before, i.qp ≠ n ∨ i.done = true ∨ (∃ h b k, i.kind = .rx h b k) ∨ ∃ ss q, i.kind = .tx ss q ∧ q.ready = false)
    (own : j.qp = n) (running : j.done = false) (kind : j.kind = .tx sends cur) (ready : cur.ready = true) :
    js.find? (Job.countsFor n) = some j := by
  have here : Job.countsFor n j = true := by simp [Job.countsFor, own, running, kind, ready]
  have skip : before.find? (Job.countsFor n) = none := by
    rw [List.find?_eq_none]
    intro i hi counts
    simp only [Job.countsFor, Bool.and_eq_true, beq_iff_eq, Bool.not_eq_true'] at counts
    obtain ⟨⟨qp, busy⟩, made⟩ := counts
    obtain other | finished | ⟨h, b, k, rx⟩ | ⟨ss, q, tx, waits⟩ := none_ i hi
    · exact other qp
    · exact Bool.false_ne_true (busy.symm.trans finished)
    · rw [rx] at made
      exact Bool.false_ne_true made
    · rw [tx] at made
      exact Bool.false_ne_true (waits.symm.trans made)
  rw [split, List.find?_append, skip, Option.none_or, List.find?_cons_of_pos here]

/-- The adapter with the header of a chunk written before its payload (R370). -/
def Chip.chunkHeaded (c : Chip) (j : Job) (ds : List TxDesc) (cur : TxSend) (p : TxPkt) : Chip :=
  let h := sendHdr ds
  let base := c.bobBase p.bob
  match p.chunk with
  | none => c
  | some k =>
    let g := chunkHead ds (rdBytes cur.head 0 h) k (cur.made + cur.pkts.length) ((j.z - h) / sendMss ds) p.plen
    let d : Chip := { c with mem := { c.mem with bob := wrBytes c.mem.bob base g } }
    if cur.hread.bad then (List.range ((h + 31) / 32)).foldl (fun (d : Chip) i => d.setSram 0 (base / 32 + i) poisonMark) d else d

/-- The adapter with packet `p` stamped, handed to Dispatch and counted; `base` is where its bobbin begins. -/
def Chip.hostCounted (w : Chip) (now n base : Nat) (j : Job) (p : TxPkt) (bad : Bool) : Chip :=
  ((w.addPacket { Packet.none with
    src := 16 + j.ep, plen := p.plen, frameLen := p.plen + 4, err := if bad then 2 ^ 5 else 0, istamp := w.stampIn (20 + j.ep) now, bob := p.bob,
    txq := n, txflags := p.flags, profile := w.qpf n F.DE_QP_PROFILE, slice := w.qpSlice n,
    w7 := metaWord7 (preParse (rdBytes w.mem.bob base (min p.plen 256)) p.plen w.stnOpt) }).inc A.DE_TX_PACKETS).add A.DE_TX_BYTES p.plen

/-- A send one more packet of which has been counted. -/
def TxSend.counted (cur : TxSend) (ps : List TxPkt) (bad : Bool) (t : Nat) : TxSend :=
  { cur with pkts := ps, made := cur.made + 1, bad := cur.bad || bad, stamp := some t }

/-- The adapter once the completion of a send is written. -/
def Chip.sendCompleted (d : Chip) (now n : Nat) (j : Job) (ds : List TxDesc) (rest : List (List TxDesc)) (cur : TxSend) : Chip :=
  let q := d.sendCqe n (if cur.bad then Code.POISONED else Code.OK) ds cur
  let j' : Job := { j with kind := .tx rest TxSend.init }
  (q.2.putJob j').jobCqe now j' q.1

/-- What follows the last packet of a send: its completion, and the next send (R364, R368). -/
def Chip.hostSendDone (d : Chip) (now n : Nat) (j : Job) (ds : List TxDesc) (rest : List (List TxDesc)) (cur : TxSend) : Chip :=
  let u := d.sendCompleted now n j ds rest cur
  match u.job j.id, rest with
  | some i, [] => u.jobDone now i
  | some i, ds :: rest => (u.startSend now i ds rest).pumpJobs now
  | none, _ => u

section
variable {c : Chip} {now n : Nat} {j : Job} {ds : List TxDesc} {rest : List (List TxDesc)} {cur : TxSend} {p : TxPkt} {ps : List TxPkt}

/-- The count point of the first packet of the head send. -/
def Chip.countPacket (c : Chip) (now n : Nat) (j : Job) (ds : List TxDesc) (rest : List (List TxDesc)) (cur : TxSend) (p : TxPkt)
    (ps : List TxPkt) : Chip :=
  if !c.open1 23 || !p.xfer.segs.isEmpty || p.xfer.out ≠ 0 || !c.jobCan (c.qpSlice n) j.ep then c
  else
    let w := c.chunkHeaded j ds cur p
    let bad := p.xfer.bad || cur.hread.bad
    let d := w.hostCounted now n (c.bobBase p.bob) j p bad
    let cur' := cur.counted ps bad (w.stampIn (20 + j.ep) now)
    if !ps.isEmpty then d.putJob { j with kind := .tx (ds :: rest) cur' } else d.hostSendDone now n j ds rest cur'

theorem Chip.txCountPoint_eq (c : Chip) (now n : Nat) :
    c.txCountPoint now n =
      match c.de.jobs.find? (Job.countsFor n) with
      | none => c
      | some j =>
        match j.kind with
        | .tx (ds :: rest) cur =>
          match cur.pkts with
          | [] => c
          | p :: ps => c.countPacket now n j ds rest cur p ps
        | _ => c := rfl

theorem Chip.txCountPoint_first (found : c.de.jobs.find? (Job.countsFor n) = some j) (kind : j.kind = .tx (ds :: rest) cur)
    (pkts : cur.pkts = p :: ps) : c.txCountPoint now n = c.countPacket now n j ds rest cur p ps := by
  rw [Chip.txCountPoint_eq, found]
  dsimp only
  rw [kind]
  dsimp only
  rw [pkts]

end

section
variable {c : Chip} {now n : Nat} {j : Job} {ds : List TxDesc} {rest : List (List TxDesc)} {cur : TxSend} {p : TxPkt} {ps : List TxPkt}
variable (up : c.open1 23 = true) (asked : p.xfer.segs = []) (arrived : p.xfer.out = 0) (can : c.jobCan (c.qpSlice n) j.ep = true)
include up asked arrived can

/-- A packet that is not the last of its send. -/
theorem Chip.countPacket_more (more : ps ≠ []) :
    c.countPacket now n j ds rest cur p ps =
      let w := c.chunkHeaded j ds cur p
      let bad := p.xfer.bad || cur.hread.bad
      let cur' := cur.counted ps bad (w.stampIn (20 + j.ep) now)
      (w.hostCounted now n (c.bobBase p.bob) j p bad).putJob { j with kind := .tx (ds :: rest) cur' } :=
  (if_neg (by simp [up, asked, arrived, can])).trans (if_pos (by simp [more]))

/-- The last packet of a send. -/
theorem Chip.countPacket_last :
    c.countPacket now n j ds rest cur p [] =
      let w := c.chunkHeaded j ds cur p
      let bad := p.xfer.bad || cur.hread.bad
      (w.hostCounted now n (c.bobBase p.bob) j p bad).hostSendDone now n j ds rest (cur.counted [] bad (w.stampIn (20 + j.ep) now)) :=
  (if_neg (by simp [up, asked, arrived, can])).trans (if_neg (by simp))

end

section
variable {d : Chip} {now n : Nat} {j i : Job} {ds ds' : List TxDesc} {rest : List (List TxDesc)} {cur : TxSend}

theorem Chip.hostSendDone_idle (here : (d.sendCompleted now n j ds [] cur).job j.id = some i) :
    d.hostSendDone now n j ds [] cur = (d.sendCompleted now n j ds [] cur).jobDone now i := by
  unfold Chip.hostSendDone
  dsimp only
  rw [here]

theorem Chip.hostSendDone_next (here : (d.sendCompleted now n j ds (ds' :: rest) cur).job j.id = some i) :
    d.hostSendDone now n j ds (ds' :: rest) cur =
      ((d.sendCompleted now n j ds (ds' :: rest) cur).startSend now i ds' rest).pumpJobs now := by
  unfold Chip.hostSendDone
  dsimp only
  rw [here]

end

/-! ### The mover's turn to a send (R362, R368-R370) -/

section
variable {c : Chip} {now : Nat} {j : Job} {ds : List TxDesc} {rest : List (List TxDesc)} {cur : TxSend}

theorem Chip.startSend_invalid (bad : sendBad (swapUnit (c.qpf j.qp F.DE_QP_TX_PSWAP)) ds = true) :
    c.startSend now j ds rest = c.sendFail now Code.SEND_INVALID j ds TxSend.init := if_pos bad

section
variable (good : sendBad (swapUnit (c.qpf j.qp F.DE_QP_TX_PSWAP)) ds = false)
include good

theorem Chip.startSend_fits (fits : sendLen ds ≤ j.z) :
    c.startSend now j ds rest =
      c.sendPackets now j ds rest TxSend.init [(0, 0, sendLen ds, getBits (sendWord ds 2) 0 32, none)] :=
  (if_neg (by simp [good])).trans (if_pos fits)

theorem Chip.startSend_tooLong (long : j.z < sendLen ds) (whole : sendTso ds = false) :
    c.startSend now j ds rest = c.sendFail now Code.TOO_LONG j ds TxSend.init :=
  (if_neg (by simp [good])).trans <| (if_neg (Nat.not_le.mpr long)).trans (if_pos (by simp [whole]))

theorem Chip.startSend_cutBad (long : j.z < sendLen ds) (cut : sendTso ds = true) (bad : cutBad j.z ds = true) :
    c.startSend now j ds rest = c.sendFail now Code.SEND_INVALID j ds TxSend.init :=
  (if_neg (by simp [good])).trans <| (if_neg (Nat.not_le.mpr long)).trans <| (if_neg (by simp [cut])).trans (if_pos bad)

theorem Chip.startSend_cut (long : j.z < sendLen ds) (cut : sendTso ds = true) (sound : cutBad j.z ds = false) :
    c.startSend now j ds rest = c.putJob { j with kind := .tx (ds :: rest) { TxSend.init with hread := { Xfer.init with
      segs := c.sendSegs (c.qpHome j.qp) (c.sliceFn (c.qpSlice j.qp)).1 (swapUnit (c.qpf j.qp F.DE_QP_TX_PSWAP)) 0 (sendHdr ds) ds 0 } } } :=
  (if_neg (by simp [good])).trans <| (if_neg (Nat.not_le.mpr long)).trans <| (if_neg (by simp [cut])).trans (if_neg (by simp [sound]))

end

/-- The bytes of payload of a whole chunk. -/
def Job.chunkBytes (j : Job) (ds : List TxDesc) : Nat := (j.z - sendHdr ds) / sendMss ds * sendMss ds

/-- How many chunks a send is cut into. -/
def Job.chunks (j : Job) (ds : List TxDesc) : Nat := (sendLen ds - sendHdr ds + j.chunkBytes ds - 1) / j.chunkBytes ds

theorem Chip.cutSend_chunks (head : cutHeadOk ds (rdBytes cur.head 0 (sendHdr ds)) = true) (some_ : j.chunkBytes ds ≠ 0) :
    c.cutSend now j ds rest cur = c.sendPackets now j ds rest cur ((List.range (j.chunks ds)).map fun k =>
      (sendHdr ds + k * j.chunkBytes ds, sendHdr ds, sendHdr ds + min (j.chunkBytes ds) (sendLen ds - sendHdr ds - k * j.chunkBytes ds),
       getBits (sendWord ds 2) 0 32 + 256 + (if k + 1 = j.chunks ds then 512 else 0) + k * 2 ^ 16, some k)) :=
  if_neg (by
    rw [head]
    exact (Bool.false_or _).trans (decide_eq_false some_) ▸ Bool.false_ne_true)

theorem Chip.sendPackets_empty {m : Nat} {d : Chip} {ps : List (Nat × Nat × Nat × Nat × Option Nat)}
    (none_ : Chip.allocPkts now (c.qpSlice j.qp) ps [] c = (.inl m, d)) :
    c.sendPackets now j ds rest cur ps = d.sendEmpty now m j (ds :: rest) := by
  unfold Chip.sendPackets
  dsimp only
  rw [none_]

end

theorem Chip.ringRaised_iff (c : Chip) (now n : Nat) (rx : Bool) :
    c.ringRaised n rx = true ↔
      if rx then ∃ h hs, c.tmq n = h :: hs ∧ (c.ring now n rx).cached < c.buffersFor n h else (c.qp n).lacksEop = true := by
  cases rx with
  | true => exact c.ringRaised_rx n
  | false => exact Iff.rfl

/-- Settles O43: each clause is one outcome of the fetch, the job, the count point or the turn to a send. -/
theorem hostQueues : Obligations.HostQueues := by
  refine ⟨fun s n rx => ?_, fun s n => ?_, fun c now j ds rest cur => ?_⟩
  · intro c now x own e fn pasid r run
    have step {d : Chip} (effect : c.descFetch now n rx = d) : run = .next (s.done d) := State.exec_on rfl effect
    refine ⟨⟨?_, ?_, ?_, ?_, ?_⟩, fun idle => step (Chip.descFetch_idle idle), fun up wants => ⟨?_, ?_, ?_⟩, ?_⟩
    · cases rx <;> rfl
    · cases rx <;> rfl
    · cases rx <;> rfl
    · cases rx <;> rfl
    · intro raised
      have same : c.ringRaised n rx = true ↔ raised := c.ringRaised_iff now n rx
      refine ⟨fun h => (c.ring_stop now n rx).trans (if_pos (same.2 h)), fun h => (c.ring_stop now n rx).trans (if_neg (mt same.1 h)), ?_⟩
      rw [← same]
      exact c.ring_wants now n rx
    · exact fun bad other => step (Chip.descFetch_halts up wants bad other)
    · exact fun ok turn => step (Chip.descFetch_waits up wants ok turn)
    · exact fun t d ok can turn => fun issued => step (Chip.descFetch_reads up wants ok can turn issued)
    · exact fun m q turn known home wants can => Chip.ringTurn_first turn known home wants can
  · intro c now x own e
    refine ⟨⟨fun starved => State.exec_on rfl (Chip.txJob_starved starved),
      fun ds rest up run sends fresh alone free admits mover ok can =>
        State.exec_on rfl (Chip.txJob_starts up run sends fresh alone free admits mover ok can)⟩, ?_⟩
    intro j ds rest cur p ps before after jobs none_ own running kind ready pkts up asked arrived can
    have first := Chip.txCountPoint_first (now := now) (find?_countsFor jobs none_ own running kind ready) kind pkts
    refine ⟨fun more => State.exec_on rfl (first.trans (Chip.countPacket_more up asked arrived can more)), ?_, ?_⟩
    · intro i last lone here
      subst last lone
      exact State.exec_on rfl (first.trans ((Chip.countPacket_last up asked arrived can).trans (Chip.hostSendDone_idle here)))
    · intro i ds' rest' last lone here
      subst last lone
      exact State.exec_on rfl (first.trans ((Chip.countPacket_last up asked arrived can).trans (Chip.hostSendDone_next here)))
  · refine ⟨Chip.startSend_invalid, Chip.startSend_fits, Chip.startSend_tooLong, Chip.startSend_cutBad, Chip.startSend_cut,
      Chip.cutSend_chunks, fun m d ps => Chip.sendPackets_empty⟩

end Sys2Proof.Machine

/-! PROOFS. Cipher jobs (R304-R309). -/

namespace Sys2Proof.Machine

/-! ### How a job ends -/

section
variable {c d k u : Chip} {now fl n : Nat} {r : EngReq} {out : List Byte} {commit : Chip → Option Chip}

/-- A job that ends with a code other than AUTH_FAIL and REPLAY counts nothing. -/
theorem Chip.ceNo_uncounted {st : Status} (auth : st ≠ Code.AUTH_FAIL) (fresh : st ≠ Code.REPLAY) :
    c.ceNo r st = (ceReply r st 0 0 0, c) := by
  rw [Chip.ceNo, if_neg auth, if_neg fresh]

/-- Where the output of a job begins. -/
def Chip.ceDst (c : Chip) (r : EngReq) : Nat := c.bobBase (getBits (nth 0 r.words 0) 24 24) + getBits (nth 0 r.words 1) 32 16

/-- The outcome of a job whose output has been written. -/
def Chip.ceGiven (u : Chip) (now : Nat) (r : EngReq) (out : List Byte) (fl n : Nat) : List Word × Chip :=
  (ceReply r Code.OK fl out.length n, u.ceDone now (getBits (nth 0 r.words 1) 16 16) r.slice)

theorem Chip.ceOut_given (taken : commit c = some k) (stored : k.bobStore now (c.ceDst r) out r.slice = (true, u)) :
    c.ceOut now r out fl n commit = u.ceGiven now r out fl n := by
  unfold Chip.ceDst at stored
  rw [Chip.ceOut, taken]
  dsimp only
  rw [stored]
  exact if_pos rfl

theorem Chip.ceOut_absent (taken : commit c = none) : c.ceOut now r out fl n commit = (ceReply r Code.ABSENT 0 0 0, c) := by
  rw [Chip.ceOut, taken]
  exact Chip.ceNo_uncounted (by decide) (by decide)

end

/-! ### A job whose context is at hand (R308) -/

section
variable {c d e : Chip} {now : Nat} {r : EngReq} {l : CeLine} {src : List Byte}

theorem Chip.cipherJob_bad (bad : ceBad r none = true ∨ c.ceSrcFits r = false) :
    c.cipherJob now r = (ceReply r Code.BAD_ARGUMENT 0 0 0, c) :=
  (if_pos (by simpa using bad)).trans (Chip.ceNo_uncounted (by decide) (by decide))

theorem Chip.cipherJob_ready (words : ceBad r none = false) (fits : c.ceSrcFits r = true)
    (ctx : c.ctxGet now (getBits (nth 0 r.words 0) 0 20) r.slice = (Code.OK, some l, d)) (shape : ceBad r (some l) = false)
    (room : d.ceDstFits r ((l.outLen (getBits (nth 0 r.words 1) 16 16)).getD 0) = true) (read : d.ceRead now r = (false, src, e)) :
    c.cipherJob now r = if !e.ceBound r then e.ceNo r Code.NOT_BOUND else e.ceRun now r l src := by
  refine (if_neg (by simp [words, fits])).trans ?_
  rw [ctx]
  have sound : ¬(decide (Code.OK = Code.BAD_ARGUMENT) || ceBad r (some l) || !d.ceDstFits r ((l.outLen (getBits (nth 0 r.words 1) 16 16)).getD 0)) =
      true := by
    rw [shape, room]
    decide
  refine (if_neg sound).trans <| (if_neg (show ¬Code.OK = Code.ABSENT by decide)).trans ?_
  rw [read]
  exact if_neg (by decide)

theorem Chip.ceRun_foreign (program : r.system = false) (other : hdrOwner l.hdr ≠ r.slice) :
    e.ceRun now r l src = (ceReply r Code.FOREIGN_CONTEXT 0 0 0, e.raise now Flt.CE_FOREIGN_CONTEXT 23 48 r.slice 0) := by
  have check : e.ctxCheck now l (r.chan == 641) r.system r.slice =
      (Code.FOREIGN_CONTEXT, e.raise now Flt.CE_FOREIGN_CONTEXT 23 48 r.slice 0) := if_pos (by simp [program, other])
  rw [Chip.ceRun, check]
  exact (if_pos (by decide)).trans (Chip.ceNo_uncounted (by decide) (by decide))

section
variable (own : r.system = true ∨ hdrOwner l.hdr = r.slice)
include own

theorem Chip.ceRun_mismatch (other : suiteXts (hdrSuite l.hdr) ≠ (r.chan == 641)) :
    e.ceRun now r l src = (ceReply r Code.SUITE_MISMATCH 0 0 0, e) := by
  have check : e.ctxCheck now l (r.chan == 641) r.system r.slice = (Code.SUITE_MISMATCH, e) :=
    (if_neg (by simpa [Classical.or_iff_not_imp_left] using own)).trans (if_pos (by simpa using other))
  rw [Chip.ceRun, check]
  exact (if_pos (by decide)).trans (Chip.ceNo_uncounted (by decide) (by decide))

variable (suite : suiteXts (hdrSuite l.hdr) = (r.chan == 641))
include suite

theorem Chip.ceRun_lost (lost : l.lost = true) : e.ceRun now r l src = (ceReply r Code.SEQ_LOST 0 0 0, e) := by
  have check : e.ctxCheck now l (r.chan == 641) r.system r.slice = (Code.SEQ_LOST, e) :=
    (if_neg (by simpa [Classical.or_iff_not_imp_left] using own)).trans <| (if_neg (by simp [suite])).trans (if_pos lost)
  rw [Chip.ceRun, check]
  exact (if_pos (by decide)).trans (Chip.ceNo_uncounted (by decide) (by decide))

variable (kept : l.lost = false)
include kept

theorem Chip.ceRun_checked :
    e.ceRun now r l src =
      if suiteXts (hdrSuite l.hdr) then e.ceOut now r (l.xts (hdrOpen l.hdr) (nth 0 r.words 3).toNat src) 0 0 some
      else if hdrOpen l.hdr then e.ceOpen now r l src
      else e.ceSeal now r l src := by
  have check : e.ctxCheck now l (r.chan == 641) r.system r.slice = (Code.OK, e) :=
    (if_neg (by simpa [Classical.or_iff_not_imp_left] using own)).trans <| (if_neg (by simp [suite])).trans (if_neg (by simp [kept]))
  rw [Chip.ceRun, check]
  exact if_neg (by decide)

theorem Chip.ceRun_xts (xts : suiteXts (hdrSuite l.hdr) = true) :
    e.ceRun now r l src = e.ceOut now r (l.xts (hdrOpen l.hdr) (nth 0 r.words 3).toNat src) 0 0 some :=
  (Chip.ceRun_checked own suite kept).trans (if_pos xts)

variable (tagged : suiteXts (hdrSuite l.hdr) = false)
include tagged

theorem Chip.ceRun_seals (dir : hdrOpen l.hdr = false) : e.ceRun now r l src = e.ceSeal now r l src :=
  (Chip.ceRun_checked own suite kept).trans <| (if_neg (by simp [tagged])).trans (if_neg (by simp [dir]))

theorem Chip.ceRun_opens (dir : hdrOpen l.hdr = true) : e.ceRun now r l src = e.ceOpen now r l src :=
  (Chip.ceRun_checked own suite kept).trans <| (if_neg (by simp [tagged])).trans (if_pos dir)

end
end

/-! ### Seals and opens (R305, R307) -/

section
variable {c k u : Chip} {now : Nat} {r : EngReq} {l : CeLine} {src : List Byte}

theorem Chip.ceSeal_exhausted (spent : seqMax l.hdr < l.seq) : c.ceSeal now r l src = (ceReply r Code.SEQ_EXHAUSTED 0 0 0, c) :=
  (if_pos spent).trans (Chip.ceNo_uncounted (by decide) (by decide))

theorem Chip.ceSeal_takes (left : l.seq ≤ seqMax l.hdr) :
    c.ceSeal now r l src =
      c.ceOut now r (l.sealed l.seq (getBits (nth 0 r.words 0) 48 8) src) 0 l.seq (Chip.advance l { l with seq := l.seq + 1 } l.seq) :=
  if_neg (Nat.not_lt.mpr left)

theorem Chip.ceOpen_exhausted (tls : suiteTls (hdrSuite l.hdr) = true) (spent : seqMax l.hdr < l.seq) :
    c.ceOpen now r l src = (ceReply r Code.SEQ_EXHAUSTED 0 0 0, c) :=
  (if_pos (by simp [tls, spent])).trans (Chip.ceNo_uncounted (by decide) (by decide))

section
variable (left : suiteTls (hdrSuite l.hdr) = true → l.seq ≤ seqMax l.hdr)
include left

theorem Chip.ceOpen_numbered :
    c.ceOpen now r l src =
      match l.opened src with
      | .parse => c.ceNo r Code.PARSE
      | .bad => c.ceNo r Code.AUTH_FAIL
      | .ok pt fl n =>
        if !c.ceDstFits r pt.length then c.ceNo r Code.BAD_ARGUMENT
        else if suiteTls (hdrSuite l.hdr) then c.ceOut now r pt fl n (Chip.advance l { l with seq := l.seq + 1 } n)
        else if l.replayed n then c.ceNo r Code.REPLAY
        else c.ceOut now r pt fl n (Chip.advance l (l.accept n) n) :=
  if_neg (by simpa using left)

theorem Chip.ceOpen_parse (found : l.opened src = .parse) : c.ceOpen now r l src = (ceReply r Code.PARSE 0 0 0, c) := by
  rw [Chip.ceOpen_numbered left, found]
  exact Chip.ceNo_uncounted (by decide) (by decide)

theorem Chip.ceOpen_bad (found : l.opened src = .bad) : c.ceOpen now r l src = (ceReply r Code.AUTH_FAIL 0 0 0, c.inc A.CE_AUTH_FAIL) := by
  rw [Chip.ceOpen_numbered left, found]
  rfl

variable {pt : List Byte} {fl n : Nat} (found : l.opened src = .ok pt fl n) (room : c.ceDstFits r pt.length = true)
include found room

theorem Chip.ceOpen_tls (tls : suiteTls (hdrSuite l.hdr) = true) :
    c.ceOpen now r l src = c.ceOut now r pt fl n (Chip.advance l { l with seq := l.seq + 1 } n) := by
  rw [Chip.ceOpen_numbered left, found]
  exact (if_neg (by simp [room])).trans (if_pos tls)

variable (windowed : suiteTls (hdrSuite l.hdr) = false)
include windowed

theorem Chip.ceOpen_replayed (seen : l.replayed n = true) : c.ceOpen now r l src = (ceReply r Code.REPLAY 0 0 0, c.inc A.CE_REPLAY) := by
  rw [Chip.ceOpen_numbered left, found]
  exact (if_neg (by simp [room])).trans <| (if_neg (by simp [windowed])).trans (if_pos seen)

theorem Chip.ceOpen_new (new : l.replayed n = false) : c.ceOpen now r l src = c.ceOut now r pt fl n (Chip.advance l (l.accept n) n) := by
  rw [Chip.ceOpen_numbered left, found]
  exact (if_neg (by simp [room])).trans <| (if_neg (by simp [windowed])).trans (if_neg (by simp [new]))

end
end

/-! ### The sequence state of a context (R304, R305) -/

theorem Chip.writeBound_eq {c : Chip} {l : CeLine} {e w p : Nat} (area : c.ctxWord l.ctx = some (e, w)) :
    c.writeBound l p =
      if c.qReady (qdrChannel e (w + 3)) then
        some ({ l with bound := some (min p (seqMax l.hdr + 1)) },
          ((c.writeQdr e (w + 3) (word3 (min p (seqMax l.hdr + 1)) (if hdrOpen l.hdr then allOnes else 0) false)).inc A.CE_CTX_BOUNDS).putLine
            { l with bound := some (min p (seqMax l.hdr + 1)) })
      else none := by
  rw [Chip.writeBound, area]

section
variable {c : Chip} {l l' : CeLine} {n : Nat}

theorem Chip.advance_below {p : Nat} (bound : l.bound = some p) (below : n < p) : Chip.advance l l' n c = some (c.putLine l') := by
  rw [Chip.advance, bound]
  exact if_pos below

/-- The least bound that a number beyond the old one asks for. -/
def CeLine.reach (l : CeLine) (n : Nat) : Nat := if l.bound.isSome then n else max n l.seq

theorem Chip.advance_beyond (beyond : ∀ p, l.bound = some p → p ≤ n) :
    Chip.advance l l' n c = (c.writeBound l' (l.reach n + c.ckpt)).map (·.2) := by
  rw [Chip.advance, CeLine.reach]
  cases bound : l.bound with
  | none => rfl
  | some p => exact if_neg (Nat.not_lt.mpr (beyond p bound))

theorem CeLine.replayed_iff (window : 1 ≤ hdrWin l.hdr) :
    l.replayed n = true ↔ n = 0 ∨ n + hdrWin l.hdr ≤ l.seq ∨ (n ≤ l.seq ∧ (hdrWin l.hdr = 1 ∨ l.bits.testBit (l.seq - n) = true)) := by
  have bit : natBits l.bits (l.seq - n) 1 = 1 ↔ l.bits.testBit (l.seq - n) = true := by
    rw [natBits, Nat.testBit_eq_decide_div_mod_eq, decide_eq_true_eq, Nat.shiftRight_eq_div_pow, pow_one]
  rw [CeLine.replayed]
  simp only [if_neg (Nat.one_le_iff_ne_zero.mp window), Bool.or_eq_true, Bool.and_eq_true, beq_iff_eq, decide_eq_true_eq, bit, or_assoc]

end

end Sys2Proof.Machine

/-! PROOFS. The operations of CE_CTX_CMD and the removal of a context (R300, R302, R303). -/

namespace Sys2Proof.Machine

/-! ### The end of an operation -/

theorem Chip.rd_blobsCleared (c : Chip) (i : Nat) : ∀ n, i < n →
    ((List.range n).foldl (fun (c : Chip) k => c.wr (A.CE_CTX_BLOB k) 0) c).rd (A.CE_CTX_BLOB i) = 0
  | 0, below => absurd below (Nat.not_lt_zero i)
  | n + 1, below => by
    rw [List.range_succ, List.foldl_append, List.foldl_cons, List.foldl_nil]
    rcases Nat.lt_succ_iff_lt_or_eq.mp below with earlier | rfl
    · rw [Chip.rd_wr_ne _ _ (by unfold A.CE_CTX_BLOB; omega)]
      exact Chip.rd_blobsCleared c i n earlier
    · exact Chip.rd_wr_self _ _ _

theorem Chip.rd_ceCmdEnd_blob (c : Chip) (st : Status) {i : Nat} (blob : i < 9) : (c.ceCmdEnd st).rd (A.CE_CTX_BLOB i) = 0 := by
  have apart : A.CE_CTX_BLOB i ≠ A.CE_CTX_STAT + 8 * 0 := by
    unfold A.CE_CTX_BLOB A.CE_CTX_STAT
    omega
  exact (Chip.rd_set_ne _ F.CE_CTX_STAT_BUSY _ apart).trans <|
    (Chip.rd_set_ne _ F.CE_CTX_STAT_STATUS _ apart).trans (Chip.rd_blobsCleared c i 9 blob)

theorem Chip.get_ceCmdEnd_status (c : Chip) {st : Status} (code : st < 2 ^ 16) :
    (c.ceCmdEnd st).get A.CE_CTX_STAT F.CE_CTX_STAT_STATUS = st :=
  (Chip.get_set_apart _ _ fun _ => .inl (by decide)).trans <|
    (Chip.get_set_self _ _ _ (by decide)).trans (Nat.mod_eq_of_lt code)

theorem Chip.ce_set (c : Chip) (a : Nat) (f : Fld) (v : Nat) : (c.set a f v).ce = c.ce := rfl

theorem Chip.ceCmdEnd_ce (c : Chip) (st : Status) : (c.ceCmdEnd st).ce = c.ce := by
  unfold Chip.ceCmdEnd Chip.setFlag
  rw [Chip.ce_set, Chip.ce_set]
  exact foldl_keep Chip.ce (fun (c : Chip) i => c.wr (A.CE_CTX_BLOB i) 0) (fun _ _ => rfl) _ _

/-! ### FLUSH (R303) -/

theorem Chip.ce_writeQdr (c : Chip) (e w : Nat) (bs : List Byte) : (c.writeQdr e w bs).ce = c.ce := rfl

/-- Writing the exact state of a line leaves the Cipher Engine, and names the same context. -/
theorem Chip.writeExact_keeps {c d : Chip} {l l' : CeLine} (written : c.writeExact l = some (l', d)) : d.ce = c.ce ∧ l'.ctx = l.ctx := by
  unfold Chip.writeExact at written
  split at written
  · cases written
    exact ⟨rfl, rfl⟩
  · split at written
    · cases written
    · split at written
      · obtain ⟨rfl, rfl⟩ := Prod.mk.inj (Option.some.inj written)
        exact ⟨Chip.ce_writeQdr .., rfl⟩
      · cases written

/-- FLUSH at one cached line. -/
def Chip.flushLine (a : Status × Chip) (l : CeLine) : Status × Chip :=
  match a.2.writeExact l with
  | some (l', d) => (a.1, d.setCe { d.ce with cache := d.ce.cache.map fun x => if x.ctx = l'.ctx then l' else x })
  | none => (Code.ABSENT, a.2)

theorem Chip.ctxFlush_eq (c : Chip) :
    c.ctxFlush = (c.ce.cache.foldl Chip.flushLine (Code.OK, c)).2.ceCmdEnd (c.ce.cache.foldl Chip.flushLine (Code.OK, c)).1 := rfl

theorem Chip.flushLine_contexts (a : Status × Chip) (l : CeLine) :
    (Chip.flushLine a l).2.ce.cache.map (·.ctx) = a.2.ce.cache.map (·.ctx) := by
  unfold Chip.flushLine
  split
  next l' d written =>
    obtain ⟨kept, -⟩ := Chip.writeExact_keeps written
    rw [← kept]
    show (d.ce.cache.map fun x => if x.ctx = l'.ctx then l' else x).map (·.ctx) = _
    rw [List.map_map]
    refine List.map_congr_left fun x _ => ?_
    show (if x.ctx = l'.ctx then l' else x).ctx = x.ctx
    split
    next same => exact same.symm
    next => rfl
  next => rfl

theorem Chip.ctxFlush_contexts (c : Chip) : c.ctxFlush.ce.cache.map (·.ctx) = c.ce.cache.map (·.ctx) := by
  rw [Chip.ctxFlush_eq, Chip.ceCmdEnd_ce]
  exact foldl_keep (fun a : Status × Chip => a.2.ce.cache.map (·.ctx)) Chip.flushLine Chip.flushLine_contexts c.ce.cache (Code.OK, c)

theorem Chip.ctxFlush_none {c : Chip} (none_ : c.ce.cache = []) : c.ctxFlush = c.ceCmdEnd Code.OK := by
  rw [Chip.ctxFlush_eq, none_]
  rfl

theorem Chip.ctxFlush_one {c : Chip} {l : CeLine} {e w : Nat} (one : c.ce.cache = [l]) (area : c.ctxWord l.ctx = some (e, w))
    (tagged : suiteXts (hdrSuite l.hdr) = false) (kept : l.lost = false) (ready : c.qReady (qdrChannel e (w + 3)) = true) :
    let u := c.writeQdr e (w + 3) (word3 l.seq l.bits true)
    c.ctxFlush = (u.setCe { u.ce with cache := u.ce.cache.map fun x => if x.ctx = l.ctx then { l with bound := none } else x }).ceCmdEnd
      Code.OK := by
  intro u
  have written : c.writeExact l = some ({ l with bound := none }, u) := by
    unfold Chip.writeExact
    rw [tagged, kept, area]
    exact (if_neg (by decide)).trans (if_pos ready)
  have step : Chip.flushLine (Code.OK, c) l =
      (Code.OK, u.setCe { u.ce with cache := u.ce.cache.map fun x => if x.ctx = l.ctx then { l with bound := none } else x }) := by
    unfold Chip.flushLine
    dsimp only
    rw [written]
  rw [Chip.ctxFlush_eq, one, List.foldl_cons, List.foldl_nil, step]

/-! ### INSTALL (R302) -/

section
variable {c u : Chip} {now n ktk e w : Nat}

theorem Chip.ctxInstall_bad (bad : stagedBad (c.rd A.CE_CTX_HDR) (c.rd A.CE_CTX_ID) (c.rd A.CE_CTX_SEQ).toNat = true ∨ c.ctxWord n = none) :
    c.ctxInstall now n ktk = c.ceCmdEnd Code.BAD_ARGUMENT := by
  unfold Chip.ctxInstall
  dsimp only
  split
  · rfl
  next staged => rw [bad.resolve_left staged]

/-- The key-transport key `ktk`. -/
def Chip.transportKey (c : Chip) (ktk : Nat) : List Byte := mget [] c.cmd.keys (16 + ktk)

/-- The staged key blob. -/
def Chip.stagedBlob (c : Chip) : List Byte := ofWords ((List.range 9).map fun i => c.rd (A.CE_CTX_BLOB i))

/-- The staged word 0 [63:0], with VALID = 1. -/
def Chip.stagedHdr (c : Chip) : Word := (c.rd A.CE_CTX_HDR &&& ~~~ 0x10#64) ||| 0x10#64

/-- The adapter with context `n` written by INSTALL, before the operation ends. -/
def Chip.ctxInstalled (u : Chip) (n e w : Nat) (h id : Word) (seq : Nat) (keys : List Byte) : Chip :=
  let free := (Chip.freshBytes 10 u).1
  let w0 := leBytes 8 h.toNat ++ leBytes 8 id.toNat ++ free.take 16
  let w1 := (free.drop 16).take 32
  let w2 := (free.drop 48).take 32
  let v := (((((Chip.freshBytes 10 u).2.writeQdr e w w0).writeQdr e (w + 1) w1).writeQdr e (w + 2) w2).writeQdr e (w + 3) (word3 seq 0 true))
  v.setCe { v.ce with wraps := ⟨w0 ++ w1 ++ w2, keys.take 32, keys.drop 32⟩ :: v.ce.wraps, bad := mset 0 v.ce.bad n 0,
                      cache := v.ce.cache.filter fun l => l.ctx != n }

/-- Whether the words that stand for context `n` bar INSTALL. -/
def QdrRead.bars (q : QdrRead) (u : Chip) (n : Nat) : Bool :=
  match q with
  | .ok bs => getBits (leWord bs) 4 1 == 1 && mget 0 u.ce.bad n != 2
  | _ => false

section
variable (staged : stagedBad (c.rd A.CE_CTX_HDR) (c.rd A.CE_CTX_ID) (c.rd A.CE_CTX_SEQ).toNat = false) (area : c.ctxWord n = some (e, w))
  (ready : c.ctxReady e w = true)
include staged area ready

theorem Chip.ctxInstall_reached :
    c.ctxInstall now n ktk =
      match if (c.transportKey ktk).length = 32 then keyUnwrap (c.transportKey ktk) c.stagedBlob else none with
      | none => c.ceCmdEnd Code.UNWRAP_FAIL
      | some keys =>
        match Chip.readQdrs now e 0 4 w c with
        | (.absent, u) => u.ceCmdEnd Code.ABSENT
        | (old, u) =>
          if old.bars u n then u.ceCmdEnd Code.CTX_BUSY
          else (u.ctxInstalled n e w c.stagedHdr (c.rd A.CE_CTX_ID) (c.rd A.CE_CTX_SEQ).toNat keys).ceCmdEnd Code.OK := by
  refine (if_neg (by simp [staged])).trans ?_
  rw [area]
  exact (if_neg (by simp [ready])).trans rfl

theorem Chip.ctxInstall_unwrapFail (fails : (c.transportKey ktk).length ≠ 32 ∨ keyUnwrap (c.transportKey ktk) c.stagedBlob = none) :
    c.ctxInstall now n ktk = c.ceCmdEnd Code.UNWRAP_FAIL := by
  have none_ : (if (c.transportKey ktk).length = 32 then keyUnwrap (c.transportKey ktk) c.stagedBlob else none) = none := by
    split
    next whole => exact fails.resolve_left (not_not_intro whole)
    next => rfl
  rw [Chip.ctxInstall_reached staged area ready, none_]

variable {keys : List Byte} (whole : (c.transportKey ktk).length = 32) (opens : keyUnwrap (c.transportKey ktk) c.stagedBlob = some keys)
include whole opens

theorem Chip.ctxInstall_read {q : QdrRead} (read : Chip.readQdrs now e 0 4 w c = (q, u)) (there : q ≠ .absent) :
    c.ctxInstall now n ktk =
      if q.bars u n then u.ceCmdEnd Code.CTX_BUSY
      else (u.ctxInstalled n e w c.stagedHdr (c.rd A.CE_CTX_ID) (c.rd A.CE_CTX_SEQ).toNat keys).ceCmdEnd Code.OK := by
  rw [Chip.ctxInstall_reached staged area ready, if_pos whole, opens]
  dsimp only
  rw [read]
  cases q with
  | absent => exact absurd rfl there
  | poisoned => rfl
  | ok bs => rfl

end
end

end Sys2Proof.Machine

/-! PROOFS. Writes of CE_CTX_CMD, the removal of a context, and the Cipher Engine as a whole (R300-R309). -/

namespace Sys2Proof.Machine

/-! ### REMOVE, READ_STATE and the end of a removal (R302, R303, R319) -/

section
variable {c d : Chip} {now n e w : Nat}

theorem Chip.ctxRemove_bad (none_ : c.ctxWord n = none) : c.ctxRemove now n = c.ceCmdEnd Code.BAD_ARGUMENT := if_pos (by simp [none_])

theorem Chip.ctxRemove_noted {p : Nat × Nat} (area : c.ctxWord n = some p) :
    c.ctxRemove now n = (c.setCe { c.ce with removes := c.ce.removes ++ [(n, now)] }).ceCmdEnd Code.OK := if_neg (by simp [area])

theorem Chip.ctxState_bad (none_ : c.ctxWord n = none) : c.ctxState now n = c.ceCmdEnd Code.BAD_ARGUMENT := by
  rw [Chip.ctxState, none_]

theorem Chip.ctxState_cached {p : Nat × Nat} {l : CeLine} (area : c.ctxWord n = some p)
    (cached : c.ce.cache.find? (fun l => l.ctx == n) = some l) :
    c.ctxState now n = (c.wr A.CE_CTX_STATE (BitVec.ofNat 64 l.seq)).ceCmdEnd Code.OK := by
  rw [Chip.ctxState, area]
  dsimp only
  rw [cached]

theorem Chip.ctxState_read {bs : List Byte} (area : c.ctxWord n = some (e, w)) (none_ : c.ce.cache.find? (fun l => l.ctx == n) = none)
    (read : c.readQdr now e (w + 3) 0 = (.ok bs, d)) : c.ctxState now n = (d.wr A.CE_CTX_STATE (leWord bs)).ceCmdEnd Code.OK := by
  rw [Chip.ctxState, area]
  dsimp only
  rw [none_, read]

/-- The adapter with context `n` neither cached nor to be removed. -/
def Chip.ctxDropped (c : Chip) (n : Nat) : Chip :=
  c.setCe { c.ce with removes := c.ce.removes.filter fun q => q.1 != n, cache := c.ce.cache.filter fun l => l.ctx != n }

section
variable {t : Nat} (asked : c.ce.removes.find? (fun p => p.1 == n) = some (n, t)) (up : c.up 40 = true)
include asked

theorem Chip.removeEffect_waits (jobs : c.ctxJobs n t = true) : c.removeEffect now n = c := by
  rw [Chip.removeEffect, asked]
  exact if_pos (by simp [jobs])

include up

theorem Chip.removeEffect_done {old : List Byte} (idle : c.ctxJobs n t = false) (area : (c.ctxDropped n).ctxWord n = some (e, w))
    (ready : (c.ctxDropped n).ctxReady e w = true) (read : (c.ctxDropped n).readQdr now e w 0 = (.ok old, d)) :
    c.removeEffect now n =
      (((d.writeQdr e w (leBytes 8 ((leWord old) &&& ~~~ 0x10#64).toNat ++ old.drop 8)).writeQdr e (w + 1) (leBytes 32 0)).writeQdr
        e (w + 2) (leBytes 32 0)).ceCmdEnd Code.OK := by
  unfold Chip.ctxDropped at area ready read
  rw [Chip.removeEffect, asked]
  refine (if_neg (by simp [up, idle])).trans ?_
  dsimp only
  rw [area]
  refine (if_neg (by simp [ready])).trans ?_
  rw [read]

end
end

/-! ### The write of the register (Table 11-1) -/

/-- CE_CTX_CMD. -/
def ceCmdRow : RegRow := ⟨0xB0000180, [], 1, [⟨0, 0, 20, .wo, 0, true⟩, ⟨0, 20, 3, .wo, 0, true⟩, ⟨0, 24, 2, .wo, 0, true⟩]⟩

theorem ceCmdRow_stands : ceCmdRow.Stands A.CE_CTX_CMD := ⟨by decide, by decide, by decide, by decide, by decide +kernel⟩

theorem Chip.hook_ctxCmd (c d : Chip) (now : Nat) {v : Word} (op : within 1 4 (getBits v 20 3) = true) :
    c.hook d now ⟨ceCmdRow, A.CE_CTX_CMD, [(0, v)]⟩ = (Code.OK, d.ctxCmd now v) := by
  refine (Chip.hook_ce (show A.CE_CTX_CMD / 0x10000000 = 11 by decide)).trans ?_
  unfold Chip.ceHook
  dsimp only
  rw [if_neg (show ¬ceCmdRow.base = A.CE_CTRL by decide), if_pos (show ceCmdRow.base = A.CE_CTX_CMD by decide)]
  exact if_pos op

/-- The fields of a command word: an operation on a context, with a key-transport key. -/
theorem getBits_ctxCmd {n op ktk : Nat} (context : n < 2 ^ 20) (code : op < 8) (key : ktk < 4) :
    getBits (BitVec.ofNat 64 (n + op * 2 ^ 20 + ktk * 2 ^ 24)) 0 20 = n ∧ getBits (BitVec.ofNat 64 (n + op * 2 ^ 20 + ktk * 2 ^ 24)) 20 3 = op ∧
      getBits (BitVec.ofNat 64 (n + op * 2 ^ 20 + ktk * 2 ^ 24)) 24 2 = ktk := by
  have val : (BitVec.ofNat 64 (n + op * 2 ^ 20 + ktk * 2 ^ 24)).toNat = n + op * 2 ^ 20 + ktk * 2 ^ 24 := by
    rw [BitVec.toNat_ofNat]
    omega
  rw [getBits, getBits, getBits, val, Nat.shiftRight_eq_div_pow, Nat.shiftRight_eq_div_pow, Nat.shiftRight_eq_div_pow]
  omega

/-- The adapter once CE_CTX_CMD has taken the word `v`. -/
def State.ctxTold (s : State) (v : Nat) : Chip := s.found.filled s.time A.CE_CTX_CMD [BitVec.ofNat 64 v]

section
variable {s : State} (hw : s.writable A.CE_CTX_CMD = true) {ctx : BitVec 20}
include hw

theorem State.exec_ctxCmd {i : Instr} {n op ktk : Nat} {d : Chip} (context : n < 2 ^ 20) (code : op < 8) (key : ktk < 4)
    (known : within 1 4 op = true)
    (run : exec i s = State.on s fun now c => c.regWrite now A.CE_CTX_CMD [BitVec.ofNat 64 (n + op * 2 ^ 20 + ktk * 2 ^ 24)])
    (rule : (s.ctxTold (n + op * 2 ^ 20 + ktk * 2 ^ 24)).ctxCmd s.time (BitVec.ofNat 64 (n + op * 2 ^ 20 + ktk * 2 ^ 24)) = d) :
    exec i s = s.wrote Code.OK d := by
  obtain ⟨-, operation, -⟩ := getBits_ctxCmd context code key
  exact State.exec_stands ceCmdRow_stands (j := 0) run hw (List.cons_ne_nil _ _) (Nat.le_refl 1)
    ((Chip.hook_ctxCmd _ _ _ (operation.symm ▸ known)).trans (congrArg (Prod.mk Code.OK) rule))

theorem State.exec_install {ktk : Fin 4} {d : Chip}
    (rule : (s.ctxTold (ctx.toNat + 2 ^ 20 + ktk.val * 2 ^ 24)).ctxInstall s.time ctx.toNat ktk = d) :
    exec (.install ctx ktk) s = s.wrote Code.OK d := by
  obtain ⟨context, operation, key⟩ := getBits_ctxCmd (op := 1) ctx.isLt (by decide) ktk.isLt
  refine State.exec_ctxCmd hw (op := 1) ctx.isLt (by decide) ktk.isLt rfl rfl ?_
  unfold Chip.ctxCmd
  rw [context, operation, key]
  exact rule

theorem State.exec_remove {d : Chip} (rule : (s.ctxTold (ctx.toNat + 2 * 2 ^ 20)).ctxRemove s.time ctx.toNat = d) :
    exec (.remove ctx) s = s.wrote Code.OK d := by
  obtain ⟨context, operation, -⟩ := getBits_ctxCmd (op := 2) (ktk := 0) ctx.isLt (by decide) (by decide)
  refine State.exec_ctxCmd hw (op := 2) (ktk := 0) ctx.isLt (by decide) (by decide) rfl rfl ?_
  unfold Chip.ctxCmd
  rw [context, operation]
  exact rule

theorem State.exec_ctxFlush {d : Chip} (rule : (s.ctxTold (3 * 2 ^ 20)).ctxFlush = d) : exec .ctxFlush s = s.wrote Code.OK d :=
  State.exec_ctxCmd hw (n := 0) (op := 3) (ktk := 0) (by decide) (by decide) (by decide) rfl rfl rule

theorem State.exec_readState {d : Chip} (rule : (s.ctxTold (ctx.toNat + 4 * 2 ^ 20)).ctxState s.time ctx.toNat = d) :
    exec (.readState ctx) s = s.wrote Code.OK d := by
  obtain ⟨context, operation, -⟩ := getBits_ctxCmd (op := 4) (ktk := 0) ctx.isLt (by decide) (by decide)
  refine State.exec_ctxCmd hw (op := 4) (ktk := 0) ctx.isLt (by decide) (by decide) rfl rfl ?_
  unfold Chip.ctxCmd
  rw [context, operation]
  exact rule

end

/-! ### What its clauses are -/

/-- A cipher job on its channel. -/
theorem State.exec_cipherJob {s : State} {xts : Bool} {r : EngReq} {rest : List EngReq} {ws : List Word} {d : Chip}
    (hf : s.found.front (if xts then 641 else 640) (fun _ => true) = some (r, rest))
    (ran : Chip.cipherJob { s.found with reqs := rest } s.time r = (ws, d)) : exec (.cipherJob xts) s = s.replied r ws d :=
  State.exec_on rfl (Chip.serve_answers hf ran)

/-- Settles O40: each clause is one outcome of a job, of the sequence state, or of an operation. -/
theorem cipherEngine : Obligations.CipherEngine := by
  refine ⟨fun s xts r rest hf => ?jobs, ⟨?below, ?beyond, ?window, ?open_⟩, fun s ctx ktk => ?commands⟩
  case jobs =>
    intro c now run fails id dst gives
    have ends {ws : List Word} {d : Chip} (ran : c.cipherJob now r = (ws, d)) : run = s.replied r ws d := State.exec_cipherJob hf ran
    refine ⟨fun bad => ends (Chip.cipherJob_bad bad), fun l d src e words fits ctx shape room read => ?_⟩
    intro tagged mine
    have ready := Chip.cipherJob_ready words fits ctx shape room read
    refine ⟨fun unbound => ends (ready.trans ?_), fun bound => ?_⟩
    · exact (if_pos (by simp [unbound])).trans (Chip.ceNo_uncounted (by decide) (by decide))
    · have runs {ws : List Word} {u : Chip} (ran : e.ceRun now r l src = (ws, u)) : run = s.replied r ws u :=
        ends (ready.trans ((if_neg (by simp [bound])).trans ran))
      refine ⟨fun program other => runs (Chip.ceRun_foreign program other), fun own other => runs (Chip.ceRun_mismatch own other),
        fun own suite lost => runs (Chip.ceRun_lost own suite lost), ?_⟩
      have seals (m : mine) (tag : tagged) (dir : hdrOpen l.hdr = false) :=
        Chip.ceRun_seals (e := e) (now := now) (src := src) m.1 m.2.1 m.2.2 tag dir
      have opens (m : mine) (tag : tagged) (dir : hdrOpen l.hdr = true) :=
        Chip.ceRun_opens (e := e) (now := now) (src := src) m.1 m.2.1 m.2.2 tag dir
      refine ⟨fun u m untagged stored => runs ((Chip.ceRun_xts m.1 m.2.1 m.2.2 (by simpa [tagged] using untagged)).trans
          (Chip.ceOut_given rfl stored)),
        fun m tag dir spent => runs ((seals m tag dir).trans (Chip.ceSeal_exhausted spent)),
        fun m tag dir left => ⟨fun none_ => runs ((seals m tag dir).trans ((Chip.ceSeal_takes left).trans (Chip.ceOut_absent none_))),
          fun k u taken stored => runs ((seals m tag dir).trans ((Chip.ceSeal_takes left).trans (Chip.ceOut_given taken stored)))⟩,
        fun m tag dir tls spent => runs ((opens m tag dir).trans (Chip.ceOpen_exhausted tls spent)),
        fun m tag dir left => ⟨fun found => runs ((opens m tag dir).trans (Chip.ceOpen_parse left found)),
          fun found => runs ((opens m tag dir).trans (Chip.ceOpen_bad left found)), fun pt fl n found room => ⟨?_, ?_, ?_⟩⟩⟩
      · exact fun k u tls taken stored =>
          runs ((opens m tag dir).trans ((Chip.ceOpen_tls left found room tls).trans (Chip.ceOut_given taken stored)))
      · exact fun windowed seen => runs ((opens m tag dir).trans (Chip.ceOpen_replayed left found room windowed seen))
      · exact fun k u windowed new taken stored =>
          runs ((opens m tag dir).trans ((Chip.ceOpen_new left found room windowed new).trans (Chip.ceOut_given taken stored)))
  case below => exact fun l l' n p c bound below => Chip.advance_below bound below
  case beyond =>
    intro l l' n e w c area beyond b
    have bound := (Chip.advance_beyond (l' := l') (c := c) beyond).trans (congrArg (Option.map (·.2)) (Chip.writeBound_eq area))
    refine ⟨fun unready => bound.trans ?_, fun ready => bound.trans ?_⟩
    · rw [if_neg (by simp [unready])]
      rfl
    · rw [if_pos ready]
      rfl
  case window => exact fun l n window => CeLine.replayed_iff window
  case open_ => exact fun l n none_ => if_pos none_
  case commands =>
    intro now n cmd ends
    refine ⟨fun d st code => ⟨fun i blob => d.rd_ceCmdEnd_blob st blob, d.get_ceCmdEnd_status code⟩, Chip.ctxFlush_contexts,
      fun hw => ⟨?install, ?remove, ?flush, ?state⟩, fun t asked up => ⟨?waits, ?done⟩⟩
    case install =>
      intro d h id seq run kek
      refine ⟨fun bad => State.exec_install hw (Chip.ctxInstall_bad bad), fun e w staged area ready =>
        ⟨fun keys whole opens => ⟨?_, ?_⟩, ?_⟩⟩
      · intro bs u read valid bad
        refine State.exec_install hw ((Chip.ctxInstall_read staged area ready whole opens read (by simp)).trans (if_pos ?_))
        simp [QdrRead.bars, valid, bad]
      · intro q u read free_
        have there : q ≠ .absent := by
          obtain rfl | ⟨bs, rfl, -⟩ := free_ <;> exact nofun
        have open_ : q.bars u n = false := by
          obtain rfl | ⟨bs, rfl, invalid | poisoned⟩ := free_
          · rfl
          · simp [QdrRead.bars, invalid]
          · simp [QdrRead.bars, poisoned]
        exact State.exec_install hw ((Chip.ctxInstall_read staged area ready whole opens read there).trans (if_neg (by simp [open_])))
      · exact fun fails => State.exec_install hw (Chip.ctxInstall_unwrapFail staged area ready fails)
    case remove =>
      exact ⟨fun none_ => State.exec_remove hw (Chip.ctxRemove_bad none_), fun p area => State.exec_remove hw (Chip.ctxRemove_noted area)⟩
    case flush =>
      exact ⟨State.exec_ctxFlush hw rfl, fun none_ => State.exec_ctxFlush hw (Chip.ctxFlush_none none_),
        fun l e w one area tagged kept ready => State.exec_ctxFlush hw (Chip.ctxFlush_one one area tagged kept ready)⟩
    case state =>
      exact ⟨fun none_ => State.exec_readState hw (Chip.ctxState_bad none_),
        fun p l area cached => State.exec_readState hw (Chip.ctxState_cached area cached),
        fun e w bs u area none_ read => State.exec_readState hw (Chip.ctxState_read area none_ read)⟩
    case waits => exact fun jobs => State.exec_on rfl (Chip.removeEffect_waits asked jobs)
    case done =>
      intro e w old d idle u area ready read
      exact State.exec_on rfl (Chip.removeEffect_done asked up idle area ready read)

end Sys2Proof.Machine
